-- ==== Sys2Proof/Word.lean ====
section
/-! DEFINITION. The words the Taulant computes with: bytes, 64-bit registers, 56-bit physical
addresses, 12-bit pockets, 64-byte lines, and the finite index types of the package's units. -/

namespace Sys2Proof

/-- One byte of memory. -/
abbrev Byte := BitVec 8
/-- A 64-bit register value. -/
abbrev Word := BitVec 64
/-- A 56-bit physical address (R82). -/
abbrev Addr := BitVec 56
/-- A pocket number: 0 is the host world, 1-4095 tenants (R327). -/
abbrev Pocket := BitVec 12
/-- The 64 bytes of a cache line as one number, byte i at bits [8i+7:8i] (R136, R226). -/
abbrev LineData := BitVec 512
/-- Panel number 0-11 (R15). -/
abbrev Panel := Fin 12
/-- Saddle number 0-3 (R15). -/
abbrev Saddle := Fin 4

end Sys2Proof
end

