-- ==== Sys2Proof/Syntax.lean ====
section
/-! DEFINITION. The commands of the block: one constructor of `Instr` for each row of the
opcode table (the part's operations and events), with the operands the rules give them. -/

namespace Sys2Proof

/-- A hart: panel and logical core (R114: mhartid = 32p + c). -/
structure HartId where
  panel : Panel
  core  : Fin 20
  deriving DecidableEq, Repr

/-- mhartid (R114). -/
def HartId.num (h : HartId) : Nat := 32 * h.panel.val + h.core.val

/-- An LLC slice: saddle and slice number (R194). -/
structure SliceId where
  sd : Saddle
  k  : Fin 24
  deriving DecidableEq, Repr

/-- A panel port: panel and line half, address bit [6] (R171). -/
structure PortId where
  panel : Panel
  half  : Fin 2
  deriving DecidableEq, Repr

/-- A memory controller (R267, R268). -/
inductive Ctlr where
  | hbm (n : Fin 8)
  | ddr (n : Fin 12)
  deriving DecidableEq, Repr

/-- A unit with a fence at its port (R252). -/
inductive FenceUnit where
  | panel (p : Panel)
  | llc (s : Saddle)
  | mc (c : Ctlr)
  | pcie (k : Fin 8)
  | bob (n : Fin 64)
  deriving DecidableEq, Repr

/-- A unit that keeps a copy of the deadline values and a late-arrival counter (R57, R51). -/
inductive UnitId where
  | panel (p : Panel)
  | saddle (s : Saddle)
  | yoke | hrn | kpr | thm
  | pcie (k : Fin 8)
  | bob (n : Fin 64)
  deriving DecidableEq, Repr

/-- A pace sensor: of a panel or of a saddle's fabric (R40). -/
inductive PaceUnit where
  | panel (p : Panel)
  | saddle (s : Saddle)
  deriving DecidableEq, Repr

/-- One end of a Gusset: saddle `s` direction `d` (0 N, 1 E, 2 S, 3 W, 4 yoke), or the yoke end (R251). -/
inductive GusEnd where
  | saddle (s : Saddle) (d : Fin 5)
  | yoke (s : Saddle)
  deriving DecidableEq, Repr

/-- The requester of an access (R329): what the entry stop writes into SRC and POCKET. -/
inductive Agent where
  | hart (h : HartId)
  | keeper
  | loader
  | thimble
  | svcPort
  | device (port : Fin 8) (rid : BitVec 16)
  | bobbin (n : Fin 64) (c : Fin 8)
  | harness (p : Pocket)
  | debug
  | yoke      -- an interrupt controller or the IOMMU: pocket 0
  deriving DecidableEq, Repr

/-- How a CSR instruction writes (R103). `rs1Zero` of set and clear: rs1 is x0, or uimm is 0. -/
inductive CsrOp where
  | write
  | set (rs1Zero : Bool)
  | clear (rs1Zero : Bool)
  deriving DecidableEq, Repr

/-- Where a register write goes: a control-space offset, a service-port BAR, or a hart's CSR. -/
inductive RegTarget where
  | ctl (off : BitVec 32)
  | bar0 (off : BitVec 26)
  | bar2 (off : BitVec 20)
  | bar4 (off : BitVec 20)
  | csr (h : HartId) (num : BitVec 12) (op : CsrOp)
  deriving DecidableEq, Repr

/-- PBMT of the page of an access (R86). -/
inductive Pbmt where
  | pma | nc | io
  deriving DecidableEq, Repr

/-- Access size in bytes: 1, 2, 4, 8 or 16. -/
inductive Size where
  | b1 | b2 | b4 | b8 | b16
  deriving DecidableEq, Repr

/-- Bytes of an access. -/
def Size.bytes : Size → Nat
  | .b1 => 1 | .b2 => 2 | .b4 => 4 | .b8 => 8 | .b16 => 16

/-- A check-bit error met by an access (R160). -/
inductive CacheErr where
  | none | single | parity | double | tag
  deriving DecidableEq, Repr

/-- A stored-data error met by a controller read (R281): one symbol, or more. Of an error too
wide for the code, the spec promises no outcome: a miscorrected read, or none found (DDR5). -/
inductive MemErr where
  | none
  | corrected (symbol : BitVec 8) (words : BitVec 4)
  | uncorrectable (words : BitVec 4)
  | miscorrected (symbol : BitVec 8) (words : BitVec 4)
  | undetected (words : BitVec 4)
  deriving DecidableEq, Repr

/-- Atomic operation FUNC 0-9 of R185. -/
inductive AmoFunc where
  | swap | add | and | or | xor | min | max | minu | maxu | cas
  deriving DecidableEq, Repr

/-- Header fields of a request packet that its receiver acts on (R227). `commit` is false on a
path that does not commit (R94); `crcOk` and `secOk` are the receiver's flit checks (R232). -/
structure Hdr where
  src    : BitVec 8
  txid   : BitVec 12
  pocket : Pocket
  pa     : Addr
  nc     : Bool
  commit : Bool
  stream : Bool
  epoch  : Bool
  crcOk  : Bool
  deriving DecidableEq, Repr

/-- Response code of R230. -/
inductive Resp where
  | ok | decerr | viol | poison | domoff | late | node
  deriving DecidableEq, Repr

/-- State of a line in an L2 (R164). -/
inductive LState where
  | I | S | E | F | M
  deriving DecidableEq, Repr

/-- The answer an owner's port reports in FWD_DONE (R229). -/
inductive FwdKind where
  | forwarded | declined | lost
  deriving DecidableEq, Repr

/-- A Thread reply (R27): what the query returns for the die at `pos`. -/
structure ThreadReply where
  pos      : Fin 17
  stepping : BitVec 4
  fault    : Bool
  crcOk    : Bool
  coreMask : BitVec 20
  saddle   : BitVec 2
  site     : BitVec 2
  rot      : BitVec 2
  mirror   : Bool
  deriving DecidableEq, Repr

/-- Where a STALL deadline expired (R54). -/
inductive StallSite where
  | panel (p : Panel)
  | path (s : Saddle)
  | unit (u : FenceUnit)
  deriving DecidableEq, Repr

/-- Which wait an IOC expiry ends (R210, R112, R435). -/
inductive IocKind where
  | load | store | door | payload
  deriving DecidableEq, Repr

/-- A link end whose group handshake reached LINK (R246, R248). `failed` is the number of failed
wires the retest finds; `inHandshake` tells an expiry inside the width handshake (R249). -/
inductive LinkSite where
  | rivet (p : PortId)
  | gusset (e : GusEnd) (group : Fin 16) (failed : BitVec 7)
  | handshake (e : GusEnd)
  deriving DecidableEq, Repr

/-- A VREG wait: a panel's Vout write, or RAIL_GOOD at boot step 5 (R396, R471). -/
inductive VregSite where
  | panel (p : Panel)
  | railGood
  deriving DecidableEq, Repr

/-- Rounding mode field (R117): 0 RNE, 1 RTZ, 2 RDN, 3 RUP, 4 RMM, 7 dynamic. -/
abbrev Rm := BitVec 3

/-- Format of a converted floating-point operand. -/
inductive FFmt where
  | h | s | d | q
  deriving DecidableEq, Repr

/-- Integer width and sign of a conversion. -/
inductive IFmt where
  | w | wu | l | lu
  deriving DecidableEq, Repr

/-- Scalar binary128 operations of R119 and R120 (fmvh.x.q and fmvp.q.x have rows of their own). -/
inductive QOp where
  | add | sub | mul | div | sqrt
  | madd | msub | nmadd | nmsub
  | min | max | minm | maxm
  | sgnj | sgnjn | sgnjx
  | eq | lt | le | leq | ltq | cls
  | cvtFromF (f : FFmt) | cvtToF (f : FFmt)
  | cvtFromI (i : IFmt) | cvtToI (i : IFmt)
  | round | roundnx | li
  | mvXD | mvDX
  deriving DecidableEq, Repr

/-- The second source of a vector instruction: a vector register, an f register, an x register or
an immediate (R122, R125). -/
inductive VSrc where
  | v (n : Fin 32) | f (n : Fin 32) | x (n : Fin 32) | imm (n : BitVec 5) | none
  deriving DecidableEq, Repr

/-- Vector binary128 operations of R122, but for division (R129) and reductions (R126). `other`
stands for every instruction R122 does not list. -/
inductive VOp where
  | fadd | fsub | fmul | frsub
  | fmacc | fnmacc | fmsac | fnmsac | fmadd | fnmadd | fmsub | fnmsub
  | sgnj | sgnjn | sgnjx | min | max
  | mfeq | mfne | mflt | mfle | mfgt | mfge
  | cls
  | mvVF | mvFS | mvSF | mvVV | mergeVVM | fmergeVFM
  | slideup | slidedown | slide1up | slide1down
  | gather | gatherei16 | compress
  | other
  deriving DecidableEq, Repr

/-- Widening and narrowing operations at SEW 64 (R123). -/
inductive VWOp where
  | wadd | wsub | waddW | wsubW | wmul
  | wmacc | wnmacc | wmsac | wnmsac
  | cvtF | cvtX | cvtXU
  | ncvtF | ncvtRodF | ncvtX | ncvtXU | ncvtRtzX | ncvtRtzXU
  deriving DecidableEq, Repr

/-- Vector reductions of R122, R123 and R126. -/
inductive VRed where
  | osum | usum | min | max | wosum | wusum
  deriving DecidableEq, Repr

/-- Vector divide operations (R129). -/
inductive VDiv where
  | div | rdiv | sqrt
  deriving DecidableEq, Repr

/-- Addressing form of a vector access at EEW 128 (R124). -/
inductive VMem where
  | unit | faultFirst | strided (rs2 : Fin 32) | indexed (vs2 : Fin 32) (eew : Size) | whole (nr : Fin 4)
  deriving DecidableEq, Repr

/-- How vsetvl gives AVL and vtype (R121). -/
inductive VAvl where
  | reg (rs1 : Fin 32) | imm (uimm : BitVec 5)
  deriving DecidableEq, Repr

/-- What the Keeper answers to an entry or exit request (R111, R112). -/
inductive EntryVerdict where
  | accepted | refused | violation
  deriving DecidableEq, Repr

/-- State code of a POWER target unit (R404). -/
inductive PowerUnit where
  | panel (p : Panel)
  | llc (s : Saddle)
  | other (u : FenceUnit)
  deriving DecidableEq, Repr

/-- An assignable block (R350): panel, PCIe function, Bobbin channel, Harness queues, interrupt file. -/
inductive Block where
  | panel (p : Panel)
  | func (port : Fin 8) (rid : BitVec 16)
  | chan (n : Fin 64) (c : Fin 8)
  | cq (q : Fin 1024)
  | rq (r : Fin 1024)
  | file (h : HartId) (g : Fin 8)
  deriving DecidableEq, Repr

/-- A unit that drains: behind its fence (R253), or a block on its way to another world (R352). -/
inductive DrainUnit where
  | fence (u : FenceUnit)
  | block (b : Block)
  deriving DecidableEq, Repr

/-- The receiver of a GRANT or DATA: a hart, a slice's own agent or home, or an agent at the yoke
with its own transaction number (R176, R225). -/
inductive Peer where
  | hart (h : HartId)
  | home (h : SliceId)
  | yoke (eyelet : BitVec 8) (txid : BitVec 12)
  deriving DecidableEq, Repr

/-- Kind of a pocket range (R330). -/
inductive RangeKind where
  | priv | shared | pub
  deriving DecidableEq, Repr

/-- A Harness packet as a receiver acts on it (R314). -/
structure HPkt where
  srcNode   : BitVec 15
  dstNode   : BitVec 15
  srcPocket : Pocket
  dstPocket : Pocket
  ordered   : Bool
  vc        : Bool
  ttl       : BitVec 8
  budget    : BitVec 32
  tag       : BitVec 14
  len       : BitVec 13
  aop       : BitVec 4
  awidth    : Bool
  addr      : Addr
  resp      : Resp
  payload   : List Byte
  deriving DecidableEq, Repr

/-- What a HELLO carries (R301). -/
structure Hello where
  serial : Word
  node   : BitVec 15
  prov   : BitVec 15
  port   : BitVec 4
  level  : BitVec 4
  nonce  : Word
  deriving DecidableEq, Repr

/-- The request part of a management block (R304). -/
structure MgmtReq where
  newId  : BitVec 15
  serial : Word
  nonce  : Word
  tag    : BitVec 256
  deriving DecidableEq, Repr

/-- A sample of every Thimble input channel (R407). -/
structure Samples where
  vals : List Int
  deriving DecidableEq, Repr

/-- Result of a controller's training (R294). -/
inductive TrainRes where
  | ok (rate cap ranks dpc stack : BitVec 16)
  | fallback (rate cap ranks dpc stack : BitVec 16)
  | failed
  | absent
  deriving DecidableEq, Repr

/-- What a scrub line holds (R291). -/
inductive ScrubHold where
  | clean | correctable | uncorrectable (words : BitVec 4) | poisonOnly
  deriving DecidableEq, Repr

/-- Completion status of a PCIe completion (R368). -/
inductive CplStatus where
  | ok | ur | ca | poisoned
  deriving DecidableEq, Repr

/-- Register file named by a debug register access (R457). -/
inductive DbgReg where
  | gpr (n : Fin 32) | fpr (n : Fin 32) | csr (n : BitVec 12)
  deriving DecidableEq, Repr

/-- A door request's common fields: sending world, SEQ (R349). -/
structure DoorHdr where
  world : Pocket
  seq   : BitVec 32
  deriving DecidableEq, Repr

/-- The commands of the Taulant: one constructor for each row of the opcode table. -/
inductive Instr where
  -- registers, identity, time
  | registerWrite (a : Agent) (t : RegTarget) (size : Size) (amo : Bool) (v : Word)
  | strapRead (sd : Saddle) (pads : BitVec 8)
  | orientationDecode (p : Panel) (g0 g1 g2 g3 : BitVec 8)
  | threadDiscovery
  | threadFrameReturn (r : ThreadReply)
  | threadFrameTimeout (pos : Fin 17)
  | threadMgmtFrame (thimble : Bool) (pos : Fin 17)
  | brownOutPark (p : Panel) (mv : BitVec 12)
  | brownOutResume (p : Panel) (mv : BitVec 12)
  | paceWindowEnd (u : PaceUnit) (count : BitVec 16)
  | paceClr (u : PaceUnit)
  | refclkLoss (pos : Fin 17)
  | refclkRelock (pos : Fin 17)
  | replicaRealigned (pos : Fin 17)
  | lateCompletion (u : UnitId)
  | deadlineWrite (a : Agent) (k : Fin 11) (v : BitVec 40)
  | deadlineSet (u : UnitId) (k : Fin 11)
  -- expiries
  | stallExpiry (site : StallSite) (silent : BitVec 8)
  | homeExpiry (h : SliceId) (pa : Addr) (src : BitVec 8) (txid : BitVec 12)
  | iocExpiry (h : HartId) (k : IocKind)
  | refreshExpiry (c : Ctlr) (rank : Fin 4)
  | linkExpiry (l : LinkSite)
  | remoteExpiry (tag : BitVec 14)
  | dmaExpiry (n : Fin 64) (c : Fin 8)
  | thimbleExpiry (x : Samples) (rule : Fin 65) (acting : Bool)
  | vregExpiry (v : VregSite)
  | fenceExpiry (u : DrainUnit)
  | releaseExpiry (b : Block)
  -- pattern
  | patternLoad
  | loadPattern (seq : BitVec 16)
  | alter (seq : BitVec 16)
  | alterationComplete
  | doorAlter (d : DoorHdr) (pa : Addr) (len : BitVec 32)
  -- hart memory operations
  | load (h : HartId) (rd : Fin 32) (pa : Addr) (size : Size) (m : Pbmt) (spec stream : Bool) (err : CacheErr)
  | store (h : HartId) (pa : Addr) (size : Size) (m : Pbmt) (v : BitVec 128)
  | amo (h : HartId) (f : AmoFunc) (rd : Fin 32) (pa : Addr) (size : Size) (m : Pbmt) (op cmp : BitVec 128) (aq rl : Bool)
  | lr (h : HartId) (rd : Fin 32) (pa : Addr) (size : Size) (m : Pbmt) (aq rl : Bool)
  | sc (h : HartId) (rd : Fin 32) (pa : Addr) (size : Size) (m : Pbmt) (v : Word) (aq rl : Bool)
  | amocasQ (h : HartId) (rd rs2 : Fin 32) (pa : Addr) (m : Pbmt) (aq rl : Bool)
  | fence (h : HartId) (fm pred succ : BitVec 4)
  | fenceTso (h : HartId)
  | fenceI (h : HartId)
  | fenceComplete (h : HartId)
  -- waiting, speculation, maintenance
  | wfi (h : HartId)
  | interruptPending (h : HartId) (irq : Fin 64)
  | wfiTimeout (h : HartId)
  | pause (h : HartId)
  | pauseEnd (h : HartId)
  | wrsNto (h : HartId)
  | wrsSto (h : HartId)
  | wrsStoTimeout (h : HartId)
  | runAheadEntry (h : HartId)
  | prefetchR (h : HartId) (pa : Addr) (m : Pbmt) (stream : Bool)
  | prefetchI (h : HartId) (pa : Addr) (m : Pbmt)
  | prefetchW (h : HartId) (pa : Addr) (m : Pbmt) (stream : Bool)
  | cboClean (h : HartId) (pa : Addr) (m : Pbmt)
  | cboFlush (h : HartId) (pa : Addr) (m : Pbmt)
  | cboInval (h : HartId) (pa : Addr) (m : Pbmt)
  | cboZero (h : HartId) (pa : Addr) (m : Pbmt)
  -- wide arithmetic
  | binary128Arithmetic (h : HartId) (op : QOp) (rd rs1 rs2 rs3 : Fin 32) (rm : Rm)
  | fmvhXQ (h : HartId) (rd rs1 : Fin 32)
  | fmvpQX (h : HartId) (rd rs1 rs2 : Fin 32)
  | vsetvl (h : HartId) (rd : Fin 32) (a : VAvl) (vtypei : Word)
  | vectorBinary128 (h : HartId) (op : VOp) (vd vs2 : Fin 32) (src : VSrc) (vm : Bool)
  | vectorWideningBinary128 (h : HartId) (op : VWOp) (vd vs2 : Fin 32) (src : VSrc) (vm : Bool)
  | vectorReduction (h : HartId) (op : VRed) (vd vs2 vs1 : Fin 32) (vm : Bool)
  | vectorLoadEew128 (h : HartId) (isStore : Bool) (mode : VMem) (nf : Fin 8) (vd rs1 : Fin 32) (vm : Bool) (m : Pbmt)
  | vectorDivide (h : HartId) (op : VDiv) (vd vs2 : Fin 32) (src : VSrc) (vm : Bool)
  -- custom CSRs of the hart
  | predClr (h : HartId) (v : Word)
  | mkcmoClean (h : HartId) (v : Word)
  | mkcmoInvalidate (h : HartId) (v : Word)
  | mkcmoCleanInvalidate (h : HartId) (v : Word)
  | enter (h : HartId) (pocket : Pocket) (slot : BitVec 8)
  | exit (h : HartId) (pocket : Pocket) (slot : BitVec 8)
  | clearStatus (h : HartId) (pocket : Pocket) (slot : BitVec 8)
  | entryAnswer (h : HartId) (v : EntryVerdict)
  | perPanelReset (p : Panel) (identityOk : Bool)
  | fillResume (h : HartId) (pa : Addr)
  | leavingTableAccept (p : PortId)
  -- LLC maintenance
  | slcClean (h : SliceId) (set : Fin 4096) (way : Fin 16)
  | slcInvalidate (a : Agent) (h : SliceId) (set : Fin 4096) (way : Fin 16)
  | slcCleanInvalidate (h : SliceId) (set : Fin 4096) (way : Fin 16)
  | rangeGo (a : Agent) (sd : Saddle) (op : BitVec 2) (irqEn : Bool)
  | rangeAbort (a : Agent) (sd : Saddle)
  | rangeDone (sd : Saddle)
  | wayCleanDone (h : SliceId)
  | lockFill (a : Agent) (h : SliceId) (way : Fin 16) (pa : Addr)
  -- coherence: requests at the home
  | rdS (h : SliceId) (r : Hdr)
  | rdSp (h : SliceId) (r : Hdr)
  | rdO (h : SliceId) (r : Hdr)
  | upg (h : SliceId) (r : Hdr)
  | atom (h : SliceId) (r : Hdr) (f : AmoFunc) (size : Size) (op cmp : BitVec 128)
  | rdNc (h : SliceId) (r : Hdr) (size : Size) (rsv : Bool)
  | wrNc (h : SliceId) (r : Hdr) (data : LineData) (be : Word) (cond : Bool)
  | rdC (h : SliceId) (r : Hdr)
  | wrC (h : SliceId) (r : Hdr) (data : LineData) (be : Word)
  | zero (h : SliceId) (r : Hdr)
  | cln (h : SliceId) (r : Hdr)
  | fls (h : SliceId) (r : Hdr)
  | inv (h : SliceId) (r : Hdr)
  -- coherence: snoops
  | snpS (p : PortId) (h : SliceId) (r : Hdr) (reqOp : BitVec 8) (byHome keep : Bool) (lap : Word)
  | snpI (p : PortId) (h : SliceId) (r : Hdr) (reqOp : BitVec 8) (byHome full : Bool) (lap : Word)
  | snpC (p : PortId) (h : SliceId) (r : Hdr) (reqOp : BitVec 8) (lap : Word)
  | holderSnoop (c : HartId) (h : SliceId) (r : Hdr) (snp reqOp : BitVec 8) (byHome keep full : Bool) (err : CacheErr)
  | holdWindowEnd (c : HartId) (pa : Addr)
  | lapReturn (h : SliceId) (pa : Addr) (lap : Word)
  -- coherence: responses and data
  | wbAck (p : PortId) (pa : Addr)
  | grant (who : Peer) (pa : Addr) (st : LState) (r : Resp) (alone : Bool)
  | comp (h : SliceId) (pa : Addr) (src : BitVec 8) (txid : BitVec 12)
  | fwdDone (h : SliceId) (pa : Addr) (k : FwdKind) (dirty : Bool) (panel : Panel)
  | invDone (h : SliceId) (pa : Addr) (panel : Panel)
  | upgFail (c : HartId) (pa : Addr)
  | nodata (c : HartId) (pa : Addr)
  | data (who : Peer) (pa : Addr) (st : LState) (d : LineData) (poison : BitVec 4) (r : Resp) (err : CacheErr) (crcOk : Bool)
  | wb (h : SliceId) (p : PortId) (pa : Addr) (pocket : Pocket) (d : LineData) (poison : BitVec 4) (sentTape : Nat)
  | ev (h : SliceId) (p : PortId) (pa : Addr) (pocket : Pocket) (sentTape : Nat)
  | dirty (h : SliceId) (pa : Addr) (d : LineData) (poison : BitVec 4)
  | tokenExpiry (h : SliceId) (pa : Addr) (panel : Panel)
  -- I/O-type accesses
  | ioRd (a : Agent) (pa : Addr) (size : Size)
  | ioWr (a : Agent) (pa : Addr) (size : Size) (v : BitVec 128)
  | ioAck (who : Peer) (r : Resp)
  | ioData (who : Peer) (v : BitVec 128) (r : Resp)
  | abandon (c : HartId) (port : Fin 8)
  -- PCIe
  | deviceRead (port : Fin 8) (rid : BitVec 16) (pa : Addr)
  | deviceWrite (port : Fin 8) (rid : BitVec 16) (pa : Addr) (data : LineData) (be : Word)
  | deviceAtomic (port : Fin 8) (rid : BitVec 16) (pa : Addr) (f : AmoFunc) (size : Size) (op cmp : BitVec 128)
  | peerToPeer (port : Fin 8) (rid : BitVec 16) (pa : Addr) (isWrite : Bool)
  | pcieCompletion (port : Fin 8) (txid : BitVec 12) (st : CplStatus) (v : BitVec 128)
  | linkDown (port : Fin 9) (sub : Fin 8)
  -- fabric
  | slotBoundary (stop : Fin 5)
  | reopen (e : GusEnd)
  | mask (e : GusEnd) (n : BitVec 3) (m : BitVec 16)
  | confirm (e : GusEnd) (n : BitVec 3) (w : BitVec 16)
  | safe (e : GusEnd) (ok : Bool)
  | idleTestFail (e : GusEnd) (group : Fin 16) (failed : BitVec 7)
  | gusCtlReopen (a : Agent) (e : GusEnd)
  | fenceCmd (u : FenceUnit) (on : Bool)
  | drainComplete (u : DrainUnit)
  | fenceOpen (u : FenceUnit) (ok : Bool)
  | fenceReply (u : FenceUnit)
  | epochFlip (stop : BitVec 8)
  | epochEmpty (stop : BitVec 8)
  | epochGo (stop : BitVec 8)
  | tableLoad (stop : BitVec 8)
  -- memory controllers
  | trainingComplete (c : Ctlr) (r : TrainRes)
  | memoryRead (u : FenceUnit) (h : SliceId) (pa : Addr) (txid : BitVec 12) (err : MemErr) (openRow : Bool) (bank : Fin 64)
  | memoryWrite (u : FenceUnit) (h : SliceId) (pa : Addr) (d : LineData) (be : Word) (poison : BitVec 4) (err : MemErr) (openRow : Bool) (bank : Fin 64)
  | tempRead (c : Ctlr) (reading : Option (BitVec 8))
  | refresh (c : Ctlr) (rank : Fin 4)
  | scrubGo (a : Agent) (c : Ctlr) (rate : BitVec 11) (irqEn mode : Bool)
  | scrubLine (c : Ctlr) (hold : ScrubHold)
  | scrubAbort (a : Agent) (c : Ctlr)
  | scrubEnd (c : Ctlr)
  -- Harness
  | linkFrame (k : Fin 16) (seq ack : BitVec 12) (crcOk : Bool) (typ : BitVec 8)
  | nak (k : Fin 16) (seq : BitVec 12)
  | lossOfSignal (k : Fin 16)
  | trainTimeout (k : Fin 16)
  | retryTimer (k : Fin 16)
  | hello (k : Fin 16) (m : Hello)
  | query (k : Fin 16) (nonce : BitVec 256)
  | assignId (k : Fin 16) (m : MgmtReq)
  | mgmtRelease (k : Fin 16) (m : MgmtReq)
  | idChange
  | cqTail (a : Agent) (q : Fin 1024) (v : BitVec 12)
  | cqBaseWrite (a : Agent) (q : Fin 1024) (v : Word)
  | descriptorFetch (q : Fin 1024)
  | put (q : Fin 1024) (slot : BitVec 12)
  | get (q : Fin 1024) (slot : BitVec 12)
  | send (q : Fin 1024) (slot : BitVec 12)
  | atomic (q : Fin 1024) (slot : BitVec 12)
  | hrnFence (q : Fin 1024) (slot : BitVec 12)
  | mgmt (q : Fin 1024) (slot : BitVec 12)
  | nop (q : Fin 1024) (slot : BitVec 12)
  | putReceive (m : HPkt)
  | getReceive (m : HPkt)
  | sendReceive (m : HPkt)
  | atomicReceive (m : HPkt)
  | mgmtReceive (k : Fin 16) (path : Word) (hop hops : BitVec 5) (mop : BitVec 8)
  | resp (m : HPkt) (lenDone violOff : BitVec 32) (fflags : BitVec 5)
  | transitForward (typ : Fin 5) (m : HPkt) (k : Fin 16)
  | budgetExpiry (k : Fin 16) (rq : Option (Fin 1024))
  | rqHeadWrite (a : Agent) (r : Fin 1024) (v : BitVec 12)
  | entdaa (da : BitVec 7)
  | rstdaa
  | setnewda (da : BitVec 7)
  | getpid
  | getbcr
  | getdcr
  | getstatus
  | privateRead
  -- pockets and doors
  | create (d : DoorHdr) (peer : Pocket) (slots : BitVec 9) (stateBase entryPc doorBase : Addr)
  | rangeAdd (d : DoorHdr) (peer : Pocket) (base size : Addr) (kind : RangeKind) (roOthers adopt : Bool)
  | rangeRemove (d : DoorHdr) (peer : Pocket) (base : Addr)
  | arm (d : DoorHdr) (peer : Pocket)
  | destroy (d : DoorHdr) (peer : Pocket)
  | assign (d : DoorHdr) (b : Block) (peer : Pocket) (bars : List (Addr × Addr))
  | release (d : DoorHdr) (b : Block)
  | powerOff (d : DoorHdr) (u : PowerUnit)
  | powerDim (d : DoorHdr) (p : Panel)
  | powerOn (d : DoorHdr) (u : PowerUnit)
  | powerQuiet (d : DoorHdr) (sd : Saddle)
  | sealPocket (d : DoorHdr) (peer : Pocket)
  | unsealPocket (d : DoorHdr) (peer : Pocket)
  | msg (d : DoorHdr) (peer : Pocket) (body : BitVec 320)
  | exportSet (d : DoorHdr) (e : Fin 4096) (w0 w1 w2 w3 : Word)
  | debugGrant (d : DoorHdr) (inv noninv : Bool)
  | random (d : DoorHdr)
  | fabricTag (d : DoorHdr) (mop : BitVec 8) (m : MgmtReq)
  | resetVec (d : DoorHdr) (p : Panel) (pa : Addr)
  | doorEnable (a : Agent) (w : Pocket) (base : Addr)
  | sliceExpiry (h : HartId)
  -- Bobbins
  | chGo (a : Agent) (n : Fin 64) (c : Fin 8)
  | chAbort (a : Agent) (n : Fin 64) (c : Fin 8)
  | channelStopped (n : Fin 64) (c : Fin 8)
  | sourceBeat (n : Fin 64) (c : Fin 8)
  | descriptorComplete (n : Fin 64) (c : Fin 8)
  | statusAtom (n : Fin 64) (c : Fin 8)
  -- pins, power, Thimble
  | hotPlugFrame (k : Fin 8) (din : Word)
  | svcPerstN
  | voutAck (p : Panel)
  | vregFaultClear (a : Agent) (p : Panel)
  | thimbleLoop (x : Samples)
  | wakePinEdge (k : Fin 8) (active : Bool)
  | tripComparator (temps : Samples)
  | dimEntry (p : Panel)
  | dimLeavingEmpty (p : Panel)
  | dimWake (p : Panel)
  | dimResume (p : Panel)
  | sleepEntry (h : HartId)
  | sleepExit (h : HartId)
  | dormant (seq : BitVec 16) (keepDdr : Bool)
  -- Keeper and boot
  | coldReset (straps : BitVec 2) (resetN testN : Bool)
  | firmwareLoad
  | loadFirmware (seq : BitVec 16)
  | railGood
  | handOff
  | serviceReq (a : Agent)
  | quote (seq : BitVec 16) (nonce : BitVec 256)
  | extend (seq : BitVec 16) (n : BitVec 8) (digest : BitVec 256)
  | resetSaddle (seq : BitVec 16) (sd : Saddle) (strapOk : Bool)
  | fitting (seq : BitVec 16) (hold : Bool)
  | runPayload (seq : BitVec 16)
  | payloadEcall (h : HartId)
  | warmReset (seq : BitVec 16)
  | packageWarmReset
  | resetN (lowNs : BitVec 32) (rises : Bool)
  | setFabricKey (seq : BitVec 16)
  | ownerKey (seq : BitVec 16)
  | revoke (seq : BitVec 16)
  | rollback (seq : BitVec 16)
  | hostVerify (seq : BitVec 16)
  | getVersion
  | getCapabilities
  | negotiateAlgorithms
  | getDigests
  | getCertificate (slot : BitVec 8) (off len : BitVec 16)
  | challenge (slot : BitVec 8) (nonce : BitVec 256)
  | getMeasurements (index : BitVec 8) (nonce : BitVec 256)
  -- counters and debug
  | counterOverflow (h : HartId) (k : Fin 32)
  | snapArm
  | armFreeze
  | thaw
  | snapshotTake (missed : BitVec 17)
  | extest
  | samplePreload (pins v : BitVec 120)
  | dtmcs (v : BitVec 32)
  | dmi (addr : BitVec 7) (data : BitVec 32) (op : BitVec 2)
  | bypass (tdi : Bool)
  | testLogicReset
  | haltRequest (h : HartId)
  | resumeRequest (h : HartId)
  | accessRegister (h : HartId) (r : DbgReg) (isWrite : Bool) (size : BitVec 3)
  | accessMemory (h : HartId) (pa : Addr) (size : Size) (isWrite : Bool)
  | systemBusAccess (pa : Addr) (size : Size) (isWrite : Bool) (v : BitVec 128)
  | ndmreset
  | pathLock (svc : Bool) (v : BitVec 2)
  -- supply, links and late additions
  | supplyLost
  | vstbyLoss
  | quietExit (sd : Saddle)
  | linkUp (port : Fin 9) (sub : Fin 8) (speed : BitVec 4) (width : BitVec 4) (cxlGib : BitVec 16)
  | portTrained (k : Fin 16) (lanes : BitVec 2)
  | rplHeadWrite (a : Agent) (w : Pocket) (v : BitVec 6)
  | branchResolve (h : HartId) (pa : Addr) (right : Bool)
  | atsRequest (port : Fin 8) (rid : BitVec 16)
  | flowControlCredits (port : Fin 8) (sub : Fin 8) (n : BitVec 8)
  deriving DecidableEq, Repr

end Sys2Proof
end

