-- ==== Sys2Proof/Decode.lean ====
section
/-! DEFINITION. The opcode table gives no row any bits: the commands are operations and events of the
block, with operands in place of an encoding. So no word spells a command. -/

namespace Sys2Proof

/-- The command a word spells by the table's bits: none, for the table gives none. DESIGN CHOICE (assumption 1). -/
def decodeTableWord (_nbits _w : Nat) : Option Instr := none

end Sys2Proof
end

