-- ==== Sys2Proof/Config.lean ====
section
/-! DEFINITION. What the spec leaves open and an implementation fixes: free values. Each is a
constant without a body, applied to a counter of the state (a fresh value at each use) or to what it
depends on, so nothing can be proved of its value. -/

namespace Sys2Proof

/-- A value the spec leaves open, by the state's counter of free values. -/
opaque Config.free : Nat → Nat
/-- What a byte of bolt memory that nothing has written reads as, by key generation and address (R338). -/
opaque Config.unwrittenByte : Nat → Nat → Byte
/-- The Keeper's true random source: draw number n (R83, R338). -/
opaque Config.random : Nat → Nat

/-- SHA-256 digest of the Keeper's mask ROM (R416, R431). -/
opaque Config.romDigest : Nat
/-- The certificate chain of the identity key, DER, root first (R421, R432): a certificate has at least one byte. -/
opaque Config.certFirst : Byte
opaque Config.certRest : List Byte
def Config.certChain : List Byte := Config.certFirst :: Config.certRest

/-- The memory standard's postponement allowance in ns at the normal rate, for HBM or DDR, fine-granularity
refresh or not (R287). DESIGN CHOICE (assumption 52). -/
opaque Config.refreshAllow : Bool → Bool → Nat

end Sys2Proof
end

