-- ==== Sys2Proof/Machine/KMap.lean ====
section
/-! DEFINITION. Sparse tables keyed by a number: a list of key and value pairs with a value that
every unlisted key holds. Keys rise strictly and no listed value is the unlisted one. -/

namespace Sys2Proof.Machine

/-- A sparse table. -/
abbrev KMap (α : Type) := List (Nat × α)

namespace KMap

/-- The value at key `k`; `d` is what an unlisted key holds. -/
def get {α : Type} (d : α) : KMap α → Nat → α
  | [], _ => d
  | (j, v) :: m, k => if j = k then v else get d m k

/-- The table without key `k`. -/
def erase {α : Type} (k : Nat) : KMap α → KMap α
  | [] => []
  | (j, v) :: m => if j = k then erase k m else (j, v) :: erase k m

/-- The table with `v` listed at `k`. -/
def insert {α : Type} (k : Nat) (v : α) : KMap α → KMap α
  | [] => [(k, v)]
  | (j, w) :: m =>
    if k < j then (k, v) :: (j, w) :: m
    else if j = k then (k, v) :: m
    else (j, w) :: insert k v m

/-- The table with `v` at `k`, unlisted where `v` is what unlisted keys hold. -/
def set {α : Type} [DecidableEq α] (d : α) (k : Nat) (v : α) (m : KMap α) : KMap α :=
  if v = d then erase k m else insert k v m

/-- The table with the value at `k` changed by `f`. -/
def upd {α : Type} [DecidableEq α] (d : α) (k : Nat) (f : α → α) (m : KMap α) : KMap α :=
  set d k (f (get d m k)) m

/-- Keys rise strictly from above `lo`. -/
def sortedFrom {α : Type} : Nat → KMap α → Bool
  | _, [] => true
  | lo, (j, _) :: m => decide (lo ≤ j) && sortedFrom (j + 1) m

/-- The canonical form: keys rise strictly, no listed value is `d`. -/
def wf {α : Type} [DecidableEq α] (d : α) (m : KMap α) : Bool :=
  sortedFrom 0 m && m.all fun e => decide (e.2 ≠ d)

end KMap

end Sys2Proof.Machine
end

