-- ==== Sys2Proof/Machine/RegMap.lean ====
section
/-! DEFINITION. The register map of the package: for each register of the spec its place in control
space, its reset value, and its fields with their access codes (R8) and legal ranges. Registers of
the service port's BAR0 mailbox and of the debug module are keyed above control space (BAR0 at
0x1_0000_0000, BAR2 at 0x1_8000_0000). `F.r_FIELD` is a field, `R.r` a register handle. -/

namespace Sys2Proof.Machine

/-- Access codes of R8. -/
inductive Access where
  | rw | ro | wo | w1c | w1s | rc | kw
  deriving DecidableEq, Repr

/-- A register field: bits `hi` to `lo`, access code, reset value, lowest and highest legal value. -/
structure FieldDesc where
  hi : Nat
  lo : Nat
  acc : Access
  reset : Nat
  min : Nat
  max : Nat
  deriving DecidableEq, Repr

/-- A register handle: its place and its reset value. -/
structure Reg where
  addr : Nat
  reset : Word
  deriving DecidableEq, Repr

/-- A register map of the spec, with the counts and strides of its instances (outermost first). -/
structure RegKind where
  base : Nat
  dims : List (Nat × Nat)
  reset : Word
  fields : List FieldDesc
  deriving DecidableEq, Repr

/-- Base of a memory controller's registers (R294: saddle block offset). -/
def ctlrBase : Ctlr → Nat
  | .hbm n => 0x10080000 + 0x10000000 * (n.val / 2) + 0x10000 * (n.val % 2)
  | .ddr n => 0x100A0000 + 0x10000000 * (n.val / 3) + 0x10000 * (n.val % 3)

/-- Place of a unit's FENCE_CMD (R256). -/
def fenceBase : FenceUnit → Nat
  | .panel p => 0x10040000 + 0x10000000 * (p.val / 3) + 0x20 * (p.val % 3)
  | .llc s => 0x10040060 + 0x10000000 * s.val
  | .mc c => ctlrBase c + 0xF00
  | .pcie k => 0x400F00 + 0x10000 * k.val
  | .bob n => 0x600F00 + 0x10000 * n.val

/-- Block base of the unit that holds error bank `b` (R438, R439). -/
def bankBase (b : Nat) : Nat :=
  if b < 12 then 0x80000000 + 0x4000000 * b
  else if b < 16 then 0x10000000 + 0x10000000 * (b - 12)
  else if b = 16 then 0
  else if b = 17 then 0x02000000
  else if b = 18 then 0x0D000000
  else if b = 19 then 0x00C00000
  else if b < 28 then 0x400000 + 0x10000 * (b - 20)
  else 0x600000 + 0x10000 * (b - 28)

/-- Place of GUS_STATUS of a Gusset end (R251). -/
def gusBase : GusEnd → Nat
  | .saddle s d => 0x10060000 + 0x10000000 * s.val + 0x20 * d.val
  | .yoke s => 0x60000 + 0x20 * s.val

/-- Block base of Awl `n` (R266). -/
def awlBase (n : Nat) : Nat :=
  if n < 16 then 0x10050000 + 0x10000000 * (n / 4) + 0x100 * (n % 4)
  else if n < 24 then 0x10050400 + 0x10000000 * ((n - 16) / 2) + 0x100 * (n % 2)
  else 0x500000 + 0x100 * (n - 24)

/-- Block base of the unit counters of saddle `u` (0-3) or the yoke (4) (R452). -/
def uctrBase (u : Nat) : Nat := if u < 4 then 0x10000000 + 0x10000000 * u else 0

/-! Fields. -/

def F.pkgId_PART_CODE : FieldDesc := ⟨63, 48, .ro, 576, 0, 65535⟩
def F.pkgId_PKG_LEVEL : FieldDesc := ⟨47, 44, .ro, 0, 0, 15⟩
def F.pkgId_MIXED : FieldDesc := ⟨40, 40, .ro, 0, 0, 1⟩
def F.pkgId_PANEL_B0 : FieldDesc := ⟨39, 28, .ro, 0, 0, 4095⟩
def F.pkgId_PANEL_OK : FieldDesc := ⟨27, 16, .ro, 0, 0, 4095⟩
def F.pkgId_SADDLE_OK : FieldDesc := ⟨15, 12, .ro, 0, 0, 15⟩
def F.pkgId_CORES_PER_PANEL : FieldDesc := ⟨7, 0, .ro, 20, 0, 255⟩
def F.pkgSerial_SERIAL : FieldDesc := ⟨63, 0, .ro, 0, 0, 18446744073709551615⟩
def F.threadStatus_FAIL_POS : FieldDesc := ⟨39, 32, .ro, 0, 0, 255⟩
def F.threadStatus_FAIL_KIND : FieldDesc := ⟨31, 28, .ro, 0, 0, 15⟩
def F.threadStatus_LOOP_OK : FieldDesc := ⟨17, 17, .ro, 0, 0, 1⟩
def F.threadStatus_POS_OK : FieldDesc := ⟨16, 0, .ro, 0, 0, 131071⟩
def F.tape_NOW : FieldDesc := ⟨63, 0, .ro, 0, 0, 18446744073709551615⟩
def F.tapeStatus_DIE_HOLD : FieldDesc := ⟨32, 16, .ro, 0, 0, 131071⟩
def F.tapeStatus_HOLDOVER_SEEN : FieldDesc := ⟨1, 1, .w1c, 0, 0, 1⟩
def F.tapeStatus_HOLDOVER : FieldDesc := ⟨0, 0, .ro, 0, 0, 1⟩
def F.deadline_VALUE_NS : FieldDesc := ⟨39, 0, .kw, 10000, 0, 1099511627775⟩
def F.deadline1_VALUE_NS : FieldDesc := ⟨39, 0, .kw, 50000, 0, 1099511627775⟩
def F.deadline2_VALUE_NS : FieldDesc := ⟨39, 0, .kw, 100000, 0, 1099511627775⟩
def F.deadline3_VALUE_NS : FieldDesc := ⟨39, 0, .ro, 0, 0, 1099511627775⟩
def F.deadline4_VALUE_NS : FieldDesc := ⟨39, 0, .kw, 5000, 0, 1099511627775⟩
def F.deadline5_VALUE_NS : FieldDesc := ⟨39, 0, .kw, 1000000, 0, 1099511627775⟩
def F.deadline6_VALUE_NS : FieldDesc := ⟨39, 0, .kw, 0, 0, 1099511627775⟩
def F.deadline7_VALUE_NS : FieldDesc := ⟨39, 0, .kw, 200000, 0, 1099511627775⟩
def F.deadline8_VALUE_NS : FieldDesc := ⟨39, 0, .kw, 1000000, 0, 1099511627775⟩
def F.deadline9_VALUE_NS : FieldDesc := ⟨39, 0, .kw, 200000, 0, 1099511627775⟩
def F.deadline10_VALUE_NS : FieldDesc := ⟨39, 0, .kw, 10000000, 0, 1099511627775⟩
def F.epoch_SWITCHES : FieldDesc := ⟨63, 48, .ro, 0, 0, 65535⟩
def F.epoch_WAITING : FieldDesc := ⟨39, 32, .ro, 0, 0, 255⟩
def F.epoch_HOLDING : FieldDesc := ⟨1, 1, .ro, 0, 0, 1⟩
def F.epoch_CURRENT : FieldDesc := ⟨0, 0, .ro, 0, 0, 1⟩
def F.epochTape_TAPE : FieldDesc := ⟨63, 0, .ro, 0, 0, 18446744073709551615⟩
def F.snapTime_TIME : FieldDesc := ⟨63, 0, .rw, 0, 0, 18446744073709551615⟩
def F.snapCtl_STATE : FieldDesc := ⟨63, 62, .ro, 0, 0, 3⟩
def F.snapCtl_FROZEN : FieldDesc := ⟨61, 61, .ro, 0, 0, 1⟩
def F.snapCtl_PARTIAL : FieldDesc := ⟨60, 60, .ro, 0, 0, 1⟩
def F.snapCtl_SEQ : FieldDesc := ⟨47, 32, .ro, 0, 0, 65535⟩
def F.snapCtl_OP : FieldDesc := ⟨1, 0, .wo, 0, 0, 3⟩
def F.errPending_BANKS : FieldDesc := ⟨63, 0, .ro, 0, 0, 18446744073709551615⟩
def F.boltStatus_STATE : FieldDesc := ⟨63, 61, .ro, 0, 0, 7⟩
def F.boltStatus_KIND : FieldDesc := ⟨60, 59, .ro, 0, 0, 3⟩
def F.boltStatus_SCOPE : FieldDesc := ⟨58, 58, .ro, 0, 0, 1⟩
def F.boltStatus_GRANULE : FieldDesc := ⟨57, 56, .ro, 0, 0, 3⟩
def F.boltStatus_NODE : FieldDesc := ⟨55, 50, .ro, 0, 0, 63⟩
def F.boltStatus_BASE_GIB : FieldDesc := ⟨49, 32, .ro, 0, 0, 262143⟩
def F.boltStatus_SIZE_GIB : FieldDesc := ⟨31, 13, .ro, 0, 0, 524287⟩
def F.boltStatus_MASK : FieldDesc := ⟨11, 0, .ro, 0, 0, 4095⟩
def F.imsicOwner_ENABLE : FieldDesc := ⟨63, 63, .kw, 0, 0, 1⟩
def F.imsicOwner_POCKET : FieldDesc := ⟨11, 0, .kw, 0, 0, 4095⟩
def F.svcStatus_STAGING_DROPS : FieldDesc := ⟨63, 48, .rc, 0, 0, 65535⟩
def F.svcStatus_LINK_SPEED : FieldDesc := ⟨47, 44, .ro, 0, 0, 15⟩
def F.svcStatus_LINK_WIDTH : FieldDesc := ⟨43, 40, .ro, 0, 0, 15⟩
def F.svcStatus_LINK_UP : FieldDesc := ⟨0, 0, .ro, 0, 0, 1⟩
def F.sdlDieId_FEAT_LEVEL : FieldDesc := ⟨23, 20, .ro, 0, 0, 15⟩
def F.sdlDieId_STEPPING : FieldDesc := ⟨19, 16, .ro, 0, 0, 15⟩
def F.sdlDieId_QUADRANT : FieldDesc := ⟨15, 14, .ro, 0, 0, 3⟩
def F.sdlDieId_ROT : FieldDesc := ⟨11, 10, .ro, 0, 0, 3⟩
def F.sdlDieId_STRAP_OK : FieldDesc := ⟨8, 8, .ro, 0, 0, 1⟩
def F.sdlDieId_DIE_TYPE : FieldDesc := ⟨7, 0, .ro, 1, 0, 255⟩
def F.fabPace_CLR : FieldDesc := ⟨48, 48, .wo, 0, 0, 1⟩
def F.fabPace_MAX : FieldDesc := ⟨47, 32, .ro, 0, 0, 65535⟩
def F.fabPace_MIN : FieldDesc := ⟨31, 16, .ro, 0, 0, 65535⟩
def F.fabPace_CURRENT : FieldDesc := ⟨15, 0, .ro, 0, 0, 65535⟩
def F.llcClass_MASK : FieldDesc := ⟨15, 0, .kw, 65535, 0, 65535⟩
def F.rangeBase_LINE : FieldDesc := ⟨55, 6, .rw, 0, 0, 1125899906842623⟩
def F.rangeLimit_LINE : FieldDesc := ⟨55, 6, .rw, 0, 0, 1125899906842623⟩
def F.rangeCtl_STATUS : FieldDesc := ⟨63, 61, .ro, 0, 0, 7⟩
def F.rangeCtl_POCKET : FieldDesc := ⟨47, 36, .ro, 0, 0, 4095⟩
def F.rangeCtl_IRQ_EN : FieldDesc := ⟨7, 7, .rw, 0, 0, 1⟩
def F.rangeCtl_ABORT : FieldDesc := ⟨6, 6, .wo, 0, 0, 1⟩
def F.rangeCtl_GO : FieldDesc := ⟨5, 5, .wo, 0, 0, 1⟩
def F.rangeCtl_OP : FieldDesc := ⟨1, 0, .rw, 0, 0, 3⟩
def F.rangeSum0_WRITTEN : FieldDesc := ⟨63, 32, .ro, 0, 0, 4294967295⟩
def F.rangeSum0_SCANNED : FieldDesc := ⟨31, 0, .ro, 0, 0, 4294967295⟩
def F.rangeSum1_LOCKED_TOUCHED : FieldDesc := ⟨63, 32, .ro, 0, 0, 4294967295⟩
def F.rangeSum1_INVALIDATED : FieldDesc := ⟨31, 0, .ro, 0, 0, 4294967295⟩
def F.rangeTapeStart_TAPE : FieldDesc := ⟨63, 0, .ro, 0, 0, 18446744073709551615⟩
def F.rangeTapeEnd_TAPE : FieldDesc := ⟨63, 0, .ro, 0, 0, 18446744073709551615⟩
def F.rangeViol_VIOL_LINE : FieldDesc := ⟨55, 6, .ro, 0, 0, 1125899906842623⟩
def F.cohCfg_HOLD_WINDOW : FieldDesc := ⟨9, 0, .kw, 32, 8, 512⟩
def F.weltLogPtr_LOST : FieldDesc := ⟨63, 48, .rc, 0, 0, 65535⟩
def F.weltLogPtr_TAIL : FieldDesc := ⟨13, 8, .ro, 0, 0, 63⟩
def F.weltLogPtr_HEAD : FieldDesc := ⟨5, 0, .rw, 0, 0, 63⟩
def F.weltLogA_SRC : FieldDesc := ⟨63, 56, .ro, 0, 0, 255⟩
def F.weltLogA_ADDR : FieldDesc := ⟨55, 0, .ro, 0, 0, 72057594037927935⟩
def F.weltLogT_TAPE : FieldDesc := ⟨63, 0, .ro, 0, 0, 18446744073709551615⟩
def F.weltLogM_POCKET : FieldDesc := ⟨43, 32, .ro, 0, 0, 4095⟩
def F.weltLogM_OP : FieldDesc := ⟨31, 24, .ro, 0, 0, 255⟩
def F.weltLogM_REASON : FieldDesc := ⟨23, 20, .ro, 0, 0, 15⟩
def F.weltLogM_CLASS : FieldDesc := ⟨14, 12, .ro, 0, 0, 7⟩
def F.weltLogM_TXID : FieldDesc := ⟨11, 0, .ro, 0, 0, 4095⟩
def F.panelOwner_ENABLE : FieldDesc := ⟨63, 63, .kw, 0, 0, 1⟩
def F.panelOwner_POCKET : FieldDesc := ⟨11, 0, .kw, 0, 0, 4095⟩
def F.gusStatus_ACTIVE : FieldDesc := ⟨63, 48, .ro, 0, 0, 65535⟩
def F.gusStatus_LOCAL_GOOD : FieldDesc := ⟨47, 32, .ro, 0, 0, 65535⟩
def F.gusStatus_PEER_GOOD : FieldDesc := ⟨31, 16, .ro, 0, 0, 65535⟩
def F.gusStatus_STATE : FieldDesc := ⟨15, 13, .ro, 0, 0, 7⟩
def F.gusStatus_RETRIES : FieldDesc := ⟨12, 10, .ro, 0, 0, 7⟩
def F.gusStatus_WIDTH_EVENT : FieldDesc := ⟨9, 9, .w1c, 0, 0, 1⟩
def F.gusStatus_REOPENS : FieldDesc := ⟨7, 0, .ro, 0, 0, 255⟩
def F.gusRepair_RETIRED : FieldDesc := ⟨47, 32, .ro, 0, 0, 65535⟩
def F.gusRepair_SPARES_USED : FieldDesc := ⟨31, 0, .ro, 0, 0, 4294967295⟩
def F.gusCtl_ATTEMPTS : FieldDesc := ⟨3, 1, .ro, 3, 0, 7⟩
def F.gusCtl_REOPEN : FieldDesc := ⟨0, 0, .kw, 0, 0, 1⟩
def F.slcWayCtl_LOCK : FieldDesc := ⟨31, 16, .kw, 0, 0, 65535⟩
def F.slcWayCtl_OFF : FieldDesc := ⟨15, 0, .kw, 0, 0, 65535⟩
def F.slcWayState_PWR_OFF : FieldDesc := ⟨31, 16, .ro, 0, 0, 65535⟩
def F.slcWayState_CLEANING : FieldDesc := ⟨15, 0, .ro, 0, 0, 65535⟩
def F.slcSwCmd_RESULT : FieldDesc := ⟨63, 62, .ro, 0, 0, 3⟩
def F.slcSwCmd_LOCKED : FieldDesc := ⟨61, 61, .ro, 0, 0, 1⟩
def F.slcSwCmd_SET : FieldDesc := ⟨43, 32, .rw, 0, 0, 4095⟩
def F.slcSwCmd_WAY : FieldDesc := ⟨31, 28, .rw, 0, 0, 15⟩
def F.slcSwCmd_OP : FieldDesc := ⟨1, 0, .wo, 0, 0, 3⟩
def F.slcLockFill_STATUS : FieldDesc := ⟨63, 61, .ro, 0, 0, 7⟩
def F.slcLockFill_WAY : FieldDesc := ⟨59, 56, .rw, 0, 0, 15⟩
def F.slcLockFill_LINE : FieldDesc := ⟨55, 6, .rw, 0, 0, 1125899906842623⟩
def F.slcLockFill_GO : FieldDesc := ⟨0, 0, .wo, 0, 0, 1⟩
def F.slcCoh_TOKENS : FieldDesc := ⟨55, 48, .ro, 0, 0, 255⟩
def F.slcCoh_TRACKERS : FieldDesc := ⟨39, 32, .ro, 0, 0, 255⟩
def F.slcCoh_LATE : FieldDesc := ⟨31, 16, .rc, 0, 0, 65535⟩
def F.slcCoh_SUPERSEDED : FieldDesc := ⟨15, 0, .rc, 0, 0, 65535⟩
def F.awlMatch_CLASS_MASK : FieldDesc := ⟨63, 58, .rw, 0, 0, 63⟩
def F.awlMatch_PRIO_MASK : FieldDesc := ⟨57, 54, .rw, 0, 0, 15⟩
def F.awlMatch_POCKET_EN : FieldDesc := ⟨53, 53, .rw, 0, 0, 1⟩
def F.awlMatch_POCKET : FieldDesc := ⟨52, 41, .rw, 0, 0, 4095⟩
def F.awlMatch_SRC : FieldDesc := ⟨40, 33, .rw, 0, 0, 255⟩
def F.awlMatch_SRC_MASK : FieldDesc := ⟨32, 25, .rw, 0, 0, 255⟩
def F.awlMatch_DST : FieldDesc := ⟨24, 17, .rw, 0, 0, 255⟩
def F.awlMatch_DST_MASK : FieldDesc := ⟨16, 9, .rw, 0, 0, 255⟩
def F.awlMatch_ADDR_EN : FieldDesc := ⟨8, 8, .rw, 0, 0, 1⟩
def F.awlLo_LINE : FieldDesc := ⟨55, 6, .rw, 0, 0, 1125899906842623⟩
def F.awlHi_LINE : FieldDesc := ⟨55, 6, .rw, 0, 0, 1125899906842623⟩
def F.awlCtl_DROPS : FieldDesc := ⟨47, 32, .rc, 0, 0, 65535⟩
def F.awlCtl_OVERFLOW : FieldDesc := ⟨8, 8, .w1c, 0, 0, 1⟩
def F.awlCtl_SAMPLE : FieldDesc := ⟨7, 4, .rw, 0, 0, 15⟩
def F.awlCtl_WRAP : FieldDesc := ⟨3, 3, .rw, 0, 0, 1⟩
def F.awlCtl_MODE : FieldDesc := ⟨2, 1, .rw, 0, 0, 2⟩
def F.awlCtl_ENABLE : FieldDesc := ⟨0, 0, .rw, 0, 0, 1⟩
def F.awlCount_COUNT : FieldDesc := ⟨63, 0, .ro, 0, 0, 18446744073709551615⟩
def F.awlTraceBase_ADDR : FieldDesc := ⟨63, 5, .rw, 0, 0, 576460752303423487⟩
def F.awlTraceLimit_ADDR : FieldDesc := ⟨63, 5, .rw, 0, 0, 576460752303423487⟩
def F.awlTracePtr_PTR : FieldDesc := ⟨63, 0, .ro, 0, 0, 18446744073709551615⟩
def F.awlShadow_COUNT : FieldDesc := ⟨63, 0, .ro, 0, 0, 18446744073709551615⟩
def F.mcInfo_STATE : FieldDesc := ⟨63, 61, .ro, 0, 0, 7⟩
def F.mcInfo_RATE : FieldDesc := ⟨47, 32, .ro, 0, 0, 65535⟩
def F.mcInfo_CAPACITY_GIB : FieldDesc := ⟨31, 16, .ro, 0, 0, 65535⟩
def F.mcInfo_RANKS : FieldDesc := ⟨15, 12, .ro, 0, 0, 15⟩
def F.mcInfo_DPC : FieldDesc := ⟨11, 8, .ro, 0, 0, 15⟩
def F.mcInfo_STACK : FieldDesc := ⟨7, 4, .ro, 0, 0, 15⟩
def F.mcTherm_TEMP : FieldDesc := ⟨23, 16, .ro, 0, 0, 255⟩
def F.mcTherm_READ_FAIL : FieldDesc := ⟨4, 4, .ro, 0, 0, 1⟩
def F.mcTherm_ALARM_SEEN : FieldDesc := ⟨3, 3, .w1c, 0, 0, 1⟩
def F.mcTherm_ALARM : FieldDesc := ⟨2, 2, .ro, 0, 0, 1⟩
def F.mcTherm_DOUBLED : FieldDesc := ⟨1, 1, .ro, 0, 0, 1⟩
def F.mcRefresh_ALLOW_NS : FieldDesc := ⟨63, 32, .ro, 0, 0, 4294967295⟩
def F.mcRefresh_RFM_COUNT : FieldDesc := ⟨31, 16, .rc, 0, 0, 65535⟩
def F.mcRefresh_FGR : FieldDesc := ⟨0, 0, .ro, 0, 0, 1⟩
def F.mcParam_RFM_K : FieldDesc := ⟨20, 16, .kw, 10, 6, 16⟩
def F.mcParam_TEMP_HI : FieldDesc := ⟨7, 0, .kw, 85, 45, 90⟩
def F.mcScrubBase_LINE : FieldDesc := ⟨55, 6, .rw, 0, 0, 1125899906842623⟩
def F.mcScrubLimit_LINE : FieldDesc := ⟨55, 6, .rw, 0, 0, 1125899906842623⟩
def F.mcScrubCtl_STATUS : FieldDesc := ⟨63, 61, .ro, 0, 0, 7⟩
def F.mcScrubCtl_RATE : FieldDesc := ⟨42, 32, .rw, 64, 1, 1024⟩
def F.mcScrubCtl_IRQ_EN : FieldDesc := ⟨7, 7, .rw, 0, 0, 1⟩
def F.mcScrubCtl_ABORT : FieldDesc := ⟨6, 6, .wo, 0, 0, 1⟩
def F.mcScrubCtl_GO : FieldDesc := ⟨5, 5, .wo, 0, 0, 1⟩
def F.mcScrubCtl_MODE : FieldDesc := ⟨0, 0, .rw, 0, 0, 1⟩
def F.mcScrubSum0_CORRECTED : FieldDesc := ⟨63, 40, .ro, 0, 0, 16777215⟩
def F.mcScrubSum0_SCANNED : FieldDesc := ⟨39, 0, .ro, 0, 0, 1099511627775⟩
def F.mcScrubSum1_POISONED : FieldDesc := ⟨63, 32, .ro, 0, 0, 4294967295⟩
def F.mcScrubSum1_UNCORRECTED : FieldDesc := ⟨31, 0, .ro, 0, 0, 4294967295⟩
def F.mcScrubFirst_LINE : FieldDesc := ⟨55, 6, .ro, 0, 0, 1125899906842623⟩
def F.mcScrubLast_LINE : FieldDesc := ⟨55, 6, .ro, 0, 0, 1125899906842623⟩
def F.mcScrubTapeStart_TAPE : FieldDesc := ⟨63, 0, .ro, 0, 0, 18446744073709551615⟩
def F.mcScrubTapeEnd_TAPE : FieldDesc := ⟨63, 0, .ro, 0, 0, 18446744073709551615⟩
def F.fenceCmd_ON : FieldDesc := ⟨0, 0, .kw, 0, 0, 1⟩
def F.fenceStatus_STATE : FieldDesc := ⟨63, 62, .ro, 0, 0, 3⟩
def F.fenceStatus_FAULTED : FieldDesc := ⟨61, 61, .ro, 0, 0, 1⟩
def F.fenceStatus_FENCE_LATE : FieldDesc := ⟨60, 60, .w1c, 0, 0, 1⟩
def F.fenceStatus_MISMATCH : FieldDesc := ⟨59, 59, .w1c, 0, 0, 1⟩
def F.fenceStatus_DOMOFF_COUNT : FieldDesc := ⟨47, 32, .rc, 0, 0, 65535⟩
def F.fenceStatus_POSTED_DROPS : FieldDesc := ⟨31, 16, .rc, 0, 0, 65535⟩
def F.fenceDrop_VALID : FieldDesc := ⟨63, 63, .w1c, 0, 0, 1⟩
def F.fenceDrop_ADDR : FieldDesc := ⟨55, 0, .ro, 0, 0, 72057594037927935⟩
def F.pnlDieId_CORE_FUSE : FieldDesc := ⟨51, 32, .ro, 0, 0, 1048575⟩
def F.pnlDieId_FEAT_LEVEL : FieldDesc := ⟨23, 20, .ro, 0, 0, 15⟩
def F.pnlDieId_STEPPING : FieldDesc := ⟨19, 16, .ro, 0, 0, 15⟩
def F.pnlDieId_SADDLE : FieldDesc := ⟨15, 14, .ro, 0, 0, 3⟩
def F.pnlDieId_SITE : FieldDesc := ⟨13, 12, .ro, 0, 0, 3⟩
def F.pnlDieId_ROT : FieldDesc := ⟨11, 10, .ro, 0, 0, 3⟩
def F.pnlDieId_MIRROR : FieldDesc := ⟨9, 9, .ro, 0, 0, 1⟩
def F.pnlDieId_ORIENT_OK : FieldDesc := ⟨8, 8, .ro, 0, 0, 1⟩
def F.pnlDieId_DIE_TYPE : FieldDesc := ⟨7, 0, .ro, 2, 0, 255⟩
def F.hartEn_PANEL_EN : FieldDesc := ⟨20, 20, .ro, 0, 0, 1⟩
def F.hartEn_CORE_EN : FieldDesc := ⟨19, 0, .ro, 0, 0, 1048575⟩
def F.resetVec_ADDR : FieldDesc := ⟨55, 2, .kw, 0, 0, 18014398509481983⟩
def F.pace_CLR : FieldDesc := ⟨48, 48, .wo, 0, 0, 1⟩
def F.pace_MAX : FieldDesc := ⟨47, 32, .ro, 0, 0, 65535⟩
def F.pace_MIN : FieldDesc := ⟨31, 16, .ro, 0, 0, 65535⟩
def F.pace_CURRENT : FieldDesc := ⟨15, 0, .ro, 0, 0, 65535⟩
def F.iseInfo_VALID : FieldDesc := ⟨63, 63, .w1c, 0, 0, 1⟩
def F.iseInfo_OVERFLOW : FieldDesc := ⟨62, 62, .w1c, 0, 0, 1⟩
def F.iseInfo_RESP : FieldDesc := ⟨61, 59, .ro, 0, 0, 7⟩
def F.iseInfo_COUNT : FieldDesc := ⟨55, 48, .ro, 0, 0, 255⟩
def F.iseInfo_POCKET : FieldDesc := ⟨43, 32, .ro, 0, 0, 4095⟩
def F.iseAddr_ADDR : FieldDesc := ⟨55, 0, .ro, 0, 0, 72057594037927935⟩
def F.pnlSnapSeq_SEQ : FieldDesc := ⟨15, 0, .ro, 0, 0, 65535⟩
def F.hartShadow_COUNT : FieldDesc := ⟨63, 0, .ro, 0, 0, 18446744073709551615⟩
def F.uctrSel_EN : FieldDesc := ⟨63, 63, .rw, 0, 0, 1⟩
def F.uctrSel_PF_EN : FieldDesc := ⟨44, 44, .rw, 0, 0, 1⟩
def F.uctrSel_POCKET : FieldDesc := ⟨43, 32, .rw, 0, 0, 4095⟩
def F.uctrSel_SOURCE : FieldDesc := ⟨22, 16, .rw, 0, 0, 127⟩
def F.uctrSel_EVENT : FieldDesc := ⟨15, 0, .rw, 0, 0, 65535⟩
def F.uctr_COUNT : FieldDesc := ⟨63, 0, .rw, 0, 0, 18446744073709551615⟩
def F.uctrShadow_COUNT : FieldDesc := ⟨63, 0, .ro, 0, 0, 18446744073709551615⟩
def F.snapUnitSeq_SEQ : FieldDesc := ⟨15, 0, .ro, 0, 0, 65535⟩
def F.errRec0_VALID : FieldDesc := ⟨63, 63, .w1c, 0, 0, 1⟩
def F.errRec0_REPLACED : FieldDesc := ⟨62, 62, .ro, 0, 0, 1⟩
def F.errRec0_SEV : FieldDesc := ⟨61, 60, .ro, 0, 0, 3⟩
def F.errRec0_KIND : FieldDesc := ⟨59, 56, .ro, 0, 0, 15⟩
def F.errRec0_UNIT : FieldDesc := ⟨47, 32, .ro, 0, 0, 65535⟩
def F.errRec0_SEQ : FieldDesc := ⟨15, 0, .ro, 0, 0, 65535⟩
def F.errRec1_AKIND : FieldDesc := ⟨63, 62, .ro, 0, 0, 3⟩
def F.errRec1_ADDR : FieldDesc := ⟨55, 0, .ro, 0, 0, 72057594037927935⟩
def F.errRec2_TAPE : FieldDesc := ⟨63, 0, .ro, 0, 0, 18446744073709551615⟩
def F.errRec3_MISC : FieldDesc := ⟨63, 0, .ro, 0, 0, 18446744073709551615⟩
def F.errStatus_VALID : FieldDesc := ⟨63, 56, .ro, 0, 0, 255⟩
def F.errStatus_THRESH : FieldDesc := ⟨55, 55, .w1c, 0, 0, 1⟩
def F.errStatus_LOST : FieldDesc := ⟨39, 32, .rc, 0, 0, 255⟩
def F.errStatus_CE_COUNT : FieldDesc := ⟨31, 16, .rc, 0, 0, 65535⟩
def F.errCtl_CE_THRESH : FieldDesc := ⟨47, 32, .kw, 16, 1, 65535⟩
def F.errCtl_IRQ_UCP : FieldDesc := ⟨2, 2, .kw, 1, 0, 1⟩
def F.errCtl_IRQ_UCNA : FieldDesc := ⟨1, 1, .kw, 1, 0, 1⟩
def F.errCtl_IRQ_CE : FieldDesc := ⟨0, 0, .kw, 1, 0, 1⟩
def F.hrnNode_ASSIGNED : FieldDesc := ⟨63, 63, .ro, 0, 0, 1⟩
def F.hrnNode_DUP_SEEN : FieldDesc := ⟨62, 62, .w1c, 0, 0, 1⟩
def F.hrnNode_PROV_ID : FieldDesc := ⟨30, 16, .ro, 0, 0, 32767⟩
def F.hrnNode_NODE_ID : FieldDesc := ⟨14, 0, .ro, 32767, 0, 32767⟩
def F.portStatus_STATE : FieldDesc := ⟨63, 61, .ro, 0, 0, 7⟩
def F.portStatus_LANES : FieldDesc := ⟨60, 59, .ro, 0, 0, 3⟩
def F.portStatus_PEER_NODE : FieldDesc := ⟨58, 44, .ro, 32767, 0, 32767⟩
def F.portStatus_PEER_PORT : FieldDesc := ⟨43, 40, .ro, 0, 0, 15⟩
def F.portStatus_RETRAINS : FieldDesc := ⟨39, 32, .ro, 0, 0, 255⟩
def F.portStatus_REPLAYS : FieldDesc := ⟨31, 16, .rc, 0, 0, 65535⟩
def F.portStatus_DROPS : FieldDesc := ⟨15, 0, .rc, 0, 0, 65535⟩
def F.portPeer_SERIAL : FieldDesc := ⟨63, 0, .ro, 0, 0, 18446744073709551615⟩
def F.cqOwner_ENABLE : FieldDesc := ⟨63, 63, .kw, 0, 0, 1⟩
def F.cqOwner_POCKET : FieldDesc := ⟨11, 0, .kw, 0, 0, 4095⟩
def F.rqOwner_ENABLE : FieldDesc := ⟨63, 63, .kw, 0, 0, 1⟩
def F.rqOwner_POCKET : FieldDesc := ⟨11, 0, .kw, 0, 0, 4095⟩
def F.cqBase_BASE : FieldDesc := ⟨55, 12, .rw, 0, 0, 17592186044415⟩
def F.cqBase_LOG_ENTRIES : FieldDesc := ⟨3, 0, .rw, 6, 6, 12⟩
def F.cqTail_TAIL : FieldDesc := ⟨11, 0, .rw, 0, 0, 4095⟩
def F.cqStatus_STATE : FieldDesc := ⟨63, 62, .ro, 0, 0, 3⟩
def F.cqStatus_OUTSTANDING : FieldDesc := ⟨30, 16, .ro, 0, 0, 32767⟩
def F.cqStatus_HEAD : FieldDesc := ⟨11, 0, .ro, 0, 0, 4095⟩
def F.cqMsiAddr_ADDR : FieldDesc := ⟨55, 2, .rw, 0, 0, 18014398509481983⟩
def F.cqMsiData_DATA : FieldDesc := ⟨31, 0, .rw, 0, 0, 4294967295⟩
def F.rqBase_BASE : FieldDesc := ⟨55, 12, .rw, 0, 0, 17592186044415⟩
def F.rqBase_SLOT_LOG : FieldDesc := ⟨11, 8, .rw, 7, 7, 13⟩
def F.rqBase_LOG_SLOTS : FieldDesc := ⟨3, 0, .rw, 4, 4, 12⟩
def F.rqSrc_ANY_POCKET : FieldDesc := ⟨63, 63, .rw, 0, 0, 1⟩
def F.rqSrc_NODE_HI : FieldDesc := ⟨62, 48, .rw, 0, 0, 32767⟩
def F.rqSrc_NODE_LO : FieldDesc := ⟨46, 32, .rw, 0, 0, 32767⟩
def F.rqSrc_SRC_POCKET : FieldDesc := ⟨11, 0, .rw, 0, 0, 4095⟩
def F.rqPtr_DROPS : FieldDesc := ⟨63, 48, .rc, 0, 0, 65535⟩
def F.rqPtr_TAIL : FieldDesc := ⟨43, 32, .ro, 0, 0, 4095⟩
def F.rqPtr_HEAD : FieldDesc := ⟨11, 0, .rw, 0, 0, 4095⟩
def F.rqMsiAddr_ADDR : FieldDesc := ⟨55, 2, .rw, 0, 0, 18014398509481983⟩
def F.rqMsiData_DATA : FieldDesc := ⟨31, 0, .rw, 0, 0, 4294967295⟩
def F.export0_VALID : FieldDesc := ⟨63, 63, .kw, 0, 0, 1⟩
def F.export0_RIGHTS : FieldDesc := ⟨62, 60, .kw, 0, 0, 7⟩
def F.export0_ANY_POCKET : FieldDesc := ⟨59, 59, .kw, 0, 0, 1⟩
def F.export0_NODE_HI : FieldDesc := ⟨58, 44, .kw, 0, 0, 32767⟩
def F.export0_NODE_LO : FieldDesc := ⟨43, 29, .kw, 0, 0, 32767⟩
def F.export1_SRC_POCKET : FieldDesc := ⟨23, 12, .kw, 0, 0, 4095⟩
def F.export1_DST_POCKET : FieldDesc := ⟨11, 0, .kw, 0, 0, 4095⟩
def F.export2_BASE : FieldDesc := ⟨55, 0, .kw, 0, 0, 72057594037927935⟩
def F.export3_LIMIT : FieldDesc := ⟨55, 0, .kw, 0, 0, 72057594037927935⟩
def F.chOwner_ENABLE : FieldDesc := ⟨63, 63, .kw, 0, 0, 1⟩
def F.chOwner_POCKET : FieldDesc := ⟨11, 0, .kw, 0, 0, 4095⟩
def F.chLimit_SHARE_MAX : FieldDesc := ⟨40, 32, .kw, 256, 1, 256⟩
def F.chLimit_MAX_BEATS : FieldDesc := ⟨6, 0, .kw, 64, 1, 64⟩
def F.chCtl_STATE : FieldDesc := ⟨63, 61, .ro, 0, 0, 7⟩
def F.chCtl_RESP : FieldDesc := ⟨60, 58, .ro, 0, 0, 7⟩
def F.chCtl_INFLIGHT : FieldDesc := ⟨39, 32, .ro, 0, 0, 255⟩
def F.chCtl_SHARE : FieldDesc := ⟨17, 9, .rw, 0, 0, 511⟩
def F.chCtl_ABORT : FieldDesc := ⟨1, 1, .wo, 0, 0, 1⟩
def F.chCtl_GO : FieldDesc := ⟨0, 0, .wo, 0, 0, 1⟩
def F.chDesc_ADDR : FieldDesc := ⟨55, 5, .rw, 0, 0, 2251799813685247⟩
def F.chDone_DESCS : FieldDesc := ⟨63, 32, .ro, 0, 0, 4294967295⟩
def F.chDone_BYTES_DONE : FieldDesc := ⟨31, 0, .ro, 0, 0, 4294967295⟩
def F.chErrAddr_ADDR : FieldDesc := ⟨55, 0, .ro, 0, 0, 72057594037927935⟩
def F.chMsiAddr_ADDR : FieldDesc := ⟨55, 2, .rw, 0, 0, 18014398509481983⟩
def F.chMsiData_DATA : FieldDesc := ⟨31, 0, .rw, 0, 0, 4294967295⟩
def F.chIrq_ERR : FieldDesc := ⟨2, 2, .w1c, 0, 0, 1⟩
def F.chIrq_FULL : FieldDesc := ⟨1, 1, .w1c, 0, 0, 1⟩
def F.chIrq_HALF : FieldDesc := ⟨0, 0, .w1c, 0, 0, 1⟩
def F.thmStatus_LOOPS : FieldDesc := ⟨63, 32, .ro, 0, 0, 4294967295⟩
def F.thmStatus_LATE : FieldDesc := ⟨31, 16, .rc, 0, 0, 65535⟩
def F.thmStatus_TRIPPED : FieldDesc := ⟨2, 2, .ro, 0, 0, 1⟩
def F.thmStatus_ALERT : FieldDesc := ⟨1, 1, .w1c, 0, 0, 1⟩
def F.thmStatus_RUNNING : FieldDesc := ⟨0, 0, .ro, 0, 0, 1⟩
def F.thmAlarm_BITS : FieldDesc := ⟨31, 0, .w1c, 0, 0, 4294967295⟩
def F.thmLogPtr_LOST : FieldDesc := ⟨63, 48, .rc, 0, 0, 65535⟩
def F.thmLogPtr_TAIL : FieldDesc := ⟨13, 8, .ro, 0, 0, 63⟩
def F.thmLogPtr_HEAD : FieldDesc := ⟨5, 0, .rw, 0, 0, 63⟩
def F.vreq_MV : FieldDesc := ⟨9, 0, .rw, 800, 0, 1023⟩
def F.vstate_IN_FORCE : FieldDesc := ⟨63, 48, .ro, 0, 0, 65535⟩
def F.vstate_TARGET : FieldDesc := ⟨47, 32, .ro, 0, 0, 65535⟩
def F.vstate_CAP : FieldDesc := ⟨31, 16, .ro, 0, 0, 65535⟩
def F.vstate_VREG_FAULT : FieldDesc := ⟨15, 15, .w1c, 0, 0, 1⟩
def F.vstate_SEALED_FIX : FieldDesc := ⟨14, 14, .ro, 0, 0, 1⟩
def F.vstate_PENDING : FieldDesc := ⟨13, 13, .ro, 0, 0, 1⟩
def F.domainState_PKG : FieldDesc := ⟨63, 62, .ro, 0, 0, 3⟩
def F.domainState_SADDLE : FieldDesc := ⟨55, 48, .ro, 0, 0, 255⟩
def F.domainState_PANEL : FieldDesc := ⟨47, 24, .ro, 0, 0, 16777215⟩
def F.thmLog0_TAPE : FieldDesc := ⟨63, 0, .ro, 0, 0, 18446744073709551615⟩
def F.thmLog1_ACTION : FieldDesc := ⟨15, 8, .ro, 0, 0, 255⟩
def F.thmLog1_RULE : FieldDesc := ⟨7, 0, .ro, 0, 0, 255⟩
def F.thmLog2_VALUE1 : FieldDesc := ⟨63, 32, .ro, 0, 0, 4294967295⟩
def F.thmLog2_VALUE0 : FieldDesc := ⟨31, 0, .ro, 0, 0, 4294967295⟩
def F.thmLog3_VALUE3 : FieldDesc := ⟨63, 32, .ro, 0, 0, 4294967295⟩
def F.thmLog3_VALUE2 : FieldDesc := ⟨31, 0, .ro, 0, 0, 4294967295⟩
def F.resPkg_NS : FieldDesc := ⟨63, 0, .ro, 0, 0, 18446744073709551615⟩
def F.resSdl_NS : FieldDesc := ⟨63, 0, .ro, 0, 0, 18446744073709551615⟩
def F.resPnl_NS : FieldDesc := ⟨63, 0, .ro, 0, 0, 18446744073709551615⟩
def F.resHart_NS : FieldDesc := ⟨63, 0, .ro, 0, 0, 18446744073709551615⟩
def F.resShadowPkg_NS : FieldDesc := ⟨63, 0, .ro, 0, 0, 18446744073709551615⟩
def F.resShadowSdl_NS : FieldDesc := ⟨63, 0, .ro, 0, 0, 18446744073709551615⟩
def F.resShadowPnl_NS : FieldDesc := ⟨63, 0, .ro, 0, 0, 18446744073709551615⟩
def F.resShadowHart_NS : FieldDesc := ⟨63, 0, .ro, 0, 0, 18446744073709551615⟩
def F.bootStatus_STEP : FieldDesc := ⟨63, 60, .ro, 0, 0, 15⟩
def F.bootStatus_FAIL_STEP : FieldDesc := ⟨59, 56, .ro, 0, 0, 15⟩
def F.bootStatus_FW_CODE : FieldDesc := ⟨55, 48, .ro, 0, 0, 255⟩
def F.bootStatus_FW_SOURCE : FieldDesc := ⟨47, 44, .ro, 0, 0, 15⟩
def F.bootStatus_FW_SLOT : FieldDesc := ⟨43, 40, .ro, 0, 0, 15⟩
def F.bootStatus_PAT_SLOT : FieldDesc := ⟨39, 36, .ro, 0, 0, 15⟩
def F.bootStatus_LAST_RESET : FieldDesc := ⟨35, 32, .ro, 0, 0, 15⟩
def F.bootStatus_WARM_COUNT : FieldDesc := ⟨15, 0, .ro, 0, 0, 65535⟩
def F.fuseState_FW_ROLLBACK : FieldDesc := ⟨62, 56, .ro, 0, 0, 127⟩
def F.fuseState_PAT_ROLLBACK : FieldDesc := ⟨54, 48, .ro, 0, 0, 127⟩
def F.fuseState_FABRIC_KEY : FieldDesc := ⟨17, 17, .ro, 0, 0, 1⟩
def F.fuseState_HOST_VERIFY : FieldDesc := ⟨16, 16, .ro, 0, 0, 1⟩
def F.fuseState_PROGRAMMED : FieldDesc := ⟨12, 8, .ro, 1, 0, 31⟩
def F.fuseState_REVOKED : FieldDesc := ⟨4, 0, .ro, 0, 0, 31⟩
def F.patStatus_RIVET_DROPPED : FieldDesc := ⟨63, 52, .ro, 0, 0, 4095⟩
def F.patStatus_PANEL_DROPPED : FieldDesc := ⟨51, 40, .ro, 0, 0, 4095⟩
def F.patStatus_PIECE_INDEX : FieldDesc := ⟨39, 24, .ro, 65535, 0, 65535⟩
def F.patStatus_CODE : FieldDesc := ⟨23, 16, .ro, 0, 0, 255⟩
def F.patStatus_SOURCE : FieldDesc := ⟨15, 8, .ro, 0, 0, 255⟩
def F.patStatus_KIND : FieldDesc := ⟨7, 4, .ro, 0, 0, 15⟩
def F.patStatus_LOADED : FieldDesc := ⟨1, 1, .ro, 0, 0, 1⟩
def F.patStatus_BUSY : FieldDesc := ⟨0, 0, .ro, 0, 0, 1⟩
def F.patSeq_ALT_COUNT : FieldDesc := ⟨63, 48, .ro, 0, 0, 65535⟩
def F.patSeq_LAST_SEQ : FieldDesc := ⟨31, 0, .ro, 0, 0, 4294967295⟩
def F.patId_PATTERN_ID : FieldDesc := ⟨63, 0, .ro, 0, 0, 18446744073709551615⟩
def F.patHash_DIGEST : FieldDesc := ⟨63, 0, .ro, 0, 0, 18446744073709551615⟩
def F.kprMode_SEALED : FieldDesc := ⟨63, 52, .ro, 0, 0, 4095⟩
def F.kprMode_ARMED : FieldDesc := ⟨51, 40, .ro, 0, 0, 4095⟩
def F.kprMode_REGION_OK : FieldDesc := ⟨1, 1, .ro, 0, 0, 1⟩
def F.kprMode_SERVICE : FieldDesc := ⟨0, 0, .ro, 0, 0, 1⟩
def F.serviceReq_GO : FieldDesc := ⟨0, 0, .wo, 0, 0, 1⟩
def F.meas_DIGEST : FieldDesc := ⟨63, 0, .ro, 0, 0, 18446744073709551615⟩
def F.doorCtl_STATE : FieldDesc := ⟨63, 62, .ro, 0, 0, 3⟩
def F.doorCtl_BASE : FieldDesc := ⟨55, 12, .rw, 0, 0, 17592186044415⟩
def F.doorCtl_ENABLE : FieldDesc := ⟨0, 0, .rw, 0, 0, 1⟩
def F.doorPtr_RPL_HEAD : FieldDesc := ⟨29, 24, .rw, 0, 0, 63⟩
def F.doorPtr_RPL_TAIL : FieldDesc := ⟨21, 16, .ro, 0, 0, 63⟩
def F.doorPtr_REQ_HEAD : FieldDesc := ⟨13, 8, .ro, 0, 0, 63⟩
def F.doorPtr_REQ_TAIL : FieldDesc := ⟨5, 0, .rw, 0, 0, 63⟩
def F.doorMsiAddr_ADDR : FieldDesc := ⟨55, 2, .rw, 0, 0, 18014398509481983⟩
def F.doorMsiData_DATA : FieldDesc := ⟨31, 0, .rw, 0, 0, 4294967295⟩
def F.debugEn_NONINV : FieldDesc := ⟨1, 1, .kw, 0, 0, 1⟩
def F.debugEn_INV : FieldDesc := ⟨0, 0, .kw, 0, 0, 1⟩
def F.mbxCmd_SEQ : FieldDesc := ⟨47, 32, .rw, 0, 0, 65535⟩
def F.mbxCmd_CODE : FieldDesc := ⟨15, 0, .wo, 0, 0, 65535⟩
def F.mbxStatus_STATE : FieldDesc := ⟨63, 62, .ro, 0, 0, 3⟩
def F.mbxStatus_SEQ : FieldDesc := ⟨47, 32, .ro, 0, 0, 65535⟩
def F.mbxStatus_RESULT : FieldDesc := ⟨31, 24, .ro, 0, 0, 255⟩
def F.mbxStatus_REJECTS : FieldDesc := ⟨23, 16, .ro, 0, 0, 255⟩
def F.mbxStatus_REJECTED_SEQ : FieldDesc := ⟨15, 0, .ro, 0, 0, 65535⟩
def F.mbxNonce_NONCE : FieldDesc := ⟨63, 0, .ro, 0, 0, 18446744073709551615⟩
def F.sbPocket_POCKET : FieldDesc := ⟨11, 0, .rw, 0, 0, 4095⟩
def F.pathLock_HOLDER : FieldDesc := ⟨1, 0, .ro, 0, 0, 3⟩

/-! Register handles. -/

/-- R32. -/
def R.pkgId : Reg := ⟨0x0, 0x240000000000014⟩
/-- R32. -/
def R.pkgSerial : Reg := ⟨0x8, 0⟩
/-- R32. -/
def R.threadStatus : Reg := ⟨0x10, 0⟩
/-- R46. -/
def R.tape : Reg := ⟨0x40, 0⟩
/-- R48. -/
def R.tapeStatus : Reg := ⟨0x48, 0⟩
/-- R261. -/
def R.epoch : Reg := ⟨0x300, 0⟩
/-- R261. -/
def R.epochTape : Reg := ⟨0x308, 0⟩
/-- R455. -/
def R.snapTime : Reg := ⟨0xA40, 0⟩
/-- R455. -/
def R.snapCtl : Reg := ⟨0xA48, 0⟩
/-- R444. -/
def R.errPending (i : Nat) : Reg := ⟨0xA00 + 0x8 * i, 0⟩
/-- R274. -/
def R.boltStatus (i : Nat) : Reg := ⟨0x1000 + 0x8 * i, 0⟩
/-- R378. -/
def R.imsicOwner (i : Nat) : Reg := ⟨0xC100000 + 0x8 * i, 0⟩
/-- R376. -/
def R.svcStatus : Reg := ⟨0x480000, 0⟩
/-- R32. -/
def R.sdlDieId (i : Nat) : Reg := ⟨0x10000000 + 0x10000000 * i, 1⟩
/-- R41. -/
def R.fabPace (i : Nat) : Reg := ⟨0x10000100 + 0x10000000 * i, 0⟩
/-- R158. -/
def R.llcClass (i : Nat) (j : Nat) : Reg := ⟨0x10010000 + 0x10000000 * i + 0x8 * j, 0xFFFF⟩
/-- R155. -/
def R.rangeBase (i : Nat) : Reg := ⟨0x10020000 + 0x10000000 * i, 0⟩
/-- R155. -/
def R.rangeLimit (i : Nat) : Reg := ⟨0x10020008 + 0x10000000 * i, 0⟩
/-- R153. -/
def R.rangeCtl (i : Nat) : Reg := ⟨0x10020010 + 0x10000000 * i, 0⟩
/-- R153. -/
def R.rangeSum0 (i : Nat) : Reg := ⟨0x10020018 + 0x10000000 * i, 0⟩
/-- R153. -/
def R.rangeSum1 (i : Nat) : Reg := ⟨0x10020020 + 0x10000000 * i, 0⟩
/-- R153. -/
def R.rangeTapeStart (i : Nat) : Reg := ⟨0x10020028 + 0x10000000 * i, 0⟩
/-- R154. -/
def R.rangeTapeEnd (i : Nat) : Reg := ⟨0x10020030 + 0x10000000 * i, 0⟩
/-- R154. -/
def R.rangeViol (i : Nat) : Reg := ⟨0x10020038 + 0x10000000 * i, 0⟩
/-- R178. -/
def R.cohCfg (i : Nat) : Reg := ⟨0x10030000 + 0x10000000 * i, 0x20⟩
/-- R335. -/
def R.weltLogPtr (i : Nat) : Reg := ⟨0x10031000 + 0x10000000 * i, 0⟩
/-- R336. -/
def R.weltLogA (i : Nat) (j : Nat) : Reg := ⟨0x10031100 + 0x10000000 * i + 0x20 * j, 0⟩
/-- R336. -/
def R.weltLogT (i : Nat) (j : Nat) : Reg := ⟨0x10031108 + 0x10000000 * i + 0x20 * j, 0⟩
/-- R336. -/
def R.weltLogM (i : Nat) (j : Nat) : Reg := ⟨0x10031110 + 0x10000000 * i + 0x20 * j, 0⟩
/-- R333. -/
def R.panelOwner (i : Nat) (j : Nat) : Reg := ⟨0x10040018 + 0x10000000 * i + 0x20 * j, 0⟩
/-- R251. -/
def R.gusStatus (e : GusEnd) : Reg := ⟨gusBase e, 0⟩
/-- R248. -/
def R.gusRepair (e : GusEnd) : Reg := ⟨gusBase e + 0x8, 0⟩
/-- R248. -/
def R.gusCtl (e : GusEnd) : Reg := ⟨gusBase e + 0x10, 6⟩
/-- R158. -/
def R.slcWayCtl (i : Nat) (j : Nat) : Reg := ⟨0x10100000 + 0x10000000 * i + 0x1000 * j, 0⟩
/-- R156. -/
def R.slcWayState (i : Nat) (j : Nat) : Reg := ⟨0x10100008 + 0x10000000 * i + 0x1000 * j, 0⟩
/-- R152. -/
def R.slcSwCmd (i : Nat) (j : Nat) : Reg := ⟨0x10100010 + 0x10000000 * i + 0x1000 * j, 0⟩
/-- R159. -/
def R.slcLockFill (i : Nat) (j : Nat) : Reg := ⟨0x10100018 + 0x10000000 * i + 0x1000 * j, 0⟩
/-- R192. -/
def R.slcCoh (i : Nat) (j : Nat) : Reg := ⟨0x10100020 + 0x10000000 * i + 0x1000 * j, 0⟩
/-- R263. -/
def R.awlMatch (n : Nat) : Reg := ⟨awlBase n, 0⟩
/-- R266. -/
def R.awlLo (n : Nat) : Reg := ⟨awlBase n + 0x8, 0⟩
/-- R266. -/
def R.awlHi (n : Nat) : Reg := ⟨awlBase n + 0x10, 0⟩
/-- R264. -/
def R.awlCtl (n : Nat) : Reg := ⟨awlBase n + 0x18, 0⟩
/-- R266. -/
def R.awlCount (n : Nat) : Reg := ⟨awlBase n + 0x20, 0⟩
/-- R266. -/
def R.awlTraceBase (n : Nat) : Reg := ⟨awlBase n + 0x28, 0⟩
/-- R266. -/
def R.awlTraceLimit (n : Nat) : Reg := ⟨awlBase n + 0x30, 0⟩
/-- R266. -/
def R.awlTracePtr (n : Nat) : Reg := ⟨awlBase n + 0x38, 0⟩
/-- R454. -/
def R.awlShadow (n : Nat) : Reg := ⟨awlBase n + 0x40, 0⟩
/-- R294. -/
def R.mcInfo (c : Ctlr) : Reg := ⟨ctlrBase c, 0⟩
/-- R286. -/
def R.mcTherm (c : Ctlr) : Reg := ⟨ctlrBase c + 0x8, 0⟩
/-- R287. -/
def R.mcRefresh (c : Ctlr) : Reg := ⟨ctlrBase c + 0x10, 0⟩
/-- R296. -/
def R.mcParam (c : Ctlr) : Reg := ⟨ctlrBase c + 0x18, (match c with | .hbm _ => 0xA0055 | .ddr _ => 0x90055)⟩
/-- R290. -/
def R.mcScrubBase (c : Ctlr) : Reg := ⟨ctlrBase c + 0x100, 0⟩
/-- R290. -/
def R.mcScrubLimit (c : Ctlr) : Reg := ⟨ctlrBase c + 0x108, 0⟩
/-- R290. -/
def R.mcScrubCtl (c : Ctlr) : Reg := ⟨ctlrBase c + 0x110, 0x4000000000⟩
/-- R291. -/
def R.mcScrubSum0 (c : Ctlr) : Reg := ⟨ctlrBase c + 0x118, 0⟩
/-- R291. -/
def R.mcScrubSum1 (c : Ctlr) : Reg := ⟨ctlrBase c + 0x120, 0⟩
/-- R291. -/
def R.mcScrubFirst (c : Ctlr) : Reg := ⟨ctlrBase c + 0x128, 0⟩
/-- R291. -/
def R.mcScrubLast (c : Ctlr) : Reg := ⟨ctlrBase c + 0x130, 0⟩
/-- R290. -/
def R.mcScrubTapeStart (c : Ctlr) : Reg := ⟨ctlrBase c + 0x138, 0⟩
/-- R292. -/
def R.mcScrubTapeEnd (c : Ctlr) : Reg := ⟨ctlrBase c + 0x140, 0⟩
/-- R256. -/
def R.fenceCmd (u : FenceUnit) : Reg := ⟨fenceBase u, 0⟩
/-- R256. -/
def R.fenceStatus (u : FenceUnit) : Reg := ⟨fenceBase u + 0x8, 0⟩
/-- R256. -/
def R.fenceDrop (u : FenceUnit) : Reg := ⟨fenceBase u + 0x10, 0⟩
/-- R32. -/
def R.pnlDieId (i : Nat) : Reg := ⟨0x80000000 + 0x4000000 * i, 2⟩
/-- R68. -/
def R.hartEn (i : Nat) : Reg := ⟨0x80000008 + 0x4000000 * i, 0⟩
/-- R116. -/
def R.resetVec (i : Nat) : Reg := ⟨0x80000010 + 0x4000000 * i, 0⟩
/-- R41. -/
def R.pace (i : Nat) : Reg := ⟨0x80000100 + 0x4000000 * i, 0⟩
/-- R213. -/
def R.iseInfo (i : Nat) (j : Nat) : Reg := ⟨0x80000200 + 0x4000000 * i + 0x10 * j, 0⟩
/-- R213. -/
def R.iseAddr (i : Nat) (j : Nat) : Reg := ⟨0x80000208 + 0x4000000 * i + 0x10 * j, 0⟩
/-- R454. -/
def R.pnlSnapSeq (i : Nat) : Reg := ⟨0x80000FF8 + 0x4000000 * i, 0⟩
/-- R454. -/
def R.hartShadow (i : Nat) (j : Nat) (k : Nat) : Reg := ⟨0x80001000 + 0x4000000 * i + 0x100 * j + 0x8 * k, 0⟩
/-- R452. -/
def R.uctrSel (u : Nat) (i : Nat) : Reg := ⟨uctrBase u + 0xC00 + 0x10 * i, 0⟩
/-- R452. -/
def R.uctr (u : Nat) (i : Nat) : Reg := ⟨uctrBase u + 0xC08 + 0x10 * i, 0⟩
/-- R454. -/
def R.uctrShadow (u : Nat) (i : Nat) : Reg := ⟨uctrBase u + 0xD00 + 0x8 * i, 0⟩
/-- R454. -/
def R.snapUnitSeq (u : Nat) : Reg := ⟨uctrBase u + 0xD80, 0⟩
/-- R439. -/
def R.errRec0 (b : Nat) (i : Nat) : Reg := ⟨bankBase b + 0x800 + 0x20 * i, 0⟩
/-- R439. -/
def R.errRec1 (b : Nat) (i : Nat) : Reg := ⟨bankBase b + 0x808 + 0x20 * i, 0⟩
/-- R439. -/
def R.errRec2 (b : Nat) (i : Nat) : Reg := ⟨bankBase b + 0x810 + 0x20 * i, 0⟩
/-- R439. -/
def R.errRec3 (b : Nat) (i : Nat) : Reg := ⟨bankBase b + 0x818 + 0x20 * i, 0⟩
/-- R443. -/
def R.errStatus (b : Nat) : Reg := ⟨bankBase b + 0x900, 0⟩
/-- R444. -/
def R.errCtl (b : Nat) : Reg := ⟨bankBase b + 0x908, 0x1000000007⟩
/-- R300. -/
def R.hrnNode : Reg := ⟨0x2000000, 0x7FFF⟩
/-- R299. -/
def R.portStatus (i : Nat) : Reg := ⟨0x2000100 + 0x10 * i, 0x7FFF00000000000⟩
/-- R301. -/
def R.portPeer (i : Nat) : Reg := ⟨0x2000108 + 0x10 * i, 0⟩
/-- R333. -/
def R.cqOwner (i : Nat) : Reg := ⟨0x2100000 + 0x1000 * i, 0⟩
/-- R333. -/
def R.rqOwner (i : Nat) : Reg := ⟨0x2800000 + 0x1000 * i, 0⟩
/-- R315. -/
def R.cqBase (i : Nat) : Reg := ⟨0x2100008 + 0x1000 * i, 6⟩
/-- R315. -/
def R.cqTail (i : Nat) : Reg := ⟨0x2100010 + 0x1000 * i, 0⟩
/-- R315. -/
def R.cqStatus (i : Nat) : Reg := ⟨0x2100018 + 0x1000 * i, 0⟩
/-- R319. -/
def R.cqMsiAddr (i : Nat) : Reg := ⟨0x2100020 + 0x1000 * i, 0⟩
/-- R319. -/
def R.cqMsiData (i : Nat) : Reg := ⟨0x2100028 + 0x1000 * i, 0⟩
/-- R325. -/
def R.rqBase (i : Nat) : Reg := ⟨0x2800008 + 0x1000 * i, 0x704⟩
/-- R322. -/
def R.rqSrc (i : Nat) : Reg := ⟨0x2800010 + 0x1000 * i, 0⟩
/-- R325. -/
def R.rqPtr (i : Nat) : Reg := ⟨0x2800018 + 0x1000 * i, 0⟩
/-- R325. -/
def R.rqMsiAddr (i : Nat) : Reg := ⟨0x2800020 + 0x1000 * i, 0⟩
/-- R325. -/
def R.rqMsiData (i : Nat) : Reg := ⟨0x2800028 + 0x1000 * i, 0⟩
/-- R322. -/
def R.export0 (i : Nat) : Reg := ⟨0x3000000 + 0x20 * i, 0⟩
/-- R322. -/
def R.export1 (i : Nat) : Reg := ⟨0x3000008 + 0x20 * i, 0⟩
/-- R322. -/
def R.export2 (i : Nat) : Reg := ⟨0x3000010 + 0x20 * i, 0⟩
/-- R322. -/
def R.export3 (i : Nat) : Reg := ⟨0x3000018 + 0x20 * i, 0⟩
/-- R333. -/
def R.chOwner (i : Nat) (j : Nat) : Reg := ⟨0x600100 + 0x10000 * i + 0x8 * j, 0⟩
/-- R391. -/
def R.chLimit (i : Nat) (j : Nat) : Reg := ⟨0x600140 + 0x10000 * i + 0x8 * j, 0x10000000040⟩
/-- R390. -/
def R.chCtl (i : Nat) (j : Nat) : Reg := ⟨0x601000 + 0x10000 * i + 0x1000 * j, 0⟩
/-- R390. -/
def R.chDesc (i : Nat) (j : Nat) : Reg := ⟨0x601008 + 0x10000 * i + 0x1000 * j, 0⟩
/-- R389. -/
def R.chDone (i : Nat) (j : Nat) : Reg := ⟨0x601010 + 0x10000 * i + 0x1000 * j, 0⟩
/-- R389. -/
def R.chErrAddr (i : Nat) (j : Nat) : Reg := ⟨0x601018 + 0x10000 * i + 0x1000 * j, 0⟩
/-- R387. -/
def R.chMsiAddr (i : Nat) (j : Nat) : Reg := ⟨0x601020 + 0x10000 * i + 0x1000 * j, 0⟩
/-- R387. -/
def R.chMsiData (i : Nat) (j : Nat) : Reg := ⟨0x601028 + 0x10000 * i + 0x1000 * j, 0⟩
/-- R387. -/
def R.chIrq (i : Nat) (j : Nat) : Reg := ⟨0x601030 + 0x10000 * i + 0x1000 * j, 0⟩
/-- R412. -/
def R.thmStatus : Reg := ⟨0xC00000, 0⟩
/-- R411. -/
def R.thmAlarm : Reg := ⟨0xC00008, 0⟩
/-- R411. -/
def R.thmLogPtr : Reg := ⟨0xC00010, 0⟩
/-- R397. -/
def R.vreq (i : Nat) : Reg := ⟨0xC00100 + 0x8 * i, 0x320⟩
/-- R395. -/
def R.vstate (i : Nat) : Reg := ⟨0xC00200 + 0x8 * i, 0⟩
/-- R398. -/
def R.domainState : Reg := ⟨0xC00300, 0⟩
/-- R411. -/
def R.thmLog0 (i : Nat) : Reg := ⟨0xC04000 + 0x20 * i, 0⟩
/-- R411. -/
def R.thmLog1 (i : Nat) : Reg := ⟨0xC04008 + 0x20 * i, 0⟩
/-- R411. -/
def R.thmLog2 (i : Nat) : Reg := ⟨0xC04010 + 0x20 * i, 0⟩
/-- R411. -/
def R.thmLog3 (i : Nat) : Reg := ⟨0xC04018 + 0x20 * i, 0⟩
/-- R405. -/
def R.resPkg (i : Nat) : Reg := ⟨0xC10000 + 0x8 * i, 0⟩
/-- R405. -/
def R.resSdl (i : Nat) (j : Nat) : Reg := ⟨0xC10020 + 0x20 * i + 0x8 * j, 0⟩
/-- R405. -/
def R.resPnl (i : Nat) (j : Nat) : Reg := ⟨0xC10100 + 0x20 * i + 0x8 * j, 0⟩
/-- R405. -/
def R.resHart (i : Nat) (j : Nat) : Reg := ⟨0xC11000 + 0x20 * i + 0x8 * j, 0⟩
/-- R405. -/
def R.resShadowPkg (i : Nat) : Reg := ⟨0xC20000 + 0x8 * i, 0⟩
/-- R405. -/
def R.resShadowSdl (i : Nat) (j : Nat) : Reg := ⟨0xC20020 + 0x20 * i + 0x8 * j, 0⟩
/-- R405. -/
def R.resShadowPnl (i : Nat) (j : Nat) : Reg := ⟨0xC20100 + 0x20 * i + 0x8 * j, 0⟩
/-- R405. -/
def R.resShadowHart (i : Nat) (j : Nat) : Reg := ⟨0xC21000 + 0x20 * i + 0x8 * j, 0⟩
/-- R427. -/
def R.bootStatus : Reg := ⟨0xD000100, 0⟩
/-- R418. -/
def R.fuseState : Reg := ⟨0xD000108, 0x100⟩
/-- R72. -/
def R.patStatus : Reg := ⟨0xD000200, 0xFFFF000000⟩
/-- R79. -/
def R.patSeq : Reg := ⟨0xD000208, 0⟩
/-- R66. -/
def R.patId : Reg := ⟨0xD000210, 0⟩
/-- R73. -/
def R.patHash (i : Nat) : Reg := ⟨0xD000220 + 0x8 * i, 0⟩
/-- R328. -/
def R.kprMode : Reg := ⟨0xD000300, 0⟩
/-- R437. -/
def R.serviceReq : Reg := ⟨0xD000310, 0⟩
/-- R431. -/
def R.meas (i : Nat) (j : Nat) : Reg := ⟨0xD000400 + 0x20 * i + 0x8 * j, 0⟩
/-- R347. -/
def R.doorCtl (i : Nat) : Reg := ⟨0xE000000 + 0x1000 * i, 0⟩
/-- R347. -/
def R.doorPtr (i : Nat) : Reg := ⟨0xE000008 + 0x1000 * i, 0⟩
/-- R348. -/
def R.doorMsiAddr (i : Nat) : Reg := ⟨0xE000010 + 0x1000 * i, 0⟩
/-- R348. -/
def R.doorMsiData (i : Nat) : Reg := ⟨0xE000018 + 0x1000 * i, 0⟩
/-- R360. -/
def R.debugEn (i : Nat) : Reg := ⟨0xF000000 + 0x8 * i, 0⟩
/-- R425. -/
def R.mbxCmd : Reg := ⟨0x100000000, 0⟩
/-- R425. -/
def R.mbxStatus : Reg := ⟨0x100000008, 0⟩
/-- R425. -/
def R.mbxNonce : Reg := ⟨0x100000010, 0⟩
/-- R457. -/
def R.sbPocket : Reg := ⟨0x1800001C0, 0⟩
/-- R458. -/
def R.pathLock : Reg := ⟨0x1800001C4, 0⟩
/-- R57. The reset values are the defaults of R52. -/
def R.deadline (k : Nat) : Reg := ⟨0x100 + 0x8 * k, match k with
  | 0 => 10000 | 1 => 50000 | 2 => 100000 | 4 => 5000 | 5 => 1000000 | 7 => 200000
  | 8 => 1000000 | 9 => 200000 | 10 => 10000000 | _ => 0⟩

/-! The table, in pieces. -/

/-- Registers of R32 to R57, R52. -/
def regTable0 : List RegKind := [
  ⟨0x0, [], 0x240000000000014, [F.pkgId_PART_CODE, F.pkgId_PKG_LEVEL, F.pkgId_MIXED, F.pkgId_PANEL_B0, F.pkgId_PANEL_OK, F.pkgId_SADDLE_OK, F.pkgId_CORES_PER_PANEL]⟩,
  ⟨0x8, [], 0x0, [F.pkgSerial_SERIAL]⟩,
  ⟨0x10, [], 0x0, [F.threadStatus_FAIL_POS, F.threadStatus_FAIL_KIND, F.threadStatus_LOOP_OK, F.threadStatus_POS_OK]⟩,
  ⟨0x40, [], 0x0, [F.tape_NOW]⟩,
  ⟨0x48, [], 0x0, [F.tapeStatus_DIE_HOLD, F.tapeStatus_HOLDOVER_SEEN, F.tapeStatus_HOLDOVER]⟩,
  ⟨0x100, [], 0x2710, [F.deadline_VALUE_NS]⟩,
  ⟨0x108, [], 0xC350, [F.deadline1_VALUE_NS]⟩,
  ⟨0x110, [], 0x186A0, [F.deadline2_VALUE_NS]⟩,
  ⟨0x118, [], 0x0, [F.deadline3_VALUE_NS]⟩,
  ⟨0x120, [], 0x1388, [F.deadline4_VALUE_NS]⟩,
  ⟨0x128, [], 0xF4240, [F.deadline5_VALUE_NS]⟩,
  ⟨0x130, [], 0x0, [F.deadline6_VALUE_NS]⟩]
/-- Registers of R57, R52 to R376. -/
def regTable1 : List RegKind := [
  ⟨0x138, [], 0x30D40, [F.deadline7_VALUE_NS]⟩,
  ⟨0x140, [], 0xF4240, [F.deadline8_VALUE_NS]⟩,
  ⟨0x148, [], 0x30D40, [F.deadline9_VALUE_NS]⟩,
  ⟨0x150, [], 0x989680, [F.deadline10_VALUE_NS]⟩,
  ⟨0x300, [], 0x0, [F.epoch_SWITCHES, F.epoch_WAITING, F.epoch_HOLDING, F.epoch_CURRENT]⟩,
  ⟨0x308, [], 0x0, [F.epochTape_TAPE]⟩,
  ⟨0xA40, [], 0x0, [F.snapTime_TIME]⟩,
  ⟨0xA48, [], 0x0, [F.snapCtl_STATE, F.snapCtl_FROZEN, F.snapCtl_PARTIAL, F.snapCtl_SEQ, F.snapCtl_OP]⟩,
  ⟨0xA00, [(2, 0x8)], 0x0, [F.errPending_BANKS]⟩,
  ⟨0x1000, [(64, 0x8)], 0x0, [F.boltStatus_STATE, F.boltStatus_KIND, F.boltStatus_SCOPE, F.boltStatus_GRANULE, F.boltStatus_NODE, F.boltStatus_BASE_GIB, F.boltStatus_SIZE_GIB, F.boltStatus_MASK]⟩,
  ⟨0xC100000, [(3072, 0x8)], 0x0, [F.imsicOwner_ENABLE, F.imsicOwner_POCKET]⟩,
  ⟨0x480000, [], 0x0, [F.svcStatus_STAGING_DROPS, F.svcStatus_LINK_SPEED, F.svcStatus_LINK_WIDTH, F.svcStatus_LINK_UP]⟩]
/-- Registers of R32 to R178. -/
def regTable2 : List RegKind := [
  ⟨0x10000000, [(4, 0x10000000)], 0x1, [F.sdlDieId_FEAT_LEVEL, F.sdlDieId_STEPPING, F.sdlDieId_QUADRANT, F.sdlDieId_ROT, F.sdlDieId_STRAP_OK, F.sdlDieId_DIE_TYPE]⟩,
  ⟨0x10000100, [(4, 0x10000000)], 0x0, [F.fabPace_CLR, F.fabPace_MAX, F.fabPace_MIN, F.fabPace_CURRENT]⟩,
  ⟨0x10010000, [(4, 0x10000000), (16, 0x8)], 0xFFFF, [F.llcClass_MASK]⟩,
  ⟨0x10020000, [(4, 0x10000000)], 0x0, [F.rangeBase_LINE]⟩,
  ⟨0x10020008, [(4, 0x10000000)], 0x0, [F.rangeLimit_LINE]⟩,
  ⟨0x10020010, [(4, 0x10000000)], 0x0, [F.rangeCtl_STATUS, F.rangeCtl_POCKET, F.rangeCtl_IRQ_EN, F.rangeCtl_ABORT, F.rangeCtl_GO, F.rangeCtl_OP]⟩,
  ⟨0x10020018, [(4, 0x10000000)], 0x0, [F.rangeSum0_WRITTEN, F.rangeSum0_SCANNED]⟩,
  ⟨0x10020020, [(4, 0x10000000)], 0x0, [F.rangeSum1_LOCKED_TOUCHED, F.rangeSum1_INVALIDATED]⟩,
  ⟨0x10020028, [(4, 0x10000000)], 0x0, [F.rangeTapeStart_TAPE]⟩,
  ⟨0x10020030, [(4, 0x10000000)], 0x0, [F.rangeTapeEnd_TAPE]⟩,
  ⟨0x10020038, [(4, 0x10000000)], 0x0, [F.rangeViol_VIOL_LINE]⟩,
  ⟨0x10030000, [(4, 0x10000000)], 0x20, [F.cohCfg_HOLD_WINDOW]⟩]
/-- Registers of R335 to R159. -/
def regTable3 : List RegKind := [
  ⟨0x10031000, [(4, 0x10000000)], 0x0, [F.weltLogPtr_LOST, F.weltLogPtr_TAIL, F.weltLogPtr_HEAD]⟩,
  ⟨0x10031100, [(4, 0x10000000), (64, 0x20)], 0x0, [F.weltLogA_SRC, F.weltLogA_ADDR]⟩,
  ⟨0x10031108, [(4, 0x10000000), (64, 0x20)], 0x0, [F.weltLogT_TAPE]⟩,
  ⟨0x10031110, [(4, 0x10000000), (64, 0x20)], 0x0, [F.weltLogM_POCKET, F.weltLogM_OP, F.weltLogM_REASON, F.weltLogM_CLASS, F.weltLogM_TXID]⟩,
  ⟨0x10040018, [(4, 0x10000000), (3, 0x20)], 0x0, [F.panelOwner_ENABLE, F.panelOwner_POCKET]⟩,
  ⟨0x10060000, [(4, 0x10000000), (5, 0x20)], 0x0, [F.gusStatus_ACTIVE, F.gusStatus_LOCAL_GOOD, F.gusStatus_PEER_GOOD, F.gusStatus_STATE, F.gusStatus_RETRIES, F.gusStatus_WIDTH_EVENT, F.gusStatus_REOPENS]⟩,
  ⟨0x10060008, [(4, 0x10000000), (5, 0x20)], 0x0, [F.gusRepair_RETIRED, F.gusRepair_SPARES_USED]⟩,
  ⟨0x10060010, [(4, 0x10000000), (5, 0x20)], 0x6, [F.gusCtl_ATTEMPTS, F.gusCtl_REOPEN]⟩,
  ⟨0x10100000, [(4, 0x10000000), (24, 0x1000)], 0x0, [F.slcWayCtl_LOCK, F.slcWayCtl_OFF]⟩,
  ⟨0x10100008, [(4, 0x10000000), (24, 0x1000)], 0x0, [F.slcWayState_PWR_OFF, F.slcWayState_CLEANING]⟩,
  ⟨0x10100010, [(4, 0x10000000), (24, 0x1000)], 0x0, [F.slcSwCmd_RESULT, F.slcSwCmd_LOCKED, F.slcSwCmd_SET, F.slcSwCmd_WAY, F.slcSwCmd_OP]⟩,
  ⟨0x10100018, [(4, 0x10000000), (24, 0x1000)], 0x0, [F.slcLockFill_STATUS, F.slcLockFill_WAY, F.slcLockFill_LINE, F.slcLockFill_GO]⟩]
/-- Registers of R192 to R286. -/
def regTable4 : List RegKind := [
  ⟨0x10100020, [(4, 0x10000000), (24, 0x1000)], 0x0, [F.slcCoh_TOKENS, F.slcCoh_TRACKERS, F.slcCoh_LATE, F.slcCoh_SUPERSEDED]⟩,
  ⟨0x10050000, [(4, 0x10000000), (4, 0x100)], 0x0, [F.awlMatch_CLASS_MASK, F.awlMatch_PRIO_MASK, F.awlMatch_POCKET_EN, F.awlMatch_POCKET, F.awlMatch_SRC, F.awlMatch_SRC_MASK, F.awlMatch_DST, F.awlMatch_DST_MASK, F.awlMatch_ADDR_EN]⟩,
  ⟨0x10050008, [(4, 0x10000000), (4, 0x100)], 0x0, [F.awlLo_LINE]⟩,
  ⟨0x10050010, [(4, 0x10000000), (4, 0x100)], 0x0, [F.awlHi_LINE]⟩,
  ⟨0x10050018, [(4, 0x10000000), (4, 0x100)], 0x0, [F.awlCtl_DROPS, F.awlCtl_OVERFLOW, F.awlCtl_SAMPLE, F.awlCtl_WRAP, F.awlCtl_MODE, F.awlCtl_ENABLE]⟩,
  ⟨0x10050020, [(4, 0x10000000), (4, 0x100)], 0x0, [F.awlCount_COUNT]⟩,
  ⟨0x10050028, [(4, 0x10000000), (4, 0x100)], 0x0, [F.awlTraceBase_ADDR]⟩,
  ⟨0x10050030, [(4, 0x10000000), (4, 0x100)], 0x0, [F.awlTraceLimit_ADDR]⟩,
  ⟨0x10050038, [(4, 0x10000000), (4, 0x100)], 0x0, [F.awlTracePtr_PTR]⟩,
  ⟨0x10050040, [(4, 0x10000000), (4, 0x100)], 0x0, [F.awlShadow_COUNT]⟩,
  ⟨0x10080000, [(4, 0x10000000), (2, 0x10000)], 0x0, [F.mcInfo_STATE, F.mcInfo_RATE, F.mcInfo_CAPACITY_GIB, F.mcInfo_RANKS, F.mcInfo_DPC, F.mcInfo_STACK]⟩,
  ⟨0x10080008, [(4, 0x10000000), (2, 0x10000)], 0x0, [F.mcTherm_TEMP, F.mcTherm_READ_FAIL, F.mcTherm_ALARM_SEEN, F.mcTherm_ALARM, F.mcTherm_DOUBLED]⟩]
/-- Registers of R287 to R256. -/
def regTable5 : List RegKind := [
  ⟨0x10080010, [(4, 0x10000000), (2, 0x10000)], 0x0, [F.mcRefresh_ALLOW_NS, F.mcRefresh_RFM_COUNT, F.mcRefresh_FGR]⟩,
  ⟨0x10080018, [(4, 0x10000000), (2, 0x10000)], 0xA0055, [F.mcParam_RFM_K, F.mcParam_TEMP_HI]⟩,
  ⟨0x10080100, [(4, 0x10000000), (2, 0x10000)], 0x0, [F.mcScrubBase_LINE]⟩,
  ⟨0x10080108, [(4, 0x10000000), (2, 0x10000)], 0x0, [F.mcScrubLimit_LINE]⟩,
  ⟨0x10080110, [(4, 0x10000000), (2, 0x10000)], 0x4000000000, [F.mcScrubCtl_STATUS, F.mcScrubCtl_RATE, F.mcScrubCtl_IRQ_EN, F.mcScrubCtl_ABORT, F.mcScrubCtl_GO, F.mcScrubCtl_MODE]⟩,
  ⟨0x10080118, [(4, 0x10000000), (2, 0x10000)], 0x0, [F.mcScrubSum0_CORRECTED, F.mcScrubSum0_SCANNED]⟩,
  ⟨0x10080120, [(4, 0x10000000), (2, 0x10000)], 0x0, [F.mcScrubSum1_POISONED, F.mcScrubSum1_UNCORRECTED]⟩,
  ⟨0x10080128, [(4, 0x10000000), (2, 0x10000)], 0x0, [F.mcScrubFirst_LINE]⟩,
  ⟨0x10080130, [(4, 0x10000000), (2, 0x10000)], 0x0, [F.mcScrubLast_LINE]⟩,
  ⟨0x10080138, [(4, 0x10000000), (2, 0x10000)], 0x0, [F.mcScrubTapeStart_TAPE]⟩,
  ⟨0x10080140, [(4, 0x10000000), (2, 0x10000)], 0x0, [F.mcScrubTapeEnd_TAPE]⟩,
  ⟨0x10080F00, [(4, 0x10000000), (2, 0x10000)], 0x0, [F.fenceCmd_ON]⟩]
/-- Registers of R256 to R452. -/
def regTable6 : List RegKind := [
  ⟨0x10080F08, [(4, 0x10000000), (2, 0x10000)], 0x0, [F.fenceStatus_STATE, F.fenceStatus_FAULTED, F.fenceStatus_FENCE_LATE, F.fenceStatus_MISMATCH, F.fenceStatus_DOMOFF_COUNT, F.fenceStatus_POSTED_DROPS]⟩,
  ⟨0x10080F10, [(4, 0x10000000), (2, 0x10000)], 0x0, [F.fenceDrop_VALID, F.fenceDrop_ADDR]⟩,
  ⟨0x80000000, [(12, 0x4000000)], 0x2, [F.pnlDieId_CORE_FUSE, F.pnlDieId_FEAT_LEVEL, F.pnlDieId_STEPPING, F.pnlDieId_SADDLE, F.pnlDieId_SITE, F.pnlDieId_ROT, F.pnlDieId_MIRROR, F.pnlDieId_ORIENT_OK, F.pnlDieId_DIE_TYPE]⟩,
  ⟨0x80000008, [(12, 0x4000000)], 0x0, [F.hartEn_PANEL_EN, F.hartEn_CORE_EN]⟩,
  ⟨0x80000010, [(12, 0x4000000)], 0x0, [F.resetVec_ADDR]⟩,
  ⟨0x80000100, [(12, 0x4000000)], 0x0, [F.pace_CLR, F.pace_MAX, F.pace_MIN, F.pace_CURRENT]⟩,
  ⟨0x80000200, [(12, 0x4000000), (20, 0x10)], 0x0, [F.iseInfo_VALID, F.iseInfo_OVERFLOW, F.iseInfo_RESP, F.iseInfo_COUNT, F.iseInfo_POCKET]⟩,
  ⟨0x80000208, [(12, 0x4000000), (20, 0x10)], 0x0, [F.iseAddr_ADDR]⟩,
  ⟨0x80000FF8, [(12, 0x4000000)], 0x0, [F.pnlSnapSeq_SEQ]⟩,
  ⟨0x80001000, [(12, 0x4000000), (20, 0x100), (11, 0x8)], 0x0, [F.hartShadow_COUNT]⟩,
  ⟨0x10000C00, [(4, 0x10000000), (16, 0x10)], 0x0, [F.uctrSel_EN, F.uctrSel_PF_EN, F.uctrSel_POCKET, F.uctrSel_SOURCE, F.uctrSel_EVENT]⟩,
  ⟨0x10000C08, [(4, 0x10000000), (16, 0x10)], 0x0, [F.uctr_COUNT]⟩]
/-- Registers of R454 to R333. -/
def regTable7 : List RegKind := [
  ⟨0x10000D00, [(4, 0x10000000), (16, 0x8)], 0x0, [F.uctrShadow_COUNT]⟩,
  ⟨0x10000D80, [(4, 0x10000000)], 0x0, [F.snapUnitSeq_SEQ]⟩,
  ⟨0x80000800, [(12, 0x4000000), (8, 0x20)], 0x0, [F.errRec0_VALID, F.errRec0_REPLACED, F.errRec0_SEV, F.errRec0_KIND, F.errRec0_UNIT, F.errRec0_SEQ]⟩,
  ⟨0x80000808, [(12, 0x4000000), (8, 0x20)], 0x0, [F.errRec1_AKIND, F.errRec1_ADDR]⟩,
  ⟨0x80000810, [(12, 0x4000000), (8, 0x20)], 0x0, [F.errRec2_TAPE]⟩,
  ⟨0x80000818, [(12, 0x4000000), (8, 0x20)], 0x0, [F.errRec3_MISC]⟩,
  ⟨0x80000900, [(12, 0x4000000)], 0x0, [F.errStatus_VALID, F.errStatus_THRESH, F.errStatus_LOST, F.errStatus_CE_COUNT]⟩,
  ⟨0x80000908, [(12, 0x4000000)], 0x1000000007, [F.errCtl_CE_THRESH, F.errCtl_IRQ_UCP, F.errCtl_IRQ_UCNA, F.errCtl_IRQ_CE]⟩,
  ⟨0x2000000, [], 0x7FFF, [F.hrnNode_ASSIGNED, F.hrnNode_DUP_SEEN, F.hrnNode_PROV_ID, F.hrnNode_NODE_ID]⟩,
  ⟨0x2000100, [(16, 0x10)], 0x7FFF00000000000, [F.portStatus_STATE, F.portStatus_LANES, F.portStatus_PEER_NODE, F.portStatus_PEER_PORT, F.portStatus_RETRAINS, F.portStatus_REPLAYS, F.portStatus_DROPS]⟩,
  ⟨0x2000108, [(16, 0x10)], 0x0, [F.portPeer_SERIAL]⟩,
  ⟨0x2100000, [(1024, 0x1000)], 0x0, [F.cqOwner_ENABLE, F.cqOwner_POCKET]⟩]
/-- Registers of R333 to R322. -/
def regTable8 : List RegKind := [
  ⟨0x2800000, [(1024, 0x1000)], 0x0, [F.rqOwner_ENABLE, F.rqOwner_POCKET]⟩,
  ⟨0x2100008, [(1024, 0x1000)], 0x6, [F.cqBase_BASE, F.cqBase_LOG_ENTRIES]⟩,
  ⟨0x2100010, [(1024, 0x1000)], 0x0, [F.cqTail_TAIL]⟩,
  ⟨0x2100018, [(1024, 0x1000)], 0x0, [F.cqStatus_STATE, F.cqStatus_OUTSTANDING, F.cqStatus_HEAD]⟩,
  ⟨0x2100020, [(1024, 0x1000)], 0x0, [F.cqMsiAddr_ADDR]⟩,
  ⟨0x2100028, [(1024, 0x1000)], 0x0, [F.cqMsiData_DATA]⟩,
  ⟨0x2800008, [(1024, 0x1000)], 0x704, [F.rqBase_BASE, F.rqBase_SLOT_LOG, F.rqBase_LOG_SLOTS]⟩,
  ⟨0x2800010, [(1024, 0x1000)], 0x0, [F.rqSrc_ANY_POCKET, F.rqSrc_NODE_HI, F.rqSrc_NODE_LO, F.rqSrc_SRC_POCKET]⟩,
  ⟨0x2800018, [(1024, 0x1000)], 0x0, [F.rqPtr_DROPS, F.rqPtr_TAIL, F.rqPtr_HEAD]⟩,
  ⟨0x2800020, [(1024, 0x1000)], 0x0, [F.rqMsiAddr_ADDR]⟩,
  ⟨0x2800028, [(1024, 0x1000)], 0x0, [F.rqMsiData_DATA]⟩,
  ⟨0x3000000, [(4096, 0x20)], 0x0, [F.export0_VALID, F.export0_RIGHTS, F.export0_ANY_POCKET, F.export0_NODE_HI, F.export0_NODE_LO]⟩]
/-- Registers of R322 to R387. -/
def regTable9 : List RegKind := [
  ⟨0x3000008, [(4096, 0x20)], 0x0, [F.export1_SRC_POCKET, F.export1_DST_POCKET]⟩,
  ⟨0x3000010, [(4096, 0x20)], 0x0, [F.export2_BASE]⟩,
  ⟨0x3000018, [(4096, 0x20)], 0x0, [F.export3_LIMIT]⟩,
  ⟨0x600100, [(64, 0x10000), (8, 0x8)], 0x0, [F.chOwner_ENABLE, F.chOwner_POCKET]⟩,
  ⟨0x600140, [(64, 0x10000), (8, 0x8)], 0x10000000040, [F.chLimit_SHARE_MAX, F.chLimit_MAX_BEATS]⟩,
  ⟨0x601000, [(64, 0x10000), (8, 0x1000)], 0x0, [F.chCtl_STATE, F.chCtl_RESP, F.chCtl_INFLIGHT, F.chCtl_SHARE, F.chCtl_ABORT, F.chCtl_GO]⟩,
  ⟨0x601008, [(64, 0x10000), (8, 0x1000)], 0x0, [F.chDesc_ADDR]⟩,
  ⟨0x601010, [(64, 0x10000), (8, 0x1000)], 0x0, [F.chDone_DESCS, F.chDone_BYTES_DONE]⟩,
  ⟨0x601018, [(64, 0x10000), (8, 0x1000)], 0x0, [F.chErrAddr_ADDR]⟩,
  ⟨0x601020, [(64, 0x10000), (8, 0x1000)], 0x0, [F.chMsiAddr_ADDR]⟩,
  ⟨0x601028, [(64, 0x10000), (8, 0x1000)], 0x0, [F.chMsiData_DATA]⟩,
  ⟨0x601030, [(64, 0x10000), (8, 0x1000)], 0x0, [F.chIrq_ERR, F.chIrq_FULL, F.chIrq_HALF]⟩]
/-- Registers of R412 to R405. -/
def regTable10 : List RegKind := [
  ⟨0xC00000, [], 0x0, [F.thmStatus_LOOPS, F.thmStatus_LATE, F.thmStatus_TRIPPED, F.thmStatus_ALERT, F.thmStatus_RUNNING]⟩,
  ⟨0xC00008, [], 0x0, [F.thmAlarm_BITS]⟩,
  ⟨0xC00010, [], 0x0, [F.thmLogPtr_LOST, F.thmLogPtr_TAIL, F.thmLogPtr_HEAD]⟩,
  ⟨0xC00100, [(12, 0x8)], 0x320, [F.vreq_MV]⟩,
  ⟨0xC00200, [(12, 0x8)], 0x0, [F.vstate_IN_FORCE, F.vstate_TARGET, F.vstate_CAP, F.vstate_VREG_FAULT, F.vstate_SEALED_FIX, F.vstate_PENDING]⟩,
  ⟨0xC00300, [], 0x0, [F.domainState_PKG, F.domainState_SADDLE, F.domainState_PANEL]⟩,
  ⟨0xC04000, [(64, 0x20)], 0x0, [F.thmLog0_TAPE]⟩,
  ⟨0xC04008, [(64, 0x20)], 0x0, [F.thmLog1_ACTION, F.thmLog1_RULE]⟩,
  ⟨0xC04010, [(64, 0x20)], 0x0, [F.thmLog2_VALUE1, F.thmLog2_VALUE0]⟩,
  ⟨0xC04018, [(64, 0x20)], 0x0, [F.thmLog3_VALUE3, F.thmLog3_VALUE2]⟩,
  ⟨0xC10000, [(3, 0x8)], 0x0, [F.resPkg_NS]⟩,
  ⟨0xC10020, [(4, 0x20), (3, 0x8)], 0x0, [F.resSdl_NS]⟩]
/-- Registers of R405 to R73. -/
def regTable11 : List RegKind := [
  ⟨0xC10100, [(12, 0x20), (3, 0x8)], 0x0, [F.resPnl_NS]⟩,
  ⟨0xC11000, [(384, 0x20), (3, 0x8)], 0x0, [F.resHart_NS]⟩,
  ⟨0xC20000, [(3, 0x8)], 0x0, [F.resShadowPkg_NS]⟩,
  ⟨0xC20020, [(4, 0x20), (3, 0x8)], 0x0, [F.resShadowSdl_NS]⟩,
  ⟨0xC20100, [(12, 0x20), (3, 0x8)], 0x0, [F.resShadowPnl_NS]⟩,
  ⟨0xC21000, [(384, 0x20), (3, 0x8)], 0x0, [F.resShadowHart_NS]⟩,
  ⟨0xD000100, [], 0x0, [F.bootStatus_STEP, F.bootStatus_FAIL_STEP, F.bootStatus_FW_CODE, F.bootStatus_FW_SOURCE, F.bootStatus_FW_SLOT, F.bootStatus_PAT_SLOT, F.bootStatus_LAST_RESET, F.bootStatus_WARM_COUNT]⟩,
  ⟨0xD000108, [], 0x100, [F.fuseState_FW_ROLLBACK, F.fuseState_PAT_ROLLBACK, F.fuseState_FABRIC_KEY, F.fuseState_HOST_VERIFY, F.fuseState_PROGRAMMED, F.fuseState_REVOKED]⟩,
  ⟨0xD000200, [], 0xFFFF000000, [F.patStatus_RIVET_DROPPED, F.patStatus_PANEL_DROPPED, F.patStatus_PIECE_INDEX, F.patStatus_CODE, F.patStatus_SOURCE, F.patStatus_KIND, F.patStatus_LOADED, F.patStatus_BUSY]⟩,
  ⟨0xD000208, [], 0x0, [F.patSeq_ALT_COUNT, F.patSeq_LAST_SEQ]⟩,
  ⟨0xD000210, [], 0x0, [F.patId_PATTERN_ID]⟩,
  ⟨0xD000220, [(4, 0x8)], 0x0, [F.patHash_DIGEST]⟩]
/-- Registers of R328 to R457. -/
def regTable12 : List RegKind := [
  ⟨0xD000300, [], 0x0, [F.kprMode_SEALED, F.kprMode_ARMED, F.kprMode_REGION_OK, F.kprMode_SERVICE]⟩,
  ⟨0xD000310, [], 0x0, [F.serviceReq_GO]⟩,
  ⟨0xD000400, [(16, 0x20), (4, 0x8)], 0x0, [F.meas_DIGEST]⟩,
  ⟨0xE000000, [(4096, 0x1000)], 0x0, [F.doorCtl_STATE, F.doorCtl_BASE, F.doorCtl_ENABLE]⟩,
  ⟨0xE000008, [(4096, 0x1000)], 0x0, [F.doorPtr_RPL_HEAD, F.doorPtr_RPL_TAIL, F.doorPtr_REQ_HEAD, F.doorPtr_REQ_TAIL]⟩,
  ⟨0xE000010, [(4096, 0x1000)], 0x0, [F.doorMsiAddr_ADDR]⟩,
  ⟨0xE000018, [(4096, 0x1000)], 0x0, [F.doorMsiData_DATA]⟩,
  ⟨0xF000000, [(4096, 0x8)], 0x0, [F.debugEn_NONINV, F.debugEn_INV]⟩,
  ⟨0x100000000, [], 0x0, [F.mbxCmd_SEQ, F.mbxCmd_CODE]⟩,
  ⟨0x100000008, [], 0x0, [F.mbxStatus_STATE, F.mbxStatus_SEQ, F.mbxStatus_RESULT, F.mbxStatus_REJECTS, F.mbxStatus_REJECTED_SEQ]⟩,
  ⟨0x100000010, [], 0x0, [F.mbxNonce_NONCE]⟩,
  ⟨0x1800001C0, [], 0x0, [F.sbPocket_POCKET]⟩]
/-- Registers of R458 to R266. -/
def regTable13 : List RegKind := [
  ⟨0x1800001C4, [], 0x0, [F.pathLock_HOLDER]⟩,
  ⟨0x60000, [(4, 0x20)], 0x0, [F.gusStatus_ACTIVE, F.gusStatus_LOCAL_GOOD, F.gusStatus_PEER_GOOD, F.gusStatus_STATE, F.gusStatus_RETRIES, F.gusStatus_WIDTH_EVENT, F.gusStatus_REOPENS]⟩,
  ⟨0x60008, [(4, 0x20)], 0x0, [F.gusRepair_RETIRED, F.gusRepair_SPARES_USED]⟩,
  ⟨0x60010, [(4, 0x20)], 0x6, [F.gusCtl_ATTEMPTS, F.gusCtl_REOPEN]⟩,
  ⟨0x10040000, [(4, 0x10000000), (3, 0x20)], 0x0, [F.fenceCmd_ON]⟩,
  ⟨0x10040008, [(4, 0x10000000), (3, 0x20)], 0x0, [F.fenceStatus_STATE, F.fenceStatus_FAULTED, F.fenceStatus_FENCE_LATE, F.fenceStatus_MISMATCH, F.fenceStatus_DOMOFF_COUNT, F.fenceStatus_POSTED_DROPS]⟩,
  ⟨0x10040010, [(4, 0x10000000), (3, 0x20)], 0x0, [F.fenceDrop_VALID, F.fenceDrop_ADDR]⟩,
  ⟨0x10040060, [(4, 0x10000000)], 0x0, [F.fenceCmd_ON]⟩,
  ⟨0x10040068, [(4, 0x10000000)], 0x0, [F.fenceStatus_STATE, F.fenceStatus_FAULTED, F.fenceStatus_FENCE_LATE, F.fenceStatus_MISMATCH, F.fenceStatus_DOMOFF_COUNT, F.fenceStatus_POSTED_DROPS]⟩,
  ⟨0x10040070, [(4, 0x10000000)], 0x0, [F.fenceDrop_VALID, F.fenceDrop_ADDR]⟩,
  ⟨0x10050400, [(4, 0x10000000), (2, 0x100)], 0x0, [F.awlMatch_CLASS_MASK, F.awlMatch_PRIO_MASK, F.awlMatch_POCKET_EN, F.awlMatch_POCKET, F.awlMatch_SRC, F.awlMatch_SRC_MASK, F.awlMatch_DST, F.awlMatch_DST_MASK, F.awlMatch_ADDR_EN]⟩,
  ⟨0x10050408, [(4, 0x10000000), (2, 0x100)], 0x0, [F.awlLo_LINE]⟩]
/-- Registers of R266 to R266. -/
def regTable14 : List RegKind := [
  ⟨0x10050410, [(4, 0x10000000), (2, 0x100)], 0x0, [F.awlHi_LINE]⟩,
  ⟨0x10050418, [(4, 0x10000000), (2, 0x100)], 0x0, [F.awlCtl_DROPS, F.awlCtl_OVERFLOW, F.awlCtl_SAMPLE, F.awlCtl_WRAP, F.awlCtl_MODE, F.awlCtl_ENABLE]⟩,
  ⟨0x10050420, [(4, 0x10000000), (2, 0x100)], 0x0, [F.awlCount_COUNT]⟩,
  ⟨0x10050428, [(4, 0x10000000), (2, 0x100)], 0x0, [F.awlTraceBase_ADDR]⟩,
  ⟨0x10050430, [(4, 0x10000000), (2, 0x100)], 0x0, [F.awlTraceLimit_ADDR]⟩,
  ⟨0x10050438, [(4, 0x10000000), (2, 0x100)], 0x0, [F.awlTracePtr_PTR]⟩,
  ⟨0x10050440, [(4, 0x10000000), (2, 0x100)], 0x0, [F.awlShadow_COUNT]⟩,
  ⟨0x500000, [(8, 0x100)], 0x0, [F.awlMatch_CLASS_MASK, F.awlMatch_PRIO_MASK, F.awlMatch_POCKET_EN, F.awlMatch_POCKET, F.awlMatch_SRC, F.awlMatch_SRC_MASK, F.awlMatch_DST, F.awlMatch_DST_MASK, F.awlMatch_ADDR_EN]⟩,
  ⟨0x500008, [(8, 0x100)], 0x0, [F.awlLo_LINE]⟩,
  ⟨0x500010, [(8, 0x100)], 0x0, [F.awlHi_LINE]⟩,
  ⟨0x500018, [(8, 0x100)], 0x0, [F.awlCtl_DROPS, F.awlCtl_OVERFLOW, F.awlCtl_SAMPLE, F.awlCtl_WRAP, F.awlCtl_MODE, F.awlCtl_ENABLE]⟩,
  ⟨0x500020, [(8, 0x100)], 0x0, [F.awlCount_COUNT]⟩]
/-- Registers of R266 to R291. -/
def regTable15 : List RegKind := [
  ⟨0x500028, [(8, 0x100)], 0x0, [F.awlTraceBase_ADDR]⟩,
  ⟨0x500030, [(8, 0x100)], 0x0, [F.awlTraceLimit_ADDR]⟩,
  ⟨0x500038, [(8, 0x100)], 0x0, [F.awlTracePtr_PTR]⟩,
  ⟨0x500040, [(8, 0x100)], 0x0, [F.awlShadow_COUNT]⟩,
  ⟨0x100A0000, [(4, 0x10000000), (3, 0x10000)], 0x0, [F.mcInfo_STATE, F.mcInfo_RATE, F.mcInfo_CAPACITY_GIB, F.mcInfo_RANKS, F.mcInfo_DPC, F.mcInfo_STACK]⟩,
  ⟨0x100A0008, [(4, 0x10000000), (3, 0x10000)], 0x0, [F.mcTherm_TEMP, F.mcTherm_READ_FAIL, F.mcTherm_ALARM_SEEN, F.mcTherm_ALARM, F.mcTherm_DOUBLED]⟩,
  ⟨0x100A0010, [(4, 0x10000000), (3, 0x10000)], 0x0, [F.mcRefresh_ALLOW_NS, F.mcRefresh_RFM_COUNT, F.mcRefresh_FGR]⟩,
  ⟨0x100A0018, [(4, 0x10000000), (3, 0x10000)], 0x90055, [⟨20, 16, .kw, 9, 6, 16⟩, F.mcParam_TEMP_HI]⟩,
  ⟨0x100A0100, [(4, 0x10000000), (3, 0x10000)], 0x0, [F.mcScrubBase_LINE]⟩,
  ⟨0x100A0108, [(4, 0x10000000), (3, 0x10000)], 0x0, [F.mcScrubLimit_LINE]⟩,
  ⟨0x100A0110, [(4, 0x10000000), (3, 0x10000)], 0x4000000000, [F.mcScrubCtl_STATUS, F.mcScrubCtl_RATE, F.mcScrubCtl_IRQ_EN, F.mcScrubCtl_ABORT, F.mcScrubCtl_GO, F.mcScrubCtl_MODE]⟩,
  ⟨0x100A0118, [(4, 0x10000000), (3, 0x10000)], 0x0, [F.mcScrubSum0_CORRECTED, F.mcScrubSum0_SCANNED]⟩]
/-- Registers of R291 to R256. -/
def regTable16 : List RegKind := [
  ⟨0x100A0120, [(4, 0x10000000), (3, 0x10000)], 0x0, [F.mcScrubSum1_POISONED, F.mcScrubSum1_UNCORRECTED]⟩,
  ⟨0x100A0128, [(4, 0x10000000), (3, 0x10000)], 0x0, [F.mcScrubFirst_LINE]⟩,
  ⟨0x100A0130, [(4, 0x10000000), (3, 0x10000)], 0x0, [F.mcScrubLast_LINE]⟩,
  ⟨0x100A0138, [(4, 0x10000000), (3, 0x10000)], 0x0, [F.mcScrubTapeStart_TAPE]⟩,
  ⟨0x100A0140, [(4, 0x10000000), (3, 0x10000)], 0x0, [F.mcScrubTapeEnd_TAPE]⟩,
  ⟨0x100A0F00, [(4, 0x10000000), (3, 0x10000)], 0x0, [F.fenceCmd_ON]⟩,
  ⟨0x100A0F08, [(4, 0x10000000), (3, 0x10000)], 0x0, [F.fenceStatus_STATE, F.fenceStatus_FAULTED, F.fenceStatus_FENCE_LATE, F.fenceStatus_MISMATCH, F.fenceStatus_DOMOFF_COUNT, F.fenceStatus_POSTED_DROPS]⟩,
  ⟨0x100A0F10, [(4, 0x10000000), (3, 0x10000)], 0x0, [F.fenceDrop_VALID, F.fenceDrop_ADDR]⟩,
  ⟨0x400F00, [(8, 0x10000)], 0x0, [F.fenceCmd_ON]⟩,
  ⟨0x400F08, [(8, 0x10000)], 0x0, [F.fenceStatus_STATE, F.fenceStatus_FAULTED, F.fenceStatus_FENCE_LATE, F.fenceStatus_MISMATCH, F.fenceStatus_DOMOFF_COUNT, F.fenceStatus_POSTED_DROPS]⟩,
  ⟨0x400F10, [(8, 0x10000)], 0x0, [F.fenceDrop_VALID, F.fenceDrop_ADDR]⟩,
  ⟨0x600F00, [(64, 0x10000)], 0x0, [F.fenceCmd_ON]⟩]
/-- Registers of R256 to R444. -/
def regTable17 : List RegKind := [
  ⟨0x600F08, [(64, 0x10000)], 0x0, [F.fenceStatus_STATE, F.fenceStatus_FAULTED, F.fenceStatus_FENCE_LATE, F.fenceStatus_MISMATCH, F.fenceStatus_DOMOFF_COUNT, F.fenceStatus_POSTED_DROPS]⟩,
  ⟨0x600F10, [(64, 0x10000)], 0x0, [F.fenceDrop_VALID, F.fenceDrop_ADDR]⟩,
  ⟨0xC00, [(16, 0x10)], 0x0, [F.uctrSel_EN, F.uctrSel_PF_EN, F.uctrSel_POCKET, F.uctrSel_SOURCE, F.uctrSel_EVENT]⟩,
  ⟨0xC08, [(16, 0x10)], 0x0, [F.uctr_COUNT]⟩,
  ⟨0xD00, [(16, 0x8)], 0x0, [F.uctrShadow_COUNT]⟩,
  ⟨0xD80, [], 0x0, [F.snapUnitSeq_SEQ]⟩,
  ⟨0x10000800, [(4, 0x10000000), (8, 0x20)], 0x0, [F.errRec0_VALID, F.errRec0_REPLACED, F.errRec0_SEV, F.errRec0_KIND, F.errRec0_UNIT, F.errRec0_SEQ]⟩,
  ⟨0x10000808, [(4, 0x10000000), (8, 0x20)], 0x0, [F.errRec1_AKIND, F.errRec1_ADDR]⟩,
  ⟨0x10000810, [(4, 0x10000000), (8, 0x20)], 0x0, [F.errRec2_TAPE]⟩,
  ⟨0x10000818, [(4, 0x10000000), (8, 0x20)], 0x0, [F.errRec3_MISC]⟩,
  ⟨0x10000900, [(4, 0x10000000)], 0x0, [F.errStatus_VALID, F.errStatus_THRESH, F.errStatus_LOST, F.errStatus_CE_COUNT]⟩,
  ⟨0x10000908, [(4, 0x10000000)], 0x1000000007, [F.errCtl_CE_THRESH, F.errCtl_IRQ_UCP, F.errCtl_IRQ_UCNA, F.errCtl_IRQ_CE]⟩]
/-- Registers of R439 to R444. -/
def regTable18 : List RegKind := [
  ⟨0x800, [(8, 0x20)], 0x0, [F.errRec0_VALID, F.errRec0_REPLACED, F.errRec0_SEV, F.errRec0_KIND, F.errRec0_UNIT, F.errRec0_SEQ]⟩,
  ⟨0x808, [(8, 0x20)], 0x0, [F.errRec1_AKIND, F.errRec1_ADDR]⟩,
  ⟨0x810, [(8, 0x20)], 0x0, [F.errRec2_TAPE]⟩,
  ⟨0x818, [(8, 0x20)], 0x0, [F.errRec3_MISC]⟩,
  ⟨0x900, [], 0x0, [F.errStatus_VALID, F.errStatus_THRESH, F.errStatus_LOST, F.errStatus_CE_COUNT]⟩,
  ⟨0x908, [], 0x1000000007, [F.errCtl_CE_THRESH, F.errCtl_IRQ_UCP, F.errCtl_IRQ_UCNA, F.errCtl_IRQ_CE]⟩,
  ⟨0x2000800, [(8, 0x20)], 0x0, [F.errRec0_VALID, F.errRec0_REPLACED, F.errRec0_SEV, F.errRec0_KIND, F.errRec0_UNIT, F.errRec0_SEQ]⟩,
  ⟨0x2000808, [(8, 0x20)], 0x0, [F.errRec1_AKIND, F.errRec1_ADDR]⟩,
  ⟨0x2000810, [(8, 0x20)], 0x0, [F.errRec2_TAPE]⟩,
  ⟨0x2000818, [(8, 0x20)], 0x0, [F.errRec3_MISC]⟩,
  ⟨0x2000900, [], 0x0, [F.errStatus_VALID, F.errStatus_THRESH, F.errStatus_LOST, F.errStatus_CE_COUNT]⟩,
  ⟨0x2000908, [], 0x1000000007, [F.errCtl_CE_THRESH, F.errCtl_IRQ_UCP, F.errCtl_IRQ_UCNA, F.errCtl_IRQ_CE]⟩]
/-- Registers of R439 to R444. -/
def regTable19 : List RegKind := [
  ⟨0xD000800, [(8, 0x20)], 0x0, [F.errRec0_VALID, F.errRec0_REPLACED, F.errRec0_SEV, F.errRec0_KIND, F.errRec0_UNIT, F.errRec0_SEQ]⟩,
  ⟨0xD000808, [(8, 0x20)], 0x0, [F.errRec1_AKIND, F.errRec1_ADDR]⟩,
  ⟨0xD000810, [(8, 0x20)], 0x0, [F.errRec2_TAPE]⟩,
  ⟨0xD000818, [(8, 0x20)], 0x0, [F.errRec3_MISC]⟩,
  ⟨0xD000900, [], 0x0, [F.errStatus_VALID, F.errStatus_THRESH, F.errStatus_LOST, F.errStatus_CE_COUNT]⟩,
  ⟨0xD000908, [], 0x1000000007, [F.errCtl_CE_THRESH, F.errCtl_IRQ_UCP, F.errCtl_IRQ_UCNA, F.errCtl_IRQ_CE]⟩,
  ⟨0xC00800, [(8, 0x20)], 0x0, [F.errRec0_VALID, F.errRec0_REPLACED, F.errRec0_SEV, F.errRec0_KIND, F.errRec0_UNIT, F.errRec0_SEQ]⟩,
  ⟨0xC00808, [(8, 0x20)], 0x0, [F.errRec1_AKIND, F.errRec1_ADDR]⟩,
  ⟨0xC00810, [(8, 0x20)], 0x0, [F.errRec2_TAPE]⟩,
  ⟨0xC00818, [(8, 0x20)], 0x0, [F.errRec3_MISC]⟩,
  ⟨0xC00900, [], 0x0, [F.errStatus_VALID, F.errStatus_THRESH, F.errStatus_LOST, F.errStatus_CE_COUNT]⟩,
  ⟨0xC00908, [], 0x1000000007, [F.errCtl_CE_THRESH, F.errCtl_IRQ_UCP, F.errCtl_IRQ_UCNA, F.errCtl_IRQ_CE]⟩]
/-- Registers of R439 to R444. -/
def regTable20 : List RegKind := [
  ⟨0x400800, [(8, 0x10000), (8, 0x20)], 0x0, [F.errRec0_VALID, F.errRec0_REPLACED, F.errRec0_SEV, F.errRec0_KIND, F.errRec0_UNIT, F.errRec0_SEQ]⟩,
  ⟨0x400808, [(8, 0x10000), (8, 0x20)], 0x0, [F.errRec1_AKIND, F.errRec1_ADDR]⟩,
  ⟨0x400810, [(8, 0x10000), (8, 0x20)], 0x0, [F.errRec2_TAPE]⟩,
  ⟨0x400818, [(8, 0x10000), (8, 0x20)], 0x0, [F.errRec3_MISC]⟩,
  ⟨0x400900, [(8, 0x10000)], 0x0, [F.errStatus_VALID, F.errStatus_THRESH, F.errStatus_LOST, F.errStatus_CE_COUNT]⟩,
  ⟨0x400908, [(8, 0x10000)], 0x1000000007, [F.errCtl_CE_THRESH, F.errCtl_IRQ_UCP, F.errCtl_IRQ_UCNA, F.errCtl_IRQ_CE]⟩,
  ⟨0x600800, [(64, 0x10000), (8, 0x20)], 0x0, [F.errRec0_VALID, F.errRec0_REPLACED, F.errRec0_SEV, F.errRec0_KIND, F.errRec0_UNIT, F.errRec0_SEQ]⟩,
  ⟨0x600808, [(64, 0x10000), (8, 0x20)], 0x0, [F.errRec1_AKIND, F.errRec1_ADDR]⟩,
  ⟨0x600810, [(64, 0x10000), (8, 0x20)], 0x0, [F.errRec2_TAPE]⟩,
  ⟨0x600818, [(64, 0x10000), (8, 0x20)], 0x0, [F.errRec3_MISC]⟩,
  ⟨0x600900, [(64, 0x10000)], 0x0, [F.errStatus_VALID, F.errStatus_THRESH, F.errStatus_LOST, F.errStatus_CE_COUNT]⟩,
  ⟨0x600908, [(64, 0x10000)], 0x1000000007, [F.errCtl_CE_THRESH, F.errCtl_IRQ_UCP, F.errCtl_IRQ_UCNA, F.errCtl_IRQ_CE]⟩]

/-- Every register map of the spec. -/
def regTable : List RegKind :=
  regTable0 ++ regTable1 ++ regTable2 ++ regTable3 ++ regTable4 ++ regTable5 ++
  regTable6 ++ regTable7 ++ regTable8 ++ regTable9 ++ regTable10 ++ regTable11 ++
  regTable12 ++ regTable13 ++ regTable14 ++ regTable15 ++ regTable16 ++ regTable17 ++
  regTable18 ++ regTable19 ++ regTable20

/-- `off` is one of the instances the counts and strides give. -/
def dimsHold : List (Nat × Nat) → Nat → Bool
  | [], off => off == 0
  | (n, st) :: ds, off => decide (off / st < n) && dimsHold ds (off % st)

/-- The register map that holds place `a`. -/
def regKindAt (a : Nat) : Option RegKind :=
  regTable.find? fun k => decide (k.base ≤ a) && dimsHold k.dims (a - k.base)

end Sys2Proof.Machine
end

