-- ==== Sys2Proof/Machine/State.lean ====
section
/-! DEFINITION. The state of the package as plain data: every register of the spec's maps (sparse,
unlisted registers hold their reset value), the harts, the caches, the ports, homes, rings, fences,
memory controllers, memory contents, the Harness, pockets and doors, I/O ports and Bobbins, power,
boot, error and debug state, and the queue of waiting commands. -/

namespace Sys2Proof.Machine

/-- A fabric packet (R226, R227): the fields a receiver acts on. -/
structure Pkt where
  op     : BitVec 8
  src    : BitVec 8 := 0
  dst    : BitVec 8 := 0
  txid   : BitVec 12 := 0
  pocket : Pocket := 0
  pa     : Addr := 0
  resp   : Resp := .ok
  nc     : Bool := false
  commit : Bool := true
  epoch  : Bool := false
  prio   : Nat := 1
  size   : Nat := 64
  mod    : BitVec 8 := 0
  lap    : Word := 0
  data   : LineData := 0
  be     : Word := 0
  poison : BitVec 4 := 0
  sent   : Nat := 0
  reqOp  : BitVec 8 := 0
  cmp    : BitVec 128 := 0
  deriving DecidableEq, Repr

/-- An error record held by the Keeper until its bank can be reached (R29), or any record's contents. -/
structure Rec where
  bank  : Nat
  sev   : Nat
  kind  : Nat
  unit  : Nat
  akind : Nat := 0
  addr  : Nat := 0
  tape  : Nat := 0
  misc  : Nat := 0
  deriving DecidableEq, Repr

/-- A running deadline (R50): class, start, value in force at entry, suspended time. -/
structure Timer where
  cls   : Nat
  start : Nat
  value : Nat
  susp  : Nat := 0
  deriving DecidableEq, Repr

/-! ### Harts -/

/-- What a hart is doing (R91, R115, R402, R457). -/
inductive RunMode where
  | held      -- held in reset
  | run
  | park      -- WFI, WRS or mkdoor wait: issue stage stopped
  | sleep
  | halted    -- debug halt
  | stopped   -- its panel is FAULTED or its package stopped
  deriving DecidableEq, Repr

/-- What a parked or pausing hart waits for (R91, R92, R110). -/
inductive Wait where
  | none
  | wfi (start : Nat)
  | pause (stitches : Nat)
  | wrsNto (start : Nat)
  | wrsSto (start : Nat)
  | door (op : Nat) (t : Timer)
  deriving DecidableEq, Repr

/-- State of a cache line held by an L2; the L1D adds its own newer data (R137, R164). -/
structure CLine where
  st     : LState := .I
  line   : Nat := 0          -- physical address bits [55:6]
  pocket : Pocket := 0
  age    : Nat := 0
  data   : LineData := 0
  poison : BitVec 4 := 0
  held   : Bool := false     -- within its hold window (R178)
  holdEnd : Nat := 0         -- the stitch at which the window ends
  recent : Nat := 0          -- near-AMO recency (R184), in stitches left
  repd   : Bool := false     -- reported to a lap, snoop not yet served (R142)
  dirty  : Bool := false     -- L1D: data newer than the L2 line (R108)
  deriving DecidableEq, Repr

/-- A reservation of LR: its line, and whether it is of the NC kind, held at the home (R100, R101). -/
structure Resv where
  line : Nat
  nc   : Bool
  deriving DecidableEq, Repr

/-- Kinds of an access waiting in a hart. -/
inductive AccKind where
  | load | store | amo | lr | sc | zero | cbo | prefetch | fetch
  deriving DecidableEq, Repr

/-- The registers of a world that pocket entry and exit save and restore (R104, R214, R450, R457). -/
structure World where
  priv : Nat := 3
  virt : Bool := false
  pc   : Word := 0
  x    : KMap Word := []
  f    : KMap (BitVec 128) := []
  v    : KMap (BitVec 512) := []
  csr  : KMap Word := []
  ise0 : Word := 0
  ise1 : Word := 0
  ret  : Nat := 0             -- instructions retired in the present stitch (R448)
  frozen : Bool := false      -- its minstret is stopped by a freeze (R455)
  deriving DecidableEq, Repr

/-- An access of a hart that has not completed. `own`: it has a request of its own (an NC access, a far
AMO, a CBO), else it waits for its line. `snap`: the world when it issued, restored by a precise fault. -/
structure Acc where
  kind   : AccKind
  id     : Nat
  pa     : Addr
  size   : Nat
  rd     : Nat := 0
  pair   : Bool := false     -- amocas.q: the result is a register pair
  val    : BitVec 128 := 0
  cmp    : BitVec 128 := 0
  func   : Nat := 0
  m      : Pbmt := .pma
  op     : BitVec 8 := 0
  spec   : Bool := false
  stream : Bool := false
  aq     : Bool := false
  rl     : Bool := false
  own    : Bool := false
  sent   : Bool := false
  got    : Option (LineData × BitVec 4) := none
  done   : Bool := false
  scFail : Bool := false
  issued : Nat := 0
  snap   : World := {}
  first  : Bool := false     -- an element of a fault-only-first load past the first (R124)
  deriving DecidableEq, Repr

/-- A request of an L2 for a line, not yet installed (R171: PENDING). -/
structure L2Req where
  txid   : Nat
  op     : BitVec 8
  line   : Nat
  got    : Option (LineData × BitVec 4) := none
  grant  : Option LState := none
  stream : Bool := false
  commit : Bool := true
  ifetch : Bool := false
  spec   : Bool := false
  pocket : Pocket := 0
  deriving DecidableEq, Repr

/-- A fence that waits (R202): its predecessor and successor sets (i 8, o 4, r 2, w 1), or fence.tso. -/
structure FenceWait where
  pred : Nat
  succ : Nat
  at'  : Nat
  tso  : Bool := false
  deriving DecidableEq, Repr

/-- An I/O-type access outstanding (R207): its deadline runs from when it left the hart (R210). -/
structure IoAcc where
  isLoad : Bool
  dst    : Nat
  pa     : Addr
  size   : Nat
  rd     : Nat := 0
  fp     : Bool := false
  t      : Timer
  window : Bool := false     -- through the Harness window (R219)
  val    : BitVec 128 := 0
  cmp    : BitVec 128 := 0
  func   : Option Nat := none         -- a window AMO, carried as a Harness atomic (R86)
  sent   : Bool := false
  issued : Nat := 0
  snap   : World := {}
  first  : Bool := false     -- an element of a fault-only-first load past the first (R124)
  deriving DecidableEq, Repr

/-- A hart (R114, R115). -/
structure HartSt where
  mode   : RunMode := .held
  wait   : Wait := .none
  w      : World := {}
  resv   : Option Resv := none
  acc    : List Acc := []              -- in program order
  reqs   : List L2Req := []
  io     : List IoAcc := []
  fences : List FenceWait := []
  heldOps : List Instr := []          -- successors a waiting fence or acquire holds (R202, R203)
  nextTx : Nat := 0
  pred   : KMap Nat := []             -- contention predictor, 256 two-bit counters (R184)
  ra     : Option World := none       -- run-ahead checkpoint (R93)
  raLine : Nat := 0                   -- line the run-ahead waits for
  host   : Option World := none       -- host world set aside while a pocket runs (R110)
  slot   : Nat := 0
  entered : Nat := 0                  -- Tape time of the pocket's entry (R358)
  haltReq : Bool := false             -- debug halt request pending (R360)
  hostEntered : Bool := false         -- the pocket runs by a mkdoor ENTER of the host world
  streams : List (Nat × Nat) := []    -- streaming detector: last missed line and run length (R144)
  l1i : KMap CLine := []
  l1d : KMap CLine := []
  l2  : KMap CLine := []
  wakeSent : KMap Nat := []           -- guest files for which WAKE has been posted (R359)
  stitch : Nat := 0                   -- handshakes of the issue stage that the model counts
  resid  : KMap Nat := []             -- nanoseconds spent in RUN 0, PARK 1, SLEEP 2 up to `since` (R405)
  since  : Nat := 0
  idleAt : Nat := 0                   -- Tape time at which it last left RUN for PARK
  ev : KMap Nat := []                 -- core events since the last stitch, by code (R448)
  deriving DecidableEq, Repr

/-! ### Ports, homes, LLC -/

/-- A leaving-table entry of a panel port (R186). -/
structure Leave where
  line   : Nat
  core   : Nat
  st     : LState
  data   : LineData := 0
  poison : BitVec 4 := 0
  pocket : Pocket := 0
  sent   : Bool := false
  superseded : Bool := false
  tagMiss : Bool := false             -- removed for a pocket-tag miss: not cancelled (R139)
  keepE  : Bool := false              -- clean of an L2 line that stays in E (R152)
  deriving DecidableEq, Repr

/-- A snoop waiting at a port for a hold window (R179). -/
structure WaitSnp where
  core  : Nat
  home  : Nat
  r     : Hdr
  snp   : BitVec 8
  reqOp : BitVec 8
  byHome : Bool
  keep  : Bool := false
  full  : Bool := false
  deriving DecidableEq, Repr

/-- INV_DONE a port owes: line, home, cores whose copies are not yet invalid (R177). -/
structure InvPend where
  line  : Nat
  home  : Nat
  cores : List Nat
  r     : Hdr
  deriving DecidableEq, Repr

/-- A panel port (R171). -/
structure PortSt where
  leaving : List Leave := []
  waiting : List WaitSnp := []
  hem     : List WaitSnp := []        -- snoops on their way over the Hem
  inv     : List InvPend := []
  heldReq : List Pkt := []            -- requests waiting for a WB_ACK (R139, R191)
  deriving DecidableEq, Repr

/-- State of an LLC entry (R140). -/
inductive LlcState where
  | invalid | clean | dirty | owned
  deriving DecidableEq, Repr

/-- An LLC entry (R140, R165). -/
structure LEntry where
  st     : LlcState := .invalid
  line   : Nat := 0
  excl   : Bool := false
  b      : Bool := false
  pocket : Pocket := 0
  data   : LineData := 0
  poison : BitVec 4 := 0
  deriving DecidableEq, Repr

/-- An open transaction at a home (R166). `agent`: 0 a requester, 1 the range engine, 2 a lock-fill. -/
structure Tx where
  line  : Nat
  req   : Pkt
  t     : Timer
  agent : Nat := 0
  lapOut : Bool := false              -- a lap is on its ring
  lapSeen : Bool := false
  lap   : Word := 0
  fwdOwed : List Nat := []            -- panels that owe FWD_DONE
  invOwed : List Nat := []            -- panels that owe INV_DONE
  early : List Nat := []              -- FWD_DONE (panel) and INV_DONE (16 + panel) that came before the lap
  dataSent : Bool := false
  memWait : Bool := false             -- waits for its memory read
  memData : Option (LineData × BitVec 4) := none
  homeData : Option (LineData × BitVec 4) := none   -- DATA a holder sent to the home
  granted : Bool := false
  compSeen : Bool := false
  declined : Bool := false
  lost  : Bool := false
  ended : Bool := false               -- ended for its requester by a code other than OK
  dirtyOwed : Bool := false           -- a DIRTY copy is on its way
  dirtySeen : Bool := false
  homeOwed  : Bool := false           -- clean DATA from a holder is on its way to the home
  poisoned  : Bool := false
  touchedLocked : Bool := false
  written   : Bool := false
  removed   : Bool := false
  domoff : Bool := false
  wbSeen : List Nat := []             -- panels whose WB or EV the transaction has recorded (R188)
  way   : Nat := 0
  deriving DecidableEq, Repr

/-- A supersede token (R188, R189). -/
structure Token where
  line  : Nat
  panel : Nat
  ev    : Bool
  t     : Timer
  deriving DecidableEq, Repr

/-- An LLC slice and its home (R166). -/
structure SliceSt where
  ent   : KMap LEntry := []           -- key 16 * set + way
  tree  : KMap Nat := []              -- 15 tree bits of each set, bit n at place n
  txs   : List Tx := []
  heldq : List Pkt := []              -- requests held for a line or a tracker, arrival order
  heldT : List Timer := []            -- their HOME timers, in the same order
  tokens : List Token := []
  resv  : List (Nat × Nat × Nat) := [] -- NC reservations, oldest first: source, hart tag, line (R101)
  cleaning : List Nat := []           -- ways to clean under R156
  newWays : Option (Nat × Nat) := none -- LOCK and OFF to apply at step 3
  deriving DecidableEq, Repr

/-- A saddle's range engine at work (R153): the next line, the lines in flight, and why it stops: 0 it
goes on, 1 ABORT, 2 a Welt failure. -/
structure RangeSt where
  next   : Nat := 0
  flight : Nat := 0
  stop   : Nat := 0
  deriving DecidableEq, Repr

/-! ### Identity, Tape, pattern -/

/-- A Thread frame outstanding: position, attempts made, query of discovery or not (R27, R30). -/
structure ThreadFrame where
  pos : Nat
  attempts : Nat := 1
  sentAt : Nat := 0
  deriving DecidableEq, Repr

/-- What a saddle's straps or a panel's pads decoded to (R18, R20). -/
structure Decoded where
  fault : Bool := false
  num   : Nat := 0      -- saddle number read
  site  : Nat := 0
  rot   : Nat := 0
  mir   : Bool := false
  ports : List Nat := []  -- physical edge of logical N, E, S, W and Rivet field of D0, D1 (R22, R23)
  deriving DecidableEq, Repr

/-- Fuse and one-time-programmable contents of the part (R1, R417, R418). DESIGN CHOICE (assumption 62). -/
structure Otp where
  part    : Nat := 0x240
  mixed   : Bool := false
  serial  : Nat := 0
  keys    : KMap Nat := []            -- key hashes of slots 0-4, as 256-bit numbers
  revoked : List Nat := []
  fwRoll  : Nat := 0
  patRoll : Nat := 0
  hostVerify : Bool := false
  fabricKey : Option Nat := none
  yokeFuseFault : Bool := false
  deriving DecidableEq, Repr

/-- Identity, straps, pads and the Thread (R16-R31). -/
structure IdSt where
  straps : KMap Decoded := []         -- by saddle
  pads   : KMap Decoded := []         -- by panel
  portsOn : List Nat := []            -- Thread positions whose ports are enabled (R24)
  bypassOpen : List Nat := []         -- panels whose bypass is open (R26)
  disc   : Option ThreadFrame := none -- discovery query outstanding
  discRun : Bool := false
  fuseOk : KMap Nat := []             -- panel core masks received
  crcFails : KMap Nat := []
  found  : List Nat := []             -- positions that answered discovery
  failed : List (Nat × Nat) := []     -- positions and FAIL_KINDs
  kprFrame : Option ThreadFrame := none
  thmFrame : Option ThreadFrame := none
  threadLog : List (Nat × Nat) := []  -- answers: position, status 0 OK, 1 ABSENT, 4 LATE
  heldRecs : List Rec := []           -- records held until the fabric is up (R29)
  fabricUp : Bool := false
  dieHeld : List Nat := []            -- positions held in reset for an identity mismatch (R25)
  dieReset : List Nat := []           -- positions under per-panel or per-saddle reset now
  excluded : List Nat := []           -- panels excluded (R29, R245)
  deriving DecidableEq, Repr

/-- Tape, pace sensors, brown-out, holdover, deadlines (R38-R57). -/
structure ClkSt where
  parks   : KMap Nat := []            -- panel -> 1 + Tape time of its brown-out park (R39)
  paceEnd : KMap Nat := []            -- unit -> end of its last window
  paceOpen : List Nat := []           -- units whose MIN/MAX record has begun (R41)
  relocked : List Nat := []           -- positions whose counter has relocked (R48)
  late    : KMap Nat := []            -- late-arrival event counters, by bank number (R51)
  dlCopy  : KMap (Option Nat) := []   -- 16 * unit + class -> copy held; unlisted: the default of R52
  dlWait  : List Nat := []            -- 16 * unit + class: acknowledgements of DEADLINE_SET awaited
  dlFor   : Nat := 0                  -- who waits for them: 1 the Keeper's write, 2 a DEADLINES piece
  homeHist : List (Nat × Nat) := []   -- Tape time and value of recent HOME changes (R189)
  partition : KMap Nat := []          -- coherence partitions fatal-stopped, by saddle
  deriving DecidableEq, Repr

/-- A pattern piece in force: type, unit and clamped payload (R60, R74). -/
structure Piece where
  type : Nat
  unit : Nat
  payload : List Byte
  deriving DecidableEq, Repr

/-- An alteration in progress (R79). -/
structure Alter where
  door   : Bool                       -- submitted by a door (else the mailbox)
  seq    : Nat                        -- SEQ of the submitter
  world  : Nat
  sequence : Nat
  digest : Nat
  epoch  : List Piece := []           -- pieces waiting for the epoch switch
  stage  : Nat := 0                   -- 0 pieces of step 2, 1 epoch switch, 2 done
  deriving DecidableEq, Repr

/-- The staging region, the pattern store and the alteration in progress (R70-R80). -/
structure PatSt where
  staging : List Byte := []
  locked  : Bool := false
  flash   : KMap (List Byte) := []    -- flash images by region: 0, 1 firmware, 2, 3 pattern, 4 host
  store   : List Piece := []
  slot    : Nat := 0                  -- key slot that signed the base pattern
  digest  : Nat := 0
  alt     : Option Alter := none
  heldPower : List (Nat × Nat × Nat) := []   -- POWER ON requests held by R80: world, SEQ, panel
  heldResets : List Nat := []         -- Thread positions held in reset until the alteration ends (R74)
  deriving DecidableEq, Repr

/-! ### Fabric -/

/-- A Gusset end's width handshake (R249). `n`: the attempt, 0 while none runs; `phase`: 1 waits for MASK,
2 for CONFIRM, 3 for SAFE; `sentW`: w of this attempt. -/
structure GusSt where
  n      : Nat := 0
  phase  : Nat := 0
  sentW  : Nat := 0
  wasActive : Nat := 0                -- ACTIVE before the handshake
  t      : Option Timer := none
  deriving DecidableEq, Repr

/-- A fence beyond its registers: its running deadline and a command waiting (R253, R254). -/
structure FenceSt where
  t    : Option Timer := none
  next : Option Bool := none
  wasReset : Bool := false            -- reset since it became FAULTED (R256)
  deriving DecidableEq, Repr

/-- A memory controller beyond its registers (R286-R295). `gen`: the generator of R288, 0 before the
first training. `trainAt`: Tape time at which a retraining of R295 began. -/
structure McSt where
  gen      : Nat := 0
  rfm      : List Nat := []           -- banks with a refresh-management command pending
  due      : KMap (Option Timer) := []  -- rank -> its refresh that is due, with its deadline
  ce       : Nat := 0                 -- the controller's corrected-error counter (R281)
  next     : Nat := 0                 -- the scrub pass's next line
  stop     : Nat := 0                 -- why the pass ends: 1 ABORT, 2 its fence has left OPEN
  us       : Nat := 0                 -- Tape microsecond of the last scrub line, and lines started in it
  started  : Nat := 0
  trainAt  : Option Nat := none
  deriving DecidableEq, Repr

/-- Epoch switch (R259-R261). -/
structure EpochSt where
  running : Bool := false
  holding : List Nat := []            -- stops that hold injection
  waiting : List Nat := []            -- stops that have not sent EPOCH_EMPTY
  loaded  : List Nat := []            -- stops loaded with the new-epoch tables
  heldPkts : List Pkt := []           -- first packets of new transactions, held at injection
  slotQ    : List Pkt := []           -- packets that wait for their group's slot (R241)
  deriving DecidableEq, Repr

/-! ### I/O ports, Bobbins and the agents at the yoke -/

/-- A request of an agent at the yoke that its home or target has not answered (R176). `kind`: 0 a source
read of a Bobbin, 1 a write of a Bobbin, 2 a descriptor fetch, 3 a status ATOM, 4 a device's access, 5 a
Harness access. `off`: the first byte of a Bobbin's beat. -/
structure YReq where
  agent : Agent
  eye   : Nat
  txid  : Nat
  op    : BitVec 8
  pa    : Addr
  size  : Nat
  kind  : Nat
  off   : Nat := 0
  data  : LineData := 0
  be    : Word := 0
  mod   : BitVec 8 := 0
  cmp   : BitVec 128 := 0
  sub   : Nat := 0                    -- sub-port of a PCIe port
  needData : Bool := true
  got   : Option (LineData × BitVec 4) := none
  granted : Bool := false
  deriving DecidableEq, Repr

/-- A Bobbin channel beyond its registers (R380-R389). `stage`: 0 none, 1 fetches its descriptor, 2 moves
bytes, 3 its status ATOM is out, 4 reads NEXT. `serial` numbers its descriptors. -/
structure ChanSt where
  stage  : Nat := 0
  serial : Nat := 0
  src    : Nat := 0
  dst    : Nat := 0
  len    : Nat := 0
  ctl    : Nat := 0
  down   : Bool := false              -- the range is walked downward (R384)
  read   : Nat := 0                   -- source bytes requested
  issued : Nat := 0                   -- bytes whose writes have been issued
  acked  : Nat := 0                   -- bytes whose writes have been acknowledged
  issHalf : Nat := 0                  -- of them, bytes of the first half
  ackHalf : Nat := 0
  half   : Bool := false              -- IRQ_HALF has fired
  buf    : KMap Nat := []             -- bytes read for a fixed destination and not yet written, by offset
  credit : Nat := 1024                -- the rate limiter's credit at Tape time `creditAt` (R388)
  creditAt : Nat := 0
  t      : Option Timer := none
  deriving DecidableEq, Repr

/-- The link of a sub-port (R366): link up, rate, log2 of its lanes, posted credits of its device, its
configuration space as software wrote it (dword by offset), and its hot-plug bytes (R370, R468). -/
structure SubSt where
  up      : Bool := false
  speed   : Nat := 0
  width   : Nat := 0
  credits : Nat := 0
  cfg     : KMap Nat := []
  hpIn    : Nat := 0xF0               -- inputs of the last frame
  hpAct   : Nat := 0xF0               -- inputs acted on
  hpOut   : Nat := 0x01               -- outputs shifted out
  deriving DecidableEq, Repr

/-- A root port or the service port: its sub-ports, and what waits in it (R211, R217, R365-R368). -/
structure PcieSt where
  subs   : KMap SubSt := []
  posted : List YReq := []            -- stores waiting for a credit, oldest first
  placed : List YReq := []            -- stores placed in a posted queue
  nonposted : List YReq := []         -- requests that await a completion
  inbound : List YReq := []           -- posted writes of devices not yet sent
  aer    : List Resp := []            -- errors of posted writes, as AER records them
  cxlCap : Nat := 0                   -- capacity in GiB of a trained CXL device, 0 none
  win    : List (Nat × Nat × Nat) := []  -- BAR ranges of pocket-owned functions: rid, base, bytes (R373)
  deriving DecidableEq, Repr

/-- I/O ports, the IOMMU's function table, Bobbins, and outstanding requests at the yoke. -/
structure IoSt where
  func   : KMap Nat := []             -- owner of a function by 65536 * port + rid: 2 * POCKET + ENABLE + 1; 0 no entry
  ports  : KMap PcieSt := []          -- 0-7 root ports, 8 the service port
  chans  : KMap ChanSt := []          -- 8 * engine + channel
  reqs   : List YReq := []
  nextTx : Nat := 0
  deriving DecidableEq, Repr

/-! ### Pockets -/

/-- States of a pocket (R327). -/
inductive PState where
  | free | defined | armed | sealed
  deriving DecidableEq, Repr

/-- A range of a pocket (R330). -/
structure PRange where
  base : Nat
  size : Nat
  kind : RangeKind
  ro   : Bool
  closing : Bool := false
  deriving DecidableEq, Repr

/-- A pocket (R327, R350, R357). -/
structure PocketSt where
  st     : PState := .free
  ranges : List PRange := []
  slots  : Nat := 0
  stateBase : Nat := 0
  entryPc : Nat := 0
  key    : Bool := false
  saved  : KMap World := []           -- saved state by slot; a slot unlisted has not run
  ran    : List Nat := []
  busy   : Bool := false
  deriving DecidableEq, Repr

/-- A hand-over running (R352): block, from, to, step, the request that asked, its timer. -/
structure HandOver where
  block : Block
  src   : Nat
  dst   : Nat
  step  : Nat
  forced : Bool := false
  rel   : Option Nat := none          -- SEQ of the owner's RELEASE
  faulted : Bool := false             -- ended with the block FAULTED
  destroy : Bool := false             -- part of a DESTROY
  bars  : List (Nat × Nat) := []      -- BAR ranges of a PCIe function: base and bytes
  world : Nat
  seq   : Nat
  power : Bool := false               -- part of a POWER request
  t     : Option Timer := none
  deriving DecidableEq, Repr

/-- A door entry (R349), as a reply or a notice. -/
structure DoorEnt where
  world  : Nat
  code   : Nat
  status : Nat := 0
  reason : Nat := 0
  seq    : Nat := 0
  peer   : Nat := 0
  args   : List Byte := []
  deriving DecidableEq, Repr

/-- A POWER request that waits for hand-overs (R356). -/
structure PowerReq where
  world : Nat
  seq   : Nat
  unit  : PowerUnit
  state : Nat
  held  : Bool := false               -- its HELD reply has been sent
  phase : Nat := 0                    -- 0 hand-overs run, 1 the change is under way, 2 the unit was closed already
  bad   : Bool := false               -- a hand-over has ended FAULTED
  deriving DecidableEq, Repr

/-- Pockets, doors and hand-overs. -/
structure PockSt where
  p      : KMap PocketSt := []
  hand   : List HandOver := []
  held   : List DoorEnt := []         -- replies and notices held while a reply ring is full (R348)
  sent   : List DoorEnt := []         -- replies and notices written, newest first
  power  : List PowerReq := []
  deriving DecidableEq, Repr

/-- An interrupt file of an IMSIC (R377): identities 1-255 pending and enabled, delivery, threshold. -/
structure FileSt where
  eip  : BitVec 256 := 0
  eie  : BitVec 256 := 0
  dlv  : Nat := 0
  thr  : Nat := 0
  deriving DecidableEq, Repr

/-- What the Keeper has been notified of. -/
inductive KNote where
  | fatal (bank : Nat)
  | faulted (unit : Nat)
  | mismatch (unit : Nat)
  | welt (saddle : Nat)
  | safeWidth (gend : Nat)
  | stall (panel : Nat)
  | harness
  | trip
  | supply
  deriving DecidableEq, Repr

/-- Pins of the package (R456, R461-R472). -/
structure Pins where
  errFatal  : Bool := false
  alert     : Bool := false
  thermTrip : Bool := false
  railEn    : Bool := false
  resetN    : Bool := true
  railGood  : Bool := false
  vstby     : Bool := true
  testN     : Bool := true
  straps    : BitVec 2 := 0
  i3cIbi    : Bool := false
  deriving DecidableEq, Repr

/-! ### Power and the Thimble -/

/-- A Thimble channel (R407, R409): raw sample, filtered output, Tape time of the sample, and the inputs each
filter stage keeps, newest first (an IIR stage keeps its output). -/
structure ThmChan where
  raw  : Int := 0
  out  : Int := 0
  tape : Nat := 0
  hist : List (List Int) := []
  deriving DecidableEq, Repr

/-- A Thimble rule (R410, R411): its terms, its count, asserted or not. -/
structure ThmRule where
  terms : List Bool := []
  count : Nat := 0
  on    : Bool := false
  deriving DecidableEq, Repr

/-- A panel on its way to DIM or back (R399, R400). `stage`: 0 none, 1 evicting, 2 VRET_MV requested, 3 DIM,
4 its target requested. `byReq`: by a POWER request, which alone ends it. `woken`: a wake cause met step 3. -/
structure DimSt where
  stage : Nat := 0
  byReq : Bool := false
  woken : Bool := false
  inv   : List (Nat × Nat) := []      -- INV_PENDING: core and line
  deriving DecidableEq, Repr

/-- The Thimble, the regulators and the power domains beyond their registers (R392-R415). -/
structure ThmSt where
  loop   : Nat := 0                   -- loops started since the program took effect
  start  : Nat := 0                   -- Tape time of the last loop start
  chan   : KMap ThmChan := []
  rule   : KMap ThmRule := []
  gov    : Option Nat := none         -- GOV; none until the first loop: VMAX_MV
  out    : KMap Nat := []             -- panel -> 1 + millivolts of its outstanding Vout write
  outT   : KMap (Option Timer) := []
  last   : KMap Nat := []             -- panel -> 1 + millivolts last sent
  hold   : KMap Nat := []             -- panel -> 1 + HOLD
  fix    : KMap Nat := []             -- panel -> 1 + millivolts fixed at SEAL
  pend   : List Piece := []           -- pieces that wait for the next loop start
  pendDl : Option Nat := none         -- a THIMBLE deadline value that waits with them
  levels : Nat := 0                   -- WAKE pins that are active
  edges  : Nat := 0                   -- active edges latched since the last sample
  hot    : List Nat := []             -- sensors at or above TRIP_C at the last reading
  parkAll : Bool := false             -- a trip or a lost supply has parked every handshake
  dim    : KMap DimSt := []
  up     : KMap Nat := []             -- panels being powered: 1 Vout sent, 2 reset awaited, 3 fence opening
  resid  : KMap Nat := []             -- residency (R405): st of the package, 4 + 4s + st, 32 + 4p + st
  since  : KMap Nat := []             -- and since when: 0 the package, 1 + s, 5 + p
  quiet  : List Nat := []             -- saddles on their way from QUIET to ON
  vfab   : Nat := 750                 -- VFAB_MV in force
  keepDdr : Bool := false             -- DORMANT with KEEP_DDR
  deriving DecidableEq, Repr

/-! ### The Harness -/

/-- A packet on its way out of a port (R298, R314): TYPE, the operation it belongs to, its header, the path of
a management packet, the Tape time at which its budget ends, and its last frame once sent. -/
structure HTx where
  typ  : Nat
  id   : Nat
  m    : HPkt
  path : Word := 0
  hop  : Nat := 0
  hops : Nat := 0
  ends : Nat := 0
  last : Option Nat := none
  deriving DecidableEq, Repr

/-- A Harness port beyond its registers (R298-R301). Frames are counted from the training on. -/
structure HPort where
  rx    : Nat := 0                    -- next frame expected
  tx    : Nat := 0                    -- next frame to send
  una   : Nat := 0                    -- oldest frame not acknowledged
  runs  : Nat := 0                    -- times in succession the frame at `una` has been replayed
  lane  : Nat := 0                    -- widths tried in this training
  since : Nat := 0                    -- Tape time at which this attempt or the wait of DOWN began
  trained : Bool := false             -- lanes trained; the port waits for HELLOs
  heard : Bool := false               -- a HELLO has been received since the training
  naks  : List Nat := []              -- NAKs returned, newest first
  badType : Nat := 0                  -- packets of an unknown TYPE
  queue : List HTx := []              -- packets that wait to leave, oldest first
  sent  : List HTx := []              -- packets sent and not acknowledged
  hellos : Nat := 0                   -- HELLOs sent
  peerFeat : Nat := 0
  deriving DecidableEq, Repr

/-- A descriptor fetched and not started (R315). -/
structure HDesc where
  q    : Nat
  slot : Nat
  body : Option (List Byte) := none   -- none until the fetch is answered
  phase : Bool := false               -- PHASE of its completion record
  deriving DecidableEq, Repr

/-- An operation or window access of this node (R317, R321). `stage`: 0 reads the local buffer, 1 held by
R311, 2 sent or queued, 3 writes LOCAL, 4 writes its completion record, 5 ended. -/
structure HOp where
  tag    : Nat
  kind   : Nat                        -- OP of R316
  q      : Option Nat := none
  slot   : Nat := 0
  phaseBit : Bool := false
  hart   : Option Nat := none         -- of a window access
  rd     : Bool := false
  m      : HPkt
  loc    : Nat := 0
  irq    : Bool := false
  result : Bool := false
  t      : Timer
  stage  : Nat := 0
  owed   : Nat := 0
  got    : KMap Nat := []
  resp   : Resp := .ok
  lenDone : Nat := 0
  violOff : Nat := 0
  fflags : Option Nat := none
  serial : Nat := 0                   -- the order in which operations started
  port   : Option Nat := none         -- the port it left by
  deriving DecidableEq, Repr

/-- An operation performed for another node, or for this one (R322-R325). `stage`: 0 waits its turn (an
earlier ORDERED operation, a full receive queue), 1 performs its lines, 2 writes the slot's header. -/
structure HIn where
  id    : Nat
  kind  : Nat
  m     : HPkt
  ends  : Nat                         -- Tape time at which its budget ends
  bound : Nat := 0                    -- bytes that may be performed
  viol  : Option Nat := none          -- the first byte refused, from the operation's start
  rq    : Option (Nat × Nat) := none  -- receive queue and slot
  stage : Nat := 0
  owed  : Nat := 0
  got   : KMap Nat := []
  done  : Nat := 0
  resp  : Resp := .ok
  fflags : Option Nat := none
  try'  : Nat := 0                    -- compare-and-swap loop: 1 reads, 2 swaps
  old   : Nat := 0
  deriving DecidableEq, Repr

/-- The Harness beyond its registers (R297-R326). -/
structure HrnSt where
  nonce : Nat := 0
  ports : KMap HPort := []
  desc  : List HDesc := []
  ops   : List HOp := []
  pass  : KMap Nat := []                          -- passes round its ring: queue q, or 1024 + r
  inb   : List HIn := []
  nextTag : Nat := 0
  serial : Nat := 0
  nextIn : Nat := 0
  mgmtIn : List (Nat × Word × Nat) := []          -- management packets delivered: port, recorded path, hops
  change : Option (Nat × Nat × Word × Nat × Nat) := none  -- ID change that waits: new ID, port, path, hops, MOP
  sentResp : List (Nat × Nat × Nat × Nat) := []   -- RESPs sent: tag, code, LEN_DONE, VIOL_OFFSET; newest first
  badType : Nat := 0
  drops : Nat := 0                                -- operations dropped at this destination for their budget
  da    : Option Nat := none                      -- I3C dynamic address
  i3c   : List (List Byte) := []                  -- I3C answers returned, newest first
  msgs  : List (List Byte) := []                  -- management replies sent, newest first
  deriving DecidableEq, Repr

/-! ### Counters and debug -/

/-- Counters beyond their registers (R445-R455). -/
structure CntSt where
  prev : KMap Nat := []               -- 64 * hart + counter -> last v compared, for CMP 3
  op   : Nat := 0                     -- the operation armed
  frozen : Nat := 0                   -- stops a freeze has stopped: bit p panel p, 12 + s saddle s, 16 the yoke
  deriving DecidableEq, Repr

/-- The TAP, the debug module and its paths (R456-R458). -/
structure DbgSt where
  ir    : Nat := 0x1F
  bsr   : BitVec 120 := 0
  byp   : Bool := false
  tdo   : List Nat := []              -- values shifted out, newest first
  dmiOut : Nat := 0                   -- what the DMI register captures next: address, data, status
  active : Bool := false
  hartsel : Nat := 0
  resumeAck : List Nat := []
  haveReset : List Nat := []
  resetHalt : List Nat := []          -- harts that a reset leaves with a halt request pending
  abs : Option (Nat × Nat) := none    -- a memory read by an abstract command under way: hart and bytes
  cmderr : Nat := 0
  cmd   : Nat := 0                    -- the last abstract command written
  autoexec : Nat := 0
  data  : KMap Nat := []              -- data0-3
  buf   : KMap Nat := []              -- progbuf0-7
  sbcs  : Nat := 0x40000              -- sbreadonaddr, sbaccess, sbautoincrement, sbreadondata
  sberror : Nat := 0
  sbbusyErr : Bool := false
  sbAddr : Nat := 0
  sbData : Nat := 0
  sbSvc : Bool := false               -- the system-bus access came through BAR2: it carries pocket 0
  sbOut : Option (Nat × Bool) := none -- bytes and direction of the system-bus access outstanding
  deriving DecidableEq, Repr

/-! ### Boot, Keeper -/

/-- A payload of RUN_PAYLOAD at work (R435): its command, the harts that have not ended it, and a0 of those
that have. -/
structure Payload where
  seq   : Nat
  t     : Timer
  harts : List Nat
  a0    : List (Nat × Word) := []
  deriving DecidableEq, Repr

/-- The Keeper and the boot beyond their registers (R416-R437). -/
structure BootSt where
  fwWait  : Bool := false             -- waits for LOAD_FIRMWARE (R423)
  patWait : Bool := false             -- waits for LOAD_PATTERN (R70)
  args    : KMap Nat := []            -- bytes of the mailbox's argument area
  reply   : KMap Nat := []            -- bytes of the mailbox's reply area
  fwKey   : Nat := 0                  -- hash of the key that signed the firmware in force
  patKey  : Nat := 0                  -- and the base pattern
  fwHv    : List Byte := []           -- the recovery hypervisor of the firmware in force
  hold    : Bool := false             -- a FITTING command with HOLD 1 stands
  hvBase  : Nat := 0                  -- where the recovery hypervisor was copied
  load    : Nat := 0                  -- LOAD_ADDR, LENGTH and ENTRY of the host firmware
  len     : Nat := 0
  entry   : Nat := 0
  payload : Option Payload := none
  fabKey  : Option Nat := none        -- the fabric key in the engines' key registers
  key0    : Bool := false             -- key 0 has been made (R338)
  spdm    : Nat := 0                  -- SPDM: 1 version, 2 capabilities, 3 algorithms exchanged
  certs   : List (List Byte) := []    -- SPDM responses sent, newest first
  railT   : Option Timer := none      -- the wait for RAIL_GOOD (R471)
  pnlWait : List Nat := []            -- panels being powered at step 7
  testMode : Bool := false            -- TEST_N low at cold reset
  dorm    : Option (Nat × Bool × Nat) := none  -- DORMANT under way: SEQ, KEEP_DDR, stage (R403)
  deriving DecidableEq, Repr

/-- The state of the package. `regs` holds every register of the spec's maps by its place in
control space; an unlisted register holds its reset value. `mem` lists the bytes of bolt memory that
have been written; an unlisted byte reads as a free value (R338). -/
structure State where
  pending : List Instr := []          -- commands waiting, first in, first out
  tape    : Nat := 0                  -- the master Tape, ns (R46)
  freeCtr : Nat := 0                  -- the model's own: the next free value
  regs    : KMap Word := []
  mem     : List Host.Cell := []
  memPoison : List Nat := []          -- 16-byte words stored as poison code words (R283)
  memEpoch : Nat := 0                 -- key 0 generation (R338)
  rekeys  : List (Nat × Nat × Bool) := []  -- ranges whose key has changed since, newest first: base, bytes, zeroed (R338, R350)
  otp     : Otp := {}
  id      : IdSt := {}
  clk     : ClkSt := {}
  pat     : PatSt := {}
  harts   : KMap HartSt := []         -- by mhartid
  ports   : KMap PortSt := []         -- 2 * panel + half
  slices  : KMap SliceSt := []        -- 24 * saddle + slice
  range   : KMap RangeSt := []        -- by saddle
  gus     : KMap GusSt := []          -- 5 * saddle + d, or 20 + saddle at the yoke
  fences  : KMap FenceSt := []        -- by fence number
  mcs     : KMap McSt := []           -- 0-7 HBM, 8-19 DDR
  epoch   : EpochSt := {}
  trace   : KMap Nat := []            -- saddles' trace buffers: byte at 65536 * saddle + offset
  io      : IoSt := {}
  pock    : PockSt := {}
  net     : List Pkt := []            -- packets sent and not yet arrived
  boot    : BootSt := {}
  thm     : ThmSt := {}
  pins    : Pins := {}
  hrn     : HrnSt := {}
  cnt     : CntSt := {}
  dbg     : DbgSt := {}
  msi     : List (Nat × Nat) := []    -- MSIs sent: address and data, oldest first
  msix    : List Nat := []            -- service port MSI-X vectors sent
  aplic   : List Nat := []            -- APLIC wired sources that are asserted (R379)
  aplicReg : KMap Word := []          -- APLIC registers by offset from yoke offset 0x0C00_0000
  files   : KMap FileSt := []         -- IMSIC files: 16 * hart + 0 M, 1 S, 1 + g guest file g
  iommu   : KMap Word := []           -- IOMMU registers by offset
  notes   : List KNote := []          -- what the Keeper has been notified of
  errSeq  : KMap Nat := []            -- next SEQ of each error bank (R443)
  answers : List (Agent × Resp × LineData) := []  -- answers to register, device and system-bus accesses, oldest first
  deriving DecidableEq, Repr

/-- The package right after power-up and cold reset: every register at its reset value, nothing
powered, no command waiting. -/
def State.reset : State := {}

/-- While a trip or a lost supply has parked every handshake (R413, R472), a unit does nothing.
DESIGN CHOICE (assumption 3). -/
def State.live (s t : State) : State := if s.thm.parkAll then s else t

/-- Why a step stops with a fault. No command of this part stops by a fault: the rules give every
event an outcome the package goes on with. -/
inductive Fault where
  /-- Raised by no command: it only makes the type one with a name. Safe: no run ends in it. -/
  | none
  deriving DecidableEq, Repr

/-- Why a command is turned away. -/
inductive Refusal where
  /-- Raised by `exec` for a command that has no meaning yet. Safe: nothing can be proved of it. -/
  | notModelled (mnemonic : String)
  deriving DecidableEq, Repr

end Sys2Proof.Machine
end

