-- ==== Sys2Proof/Machine/Ops.lean ====
section
/-! DEFINITION. The operations every command shares: registers and their fields, free values, the
hart, port and slice tables, the bytes of memory, the pieces in force, deadlines, error records and
their signals, interrupt sources, packets. -/

namespace Sys2Proof.Machine

/-! ### Registers -/

/-- Field `f` of a register value. -/
def getF (v : Word) (f : FieldDesc) : Nat := (v.toNat >>> f.lo) % 2 ^ (f.hi + 1 - f.lo)

/-- The bits of field `f`. -/
def maskF (f : FieldDesc) : Word := BitVec.ofNat 64 ((2 ^ (f.hi + 1 - f.lo) - 1) <<< f.lo)

/-- A register value with field `f` set to `n`. -/
def putF (v : Word) (f : FieldDesc) (n : Nat) : Word :=
  (v &&& ~~~ maskF f) ||| (BitVec.ofNat 64 ((n % 2 ^ (f.hi + 1 - f.lo)) <<< f.lo))

/-- The nearest legal value of a field (R8, R75). -/
def clampF (f : FieldDesc) (n : Nat) : Nat := max f.min (min f.max n)

/-- `n` clamped into `lo` to `hi` (R75). -/
def clampN (lo hi n : Nat) : Nat := max lo (min hi n)

/-- The value of a register. -/
def State.rd (s : State) (r : Reg) : Word := KMap.get r.reset s.regs r.addr

/-- The state with a register's value replaced. -/
def State.wr (s : State) (r : Reg) (v : Word) : State :=
  { s with regs := KMap.set r.reset r.addr v s.regs }

/-- A field of a register. -/
def State.fld (s : State) (r : Reg) (f : FieldDesc) : Nat := getF (s.rd r) f

/-- The state with one field of a register replaced. -/
def State.setF (s : State) (r : Reg) (f : FieldDesc) (n : Nat) : State :=
  s.wr r (putF (s.rd r) f n)

/-- One more in a counting field, saturating. -/
def State.incF (s : State) (r : Reg) (f : FieldDesc) (k : Nat := 1) : State :=
  s.setF r f (min (2 ^ (f.hi + 1 - f.lo) - 1) (s.fld r f + k))

/-- Bit `i` of a number. -/
def bit (n i : Nat) : Bool := n / 2 ^ i % 2 == 1

/-- A number with bit `i` set to `b`. -/
def setBit (n i : Nat) (b : Bool) : Nat :=
  if b = bit n i then n else if b then n + 2 ^ i else n - 2 ^ i

/-- Bit `i` of a field. -/
def State.fbit (s : State) (r : Reg) (f : FieldDesc) (i : Nat) : Bool := bit (s.fld r f) i

/-- The state with bit `i` of a field set to `b`. -/
def State.setFbit (s : State) (r : Reg) (f : FieldDesc) (i : Nat) (b : Bool) : State :=
  s.setF r f (setBit (s.fld r f) i b)

/-- Ones among the low `n` bits. -/
def popcount (n v : Nat) : Nat := ((List.range n).filter (bit v)).length

/-- Set bits among the low `n` bits, ascending. -/
def bitsOf (n v : Nat) : List Nat := (List.range n).filter (bit v)

/-- The number with exactly the listed bits set. -/
def ofBits (l : List Nat) : Nat := l.foldl (fun a i => setBit a i true) 0

/-! ### Free values -/

/-- A fresh free value, and the state that has used it. DESIGN CHOICE (assumption 5). -/
def State.fresh (s : State) : Nat × State :=
  (Config.free s.freeCtr, { s with freeCtr := s.freeCtr + 1 })

/-- A fresh draw of the Keeper's random source. DESIGN CHOICE (assumptions 5 and 65). -/
def State.draw (s : State) : Nat × State :=
  (Config.random s.freeCtr, { s with freeCtr := s.freeCtr + 1 })

/-! ### Tables -/

def State.hart (s : State) (h : Nat) : HartSt := KMap.get {} s.harts h
/-- The residency counter a hart's mode adds to (R405): RUN 0, PARK 1, SLEEP 2; 3 none. -/
def RunMode.cls : RunMode → Nat
  | .run => 0 | .park => 1 | .sleep => 2 | _ => 3
/-- A hart's residency up to Tape `now` (R405): frozen counters add nothing (R455). -/
def HartSt.accrue (x : HartSt) (now : Nat) (frozen : Bool) : HartSt :=
  let d := if frozen then 0 else now - x.since
  { x with since := now
           resid := if x.mode.cls = 3 then x.resid else KMap.set 0 x.mode.cls (KMap.get 0 x.resid x.mode.cls + d) x.resid }
/-- A hart whose state changes has its residency brought up to date first (R405). -/
def HartSt.moved (x v : HartSt) (now : Nat) (frozen : Bool) : HartSt :=
  if x.mode.cls = v.mode.cls then v
  else
    let y := x.accrue now frozen
    { v with since := y.since, resid := y.resid
             idleAt := if (x.mode.cls = 0 ∨ x.mode.cls = 3) ∧ v.mode.cls = 1 then now else v.idleAt }
def State.setHart (s : State) (h : Nat) (v : HartSt) : State :=
  let x := s.hart h
  { s with harts := KMap.set {} h (x.moved v s.tape (bit s.cnt.frozen 16)) s.harts
           cnt.prev := if x.mode.cls ≠ 0 ∧ v.mode.cls = 0 then s.cnt.prev.filter fun e => e.1 / 64 != h else s.cnt.prev }
def State.updHart (s : State) (h : Nat) (f : HartSt → HartSt) : State := s.setHart h (f (s.hart h))
def State.port (s : State) (k : Nat) : PortSt := KMap.get {} s.ports k
def State.updPort (s : State) (k : Nat) (f : PortSt → PortSt) : State :=
  { s with ports := KMap.set {} k (f (s.port k)) s.ports }
def State.slice (s : State) (k : Nat) : SliceSt := KMap.get {} s.slices k
def State.updSlice (s : State) (k : Nat) (f : SliceSt → SliceSt) : State :=
  { s with slices := KMap.set {} k (f (s.slice k)) s.slices }
def State.mc (s : State) (k : Nat) : McSt := KMap.get {} s.mcs k
def State.updMc (s : State) (k : Nat) (f : McSt → McSt) : State :=
  { s with mcs := KMap.set {} k (f (s.mc k)) s.mcs }
def State.fence (s : State) (k : Nat) : FenceSt := KMap.get {} s.fences k
def State.updFence (s : State) (k : Nat) (f : FenceSt → FenceSt) : State :=
  { s with fences := KMap.set {} k (f (s.fence k)) s.fences }
def State.pocket (s : State) (p : Nat) : PocketSt := KMap.get {} s.pock.p p
def State.updPocket (s : State) (p : Nat) (f : PocketSt → PocketSt) : State :=
  { s with pock.p := KMap.set {} p (f (s.pocket p)) s.pock.p }

end Sys2Proof.Machine

namespace Sys2Proof

/-- Number of a port. -/
def PortId.num (p : PortId) : Nat := 2 * p.panel.val + p.half.val
/-- Number of a slice. -/
def SliceId.num (h : SliceId) : Nat := 24 * h.sd.val + h.k.val
/-- Number of a fence. -/
def FenceUnit.num : FenceUnit → Nat
  | .panel p => p.val
  | .llc s => 12 + s.val
  | .mc (.hbm n) => 16 + n.val
  | .mc (.ddr n) => 24 + n.val
  | .pcie k => 36 + k.val
  | .bob n => 44 + n.val
/-- Error-bank number of a unit (R438). -/
def UnitId.bank : UnitId → Nat
  | .panel p => p.val
  | .saddle s => 12 + s.val
  | .yoke => 16 | .hrn => 17 | .kpr => 18 | .thm => 19
  | .pcie k => 20 + k.val
  | .bob n => 28 + n.val
/-- Saddle of a memory controller (R267, R268). -/
def Ctlr.saddle : Ctlr → Nat
  | .hbm n => n.val / 2
  | .ddr n => n.val / 3
/-- Eyelet of a memory controller (R224). -/
def Ctlr.eyelet : Ctlr → Nat
  | .hbm n => 0x30 * (n.val / 2) + 0x20 + n.val % 2
  | .ddr n => 0x30 * (n.val / 3) + 0x22 + n.val % 3
/-- Number of a controller: HBM 0-7, DDR 8-19 (R411). -/
def Ctlr.num : Ctlr → Nat
  | .hbm n => n.val
  | .ddr n => 8 + n.val

/-- Eyelet of a panel port (R224). -/
def PortId.eyelet (p : PortId) : Nat :=
  0x30 * (p.panel.val / 3) + 0x18 + 2 * (p.panel.val % 3) + p.half.val
/-- Eyelet of a slice (R224). -/
def SliceId.eyelet (h : SliceId) : Nat := 0x30 * h.sd.val + h.k.val
/-- mhartid of an agent, or 0x1FF where it has none (R441). -/
def Agent.mhart : Agent → Nat
  | .hart h => h.num
  | _ => 0x1FF


end Sys2Proof

namespace Sys2Proof.Machine

/-- Controllers that exist. -/
def allCtlrs : List Ctlr := (List.finRange 8).map Ctlr.hbm ++ (List.finRange 12).map Ctlr.ddr
/-- The slice at an eyelet. -/
def sliceNumOfEyelet (e : Nat) : Nat := 24 * (e / 0x30) + e % 0x30
/-- The panel whose port is at an eyelet, if it is one. -/
def panelOfEyelet (e : Nat) : Option Nat :=
  if e < 0xC0 ∧ 0x18 ≤ e % 0x30 ∧ e % 0x30 < 0x1E then some (3 * (e / 0x30) + (e % 0x30 - 0x18) / 2)
  else none
/-- Unit code of R440. -/
def unitCode (kind idx : Nat) : Nat := kind * 1024 + idx

/-- Saddle of a panel (R15). -/
def saddleOf (p : Nat) : Nat := p / 3

/-! ### Memory -/

/-- A range of the key changes holds an address. -/
def inRange (r : Nat × Nat × Bool) (a : Nat) : Bool := decide (r.1 ≤ a) && decide (a < r.1 + r.2.1)

/-- The key generation of an address (R338): of key 0, and the key changes of its range since.
DESIGN CHOICE (assumption 6). -/
def State.keyGen (s : State) (a : Nat) : Nat :=
  s.memEpoch * 2 ^ 32 + (s.rekeys.filter fun r => inRange r a).length

/-- The Keeper has zeroed an address since its key last changed (R350, R351). -/
def State.zeroed (s : State) (a : Nat) : Bool :=
  match s.rekeys.find? fun r => inRange r a with
  | some r => r.2.2
  | none => false

/-- A byte of bolt memory. DESIGN CHOICE (assumption 6). -/
def State.byte (s : State) (a : Nat) : Byte :=
  KMap.get (if s.zeroed a then 0 else Config.unwrittenByte (s.keyGen a) a) s.mem a

/-- The key of a range changes: what it held reads as arbitrary data, without an ECC error (R338), or as
zeros where the Keeper zeroes it. -/
def State.rekey (s : State) (base size : Nat) (zero : Bool := false) : State :=
  let inR := fun a => decide (base ≤ a) && decide (a < base + size)
  { s with mem := s.mem.filter fun c => !inR c.1
           memPoison := s.memPoison.filter fun w => !inR (16 * w)
           rekeys := (base, size, zero) :: s.rekeys }

/-- The state with one byte of bolt memory written: a zero in zeroed memory is unlisted. -/
def State.setByte (s : State) (a : Nat) (b : Byte) : State :=
  { s with mem := if s.zeroed a then KMap.set 0 a b s.mem else KMap.insert a b s.mem }

/-- `n` bytes from `a` as a little-endian number. -/
def State.bytesNat (s : State) (a : Nat) : Nat → Nat
  | 0 => 0
  | n + 1 => (s.byte a).toNat + 256 * s.bytesNat (a + 1) n

/-- The low bytes of `v` written at `a`, byte i where `be` holds. -/
def State.setBytes (s : State) (a : Nat) (v : Nat) (be : Nat → Bool) : Nat → State
  | 0 => s
  | n + 1 =>
    let s' := s.setBytes a v be n
    if be n then s'.setByte (a + n) (BitVec.ofNat 8 (v >>> (8 * n))) else s'

/-- The bytes of a list written from `a`. -/
def State.setList (s : State) (a : Nat) : List Byte → State
  | [] => s
  | b :: l => (s.setByte a b).setList (a + 1) l

/-- `n` bytes from `a` as a list. -/
def State.getList (s : State) (a : Nat) : Nat → List Byte
  | 0 => []
  | n + 1 => s.byte a :: s.getList (a + 1) n

/-- Byte `i` of a line. -/
def lineByte (d : LineData) (i : Nat) : Nat := d.toNat >>> (8 * i) % 256

/-- A line with the bytes that `be` marks taken from `v`. -/
def mergeLine (old new : LineData) (be : Word) : LineData :=
  let m : Nat := (List.range 64).foldl (fun a i => if bit be.toNat i then a + 0xFF <<< (8 * i) else a) 0
  (old &&& ~~~ BitVec.ofNat 512 m) ||| (new &&& BitVec.ofNat 512 m)

/-- Bytes of an access of `n` bytes at offset `off` of a line, as a BYTE_EN mask. -/
def beOf (off n : Nat) : Word := BitVec.ofNat 64 ((2 ^ n - 1) <<< off)

/-- Words of a line whose every byte is enabled. -/
def wholeWords (be : Word) : BitVec 4 :=
  BitVec.ofNat 4 (ofBits ((List.range 4).filter fun w => be.toNat >>> (16 * w) % 65536 == 65535))

/-- Line number of a physical address. -/
def lineOf (pa : Addr) : Nat := pa.toNat / 64

/-- The address of a line. -/
def addrOfLine (l : Nat) : Addr := BitVec.ofNat 56 (64 * l)

/-! ### Pieces in force -/

/-- `n` little-endian bytes of a payload at `off`. -/
def le (l : List Byte) (off n : Nat) : Nat :=
  ((l.drop off).take n).foldr (fun b a => b.toNat + 256 * a) 0

/-- A payload with the `n`-byte field at `off` set to `v`. -/
def setLe (l : List Byte) (off n v : Nat) : List Byte :=
  l.take off ++ (List.range n).map (fun i => BitVec.ofNat 8 (v >>> (8 * i))) ++ l.drop (off + n)

/-- Clamp the `n`-byte field at `off` into `lo` to `hi` (R75). -/
def clampLe (l : List Byte) (off n lo hi : Nat) : List Byte :=
  setLe l off n (clampN lo hi (le l off n))

/-- The piece in force for a type and unit: the one that names the instance, else the 0xFFFF one (R64). -/
def State.piece (s : State) (type unit : Nat) : Option (List Byte) :=
  match s.pat.store.find? (fun p => p.type == type && p.unit == unit) with
  | some p => some p.payload
  | none => (s.pat.store.find? (fun p => p.type == type && p.unit == 0xFFFF)).map Piece.payload

/-- A field of the piece in force, or its value when the piece is absent. -/
def State.cfg (s : State) (type unit off n dflt : Nat) : Nat :=
  match s.piece type unit with
  | some l => le l off n
  | none => dflt

/-! ### Deadlines -/

/-- The copy of a class's value that a unit holds (R57). -/
def State.dlCopy (s : State) (unit k : Nat) : Nat :=
  (KMap.get none s.clk.dlCopy (16 * unit + k)).getD (R.deadline k).reset.toNat

/-- A timer that an operation of class `k` starts now at a unit (R50). -/
def State.timer (s : State) (unit k : Nat) : Timer := ⟨k, s.tape, s.dlCopy unit k, 0⟩

/-- The Tape time at which a timer's expiry is detected (R50). -/
def Timer.due (t : Timer) : Nat := t.start + t.susp + t.value

/-! ### Unit counters (R452, R453) -/

/-- NONINV of a world as the debug enables give it (R360): in Fitting mode the host world's alone. -/
def State.nonInv (s : State) (w : Nat) : Bool :=
  s.fld (R.debugEn (if s.fld R.kprMode F.kprMode_SERVICE = 1 then w else 0)) F.debugEn_NONINV == 1

/-- INV of a world as the debug enables give it (R360). -/
def State.inv (s : State) (w : Nat) : Bool :=
  s.fld (R.debugEn (if s.fld R.kprMode F.kprMode_SERVICE = 1 then w else 0)) F.debugEn_INV == 1

/-- A freeze has stopped the counters of a stop (R455): 0-11 panels, 12-15 saddles, 16 the yoke and the Thimble. -/
def State.frozenAt (s : State) (stop : Nat) : Bool := bit s.cnt.frozen stop

/-- Unit counter `i` of unit `u` (0-3 a saddle, 4 the yoke) counts an event of a source and a pocket. -/
def State.uctrHit (s : State) (u i code src pocket : Nat) : Bool :=
  let r := R.uctrSel u i
  s.fld r F.uctrSel_EN == 1 && s.fld r F.uctrSel_EVENT == code &&
    (s.fld r F.uctrSel_SOURCE == 0x7F || s.fld r F.uctrSel_SOURCE == src) &&
    (s.fld r F.uctrSel_PF_EN == 0 || s.fld r F.uctrSel_POCKET == pocket)

/-- An event of a unit is counted `n` times. -/
def State.uev (s : State) (u code src pocket : Nat) (n : Nat := 1) : State :=
  if s.frozenAt (12 + u) || !s.nonInv pocket then s
  else (List.range 16).foldl (fun s i =>
    if s.uctrHit u i code src pocket then s.wr (R.uctr u i) (s.rd (R.uctr u i) + BitVec.ofNat 64 n) else s) s

/-- The trackers in use, once for each Tape nanosecond that passes (R452: the occupancy event 4). -/
def State.occupy (s : State) (d : Nat) : State :=
  if d = 0 then s
  else s.slices.foldl (fun s e => e.2.txs.foldl (fun s t => s.uev (e.1 / 24) 4 (e.1 % 24) t.req.pocket.toNat d) s) s

/-- Time has passed up to Tape `n`. DESIGN CHOICE (assumption 2). -/
def State.advance (s : State) (n : Nat) : State := { s.occupy (n - s.tape) with tape := max s.tape n }

/-- MISC of a record of kind DEADLINE (R56). -/
def dlMisc (cls pocket txid silent overrun : Nat) : Nat :=
  cls <<< 60 + pocket <<< 48 + txid <<< 36 + silent <<< 28 + min overrun 0xFFFFFFF

/-- MISC of a record of kind VIOL (R441). -/
def violMisc (pocket txid src hart node : Nat) : Nat :=
  pocket <<< 48 + txid <<< 36 + src <<< 28 + hart <<< 19 + node

/-- MISC of a record of kind POISON (R441). -/
def poisonMisc (consumer pocket txid hart : Nat) : Nat :=
  consumer <<< 60 + pocket <<< 48 + txid <<< 36 + hart <<< 19

/-- MISC of a record of kind LINK (R441). -/
def linkMisc (link idx active : Nat) : Nat := link <<< 60 + idx <<< 48 + active <<< 32

/-- MISC of a record of kind ECC (R441). -/
def eccMisc (struct sym words unc : Nat) : Nat := struct <<< 60 + sym <<< 52 + words <<< 48 + unc

/-- MISC of a record of kind PROTOCOL (R441, R442). -/
def protoMisc (cause detail : Nat) : Nat := cause <<< 56 + detail % 2 ^ 56

/-! ### Interrupt sources and MSIs -/

/-- An MSI is sent; an address of 0 sends none. DESIGN CHOICE (assumption 91). -/
def State.sendMsi (s : State) (addr data : Nat) : State :=
  if addr = 0 then s else { s with msi := s.msi ++ [(addr, data)] }

/-- An APLIC register, 32 bits: domain 0 is M, 1 its S child (R379). -/
def State.aplicRd (s : State) (d off : Nat) : Nat := (KMap.get 0 s.aplicReg (0x8000 * d + off)).toNat
def State.aplicWr (s : State) (d off v : Nat) : State :=
  { s with aplicReg := KMap.set 0 (0x8000 * d + off) (BitVec.ofNat 64 (v % 2 ^ 32)) s.aplicReg }

/-- The APLIC domain a source belongs to: the S child where the M domain delegates it. -/
def State.aplicDomain (s : State) (n : Nat) : Nat := if bit (s.aplicRd 0 (4 * n)) 10 then 1 else 0

/-- Address of the MSI of a domain's target (the AIA's MSI address configuration). -/
def State.aplicMsiAddr (s : State) (d hart guest : Nat) : Nat :=
  let h := s.aplicRd 0 0x1BC4
  let lhxw := h / 2 ^ 12 % 16
  let hhxw := h / 2 ^ 16 % 8
  let hhxs := h / 2 ^ 24 % 32
  let lo := hart % 2 ^ lhxw
  let hi := hart / 2 ^ lhxw % 2 ^ hhxw
  let cfg := if d = 0 then h else s.aplicRd 0 0x1BCC
  let base := cfg % 2 ^ 12 * 2 ^ 32 + s.aplicRd 0 (if d = 0 then 0x1BC0 else 0x1BC8)
  (base ||| hi <<< (hhxs + 12) ||| lo <<< (cfg / 2 ^ 20 % 8) ||| (if d = 0 then 0 else guest)) <<< 12

/-- A pending and enabled source of a domain is forwarded as an MSI, and is then no longer pending. -/
def State.aplicForward (s : State) (d n : Nat) : State :=
  let ip := s.aplicRd d (0x1C00 + n / 32 * 4)
  let ie := s.aplicRd d (0x1E00 + n / 32 * 4)
  if bit (s.aplicRd d 0) 8 && bit ip (n % 32) && bit ie (n % 32) then
    let t := s.aplicRd d (0x3000 + 4 * n)
    (s.aplicWr d (0x1C00 + n / 32 * 4) (setBit ip (n % 32) false)).sendMsi
      (s.aplicMsiAddr d (t / 2 ^ 18) (t / 2 ^ 12 % 64)) (t % 2048)
  else s

/-- A wired source of the APLICs is asserted or not (R379): a source that becomes asserted in mode
Level1 becomes pending in its domain. -/
def State.setSource (s : State) (n : Nat) (b : Bool) : State :=
  let was := s.aplic.contains n
  let d := s.aplicDomain n
  let s := { s with aplic := if b then (if was then s.aplic else n :: s.aplic)
                             else s.aplic.filter (· != n) }
  if b == was || s.aplicRd d (4 * n) % 8 != 6 then s
  else
    let ip := s.aplicRd d (0x1C00 + n / 32 * 4)
    (s.aplicWr d (0x1C00 + n / 32 * 4) (setBit ip (n % 32) b)).aplicForward d n

/-- The Keeper is notified. DESIGN CHOICE (assumption 113). -/
def State.note (s : State) (n : KNote) : State := { s with notes := s.notes ++ [n] }

/-- The first packet that `f` accepts has arrived. DESIGN CHOICE (assumption 42). -/
def State.arrive (s : State) (f : Pkt → Bool) : State := { s with net := s.net.eraseP f }

/-! ### Error records (R439-R444) -/

/-- Slot `i` of bank `b` holds a record. -/
def State.recValid (s : State) (b i : Nat) : Bool := s.fld (R.errRec0 b i) F.errRec0_VALID == 1

/-- A bank meets a condition of R444. -/
def State.bankPending (s : State) (b : Nat) : Bool :=
  (s.fld (R.errStatus b) F.errStatus_THRESH == 1 && s.fld (R.errCtl b) F.errCtl_IRQ_CE == 1) ||
  (List.range 8).any fun i =>
    s.recValid b i &&
      match s.fld (R.errRec0 b i) F.errRec0_SEV with
      | 0 => false
      | 1 => s.fld (R.errCtl b) F.errCtl_IRQ_UCNA == 1
      | 2 => s.fld (R.errCtl b) F.errCtl_IRQ_UCP == 1
      | _ => true

/-- ERR_STATUS.VALID, ERR_PENDING and APLIC source 31 follow the bank's records (R444, R445). -/
def State.refreshBank (s : State) (b : Nat) : State :=
  let s := s.setF (R.errStatus b) F.errStatus_VALID (ofBits ((List.range 8).filter (s.recValid b)))
  let s := s.setFbit (R.errPending (b / 64)) F.errPending_BANKS (b % 64) (s.bankPending b)
  s.setSource 31 (s.fld (R.errPending 0) F.errPending_BANKS != 0 ||
                  s.fld (R.errPending 1) F.errPending_BANKS != 0)

/-- The slot a new record of severity `sev` takes: the lowest free one, else the oldest of strictly
lower severity (R443). -/
def State.recSlot (s : State) (b sev : Nat) : Option (Nat × Bool) :=
  match (List.range 8).find? fun i => !s.recValid b i with
  | some i => some (i, false)
  | none =>
    let next := KMap.get 0 s.errSeq b
    let age := fun i => (next + 65536 - s.fld (R.errRec0 b i) F.errRec0_SEQ) % 65536
    let older := (List.range 8).filter fun i => decide (s.fld (R.errRec0 b i) F.errRec0_SEV < sev)
    (older.foldl (fun o i => match o with
      | none => some i
      | some j => if age j < age i then some i else some j) none).map (·, true)

/-- The first word of a record (R439). -/
def rec0Word (replaced : Bool) (sev kind unit seq : Nat) : Word :=
  BitVec.ofNat 64 (2 ^ 63 + (if replaced then 2 ^ 62 else 0) + sev <<< 60 + kind <<< 56 +
    unit <<< 32 + seq % 65536)

/-- A record is written in its bank, or dropped and counted (R443). -/
def State.putRecord (s : State) (r : Rec) : State :=
  match s.recSlot r.bank r.sev with
  | none => s.incF (R.errStatus r.bank) F.errStatus_LOST
  | some (i, repl) =>
    let seq := KMap.get 0 s.errSeq r.bank
    let s := s.wr (R.errRec0 r.bank i) (rec0Word repl r.sev r.kind r.unit seq)
    let s := s.wr (R.errRec1 r.bank i) (BitVec.ofNat 64 (r.akind <<< 62 + r.addr))
    let s := s.wr (R.errRec2 r.bank i) (BitVec.ofNat 64 r.tape)
    let s := s.wr (R.errRec3 r.bank i) (BitVec.ofNat 64 r.misc)
    { s with errSeq := KMap.set 0 r.bank ((seq + 1) % 65536) s.errSeq }

/-- A corrected error is counted, recorded or not (R444). -/
def State.countCe (s : State) (r : Rec) : State :=
  if r.sev = 0 then
    let s := s.incF (R.errStatus r.bank) F.errStatus_CE_COUNT
    if s.fld (R.errCtl r.bank) F.errCtl_CE_THRESH ≤ s.fld (R.errStatus r.bank) F.errStatus_CE_COUNT then
      s.setF (R.errStatus r.bank) F.errStatus_THRESH 1
    else s
  else s

/-- An MSI-X vector of the service port, sent only while its link is up (R375, R466).
DESIGN CHOICE (assumption 91). -/
def State.svcMsix (s : State) (v : Nat) : State :=
  if s.fld R.svcStatus F.svcStatus_LINK_UP = 1 then { s with msix := s.msix ++ [v] } else s

/-- The package's fatal signals (R444). -/
def State.signalFatal (s : State) (b : Nat) : State :=
  (({ s with pins.errFatal := true } : State).svcMsix 1).note (.fatal b)

/-- An error is recorded and signalled (R443, R444). -/
def State.record (s : State) (r : Rec) : State :=
  let s := (s.putRecord r).countCe r
  let s := if r.sev = 3 then s.signalFatal r.bank else s
  s.refreshBank r.bank

/-- A record detected now. -/
def State.err (s : State) (bank sev kind unit : Nat) (akind addr misc : Nat := 0) : State :=
  s.record ⟨bank, sev, kind, unit, akind, addr, s.tape, misc⟩

/-! ### Agents -/

/-- Number of a hart. -/
def hartNum (p c : Nat) : Nat := 32 * p + c

/-- CSR numbers of the custom CSRs (R102) and of the standard ones the rules name. -/
def csr_skpocket : Nat := 0x5C0
def csr_mkfeat : Nat := 0x7C0
def csr_mkpace : Nat := 0x7C1
def csr_mkctl : Nat := 0x7C2
def csr_mkhold : Nat := 0x7C3
def csr_mkcmo : Nat := 0x7C4
def csr_mkdoor : Nat := 0x7C5
def csr_ukpace : Nat := 0xCC0
def csr_ukfeat : Nat := 0xCC1

/-- Reset value of a hart CSR (R84, R115); CSRs not listed reset to 0. PRESUMED (assumption 8). -/
def csrReset (n : Nat) : Word :=
  match n with
  | 0x300 => 0x0000000A00000000      -- mstatus: SXL and UXL 2
  | 0x301 => 0x8000000000B511AF      -- misa
  | 0x303 => 0x1444                  -- mideleg: the VS-level interrupts are delegated
  | 0x600 => 0x0000000200000000      -- hstatus: VSXL 2
  | 0x7C2 => 0xE00
  | 0xF11 => 0xE9B
  | 0xF12 => 0x8000000000004B54
  | _ => 0

/-- A CSR of a world. -/
def World.csrVal (w : World) (n : Nat) : Word := KMap.get (csrReset n) w.csr n
/-- A world with a CSR replaced. -/
def World.setCsr (w : World) (n : Nat) (v : Word) : World :=
  { w with csr := KMap.set (csrReset n) n v w.csr }
/-- x register `n`; x0 reads 0. -/
def World.xr (w : World) (n : Nat) : Word := if n = 0 then 0 else KMap.get 0 w.x n
/-- A world with x register `n` written; a write of x0 is discarded. -/
def World.setX (w : World) (n : Nat) (v : Word) : World :=
  if n = 0 then w else { w with x := KMap.set 0 n v w.x }
/-- f register `n` (128 bits). -/
def World.fr (w : World) (n : Nat) : BitVec 128 := KMap.get 0 w.f n
def World.setFr (w : World) (n : Nat) (v : BitVec 128) : World := { w with f := KMap.set 0 n v w.f }
/-- v register `n` (512 bits). -/
def World.vr (w : World) (n : Nat) : BitVec 512 := KMap.get 0 w.v n
def World.setVr (w : World) (n : Nat) (v : BitVec 512) : World := { w with v := KMap.set 0 n v w.v }

/-- The pocket of the world a hart runs (R113). -/
def HartSt.pocket (h : HartSt) : Pocket := (h.w.csrVal csr_skpocket).setWidth 12

def State.csr (s : State) (h n : Nat) : Word := (s.hart h).w.csrVal n
def State.setCsr (s : State) (h n : Nat) (v : Word) : State :=
  s.updHart h fun x => { x with w := x.w.setCsr n v }
def State.setX (s : State) (h n : Nat) (v : Word) : State :=
  s.updHart h fun x => { x with w := x.w.setX n v }

end Sys2Proof.Machine
end

