-- ==== Sys2Proof/Machine/Address.lean ====
section
/-! DEFINITION. Where an address lies: bolts and their targets (R270-R278), the home slice
(R194-R197), coherence partitions and snoop scope (R169, R257), and the Welt's check (R332-R336). -/

namespace Sys2Proof.Machine

/-- A bolt of BOLT_MAP as clamped (R270, R277). -/
structure Bolt where
  idx     : Nat
  base    : Nat        -- GiB
  size    : Nat        -- GiB
  mask    : Nat
  kind    : Nat        -- 0 HBM, 1 DDR, 2 CXL
  granule : Nat
  scope   : Nat
  node    : Nat
  dist    : List Nat
  deriving DecidableEq, Repr

/-- Bolt `i` of a BOLT_MAP payload (R277). -/
def boltOf (l : List Byte) (i : Nat) : Bolt :=
  let o := 8 + 32 * i
  let kind := le l (o + 0xA) 1
  ⟨i, le l o 4 % 2 ^ 18, le l (o + 4) 4 % 2 ^ 19,
    le l (o + 8) 2 % 2 ^ (match kind with | 0 => 8 | 1 => 12 | _ => 4),
    kind, le l (o + 0xB) 1, le l (o + 0xC) 1, le l (o + 0xD) 1,
    (List.range 12).map fun p => le l (o + 0x10 + p) 1⟩

/-- The bolts of the BOLT_MAP in force, in their listed order. -/
def State.bolts (s : State) : List Bolt :=
  match s.piece 0x20 0xFFFF with
  | none => []
  | some l => (List.range (le l 0 1)).map (boltOf l)

/-- Number of targets (R270). -/
def Bolt.n (b : Bolt) : Nat := popcount 12 b.mask

/-- Bytes of a target's share (R270). -/
def Bolt.share (b : Bolt) : Nat := b.size * 2 ^ 30 / max 1 b.n

/-- Granule in bytes (R277). -/
def Bolt.granuleBytes (b : Bolt) : Nat :=
  match b.granule with | 0 => 256 | 1 => 4096 | _ => 2 ^ 21

/-- Saddle of target `dev` (R272). -/
def Bolt.saddleOf (b : Bolt) (dev : Nat) : Nat :=
  match b.kind with | 0 => dev / 2 | 1 => dev / 3 | _ => dev

/-- START of a target: the shares of earlier bolts of its kind on it (R272). -/
def boltStart (bs : List Bolt) (b : Bolt) (dev : Nat) : Nat :=
  (bs.filter fun a => decide (a.idx < b.idx) && a.kind == b.kind && bit a.mask dev).foldl
    (fun n a => n + a.share) 0

/-- The bolt whose range holds an address, whatever its state (R271). -/
def State.boltAt (s : State) (pa : Nat) : Option Bolt :=
  s.bolts.find? fun b => decide (b.base * 2 ^ 30 ≤ pa) && decide (pa < (b.base + b.size) * 2 ^ 30)

/-- STATE of a bolt (R274, R275). -/
def State.boltState (s : State) (b : Bolt) : Nat := s.fld (R.boltStatus b.idx) F.boltStatus_STATE

/-- The bolt that holds an address, mapped (ONLINE, or OFFLINE behind a fence). -/
def State.mappedBolt (s : State) (pa : Nat) : Option Bolt :=
  match s.boltAt pa with
  | some b => if s.boltState b = 1 ∨ s.boltState b = 4 then some b else none
  | none => none

/-- Target and offset in the target of an address in a bolt (R272). -/
def locate (bs : List Bolt) (b : Bolt) (pa : Nat) : Nat × Nat :=
  let off := pa - b.base * 2 ^ 30
  let g := b.granuleBytes
  let blk := off / g
  let dev := (bitsOf 12 b.mask).getD (blk % max 1 b.n) 0
  (dev, boltStart bs b dev + blk / max 1 b.n * g + off % g)

/-- The unit that backs an address: a controller or the PCIe port of a CXL device. -/
def backingUnit (kind dev : Nat) : FenceUnit :=
  match kind with
  | 0 => .mc (.hbm (Fin.ofNat 8 dev))
  | 1 => .mc (.ddr (Fin.ofNat 12 dev))
  | _ => .pcie (Fin.ofNat 8 dev)

/-- The fence at the memory that backs an address, and its saddle. -/
def State.backing (s : State) (pa : Nat) : Option (FenceUnit × Nat) :=
  (s.mappedBolt pa).map fun b =>
    let d := (locate s.bolts b pa).1
    (backingUnit b.kind d, b.saddleOf d)

/-- STATE of a fence (R256): 0 CLOSED, 1 OPENING, 2 OPEN, 3 DRAINING. -/
def State.fenceState (s : State) (u : FenceUnit) : Nat := s.fld (R.fenceStatus u) F.fenceStatus_STATE

/-- The fence is open. -/
def State.fenceIsOpen (s : State) (u : FenceUnit) : Bool := s.fenceState u == 2

/-! ### The home slice (R194) -/

/-- Parity of a 56-bit number. -/
def parity56 (n : Nat) : Bool := popcount 56 n % 2 == 1

/-- ROW[i] in force (R196). -/
def State.homeRow (s : State) (i : Nat) : Nat :=
  s.cfg 0x30 0xFFFF (8 + 8 * i) 8 (0x0000004000400040 <<< i % 2 ^ 64) % 2 ^ 56 / 64 * 64

/-- SLICE_MASK for an address: the first window that holds it, else every slice (R194). -/
def State.homeMask (s : State) (pa : Nat) : Nat :=
  let n := s.cfg 0x30 0xFFFF 0x88 1 0
  match (List.range n).find? fun i =>
      decide (s.cfg 0x30 0xFFFF (0x90 + 16 * i) 4 0 ≤ pa >>> 30) &&
      decide (pa >>> 30 ≤ s.cfg 0x30 0xFFFF (0x94 + 16 * i) 4 0) with
  | some i => s.cfg 0x30 0xFFFF (0x98 + 16 * i) 4 0 % 2 ^ 24
  | none => 0xFFFFFF

/-- The 16-bit hash h of R194. -/
def State.homeHash (s : State) (pa : Nat) : Nat :=
  ofBits ((List.range 16).filter fun i => parity56 (pa &&& s.homeRow i))

/-- The home slice of an address on its saddle (R194). -/
def State.homeSlice (s : State) (pa : Nat) : Nat :=
  let m := s.homeMask pa
  let k := (s.homeHash pa * popcount 24 m) >>> 16
  (bitsOf 24 m).getD k 0

/-- The home of an address: saddle and slice; `none` where no bolt is mapped. -/
def State.home (s : State) (pa : Nat) : Option (Nat × Nat) :=
  (s.backing pa).map fun b => (b.2, s.homeSlice pa)

/-- The home's eyelet; a saddle-0 slice where no bolt is mapped (the Welt there answers DECERR).
DEDUCED (assumption 41). -/
def State.homeEyelet (s : State) (pa : Nat) : Nat :=
  match s.home pa with
  | some (sd, k) => 0x30 * sd + k
  | none => s.homeSlice pa

/-- The set of a line in its home slice (R484). -/
def llcSet (pa : Nat) : Nat :=
  (pa >>> 6 % 4096) ^^^ (pa >>> 18 % 4096) ^^^ (pa >>> 30 % 4096) ^^^ (pa >>> 42 % 4096) ^^^
    (pa >>> 54 % 4)

/-! ### Partitions and scope -/

/-- MODE of GIRTH_PARTITION in force (R258). -/
def State.girthMode (s : State) : Nat := s.cfg 0x40 0xFFFF 0 1 0

/-- The partition a saddle belongs to, named by its lowest saddle (R257). -/
def partitionOf (mode sd : Nat) : Nat :=
  match mode with
  | 0 => 0
  | 1 => if sd < 2 then 0 else 2
  | 2 => if sd = 0 ∨ sd = 3 then 0 else 1
  | _ => sd

/-- Saddles of the partition that holds a saddle. -/
def State.partitionSaddles (s : State) (sd : Nat) : List Nat :=
  (List.range 4).filter fun t => partitionOf s.girthMode t == partitionOf s.girthMode sd

/-- Panels in the snoop scope of a line homed on saddle `sd` (R169). -/
def State.scopePanels (s : State) (pa sd : Nat) : List Nat :=
  let priv := match s.mappedBolt pa with | some b => b.scope == 1 | none => true
  if priv then (List.range 3).map (3 * sd + ·)
  else (s.partitionSaddles sd).flatMap fun t => (List.range 3).map (3 * t + ·)

/-! ### What a request carries (R329) -/

/-- Eyelet of the panel port a hart's access to a line leaves by (R171, R225). -/
def portEyeletOf (h line : Nat) : Nat :=
  0x30 * (h / 32 / 3) + 0x18 + 2 * (h / 32 % 3) + line % 2

/-- The function table entry of a PCIe function (R372): none, or ENABLE and POCKET. -/
def State.funcOwner (s : State) (port rid : Nat) : Option (Bool × Nat) :=
  match KMap.get 0 s.io.func (65536 * port + rid) with
  | 0 => none
  | n + 1 => some (n % 2 == 1, n / 2)

/-- The pocket an agent's requests carry (R329, R372). -/
def State.agentPocket (s : State) (a : Agent) : Nat :=
  match a with
  | .hart h => (s.hart h.num).pocket.toNat
  | .device p r => match s.funcOwner p.val r.toNat with | some (_, q) => q | none => 0
  | .bobbin n c => s.fld (R.chOwner n.val c.val) F.chOwner_POCKET
  | .harness p => p.toNat
  | .debug => if s.dbg.sbSvc then 0 else s.fld R.sbPocket F.sbPocket_POCKET
  | _ => 0

/-- The agent is the Keeper, or the pattern loader (R9, R329). -/
def agentIsKeeper (a : Agent) : Bool := match a with | .keeper => true | .loader => true | _ => false

/-- The eyelet an agent's requests carry as SRC (R224, R225). -/
def agentEyelet (a : Agent) (pa : Nat) : Nat :=
  match a with
  | .hart h => portEyeletOf h.num (pa / 64)
  | .keeper | .loader => 0xCA
  | .thimble => 0xCB
  | .svcPort => 0xC8
  | .device p _ => 0xC0 + p.val
  | .bobbin n _ => 0xD0 + n.val / 4
  | .harness _ => 0xC9
  | .debug => 0xCE
  | .yoke => 0xCD

/-- The agent answers to a request (R208). -/
def State.reply (s : State) (a : Agent) (r : Resp) (v : LineData := 0) : State :=
  { s with answers := s.answers ++ [(a, r, v)] }

/-! ### The Welt (R332) -/

/-- The Keeper region: base and bytes, where POCKET_POLICY is in force (R331, R363). -/
def State.keeperRegion (s : State) : Option (Nat × Nat) :=
  (s.piece 0x100 0xFFFF).map fun l =>
    (le l 0 8 % 2 ^ 56 / 2 ^ 26 * 2 ^ 26, le l 8 2 * 2 ^ 20)

/-- An address lies in the Keeper region. -/
def State.inKeeper (s : State) (pa : Nat) : Bool :=
  match s.keeperRegion with
  | some (b, n) => decide (b ≤ pa) && decide (pa < b + n)
  | none => false

/-- The package is in Service mode (R328). -/
def State.service (s : State) : Bool := s.fld R.kprMode F.kprMode_SERVICE == 1

/-- A pocket is armed (R327): ARMED or SEALED. -/
def State.armed (s : State) (p : Nat) : Bool :=
  match (s.pocket p).st with | .armed => true | .sealed => true | _ => false

/-- The pocket range that holds an address, with its owner. -/
def State.rangeAt (s : State) (pa : Nat) : Option (Nat × PRange) :=
  s.pock.p.findSome? fun e =>
    (e.2.ranges.find? fun r => decide (r.base ≤ pa) && decide (pa < r.base + r.size)).map (e.1, ·)

/-- FLAGS and CLASS of the POCKET_POLICY rule that covers a pocket, else the defaults (R363). -/
def State.policy (s : State) (p : Nat) : Nat × Nat :=
  match s.piece 0x100 0xFFFF with
  | none => (0, 0)
  | some l =>
    match (List.range (le l 0x10 1)).find? fun i =>
        decide (le l (0x18 + 8 * i) 2 % 4096 ≤ p) && decide (p ≤ le l (0x1A + 8 * i) 2 % 4096) with
    | some i => (le l (0x1D + 8 * i) 1, le l (0x1C + 8 * i) 1 % 16)
    | none => (le l 0xD 1, le l 0xC 1 % 16)

/-- REPORT_HOST applies to a pocket; it always applies to the host world (R335, R363).
DESIGN CHOICE (assumption 114). -/
def State.reportHost (s : State) (p : Nat) : Bool := p == 0 || bit (s.policy p).1 1

/-- Outcome of the Welt's check. `viol` carries REASON (R336). -/
inductive Check where
  | pass | decerr | domoff | viol (reason : Nat)
  deriving DecidableEq, Repr

/-- Steps 2 and 3 of R332, shared by bolt addresses and by control stops, ports and file pages. -/
def State.checkWorld (s : State) (keeper : Bool) (p : Nat) : Option Check :=
  if keeper then some .pass
  else if !s.service then none
  else if p ≠ 0 ∧ ¬ s.armed p then some .domoff
  else none

/-- Step 4 of R332 for a bolt address in Service mode. `engine`: a range engine, which alone but for
the Keeper passes a closing range (R351). -/
def State.checkRange (s : State) (p pa : Nat) (write engine : Bool) : Check :=
  if s.inKeeper pa then .viol 4
  else match s.rangeAt pa with
    | none => if p = 0 then .pass else .viol 0
    | some (q, r) =>
      if r.closing && !engine then .viol 1
      else if p = q then .pass
      else match r.kind with
        | .priv => if r.closing && p == 0 then .pass else .viol 1
        | .shared => if p ≠ 0 then .viol 2 else if r.ro && write then .viol 3 else .pass
        | .pub => if r.ro && write then .viol 3 else .pass

/-- The Welt's check of a request to bolt memory (R332). -/
def State.welt (s : State) (keeper : Bool) (p pa : Nat) (write : Bool) (engine : Bool := false) : Check :=
  match s.mappedBolt pa with
  | none => .decerr
  | some _ =>
    match s.checkWorld keeper p with
    | some c => c
    | none =>
      if s.service then s.checkRange p pa write engine
      else if s.inKeeper pa then .viol 4 else .pass

/-- The owner check of R333 on an owner register. -/
def State.ownerCheck (s : State) (keeper : Bool) (p : Nat) (owner : Reg) : Check :=
  match s.checkWorld keeper p with
  | some c => c
  | none =>
    if !s.service then .pass
    else if s.fld owner F.panelOwner_ENABLE == 1 && s.fld owner F.panelOwner_POCKET == p then .pass
    else .viol 5

/-- A Welt log entry is written, or dropped and counted (R335, R336). -/
def State.weltLog (s : State) (sd src pa p op reason txid : Nat) : State :=
  let ptr := R.weltLogPtr sd
  let tail := s.fld ptr F.weltLogPtr_TAIL
  let head := s.fld ptr F.weltLogPtr_HEAD
  if (tail + 64 - head) % 64 = 63 then s.incF ptr F.weltLogPtr_LOST
  else
    let s := s.wr (R.weltLogA sd tail) (BitVec.ofNat 64 (src <<< 56 + pa))
    let s := s.wr (R.weltLogT sd tail) (BitVec.ofNat 64 s.tape)
    let cls := if op < 0x10 then 0 else if op < 0x20 then 1 else if op < 0x30 then 2
      else if op < 0x40 then 3 else if op < 0x50 then 4 else 5
    let s := s.wr (R.weltLogM sd tail)
      (BitVec.ofNat 64 (p <<< 32 + op <<< 24 + reason <<< 20 + cls <<< 12 + txid))
    s.setF ptr F.weltLogPtr_TAIL ((tail + 1) % 64)

/-- A violation found by a check (R335): logged, the Keeper interrupted, the saddle's Welt interrupt
raised where REPORT_HOST applies. -/
def State.violation (s : State) (sd src pa p op reason txid : Nat) : State :=
  let s := (s.weltLog sd src pa p op reason txid).note (.welt sd)
  if s.reportHost p then s.setSource (25 + sd) true else s

end Sys2Proof.Machine
end

