-- ==== Sys2Proof/Machine/Access.lean ====
section
/-! DEFINITION. Who may reach a control-space register or a file page: the owner each offset has, and
the check of R332 and R333 on a control stop's request (R14, R333, R377, R378). -/

namespace Sys2Proof.Machine

/-- Whose registers an offset of control space holds (R333). -/
inductive CtlOwner where
  | block (r : Reg)      -- an assignable block's owner
  | hart (h : Nat)       -- the world that runs on a hart
  | door (w : Nat)       -- a world's door page
  | host
  deriving DecidableEq, Repr

/-- The owner of an offset (R14, R333, R378). -/
def ctlOwner (off : Nat) : CtlOwner :=
  if 0x80000000 ≤ off ∧ off < 0xB0000000 then
    let p := (off - 0x80000000) / 0x4000000
    let o := off % 0x4000000
    if 0x200 ≤ o ∧ o < 0x340 then .hart (hartNum p ((o - 0x200) / 16))
    else .block (R.panelOwner (p / 3) (p % 3))
  else if 0x600000 ≤ off ∧ off < 0xA00000 then
    let n := (off - 0x600000) / 0x10000
    let o := off % 0x10000
    if 0x1000 ≤ o ∧ o < 0x9000 then .block (R.chOwner n (o / 0x1000 - 1)) else .host
  else if 0x2100000 ≤ off ∧ off < 0x2500000 then .block (R.cqOwner ((off - 0x2100000) / 0x1000))
  else if 0x2800000 ≤ off ∧ off < 0x2C00000 then .block (R.rqOwner ((off - 0x2800000) / 0x1000))
  else if 0x8000000 ≤ off ∧ off < 0x8000000 + 0x8000 * 384 then
    let f := (off - 0x8000000) / 0x1000
    if f % 8 = 0 then .host else .block (R.imsicOwner f)
  else if 0xE000000 ≤ off ∧ off < 0xF000000 then .door ((off - 0xE000000) / 0x1000)
  else .host

/-- The saddle whose Welt log a violation at a control stop is written to (R335). DEDUCED (assumption 41). -/
def ctlLogSaddle (off : Nat) (a : Agent) : Nat :=
  if 0x10000000 ≤ off ∧ off < 0x50000000 then (off - 0x10000000) / 0x10000000
  else if 0x80000000 ≤ off ∧ off < 0xB0000000 then (off - 0x80000000) / 0x4000000 / 3
  else match a with | .hart h => h.panel.val / 3 | _ => 0

/-- The check of R332 and R333 on a request of an agent to a control-space offset. -/
def State.ctlCheck (s : State) (a : Agent) (off : Nat) : Check :=
  let p := s.agentPocket a
  match s.checkWorld (agentIsKeeper a || a == .thimble) p with
  | some c => c
  | none =>
    if !s.service then .pass
    else match ctlOwner off with
      | .block r => s.ownerCheck false p r
      | .hart h => if (s.hart h).pocket.toNat = p then .pass else .viol 5
      | .door w => if w = p then .pass else .viol 6
      | .host => if p = 0 then .pass else .viol 6

/-- Error bank of the unit that holds an offset (R438). -/
def offBank (off : Nat) : Nat :=
  if 0x80000000 ≤ off ∧ off < 0xB0000000 then (off - 0x80000000) / 0x4000000
  else if 0x10000000 ≤ off ∧ off < 0x50000000 then 12 + (off - 0x10000000) / 0x10000000
  else if 0x400000 ≤ off ∧ off < 0x480000 then 20 + (off - 0x400000) / 0x10000
  else if 0x600000 ≤ off ∧ off < 0xA00000 then 28 + (off - 0x600000) / 0x10000
  else if 0xC00000 ≤ off ∧ off < 0xD00000 then 19
  else if 0x2000000 ≤ off ∧ off < 0x4000000 then 17
  else if 0xD000000 ≤ off ∧ off < 0x10000000 then 18
  else 16

/-- UNIT code of a bank's own unit (R440). -/
def bankUnit (b : Nat) : Nat :=
  if b < 12 then unitCode 0x09 b
  else if b < 16 then unitCode 0x01 (b - 12)
  else if b = 16 then unitCode 0x0B 0
  else if b = 17 then unitCode 0x0E 0x3FF
  else if b = 18 then unitCode 0x12 0
  else if b = 19 then unitCode 0x13 0
  else if b < 28 then unitCode 0x0C (4 * (b - 20))
  else unitCode 0x0F (8 * (b - 28))

/-- The record of a write to a register with KW fields by another requester than the Keeper (R9): no data
is lost, so its severity is UCNA. DEDUCED (assumption 110). -/
def State.kwViolation (s : State) (a : Agent) (off : Nat) : State :=
  s.err (offBank off) 1 2 (bankUnit (offBank off)) 1 (2 ^ 49 + off)
    (violMisc (s.agentPocket a) 0 (agentEyelet a (2 ^ 49 + off)) a.mhart 0x7FFF)

/-- A violation at a control stop is logged (R335). -/
def State.ctlViolation (s : State) (a : Agent) (off op reason : Nat) : State :=
  s.violation (ctlLogSaddle off a) (agentEyelet a (2 ^ 49 + off)) (2 ^ 49 + off) (s.agentPocket a) op reason 0

/-- A write of an agent to an offset is checked; where it passes, `f` performs it and gives the answer.
DEDUCED (assumption 110). -/
def State.ctlGuard (s : State) (a : Agent) (off : Nat) (f : State → State × Resp) : State :=
  match s.ctlCheck a off with
  | .pass => let (s, r) := f s; s.reply a r
  | .decerr => s.reply a .decerr
  | .domoff => s.reply a .domoff
  | .viol reason => (s.ctlViolation a off 0x40 reason).reply a .viol

end Sys2Proof.Machine
end

