-- ==== Sys2Proof/Machine/Net.lean ====
section
/-! DEFINITION. A packet's way into the fabric: unroutable destinations (R232), injection held for an
epoch switch (R259) or a slot (R240-R244), and the Awls it passes (R222, R223, R262-R265, R483). -/

namespace Sys2Proof.Machine

/-! ### Eyelets -/

/-- An eyelet that R224 assigns, the lap broadcast included. -/
def usedEyelet (e : Nat) : Bool :=
  if e < 0xC0 then
    let l := e % 0x30
    l != 0x1E && l != 0x1F && l != 0x2B
  else e != 0xCF && !(0xE4 ≤ e && e ≤ 0xE7) && !(0xF0 ≤ e && e ≤ 0xFE)

/-- The stops that take part in an epoch switch (R260): on the yoke, and on each saddle that is ON. -/
def State.epochStops (s : State) : List Nat :=
  (List.range 256).filter fun e => usedEyelet e && e != 0xFF &&
    (0xC0 ≤ e || s.fld R.domainState F.domainState_SADDLE / 4 ^ (e / 0x30) % 4 == 0)

/-- CLASS of an OP (R173, R228, R231). -/
def classOf (op : BitVec 8) : Nat :=
  let n := op.toNat
  if n < 0x10 then 0 else if n < 0x20 then 1 else if n < 0x30 then 2 else if n < 0x40 then 3
  else if n < 0x50 then 4 else 5

/-- A packet that starts a transaction: REQ, IOW, and WB and EV (R236). -/
def startsTx (op : BitVec 8) : Bool :=
  classOf op == 0 || classOf op == 4 || op == 0x31 || op == 0x32

/-! ### Slots (R240-R244) -/

/-- The group of a pocket (R242). -/
def State.slotGroup (s : State) (pk : Nat) : Nat :=
  ((List.range 16).find? fun j => j != 0 &&
    decide (s.cfg 0x70 0xFFFF (0x48 + 4 * j) 2 0 % 4096 ≤ pk) &&
    decide (pk ≤ s.cfg 0x70 0xFFFF (0x4A + 4 * j) 2 0 % 4096)).getD 0

/-- The ring is slotted: a saddle's Seam 0-3, the Girth 4. -/
def State.slotted (s : State) (ring : Nat) : Bool := bit (s.cfg 0x70 0xFFFF 0 1 0) ring

/-- FRAME_SLOTS, SLOT_NS and GUARD_NS in force under the dependency bounds of R244. -/
def State.slotShape (s : State) : Nat × Nat × Nat :=
  let f := clampN 1 64 (s.cfg 0x70 0xFFFF 1 1 1)
  let n := clampN 64 4096 (s.cfg 0x70 0xFFFF 2 2 64)
  let g := clampN 32 (n / 2) (s.cfg 0x70 0xFFFF 4 2 32)
  let home := (s.rd (R.deadline 1)).toNat
  let n' := if home / 4 < f * n then home / (4 * f) else n
  let (f, n) := if n' < 64 then (home / 256, 64) else (f, n')
  (f, n, min g (n / 2))

/-- OWNER of a slot: `none` where it is unowned. Slot 0 is group 0's where no slot is (R244).
DEDUCED (assumption 43). -/
def State.slotOwner (s : State) (i : Nat) : Option Nat :=
  let o := fun i => s.cfg 0x70 0xFFFF (8 + i) 1 0
  let own := fun i => if 128 ≤ o i then none else some (o i % 16)
  let (f, _, _) := s.slotShape
  if i = 0 ∧ ¬ ((List.range f).any fun i => own i == some 0) then some 0 else own i

/-- The Tape time of the next slot boundary. -/
def State.nextSlot (s : State) : Nat :=
  let (_, n, _) := s.slotShape
  (s.tape / n + 1) * n

/-- A group may inject onto a slotted ring now (R240). -/
def State.slotOpen (s : State) (group : Nat) : Bool :=
  let (f, n, g) := s.slotShape
  s.slotOwner (s.tape / n % max 1 f) == some group && decide (s.tape % n + g < n)

/-- The ring a packet is injected on: its saddle's Seam, or the Girth for a package-scope lap. -/
def State.injectRing (s : State) (p : Pkt) : Option Nat :=
  if 0xC0 ≤ p.src.toNat then none
  else if p.dst = 0xFF then
    match s.mappedBolt p.pa.toNat with
    | some b => if b.scope = 1 ∨ (s.partitionSaddles (p.src.toNat / 0x30)).length = 1 then
        some (p.src.toNat / 0x30) else some 4
    | none => some (p.src.toNat / 0x30)
  else some (p.src.toNat / 0x30)

/-- The packet waits for its group's slot (R241): MGT travels in group 0's. -/
def State.waitsSlot (s : State) (p : Pkt) : Bool :=
  match s.injectRing p with
  | none => false
  | some r => s.slotted r && !s.slotOpen (if classOf p.op = 5 then 0 else s.slotGroup p.pocket.toNat)

/-! ### Awls -/

/-- Position of a station on the Seam (R483). -/
def seamPos (l : Nat) : Nat :=
  if l < 0x08 then 2 + l / 2
  else if l < 0x10 then 10 + (l - 8) / 2
  else if l < 0x18 then 18 + (l - 16) / 2
  else match l with
    | 0x18 => 6 | 0x19 => 7 | 0x1A => 14 | 0x1B => 15 | 0x1C => 22 | 0x1D => 23
    | 0x20 => 16 | 0x21 => 17 | 0x22 => 26 | 0x23 => 27 | 0x24 => 28
    | 0x25 => 8 | 0x26 => 24 | 0x27 => 1 | 0x28 => 9 | 0x29 => 25 | 0x2A => 0
    | 0x2C => 29 | 0x2D => 30 | 0x2E => 31 | _ => 32

/-- Position of a station on the Girth of its saddle (R483), for slices and ports; the bridges for the
rest. -/
def girthPos (l : Nat) : Nat :=
  if l < 0x08 then 4 + l / 2
  else if l < 0x10 then 10 + (l - 8) / 2
  else if l < 0x18 then 16 + (l - 16) / 2
  else match l with
    | 0x18 => 8 | 0x19 => 9 | 0x1A => 14 | 0x1B => 15 | 0x1C => 20 | 0x1D => 21
    | 0x29 => 22 | _ => 3

/-- A passage of a packet at an Awl: its number, direction, Seam-1, injected here, ejected here. -/
structure AwlPass where
  awl  : Nat
  dir  : Bool
  seam1 : Bool
  inj  : Bool := false
  ej   : Bool := false
  deriving DecidableEq, Repr

/-- Awls of a saddle's Seam on the way from position `a` to position `b` (R223: the shorter way).
DEDUCED (assumption 45). -/
def seamPass (sd a b : Nat) (seam1 : Bool) : List AwlPass :=
  let cw := (b + 33 - a) % 33
  let ccw := (a + 33 - b) % 33
  let on := fun p => if cw ≤ ccw then decide ((p + 33 - a) % 33 ≤ cw) else decide ((a + 33 - p) % 33 ≤ ccw)
  let at' := [(29, 4 * sd), (30, 4 * sd + 1), (31, 4 * sd + 2), (32, 4 * sd + 3), (9, 16 + 2 * sd),
    (25, 17 + 2 * sd)]
  (at'.filter fun e => on e.1).map fun e =>
    { awl := e.2, dir := decide (ccw < cw), seam1 := seam1, inj := e.1 == a, ej := e.1 == b }

/-- Awls of the yoke's units: PCIe ports, the service port, Harness, Bobbins (R262). -/
def yokePass (e : Nat) (inj : Bool) : List AwlPass :=
  let n := if 0xC0 ≤ e ∧ e ≤ 0xC3 then some 28 else if 0xC4 ≤ e ∧ e ≤ 0xC8 then some 29
    else if e = 0xC9 then some 30 else if 0xD0 ≤ e ∧ e ≤ 0xDF then some 31 else none
  match n with
  | some n => [{ awl := n, dir := false, seam1 := false, inj := inj, ej := !inj }]
  | none => []

/-- Saddles after `a` up to `b` on Girth-C (clockwise 0, 3, 2, 1) or Girth-A. -/
def girthWay (a b : Nat) (c : Bool) : List Nat :=
  let step := fun n => if c then (n + 3) % 4 else (n + 1) % 4
  let d := if c then (a + 4 - b) % 4 else (b + 4 - a) % 4
  (List.range d).map fun i => (List.range (i + 1)).foldl (fun n _ => step n) a

/-- The Awls a packet passes. -/
def State.awlPasses (s : State) (p : Pkt) : List AwlPass :=
  let a := p.src.toNat
  let b := p.dst.toNat
  let x := a ^^^ b
  let seam1 := bit x 0
  if b = 0xFF then
    let sd := a / 0x30
    let dir := bit p.pa.toNat 7
    match s.injectRing p with
    | some 4 => (s.partitionSaddles sd).flatMap fun t =>
        [{ awl := 16 + 2 * t, dir := dir, seam1 := false }, { awl := 17 + 2 * t, dir := dir, seam1 := false }]
    | _ => ((List.range 4).map (4 * sd + ·) ++ [16 + 2 * sd, 17 + 2 * sd]).map fun n =>
        { awl := n, dir := dir, seam1 := bit p.pa.toNat 8 }
  else if a < 0xC0 ∧ b < 0xC0 then
    let sa := a / 0x30
    let sb := b / 0x30
    if sa = sb then seamPass sa (seamPos (a % 0x30)) (seamPos (b % 0x30)) seam1
    else if (s.partitionSaddles sa).contains sb then
      let dc := (sa + 4 - sb) % 4
      let c := if dc = 2 then !bit x 1 else dc == 1
      let pa := girthPos (a % 0x30)
      let pb := girthPos (b % 0x30)
      let leave := [(3, 16 + 2 * sa), (22, 17 + 2 * sa)].filter fun e => if c then decide (pa ≤ e.1) else decide (e.1 ≤ pa)
      let enter := [(3, 16 + 2 * sb), (22, 17 + 2 * sb)].filter fun e => if c then decide (e.1 ≤ pb) else decide (pb ≤ e.1)
      let mid := ((girthWay sa sb c).filter (· != sb)).flatMap fun t => [16 + 2 * t, 17 + 2 * t]
      (leave.map (·.2) ++ mid ++ enter.map (·.2)).map fun n => { awl := n, dir := !c, seam1 := false }
    else
      seamPass sa (seamPos (a % 0x30)) 0 seam1 ++
        [{ awl := 24 + sa, dir := false, seam1 := false }, { awl := 24 + sb, dir := false, seam1 := false }] ++
        seamPass sb 0 (seamPos (b % 0x30)) seam1
  else
    (if a < 0xC0 then seamPass (a / 0x30) (seamPos (a % 0x30)) 0 seam1 ++
        [{ awl := 24 + a / 0x30, dir := false, seam1 := false }] else yokePass a true) ++
    (if b < 0xC0 then [{ awl := 24 + b / 0x30, dir := false, seam1 := false }] ++
        seamPass (b / 0x30) 0 (seamPos (b % 0x30)) seam1 else yokePass b false)

/-- RESP code of R230. -/
def respCode : Resp → Nat
  | .ok => 0 | .decerr => 1 | .viol => 2 | .poison => 3 | .domoff => 4 | .late => 5 | .node => 6

/-- The header of a packet (R227). DEDUCED (assumption 46). -/
def Pkt.header (p : Pkt) : Nat :=
  classOf p.op <<< 125 + p.prio % 4 <<< 123 + (if p.epoch then 1 else 0) <<< 122 + p.src.toNat <<< 114 +
    p.dst.toNat <<< 106 + p.pocket.toNat <<< 94 + p.txid.toNat <<< 82 + p.op.toNat <<< 74 +
    respCode p.resp <<< 71 + (if p.nc then 1 else 0) <<< 70 + (p.size + 63) % 64 <<< 64 + p.mod.toNat <<< 56 +
    p.pa.toNat

/-- An enabled Awl matches a packet (R263). -/
def State.awlMatches (s : State) (n : Nat) (p : Pkt) : Bool :=
  let m := R.awlMatch n
  let pk := p.pocket.toNat
  s.fld (R.awlCtl n) F.awlCtl_ENABLE == 1 &&
  s.fbit m F.awlMatch_CLASS_MASK (classOf p.op) && s.fbit m F.awlMatch_PRIO_MASK p.prio &&
  (s.fld m F.awlMatch_POCKET_EN == 0 || s.fld m F.awlMatch_POCKET == pk) &&
  ((p.src.toNat ^^^ s.fld m F.awlMatch_SRC) &&& s.fld m F.awlMatch_SRC_MASK) == 0 &&
  ((p.dst.toNat ^^^ s.fld m F.awlMatch_DST) &&& s.fld m F.awlMatch_DST_MASK) == 0 &&
  (s.fld m F.awlMatch_ADDR_EN == 0 ||
    (decide (s.fld (R.awlLo n) F.awlLo_LINE ≤ p.pa.toNat / 64) &&
     decide (p.pa.toNat / 64 ≤ s.fld (R.awlHi n) F.awlHi_LINE))) && s.nonInv pk

/-- Eyelet of an Awl. -/
def awlEyelet (n : Nat) : Nat :=
  if n < 16 then 0x30 * (n / 4) + 0x2C + n % 4
  else if n < 24 then 0x30 * ((n - 16) / 2) + 0x28 + n % 2
  else 0xE8 + (n - 24)

/-- The 32 bytes of a trace record (R265), as a number. -/
def State.traceRec (s : State) (w : AwlPass) (p : Pkt) (count : Nat) : Nat :=
  s.tape % 2 ^ 64 + p.header <<< 64 + (p.lap.toNat % 2 ^ 32) <<< 192 + w.awl <<< 224 +
    ((if w.dir then 1 else 0) + (if w.seam1 then 2 else 0) + (if w.inj then 4 else 0) +
      (if w.ej then 8 else 0)) <<< 232 + (count % 65536) <<< 240

/-- A match writes its trace record where the Awl traces (R264). -/
def State.awlTrace (s : State) (w : AwlPass) (p : Pkt) (count : Nat) : State :=
  let n := w.awl
  let ctl := R.awlCtl n
  let mode := s.fld ctl F.awlCtl_MODE
  if mode = 0 ∨ (mode = 1 ∧ 24 ≤ n) ∨ count % 2 ^ s.fld ctl F.awlCtl_SAMPLE ≠ 0 ∨
      s.fld ctl F.awlCtl_OVERFLOW = 1 then s
  else
    let lo := (s.rd (R.awlTraceBase n)).toNat
    let hi := (s.rd (R.awlTraceLimit n)).toNat
    let ptr := max lo (s.rd (R.awlTracePtr n)).toNat
    let full := decide (hi < ptr + 32)
    if full && s.fld ctl F.awlCtl_WRAP == 0 then s.setF ctl F.awlCtl_OVERFLOW 1
    else
      let at' := if full then lo else ptr
      let rec' := s.traceRec w p count
      let s := s.wr (R.awlTracePtr n) (BitVec.ofNat 64 (at' + 32))
      if mode = 1 then
        let base := 65536 * (if n < 16 then n / 4 else (n - 16) / 2)
        let put := fun (m : KMap Nat) i => KMap.set 0 (base + (at' + i) % 65536) (rec' >>> (8 * i) % 256) m
        { s with trace := (List.range 32).foldl put s.trace }
      else
        let pa := BitVec.ofNat 56 at'
        let q : Pkt := {
          op := 0x07, src := BitVec.ofNat 8 (awlEyelet n),
          dst := BitVec.ofNat 8 (s.homeEyelet at'), pa := pa, prio := 0, size := 32, nc := true,
          data := BitVec.ofNat 512 (rec' <<< (8 * (at' % 64))),
          be := BitVec.ofNat 64 ((2 ^ 32 - 1) <<< (at' % 64)) }
        { s with net := s.net ++ [q] }

/-- The stop that holds an Awl's count (R454): its saddle, or the yoke. -/
def awlStop (n : Nat) : Nat := if n < 16 then 12 + n / 4 else if n < 24 then 12 + (n - 16) / 2 else 16

/-- The Awls see a packet (R262-R264). DEDUCED (assumption 45). -/
def State.awlSee (s : State) (p : Pkt) : State :=
  (s.awlPasses p).foldl (fun s w =>
    if s.awlMatches w.awl p && !s.frozenAt (awlStop w.awl) then
      let c := (s.rd (R.awlCount w.awl)).toNat + 1
      (s.wr (R.awlCount w.awl) (BitVec.ofNat 64 c)).awlTrace w p c
    else s) s

/-! ### Injection -/

/-- A packet is on its way. DESIGN CHOICE (assumption 42). -/
def State.inject (s : State) (p : Pkt) : State :=
  let s := s.awlSee p
  { s with net := s.net ++ [p] }

/-- A packet leaves its source (R232, R241, R259): discarded where its destination is not used, held for
an epoch switch or for its slot, else on its way. -/
def State.send (s : State) (p : Pkt) : State :=
  if !usedEyelet p.dst.toNat then
    let sd := p.src.toNat / 0x30
    if p.src.toNat < 0xC0 then
      s.err (12 + sd) 1 5 (unitCode 0x01 sd) 0 0 (protoMisc 4 p.dst.toNat)
    else s.err 16 1 5 (unitCode 0x0B 0) 0 0 (protoMisc 4 p.dst.toNat)
  else if startsTx p.op && s.epoch.holding.contains p.src.toNat then
    { s with epoch.heldPkts := s.epoch.heldPkts ++ [{ p with epoch := s.fld R.epoch F.epoch_CURRENT == 0 }] }
  else if s.waitsSlot p then { s with epoch.slotQ := s.epoch.slotQ ++ [p] }
  else s.inject p

/-- Packets leave their source in order. -/
def State.sendAll (s : State) (l : List Pkt) : State := l.foldl State.send s

end Sys2Proof.Machine
end

