-- ==== Sys2Proof/Machine/HartOps.lean ====
section
/-! DEFINITION. What every hart command shares: the address map's regions (R86), taking a trap, the
issue of an instruction, lookup and replacement in L1I, L1D and L2 (R136-R144), the leaving table
(R186), and requests to a home (R171, R174). -/

namespace Sys2Proof.Machine

/-! ### Regions (R86) -/

/-- Regions of the physical address map. -/
inductive Region where
  | bolt | mmio (port : Nat) | ctl | window | hole
  deriving DecidableEq, Repr

/-- The region of an address (R14, R271, R313, R367). -/
def regionOf (pa : Nat) : Region :=
  if pa < 2 ^ 48 then .bolt
  else if pa < 2 ^ 49 then .mmio (pa / 2 ^ 45 % 8)
  else if pa < 2 ^ 49 + 2 ^ 32 then .ctl
  else if 2 ^ 55 ≤ pa then .window
  else .hole

/-- How an access goes: cacheable, non-coherent at the home, I/O-type, or through the Harness window. -/
inductive Route where
  | cached | nc | io | window | hole
  deriving DecidableEq, Repr

/-- The route of an access (R86): PBMT changes pages of the bolt range alone. -/
def routeOf (pa : Nat) (m : Pbmt) : Route :=
  match regionOf pa with
  | .bolt => match m with | .pma => .cached | .nc => .nc | .io => .io
  | .mmio _ => .io
  | .ctl => .io
  | .window => .window
  | .hole => .hole

/-- The eyelet that serves a control-space offset (R14, R224). -/
def ctlEyelet (off : Nat) : Nat :=
  if off < 0x10000000 then
    if off < 0x400000 then 0xCE
    else if off < 0x480000 then 0xC0 + (off - 0x400000) / 0x10000
    else if off < 0x490000 then 0xC8
    else if off < 0x4A0000 then 0xCC
    else if 0x600000 ≤ off ∧ off < 0xA00000 then 0xD0 + (off - 0x600000) / 0x10000 / 4
    else if 0xC00000 ≤ off ∧ off < 0xD00000 then 0xCB
    else if 0x02000000 ≤ off ∧ off < 0x04000000 then 0xC9
    else if 0x04000000 ≤ off ∧ off < 0x0D000000 then 0xCD
    else if 0x0D000000 ≤ off then 0xCA
    else 0xCE
  else if off < 0x50000000 then 0x30 * ((off - 0x10000000) / 0x10000000) + 0x27
  else if 0x80000000 ≤ off ∧ off < 0xB0000000 then 0x30 * ((off - 0x80000000) / 0x4000000 / 3) + 0x27
  else 0xCE

/-! ### Traps -/

/-- Exception causes the rules raise (RISC-V privileged). -/
def causeInstrAccess : Nat := 1
def causeIllegal : Nat := 2
def causeBreak : Nat := 3
def causeLoadMisaligned : Nat := 4
def causeLoadAccess : Nat := 5
def causeStoreMisaligned : Nat := 6
def causeStoreAccess : Nat := 7
def causeVirtual : Nat := 22

/-- Bits `lo` of a CSR value replaced, `n` wide. -/
def setBits (v : Word) (lo n x : Nat) : Word := putF v ⟨lo + n - 1, lo, .rw, 0, 0, 0⟩ x
/-- Bits of a CSR value. -/
def bitsAt (v : Word) (lo n : Nat) : Nat := getF v ⟨lo + n - 1, lo, .rw, 0, 0, 0⟩

/-- pc of a trap handler: direct, or vectored for interrupts. -/
def tvecTarget (tvec : Word) (intr : Bool) (cause : Nat) : Word :=
  let base := setBits tvec 0 2 0
  if intr && bitsAt tvec 0 2 == 1 then base + BitVec.ofNat 64 (4 * cause) else base

/-- The xcause value of a trap. -/
def causeWord (intr : Bool) (cause : Nat) : Word :=
  BitVec.ofNat 64 (cause + if intr then 2 ^ 63 else 0)

/-- The trap is taken at M: mepc, mcause, mtval, MPIE, MPP, MPV. PRESUMED (assumption 10). -/
def World.trapM (w : World) (intr : Bool) (cause : Nat) (tval : Word) : World :=
  let st := w.csrVal 0x300
  let st := setBits (setBits st 7 1 (bitsAt st 3 1)) 3 1 0
  let st := setBits (setBits st 11 2 w.priv) 39 1 (if w.virt then 1 else 0)
  let w' := (((w.setCsr 0x300 st).setCsr 0x341 w.pc).setCsr 0x342 (causeWord intr cause)).setCsr 0x343 tval
  { w' with priv := 3, virt := false, pc := tvecTarget (w.csrVal 0x305) intr cause }

/-- The trap is taken at S (HS): sepc, scause, stval, SPIE, SPP, hstatus.SPV. PRESUMED (assumption 10). -/
def World.trapS (w : World) (intr : Bool) (cause : Nat) (tval : Word) : World :=
  let st := w.csrVal 0x300
  let st := setBits (setBits st 5 1 (bitsAt st 1 1)) 1 1 0
  let st := setBits st 8 1 (if w.priv = 0 then 0 else 1)
  let hs := setBits (w.csrVal 0x600) 7 1 (if w.virt then 1 else 0)
  let hs := if w.virt then setBits hs 8 1 (if w.priv = 0 then 0 else 1) else hs
  let w' := ((((w.setCsr 0x300 st).setCsr 0x600 hs).setCsr 0x141 w.pc).setCsr 0x142
    (causeWord intr cause)).setCsr 0x143 tval
  { w' with priv := 1, virt := false, pc := tvecTarget (w.csrVal 0x105) intr cause }

/-- The trap is taken at VS: vsepc, vscause, vstval, vsstatus. PRESUMED (assumption 10). -/
def World.trapVS (w : World) (intr : Bool) (cause : Nat) (tval : Word) : World :=
  let st := w.csrVal 0x200
  let st := setBits (setBits st 5 1 (bitsAt st 1 1)) 1 1 0
  let st := setBits st 8 1 (if w.priv = 0 then 0 else 1)
  let w' := (((w.setCsr 0x200 st).setCsr 0x241 w.pc).setCsr 0x242 (causeWord intr cause)).setCsr 0x243 tval
  { w' with priv := 1, virt := true, pc := tvecTarget (w.csrVal 0x205) intr cause }

/-- A world takes a trap: a pocket's traps at its S level (R357), else by the delegation registers. -/
def World.trap (w : World) (intr : Bool) (cause : Nat) (tval : Word) : World :=
  if w.csrVal csr_skpocket ≠ 0 then w.trapS intr cause tval
  else if w.priv = 3 then w.trapM intr cause tval
  else if !bit (w.csrVal (if intr then 0x303 else 0x302)).toNat cause then w.trapM intr cause tval
  else if w.virt && bit (w.csrVal (if intr then 0x603 else 0x602)).toNat cause then
    w.trapVS intr cause tval
  else w.trapS intr cause tval

/-- A hart takes an exception at its current instruction; an NC reservation ends (R101). -/
def State.trap (s : State) (h cause : Nat) (tval : Word := 0) : State :=
  s.updHart h fun x =>
    { x with w := x.w.trap false cause tval
             resv := match x.resv with | some r => if r.nc then none else some r | none => none }

/-- An illegal-instruction exception (R83). -/
def State.illegal (s : State) (h : Nat) : State := s.trap h causeIllegal

/-! ### Issue and retirement -/

/-- State of a panel's domain: 0 ON, 1 DIM, 2 OFF (R398). -/
def State.panelState (s : State) (p : Nat) : Nat := s.fld R.domainState F.domainState_PANEL / 4 ^ p % 4

/-- State of a saddle's domain: 0 ON, 1 QUIET, 2 OFF (R398, R402): two bits of DOMAIN_STATE.SADDLE per saddle. -/
def State.saddleState (s : State) (sd : Nat) : Nat :=
  s.fld R.domainState F.domainState_SADDLE / 4 ^ sd % 4

/-- Residency of a domain up to now (R405): `d` its place in `since`, `k` its counters' first key, `st` its state. -/
def State.accrue (s : State) (d k st : Nat) : State :=
  let n := if s.frozenAt 16 then 0 else s.tape - KMap.get 0 s.thm.since d
  { s with thm.since := KMap.set 0 d s.tape s.thm.since
           thm.resid := KMap.set 0 (k + st) (KMap.get 0 s.thm.resid (k + st) + n) s.thm.resid }

/-- The residency of every domain and hart is brought up to now (R405). -/
def State.accrueAll (s : State) : State :=
  let s := s.accrue 0 0 (s.fld R.domainState F.domainState_PKG)
  let s := (List.range 4).foldl (fun s t => s.accrue (1 + t) (4 + 4 * t) (s.saddleState t)) s
  let s := (List.range 12).foldl (fun s p => s.accrue (5 + p) (32 + 4 * p) (s.panelState p)) s
  { s with harts := s.harts.map fun e => (e.1, e.2.accrue s.tape (s.frozenAt 16)) }

/-- A field of two bits per domain with domain `i` at `v`. -/
def put2 (w i v : Nat) : Nat := w - w / 4 ^ i % 4 * 4 ^ i + v * 4 ^ i

/-- The package's state (R398). -/
def State.setPkg (s : State) (v : Nat) : State :=
  let st := s.fld R.domainState F.domainState_PKG
  if st = v then s else (s.accrue 0 0 st).setF R.domainState F.domainState_PKG v

/-- The package's state follows its panels and saddles (R398): REST while none is ON; DORMANT until its exit. -/
def State.updPkg (s : State) : State :=
  if s.fld R.domainState F.domainState_PKG = 2 then s
  else
    let pOn := (List.range 12).any fun p => s.rd (R.hartEn p) != 0 && s.panelState p == 0
    let sOn := (List.range 4).any fun t => s.saddleState t == 0
    s.setPkg (if pOn || sOn then 0 else 1)

/-- A panel's domain enters a state (R398). -/
def State.setPanelState (s : State) (p v : Nat) : State :=
  if s.panelState p = v then s
  else
    let s := s.accrue (5 + p) (32 + 4 * p) (s.panelState p)
    (s.setF R.domainState F.domainState_PANEL (put2 (s.fld R.domainState F.domainState_PANEL) p v)).updPkg

/-- A saddle's domain enters a state (R398). -/
def State.setSaddleState (s : State) (sd v : Nat) : State :=
  if s.saddleState sd = v then s
  else
    let s := s.accrue (1 + sd) (4 + 4 * sd) (s.saddleState sd)
    (s.setF R.domainState F.domainState_SADDLE (put2 (s.fld R.domainState F.domainState_SADDLE) sd v)).updPkg

/-- A panel on its way to DIM or back. -/
def State.dimOf (s : State) (p : Nat) : DimSt := KMap.get {} s.thm.dim p

/-- A panel's handshakes are parked: by its brown-out monitor, or with the package's (R39, R413, R472). -/
def State.panelParked (s : State) (p : Nat) : Bool := s.thm.parkAll || KMap.get 0 s.clk.parks p != 0

/-- A parked panel's work is held, not lost (R39): what needs its handshakes does not happen yet.
DEDUCED (assumption 59). -/
def State.livePanel (s : State) (p : Nat) (t : State) : State := if s.panelParked p then s else t

/-- The same for whoever waits for a reply. -/
def State.livePeer (s : State) (who : Peer) (t : State) : State :=
  match who with
  | .hart h => s.livePanel (h.num / 32) t
  | .home _ => s.live t
  | .yoke _ _ => t

/-- A hart can issue: in RUN, waiting for nothing, its panel ON and its handshakes not parked (R39, R91,
R398). -/
def State.canIssue (s : State) (h : Nat) : Bool :=
  let x := s.hart h
  x.mode == .run && x.wait == .none && !s.panelParked (h / 32) && s.panelState (h / 32) == 0 &&
    (s.dimOf (h / 32)).stage == 0

/-- mcountinhibit stops a counter of the host world's copies (R450). -/
def World.inhibits (w : World) (i : Nat) : Bool :=
  (w.csrVal csr_skpocket).toNat % 4096 == 0 && bit (w.csrVal 0x320).toNat i

/-! ### Core events (R447-R449) -/

/-- The increment an event presents on the next stitch (R448). Events no command shows present 0.
DEDUCED (assumption 31). -/
def HartSt.evVal (x : HartSt) (code : Nat) : Nat :=
  match code with
  | 0x0001 => 1
  | 0x0002 => x.w.ret
  | 0x0023 => x.reqs.length
  | 0x0040 => if x.ra.isSome then 1 else 0
  | 0x0070 => (x.io.filter fun i => i.sent && !i.window).length
  | c => KMap.get 0 x.ev c

/-- `n` occurrences of a core event at a hart. DEDUCED (assumption 31). -/
def State.bump (s : State) (h code : Nat) (n : Nat := 1) : State :=
  s.updHart h fun x => { x with ev := KMap.upd 0 code (· + n) x.ev }

/-- The inhibit bits of mhpmevent in the mode the hart runs: M, S, U, VS, VU. DEDUCED (assumption 115). -/
def World.hpmInhibited (w : World) (e : Nat) : Bool :=
  bit e (match w.priv, w.virt with | 3, _ => 62 | 1, false => 61 | 0, false => 60 | 1, true => 59 | _, _ => 58)

/-- What mhpmcounter k counts of an increment (R447). -/
def cmpStep (cmp n v prev : Nat) : Nat :=
  match cmp with
  | 0 => v
  | 1 => if n < v then 1 else 0
  | 2 => if n ≤ v then 1 else 0
  | _ => if n < v ∧ prev ≤ n then 1 else 0

/-- A core counter overflows (R447): OF is set, and the local counter-overflow interrupt 13 becomes pending in
the host world where OF was 0. -/
def State.hpmOverflow (s : State) (h k : Nat) : State :=
  let e := 0x320 + k
  let v := (s.csr h e).toNat
  let s := s.setCsr h e (BitVec.ofNat 64 (setBit v 63 true))
  if bit v 63 then s
  else s.updHart h fun x =>
    let pend := fun w : World => w.setCsr 0x344 (BitVec.ofNat 64 (setBit (w.csrVal 0x344).toNat 13 true))
    match x.host with
    | some w => { x with host := some (pend w) }
    | none => { x with w := pend x.w }

/-- One stitch of mhpmcounter k. -/
def State.hpmOne (s : State) (h k : Nat) : State :=
  let x := s.hart h
  let e := (x.w.csrVal (0x320 + k)).toNat
  if e = 0 ∨ s.frozenAt (h / 32) then s
  else
    let pk := x.pocket.toNat
    let v := x.evVal (e % 65536)
    let prev := KMap.get 0 s.cnt.prev (64 * h + k)
    let s : State := { s with cnt.prev := KMap.set 0 (64 * h + k) v s.cnt.prev }
    let off := bit (x.w.csrVal 0x320).toNat k || x.w.hpmInhibited e || !s.nonInv pk ||
      (bit e 44 && e / 2 ^ 32 % 4096 != pk)
    let inc := if off then 0 else cmpStep (e / 2 ^ 28 % 4) (e / 2 ^ 16 % 4096) v prev
    let c := (x.w.csrVal (0xB00 + k)).toNat + inc
    let s := s.setCsr h (0xB00 + k) (BitVec.ofNat 64 c)
    if 2 ^ 64 ≤ c then s.hpmOverflow h k else s

/-- A stitch of a hart's event counters. -/
def State.hpmStep (s : State) (h : Nat) : State := (List.range 8).foldl (fun s i => s.hpmOne h (3 + i)) s

/-- One handshake of a hart's issue stage: mcycle advances unless mcountinhibit.CY is 1 (R89). The
model counts one per command the hart issues. DESIGN CHOICE (assumption 13). -/
def State.issue (s : State) (h : Nat) : State :=
  let s := s.hpmStep h
  s.updHart h fun x =>
    let w := if s.frozenAt (h / 32) || x.w.inhibits 0 then x.w else x.w.setCsr 0xB00 (x.w.csrVal 0xB00 + 1)
    { x with w := { w with ret := 0 }, stitch := x.stitch + 1, ev := [] }

/-- An earlier world of a hart restored: its cycle and event counters and pending interrupts are not undone. -/
def World.back (now old : World) : World :=
  let w : World := ([0xB00, 0x344, 0xE12] ++ (List.range 8).map (0xB03 + ·) ++ (List.range 8).map (0x323 + ·)).foldl
    (fun (w : World) n => w.setCsr n (now.csrVal n)) old
  { w with frozen := now.frozen }

/-- An instruction retires: pc advances and minstret counts unless mcountinhibit.IR is 1.
DESIGN CHOICE (assumption 13). -/
def World.retire (w : World) : World :=
  let w := if w.frozen || w.inhibits 2 then w else w.setCsr 0xB02 (w.csrVal 0xB02 + 1)
  { w with pc := w.pc + 4, ret := w.ret + 1 }

def State.retire (s : State) (h : Nat) : State := s.updHart h fun x => { x with w := x.w.retire }

/-! ### Debug halt (R360, R457) -/

/-- A hart halts for cause `c` of dcsr: it leaves run-ahead and RUN; dcsr takes its privilege. A hold window for
which no snoop waits ends with it; the others end when their snoops are served (R178). DEDUCED (assumption 109). -/
def State.halt (s : State) (h c : Nat) : State :=
  let waits := fun l : Nat => (List.range 2).any fun i =>
    (s.port (2 * (h / 32) + i)).waiting.any fun v => v.core == h % 32 && lineOf v.r.pa == l
  s.updHart h fun x =>
    let w := match x.ra with | some w => x.w.back w | none => x.w
    let d := setBits (w.csrVal 0x7B0) 6 3 c
    let d := setBits (setBits d 0 2 w.priv) 5 1 (if w.virt then 1 else 0)
    { x with mode := .halted, wait := .none, ra := none, haltReq := false, w := w.setCsr 0x7B0 d
             l2 := x.l2.map fun e => if waits e.2.line then e else (e.1, { e.2 with held := false }) }

/-- A single step (dcsr.step) ends after one instruction of a world whose INV is 1 (R360). -/
def State.stepped (s : State) (h : Nat) : State :=
  let x := s.hart h
  if x.mode == .run && bit (x.w.csrVal 0x7B0).toNat 2 && s.inv x.pocket.toNat then s.halt h 4 else s

/-- A command of a hart that can issue takes effect; of any other hart it has none. A halt request that waits for a
world whose INV is 1 acts first (R360). DESIGN CHOICE (assumption 3). -/
def State.onHart (s : State) (h : HartId) (f : State → State) : State :=
  if s.canIssue h.num then
    let x := s.hart h.num
    if x.haltReq && s.inv x.pocket.toNat then s.halt h.num 3 else (f (s.issue h.num)).stepped h.num
  else s

/-- A hart is in run-ahead (R93). -/
def State.inRunAhead (s : State) (h : Nat) : Bool := (s.hart h).ra.isSome

/-! ### Cache lookup and replacement (R136-R144) -/

/-- The way of a set that holds a line. -/
def findWay (m : KMap CLine) (ways set line : Nat) : Option Nat :=
  ((List.range ways).find? fun w =>
    let c := KMap.get {} m (ways * set + w)
    c.st != .I && c.line == line).map (ways * set + ·)

def HartSt.l2Key (x : HartSt) (line : Nat) : Option Nat := findWay x.l2 16 (line % 2048) line
def HartSt.l1dKey (x : HartSt) (line : Nat) : Option Nat := findWay x.l1d 8 (line % 128) line
def HartSt.l1iKey (x : HartSt) (line : Nat) : Option Nat := findWay x.l1i 4 (line % 256) line
/-- The L2's copy of a line, invalid where it has none. -/
def HartSt.l2Line (x : HartSt) (line : Nat) : CLine :=
  match x.l2Key line with | some k => KMap.get {} x.l2 k | none => {}
def HartSt.l1dLine (x : HartSt) (line : Nat) : CLine :=
  match x.l1dKey line with | some k => KMap.get {} x.l1d k | none => {}

/-- The L2's copy of a line changed by `f`. -/
def HartSt.updL2 (x : HartSt) (line : Nat) (f : CLine → CLine) : HartSt :=
  match x.l2Key line with
  | some k => { x with l2 := KMap.upd {} k f x.l2 }
  | none => x
def HartSt.updL1d (x : HartSt) (line : Nat) (f : CLine → CLine) : HartSt :=
  match x.l1dKey line with
  | some k => { x with l1d := KMap.upd {} k f x.l1d }
  | none => x

/-- Dirty L1D data is taken into the L2 line (R137). -/
def HartSt.syncL2 (x : HartSt) (line : Nat) : HartSt :=
  let d := x.l1dLine line
  if d.st != .I && d.dirty then
    (x.updL2 line fun c => { c with data := d.data, poison := d.poison, st := .M }).updL1d line
      fun c => { c with dirty := false }
  else x

/-- The newest data a hart's caches hold of a line. -/
def HartSt.lineData (x : HartSt) (line : Nat) : LineData × BitVec 4 :=
  let d := x.l1dLine line
  let c := x.l2Line line
  if d.st != .I && d.dirty then (d.data, d.poison) else (c.data, c.poison)

/-- The line leaves both L1 caches, dirty data going to the L2 line (R137). -/
def HartSt.dropL1 (x : HartSt) (line : Nat) : HartSt :=
  let x := x.syncL2 line
  let x := x.updL1d line fun _ => {}
  match x.l1iKey line with
  | some k => { x with l1i := KMap.set {} k {} x.l1i }
  | none => x

/-- The line leaves the hart's caches. -/
def HartSt.dropL2 (x : HartSt) (line : Nat) : HartSt :=
  let x := x.dropL1 line
  let r := match x.resv with
    | some r => if !r.nc && r.line == line then none else some r
    | none => none
  { x.updL2 line (fun _ => {}) with resv := r }

/-- The victim of a set and the set aged (R142): the lowest invalid way, else the lowest eligible way
of the greatest age, every way of the set growing older until that age is 3. -/
def victim (m : KMap CLine) (ways set : Nat) (elig : Nat → Bool) : Option (Nat × KMap CLine) :=
  let keys := (List.range ways).map (ways * set + ·)
  let at' := fun k => KMap.get ({} : CLine) m k
  match keys.find? fun k => (at' k).st == .I with
  | some k => some (k, m)
  | none =>
    let es := keys.filter elig
    match es with
    | [] => none
    | _ =>
      let top := es.foldl (fun a k => max a (at' k).age) 0
      (es.find? fun k => (at' k).age == top).map fun k =>
        (k, keys.foldl (fun m k => KMap.upd {} k (fun c => { c with age := min 3 (c.age + (3 - top)) }) m) m)

/-- A line is put in the L1D (R137: its data comes from the L2 line). -/
def HartSt.fillL1d (x : HartSt) (line : Nat) (stream : Bool) : HartSt :=
  match x.l1dKey line with
  | some k => { x with l1d := KMap.upd {} k (fun c => { c with age := 0 }) x.l1d }
  | none =>
    match victim x.l1d 8 (line % 128) (fun _ => true) with
    | none => x
    | some (k, m) =>
      let old := KMap.get ({} : CLine) m k
      let x := if old.st != .I then { x with l1d := m }.syncL2 old.line else { x with l1d := m }
      let c := x.l2Line line
      let new : CLine := { c with age := if stream then 3 else 1, held := false, repd := false,
                                  recent := 0, dirty := false }
      { x with l1d := KMap.set {} k new x.l1d, ev := KMap.upd 0 0x20 (· + 1) x.ev }

/-- A line is put in the L1I. -/
def HartSt.fillL1i (x : HartSt) (line : Nat) (stream : Bool) : HartSt :=
  match x.l1iKey line with
  | some k => { x with l1i := KMap.upd {} k (fun c => { c with age := 0 }) x.l1i }
  | none =>
    match victim x.l1i 4 (line % 256) (fun _ => true) with
    | none => x
    | some (k, m) =>
      let c := x.l2Line line
      let new : CLine := { c with st := .S, age := if stream then 3 else 1, held := false,
                                  repd := false, recent := 0, dirty := false }
      { x with l1i := KMap.set {} k new m, ev := KMap.upd 0 0x21 (· + 1) x.ev }

/-! ### The leaving table -/

/-- Number of the port of a hart's panel that a line uses (R171). -/
def portOf (h line : Nat) : Nat := 2 * (h / 32) + line % 2
/-- Eyelet of a port. -/
def portEyelet (k : Nat) : Nat := 0x30 * (k / 2 / 3) + 0x18 + 2 * (k / 2 % 3) + k % 2

/-- The port of a hart's line takes a leaving entry, where the table has room (R186). -/
def State.acceptLeave (s : State) (h : Nat) (l : Leave) : Option State :=
  let k := portOf h l.line
  if (s.port k).leaving.length < 32 then
    some (s.updPort k fun p => { p with leaving := p.leaving ++ [l] })
  else none

/-- The port sends the WB and EV packets it has not sent (R186). -/
def State.sendLeaving (s : State) (k : Nat) : State :=
  let p := s.port k
  let mk := fun l : Leave =>
    ({ op := if l.st == .M then 0x31 else 0x32, src := BitVec.ofNat 8 (portEyelet k),
       dst := BitVec.ofNat 8 (s.homeEyelet (64 * l.line)), txid := BitVec.ofNat 12 (l.core * 128),
       pocket := l.pocket, pa := addrOfLine l.line, data := l.data, poison := l.poison,
       sent := s.tape } : Pkt)
  let pkts := (p.leaving.filter fun l => !l.sent).map mk
  let s := s.updPort k fun p => { p with leaving := p.leaving.map fun l => { l with sent := true } }
  s.sendAll pkts

/-- An L2 line leaves its cache as R143 gives; `none` while the leaving table is full. -/
def State.evictL2 (s : State) (h line : Nat) (tagMiss : Bool := false) : Option State :=
  let x := (s.hart h).dropL1 line
  let c := x.l2Line line
  match c.st with
  | .I => some s
  | .S => some (s.setHart h (x.dropL2 line))
  | st =>
    let l : Leave := { line := line, core := h % 32, st := st, pocket := c.pocket,
                       data := if st == .M then c.data else 0,
                       poison := if st == .M then c.poison else 0, tagMiss := tagMiss }
    (s.acceptLeave h l).map fun s => s.setHart h (x.dropL2 line)

/-- A way of an L2 set may be a victim (R142). -/
def State.l2Eligible (s : State) (h k : Nat) : Bool :=
  let c := KMap.get ({} : CLine) (s.hart h).l2 k
  !c.held && !c.repd &&
    !(s.port (portOf h c.line)).waiting.any fun w => w.core == h % 32 && lineOf w.r.pa == c.line

/-- Length in stitches of the hold window of a line a hart wins (R107, R178). DESIGN CHOICE (assumption 25). -/
def State.holdWindow (s : State) (h line : Nat) : Nat :=
  let v := s.csr h csr_mkhold
  if s.fld (R.pnlDieId (h / 32)) F.pnlDieId_STEPPING = 1 ∧ bit v.toNat 63 ∧ bitsAt v 0 50 = line then bitsAt v 50 10
  else s.fld (R.cohCfg (s.homeEyelet (64 * line) / 0x30)) F.cohCfg_HOLD_WINDOW

/-- A line is installed in a hart's L2, replacing its own old copy or a victim; `none` while no way is
eligible or the victim cannot leave (R142, R186). A line won in M or E is held (R178). -/
def State.installL2 (s : State) (h line : Nat) (st : LState) (d : LineData) (po : BitVec 4)
    (pk : Pocket) (stream : Bool) : Option State :=
  let new : CLine :=
    { st := st, line := line, pocket := pk, age := if stream then 3 else 1, data := d, poison := po,
      held := st == .M || st == .E, holdEnd := (s.hart h).stitch + s.holdWindow h line }
  match (s.hart h).l2Key line with
  | some k => some (s.updHart h fun x =>
      let x := x.dropL1 line
      { x with l2 := KMap.set {} k new x.l2 })
  | none =>
    match victim (s.hart h).l2 16 (line % 2048) (s.l2Eligible h) with
    | none => none
    | some (k, m) =>
      let s := s.updHart h fun x => { x with l2 := m }
      let old := KMap.get ({} : CLine) m k
      match (if old.st == .I then some s else s.evictL2 h old.line) with
      | none => none
      | some s => some (s.updHart h fun x => { x with l2 := KMap.set {} k new x.l2 })

/-! ### Requests to a home -/

/-- A transaction index of the core that no request or access in it uses (R225). -/
def HartSt.freshTx (x : HartSt) : Nat := x.nextTx % 128

/-- REQ default priority (R237): the first rule that matches pocket, source kind and class. -/
def State.fabricPrio (s : State) (pk srcBit clsBit dfltOff : Nat) : Nat :=
  match s.piece 0x60 0xFFFF with
  | none => 1
  | some l =>
    match (List.range (le l 3 1)).find? fun i =>
        let o := 8 + 8 * i
        decide (le l o 2 % 4096 ≤ pk) && decide (pk ≤ le l (o + 2) 2 % 4096) &&
        bit (le l (o + 4) 1) srcBit && bit (le l (o + 5) 1) clsBit with
    | some i => le l (8 + 8 * i + 6) 1
    | none => le l dfltOff 1

/-- A packet to a line's home from a panel port, on behalf of a core (R225, R236). -/
def State.portPkt (s : State) (h : Nat) (op : BitVec 8) (pa : Addr) (tx : Nat) (pk : Pocket) : Pkt :=
  { op := op, src := BitVec.ofNat 8 (portEyelet (portOf h (lineOf pa))),
    dst := BitVec.ofNat 8 (s.homeEyelet pa.toNat), txid := BitVec.ofNat 12 (h % 32 * 128 + tx % 128),
    pocket := pk, pa := pa, prio := s.fabricPrio pk.toNat 0 0 0,
    epoch := s.fld R.epoch F.epoch_CURRENT == 1 }

/-- A core's L2 opens a request for a line. -/
def State.addReq (s : State) (h : Nat) (op : BitVec 8) (line : Nat) (commit stream ifetch spec : Bool) :
    State :=
  s.updHart h fun x =>
    let r : L2Req := { txid := x.freshTx, op := op, line := line, stream := stream, commit := commit,
                       ifetch := ifetch, spec := spec, pocket := x.pocket }
    { x with nextTx := x.nextTx + 1, reqs := x.reqs ++ [r], ev := KMap.upd 0 0x22 (· + 1) x.ev }

/-- The packet of a line request. -/
def State.reqPkt (s : State) (h : Nat) (op : BitVec 8) (line tx : Nat) (commit stream : Bool) : Pkt :=
  { s.portPkt h op (addrOfLine line) tx (s.hart h).pocket with
    commit := commit, mod := if stream then 0x80 else 0 }

/-- A hit on a line whose pocket tag differs is a miss after the old copy has left (R139). -/
def State.tagCheck (s : State) (h line : Nat) : State :=
  let c := (s.hart h).l2Line line
  if c.st != .I && c.pocket != (s.hart h).pocket then (s.evictL2 h line true).getD s else s

/-- The L2 still holds the line under another pocket's tag: its eviction waits for a full table (R186). -/
def State.tagBlocked (s : State) (h line : Nat) : Bool :=
  let c := (s.hart h).l2Line line
  c.st != .I && c.pocket != (s.hart h).pocket

/-- A line request of a core's L2 enters its port (R171): sent to the home, or held behind the port's
own leaving entry for the line, or answered by cancelling an unsent entry (R139, R191). -/
def State.requestLine (s : State) (h : Nat) (op : BitVec 8) (line : Nat) (commit stream ifetch spec : Bool) :
    State :=
  let s := s.tagCheck h line
  let x := s.hart h
  if s.tagBlocked h line || x.reqs.any fun r => r.line == line then s
  else
    let k := portOf h line
    let own := fun l : Leave => l.line == line && l.core == h % 32
    match (s.port k).leaving.find? own with
    | some l =>
      if !l.sent && !l.tagMiss && !l.superseded then
        match s.installL2 h line l.st l.data l.poison l.pocket false with
        | some s' => s'.updPort k fun p => { p with leaving := p.leaving.eraseP own }
        | none => s
      else
        let s := s.addReq h op line commit stream ifetch spec
        let pk := s.reqPkt h op line x.freshTx commit stream
        s.updPort k fun p => { p with heldReq := p.heldReq ++ [pk] }
    | none =>
      let s := s.addReq h op line commit stream ifetch spec
      s.send (s.reqPkt h op line x.freshTx commit stream)

/-- The L2 holds a line that the hart's world may use. -/
def State.readable (s : State) (h line : Nat) : Bool :=
  let c := (s.hart h).l2Line line
  c.st != .I && c.pocket == (s.hart h).pocket

/-- The L2 holds a line in M or E that the hart's world may use. -/
def State.writable (s : State) (h line : Nat) : Bool :=
  s.readable h line && (match ((s.hart h).l2Line line).st with | .M => true | .E => true | _ => false)

end Sys2Proof.Machine
end

