-- ==== Sys2Proof/Machine/Operands.lean ====
section
/-! DEFINITION. Operand forms the commands share: the atomic operations (R185), sign extension,
register pairs (R134), and the placing of a value in a line. -/

namespace Sys2Proof.Machine


end Sys2Proof.Machine

namespace Sys2Proof

/-- FUNC code of an atomic operation (R185). -/
def AmoFunc.code : AmoFunc → Nat
  | .swap => 0 | .add => 1 | .and => 2 | .or => 3 | .xor => 4 | .min => 5 | .max => 6
  | .minu => 7 | .maxu => 8 | .cas => 9

/-- WIDTH code of an access size (R185). -/
def Size.code : Size → Nat
  | .b1 => 0 | .b2 => 1 | .b4 => 2 | .b8 => 3 | .b16 => 4


end Sys2Proof

namespace Sys2Proof.Machine

/-- A number of `n` bytes read as signed. -/
def signedOf (n v : Nat) : Int := if v < 2 ^ (8 * n - 1) then v else (v : Int) - 2 ^ (8 * n)

/-- The new value of an `n`-byte operand: FUNC of R185 on the old value, `cmp` the CAS comparand. -/
def amoApply (func n old op cmp : Nat) : Nat :=
  let m := 2 ^ (8 * n)
  let old := old % m
  let op := op % m
  match func with
  | 0 => op
  | 1 => (old + op) % m
  | 2 => old &&& op
  | 3 => old ||| op
  | 4 => old ^^^ op
  | 5 => if signedOf n old ≤ signedOf n op then old else op
  | 6 => if signedOf n old ≥ signedOf n op then old else op
  | 7 => min old op
  | 8 => max old op
  | _ => if old = cmp % m then op else old

/-- An `n`-byte value sign-extended to 64 bits. -/
def sext (n v : Nat) : Word := BitVec.ofInt 64 (signedOf n (v % 2 ^ (8 * n)))

/-- `n` bytes of a line at offset `off`. -/
def lineNat (d : LineData) (off n : Nat) : Nat := d.toNat >>> (8 * off) % 2 ^ (8 * n)

/-- A value at offset `off` of a line. -/
def placeAt (v off : Nat) : LineData := BitVec.ofNat 512 (v <<< (8 * off))

/-- An access of `n` bytes at an address touches a poisoned word of its line. -/
def poisonHit (po : BitVec 4) (off n : Nat) : Bool :=
  (List.range 4).any fun w => po.getLsbD w && decide (16 * w < off + n) && decide (off < 16 * (w + 1))

/-- mstatus, and vsstatus in V, with the field of two bits at `lo` Dirty: FS at 13, VS at 9.
DEDUCED (assumption 22). -/
def World.dirty (w : World) (lo : Nat) : World :=
  let up := fun (w : World) n => w.setCsr n (setBits (setBits (w.csrVal n) lo 2 3) 63 1 1)
  if w.virt then up (up w 0x300) 0x200 else up w 0x300

/-- FS or VS (the field at `lo`) is Off: instructions of its registers are illegal. -/
def World.isOff (w : World) (lo : Nat) : Bool :=
  bitsAt (w.csrVal 0x300) lo 2 == 0 || (w.virt && bitsAt (w.csrVal 0x200) lo 2 == 0)

/-- Element `j` of 128 bits of a v register. -/
def World.vElem (w : World) (r j : Nat) : Nat := (w.vr r).toNat >>> (128 * j) % 2 ^ 128

/-- A v register with element `j` of 128 bits written. -/
def World.setVElem (w : World) (r j v : Nat) : World :=
  let m : BitVec 512 := BitVec.ofNat 512 ((2 ^ 128 - 1) <<< (128 * j))
  (w.setVr r ((w.vr r &&& ~~~m) ||| BitVec.ofNat 512 (v % 2 ^ 128 <<< (128 * j)))).dirty 9

/-- A result goes to `rd`: x registers for up to 8 bytes, an f register for a 16-byte load (flq), the
pair rd, rd+1 for amocas.q, whose high half a pair naming x0 discards (R134). Places from 64 on name the 128-bit
elements of the v registers, four to a register (R124); place 192 is the debug module's data (R457).
DESIGN CHOICE (assumption 14). -/
def World.setResult (w : World) (pair : Bool) (rd n : Nat) (signed : Bool) (v : Nat) : World :=
  if pair then
    if rd = 0 then w else (w.setX rd (BitVec.ofNat 64 v)).setX (rd + 1) (BitVec.ofNat 64 (v >>> 64))
  else if 192 ≤ rd then w.setVr 32 (BitVec.ofNat 512 (v % 2 ^ (8 * n)))
  else if 64 ≤ rd then w.setVElem ((rd - 64) / 4) ((rd - 64) % 4) v
  else if n = 16 then (w.setFr rd (BitVec.ofNat 128 v)).dirty 13
  else w.setX rd (if signed then sext n v else BitVec.ofNat 64 (v % 2 ^ (8 * n)))

/-- Registers a result goes to: x n is n, f n is 32 + n, v n is 64 + n. -/
def resultRegs (pair : Bool) (rd n : Nat) : List Nat :=
  if pair then (if rd = 0 then [] else [rd, rd + 1])
  else if 192 ≤ rd then [192]
  else if 64 ≤ rd then [64 + (rd - 64) / 4]
  else if n = 16 then [32 + rd]
  else if rd = 0 then [] else [rd]

/-- The registers of a result as `now` holds them, put into an older world. -/
def World.copyResult (now : World) (pair : Bool) (rd n : Nat) (w : World) : World :=
  if 192 ≤ rd then w.setVr 32 (now.vr 32)
  else if 64 ≤ rd then w.setVElem ((rd - 64) / 4) ((rd - 64) % 4) (now.vElem ((rd - 64) / 4) ((rd - 64) % 4))
  else (resultRegs pair rd n).foldl (fun w r =>
    if r < 32 then w.setX r (now.xr r) else (w.setFr (r - 32) (now.fr (r - 32))).dirty 13) w

/-- The value of the pair rs, rs+1; a pair naming x0 reads 0. -/
def World.pairVal (w : World) (rs : Nat) : BitVec 128 :=
  if rs = 0 then 0 else BitVec.ofNat 128 ((w.xr rs).toNat + (w.xr (rs + 1)).toNat <<< 64)

end Sys2Proof.Machine
end

