-- ==== Sys2Proof/Machine/Pipe.lean ====
section
/-! DEFINITION. A hart's accesses on their way: when each performs (R199-R203, R207), store-to-load
forwarding (R201), faults and poison (R87, R446), cache check-bit errors (R160). -/

namespace Sys2Proof.Machine

/-! ### Records of a hart -/

/-- A record of kind POISON, UCP, for a hart that consumed poisoned data (R446). -/
def State.hartPoison (s : State) (h consumer pa : Nat) : State :=
  s.err (h / 32) 2 1 (unitCode 0x0A h) 1 pa (poisonMisc consumer (s.hart h).pocket.toNat 0 h)

/-- The coherence partition that holds a saddle is fatal-stopped (R54, R160, R251): its harts stop. -/
def State.fatalStop (s : State) (sd : Nat) : State :=
  let ps := s.partitionSaddles sd
  { s with
    clk.partition := ps.foldl (fun m t => KMap.set 0 t 1 m) s.clk.partition
    harts := s.harts.map fun e =>
      if ps.contains (e.1 / 32 / 3) then (e.1, { e.2 with mode := .stopped }) else e }

/-- A check-bit error met by a hit in a hart's caches (R160). -/
def State.cacheError (s : State) (h : Nat) (pa : Addr) (err : CacheErr) : State :=
  let line := lineOf pa
  let c := (s.hart h).l2Line line
  let b := h / 32
  let u := unitCode 0x0A h
  let word := pa.toNat / 16 % 4
  if c.st == .I then s
  else match err with
    | .none => s
    | .single => s.err b 0 0 u 1 pa.toNat (eccMisc 1 0xFF (2 ^ word) 0)
    | .parity =>
      let s := s.updHart h fun x => (x.syncL2 line).updL1d line fun _ => {}
      s.err b 0 0 u 1 pa.toNat (eccMisc 1 0xFF 0 0)
    | .double =>
      if c.st == .M then
        let po := BitVec.ofNat 4 (2 ^ word)
        let s := s.updHart h fun x =>
          (x.updL2 line fun c => { c with poison := c.poison ||| po }).updL1d line
            fun c => { c with poison := c.poison ||| po }
        s.err b 2 0 u 1 pa.toNat (eccMisc 2 0xFF (2 ^ word) 0)
      else
        let s := (s.evictL2 h line).getD (s.updHart h fun x => x.dropL2 line)
        s.err b 0 0 u 1 pa.toNat (eccMisc 2 0xFF (2 ^ word) 0)
    | .tag =>
      if c.st == .M then
        (s.err b 3 0 u 2 (2 <<< 44 + (h % 32) <<< 32 + (line % 2048) <<< 16) (eccMisc 3 0xFF 0 0)).fatalStop
          (saddleOf b)
      else
        let s := s.updHart h fun x => x.dropL2 line
        s.err b 1 0 u 2 (2 <<< 44 + (h % 32) <<< 32 + (line % 2048) <<< 16) (eccMisc 3 0xFF 0 0)

/-! ### Data of a hart's accesses -/

/-- Lines an access touches. -/
def accLines (e : Acc) : List Nat :=
  let a := e.pa.toNat
  if a / 64 = (a + e.size - 1) / 64 then [a / 64] else [a / 64, (a + e.size - 1) / 64]

/-- The youngest older store of the hart that writes byte `a` (R201). -/
def forwardByte (older : List Acc) (a : Nat) : Option Nat :=
  (older.reverse.find? fun e =>
    (e.kind == .store || e.kind == .zero) && decide (e.pa.toNat ≤ a) &&
      decide (a < e.pa.toNat + e.size)).map
    fun e => if e.kind == .zero then 0 else e.val.toNat >>> (8 * (a - e.pa.toNat)) % 256

/-- The data a hart can read of a line: its caches, or DATA a request has brought (R175). -/
def State.availLine (s : State) (h line : Nat) : Option (LineData × BitVec 4) :=
  if s.readable h line then some ((s.hart h).lineData line)
  else ((s.hart h).reqs.find? fun r => r.line == line).bind fun r => r.got

/-- Bytes of an access by forwarding and from its lines; `none` while a line is missing. The flag says
a poisoned word was read. -/
def State.gather (s : State) (h : Nat) (older : List Acc) (a : Nat) : Nat → Option (Nat × Bool)
  | 0 => some (0, false)
  | n + 1 =>
    match s.gather h older (a + 1) n with
    | none => none
    | some (v, p) =>
      match forwardByte older a with
      | some b => some (b + 256 * v, p)
      | none =>
        match s.availLine h (a / 64) with
        | none => none
        | some (d, po) => some (lineByte d (a % 64) + 256 * v, p || po.getLsbD (a % 64 / 16))

/-- A hart's store to a line it holds in M or E: the L1D takes the data, the L2 line is M and carries
the writer's tag; poison of whole words clears (R162, R199). -/
def State.storeLine (s : State) (h line : Nat) (d : LineData) (be : Word) (stream : Bool := false) : State :=
  s.updHart h fun x =>
    let pk := x.pocket
    let x := x.fillL1d line stream
    let x := x.updL2 line fun c => { c with st := .M, pocket := pk, age := 0 }
    x.updL1d line fun c =>
      { c with st := .M, pocket := pk, dirty := true, data := mergeLine c.data d be,
               poison := c.poison &&& ~~~ wholeWords be }

/-- Bytes of a store written to the lines it touches. -/
def State.performStore (s : State) (h : Nat) (e : Acc) : State :=
  (accLines e).foldl (fun s line =>
    let a := e.pa.toNat
    let lo := max a (64 * line)
    let hi := min (a + e.size) (64 * line + 64)
    let v := if e.kind == .zero then 0 else e.val.toNat >>> (8 * (lo - a))
    s.storeLine h line (placeAt (v % 2 ^ (8 * (hi - lo))) (lo % 64)) (beOf (lo % 64) (hi - lo))) s

/-! ### When an access performs -/

/-- What an attempt to perform an access gives. -/
inductive AccOut where
  | done
  | wait (e : Acc)
  | fault (cause : Nat)
  deriving DecidableEq, Repr

/-- An access that can still trap or whose value is not bound (R199). -/
def Acc.loadLike (e : Acc) : Bool :=
  match e.kind with | .load => true | .amo => true | .lr => true | .sc => true | .fetch => true | _ => false

/-- Registers an access writes when it completes. -/
def Acc.dests (e : Acc) : List Nat :=
  match e.kind with
  | .load => resultRegs e.pair e.rd e.size
  | .amo => resultRegs e.pair e.rd e.size
  | .lr => resultRegs e.pair e.rd e.size
  | .sc => if e.rd = 0 then [] else [e.rd]
  | _ => []

def IoAcc.dests (i : IoAcc) : List Nat :=
  if i.isLoad then resultRegs (i.func.isSome && i.size == 16) i.rd i.size else []

/-- Registers that outstanding accesses of a hart have still to write; 96 stands for vl. -/
def HartSt.busyRegs (x : HartSt) : List Nat :=
  x.acc.flatMap (fun e => e.dests ++ if e.first then [96] else []) ++
    x.io.flatMap fun i => i.dests ++ if i.first then [96] else []

/-- An older access has still to write a register that this one writes. DESIGN CHOICE (assumption 17). -/
def State.waitsReg (s : State) (h : Nat) (older : List Acc) (e : Acc) : Bool :=
  let mine := e.dests
  e.rd < 64 && !mine.isEmpty &&
    ((older.any fun o => o.dests.any mine.contains) ||
      (s.hart h).io.any fun i => decide (i.issued < e.issued) && i.dests.any mine.contains)

/-- A result has been written: younger accesses of the hart would restore it too. -/
def HartSt.shareResult (x : HartSt) (issued : Nat) (pair : Bool) (rd n : Nat) : HartSt :=
  if (resultRegs pair rd n).isEmpty then x
  else
    { x with acc := x.acc.map fun a => if issued < a.issued then { a with snap := x.w.copyResult pair rd n a.snap } else a
             io := x.io.map fun i => if issued < i.issued then { i with snap := x.w.copyResult pair rd n i.snap } else i }

/-- An access that writes memory. -/
def Acc.storeLike (e : Acc) : Bool :=
  match e.kind with | .store => true | .amo => true | .sc => true | .zero => true | .cbo => true | _ => false

/-- An older access of the hart can still trap, or holds younger ones by its aq (R199, R203). -/
def State.blocked (s : State) (h : Nat) (older : List Acc) (e : Acc) : Bool :=
  older.any Acc.loadLike || (s.hart h).io.any (fun i => i.isLoad && decide (i.issued < e.issued)) ||
  (e.rl && (!older.isEmpty || (s.hart h).io.any fun i => i.window && decide (i.issued < e.issued)))

/-- The packet of an access with a request of its own: NC reads and writes, far AMOs, CBOs. -/
def State.ownPkt (s : State) (h : Nat) (e : Acc) : Pkt :=
  let off := e.pa.toNat % 64
  let p := s.portPkt h e.op e.pa e.id (s.hart h).pocket
  let data := match e.kind with | .zero => (0 : LineData) | _ => placeAt (e.val.toNat % 2 ^ (8 * e.size)) off
  let md : Nat := match e.kind with
    | .amo => e.func * 16 + (match e.size with | 1 => 0 | 2 => 1 | 4 => 2 | 8 => 3 | _ => 4) * 2
    | .lr => 0x80 | .sc => 0x80 | _ => 0
  { p with nc := e.m == .nc, size := e.size, data := data, be := beOf off e.size, cmp := e.cmp,
           mod := BitVec.ofNat 8 md }

/-- A packet of a core goes to the home, or waits at its port behind the core's own leaving entry for
the line until WB_ACK (R191). DEDUCED (assumption 34). -/
def State.sendVia (s : State) (h : Nat) (p : Pkt) : State :=
  let k := portOf h (lineOf p.pa)
  if (s.port k).leaving.any fun l => l.line == lineOf p.pa && l.core == h % 32 then
    s.updPort k fun q => { q with heldReq := q.heldReq ++ [p] }
  else s.send p

/-- An M line of a hart's L2 goes to the home as a WB and stays in E (R152); `none` while the leaving
table is full. -/
def State.cleanL2 (s : State) (h line : Nat) : Option State :=
  let x := (s.hart h).syncL2 line
  let c := x.l2Line line
  if c.st == .M then
    let l : Leave := { line := line, core := h % 32, st := .M, data := c.data, poison := c.poison,
                       pocket := c.pocket, keepE := true, tagMiss := true }
    (s.acceptLeave h l).map fun s =>
      s.setHart h ((x.updL2 line fun c => { c with st := .E }).updL1d line fun c => { c with st := .E })
  else some (s.setHart h x)

/-- The hart's own copy before a request its lap will not show it: 0x05 far AMO, 0x0B clean, 0x0C flush,
0x0D invalidate (R148, R150, R177); `none` while the leaving table is full. -/
def State.ownCopy (s : State) (h line : Nat) (op : BitVec 8) : Option State :=
  let x := s.hart h
  let c := (x.syncL2 line).l2Line line
  let r : Option State := match op with
    | 0x0B => s.cleanL2 h line
    | 0x0C => s.evictL2 h line true
    | 0x05 => s.evictL2 h line true
    | _ => if c.st == .M && c.pocket == x.pocket then some (s.setHart h (x.dropL2 line))
           else s.evictL2 h line true
  r.map fun s => s.sendLeaving (portOf h line)

/-- The line requests of an access that its L2 cannot serve. -/
def State.askLines (s : State) (h : Nat) (e : Acc) (op : BitVec 8) : State :=
  (accLines e).foldl (fun s line =>
    if (match op with | 0x01 => s.readable h line | 0x02 => s.readable h line | _ => s.writable h line) then s
    else
      let s := s.tagCheck h line
      let st := if s.readable h line then ((s.hart h).l2Line line).st else .I
      let op := if op == 0x03 && (st == .S || st == .F) then 0x04 else op
      s.requestLine h op line (!e.spec) e.stream false e.spec) s

/-- An access is tried (R199-R203). `older`: the accesses before it that have not completed.
DEDUCED (assumption 16). -/
def State.tryAcc (s : State) (h : Nat) (older : List Acc) (e : Acc) : State × AccOut :=
  if older.any (fun o => o.aq) || s.waitsReg h older e then (s, .wait e)
  else if e.own then
    if !e.sent then
      if (e.kind == .load && !older.any fun o => o.storeLike && o.pa.toNat / 64 == e.pa.toNat / 64) ||
          (e.kind == .lr && older.isEmpty) ||
          (e.kind != .load && e.kind != .lr && !s.blocked h older e &&
            !older.any fun o => o.pa.toNat / 64 == e.pa.toNat / 64) then
        let line := lineOf e.pa
        match (if (e.kind == .amo && e.m != .nc) || e.kind == .cbo then s.ownCopy h line e.op else some s) with
        | some s =>
          let s := if e.kind == .amo then s.bump h 0x31 else s
          (s.sendVia h (s.ownPkt h e), .wait { e with sent := true })
        | none => (s, .wait e)
      else (s, .wait e)
    else
      let off := e.pa.toNat % 64
      match e.kind with
      | .load | .lr =>
        match e.got with
        | none => (s, .wait e)
        | some (d, po) =>
          if poisonHit po off e.size then
            (s.hartPoison h (if e.rd = 192 then 6 else if e.kind == .load then 1 else 2) e.pa.toNat,
              .fault (if e.kind == .load then causeLoadAccess else causeStoreAccess))
          else
            (s.updHart h fun x =>
              { x with w := x.w.setResult false e.rd e.size (e.kind == .lr) (lineNat d off e.size),
                       resv := if e.kind == .lr then some ⟨e.pa.toNat / 64, true⟩ else x.resv }, .done)
      | .amo =>
        match e.got, e.done with
        | some (d, _), true =>
          (s.updHart h fun x => { x with w := x.w.setResult e.pair e.rd e.size true (lineNat d off e.size) },
            .done)
        | _, _ => (s, .wait e)
      | .sc =>
        if e.done then (s.setX h e.rd (if e.scFail then 1 else 0), .done) else (s, .wait e)
      | _ => if e.done then (s, .done) else (s, .wait e)
  else
    match e.kind with
    | .load =>
      match (if e.spec then none else s.gather h older e.pa.toNat e.size) with
      | some (v, false) =>
        (s.updHart h fun x =>
          { (accLines e).foldl (fun x l => if (x.l2Line l).st == .I then x else x.fillL1d l e.stream) x with
            w := x.w.setResult false e.rd e.size false v }, .done)
      | some (_, true) => (s.hartPoison h (if e.rd = 192 then 6 else 1) e.pa.toNat, .fault causeLoadAccess)
      | none => (s.askLines h e (if e.spec then 0x02 else 0x01), .wait e)
    | .store =>
      if s.blocked h older e then (s, .wait e)
      else if (accLines e).all (s.writable h) then (s.performStore h e, .done)
      else (s.askLines h e 0x03, .wait e)
    | .zero =>
      if s.blocked h older e then (s, .wait e)
      else if (accLines e).all (s.writable h) then (s.performStore h e, .done)
      else (s.askLines h e 0x0A, .wait e)
    | .amo =>
      if s.blocked h older e || !older.isEmpty then (s, .wait e)
      else if (accLines e).all (s.writable h) then
        match s.gather h [] e.pa.toNat e.size with
        | some (v, false) =>
          let new := amoApply e.func e.size v e.val.toNat e.cmp.toNat
          let s := s.bump h 0x30
          let s' := if e.func = 9 ∧ v ≠ e.cmp.toNat % 2 ^ (8 * e.size) then s
            else s.performStore h { e with val := BitVec.ofNat 128 new }
          (s'.updHart h fun x =>
            { (accLines e).foldl (fun x l =>
                x.updL2 l fun c =>
                  { c with recent := x.stitch + 256, held := true, holdEnd := x.stitch + s.holdWindow h l }) x with
              w := x.w.setResult e.pair e.rd e.size true v }, .done)
        | some (_, true) => (s.hartPoison h 2 e.pa.toNat, .fault causeStoreAccess)
        | none => (s, .wait e)
      else (s.askLines h e 0x03, .wait e)
    | .lr =>
      if !older.isEmpty then (s, .wait e)
      else if (accLines e).all (s.writable h) then
        match s.gather h [] e.pa.toNat e.size with
        | some (v, false) =>
          (s.updHart h fun x =>
            { x with w := x.w.setResult false e.rd e.size true v,
                     resv := some ⟨e.pa.toNat / 64, false⟩ }, .done)
        | some (_, true) => (s.hartPoison h 2 e.pa.toNat, .fault causeStoreAccess)
        | none => (s, .wait e)
      else (s.askLines h e 0x03, .wait e)
    | .sc =>
      if s.blocked h older e || !older.isEmpty then (s, .wait e)
      else if (s.hart h).resv == some ⟨e.pa.toNat / 64, false⟩ && (accLines e).all (s.writable h) then
        let s := s.performStore h { e with kind := .store }
        (s.updHart h fun x => { x with w := x.w.setX e.rd 0, resv := none }, .done)
      else (s.updHart h fun x => { x with w := x.w.setX e.rd 1, resv := none }, .done)
    | _ => (s, .done)

/-- A precise fault at an access: its world as it was when the access issued takes the exception; the
access and every younger one are cancelled (R87). -/
def State.preciseFault (s : State) (h : Nat) (e : Acc) (older : List Acc) (cause : Nat) : State :=
  let s := s.updHart h fun x =>
    { x with w := x.w.back e.snap, acc := older, fences := [], heldOps := [],
             io := x.io.filter fun i => decide (i.issued < e.issued) }
  s.trap h cause (BitVec.ofNat 64 e.pa.toNat)

/-- A fault of an element of a fault-only-first load past the first: vl is cut down to it, and it and the
elements after it are not loaded (R124). -/
def State.cutVl (s : State) (h : Nat) (e : Acc) : State :=
  s.updHart h fun x => { x with w := (x.w.setCsr 0xC20 (e.snap.csrVal 0x008)).dirty 9 }

/-- Every access of a hart is tried once, in program order. `got`: the accesses that have just completed, with the
world then, whose results younger ones would restore; `cut`: the fault-only-first load cut short. -/
def State.pumpList (s : State) (h : Nat) (older : List Acc) (got : List (Acc × World)) (cut : Option Nat) :
    List Acc → State
  | [] => s.updHart h fun x => { x with acc := older }
  | e :: rest =>
    if e.first && cut == some e.issued then s.pumpList h older got cut rest
    else
      let e := { e with snap := got.foldl (fun w g => g.2.copyResult g.1.pair g.1.rd g.1.size w) e.snap }
      match s.tryAcc h older e with
      | (s, .done) =>
        if e.dests.isEmpty then s.pumpList h older got cut rest
        else
          let s := s.updHart h fun x => { x with io := (x.shareResult e.issued e.pair e.rd e.size).io }
          s.pumpList h older (got ++ [(e, (s.hart h).w)]) cut rest
      | (s, .wait e) => s.pumpList h (older ++ [e]) got cut rest
      | (s, .fault c) =>
        if e.rd = 192 then ({ s with dbg.abs := none, dbg.cmderr := 5 } : State).pumpList h older got cut rest
        else if e.first then (s.cutVl h e).pumpList h older got (some e.issued) rest else s.preciseFault h e older c

/-- A hart's I/O-type accesses are sent from the head of its queue, in program order: none past an
outstanding load, all to one destination, at most 16 (R95, R207, R210). -/
def State.pumpIoList (s : State) (h : Nat) (out : List IoAcc) : List IoAcc → State
  | [] => s.updHart h fun x => { x with io := out }
  | i :: rest =>
    if i.sent then s.pumpIoList h (out ++ [i]) rest
    else
      let x := s.hart h
      if x.acc.any (fun e => e.loadLike && decide (e.issued < i.issued)) || out.any (·.isLoad) ||
          out.any (fun o => !o.sent || o.dst != i.dst) || 16 ≤ out.length then
        s.updHart h fun x => { x with io := out ++ i :: rest }
      else
        let t := s.timer (h / 32) (if i.window then 5 else 2)
        let op : BitVec 8 := if i.func.isSome then 0x05 else if i.isLoad then 0x0E else 0x40
        let p := s.portPkt h op i.pa i.issued x.pocket
        let s := s.send { p with dst := BitVec.ofNat 8 i.dst, size := i.size,
                                 mod := BitVec.ofNat 8 (i.func.getD 0 * 16),
                                 data := placeAt i.val.toNat 0, be := beOf 0 i.size, cmp := i.cmp,
                                 prio := s.fabricPrio x.pocket.toNat 0 (if i.isLoad then 0 else 4)
                                   (if i.isLoad then 0 else 2) }
        s.pumpIoList h (out ++ [{ i with sent := true, t := t }]) rest

/-- A hart's accesses make the progress they can. -/
def State.pump (s : State) (h : Nat) : State :=
  let s := s.pumpList h [] [] none (s.hart h).acc
  let s := s.pumpList h [] [] none (s.hart h).acc
  s.pumpIoList h [] (s.hart h).io

/-- An access joins the hart's accesses. -/
def State.addAcc (s : State) (h : Nat) (e : Acc) : State :=
  s.updHart h fun x =>
    { x with acc := x.acc ++ [{ e with id := x.freshTx, issued := x.stitch, snap := x.w }],
             nextTx := x.nextTx + 1 }

/-- An I/O-type access joins the hart's I/O queue. -/
def State.addIo (s : State) (h : Nat) (i : IoAcc) : State :=
  s.updHart h fun x => { x with io := x.io ++ [{ i with issued := x.stitch, snap := x.w }] }

/-! ### Destinations of I/O-type accesses (R206, R224) -/

/-- The eyelet an I/O-type or window access is sent to (R206, R313). -/
def State.ioDest (s : State) (pa : Nat) : Nat :=
  match regionOf pa with
  | .bolt => s.homeEyelet pa
  | .mmio k => 0xC0 + k
  | .ctl => ctlEyelet (pa % 2 ^ 32)
  | .window => 0xC9
  | .hole => 0xCE

end Sys2Proof.Machine
end

