-- ==== Sys2Proof/Machine/Worlds.lean ====
section
/-! DEFINITION. Switching a hart between worlds (R104, R110-R113, R221, R354, R357, R358). -/

namespace Sys2Proof.Machine

/-- STATUS of mkdoor set in a world (R110). -/
def World.doorStatus (w : World) (n : Nat) : World :=
  w.setCsr csr_mkdoor (setBits (w.csrVal csr_mkdoor) 60 4 n)

/-- The registers of the world a hart runs, with its ISE registers, as saved (R104, R214).
DESIGN CHOICE (assumption 28). -/
def State.saveWorld (s : State) (h : Nat) : World :=
  { (s.hart h).w with ise0 := s.rd (R.iseInfo (h / 32) (h % 32))
                      ise1 := s.rd (R.iseAddr (h / 32) (h % 32)) }

/-- CSRs of the host world that a switch does not touch (R102, R450): mkcmo, mcountinhibit,
mhpmcounter3-10, mhpmevent3-10, mcounteren. -/
def hostCsrs : List Nat :=
  [csr_mkcmo, 0x320, 0x306] ++ (List.range 8).map (0xB03 + ·) ++ (List.range 8).map (0x323 + ·)

/-- A hart runs a world: its saved registers, its pocket; fetched instructions are discarded. -/
def State.loadWorld (s : State) (h : Nat) (w : World) (pocket : Nat) : State :=
  let old := (s.hart h).w
  let w' := hostCsrs.foldl (fun w n => w.setCsr n (old.csrVal n)) w
  let w' : World := { w'.setCsr csr_skpocket (BitVec.ofNat 64 pocket) with frozen := old.frozen, ret := old.ret }
  let s := s.wr (R.iseInfo (h / 32) (h % 32)) w.ise0
  let s := s.wr (R.iseAddr (h / 32) (h % 32)) w.ise1
  s.updHart h fun x =>
    { x with w := w', resv := none, ra := none, mode := .run, wait := .none, fences := [], heldOps := [] }

/-- The first entry to a slot: S, ENTRY_PC, registers 0, a0 = SLOT, a1 = mhartid (R357). -/
def firstWorld (entryPc slot h : Nat) : World :=
  ({ priv := 1, pc := BitVec.ofNat 64 entryPc : World }.setX 10 (BitVec.ofNat 64 slot)).setX 11
    (BitVec.ofNat 64 h)

/-- A pocket's slot runs on a hart (R110, R354, R357). -/
def State.enterPocket (s : State) (h pocket slot : Nat) (hostEntered : Bool) : State :=
  let p := s.pocket pocket
  let w := if p.ran.contains slot then KMap.get {} p.saved slot else firstWorld p.entryPc slot h
  let w := if p.ran.contains slot then w.doorStatus 1 else w
  let host := s.saveWorld h
  let s := s.updPocket pocket fun p => { p with ran := if p.ran.contains slot then p.ran else slot :: p.ran }
  let s := s.loadWorld h w pocket
  s.updHart h fun x =>
    { x with slot := slot, entered := s.tape, hostEntered := hostEntered, wakeSent := [],
             host := if hostEntered then some host else x.host }

/-- The pocket leaves a hart: its state goes to its slot and the host world returns with mkdoor STATUS
`status`, after its csrw (R110, R358). -/
def State.leavePocket (s : State) (h status : Nat) : State :=
  let x := s.hart h
  match x.host with
  | none => s
  | some host =>
    let pk := x.pocket.toNat
    let w := s.saveWorld h
    let s := s.updPocket pk fun p => { p with saved := KMap.set {} x.slot w p.saved }
    let s := s.loadWorld h ((host.doorStatus status).retire) 0
    s.updHart h fun x => { x with host := none, hostEntered := false }

/-- A forced exit (R358): the pocket's outstanding accesses end, the host world goes on with STATUS 5.
DESIGN CHOICE (assumption 28). -/
def State.forceExit (s : State) (h : Nat) : State :=
  let x := s.hart h
  if x.hostEntered then
    (s.updHart h fun x => { x with acc := x.acc.filter (·.storeLike) }).leavePocket h 5
  else s

/-- The rule flags of a pocket's policy: PREEMPT_EXT (R363). -/
def State.preemptExt (s : State) (p : Nat) : Bool := bit (s.policy p).1 2

end Sys2Proof.Machine
end

