-- ==== Sys2Proof/Machine/Hart.lean ====
section
/-! DEFINITION. The commands of a hart's memory instructions: loads, stores, AMOs, LR and SC, fences
(R86-R88, R95, R98-R101, R131-R135, R183-R185, R198-R213). -/

namespace Sys2Proof.Machine

/-- A hart takes an address-misaligned or access exception at the instruction it issues. -/
def State.faultAt (s : State) (h cause : Nat) (pa : Addr) : State :=
  s.trap h cause (BitVec.ofNat 64 pa.toNat)

/-- A waiting fence holds accesses of the given kinds (i 8, o 4, r 2, w 1) (R202). -/
def HartSt.fenceHolds (x : HartSt) (bits : Nat) : Bool := x.fences.any fun f => f.succ &&& bits != 0

/-- The kind bit of a route: I/O-type or main memory. -/
def kindBit (r : Route) (io mem : Nat) : Nat := match r with | .io => io | _ => mem

/-- An instruction a waiting fence holds back (R202). -/
def State.hold (s : State) (h : Nat) (i : Instr) : State :=
  s.updHart h fun x => { x with heldOps := x.heldOps ++ [i] }

/-- A Harness-window AMO the Harness carries: 64-bit, or 128-bit CAS (R86, R313). -/
def windowAmo (size func : Nat) : Bool := size == 8 || (size == 16 && func == 9)

/-- LOAD (R200): the access issues by its region and page type; a speculative one only to cacheable
memory (R95, R98). DESIGN CHOICE (assumption 15). -/
def State.loadBody (s : State) (h : HartId) (rd : Fin 32) (pa : Addr) (size : Size) (m : Pbmt)
    (spec stream : Bool) (err : CacheErr) : State :=
  let n := h.num
  let a := pa.toNat
  let r := routeOf a m
  if s.inRunAhead n then
    if r == .cached && !s.readable n (a / 64) then s.requestLine n 0x02 (a / 64) false stream false true else s
  else if (s.hart n).fenceHolds (kindBit r 8 2) then s.hold n (.load h rd pa size m spec stream err)
  else match r with
  | .hole => s.faultAt n causeLoadAccess pa
  | .io | .window =>
    if spec then s.hold n (.load h rd pa size m false stream err)
    else if a % size.bytes ≠ 0 then s.faultAt n causeLoadMisaligned pa
    else
      let s := s.addIo n { isLoad := true, dst := s.ioDest a, pa := pa, size := size.bytes, rd := rd.val,
                           t := s.timer (n / 32) 2, window := r == .window }
      (s.retire n).pump n
  | .nc =>
    if spec then s.hold n (.load h rd pa size m false stream err)
    else if a % 64 + size.bytes > 64 then s.faultAt n causeLoadMisaligned pa
    else
      let s := s.addAcc n { kind := .load, id := 0, pa := pa, size := size.bytes, rd := rd.val, m := .nc,
                            op := 0x06, own := true }
      (s.retire n).pump n
  | .cached =>
    let s := s.tagCheck n (a / 64)
    let s := s.cacheError n pa err
    let s := s.addAcc n { kind := .load, id := 0, pa := pa, size := size.bytes, rd := rd.val,
                          spec := spec, stream := stream }
    (s.retire n).pump n

def loadEff (h : HartId) (rd : Fin 32) (pa : Addr) (size : Size) (m : Pbmt) (spec stream : Bool)
    (err : CacheErr) (s : State) : State :=
  s.onHart h fun s =>
    if size = .b16 ∧ (s.hart h.num).w.isOff 13 then s.illegal h.num else s.loadBody h rd pa size m spec stream err

/-- STORE (R199, R208): into the store queue, or the I/O queue; skipped in run-ahead (R93). -/
def State.storeBody (s : State) (h : HartId) (pa : Addr) (size : Size) (m : Pbmt) (v : BitVec 128) : State :=
  let n := h.num
  let a := pa.toNat
  let r := routeOf a m
  if s.inRunAhead n then s
  else if (s.hart n).fenceHolds (kindBit r 4 1) then s.hold n (.store h pa size m v)
  else match r with
  | .hole => s.faultAt n causeStoreAccess pa
  | .io | .window =>
    if a % size.bytes ≠ 0 then s.faultAt n causeStoreMisaligned pa
    else
      let s := s.addIo n { isLoad := false, dst := s.ioDest a, pa := pa, size := size.bytes, val := v,
                           t := s.timer (n / 32) 2, window := r == .window }
      (s.retire n).pump n
  | .nc =>
    if a % 64 + size.bytes > 64 then s.faultAt n causeStoreMisaligned pa
    else
      let s := s.addAcc n { kind := .store, id := 0, pa := pa, size := size.bytes, val := v, m := .nc,
                            op := 0x07, own := true }
      (s.retire n).pump n
  | .cached =>
    let s := s.tagCheck n (a / 64)
    let s := s.addAcc n { kind := .store, id := 0, pa := pa, size := size.bytes, val := v }
    (s.retire n).pump n

def storeEff (h : HartId) (pa : Addr) (size : Size) (m : Pbmt) (v : BitVec 128) (s : State) : State :=
  s.onHart h fun s =>
    if size = .b16 ∧ (s.hart h.num).w.isOff 13 then s.illegal h.num else s.storeBody h pa size m v

/-- Index of the contention predictor (R184). DESIGN CHOICE (assumption 112). -/
def predIdx (pa : Nat) : Nat := (pa >>> 6 % 256) ^^^ (pa >>> 14 % 256)

/-- An AMO runs far (R184). -/
def State.amoFar (s : State) (h : Nat) (pa : Nat) (m : Pbmt) : Bool :=
  if m == .nc then true
  else match bitsAt (s.csr h csr_mkctl) 14 2 with
    | 1 => false
    | 2 => true
    | _ => decide (2 ≤ KMap.get 0 (s.hart h).pred (predIdx pa))

/-- AMO (R183-R185): near in the hart's L2 or far at the home, or carried by the Harness (R86). -/
def State.amoBody (s : State) (h : HartId) (i : Instr) (func rd : Nat) (pair : Bool) (pa : Addr) (size : Nat)
    (m : Pbmt) (op cmp : BitVec 128) (aq rl : Bool) : State :=
  let n := h.num
  let a := pa.toNat
  let r := routeOf a m
  if s.inRunAhead n then s
  else if (s.hart n).fenceHolds 3 then s.hold n i
  else if a % 16 + size > 16 then s.faultAt n causeStoreMisaligned pa
  else match r with
  | .hole | .io => s.faultAt n causeStoreAccess pa
  | .window =>
    if windowAmo size func && a % size == 0 then
      let s := s.addIo n { isLoad := true, dst := 0xC9, pa := pa, size := size, rd := rd, val := op,
                           cmp := cmp, func := some func, t := s.timer (n / 32) 5, window := true }
      (s.retire n).pump n
    else s.faultAt n causeStoreAccess pa
  | _ =>
    let far := s.amoFar n a m
    let s := if far then s else s.tagCheck n (a / 64)
    let s := s.addAcc n { kind := .amo, id := 0, pa := pa, size := size, rd := rd, pair := pair, val := op,
                          cmp := cmp, func := func, m := m, op := 0x05, own := far, aq := aq, rl := rl }
    (s.retire n).pump n

def amoEff (h : HartId) (f : AmoFunc) (rd : Fin 32) (pa : Addr) (size : Size) (m : Pbmt)
    (op cmp : BitVec 128) (aq rl : Bool) (s : State) : State :=
  s.onHart h fun s =>
    if size = .b16 then s.illegal h.num
    else s.amoBody h (.amo h f rd pa size m op cmp aq rl) f.code rd.val false pa size.bytes m op cmp aq rl

/-- AMOCAS_Q (R134): odd rd or rs2 is illegal; compares the pair rd with memory, writes the pair rs2. It waits
for older accesses that have still to write one of them. -/
def amocasQEff (h : HartId) (rd rs2 : Fin 32) (pa : Addr) (m : Pbmt) (aq rl : Bool) (s : State) : State :=
  if [rd.val, rd.val + 1, rs2.val, rs2.val + 1].any (s.hart h.num).busyRegs.contains then s
  else s.onHart h fun s =>
    if rd.val % 2 = 1 ∨ rs2.val % 2 = 1 then s.illegal h.num
    else if pa.toNat % 16 ≠ 0 then s.faultAt h.num causeStoreMisaligned pa
    else s.amoBody h (.amocasQ h rd rs2 pa m aq rl) 9 rd.val true pa 16 m
      ((s.hart h.num).w.pairVal rs2.val) ((s.hart h.num).w.pairVal rd.val) aq rl

/-- LR (R100, R101). -/
def State.lrBody (s : State) (h : HartId) (rd : Fin 32) (pa : Addr) (size : Size) (m : Pbmt) (aq rl : Bool) :
    State :=
  let n := h.num
  let a := pa.toNat
  if s.inRunAhead n then s
  else if (s.hart n).fenceHolds 2 then s.hold n (.lr h rd pa size m aq rl)
  else if size ≠ .b4 ∧ size ≠ .b8 then s.illegal n
  else if a % 16 + size.bytes > 16 then s.faultAt n causeStoreMisaligned pa
  else match routeOf a m with
  | .cached =>
    let s := s.tagCheck n (a / 64)
    let s := s.addAcc n { kind := .lr, id := 0, pa := pa, size := size.bytes, rd := rd.val, aq := aq, rl := rl }
    (s.retire n).pump n
  | .nc =>
    let s := s.addAcc n { kind := .lr, id := 0, pa := pa, size := size.bytes, rd := rd.val, m := .nc,
                          op := 0x06, own := true, aq := aq, rl := rl }
    (s.retire n).pump n
  | _ => s.faultAt n causeStoreAccess pa

def lrEff (h : HartId) (rd : Fin 32) (pa : Addr) (size : Size) (m : Pbmt) (aq rl : Bool) (s : State) : State :=
  s.onHart h fun s => s.lrBody h rd pa size m aq rl

/-- SC (R100, R101): an SC ends the hart's reservation whatever its outcome. -/
def State.scBody (s : State) (h : HartId) (rd : Fin 32) (pa : Addr) (size : Size) (m : Pbmt) (v : Word)
    (aq rl : Bool) : State :=
  let n := h.num
  let a := pa.toNat
  if s.inRunAhead n then s
  else if (s.hart n).fenceHolds 1 then s.hold n (.sc h rd pa size m v aq rl)
  else if size ≠ .b4 ∧ size ≠ .b8 then s.illegal n
  else if a % 16 + size.bytes > 16 then s.faultAt n causeStoreMisaligned pa
  else match routeOf a m with
  | .cached =>
    let s := s.addAcc n { kind := .sc, id := 0, pa := pa, size := size.bytes, rd := rd.val,
                          val := v.setWidth 128, aq := aq, rl := rl }
    (s.retire n).pump n
  | .nc =>
    let ok := (s.hart n).resv == some ⟨a / 64, true⟩
    let s := s.updHart n fun x => { x with resv := none }
    if ok then
      let s := s.addAcc n { kind := .sc, id := 0, pa := pa, size := size.bytes, rd := rd.val,
                            val := v.setWidth 128, m := .nc, op := 0x07, own := true, aq := aq, rl := rl }
      (s.retire n).pump n
    else (s.setX n rd.val 1).retire n
  | _ => s.faultAt n causeStoreAccess pa

def scEff (h : HartId) (rd : Fin 32) (pa : Addr) (size : Size) (m : Pbmt) (v : Word) (aq rl : Bool)
    (s : State) : State :=
  s.onHart h fun s => s.scBody h rd pa size m v aq rl

/-! ### Cache-block and prefetch instructions -/

/-- What the envcfg registers say of a cache-block instruction. -/
inductive Env where
  | ok | illegal | virt
  deriving DecidableEq, Repr

/-- The enable of a cache-block instruction at bit `lo` of menvcfg, senvcfg, henvcfg (R150, R151).
DESIGN CHOICE (assumption 23). -/
def World.envOk (w : World) (lo n : Nat) : Env :=
  if w.csrVal csr_skpocket ≠ 0 then
    if w.priv = 0 ∧ bitsAt (w.csrVal 0x10A) lo n = 0 then .illegal else .ok
  else if w.priv = 3 then .ok
  else if bitsAt (w.csrVal 0x30A) lo n = 0 then .illegal
  else if w.virt then
    if bitsAt (w.csrVal 0x60A) lo n = 0 then .virt
    else if w.priv = 0 ∧ bitsAt (w.csrVal 0x10A) lo n = 0 then .virt else .ok
  else if w.priv = 0 ∧ bitsAt (w.csrVal 0x10A) lo n = 0 then .illegal
  else .ok

/-- cbo.inval is performed as cbo.flush (R150): some CBIE that applies is 01. -/
def World.invalIsFlush (w : World) : Bool :=
  if w.csrVal csr_skpocket ≠ 0 then w.priv == 0 && bitsAt (w.csrVal 0x10A) 4 2 == 1
  else if w.priv = 3 then false
  else bitsAt (w.csrVal 0x30A) 4 2 == 1 || (w.virt && bitsAt (w.csrVal 0x60A) 4 2 == 1) ||
    (w.priv == 0 && bitsAt (w.csrVal 0x10A) 4 2 == 1)

/-- cbo.clean, cbo.flush, cbo.inval (R150). -/
def State.cboBody (s : State) (h : HartId) (pa : Addr) (m : Pbmt) (op : BitVec 8) (lo n : Nat) : State :=
  let k := h.num
  if s.inRunAhead k then s
  else match (s.hart k).w.envOk lo n with
  | .illegal => s.illegal k
  | .virt => s.trap k causeVirtual
  | .ok =>
    if routeOf pa.toNat m = .cached then
      let s := s.addAcc k { kind := .cbo, id := 0, pa := addrOfLine (lineOf pa), size := 64, op := op, own := true }
      (s.retire k).pump k
    else s.retire k

/-- cbo.zero (R151). -/
def State.cboZeroBody (s : State) (h : HartId) (pa : Addr) (m : Pbmt) : State :=
  let k := h.num
  let a := addrOfLine (lineOf pa)
  if s.inRunAhead k then s
  else match (s.hart k).w.envOk 7 1 with
  | .illegal => s.illegal k
  | .virt => s.trap k causeVirtual
  | .ok =>
    match routeOf pa.toNat m with
    | .cached =>
      let s := s.tagCheck k (lineOf pa)
      let s := s.addAcc k { kind := .zero, id := 0, pa := a, size := 64 }
      (s.retire k).pump k
    | .nc =>
      let s := s.addAcc k { kind := .zero, id := 0, pa := a, size := 64, m := .nc, op := 0x07, own := true }
      (s.retire k).pump k
    | _ => s.faultAt k causeStoreAccess pa

def cboCleanEff (h : HartId) (pa : Addr) (m : Pbmt) (s : State) : State :=
  s.onHart h fun s => s.cboBody h pa m 0x0B 6 1
def cboFlushEff (h : HartId) (pa : Addr) (m : Pbmt) (s : State) : State :=
  s.onHart h fun s => s.cboBody h pa m 0x0C 6 1
def cboInvalEff (h : HartId) (pa : Addr) (m : Pbmt) (s : State) : State :=
  s.onHart h fun s =>
    s.cboBody h pa m (if (s.hart h.num).w.invalIsFlush then 0x0C else 0x0D) 4 2
def cboZeroEff (h : HartId) (pa : Addr) (m : Pbmt) (s : State) : State :=
  s.onHart h fun s => s.cboZeroBody h pa m

/-- A read prefetch under R94: a speculative read of a cacheable line, dropped anywhere else (R99). -/
def prefetchREff (h : HartId) (pa : Addr) (m : Pbmt) (stream : Bool) (s : State) : State :=
  s.onHart h fun s =>
    let s := if routeOf pa.toNat m = .cached ∧ ¬ s.readable h.num (lineOf pa) then
        (s.bump h.num 0x41).requestLine h.num 0x02 (lineOf pa) false stream false true
      else s
    if s.inRunAhead h.num then s else s.retire h.num
def prefetchIEff (h : HartId) (pa : Addr) (m : Pbmt) (s : State) : State :=
  s.onHart h fun s =>
    let s := if routeOf pa.toNat m = .cached then
        if s.readable h.num (lineOf pa) then s.updHart h.num fun x => x.fillL1i (lineOf pa) false
        else (s.bump h.num 0x41).requestLine h.num 0x02 (lineOf pa) false false true true
      else s
    if s.inRunAhead h.num then s else s.retire h.num
/-- prefetch.w is carried out when it retires, and requests ownership (R99); never in run-ahead (R95). -/
def prefetchWEff (h : HartId) (pa : Addr) (m : Pbmt) (stream : Bool) (s : State) : State :=
  s.onHart h fun s =>
    if s.inRunAhead h.num then s
    else
      let line := lineOf pa
      let s := if routeOf pa.toNat m = .cached ∧ ¬ s.writable h.num line then
          let s := s.tagCheck h.num line
          let st := ((s.hart h.num).l2Line line).st
          (s.bump h.num 0x41).requestLine h.num (if st == .S || st == .F then 0x04 else 0x03) line true stream false false
        else s
      s.retire h.num

/-! ### Fences (R202-R204) -/

/-- The conditions of a fence's predecessor set hold for the accesses issued before it. -/
def HartSt.fenceDone (x : HartSt) (f : FenceWait) : Bool :=
  let acc := x.acc.filter fun e => decide (e.issued < f.at')
  let io := x.io.filter fun i => decide (i.issued < f.at')
  (!bit f.pred 1 || (!acc.any Acc.loadLike && !io.any fun i => i.window && i.isLoad)) &&
  (!bit f.pred 0 || (!acc.any Acc.storeLike && !io.any fun i => i.window && !i.isLoad)) &&
  (!bit f.pred 3 || !io.any fun i => !i.window && i.isLoad) &&
  (!bit f.pred 2 || !io.any fun i => !i.window && !i.isLoad)

/-- A fence completes at once, or waits. -/
def State.addFence (s : State) (h : Nat) (fs : List (Nat × Nat)) : State :=
  let x := s.hart h
  let ws := (fs.map fun f => ({ pred := f.1, succ := f.2, at' := x.stitch } : FenceWait)).filter
    fun f => !x.fenceDone f
  if ws.isEmpty then s.retire h else s.updHart h fun x => { x with fences := x.fences ++ ws }

/-- FENCE (R202): an empty set orders nothing; fm 1000 is fence.tso, any other fm acts as 0000. -/
def State.fenceBody (s : State) (h : HartId) (fm pred succ : BitVec 4) : State :=
  let n := h.num
  if s.inRunAhead n then s
  else if fm = 8 ∧ pred = 3 ∧ succ = 3 then s.addFence n [(2, 3), (1, 1)]
  else if pred = 0 ∨ succ = 0 then s.retire n
  else s.addFence n [(pred.toNat, succ.toNat)]

def fenceEff (h : HartId) (fm pred succ : BitVec 4) (s : State) : State :=
  s.onHart h fun s => s.fenceBody h fm pred succ
def fenceTsoEff (h : HartId) (s : State) : State :=
  s.onHart h fun s => if s.inRunAhead h.num then s else s.addFence h.num [(2, 3), (1, 1)]
/-- fence.i (R138): discards fetched instructions, 20 stitches; the L1I keeps its lines.
DESIGN CHOICE (assumption 19). -/
def fenceIEff (h : HartId) (s : State) : State :=
  s.onHart h fun s =>
    if s.inRunAhead h.num then s
    else ((List.range 19).foldl (fun s _ => s.issue h.num) s).retire h.num

def execLoad (h : HartId) (rd : Fin 32) (pa : Addr) (size : Size) (m : Pbmt) (spec stream : Bool)
    (err : CacheErr) (s : State) : Host.Outcome State Fault Refusal :=
  .next (loadEff h rd pa size m spec stream err s)
def execStore (h : HartId) (pa : Addr) (size : Size) (m : Pbmt) (v : BitVec 128) (s : State) :
    Host.Outcome State Fault Refusal := .next (storeEff h pa size m v s)
def execAmo (h : HartId) (f : AmoFunc) (rd : Fin 32) (pa : Addr) (size : Size) (m : Pbmt)
    (op cmp : BitVec 128) (aq rl : Bool) (s : State) : Host.Outcome State Fault Refusal :=
  .next (amoEff h f rd pa size m op cmp aq rl s)
def execLr (h : HartId) (rd : Fin 32) (pa : Addr) (size : Size) (m : Pbmt) (aq rl : Bool) (s : State) :
    Host.Outcome State Fault Refusal := .next (lrEff h rd pa size m aq rl s)
def execSc (h : HartId) (rd : Fin 32) (pa : Addr) (size : Size) (m : Pbmt) (v : Word) (aq rl : Bool)
    (s : State) : Host.Outcome State Fault Refusal := .next (scEff h rd pa size m v aq rl s)
def execAmocasQ (h : HartId) (rd rs2 : Fin 32) (pa : Addr) (m : Pbmt) (aq rl : Bool) (s : State) :
    Host.Outcome State Fault Refusal := .next (amocasQEff h rd rs2 pa m aq rl s)
def execFence (h : HartId) (fm pred succ : BitVec 4) (s : State) : Host.Outcome State Fault Refusal :=
  .next (fenceEff h fm pred succ s)
def execFenceTso (h : HartId) (s : State) : Host.Outcome State Fault Refusal := .next (fenceTsoEff h s)
def execFenceI (h : HartId) (s : State) : Host.Outcome State Fault Refusal := .next (fenceIEff h s)
def execPrefetchR (h : HartId) (pa : Addr) (m : Pbmt) (stream : Bool) (s : State) :
    Host.Outcome State Fault Refusal := .next (prefetchREff h pa m stream s)
def execPrefetchI (h : HartId) (pa : Addr) (m : Pbmt) (s : State) : Host.Outcome State Fault Refusal :=
  .next (prefetchIEff h pa m s)
def execPrefetchW (h : HartId) (pa : Addr) (m : Pbmt) (stream : Bool) (s : State) :
    Host.Outcome State Fault Refusal := .next (prefetchWEff h pa m stream s)
def execCboClean (h : HartId) (pa : Addr) (m : Pbmt) (s : State) : Host.Outcome State Fault Refusal :=
  .next (cboCleanEff h pa m s)
def execCboFlush (h : HartId) (pa : Addr) (m : Pbmt) (s : State) : Host.Outcome State Fault Refusal :=
  .next (cboFlushEff h pa m s)
def execCboInval (h : HartId) (pa : Addr) (m : Pbmt) (s : State) : Host.Outcome State Fault Refusal :=
  .next (cboInvalEff h pa m s)
def execCboZero (h : HartId) (pa : Addr) (m : Pbmt) (s : State) : Host.Outcome State Fault Refusal :=
  .next (cboZeroEff h pa m s)

end Sys2Proof.Machine
end

