-- ==== Sys2Proof/Machine/LlcOps.lean ====
section
/-! DEFINITION. The LLC and memory as a home uses them: lookup, candidates and victims (R145-R147,
R484), a home's write to memory and its loss at a fence (R485), allocation. -/

namespace Sys2Proof.Machine

/-- Key of the LLC entry that holds a line. -/
def SliceSt.entKey (x : SliceSt) (line : Nat) : Option Nat :=
  let set := llcSet (64 * line)
  ((List.range 16).find? fun w =>
    let e := KMap.get ({} : LEntry) x.ent (16 * set + w)
    e.st != .invalid && e.line == line).map (16 * set + ·)

/-- The LLC entry of a line, invalid where it has none. -/
def SliceSt.entry (x : SliceSt) (line : Nat) : LEntry :=
  match x.entKey line with | some k => KMap.get {} x.ent k | none => {}

def SliceSt.updEntry (x : SliceSt) (line : Nat) (f : LEntry → LEntry) : SliceSt :=
  match x.entKey line with
  | some k => { x with ent := KMap.upd {} k f x.ent }
  | none => x

/-- Tree bits of a set after touching a way: each bit on the path points away from it, or, for a
streaming insertion, toward it (R145). -/
def touchTree (tree w : Nat) (toward : Bool) : Nat :=
  (([3, 2, 1, 0] : List Nat).foldl (fun (a : Nat × Nat) lv =>
    let b := w / 2 ^ lv % 2
    (setBit a.1 a.2 (if toward then b == 1 else b == 0), 2 * a.2 + b)) (tree, 1)).1

/-- Way `w` lies under node `n` of the tree (n below 16). -/
def underNode (n w : Nat) : Bool :=
  let lv := if n < 2 then 0 else if n < 4 then 1 else if n < 8 then 2 else 3
  (16 + w) / 2 ^ (4 - lv) == n

/-- One step down the tree among candidates (R145). -/
def treeStep (tree : Nat) (cand : List Nat) (n : Nat) : Nat :=
  let half := if bit tree n then 1 else 0
  if cand.any (underNode (2 * n + half)) then 2 * n + half else 2 * n + (1 - half)

/-- The victim way of a set among candidate ways (R145). -/
def llcVictim (tree : Nat) (cand : List Nat) (valid : Nat → Bool) : Option Nat :=
  match cand with
  | [] => none
  | _ =>
    match cand.find? fun w => !valid w with
    | some w => some w
    | none =>
      let n := treeStep tree cand (treeStep tree cand (treeStep tree cand 1))
      let w := 2 * (n - 8) + if bit tree n then 1 else 0
      some (if cand.contains w then w else w ^^^ 1)

/-- Way class of a pocket (R145, R163, R363). -/
def State.wayClass (s : State) (sd p : Nat) : Nat :=
  if p = 0 then s.cfg 0x50 sd 0 1 0 % 16 else (s.policy p).2

/-- Candidate ways for a pocket's fill (R145). -/
def State.candidates (s : State) (k p : Nat) : List Nat :=
  let sd := k / 24
  let mask := s.fld (R.llcClass sd (s.wayClass sd p)) F.llcClass_MASK
  let lock := s.fld (R.slcWayCtl sd (k % 24)) F.slcWayCtl_LOCK
  let off := s.fld (R.slcWayState sd (k % 24)) F.slcWayState_PWR_OFF
  (bitsOf 16 mask).filter fun w => !bit lock w && !bit off w && !(s.slice k).cleaning.contains w

/-- Way `w` of a slice is locked. -/
def State.wayLocked (s : State) (k w : Nat) : Bool :=
  s.fbit (R.slcWayCtl (k / 24) (k % 24)) F.slcWayCtl_LOCK w

/-! ### Writes to memory -/

/-- A posted write dropped at a fenced unit is counted and logged (R253, R256). -/
def State.fenceDropped (s : State) (u : FenceUnit) (pa : Nat) : State :=
  let s := s.incF (R.fenceStatus u) F.fenceStatus_POSTED_DROPS
  if s.fld (R.fenceDrop u) F.fenceDrop_VALID = 1 then s
  else s.wr (R.fenceDrop u) (BitVec.ofNat 64 (2 ^ 63 + pa))

/-- Unit code of a fenced unit (R440). -/
def fenceUnitCode : FenceUnit → Nat
  | .panel p => unitCode 0x09 p.val
  | .llc s => unitCode 0x01 s.val
  | .mc (.hbm n) => unitCode 0x03 n.val
  | .mc (.ddr n) => unitCode 0x04 n.val
  | .pcie k => unitCode 0x0C (4 * k.val)
  | .bob n => unitCode 0x0F (8 * n.val)

/-- Poison bits of memory's words under a line. -/
def State.memPoisonOf (s : State) (line : Nat) : BitVec 4 :=
  BitVec.ofNat 4 (ofBits ((List.range 4).filter fun w => s.memPoison.contains (4 * line + w)))

/-- The poison bits of a line in memory set. -/
def State.setMemPoison (s : State) (line : Nat) (po : BitVec 4) : State :=
  let keep := s.memPoison.filter fun w => w / 4 != line
  { s with memPoison := ((List.range 4).filter fun w => po.getLsbD w).map (4 * line + ·) ++ keep }

/-- A line of memory. -/
def State.memLine (s : State) (line : Nat) : LineData := BitVec.ofNat 512 (s.bytesNat (64 * line) 64)

/-- Bytes of a line written at its controller (R283-R285): whole words replace a poison code word, a
narrower write leaves it poisoned; a DDR line is one code word. -/
def State.ctlrWrite (s : State) (u : FenceUnit) (line : Nat) (d : LineData) (be : Word) (po : BitVec 4) :
    State :=
  let old := s.memPoisonOf line
  let s := s.setBytes (64 * line) d.toNat (bit be.toNat) 64
  let new := match u with
    | .mc (.ddr _) => if be = BitVec.allOnes 64 then po else po ||| old
    | _ => po ||| (old &&& ~~~ wholeWords be)
  let new := match u with | .mc (.ddr _) => if new = 0 then 0 else 15 | _ => new
  s.setMemPoison line new

/-- A home writes a line to memory. At a fence that is not OPEN the write is dropped and recorded
(R485); the flag says it was written. -/
def State.homeWrite (s : State) (sd line : Nat) (d : LineData) (be : Word) (po : BitVec 4) : State × Bool :=
  match s.backing (64 * line) with
  | none => (s, true)
  | some (u, _) =>
    if s.fenceIsOpen u then (s.ctlrWrite u line d be po, true)
    else
      let s := s.fenceDropped u (64 * line)
      (s.err (12 + sd) 1 5 (unitCode 0x01 sd) 1 (64 * line) (protoMisc 0x0D (fenceUnitCode u)), false)

/-- All bytes of a line. -/
def beAll : Word := BitVec.allOnes 64

/-! ### Allocation -/

/-- Tree bits of a set touched at a way. -/
def SliceSt.touch (x : SliceSt) (key : Nat) (toward : Bool := false) : SliceSt :=
  let set := key / 16
  { x with tree := KMap.upd 0 set (fun t => touchTree t (key % 16) toward) x.tree }

/-- An entry leaves its way: dirty data goes to memory, a clean entry is dropped (R147). -/
def State.evictEnt (s : State) (k key : Nat) : State :=
  let e := KMap.get ({} : LEntry) (s.slice k).ent key
  let s := if e.st == .dirty then (s.homeWrite (k / 24) e.line e.data beAll e.poison).1 else s
  s.updSlice k fun x => { x with ent := KMap.set {} key {} x.ent }

/-- An entry is allocated for a line among a pocket's candidate ways; `none` where there are none
(R146, R147). -/
def State.allocEnt (s : State) (k : Nat) (e : LEntry) (toward : Bool) : Option State :=
  let set := llcSet (64 * e.line)
  let x := s.slice k
  match llcVictim (KMap.get 0 x.tree set) (s.candidates k e.pocket.toNat)
      (fun w => (KMap.get ({} : LEntry) x.ent (16 * set + w)).st != .invalid) with
  | none => none
  | some w =>
    let s := s.evictEnt k (16 * set + w)
    some (s.updSlice k fun x => ({ x with ent := KMap.set {} (16 * set + w) e x.ent }).touch (16 * set + w) toward)

/-- Data becomes the line's LLC entry, in its own entry, a new one, or memory when no way can take it
(R146, R147). -/
def State.putLine (s : State) (k : Nat) (line : Nat) (d : LineData) (po : BitVec 4) (pk : Pocket)
    (dirty : Bool) (excl b toward : Bool) : State :=
  let new : LEntry := { st := if dirty then .dirty else .clean, line := line, excl := excl, b := b,
                        pocket := pk, data := d, poison := po }
  match (s.slice k).entKey line with
  | some key => s.updSlice k fun x => ({ x with ent := KMap.set {} key new x.ent }).touch key toward
  | none =>
    match s.allocEnt k new toward with
    | some s => s
    | none => if dirty then (s.homeWrite (k / 24) line d beAll po).1 else s

/-- The line is poisoned in its entry, in a new one, or in memory (R189, R192). -/
def State.poisonLine (s : State) (k line : Nat) (pk : Pocket) : State :=
  match (s.slice k).entKey line with
  | some key => s.updSlice k fun x =>
      { x with ent := KMap.upd {} key (fun e => { e with poison := 15, st := .dirty, excl := false }) x.ent }
  | none =>
    let e : LEntry := { st := .dirty, line := line, pocket := pk, poison := 15, data := s.memLine line }
    match s.allocEnt k e false with
    | some s => s
    | none => (s.homeWrite (k / 24) line (s.memLine line) beAll 15).1

/-- A core's request takes a line in M: its entry is invalidated, or OWNED in a locked way (R141). -/
def State.takenInM (s : State) (k line : Nat) : State :=
  match (s.slice k).entKey line with
  | none => s
  | some key =>
    let own := s.wayLocked k (key % 16)
    let f := fun e : LEntry => if own then { e with st := .owned, excl := false } else {}
    s.updSlice k fun x => { x with ent := KMap.upd {} key f x.ent }

/-- A DIRTY entry is written to memory and becomes CLEAN; the flag says memory took it (R150, R485). -/
def State.cleanEnt (s : State) (k line : Nat) : State × Bool :=
  let e := (s.slice k).entry line
  if e.st == .dirty then
    let (s, ok) := s.homeWrite (k / 24) line e.data beAll e.poison
    if ok then (s.updSlice k fun x => x.updEntry line fun e => { e with st := .clean }, true) else (s, false)
  else (s, true)

end Sys2Proof.Machine
end

