-- ==== Sys2Proof/Machine/HomeOps.lean ====
section
/-! DEFINITION. A home's transactions: arrival, serialisation, laps, completion and closing
(R101, R146, R165-R168, R174-R176, R181-R185, R192, R193). -/

namespace Sys2Proof.Machine

/-! ### Packets of a home -/

/-- A packet from a home to a request's sender. -/
def homePkt (k : Nat) (q : Pkt) (op : BitVec 8) : Pkt :=
  { op := op, src := BitVec.ofNat 8 (0x30 * (k / 24) + k % 24), dst := q.src, txid := q.txid,
    pocket := q.pocket, pa := q.pa, prio := 2, epoch := q.epoch }

/-- State code of MOD [63:61] (R229). -/
def LState.code : LState → Nat
  | .I => 0 | .S => 1 | .E => 2 | .F => 3 | .M => 4

/-- MOD of a DATA or GRANT that carries a state. -/
def stMod (st : LState) : BitVec 8 := BitVec.ofNat 8 (32 * LState.code st)

/-- A saddle's own agent sends the request: its control stop (range engine) or a slice (lock-fill). -/
def ownAgent (src : BitVec 8) : Nat :=
  if 0xC0 ≤ src.toNat then 0
  else if src.toNat % 0x30 = 0x27 then 1
  else if src.toNat % 0x30 < 0x18 then 2
  else 0

/-- A packet to the requester; a saddle's own agent takes its answer without one. -/
def State.answer (s : State) (q p : Pkt) : State := if ownAgent q.src = 0 then s.send p else s

/-- A request of a page whose PBMT is IO: served as RD_NC or WR_NC, answered by IO_DATA or IO_ACK (R206, R208).
DEDUCED (assumption 40). -/
def Pkt.isIo (q : Pkt) : Bool := (q.op == 0x06 || q.op == 0x07) && q.mod == 1

/-- DATA to the requester. -/
def State.sendData (s : State) (k : Nat) (q : Pkt) (st : LState) (d : LineData) (po : BitVec 4) : State :=
  if q.isIo then
    let off := q.pa.toNat % 64
    let bad := poisonHit po off q.size
    s.answer q { homePkt k q 0x34 with resp := if bad then .poison else .ok
                                       data := if bad then 0 else BitVec.ofNat 512 (lineNat d off q.size) }
  else s.answer q { homePkt k q 0x30 with mod := stMod st, data := d, poison := po, be := beAll, prio := q.prio }

/-- GRANT to the requester, with a state or a response code other than OK. -/
def State.sendGrant (s : State) (k : Nat) (q : Pkt) (st : LState) (r : Resp) (md : BitVec 8 := 0) : State :=
  if q.isIo then s.answer q { homePkt k q (if q.op = 0x07 then 0x26 else 0x34) with resp := r }
  else s.answer q { homePkt k q 0x20 with mod := stMod st ||| md, resp := r }

/-! ### Transaction table -/

def State.tx (s : State) (k line : Nat) : Option Tx := (s.slice k).txs.find? fun t => t.line == line

def State.updTx (s : State) (k line : Nat) (f : Tx → Tx) : State :=
  s.updSlice k fun x => { x with txs := x.txs.map fun t => if t.line == line then f t else t }

/-- TRACKERS and TOKENS of SLC_COH follow the slice. -/
def State.cohCount (s : State) (k : Nat) : State :=
  let r := R.slcCoh (k / 24) (k % 24)
  (s.setF r F.slcCoh_TRACKERS (s.slice k).txs.length).setF r F.slcCoh_TOKENS (min 255 (s.slice k).tokens.length)

/-- A transaction ends for its requester with a code other than OK (R173). -/
def State.endTx (s : State) (k line : Nat) (q : Pkt) (r : Resp) : State :=
  (s.sendGrant k q .I r).updTx k line fun t => { t with granted := true, ended := true }

/-- A message for no open transaction is discarded and counted (R51). -/
def State.slcLate (s : State) (k : Nat) : State := s.incF (R.slcCoh (k / 24) (k % 24)) F.slcCoh_LATE

/-- Any write, AMO, WB or maintenance on a line clears the NC reservations on it (R101). -/
def SliceSt.clearResv (x : SliceSt) (line : Nat) : SliceSt :=
  { x with resv := x.resv.filter fun r => r.2.2 != line }

/-- A request writes: what RO_OTHERS forbids (R332). -/
def opWrites (op : BitVec 8) : Bool :=
  match op with
  | 0x03 => true | 0x04 => true | 0x05 => true | 0x07 => true | 0x09 => true | 0x0A => true | 0x0D => true
  | _ => false

/-- A request that clears NC reservations when it is serialised (R101). -/
def opClears (op : BitVec 8) : Bool :=
  match op with
  | 0x05 => true | 0x07 => true | 0x09 => true | 0x0A => true | 0x0B => true | 0x0C => true | 0x0D => true
  | 0x03 => true | 0x04 => true | _ => false

/-- A coherent request: laps or is served coherently; RD_NC and WR_NC are not (R170). -/
def opCoherent (op : BitVec 8) : Bool := op != 0x06 && op != 0x07

/-- A lap leaves the home on its ring (R172, R223). -/
def State.launchLap (s : State) (k : Nat) (t : Tx) (snp : BitVec 8) (byHome keep : Bool) : State :=
  let p : Pkt := { homePkt k t.req snp with
    dst := 0xFF, reqOp := t.req.op, txid := t.req.txid, commit := t.req.commit, be := t.req.be,
    src := BitVec.ofNat 8 (0x30 * (k / 24) + k % 24),
    mod := (if byHome then 0x80 else 0) ||| (if keep then 0x40 else 0) }
  let s := s.uev (k / 24) (if s.injectRing p = some 4 then 6 else 5) (k % 24) t.req.pocket.toNat
  (s.send p).updTx k t.line fun t => { t with lapOut := true }

/-- A read of a line's memory starts (R174); it is dropped later if a forwarder answers. -/
def State.startMemRead (s : State) (k : Nat) (t : Tx) : State :=
  match s.backing (64 * t.line) with
  | none => s
  | some (u, sd) =>
    if s.fenceIsOpen u then
      let dst := match u with
        | .mc (.hbm n) => 0x30 * sd + 0x20 + n.val % 2
        | .mc (.ddr n) => 0x30 * sd + 0x22 + n.val % 3
        | .pcie p => 0xC0 + p.val
        | _ => 0
      let p : Pkt := { homePkt k t.req 0x08 with
        dst := BitVec.ofNat 8 dst, src := BitVec.ofNat 8 (0x30 * (k / 24) + k % 24) }
      (s.send p).updTx k t.line fun t => { t with memWait := true }
    else
      let s := s.incF (R.fenceStatus u) F.fenceStatus_DOMOFF_COUNT
      s.updTx k t.line fun t => { t with domoff := true }

/-- A Bobbin's eyelet: its writes set the B flag and stream (R144, R146). -/
def isBobbin (src : BitVec 8) : Bool := 0xD0 ≤ src.toNat && src.toNat ≤ 0xDF

/-- The old operand's bytes in a line, and the line after an atomic operation (R185). -/
def atomLine (q : Pkt) (d : LineData) : LineData :=
  let off := q.pa.toNat % 64
  let n := q.size
  let func := q.mod.toNat / 16
  let old := lineNat d off n
  let op := lineNat q.data off n
  let cmp := q.cmp.toNat
  if func = 9 ∧ old ≠ cmp % 2 ^ (8 * n) then d
  else mergeLine d (placeAt (amoApply func n old op cmp) off) (beOf off n)

/-- An atomic operation on a line a home holds (R183, R185): POISON leaves memory unchanged. -/
def State.doAtom (s : State) (k : Nat) (t : Tx) (d : LineData) (po : BitVec 4) : State :=
  if poisonHit po (t.req.pa.toNat % 64) t.req.size then
    s.endTx k t.line t.req .poison
  else
    let s := s.putLine k t.line (atomLine t.req d) po t.req.pocket true false false false
    ((s.sendData k t.req .I d po).sendGrant k t.req .I .ok).updTx k t.line fun t => { t with granted := true }

/-- A write merged into an entry, or written to memory where the LLC does not allocate (R147, R162). -/
def State.mergeEntry (s : State) (k line : Nat) (d : LineData) (be : Word) : State :=
  let whole := wholeWords be
  s.updSlice k fun x => (x.updEntry line fun e =>
    { e with data := mergeLine e.data d be, poison := e.poison &&& ~~~ whole, st := .dirty })

/-- A read of memory that no lap precedes: DOMOFF at once where its unit is fenced (R275). -/
def State.ncMemRead (s : State) (k : Nat) (t : Tx) : State :=
  let s := s.startMemRead k t
  match s.tx k t.line with
  | some u => if u.domoff then s.endTx k t.line t.req .domoff else s
  | none => s

/-- RD_NC and WR_NC at the home (R101, R174): the entry in place, or memory. -/
def State.serveNc (s : State) (k : Nat) (t : Tx) : State :=
  let q := t.req
  let e := (s.slice k).entry t.line
  let inPlace := e.st != .invalid && e.st != .owned
  if q.op = 0x06 then
    let s := if q.mod.toNat / 128 = 1 then
        let key := q.src.toNat * 32 + q.txid.toNat / 128
        s.updSlice k fun x =>
          let l := (x.resv.filter fun r => r.2.1 != key) ++ [(q.src.toNat, key, t.line)]
          { x with resv := if 64 < l.length then l.drop 1 else l }
      else s
    if inPlace then
      (s.sendData k q .I e.data e.poison).updTx k t.line fun t => { t with granted := true }
    else s.ncMemRead k t
  else
    let key := q.src.toNat * 32 + q.txid.toNat / 128
    let cond := q.mod.toNat / 128 = 1
    let stands := (s.slice k).resv.any fun r => r.2.1 == key && r.2.2 == t.line
    let s := s.updSlice k fun x => { x with resv := x.resv.filter fun r => !(cond && r.2.1 == key) }
    if cond ∧ ¬ stands then
      (s.sendGrant k q .I .ok 0x80).updTx k t.line fun t => { t with granted := true }
    else
      let s := s.updSlice k fun x => x.clearResv t.line
      if inPlace then
        ((s.mergeEntry k t.line q.data q.be).sendGrant k q .I .ok).updTx k t.line fun t => { t with granted := true }
      else
        let (s, ok) := s.homeWrite (k / 24) t.line q.data q.be 0
        if ok then (s.sendGrant k q .I .ok).updTx k t.line fun t => { t with granted := true }
        else s.endTx k t.line q .domoff

/-- An NC atomic on the line's data, in its entry in place or in memory (R183). -/
def State.doAtomNc (s : State) (k : Nat) (t : Tx) (d : LineData) (po : BitVec 4) : State :=
  let q := t.req
  if poisonHit po (q.pa.toNat % 64) q.size then s.endTx k t.line q .poison
  else
    let e := (s.slice k).entry t.line
    let new := atomLine q d
    let be := beOf (q.pa.toNat % 64) q.size
    let (s, ok) := if e.st != .invalid && e.st != .owned then (s.mergeEntry k t.line new be, true)
      else s.homeWrite (k / 24) t.line new be 0
    if ok then ((s.sendData k q .I d po).sendGrant k q .I .ok).updTx k t.line fun t => { t with granted := true }
    else s.endTx k t.line q .domoff

/-- An NC atomic: on the entry in place, or in memory, without a lap (R183). -/
def State.serveNcAtom (s : State) (k : Nat) (t : Tx) : State :=
  let e := (s.slice k).entry t.line
  if e.st != .invalid && e.st != .owned then s.doAtomNc k t e.data e.poison else s.ncMemRead k t

/-- The home acts on a request it has serialised (R174). -/
def State.serve (s : State) (k line : Nat) : State :=
  match s.tx k line with
  | none => s
  | some t =>
    let q := t.req
    let s := if opClears q.op && opCoherent q.op then s.updSlice k fun x => x.clearResv line else s
    let e := (s.slice k).entry line
    let clean := e.st != .invalid && e.st != .owned && !e.excl
    let needMem := e.st == .invalid || e.st == .owned
    let pk := q.pocket.toNat
    let s := (s.uev (k / 24) 1 (k % 24) pk).uev (k / 24) (if needMem then 3 else 2) (k % 24) pk
    let touch := fun s : State => match (s.slice k).entKey line with
      | some key => s.updSlice k fun x => x.touch key
      | none => s
    let final := fun s : State => s.updTx k line fun t => { t with granted := true, dataSent := true }
    match q.op with
    | 0x01 | 0x02 =>
      if clean then final ((touch s).sendData k q .S e.data e.poison)
      else
        let s := if needMem then s.startMemRead k t else s
        s.launchLap k t 0x10 false (t.agent == 2)
    | 0x08 =>
      if clean then final (((touch s).sendData k q .I e.data e.poison).sendGrant k q .I .ok)
      else
        let s := if needMem then s.startMemRead k t else s
        s.launchLap k t 0x12 false false
    | 0x03 =>
      if clean then
        let s := (touch s).sendData k q .M e.data e.poison
        (s.updTx k line fun t => { t with dataSent := true }).launchLap k t 0x11 true false
      else
        let s := if needMem then s.startMemRead k t else s
        s.launchLap k t 0x11 false false
    | 0x05 =>
      if q.nc then s.serveNcAtom k t
      else
        let s := if needMem then s.startMemRead k t else s
        s.launchLap k t 0x11 false false
    | 0x09 =>
      let s := if needMem && q.be != beAll then s.startMemRead k t else s
      s.launchLap k t 0x11 false false
    | 0x04 | 0x0A | 0x0C | 0x0D => s.launchLap k t 0x11 false false
    | 0x0B =>
      if clean then
        let lk := match (s.slice k).entKey line with | some key => s.wayLocked k (key % 16) | none => false
        let (s, ok) := s.cleanEnt k line
        let s := s.updTx k line fun t => { t with written := e.st == .dirty && ok, touchedLocked := lk }
        if ok then (s.sendGrant k q .I .ok).updTx k line fun t => { t with granted := true }
        else s.endTx k line q .domoff
      else s.launchLap k t 0x12 false false
    | 0x06 | 0x07 => s.serveNc k t
    | _ => s

/-! ### Completion -/

/-- The holders whose answer sends the line to the requester: F under a request whose data it is to
forward, E, M, or a leaving M (R177, R181). -/
def Tx.forwards (t : Tx) : Bool :=
  let q := t.req
  (q.op == 0x01 || q.op == 0x02 || q.op == 0x03 || q.op == 0x08) && !t.dataSent && !t.declined &&
    (List.range 12).any fun p =>
      let c := t.lap.toNat >>> (4 * p) % 16
      c == 1 || c == 2 || c == 4 || c == 5

/-- The lap shows no other copy (R175, R184): a leaving entry is none. -/
def lapAlone (lap : Word) : Bool :=
  lap.toNat >>> 48 % 4096 == 0 && (List.range 12).all fun p =>
    let c := lap.toNat >>> (4 * p) % 16
    c != 1 && c != 2

/-- The lap names an E or M holder. -/
def lapOwner (lap : Word) : Bool :=
  (List.range 12).any fun p => lap.toNat >>> (4 * p) % 16 == 2

/-- A panel whose answer is code `c`. -/
def lapCode (lap : Word) (p : Nat) : Nat := lap.toNat >>> (4 * p) % 16

/-- The current data of the line at the home: what a holder sent, the entry, or memory. -/
def State.homeCopy (s : State) (k : Nat) (t : Tx) : Option (LineData × BitVec 4) :=
  match t.homeData with
  | some d => some d
  | none =>
    let e := (s.slice k).entry t.line
    if e.st != .invalid && e.st != .owned then some (e.data, e.poison) else t.memData

/-- The transaction is answered: GRANT is out. -/
def State.grantDone (s : State) (k line : Nat) : State :=
  s.updTx k line fun t => { t with granted := true }

/-- EXCL of the line's entry (R165). -/
def State.setExcl (s : State) (k line : Nat) (b : Bool) : State :=
  s.updSlice k fun x => x.updEntry line fun e => { e with excl := b }

/-- Maintenance at the home once every copy has been dealt with (R148-R150, R485). -/
def State.maintain (s : State) (k : Nat) (t : Tx) : State :=
  let q := t.req
  let line := t.line
  let e := (s.slice k).entry line
  let lk := match (s.slice k).entKey line with | some key => s.wayLocked k (key % 16) | none => false
  let keepData := q.op == 0x0B || q.op == 0x0C || e.pocket != q.pocket || t.dirtySeen
  let write := e.st == .dirty && keepData
  let (s, ok) := if write then s.cleanEnt k line else (s, true)
  let ok := ok && !t.domoff
  let s := if ok && q.op != 0x0B then s.updSlice k fun x => x.updEntry line fun _ => {} else s
  let s := s.updTx k line fun t =>
    { t with written := t.written || (write && ok), touchedLocked := lk,
             removed := q.op != 0x0B && (e.st != .invalid || t.lap.toNat % 2 ^ 60 != 0) }
  if ok then (s.sendGrant k q .I .ok).grantDone k line else s.endTx k line q .domoff

/-- A lock-fill's line is placed in its way (R159, R177): OWNED where a holder has it in M, CLEAN with
EXCL where a holder has it in E. -/
def State.lockPlace (s : State) (k : Nat) (t : Tx) (e : LEntry) : State :=
  let key := 16 * llcSet (64 * t.line) + t.way
  let s := s.evictEnt k key
  let s := s.updSlice k fun x => ({ x with ent := KMap.set {} key e x.ent }).touch key
  let st := if e.poison != 0 && e.st != .owned then 5 else 1
  (s.setF (R.slcLockFill (k / 24) (k % 24)) F.slcLockFill_STATUS st).grantDone k t.line

/-- Data a request needs from the home has come, or its memory is fenced. -/
inductive Copy where
  | wait | domoff | got (d : LineData) (po : BitVec 4)
  deriving DecidableEq, Repr

def State.copyOf (s : State) (k : Nat) (t : Tx) : Copy :=
  match s.homeCopy k t with
  | some (d, po) => .got d po
  | none => if t.domoff then .domoff else .wait

/-- The home completes a request whose lap and reports are in (R175). -/
def State.complete (s : State) (k line : Nat) : State :=
  match s.tx k line with
  | none => s
  | some t =>
    let q := t.req
    let fwd := t.forwards
    let e := (s.slice k).entry line
    let alone := lapAlone t.lap
    if t.agent = 2 then
      if lapOwner t.lap && t.declined then
        s.lockPlace k t { st := .owned, line := line, pocket := q.pocket }
      else match s.copyOf k t with
        | .wait => s
        | .domoff => (s.setF (R.slcLockFill (k / 24) (k % 24)) F.slcLockFill_STATUS 5).endTx k line q .domoff
        | .got d po => s.lockPlace k t { st := .clean, line := line, pocket := q.pocket, data := d,
                                         poison := po, excl := lapOwner t.lap }
    else match q.op with
    | 0x01 | 0x02 =>
      if q.op == 0x02 && t.declined then (s.answer q (homePkt k q 0x25)).grantDone k line
      else
        let st : LState := if alone then .E else .F
        if fwd then ((s.setExcl k line (st == .E)).sendGrant k q st .ok).grantDone k line
        else match s.copyOf k t with
          | .wait => s
          | .domoff => s.endTx k line q .domoff
          | .got d po =>
            let s := if e.st == .invalid && q.commit && q.op == 0x01 then
                s.putLine k line d po q.pocket false (st == .E) false (q.mod.toNat / 128 == 1)
              else s.setExcl k line (st == .E)
            ((s.sendData k q st d po).sendGrant k q st .ok).grantDone k line
    | 0x08 =>
      if fwd then ((s.setExcl k line (lapOwner t.lap)).sendGrant k q .I .ok).grantDone k line
      else match s.copyOf k t with
        | .wait => s
        | .domoff => s.endTx k line q .domoff
        | .got d po =>
          let s := if e.st == .invalid && q.commit then s.putLine k line d po q.pocket false false false false
            else s.setExcl k line (lapOwner t.lap)
          ((s.sendData k q .I d po).sendGrant k q .I .ok).grantDone k line
    | 0x03 =>
      if fwd || t.dataSent then ((s.takenInM k line).sendGrant k q .M .ok).grantDone k line
      else match s.copyOf k t with
        | .wait => s
        | .domoff => s.endTx k line q .domoff
        | .got d po => (((s.takenInM k line).sendData k q .M d po).sendGrant k q .M .ok).grantDone k line
    | 0x04 =>
      if t.lap.toNat / 2 ^ 63 = 0 then (s.answer q (homePkt k q 0x24)).grantDone k line
      else ((s.takenInM k line).sendGrant k q .M .ok).grantDone k line
    | 0x0A => ((s.takenInM k line).sendGrant k q .M .ok).grantDone k line
    | 0x05 =>
      match s.copyOf k t with
      | .wait => s
      | .domoff => s.endTx k line q .domoff
      | .got d po => s.doAtom k t d po
    | 0x09 =>
      let bob := isBobbin q.src
      if q.be = beAll then
        ((s.putLine k line q.data 0 q.pocket true false bob bob).sendGrant k q .I .ok).grantDone k line
      else match s.copyOf k t with
        | .wait => s
        | .domoff => s.endTx k line q .domoff
        | .got d po =>
          let s := s.putLine k line (mergeLine d q.data q.be) (po &&& ~~~ wholeWords q.be) q.pocket true
            false bob bob
          (s.sendGrant k q .I .ok).grantDone k line
    | 0x0B =>
      (if lapOwner t.lap then s else s.setExcl k line false).maintain k t
    | 0x0C | 0x0D => s.maintain k t
    | _ => s

/-- Everything the lap called for has come (R166, R175). -/
def Tx.ready (t : Tx) : Bool :=
  t.lapSeen && t.fwdOwed.isEmpty && t.invOwed.isEmpty && (!t.dirtyOwed || t.dirtySeen) &&
    (!t.homeOwed || t.homeData.isSome) && !t.granted

/-- The home completes a transaction as soon as it can. DEDUCED (assumption 36). -/
def State.tryComplete (s : State) (k line : Nat) : State :=
  match s.tx k line with
  | none => s
  | some t => if t.ready then s.complete k line else s

/-- The memory read of a transaction has answered (R174, R183). -/
def State.memAnswer (s : State) (k line : Nat) (d : LineData) (po : BitVec 4) : State :=
  match s.tx k line with
  | none => s.slcLate k
  | some t =>
    if !t.memWait then s
    else
      let s := s.updTx k line fun t => { t with memWait := false, memData := some (d, po) }
      if t.req.op == 0x06 then (s.sendData k t.req .I d po).grantDone k line
      else if t.req.op == 0x05 && t.req.nc then s.doAtomNc k t d po
      else s.tryComplete k line

/-! ### Arrival, serialisation, closing -/

/-- The checks of a request before any data or lap (R168, R170): then the home acts on it.
DEDUCED (assumption 36). -/
def State.checked (s : State) (k : Nat) (q : Pkt) : State :=
  let sd := k / 24
  let line := lineOf q.pa
  match s.welt (q.src == 0xCA) q.pocket.toNat q.pa.toNat (opWrites q.op) with
  | .decerr => s.endTx k line q .decerr
  | .domoff => s.endTx k line q .domoff
  | .viol reason =>
    if q.commit then
      (s.violation sd q.src.toNat q.pa.toNat q.pocket.toNat q.op.toNat reason q.txid.toNat).endTx k line q .viol
    else (s.answer q (homePkt k q 0x25)).grantDone k line
  | .pass =>
    let out := match panelOfEyelet q.src.toNat with
      | some p => opCoherent q.op && !(s.scopePanels q.pa.toNat sd).contains p
      | none => false
    if out then s.endTx k line q .decerr else s.serve k line

/-- A transaction opens for a request (R166). -/
def State.openTx (s : State) (k : Nat) (q : Pkt) (t : Timer) : State :=
  let line := lineOf q.pa
  let ag := ownAgent q.src
  let way := s.fld (R.slcLockFill (k / 24) (k % 24)) F.slcLockFill_WAY
  let tx : Tx := { line := line, req := q, t := t, agent := ag, way := way }
  let s := (s.updSlice k fun x => { x with txs := x.txs ++ [tx] }).cohCount k
  match (if ag = 2 then (s.slice k).entKey line else none) with
  | some key =>
    let e := KMap.get ({} : LEntry) (s.slice k).ent key
    let s := s.updSlice k fun x => { x with ent := KMap.set {} key {} x.ent }
    (s.lockPlace k tx e).setF (R.slcLockFill (k / 24) (k % 24)) F.slcLockFill_STATUS 1
  | none => if ag = 0 then s.checked k q else s.serve k line

/-- A transaction's end: every report is in and its requester has been answered for good, without a
COMP to come (R166, R168, R173). -/
def Tx.isEnded (t : Tx) : Bool := t.ended || (t.granted && (t.agent != 0 || t.req.isIo))

/-- What a range-engine transaction that ends counts (R153). -/
def State.rangeCount (s : State) (sd : Nat) (t : Tx) : State :=
  let s := s.incF (R.rangeSum0 sd) F.rangeSum0_SCANNED
  let s := if t.written then s.incF (R.rangeSum0 sd) F.rangeSum0_WRITTEN else s
  let s := if t.touchedLocked then s.incF (R.rangeSum1 sd) F.rangeSum1_LOCKED_TOUCHED else s
  let s := if t.removed then s.incF (R.rangeSum1 sd) F.rangeSum1_INVALIDATED else s
  { s with range := KMap.upd {} sd (fun r => { r with flight := r.flight - 1 }) s.range }

/-- A closed transaction leaves its tracker (R166). -/
def State.dropTx (s : State) (k line : Nat) : State :=
  match s.tx k line with
  | none => s
  | some t =>
    let s := (s.updSlice k fun x => { x with txs := x.txs.filter fun t => t.line != line }).cohCount k
    if t.agent = 1 then s.rangeCount (k / 24) t else s

/-- The next held request that can be serialised (R166, R167): its line free, a tracker free. -/
def SliceSt.nextHeld (x : SliceSt) : Option Nat :=
  if 128 ≤ x.txs.length then none
  else (List.range x.heldq.length).find? fun i =>
    match x.heldq[i]? with
    | none => false
    | some q => !(x.txs.any fun t => t.line == lineOf q.pa) &&
        !((x.heldq.take i).any fun p => lineOf p.pa == lineOf q.pa)

/-- The next held request that can be serialised is. -/
def State.serveHeld (s : State) (k : Nat) : State :=
  if s.saddleState (k / 24) = 1 then s
  else
    let x := s.slice k
    match x.nextHeld with
    | none => s
    | some i =>
      match x.heldq[i]? with
      | none => s
      | some q =>
        let tm := x.heldT.getD i (s.timer (12 + k / 24) 1)
        let s := s.updSlice k fun x => { x with heldq := x.heldq.eraseIdx i, heldT := x.heldT.eraseIdx i }
        s.openTx k q tm

/-- Ended transactions of a slice close. -/
def State.dropEnded (s : State) (k : Nat) : State :=
  (((s.slice k).txs.filter Tx.isEnded).map Tx.line).foldl (fun s l => s.dropTx k l) s

/-- A slice goes on: ended transactions close and held requests are serialised. -/
def State.homeLoop (s : State) (k : Nat) : Nat → State
  | 0 => s.dropEnded k
  | n + 1 => ((s.dropEnded k).serveHeld k).homeLoop k n

/-- A request waits at the slice, or its transaction opens (R166, R167). -/
def State.enqueue (s : State) (k : Nat) (q : Pkt) : State :=
  let x := s.slice k
  let t := s.timer (12 + k / 24) 1
  if s.saddleState (k / 24) = 1 || x.txs.any (fun t => t.line == lineOf q.pa) ||
      x.heldq.any (fun p => lineOf p.pa == lineOf q.pa) || 128 ≤ x.txs.length then
    s.updSlice k fun x => { x with heldq := x.heldq ++ [q], heldT := x.heldT ++ [t] }
  else s.openTx k q t

/-! ### The range engine (R153-R155) -/

/-- OP of a range as a request: 1 CLN, 2 INV, 3 FLS. -/
def rangeOp (op : Nat) : BitVec 8 := match op with | 1 => 0x0B | 2 => 0x0D | _ => 0x0C

/-- A line of a range engine: scanned, or a transaction at its slice, or the violation that stops the
engine. -/
def State.rangeLine (s : State) (sd line : Nat) : State :=
  match s.home (64 * line) with
  | none => s
  | some (hs, c) =>
    if hs ≠ sd then s
    else
      let op := s.fld (R.rangeCtl sd) F.rangeCtl_OP
      let pk := s.fld (R.rangeCtl sd) F.rangeCtl_POCKET
      match s.welt false pk (64 * line) (op == 2) true with
      | .pass =>
        if op = 0 then s.incF (R.rangeSum0 sd) F.rangeSum0_SCANNED
        else
          let q : Pkt := { op := rangeOp op, src := BitVec.ofNat 8 (0x30 * sd + 0x27),
                           dst := BitVec.ofNat 8 (0x30 * sd + c), pocket := BitVec.ofNat 12 pk,
                           pa := addrOfLine line, txid := BitVec.ofNat 12 line }
          let s := { s with range := KMap.upd {} sd (fun r => { r with flight := r.flight + 1 }) s.range }
          (s.enqueue (24 * sd + c) q).dropEnded (24 * sd + c)
      | .viol reason =>
        let s := s.violation sd (0x30 * sd + 0x27) (64 * line) pk (rangeOp op).toNat reason 0
        let s := s.wr (R.rangeViol sd) (BitVec.ofNat 64 (64 * line))
        { s with range := KMap.upd {} sd (fun r => { r with stop := 2 }) s.range }
      | _ =>
        let s := s.wr (R.rangeViol sd) (BitVec.ofNat 64 (64 * line))
        { s with range := KMap.upd {} sd (fun r => { r with stop := 2 }) s.range }

/-- The engine starts lines while fewer than 64 are in flight. -/
def State.rangeRun (s : State) (sd : Nat) : Nat → State
  | 0 => s
  | n + 1 =>
    let r := KMap.get ({} : RangeSt) s.range sd
    let last := s.fld (R.rangeLimit sd) F.rangeLimit_LINE
    if s.fld (R.rangeCtl sd) F.rangeCtl_STATUS ≠ 1 ∨ r.stop ≠ 0 ∨ last < r.next ∨ 64 ≤ r.flight then s
    else
      let s := { s with range := KMap.upd {} sd (fun r => { r with next := r.next + 1 }) s.range }
      (s.rangeLine sd r.next).rangeRun sd n

/-- The engine goes on as far as it can. -/
def State.rangeGoOn (s : State) (sd : Nat) : State :=
  let r := KMap.get ({} : RangeSt) s.range sd
  s.rangeRun sd (s.fld (R.rangeLimit sd) F.rangeLimit_LINE + 1 - r.next)

/-- Harts that wait by WRS on an NC reservation their home no longer holds go on (R92, R101). -/
def State.ncWake (s : State) (k : Nat) : State :=
  { s with harts := s.harts.map fun e =>
      let x := e.2
      let waits := match x.wait with | .wrsNto _ => true | .wrsSto _ => true | _ => false
      match x.resv with
      | some r =>
        if waits && r.nc && s.homeEyelet (64 * r.line) == 0x30 * (k / 24) + k % 24 &&
            !((s.slice k).resv.any fun v => v.2.2 == r.line &&
                v.2.1 == portEyeletOf e.1 r.line * 32 + e.1 % 32) then
          (e.1, { x with mode := .run, wait := .none, w := x.w.retire, resv := none })
        else e
      | none => e }

/-- A slice goes on after a transaction of it may have ended, and its saddle's range engine with it. -/
def State.homeGo (s : State) (k : Nat) : State :=
  let s := (s.homeLoop k ((s.slice k).heldq.length + 1)).ncWake k
  if s.fld (R.rangeCtl (k / 24)) F.rangeCtl_STATUS = 1 then s.rangeGoOn (k / 24) else s

/-! ### A request at its home -/

/-- An error answer to a request: the transaction is over for its requester (R173). -/
def State.refuseReq (s : State) (k : Nat) (q : Pkt) (r : Resp) : State := s.sendGrant k q .I r

/-- A request that has arrived whole at its home (R166-R170, R253, R402). -/
def State.requestIn (s : State) (k : Nat) (q : Pkt) : State :=
  let sd := k / 24
  if s.saddleState sd = 1 then
    { s with thm.quiet := if s.thm.quiet.contains sd then s.thm.quiet else sd :: s.thm.quiet }.enqueue k q
  else if !s.fenceIsOpen (.llc (Fin.ofNat 4 sd)) then
    let u := FenceUnit.llc (Fin.ofNat 4 sd)
    let s := if q.op = 0x09 || (q.op = 0x07 && q.isIo) then s.fenceDropped u q.pa.toNat
      else s.incF (R.fenceStatus u) F.fenceStatus_DOMOFF_COUNT
    s.refuseReq k q .domoff
  else (s.enqueue k q).homeGo k

/-- A request reaches its home (R232). -/
def State.request (s : State) (k : Nat) (q : Pkt) (crcOk : Bool) : State :=
  let s := s.arrive fun p => p.op == q.op && p.src == q.src && p.txid == q.txid && p.pa == q.pa
  if !crcOk then s.err (12 + k / 24) 1 5 (unitCode 0x02 k) 0 0 (protoMisc 3 q.src.toNat)
  else s.requestIn k q

end Sys2Proof.Machine
end

