-- ==== Sys2Proof/Machine/Coherence.lean ====
section
/-! DEFINITION. What ports, holders, homes and requesters do with the coherence messages
(R171-R193): snoops and their answers, reports, laps, tokens, writebacks, grants and data at a hart. -/

namespace Sys2Proof.Machine

/-! ### A snoop at a port and at a holder (R177-R181, R187, R193) -/

/-- What a holder does with a snoop (R177). -/
structure HoldAct where
  st    : LState
  toR   : Bool := false
  toH   : Bool := false
  dirty : Bool := false
  decl  : Bool := false
  deriving DecidableEq, Repr

/-- The row of R177 for a request's snoop at a holder in a state. `tagEq`: the line's pocket tag is the
request's. With KEEP nothing changes, and a holder in M tells so by DECLINED. An UPG whose requester has
lost its copy leaves an E or M holder as it is. DEDUCED (assumption 32). -/
def holdAct (reqOp : BitVec 8) (byHome keep full tagEq : Bool) (st : LState) : HoldAct :=
  if keep then { st := st, decl := st == .M }
  else
    let r := !byHome
    match reqOp, st with
    | _, .I => { st := .I }
    | 0x01, .M => { st := .S, toR := r, dirty := true }
    | 0x02, .M => { st := .M, decl := true }
    | 0x01, .S | 0x02, .S => { st := .S }
    | 0x01, _ | 0x02, _ => { st := .S, toR := r }
    | 0x08, .M => { st := .E, toR := r, dirty := true }
    | 0x08, .S => { st := .S }
    | 0x08, x => { st := x, toR := r }
    | 0x0B, .M => { st := .E, dirty := true }
    | 0x0B, x => { st := x }
    | 0x03, .S => { st := .I }
    | 0x03, _ => { st := .I, toR := r }
    | 0x04, .E | 0x04, .M => { st := st, decl := true }
    | 0x04, _ | 0x0A, _ => { st := .I }
    | 0x0D, .M => { st := .I, dirty := !tagEq }
    | 0x0D, _ => { st := .I }
    | 0x05, .M | 0x0C, .M => { st := .I, dirty := true }
    | 0x05, .S | 0x0C, .S => { st := .I }
    | 0x05, _ | 0x0C, _ => { st := .I, toH := true }
    | 0x09, .M => { st := .I, dirty := !full }
    | 0x09, .S => { st := .I }
    | 0x09, _ => { st := .I, toH := !full }
    | _, x => { st := x }

/-- A holder reports with FWD_DONE (R177): E, M, and F that sends data. -/
def HoldAct.reports (a : HoldAct) (st : LState) : Bool :=
  st == .E || st == .M || a.toR || a.toH

/-- MOD of FWD_DONE (R229). -/
def fwdMod (k : FwdKind) (dirty : Bool) : BitVec 8 :=
  (match k with | .forwarded => 0 | .declined => 0x40 | .lost => 0x80) ||| (if dirty then 0x20 else 0)

/-- State of the DATA a holder forwards: M for RD_O, F for a read to share, none for RD_C. -/
def provState (reqOp : BitVec 8) : LState :=
  match reqOp with | 0x03 => .M | 0x01 => .F | 0x02 => .F | _ => .I

/-- The packets of an answer: data to the requester or the home, DIRTY, FWD_DONE. -/
def State.sendAnswer (s : State) (port k : Nat) (r : Hdr) (reqOp : BitVec 8) (a : HoldAct) (st : LState)
    (d : LineData) (po : BitVec 4) : State :=
  let base : Pkt := { op := 0x30, src := BitVec.ofNat 8 (portEyelet port), dst := r.src, txid := r.txid,
                      pocket := r.pocket, pa := r.pa, epoch := r.epoch, data := d, poison := po, be := beAll }
  let home := BitVec.ofNat 8 (0x30 * (k / 24) + k % 24)
  let s := if a.toR then s.send { base with mod := stMod (provState reqOp) } else s
  let s := if a.toH then s.send { base with dst := home } else s
  let s := if a.dirty then s.send { base with op := 0x33, dst := home } else s
  if a.reports st then
    s.send { base with op := 0x22, dst := home, data := 0, poison := 0, be := 0, prio := 2,
                       mod := fwdMod (if a.decl then .declined else .forwarded) a.dirty }
  else s

/-- A hart that waits by WRS goes on once its reservation has gone (R92). -/
def State.wrsWake (s : State) (h : Nat) : State :=
  let x := s.hart h
  let waits := match x.wait with | .wrsNto _ => true | .wrsSto _ => true | _ => false
  if waits && x.resv.isNone && x.mode == .park then
    s.updHart h fun x => { x with mode := .run, wait := .none, w := x.w.retire }
  else s

/-- Contention predictor after a snoop takes a line (R184). -/
def HartSt.train (x : HartSt) (line : Nat) : HartSt :=
  let c := x.l2Line line
  if x.stitch < c.recent then
    { x with pred := KMap.upd 0 (predIdx (64 * line)) (fun n => min 3 (n + 1)) x.pred }
  else x

/-- INV_DONE of a port once every copy it waited for is invalid (R177). -/
def State.invProgress (s : State) (port line core : Nat) : State :=
  let p := s.port port
  let upd := p.inv.map fun i => if i.line == line then { i with cores := i.cores.filter (· != core) } else i
  let done := upd.filter fun i => i.cores.isEmpty
  let s := s.updPort port fun p => { p with inv := upd.filter fun i => !i.cores.isEmpty }
  done.foldl (fun s i => s.send
    { op := 0x23, src := BitVec.ofNat 8 (portEyelet port),
      dst := BitVec.ofNat 8 (0x30 * (i.home / 24) + i.home % 24), txid := i.r.txid, pocket := i.r.pocket,
      pa := i.r.pa, prio := 2, epoch := i.r.epoch }) s

/-- A holder acts on a snoop (R177). -/
def State.holderAct (s : State) (h k : Nat) (r : Hdr) (snp reqOp : BitVec 8) (byHome keep full : Bool) :
    State :=
  let line := lineOf r.pa
  let port := portOf h line
  let x := (s.hart h).syncL2 line
  let c := x.l2Line line
  let a := holdAct reqOp byHome keep full (c.pocket == r.pocket) c.st
  let declined := reqOp == 0x02 && c.held && c.st != .I
  let a : HoldAct := if declined then { st := c.st, decl := true } else a
  let s := s.setHart h x
  let owed := (s.port port).inv.any fun i => i.line == line && i.cores.contains (h % 32)
  let s := if c.st == .I && owed then s
    else if c.st == .I then
      s.sendAnswer port k r reqOp { st := .I, decl := true } .E 0 0
    else s.sendAnswer port k r reqOp a (if declined then .E else c.st) c.data c.poison
  let took := a.st != c.st && snp != 0x12
  let s := s.updHart h fun x =>
    let x := if took then x.train line else x
    let x := if a.st == .I then { x with ev := KMap.upd 0 0x27 (· + 1) x.ev }.dropL2 line
      else (x.updL2 line fun c => { c with st := a.st, repd := false,
                                           held := c.held && (a.st == .M || a.st == .E) }).updL1d line
             fun c => { c with st := a.st }
    x
  let s := if a.st == .I then s.invProgress port line (h % 32) else s
  s.wrsWake h

/-- The cores of a port's panel whose duplicate tags show a line, but for the requester's (R177). -/
def State.holders (s : State) (panel line : Nat) (rc : Option Nat) : List Nat :=
  (List.range 20).filter fun c =>
    some c != rc && ((s.hart (hartNum panel c)).l2Line line).st != .I

/-- The lap result with a panel's answer. -/
def lapAdd (lap : Word) (p code : Nat) (sharer held : Bool) : Word :=
  lap ||| BitVec.ofNat 64 (code <<< (4 * p)) ||| (if sharer then BitVec.ofNat 64 (2 ^ (48 + p)) else 0) |||
    (if held then BitVec.ofNat 64 (2 ^ 63) else 0)

/-- A waiting snoop is taken up by its holder at once. -/
def State.runWait (s : State) (panel : Nat) (w : WaitSnp) : State :=
  s.holderAct (hartNum panel w.core) w.home w.r w.snp w.reqOp w.byHome w.keep w.full

/-- A snoop that a held line or a pending clean keeps at its port (R179): up to 128, then the window of
its line ends at once. DEDUCED (assumption 33). -/
def State.waitAtPort (s : State) (port : Nat) (w : WaitSnp) : State :=
  let s := s.bump (hartNum (port / 2) w.core) 0x26
  if (s.port port).waiting.length < 128 then s.updPort port fun p => { p with waiting := p.waiting ++ [w] }
  else
    let h := hartNum (port / 2) w.core
    let s := s.updHart h fun x => x.updL2 (lineOf w.r.pa) fun c => { c with held := false }
    let same := fun v : WaitSnp => v.core == w.core && lineOf v.r.pa == lineOf w.r.pa
    let first := (s.port port).waiting.filter same
    let s := s.updPort port fun p => { p with waiting := p.waiting.filter fun v => !same v }
    (first ++ [w]).foldl (fun s v => s.runWait (port / 2) v) s

/-- A leaving entry of the line that answers a snoop: not superseded, not a clean's (R187). -/
def PortSt.answering (p : PortSt) (line : Nat) (rc : Option Nat) : Option Leave :=
  let l := p.leaving.filter fun l => l.line == line && !l.superseded && !l.keepE && some l.core != rc
  match l.find? fun l => l.st == .M with
  | some l => some l
  | none => l.head?

/-- The port's clean of a kept line is on its way: a snoop of the line waits for its WB_ACK (R152).
DEDUCED (assumption 34). -/
def PortSt.cleaning (p : PortSt) (line core : Nat) : Bool :=
  p.leaving.any fun l => l.line == line && l.core == core && l.keepE

/-- Leaving entries of a port changed where `f` holds. -/
def PortSt.supersede (p : PortSt) (e : Leave) : PortSt :=
  { p with leaving := p.leaving.map fun l => if l == e then { l with superseded := true } else l }

/-- A leaving entry answers (R187): code, and the state after it. -/
def State.leavingAnswer (s : State) (port k : Nat) (r : Hdr) (reqOp : BitVec 8) (byHome full : Bool)
    (e : Leave) : Nat × State :=
  if e.st != .M then (3, s.updPort port fun p => p.supersede e)
  else if reqOp == 0x02 then (8, s)
  else if reqOp == 0x04 then (0, s)
  else
    let a := holdAct reqOp byHome false full (e.pocket == r.pocket) .M
    let s := s.sendAnswer port k r reqOp a .M e.data e.poison
    if e.sent then (5, s.updPort port fun p => p.supersede e)
    else (4, s.updPort port fun p => { p with leaving := p.leaving.erase e })

/-- A snoop reaches the port of a DIM panel, which holds S copies only (R399): the port answers from its
duplicate tags, marks the copies that must go INV_PENDING, and sends INV_DONE at once. DEDUCED (assumption 33). -/
def State.dimSnoop (s : State) (port k : Nat) (r : Hdr) (kill : Nat → Bool) (cores : List Nat)
    (pass : State → Bool → State) : State :=
  let panel := port / 2
  let line := lineOf r.pa
  let d := s.dimOf panel
  let live := cores.filter fun c => !d.inv.contains (c, line)
  let s := pass s (!live.isEmpty)
  let gone := live.filter kill
  if gone.isEmpty then s
  else
    let d := { d with inv := d.inv ++ gone.map fun c => (c, line) }
    ({ s with thm.dim := KMap.set {} panel d s.thm.dim } : State).send
      { op := 0x23, src := BitVec.ofNat 8 (portEyelet port), dst := BitVec.ofNat 8 (0x30 * (k / 24) + k % 24), txid := r.txid,
        pocket := r.pocket, pa := r.pa, prio := 2, epoch := r.epoch }

/-- A snoop reaches a port: its answer, and the snoops it sends over the Hem (R177-R181, R193). -/
def State.snoopAt (s : State) (port k : Nat) (r : Hdr) (snp reqOp : BitVec 8) (byHome keep full : Bool)
    (lap : Word) : State :=
  let panel := port / 2
  let line := lineOf r.pa
  let home := BitVec.ofNat 8 (0x30 * (k / 24) + k % 24)
  let s := s.arrive fun p => p.op == snp && p.src == home && p.pa == r.pa && p.dst == 0xFF
  if !r.crcOk then
    s.err (12 + panel / 3) 1 5 (unitCode 0x08 (portEyelet port)) 0 0 (protoMisc 3 home.toNat)
  else
    let rc := if panelOfEyelet r.src.toNat = some panel then some (r.txid.toNat / 128) else none
    let own := match rc with
      | some c => let x := ((s.hart (hartNum panel c)).l2Line line).st; x == .S || x == .F
      | none => false
    let u : FenceUnit := .panel (Fin.ofNat 12 panel)
    let faulted := s.fld (R.fenceStatus u) F.fenceStatus_FAULTED == 1
    let cores := s.holders panel line rc
    let st := fun c => ((s.hart (hartNum panel c)).l2Line line).st
    let act := fun c => holdAct reqOp byHome keep full (((s.hart (hartNum panel c)).l2Line line).pocket == r.pocket) (st c)
    let me := cores.filter fun c => st c == .M || st c == .E
    let fs := cores.filter fun c => st c == .F
    let sends := cores.filter fun c => (act c).reports (st c)
    let quiet := cores.filter fun c => !(act c).reports (st c) && (act c).st == .I
    let pass := fun (s : State) (code : Nat) (sharer : Bool) => s.send
      { op := snp, src := home, dst := 0xFF, txid := r.txid, pocket := r.pocket, pa := r.pa,
        commit := r.commit, epoch := r.epoch, prio := 2, reqOp := reqOp,
        mod := (if byHome then 0x80 else 0) ||| (if keep then 0x40 else 0),
        lap := lapAdd lap panel code sharer own }
    if faulted then
      if !me.isEmpty then pass s 7 false
      else match (s.port port).answering line rc with
        | some e => let (c, s) := s.leavingAnswer port k r reqOp byHome full e; pass s (if c = 0 then 6 else c) false
        | none => pass s 6 false
    else if s.fenceState u = 0 then pass s 6 false
    else if 2 ≤ (s.dimOf panel).stage then s.dimSnoop port k r (fun c => (act c).st == .I) cores (pass · 0)
    else
      let sharer := cores.any (fun c => st c == .S) || (snp == 0x11 && quiet.any fun c => st c == .F)
      let (code, s) :=
        if !me.isEmpty then (2, s)
        else if !fs.isEmpty then (if fs.any fun c => quiet.contains c then 0 else 1, s)
        else match (s.port port).answering line rc with
          | some e => s.leavingAnswer port k r reqOp byHome full e
          | none => (0, s)
      let mk := fun c => ({ core := c, home := k, r := r, snp := snp, reqOp := reqOp, byHome := byHome,
                            keep := keep, full := full } : WaitSnp)
      let s := pass s code sharer
      let s := if quiet.isEmpty then s else
        s.updPort port fun p => { p with inv := p.inv ++ [{ line := line, home := k, cores := quiet, r := r }] }
      (sends ++ quiet).foldl (fun s c =>
        let h := hartNum panel c
        let l := (s.hart h).l2Line line
        let s := s.updHart h fun x => x.updL2 line fun c => { c with repd := true }
        if ((l.held && reqOp != 0x02 && (l.st == .M || l.st == .E)) || (s.port port).cleaning line c) then
          s.waitAtPort port (mk c)
        else s.updPort port fun p => { p with hem := p.hem ++ [mk c] }) s

/-- HOLDER_SNOOP: a snoop reaches a holding L2 over the Hem. -/
def State.snoopHolder (s : State) (h k : Nat) (r : Hdr) (snp reqOp : BitVec 8) (byHome keep full : Bool)
    (err : CacheErr) : State :=
  let line := lineOf r.pa
  let port := portOf h line
  let s := s.updPort port fun p =>
    { p with hem := p.hem.eraseP fun w => w.core == h % 32 && lineOf w.r.pa == line && w.home == k }
  let s := s.cacheError h r.pa err
  let c := (s.hart h).l2Line line
  if c.held && reqOp != 0x02 && (c.st == .M || c.st == .E) then
    s.waitAtPort port { core := h % 32, home := k, r := r, snp := snp, reqOp := reqOp, byHome := byHome,
                        keep := keep, full := full }
  else s.holderAct h k r snp reqOp byHome keep full

/-- The hold window of a line ends: the snoops that waited for it are taken up (R178, R179).
DESIGN CHOICE (assumption 25). -/
def State.endWindow (s : State) (h line : Nat) : State :=
  let port := portOf h line
  let s := s.updHart h fun x => x.updL2 line fun c => { c with held := false }
  let same := fun v : WaitSnp => v.core == h % 32 && lineOf v.r.pa == line
  if (s.port port).cleaning line (h % 32) then s
  else
    let ws := (s.port port).waiting.filter same
    let s := s.updPort port fun p => { p with waiting := p.waiting.filter fun v => !same v }
    ws.foldl (fun s v => s.runWait (port / 2) v) s

/-- Every hold window of a hart ends: it has left RUN or is reset (R178). -/
def State.endWindows (s : State) (h : Nat) : State :=
  let lines := ((s.hart h).l2.filter fun e => e.2.held).map fun e => e.2.line
  lines.foldl (fun s l => s.endWindow h l) s

/-- A panel has become FAULTED: its ports answer waiting snoops LOST and send the INV_DONE they owe
(R193). -/
def State.portsFault (s : State) (panel : Nat) : State :=
  [2 * panel, 2 * panel + 1].foldl (fun s port =>
    let p := s.port port
    let home := fun k : Nat => BitVec.ofNat 8 (0x30 * (k / 24) + k % 24)
    let rep := fun (op : BitVec 8) (k : Nat) (r : Hdr) (md : BitVec 8) =>
      ({ op := op, src := BitVec.ofNat 8 (portEyelet port), dst := home k, txid := r.txid,
         pocket := r.pocket, pa := r.pa, prio := 2, epoch := r.epoch, mod := md } : Pkt)
    let owes := fun w : WaitSnp =>
      let st := ((s.hart (hartNum panel w.core)).l2Line (lineOf w.r.pa)).st
      (holdAct w.reqOp w.byHome w.keep w.full true st).reports st
    let lost := (p.waiting ++ p.hem.filter owes).map fun w => rep 0x22 w.home w.r (fwdMod .lost false)
    let inv := p.inv.map fun i => rep 0x23 i.home i.r 0
    let s := s.sendAll (lost ++ inv)
    s.updPort port fun p => { p with waiting := [], hem := [], inv := [] }) s

/-! ### Reports at the home -/

/-- Transaction end by a lost owner: the line poisoned, POISON to the requester, a record (R193). -/
def State.lostTx (s : State) (k line panel : Nat) : State :=
  match s.tx k line with
  | none => s.slcLate k
  | some t =>
    let s := s.poisonLine k line t.req.pocket
    let s := if t.agent = 2 then
        s.setF (R.slcLockFill (k / 24) (k % 24)) F.slcLockFill_STATUS 5 else s
    let s := s.err (12 + k / 24) 2 5 (unitCode 0x02 k) 1 (64 * line) (protoMisc 0x0E panel)
    ((s.endTx k line t.req .poison).dropTx k line).homeGo k

/-- The F holder at a panel whose answer was FORWARDER sends FWD_DONE (R177). -/
def Tx.fReports (t : Tx) : Bool :=
  t.agent != 2 && match t.req.op with
  | 0x01 => true | 0x02 => true | 0x08 => true | 0x05 => true | 0x0C => true
  | 0x03 => !t.dataSent
  | 0x09 => t.req.be != beAll
  | _ => false

/-- The lap has returned to its home (R166, R175, R181, R188, R193). -/
def State.lapBack (s : State) (k line : Nat) (lap : Word) : State :=
  let home := BitVec.ofNat 8 (0x30 * (k / 24) + k % 24)
  let s := s.arrive fun p => (p.op == 0x10 || p.op == 0x11 || p.op == 0x12) && p.src == home &&
    lineOf p.pa == line && p.dst == 0xFF
  match s.tx k line with
  | none => s.slcLate k
  | some t =>
    if !t.lapOut || t.lapSeen then s.slcLate k
    else
      let panels := List.range 12
      let tok := panels.filterMap fun p =>
        let c := lapCode lap p
        if c = 5 ∧ ¬ t.wbSeen.contains p then
          some ({ line := line, panel := p, ev := false, t := s.timer (12 + k / 24) 1 } : Token)
        else if c = 3 ∧ ¬ t.wbSeen.contains (16 + p) then
          some { line := line, panel := p, ev := true, t := s.timer (12 + k / 24) 1 }
        else none
      let s := (s.updSlice k fun x => { x with tokens := x.tokens ++ tok }).cohCount k
      match panels.find? fun p => lapCode lap p == 7 with
      | some p => s.lostTx k line p
      | none =>
        let owed := panels.filter fun p =>
          let c := lapCode lap p
          (c == 2 || c == 4 || c == 5 || (c == 1 && t.fReports)) && !t.early.contains p
        let inv := if t.req.op == 0x01 || t.req.op == 0x02 || t.req.op == 0x08 || t.req.op == 0x0B then []
          else panels.filter fun p => bit lap.toNat (48 + p) && !t.early.contains (16 + p)
        let s := s.updTx k line fun t =>
          { t with lapSeen := true, lap := lap, fwdOwed := owed, invOwed := inv,
                   declined := t.declined || panels.any fun p => lapCode lap p == 8 }
        (s.tryComplete k line).homeGo k

/-- A requester's or port's report reaches the home. -/
def State.report (s : State) (k line : Nat) (op : BitVec 8) (f : Tx → Tx) : State :=
  let s := s.arrive fun p => p.op == op && lineOf p.pa == line
  match s.tx k line with
  | none => s.slcLate k
  | some _ => ((s.updTx k line f).tryComplete k line).homeGo k

/-- FWD_DONE (R177, R193). -/
def State.fwdReport (s : State) (k line panel : Nat) (kind : FwdKind) (dirty : Bool) : State :=
  match s.tx k line with
  | none => (s.arrive fun p => p.op == 0x22 && lineOf p.pa == line).slcLate k
  | some t =>
    if kind = .lost then
      (s.arrive fun p => p.op == 0x22 && lineOf p.pa == line).lostTx k line panel
    else
      let toH := t.req.op == 0x05 || t.req.op == 0x0C || (t.req.op == 0x09 && t.req.be != beAll)
      s.report k line 0x22 fun t =>
        { t with fwdOwed := t.fwdOwed.filter (· != panel)
                 early := if t.lapSeen then t.early else panel :: t.early
                 declined := t.declined || kind == .declined
                 dirtyOwed := t.dirtyOwed || dirty
                 homeOwed := t.homeOwed || (toH && !dirty && kind == .forwarded) }

/-- INV_DONE (R177). -/
def State.invReport (s : State) (k line panel : Nat) : State :=
  s.report k line 0x23 fun t =>
    { t with invOwed := t.invOwed.filter (· != panel)
             early := if t.lapSeen then t.early else (16 + panel) :: t.early }

/-- COMP (R166, R176): the transaction closes. -/
def State.compReport (s : State) (k line : Nat) (src : BitVec 8) (txid : BitVec 12) : State :=
  let s := s.arrive fun p => p.op == 0x21 && lineOf p.pa == line && p.src == src && p.txid == txid
  match s.tx k line with
  | none => s.slcLate k
  | some t =>
    if t.req.src = src ∧ t.req.txid = txid ∧ t.granted then (s.dropTx k line).homeGo k
    else s.slcLate k

/-- Clean DATA from a holder reaches the home (R173, R177). -/
def State.dataAtHome (s : State) (k line : Nat) (d : LineData) (po : BitVec 4) : State :=
  s.report k line 0x30 fun t => { t with homeData := some (d, po) }

/-- DIRTY (R173, R177): the copy the home must write goes into the line's entry, else into memory
(R146); a clean's or flush's into memory (R150); a far atomic's or a partial write's is the data it works
on. -/
def State.dirtyAtHome (s : State) (k line : Nat) (d : LineData) (po : BitVec 4) : State :=
  match s.tx k line with
  | none => (s.arrive fun p => p.op == 0x33 && lineOf p.pa == line).slcLate k
  | some t =>
    let op := t.req.op
    let s :=
      if op == 0x05 || op == 0x09 then s
      else match (s.slice k).entKey line with
        | some _ => s.updSlice k fun x => x.updEntry line fun e =>
            { e with data := d, poison := po, st := .dirty, pocket := t.req.pocket }
        | none =>
          let (s, ok) := s.homeWrite (k / 24) line d beAll po
          s.updTx k line fun t => { t with written := true, domoff := t.domoff || !ok }
    s.report k line 0x33 fun t =>
      { t with dirtySeen := true, homeData := if op == 0x05 || op == 0x09 then some (d, po) else t.homeData }

/-! ### WB and EV at the home (R188-R190) -/

/-- WB_ACK to a port. -/
def State.sendWbAck (s : State) (k port line : Nat) : State :=
  s.send { op := 0x13, src := BitVec.ofNat 8 (0x30 * (k / 24) + k % 24),
           dst := BitVec.ofNat 8 (portEyelet port), pa := addrOfLine line, prio := 2 }

/-- The lowest HOME value in force at any time since `t` (R189). -/
def State.lowestHome (s : State) (k t : Nat) : Nat :=
  (s.clk.homeHist.filter fun e => decide (t ≤ e.1)).foldl (fun m e => min m e.2) (s.dlCopy (12 + k / 24) 1)

/-- A WB or EV that meets no token is stale-suspect (R189). -/
def State.staleSuspect (s : State) (k sentTape : Nat) : Bool :=
  decide (s.lowestHome k sentTape ≤ s.tape - sentTape + 8)

/-- The token of a line and panel, of a WB or of an EV. -/
def isToken (line panel : Nat) (ev : Bool) (t : Token) : Bool :=
  t.line == line && t.panel == panel && t.ev == ev

/-- WB (R188, R189). -/
def State.wbAtHome (s : State) (k port line : Nat) (pk : Pocket) (d : LineData) (po : BitVec 4)
    (sentTape : Nat) : State :=
  let panel := port / 2
  let pe := portEyelet port
  let s := s.arrive fun p => p.op == 0x31 && lineOf p.pa == line && p.src == BitVec.ofNat 8 pe
  let s := s.updPort port fun p =>
    { p with leaving := p.leaving.map fun l => if l.line == line && l.st == .M then { l with sent := true } else l }
  let kept := (s.port port).leaving.any fun l => l.line == line && l.keepE
  let s := s.updSlice k fun x => x.clearResv line
  if (s.slice k).tokens.any (isToken line panel false) then
    let s := s.updSlice k fun x => { x with tokens := x.tokens.eraseP (isToken line panel false) }
    let s := s.uev (k / 24) 7 (k % 24) pk.toNat
    ((s.cohCount k).incF (R.slcCoh (k / 24) (k % 24)) F.slcCoh_SUPERSEDED).sendWbAck k port line
  else if s.staleSuspect k sentTape then
    let s := (s.poisonLine k line pk).sendWbAck k port line
    s.err (12 + k / 24) 2 3 (unitCode 0x02 k) 1 (64 * line)
      (dlMisc 1 pk.toNat 0 pe (s.tape - sentTape - s.dlCopy (12 + k / 24) 1))
  else
    let s := s.putLine k line d po pk true kept false false
    let s := s.updTx k line fun t => { t with wbSeen := panel :: t.wbSeen }
    ((s.sendWbAck k port line).tryComplete k line).homeGo k

/-- EV (R188, R189). DEDUCED (assumption 35). -/
def State.evAtHome (s : State) (k port line : Nat) (sentTape : Nat) : State :=
  let panel := port / 2
  let s := s.arrive fun p => p.op == 0x32 && lineOf p.pa == line &&
    p.src == BitVec.ofNat 8 (portEyelet port)
  let s := s.updPort port fun p =>
    { p with leaving := p.leaving.map fun l => if l.line == line && l.st != .M then { l with sent := true } else l }
  if (s.slice k).tokens.any (isToken line panel true) then
    let s := s.updSlice k fun x => { x with tokens := x.tokens.eraseP (isToken line panel true) }
    (s.cohCount k).sendWbAck k port line
  else if s.staleSuspect k sentTape then s.sendWbAck k port line
  else
    let s := (s.setExcl k line false).updTx k line fun t => { t with wbSeen := (16 + panel) :: t.wbSeen }
    s.sendWbAck k port line

/-- A supersede token reaches its HOME deadline (R189). -/
def State.expireToken (s : State) (k line panel : Nat) : State :=
  match (s.slice k).tokens.find? fun t => t.line == line && t.panel == panel with
  | none => s
  | some t =>
    let s := s.advance t.t.due
    let s := s.updSlice k fun x => { x with tokens := x.tokens.erase t }
    let s := s.cohCount k
    s.err (12 + k / 24) 1 3 (unitCode 0x02 k) 1 (64 * line)
      (dlMisc 1 0 0 (portEyelet (2 * panel + line % 2)) (s.tape - t.t.due))

/-- The first agent a serialised transaction waits for (R192). DEDUCED (assumption 37). -/
def State.silentOf (s : State) (t : Tx) : Nat :=
  match t.fwdOwed.head?, t.invOwed.head? with
  | some p, _ => portEyelet (2 * p + t.line % 2)
  | none, some p => portEyelet (2 * p + t.line % 2)
  | none, none =>
    if t.memWait then
      match s.backing (64 * t.line) with
      | some (.mc c, _) => c.eyelet
      | some (.pcie p, _) => 0xC0 + p.val
      | _ => 0xFF
    else if t.granted then t.req.src.toNat else 0xFF

/-- HOME_EXPIRY (R54, R192). -/
def State.expireHome (s : State) (k : Nat) (pa : Addr) (src : BitVec 8) (txid : BitVec 12) : State :=
  let line := lineOf pa
  let x := s.slice k
  let same := fun q : Pkt => lineOf q.pa == line && q.src == src && q.txid == txid
  let bank := 12 + k / 24
  let fill := fun (s : State) => if ownAgent src = 2 then
      s.setF (R.slcLockFill (k / 24) (k % 24)) F.slcLockFill_STATUS 6 else s
  match x.heldq.findIdx? same with
  | some i =>
    match x.heldq[i]?, x.heldT[i]? with
    | some q, some t =>
      let s := s.advance t.due
      let s := s.updSlice k fun x => { x with heldq := x.heldq.eraseIdx i, heldT := x.heldT.eraseIdx i }
      let s := (fill s).sendGrant k q .I .late
      let s := if ownAgent src = 1 then s.rangeCount (k / 24) { line := line, req := q, t := t } else s
      (s.err bank 1 3 (unitCode 0x02 k) 1 pa.toNat
        (dlMisc 1 q.pocket.toNat q.txid.toNat 0xFF (s.tape - t.due))).homeGo k
    | _, _ => s
  | none =>
    match s.tx k line with
    | none => s
    | some t =>
      if !same t.req then s
      else
        let s := s.advance t.t.due
        let silent := s.silentOf t
        let s := (fill s).poisonLine k line t.req.pocket
        let s := s.endTx k line t.req .poison
        let s := s.err bank 2 3 (unitCode 0x02 k) 1 pa.toNat
          (dlMisc 1 t.req.pocket.toNat t.req.txid.toNat silent (s.tape - t.t.due))
        (s.dropTx k line).homeGo k

/-! ### WB_ACK at a port -/

/-- WB_ACK (R186, R191): the entry goes; requests held behind it, and snoops behind a clean, go on. -/
def State.wbAckAt (s : State) (port line : Nat) : State :=
  let s := s.arrive fun p => p.op == 0x13 && p.dst == BitVec.ofNat 8 (portEyelet port) && lineOf p.pa == line
  match (s.port port).leaving.find? fun l => l.line == line && l.sent with
  | none => s
  | some e =>
    let s := s.updPort port fun p => { p with leaving := p.leaving.erase e }
    let mine := fun q : Pkt => lineOf q.pa == line && q.txid.toNat / 128 == e.core
    let more := (s.port port).leaving.any fun l => l.line == line && l.core == e.core
    let go := if more then [] else (s.port port).heldReq.filter mine
    let s := if more then s else s.updPort port fun p => { p with heldReq := p.heldReq.filter fun q => !mine q }
    let s := s.sendAll go
    let h := hartNum (port / 2) e.core
    if e.keepE && !((s.hart h).l2Line line).held then s.endWindow h line else s

/-! ### Answers at a hart -/

/-- COMP to the home (R176). -/
def State.sendComp (s : State) (h line tx : Nat) : State :=
  s.send { op := 0x21, src := BitVec.ofNat 8 (portEyelet (portOf h line)),
           dst := BitVec.ofNat 8 (s.homeEyelet (64 * line)), txid := BitVec.ofNat 12 (h % 32 * 128 + tx % 128),
           pa := addrOfLine line, prio := 2, pocket := (s.hart h).pocket }

/-- A line request whose GRANT and data are in is installed (R171, R176, R178); it waits while the L2 has
no way for it (R142). -/
def State.tryInstall (s : State) (h : Nat) (r : L2Req) : State :=
  let done := fun s : State =>
    let s := s.updHart h fun x => { x with reqs := x.reqs.filter fun q => q.txid != r.txid }
    let s := if r.ifetch then s.updHart h fun x => x.fillL1i r.line r.stream else s
    (s.sendComp h r.line r.txid).pump h
  match r.grant with
  | none => s
  | some st =>
    if r.op == 0x04 then
      done (s.updHart h fun x => x.updL2 r.line fun c =>
        { c with st := .M, held := true, age := 0, holdEnd := x.stitch + s.holdWindow h r.line })
    else
      match (if r.op == 0x0A then some ((0 : LineData), (0 : BitVec 4)) else r.got) with
      | none => s
      | some (d, po) =>
        match s.installL2 h r.line st d po r.pocket r.stream with
        | none => s
        | some s => done s

/-- The hart's request for a line, as it stands. -/
def State.lineReq (s : State) (h line : Nat) : Option L2Req :=
  (s.hart h).reqs.find? fun r => r.line == line

def State.updReq (s : State) (h line : Nat) (f : L2Req → L2Req) : State :=
  s.updHart h fun x => { x with reqs := x.reqs.map fun r => if r.line == line then f r else r }

/-- An access of the hart with a request of its own for a line. -/
def State.ownAcc (s : State) (h line : Nat) : Option Acc :=
  (s.hart h).acc.find? fun e => e.own && e.sent && !e.done && lineOf e.pa == line

def State.updAcc (s : State) (h id : Nat) (f : Acc → Acc) : State :=
  s.updHart h fun x => { x with acc := x.acc.map fun e => if e.id == id then f e else e }

/-- The cause of an access fault of an access (R87). -/
def accessCause (k : AccKind) : Nat :=
  match k with | .load => causeLoadAccess | .fetch => causeInstrAccess | _ => causeStoreAccess

/-- An access meets an error answer (R87, R446). -/
def State.failAcc (s : State) (h : Nat) (e : Acc) (r : Resp) : State :=
  let s := if r == .poison then s.hartPoison h (if e.kind == .load then 1 else 2) e.pa.toNat else s
  let older := (s.hart h).acc.takeWhile fun a => a.id != e.id
  s.preciseFault h e older (accessCause e.kind)

/-- A line request ends with an error answer: the oldest access that waits for it faults; a read on a
path that does not commit is dropped (R87, R96). -/
def State.failReq (s : State) (h line : Nat) (r : Resp) : State :=
  match s.lineReq h line with
  | none => s
  | some q =>
    let s := s.updHart h fun x => { x with reqs := x.reqs.filter fun p => p.txid != q.txid }
    if !q.commit then s
    else match (s.hart h).acc.find? fun e => !e.own && (accLines e).contains line with
      | some e => s.failAcc h e r
      | none => s

/-- The stalled load's data has come: the run-ahead ends and its checkpoint returns (R93).
DEDUCED (assumption 18). -/
def State.runAheadExit (s : State) (h : Nat) : State :=
  match (s.hart h).ra with
  | none => s
  | some w => s.updHart h fun x => { x with ra := none, w := x.w.back w }

/-- GRANT at a hart (R175, R176). `alone`: the far ATOM's lap showed no other copy, or, for a conditional
NC write, SC_FAIL. -/
def State.grantAtHart (s : State) (h : Nat) (pa : Addr) (st : LState) (r : Resp) (alone : Bool) : State :=
  let line := lineOf pa
  let s := s.arrive fun p => p.op == 0x20 && lineOf p.pa == line &&
    p.dst == BitVec.ofNat 8 (portEyelet (portOf h line)) && p.txid.toNat / 128 == h % 32
  match s.ownAcc h line with
  | some e =>
    if r ≠ .ok then s.failAcc h e r
    else
      let s := if e.kind == .amo && alone then
          s.updHart h fun x => { x with pred := KMap.upd 0 (predIdx pa.toNat) (· - 1) x.pred }
        else s
      let s := s.updAcc h e.id fun e => { e with done := true, scFail := e.kind == .sc && alone }
      let s := if e.kind == .amo && e.got.isNone then s else s.sendComp h line e.id
      s.pump h
  | none =>
    match s.lineReq h line with
    | none => s
    | some q =>
      if r ≠ .ok then (s.failReq h line r).pump h
      else (s.updReq h line fun q => { q with grant := some st }).tryInstall h { q with grant := some st }

/-- The fill is the first of an LLC line that a Bobbin wrote: it streams, and the flag goes (R144). -/
def State.takeB (s : State) (line : Nat) : Bool × State :=
  match s.home (64 * line) with
  | none => (false, s)
  | some (sd, c) =>
    let k := 24 * sd + c
    if ((s.slice k).entry line).b then
      (true, s.updSlice k fun x => x.updEntry line fun e => { e with b := false })
    else (false, s)

/-- A check-bit error found in arriving data (R160, R232): corrected, or poison. -/
def State.dataError (s : State) (h : Nat) (pa : Addr) (po : BitVec 4) (err : CacheErr) : State × BitVec 4 :=
  let w := BitVec.ofNat 4 (2 ^ (pa.toNat / 16 % 4))
  match err with
  | .single => (s.err (h / 32) 0 0 (unitCode 0x0A h) 1 pa.toNat (eccMisc 2 0xFF w.toNat 0), po)
  | .double => (s.err (h / 32) 2 0 (unitCode 0x0A h) 1 pa.toNat (eccMisc 2 0xFF w.toNat 0), po ||| w)
  | _ => (s, po)

/-- DATA at a hart (R175, R176). DATA in S from the home is the final answer of a read served without a
lap. -/
def State.dataAtHart (s : State) (h : Nat) (pa : Addr) (st : LState) (d : LineData) (poison : BitVec 4)
    (r : Resp) (err : CacheErr) (crcOk : Bool) : State :=
  let line := lineOf pa
  let s := s.arrive fun p => p.op == 0x30 && lineOf p.pa == line &&
    p.dst == BitVec.ofNat 8 (portEyelet (portOf h line)) && p.txid.toNat / 128 == h % 32
  if !crcOk then s.err (h / 32) 1 5 (unitCode 0x09 (h / 32)) 0 0 (protoMisc 3 0xFF)
  else
    let (s, po) := s.dataError h pa poison err
    match s.ownAcc h line with
    | some e =>
      if r ≠ .ok then s.failAcc h e r
      else
        let s := s.updAcc h e.id fun e => { e with got := some (d, po) }
        let s := if e.kind == .amo && !e.done then s else s.sendComp h line e.id
        s.pump h
    | none =>
      match s.lineReq h line with
      | none => s
      | some q =>
        if r ≠ .ok then (s.failReq h line r).pump h
        else
          let (b, s) := s.takeB line
          let q' := { q with got := some (d, po), stream := q.stream || b,
                             grant := if st == .S then some .S else q.grant }
          let s := s.updReq h line fun _ => q'
          let s := if (s.hart h).ra.isSome && (s.hart h).raLine == line then s.runAheadExit h else s
          (s.pump h).tryInstall h q'

/-- UPG_FAIL (R175): the request is sent again as RD_O. -/
def State.upgFailAt (s : State) (h line : Nat) : State :=
  let s := s.arrive fun p => p.op == 0x24 && lineOf p.pa == line
  match s.lineReq h line with
  | none => s
  | some q =>
    if q.op ≠ 0x04 then s
    else
      let s := s.sendComp h line q.txid
      let s := s.updReq h line fun q => { q with op := 0x03 }
      s.send (s.reqPkt h 0x03 line q.txid q.commit q.stream)

/-- NODATA (R98): the speculative read has no data; a load that is ordinary by now is sent again. -/
def State.nodataAt (s : State) (h line : Nat) : State :=
  let s := s.arrive fun p => p.op == 0x25 && lineOf p.pa == line
  match s.lineReq h line with
  | none => s
  | some q =>
    let s := s.sendComp h line q.txid
    let s := s.updHart h fun x => { x with reqs := x.reqs.filter fun p => p.txid != q.txid }
    let still := (s.hart h).acc.any fun e => e.spec && (accLines e).contains line
    if still then s else s.pump h

/-- A fill that waited for a way is installed (R142, R186). -/
def State.resumeFill (s : State) (h line : Nat) : State :=
  match s.lineReq h line with
  | none => s
  | some q => s.tryInstall h q

/-- The leaving table takes waiting evictions (R186): the port sends what it has queued, and its panel's
fills and accesses go on. -/
def State.acceptWaiting (s : State) (port : Nat) : State :=
  let s := s.sendLeaving port
  (List.range 20).foldl (fun s c =>
    let h := hartNum (port / 2) c
    let ls := ((s.hart h).reqs.filter fun r => r.line % 2 == port % 2).map L2Req.line
    (ls.foldl (fun s l => s.resumeFill h l) s).pump h) s

end Sys2Proof.Machine
end

