-- ==== Sys2Proof/Machine/HartCtl.lean ====
section
/-! DEFINITION. A hart's waiting, interrupts, speculation, custom CSRs and switches of world (R91-R93,
R98, R102-R113, R358, R398). -/

namespace Sys2Proof.Machine

/-! ### Interrupts -/

/-- An interrupt of a world is pending and enabled by mie (R91). -/
def World.intEnabled (w : World) (n : Nat) : Bool :=
  bit (w.csrVal 0x344).toNat n && bit (w.csrVal 0x304).toNat n

/-- Some interrupt is pending and enabled. -/
def World.intReady (w : World) : Bool := (w.csrVal 0x344 &&& w.csrVal 0x304) != 0

/-- An enabled interrupt can be taken at the world's privilege level, by its destination. -/
def World.intTakes (w : World) (n : Nat) : Bool :=
  let st := w.csrVal 0x300
  let sie := bit st.toNat 1
  w.intEnabled n &&
    if w.csrVal csr_skpocket ≠ 0 then w.priv == 0 || sie
    else if !bit (w.csrVal 0x303).toNat n then decide (w.priv < 3) || bit st.toNat 3
    else if w.virt && bit (w.csrVal 0x603).toNat n then w.priv == 0 || bit (w.csrVal 0x200).toNat 1
    else w.virt || w.priv == 0 || (w.priv == 1 && sie)

/-- The interrupt a hart takes first: external, software, timer of M and S in the privileged
specification's order, then the others from the highest. PRESUMED (assumption 11). -/
def World.intPick (w : World) : Option Nat :=
  ([11, 3, 7, 9, 1, 5, 12, 10, 2, 6] ++ ((List.range 64).reverse.filter fun n =>
    !([11, 3, 7, 9, 1, 5, 12, 10, 2, 6].contains n))).find? w.intTakes

/-- An access whose request has left the hart and that cannot be taken back: an I/O load, an AMO, LR or SC
with a request of its own. -/
def HartSt.irrevocable (x : HartSt) : Bool :=
  x.io.any (fun i => i.isLoad && i.sent) || x.acc.any fun e => e.own && e.sent && e.loadLike

/-- Younger instructions than the oldest that can still trap are discarded: an interrupt is taken between
two instructions (R93, R199). -/
def State.flushYoung (s : State) (h : Nat) : State :=
  s.updHart h fun x =>
    let w := match x.ra with | some w => w | none => x.w
    let older := x.acc.takeWhile fun e => !e.loadLike
    let ioOld := x.io.takeWhile fun i => !i.isLoad
    match x.acc.find? Acc.loadLike, x.io.find? (·.isLoad) with
    | some e, some i =>
      let at' := min e.issued i.issued
      { x with ra := none, w := x.w.back (if e.issued ≤ i.issued then e.snap else i.snap), fences := [], heldOps := [],
               acc := x.acc.filter fun a => decide (a.issued < at')
               io := x.io.filter fun a => decide (a.issued < at') }
    | some e, none => { x with ra := none, w := x.w.back e.snap, fences := [], heldOps := [], acc := older
                               io := x.io.filter fun a => decide (a.issued < e.issued) }
    | none, some i => { x with ra := none, w := x.w.back i.snap, fences := [], heldOps := [], io := ioOld
                               acc := x.acc.filter fun a => decide (a.issued < i.issued) }
    | none, none => { x with ra := none, w := x.w.back w }

/-- A hart takes its first takeable interrupt, once nothing irrevocable is under way. PRESUMED (assumption 11). -/
def State.pollInt (s : State) (h : Nat) : State :=
  let x := s.hart h
  if x.mode == .run && x.wait == .none && !x.irrevocable then
    match x.w.intPick with
    | none => s
    | some n =>
      let s := s.flushYoung h
      s.updHart h fun x =>
        { x with w := x.w.trap true n 0
                 resv := match x.resv with | some r => if r.nc then none else some r | none => none }
  else s

/-- A hart in PARK, SLEEP's exit or pause goes on after its waiting instruction. DESIGN CHOICE (assumption 24). -/
def State.unpark (s : State) (h : Nat) : State :=
  s.updHart h fun x => { x with mode := .run, wait := .none, w := x.w.retire }

/-- A parked or pausing hart whose wake condition holds goes on (R91, R92); one that waits on mkdoor does
not (R112). -/
def State.wakeHart (s : State) (h : Nat) : State :=
  let x := s.hart h
  if s.panelState (h / 32) ≠ 0 ∨ s.panelParked (h / 32) ∨ (s.dimOf (h / 32)).stage ≠ 0 then s
  else
    let ready : Bool := x.w.intReady && match x.wait with
      | .wfi _ => x.mode == .park
      | .wrsNto _ => x.mode == .park
      | .wrsSto _ => x.mode == .park
      | .pause _ => x.mode == .run
      | _ => false
    let s : State := if ready then s.unpark h else s
    s.pollInt h

/-- An interrupt becomes pending in a world of a hart: the world that runs, or the host world set aside
(R91, R358). DESIGN CHOICE (assumption 12). -/
def State.intPend (s : State) (h : Nat) (host : Bool) (n : Nat) : State :=
  let set := fun w : World => w.setCsr 0x344 (setBits (w.csrVal 0x344) n 1 1)
  let x := s.hart h
  if host && x.pocket ≠ 0 then
    let s := s.updHart h fun x => { x with host := x.host.map set }
    if (n = 11 ∨ n = 9) ∧ s.preemptExt x.pocket.toNat then (s.forceExit h).wakeHart h else s
  else (s.updHart h fun x => { x with w := set x.w }).wakeHart h

/-- INTERRUPT_PENDING (R91): an M-level interrupt is the host world's. -/
def interruptPendingEff (h : HartId) (irq : Fin 64) (s : State) : State :=
  s.intPend h.num (irq.val == 3 || irq.val == 7 || irq.val == 11) irq.val

/-! ### Waiting (R91, R92, R398) -/

/-- The hart leaves RUN for PARK: its hold windows end (R178). DESIGN CHOICE (assumption 24). -/
def State.parkHart (s : State) (h : Nat) (w : Wait) : State :=
  (s.updHart h fun x => { x with mode := .park, wait := w }).endWindows h

def wfiEff (h : HartId) (s : State) : State :=
  s.onHart h fun s =>
    if s.inRunAhead h.num then s
    else if (s.hart h.num).w.intReady then (s.retire h.num).pollInt h.num
    else (s.parkHart h.num (.wfi s.tape)).updPkg

/-- A WFI has waited 4 µs under TW or VTW (R91). -/
def wfiTimeoutEff (h : HartId) (s : State) : State :=
  let x := s.hart h.num
  match x.wait with
  | .wfi t =>
    let w := x.w
    let tw := bit (w.csrVal 0x300).toNat 21 && decide (w.priv < 3)
    let vtw := bit (w.csrVal 0x600).toNat 21 && w.virt
    if !(x.mode == .park || x.mode == .sleep) || !(tw || vtw) then s
    else
      let s := s.advance (t + 4000)
      let s := s.updHart h.num fun x => { x with mode := .run, wait := .none }
      if tw then s.illegal h.num else s.trap h.num causeVirtual
  | _ => s

/-- DESIGN CHOICE (assumption 24). -/
def pauseEff (h : HartId) (s : State) : State :=
  s.onHart h fun s =>
    if s.inRunAhead h.num then s
    else if (s.hart h.num).w.intReady then (s.retire h.num).pollInt h.num
    else s.updHart h.num fun x => { x with wait := .pause (x.stitch + 64) }

/-- The 64 stitches of a pause have run out (R92): the issue stage kept its handshakes (R89). -/
def pauseEndEff (h : HartId) (s : State) : State :=
  match (s.hart h.num).wait with
  | .pause n =>
    let k := n - (s.hart h.num).stitch
    ((List.range k).foldl (fun s _ => s.issue h.num) s).unpark h.num
  | _ => s

/-- A WRS instruction (R92): without a reservation it completes at once. -/
def State.wrs (s : State) (h : Nat) (w : Wait) : State :=
  if s.inRunAhead h then s
  else if (s.hart h).resv.isNone || (s.hart h).w.intReady then (s.retire h).pollInt h
  else s.parkHart h w

def wrsNtoEff (h : HartId) (s : State) : State := s.onHart h fun s => s.wrs h.num (.wrsNto s.tape)
def wrsStoEff (h : HartId) (s : State) : State := s.onHart h fun s => s.wrs h.num (.wrsSto s.tape)

def wrsStoTimeoutEff (h : HartId) (s : State) : State :=
  match (s.hart h.num).wait with
  | .wrsSto t => (s.advance (t + 1000)).unpark h.num
  | _ => s

/-- SLEEP_US in force (R415). -/
def State.sleepUs (s : State) : Nat := s.cfg 0xF0 0xFFFF 0x10 2 50

/-- Tape time at which a hart's PARK began. -/
def Wait.since : Wait → Nat
  | .wfi t => t | .wrsNto t => t | .wrsSto t => t | .door _ t => t.start | _ => 0

/-- SLEEP (R398): dirty L1D lines go to the L2, and both L1 caches lose their contents. -/
def sleepEntryEff (h : HartId) (s : State) : State :=
  let x := s.hart h.num
  if x.mode ≠ .park ∨ s.sleepUs = 0 then s
  else
    let s := s.advance (x.wait.since + 1000 * s.sleepUs)
    let lines := x.l1d.map fun e => e.2.line
    (s.updHart h.num fun x =>
      { lines.foldl (fun x l => x.syncL2 l) x with l1d := [], l1i := [], mode := .sleep }).updPkg

/-- SLEEP ends 2 µs after PARK's exit condition (R398). -/
def sleepExitEff (h : HartId) (s : State) : State :=
  let x := s.hart h.num
  let lost := match x.wait with | .wrsNto _ => x.resv.isNone | .wrsSto _ => x.resv.isNone | _ => false
  let sto := match x.wait with | .wrsSto t => decide (t + 1000 ≤ s.tape + 2000) | _ => false
  let door := match x.wait with | .door .. => true | _ => false
  if x.mode ≠ .sleep then s
  else if door then s.updHart h.num fun x => { x with mode := .park }
  else if !(x.w.intReady || lost || sto || x.haltReq) then s
  else (((s.advance (s.tape + 2000)).unpark h.num).pollInt h.num).updPkg

/-! ### Run-ahead and speculation (R93, R98) -/

/-- RUN_AHEAD_ENTRY (R93): the oldest access is a load that has missed L2. -/
def runAheadEntryEff (h : HartId) (s : State) : State :=
  let n := h.num
  let x := s.hart n
  if !s.canIssue n || x.ra.isSome || !bit (s.csr n csr_mkctl).toNat 10 then s
  else match x.acc with
    | e :: _ =>
      match (accLines e).find? fun l => !s.readable n l with
      | some l =>
        if e.kind == .load && !e.own && !e.spec then
          s.updHart n fun x => { x with ra := some x.w, raLine := l }
        else s
      | none => s
    | [] => s

/-- An instruction that a fence, a branch or a full leaving table held back is carried out. mkcmo waits
for room in the leaving table. -/
def State.runHeldMem (s : State) (i : Instr) : State :=
  match i with
  | .load h rd pa size m spec stream err => s.loadBody h rd pa size m spec stream err
  | .store h pa size m v => s.storeBody h pa size m v
  | .amo h f rd pa size m op cmp aq rl =>
    s.amoBody h (.amo h f rd pa size m op cmp aq rl) f.code rd.val false pa size.bytes m op cmp aq rl
  | .amocasQ h rd rs2 pa m aq rl =>
    s.amoBody h (.amocasQ h rd rs2 pa m aq rl) 9 rd.val true pa 16 m
      ((s.hart h.num).w.pairVal rs2.val) ((s.hart h.num).w.pairVal rd.val) aq rl
  | .lr h rd pa size m aq rl => s.lrBody h rd pa size m aq rl
  | .sc h rd pa size m v aq rl => s.scBody h rd pa size m v aq rl
  | _ => s

/-! ### Custom CSRs (R102-R109) -/

/-- The checks of R103 on an access to a custom CSR, and of R102 on its number: the exception it raises.
A pocket, which runs at S and U, reaches mkdoor from S. DEDUCED (assumption 29). -/
def World.customCheck (w : World) (n : Nat) (write : Bool) : Option Nat :=
  let known := [csr_mkfeat, csr_mkpace, csr_mkctl, csr_mkhold, csr_mkcmo, csr_mkdoor, csr_skpocket,
    csr_ukpace, csr_ukfeat].contains n
  let level := if n = csr_mkdoor ∧ w.csrVal csr_skpocket ≠ 0 then 1
    else if n < 0x600 then 1 else if n < 0x800 then 3 else 0
  let gated := n == csr_skpocket || n == csr_ukpace || n == csr_ukfeat
  if !known then some causeIllegal
  else if w.priv < level ∨ (w.virt && level == 3) then some causeIllegal
  else if gated && decide (w.priv < 3) && !bit (w.csrVal 0x30C).toNat 0 then some causeIllegal
  else if w.virt && !bit (w.csrVal 0x60C).toNat 0 then some causeVirtual
  else if write && decide (0xCC0 ≤ n) then some causeIllegal
  else none

/-- A command of a hart that writes a custom CSR: in run-ahead it is skipped, else checked (R93, R103). -/
def State.onCsr (s : State) (h : HartId) (n : Nat) (f : State → State) : State :=
  s.onHart h fun s =>
    if s.inRunAhead h.num then s
    else match (s.hart h.num).w.customCheck n true with
      | some c => s.trap h.num c
      | none => f s

/-- A write of mkctl (R106): ATOM_MODE 3 clamps to 2; PRED_CLR clears the contention predictor. -/
def State.writeMkctl (s : State) (h : Nat) (v : Word) : State :=
  let old := s.csr h csr_mkctl
  let old := setBits old 14 2 (min 2 (bitsAt v 14 2))
  let new := setBits old 9 3 (bitsAt v 9 3)
  let s := s.setCsr h csr_mkctl new
  if bit v.toNat 13 then s.updHart h fun x => { x with pred := [] } else s

/-- PRED_CLR: a write of mkctl with PRED_CLR 1. -/
def predClrEff (h : HartId) (v : Word) (s : State) : State :=
  s.onCsr h csr_mkctl fun s => (s.writeMkctl h.num (v ||| 0x2000)).retire h.num

/-- The snoops a port has reported for an L2 line, and that wait or travel on the Hem, are served before
an operation on the line (R109). DESIGN CHOICE (assumption 26). -/
def State.serveSnoops (s : State) (h line : Nat) : State :=
  let port := portOf h line
  let same := fun v : WaitSnp => v.core == h % 32 && lineOf v.r.pa == line
  let s := if ((s.port port).waiting.any same) then s.endWindow h line else s
  let ws := (s.port port).hem.filter same
  let s := s.updPort port fun p => { p with hem := p.hem.filter fun v => !same v }
  ws.foldl (fun s v => s.runWait (port / 2) v) s

/-- LEVEL, SET and WAY of a write of mkcmo, clamped (R108). DESIGN CHOICE (assumption 26). -/
def cmoPlace (v : Word) : Nat × Nat × Nat :=
  let level := min 2 (bitsAt v 8 2)
  let (sets, ways) := match level with | 0 => (256, 4) | 1 => (128, 8) | _ => (2048, 16)
  (level, min (sets - 1) (bitsAt v 32 11), min (ways - 1) (bitsAt v 28 4))

/-- mkcmo as it stands after an operation. -/
def State.setCmo (s : State) (h level set way result : Nat) : State :=
  s.setCsr h csr_mkcmo
    (BitVec.ofNat 64 (result <<< 62 + set <<< 32 + way <<< 28 + level <<< 8))

/-- One maintenance operation on a hart's own caches (R108, R109, R152): 1 clean, 2 invalidate, 3 clean
and invalidate. `none` while the leaving table has no room. DESIGN CHOICE (assumption 26). -/
def State.mkcmo (s : State) (h : Nat) (v : Word) (op : Nat) : Option State :=
  let (level, set, way) := cmoPlace v
  let x := s.hart h
  let pk := x.pocket
  match level with
  | 0 =>
    let k := 4 * set + way
    let c := KMap.get ({} : CLine) x.l1i k
    let s := s.setCmo h level set way (if c.st == .I then 0 else 1)
    some (if op = 1 then s else s.updHart h fun x => { x with l1i := KMap.set {} k {} x.l1i })
  | 1 =>
    let k := 8 * set + way
    let c := KMap.get ({} : CLine) x.l1d k
    let s := s.setCmo h level set way (if c.st == .I then 0 else if c.dirty then 2 else 1)
    if c.st == .I then some s
    else
      let s := if op = 2 && c.pocket == pk then s else s.updHart h fun x => x.syncL2 c.line
      some (if op = 1 then s else s.updHart h fun x => { x with l1d := KMap.set {} k {} x.l1d })
  | _ =>
    let k := 16 * set + way
    let s := s.serveSnoops h (KMap.get ({} : CLine) x.l2 k).line
    let c := KMap.get ({} : CLine) ((s.hart h).syncL2 (KMap.get ({} : CLine) x.l2 k).line).l2 k
    let s := s.setCmo h level set way (if c.st == .I then 0 else if c.st == .M then 2 else 1)
    if c.st == .I then some s
    else if op = 1 then s.cleanL2 h c.line
    else if op = 2 && c.pocket == pk then some (s.updHart h fun x => x.dropL2 c.line)
    else if c.st == .M then s.evictL2 h c.line true
    else some (s.updHart h fun x => x.dropL2 c.line)

/-- A write of mkcmo: it retires once the operation has completed (R108). DESIGN CHOICE (assumption 26). -/
def State.mkcmoRun (s : State) (h : HartId) (v : Word) (op : Nat) (i : Instr) : State :=
  match s.mkcmo h.num v op with
  | some s => s.retire h.num
  | none => s.hold h.num i

def mkcmoCleanEff (h : HartId) (v : Word) (s : State) : State :=
  s.onCsr h csr_mkcmo fun s => s.mkcmoRun h v 1 (.mkcmoClean h v)
def mkcmoInvalidateEff (h : HartId) (v : Word) (s : State) : State :=
  s.onCsr h csr_mkcmo fun s => s.mkcmoRun h v 2 (.mkcmoInvalidate h v)
def mkcmoCleanInvalidateEff (h : HartId) (v : Word) (s : State) : State :=
  s.onCsr h csr_mkcmo fun s => s.mkcmoRun h v 3 (.mkcmoCleanInvalidate h v)

/-- An instruction held back is carried out. -/
def State.runHeld (s : State) (i : Instr) : State :=
  match i with
  | .mkcmoClean h v => s.mkcmoRun h v 1 i
  | .mkcmoInvalidate h v => s.mkcmoRun h v 2 i
  | .mkcmoCleanInvalidate h v => s.mkcmoRun h v 3 i
  | _ => s.runHeldMem i

/-- The instructions a hart holds back are carried out, in order; those still held stay. -/
def State.goHeld (s : State) (h : Nat) : State :=
  let ops := (s.hart h).heldOps
  ops.foldl State.runHeld (s.updHart h fun x => { x with heldOps := [] })

/-- FENCE_COMPLETE (R202): the fences whose conditions hold complete, and what they held goes on. -/
def fenceCompleteEff (h : HartId) (s : State) : State :=
  let n := h.num
  let s := s.pump n
  let x := s.hart n
  let left := x.fences.filter fun f => !x.fenceDone f
  if left.length = x.fences.length then s
  else
    let s := s.updHart n fun x => { x with fences := left }
    (if left.isEmpty then s.retire n else s).goHeld n

/-- An older branch or exception resolves (R98): a wrong path is discarded from its first load on; a load
that is safe now is an ordinary one. -/
def branchResolveEff (h : HartId) (pa : Addr) (right : Bool) (s : State) : State :=
  let n := h.num
  let s := if right then s.bump n 0x10 else (s.bump n 0x10).bump n 0x11
  let isSpec := fun e : Acc => e.spec && lineOf e.pa == lineOf pa
  if right then
    let s := s.updHart n fun x =>
      { x with acc := x.acc.map fun e => if isSpec e then { e with spec := false } else e }
    (s.goHeld n).pump n
  else
    match (s.hart n).acc.find? isSpec with
    | none => s.updHart n fun x => { x with heldOps := x.heldOps.filter fun i =>
        match i with | .load _ _ a .. => lineOf a != lineOf pa | _ => true }
    | some e => s.updHart n fun x =>
        { x with w := x.w.back e.snap, acc := x.acc.takeWhile fun a => a.id != e.id, heldOps := []
                 fences := x.fences.filter fun f => decide (f.at' ≤ e.issued)
                 io := x.io.filter fun i => decide (i.issued < e.issued) }

/-! ### mkdoor (R110-R112, R355, R358) -/

/-- POCKET and SLOT of mkdoor set; a POCKET of 0 clamps to 1. -/
def World.doorTarget (w : World) (pocket : Pocket) (slot : Nat) : World :=
  let v := setBits (w.csrVal csr_mkdoor) 44 12 (if pocket = 0 then 1 else pocket.toNat)
  w.setCsr csr_mkdoor (setBits v 32 8 slot)

/-- A write of mkdoor with its target; `f` goes on. -/
def State.onDoor (s : State) (h : HartId) (pocket : Pocket) (slot : BitVec 8) (f : State → State) : State :=
  s.onCsr h csr_mkdoor fun s => f (s.updHart h.num fun x => { x with w := x.w.doorTarget pocket slot.toNat })

/-- mkdoor completes at once with a STATUS. DESIGN CHOICE (assumption 27). -/
def State.doorDone (s : State) (h n : Nat) : State :=
  s.updHart h fun x => { x with w := (x.w.doorStatus n).retire }

/-- The hart posts its request to the Keeper and parks; the IOC deadline runs. DESIGN CHOICE (assumption 27). -/
def State.doorWait (s : State) (h op : Nat) : State := s.parkHart h (.door op (s.timer (h / 32) 2))

/-- OP 1, ENTER (R110). -/
def State.doorEnter (s : State) (h : Nat) : State :=
  if (s.hart h).pocket ≠ 0 ∨ !s.service then s.doorDone h 2 else s.doorWait h 1

/-- OP 2, EXIT (R110). -/
def State.doorExit (s : State) (h : Nat) : State :=
  if (s.hart h).pocket = 0 ∨ (s.hart h).host.isNone then s.doorDone h 2 else s.doorWait h 2

def enterEff (h : HartId) (pocket : Pocket) (slot : BitVec 8) (s : State) : State :=
  s.onDoor h pocket slot fun s => s.doorEnter h.num

def exitEff (h : HartId) (pocket : Pocket) (slot : BitVec 8) (s : State) : State :=
  s.onDoor h pocket slot fun s => s.doorExit h.num

def clearStatusEff (h : HartId) (pocket : Pocket) (slot : BitVec 8) (s : State) : State :=
  s.onDoor h pocket slot fun s => s.doorDone h.num 0

/-- The guest file of a hart that is assigned to a pocket (R355, R378). DESIGN CHOICE (assumption 12). -/
def State.guestFile (s : State) (h pocket : Nat) : Option Nat :=
  ((List.range 7).map (· + 1)).find? fun g =>
    s.fld (R.imsicOwner (8 * h + g)) F.imsicOwner_ENABLE == 1 &&
      s.fld (R.imsicOwner (8 * h + g)) F.imsicOwner_POCKET == pocket

/-- What the Keeper decides on an ENTER (R111): a hart not assigned is a violation; a pocket not armed or
a SLOT not defined is refused. -/
def State.entryVerdict (s : State) (h pocket slot : Nat) : EntryVerdict :=
  let p := s.pocket pocket
  if (s.guestFile h pocket).isNone then .violation
  else if s.armed pocket && decide (slot < p.slots) && !p.busy then .accepted
  else .refused

/-- The Keeper's answer reaches a hart that still waits (R111, R112); the switch follows the leaving
world's last outstanding access (R221). -/
def entryAnswerEff (h : HartId) (v : EntryVerdict) (s : State) : State :=
  let n := h.num
  let x := s.hart n
  match x.wait with
  | .door op _ =>
    if !x.acc.isEmpty || !x.io.isEmpty then s
    else
      let go := fun s : State => s.updHart n fun x => { x with mode := .run, wait := .none }
      let d := x.w.csrVal csr_mkdoor
      let pk := bitsAt d 44 12
      let slot := bitsAt d 32 8
      let verdict := if op = 1 then s.entryVerdict n pk slot else .accepted
      match verdict, v with
      | .violation, _ =>
        let s := s.err 18 1 2 (unitCode 0x12 0) 0 0 (violMisc pk 0 0 n 0x7FFF)
        (((go s).doorDone n 3)).wakeHart n
      | .refused, _ | .accepted, .refused | .accepted, .violation => ((go s).doorDone n 2).wakeHart n
      | .accepted, .accepted =>
        if op = 1 then (s.enterPocket n pk slot true).wakeHart n else (s.leavePocket n 1).wakeHart n
  | _ => s

/-- A pocket has run SLICE_US in this entry (R358, R363): a forced exit. -/
def sliceExpiryEff (h : HartId) (s : State) : State :=
  let n := h.num
  let us := s.cfg 0x100 0xFFFF 0xE 2 0
  if us = 0 ∨ !(s.hart n).hostEntered then s
  else ((s.advance ((s.hart n).entered + 1000 * us)).forceExit n).wakeHart n

def execFenceComplete (h : HartId) (s : State) : Host.Outcome State Fault Refusal :=
  .next (s.livePanel (h.num / 32) (fenceCompleteEff h s))
def execWfi (h : HartId) (s : State) : Host.Outcome State Fault Refusal :=
  .next (wfiEff h s)
def execInterruptPending (h : HartId) (irq : Fin 64) (s : State) : Host.Outcome State Fault Refusal :=
  .next (interruptPendingEff h irq s)
def execWfiTimeout (h : HartId) (s : State) : Host.Outcome State Fault Refusal :=
  .next (s.livePanel (h.num / 32) (wfiTimeoutEff h s))
def execPause (h : HartId) (s : State) : Host.Outcome State Fault Refusal :=
  .next (pauseEff h s)
def execPauseEnd (h : HartId) (s : State) : Host.Outcome State Fault Refusal :=
  .next (s.livePanel (h.num / 32) (pauseEndEff h s))
def execWrsNto (h : HartId) (s : State) : Host.Outcome State Fault Refusal :=
  .next (wrsNtoEff h s)
def execWrsSto (h : HartId) (s : State) : Host.Outcome State Fault Refusal :=
  .next (wrsStoEff h s)
def execWrsStoTimeout (h : HartId) (s : State) : Host.Outcome State Fault Refusal :=
  .next (s.livePanel (h.num / 32) (wrsStoTimeoutEff h s))
def execRunAheadEntry (h : HartId) (s : State) : Host.Outcome State Fault Refusal :=
  .next (runAheadEntryEff h s)
def execPredClr (h : HartId) (v : Word) (s : State) : Host.Outcome State Fault Refusal :=
  .next (predClrEff h v s)
def execMkcmoClean (h : HartId) (v : Word) (s : State) : Host.Outcome State Fault Refusal :=
  .next (mkcmoCleanEff h v s)
def execMkcmoInvalidate (h : HartId) (v : Word) (s : State) : Host.Outcome State Fault Refusal :=
  .next (mkcmoInvalidateEff h v s)
def execMkcmoCleanInvalidate (h : HartId) (v : Word) (s : State) : Host.Outcome State Fault Refusal :=
  .next (mkcmoCleanInvalidateEff h v s)
def execEnter (h : HartId) (pocket : Pocket) (slot : BitVec 8) (s : State) : Host.Outcome State Fault Refusal :=
  .next (enterEff h pocket slot s)
def execExit (h : HartId) (pocket : Pocket) (slot : BitVec 8) (s : State) : Host.Outcome State Fault Refusal :=
  .next (exitEff h pocket slot s)
def execClearStatus (h : HartId) (pocket : Pocket) (slot : BitVec 8) (s : State) : Host.Outcome State Fault Refusal :=
  .next (clearStatusEff h pocket slot s)
def execEntryAnswer (h : HartId) (v : EntryVerdict) (s : State) : Host.Outcome State Fault Refusal :=
  .next (s.livePanel (h.num / 32) (entryAnswerEff h v s))
def execSliceExpiry (h : HartId) (s : State) : Host.Outcome State Fault Refusal :=
  .next (sliceExpiryEff h s)
def execSleepEntry (h : HartId) (s : State) : Host.Outcome State Fault Refusal :=
  .next (s.livePanel (h.num / 32) (sleepEntryEff h s))
def execSleepExit (h : HartId) (s : State) : Host.Outcome State Fault Refusal :=
  .next (s.livePanel (h.num / 32) (sleepExitEff h s))
def execBranchResolve (h : HartId) (pa : Addr) (right : Bool) (s : State) : Host.Outcome State Fault Refusal :=
  .next (s.livePanel (h.num / 32) (branchResolveEff h pa right s))

end Sys2Proof.Machine
end

