-- ==== Sys2Proof/Machine/YokeOps.lean ====
section
/-! DEFINITION. Requests of the agents at the yoke (R176, R225, R236), and the entries the Keeper writes
into the worlds' reply rings (R347, R348). -/

namespace Sys2Proof.Machine

/-- SRC_KIND bit of an agent (R237). -/
def srcKind (a : Agent) : Nat :=
  match a with
  | .hart _ => 0
  | .bobbin .. => 3
  | .device .. => 4
  | .harness _ => 5
  | _ => 6

/-- An agent at the yoke sends a request under its own number. -/
def State.yokeSend (s : State) (r : YReq) : State :=
  let pk := s.agentPocket r.agent
  let e := agentEyelet r.agent r.pa.toNat
  let r := { r with eye := e, txid := s.io.nextTx % 4096 }
  let s := { s with io.reqs := s.io.reqs ++ [r], io.nextTx := s.io.nextTx + 1 }
  let dst := match regionOf r.pa.toNat with
    | .mmio k => 0xC0 + k
    | .ctl => ctlEyelet (r.pa.toNat % 2 ^ 32)
    | _ => s.homeEyelet r.pa.toNat
  let cls := classOf r.op
  s.send { op := r.op, src := BitVec.ofNat 8 e, dst := BitVec.ofNat 8 dst, txid := BitVec.ofNat 12 r.txid,
           pocket := BitVec.ofNat 12 pk, pa := r.pa, size := r.size, mod := r.mod, data := r.data, be := r.be,
           cmp := r.cmp, epoch := s.fld R.epoch F.epoch_CURRENT == 1
           prio := s.fabricPrio pk (srcKind r.agent) cls (if cls = 4 then 2 else 0) }

/-- A request of the yoke by its number. -/
def State.yokeReq (s : State) (eye txid : Nat) : Option YReq :=
  s.io.reqs.find? fun r => r.eye == eye && r.txid == txid

def State.updYoke (s : State) (eye txid : Nat) (f : YReq → YReq) : State :=
  { s with io.reqs := s.io.reqs.map fun r => if r.eye == eye && r.txid == txid then f r else r }

def State.dropYoke (s : State) (eye txid : Nat) : State :=
  { s with io.reqs := s.io.reqs.filter fun r => !(r.eye == eye && r.txid == txid) }

/-! ### Doors (R347-R349) -/

/-- The 64 bytes of a door entry (R349), as a number. -/
def DoorEnt.word (e : DoorEnt) : Nat :=
  e.code % 65536 + e.status <<< 16 + e.reason <<< 24 + e.seq % 2 ^ 32 <<< 32 + e.peer % 4096 <<< 64 +
    le e.args 0 48 <<< 128

/-- The door of a world is RUNNING. -/
def State.doorRuns (s : State) (w : Nat) : Bool := s.fld (R.doorCtl w) F.doorCtl_STATE == 1

/-- A ring access that fails the Welt check halts the door (R347). -/
def State.haltDoor (s : State) (w : Nat) : State := s.setF (R.doorCtl w) F.doorCtl_STATE 2

/-- Used entries of a reply ring. -/
def State.ringUsed (s : State) (w : Nat) : Nat :=
  (s.fld (R.doorPtr w) F.doorPtr_RPL_TAIL + 64 - s.fld (R.doorPtr w) F.doorPtr_RPL_HEAD) % 64

/-- Entries for a world that wait for its reply ring. -/
def State.heldFor (s : State) (w : Nat) : List DoorEnt := s.pock.held.filter fun e => e.world == w

/-- The Keeper writes a world's next reply or notice, one at a time, while the ring has a free entry: the
write goes to the ring's memory under the world's pocket. DESIGN CHOICE (assumption 75). -/
def State.doorPump (s : State) (w : Nat) : State :=
  match s.heldFor w with
  | [] => s
  | e :: _ =>
    if !s.doorRuns w || s.ringUsed w == 63 || s.io.reqs.any (fun r => r.kind == 6 && r.sub == w) then s
    else
      let pa := s.fld (R.doorCtl w) F.doorCtl_BASE * 4096 + 0x1000 + 64 * s.fld (R.doorPtr w) F.doorPtr_RPL_TAIL
      match s.welt false w pa true with
      | .pass => s.yokeSend { agent := .keeper, eye := 0xCA, txid := 0, op := 0x09, pa := BitVec.ofNat 56 pa, size := 64,
                              kind := 6, sub := w, data := BitVec.ofNat 512 e.word, be := BitVec.allOnes 64,
                              needData := false }
      | .viol reason => (s.violation 0 0xCA pa w 0x09 reason 0).haltDoor w
      | _ => s.haltDoor w

/-- A reply or notice is posted to a world (R348). -/
def State.doorPost (s : State) (e : DoorEnt) : State :=
  { s with pock.held := s.pock.held ++ [e] }.doorPump e.world

/-- The entry is in the ring: the tail advances and the door's MSI is sent. -/
def State.doorWritten (s : State) (w : Nat) (r : Resp) : State :=
  if r ≠ .ok then s.haltDoor w
  else
    let p := R.doorPtr w
    let s := s.setF p F.doorPtr_RPL_TAIL ((s.fld p F.doorPtr_RPL_TAIL + 1) % 64)
    let s := match s.heldFor w with
      | e :: _ => { s with pock.held := s.pock.held.eraseP (·.world == w), pock.sent := e :: s.pock.sent }
      | [] => s
    let s := s.sendMsi (s.fld (R.doorMsiAddr w) F.doorMsiAddr_ADDR * 4) (s.fld (R.doorMsiData w) F.doorMsiData_DATA)
    s.doorPump w

end Sys2Proof.Machine
end

