-- ==== Sys2Proof/Machine/HartIo.lean ====
section
/-! DEFINITION. The end of a hart's I/O-type and Harness-window accesses: answers, imprecise store errors,
expiry, and the interrupt files (R207-R214, R359, R377). -/

namespace Sys2Proof.Machine

/-! ### Interrupt files (R359, R377) -/

/-- A hart's logical core exists in the part (R114). -/
def State.hartPresent (s : State) (h : Nat) : Bool :=
  decide (h / 32 < 12) && decide (h % 32 < 20) && s.fld (R.hartEn (h / 32)) F.hartEn_PANEL_EN == 1 &&
    bit (s.fld (R.hartEn (h / 32)) F.hartEn_CORE_EN) (h % 32)

/-- An interrupt file has a pending and enabled identity below its threshold. -/
def FileSt.signals (f : FileSt) : Bool :=
  f.dlv == 1 && (List.range 256).any fun i =>
    i != 0 && (f.thr == 0 || decide (i < f.thr)) && f.eip.getLsbD i && f.eie.getLsbD i

/-- The external interrupt that file `f` of a hart signals becomes pending (R377, the AIA): M and S files in
the host world; a guest file in its pocket while it runs there, else as a guest external interrupt. -/
def State.fileSignal (s : State) (h f : Nat) : State :=
  if !(KMap.get ({} : FileSt) s.files (16 * h + f)).signals then s
  else if f = 0 then s.intPend h true 11
  else if f = 1 then s.intPend h true 9
  else
    let g := f - 1
    let x := s.hart h
    let owner := s.fld (R.imsicOwner (8 * h + g)) F.imsicOwner_POCKET
    if owner = 0 then
      let world := fun (x : HartSt) => match x.host with | some w => w | none => x.w
      let w := world x
      let v := w.setCsr 0xE12 (setBits (w.csrVal 0xE12) g 1 1)
      let s := s.updHart h fun x => match x.host with
        | some _ => { x with host := some v }
        | none => { x with w := v }
      let s := if bit (v.csrVal 0x607).toNat g then s.intPend h true 12 else s
      if bitsAt (v.csrVal 0x600) 12 6 = g then s.intPend h true 10 else s
    else if x.pocket.toNat = owner then s.intPend h false 9
    else if (s.harts.any fun e => e.2.pocket.toNat == owner) || (KMap.get 0 x.wakeSent g) = 1 then s
    else
      let s := s.updHart h fun x => { x with wakeSent := KMap.set 0 g 1 x.wakeSent }
      s.doorPost { world := 0, code := 0x84, peer := owner,
                   args := (List.range 4).map fun i => BitVec.ofNat 8 (h >>> (8 * i)) }

/-- An MSI reaches an interrupt file (R377): its identity becomes pending. PRESUMED (assumption 90). -/
def State.fileMsi (s : State) (h f n : Nat) : State :=
  if n = 0 ∨ 256 ≤ n then s
  else
    let k := 16 * h + f
    let x := KMap.get ({} : FileSt) s.files k
    let s := { s with files := KMap.set {} k { x with eip := x.eip ||| BitVec.ofNat 256 (2 ^ n) } s.files }
    s.fileSignal h f

/-! ### Imprecise store errors (R213) -/

/-- Stores of a hart end with a response other than OK: `i` the oldest, `count` of them. -/
def State.imprecise (s : State) (h : Nat) (i : IoAcc) (r : Resp) (count : Nat) : State :=
  let pk := (s.hart h).pocket.toNat
  let p := h / 32
  let u := unitCode 0x0A h
  let a := i.pa.toNat
  let src := portEyelet (portOf h (lineOf i.pa))
  let tx := h % 32 * 128 + i.issued % 128
  let s := match r with
    | .late => s.err p 1 3 u 1 a (dlMisc i.t.cls pk tx i.dst (s.tape - i.t.due))
    | .viol => s.err p 1 2 u 1 a (violMisc pk tx src h 0x7FFF)
    | .node => s.err p 1 4 u 1 a (linkMisc 5 0 0)
    | r => s.err p 1 5 u 1 a (protoMisc 9 (respCode r))
  let info := R.iseInfo p (h % 32)
  let s := if s.fld info F.iseInfo_VALID = 1 then s.setF info F.iseInfo_OVERFLOW 1
    else
      let s := (s.setF info F.iseInfo_VALID 1).setF info F.iseInfo_RESP (respCode r)
      let s := (s.setF info F.iseInfo_COUNT (min 255 count)).setF info F.iseInfo_POCKET pk
      s.setF (R.iseAddr p (h % 32)) F.iseAddr_ADDR a
  s.intPend h false 24

/-- A unit discards an answer whose access has already ended (R51). -/
def State.lateAnswer (s : State) (bank : Nat) : State :=
  { s with clk.late := KMap.upd 0 bank (· + 1) s.clk.late }

/-- An answer packet to a hart's port. -/
def isIoAnswer (h : Nat) (op : BitVec 8) (p : Pkt) : Bool :=
  p.op == op && panelOfEyelet p.dst.toNat == some (h / 32) && p.txid.toNat / 128 == h % 32

/-- An answer packet has arrived at a hart's port. -/
def State.arriveIo (s : State) (h : Nat) (op : BitVec 8) : State := s.arrive (isIoAnswer h op)

/-- The access that the hart's next answer packet belongs to: by its number, the oldest of that number. -/
def State.ioAnswered (s : State) (h : Nat) (op : BitVec 8) (isLoad : Bool) : Option IoAcc :=
  let tag := (s.net.find? (isIoAnswer h op)).map fun p => p.txid.toNat % 128
  (s.hart h).io.find? fun i => i.sent && i.isLoad == isLoad && (tag == none || tag == some (i.issued % 128))

/-- Destination node of a window address (R313). -/
def windowNode (pa : Nat) : Nat := pa / 2 ^ 40 % 2 ^ 15

/-- Window stores to one node end with the oldest of them that ends LATE or NODE (R313). DEDUCED (assumption 102). -/
def windowEnds (i : IoAcc) (r : Resp) (j : IoAcc) : Bool :=
  i.window && (r == .late || r == .node) && j.window && j.sent && !j.isLoad && decide (i.issued ≤ j.issued) &&
    windowNode j.pa.toNat == windowNode i.pa.toNat

/-- IO_ACK at a hart (R208, R213): a sent store completes, the younger window stores of R313 with it. -/
def State.ioAckAt (s : State) (h : Nat) (r : Resp) : State :=
  let it := s.ioAnswered h 0x26 false
  let s := s.arriveIo h 0x26
  match it with
  | none => s.lateAnswer (h / 32)
  | some i =>
    let io := (s.hart h).io.erase i
    let s := s.updHart h fun x => { x with io := io.filter fun j => !windowEnds i r j }
    let s := if r == .ok then s else s.imprecise h i r (1 + (io.filter (windowEnds i r)).length)
    s.pump h

/-- The precise fault of an I/O-type or window load (R87, R210): its younger instructions are cancelled. Past the
first element of a fault-only-first load it cuts vl down instead (R124). -/
def State.ioLoadFault (s : State) (h : Nat) (i : IoAcc) : State :=
  if i.rd = 192 then ({ s with dbg.abs := none, dbg.cmderr := 5 } : State).updHart h fun x => { x with io := x.io.erase i }
  else if i.first then
    (s.updHart h fun x =>
      { x with w := (x.w.setCsr 0xC20 (i.snap.csrVal 0x008)).dirty 9
               io := x.io.filter fun j => !(j.first && j.issued == i.issued && decide (i.snap.csrVal 0x008 ≤ j.snap.csrVal 0x008)) }).pump h
  else
  let s := s.updHart h fun x =>
    { x with w := x.w.back i.snap, fences := [], heldOps := [], acc := x.acc.filter fun a => decide (a.issued < i.issued)
             io := x.io.filter fun a => decide (a.issued < i.issued) }
  s.trap h (if i.func.isSome then causeStoreAccess else causeLoadAccess) (BitVec.ofNat 64 i.pa.toNat)

/-- IO_DATA at a hart (R208): its oldest sent load completes, or faults precisely. -/
def State.ioDataAt (s : State) (h : Nat) (v : BitVec 128) (r : Resp) : State :=
  let it := s.ioAnswered h 0x34 true
  let s := s.arriveIo h 0x34
  match it with
  | none => s.lateAnswer (h / 32)
  | some i =>
    if r ≠ .ok then
      let s := if r == .poison then s.hartPoison h (if i.rd = 192 then 6 else if i.func.isSome then 2 else 1) i.pa.toNat else s
      s.ioLoadFault h i
    else
      let s := s.updHart h fun x =>
        { x with io := x.io.erase i
                 w := x.w.setResult (i.func.isSome && i.size == 16) i.rd i.size i.func.isSome v.toNat }
      let s := s.updHart h fun x => x.shareResult i.issued (i.func.isSome && i.size == 16) i.rd i.size
      (s.pump h).pollInt h

/-- The record of an IOC deadline at a hart (R54). -/
def State.iocRecord (s : State) (h pa dst tx : Nat) (t : Timer) : State :=
  s.err (h / 32) 1 3 (unitCode 0x0A h) (if pa = 0 then 0 else 1) pa
    (dlMisc 2 (s.hart h).pocket.toNat tx dst (s.tape - t.due))

/-- The oldest I/O-type load of a hart reaches its deadline (R210). -/
def State.iocLoad (s : State) (h : Nat) : State :=
  match (s.hart h).io.find? fun i => i.sent && i.isLoad && !i.window with
  | none => s
  | some i =>
    let s := s.advance i.t.due
    (s.iocRecord h i.pa.toNat i.dst (h % 32 * 128 + i.issued % 128) i.t).ioLoadFault h i

/-- The oldest I/O-type store of a hart reaches its deadline: every outstanding store ends LATE with it, and
an abandon notice is sent (R210, R211). -/
def State.iocStore (s : State) (h : Nat) : State :=
  match (s.hart h).io.find? fun i => i.sent && !i.isLoad && !i.window with
  | none => s
  | some i =>
    let s := s.advance i.t.due
    let ended := fun j : IoAcc => j.sent && !j.isLoad && !j.window && j.dst == i.dst
    let n := ((s.hart h).io.filter ended).length
    let s := s.updHart h fun x => { x with io := x.io.filter fun j => !ended j }
    let s := s.imprecise h i .late n
    let p := s.portPkt h 0x56 i.pa i.issued (s.hart h).pocket
    (s.send { p with dst := BitVec.ofNat 8 i.dst, prio := 3 }).pump h

/-- The wait of an ENTER or EXIT reaches its deadline (R112). -/
def State.iocDoor (s : State) (h : Nat) : State :=
  match (s.hart h).wait with
  | .door _ t =>
    let s := s.advance t.due
    let s := s.iocRecord h 0 0xCA 0 t
    let s := s.updHart h fun x => { x with mode := .run, wait := .none }
    (s.doorDone h 4).wakeHart h
  | _ => s

end Sys2Proof.Machine
end

