-- ==== Sys2Proof/Machine/CohCmds.lean ====
section
/-! DEFINITION. The coherence commands: requests at the home, snoops, laps, reports, writebacks, token
and fill events (R164-R193). GRANT and DATA stand in Replies.lean, since an agent at the yoke may take
them. -/

namespace Sys2Proof.Machine

/-- The packet of a request as its home receives it. -/
def hdrPkt (h : SliceId) (r : Hdr) (op : BitVec 8) : Pkt :=
  { op := op, src := r.src, dst := BitVec.ofNat 8 h.eyelet, txid := r.txid, pocket := r.pocket, pa := r.pa,
    nc := r.nc, commit := r.commit && op != 0x02, epoch := r.epoch, mod := if r.stream then 0x80 else 0 }

/-- RD_S reaches its home (R166, R174). -/
def rdSEff (h : SliceId) (r : Hdr) (s : State) : State := s.request h.num (hdrPkt h r 0x01) r.crcOk
/-- RD_SP reaches its home (R166, R174). -/
def rdSpEff (h : SliceId) (r : Hdr) (s : State) : State := s.request h.num (hdrPkt h r 0x02) r.crcOk
/-- RD_O reaches its home (R166, R174). -/
def rdOEff (h : SliceId) (r : Hdr) (s : State) : State := s.request h.num (hdrPkt h r 0x03) r.crcOk
/-- UPG reaches its home (R166, R174). -/
def upgEff (h : SliceId) (r : Hdr) (s : State) : State := s.request h.num (hdrPkt h r 0x04) r.crcOk
/-- RD_C reaches its home (R166, R174). -/
def rdCEff (h : SliceId) (r : Hdr) (s : State) : State := s.request h.num (hdrPkt h r 0x08) r.crcOk
/-- ZERO reaches its home (R166, R174). -/
def zeroEff (h : SliceId) (r : Hdr) (s : State) : State := s.request h.num (hdrPkt h r 0x0A) r.crcOk
/-- CLN reaches its home (R166, R174). -/
def clnEff (h : SliceId) (r : Hdr) (s : State) : State := s.request h.num (hdrPkt h r 0x0B) r.crcOk
/-- FLS reaches its home (R166, R174). -/
def flsEff (h : SliceId) (r : Hdr) (s : State) : State := s.request h.num (hdrPkt h r 0x0C) r.crcOk
/-- INV reaches its home (R166, R174). -/
def invEff (h : SliceId) (r : Hdr) (s : State) : State := s.request h.num (hdrPkt h r 0x0D) r.crcOk
/-- ATOM reaches its home with FUNC, WIDTH and operands (R183, R185). -/
def atomEff (h : SliceId) (r : Hdr) (f : AmoFunc) (size : Size) (op cmp : BitVec 128) (s : State) : State :=
  let off := r.pa.toNat % 64
  s.request h.num { hdrPkt h r 0x05 with
    size := size.bytes, mod := BitVec.ofNat 8 (16 * f.code + 2 * size.code),
    data := placeAt (op.toNat % 2 ^ (8 * size.bytes)) off, be := beOf off size.bytes, cmp := cmp } r.crcOk
/-- RD_NC reaches the home; `rsv`: load-reserved (R101, R174). -/
def rdNcEff (h : SliceId) (r : Hdr) (size : Size) (rsv : Bool) (s : State) : State :=
  s.request h.num { hdrPkt h r 0x06 with size := size.bytes, mod := if rsv then 0x80 else 0 } r.crcOk
/-- WR_NC reaches the home; `cond`: store-conditional (R101, R174). -/
def wrNcEff (h : SliceId) (r : Hdr) (data : LineData) (be : Word) (cond : Bool) (s : State) : State :=
  s.request h.num { hdrPkt h r 0x07 with data := data, be := be, mod := if cond then 0x80 else 0 } r.crcOk
/-- WR_C reaches the home (R162, R174). -/
def wrCEff (h : SliceId) (r : Hdr) (data : LineData) (be : Word) (s : State) : State :=
  s.request h.num { hdrPkt h r 0x09 with data := data, be := be } r.crcOk

/-- SNP_S, SNP_I, SNP_C reach a port (R177, R181). -/
def snpSEff (p : PortId) (h : SliceId) (r : Hdr) (reqOp : BitVec 8) (byHome keep : Bool) (lap : Word)
    (s : State) : State := s.snoopAt p.num h.num r 0x10 reqOp byHome keep false lap
def snpIEff (p : PortId) (h : SliceId) (r : Hdr) (reqOp : BitVec 8) (byHome full : Bool) (lap : Word)
    (s : State) : State := s.snoopAt p.num h.num r 0x11 reqOp byHome false full lap
def snpCEff (p : PortId) (h : SliceId) (r : Hdr) (reqOp : BitVec 8) (lap : Word) (s : State) : State :=
  s.snoopAt p.num h.num r 0x12 reqOp false false false lap
def holderSnoopEff (c : HartId) (h : SliceId) (r : Hdr) (snp reqOp : BitVec 8) (byHome keep full : Bool)
    (err : CacheErr) (s : State) : State := s.snoopHolder c.num h.num r snp reqOp byHome keep full err
/-- HOLD_WINDOW_END (R178): the hart's stitches have run to the end of the window. -/
def holdWindowEndEff (c : HartId) (pa : Addr) (s : State) : State :=
  let l := (s.hart c.num).l2Line (lineOf pa)
  if l.held then
    (s.updHart c.num fun x => { x with stitch := max x.stitch l.holdEnd }).endWindow c.num (lineOf pa)
  else s
def lapReturnEff (h : SliceId) (pa : Addr) (lap : Word) (s : State) : State := s.lapBack h.num (lineOf pa) lap

def wbAckEff (p : PortId) (pa : Addr) (s : State) : State := s.wbAckAt p.num (lineOf pa)
def compEff (h : SliceId) (pa : Addr) (src : BitVec 8) (txid : BitVec 12) (s : State) : State :=
  s.compReport h.num (lineOf pa) src txid
def fwdDoneEff (h : SliceId) (pa : Addr) (k : FwdKind) (dirty : Bool) (panel : Panel) (s : State) : State :=
  s.fwdReport h.num (lineOf pa) panel.val k dirty
def invDoneEff (h : SliceId) (pa : Addr) (panel : Panel) (s : State) : State :=
  s.invReport h.num (lineOf pa) panel.val
def upgFailEff (c : HartId) (pa : Addr) (s : State) : State := s.upgFailAt c.num (lineOf pa)
def nodataEff (c : HartId) (pa : Addr) (s : State) : State := s.nodataAt c.num (lineOf pa)
def wbEff (h : SliceId) (p : PortId) (pa : Addr) (pocket : Pocket) (d : LineData) (poison : BitVec 4)
    (sentTape : Nat) (s : State) : State := s.wbAtHome h.num p.num (lineOf pa) pocket d poison sentTape
/-- EV (R188). An EV carries the tag of the line it reports (R145). -/
def evEff (h : SliceId) (p : PortId) (pa : Addr) (_pocket : Pocket) (sentTape : Nat) (s : State) : State :=
  s.evAtHome h.num p.num (lineOf pa) sentTape
def dirtyEff (h : SliceId) (pa : Addr) (d : LineData) (poison : BitVec 4) (s : State) : State :=
  s.dirtyAtHome h.num (lineOf pa) d poison
def tokenExpiryEff (h : SliceId) (pa : Addr) (panel : Panel) (s : State) : State :=
  s.expireToken h.num (lineOf pa) panel.val
def homeExpiryEff (h : SliceId) (pa : Addr) (src : BitVec 8) (txid : BitVec 12) (s : State) : State :=
  s.expireHome h.num pa src txid
def fillResumeEff (h : HartId) (pa : Addr) (s : State) : State := s.resumeFill h.num (lineOf pa)
/-- LEAVING_TABLE_ACCEPT (R186): the instructions that waited for an entry go on as well. -/
def leavingTableAcceptEff (p : PortId) (s : State) : State :=
  (List.range 20).foldl (fun s c => s.goHeld (hartNum p.panel.val c)) (s.acceptWaiting p.num)

def execHomeExpiry (h : SliceId) (pa : Addr) (src : BitVec 8) (txid : BitVec 12) (s : State) : Host.Outcome State Fault Refusal :=
  .next (homeExpiryEff h pa src txid s)
def execFillResume (h : HartId) (pa : Addr) (s : State) : Host.Outcome State Fault Refusal :=
  .next (s.livePanel (h.num / 32) (fillResumeEff h pa s))
def execLeavingTableAccept (p : PortId) (s : State) : Host.Outcome State Fault Refusal :=
  .next (s.livePanel (p.panel.val) (leavingTableAcceptEff p s))
def execRdS (h : SliceId) (r : Hdr) (s : State) : Host.Outcome State Fault Refusal :=
  .next (s.live (rdSEff h r s))
def execRdSp (h : SliceId) (r : Hdr) (s : State) : Host.Outcome State Fault Refusal :=
  .next (s.live (rdSpEff h r s))
def execRdO (h : SliceId) (r : Hdr) (s : State) : Host.Outcome State Fault Refusal :=
  .next (s.live (rdOEff h r s))
def execUpg (h : SliceId) (r : Hdr) (s : State) : Host.Outcome State Fault Refusal :=
  .next (s.live (upgEff h r s))
def execAtom (h : SliceId) (r : Hdr) (f : AmoFunc) (size : Size) (op cmp : BitVec 128) (s : State) : Host.Outcome State Fault Refusal :=
  .next (s.live (atomEff h r f size op cmp s))
def execRdNc (h : SliceId) (r : Hdr) (size : Size) (rsv : Bool) (s : State) : Host.Outcome State Fault Refusal :=
  .next (s.live (rdNcEff h r size rsv s))
def execWrNc (h : SliceId) (r : Hdr) (data : LineData) (be : Word) (cond : Bool) (s : State) : Host.Outcome State Fault Refusal :=
  .next (s.live (wrNcEff h r data be cond s))
def execRdC (h : SliceId) (r : Hdr) (s : State) : Host.Outcome State Fault Refusal :=
  .next (s.live (rdCEff h r s))
def execWrC (h : SliceId) (r : Hdr) (data : LineData) (be : Word) (s : State) : Host.Outcome State Fault Refusal :=
  .next (s.live (wrCEff h r data be s))
def execZero (h : SliceId) (r : Hdr) (s : State) : Host.Outcome State Fault Refusal :=
  .next (s.live (zeroEff h r s))
def execCln (h : SliceId) (r : Hdr) (s : State) : Host.Outcome State Fault Refusal :=
  .next (s.live (clnEff h r s))
def execFls (h : SliceId) (r : Hdr) (s : State) : Host.Outcome State Fault Refusal :=
  .next (s.live (flsEff h r s))
def execInv (h : SliceId) (r : Hdr) (s : State) : Host.Outcome State Fault Refusal :=
  .next (s.live (invEff h r s))
def execSnpS (p : PortId) (h : SliceId) (r : Hdr) (reqOp : BitVec 8) (byHome keep : Bool) (lap : Word) (s : State) : Host.Outcome State Fault Refusal :=
  .next (s.livePanel (p.panel.val) (snpSEff p h r reqOp byHome keep lap s))
def execSnpI (p : PortId) (h : SliceId) (r : Hdr) (reqOp : BitVec 8) (byHome full : Bool) (lap : Word) (s : State) : Host.Outcome State Fault Refusal :=
  .next (s.livePanel (p.panel.val) (snpIEff p h r reqOp byHome full lap s))
def execSnpC (p : PortId) (h : SliceId) (r : Hdr) (reqOp : BitVec 8) (lap : Word) (s : State) : Host.Outcome State Fault Refusal :=
  .next (s.livePanel (p.panel.val) (snpCEff p h r reqOp lap s))
def execHolderSnoop (c : HartId) (h : SliceId) (r : Hdr) (snp reqOp : BitVec 8) (byHome keep full : Bool) (err : CacheErr) (s : State) : Host.Outcome State Fault Refusal :=
  .next (s.livePanel (c.num / 32) (holderSnoopEff c h r snp reqOp byHome keep full err s))
def execHoldWindowEnd (c : HartId) (pa : Addr) (s : State) : Host.Outcome State Fault Refusal :=
  .next (s.livePanel (c.num / 32) (holdWindowEndEff c pa s))
def execLapReturn (h : SliceId) (pa : Addr) (lap : Word) (s : State) : Host.Outcome State Fault Refusal :=
  .next (s.live (lapReturnEff h pa lap s))
def execWbAck (p : PortId) (pa : Addr) (s : State) : Host.Outcome State Fault Refusal :=
  .next (s.livePanel (p.panel.val) (wbAckEff p pa s))
def execComp (h : SliceId) (pa : Addr) (src : BitVec 8) (txid : BitVec 12) (s : State) : Host.Outcome State Fault Refusal :=
  .next (s.live (compEff h pa src txid s))
def execFwdDone (h : SliceId) (pa : Addr) (k : FwdKind) (dirty : Bool) (panel : Panel) (s : State) : Host.Outcome State Fault Refusal :=
  .next (s.live (fwdDoneEff h pa k dirty panel s))
def execInvDone (h : SliceId) (pa : Addr) (panel : Panel) (s : State) : Host.Outcome State Fault Refusal :=
  .next (s.live (invDoneEff h pa panel s))
def execUpgFail (c : HartId) (pa : Addr) (s : State) : Host.Outcome State Fault Refusal :=
  .next (s.livePanel (c.num / 32) (upgFailEff c pa s))
def execNodata (c : HartId) (pa : Addr) (s : State) : Host.Outcome State Fault Refusal :=
  .next (s.livePanel (c.num / 32) (nodataEff c pa s))
def execWb (h : SliceId) (p : PortId) (pa : Addr) (pocket : Pocket) (d : LineData) (poison : BitVec 4) (sentTape : Nat) (s : State) : Host.Outcome State Fault Refusal :=
  .next (s.live (wbEff h p pa pocket d poison sentTape s))
def execEv (h : SliceId) (p : PortId) (pa : Addr) (pocket : Pocket) (sentTape : Nat) (s : State) : Host.Outcome State Fault Refusal :=
  .next (s.live (evEff h p pa pocket sentTape s))
def execDirty (h : SliceId) (pa : Addr) (d : LineData) (poison : BitVec 4) (s : State) : Host.Outcome State Fault Refusal :=
  .next (s.live (dirtyEff h pa d poison s))
def execTokenExpiry (h : SliceId) (pa : Addr) (panel : Panel) (s : State) : Host.Outcome State Fault Refusal :=
  .next (tokenExpiryEff h pa panel s)

end Sys2Proof.Machine
end

