-- ==== Sys2Proof/Machine/CacheMaint.lean ====
section
/-! DEFINITION. Maintenance of the LLC by set and way, the range engine's registers, way alterations and
lock-fills (R148-R159, R163). -/

namespace Sys2Proof.Machine

/-- SLC_SW_CMD of a slice shows what its last operation met. -/
def State.swResult (s : State) (k set way : Nat) (e : LEntry) (op : Nat) : State :=
  let r := R.slcSwCmd (k / 24) (k % 24)
  let res := match e.st with | .invalid => 0 | .dirty => 2 | _ => 1
  let s := s.setF r F.slcSwCmd_RESULT res
  let s := s.setF r F.slcSwCmd_LOCKED (if s.wayLocked k way then 1 else 0)
  let s := s.setF r F.slcSwCmd_SET set
  let s := s.setF r F.slcSwCmd_WAY way
  let _ := op
  s

/-- An LLC entry by set and way: 1 clean, 2 invalidate, 3 clean and invalidate (R148, R149, R152). A
write to a fenced controller leaves the entry DIRTY (R485). -/
def State.slcOp (s : State) (k set way op pk : Nat) : State :=
  let key := 16 * set + way
  let e := KMap.get ({} : LEntry) (s.slice k).ent key
  let s := s.swResult k set way e op
  if e.st == .invalid then s
  else
    let write := e.st == .dirty && (op != 2 || e.pocket.toNat != pk)
    let (s, ok) := if write then s.homeWrite (k / 24) e.line e.data beAll e.poison else (s, true)
    if !ok then s
    else if op = 1 then
      let clean := fun e : LEntry => if e.st == .dirty then { e with st := .clean } else e
      s.updSlice k fun x => { x with ent := KMap.upd {} key clean x.ent }
    else s.updSlice k fun x => { x with ent := KMap.set {} key {} x.ent }

def slcCleanEff (h : SliceId) (set : Fin 4096) (way : Fin 16) (s : State) : State :=
  s.slcOp h.num set.val way.val 1 0
def slcInvalidateEff (a : Agent) (h : SliceId) (set : Fin 4096) (way : Fin 16) (s : State) : State :=
  s.ctlGuard a (R.slcSwCmd h.sd.val h.k.val).addr fun s =>
    (s.slcOp h.num set.val way.val 2 (s.agentPocket a), .ok)
def slcCleanInvalidateEff (h : SliceId) (set : Fin 4096) (way : Fin 16) (s : State) : State :=
  s.slcOp h.num set.val way.val 3 0

/-! ### The range engine -/

/-- A write of RANGE_CTL with GO (R153, R155). `pk`: the pocket of the writing request. DEDUCED (assumption 39). -/
def State.startRange (s : State) (sd op pk : Nat) (irqEn : Bool) : State :=
  let ctl := R.rangeCtl sd
  if s.fld ctl F.rangeCtl_STATUS = 1 then s
  else
    let lo := s.fld (R.rangeBase sd) F.rangeBase_LINE
    let hi := max lo (s.fld (R.rangeLimit sd) F.rangeLimit_LINE)
    let s := s.setF (R.rangeLimit sd) F.rangeLimit_LINE hi
    let s := s.setF ctl F.rangeCtl_OP op
    let s := s.setF ctl F.rangeCtl_IRQ_EN (if irqEn then 1 else 0)
    let s := s.setF ctl F.rangeCtl_POCKET pk
    let s := s.setF ctl F.rangeCtl_STATUS 1
    let s := ((s.wr (R.rangeSum0 sd) 0).wr (R.rangeSum1 sd) 0).wr (R.rangeViol sd) 0
    let s := s.wr (R.rangeTapeStart sd) (BitVec.ofNat 64 s.tape)
    let s := s.setSource (1 + sd) false
    let s := { s with range := KMap.set {} sd { next := lo } s.range }
    s.rangeGoOn sd

/-- ABORT (R154): the engine stops once its transactions in flight have completed. -/
def State.abortRange (s : State) (sd : Nat) : State :=
  if s.fld (R.rangeCtl sd) F.rangeCtl_STATUS = 1 then
    { s with range := KMap.upd {} sd (fun r => { r with stop := if r.stop = 0 then 1 else r.stop }) s.range }
  else s

def rangeGoEff (a : Agent) (sd : Saddle) (op : BitVec 2) (irqEn : Bool) (s : State) : State :=
  s.ctlGuard a (R.rangeCtl sd.val).addr fun s =>
    (s.startRange sd.val op.toNat (s.agentPocket a) irqEn, .ok)
def rangeAbortEff (a : Agent) (sd : Saddle) (s : State) : State :=
  s.ctlGuard a (R.rangeCtl sd.val).addr fun s => (s.abortRange sd.val, .ok)

/-- The engine ends (R154): DONE, ABORTED or VIOL, TAPE_END, its interrupt. -/
def rangeDoneEff (sd : Saddle) (s : State) : State :=
  let ctl := R.rangeCtl sd.val
  if s.fld ctl F.rangeCtl_STATUS ≠ 1 then s
  else
    let s := s.rangeGoOn sd.val
    let r := KMap.get ({} : RangeSt) s.range sd.val
    if r.flight ≠ 0 ∨ (r.stop = 0 ∧ r.next ≤ s.fld (R.rangeLimit sd.val) F.rangeLimit_LINE) then s
    else
      let s := s.setF ctl F.rangeCtl_STATUS (match r.stop with | 0 => 2 | 1 => 3 | _ => 4)
      let s := s.wr (R.rangeTapeEnd sd.val) (BitVec.ofNat 64 s.tape)
      let s := { s with range := KMap.set {} sd.val {} s.range }
      if s.fld ctl F.rangeCtl_IRQ_EN = 1 then s.setSource (1 + sd.val) true else s

/-! ### Way classes, locks and power (R156-R158) -/

/-- LLC_WAYS in force for a saddle: class masks, lock and power-down masks of a slice. -/
def State.waysMask (s : State) (sd c : Nat) : Nat := s.cfg 0x50 sd (8 + 2 * c) 2 0xFFFF
def State.waysLock (s : State) (sd k : Nat) : Nat := s.cfg 0x50 sd (0x28 + 2 * k) 2 0
/-- A power-down bit of a locked way clamps to 0 (R158). -/
def State.waysOff (s : State) (sd k : Nat) : Nat :=
  ofBits ((List.range 16).filter fun w =>
    bit (s.cfg 0x50 sd (0x58 + 2 * k) 2 0) w && !bit (s.waysLock sd k) w)

/-- Ways a slice must clean before a new setting (R156 step 1). `was`, `now`: class masks. -/
def State.waysToClean (s : State) (k : Nat) (was now : Nat → Nat) (lock off : Nat) : List Nat :=
  let sd := k / 24
  let old := s.fld (R.slcWayCtl sd (k % 24)) F.slcWayCtl_LOCK
  let pwr := s.fld (R.slcWayState sd (k % 24)) F.slcWayState_PWR_OFF
  (List.range 16).filter fun w =>
    (!bit old w && !bit lock w && (List.range 16).any fun c => bit (was c) w != bit (now c) w) ||
      (bit off w && !bit pwr w)

/-- The LLC_WAYS piece now in the store begins to take effect on a saddle (R156): the ways to be cleaned
leave the candidate sets; a slice with none applies the setting at once. -/
def State.beginWays (s : State) (sd : Nat) : State :=
  let was := fun c => s.fld (R.llcClass sd c) F.llcClass_MASK
  (List.range 24).foldl (fun s c =>
    let k := 24 * sd + c
    let lock := s.waysLock sd c
    let off := s.waysOff sd c
    let ws := s.waysToClean k was (s.waysMask sd) lock off
    let s := s.setF (R.slcWayState sd c) F.slcWayState_CLEANING (ofBits ws)
    s.updSlice k fun x => { x with cleaning := ws, newWays := some (lock, off) }) s

/-- The slice has cleaned its ways: every entry of them is written back and gone (R156 step 2), and the
new masks, locks and power-down bits apply (step 3). -/
def State.endWays (s : State) (k : Nat) : State :=
  let sd := k / 24
  let x := s.slice k
  match x.newWays with
  | none => s
  | some (lock, off) =>
    let keys := (x.ent.map (·.1)).filter fun key => x.cleaning.contains (key % 16)
    let s := keys.foldl (fun s key => s.evictEnt k key) s
    let s := s.setF (R.slcWayCtl sd (k % 24)) F.slcWayCtl_LOCK lock
    let s := s.setF (R.slcWayCtl sd (k % 24)) F.slcWayCtl_OFF off
    let s := s.setF (R.slcWayState sd (k % 24)) F.slcWayState_PWR_OFF off
    let s := s.setF (R.slcWayState sd (k % 24)) F.slcWayState_CLEANING 0
    let s := s.updSlice k fun x => { x with cleaning := [], newWays := none }
    if (List.range 24).all fun c => (s.slice (24 * sd + c)).newWays.isNone then
      (List.range 16).foldl (fun s c => s.setF (R.llcClass sd c) F.llcClass_MASK (s.waysMask sd c)) s
    else s

def wayCleanDoneEff (h : SliceId) (s : State) : State := (s.endWays h.num).homeGo h.num

/-! ### Lock-fill (R159) -/

/-- A write of SLC_LOCK_FILL with GO, and its answer. -/
def State.lockFillGo (s : State) (a : Agent) (h : SliceId) (way : Nat) (pa : Nat) : State × Resp :=
  let k := h.num
  let r := R.slcLockFill h.sd.val h.k.val
  let line := pa / 64
  let s := s.setF r F.slcLockFill_WAY way
  let s := s.setF r F.slcLockFill_LINE line
  let st := fun (s : State) (n : Nat) => s.setF r F.slcLockFill_STATUS n
  if !s.wayLocked k way then (st s 2, .ok)
  else if s.home (64 * line) ≠ some (h.sd.val, h.k.val) then (st s 3, .ok)
  else
    let pk := s.agentPocket a
    match s.welt (agentIsKeeper a) pk pa false with
    | .viol reason =>
      let s := s.violation h.sd.val (agentEyelet a pa) pa pk 0x01 reason 0
      (st s 4, .viol)
    | .pass =>
      let q : Pkt := { op := 0x01, src := BitVec.ofNat 8 h.eyelet, dst := BitVec.ofNat 8 h.eyelet,
                       pocket := BitVec.ofNat 12 pk, pa := addrOfLine line }
      (((st s 0).enqueue k q).homeGo k, .ok)
    | _ => (st s 4, .viol)

def lockFillEff (a : Agent) (h : SliceId) (way : Fin 16) (pa : Addr) (s : State) : State :=
  s.ctlGuard a (R.slcLockFill h.sd.val h.k.val).addr fun s => s.lockFillGo a h way.val pa.toNat

def execSlcClean (h : SliceId) (set : Fin 4096) (way : Fin 16) (s : State) : Host.Outcome State Fault Refusal :=
  .next (s.live (slcCleanEff h set way s))
def execSlcInvalidate (a : Agent) (h : SliceId) (set : Fin 4096) (way : Fin 16) (s : State) : Host.Outcome State Fault Refusal :=
  .next (s.live (slcInvalidateEff a h set way s))
def execSlcCleanInvalidate (h : SliceId) (set : Fin 4096) (way : Fin 16) (s : State) : Host.Outcome State Fault Refusal :=
  .next (s.live (slcCleanInvalidateEff h set way s))
def execRangeGo (a : Agent) (sd : Saddle) (op : BitVec 2) (irqEn : Bool) (s : State) : Host.Outcome State Fault Refusal :=
  .next (s.live (rangeGoEff a sd op irqEn s))
def execRangeAbort (a : Agent) (sd : Saddle) (s : State) : Host.Outcome State Fault Refusal :=
  .next (s.live (rangeAbortEff a sd s))
def execRangeDone (sd : Saddle) (s : State) : Host.Outcome State Fault Refusal :=
  .next (s.live (rangeDoneEff sd s))
def execWayCleanDone (h : SliceId) (s : State) : Host.Outcome State Fault Refusal :=
  .next (s.live (wayCleanDoneEff h s))
def execLockFill (a : Agent) (h : SliceId) (way : Fin 16) (pa : Addr) (s : State) : Host.Outcome State Fault Refusal :=
  .next (s.live (lockFillEff a h way pa s))

end Sys2Proof.Machine
end

