-- ==== Sys2Proof/Machine/MemCtl.lean ====
section
/-! DEFINITION. Memory controllers and the states of bolts: reads, writes, ECC and poison, refresh
management, temperature and refresh deadlines, scrub passes, training and self-refresh (R267-R296, R485). -/

namespace Sys2Proof.Machine

/-! ### Fences and bolts (R256, R275) -/

/-- A fence's STATE. -/
def State.setFence (s : State) (u : FenceUnit) (n : Nat) : State :=
  s.setF (R.fenceStatus u) F.fenceStatus_STATE n

/-- Targets of a bolt. -/
def Bolt.units (b : Bolt) : List FenceUnit := (bitsOf 12 b.mask).map (backingUnit b.kind)

/-- An ONLINE bolt reads OFFLINE while a fence of its targets is not OPEN, or a CXL device of it has come
back too small (R275). DEDUCED (assumption 56). -/
def State.refreshBolts (s : State) : State :=
  let bs := s.bolts
  bs.foldl (fun s b =>
    let r := R.boltStatus b.idx
    let st := s.fld r F.boltStatus_STATE
    if st = 1 ∨ st = 4 then
      let fits := fun d => b.kind != 2 ||
        decide (boltStart bs b d + b.share ≤ (KMap.get ({} : PcieSt) s.io.ports d).cxlCap * 2 ^ 30)
      let ok := (b.units.all s.fenceIsOpen) && (bitsOf 12 b.mask).all fits
      s.setF r F.boltStatus_STATE (if ok then 1 else 4)
    else s) s

/-- Trained capacity of a target in GiB; none where it failed or is absent (R274). DEDUCED (assumption 56). -/
def State.targetCap (s : State) (kind dev : Nat) : Option Nat :=
  let mc := fun c : Ctlr =>
    let st := s.fld (R.mcInfo c) F.mcInfo_STATE
    if st = 1 ∨ st = 2 then some (s.fld (R.mcInfo c) F.mcInfo_CAPACITY_GIB) else none
  match kind with
  | 0 => mc (.hbm (Fin.ofNat 8 dev))
  | 1 => mc (.ddr (Fin.ofNat 12 dev))
  | _ => match (KMap.get ({} : PcieSt) s.io.ports dev).cxlCap with | 0 => none | n => some n

/-- The state the Keeper gives a bolt at boot step 6 (R274). -/
def State.boltCode (s : State) (bs : List Bolt) (b : Bolt) : Nat :=
  let ds := bitsOf 12 b.mask
  if ds.any fun d => (s.targetCap b.kind d).isNone then 2
  else if ds.any fun d => decide ((s.targetCap b.kind d).getD 0 * 2 ^ 30 < boltStart bs b d + b.share) then 3
  else 1

/-- BOLT_STATUS of a bolt. -/
def boltWord (b : Bolt) (st : Nat) : Word :=
  BitVec.ofNat 64 (st <<< 61 + b.kind <<< 59 + b.scope <<< 58 + b.granule <<< 56 + b.node <<< 50 +
    b.base <<< 32 + b.size <<< 13 + b.mask)

/-- The Keeper sets every bolt's state (R274): a FAILED or NOFIT one is recorded. -/
def State.setBolts (s : State) : State :=
  let bs := s.bolts
  (bs.foldl (fun s b =>
    let st := s.boltCode bs b
    let s := s.wr (R.boltStatus b.idx) (boltWord b st)
    if st = 1 then s else s.err 16 1 5 (unitCode 0x0B 0) 0 0 (protoMisc 6 b.idx)) s).refreshBolts

/-! ### Refresh (R286-R289) -/

/-- Parameter piece of a controller (R296): a field of HBM_PARAMS or DDR_PARAMS in force. -/
def State.mcCfg (s : State) (c : Ctlr) (off n : Nat) (hbm ddr : Nat) : Nat :=
  match c with
  | .hbm k => s.cfg 0x90 k.val off n hbm
  | .ddr k => s.cfg 0xA0 k.val off n ddr

/-- A controller is in SERVICE. -/
def State.mcServes (s : State) (c : Ctlr) : Bool := s.fld (R.mcInfo c) F.mcInfo_STATE == 1

/-- ALLOW_NS of every controller and YOKE.DEADLINE[3] (R287, R57). DESIGN CHOICE (assumption 52). -/
def State.refreshAllow (s : State) : State :=
  let s := allCtlrs.foldl (fun s c =>
    let hbm := match c with | .hbm _ => true | .ddr _ => false
    let base := Config.refreshAllow hbm (s.fld (R.mcRefresh c) F.mcRefresh_FGR == 1) % 2 ^ 32
    let n := if s.mcServes c then
        (if s.fld (R.mcTherm c) F.mcTherm_DOUBLED = 1 then base / 2 else base) else 0
    s.setF (R.mcRefresh c) F.mcRefresh_ALLOW_NS n) s
  let l := (allCtlrs.filter s.mcServes).map fun c => s.fld (R.mcRefresh c) F.mcRefresh_ALLOW_NS
  let low := match l with | [] => 0 | a :: l => l.foldl min a
  s.wr (R.deadline 3) (BitVec.ofNat 64 low)

/-- Saddle bank and unit code of a controller's records. -/
def State.mcErr (s : State) (c : Ctlr) (sev kind : Nat) (akind addr misc : Nat := 0) : State :=
  s.err (12 + c.saddle) sev kind (fenceUnitCode (.mc c)) akind addr misc

/-- One draw of the generator of R288. -/
def xorshift (g : Nat) : Nat :=
  let g := g ^^^ (g <<< 13 % 2 ^ 64)
  let g := g ^^^ (g >>> 7)
  g ^^^ (g <<< 17 % 2 ^ 64)

/-- A controller's number among its saddle's: 0-1 HBM, 2-4 DDR (R453). -/
def ctlrSrc : Ctlr → Nat
  | .hbm n => n.val % 2
  | .ddr n => 2 + n.val % 3

/-- A refresh-management command issues (R288). -/
def State.rfmIssue (s : State) (c : Ctlr) (bank : Nat) : State :=
  let s := s.uev c.saddle 0x14 (ctlrSrc c) 0
  let s := s.incF (R.mcRefresh c) F.mcRefresh_RFM_COUNT
  s.updMc c.num fun m => { m with rfm := m.rfm.filter (· != bank) }

/-- An activate of a bank (R288): its row is closed first, so a pending command issues; then the generator
draws. In closed-page mode the bank is precharged again after the access. DEDUCED (assumption 51). -/
def State.activate (s : State) (c : Ctlr) (bank : Nat) : State :=
  let s := if (s.mc c.num).rfm.contains bank then s.rfmIssue c bank else s
  let g := xorshift (s.mc c.num).gen
  let k := s.fld (R.mcParam c) F.mcParam_RFM_K
  let s := s.updMc c.num fun m => { m with gen := g, rfm := if g % 2 ^ k = 0 then bank :: m.rfm else m.rfm }
  if s.mcCfg c 4 1 0 0 = 1 ∧ (s.mc c.num).rfm.contains bank then s.rfmIssue c bank else s

/-- A corrected error at a controller: counted and recorded (R281). -/
def State.mcCorrected (s : State) (c : Ctlr) (pa sym words : Nat) : State :=
  let s := s.updMc c.num fun m => { m with ce := m.ce + 1 }
  let st := match c with | .hbm _ => 6 | .ddr _ => 7
  s.mcErr c 0 0 1 pa (eccMisc st sym words 0)

/-- An uncorrectable error at a controller (R282). -/
def State.mcUncorrected (s : State) (c : Ctlr) (pa words : Nat) : State :=
  let st := match c with | .hbm _ => 6 | .ddr _ => 7
  s.mcErr c 2 0 1 pa (eccMisc st 0xFF words 0)

/-- Words an error covers at a controller: on DDR5 the whole line (R281, R283). -/
def errWords (u : FenceUnit) (w : BitVec 4) : BitVec 4 :=
  match u with | .mc (.ddr _) => if w = 0 then 0 else 15 | _ => w

/-- Bytes of the marked words replaced by free values. DESIGN CHOICE (assumption 53). -/
def scrambleWords (d : LineData) (w : BitVec 4) (free : Nat) : LineData :=
  mergeLine d (BitVec.ofNat 512 free)
    (BitVec.ofNat 64 ((List.range 4).foldl (fun a i => if w.getLsbD i then a + 0xFFFF <<< (16 * i) else a) 0))

/-- What a read of a line returns at a controller (R281-R283): data, poison, and its records. A poison
code word is found as it is stored. -/
def State.mcDecode (s : State) (u : FenceUnit) (line : Nat) (err : MemErr) :
    State × LineData × BitVec 4 :=
  let d := s.memLine line
  let po := s.memPoisonOf line
  let pa := 64 * line
  let onMc := fun (s : State) (f : Ctlr → State) => match u with | .mc c => f c | _ => s
  match err with
  | .none => (s, d, po)
  | .corrected sym w => (onMc s fun c => s.mcCorrected c pa sym.toNat w.toNat, d, po)
  | .uncorrectable w =>
    let w := errWords u w
    let new := w &&& ~~~ po
    (if new = 0 then s else onMc s fun c => s.mcUncorrected c pa new.toNat, d, po ||| w)
  | .miscorrected sym w =>
    let (n, s) := s.fresh
    (onMc s fun c => s.mcCorrected c pa sym.toNat w.toNat, scrambleWords d (w &&& ~~~ po) n, po)
  | .undetected w =>
    let (n, s) := s.fresh
    (s, scrambleWords d (errWords u w &&& ~~~ po) n, po)

/-- The unit and saddle that back a line are these. -/
def State.backsLine (s : State) (u : FenceUnit) (line : Nat) : Bool :=
  match s.backing (64 * line) with | some (v, _) => v == u | none => false

/-- A read reaches a controller, or the port of a CXL device, and is answered (R279, R282, R253). -/
def memoryReadEff (u : FenceUnit) (h : SliceId) (pa : Addr) (txid : BitVec 12) (err : MemErr)
    (openRow : Bool) (bank : Fin 64) (s : State) : State :=
  let k := h.num
  let line := lineOf pa
  let waits := match s.tx k line with | some t => t.memWait && t.req.txid == txid | none => false
  if !waits || !s.backsLine u line then s
  else
    let s := s.arrive fun p => p.op == 0x08 && p.src == BitVec.ofNat 8 h.eyelet && lineOf p.pa == line &&
      p.txid == txid
    let st := s.fenceState u
    if st ≠ 2 ∧ st ≠ 3 then
      let s := s.incF (R.fenceStatus u) F.fenceStatus_DOMOFF_COUNT
      let s := s.updTx k line fun t => { t with memWait := false, domoff := true }
      match s.tx k line with
      | none => s
      | some t =>
        let s := if t.req.op == 0x06 || (t.req.op == 0x05 && t.req.nc) then s.endTx k line t.req .domoff
          else s.tryComplete k line
        s.homeGo k
    else
      let pk := match s.tx k line with | some t => t.req.pocket.toNat | none => 0
      let s := match u with
        | .mc c =>
          let s := s.uev c.saddle 0x10 (ctlrSrc c) pk
          if openRow && s.mcCfg c 4 1 0 0 == 0 then s else (s.uev c.saddle 0x13 (ctlrSrc c) pk).activate c bank.val
        | _ => s
      let (s, d, po) := s.mcDecode u line err
      (s.memAnswer k line d po).homeGo k

/-- A home's write reaches a controller or a CXL port (R283-R285, R485). -/
def memoryWriteEff (u : FenceUnit) (h : SliceId) (pa : Addr) (d : LineData) (be : Word) (poison : BitVec 4)
    (err : MemErr) (openRow : Bool) (bank : Fin 64) (s : State) : State :=
  let line := lineOf pa
  if !s.backsLine u line then s
  else if !s.fenceIsOpen u then (s.homeWrite h.sd.val line d be poison).1
  else
    let s := match u with
      | .mc c =>
        let s := s.uev c.saddle (if be = beAll then 0x11 else 0x12) (ctlrSrc c) 0
        if openRow && s.mcCfg c 4 1 0 0 == 0 then s else (s.uev c.saddle 0x13 (ctlrSrc c) 0).activate c bank.val
      | _ => s
    let whole := match u with
      | .mc (.ddr _) => if be = beAll then (15 : BitVec 4) else 0
      | _ => wholeWords be
    let touched := BitVec.ofNat 4 (ofBits ((List.range 4).filter fun w => be.toNat >>> (16 * w) % 65536 != 0))
    let merged := errWords u (touched &&& ~~~ wholeWords be) &&& ~~~ whole
    match err with
    | .uncorrectable w =>
      let bad := errWords u w &&& merged
      let new := bad &&& ~~~ s.memPoisonOf line
      let s := match u with
        | .mc c => if new = 0 then s else s.mcUncorrected c (64 * line) new.toNat
        | _ => s
      let s := s.ctlrWrite u line d be poison
      s.setMemPoison line (s.memPoisonOf line ||| bad)
    | .corrected sym w =>
      let s := match u with
        | .mc c => if merged = 0 then s else s.mcCorrected c (64 * line) sym.toNat (w &&& merged).toNat
        | _ => s
      s.ctlrWrite u line d be poison
    | .miscorrected sym w =>
      if merged = 0 then s.ctlrWrite u line d be poison
      else
        let (n, s) := s.fresh
        let old := scrambleWords (s.memLine line) (w &&& merged) n
        let s := match u with | .mc c => s.mcCorrected c (64 * line) sym.toNat (w &&& merged).toNat | _ => s
        (s.setBytes (64 * line) old.toNat (fun _ => true) 64).ctlrWrite u line d be poison
    | .undetected w =>
      let (n, s) := s.fresh
      let old := scrambleWords (s.memLine line) (w &&& merged) n
      (s.setBytes (64 * line) old.toNat (fun _ => true) 64).ctlrWrite u line d be poison
    | .none => s.ctlrWrite u line d be poison

/-! ### Temperature and refresh -/

/-- A temperature reading of a controller's memory (R286), or a read that failed. -/
def tempReadEff (c : Ctlr) (reading : Option (BitVec 8)) (s : State) : State :=
  if !s.mcServes c then s
  else
    let r := R.mcTherm c
    match reading with
    | none =>
      let s := (s.setF r F.mcTherm_READ_FAIL 1).setF r F.mcTherm_DOUBLED 1
      (s.mcErr c 0 5 0 0 (protoMisc 7 0)).refreshAllow
    | some t =>
      let t := t.toNat
      let hi := s.fld (R.mcParam c) F.mcParam_TEMP_HI
      let s := (s.setF r F.mcTherm_TEMP t).setF r F.mcTherm_READ_FAIL 0
      let s := if hi < t then s.setF r F.mcTherm_DOUBLED 1
        else if t + 3 ≤ hi then s.setF r F.mcTherm_DOUBLED 0 else s
      let s := if 95 ≤ t then (s.setF r F.mcTherm_ALARM 1).setF r F.mcTherm_ALARM_SEEN 1
        else s.setF r F.mcTherm_ALARM 0
      s.refreshAllow

/-- A refresh becomes due at a rank (R287): its deadline is ALLOW_NS as it stands now (R50). -/
def refreshEff (c : Ctlr) (rank : Fin 4) (s : State) : State :=
  if !s.mcServes c then s
  else
    let t : Timer := ⟨3, s.tape, s.fld (R.mcRefresh c) F.mcRefresh_ALLOW_NS, 0⟩
    s.updMc c.num fun m => { m with due := KMap.set none rank.val (some t) m.due }

/-- A due refresh reaches its deadline (R54): every other command to the rank is blocked until it has
issued. -/
def refreshExpiryEff (c : Ctlr) (rank : Fin 4) (s : State) : State :=
  match KMap.get none (s.mc c.num).due rank.val with
  | none => s
  | some t =>
    let s := s.advance t.due
    let s := s.mcErr c 1 3 0 0 (dlMisc 3 0 0 c.eyelet (s.tape - t.due))
    s.updMc c.num fun m => { m with due := KMap.set none rank.val none m.due }

/-! ### Scrubbing (R290-R293) -/

/-- The first line from `l` on that a controller backs in an ONLINE bolt (R272, R290). -/
def State.nextBacked (s : State) (c : Ctlr) (l : Nat) : Option Nat :=
  let (kind, dev) := match c with | .hbm n => (0, n.val) | .ddr n => (1, n.val)
  s.bolts.findSome? fun b =>
    if b.kind ≠ kind ∨ !bit b.mask dev ∨ s.boltState b ≠ 1 then none
    else
      let g := b.granuleBytes / 64
      let base := b.base * 2 ^ 24
      let lo := max l base
      let n := max 1 b.n
      let j := popcount dev b.mask
      let blk := (lo - base) / g
      let at' := if blk % n = j then lo else base + (blk + (j + n - blk % n) % n) * g
      if lo < base + b.size * 2 ^ 24 ∧ at' < base + b.size * 2 ^ 24 then some at' else none

/-- A write of SCRUB_CTL with GO (R290). DEDUCED (assumption 54). -/
def State.startScrub (s : State) (c : Ctlr) (rate : Nat) (irqEn mode : Bool) : State :=
  let r := R.mcScrubCtl c
  if s.fld r F.mcScrubCtl_STATUS = 1 then s
  else
    let s := s.setF r F.mcScrubCtl_RATE (clampN 1 1024 rate)
    let s := s.setF r F.mcScrubCtl_IRQ_EN (if irqEn then 1 else 0)
    let s := s.setF r F.mcScrubCtl_MODE (if mode then 1 else 0)
    if !(s.mcServes c && s.fenceIsOpen (.mc c)) then s.setF r F.mcScrubCtl_STATUS 4
    else
      let lo := s.fld (R.mcScrubBase c) F.mcScrubBase_LINE
      let s := s.setF (R.mcScrubLimit c) F.mcScrubLimit_LINE (max lo (s.fld (R.mcScrubLimit c) F.mcScrubLimit_LINE))
      let s := ((s.wr (R.mcScrubSum0 c) 0).wr (R.mcScrubSum1 c) 0).wr (R.mcScrubFirst c) 0
      let s := (s.wr (R.mcScrubLast c) 0).wr (R.mcScrubTapeStart c) (BitVec.ofNat 64 s.tape)
      let s := (s.setF r F.mcScrubCtl_STATUS 1).setSource (5 + c.num) false
      s.updMc c.num fun m => { m with next := lo, stop := 0, us := s.tape / 1000, started := 0 }

def scrubGoEff (a : Agent) (c : Ctlr) (rate : BitVec 11) (irqEn mode : Bool) (s : State) : State :=
  s.ctlGuard a (R.mcScrubCtl c).addr fun s => (s.startScrub c rate.toNat irqEn mode, .ok)

/-- ABORT (R292). -/
def State.abortScrub (s : State) (c : Ctlr) : State :=
  if s.fld (R.mcScrubCtl c) F.mcScrubCtl_STATUS = 1 then
    s.updMc c.num fun m => { m with stop := if m.stop = 0 then 1 else m.stop }
  else s

def scrubAbortEff (a : Agent) (c : Ctlr) (s : State) : State :=
  s.ctlGuard a (R.mcScrubCtl c).addr fun s => (s.abortScrub c, .ok)

/-- The next line of a pass is read (R290, R291); at most RATE lines start in one Tape microsecond.
DEDUCED (assumption 54). -/
def scrubLineEff (c : Ctlr) (hold : ScrubHold) (s : State) : State :=
  let r := R.mcScrubCtl c
  let m := s.mc c.num
  match s.nextBacked c m.next with
  | none => s
  | some line =>
    if s.fld r F.mcScrubCtl_STATUS ≠ 1 ∨ m.stop ≠ 0 ∨ s.fld (R.mcScrubLimit c) F.mcScrubLimit_LINE < line then s
    else
      let s := if m.us = s.tape / 1000 ∧ s.fld r F.mcScrubCtl_RATE ≤ m.started then
          s.advance ((s.tape / 1000 + 1) * 1000) else s
      let us := s.tape / 1000
      let s := s.updMc c.num fun m =>
        { m with next := line + 1, us := us, started := if m.us = us then m.started + 1 else 1 }
      let s := s.incF (R.mcScrubSum0 c) F.mcScrubSum0_SCANNED
      match hold with
      | .clean => s
      | .correctable => s.incF (R.mcScrubSum0 c) F.mcScrubSum0_CORRECTED
      | .poisonOnly => s.incF (R.mcScrubSum1 c) F.mcScrubSum1_POISONED
      | .uncorrectable w =>
        let first := s.fld (R.mcScrubSum1 c) F.mcScrubSum1_UNCORRECTED == 0
        let s := s.incF (R.mcScrubSum1 c) F.mcScrubSum1_UNCORRECTED
        let s := if first then s.setF (R.mcScrubFirst c) F.mcScrubFirst_LINE line else s
        let s := s.setF (R.mcScrubLast c) F.mcScrubLast_LINE line
        if s.fld r F.mcScrubCtl_MODE = 1 then
          s.setMemPoison line (s.memPoisonOf line ||| errWords (.mc c) w)
        else s

/-- A pass ends with a STATUS (R291, R292). -/
def State.endScrub (s : State) (c : Ctlr) (st : Nat) : State :=
  let r := R.mcScrubCtl c
  let s := (s.setF r F.mcScrubCtl_STATUS st).wr (R.mcScrubTapeEnd c) (BitVec.ofNat 64 s.tape)
  let corr := s.fld (R.mcScrubSum0 c) F.mcScrubSum0_CORRECTED
  let unc := s.fld (R.mcScrubSum1 c) F.mcScrubSum1_UNCORRECTED
  let s := s.updMc c.num fun m => { m with ce := m.ce + corr, stop := 0, next := 0 }
  let s := if unc = 0 then s else
    s.mcErr c 1 0 1 (64 * s.fld (R.mcScrubFirst c) F.mcScrubFirst_LINE) (eccMisc 8 0xFF 0 unc)
  if s.fld r F.mcScrubCtl_IRQ_EN = 1 then s.setSource (5 + c.num) true else s

/-- A pass ends DONE past LIMIT, or as its stop says. -/
def scrubEndEff (c : Ctlr) (s : State) : State :=
  let m := s.mc c.num
  if s.fld (R.mcScrubCtl c) F.mcScrubCtl_STATUS ≠ 1 then s
  else
    let past := match s.nextBacked c m.next with
      | none => true
      | some l => decide (s.fld (R.mcScrubLimit c) F.mcScrubLimit_LINE < l)
    match m.stop with
    | 1 => s.endScrub c 3
    | 2 => s.endScrub c 4
    | _ => if past then s.endScrub c 2 else s

/-! ### Training and self-refresh (R294, R295) -/

/-- The rate a controller can train at: the piece's, 4,800 at two DIMMs per channel (R268, R294). -/
def State.mcRate (s : State) (c : Ctlr) (rate dpc : Nat) : Nat :=
  let r := min rate (s.mcCfg c 0 2 9200 6400)
  match c with | .hbm _ => r | .ddr _ => if dpc = 2 then min r 4800 else r

/-- MC_INFO of a controller in SERVICE; its generator is seeded (R288). DEDUCED (assumption 51). -/
def State.mcTrained (s : State) (c : Ctlr) (rate cap ranks dpc stack : Nat) : State :=
  let v := 1 <<< 61 + rate % 65536 <<< 32 + cap % 65536 <<< 16 + ranks % 16 <<< 12 + dpc % 16 <<< 8 + stack % 16 <<< 4
  let s := s.wr (R.mcInfo c) (BitVec.ofNat 64 v)
  let (n, s) := s.draw
  let s := s.updMc c.num fun m => { m with gen := if n % 2 ^ 64 = 0 then 1 else n % 2 ^ 64, rfm := [] }
  let fgr := match c with | .hbm _ => 0 | .ddr k => s.cfg 0xA0 k.val 5 1 0
  (s.setF (R.mcRefresh c) F.mcRefresh_FGR fgr).refreshAllow

/-- The record of a training that fell back (R294). -/
def State.mcFellBack (s : State) (c : Ctlr) : State :=
  match c with
  | .hbm n => s.mcErr c 1 4 0 0 (linkMisc 2 n.val 0)
  | .ddr n => s.mcErr c 1 4 0 0 (linkMisc 3 n.val 0)

/-- The result of a controller's training in its registers. DEDUCED (assumption 55). -/
def State.trainMc (s : State) (c : Ctlr) (r : TrainRes) : State :=
  match r with
  | .ok rate cap ranks dpc stack =>
    s.mcTrained c (s.mcRate c rate.toNat dpc.toNat) cap.toNat ranks.toNat dpc.toNat stack.toNat
  | .fallback _ cap ranks dpc stack =>
    (s.mcFellBack c).mcTrained c (match c with | .hbm _ => 6400 | .ddr _ => 4800) cap.toNat ranks.toNat
      dpc.toNat stack.toNat
  | .failed => ((s.mcFellBack c).setF (R.mcInfo c) F.mcInfo_STATE 3).refreshAllow
  | .absent =>
    (match c with
     | .hbm _ => (s.mcFellBack c).setF (R.mcInfo c) F.mcInfo_STATE 3
     | .ddr _ => s.setF (R.mcInfo c) F.mcInfo_STATE 4).refreshAllow

/-- The memory of a controller in SERVICE goes into self-refresh, its contents and trained values kept
(R295); no refresh deadline runs. -/
def State.selfRefresh (s : State) (c : Ctlr) : State :=
  if s.mcServes c then
    let s := s.setF (R.mcInfo c) F.mcInfo_STATE 2
    (s.updMc c.num fun m => { m with due := [] }).refreshAllow
  else s

/-- The controller leaves self-refresh with its trained values. -/
def State.leaveSelfRefresh (s : State) (c : Ctlr) : State :=
  if s.fld (R.mcInfo c) F.mcInfo_STATE = 2 then (s.setF (R.mcInfo c) F.mcInfo_STATE 1).refreshAllow else s

def execRefreshExpiry (c : Ctlr) (rank : Fin 4) (s : State) : Host.Outcome State Fault Refusal :=
  .next (refreshExpiryEff c rank s)
def execMemoryRead (u : FenceUnit) (h : SliceId) (pa : Addr) (txid : BitVec 12) (err : MemErr) (openRow : Bool) (bank : Fin 64) (s : State) : Host.Outcome State Fault Refusal :=
  .next (s.live (memoryReadEff u h pa txid err openRow bank s))
def execMemoryWrite (u : FenceUnit) (h : SliceId) (pa : Addr) (d : LineData) (be : Word) (poison : BitVec 4) (err : MemErr) (openRow : Bool) (bank : Fin 64) (s : State) : Host.Outcome State Fault Refusal :=
  .next (s.live (memoryWriteEff u h pa d be poison err openRow bank s))
def execTempRead (c : Ctlr) (reading : Option (BitVec 8)) (s : State) : Host.Outcome State Fault Refusal :=
  .next (s.live (tempReadEff c reading s))
def execRefresh (c : Ctlr) (rank : Fin 4) (s : State) : Host.Outcome State Fault Refusal :=
  .next (s.live (refreshEff c rank s))
def execScrubGo (a : Agent) (c : Ctlr) (rate : BitVec 11) (irqEn mode : Bool) (s : State) : Host.Outcome State Fault Refusal :=
  .next (s.live (scrubGoEff a c rate irqEn mode s))
def execScrubLine (c : Ctlr) (hold : ScrubHold) (s : State) : Host.Outcome State Fault Refusal :=
  .next (s.live (scrubLineEff c hold s))
def execScrubAbort (a : Agent) (c : Ctlr) (s : State) : Host.Outcome State Fault Refusal :=
  .next (s.live (scrubAbortEff a c s))
def execScrubEnd (c : Ctlr) (s : State) : Host.Outcome State Fault Refusal :=
  .next (s.live (scrubEndEff c s))

end Sys2Proof.Machine
end

