-- ==== Sys2Proof/Machine/IoOps.lean ====
section
/-! DEFINITION. PCIe root ports and their devices (R206-R211, R217, R365-R374): decoding of a window, the
posted queue and its credits, completions, device requests under their pocket tags, links, hot plug. -/

namespace Sys2Proof.Machine

/-! ### Ports and sub-ports (R365, R366) -/

def State.pcie (s : State) (k : Nat) : PcieSt := KMap.get {} s.io.ports k
def State.updPcie (s : State) (k : Nat) (f : PcieSt → PcieSt) : State :=
  { s with io.ports := KMap.set {} k (f (s.pcie k)) s.io.ports }
def PcieSt.sub (x : PcieSt) (j : Nat) : SubSt := KMap.get {} x.subs j
def PcieSt.updSub (x : PcieSt) (j : Nat) (f : SubSt → SubSt) : PcieSt :=
  { x with subs := KMap.set {} j (f (x.sub j)) x.subs }

/-- Lanes of the sub-ports of a MODE (R366). -/
def subLanes (mode : Nat) : List Nat :=
  match mode with
  | 0 => [16] | 1 => [8, 8] | 2 => [8, 4, 4] | 3 => [4, 4, 4, 4] | _ => [2, 2, 2, 2, 2, 2, 2, 2]

/-- MODE of a port's PCIE_LAYOUT in force. -/
def State.pcieMode (s : State) (k : Nat) : Nat := s.cfg 0xC0 k 0 1 0

/-- What an address of a port's window is decoded to (R367): the configuration space of a sub-port's
bridge, what lies behind a sub-port's link, or nothing. The layout of a bridge's configuration space is
PCI's. -/
inductive PDest where
  | none
  | cfg (j off : Nat)
  | sub (j : Nat)
  deriving DecidableEq, Repr

/-- Dword `n` of a bridge's configuration space: identity fixed, the rest as written. PRESUMED (assumption 85). -/
def State.bridgeCfg (s : State) (k j n : Nat) : Nat :=
  match n with
  | 0 => (0x7A41 + k) <<< 16 + 0xCB52
  | 2 => 0x06040000
  | 3 => 0x00010000
  | _ => KMap.get 0 ((s.pcie k).sub j).cfg n

/-- Bits of a bridge's dword that software writes: command, bus numbers, prefetchable window.
PRESUMED (assumption 85). -/
def bridgeMask (n : Nat) : Nat :=
  match n with
  | 1 => 0x507 | 6 => 0xFFFFFF | 9 => 0xFFF0FFF0 | 10 => 0xFFFFFFFF | 11 => 0xFFFFFFFF | _ => 0

/-- A bus lies behind a sub-port. -/
def State.busBehind (s : State) (k j bus : Nat) : Bool :=
  let v := s.bridgeCfg k j 6
  v / 256 % 256 != 0 && decide (v / 256 % 256 ≤ bus) && decide (bus ≤ v / 65536 % 256)

/-- A memory address lies in a sub-port's prefetchable window, and its bridge decodes memory. -/
def State.memBehind (s : State) (k j pa : Nat) : Bool :=
  let v := s.bridgeCfg k j 9
  let lo := s.bridgeCfg k j 10 * 2 ^ 32 + v / 16 % 4096 * 2 ^ 20
  let hi := s.bridgeCfg k j 11 * 2 ^ 32 + v / 2 ^ 20 * 2 ^ 20 + 2 ^ 20
  bit (s.bridgeCfg k j 1) 1 && decide (lo ≤ pa) && decide (pa < hi)

/-- The decoding of an address in port k's window. -/
def State.pcieDest (s : State) (k pa : Nat) : PDest :=
  let off := pa % 2 ^ 45
  let js := List.range (subLanes (s.pcieMode k)).length
  if off < 2 ^ 28 then
    let bus := off / 2 ^ 20
    if bus = 0 then
      let d := off / 2 ^ 15 % 32
      if off / 2 ^ 12 % 8 = 0 ∧ d < js.length then .cfg d (off % 4096) else .none
    else match js.find? fun j => s.busBehind k j bus with | some j => .sub j | none => .none
  else match js.find? fun j => s.memBehind k j pa with | some j => .sub j | none => .none

/-- The sub-port behind which a function lies: by its bus number. -/
def State.subOfRid (s : State) (k rid : Nat) : Nat :=
  ((List.range (subLanes (s.pcieMode k)).length).find? fun j => s.busBehind k j (rid / 256)).getD 0

/-! ### Owner check of a window (R332, R333, R372, R373) -/

/-- The function whose window holds an address: by its ECAM page, or by its BARs where a pocket owns it. -/
def State.windowFunc (s : State) (k pa : Nat) : Option Nat :=
  let off := pa % 2 ^ 45
  if off < 2 ^ 28 then some (off / 4096 % 65536)
  else ((s.pcie k).win.find? fun w => decide (w.2.1 ≤ pa) && decide (pa < w.2.1 + w.2.2)).map (·.1)

/-- Steps 2 and 3 of R332 and the owner check on a request to a port's window. -/
def State.windowCheck (s : State) (a : Agent) (k pa : Nat) : Check :=
  let p := s.agentPocket a
  match s.checkWorld (agentIsKeeper a) p with
  | some c => c
  | none =>
    if !s.service then .pass
    else match (s.windowFunc k pa).bind (s.funcOwner k) with
      | none => if p = 0 then .pass else .viol 5
      | some (en, q) => if en && q == p then .pass else .viol 5

/-- The Welt log a violation at a yoke unit goes to (R335). -/
def agentLogSaddle (a : Agent) : Nat := match a with | .hart h => h.panel.val / 3 | _ => 0

/-- A violation at a port's window. -/
def State.windowViol (s : State) (a : Agent) (pa op reason txid : Nat) : State :=
  s.violation (agentLogSaddle a) (agentEyelet a pa) pa (s.agentPocket a) op reason txid

/-! ### Answers to I/O-type requests (R208) -/

/-- Number of the waiting request packet an access arrives as. -/
def State.ioTxid (s : State) (a : Agent) (pa : Addr) (op : BitVec 8) : BitVec 12 :=
  match s.net.find? fun p => p.op == op && p.src == BitVec.ofNat 8 (agentEyelet a pa.toNat) && p.pa == pa with
  | some p => p.txid
  | none => 0

/-- The request packet has arrived. -/
def State.ioArrive (s : State) (a : Agent) (pa : Addr) (op : BitVec 8) : State :=
  s.arrive fun p => p.op == op && p.src == BitVec.ofNat 8 (agentEyelet a pa.toNat) && p.pa == pa

/-- The answer to an I/O-type request leaves its destination. -/
def State.ioReply (s : State) (a : Agent) (pa : Addr) (txid : BitVec 12) (isRd : Bool) (r : Resp)
    (v : LineData := 0) : State :=
  let packet := match a with
    | .hart _ => true | .bobbin .. => true | .device .. => true | .harness _ => true | .debug => true
    | _ => false
  if packet then
    s.send { op := if isRd then 0x34 else 0x26, src := BitVec.ofNat 8 (s.ioDest pa.toNat),
             dst := BitVec.ofNat 8 (agentEyelet a pa.toNat), txid := txid, pa := pa, resp := r, data := v, prio := 2 }
  else s.reply a r v

/-! ### A port's queues -/

/-- Held stores are placed while their sub-port has credits, oldest first, and acknowledged (R208). A store
that stands behind one of the same requester that waits stays. DEDUCED (assumption 86). -/
def State.placeList (s : State) (k : Nat) (blocked : List Nat) : List YReq → State
  | [] => s
  | r :: rest =>
    let sub := (s.pcie k).sub r.sub
    if blocked.contains r.sub || sub.credits == 0 then s.placeList k (r.sub :: blocked) rest
    else
      let s := s.updPcie k fun x =>
        { x.updSub r.sub (fun y => { y with credits := y.credits - 1 }) with
          posted := x.posted.erase r, placed := x.placed ++ [r] }
      (s.ioReply r.agent r.pa (BitVec.ofNat 12 r.txid) false .ok).placeList k blocked rest

/-- A store reaches a sub-port. -/
def State.postStore (s : State) (k : Nat) (r : YReq) : State :=
  let s := s.uev 4 0x101 k (s.agentPocket r.agent)
  let s := s.updPcie k fun x => { x with posted := x.posted ++ [r] }
  s.placeList k [] (s.pcie k).posted

/-- A bridge's writable configuration bits take what a write of `size` bytes at `off` brings. -/
def State.cfgWrite (s : State) (k j off size : Nat) (v : BitVec 128) : State :=
  let n := off / 4
  let m := bridgeMask n &&& (2 ^ (8 * size) - 1) <<< (8 * (off % 4)) % 2 ^ 32
  let old := s.bridgeCfg k j n
  let new := (old &&& (0xFFFFFFFF ^^^ m)) ||| (v.toNat <<< (8 * (off % 4)) % 2 ^ 32 &&& m)
  if m = 0 then s else s.updPcie k fun x => x.updSub j fun y => { y with cfg := KMap.set 0 n new y.cfg }

/-- A write is to configuration space of a function that a pocket owns: 1 its command register, 2 one of its BARs.
DEDUCED (assumption 86). -/
def State.ownedCfg (s : State) (k pa : Nat) : Nat :=
  let off := pa % 2 ^ 45
  let owned := match (s.windowFunc k pa).bind (s.funcOwner k) with
    | some (_, q) => decide (q ≠ 0)
    | none => false
  if !owned || decide (2 ^ 28 ≤ off) then 0
  else if off % 4096 / 4 = 1 then 1
  else if 0x10 ≤ off % 4096 ∧ off % 4096 < 0x28 then 2
  else 0

/-- A store to a port's window (R207, R253, R367, R368, R373). -/
def State.mmioWr (s : State) (k : Nat) (a : Agent) (pa : Addr) (size : Nat) (v : BitVec 128)
    (txid : BitVec 12) : State :=
  let u := FenceUnit.pcie (Fin.ofNat 8 k)
  if !s.fenceIsOpen u then (s.fenceDropped u pa.toNat).ioReply a pa txid false .domoff
  else match s.windowCheck a k pa.toNat with
    | .viol reason => (s.windowViol a pa.toNat 0x40 reason txid.toNat).ioReply a pa txid false .viol
    | .domoff => s.ioReply a pa txid false .domoff
    | .decerr => s.ioReply a pa txid false .decerr
    | .pass =>
      match s.pcieDest k pa.toNat with
      | .none => s.ioReply a pa txid false .decerr
      | .cfg j off => (s.cfgWrite k j off size v).ioReply a pa txid false .ok
      | .sub j =>
        if !((s.pcie k).sub j).up then s.ioReply a pa txid false .decerr
        else if s.ownedCfg k pa.toNat = 2 then s.ioReply a pa txid false .ok
        else s.postStore k { agent := a, eye := agentEyelet a pa.toNat, txid := txid.toNat, op := 0x40, pa := pa, size := size,
                             kind := 4, off := s.ownedCfg k pa.toNat, data := placeAt v.toNat 0, sub := j }

/-- A load from a port's window: it awaits its completion. -/
def State.mmioRd (s : State) (k : Nat) (a : Agent) (pa : Addr) (size : Nat) (txid : BitVec 12) : State :=
  let u := FenceUnit.pcie (Fin.ofNat 8 k)
  if !s.fenceIsOpen u then
    (s.incF (R.fenceStatus u) F.fenceStatus_DOMOFF_COUNT).ioReply a pa txid true .domoff
  else match s.windowCheck a k pa.toNat with
    | .viol reason => (s.windowViol a pa.toNat 0x0E reason txid.toNat).ioReply a pa txid true .viol
    | .domoff => s.ioReply a pa txid true .domoff
    | .decerr => s.ioReply a pa txid true .decerr
    | .pass =>
      match s.pcieDest k pa.toNat with
      | .none => s.ioReply a pa txid true .decerr
      | .cfg j off =>
        let v := s.bridgeCfg k j (off / 4) + s.bridgeCfg k j (off / 4 + 1) <<< 32
        s.ioReply a pa txid true .ok (BitVec.ofNat 512 (v >>> (8 * (off % 4)) % 2 ^ (8 * size)))
      | .sub j =>
        if !((s.pcie k).sub j).up then s.ioReply a pa txid true .decerr
        else (s.uev 4 0x102 k (s.agentPocket a)).updPcie k fun x =>
          { x with nonposted := x.nonposted ++ [{ agent := a, eye := agentEyelet a pa.toNat, txid := txid.toNat, op := 0x0E,
                                                  pa := pa, size := size, kind := 4, sub := j }] }

/-- Credits of a device's sub-port (R208). -/
def flowControlCreditsEff (port : Fin 8) (sub : Fin 8) (n : BitVec 8) (s : State) : State :=
  let k := port.val
  if !((s.pcie k).sub sub.val).up then s
  else
    let s := s.updPcie k fun x => x.updSub sub.val fun y => { y with credits := y.credits + n.toNat }
    s.placeList k [] (s.pcie k).posted

/-- A completion from a device (R368): one that answers nothing is late (R51). -/
def pcieCompletionEff (port : Fin 8) (txid : BitVec 12) (st : CplStatus) (v : BitVec 128) (s : State) : State :=
  let k := port.val
  match (s.pcie k).nonposted.find? fun r => r.txid == txid.toNat with
  | none => s.lateAnswer (20 + k)
  | some r =>
    let s := s.updPcie k fun x => { x with nonposted := x.nonposted.erase r }
    let resp : Resp := match st with | .ok => .ok | .ur => .decerr | .ca => .decerr | .poisoned => .poison
    let d : LineData := if resp = .ok then BitVec.ofNat 512 (v.toNat % 2 ^ (8 * r.size)) else 0
    match r.agent with
    | .device .. => s.reply r.agent resp d
    | a => s.ioReply a r.pa txid true resp d

/-- An abandon notice (R211): a hart's stores that the port has not placed are discarded and counted. -/
def abandonEff (c : HartId) (port : Fin 8) (s : State) : State :=
  let k := port.val
  let s := s.arrive fun p => p.op == 0x56 && p.dst == BitVec.ofNat 8 (0xC0 + k) &&
    panelOfEyelet p.src.toNat == some c.panel.val && p.txid.toNat / 128 == c.core.val
  let mine := fun r : YReq => r.agent == .hart c
  let n := ((s.pcie k).posted.filter mine).length
  let s := { s with clk.late := KMap.upd 0 (20 + k) (· + n) s.clk.late }
  let s := s.updPcie k fun x => { x with posted := x.posted.filter fun r => !mine r }
  s.placeList k [] (s.pcie k).posted

/-! ### Device requests (R217, R329, R369, R372) -/

/-- How a function's requests enter: tagged, or answered Completer Abort while its hand-over runs, or
dropped at a port whose fence is not OPEN. DEDUCED (assumption 87). -/
def State.deviceMayEnter (s : State) (port : Fin 8) (rid : BitVec 16) : Bool :=
  s.fenceIsOpen (.pcie port) &&
    match s.funcOwner port.val rid.toNat with
    | some (en, _) => en
    | none => true

/-- A device's posted writes are sent once every earlier one of the same requester has been performed. -/
def State.inboundList (s : State) (k : Nat) (busy : List Agent) : List YReq → State
  | [] => s
  | r :: rest =>
    if busy.contains r.agent || s.io.reqs.any (fun q => q.agent == r.agent && !q.needData && q.kind == 4) then
      s.inboundList k (r.agent :: busy) rest
    else
      let s := s.updPcie k fun x => { x with inbound := x.inbound.erase r }
      (s.yokeSend r).inboundList k (r.agent :: busy) rest

def State.inboundPump (s : State) (k : Nat) : State := s.inboundList k [] (s.pcie k).inbound

/-- An error of a posted write, as the port's AER records it (R368). -/
def State.aerPost (s : State) (k : Nat) (r : Resp) : State := s.updPcie k fun x => { x with aer := x.aer ++ [r] }

def deviceReadEff (port : Fin 8) (rid : BitVec 16) (pa : Addr) (s : State) : State :=
  let a := Agent.device port rid
  if !s.deviceMayEnter port rid then s.reply a .domoff
  else match regionOf pa.toNat with
    | .bolt => s.yokeSend { agent := a, eye := 0, txid := 0, op := 0x08, pa := pa, size := 64, kind := 4 }
    | .ctl => s.yokeSend { agent := a, eye := 0, txid := 0, op := 0x0E, pa := pa, size := 4, kind := 4 }
    | _ => s.reply a .decerr

def deviceWriteEff (port : Fin 8) (rid : BitVec 16) (pa : Addr) (data : LineData) (be : Word) (s : State) :
    State :=
  let a := Agent.device port rid
  let k := port.val
  let put := fun op size => (s.updPcie k fun x =>
    { x with inbound := x.inbound ++ [{ agent := a, eye := 0, txid := 0, op := op, pa := pa, size := size, kind := 4,
                                        data := data, be := be, needData := false }] }).inboundPump k
  if !s.deviceMayEnter port rid then s.aerPost k .domoff
  else match regionOf pa.toNat with
    | .bolt => put 0x09 64
    | .ctl => put 0x40 4
    | _ => s.aerPost k .decerr

/-- AtomicOps a port completes: FetchAdd and Swap of 32 and 64 bits, CAS also of 128 (R365). -/
def atomicSupported (f : AmoFunc) (size : Size) : Bool :=
  match f, size with
  | .add, .b4 => true | .add, .b8 => true | .swap, .b4 => true | .swap, .b8 => true
  | .cas, .b4 => true | .cas, .b8 => true | .cas, .b16 => true
  | _, _ => false

def deviceAtomicEff (port : Fin 8) (rid : BitVec 16) (pa : Addr) (f : AmoFunc) (size : Size)
    (op cmp : BitVec 128) (s : State) : State :=
  let a := Agent.device port rid
  if !s.deviceMayEnter port rid then s.reply a .domoff
  else if !(atomicSupported f size && regionOf pa.toNat == .bolt) then s.reply a .decerr
  else
    let off := pa.toNat % 64
    s.yokeSend { agent := a, eye := 0, txid := 0, op := 0x05, pa := pa, size := size.bytes, kind := 4,
                 mod := BitVec.ofNat 8 (16 * f.code + 2 * size.code), cmp := cmp,
                 data := placeAt (op.toNat % 2 ^ (8 * size.bytes)) off, be := beOf off size.bytes }

/-- A peer-to-peer request at its destination port: a write is placed there, a read awaits its completion. -/
def State.p2pPlace (s : State) (port k j : Nat) (a : Agent) (pa : Addr) (isWrite : Bool) : State :=
  let r : YReq := { agent := a, eye := 0xC0 + port, txid := s.io.nextTx % 4096, op := if isWrite then 0x40 else 0x0E,
                    pa := pa, size := 64, kind := 4, sub := j }
  if isWrite then s.updPcie k fun x => { x with placed := x.placed ++ [r] }
  else { s with io.nextTx := s.io.nextTx + 1 }.updPcie k fun x => { x with nonposted := x.nonposted ++ [r] }

/-- A peer-to-peer request that fails: a write by AER, a read by its answer. -/
def State.p2pFail (s : State) (port : Nat) (a : Agent) (isWrite : Bool) (r : Resp) : State :=
  if isWrite then s.aerPost port r else s.reply a r

/-- A peer-to-peer request (R369): checked at the target port under the source function's pocket. -/
def peerToPeerEff (port : Fin 8) (rid : BitVec 16) (pa : Addr) (isWrite : Bool) (s : State) : State :=
  let a := Agent.device port rid
  if !s.deviceMayEnter port rid then s.p2pFail port.val a isWrite .domoff
  else match regionOf pa.toNat with
    | .mmio k =>
      let u := FenceUnit.pcie (Fin.ofNat 8 k)
      if !s.fenceIsOpen u then
        (if isWrite then s.fenceDropped u pa.toNat else s.incF (R.fenceStatus u) F.fenceStatus_DOMOFF_COUNT).p2pFail
          port.val a isWrite .domoff
      else match s.windowCheck a k pa.toNat with
        | .viol reason =>
          (s.windowViol a pa.toNat (if isWrite then 0x40 else 0x0E) reason 0).p2pFail port.val a isWrite .viol
        | .domoff => s.p2pFail port.val a isWrite .domoff
        | .decerr => s.p2pFail port.val a isWrite .decerr
        | .pass =>
          match s.pcieDest k pa.toNat with
          | .sub j =>
            if !((s.pcie k).sub j).up then s.p2pFail port.val a isWrite .decerr
            else s.p2pPlace port.val k j a pa isWrite
          | _ => s.p2pFail port.val a isWrite .decerr
    | _ => s.p2pFail port.val a isWrite .decerr

/-- ATS requests (R372): served under the host world's device context, else answered as the entry says. -/
def atsRequestEff (port : Fin 8) (rid : BitVec 16) (s : State) : State :=
  let a := Agent.device port rid
  match s.funcOwner port.val rid.toNat with
  | none => s.reply a .ok
  | some (false, _) => s.reply a .domoff
  | some (true, q) => s.reply a (if q = 0 then .ok else .decerr)

/-! ### Links (R365, R368, R375) -/

/-- A sub-port's link goes down: its outstanding requests get DECERR, its placed writes are dropped. -/
def State.subDown (s : State) (k j : Nat) : State :=
  let x := s.pcie k
  let np := x.nonposted.filter (·.sub == j)
  let held := x.posted.filter (·.sub == j)
  let lost := x.placed.filter (·.sub == j)
  let s := s.updPcie k fun x =>
    { x.updSub j (fun y => { y with up := false, speed := 0, width := 0, credits := 0 }) with
      nonposted := x.nonposted.filter (·.sub != j), posted := x.posted.filter (·.sub != j)
      placed := x.placed.filter (·.sub != j), aer := x.aer ++ lost.map fun _ => Resp.decerr
      cxlCap := if j = 0 then 0 else x.cxlCap }
  let s := np.foldl (fun s r => match r.agent with
    | .device .. => s.reply r.agent .decerr
    | a => s.ioReply a r.pa (BitVec.ofNat 12 r.txid) true .decerr) s
  (held.foldl (fun s r => s.ioReply r.agent r.pa (BitVec.ofNat 12 r.txid) false .decerr) s).refreshBolts

/-- The service port's link registers follow its link. -/
def State.svcLink (s : State) : State :=
  let y := (s.pcie 8).sub 0
  let s := s.setF R.svcStatus F.svcStatus_LINK_UP (if y.up then 1 else 0)
  (s.setF R.svcStatus F.svcStatus_LINK_SPEED y.speed).setF R.svcStatus F.svcStatus_LINK_WIDTH y.width

def linkDownEff (port : Fin 9) (sub : Fin 8) (s : State) : State :=
  if !((s.pcie port.val).sub sub.val).up then s
  else
    let s := s.subDown port.val sub.val
    if port.val = 8 then s.svcLink else s

/-- Link training ends (R365, R366, R375): rate under MAX_GEN, lanes under MODE; a CXL device on sub-port 0
where the layout lets it, at x8 or more (R269). DEDUCED (assumption 88). -/
def linkUpEff (port : Fin 9) (sub : Fin 8) (speed width : BitVec 4) (cxlGib : BitVec 16) (s : State) : State :=
  let k := port.val
  if k = 8 then
    if sub.val ≠ 0 then s
    else (s.updPcie 8 fun x => x.updSub 0 fun y =>
      { y with up := true, speed := clampN 1 5 speed.toNat, width := min 3 width.toNat }).svcLink
  else
    match (subLanes (s.pcieMode k))[sub.val]? with
    | none => s
    | some lanes =>
      if !s.fenceIsOpen (.pcie (Fin.ofNat 8 k)) then s
      else
        let w := min (Nat.log2 lanes) width.toNat
        let cxl := decide (k < 4) && sub.val == 0 && bit (s.cfg 0xC0 k 2 1 0) 0 && decide (3 ≤ w)
        (s.updPcie k fun x =>
          { x.updSub sub.val (fun y => { y with up := true, width := w
                                                speed := clampN 1 (s.cfg 0xC0 k 1 1 6) speed.toNat }) with
            cxlCap := if cxl then cxlGib.toNat else x.cxlCap }).refreshBolts

/-- A hot-plug bus frame (R370, R468): an input that has held for two frames is acted on. A slot whose
presence input has gone loses its link. DEDUCED (assumption 88). -/
def hotPlugFrameEff (k : Fin 8) (din : Word) (s : State) : State :=
  let hp := s.cfg 0xC0 k.val 3 1 0
  if hp = 0 then s
  else
    let s := s.advance ((s.tape / 10000 + 1) * 10000)
    (List.range (subLanes (s.pcieMode k.val)).length).foldl (fun s j =>
      if !bit hp j then s
      else
        let v := din.toNat >>> (8 * j) % 256 / 16 * 16
        let y := (s.pcie k.val).sub j
        let act := if v = y.hpIn then v else y.hpAct
        let s := s.updPcie k.val fun x => x.updSub j fun y => { y with hpIn := v, hpAct := act }
        if bit act 7 && y.up then s.subDown k.val j else s) s

def execAbandon (c : HartId) (port : Fin 8) (s : State) : Host.Outcome State Fault Refusal :=
  .next (abandonEff c port s)
def execDeviceRead (port : Fin 8) (rid : BitVec 16) (pa : Addr) (s : State) : Host.Outcome State Fault Refusal :=
  .next (s.live (deviceReadEff port rid pa s))
def execDeviceWrite (port : Fin 8) (rid : BitVec 16) (pa : Addr) (data : LineData) (be : Word) (s : State) : Host.Outcome State Fault Refusal :=
  .next (s.live (deviceWriteEff port rid pa data be s))
def execDeviceAtomic (port : Fin 8) (rid : BitVec 16) (pa : Addr) (f : AmoFunc) (size : Size) (op cmp : BitVec 128) (s : State) : Host.Outcome State Fault Refusal :=
  .next (s.live (deviceAtomicEff port rid pa f size op cmp s))
def execPeerToPeer (port : Fin 8) (rid : BitVec 16) (pa : Addr) (isWrite : Bool) (s : State) : Host.Outcome State Fault Refusal :=
  .next (s.live (peerToPeerEff port rid pa isWrite s))
def execPcieCompletion (port : Fin 8) (txid : BitVec 12) (st : CplStatus) (v : BitVec 128) (s : State) : Host.Outcome State Fault Refusal :=
  .next (s.live (pcieCompletionEff port txid st v s))
def execLinkDown (port : Fin 9) (sub : Fin 8) (s : State) : Host.Outcome State Fault Refusal :=
  .next (linkDownEff port sub s)
def execHotPlugFrame (k : Fin 8) (din : Word) (s : State) : Host.Outcome State Fault Refusal :=
  .next (hotPlugFrameEff k din s)
def execLinkUp (port : Fin 9) (sub : Fin 8) (speed : BitVec 4) (width : BitVec 4) (cxlGib : BitVec 16) (s : State) : Host.Outcome State Fault Refusal :=
  .next (linkUpEff port sub speed width cxlGib s)
def execAtsRequest (port : Fin 8) (rid : BitVec 16) (s : State) : Host.Outcome State Fault Refusal :=
  .next (s.live (atsRequestEff port rid s))
def execFlowControlCredits (port : Fin 8) (sub : Fin 8) (n : BitVec 8) (s : State) : Host.Outcome State Fault Refusal :=
  .next (flowControlCreditsEff port sub n s)

end Sys2Proof.Machine
end

