-- ==== Sys2Proof/Machine/BobOps.lean ====
section
/-! DEFINITION. The Bobbin engines (R216, R380-R391): descriptors, beats, the rate limiter, completion,
interrupts and halts. -/

namespace Sys2Proof.Machine

/-! ### Channels -/

def State.chan (s : State) (n c : Nat) : ChanSt := KMap.get {} s.io.chans (8 * n + c)
def State.updChan (s : State) (n c : Nat) (f : ChanSt → ChanSt) : State :=
  { s with io.chans := KMap.set {} (8 * n + c) (f (s.chan n c)) s.io.chans }

/-- The agent of a channel. -/
def chanAgent (n c : Nat) : Agent := .bobbin (Fin.ofNat 64 n) (Fin.ofNat 8 c)

/-- STATE of a channel: 0 IDLE, 1 RUNNING, 2 HALTED, 3 STOPPING (R390). -/
def State.chanState (s : State) (n c : Nat) : Nat := s.fld (R.chCtl n c) F.chCtl_STATE

/-- A request is a beat of a channel. -/
def isBeat (n c : Nat) (r : YReq) : Bool := r.agent == chanAgent n c && r.kind ≤ 1

/-- INFLIGHT follows the channel's outstanding beats. -/
def State.chanFlight (s : State) (n c : Nat) : State :=
  s.setF (R.chCtl n c) F.chCtl_INFLIGHT (s.io.reqs.filter (isBeat n c)).length

/-- The channel's MSI is sent (R387). -/
def State.chanMsi (s : State) (n c : Nat) : State :=
  s.sendMsi (s.fld (R.chMsiAddr n c) F.chMsiAddr_ADDR * 4) (s.fld (R.chMsiData n c) F.chMsiData_DATA)

/-! ### The descriptor's fields (R381, R382) -/

def ctlLast (v : Nat) : Bool := bit v 5
def ctlFix (v : Nat) : Nat := 2 ^ min 6 (v / 2 ^ 12 % 8)
def ctlChain (v : Nat) : Nat := min 1 (v / 2 ^ 8 % 4)
def ctlPrio (v : Nat) : Nat := min 2 (v / 2 ^ 6 % 4)

/-- Bytes of the descriptor written in the sense of R385: acknowledged with BARRIER, else issued. -/
def ChanSt.written (x : ChanSt) : Nat := if bit x.ctl 2 then x.acked else x.issued
def ChanSt.writtenHalf (x : ChanSt) : Nat := if bit x.ctl 2 then x.ackHalf else x.issHalf

/-- BYTES_DONE follows the channel; IRQ_HALF fires once the first half is written (R387). -/
def State.chanProgress (s : State) (n c : Nat) : State :=
  let x := s.chan n c
  let s := s.setF (R.chDone n c) F.chDone_BYTES_DONE x.written
  if bit x.ctl 3 && !x.half && decide (2 ≤ x.len) && x.writtenHalf == x.len / 2 then
    ((s.updChan n c fun x => { x with half := true }).setF (R.chIrq n c) F.chIrq_HALF 1).chanMsi n c
  else s

/-- The status ATOM on CTL (R386): DONE and RESP set. -/
def State.chanAtom (s : State) (n c : Nat) (r : Resp) : State :=
  let pa := s.fld (R.chDesc n c) F.chDesc_ADDR * 32 + 0x14
  let v := 2 ^ 31 + respCode r <<< 28
  s.yokeSend { agent := chanAgent n c, eye := 0, txid := 0, op := 0x05, pa := BitVec.ofNat 56 pa, size := 4, kind := 3,
               mod := 0x34, data := placeAt v (pa % 64), be := beOf (pa % 64) 4 }

/-- A channel halts (R389): RESP, the failing address, the bytes before it; its MSI; an attempt of the
status ATOM where `atom`. -/
def State.chanHalt (s : State) (n c : Nat) (r : Resp) (addr : Nat) (bytes : Option Nat) (atom : Bool := true) :
    State :=
  let s := s.setF (R.chCtl n c) F.chCtl_STATE 2
  let s := s.setF (R.chCtl n c) F.chCtl_RESP (respCode r)
  let s := s.setF (R.chErrAddr n c) F.chErrAddr_ADDR addr
  let s := match bytes with
    | some b => s.setF (R.chDone n c) F.chDone_BYTES_DONE b
    | none => s
  let s := (s.setF (R.chIrq n c) F.chIrq_ERR 1).chanMsi n c
  let s := s.updChan n c fun x => { x with stage := 0, t := none, buf := [] }
  if atom then s.chanAtom n c r else s

/-- Offset of a channel's next unwritten byte, in the order it walks. -/
def ChanSt.nextByte (x : ChanSt) : Nat := if x.down then x.len - x.issued - 1 else x.issued

/-- The destination address of an offset. -/
def ChanSt.dstAt (x : ChanSt) (o : Nat) : Nat := if bit x.ctl 1 then x.dst + o else x.dst
/-- The source address of an offset. -/
def ChanSt.srcAt (x : ChanSt) (o : Nat) : Nat := if bit x.ctl 0 then x.src + o else x.src

/-! ### Starting -/

/-- The channel fetches the descriptor at CH_DESC by one 32-byte RD_C (R380). -/
def State.chanFetch (s : State) (n c stage : Nat) : State :=
  let s := s.updChan n c fun x => { x with stage := stage }
  s.yokeSend { agent := chanAgent n c, eye := 0, txid := 0, op := 0x08, size := 32, kind := 2
               pa := BitVec.ofNat 56 (s.fld (R.chDesc n c) F.chDesc_ADDR * 32) }

/-- A write of GO = 1 (R390). -/
def State.chanGo (s : State) (n c : Nat) : State :=
  let r := R.chCtl n c
  let st := s.chanState n c
  if (st = 0 ∨ st = 2) ∧ s.fld r F.chCtl_INFLIGHT = 0 then
    let s := (s.setF r F.chCtl_STATE 1).setF r F.chCtl_RESP 0
    let s := s.setF (R.chDone n c) F.chDone_BYTES_DONE 0
    s.chanFetch n c 1
  else s

/-- A write of ABORT = 1 (R390). -/
def State.chanAbort (s : State) (n c : Nat) : State :=
  if s.chanState n c = 1 then s.setF (R.chCtl n c) F.chCtl_STATE 3 else s

/-- Requests to a channel's registers while its engine's fence is not OPEN receive DOMOFF (R253). -/
def State.bobGuard (s : State) (a : Agent) (n : Fin 64) (off : Nat) (f : State → State × Resp) : State :=
  if s.fenceIsOpen (.bob n) then s.ctlGuard a off f
  else (s.fenceDropped (.bob n) (2 ^ 49 + off)).reply a .domoff

def chGoEff (a : Agent) (n : Fin 64) (c : Fin 8) (s : State) : State :=
  s.bobGuard a n (R.chCtl n.val c.val).addr fun s => (s.chanGo n.val c.val, .ok)
def chAbortEff (a : Agent) (n : Fin 64) (c : Fin 8) (s : State) : State :=
  s.bobGuard a n (R.chCtl n.val c.val).addr fun s => (s.chanAbort n.val c.val, .ok)

/-- A STOPPING channel with nothing in flight becomes IDLE, with no status ATOM and no MSI (R390). -/
def channelStoppedEff (n : Fin 64) (c : Fin 8) (s : State) : State :=
  if s.chanState n.val c.val = 3 ∧ s.fld (R.chCtl n.val c.val) F.chCtl_INFLIGHT = 0 then
    (s.setF (R.chCtl n.val c.val) F.chCtl_STATE 0).updChan n.val c.val fun x =>
      { x with stage := 0, t := none, buf := [] }
  else s

/-- A side of a descriptor touches an address no descriptor may name (R383): the first such byte. -/
def badSide (a len : Nat) (inc : Bool) (fix : Nat) : Option Nat :=
  let n := if inc then len else min len fix
  if 2 ^ 56 ≤ a then some (a % 2 ^ 56)
  else if n = 0 then none
  else if inc ∧ 2 ^ 56 < a + n then some (if 2 ^ 55 ≤ a then a else 2 ^ 55)
  else
    let first := fun lo hi => if a < hi ∧ lo < a + n then some (max a lo) else none
    match first (2 ^ 49) (2 ^ 49 + 2 ^ 32) with
    | some b => some b
    | none => first (2 ^ 55) (2 ^ 56)

/-- A fetched descriptor starts (R381-R384, R388), or its addresses halt the channel. -/
def State.chanStart (s : State) (n c : Nat) (d : Nat) : State :=
  let src := d % 2 ^ 64
  let dst := d / 2 ^ 64 % 2 ^ 64
  let len := d / 2 ^ 128 % 2 ^ 32
  let ctl := d / 2 ^ 160 % 2 ^ 32
  let inc := bit ctl 0 && bit ctl 1
  let dl := s.dlCopy (28 + n) 6
  let s := s.updChan n c fun x =>
    { x with stage := 2, serial := x.serial + 1, src := src, dst := dst, len := len, ctl := ctl
             down := inc && decide (src < dst) && decide (dst < src + len)
             read := 0, issued := 0, acked := 0, issHalf := 0, ackHalf := 0, half := false, buf := []
             credit := 1024, creditAt := s.tape
             t := if bit ctl 10 && dl != 0 then some ⟨6, s.tape, dl, 0⟩ else none }
  match badSide src len (bit ctl 0) (ctlFix ctl), badSide dst len (bit ctl 1) (ctlFix ctl) with
  | some a, _ => s.chanHalt n c .decerr a (some 0)
  | none, some a => s.chanHalt n c .decerr a (some 0)
  | none, none => s.setF (R.chDone n c) F.chDone_BYTES_DONE 0

/-! ### Beats (R383, R388) -/

/-- The share in force, in bytes per ns. -/
def State.chanShare (s : State) (n c : Nat) : Nat :=
  let mx := s.fld (R.chLimit n c) F.chLimit_SHARE_MAX
  let v := s.fld (R.chCtl n c) F.chCtl_SHARE
  max 1 (if v = 0 then mx else min v mx)

/-- Credit of a channel at Tape time `t`. -/
def ChanSt.creditNow (x : ChanSt) (share t : Nat) : Nat := min 1024 (x.credit + share * (t - x.creditAt))

/-- Offset and bytes of the next source beat. -/
def ChanSt.nextBeat (x : ChanSt) : Nat × Nat :=
  let left := x.len - x.read
  if !bit x.ctl 0 then (x.read, min (ctlFix x.ctl) left)
  else if x.down then
    let top := x.src + left
    let b := min ((top - 1) % 64 + 1) left
    (left - b, b)
  else (x.read, min (64 - (x.src + x.read) % 64) left)

/-- A source beat is issued, once the credit allows it. -/
def sourceBeatEff (n : Fin 64) (c : Fin 8) (s : State) : State :=
  let nn := n.val
  let cc := c.val
  let x := s.chan nn cc
  let r := R.chCtl nn cc
  if s.chanState nn cc ≠ 1 ∨ x.stage ≠ 2 ∨ x.len ≤ x.read ∨ !s.fenceIsOpen (.bob n) ∨
      s.fld (R.chLimit nn cc) F.chLimit_MAX_BEATS ≤ s.fld r F.chCtl_INFLIGHT then s
  else
    let (o, b) := x.nextBeat
    let s := s.uev 4 0x110 nn (s.agentPocket (chanAgent nn cc))
    let share := s.chanShare nn cc
    let have' := x.creditNow share s.tape
    let s := if b ≤ have' then s else s.advance (s.tape + (b - have' + share - 1) / share)
    let cr := x.creditNow share s.tape
    let s := s.updChan nn cc fun x =>
      { x with read := x.read + b, credit := cr - b, creditAt := s.tape }
    let a := x.srcAt o
    let io := !bit x.ctl 0 && match regionOf a with | .mmio _ => true | _ => false
    (s.yokeSend { agent := .bobbin n c, eye := 0, txid := 0, op := if io then 0x0E else 0x08, pa := BitVec.ofNat 56 a,
                  size := b, kind := 0, off := o, sub := x.serial }).chanFlight nn cc

/-- One write of a channel: `m` bytes for offset `o` at address `a`. -/
def State.chanWrite (s : State) (n c o m a v : Nat) : State :=
  let x := s.chan n c
  let io := !bit x.ctl 1 && match regionOf a with | .mmio _ => true | _ => false
  let h := min m (x.len / 2 - o)
  let s := s.updChan n c fun x => { x with issued := x.issued + m, issHalf := x.issHalf + h }
  let q : YReq := { agent := chanAgent n c, eye := 0, txid := 0, op := if io then 0x40 else 0x09, pa := BitVec.ofNat 56 a,
                    size := m, kind := 1, off := o, sub := x.serial, needData := false
                    data := if io then placeAt v 0 else placeAt v (a % 64)
                    be := if io then beOf 0 m else beOf (a % 64) m }
  s.yokeSend q

/-- Bytes read for an incrementing destination are written, at most a line at a time. -/
def State.chanCopy (s : State) (n c o m v : Nat) : State :=
  let a := (s.chan n c).dst + o
  let first := min m (64 - a % 64)
  let s := s.chanWrite n c o first a (v % 2 ^ (8 * first))
  if first < m then s.chanWrite n c (o + first) (m - first) (a + first) (v >>> (8 * first)) else s

/-- Whole units of a fixed destination are written in order, `fuel` at most. -/
def State.chanUnits (s : State) (n c : Nat) : Nat → State
  | 0 => s
  | fuel + 1 =>
    let x := s.chan n c
    let m := min (ctlFix x.ctl) (x.len - x.issued)
    let o := x.issued
    if m = 0 ∨ !((List.range m).all fun i => KMap.get 0 x.buf (o + i) != 0) then s
    else
      let v := (List.range m).foldl (fun v i => v + (KMap.get 0 x.buf (o + i) - 1) <<< (8 * i)) 0
      let s := s.updChan n c fun x => { x with buf := (List.range m).foldl (fun b i => KMap.erase (o + i) b) x.buf }
      (s.chanWrite n c o m x.dst v).chanUnits n c fuel

/-- The first poisoned byte of a beat at line offset `off`, `m` bytes. -/
def firstPoison (po : BitVec 4) (off m : Nat) : Option Nat :=
  (List.range m).find? fun i => po.getLsbD ((off + i) / 16)

/-- A beat's source bytes have come (R385, R389). -/
def State.chanRead (s : State) (n c : Nat) (r : YReq) (resp : Resp) (d : LineData) (po : BitVec 4) : State :=
  let x := s.chan n c
  let s := s.chanFlight n c
  if s.chanState n c ≠ 1 ∨ x.stage ≠ 2 ∨ r.sub ≠ x.serial then s
  else
    let a := r.pa.toNat
    let off := if r.op = 0x0E then 0 else a % 64
    let bad := if resp = .poison then some 0 else firstPoison po off r.size
    if resp ≠ .ok ∧ resp ≠ .poison then s.chanHalt n c resp a (some r.off)
    else match bad with
      | some i =>
        let s := s.err (28 + n) 2 1 (unitCode 0x0F (8 * n + c)) 1 (a + i)
          (poisonMisc 3 (s.agentPocket r.agent) r.txid 0x1FF)
        s.chanHalt n c .poison (a + i) (some (r.off + i))
      | none =>
        let v := lineNat d off r.size
        let s := if bit x.ctl 1 then s.chanCopy n c r.off r.size v
          else
            let put := fun (b : KMap Nat) i => KMap.set 0 (r.off + i) (v >>> (8 * i) % 256 + 1) b
            let s := s.updChan n c fun x => { x with buf := (List.range r.size).foldl put x.buf }
            s.chanUnits n c (r.size + 64)
        (s.chanProgress n c).chanFlight n c

/-- A write of a channel has been acknowledged, or refused (R385, R389). -/
def State.chanWrote (s : State) (n c : Nat) (r : YReq) (resp : Resp) : State :=
  let x := s.chan n c
  let s := s.chanFlight n c
  let st := s.chanState n c
  if resp ≠ .ok then
    if st = 1 then s.chanHalt n c resp r.pa.toNat (if r.sub = x.serial then some r.off else none) else s
  else if r.sub ≠ x.serial then s
  else
    let h := min r.size (x.len / 2 - r.off)
    let s := s.updChan n c fun x => { x with acked := x.acked + r.size, ackHalf := x.ackHalf + h }
    if st = 1 then s.chanProgress n c else s

/-! ### Completion (R385-R387) -/

/-- The channel has writes that are not acknowledged. -/
def State.chanBusy (s : State) (n c : Nat) : Bool :=
  s.io.reqs.any fun r => r.agent == chanAgent n c && r.kind == 1

/-- A descriptor completes: IRQ_HALF of a short one fires, and the status ATOM is issued. -/
def descriptorCompleteEff (n : Fin 64) (c : Fin 8) (s : State) : State :=
  let x := s.chan n.val c.val
  if s.chanState n.val c.val ≠ 1 ∨ x.stage ≠ 2 ∨ x.issued ≠ x.len ∨ (bit x.ctl 2 && s.chanBusy n.val c.val) then s
  else
    let s := if bit x.ctl 3 && decide (x.len < 2) then
        (s.setF (R.chIrq n.val c.val) F.chIrq_HALF 1).chanMsi n.val c.val else s
    let s := s.updChan n.val c.val fun x => { x with stage := 3, t := none }
    s.chanAtom n.val c.val .ok

/-- The channel goes on with the descriptor at `a`. -/
def State.chanNext (s : State) (n c a : Nat) : State :=
  (s.setF (R.chDesc n c) F.chDesc_ADDR (a / 32)).chanFetch n c 1

/-- The status ATOM of a channel that is back. DEDUCED (assumption 92). -/
def State.atomBack (s : State) (n c : Nat) : Option YReq :=
  s.io.reqs.find? fun r => r.agent == chanAgent n c && r.kind == 3 && r.granted && r.got.isSome

/-- The status ATOM returns the old CTL (R386): IRQ_FULL fires; LAST ends the chain, else the next
descriptor is found by CHAIN, NEXT being read now. -/
def statusAtomEff (n : Fin 64) (c : Fin 8) (s : State) : State :=
  let nn := n.val
  let cc := c.val
  match s.atomBack nn cc with
  | none => s
  | some r =>
    let old := match r.got with | some (d, _) => lineNat d (r.pa.toNat % 64) 4 | none => 0
    let s := s.dropYoke r.eye r.txid
    let x := s.chan nn cc
    if s.chanState nn cc ≠ 1 ∨ x.stage ≠ 3 then s
    else
      let s := s.setF (R.chDone nn cc) F.chDone_DESCS (s.fld (R.chDone nn cc) F.chDone_DESCS + 1)
      let s := if bit x.ctl 4 then (s.setF (R.chIrq nn cc) F.chIrq_FULL 1).chanMsi nn cc else s
      if ctlLast old then
        (s.setF (R.chCtl nn cc) F.chCtl_STATE 0).updChan nn cc fun x => { x with stage := 0 }
      else if ctlChain old = 1 then s.chanNext nn cc (s.fld (R.chDesc nn cc) F.chDesc_ADDR * 32 + 32)
      else s.chanFetch nn cc 4

/-- A descriptor fetch has come back, or failed (R380, R389). -/
def State.chanFetched (s : State) (n c : Nat) (r : YReq) (resp : Resp) (d : LineData) (po : BitVec 4) : State :=
  let x := s.chan n c
  let off := r.pa.toNat % 64
  let resp := if resp = .ok ∧ poisonHit po off 32 then Resp.poison else resp
  if s.chanState n c ≠ 1 then s
  else if resp ≠ .ok then s.chanHalt n c resp r.pa.toNat none
  else
    let v := lineNat d off 32
    match x.stage with
    | 1 => s.chanStart n c v
    | 4 => s.chanNext n c (v / 2 ^ 192 % 2 ^ 56)
    | _ => s

/-- A status ATOM that failed halts a channel that runs (R389). DEDUCED (assumption 92). -/
def State.chanAtomFailed (s : State) (n c : Nat) (r : YReq) (resp : Resp) : State :=
  if s.chanState n c = 1 ∧ (s.chan n c).stage = 3 then
    s.chanHalt n c resp (r.pa.toNat - 0x14) none false
  else s

/-- The DMA deadline of a descriptor expires (R54, R389). -/
def dmaExpiryEff (n : Fin 64) (c : Fin 8) (s : State) : State :=
  let x := s.chan n.val c.val
  match x.t with
  | none => s
  | some t =>
    let s := s.advance t.due
    let o := x.nextByte
    let pk := s.agentPocket (.bobbin n c)
    let s := s.err (28 + n.val) 1 3 (unitCode 0x0F (8 * n.val + c.val)) 1 (x.dstAt o)
      (dlMisc 6 pk 0 0xFF (s.tape - t.due))
    s.chanHalt n.val c.val .late (x.dstAt o) (some o)

/-- Every running channel of an engine stops for its fence (R252, R389). -/
def State.bobDrain (s : State) (n : Nat) : State :=
  (List.range 8).foldl (fun s c =>
    if s.chanState n c = 1 then
      let x := s.chan n c
      let o := x.nextByte
      s.chanHalt n c .domoff (x.dstAt o) (some (if x.stage = 2 then o else 0))
    else s) s

def execDmaExpiry (n : Fin 64) (c : Fin 8) (s : State) : Host.Outcome State Fault Refusal :=
  .next (dmaExpiryEff n c s)
def execChGo (a : Agent) (n : Fin 64) (c : Fin 8) (s : State) : Host.Outcome State Fault Refusal :=
  .next (s.live (chGoEff a n c s))
def execChAbort (a : Agent) (n : Fin 64) (c : Fin 8) (s : State) : Host.Outcome State Fault Refusal :=
  .next (s.live (chAbortEff a n c s))
def execChannelStopped (n : Fin 64) (c : Fin 8) (s : State) : Host.Outcome State Fault Refusal :=
  .next (s.live (channelStoppedEff n c s))
def execSourceBeat (n : Fin 64) (c : Fin 8) (s : State) : Host.Outcome State Fault Refusal :=
  .next (s.live (sourceBeatEff n c s))
def execDescriptorComplete (n : Fin 64) (c : Fin 8) (s : State) : Host.Outcome State Fault Refusal :=
  .next (s.live (descriptorCompleteEff n c s))
def execStatusAtom (n : Fin 64) (c : Fin 8) (s : State) : Host.Outcome State Fault Refusal :=
  .next (s.live (statusAtomEff n c s))

end Sys2Proof.Machine
end

