-- ==== Sys2Proof/Machine/Crypto.lean ====
section
/-! DEFINITION. The Keeper's engines (R416): SHA-256, HMAC-SHA-256 and RSASSA-PSS verification with
RSA-3072, as the standards the spec names define them (PRESUMED: FIPS 180-4, RFC 2104, RFC 8017). -/

namespace Sys2Proof.Machine

/-! ### SHA-256 -/

abbrev W32 := BitVec 32

def shaK0 : List W32 := [
  0x428a2f98, 0x71374491, 0xb5c0fbcf, 0xe9b5dba5, 0x3956c25b, 0x59f111f1, 0x923f82a4, 0xab1c5ed5,
  0xd807aa98, 0x12835b01, 0x243185be, 0x550c7dc3, 0x72be5d74, 0x80deb1fe, 0x9bdc06a7, 0xc19bf174]
def shaK1 : List W32 := [
  0xe49b69c1, 0xefbe4786, 0x0fc19dc6, 0x240ca1cc, 0x2de92c6f, 0x4a7484aa, 0x5cb0a9dc, 0x76f988da,
  0x983e5152, 0xa831c66d, 0xb00327c8, 0xbf597fc7, 0xc6e00bf3, 0xd5a79147, 0x06ca6351, 0x14292967]
def shaK2 : List W32 := [
  0x27b70a85, 0x2e1b2138, 0x4d2c6dfc, 0x53380d13, 0x650a7354, 0x766a0abb, 0x81c2c92e, 0x92722c85,
  0xa2bfe8a1, 0xa81a664b, 0xc24b8b70, 0xc76c51a3, 0xd192e819, 0xd6990624, 0xf40e3585, 0x106aa070]
def shaK3 : List W32 := [
  0x19a4c116, 0x1e376c08, 0x2748774c, 0x34b0bcb5, 0x391c0cb3, 0x4ed8aa4a, 0x5b9cca4f, 0x682e6ff3,
  0x748f82ee, 0x78a5636f, 0x84c87814, 0x8cc70208, 0x90befffa, 0xa4506ceb, 0xbef9a3f7, 0xc67178f2]
/-- The round constants. -/
def shaK : List W32 := shaK0 ++ shaK1 ++ shaK2 ++ shaK3
/-- The initial hash value. -/
def shaInit : List W32 := [
  0x6a09e667, 0xbb67ae85, 0x3c6ef372, 0xa54ff53a, 0x510e527f, 0x9b05688c, 0x1f83d9ab, 0x5be0cd19]

/-- A big-endian number of the bytes. -/
def be (l : List Byte) : Nat := l.foldl (fun a b => 256 * a + b.toNat) 0
/-- The `n` big-endian bytes of a number. -/
def beBytes (n v : Nat) : List Byte := (List.range n).map fun i => BitVec.ofNat 8 (v >>> (8 * (n - 1 - i)))
/-- The `n` little-endian bytes of a number. -/
def leBytes (n v : Nat) : List Byte := (List.range n).map fun i => BitVec.ofNat 8 (v >>> (8 * i))
/-- A list of bytes as the little-endian number the registers show. -/
def leNat (l : List Byte) : Nat := le l 0 l.length

/-- The message with its padding. -/
def shaPad (l : List Byte) : List Byte :=
  l ++ [0x80] ++ List.replicate ((119 - l.length % 64) % 64) 0 ++ beBytes 8 (8 * l.length)

/-- The message schedule, newest word first, extended by `n` words. -/
def shaExtend : Nat → List W32 → List W32
  | 0, w => w
  | n + 1, w =>
    let a := w.getD 1 0
    let b := w.getD 14 0
    let s1 := a.rotateRight 17 ^^^ a.rotateRight 19 ^^^ (a >>> 10)
    let s0 := b.rotateRight 7 ^^^ b.rotateRight 18 ^^^ (b >>> 3)
    shaExtend n ((s1 + w.getD 6 0 + s0 + w.getD 15 0) :: w)

/-- One round over the eight working variables. -/
def shaRound (v : List W32) (kw : W32 × W32) : List W32 :=
  let a := v.getD 0 0
  let b := v.getD 1 0
  let c := v.getD 2 0
  let e := v.getD 4 0
  let s1 := e.rotateRight 6 ^^^ e.rotateRight 11 ^^^ e.rotateRight 25
  let ch := (e &&& v.getD 5 0) ^^^ (~~~ e &&& v.getD 6 0)
  let t1 := v.getD 7 0 + s1 + ch + kw.1 + kw.2
  let s0 := a.rotateRight 2 ^^^ a.rotateRight 13 ^^^ a.rotateRight 22
  let maj := (a &&& b) ^^^ (a &&& c) ^^^ (b &&& c)
  [t1 + s0 + maj, a, b, c, v.getD 3 0 + t1, e, v.getD 5 0, v.getD 6 0]

/-- One block of 64 bytes. -/
def shaBlock (h : List W32) (block : List Byte) : List W32 :=
  let w := (List.range 16).map fun i => BitVec.ofNat 32 (be ((block.drop (4 * i)).take 4))
  let w := (shaExtend 48 w.reverse).reverse
  List.zipWith (· + ·) h ((shaK.zip w).foldl shaRound h)

/-- `n` blocks. -/
def shaBlocks : Nat → List W32 → List Byte → List W32
  | 0, h, _ => h
  | n + 1, h, l => shaBlocks n (shaBlock h (l.take 64)) (l.drop 64)

/-- SHA-256 of a message: 32 bytes. PRESUMED (assumption 64). -/
def sha256 (l : List Byte) : List Byte :=
  let p := shaPad l
  (shaBlocks (p.length / 64) shaInit p).flatMap fun w => beBytes 4 w.toNat

/-- HMAC-SHA-256 under a key of at most 64 bytes. PRESUMED (assumption 64). -/
def hmac (key m : List Byte) : List Byte :=
  let k := key ++ List.replicate (64 - key.length) 0
  sha256 (k.map (· ^^^ 0x5C) ++ sha256 (k.map (· ^^^ 0x36) ++ m))

/-! ### RSASSA-PSS -/

/-- `b` to the power `e` modulo `n`, over `k` bits of the exponent. -/
def modPow (n : Nat) : Nat → Nat → Nat → Nat
  | 0, _, _ => 1 % n
  | k + 1, b, e =>
    let r := modPow n k (b * b % n) (e / 2)
    if e % 2 = 1 then b * r % n else r

/-- `n` bytes of MGF1 with SHA-256. -/
def mgf1 (seed : List Byte) (n : Nat) : List Byte :=
  ((List.range ((n + 31) / 32)).flatMap fun i => sha256 (seed ++ beBytes 4 i)).take n

/-- RSASSA-PSS verification with SHA-256, a 32-byte salt and a 3,072-bit modulus. PRESUMED (assumption 64). -/
def pssVerify (n e : Nat) (m : List Byte) (sig : Nat) : Bool :=
  if n = 0 ∨ n ≤ sig then false
  else
    let em := beBytes 384 (modPow n 64 sig e)
    let db := em.take 351
    let h := (em.drop 351).take 32
    let db := List.zipWith (· ^^^ ·) db (mgf1 h 351)
    let db := db.take 1 |>.map (· &&& 0x7F) |>.append (db.drop 1)
    let salt := db.drop 319
    em.getD 383 0 == 0xBC && decide ((em.getD 0 0).toNat < 128) &&
      db.take 318 == List.replicate 318 0 && db.getD 318 0 == 1 &&
      sha256 (List.replicate 8 0 ++ sha256 m ++ salt) == h

end Sys2Proof.Machine
end

