-- ==== Sys2Proof/Machine/FenceOps.lean ====
section
/-! DEFINITION. Fences of the power domains (R252-R256): commands, the drain's work, opening, forced
closing, and the STALL and FENCE deadlines (R54). What the Keeper does with a fence report stands in
Pockets.lean. -/

namespace Sys2Proof.Machine

/-- Error bank of the port a fence stands at. -/
def fenceBank : FenceUnit → Nat
  | .panel p => 12 + p.val / 3
  | .llc s => 12 + s.val
  | .mc c => 12 + c.saddle
  | .pcie k => 20 + k.val
  | .bob n => 28 + n.val

/-- Eyelet of the port a fence stands at. -/
def fenceEyelet : FenceUnit → Nat
  | .panel p => portEyelet (2 * p.val)
  | .llc s => 0x30 * s.val + 0x27
  | .mc c => c.eyelet
  | .pcie k => 0xC0 + k.val
  | .bob n => 0xD0 + n.val / 4

/-- The Keeper commands a fence (R255): FENCE_CMD.ON and the command on its way. -/
def State.keeperFence (s : State) (u : FenceUnit) (on : Bool) : State :=
  let s := s.setF (R.fenceCmd u) F.fenceCmd_ON (if on then 1 else 0)
  s.send { op := 0x50, src := 0xCA, dst := BitVec.ofNat 8 (fenceEyelet u), txid := BitVec.ofNat 12 u.num, prio := 3
           mod := if on then 1 else 0 }

/-- A fence report on its way to the Keeper. -/
def State.sendFenceReply (s : State) (u : FenceUnit) : State :=
  s.send { op := 0x51, src := BitVec.ofNat 8 (fenceEyelet u), dst := 0xCA, txid := BitVec.ofNat 12 u.num, prio := 3 }

/-- Harts of a panel. -/
def panelHarts (p : Nat) : List Nat := (List.range 20).map (hartNum p)

/-! ### The drain's work (R252) -/

/-- Every L2 line of a panel leaves, as far as the leaving table has room (R143, R186). DEDUCED (assumption 49). -/
def State.flushPanel (s : State) (p : Nat) : State :=
  (panelHarts p).foldl (fun s h =>
    ((s.hart h).l2.map fun e => e.2.line).foldl (fun s l =>
      match (s.updHart h fun x => x.syncL2 l).evictL2 h l with
      | some t => t
      | none => s) s) s

/-- The harts of a panel park for its drain. -/
def State.parkPanel (s : State) (p : Nat) : State :=
  (panelHarts p).foldl (fun s h =>
    match (s.hart h).mode with
    | .run | .park | .sleep => s.updHart h fun x => { x with mode := .stopped, ra := none }
    | _ => s) s

/-- The harts of a panel that a drain parked go on. -/
def State.resumePanel (s : State) (p : Nat) : State :=
  (panelHarts p).foldl (fun s h =>
    if (s.hart h).mode == .stopped then
      s.updHart h fun x => { x with mode := match x.wait with | .none => RunMode.run | .pause _ => RunMode.run | _ => RunMode.park }
    else s) s

/-- The unit starts to drain (R253). -/
def State.startDrain (s : State) (u : FenceUnit) : State :=
  let s := s.setFence u 3
  let s := s.updFence u.num fun x => { x with t := some (s.timer (fenceBank u) 9), next := none }
  let s := match u with
    | .panel p => (s.parkPanel p.val).flushPanel p.val
    | .mc c => s.updMc c.num fun m => { m with stop := if m.stop = 0 then 2 else m.stop }
    | _ => s
  s.refreshBolts

/-- The unit starts to open (R253). For a panel being powered the deadline already runs (R401). -/
def State.startOpen (s : State) (u : FenceUnit) : State :=
  (s.setFence u 1).updFence u.num fun x =>
    { x with t := some (x.t.getD (s.timer (fenceBank u) 9)), next := none }

/-- FENCE_CMD reaches a port (R254). DEDUCED (assumption 49). -/
def State.fenceCommand (s : State) (u : FenceUnit) (on : Bool) : State :=
  let s := s.setF (R.fenceCmd u) F.fenceCmd_ON (if on then 1 else 0)
  let st := s.fenceState u
  if st = 1 then s.updFence u.num fun x => { x with next := if on then none else some false }
  else if st = 3 then s.updFence u.num fun x => { x with next := if on then some true else none }
  else if st = 0 ∧ on then s.startOpen u
  else if st = 2 ∧ ¬ on then s.startDrain u
  else s

def fenceCmdEff (u : FenceUnit) (on : Bool) (s : State) : State :=
  (s.arrive fun p => p.op == 0x50 && p.txid == BitVec.ofNat 12 u.num).fenceCommand u on

/-- A panel has nothing outstanding, no L2 line and an empty leaving table. -/
def State.panelEmpty (s : State) (p : Nat) : Bool :=
  ((panelHarts p).all fun h =>
    let x := s.hart h
    x.acc.isEmpty && x.io.isEmpty && x.reqs.isEmpty && x.l2.isEmpty) &&
  (List.range 2).all fun i =>
    let y := s.port (2 * p + i)
    y.leaving.isEmpty && y.heldReq.isEmpty

/-- The drain of a unit is complete (R252). -/
def State.drained (s : State) (u : FenceUnit) : Bool :=
  match u with
  | .panel p => s.panelEmpty p.val
  | .llc t => (List.range 24).all fun k => (s.slice (24 * t.val + k)).txs.isEmpty && (s.slice (24 * t.val + k)).heldq.isEmpty
  | .mc c => s.slices.all fun e => e.2.txs.all fun t => !(t.memWait && s.backsLine (.mc c) t.line)
  | .pcie k => (s.pcie k.val).posted.isEmpty && (s.pcie k.val).nonposted.isEmpty && (s.pcie k.val).inbound.isEmpty &&
      s.io.reqs.all fun r => match r.agent with | .device p _ => p != k | _ => true
  | .bob n => s.io.reqs.all fun r => match r.agent with | .bobbin m _ => m != n || r.kind == 3 | _ => true

/-- The LLC of a saddle gives up its entries: DIRTY ones are written to memory. -/
def State.closeLlc (s : State) (sd : Nat) : State :=
  (List.range 24).foldl (fun s i =>
    let k := 24 * sd + i
    let s := ((s.slice k).ent.map (·.1)).foldl (fun s key => s.evictEnt k key) s
    s.updSlice k fun x => { x with tree := [], resv := [], tokens := [] }) s

/-- What closing does to the unit (R252, R292, R295). -/
def State.closeUnit (s : State) (u : FenceUnit) : State :=
  match u with
  | .panel _ => s
  | .llc t => s.closeLlc t.val
  | .mc c =>
    let s := if s.fld (R.mcScrubCtl c) F.mcScrubCtl_STATUS = 1 then s.endScrub c 4 else s
    s.selfRefresh c
  | .pcie k => s.updPcie k.val fun x => { x with placed := [] }
  | .bob n => s.bobDrain n.val

/-- The fence is closed: its report is sent, and a command that waited is taken (R253, R254). -/
def State.closeFence (s : State) (u : FenceUnit) : State :=
  let s := s.setFence u 0
  let next := (s.fence u.num).next
  let s := (s.updFence u.num fun x => { x with t := none, next := none }).refreshBolts
  let s := s.sendFenceReply u
  if next = some true then s.startOpen u else s

/-- The drain of a unit is complete, and its fence closes. -/
def State.drainDone (s : State) (u : FenceUnit) : State :=
  let s := match u with | .panel p => s.flushPanel p.val | _ => s
  if s.fenceState u = 3 ∧ s.drained u then (s.closeUnit u).closeFence u else s

/-! ### Forced closing (R54, R55, R193, R255) -/

/-- Operations outstanding at a unit that is closed by force end. -/
def State.killUnit (s : State) (u : FenceUnit) : State :=
  match u with
  | .panel p =>
    let s := (panelHarts p.val).foldl (fun s h => s.updHart h fun x =>
      { x with acc := [], io := [], reqs := [], heldOps := [], fences := []
               mode := if x.mode == .held then .held else .stopped }) s
    s.portsFault p.val
  | .pcie k =>
    let x := s.pcie k.val
    let s := x.nonposted.foldl (fun s r => s.ioReply r.agent r.pa (BitVec.ofNat 12 r.txid) true .domoff) s
    let s := x.posted.foldl (fun s r => s.ioReply r.agent r.pa (BitVec.ofNat 12 r.txid) false .domoff) s
    s.updPcie k.val fun x => { x with nonposted := [], posted := [], placed := [], inbound := [] }
  | .bob n =>
    let s := { s with io.reqs := s.io.reqs.filter fun r => match r.agent with | .bobbin m _ => m != n | _ => true }
    let s := (List.range 8).foldl (fun s c => s.chanFlight n.val c) s
    s.bobDrain n.val
  | _ => s.closeUnit u

/-- The unit is FAULTED and its fence CLOSED. -/
def State.faultFence (s : State) (u : FenceUnit) : State :=
  let s := (s.setF (R.fenceStatus u) F.fenceStatus_FAULTED 1).setFence u 0
  let s := (s.killUnit u).setFence u 0
  let s := s.updFence u.num fun x => { x with t := none, next := none, wasReset := false }
  (s.note (.faulted u.num)).refreshBolts

/-- A commanded ON has found the fence closed by force or by the unit's own reset (R255). -/
def State.fenceMismatch (s : State) (u : FenceUnit) : State :=
  if s.fld (R.fenceCmd u) F.fenceCmd_ON = 1 then
    let s := (s.setF (R.fenceStatus u) F.fenceStatus_MISMATCH 1).setF (R.fenceCmd u) F.fenceCmd_ON 0
    (s.err (fenceBank u) 0 5 (fenceUnitCode u) 0 0 (protoMisc 5 (fenceUnitCode u))).note (.mismatch u.num)
  else s

/-- A forced close by a STALL or LINK outcome. -/
def State.forceClose (s : State) (u : FenceUnit) : State := (s.faultFence u).fenceMismatch u

/-- A unit's own reset closes its fence (R255, R256). -/
def State.resetClose (s : State) (u : FenceUnit) : State :=
  let s := s.updFence u.num fun x => { x with wasReset := true, t := none, next := none }
  if s.fenceState u = 0 then s else ((s.setFence u 0).fenceMismatch u).refreshBolts

/-- FENCE is reached (R255). -/
def State.fenceExpired (s : State) (u : FenceUnit) : State :=
  match (s.fence u.num).t with
  | none => s
  | some t =>
    let s := s.advance t.due
    let opening := s.fenceState u == 1
    let next := (s.fence u.num).next
    let s := s.setF (R.fenceStatus u) F.fenceStatus_FENCE_LATE 1
    let s := s.err (fenceBank u) 1 3 (fenceUnitCode u) 0 0 (dlMisc 9 0 0 (fenceEyelet u) (s.tape - t.due))
    let s := s.faultFence u
    let s := if opening then s.setF (R.fenceCmd u) F.fenceCmd_ON 0 else s
    let s := s.sendFenceReply u
    if !opening && next == some true then s.startOpen u else s

/-- A STALL deadline expires (R54): in a panel, in a path of the fabric, or in a yoke unit. -/
def stallExpiryEff (site : StallSite) (silent : BitVec 8) (s : State) : State :=
  let misc := dlMisc 0 0 0 silent.toNat 0
  match site with
  | .panel p =>
    let s := s.err (12 + p.val / 3) 1 3 (unitCode 0x08 (portEyelet (2 * p.val))) 0 0 misc
    (s.forceClose (.panel p)).note (.stall p.val)
  | .path t => (s.err (12 + t.val) 3 3 (unitCode 0x01 t.val) 0 0 misc).fatalStop t.val
  | .unit u => (s.err (fenceBank u) 1 3 (fenceUnitCode u) 0 0 misc).forceClose u

/-! ### Opening (R253, R256, R295) -/

/-- The fence is OPEN: FAULTED clears where the unit has been reset. -/
def State.fenceOpened (s : State) (u : FenceUnit) : State :=
  let s := s.setFence u 2
  let s := if (s.fence u.num).wasReset then s.setF (R.fenceStatus u) F.fenceStatus_FAULTED 0 else s
  let next := (s.fence u.num).next
  let s := s.updFence u.num fun x => { x with t := none, next := none, wasReset := false }
  let s := match u with | .panel p => s.resumePanel p.val | _ => s
  let s := s.refreshBolts.sendFenceReply u
  if next = some false then s.startDrain u else s

/-- The bring-up has failed before FENCE (R255). -/
def State.fenceOpenFailed (s : State) (u : FenceUnit) : State :=
  let s := (s.setFence u 0).setF (R.fenceStatus u) F.fenceStatus_FAULTED 1
  let s := s.setF (R.fenceCmd u) F.fenceCmd_ON 0
  (s.updFence u.num fun x => { x with t := none, next := none, wasReset := false }).sendFenceReply u

/-- The bring-up of a unit finishes, or fails. A controller whose values cannot be restored retrains, its
deadline suspended, and one that RESET_SADDLE has reset trains (R430); one that has FAILED, or is ABSENT, cannot
open. -/
def fenceOpenEff (u : FenceUnit) (ok : Bool) (s : State) : State :=
  if s.fenceState u ≠ 1 then s
  else match u with
    | .mc c =>
      let st := s.fld (R.mcInfo c) F.mcInfo_STATE
      if (s.mc c.num).trainAt.isSome then s
      else if (st = 2 ∧ ¬ ok) ∨ st = 0 then s.updMc c.num fun m => { m with trainAt := some s.tape }
      else if (st = 1 ∨ st = 2) ∧ ok then (s.leaveSelfRefresh c).fenceOpened u
      else s.fenceOpenFailed u
    | _ => if ok then s.fenceOpened u else s.fenceOpenFailed u

/-- The result of a controller's retraining (R295): the time it took is not counted. DEDUCED (assumption 55). -/
def State.retrained (s : State) (c : Ctlr) (r : TrainRes) : State :=
  match (s.mc c.num).trainAt with
  | none => s
  | some t0 =>
    let u := FenceUnit.mc c
    let s := s.updMc c.num fun m => { m with trainAt := none }
    let s := s.updFence u.num fun x => { x with t := x.t.map fun t => { t with susp := t.susp + (s.tape - t0) } }
    let s := s.trainMc c r
    if s.fenceState u ≠ 1 then s
    else if s.mcServes c then s.fenceOpened u else s.fenceOpenFailed u

def execStallExpiry (site : StallSite) (silent : BitVec 8) (s : State) : Host.Outcome State Fault Refusal :=
  .next (stallExpiryEff site silent s)
def execFenceCmd (u : FenceUnit) (on : Bool) (s : State) : Host.Outcome State Fault Refusal :=
  .next (fenceCmdEff u on s)
def execFenceOpen (u : FenceUnit) (ok : Bool) (s : State) : Host.Outcome State Fault Refusal :=
  .next (fenceOpenEff u ok s)

end Sys2Proof.Machine
end

