-- ==== Sys2Proof/Machine/Gusset.lean ====
section
/-! DEFINITION. Rivets and Gussets at work: lane repair, the width handshake, reopening, and the LINK
deadline (R245-R251). -/

namespace Sys2Proof

/-- Number of a Gusset end (R440). -/
def GusEnd.num : GusEnd → Nat
  | .saddle s d => 5 * s.val + d.val
  | .yoke s => 20 + s.val

/-- Error bank of a Gusset end. -/
def GusEnd.bank : GusEnd → Nat
  | .saddle s _ => 12 + s.val
  | .yoke _ => 16

/-- The other end of a Gusset; none where an HBM stack lies across the edge (R23). -/
def GusEnd.peer : GusEnd → Option GusEnd
  | .yoke s => some (.saddle s 4)
  | .saddle s d =>
    match s.val, d.val with
    | 0, 1 => some (.saddle 3 3) | 3, 3 => some (.saddle 0 1)
    | 0, 2 => some (.saddle 1 0) | 1, 0 => some (.saddle 0 2)
    | 1, 1 => some (.saddle 2 3) | 2, 3 => some (.saddle 1 1)
    | 2, 0 => some (.saddle 3 2) | 3, 2 => some (.saddle 2 0)
    | _, 4 => some (.yoke s)
    | _, _ => none

/-- Saddles at an end and at its peer. -/
def GusEnd.saddles (e : GusEnd) : List Nat :=
  (match e with | .saddle s _ => [s.val] | .yoke s => [s.val]) ++
    match e.peer with | some (.saddle s _) => [s.val] | _ => []

end Sys2Proof

namespace Sys2Proof.Machine

/-- Boot stops at a step: ERR_FATAL_N is asserted; the Keeper stays reachable (R29, R245, R251, R274). -/
def State.bootStop (s : State) (step : Nat) : State :=
  let s := s.setF R.bootStatus F.bootStatus_FAIL_STEP step
  if s.pins.errFatal then s else { s with pins.errFatal := true, msix := s.msix ++ [1] }

/-- The package is at boot step `n`. -/
def State.atStep (s : State) (n : Nat) : Bool :=
  s.fld R.bootStatus F.bootStatus_STEP == n && s.fld R.bootStatus F.bootStatus_FAIL_STEP == 0

def State.gusset (s : State) (e : GusEnd) : GusSt := KMap.get {} s.gus e.num
def State.updGus (s : State) (e : GusEnd) (f : GusSt → GusSt) : State :=
  { s with gus := KMap.set {} e.num (f (s.gusset e)) s.gus }

def State.gusState (s : State) (e : GusEnd) : Nat := s.fld (R.gusStatus e) F.gusStatus_STATE
/-- DEDUCED (assumption 47). -/
def State.gusGood (s : State) (e : GusEnd) : Nat := s.fld (R.gusStatus e) F.gusStatus_LOCAL_GOOD

/-- A LINK record of a Gusset end (R251). -/
def State.gusRecord (s : State) (e : GusEnd) (sev : Nat) : State :=
  s.err e.bank sev 4 (unitCode 0x07 e.num) 0 0 (linkMisc 1 e.num (s.fld (R.gusStatus e) F.gusStatus_ACTIVE))

/-- The attempt limit in use (R249). -/
def State.gusLimit (s : State) : Nat :=
  if s.fld R.pkgId F.pkgId_PKG_LEVEL = 2 then s.cfg 0x40 0xFFFF 1 1 3 else 3

/-- Attempt `n` begins: MASK is sent. DEDUCED (assumption 47). -/
def State.gusAttempt (s : State) (e : GusEnd) (n : Nat) : State :=
  s.updGus e fun g => { g with n := n, phase := 1, t := some (s.timer e.bank 4) }

/-- The width handshake starts, at link start (`st` 1) or at a reopen (`st` 4). -/
def State.gusStart (s : State) (e : GusEnd) (st : Nat) : State :=
  let r := R.gusStatus e
  let was := if (s.gusset e).n = 0 then s.fld r F.gusStatus_ACTIVE else (s.gusset e).wasActive
  let s := (s.setF r F.gusStatus_STATE st).setF r F.gusStatus_RETRIES 0
  let s := s.setF (R.gusCtl e) F.gusCtl_ATTEMPTS s.gusLimit
  (s.updGus e fun g => { g with wasActive := was }).gusAttempt e 1

/-- The end resets its interface and sends REOPEN (R248). -/
def State.gusReopen (s : State) (e : GusEnd) : State :=
  let s := s.incF (R.gusStatus e) F.gusStatus_REOPENS
  s.gusStart e 4

/-- The fabric is up (R29): the records held for it are written, with the time of their detection. -/
def State.fabricIsUp (s : State) : State :=
  let l := s.id.heldRecs
  l.foldl State.record { s with id.heldRecs := [], id.fabricUp := true }

/-- Every end of a Gusset. -/
def allGusEnds : List GusEnd :=
  ((List.finRange 4).flatMap fun s => (List.finRange 5).map fun d => GusEnd.saddle s d).filter (·.peer.isSome) ++
    (List.finRange 4).map GusEnd.yoke

/-- Boot step 5 ends, with every Gusset UP or SAFE: the fabric is up, and key 0 is made (R338, R427). -/
def State.linksUp (s : State) : State :=
  if s.atStep 5 && allGusEnds.all fun e => (s.gusset e).n == 0 && (s.gusState e == 2 || s.gusState e == 3) then
    let s := s.fabricIsUp
    { s.setF R.bootStatus F.bootStatus_STEP 6 with boot.key0 := true }
  else s

/-- The link has ended the handshake UP, SAFE or DOWN (R249, R251). -/
def State.gusEnd (s : State) (e : GusEnd) (st active : Nat) : State :=
  let r := R.gusStatus e
  let was := (s.gusset e).wasActive
  let s := (s.setF r F.gusStatus_STATE st).setF r F.gusStatus_ACTIVE active
  let s := s.updGus e fun g => { g with n := 0, phase := 0, t := none }
  match st with
  | 2 => (if popcount 16 active < popcount 16 was then s.gusRecord e 1 else s).linksUp
  | 3 => (((s.setF r F.gusStatus_WIDTH_EVENT 1).gusRecord e 1).note (.safeWidth e.num)).linksUp
  | _ =>
    let s := s.gusRecord e 3
    let s : State := e.saddles.foldl (fun (s : State) sd => s.fatalStop sd) s
    if s.atStep 5 then s.bootStop 5 else s

/-- SAFE is sent, and the peer's awaited. -/
def State.gusSafe (s : State) (e : GusEnd) : State :=
  s.updGus e fun g => { g with phase := 3, t := some (s.timer e.bank 4) }

/-- The attempt ends in disagreement. DEDUCED (assumption 48). -/
def State.gusDisagree (s : State) (e : GusEnd) : State :=
  let n := (s.gusset e).n
  let s := if s.fld R.pkgId F.pkgId_PKG_LEVEL = 2 then s.setF (R.gusStatus e) F.gusStatus_RETRIES n else s
  if n < s.fld (R.gusCtl e) F.gusCtl_ATTEMPTS then s.gusAttempt e (n + 1) else s.gusSafe e

/-- REOPEN is received (R250): a handshake that runs restarts at attempt 1. -/
def reopenEff (e : GusEnd) (s : State) : State :=
  if e.peer.isNone ∨ s.gusState e = 0 then s else s.gusReopen e

def maskEff (e : GusEnd) (n : BitVec 3) (m : BitVec 16) (s : State) : State :=
  let g := s.gusset e
  if g.phase ≠ 1 ∨ g.n ≠ n.toNat then s
  else
    let s := s.setF (R.gusStatus e) F.gusStatus_PEER_GOOD m.toNat
    s.updGus e fun g => { g with phase := 2, sentW := s.gusGood e &&& m.toNat, t := some (s.timer e.bank 4) }

def confirmEff (e : GusEnd) (n : BitVec 3) (w : BitVec 16) (s : State) : State :=
  let g := s.gusset e
  if g.phase ≠ 2 ∨ g.n ≠ n.toNat then s
  else if g.sentW = w.toNat then
    if 4 ≤ popcount 16 w.toNat then s.gusEnd e 2 w.toNat else s.gusSafe e
  else s.gusDisagree e

def safeEff (e : GusEnd) (ok : Bool) (s : State) : State :=
  if (s.gusset e).phase ≠ 3 then s
  else if ok && s.gusGood e % 16 == 15 then s.gusEnd e 3 0xF else s.gusEnd e 0 0

/-- A test of a group finds failed wires (R248): up to two go onto its spares, else it is retired. -/
def State.gusTest (s : State) (e : GusEnd) (g failed : Nat) : State :=
  if failed ≤ 2 then
    let v := s.fld (R.gusRepair e) F.gusRepair_SPARES_USED
    s.setF (R.gusRepair e) F.gusRepair_SPARES_USED
      (setBit (setBit v (2 * g) (bit failed 0)) (2 * g + 1) (bit failed 1))
  else
    (s.setFbit (R.gusRepair e) F.gusRepair_RETIRED g true).setFbit (R.gusStatus e) F.gusStatus_LOCAL_GOOD g false

/-- The idle test runs while the link carries no traffic: in training or a reopen. -/
def idleTestFailEff (e : GusEnd) (group : Fin 16) (failed : BitVec 7) (s : State) : State :=
  if s.gusState e = 1 ∨ s.gusState e = 4 then s.gusTest e group.val failed.toNat else s

/-- GUS_CTL.REOPEN (R8, R9, R248): a KW field. -/
def gusCtlReopenEff (a : Agent) (e : GusEnd) (s : State) : State :=
  if e.peer.isNone then s.reply a .ok
  else if !agentIsKeeper a then
    (s.kwViolation a (R.gusCtl e).addr).reply a .viol
  else (if s.gusState e = 0 then s else s.gusReopen e).reply a .ok

/-- A wire of a panel's port fails the test of boot step 5 (R245): the panel is excluded, and boot stops where
no enabled hart remains. -/
def State.rivetFail (s : State) (p : PortId) : State :=
  let n := p.panel.val
  let s := s.err (12 + n / 3) 1 4 (unitCode 0x08 p.eyelet) 0 0 (linkMisc 0 p.eyelet 0)
  let s : State := { s with id.excluded := if s.id.excluded.contains n then s.id.excluded else n :: s.id.excluded }
  let s := if s.fld (R.hartEn n) F.hartEn_PANEL_EN = 1 then
      let s := s.setFbit R.patStatus F.patStatus_PANEL_DROPPED n true
      (s.setFbit R.patStatus F.patStatus_RIVET_DROPPED n true).setF (R.hartEn n) F.hartEn_PANEL_EN 0
    else s
  let s := s.setPanelState n 2
  if (List.range 12).any fun q => s.fld (R.hartEn q) F.hartEn_PANEL_EN == 1 then s else s.bootStop 5

/-- LINK is reached (R54, R246, R248, R249). -/
def linkExpiryEff (l : LinkSite) (s : State) : State :=
  match l with
  | .rivet p =>
    if s.atStep 5 then s.rivetFail p
    else
    let b := 12 + p.panel.val / 3
    let s := s.err b 1 3 (unitCode 0x08 p.eyelet) 0 0 (dlMisc 4 0 0 p.eyelet 0)
    let s := s.err b 1 4 (unitCode 0x08 p.eyelet) 0 0 (linkMisc 0 p.eyelet 0)
    if s.fenceState (.panel p.panel) = 0 then s else s.forceClose (.panel p.panel)
  | .gusset e g failed =>
    if s.gusState e ≠ 2 ∧ s.gusState e ≠ 3 then s
    else
      let kept := decide (failed.toNat ≤ 2)
      let s := s.err e.bank (if kept then 0 else 1) 3 (unitCode 0x07 e.num) 0 0 (dlMisc 4 0 0 0xFF 0)
      let s := s.gusTest e g.val failed.toNat
      if kept then s.gusRecord e 0 else s.gusReopen e
  | .handshake e =>
    match (s.gusset e).t with
    | none => s
    | some t =>
      let s := s.advance t.due
      let s := s.err e.bank 0 3 (unitCode 0x07 e.num) 0 0 (dlMisc 4 0 0 0xFF (s.tape - t.due))
      if (s.gusset e).phase = 3 then s.gusEnd e 0 0 else s.gusDisagree e

def execLinkExpiry (l : LinkSite) (s : State) : Host.Outcome State Fault Refusal :=
  .next (linkExpiryEff l s)
def execReopen (e : GusEnd) (s : State) : Host.Outcome State Fault Refusal :=
  .next (s.live (reopenEff e s))
def execMask (e : GusEnd) (n : BitVec 3) (m : BitVec 16) (s : State) : Host.Outcome State Fault Refusal :=
  .next (s.live (maskEff e n m s))
def execConfirm (e : GusEnd) (n : BitVec 3) (w : BitVec 16) (s : State) : Host.Outcome State Fault Refusal :=
  .next (s.live (confirmEff e n w s))
def execSafe (e : GusEnd) (ok : Bool) (s : State) : Host.Outcome State Fault Refusal :=
  .next (s.live (safeEff e ok s))
def execIdleTestFail (e : GusEnd) (group : Fin 16) (failed : BitVec 7) (s : State) : Host.Outcome State Fault Refusal :=
  .next (s.live (idleTestFailEff e group failed s))
def execGusCtlReopen (a : Agent) (e : GusEnd) (s : State) : Host.Outcome State Fault Refusal :=
  .next (s.live (gusCtlReopenEff a e s))

end Sys2Proof.Machine
end

