-- ==== Sys2Proof/Machine/Epoch.lean ====
section
/-! DEFINITION. Slots of a slotted ring (R240-R244) and the epoch switch (R259-R261). -/

namespace Sys2Proof.Machine

/-- The group whose slots a packet travels in (R241). -/
def State.pktGroup (s : State) (p : Pkt) : Nat := if classOf p.op = 5 then 0 else s.slotGroup p.pocket.toNat

/-- A slotted ring enters its next slot (R240): what waits for the owning group's slot is injected.
DEDUCED (assumption 43). -/
def slotBoundaryEff (stop : Fin 5) (s : State) : State :=
  if !s.slotted stop.val then s
  else
    let s := s.advance s.nextSlot
    let goes := fun p : Pkt => s.injectRing p == some stop.val && s.slotOpen (s.pktGroup p)
    let now := s.epoch.slotQ.filter goes
    let s := { s with epoch.slotQ := s.epoch.slotQ.filter fun p => !goes p }
    now.foldl State.inject s

/-- The epoch in force, as a packet carries it. -/
def State.curEpoch (s : State) : Bool := s.fld R.epoch F.epoch_CURRENT == 1

/-- A transaction's first packet is held at its source's injection. -/
def State.isHeld (s : State) (src txid : Nat) : Bool :=
  s.epoch.heldPkts.any fun p => p.src.toNat == src && p.txid.toNat == txid

/-- A panel port's stop has an old-epoch transaction open: a line request, an access of its own, an I/O-type
access or a writeback that is on its way. DEDUCED (assumption 44). -/
def State.portBusy (s : State) (stop panel : Nat) : Bool :=
  ((panelHarts panel).any fun h =>
    let x := s.hart h
    let at' := fun line => portEyeletOf h line == stop
    let open' := fun n => !s.isHeld stop (h % 32 * 128 + n % 128)
    (x.reqs.any fun r => at' r.line && open' r.txid) ||
    (x.acc.any fun e => e.own && e.sent && !e.done && at' (lineOf e.pa) && open' e.id) ||
    (x.io.any fun i => i.sent && at' (lineOf i.pa) && open' i.issued)) ||
  (List.range 2).any fun i => portEyelet (2 * panel + i) == stop && (s.port (2 * panel + i)).leaving.any (·.sent)

/-- A stop holds an old-epoch transaction open or an old-epoch packet (R260). DEDUCED (assumption 44). -/
def State.stopBusy (s : State) (stop : Nat) : Bool :=
  (s.net.any fun p => p.src.toNat == stop && p.epoch == s.curEpoch) ||
  (match panelOfEyelet stop with | some p => s.portBusy stop p | none => false) ||
  (if stop < 0xC0 ∧ stop % 0x30 < 24 then
    let x := s.slice (sliceNumOfEyelet stop)
    (x.txs.any fun t => t.req.epoch == s.curEpoch) || x.heldq.any fun q => q.epoch == s.curEpoch
   else false) ||
  s.io.reqs.any fun r => r.eye == stop && !s.isHeld stop r.txid

/-- A new-epoch table set is written at a stop (R259); once every stop has it, EPOCH_FLIP is broadcast. -/
def tableLoadEff (stop : BitVec 8) (s : State) : State :=
  let n := stop.toNat
  let stops := s.epochStops
  if !s.epoch.running || s.epoch.loaded.contains n || !stops.contains n ||
      s.fld R.epoch F.epoch_HOLDING == 1 || !s.epoch.holding.isEmpty then s
  else
    let s := { s with epoch.loaded := n :: s.epoch.loaded }
    if stops.all s.epoch.loaded.contains then
      let s := (s.setF R.epoch F.epoch_WAITING stops.length).setF R.epoch F.epoch_HOLDING 1
      { s with epoch.waiting := stops }
    else s

/-- EPOCH_FLIP at a stop: first packets of new transactions are held there. -/
def epochFlipEff (stop : BitVec 8) (s : State) : State :=
  let n := stop.toNat
  if s.fld R.epoch F.epoch_HOLDING = 1 ∧ s.epoch.waiting.contains n ∧ ¬ s.epoch.holding.contains n then
    { s with epoch.holding := n :: s.epoch.holding }
  else s

/-- A piece joins the store, in place of the one of its type and unit (R64, R79). -/
def State.putPiece (s : State) (p : Piece) : State :=
  let keep := fun q : Piece => !(q.type == p.type && (q.unit == p.unit || p.unit == 0xFFFF))
  { s with pat.store := s.pat.store.filter keep ++ [p] }

/-- Every stop has reported (R259): the new epoch is in force, with the alteration's epoch-bound pieces. -/
def State.epochSwitch (s : State) : State :=
  let s := s.setF R.epoch F.epoch_CURRENT (1 - s.fld R.epoch F.epoch_CURRENT)
  let s := (s.incF R.epoch F.epoch_SWITCHES).setF R.epoch F.epoch_HOLDING 0
  let s := s.wr R.epochTape (BitVec.ofNat 64 s.tape)
  let pieces := match s.pat.alt with | some a => a.epoch | none => []
  let s := pieces.foldl State.putPiece s
  { s with epoch.running := false, epoch.loaded := []
           pat.alt := s.pat.alt.map fun a => { a with epoch := [], stage := 2 } }

/-- EPOCH_EMPTY of a stop reaches the Keeper (R260). -/
def epochEmptyEff (stop : BitVec 8) (s : State) : State :=
  let n := stop.toNat
  if !(s.epoch.holding.contains n && s.epoch.waiting.contains n) || s.stopBusy n then s
  else
    let left := s.epoch.waiting.filter (· != n)
    let s := { s with epoch.waiting := left }
    let s := s.setF R.epoch F.epoch_WAITING left.length
    if left.isEmpty then s.epochSwitch else s

/-- EPOCH_GO at a stop: its held packets are released in arrival order. -/
def epochGoEff (stop : BitVec 8) (s : State) : State :=
  let n := stop.toNat
  if s.fld R.epoch F.epoch_HOLDING = 1 ∨ !s.epoch.holding.contains n then s
  else
    let mine := fun p : Pkt => p.src.toNat == n
    let go := s.epoch.heldPkts.filter mine
    let s := { s with epoch.holding := s.epoch.holding.filter (· != n)
                      epoch.heldPkts := s.epoch.heldPkts.filter fun p => !mine p }
    go.foldl (fun s p => if s.waitsSlot p then { s with epoch.slotQ := s.epoch.slotQ ++ [p] } else s.inject p) s

def execSlotBoundary (stop : Fin 5) (s : State) : Host.Outcome State Fault Refusal :=
  .next (slotBoundaryEff stop s)
def execEpochFlip (stop : BitVec 8) (s : State) : Host.Outcome State Fault Refusal :=
  .next (epochFlipEff stop s)
def execEpochEmpty (stop : BitVec 8) (s : State) : Host.Outcome State Fault Refusal :=
  .next (epochEmptyEff stop s)
def execEpochGo (stop : BitVec 8) (s : State) : Host.Outcome State Fault Refusal :=
  .next (epochGoEff stop s)
def execTableLoad (stop : BitVec 8) (s : State) : Host.Outcome State Fault Refusal :=
  .next (tableLoadEff stop s)

end Sys2Proof.Machine
end

