-- ==== Sys2Proof/Machine/Keeper.lean ====
section
/-! DEFINITION. The Keeper's shared operations: measurement registers (R428, R431), mailbox commands
(R425), MBX_NONCE (R426), and the bounds of the boot steps (R427). -/

namespace Sys2Proof.Machine

/-! ### Measurement registers -/

/-- The 32 bytes of a measurement register. -/
def State.measBytes (s : State) (i : Nat) : List Byte :=
  (List.range 4).flatMap fun j => leBytes 8 (s.rd (R.meas i j)).toNat

/-- An extend with digest `d` (R431): M = SHA-256(M ‖ d). -/
def State.extendMeas (s : State) (i : Nat) (d : List Byte) : State :=
  let m := sha256 (s.measBytes i ++ d)
  (List.range 4).foldl (fun s j => s.wr (R.meas i j) (BitVec.ofNat 64 (le m (8 * j) 8))) s

/-! ### The mailbox (R425) -/

/-- A mailbox command ends, and its MSI-X vector is sent. -/
def State.mbxEnd (s : State) (seq result : Nat) : State :=
  let r := R.mbxStatus
  let s := ((s.setF r F.mbxStatus_STATE 2).setF r F.mbxStatus_SEQ seq).setF r F.mbxStatus_RESULT result
  s.svcMsix 0

/-- A mailbox command is under way. -/
def State.mbxBusy (s : State) : Bool := s.fld R.mbxStatus F.mbxStatus_STATE == 1

/-- A command whose work goes on past this step. DESIGN CHOICE (assumption 67). -/
def State.mbxBegin (s : State) (seq : Nat) : State :=
  (s.setF R.mbxStatus F.mbxStatus_STATE 1).setF R.mbxStatus F.mbxStatus_SEQ seq

/-- The Keeper takes a mailbox command, rejects it while another is under way, or ends it with STEP at a
boot step that does not allow it. -/
def State.mbxRun (s : State) (seq : Nat) (allowed : Bool) (f : State → State) : State :=
  let s := s.setF R.mbxCmd F.mbxCmd_SEQ seq
  if s.mbxBusy then
    let r := R.mbxStatus
    (s.setF r F.mbxStatus_REJECTS ((s.fld r F.mbxStatus_REJECTS + 1) % 256)).setF r F.mbxStatus_REJECTED_SEQ seq
  else if !allowed then s.mbxEnd seq 0x84
  else f s

/-- The boot step under way. -/
def State.bootStep (s : State) : Nat := s.fld R.bootStatus F.bootStatus_STEP

/-- Boot has stopped at a step (R427). -/
def State.bootStopped (s : State) : Bool := s.fld R.bootStatus F.bootStatus_FAIL_STEP != 0

/-- The next boot step is under way. -/
def State.setStep (s : State) (n : Nat) : State := s.setF R.bootStatus F.bootStatus_STEP n

/-- `n` bytes of the argument area at `off`. -/
def State.mbxArg (s : State) (off n : Nat) : List Byte :=
  (List.range n).map fun i => BitVec.ofNat 8 (KMap.get 0 s.boot.args (off + i))

/-- Bytes written into the reply area. -/
def State.mbxReply (s : State) (off : Nat) (l : List Byte) : State :=
  { s with boot.reply := (l.foldl (fun a b => (a.1 + 1, KMap.set 0 a.1 b.toNat a.2)) (off, s.boot.reply)).2 }

/-- MBX_NONCE is renewed (R425). -/
def State.newNonce (s : State) : State :=
  let (n, s) := s.draw
  s.wr R.mbxNonce (BitVec.ofNat 64 n)

/-- `n` random bytes. DESIGN CHOICE (assumption 65). -/
def State.randomBytes (s : State) (n : Nat) : List Byte × State :=
  let (v, s) := s.draw
  (leBytes n v, s)

/-! ### Key slots (R418, R419) -/

/-- A slot is programmed. -/
def State.slotProgrammed (s : State) (k : Nat) : Bool := k == 0 || s.otp.keys.any fun e => e.1 == k

/-- A slot may sign: it is programmed and not revoked. -/
def State.slotSigns (s : State) (k : Nat) : Bool :=
  decide (k < 5) && s.slotProgrammed k && !s.otp.revoked.contains k

/-- The key hash of a slot, as a 256-bit little-endian number. -/
def State.slotHash (s : State) (k : Nat) : Nat := KMap.get 0 s.otp.keys k

/-- FUSE_STATE shows the OTP's fuses (R418). -/
def State.showFuses (s : State) : State :=
  let r := R.fuseState
  let o := s.otp
  let s := s.setF r F.fuseState_FW_ROLLBACK o.fwRoll
  let s := s.setF r F.fuseState_PAT_ROLLBACK o.patRoll
  let s := s.setF r F.fuseState_HOST_VERIFY (if o.hostVerify then 1 else 0)
  let s := s.setF r F.fuseState_PROGRAMMED (ofBits (0 :: o.keys.map (·.1)))
  s.setF r F.fuseState_REVOKED (ofBits o.revoked)

/-- PKG_ID and PKG_SERIAL show their fuses (R32). -/
def State.showIdentity (s : State) : State :=
  let s := s.setF R.pkgId F.pkgId_PART_CODE s.otp.part
  let s := s.setF R.pkgId F.pkgId_MIXED (if s.otp.mixed then 1 else 0)
  let s := s.setF R.pkgId F.pkgId_CORES_PER_PANEL (if s.otp.part = 0x216 then 18 else 20)
  let s := s.setF R.hrnNode F.hrnNode_PROV_ID (min 0x7FFE (s.otp.serial % 2 ^ 15))
  s.wr R.pkgSerial (BitVec.ofNat 64 s.otp.serial)

/-- ASCII bytes. -/
def ascii (t : String) : List Byte := t.toList.map fun c => BitVec.ofNat 8 c.toNat

end Sys2Proof.Machine
end

