-- ==== Sys2Proof/Machine/Identity.lean ====
section
/-! DEFINITION. Die identity and the Thread (R16-R36): straps and orientation pads, port remapping,
discovery, management frames. -/

namespace Sys2Proof.Machine

/-- Thread position of a saddle and of a panel (R26). -/
def saddlePos (sd : Nat) : Nat := 4 * sd + 1
def panelPos (p : Nat) : Nat := 4 * (p / 3) + 2 + p % 3
/-- The saddle or panel at a Thread position. -/
def saddleAt (pos : Nat) : Option Nat := if pos % 4 = 1 ∧ pos < 17 then some (pos / 4) else none
def panelAt (pos : Nat) : Option Nat :=
  if pos = 0 ∨ pos % 4 = 1 ∨ 17 ≤ pos then none
  else if pos % 4 = 0 then some (3 * (pos / 4 - 1) + 2) else some (3 * (pos / 4) + (pos % 4 - 2))

/-! ### Straps and pads (R17-R24) -/

/-- Ones among the pads listed. -/
def padOnes (g : BitVec 8) (l : List Nat) : Nat := (l.filter (bit g.toNat)).length

/-- A saddle's decode of its strap group (R17, R18, R23). -/
def decodeStraps (pads : BitVec 8) : Decoded :=
  let n := pads.toNat / 2 % 4
  let fault := !bit pads.toNat 0 || padOnes pads [1, 2, 3] % 2 == 1 || decide (16 ≤ pads.toNat)
  { fault := fault, num := n, rot := n, ports := (List.range 4).map fun d => (d + n) % 4 }

/-- Logical ports N, E, S, W (edges) and D0, D1 (fields) of a panel (R22). -/
def panelPorts (r : Nat) (m : Bool) : List Nat :=
  let edges := (List.range 4).map fun d => if m then (8 - r - d) % 4 else (d + r) % 4
  let f := if m then decide (r = 0 ∨ r = 3) else decide (r = 1 ∨ r = 2)
  edges ++ if f then [1, 0] else [0, 1]

/-- A panel's decode of its four pad groups (R19-R22). `sa` and `si` are SADDLE and SITE where the groups
agree; what they read where the groups differ, the rules leave open. DESIGN CHOICE (assumption 60). -/
def decodePads (g : List (BitVec 8)) (sa si : Nat) : Decoded :=
  let idx := (List.range 4).filter fun j => bit ((g.getD j 0).toNat) 0
  let mark := (List.range 4).filter fun j => bit ((g.getD j 0).toNat) 1
  let rm : Option (Nat × Bool) := match idx, mark with
    | [i], [k] => if k = (i + 1) % 4 then some (i, false) else if k = (i + 3) % 4 then some ((3 + 4 - i) % 4, true) else none
    | _, _ => none
  let same := g.all fun x => x.toNat / 4 == (g.getD 0 0).toNat / 4
  let bad := g.any fun x => padOnes x [2, 3, 4, 5, 6] % 2 == 1 || !bit x.toNat 7
  let want : Option (Nat × Bool) := match si with
    | 0 => some (0, false) | 1 => some (2, false) | 2 => some (1, true) | _ => none
  let (r, m) := rm.getD (0, false)
  { fault := rm.isNone || !same || bad || rm != want, num := sa, site := si, rot := r, mir := m, ports := panelPorts r m }

/-- A die's ports are enabled once its remap is applied, and not where it has a fault (R24). -/
def State.enablePorts (s : State) (pos : Nat) (fault : Bool) : State :=
  let l := s.id.portsOn.filter (· != pos)
  { s with id.portsOn := if fault then l else pos :: l }

def strapReadEff (sd : Saddle) (pads : BitVec 8) (s : State) : State :=
  let d := decodeStraps pads
  let s := { s with id.straps := KMap.insert sd.val d s.id.straps }
  s.enablePorts (saddlePos sd.val) d.fault

def orientationDecodeEff (p : Panel) (g0 g1 g2 g3 : BitVec 8) (s : State) : State :=
  let g := [g0, g1, g2, g3]
  let same := g.all fun x => x.toNat / 4 == g0.toNat / 4
  let (sa, si, s) := if same then (g0.toNat / 4 % 4, g0.toNat / 16 % 4, s)
    else
      let (a, s) := s.fresh
      let (b, s) := s.fresh
      (a % 4, b % 4, s)
  let d := decodePads g sa si
  let s := { s with id.pads := KMap.insert p.val d s.id.pads }
  s.enablePorts (panelPos p.val) d.fault

/-! ### Discovery (R27-R29) -/

/-- Positions in the order discovery queries them. -/
def discOrder : List Nat := [0, 1, 5, 9, 13, 2, 3, 4, 6, 7, 8, 10, 11, 12, 14, 15, 16]

/-- A query of position `pos` is sent, its panel's bypass opened first. DEDUCED (assumption 61). -/
def State.discQuery (s : State) (pos : Nat) : State :=
  let s := match panelAt pos with
    | some p => { s with id.bypassOpen := p :: s.id.bypassOpen.filter (· != p) }
    | none => s
  { s with id.disc := some ⟨pos, 1, s.tape⟩ }

def threadDiscoveryEff (s : State) : State :=
  if !s.atStep 3 || s.id.disc.isSome || s.id.discRun then s
  else
    let s := { s with id.discRun := true, id.bypassOpen := [], id.found := [], id.failed := [], id.excluded := []
                      id.fuseOk := [], id.heldRecs := [] }
    (s.wr R.threadStatus 0).discQuery 0

/-- THREAD_STATUS and the identity fields of PKG_ID show what discovery has found (R32). -/
def State.showDiscovery (s : State) : State :=
  let ok := fun pos => s.id.found.contains pos
  let ts := R.threadStatus
  let first := s.id.failed.foldl (fun o f => match o with
    | none => some f
    | some g => if f.1 < g.1 then some f else some g) (none : Option (Nat × Nat))
  let s := s.setF ts F.threadStatus_POS_OK (ofBits ((List.range 17).filter ok))
  let s := s.setF ts F.threadStatus_FAIL_POS (match first with | some f => if f.2 = 1 then 0xFE else f.1 | none => 0xFF)
  let s := s.setF ts F.threadStatus_FAIL_KIND (match first with | some f => f.2 | none => 0)
  let pk := R.pkgId
  let s := s.setF pk F.pkgId_SADDLE_OK (ofBits ((List.range 4).filter fun sd => ok (saddlePos sd)))
  let s := s.setF pk F.pkgId_PANEL_OK (ofBits ((List.range 12).filter fun p => ok (panelPos p)))
  s.setF pk F.pkgId_PANEL_B0 (ofBits ((List.range 12).filter fun p =>
    ok (panelPos p) && s.fld (R.pnlDieId p) F.pnlDieId_STEPPING == 1))

/-- The package feature level (R33). -/
def State.featLevel (s : State) : Nat :=
  if s.fld R.pkgId F.pkgId_MIXED = 1 then 1
  else if (List.range 12).any fun p => s.id.found.contains (panelPos p) && s.fld (R.pnlDieId p) F.pnlDieId_FEAT_LEVEL == 1 then 1
  else 2

/-- The discovery record's digest (R428). -/
def State.discDigest (s : State) : List Byte :=
  let die := fun pos => match saddleAt pos, panelAt pos with
    | some sd, _ => if s.id.found.contains pos then (s.rd (R.sdlDieId sd)).toNat else 0
    | _, some p => if s.id.failed.contains (pos, 2) then 0 else (s.rd (R.pnlDieId p)).toNat
    | _, _ => 0
  sha256 (leBytes 8 (s.rd R.pkgId).toNat ++ leBytes 8 (s.rd R.pkgSerial).toNat ++
    (((List.range 17).drop 1).flatMap fun pos => leBytes 8 (die pos)))

/-- The next query, or the end of discovery: the feature level is set, and step 4 begins. -/
def State.discNext (s : State) (pos : Nat) : State :=
  match (discOrder.drop (discOrder.idxOf pos + 1)).head? with
  | some q => s.discQuery q
  | none =>
    let s := { s with id.disc := none, id.discRun := false }
    let s := s.showDiscovery
    let s := s.setF R.pkgId F.pkgId_PKG_LEVEL s.featLevel
    (s.extendMeas 3 s.discDigest).setStep 4

/-- A die fails discovery (R29): boot stops at the yoke and at a saddle, a panel is excluded. Its record is
held until the fabric is up. -/
def State.discFail (s : State) (pos kind : Nat) : State :=
  let s := { s with id.failed := s.id.failed ++ [(pos, kind)] }
  match panelAt pos with
  | some p =>
    let k := if kind = 2 then 4 else 5
    let misc := match kind with
      | 2 => linkMisc 6 pos 0
      | 3 => protoMisc 1 3
      | n => protoMisc 2 n
    let rec' : Rec := { bank := 12 + p / 3, sev := 1, kind := k, unit := unitCode 0x09 p, tape := s.tape, misc := misc }
    let s := { s with id.bypassOpen := s.id.bypassOpen.filter (· != p), id.excluded := p :: s.id.excluded
                      id.heldRecs := s.id.heldRecs ++ [rec'] }
    s.discNext pos
  | none =>
    let s := { s with id.disc := none, id.discRun := false }
    s.showDiscovery.bootStop 3

/-- Logical core of a present Hem position (R28). -/
def logicalCores (mask : Nat) : List Nat := bitsOf 20 mask

/-- A query's frame of a panel is read into its DIE_ID (R32). -/
def State.showPanel (s : State) (p : Nat) (r : ThreadReply) (crcOk : Bool) : State :=
  let d := R.pnlDieId p
  let s := s.setF d F.pnlDieId_STEPPING r.stepping.toNat
  let s := s.setF d F.pnlDieId_FEAT_LEVEL (match r.stepping.toNat with | 0 => 1 | 1 => 2 | _ => 0)
  let s := s.setF d F.pnlDieId_SADDLE r.saddle.toNat
  let s := s.setF d F.pnlDieId_SITE r.site.toNat
  let s := s.setF d F.pnlDieId_ROT r.rot.toNat
  let s := s.setF d F.pnlDieId_MIRROR (if r.mirror then 1 else 0)
  let s := s.setF d F.pnlDieId_ORIENT_OK (if r.fault then 0 else 1)
  s.setF d F.pnlDieId_CORE_FUSE (if crcOk then r.coreMask.toNat else 0)

/-- A query's frame of a saddle is read into its DIE_ID. -/
def State.showSaddle (s : State) (sd : Nat) (r : ThreadReply) : State :=
  let d := R.sdlDieId sd
  let s := (s.setF d F.sdlDieId_FEAT_LEVEL 2).setF d F.sdlDieId_STEPPING r.stepping.toNat
  let s := (s.setF d F.sdlDieId_QUADRANT r.saddle.toNat).setF d F.sdlDieId_ROT r.rot.toNat
  s.setF d F.sdlDieId_STRAP_OK (if r.fault then 0 else 1)

/-- What a query of discovery shows, with its fuse data read (`crc`) or not: FAIL_KIND, 0 none. -/
def State.discKind (s : State) (r : ThreadReply) (crc : Bool) : Nat :=
  match saddleAt r.pos.val, panelAt r.pos.val with
  | some _, _ => if r.fault then 3 else if !crc then 5 else 0
  | _, some _ =>
    if r.fault then 3
    else if !crc || popcount 20 r.coreMask.toNat != s.fld R.pkgId F.pkgId_CORES_PER_PANEL then 5
    else if decide (1 < r.stepping.toNat) then 6 else 0
  | _, _ => if !crc || s.otp.yokeFuseFault then 5 else 0

/-- A frame of discovery has returned. DEDUCED (assumption 61). -/
def State.discReturn (s : State) (f : ThreadFrame) (r : ThreadReply) : State :=
  let pos := r.pos.val
  let s := s.setF R.threadStatus F.threadStatus_LOOP_OK 1
  if !r.crcOk && f.attempts < 3 then
    { s with id.disc := some ⟨pos, f.attempts + 1, s.tape⟩
             id.crcFails := KMap.upd 0 pos (· + 1) s.id.crcFails }
  else
    let s := match saddleAt pos, panelAt pos with
      | some sd, _ => s.showSaddle sd r
      | _, some p => s.showPanel p r r.crcOk
      | _, _ => s
    match s.discKind r r.crcOk with
    | 0 =>
      let s := { s with id.found := s.id.found ++ [pos] }
      let s := if r.crcOk then { s with id.fuseOk := KMap.set 0 pos r.coreMask.toNat s.id.fuseOk } else s
      s.discNext pos
    | k => s.discFail pos k

/-- A management frame has been answered (R30, R31): status 0 OK, 1 ABSENT, 4 LATE. -/
def State.threadAnswer (s : State) (thimble : Bool) (pos st : Nat) : State :=
  let s := { s with id.threadLog := s.id.threadLog ++ [(pos, st)] }
  if thimble then { s with id.thmFrame := none } else { s with id.kprFrame := none }

def threadFrameReturnEff (r : ThreadReply) (s : State) : State :=
  let at' := fun f : Option ThreadFrame => match f with | some f => f.pos == r.pos.val | none => false
  match s.id.disc with
  | some f => if f.pos = r.pos.val then s.discReturn f r else s
  | none =>
    if at' s.id.kprFrame then s.threadAnswer false r.pos.val 0
    else if at' s.id.thmFrame then s.threadAnswer true r.pos.val 0
    else s

/-- A management frame has not returned within 100 µs: it is sent again, or ends LATE with a record. -/
def State.mgmtTimeout (s : State) (thimble : Bool) (f : ThreadFrame) : State :=
  let s := s.advance (f.sentAt + 100000)
  if f.attempts < 3 then
    let g := some ⟨f.pos, f.attempts + 1, s.tape⟩
    if thimble then { s with id.thmFrame := g } else { s with id.kprFrame := g }
  else
    (s.err 16 1 4 (unitCode 0x14 f.pos) 0 0 (linkMisc 6 f.pos 0)).threadAnswer thimble f.pos 4

def threadFrameTimeoutEff (pos : Fin 17) (s : State) : State :=
  match s.id.disc with
  | some f =>
    if f.pos ≠ pos.val then s
    else
      let s := s.advance (f.sentAt + 100000)
      if f.attempts < 3 then { s with id.disc := some ⟨f.pos, f.attempts + 1, s.tape⟩ }
      else if pos.val = 0 then
        let s := { s with id.disc := none, id.discRun := false, id.failed := [(0, 1)] }
        (s.showDiscovery.setF R.threadStatus F.threadStatus_LOOP_OK 0).bootStop 3
      else
        let s := match panelAt pos.val with
          | some p => s.wr (R.pnlDieId p) (R.pnlDieId p).reset
          | none => s
        s.discFail pos.val 2
  | none =>
    match s.id.kprFrame, s.id.thmFrame with
    | some f, g =>
      if f.pos = pos.val then s.mgmtTimeout false f
      else match g with
        | some g => if g.pos = pos.val then s.mgmtTimeout true g else s
        | none => s
    | none, some g => if g.pos = pos.val then s.mgmtTimeout true g else s
    | none, none => s

/-- The Keeper or the Thimble sends a frame, if it has none outstanding (R30); a panel in reset or excluded
is answered ABSENT by its saddle (R31). -/
def threadMgmtFrameEff (thimble : Bool) (pos : Fin 17) (s : State) : State :=
  let busy := if thimble then s.id.thmFrame.isSome else s.id.kprFrame.isSome
  if busy || s.bootStep < 4 then s
  else match panelAt pos.val with
    | some p =>
      if s.id.excluded.contains p || s.id.dieReset.contains pos.val || s.id.dieHeld.contains pos.val then
        s.threadAnswer thimble pos.val 1
      else if thimble then { s with id.thmFrame := some ⟨pos.val, 1, s.tape⟩ }
      else { s with id.kprFrame := some ⟨pos.val, 1, s.tape⟩ }
    | none =>
      if thimble then { s with id.thmFrame := some ⟨pos.val, 1, s.tape⟩ }
      else { s with id.kprFrame := some ⟨pos.val, 1, s.tape⟩ }

def execStrapRead (sd : Saddle) (pads : BitVec 8) (s : State) : Host.Outcome State Fault Refusal :=
  .next (strapReadEff sd pads s)
def execOrientationDecode (p : Panel) (g0 g1 g2 g3 : BitVec 8) (s : State) : Host.Outcome State Fault Refusal :=
  .next (orientationDecodeEff p g0 g1 g2 g3 s)
def execThreadDiscovery (s : State) : Host.Outcome State Fault Refusal :=
  .next (threadDiscoveryEff s)
def execThreadFrameReturn (r : ThreadReply) (s : State) : Host.Outcome State Fault Refusal :=
  .next (threadFrameReturnEff r s)
def execThreadFrameTimeout (pos : Fin 17) (s : State) : Host.Outcome State Fault Refusal :=
  .next (threadFrameTimeoutEff pos s)
def execThreadMgmtFrame (thimble : Bool) (pos : Fin 17) (s : State) : Host.Outcome State Fault Refusal :=
  .next (threadMgmtFrameEff thimble pos s)

end Sys2Proof.Machine
end

