-- ==== Sys2Proof/Machine/Clock.lean ====
section
/-! DEFINITION. Self-timed operation, the Tape and the deadlines (R37-R57): brown-out parks, pace
sensors, holdover, late completions, deadline values and their broadcast. -/

namespace Sys2Proof

/-- The unit that a pace sensor belongs to. -/
def PaceUnit.num : PaceUnit → Nat
  | .panel p => p.val
  | .saddle t => 12 + t.val

end Sys2Proof

namespace Sys2Proof.Machine

/-! ### Brown-out (R39) -/

/-- The rail of a panel falls below 0.585 V: its handshakes park. A DIM panel's monitor is disarmed and an OFF
panel has no rail (R399). -/
def brownOutParkEff (p : Panel) (mv : BitVec 12) (s : State) : State :=
  if mv.toNat < 585 ∧ s.panelState p.val = 0 ∧ KMap.get 0 s.clk.parks p.val = 0 then
    { s with clk.parks := KMap.set 0 p.val (s.tape + 1) s.clk.parks }
  else s

/-- The rail returns above 0.600 V: the panel resumes. -/
def brownOutResumeEff (p : Panel) (mv : BitVec 12) (s : State) : State :=
  if 600 < mv.toNat then { s with clk.parks := KMap.erase p.val s.clk.parks } else s

/-! ### Pace sensors (R40, R41) -/

/-- The pace register of a sensor. -/
def paceReg : PaceUnit → Reg
  | .panel p => R.pace p.val
  | .saddle t => R.fabPace t.val

/-- A pace sensor of an OFF panel reads 0 and keeps no record. DEDUCED (assumption 59). -/
def State.paceOff (s : State) (u : PaceUnit) : Bool :=
  match u with | .panel p => s.panelState p.val == 2 | .saddle _ => false

def paceWindowEndEff (u : PaceUnit) (count : BitVec 16) (s : State) : State :=
  if s.paceOff u then s
  else
    let r := paceReg u
    let n := count.toNat
    let last := KMap.get 0 s.clk.paceEnd u.num
    let s := s.advance (last + 1000)
    let s := { s with clk.paceEnd := KMap.set 0 u.num s.tape s.clk.paceEnd }
    let s := s.setF r F.pace_CURRENT n
    if s.clk.paceOpen.contains u.num then
      (s.setF r F.pace_MIN (min n (s.fld r F.pace_MIN))).setF r F.pace_MAX (max n (s.fld r F.pace_MAX))
    else
      let s := (s.setF r F.pace_MIN n).setF r F.pace_MAX n
      { s with clk.paceOpen := u.num :: s.clk.paceOpen }

def paceClrEff (u : PaceUnit) (s : State) : State :=
  { s with clk.paceOpen := s.clk.paceOpen.filter (· != u.num) }

/-- A panel that is OFF loses its pace record (R41). -/
def State.paceStop (s : State) (p : Nat) : State :=
  { s.wr (R.pace p) 0 with clk.paceOpen := s.clk.paceOpen.filter (· != p) }

/-! ### Holdover (R48, R49) -/

/-- Unit code of the die at a Thread position. -/
def dieUnit (pos : Nat) : Nat :=
  match saddleAt pos, panelAt pos with
  | some t, _ => unitCode 0x01 t
  | _, some p => unitCode 0x09 p
  | _, _ => unitCode 0x0B 0

/-- HOLDOVER shows whether any counter is in holdover. -/
def State.showHoldover (s : State) : State :=
  let r := R.tapeStatus
  s.setF r F.tapeStatus_HOLDOVER (if s.fld r F.tapeStatus_DIE_HOLD = 0 then 0 else 1)

def refclkLossEff (pos : Fin 17) (s : State) : State :=
  let r := R.tapeStatus
  let s := { s with clk.relocked := s.clk.relocked.filter (· != pos.val) }
  if s.fbit r F.tapeStatus_DIE_HOLD pos.val then s
  else
    let s := (s.setFbit r F.tapeStatus_DIE_HOLD pos.val true).showHoldover
    let s := s.setF r F.tapeStatus_HOLDOVER_SEEN 1
    s.err 16 1 4 (dieUnit pos.val) 0 0 (linkMisc 7 pos.val 0)

/-- The die's counter has left holdover. -/
def State.endHoldover (s : State) (pos : Nat) : State :=
  let s := (s.setFbit R.tapeStatus F.tapeStatus_DIE_HOLD pos false).showHoldover
  { s with clk.relocked := s.clk.relocked.filter (· != pos) }

/-- The counter has relocked: a replica still slews toward the master, which has nothing to slew to.
DEDUCED (assumption 58). -/
def refclkRelockEff (pos : Fin 17) (s : State) : State :=
  if !s.fbit R.tapeStatus F.tapeStatus_DIE_HOLD pos.val then s
  else if pos.val = 0 then s.endHoldover 0
  else if s.clk.relocked.contains pos.val then s
  else { s with clk.relocked := pos.val :: s.clk.relocked }

def replicaRealignedEff (pos : Fin 17) (s : State) : State :=
  if s.clk.relocked.contains pos.val then s.endHoldover pos.val else s

/-- A completion that lost to its expiry is discarded and counted (R51). -/
def lateCompletionEff (u : UnitId) (s : State) : State :=
  { s with clk.late := KMap.upd 0 u.bank (· + 1) s.clk.late }

/-! ### Deadline values (R52, R53, R57) -/

/-- The Thimble's sample period in ns. -/
def State.periodNs (s : State) : Nat := clampN 100 10000 (s.cfg 0xE0 0xFFFF 0 2 100) * 1000

/-- The value in force of class `k`. -/
def State.deadline (s : State) (k : Nat) : Nat := (s.rd (R.deadline k)).toNat

/-- A class value clamped into its range (R52). -/
def clampDeadline (k v periodNs : Nat) : Nat :=
  match k with
  | 0 => clampN 1000 1000000 v
  | 1 => clampN 5000 10000000 v
  | 2 => clampN 10000 1000000000 v
  | 4 => clampN 250 500000 v
  | 5 => clampN 10000 1000000000 v
  | 6 => if v = 0 then 0 else clampN 1000 1000000000 v
  | 7 => clampN periodNs (16 * periodNs) v
  | 8 => clampN 100000 100000000 v
  | 9 => clampN 10000 2000000000 v
  | _ => clampN 1000000 10000000000 v

/-- A class value under its dependency bound (R52, R53). -/
def State.boundDeadline (s : State) (k v : Nat) : Nat :=
  match k with
  | 1 => max v (2 * s.deadline 0)
  | 4 => min v (s.deadline 0 / 2)
  | 9 => max v (max (s.deadline 1) (s.deadline 2) + s.deadline 0)
  | _ => v

/-- A class takes a value. A change of HOME is remembered for the staleness of WBs (R189). -/
def State.putDeadline (s : State) (k v : Nat) : State :=
  if s.deadline k = v then s
  else
    let s := if k = 1 then { s with clk.homeHist := (s.tape, s.deadline 1) :: s.clk.homeHist } else s
    s.wr (R.deadline k) (BitVec.ofNat 64 v)

/-- The dependency bounds are applied in the order STALL, LINK, HOME, IOC, FENCE (R53). -/
def State.boundAll (s : State) : State :=
  [0, 4, 1, 2, 9].foldl (fun s k => s.putDeadline k (s.boundDeadline k (s.deadline k))) s

/-- A class is written (R8, R52, R53). -/
def State.setDeadline (s : State) (k v : Nat) : State :=
  if k = 3 then s else (s.putDeadline k (clampDeadline k v s.periodNs)).boundAll

/-- Units that keep copies: the banks of R438 but for panels that are OFF. DEDUCED (assumption 57). -/
def State.dlUnits (s : State) : List Nat :=
  (List.range 92).filter fun b => decide (12 ≤ b) || s.panelState b != 2

/-- DEADLINE_SET is broadcast for every class whose value differs from a copy (R57). -/
def State.broadcastDeadlines (s : State) (who : Nat) : State :=
  let need := s.dlUnits.flatMap fun b => (List.range 11).filterMap fun k =>
    if k != 3 && s.dlCopy b k != s.deadline k then some (16 * b + k) else none
  if need.isEmpty then s
  else { s with clk.dlWait := need, clk.dlFor := who }

/-- Every unit takes the values at once: at the load of a base pattern no unit runs (R73).
DEDUCED (assumption 57). -/
def State.copyDeadlines (s : State) : State :=
  let all := (List.range 92).flatMap fun b => (List.range 11).map fun k => (16 * b + k, s.deadline k)
  let put := fun (m : KMap (Option Nat)) (e : Nat × Nat) =>
    KMap.set none e.1 (if e.2 = (R.deadline (e.1 % 16)).reset.toNat then none else some e.2) m
  { s with clk.dlCopy := all.foldl put s.clk.dlCopy, clk.dlWait := [], clk.dlFor := 0 }

/-- The Keeper's write of YOKE.DEADLINE[k] (R57): it completes once every unit has acknowledged. -/
def deadlineWriteEff (a : Agent) (k : Fin 11) (v : BitVec 40) (s : State) : State :=
  if !agentIsKeeper a then
    (s.kwViolation a (R.deadline k.val).addr).reply a .viol
  else if k.val = 3 then s.reply a .ok
  else
    let s := (s.setDeadline k.val v.toNat).broadcastDeadlines 1
    if s.clk.dlWait.isEmpty then s.reply a .ok else s

/-- DEADLINE_SET reaches a unit, which takes the value and acknowledges it. -/
def deadlineSetEff (u : UnitId) (k : Fin 11) (s : State) : State :=
  let key := 16 * u.bank + k.val
  if !s.clk.dlWait.contains key then s
  else
    let v := s.deadline k.val
    let put := if v = (R.deadline k.val).reset.toNat then none else some v
    let s := { s with clk.dlCopy := KMap.set none key put s.clk.dlCopy
                      clk.dlWait := s.clk.dlWait.filter (· != key) }
    if s.clk.dlWait.isEmpty then
      let who := s.clk.dlFor
      let s := { s with clk.dlFor := 0 }
      if who = 1 then s.reply .keeper .ok else s
    else s

def execBrownOutPark (p : Panel) (mv : BitVec 12) (s : State) : Host.Outcome State Fault Refusal :=
  .next (brownOutParkEff p mv s)
def execBrownOutResume (p : Panel) (mv : BitVec 12) (s : State) : Host.Outcome State Fault Refusal :=
  .next (brownOutResumeEff p mv s)
def execPaceWindowEnd (u : PaceUnit) (count : BitVec 16) (s : State) : Host.Outcome State Fault Refusal :=
  .next (paceWindowEndEff u count s)
def execPaceClr (u : PaceUnit) (s : State) : Host.Outcome State Fault Refusal :=
  .next (paceClrEff u s)
def execRefclkLoss (pos : Fin 17) (s : State) : Host.Outcome State Fault Refusal :=
  .next (refclkLossEff pos s)
def execRefclkRelock (pos : Fin 17) (s : State) : Host.Outcome State Fault Refusal :=
  .next (refclkRelockEff pos s)
def execReplicaRealigned (pos : Fin 17) (s : State) : Host.Outcome State Fault Refusal :=
  .next (replicaRealignedEff pos s)
def execLateCompletion (u : UnitId) (s : State) : Host.Outcome State Fault Refusal :=
  .next (lateCompletionEff u s)
def execDeadlineWrite (a : Agent) (k : Fin 11) (v : BitVec 40) (s : State) : Host.Outcome State Fault Refusal :=
  .next (deadlineWriteEff a k v s)
def execDeadlineSet (u : UnitId) (k : Fin 11) (s : State) : Host.Outcome State Fault Refusal :=
  .next (deadlineSetEff u k s)

end Sys2Proof.Machine
end

