-- ==== Sys2Proof/Machine/Pattern.lean ====
section
/-! DEFINITION. The pattern and its alterations (R58-R81): images and their checks, payload clamping, the
configuration registers, loading a base pattern, alterations. -/

namespace Sys2Proof.Machine

/-! ### Piece index (R63) -/

/-- Payload length of PAYLOAD_VER 1, instances (0: 0xFFFF only), alterable, required. -/
structure PieceKind where
  type : Nat
  len  : Nat
  inst : Nat := 0
  alt  : Bool := false
  req  : Bool := false
  deriving DecidableEq, Repr

def pieceIndex : List PieceKind := [
  ⟨0x01, 64, 0, false, true⟩, ⟨0x10, 96, 0, false, true⟩, ⟨0x20, 2056, 0, false, true⟩,
  ⟨0x30, 400, 0, false, false⟩, ⟨0x40, 8, 0, true, false⟩, ⟨0x50, 136, 4, true, false⟩,
  ⟨0x60, 264, 0, true, false⟩, ⟨0x70, 136, 0, true, false⟩, ⟨0x80, 56, 0, true, false⟩,
  ⟨0x90, 16, 8, false, false⟩, ⟨0xA0, 16, 12, false, false⟩, ⟨0xB0, 16, 16, false, false⟩,
  ⟨0xB1, 32776, 0, true, false⟩, ⟨0xC0, 16, 8, false, false⟩, ⟨0xD0, 24, 64, false, false⟩,
  ⟨0xE0, 4616, 0, true, false⟩, ⟨0xF0, 24, 0, true, false⟩, ⟨0x100, 280, 0, false, false⟩,
  ⟨0x110, 264, 0, false, false⟩, ⟨0x120, 16, 0, true, false⟩]

def kindOf (type : Nat) : Option PieceKind := pieceIndex.find? fun k => k.type == type

/-! ### Images (R58-R62) -/

/-- A piece as an image holds it. -/
structure RawPiece where
  type : Nat
  unit : Nat
  ver  : Nat
  payload : List Byte
  deriving DecidableEq, Repr

/-- `n` bytes of an image at `off`. -/
def seg (l : List Byte) (off n : Nat) : List Byte := (l.drop off).take n

/-- The pieces of a signed region, if they end exactly at its length. -/
def parsePieces (l : List Byte) (len : Nat) : Nat → Nat → Option (List RawPiece)
  | 0, off => if off = len then some [] else none
  | n + 1, off =>
    let k := le l (off + 4) 4
    if len < off + 16 + k ∨ k % 8 ≠ 0 then none
    else (parsePieces l len n (off + 16 + k)).map
      ({ type := le l off 2, unit := le l (off + 2) 2, ver := le l (off + 8) 1, payload := seg l (off + 16) k } :: ·)

/-- LENGTH of an image's signed region. -/
def imgLen (l : List Byte) : Nat := le l 0xC 4
/-- Pieces of an image. -/
def imgPieces (l : List Byte) : Option (List RawPiece) :=
  let n := le l 0x10 2
  if n = 0 ∨ 1024 < n then none else parsePieces l (imgLen l) n 0x40
/-- The digest of an image's signed region. -/
def imgDigest (l : List Byte) : List Byte := sha256 (l.take (imgLen l))

/-- The signature block (R61) over `region`: the first of KEYSLOT, KEYHASH and SIGNATURE that fails. -/
def State.sigCheck (s : State) (region block : List Byte) : Option Nat :=
  let slot := le block 0 1
  let e := le block 4 4
  let modulus := seg block 0x10 384
  if !s.slotSigns slot then some 6
  else if leNat (sha256 (modulus ++ seg block 4 4)) ≠ s.slotHash slot ∨ e ≠ 65537 then some 7
  else if !pssVerify (be modulus) e region (be (seg block 0x190 384)) then some 8
  else none

/-- The first piece that a check refuses. -/
def badPiece (ps : List RawPiece) (f : Nat → RawPiece → Bool) : Option Nat :=
  (List.range ps.length).find? fun i => match ps[i]? with | some p => f i p | none => false

/-- Panels a change of MODE affects: those of saddles whose partition differs (R76). -/
def State.affected (s : State) (mode : Nat) : List Nat :=
  let mode := min 3 mode
  let part := fun m t => (List.range 4).map fun u => partitionOf m u == partitionOf m t
  ((List.range 4).filter fun t => part s.girthMode t != part mode t).flatMap fun t => (List.range 3).map (3 * t + ·)

/-- CORE_EN and PANEL_EN in force of a panel under a PANEL_ENABLE payload (R68). -/
def State.enables (s : State) (l : List Byte) (p : Nat) : Nat × Bool :=
  let v := le l (8 * p) 8
  let cores := (v / 2 ^ 32 % 2 ^ 20) &&& (2 ^ s.fld R.pkgId F.pkgId_CORES_PER_PANEL - 1)
  (cores, bit v 0 && !s.id.excluded.contains p && cores != 0)

/-- The payload of a package-wide piece of an image. -/
def payloadOf (ps : List RawPiece) (type : Nat) : Option (List Byte) :=
  (ps.find? fun p => p.type == type).map RawPiece.payload

/-- The checks on pieces (R72 orders 15 to 24). -/
def State.checkPieces (s : State) (l : List Byte) (alt : Bool) : Nat × Nat :=
  match imgPieces l with
  | none => (0x0F, 0xFFFF)
  | some ps =>
    let key := fun p : RawPiece => p.type * 65536 + p.unit
    let order := badPiece ps fun i p => match i with
      | 0 => false
      | i + 1 => match ps[i]? with | some q => decide (key p ≤ key q) | none => false
    let type := badPiece ps fun _ p => (kindOf p.type).isNone
    let unit := badPiece ps fun _ p => match kindOf p.type with
      | some k => p.unit != 0xFFFF && decide (k.inst ≤ p.unit) | none => false
    let load := badPiece ps fun _ p => match kindOf p.type with
      | some k => p.ver != 1 || p.payload.length != k.len | none => false
    let nalt := badPiece ps fun _ p => match kindOf p.type with | some k => alt && !k.alt | none => false
    let on := badPiece ps fun _ p => alt && p.type == 0x40 &&
      (s.affected (le p.payload 0 1)).any fun q => s.panelState q != 2
    match order, type, unit, load, nalt with
    | some i, _, _, _, _ => (0x10, i)
    | _, some i, _, _, _ => (0x11, i)
    | _, _, some i, _, _ => (0x12, i)
    | _, _, _, some i, _ => (0x13, i)
    | _, _, _, _, some i => (0x14, i)
    | _, _, _, _, _ =>
      if alt then match on with | some i => (0x18, i) | none => (0, 0xFFFF)
      else if pieceIndex.any fun k => k.req && (payloadOf ps k.type).isNone then (0x15, 0xFFFF)
      else
        let bind := match payloadOf ps 1 with | some q => le q 0x30 8 | none => 0
        if bind ≠ 0 ∧ bind ≠ (s.rd R.pkgSerial).toNat then (0x16, 0xFFFF)
        else match payloadOf ps 0x10 with
          | some q => if (List.range 12).any fun p => (s.enables q p).2 then (0, 0xFFFF) else (0x17, 0xFFFF)
          | none => (0x15, 0xFFFF)

/-- The checks of R72, in their order: the code of the first that fails and the offending piece. -/
def State.checkImage (s : State) (l : List Byte) (alt : Bool) : Nat × Nat :=
  let no := fun c => (c, 0xFFFF)
  let len := imgLen l
  if alt && s.fld R.patStatus F.patStatus_BUSY == 1 then no 0x01
  else if alt && s.fld R.patStatus F.patStatus_LOADED == 0 then no 0x02
  else if len % 8 ≠ 0 ∨ len < 80 ∨ (if alt then 0x100000 else 0x1000000) < len + 784 then no 0x03
  else if seg l 0 4 ≠ [0x4B, 0x52, 0x4E, 0x50] then no 0x04
  else if le l 4 1 ≠ 1 then no 0x05
  else
    let block := seg l len 784
    if alt && le block 0 1 != s.pat.slot then no 0x06
    else match s.sigCheck (l.take len) block with
      | some c => no c
      | none =>
        if le l 9 1 ≠ (if alt then 1 else 0) then no 0x09
        else if le l 6 2 ≠ s.fld R.pkgId F.pkgId_PART_CODE then no 0x0A
        else if le l 8 1 = 0 ∨ s.fld R.pkgId F.pkgId_PKG_LEVEL < le l 8 1 then no 0x0B
        else if 64 < le l 0xA 1 ∨ le l 0xA 1 < s.otp.patRoll then no 0x0C
        else if alt && le l 0x20 32 != s.pat.digest then no 0x0D
        else if alt && (le l 0x14 4 == 0 || decide (le l 0x14 4 ≤ s.fld R.patSeq F.patSeq_LAST_SEQ)) then no 0x0E
        else s.checkPieces l alt

/-! ### Clamping (R75 and the owning chapters) -/

/-- An upper bound clamped to its lower bound: the `n`-byte field at `hi`, each taken modulo `m`. -/
def raiseTo (l : List Byte) (lo hi n m : Nat) : List Byte := setLe l hi n (max (le l lo n % m) (le l hi n % m))

/-- A clamp applied at every index below `n`. -/
def clampEach (n : Nat) (f : List Byte → Nat → List Byte) (l : List Byte) : List Byte := (List.range n).foldl f l

/-- HOME_HASH (R197). -/
def clampHomeHash (l : List Byte) : List Byte :=
  let l := (clampLe l 0 2 8 512 |> fun l => clampLe l 0x88 1 0 16)
  clampEach 16 (fun l i =>
    let o := 0x90 + 16 * i
    let l := clampLe l o 4 0 0x3FFFF
    let l := clampLe l (o + 4) 4 (le l o 4) 0x3FFFF
    if le l (o + 8) 3 = 0 then setLe l (o + 8) 3 1 else l) l

/-- The nearest multiple of `n`, the lower of two equally near. -/
def nearMultiple (n v : Nat) : Nat := if v % n ≤ n - v % n then v / n * n else v / n * n + n

/-- BOLT_MAP, entry by entry (R278). `from'`: the end of the entry before. -/
def clampBolts : Nat → Nat → Nat → List Byte → List Byte
  | 0, _, _, l => l
  | k + 1, i, from', l =>
    let o := 8 + 32 * i
    let l := clampLe l (o + 0xA) 1 0 2
    let l := clampLe l (o + 0xB) 1 0 2
    let l := clampLe l (o + 0xC) 1 0 1
    let l := clampLe l (o + 0xD) 1 0 63
    let l := clampEach 12 (fun l p =>
      let d := le l (o + 0x10 + p) 1
      if 1 ≤ d ∧ d ≤ 9 then setLe l (o + 0x10 + p) 1 10 else l) l
    let kind := le l (o + 0xA) 1
    let bits := match kind with | 0 => 8 | 1 => 12 | _ => 4
    let mask := le l (o + 8) 2 % 2 ^ bits
    let mask := if mask = 0 then 1 else mask
    let n := popcount 12 mask
    let base := max from' (le l o 4 % 2 ^ 18)
    let size := min (max n (nearMultiple n (le l (o + 4) 4 % 2 ^ 19))) ((0x40000 - base) / n * n)
    if size < n then setLe l 0 1 i
    else
      let sds := (bitsOf 12 mask).map fun d => match kind with | 0 => d / 2 | 1 => d / 3 | _ => d
      let l := if le l (o + 0xC) 1 = 1 ∧ sds.any (fun t => some t != sds.head?) then setLe l (o + 0xC) 1 0 else l
      clampBolts k (i + 1) (base + size) (setLe (setLe (setLe l o 4 base) (o + 4) 4 size) (o + 8) 2 mask)

/-- FABRIC_PRIORITY (R237). -/
def clampPriority (l : List Byte) : List Byte :=
  let l := (clampLe l 0 1 0 2 |> fun l => clampLe l 1 1 0 2 |> fun l => clampLe l 2 1 0 2)
  let l := (clampLe l 3 1 0 32 |> fun l => clampLe l 4 1 16 255)
  clampEach 32 (fun l i =>
    let o := 8 + 8 * i
    clampLe (raiseTo l o (o + 2) 2 4096) (o + 6) 1 0 2) l

/-- SLOT_TABLE's ranges (R243, R244); its dependency bounds are applied where it is used. -/
def clampSlots (l : List Byte) : List Byte :=
  let l := (clampLe l 1 1 1 64 |> fun l => clampLe l 2 2 64 4096)
  let l := clampLe l 4 2 32 (le l 2 2 / 2)
  clampEach 16 (fun l j => if j = 0 then l else raiseTo l (0x48 + 4 * j) (0x4A + 4 * j) 2 4096) l

/-- Rules of 8 bytes at `at'` whose second word is not below the first. -/
def clampRules (at' : Nat) (l : List Byte) : List Byte :=
  clampEach 32 (fun l i => raiseTo l (at' + 8 * i) (at' + 8 * i + 2) 2 4096) l

/-- The nearest listed DDR rate, the lower of two equally near (R296). -/
def ddrRate (v : Nat) : Nat :=
  if v ≤ 5000 then 4800 else if v ≤ 5400 then 5200 else if v ≤ 5800 then 5600 else if v ≤ 6200 then 6000 else 6400

/-- THIMBLE_PROGRAM (R409, R410, R414). -/
def clampThimble (l : List Byte) : List Byte :=
  let l := clampLe l 0 2 100 10000
  let stage := fun v => match v / 16 with
    | 3 => 0x30 + clampN 1 6 (v % 16)
    | n => if 4 ≤ n then 0x40 + clampN 1 12 (v % 16) else v
  let l := clampEach 64 (fun l c =>
    let o := 8 + 8 * c
    let l := clampLe l (o + 1) 1 1 100
    clampEach 3 (fun l j => setLe l (o + 2 + j) 1 (stage (le l (o + 2 + j) 1))) l) l
  let sgn := fun v => if v < 2 ^ 31 then (v : Int) else (v : Int) - 2 ^ 32
  clampEach 64 (fun l i =>
    let o := 0x208 + 64 * i
    let l := clampLe l (o + 1) 1 1 4
    let l := clampLe l (o + 2) 1 1 255
    let l := clampLe l (o + 3) 1 0 7
    clampEach 4 (fun l j =>
      let t := o + 0x10 + 12 * j
      let l := clampLe l t 1 0 63
      let l := clampLe l (t + 1) 1 0 2
      if sgn (le l (t + 4) 4) < sgn (le l (t + 8) 4) then setLe l (t + 8) 4 (le l (t + 4) 4) else l) l) l

/-- POWER_LIMITS (R415). -/
def clampPower (l : List Byte) : List Byte :=
  let l := (clampLe l 0 2 600 950 |> fun l => clampLe l 2 2 600 950 |> fun l => clampLe l 4 2 600 950)
  let l := clampLe l 2 2 (le l 0 2) 950
  let l := clampLe l 4 2 (le l 0 2) (le l 2 2)
  let l := (clampLe l 6 2 500 580 |> fun l => clampLe l 8 1 1 20 |> fun l => clampLe l 9 1 95 115)
  let l := (clampLe l 0xA 2 400 1800 |> fun l => clampLe l 0xC 1 1 50 |> fun l => clampLe l 0xD 1 10 200)
  let l := (clampLe l 0xE 2 0 1000 |> fun l => clampLe l 0x10 2 0 10000 |> fun l => clampLe l 0x12 2 0 60000)
  clampLe l 0x14 2 700 800

/-- A payload with its fields clamped (R75). -/
def clampPayload (type unit : Nat) (l : List Byte) : List Byte :=
  match type with
  | 0x20 =>
    let l := clampLe l 0 1 1 64
    clampBolts (le l 0 1) 0 0 l
  | 0x30 => clampHomeHash l
  | 0x40 => clampLe (clampLe l 0 1 0 3) 1 1 1 7
  | 0x50 => clampEach 24 (fun l k =>
      setLe l (0x58 + 2 * k) 2 (le l (0x58 + 2 * k) 2 &&& (0xFFFF ^^^ le l (0x28 + 2 * k) 2))) l
  | 0x60 => clampPriority l
  | 0x70 => clampSlots l
  | 0x90 => clampLe (clampLe (clampLe (clampLe l 0 2 6400 9200) 2 1 6 16) 3 1 45 90) 4 1 0 1
  | 0xA0 => clampLe (clampLe (clampLe (clampLe (setLe l 0 2 (ddrRate (le l 0 2))) 2 1 6 16) 3 1 45 90) 4 1 0 1) 5 1 0 1
  | 0xB0 => clampLe (clampLe l 4 2 10 5000) 6 2 100 60000
  | 0xB1 =>
    let l := clampLe (clampLe l 0 2 0 4096) 2 1 1 63
    clampEach 4096 (fun l i =>
      let o := 8 + 8 * i
      let l := setLe l o 2 (min 0x7FFE (le l o 2 % 2 ^ 15))
      setLe l (o + 2) 2 (max (le l o 2) (min 0x7FFE (le l (o + 2) 2 % 2 ^ 15)))) l
  | 0xC0 =>
    let l := clampLe (clampLe (clampLe l 0 1 0 4) 1 1 1 6) 4 1 0 2
    if 4 ≤ unit ∧ unit < 8 then setLe l 2 1 0 else l
  | 0xD0 => clampEach 8 (fun l c => clampLe l (8 + 2 * c) 2 1 256) (clampLe l 0 1 1 64)
  | 0xE0 => clampThimble l
  | 0xF0 => clampPower l
  | 0x100 => clampRules 0x18 (clampLe (clampLe (clampLe l 8 2 64 1024) 0xA 2 0 4095) 0x10 1 0 32)
  | 0x110 => clampRules 8 (clampLe l 1 1 0 32)
  | 0x120 =>
    let l := clampLe (clampLe (clampLe l 0 2 1 65535) 2 2 1 65535) 4 2 1 65535
    clampLe l 8 4 1000 1000000
  | _ => l

/-- A piece ready to apply. -/
def RawPiece.piece (p : RawPiece) : Piece := ⟨p.type, p.unit, clampPayload p.type p.unit p.payload⟩

/-! ### The configuration registers of the pieces in force -/

/-- HOLD_WINDOW (R196) and class masks, locks and power-down bits (R163) of a saddle, set outright.
DEDUCED (assumption 38). -/
def State.configSaddle (s : State) (t : Nat) : State :=
  let s := s.setF (R.cohCfg t) F.cohCfg_HOLD_WINDOW (s.cfg 0x30 0xFFFF 0 2 32)
  let s := (List.range 16).foldl (fun s c => s.setF (R.llcClass t c) F.llcClass_MASK (s.waysMask t c)) s
  (List.range 24).foldl (fun s k =>
    let s := s.setF (R.slcWayCtl t k) F.slcWayCtl_LOCK (s.waysLock t k)
    let s := s.setF (R.slcWayCtl t k) F.slcWayCtl_OFF (s.waysOff t k)
    s.setF (R.slcWayState t k) F.slcWayState_PWR_OFF (s.waysOff t k)) s

/-- MC_PARAM of a controller (R296). -/
def State.configMc (s : State) (c : Ctlr) : State :=
  let s := s.setF (R.mcParam c) F.mcParam_RFM_K (s.mcCfg c 2 1 10 9)
  s.setF (R.mcParam c) F.mcParam_TEMP_HI (s.mcCfg c 3 1 85 85)

/-- ERR_CTL of a bank (R460). -/
def State.configBank (s : State) (b : Nat) : State :=
  let (o, d) := if b < 12 then (0, 16) else if b < 16 then (2, 64) else (4, 16)
  let irq := s.cfg 0x120 0xFFFF 6 1 7
  let r := R.errCtl b
  let s := s.setF r F.errCtl_CE_THRESH (s.cfg 0x120 0xFFFF o 2 d)
  let s := s.setF r F.errCtl_IRQ_CE (irq % 2)
  let s := s.setF r F.errCtl_IRQ_UCNA (irq / 2 % 2)
  (s.setF r F.errCtl_IRQ_UCP (irq / 4 % 2)).refreshBank b

/-- HART_EN of a panel (R68). -/
def State.configPanel (s : State) (p : Nat) : State :=
  match s.piece 0x10 0xFFFF with
  | none => s.wr (R.hartEn p) 0
  | some l =>
    let (cores, en) := s.enables l p
    let en := en && !bit (s.fld R.patStatus F.patStatus_RIVET_DROPPED) p
    (s.setF (R.hartEn p) F.hartEn_CORE_EN cores).setF (R.hartEn p) F.hartEn_PANEL_EN (if en then 1 else 0)

/-- Debug enables of a world (R364). -/
def State.debugPolicy (s : State) (w : Nat) : Nat :=
  if w = 0 then s.cfg 0x110 0xFFFF 0 1 3
  else match s.piece 0x110 0xFFFF with
    | none => 4
    | some l =>
      match (List.range (le l 1 1)).find? fun i =>
          decide (le l (8 + 8 * i) 2 % 4096 ≤ w) && decide (w ≤ le l (10 + 8 * i) 2 % 4096) with
      | some i => le l (12 + 8 * i) 1
      | none => le l 2 1

/-- DEBUG_EN of every world, as the policy gives it. -/
def State.configDebug (s : State) : State :=
  s.wr (R.debugEn 0) (BitVec.ofNat 64 (s.debugPolicy 0 % 4))

/-- CH_LIMIT of an engine's channels (R391). -/
def State.configBobbin (s : State) (n : Nat) : State :=
  (List.range 8).foldl (fun s c =>
    let s := s.setF (R.chLimit n c) F.chLimit_MAX_BEATS (s.cfg 0xD0 n 0 1 64)
    s.setF (R.chLimit n c) F.chLimit_SHARE_MAX (s.cfg 0xD0 n (8 + 2 * c) 2 256)) s

/-- VREQ of every panel at load (R397). -/
def State.configVreq (s : State) : State :=
  (List.range 12).foldl (fun s p => s.setF (R.vreq p) F.vreq_MV (s.cfg 0xF0 0xFFFF 4 2 800)) s

/-- The DEADLINES piece (R459): each class given takes its value, THIMBLE as R53 says. -/
def State.applyDeadlines (s : State) (l : List Byte) (thimble : Bool) : State :=
  let given := le l 0 2
  let s := (List.range 11).foldl (fun s k =>
    if bit given k && k != 3 && (k != 7 || thimble) then s.putDeadline k (clampDeadline k (le l (8 + 4 * k) 4) s.periodNs)
    else s) s
  s.boundAll

/-- A panel the pattern does not enable is OFF (R68, R398). DEDUCED (assumption 71). -/
def State.panelsOff (s : State) : State :=
  (List.range 12).foldl (fun s p =>
    if s.fld (R.hartEn p) F.hartEn_PANEL_EN = 1 then s
    else s.setPanelState p 2) s

/-! ### Loading a base pattern (R70, R73) -/

/-- PATTERN_STATUS of an image's outcome. KIND is the kind the command takes: of a refused image, its own
header is not trusted. DEDUCED (assumption 68). -/
def State.patResult (s : State) (code idx src : Nat) (alt : Bool) : State :=
  let r := R.patStatus
  let s := (s.setF r F.patStatus_CODE code).setF r F.patStatus_PIECE_INDEX idx
  (s.setF r F.patStatus_SOURCE src).setF r F.patStatus_KIND (if alt then 1 else 0)

/-- PANEL_DROPPED: the panels the pattern enables that discovery excluded (R68). -/
def State.dropped (s : State) (l : List Byte) : Nat :=
  ofBits ((List.range 12).filter fun p => bit (le l (8 * p) 8) 0 && s.id.excluded.contains p)

/-- RAIL_EN is asserted, and RAIL_GOOD awaited under VREG (R471). -/
def State.assertRailEn (s : State) : State :=
  { s.setStep 5 with pins.railEn := true, boot.railT := some (s.timer 19 8) }

/-- What the base image holds and says of itself: store, signer, digest, identity. -/
def State.baseStore (s : State) (img : List Byte) : State :=
  let ps := (imgPieces img).getD []
  let s := { s with pat.store := ps.map RawPiece.piece, pat.slot := le img (imgLen img) 1
                    pat.digest := leNat (imgDigest img), boot.patKey := s.slotHash (le img (imgLen img) 1) }
  let s := s.setF R.patStatus F.patStatus_PANEL_DROPPED (s.dropped ((payloadOf ps 0x10).getD []))
  let s := s.setF R.patStatus F.patStatus_LOADED 1
  let s := s.setF R.bootStatus F.bootStatus_PAT_SLOT s.pat.slot
  let s := s.wr R.patId (BitVec.ofNat 64 (le ((payloadOf ps 1).getD []) 0 8))
  let d := imgDigest img
  let s := (List.range 4).foldl (fun s i => s.wr (R.patHash i) (BitVec.ofNat 64 (le d (8 * i) 8))) s
  s.wr R.patSeq 0

/-- Every unit takes its configuration from the store. -/
def State.baseConfig (s : State) : State :=
  let s := (List.range 12).foldl State.configPanel s
  let s := (List.range 4).foldl State.configSaddle s
  let s := allCtlrs.foldl State.configMc s
  let s := (List.range 92).foldl State.configBank s
  let s := (List.range 64).foldl State.configBobbin s
  let s := s.configDebug.configVreq.panelsOff
  let s := match s.piece 0x80 0xFFFF with | some l => s.applyDeadlines l true | none => s.boundAll
  { s.copyDeadlines with thm.vfab := s.cfg 0xF0 0xFFFF 0x14 2 750 }

/-- The measurements of the image and of the fuses. -/
def State.baseMeasure (s : State) (img : List Byte) : State :=
  let s := s.extendMeas 4 (imgDigest img)
  let fuse := leBytes 8 (s.rd R.fuseState).toNat ++ leBytes 32 s.boot.fwKey ++ leBytes 32 s.boot.patKey
  s.extendMeas 2 (sha256 fuse)

/-- An accepted base pattern is applied in full (R73), and step 5 begins. -/
def State.applyBase (s : State) (img : List Byte) : State :=
  (((s.baseStore img).baseConfig).baseMeasure img).assertRailEn

/-- An image is checked as a base pattern, and applied where it is accepted. -/
def State.tryBase (s : State) (img : List Byte) (src : Nat) : Nat × State :=
  let (code, idx) := s.checkImage img false
  let s := s.patResult code idx src false
  (code, if code = 0 then s.applyBase img else s)

/-- Boot step 4: flash images 0 and 1 in turn, each copied into the staging region (R71). -/
def patternLoadEff (s : State) : State :=
  if !s.atStep 4 || s.boot.patWait then s
  else
    let im := fun (s : State) k => KMap.get [] s.pat.flash k
    let s := { s with pat.staging := im s 2 }
    let (c0, s) := s.tryBase (im s 2) 1
    if c0 = 0 then s
    else
      let s := { s with pat.staging := im s 3 }
      let (c1, s) := s.tryBase (im s 3) 2
      let s := s.svcMsix 3
      if c1 = 0 then s else { s with boot.patWait := true }

/-- LOAD_PATTERN (R70): the staged image, during the wait of step 4. -/
def loadPatternEff (seq : BitVec 16) (s : State) : State :=
  s.mbxRun seq.toNat (s.atStep 4 && s.boot.patWait) fun s =>
    let (c, s) := s.tryBase s.pat.staging 3
    let s : State := if c = 0 then { s with boot.patWait := false } else s
    (s.svcMsix 3).mbxEnd seq.toNat c

/-! ### Alterations (R76-R81) -/

/-- The pieces of an alteration that wait for the epoch switch (R79). -/
def epochBound (type : Nat) : Bool := type == 0x40 || type == 0x70 || type == 0xB1

/-- A piece of step 2 of R79 takes effect. `prog`: the image carries a THIMBLE_PROGRAM, and its THIMBLE value
waits for it (R53). DEDUCED (assumption 69). -/
def State.applyPiece (prog : Bool) (s : State) (p : Piece) : State :=
  match p.type with
  | 0x80 =>
    let s := (s.putPiece p).applyDeadlines p.payload (!prog)
    let s : State := if prog && bit (le p.payload 0 2) 7 then { s with thm.pendDl := some (le p.payload (8 + 28) 4) } else s
    s.broadcastDeadlines 2
  | 0xE0 => { s with thm.pend := s.thm.pend ++ [p] }
  | 0xF0 => { s with thm.pend := s.thm.pend ++ [p] }
  | 0x50 =>
    let s := s.putPiece p
    ((List.range 4).filter fun t => p.unit == t || p.unit == 0xFFFF).foldl State.beginWays s
  | 0x120 => (List.range 92).foldl State.configBank (s.putPiece p)
  | _ => s.putPiece p

/-- An alteration is submitted: its outcome code, 0 where it has been accepted and is under way. -/
def State.submitAlter (s : State) (img : List Byte) (src : Nat) (door : Bool) (seq : Nat) : Nat × State :=
  let (code, idx) := s.checkImage img true
  let s := s.patResult code idx src true
  if code ≠ 0 then (code, s)
  else
    let ps := ((imgPieces img).getD []).map RawPiece.piece
    let late := ps.filter fun p => epochBound p.type
    let s := s.setF R.patStatus F.patStatus_BUSY 1
    let s : State := { s with
      pat.staging := img, pat.locked := true
      pat.alt := some { door := door, seq := seq, world := 0, sequence := le img 0x14 4, digest := leNat (imgDigest img)
                        epoch := late, stage := if late.isEmpty then 2 else 1 } }
    let s := (ps.filter fun p => !epochBound p.type).foldl (State.applyPiece (ps.any fun p => p.type == 0xE0)) s
    let s := if s.deadline 1 < 50000 then
        { s with thm.quiet := (List.range 4).filter fun t => s.saddleState t == 1 } else s
    (0, if late.isEmpty then s else { s with epoch.running := true, epoch.loaded := [] })

/-- ALTER (R77): the staged image. -/
def alterEff (seq : BitVec 16) (s : State) : State :=
  s.mbxRun seq.toNat s.service fun s =>
    let (c, t) := s.submitAlter s.pat.staging 3 false seq.toNat
    if c = 0 then t.mbxBegin seq.toNat else (t.svcMsix 3).mbxEnd seq.toNat c

/-- Every piece of the alteration is in effect. -/
def State.alterDone (s : State) (a : Alter) : Bool :=
  a.stage == 2 && s.thm.pend.isEmpty && s.thm.pendDl.isNone && !(s.clk.dlFor == 2 && !s.clk.dlWait.isEmpty) &&
    s.slices.all fun e => e.2.newWays.isNone

def execPatternLoad (s : State) : Host.Outcome State Fault Refusal :=
  .next (patternLoadEff s)
def execLoadPattern (seq : BitVec 16) (s : State) : Host.Outcome State Fault Refusal :=
  .next (loadPatternEff seq s)
def execAlter (seq : BitVec 16) (s : State) : Host.Outcome State Fault Refusal :=
  .next (alterEff seq s)

end Sys2Proof.Machine
end

