-- ==== Sys2Proof/Machine/Rails.lean ====
section
/-! DEFINITION. The panels' rails (R392-R397), DIM (R399, R400), QUIET (R402) and their Thimble requests.
What a POWER request makes of their ends stands in Power.lean. -/

namespace Sys2Proof.Machine

/-- A field of POWER_LIMITS in force, or its value when the piece is absent (R415). -/
def State.limit (s : State) (off n dflt : Nat) : Nat := s.cfg 0xF0 0xFFFF off n dflt

/-- The pocket that owns a panel; 0: the host world, or none. -/
def State.panelPocket (s : State) (p : Nat) : Nat :=
  let r := R.panelOwner (p / 3) (p % 3)
  if s.fld r F.panelOwner_ENABLE = 1 then s.fld r F.panelOwner_POCKET else 0

/-- A panel is owned by a SEALED pocket. -/
def State.panelSealed (s : State) (p : Nat) : Bool :=
  let q := s.panelPocket p
  q != 0 && (s.pocket q).st == .sealed

/-! ### Targets (R397) -/

/-- The bytes of the Thimble program in force, 0 when absent (R414). -/
def State.prog (s : State) (off n : Nat) : Nat := s.cfg 0xE0 0xFFFF off n 0

/-- The lowest cap that the rules asserted put on a panel; 0 for none. -/
def State.capOf (s : State) (p : Nat) : Nat :=
  ((List.range 64).filter fun i =>
    (KMap.get {} s.thm.rule i).on && s.prog (0x208 + 64 * i + 3) 1 == 3 && bit (s.prog (0x208 + 64 * i + 4) 4) p).foldl
    (fun a i =>
      let c := s.prog (0x208 + 64 * i + 8) 4
      if a = 0 then c else min a c) 0

/-- GOV (R397). -/
def State.govMv (s : State) : Nat := s.thm.gov.getD (s.limit 2 2 950)

/-- The voltage a panel that is ON would be given: VREQ under every cap and GOV, within the limits. -/
def State.onTarget (s : State) (p : Nat) : Nat :=
  if s.panelSealed p then KMap.get 1 s.thm.fix p - 1
  else
    let t := s.fld (R.vreq p) F.vreq_MV
    let c := s.capOf p
    let t := min (if c = 0 then t else min t c) s.govMv
    clampN (s.limit 0 2 600) (s.limit 2 2 950) t

/-- The voltage a panel's rail should have now, if one is to be written: that of R397, VRET_MV on the way to
DIM, and its target again on the way back or at power-on (R399, R401). -/
def State.wanted (s : State) (p : Nat) : Option Nat :=
  let d := s.dimOf p
  let on := s.onTarget p
  if s.panelSealed p then some on
  else if s.fld (R.vstate p) F.vstate_VREG_FAULT = 1 then none
  else if d.stage = 2 ∨ d.stage = 3 then some (if d.woken then on else s.limit 6 2 550)
  else if d.stage = 4 then some on
  else if KMap.get 0 s.thm.up p ≠ 0 then some on
  else if s.panelState p = 0 then some on
  else none

/-- TARGET and CAP of a panel (R397). -/
def State.showTarget (s : State) (p mv : Nat) : State :=
  let r := R.vstate p
  let cap := if s.fld r F.vstate_VREG_FAULT = 1 then KMap.get 1 s.thm.hold p - 1 else s.capOf p
  (s.setF r F.vstate_TARGET mv).setF r F.vstate_CAP cap

/-- The Vout write of a panel's rail is sent, unless one is outstanding or the rail has that value (R395). -/
def State.pushVout (s : State) (p : Nat) : State :=
  match s.wanted p with
  | none => s
  | some mv =>
    let s := s.showTarget p mv
    if KMap.get 0 s.thm.out p ≠ 0 ∨ KMap.get 0 s.thm.last p = mv + 1 then s
    else
      let s : State := { s with thm.out := KMap.set 0 p (mv + 1) s.thm.out
                                thm.last := KMap.set 0 p (mv + 1) s.thm.last
                                thm.outT := KMap.set none p (some (s.timer 19 8)) s.thm.outT }
      s.setF (R.vstate p) F.vstate_PENDING 1

/-- No Vout write of the rail is outstanding. -/
def State.voutClosed (s : State) (p : Nat) : State :=
  let s : State := { s with thm.out := KMap.erase p s.thm.out, thm.outT := KMap.erase p s.thm.outT }
  s.setF (R.vstate p) F.vstate_PENDING 0

/-- A panel's rail is off (R398). -/
def State.railOff (s : State) (p : Nat) : State :=
  let s := s.voutClosed p
  let s : State := { s with thm.last := KMap.erase p s.thm.last, thm.dim := KMap.erase p s.thm.dim
                            thm.up := KMap.erase p s.thm.up }
  ((s.setF (R.vstate p) F.vstate_IN_FORCE 0).setPanelState p 2).paceStop p

/-- VREG is reached on a panel's rail (R54, R396). -/
def State.vregExpired (s : State) (p : Nat) : State :=
  match KMap.get none s.thm.outT p with
  | none => s
  | some t =>
    let s := s.advance t.due
    let s := s.voutClosed p
    let hold := s.fld (R.vstate p) F.vstate_IN_FORCE
    let s : State := { s with thm.hold := KMap.set 0 p (hold + 1) s.thm.hold, thm.last := KMap.set 0 p (hold + 1) s.thm.last }
    let s := (s.setF (R.vstate p) F.vstate_VREG_FAULT 1).setF (R.vstate p) F.vstate_CAP hold
    s.err 19 1 3 (unitCode 0x13 p) 0 0 (dlMisc 8 0 0 0 (s.tape - t.due))

/-- VREG_FAULT and HOLD clear, and the current target is sent (R396). DEDUCED (assumption 82). -/
def State.clearVreg (s : State) (p : Nat) : State :=
  if s.fld (R.vstate p) F.vstate_VREG_FAULT = 0 then s
  else
    let s := s.setF (R.vstate p) F.vstate_VREG_FAULT 0
    ({ s with thm.hold := KMap.erase p s.thm.hold } : State).pushVout p

/-! ### DIM (R399, R400) -/

/-- The L2 lines of a panel in M, E and F leave, as far as the leaving table has room; the L1s are cleaned
first. -/
def State.dimFlush (s : State) (p : Nat) : State :=
  (panelHarts p).foldl (fun s h =>
    (((s.hart h).l2.map (·.2)).filter fun c => c.st != .S && c.st != .I).foldl (fun s c =>
      match (s.updHart h fun x => x.syncL2 c.line).evictL2 h c.line with
      | some t => t
      | none => s) s) s

/-- Entry to DIM begins. -/
def State.dimStart (s : State) (p : Nat) (byReq : Bool) : State :=
  let s : State := { s with thm.dim := KMap.set {} p { stage := 1, byReq := byReq } s.thm.dim }
  s.dimFlush p

/-- A hart of a panel is enabled. -/
def State.hartOn (s : State) (h : Nat) : Bool :=
  s.fld (R.hartEn (h / 32)) F.hartEn_PANEL_EN == 1 && bit (s.fld (R.hartEn (h / 32)) F.hartEn_CORE_EN) (h % 32)

/-- DIM_ENTRY (R399): every enabled hart has been parked for DIM_US. -/
def State.dimEnter (s : State) (p : Nat) : State :=
  let us := s.limit 0x12 2 1000
  let hs := (panelHarts p).filter s.hartOn
  let idle := hs.all fun h => (s.hart h).mode == .park || (s.hart h).mode == .sleep
  if us = 0 ∨ hs.isEmpty ∨ !idle ∨ s.panelState p ≠ 0 ∨ (s.dimOf p).stage ≠ 0 ∨ s.panelSealed p ∨
      s.fld (R.vstate p) F.vstate_VREG_FAULT = 1 then s
  else
    let s := s.advance (hs.foldl (fun a h => max a ((s.hart h).idleAt + 1000 * us)) 0)
    s.dimStart p false

/-- No M, E or F copy and no leaving entry is left in a panel. -/
def State.dimEmpty (s : State) (p : Nat) : Bool :=
  ((panelHarts p).all fun h => (s.hart h).l2.all fun e => e.2.st == .S || e.2.st == .I) &&
    (s.port (2 * p)).leaving.isEmpty && (s.port (2 * p + 1)).leaving.isEmpty

/-- Step 3 of R399: the brown-out monitor is disarmed and VRET_MV is requested. -/
def State.dimLow (s : State) (p : Nat) : State :=
  let d := s.dimOf p
  if d.stage ≠ 1 then s
  else
    let s := s.dimFlush p
    if !s.dimEmpty p then s
    else
      let s : State := { s with thm.dim := KMap.set {} p { d with stage := 2 } s.thm.dim }
      s.pushVout p

/-- A wake cause of a panel on its way to DIM, or in it. -/
def State.dimCause (s : State) (p : Nat) : State :=
  let d := s.dimOf p
  let put := fun (s : State) (d : DimSt) => ({ s with thm.dim := KMap.set {} p d s.thm.dim } : State)
  match d.stage with
  | 1 => (panelHarts p).foldl State.wakeHart { s with thm.dim := KMap.erase p s.thm.dim }
  | 2 => put s { d with woken := true, byReq := false }
  | 3 => (put s { d with stage := 4, byReq := false }).pushVout p
  | _ => s

/-- DIM_WAKE: an interrupt is pending and enabled for a hart of the panel. A POWER request's DIM ends by a
POWER request only (R400). -/
def State.dimIrq (s : State) (p : Nat) : State :=
  if (s.dimOf p).byReq || !(panelHarts p).any (fun h => s.hartOn h && (s.hart h).w.intReady) then s
  else s.dimCause p

/-- The rail has passed 0.600 V: the INV_PENDING lines are invalidated and the harts resume.
DEDUCED (assumption 80). -/
def State.dimEnd (s : State) (p : Nat) : State :=
  let d := s.dimOf p
  if d.stage ≠ 4 then s
  else
    let s := d.inv.foldl (fun s e => s.updHart (hartNum p e.1) fun x => (x.dropL1 e.2).dropL2 e.2) s
    let s := { s with thm.dim := KMap.erase p s.thm.dim }.setPanelState p 0
    (panelHarts p).foldl State.wakeHart s

/-- The regulator acknowledges (R395, R399): the value is in force, and a newer target is sent.
DEDUCED (assumption 80). -/
def State.voutAcked (s : State) (p : Nat) : State :=
  let out := KMap.get 0 s.thm.out p
  if out = 0 then s
  else
    let s := (s.voutClosed p).setF (R.vstate p) F.vstate_IN_FORCE (out - 1)
    let d := s.dimOf p
    let s : State :=
      if d.stage = 2 ∧ (out = s.limit 6 2 550 + 1 ∨ d.woken) then
        let s := if d.woken then s else s.setPanelState p 1
        { s with thm.dim := KMap.set {} p { d with stage := if d.woken then 4 else 3 } s.thm.dim }
      else s
    let s : State :=
      if KMap.get 0 s.thm.up p = 1 then
        let s := s.updFence (FenceUnit.panel (Fin.ofNat 12 p)).num fun x => { x with t := some (s.timer (saddleOf p + 12) 9) }
        { s with thm.up := KMap.set 0 p 2 s.thm.up }
      else s
    s.pushVout p

/-! ### QUIET (R402) -/

/-- Controllers of a saddle. -/
def sdCtlrs (sd : Nat) : List Ctlr := allCtlrs.filter fun c => c.saddle == sd

/-- A saddle enters QUIET: its LLC is retained and its memory goes into self-refresh. -/
def State.quietEnter (s : State) (sd : Nat) : State :=
  ((sdCtlrs sd).foldl State.selfRefresh s).setSaddleState sd 1

/-- A QUIET saddle begins its return to ON. -/
def State.quietWake (s : State) (sd : Nat) : State :=
  if s.saddleState sd = 1 ∧ ¬ s.thm.quiet.contains sd then { s with thm.quiet := sd :: s.thm.quiet } else s

/-- The saddle is ON again: its controllers whose fences are OPEN leave self-refresh, and the requests that
waited go on. -/
def State.quietEnd (s : State) (sd : Nat) : State :=
  if s.saddleState sd = 1 ∧ s.thm.quiet.contains sd then
    let s := { s with thm.quiet := s.thm.quiet.filter (· != sd) }.setSaddleState sd 0
    let s := ((sdCtlrs sd).filter fun c => s.fenceState (.mc c) == 2).foldl State.leaveSelfRefresh s
    (List.range 24).foldl (fun s k => s.homeLoop (24 * sd + k) ((s.slice (24 * sd + k)).heldq.length)) s
  else s

end Sys2Proof.Machine
end

