-- ==== Sys2Proof/Machine/Thimble.lean ====
section
/-! DEFINITION. The Thimble (R406-R415): sampling, filters, rules, the governor and the actions of a loop, its
deadline, the WAKE pins and the thermal trip. -/

namespace Sys2Proof.Machine

/-- A 32-bit pattern as a signed number. -/
def s32 (v : Nat) : Int := (BitVec.ofNat 32 v).toInt

/-- A signed number as the 32-bit pattern that a register shows. -/
def u32 (x : Int) : Nat := (BitVec.ofInt 32 x).toNat

/-! ### Channels and filters (R407, R409) -/

/-- A channel is enabled; without a program, channels 0-16 and 54 are (R414). -/
def State.chanOn (s : State) (c : Nat) : Bool :=
  match s.piece 0xE0 0xFFFF with
  | some l => bit (le l (8 + 8 * c) 1) 0
  | none => decide (c ≤ 16) || c == 54

def State.chanDiv (s : State) (c : Nat) : Nat := max 1 (s.cfg 0xE0 0xFFFF (9 + 8 * c) 1 1)

/-- Stage byte of a channel: a median of 3 in stage 0 without a program. -/
def State.chanStage (s : State) (c i : Nat) : Nat := s.cfg 0xE0 0xFFFF (10 + 8 * c + i) 1 (if i = 0 then 0x10 else 0)

/-- Insertion into an ascending list. -/
def insInt (x : Int) : List Int → List Int
  | [] => [x]
  | y :: l => if x ≤ y then x :: y :: l else y :: insInt x l

/-- The median of an odd number of values. -/
def median (l : List Int) : Int := (l.foldr insInt []).getD (l.length / 2) 0

/-- The last `n` inputs, newest first: the first input stands for those before it. -/
def lastN (n : Nat) (x : Int) (h : List Int) : List Int :=
  let l := (x :: h).take n
  l ++ List.replicate (n - l.length) (l.getLastD x)

/-- A filter stage (R409): its byte, what it keeps, its input; its output and what it keeps then.
DESIGN CHOICE (assumption 83). -/
def filterStage (b : Nat) (h : List Int) (x : Int) : Int × List Int :=
  match b / 16 with
  | 0 => (x, h)
  | 1 => let l := lastN 3 x h; (median l, l)
  | 2 => let l := lastN 5 x h; (median l, l)
  | 3 => let q := clampN 1 6 (b % 16); let l := lastN (2 ^ q) x h; ((l.foldl (· + ·) 0) >>> q, l)
  | _ =>
    let q := clampN 1 12 (b % 16)
    match h with
    | [] => (x, [x])
    | y :: _ => let z := y + ((x - y) >>> q); (z, [z])

/-- A channel takes a sample through its stages. -/
def State.runChan (s : State) (c : Nat) (x : Int) : State :=
  let k := KMap.get ({} : ThmChan) s.thm.chan c
  let r := (List.range 3).foldl (fun (a : Int × List (List Int)) i =>
    let (o, h) := filterStage (s.chanStage c i) (k.hist.getD i []) a.1
    (o, a.2 ++ [h])) (x, [])
  { s with thm.chan := KMap.set {} c { raw := x, out := r.1, tape := s.tape, hist := r.2 } s.thm.chan }

/-- The filtered value of a channel. -/
def State.chanOut (s : State) (c : Nat) : Int := (KMap.get ({} : ThmChan) s.thm.chan c).out

/-- What channel `c` reads (R407). Temperatures of junctions, powers, link signals and VFAB come from the
sensors, `x`; the other channels from the state. -/
def State.chanIn (s : State) (x : Samples) (c : Nat) : Int :=
  let v := fun i => s32 (u32 (x.vals.getD i 0))
  if 17 ≤ c ∧ c ≤ 36 then
    match allCtlrs[c - 17]? with
    | some m => (16 * s.fld (R.mcTherm m) F.mcTherm_TEMP : Nat)
    | none => 0
  else if c = 54 then ((List.range 17).map fun i => v (37 + i)).foldl (· + ·) (16 * s.limit 0x0E 2 310 : Nat)
  else if c = 56 then
    s32 (ofBits ((List.range 32).filter fun i => ((KMap.get {} (KMap.get {} s.io.ports (i / 4)).subs (i % 4) : SubSt)).up))
  else if c = 57 then (s.fld R.svcStatus F.svcStatus_LINK_UP : Nat)
  else if c = 58 then (s.fld R.tapeStatus F.tapeStatus_HOLDOVER : Nat)
  else if c = 59 then
    (ofBits ((List.range 20).filter fun i => match allCtlrs[i]? with
      | some m => s.fld (R.mcTherm m) F.mcTherm_ALARM == 1
      | none => false) : Nat)
  else if c = 60 then ((s.thm.levels % 256 ||| s.thm.levels / 256) : Nat)
  else if c = 61 then (s.thm.edges : Nat)
  else if c = 63 then 0
  else v c

/-- Steps 1 and 2 of a loop: due channels are sampled and filtered; the WAKE latches clear when sampled.
DESIGN CHOICE (assumption 4). -/
def State.sampleAll (s : State) (x : Samples) : State :=
  (List.range 64).foldl (fun s c =>
    if s.chanOn c && s.thm.loop % s.chanDiv c == 0 then
      let s := s.runChan c (s.chanIn x c)
      if c = 60 then { s with thm.levels := s.thm.levels % 256 }
      else if c = 61 then { s with thm.edges := 0 }
      else s
    else s) s

/-! ### Rules (R410, R411) -/

/-- A rule term (R410): true or false now, given what it was. DESIGN CHOICE (assumption 83). -/
def termEval (sense : Nat) (hi lo x : Int) (was : Bool) : Bool :=
  let lo := min lo hi
  match sense with
  | 0 => if hi ≤ x then true else if x ≤ lo then false else was
  | 1 => if x ≤ lo then true else if hi ≤ x then false else was
  | _ => u32 x &&& u32 hi != 0

/-- Byte `o` of rule `i`, as `n` bytes. -/
def State.ruleB (s : State) (i o n : Nat) : Nat := s.prog (0x208 + 64 * i + o) n

def State.ruleTerms (s : State) (i : Nat) : Nat := clampN 1 4 (s.ruleB i 1 1)

/-- Step 3 for one rule: it is asserted from the loop in which its combination has held DUR times. -/
def State.evalRule (s : State) (i : Nat) : State :=
  if !bit (s.ruleB i 0 1) 0 then { s with thm.rule := KMap.erase i s.thm.rule }
  else
    let r := KMap.get ({} : ThmRule) s.thm.rule i
    let n := s.ruleTerms i
    let ts := (List.range n).map fun j =>
      let o := 0x10 + 12 * j
      let ch := s.ruleB i o 1 % 64
      s.chanOn ch && termEval (s.ruleB i (o + 1) 1) (s32 (s.ruleB i (o + 4) 4)) (s32 (s.ruleB i (o + 8) 4)) (s.chanOut ch)
        (r.terms.getD j false)
    let c := if bit (s.ruleB i 0 1) 1 then ts.any (fun b => b) else ts.all (fun b => b)
    let n := if c then r.count + 1 else 0
    { s with thm.rule := KMap.set {} i { terms := ts, count := n, on := c && decide (max 1 (s.ruleB i 2 1) ≤ n) } s.thm.rule }

/-- Step 4: the governor (R397). -/
def State.governor (s : State) : State :=
  let p := s.chanOut 54
  let lim := s.limit 0x0A 2 1600
  let g := s.govMv
  let g := if (16 * lim : Nat) < p then max (s.limit 0 2 600) (g - s.limit 0x0C 1 10)
    else if p < (16 * (lim - s.limit 0x0D 1 40) : Nat) then min (s.limit 2 2 950) (g + s.limit 0x0C 1 10)
    else g
  { s with thm.gov := some g }

/-! ### Actions (R411, R413) -/

/-- A trip (R413): every panel and saddle parks, and THERMTRIP_N and ERR_FATAL_N are asserted. -/
def State.trip (s : State) (chan : Nat) : State :=
  if s.fld R.thmStatus F.thmStatus_TRIPPED = 1 then s
  else
    let s : State := { s with pins.thermTrip := true, thm.parkAll := true }
    let s := s.setF R.thmStatus F.thmStatus_TRIPPED 1
    (s.err 16 3 5 (bankUnit 16) 0 0 (protoMisc 0x0A chan)).note .trip

/-- A WAKE action (R411): it acts on a DIM panel, a QUIET saddle or a DORMANT package. -/
def State.wakeAction (s : State) (kind idx : Nat) : State :=
  match kind with
  | 0 => if idx < 12 ∧ ¬ (s.dimOf idx).byReq then s.dimCause idx else s
  | 1 => if idx < 4 then s.quietWake idx else s
  | _ => if s.fld R.domainState F.domainState_PKG = 2 then (s.setPkg 0).updPkg.assertRailEn else s

/-- A LOG action writes its entry, or is counted in LOST. DESIGN CHOICE (assumption 83). -/
def State.logAction (s : State) (i : Nat) : State :=
  let h := s.fld R.thmLogPtr F.thmLogPtr_HEAD
  let t := s.fld R.thmLogPtr F.thmLogPtr_TAIL
  if (t + 64 - h) % 64 = 63 then s.incF R.thmLogPtr F.thmLogPtr_LOST
  else
    let v := fun j => if j < s.ruleTerms i then u32 (s.chanOut (s.ruleB i (0x10 + 12 * j) 1 % 64)) else 0
    let s := s.wr (R.thmLog0 t) (BitVec.ofNat 64 s.tape)
    let s := s.wr (R.thmLog1 t) (BitVec.ofNat 64 (5 * 256 + i))
    let s := s.wr (R.thmLog2 t) (BitVec.ofNat 64 (v 1 * 2 ^ 32 + v 0))
    let s := s.wr (R.thmLog3 t) (BitVec.ofNat 64 (v 3 * 2 ^ 32 + v 2))
    s.setF R.thmLogPtr F.thmLogPtr_TAIL ((t + 1) % 64)

/-- ALARM bits set: APLIC source 30 is pending while any is. -/
def State.alarmAction (s : State) (n : Nat) : State :=
  if s.fbit R.thmAlarm F.thmAlarm_BITS n then s
  else ((s.setFbit R.thmAlarm F.thmAlarm_BITS n true).setSource 30 true).svcMsix 2

/-- A SCRUB action: a pass over every line the controller backs, unless one runs. -/
def State.scrubAction (s : State) (n arg : Nat) : State :=
  match allCtlrs[n]? with
  | none => s
  | some c =>
    if s.fld (R.mcScrubCtl c) F.mcScrubCtl_STATUS = 1 then s
    else
      let s := (s.setF (R.mcScrubBase c) F.mcScrubBase_LINE 0).setF (R.mcScrubLimit c) F.mcScrubLimit_LINE (2 ^ 42 - 1)
      s.startScrub c (arg / 2 ^ 16 % 2048) false (bit arg 0)

/-- The action of a rule that this loop has asserted. -/
def State.ruleAction (s : State) (i : Nat) : State :=
  let a0 := s.ruleB i 4 4
  let a1 := s.ruleB i 8 4
  match s.ruleB i 3 1 with
  | 1 => s.wakeAction (a0 % 256) (a0 / 256 % 256)
  | 2 => ((bitsOf 12 a0).filter fun p => !s.panelSealed p).foldl (fun s p =>
      s.setF (R.vreq p) F.vreq_MV (clampN (s.limit 0 2 600) (s.limit 2 2 950) a1)) s
  | 4 => s.alarmAction (min 31 a0)
  | 5 => s.logAction i
  | 6 => s.scrubAction a0 a1
  | 7 => s.trip (s.ruleB i 0x10 1 % 64)
  | _ => s

/-! ### A loop (R406, R412, R414, R415) -/

/-- A class's value at the Thimble's own copy. -/
def State.thmDeadline (s : State) (v : Nat) : State :=
  let s := s.setDeadline 7 v
  let d := s.deadline 7
  { s with clk.dlCopy := KMap.set none (16 * 19 + 7) (if d = (R.deadline 7).reset.toNat then none else some d) s.clk.dlCopy }

/-- VFAB_MV takes effect while no pocket is SEALED (R393). -/
def State.setVfab (s : State) : State :=
  if s.fld R.kprMode F.kprMode_SEALED = 0 then { s with thm.vfab := s.limit 0x14 2 750 } else s

/-- The pieces that waited for a loop start take effect: a new program restarts every stage and rule, and the
THIMBLE deadline takes its value or is clamped to the new period. -/
def State.loadPend (s : State) : State :=
  let prog := s.thm.pend.any fun p => p.type == 0xE0
  let dl := s.thm.pendDl
  let s := s.thm.pend.foldl State.putPiece s
  let s : State := { s with thm.pend := [], thm.pendDl := none }
  let s : State := if prog then { s with thm.chan := [], thm.rule := [], thm.loop := 0 } else s
  let s := match dl with
    | some v => s.thmDeadline v
    | none => if prog then s.thmDeadline (s.deadline 7) else s
  s.setVfab

/-- A loop starts: at the next period boundary, or as the one before it has finished. -/
def State.loopStart (s : State) : State :=
  let s := if s.thm.pend.isEmpty && s.thm.pendDl.isNone then s else s.loadPend
  let p := s.periodNs
  let b := if s.thm.start = 0 then s.tape else s.thm.start + p
  let s := (s.advance b).setF R.thmStatus F.thmStatus_RUNNING 1
  { s with thm.start := b + (s.tape - b) / p * p }

/-- The first `n` rules are evaluated. -/
def State.evalRules (s : State) (n : Nat) : State := (List.range n).foldl State.evalRule s

/-- The rules among the first `n` that this loop has asserted act, in order; `was` are those asserted before. -/
def State.actRules (s : State) (was : Nat → Bool) (n : Nat) : State :=
  (List.range n).foldl (fun s i => if (KMap.get ({} : ThmRule) s.thm.rule i).on && !was i then s.ruleAction i else s) s

/-- Rules asserted before this loop. -/
def State.ruleOn (s : State) (i : Nat) : Bool := (KMap.get ({} : ThmRule) s.thm.rule i).on

/-- THIMBLE_LOOP: one whole loop. DESIGN CHOICE (assumption 83). -/
def State.thimbleRun (s : State) (x : Samples) : State :=
  let s := s.loopStart
  let was := s.ruleOn
  let s := ((s.sampleAll x).evalRules 64).governor
  let s := s.actRules was 64
  let s := (List.range 12).foldl State.pushVout s
  let s := s.setF R.thmStatus F.thmStatus_LOOPS ((s.fld R.thmStatus F.thmStatus_LOOPS + 1) % 2 ^ 32)
  { s with thm.loop := s.thm.loop + 1 }

/-- THIMBLE is reached (R54, R412): the loop is abandoned at a rule it was evaluating, or whose action came
next. -/
def State.thimbleLate (s : State) (x : Samples) (rule : Nat) (acting : Bool) : State :=
  let s := s.loopStart
  let t := s.timer 19 7
  let was := s.ruleOn
  let s := s.sampleAll x
  let s := if acting then (s.evalRules 64).governor.actRules was rule else s.evalRules rule
  let s := s.advance t.due
  let s := s.incF R.thmStatus F.thmStatus_LATE
  let s : State := { s with thm.loop := s.thm.loop + 1, pins.alert := true }
  let s := s.setF R.thmStatus F.thmStatus_ALERT 1
  s.err 19 1 3 (bankUnit 19) 0 0 (dlMisc 7 0 0 0 (s.tape - t.due))

def thimbleExpiryEff (x : Samples) (rule : Fin 65) (acting : Bool) (s : State) : State := s.thimbleLate x rule.val acting

def thimbleLoopEff (x : Samples) (s : State) : State := s.thimbleRun x

/-- WAKE_PIN_EDGE (R408): a used pin becomes active or inactive, after its polarity. An edge pin latches its
edges, a level pin its active level. -/
def wakePinEdgeEff (k : Fin 8) (active : Bool) (s : State) : State :=
  if !bit (s.prog 4 1) k.val then s
  else if bit (s.prog 3 1) k.val then
    if active then { s with thm.edges := setBit s.thm.edges k.val true } else s
  else
    let l := setBit s.thm.levels k.val active
    { s with thm.levels := if active then setBit l (8 + k.val) true else l }

/-- TRIP_COMPARATOR (R413): two consecutive readings at or above TRIP_C on one sensor are a trip.
DESIGN CHOICE (assumption 84). -/
def tripComparatorEff (temps : Samples) (s : State) : State :=
  let hot := (List.range 17).filter fun c => decide ((16 * s.limit 9 1 110 : Nat) ≤ temps.vals.getD c 0)
  let s' : State := { s with thm.hot := hot }
  match hot.find? s.thm.hot.contains with
  | some c => s'.trip c
  | none => s'

def execThimbleExpiry (x : Samples) (rule : Fin 65) (acting : Bool) (s : State) : Host.Outcome State Fault Refusal :=
  .next (thimbleExpiryEff x rule acting s)
def execThimbleLoop (x : Samples) (s : State) : Host.Outcome State Fault Refusal :=
  .next (thimbleLoopEff x s)
def execWakePinEdge (k : Fin 8) (active : Bool) (s : State) : Host.Outcome State Fault Refusal :=
  .next (wakePinEdgeEff k active s)
def execTripComparator (temps : Samples) (s : State) : Host.Outcome State Fault Refusal :=
  .next (tripComparatorEff temps s)

end Sys2Proof.Machine
end

