-- ==== Sys2Proof/Machine/Reset.lean ====
section
/-! DEFINITION. Per-panel reset (R115, R116, R25, R74), and the release of a panel's harts in the world that
owns it (R354). -/

namespace Sys2Proof.Machine

/-- The stepping of a panel is B0 (R32). -/
def State.panelB0 (s : State) (p : Nat) : Bool := s.fld (R.pnlDieId p) F.pnlDieId_STEPPING == 1

/-- A hart takes its reset state (R115), held in reset; its residency goes on (R405). -/
def State.resetHart (s : State) (h : Nat) : State :=
  let w : World := { pc := s.rd (R.resetVec (h / 32)), frozen := s.frozenAt (h / 32) }
  let w := if s.panelB0 (h / 32) then w.setCsr csr_mkhold 0x0080000000000000 else w
  let halt := s.dbg.resetHalt.contains h
  let s : State := { s with dbg.haveReset := if s.dbg.haveReset.contains h then s.dbg.haveReset else h :: s.dbg.haveReset }
  s.updHart h fun x => { mode := .held, w := w, haltReq := halt, resid := x.resid, since := x.since, idleAt := x.idleAt }

/-- Registers whose place lies in a block return to their reset values, but for those `keep` names.
DEDUCED (assumption 72). -/
def State.eraseRegs (s : State) (lo size : Nat) (keep : List Reg) : State :=
  { s with regs := s.regs.filter fun e => decide (e.1 < lo) || decide (lo + size ≤ e.1) || keep.any fun r => r.addr == e.1 }

/-- The state of a panel's die returns to its reset values (R115, R429). DEDUCED (assumption 72). -/
def State.scrubPanel (s : State) (p : Nat) : State :=
  let s := (panelHarts p).foldl State.resetHart s
  let s : State := { s with ports := KMap.erase (2 * p) (KMap.erase (2 * p + 1) s.ports)
                            thm.dim := KMap.erase p s.thm.dim
                            errSeq := KMap.erase p s.errSeq
                            clk.parks := KMap.erase p s.clk.parks }
  let s := s.eraseRegs (0x80000000 + p * 0x4000000) 0x4000000 [R.pnlDieId p, R.hartEn p, R.resetVec p]
  (s.paceStop p).refreshBank p

/-- The pieces in force for a panel are reapplied (R74). -/
def State.reapplyPanel (s : State) (p : Nat) : State :=
  let s := (s.configPanel p).configBank p
  (List.range 11).foldl (fun s k =>
    let d := s.deadline k
    { s with clk.dlCopy := KMap.set none (16 * p + k) (if d = (R.deadline k).reset.toNat then none else some d) s.clk.dlCopy }) s

/-- An enabled hart starts at its panel's RESET_VEC in the host world (R116). -/
def State.startHost (s : State) (h : Nat) : State :=
  s.updHart h fun x => { x with mode := .run, wait := .none, w := { x.w with pc := s.rd (R.resetVec (h / 32)) } }

/-- The Keeper releases a panel's enabled harts in the world that owns the panel (R116, R354). -/
def State.releaseHarts (s : State) (p : Nat) : State :=
  let q := s.panelPocket p
  ((panelHarts p).filter s.hartOn).foldl (fun s h =>
    if q = 0 then s.startHost h
    else if h % 32 < (s.pocket q).slots then s.enterPocket h q (h % 32) false
    else s) s

/-- A panel whose pads decode to another identity after boot is excluded (R25, R29). -/
def State.excludePanel (s : State) (p : Nat) : State :=
  let s : State := { s with id.excluded := if s.id.excluded.contains p then s.id.excluded else p :: s.id.excluded
                            id.dieHeld := panelPos p :: s.id.dieHeld }
  let s := s.setFbit R.pkgId F.pkgId_PANEL_OK p false
  let s := s.setF (R.hartEn p) F.hartEn_PANEL_EN 0
  let s := s.setF (R.pnlDieId p) F.pnlDieId_ORIENT_OK 0
  s.err (12 + p / 3) 1 5 (unitCode 0x09 p) 0 0 (protoMisc 1 3)

/-- The panel is reset: its harts held, its pads sampled again. Where they decode to the recorded identity the
Keeper reapplies its pieces, unless an alteration is in progress, and commands its fence to open. -/
def State.resetPanel (s : State) (p : Nat) (identityOk : Bool) : State :=
  let u : FenceUnit := .panel (Fin.ofNat 12 p)
  let s := s.scrubPanel p
  let s := s.updFence u.num fun x => { x with wasReset := true }
  let s := if s.panelState p = 1 then s.setPanelState p 0 else s
  if !identityOk then
    let s := s.excludePanel p
    let s := s.setF (R.fenceStatus u) F.fenceStatus_FAULTED 1
    { s with id.dieReset := s.id.dieReset.filter (· != panelPos p), thm.up := KMap.erase p s.thm.up }
  else if s.pat.alt.isSome then
    { s with pat.heldResets := s.pat.heldResets ++ [panelPos p] }
  else (s.reapplyPanel p).keeperFence u true

/-- A panel held in reset until an alteration ended receives its pieces (R74). -/
def State.endHeldReset (s : State) (pos : Nat) : State :=
  match panelAt pos with
  | none => s
  | some p => (s.reapplyPanel p).keeperFence (.panel (Fin.ofNat 12 p)) true

end Sys2Proof.Machine
end

