-- ==== Sys2Proof/Machine/Hand.lean ====
section
/-! DEFINITION. Assignable blocks and their hand-over (R350-R355): owners, the steps of R352, their drains,
resets and scrubs, and what ends FAULTED (R353). The conditions of sealed mode (R342). -/

namespace Sys2Proof.Machine

/-! ### Blocks (R350) -/

/-- The BLOCK argument that names a block. -/
def blockCode : Block → Nat
  | .panel p => p.val
  | .func port rid => 2 ^ 28 + port.val * 2 ^ 16 + rid.toNat
  | .chan n c => 2 * 2 ^ 28 + 8 * n.val + c.val
  | .cq q => 3 * 2 ^ 28 + q.val
  | .rq r => 4 * 2 ^ 28 + r.val
  | .file h g => 5 * 2 ^ 28 + 8 * h.num + g.val

/-- The owner register of a block; a PCIe function's owner stands in its port's function table. -/
def blockReg : Block → Option Reg
  | .panel p => some (R.panelOwner (p.val / 3) (p.val % 3))
  | .func .. => none
  | .chan n c => some (R.chOwner n.val c.val)
  | .cq q => some (R.cqOwner q.val)
  | .rq r => some (R.rqOwner r.val)
  | .file h g => some (R.imsicOwner (8 * h.num + g.val))

/-- ENABLE and POCKET of a block. A function without an entry is the host world's. -/
def State.blockOwner (s : State) (b : Block) : Bool × Nat :=
  match b with
  | .func p rid => (s.funcOwner p.val rid.toNat).getD (true, 0)
  | b => match blockReg b with
    | some r => (s.fld r F.panelOwner_ENABLE == 1, s.fld r F.panelOwner_POCKET)
    | none => (false, 0)

/-- The Keeper sets a block's owner register. -/
def State.setOwner (s : State) (b : Block) (en : Bool) (q : Nat) : State :=
  match b with
  | .func p rid =>
    let v := 2 * q + (if en then 1 else 0) + 1
    { s with io.func := KMap.set 0 (65536 * p.val + rid.toNat) v s.io.func }
  | b => match blockReg b with
    | some r => (s.setF r F.panelOwner_POCKET q).setF r F.panelOwner_ENABLE (if en then 1 else 0)
    | none => s

/-- A block that a hand-over may name: an enabled panel, a guest file of a present hart, or a channel, queue
or function. -/
def State.blockThere (s : State) (b : Block) : Bool :=
  match b with
  | .panel p => s.fld (R.hartEn p.val) F.hartEn_PANEL_EN == 1
  | .file h g => s.hartOn h.num && g.val != 0
  | _ => true

/-- Every block with an entry of its own that a pocket owns. -/
def State.blocksOf (s : State) (q : Nat) : List Block :=
  let all := (List.finRange 12).map Block.panel ++
    (s.io.func.map fun e => Block.func (Fin.ofNat 8 (e.1 / 65536)) (BitVec.ofNat 16 e.1)) ++
    ((List.finRange 64).flatMap fun n => (List.finRange 8).map (Block.chan n)) ++
    (List.finRange 1024).map Block.cq ++ (List.finRange 1024).map Block.rq ++
    ((List.finRange 12).flatMap fun p => (List.finRange 20).flatMap fun c =>
      ((List.finRange 8).filter (·.val != 0)).map (Block.file ⟨p, c⟩))
  all.filter fun b => (s.blockOwner b).2 == q && ((s.blockOwner b).1 || s.pock.hand.any fun h => h.block == b)

/-! ### Notices (R350, R352) -/

def State.findHand (s : State) (b : Block) : Option HandOver := s.pock.hand.find? fun h => h.block == b

def State.updHand (s : State) (b : Block) (f : HandOver → HandOver) : State :=
  { s with pock.hand := s.pock.hand.map fun h => if h.block == b then f h else h }

/-- A notice or reply about a block. -/
def State.blockPost (s : State) (w code status peer seq : Nat) (b : Block) : State :=
  s.doorPost { world := w, code := code, status := status, seq := seq, peer := peer, args := leBytes 4 (blockCode b) }

/-- A hand-over ends: the owner's RELEASE is answered, RELEASED goes to the old owner, ASSIGNED to the new one
unless the block is FAULTED, and an ASSIGN is answered. A POWER or DESTROY request is answered once its last
hand-over has ended. -/
def State.handEnd (s : State) (h : HandOver) : State :=
  let st := if h.faulted then 7 else 0
  let left := { h with step := 7 }
  let s := if h.power || h.destroy then s.updHand h.block fun _ => left
    else { s with pock.hand := s.pock.hand.filter fun x => x.block != h.block }
  let s := match h.rel with | some n => s.blockPost h.src 0x08 st h.dst n h.block | none => s
  let s := s.blockPost h.src 0x82 (if h.faulted then 7 else if h.rel.isNone && h.src != 0 then 6 else 0) h.dst h.seq h.block
  let s := if h.faulted then s else s.blockPost h.dst 0x81 0 h.src h.seq h.block
  if h.power || h.destroy || h.rel.isSome then s else s.blockPost h.world 0x06 st h.dst h.seq h.block

/-! ### Steps (R352) -/

/-- Step 2 of a block is done. -/
def State.blockDrained (s : State) (b : Block) : Bool :=
  match b with
  | .panel p => s.fenceState (.panel p) == 0
  | .func port rid =>
    (s.io.reqs.all fun r => r.agent != .device port rid) &&
      let x := s.pcie port.val
      ((x.nonposted ++ x.posted).all fun r => s.windowFunc port.val r.pa.toNat != some rid.toNat) &&
        x.inbound.all fun r => r.agent != .device port rid
  | .chan n c => s.io.reqs.all fun r => r.agent != .bobbin n c
  | .cq q => s.fld (R.cqStatus q.val) F.cqStatus_OUTSTANDING == 0 && s.hrn.desc.all fun d => d.q != q.val || d.body.isSome
  | .rq r => s.hrn.inb.all fun i => i.stage == 0 || (match i.rq with | some (n, _) => n != r.val | none => true)
  | .file .. => true

/-- Steps 3 and 4 of a block that is no panel: its reset and scrub. -/
def State.blockScrub (s : State) (h : HandOver) : State :=
  match h.block with
  | .panel _ => s
  | .func port rid =>
    let cut := (s.pcie port.val).win.filter fun w => w.1 != rid.toNat
    s.updPcie port.val fun x => { x with win := cut ++ h.bars.map fun e => (rid.toNat, e.1, e.2) }
  | .chan n c =>
    let rs := [R.chCtl n.val c.val, R.chDesc n.val c.val, R.chDone n.val c.val, R.chErrAddr n.val c.val,
      R.chMsiAddr n.val c.val, R.chMsiData n.val c.val, R.chIrq n.val c.val]
    let s := rs.foldl (fun s r => s.wr r 0) s
    s.updChan n.val c.val fun _ => {}
  | .cq q =>
    let rs := [R.cqBase q.val, R.cqTail q.val, R.cqStatus q.val, R.cqMsiAddr q.val, R.cqMsiData q.val]
    let s := rs.foldl (fun s r => s.wr r r.reset) s
    { s with hrn.desc := s.hrn.desc.filter fun d => d.q != q.val }
  | .rq r =>
    let rs := [R.rqBase r.val, R.rqSrc r.val, R.rqPtr r.val, R.rqMsiAddr r.val, R.rqMsiData r.val]
    let s := rs.foldl (fun s r => s.wr r r.reset) s
    { s with hrn.inb := s.hrn.inb.filter fun i => !(i.kind == 3 && i.m.addr.toNat == r.val) }
  | .file h g => { s with files := KMap.erase (16 * h.num + 1 + g.val) s.files }

/-- Steps 3 to 6 of a block that is no panel. -/
def State.handFinish (s : State) (h : HandOver) : State :=
  ((s.blockScrub h).setOwner h.block true h.dst).handEnd h

/-- Step 3: a panel waits for its reset under FENCE; an OFF panel, whose rail is off, is reset when it is next
powered on (R401), and is re-tagged now. DEDUCED (assumption 78). -/
def State.handReset (s : State) (h : HandOver) : State :=
  match h.block with
  | .panel p =>
    if s.panelState p.val = 2 then (s.setOwner h.block true h.dst).handEnd h
    else s.updHand h.block fun x => { x with step := 3, t := some (s.timer 18 9) }
  | _ => s.handFinish h

/-- Step 2: the owner register reads ENABLE 0, and the block drains. -/
def State.handDrain (s : State) (h : HandOver) : State :=
  let s := s.setOwner h.block false h.src
  let s := s.updHand h.block fun x => { x with step := 2, t := some (s.timer 18 9) }
  let h := { h with step := 2 }
  match h.block with
  | .panel p =>
    let s := s.updHand h.block fun x => { x with t := none }
    if s.fenceState (.panel p) = 0 then s.handReset h else s.keeperFence (.panel p) false
  | .chan n c => s.chanAbort n.val c.val
  | .file h _ => if (s.hart h.num).hostEntered then (s.forceExit h.num).wakeHart h.num else s
  | _ => s

/-- A hand-over ends FAULTED: steps 4 and 5 are skipped and the block stays ENABLE 0 (R353). -/
def State.handFault (s : State) (h : HandOver) : State := s.handEnd { h with faulted := true }

/-- A hand-over starts: at step 1 with RELEASE_REQ to a pocket that has not released the block, at step 3 of a
block left FAULTED, else at step 2. -/
def State.handStart (s : State) (h : HandOver) : State :=
  let s : State := { s with pock.hand := s.pock.hand ++ [h] }
  if !(s.blockOwner h.block).1 then s.handReset h
  else if h.src = 0 || h.rel.isSome then s.handDrain h
  else
    let s := s.updHand h.block fun x => { x with step := 1, forced := true, t := some (s.timer 18 10) }
    s.blockPost h.src 0x80 0 h.dst h.seq h.block

/-- DRAIN_COMPLETE of a block on its way (R352). -/
def State.blockDrainDone (s : State) (b : Block) : State :=
  match s.findHand b, b with
  | some _, .panel _ => s
  | some h, _ => if h.step = 2 ∧ s.blockDrained b then s.handFinish h else s
  | none, _ => s

/-- FENCE is reached by the drain or reset of a block (R54, R255, R353). -/
def State.blockLate (s : State) (b : Block) : State :=
  match s.findHand b with
  | none => s
  | some h =>
    match h.t with
    | none => s
    | some t =>
      if h.step ≠ 2 ∧ h.step ≠ 3 then s
      else
        let s := s.advance t.due
        let s := s.err 18 1 3 (bankUnit 18) 0 0 (dlMisc 9 h.src 0 0xCA (s.tape - t.due))
        s.handFault h

/-- RELEASE is reached (R54, R353): the hand-over goes on as a forced release. -/
def State.releaseLate (s : State) (b : Block) : State :=
  match s.findHand b with
  | none => s
  | some h =>
    match h.t with
    | none => s
    | some t =>
      if h.step ≠ 1 then s
      else
        let s := s.advance t.due
        let s := s.err 18 1 3 (bankUnit 18) 0 0 (dlMisc 10 h.src 0 0xCA (s.tape - t.due))
        s.handDrain h

/-- A report of a panel's fence has reached the Keeper: its hand-over goes on (R352-R354). -/
def State.handFence (s : State) (p : Nat) : State :=
  let b : Block := .panel (Fin.ofNat 12 p)
  match s.findHand b with
  | none => s
  | some h =>
    let faulted := s.fld (R.fenceStatus (.panel (Fin.ofNat 12 p))) F.fenceStatus_FAULTED == 1
    let st := s.fenceState (.panel (Fin.ofNat 12 p))
    if h.step = 2 then
      if st ≠ 0 then s else if faulted then s.handFault h else s.handReset h
    else if h.step = 5 then
      if st = 2 then (s.releaseHarts p).handEnd h
      else if faulted then s.handFault h
      else s
    else s

/-- The panel of a hand-over at step 3 has been reset: its owner register is set (R352). -/
def State.handTag (s : State) (p : Nat) (identityOk : Bool) : State :=
  let b : Block := .panel (Fin.ofNat 12 p)
  match s.findHand b with
  | none => s
  | some h =>
    if h.step ≠ 3 then s
    else if !identityOk then s.handFault h
    else (s.updHand b fun x => { x with step := 5, t := none }).setOwner b true h.dst

/-! ### Sealed mode (R342) -/

/-- Saddles that home a pocket's ranges. -/
def State.homeSaddles (s : State) (q : Nat) : List Nat :=
  let bs := (s.pocket q).ranges.filterMap fun r => s.boltAt r.base
  (List.range 4).filter fun t => bs.any fun b => (bitsOf 12 b.mask).any fun d => b.saddleOf d == t

/-- Bytes of a bolt that a pocket's ranges hold. -/
def State.heldBytes (s : State) (q : Nat) (b : Bolt) : Nat :=
  ((s.pocket q).ranges.filter fun r => decide (b.base * 2 ^ 30 ≤ r.base) && decide (r.base < (b.base + b.size) * 2 ^ 30)).foldl
    (fun n r => n + r.size) 0

/-- Every controller that backs a pocket's ranges backs no byte outside them, and no range is on CXL. -/
def State.memAlone (s : State) (q : Nat) : Bool :=
  let mine := s.bolts.filter fun b => s.heldBytes q b != 0
  mine.all (fun b => b.kind != 2) &&
    s.bolts.all fun b => !(mine.any fun m => m.units.any b.units.contains) || s.heldBytes q b == b.size * 2 ^ 30

/-- The pocket's way class owns ways that no other class in force owns, on every saddle that homes it.
DEDUCED (assumption 76). -/
def State.waysAlone (s : State) (q : Nat) : Bool :=
  (s.homeSaddles q).all fun t =>
    let c := s.wayClass t q
    let m := fun c => s.fld (R.llcClass t c) F.llcClass_MASK
    m c != 0 && (List.range 16).all fun d => d == c || m c &&& m d == 0

/-- The rings that carry the pocket are slotted, and it is the only pocket of a group that owns a slot. -/
def State.slotsAlone (s : State) (q : Nat) : Bool :=
  let g := s.slotGroup q
  let lo := s.cfg 0x70 0xFFFF (0x48 + 4 * g) 2 0 % 4096
  let hi := s.cfg 0x70 0xFFFF (0x4A + 4 * g) 2 0 % 4096
  let n := s.slotShape.1
  let pkg := (s.pocket q).ranges.any fun r => match s.boltAt r.base with | some b => b.scope != 1 | none => false
  (s.homeSaddles q).all (s.slotted ·) && (!pkg || s.slotted 4) && g != 0 && lo == q && hi == q &&
    (List.range n).any fun i => s.cfg 0x70 0xFFFF (8 + i) 1 0 == g

/-- Ports a pocket's Harness packets may leave by: candidates of a route that are not another pocket's.
DEDUCED (assumption 76). -/
def State.pocketPorts (s : State) (q : Nat) : List Nat :=
  let n := s.cfg 0xB1 0xFFFF 0 2 0
  let ded := fun k => s.cfg 0xB0 k 8 2 0
  let cand := (List.range n).flatMap fun i => (List.range 4).filterMap fun j =>
    let c := s.cfg 0xB1 0xFFFF (8 + 8 * i + 4 + j) 1 0
    if bit c 7 then some (c % 16) else none
  cand.filter fun k => !(bit (ded k) 15) || ded k % 4096 == q

/-- The first condition of sealed mode that a pocket fails (R342). -/
def State.sealFail (s : State) (q : Nat) : Option Nat :=
  let panels := (List.range 12).filter fun p => s.panelPocket p == q
  let elsewhere := (List.range 384).any fun h =>
    (s.guestFile h q).isSome || ((s.hart h).pocket.toNat == q && !panels.contains (h / 32))
  let chans := (List.range 512).filter fun i =>
    s.fld (R.chOwner (i / 8) (i % 8)) F.chOwner_ENABLE == 1 && s.fld (R.chOwner (i / 8) (i % 8)) F.chOwner_POCKET == q
  if !bit (s.policy q).1 0 then some 1
  else if panels.isEmpty || elsewhere then some 2
  else if !s.waysAlone q then some 3
  else if !s.memAlone q then some 4
  else if !s.slotsAlone q then some 5
  else if (s.pocketPorts q).any fun k => s.cfg 0xB0 k 8 2 0 != 32768 + q then some 6
  else if chans.any fun i => (List.range 8).any fun c => !chans.contains (i / 8 * 8 + c) then some 7
  else none

/-- Pockets that are SEALED. -/
def State.sealedPockets (s : State) : List Nat := (s.pock.p.filter fun e => e.2.st == .sealed).map (·.1)

/-- The REASON of a condition that a change from `s` to `t` would break for a sealed pocket (R346). -/
def State.breaks (s t : State) : Option Nat :=
  s.sealedPockets.findSome? fun q => if (s.sealFail q).isNone then t.sealFail q else none

/-- KPR.MODE counts the pockets ARMED and SEALED. -/
def State.showMode (s : State) : State :=
  let n := fun (f : PState → Bool) => (s.pock.p.filter fun e => f e.2.st).length
  let s := s.setF R.kprMode F.kprMode_ARMED (n fun x => x == .armed || x == .sealed)
  s.setF R.kprMode F.kprMode_SEALED (n fun x => x == .sealed)

/-- A pocket's SEALED state ends: its panels' voltages are free again and a changed VFAB_MV takes effect
(R344, R346, R393). -/
def State.unsealed (s : State) (q : Nat) : State :=
  let s := (s.updPocket q fun p => { p with st := .armed }).showMode
  let ps := (List.range 12).filter fun p => s.panelPocket p == q
  let s := ps.foldl (fun s p =>
    ({ s with thm.fix := KMap.erase p s.thm.fix } : State).setF (R.vstate p) F.vstate_SEALED_FIX 0) s
  s.setVfab

/-- Pockets whose conditions a change has broken become ARMED, and their doors get UNSEALED with the REASON
(R346). DEDUCED (assumption 76). -/
def State.checkSeals (s : State) : State :=
  s.sealedPockets.foldl (fun s q =>
    match s.sealFail q with
    | some n => (s.unsealed q).doorPost { world := q, code := 0x85, status := 0, reason := n, seq := 0 }
    | none => s) s

end Sys2Proof.Machine
end

