-- ==== Sys2Proof/Machine/Doors.lean ====
section
/-! DEFINITION. Door requests (R347-R351, R361, R306, R116): how the Keeper takes one, and what each asks.
POWER requests stand in Power.lean. -/

namespace Sys2Proof.Machine

/-! ### Taking a request (R348, R351) -/

/-- The Keeper can take the next request of a door: it runs, its request ring holds one, and its reply ring has
a free entry and nothing held. DESIGN CHOICE (assumption 75). -/
def State.doorReady (s : State) (w : Nat) : Bool :=
  s.doorRuns w && s.fld (R.doorPtr w) F.doorPtr_REQ_HEAD != s.fld (R.doorPtr w) F.doorPtr_REQ_TAIL &&
    s.ringUsed w != 63 && (s.heldFor w).isEmpty

/-- A reply to a request. -/
def State.doorReply (s : State) (d : DoorHdr) (code status : Nat) (reason : Nat := 0) (peer : Nat := 0)
    (args : List Byte := []) : State :=
  s.doorPost { world := d.world.toNat, code := code, status := status, reason := reason, seq := d.seq.toNat, peer := peer
               args := args }

/-- A request that its sender may not make (R351): VIOL, and a record in the Keeper. -/
def State.doorViol (s : State) (d : DoorHdr) (code : Nat) : State :=
  let s := s.err 18 1 2 (bankUnit 18) 0 0 (violMisc d.world.toNat 0 0xCA 0x1FF 0x7FFF)
  s.doorReply d code 2

/-- The Keeper fetches a request from the ring under the Welt's check of its world, and serves it: in Fitting
mode RANDOM, RESET_VEC and ALTER only. DESIGN CHOICE (assumption 75). -/
def State.doorTake (s : State) (d : DoorHdr) (code : Nat) (f : State → State) : State :=
  let w := d.world.toNat
  if !s.doorReady w then s
  else
    let r := R.doorPtr w
    let head := s.fld r F.doorPtr_REQ_HEAD
    let pa := s.fld (R.doorCtl w) F.doorCtl_BASE * 4096 + 64 * head
    match s.welt false w pa false with
    | .pass =>
      let s := (s.setF r F.doorPtr_REQ_HEAD ((head + 1) % 64)).uev 4 0x130 0 w
      if !s.service && !(code == 0x0E || code == 0x11 || code == 0x10) then s.doorReply d code 1 else f s
    | .viol reason => (s.violation 0 0xCA pa w 0x08 reason 0).haltDoor w
    | _ => s.haltDoor w

/-- A request only the host world may make. -/
def State.doorHost (s : State) (d : DoorHdr) (code : Nat) (f : State → State) : State :=
  s.doorTake d code fun s => if d.world = 0 then f s else s.doorViol d code

/-- A request about a pocket: refused where its number is no pocket's, BUSY while another request on it runs. -/
def State.doorPocket (s : State) (d : DoorHdr) (code : Nat) (peer : Pocket) (f : State → State) : State :=
  s.doorHost d code fun s =>
    if peer = 0 then s.doorReply d code 1
    else if (s.pocket peer.toNat).busy then s.doorReply d code 5 0 peer.toNat
    else f s

/-! ### Pockets (R327, R350) -/

/-- MAX_POCKETS in force (R363). -/
def State.maxPockets (s : State) : Nat :=
  if s.fld R.kprMode F.kprMode_REGION_OK = 1 then s.cfg 0x100 0xFFFF 0xA 2 0 else 0

/-- The Keeper makes and erases keys; a change of a range's key changes what its memory reads as (R338). -/
def createEff (d : DoorHdr) (peer : Pocket) (slots : BitVec 9) (stateBase entryPc doorBase : Addr) (s : State) : State :=
  s.doorPocket d 1 peer fun s =>
    let q := peer.toNat
    if (s.pocket q).st ≠ .free ∨ s.maxPockets < q ∨ slots.toNat = 0 ∨ 256 < slots.toNat then s.doorReply d 1 1 0 q
    else
      let s := s.updPocket q fun _ => { st := .defined, slots := slots.toNat, stateBase := stateBase.toNat
                                        entryPc := entryPc.toNat, key := true }
      let s := s.wr (R.doorCtl q) 0
      let s := s.setF (R.doorCtl q) F.doorCtl_BASE (doorBase.toNat / 4096)
      let s := (s.setF (R.doorCtl q) F.doorCtl_ENABLE 1).setF (R.doorCtl q) F.doorCtl_STATE 1
      let s := s.wr (R.doorPtr q) 0
      let s := s.wr (R.debugEn q) (BitVec.ofNat 64 (s.debugPolicy q % 4))
      s.doorReply d 1 0 0 q

/-- Cached copies of lines `lo` up to `hi` leave every cache, the newest data going to memory. -/
def State.flushLines (s : State) (lo hi : Nat) : State :=
  let inR := fun l => decide (lo ≤ l) && decide (l < hi)
  let s := (s.slices.map (·.1)).foldl (fun s k =>
    (((s.slice k).ent.filter fun e => e.2.st != .invalid && inR e.2.line).map (·.1)).foldl (fun s key => s.evictEnt k key) s) s
  let s := (s.ports.map (·.1)).foldl (fun s p =>
    let s := (((s.port p).leaving.filter fun l => inR l.line && l.st == .M)).foldl (fun s l =>
      (s.homeWrite (p / 6) l.line l.data beAll l.poison).1) s
    s.updPort p fun x => { x with leaving := x.leaving.filter fun l => !inR l.line }) s
  (s.harts.map (·.1)).foldl (fun s h =>
    let ls := ((s.hart h).l2.map fun e => e.2.line).filter inR
    ls.foldl (fun s l =>
      let c := ((s.hart h).syncL2 l).l2Line l
      let s := if c.st == .M then (s.homeWrite (h / 96) l c.data beAll c.poison).1 else s
      s.updHart h fun x => (x.dropL1 l).dropL2 l) s) s

/-- A range's key changes, with its contents zeroed or kept. -/
def State.rangeKey (s : State) (base size : Nat) (keep : Bool) : State :=
  let s := s.flushLines (base / 64) ((base + size) / 64)
  if keep then s else s.rekey base size true

/-- A range may be added to a pocket (R330): whole 2 MiB units in one ONLINE bolt, overlapping no pocket's range
and not the Keeper region. -/
def State.rangeFits (s : State) (q base size : Nat) : Bool :=
  let apart := fun lo n => decide (base + size ≤ lo) || decide (lo + n ≤ base)
  base % 2 ^ 21 == 0 && size % 2 ^ 21 == 0 && size != 0 && decide ((s.pocket q).ranges.length < 16) &&
    (match s.boltAt base with
     | some b => s.boltState b == 1 && decide (base + size ≤ (b.base + b.size) * 2 ^ 30)
     | none => false) &&
    (s.pock.p.all fun e => e.2.ranges.all fun r => apart r.base r.size) &&
    match s.keeperRegion with | some (b, n) => apart b n | none => true

/-- RANGE_ADD. An adopted range keeps its contents, and their digest is returned. -/
def rangeAddEff (d : DoorHdr) (peer : Pocket) (base size : Addr) (kind : RangeKind) (roOthers adopt : Bool)
    (s : State) : State :=
  s.doorPocket d 2 peer fun s =>
    let q := peer.toNat
    let b := base.toNat
    let n := size.toNat
    if (s.pocket q).st = .free ∨ !s.rangeFits q b n then s.doorReply d 2 1 0 q
    else
      let t := s.updPocket q fun p => { p with ranges := p.ranges ++ [⟨b, n, kind, roOthers, false⟩] }
      match s.breaks t with
      | some reason => s.doorReply d 2 1 reason q
      | none =>
        let t := t.rangeKey b n adopt
        t.doorReply d 2 0 0 q (if adopt then sha256 (t.getList b n) else [])

/-- A range of a pocket is cleaned out of every cache, zeroed under key 0 and returned to the host world. -/
def State.dropRange (s : State) (q : Nat) (r : PRange) : State :=
  let s := s.rangeKey r.base r.size false
  s.updPocket q fun p => { p with ranges := p.ranges.filter fun x => x.base != r.base }

/-- RANGE_REMOVE (R351), from the host world or the owning pocket. -/
def rangeRemoveEff (d : DoorHdr) (peer : Pocket) (base : Addr) (s : State) : State :=
  s.doorTake d 3 fun s =>
    let q := peer.toNat
    if d.world ≠ 0 ∧ d.world ≠ peer then s.doorViol d 3
    else if (s.pocket q).busy then s.doorReply d 3 5 0 q
    else match (s.pocket q).ranges.find? fun r => r.base == base.toNat with
      | none => s.doorReply d 3 1 0 q
      | some r =>
        match s.breaks (s.updPocket q fun p => { p with ranges := p.ranges.filter fun x => x.base != r.base }) with
        | some reason => s.doorReply d 3 1 reason q
        | none => (s.dropRange q r).doorReply d 3 0 0 q

/-- ARM: refused unless every saved state's area lies in a private range of the pocket. -/
def armEff (d : DoorHdr) (peer : Pocket) (s : State) : State :=
  s.doorPocket d 4 peer fun s =>
    let q := peer.toNat
    let p := s.pocket q
    let ok := p.ranges.any fun r => r.kind == .priv && decide (r.base ≤ p.stateBase) &&
      decide (p.stateBase + 0x2000 * p.slots ≤ r.base + r.size)
    if p.st = .defined ∧ ok then ((s.updPocket q fun p => { p with st := .armed }).showMode).doorReply d 4 0 0 q
    else s.doorReply d 4 1 0 q

/-- The hand-overs of a DESTROY that still run. -/
def State.destroyWaits (s : State) (q : Nat) : Bool := s.pock.hand.any fun h => h.destroy && h.src == q && h.step != 7

/-- A DESTROY whose hand-overs have ended: the ranges go back, the key is erased, the pocket is FREE. -/
def State.destroyEnd (s : State) (q seq : Nat) : State :=
  let bad := s.pock.hand.any fun h => h.destroy && h.src == q && h.faulted
  let s : State := { s with pock.hand := s.pock.hand.filter fun h => !(h.destroy && h.src == q) }
  let s := (s.pocket q).ranges.foldl (fun s r => s.dropRange q r) s
  let s : State := { s with pock.p := KMap.erase q s.pock.p, pock.held := s.pock.held.filter fun e => e.world != q }
  let s := ((s.wr (R.doorCtl q) 0).wr (R.doorPtr q) 0).wr (R.debugEn q) 0
  let s := (s.wr (R.doorMsiAddr q) 0).wr (R.doorMsiData q) 0
  s.showMode.setVfab.doorPost { world := 0, code := 5, status := if bad then 7 else 0, seq := seq, peer := q }

/-- DESTROY: forced exits, then every block back to the host world. -/
def destroyEff (d : DoorHdr) (peer : Pocket) (s : State) : State :=
  s.doorPocket d 5 peer fun s =>
    let q := peer.toNat
    if (s.pocket q).st = .free then s.doorReply d 5 1 0 q
    else if s.pock.hand.any fun h => (h.src == q || h.dst == q) && h.step != 7 then s.doorReply d 5 5 0 q
    else
      let s := if (s.pocket q).st = .sealed then s.unsealed q else s
      let s := s.updPocket q fun p => { p with busy := true }
      let s := (s.harts.map (·.1)).foldl (fun s h =>
        if (s.hart h).hostEntered && (s.hart h).pocket == peer then (s.forceExit h).wakeHart h else s) s
      let bs := (s.blocksOf q).filter fun b => (s.findHand b).isNone
      let s := bs.foldl (fun s b => s.handStart { block := b, src := q, dst := 0, step := 1, world := 0
                                                  seq := d.seq.toNat, destroy := true }) s
      if s.destroyWaits q then s else s.destroyEnd q d.seq.toNat

/-! ### Blocks (R352, R355) -/

/-- ASSIGN: from the host world, or of a block that a hand-over left FAULTED. DEDUCED (assumption 78). -/
def assignEff (d : DoorHdr) (b : Block) (peer : Pocket) (bars : List (Addr × Addr)) (s : State) : State :=
  s.doorPocket d 6 peer fun s =>
    let q := peer.toNat
    let (en, o) := s.blockOwner b
    let runs := match b with | .panel _ => s.armed q | _ => (s.pocket q).st != .free
    if (s.findHand b).isSome then s.doorReply d 6 5 0 q
    else if !s.blockThere b || !runs || (en && o != 0) then s.doorReply d 6 1 0 q
    else match s.breaks (s.setOwner b true q) with
      | some reason => s.doorReply d 6 1 reason q
      | none => s.handStart { block := b, src := 0, dst := q, step := 2, world := 0, seq := d.seq.toNat
                              bars := bars.map fun e => (e.1.toNat, e.2.toNat) }

/-- RELEASE, by the owning pocket: it answers a RELEASE_REQ, or starts a hand-over of its own. -/
def releaseEff (d : DoorHdr) (b : Block) (s : State) : State :=
  s.doorTake d 8 fun s =>
    let (en, o) := s.blockOwner b
    if d.world = 0 ∨ o ≠ d.world.toNat then s.doorViol d 8
    else match s.findHand b with
      | some h =>
        if h.step = 1 then
          let h := { h with rel := some d.seq.toNat, forced := false }
          ((s.updHand b fun _ => h).handDrain h).checkSeals
        else s.doorReply d 8 5
      | none =>
        if !en then s.doorReply d 8 1
        else
          let h : HandOver := { block := b, src := d.world.toNat, dst := 0, step := 2, world := d.world.toNat
                                seq := d.seq.toNat, rel := some d.seq.toNat }
          (s.handStart h).checkSeals

/-! ### Sealing (R342, R344) -/

def sealEff (d : DoorHdr) (peer : Pocket) (s : State) : State :=
  s.doorPocket d 9 peer fun s =>
    let q := peer.toNat
    if (s.pocket q).st ≠ .armed then s.doorReply d 9 1 0 q
    else match s.sealFail q with
      | some n => s.doorReply d 9 1 n q
      | none =>
        let s := (s.updPocket q fun p => { p with st := .sealed }).showMode
        let ps := (List.range 12).filter fun p => s.panelPocket p == q
        let s := ps.foldl (fun s p =>
          let mv := s.fld (R.vstate p) F.vstate_IN_FORCE
          ({ s with thm.fix := KMap.set 0 p (mv + 1) s.thm.fix } : State).setF (R.vstate p) F.vstate_SEALED_FIX 1) s
        s.doorReply d 9 0 0 q

def unsealEff (d : DoorHdr) (peer : Pocket) (s : State) : State :=
  s.doorPocket d 0xA peer fun s =>
    let q := peer.toNat
    if (s.pocket q).st = .sealed then (s.unsealed q).doorReply d 0xA 0 0 q else s.doorReply d 0xA 1 0 q

/-! ### Messages, exports, debug, random, tags, vectors -/

/-- MSG: between the host world and a pocket only. -/
def msgEff (d : DoorHdr) (peer : Pocket) (body : BitVec 320) (s : State) : State :=
  s.doorTake d 0xB fun s =>
    if (d.world = 0) = (peer = 0) then s.doorViol d 0xB
    else if peer ≠ 0 ∧ (s.pocket peer.toNat).st = .free then s.doorReply d 0xB 1 0 peer.toNat
    else
      let s := s.doorPost { world := peer.toNat, code := 0x83, seq := d.seq.toNat, peer := d.world.toNat
                            args := leBytes 40 body.toNat }
      s.doorReply d 0xB 0 0 peer.toNat

/-- EXPORT_SET: the entry takes the fields given, with DST_POCKET the sender. -/
def exportSetEff (d : DoorHdr) (e : Fin 4096) (w0 w1 w2 w3 : Word) (s : State) : State :=
  s.doorTake d 0xC fun s =>
    let i := e.val
    if s.fld (R.export0 i) F.export0_VALID = 1 ∧ s.fld (R.export1 i) F.export1_DST_POCKET ≠ d.world.toNat then
      s.doorReply d 0xC 1
    else
      let m := fun (w : Word) hi lo => w.toNat / 2 ^ lo % 2 ^ (hi + 1 - lo)
      let s := (s.setF (R.export0 i) F.export0_VALID (m w0 63 63)).setF (R.export0 i) F.export0_RIGHTS (m w0 62 60)
      let s := s.setF (R.export0 i) F.export0_ANY_POCKET (m w0 59 59)
      let s := s.setF (R.export0 i) F.export0_NODE_LO (m w0 43 29)
      let s := s.setF (R.export0 i) F.export0_NODE_HI (max (m w0 43 29) (m w0 58 44))
      let s := s.setF (R.export1 i) F.export1_SRC_POCKET (m w1 23 12)
      let s := s.setF (R.export1 i) F.export1_DST_POCKET d.world.toNat
      let s := s.setF (R.export2 i) F.export2_BASE (m w2 55 0)
      let s := s.setF (R.export3 i) F.export3_LIMIT (max (m w2 55 0) (m w3 55 0))
      s.doorReply d 0xC 0

/-- Halted harts that run a world whose INV is 0 resume (R362). -/
def State.resumeLowered (s : State) (w : Nat) : State :=
  (s.harts.map (·.1)).foldl (fun s h =>
    let x := s.hart h
    if x.mode == .halted && x.pocket.toNat == w then
      let s : State := { s with dbg.resumeAck := if s.dbg.resumeAck.contains h then s.dbg.resumeAck else h :: s.dbg.resumeAck }
      s.updHart h fun x => { x with mode := match x.wait with | .none => .run | .pause _ => .run | _ => .park }
    else s) s

/-- DEBUG_GRANT (R361): a world lowers its enables, or raises them where its rule sets MAY_GRANT.
DEDUCED (assumption 77). -/
def debugGrantEff (d : DoorHdr) (inv noninv : Bool) (s : State) : State :=
  s.doorTake d 0xD fun s =>
    let w := d.world.toNat
    let r := R.debugEn w
    let up := (inv && s.fld r F.debugEn_INV == 0) || (noninv && s.fld r F.debugEn_NONINV == 0)
    if up && !(w != 0 && bit (s.debugPolicy w) 2) then s.doorReply d 0xD 1
    else
      let s := (s.setF r F.debugEn_INV (if inv then 1 else 0)).setF r F.debugEn_NONINV (if noninv then 1 else 0)
      (if inv then s else s.resumeLowered w).doorReply d 0xD 0

def randomEff (d : DoorHdr) (s : State) : State :=
  s.doorTake d 0xE fun s =>
    let (l, s) := s.randomBytes 32
    s.doorReply d 0xE 0 0 0 l

/-- The tag of R303 under the fabric key. -/
def State.fabricMac (s : State) (mop newId : Nat) (serial nonce : Nat) : Option (List Byte) :=
  s.boot.fabKey.map fun k => hmac (leBytes 32 k) (ascii "KRNH" ++ leBytes 1 mop ++ leBytes 2 newId ++ leBytes 8 serial ++ leBytes 8 nonce)

def fabricTagEff (d : DoorHdr) (mop : BitVec 8) (m : MgmtReq) (s : State) : State :=
  s.doorHost d 0xF fun s =>
    match s.fabricMac mop.toNat m.newId.toNat m.serial.toNat m.nonce.toNat with
    | some t => s.doorReply d 0xF 0 0 0 t
    | none => s.doorReply d 0xF 1

def resetVecEff (d : DoorHdr) (p : Panel) (pa : Addr) (s : State) : State :=
  s.doorHost d 0x11 fun s =>
    (s.setF (R.resetVec p.val) F.resetVec_ADDR (pa.toNat / 4)).doorReply d 0x11 0

/-! ### The doors themselves (R347, R348) -/

/-- DOOR_ENABLE: a write of DOOR_CTL with ENABLE 1. A door that is not RUNNING starts with every pointer at 0;
BASE is written only while ENABLE is 0. -/
def doorEnableEff (a : Agent) (w : Pocket) (base : Addr) (s : State) : State :=
  let n := w.toNat
  let r := R.doorCtl n
  s.ctlGuard a r.addr fun s =>
    let s := if s.fld r F.doorCtl_ENABLE = 1 then s else s.setF r F.doorCtl_BASE (base.toNat / 4096)
    let s := if s.doorRuns n then s else
      ((s.setF r F.doorCtl_ENABLE 1).setF r F.doorCtl_STATE 1).wr (R.doorPtr n) 0
    (s.doorPump n, .ok)

/-- RPL_HEAD_WRITE: the world frees reply entries, and what was held is posted. -/
def rplHeadWriteEff (a : Agent) (w : Pocket) (v : BitVec 6) (s : State) : State :=
  let n := w.toNat
  s.ctlGuard a (R.doorPtr n).addr fun s => ((s.setF (R.doorPtr n) F.doorPtr_RPL_HEAD v.toNat).doorPump n, .ok)

def execCreate (d : DoorHdr) (peer : Pocket) (slots : BitVec 9) (stateBase entryPc doorBase : Addr) (s : State) : Host.Outcome State Fault Refusal :=
  .next (createEff d peer slots stateBase entryPc doorBase s)
def execRangeAdd (d : DoorHdr) (peer : Pocket) (base size : Addr) (kind : RangeKind) (roOthers adopt : Bool) (s : State) : Host.Outcome State Fault Refusal :=
  .next (rangeAddEff d peer base size kind roOthers adopt s)
def execRangeRemove (d : DoorHdr) (peer : Pocket) (base : Addr) (s : State) : Host.Outcome State Fault Refusal :=
  .next (rangeRemoveEff d peer base s)
def execArm (d : DoorHdr) (peer : Pocket) (s : State) : Host.Outcome State Fault Refusal :=
  .next (armEff d peer s)
def execDestroy (d : DoorHdr) (peer : Pocket) (s : State) : Host.Outcome State Fault Refusal :=
  .next (destroyEff d peer s)
def execAssign (d : DoorHdr) (b : Block) (peer : Pocket) (bars : List (Addr × Addr)) (s : State) : Host.Outcome State Fault Refusal :=
  .next (assignEff d b peer bars s)
def execRelease (d : DoorHdr) (b : Block) (s : State) : Host.Outcome State Fault Refusal :=
  .next (releaseEff d b s)
def execSealPocket (d : DoorHdr) (peer : Pocket) (s : State) : Host.Outcome State Fault Refusal :=
  .next (sealEff d peer s)
def execUnsealPocket (d : DoorHdr) (peer : Pocket) (s : State) : Host.Outcome State Fault Refusal :=
  .next (unsealEff d peer s)
def execMsg (d : DoorHdr) (peer : Pocket) (body : BitVec 320) (s : State) : Host.Outcome State Fault Refusal :=
  .next (msgEff d peer body s)
def execExportSet (d : DoorHdr) (e : Fin 4096) (w0 w1 w2 w3 : Word) (s : State) : Host.Outcome State Fault Refusal :=
  .next (exportSetEff d e w0 w1 w2 w3 s)
def execDebugGrant (d : DoorHdr) (inv noninv : Bool) (s : State) : Host.Outcome State Fault Refusal :=
  .next (debugGrantEff d inv noninv s)
def execRandom (d : DoorHdr) (s : State) : Host.Outcome State Fault Refusal :=
  .next (randomEff d s)
def execFabricTag (d : DoorHdr) (mop : BitVec 8) (m : MgmtReq) (s : State) : Host.Outcome State Fault Refusal :=
  .next (fabricTagEff d mop m s)
def execResetVec (d : DoorHdr) (p : Panel) (pa : Addr) (s : State) : Host.Outcome State Fault Refusal :=
  .next (resetVecEff d p pa s)
def execDoorEnable (a : Agent) (w : Pocket) (base : Addr) (s : State) : Host.Outcome State Fault Refusal :=
  .next (doorEnableEff a w base s)
def execRplHeadWrite (a : Agent) (w : Pocket) (v : BitVec 6) (s : State) : Host.Outcome State Fault Refusal :=
  .next (rplHeadWriteEff a w v s)

end Sys2Proof.Machine
end

