-- ==== Sys2Proof/Machine/HrnPort.lean ====
section
/-! DEFINITION. Harness ports and nodes (R297-R301, R308-R311, R314): training, frames, replays, HELLOs, routes,
and the packets that wait to leave by a port. -/

namespace Sys2Proof.Machine

/-! ### Nodes and ports -/

/-- The node ID (R300). -/
def State.nodeId (s : State) : Nat := s.fld R.hrnNode F.hrnNode_NODE_ID
/-- The node has an ID. -/
def State.assigned (s : State) : Bool := s.fld R.hrnNode F.hrnNode_ASSIGNED == 1
/-- The package's serial. -/
def State.serialNo (s : State) : Nat := (s.rd R.pkgSerial).toNat

def State.hport (s : State) (k : Nat) : HPort := KMap.get {} s.hrn.ports k
def State.updHport (s : State) (k : Nat) (f : HPort → HPort) : State :=
  { s with hrn.ports := KMap.set {} k (f (s.hport k)) s.hrn.ports }

/-- STATE of a port: 0 DISABLED, 1 TRAINING, 2 UP, 3 DOWN. -/
def State.portState (s : State) (k : Nat) : Nat := s.fld (R.portStatus k) F.portStatus_STATE
/-- CTL of HARNESS_PORTS (R326): ENABLE, ALLOW_X2, DATELINE. -/
def State.portCtl (s : State) (k i : Nat) : Bool := bit (s.cfg 0xB0 k 0 1 3) i
/-- The pocket a port is dedicated to. -/
def State.portPocket (s : State) (k : Nat) : Option Nat :=
  let v := s.cfg 0xB0 k 8 2 0
  if bit v 15 then some (v % 4096) else none

/-- A port changes its STATE: an I3C in-band interrupt is raised (R307). -/
def State.setPort (s : State) (k st : Nat) : State :=
  if s.portState k = st then s
  else { s.setF (R.portStatus k) F.portStatus_STATE st with pins.i3cIbi := true }

/-- A record of the Harness about a port. -/
def State.portErr (s : State) (k sev kind misc : Nat) : State := s.err 17 sev kind (unitCode 0x0E k) 0 0 misc

/-- Lanes of LANES as a mask: 1 lanes 0-1, 2 lanes 2-3, 3 all four. -/
def laneMask (lanes : Nat) : Nat := if lanes % 2 = 1 then (if 2 ≤ lanes then 15 else 3) else if lanes = 2 then 12 else 0

/-- A port drops a packet (R310, R324). -/
def State.portDrop (s : State) (k : Nat) (n : Nat := 1) : State := s.incF (R.portStatus k) F.portStatus_DROPS n

/-! ### Training (R299) -/

/-- A port enters TRAINING: x4 is tried first. -/
def State.trainStart (s : State) (k : Nat) : State :=
  let s := (s.setPort k 1).incF (R.portStatus k) F.portStatus_RETRAINS
  let s := s.setF (R.portStatus k) F.portStatus_LANES 0
  s.updHport k fun p => { p with lane := 0, since := s.tape, trained := false, heard := false, runs := 0 }

/-- The ports that HARNESS_PORTS enables train. -/
def State.startPorts (s : State) : State :=
  (List.range 16).foldl (fun s k => if s.portCtl k 0 && s.portState k == 0 then s.trainStart k else s) s

/-- A training attempt reaches TRAIN_MS: the next width the port allows is tried, else it goes DOWN.
DEDUCED (assumption 93). -/
def trainTimeoutEff (k : Fin 16) (s : State) : State :=
  let p := s.hport k
  if s.portState k ≠ 1 then s
  else
    let s := s.advance (p.since + s.cfg 0xB0 k 4 2 500 * 1000000)
    let s := s.setF (R.portStatus k) F.portStatus_LANES 0
    if p.lane < 2 ∧ s.portCtl k 1 then
      s.updHport k fun p => { p with lane := p.lane + 1, since := s.tape, trained := false, heard := false }
    else
      let s := (s.setPort k 3).updHport k fun p => { p with since := s.tape, trained := false, heard := false }
      s.portErr k 1 4 (linkMisc 5 k 0)

/-- RETRY_MS passes for a DOWN port. -/
def retryTimerEff (k : Fin 16) (s : State) : State :=
  if s.portState k ≠ 3 ∨ !s.portCtl k 0 then s
  else (s.advance ((s.hport k).since + s.cfg 0xB0 k 6 2 1000 * 1000000)).trainStart k

/-- An active lane loses its signal. -/
def lossOfSignalEff (k : Fin 16) (s : State) : State :=
  if s.portState k = 2 ∨ (s.portState k = 1 ∧ (s.hport k).trained) then s.trainStart k else s

/-! ### Packets on a port (R298, R314) -/

/-- Frames of a packet: its 32-byte header and its padded payload, 312 bytes a frame. -/
def HTx.frames (t : HTx) : Nat := (32 + (t.m.payload.length + 7) / 8 * 8 + 311) / 312

/-- A port sends what it may: in order, while its replay buffer of 128 frames has room. A packet whose budget
has run out is dropped and counted (R324). -/
def State.portSendList (s : State) (k : Nat) : List HTx → State
  | [] => s.updHport k fun p => { p with queue := [] }
  | t :: rest =>
    let p := s.hport k
    if t.ends ≠ 0 ∧ t.ends ≤ s.tape then (s.portDrop k).portSendList k rest
    else if 128 < p.tx + t.frames - p.una then s.updHport k fun p => { p with queue := t :: rest }
    else
      let m := { t.m with budget := BitVec.ofNat 32 (t.ends - s.tape), vc := t.m.vc || s.portCtl k 2 }
      let s := s.updHport k fun p =>
        { p with tx := p.tx + t.frames
                 sent := p.sent ++ [{ t with m := m, last := some (p.tx + t.frames - 1) }] }
      s.portSendList k rest

/-- An UP port sends its waiting packets. -/
def State.portPump (s : State) (k : Nat) : State :=
  if s.portState k = 2 then s.portSendList k (s.hport k).queue else s

/-- A packet is queued on a port. -/
def State.portQueue (s : State) (k : Nat) (t : HTx) : State :=
  (s.updHport k fun p => { p with queue := p.queue ++ [t] }).portPump k

/-- A frame of no packet of another node: the empty header.
PRESUMED (assumption 94); DESIGN CHOICE (assumption 97). -/
def noPkt : HPkt :=
  { srcNode := 0, dstNode := 0, srcPocket := 0, dstPocket := 0, ordered := false, vc := false, ttl := 0, budget := 0, tag := 0,
    len := 0, aop := 0, awidth := false, addr := 0, resp := .ok, payload := [] }

/-- What a HELLO carries (R301), as bytes. PRESUMED (assumption 94). -/
def State.helloBytes (s : State) (k : Nat) : List Byte :=
  leBytes 8 s.serialNo ++ leBytes 8 s.hrn.nonce ++ leBytes 2 s.nodeId ++
    leBytes 2 (s.fld R.hrnNode F.hrnNode_PROV_ID) ++ leBytes 1 k ++ leBytes 1 (s.fld R.pkgId F.pkgId_PKG_LEVEL)

/-- A HELLO leaves by a trained port, ahead of the packets that wait for it to come UP. -/
def State.sendHello (s : State) (k : Nat) : State :=
  s.updHport k fun p =>
    { p with tx := p.tx + 1, hellos := p.hellos + 1
             sent := p.sent ++ [{ typ := 6, id := 0, m := { noPkt with payload := s.helloBytes k }, last := some p.tx }] }

/-- What a HELLO carries has changed: each port whose lanes are trained sends one again. -/
def State.helloAll (s : State) : State :=
  (List.range 16).foldl (fun s k =>
    if s.portState k = 2 ∨ (s.portState k = 1 ∧ (s.hport k).trained) then s.sendHello k else s) s

/-- Lanes train at the width tried, and the port sends its HELLO. -/
def portTrainedEff (k : Fin 16) (lanes : BitVec 2) (s : State) : State :=
  let p := s.hport k
  let want := match p.lane with | 0 => 3 | 1 => 1 | _ => 2
  if s.portState k ≠ 1 ∨ p.trained ∨ lanes.toNat ≠ want then s
  else
    let s := s.setF (R.portStatus k) F.portStatus_LANES want
    (s.updHport k fun p => { p with trained := true }).sendHello k

/-- A frame is received (R298): accepted in sequence order; a NAK is returned for one that fails its CRC. Its
acknowledgement names the last frame its sender has accepted. A packet of an unknown TYPE is discarded and counted.
DEDUCED (assumption 95). -/
def linkFrameEff (k : Fin 16) (seq ack : BitVec 12) (crcOk : Bool) (typ : BitVec 8) (s : State) : State :=
  let p := s.hport k
  if !(s.portState k == 2 || (s.portState k == 1 && p.trained)) then s
  else if !crcOk then s.updHport k fun p => { p with naks := p.rx % 4096 :: p.naks }
  else
    let d := (ack.toNat + 1 + 4096 - p.una % 4096) % 4096
    let una := if d ≤ p.tx - p.una then p.una + d else p.una
    let s := s.updHport k fun p =>
      { p with una := una, runs := if una = p.una then p.runs else 0
               sent := p.sent.filter fun t => match t.last with | some n => decide (una ≤ n) | none => true }
    let s :=
      if seq.toNat ≠ p.rx % 4096 then s
      else
        let s := s.updHport k fun p => { p with rx := p.rx + 1 }
        if typ.toNat ≤ 6 then s
        else
          let s : State := { s with hrn.badType := s.hrn.badType + 1 }
          (s.updHport k fun p => { p with badType := p.badType + 1 }).portErr k 1 5 (protoMisc 0x0B typ.toNat)
    s.portPump k

/-- A NAK names the frame to replay from (R298). The eighth replay of one frame in succession retrains the port. -/
def nakEff (k : Fin 16) (seq : BitVec 12) (s : State) : State :=
  let p := s.hport k
  let n := p.una + (seq.toNat + 4096 - p.una % 4096) % 4096
  if !(s.portState k == 2 || (s.portState k == 1 && p.trained)) || decide (p.tx ≤ n) then s
  else
    let runs := if n = p.una then p.runs + 1 else 1
    let s := s.incF (R.portStatus k) F.portStatus_REPLAYS (p.tx - n)
    let s := s.updHport k fun p =>
      { p with una := n, runs := runs
               sent := p.sent.filter fun t => match t.last with | some m => decide (n ≤ m) | none => true }
    if 8 ≤ runs then s.trainStart k else s.portPump k

/-- The Harness event interrupt (R301, R322). DESIGN CHOICE (assumption 104). -/
def State.hrnEvent (s : State) : State := s.setSource 29 true

/-! ### Routes (R308, R309) -/

/-- INIT_TTL. -/
def State.initTtl (s : State) : Nat := s.cfg 0xB1 0xFFFF 2 1 32

/-- The candidate ports of the first range that holds a node, in byte order; none where no range does. -/
def State.routeCands (s : State) (d : Nat) : Option (List Nat) :=
  match s.piece 0xB1 0xFFFF with
  | none => none
  | some l =>
    ((List.range (le l 0 2)).find? fun i =>
      decide (le l (8 + 8 * i) 2 % 2 ^ 15 ≤ d) && decide (d ≤ le l (10 + 8 * i) 2 % 2 ^ 15)).map fun i =>
        ((List.range 4).map fun j => le l (12 + 8 * i + j) 1).filterMap fun b => if bit b 7 then some (b % 16) else none

/-- A port carries a pocket's packets. -/
def State.portAllows (s : State) (k pocket : Nat) : Bool :=
  match s.portPocket k with | none => true | some q => q == pocket

/-- A port is UP and carries a pocket's packets. -/
def State.portUsable (s : State) (pocket k : Nat) : Bool := s.portState k == 2 && s.portAllows k pocket

/-- The ports a packet may leave by now; an ordered one by the first candidate alone. None: the route is down. -/
def State.routeUp (s : State) (d : Nat) (ordered : Bool) (pocket : Nat) : List Nat :=
  match s.routeCands d with
  | none => []
  | some c => (if ordered then c.take 1 else c).filter (s.portUsable pocket)

/-- The port of a packet: of several usable ones, the one with the most free credits, a free value.
DESIGN CHOICE (assumption 96). -/
def State.route (s : State) (d : Nat) (ordered : Bool) (pocket : Nat) : Option Nat × State :=
  match s.routeUp d ordered pocket with
  | [] => (none, s)
  | [k] => (some k, s)
  | l =>
    let (n, s) := s.fresh
    (l[n % l.length]?, s)

/-- A packet that is no operation of this node leaves: where its route is down, it waits at its first candidate
that may carry it, or is dropped where there is none. DESIGN CHOICE (assumption 96). -/
def State.portOut (s : State) (t : HTx) (pocket : Nat) : State :=
  let d := t.m.dstNode.toNat
  match s.route d t.m.ordered pocket with
  | (some k, s) => s.portQueue k t
  | (none, s) =>
    match (((s.routeCands d).getD []).take (if t.m.ordered then 1 else 4)).find? fun k => s.portAllows k pocket with
    | some k => s.portQueue k t
    | none => { s with hrn.drops := s.hrn.drops + 1 }

def execLinkFrame (k : Fin 16) (seq ack : BitVec 12) (crcOk : Bool) (typ : BitVec 8) (s : State) : Host.Outcome State Fault Refusal :=
  .next (linkFrameEff k seq ack crcOk typ s)
def execNak (k : Fin 16) (seq : BitVec 12) (s : State) : Host.Outcome State Fault Refusal :=
  .next (nakEff k seq s)
def execLossOfSignal (k : Fin 16) (s : State) : Host.Outcome State Fault Refusal :=
  .next (lossOfSignalEff k s)
def execTrainTimeout (k : Fin 16) (s : State) : Host.Outcome State Fault Refusal :=
  .next (trainTimeoutEff k s)
def execRetryTimer (k : Fin 16) (s : State) : Host.Outcome State Fault Refusal :=
  .next (retryTimerEff k s)
def execPortTrained (k : Fin 16) (lanes : BitVec 2) (s : State) : Host.Outcome State Fault Refusal :=
  .next (portTrainedEff k lanes s)

end Sys2Proof.Machine
end

