-- ==== Sys2Proof/Machine/Boot.lean ====
section
/-! DEFINITION. Boot and resets (R416-R437, R464-R467, R471-R473): the ROM and firmware, the mailbox commands of
R425 but for DORMANT, steps 5 to 10, Fitting payloads, and SPDM (R376, R432). -/

namespace Sys2Proof.Machine

/-! ### Resets (R429) -/

/-- Register 0 is extended with the ROM's digest, the nonces are renewed, and what fuses and pins show is
shown. DESIGN CHOICE (assumption 63). -/
def State.romStart (s : State) : State :=
  let s := s.showFuses.showIdentity.extendMeas 0 (leBytes 32 Config.romDigest)
  let s := s.newNonce
  let (n, s) := s.draw
  { s.setStep 2 with hrn.nonce := n % 2 ^ 64 }

/-- The package with everything but OTP, flash and the commands that wait at its reset value. Memory holds
arbitrary data: key 0 is made anew (R338). -/
def State.fresh0 (s : State) : State :=
  { State.reset with pending := s.pending, otp := s.otp, pat.flash := s.pat.flash, freeCtr := s.freeCtr
                     memEpoch := s.memEpoch + 1 }

/-- Boot step 1 on a package at its reset values. DESIGN CHOICE (assumption 62). -/
def State.coldStart (s : State) (straps : BitVec 2) (resetN testN : Bool) : State :=
  let s : State := { s with pins.straps := straps, pins.resetN := resetN, pins.testN := testN
                            boot.testMode := !testN }
  let s := s.romStart
  if straps.getLsbD 1 then s.err 16 0 5 (bankUnit 16) 0 0 (protoMisc 1 0) else s

/-- COLD_RESET: VSTBY rises, step 1 runs, and the straps are sampled at its end (R464). -/
def coldResetEff (straps : BitVec 2) (resetN testN : Bool) (s : State) : State :=
  s.fresh0.coldStart straps resetN testN

/-- Fields of BOOT_STATUS that a package warm reset keeps (R429, R437). -/
def State.keepBoot (s t : State) : State :=
  let r := R.bootStatus
  let s := (s.setF r F.bootStatus_FW_SOURCE (t.fld r F.bootStatus_FW_SOURCE)).setF r F.bootStatus_FW_SLOT
    (t.fld r F.bootStatus_FW_SLOT)
  let s := (s.setF r F.bootStatus_PAT_SLOT (t.fld r F.bootStatus_PAT_SLOT)).setF r F.bootStatus_LAST_RESET 1
  s.setF r F.bootStatus_WARM_COUNT (min 65535 (t.fld r F.bootStatus_WARM_COUNT + 1))

/-- What a package warm reset keeps (R429), the rest at its reset value. DEDUCED (assumption 73). -/
def State.warmBase (t : State) : State :=
  let tripped := t.fld R.thmStatus F.thmStatus_TRIPPED == 1
  let harts := t.harts.map fun e =>
    (e.1, ({ resid := e.2.resid, since := t.tape } : HartSt))
  let svc := t.pcie 8
  { t.fresh0 with
    tape := t.tape, harts := harts, thm.resid := t.thm.resid, thm.since := t.thm.since
    io.ports := if svc = {} then [] else [(8, svc)]
    pins.straps := t.pins.straps, pins.resetN := t.pins.resetN, pins.testN := t.pins.testN
    pins.railGood := t.pins.railGood, pins.thermTrip := t.pins.thermTrip, pins.vstby := t.pins.vstby
    boot.testMode := t.boot.testMode
    thm.parkAll := tripped || (t.thm.parkAll && !t.pins.railGood) }

/-- A package warm reset (R429). The Tape, residency, the service port's link and the pins' inputs stay; a trip
ends at a cold reset only, a lost supply once RAIL_GOOD has returned (R413, R472). DEDUCED (assumption 73). -/
def State.warmAll (t : State) : State :=
  let t := t.accrueAll
  let tripped := t.fld R.thmStatus F.thmStatus_TRIPPED == 1
  let s := (t.warmBase.wr R.tape (t.rd R.tape)).wr R.tapeStatus (t.rd R.tapeStatus)
  let s := (s.wr R.svcStatus (t.rd R.svcStatus)).setF R.thmStatus F.thmStatus_TRIPPED (if tripped then 1 else 0)
  (s.keepBoot t).romStart

def packageWarmResetEff (s : State) : State := s.warmAll

/-- RESET_N low for `lowNs` without a break, and then high again or still low (R465). -/
def resetNEff (lowNs : BitVec 32) (rises : Bool) (s : State) : State :=
  if !s.pins.vstby then s
  else if !s.pins.resetN then { s with pins.resetN := rises }
  else if lowNs.toNat < 1000 then s
  else { (s.advance (s.tape + 1000)).warmAll with pins.resetN := rises }

/-- VSTBY_LOSS: every state ends but OTP and flash (R473). -/
def vstbyLossEff (s : State) : State := { s.fresh0 with pins.vstby := false, thm.parkAll := true }

/-- SUPPLY_LOST: RAIL_GOOD falls (R472). -/
def supplyLostEff (s : State) : State :=
  if !s.pins.railGood then s
  else
    let s : State := { s with pins.railGood := false }
    if !s.pins.railEn then s
    else ({ s with thm.parkAll := true }.err 16 3 5 (bankUnit 16) 0 0 (protoMisc 0x0C 0)).note .supply

/-- SVC_PERST_N: the service port's PHY and link only (R466). -/
def svcPerstNEff (s : State) : State := linkDownEff 8 0 s

/-! ### Step 2: Keeper firmware (R422, R423) -/

/-- The code of the first check that refuses a Keeper firmware image, 0 for none. -/
def State.checkFw (s : State) (l : List Byte) : Nat :=
  let len := le l 8 4
  let block := seg l len 784
  if len % 8 ≠ 0 ∨ len < 64 ∨ 0x003FFCF0 < len then 3
  else if seg l 0 4 ≠ ascii "KRNK" then 4
  else if le l 4 1 ≠ 1 then 5
  else match s.sigCheck (l.take len) block with
    | some c => c
    | none =>
      let part := le l 6 2
      if part ≠ 0xFFFF ∧ part ≠ s.fld R.pkgId F.pkgId_PART_CODE then 0x0A
      else if 64 < le l 5 1 ∨ le l 5 1 < s.otp.fwRoll then 0x0C
      else 0

/-- The firmware runs: register 1 is extended, the fabric key is unwrapped (R420), and step 3 begins. -/
def State.runFw (s : State) (l : List Byte) (src : Nat) : State :=
  let len := le l 8 4
  let slot := le l len 1
  let s := (s.setF R.bootStatus F.bootStatus_FW_SOURCE src).setF R.bootStatus F.bootStatus_FW_SLOT slot
  let s := s.extendMeas 1 (sha256 (l.take len))
  let s : State := { s with boot.fwKey := s.slotHash slot, boot.fwHv := seg l (le l 0x14 4) (le l 0x18 4)
                            boot.fabKey := s.otp.fabricKey, boot.fwWait := false }
  (s.setF R.fuseState F.fuseState_FABRIC_KEY (if s.boot.fabKey.isSome then 1 else 0)).setStep 3

/-- A firmware image is checked, and runs where it is accepted. -/
def State.tryFw (s : State) (l : List Byte) (src : Nat) : Nat × State :=
  let c := s.checkFw l
  (c, if c = 0 then s.runFw l src else s.setF R.bootStatus F.bootStatus_FW_CODE c)

/-- FIRMWARE_LOAD: image 0, then image 1; else the wait for LOAD_FIRMWARE. RESET_N or TEST_N low holds the
package here (R464, R465). -/
def firmwareLoadEff (s : State) : State :=
  if !s.atStep 2 || s.boot.fwWait || !s.pins.resetN || s.boot.testMode then s
  else
    let (c0, s) := s.tryFw (KMap.get [] s.pat.flash 0) 1
    if c0 = 0 then s
    else
      let (c1, s) := s.tryFw (KMap.get [] s.pat.flash 1) 2
      if c1 = 0 then s else { s with boot.fwWait := true }

def loadFirmwareEff (seq : BitVec 16) (s : State) : State :=
  s.mbxRun seq.toNat (s.atStep 2 && s.boot.fwWait) fun s =>
    let (c, s) := s.tryFw s.pat.staging 3
    (s.svcMsix 3).mbxEnd seq.toNat c

/-! ### Steps 5 to 7 (R427, R471) -/

/-- RAIL_GOOD is asserted. At step 5 VSDL, VYOKE and VFAB are set, the fences of the LLCs, ports and engines
open, and the Gussets start. -/
def railGoodEff (s : State) : State :=
  let s : State := { s with pins.railGood := true }
  if !s.atStep 5 || s.boot.railT.isNone then s
  else
    let s : State := { s with boot.railT := none }
    let us := (List.finRange 4).map FenceUnit.llc ++ (List.finRange 8).map FenceUnit.pcie ++ (List.finRange 64).map FenceUnit.bob
    let s := us.foldl (fun s u => (s.setFence u 2).setF (R.fenceCmd u) F.fenceCmd_ON 1) s
    let s := (List.range 4).foldl (fun s t => s.setSaddleState t 0) s
    let s := s.startPorts
    allGusEnds.foldl (fun s e => (s.setF (R.gusStatus e) F.gusStatus_LOCAL_GOOD 0xFFFF).gusStart e 1) s

/-- VREG is reached on RAIL_GOOD: boot stops at step 5 (R471). -/
def State.railLate (s : State) : State :=
  match s.boot.railT with
  | none => s
  | some t =>
    if !s.atStep 5 then s
    else
      let s := s.advance t.due
      let s : State := { s with boot.railT := none }
      (s.err 19 1 3 (bankUnit 19) 0 0 (dlMisc 8 0 0 0 (s.tape - t.due))).bootStop 5

/-- REGION_OK: the Keeper region lies wholly in one ONLINE bolt (R363). -/
def State.showRegion (s : State) : State :=
  let ok := match s.keeperRegion with
    | none => false
    | some (b, n) => match s.boltAt b with
      | none => false
      | some bolt => s.boltState bolt == 1 && decide (b + n ≤ (bolt.base + bolt.size) * 2 ^ 30)
  s.setF R.kprMode F.kprMode_REGION_OK (if ok then 1 else 0)

/-- Step 7: every enabled panel is powered at its target, VON_MV. -/
def State.powerPanels (s : State) : State :=
  let ps := (List.range 12).filter fun p => s.fld (R.hartEn p) F.hartEn_PANEL_EN == 1
  let s : State := { s.setStep 7 with boot.pnlWait := ps }
  ps.foldl (fun s p =>
    let s : State := { s with thm.up := KMap.set 0 p 1 s.thm.up }
    s.pushVout p) s

/-- Step 6 ends once every controller has been trained, or found absent: bolts take their states, and boot goes
on unless none is ONLINE (R274). -/
def State.memReady (s : State) : State :=
  if !s.atStep 6 || allCtlrs.any (fun c => s.fld (R.mcInfo c) F.mcInfo_STATE == 0) then s
  else
    let s := s.setBolts.showRegion
    if s.bolts.any fun b => s.boltState b == 1 then s.powerPanels else s.bootStop 6

/-- A controller's result at step 6: it serves behind an OPEN fence, or has FAILED. -/
def State.trainedAtBoot (s : State) (c : Ctlr) (r : TrainRes) : State :=
  let s := s.trainMc c r
  let u : FenceUnit := .mc c
  let s := if s.mcServes c then (s.setFence u 2).setF (R.fenceCmd u) F.fenceCmd_ON 1 else s
  s.memReady

/-- TRAINING_COMPLETE (R294, R295). -/
def trainingCompleteEff (c : Ctlr) (r : TrainRes) (s : State) : State :=
  if s.atStep 6 && s.fld (R.mcInfo c) F.mcInfo_STATE == 0 then s.trainedAtBoot c r else s.retrained c r

/-! ### Step 8 (R424, R436) -/

/-- A range of bytes lies wholly within one ONLINE bolt and outside the Keeper region. -/
def State.onlineRange (s : State) (a n : Nat) : Bool :=
  (match s.boltAt a with
   | some b => s.boltState b == 1 && decide (a + n ≤ (b.base + b.size) * 2 ^ 30)
   | none => false) &&
    match s.keeperRegion with | some (k, m) => decide (a + n ≤ k) || decide (k + m ≤ a) | none => true

/-- The code of the check that refuses a host firmware image or payload (R424), 0 for none. -/
def State.checkHost (s : State) (l : List Byte) : Nat :=
  let len := le l 16 4
  if len < 32 ∨ l.length < len then 3
  else if seg l 0 4 ≠ ascii "KRNF" then 4
  else if bit (le l 4 4) 0 then (s.sigCheck (l.take len) (seg l len 784)).getD 0
  else if s.otp.hostVerify then 8
  else 0

/-- Where the recovery hypervisor goes: the start of the lowest ONLINE bolt, past a Keeper region that lies
there. DEDUCED (assumption 74). -/
def State.hvPlace (s : State) : Nat :=
  let bs := s.bolts.filter fun b => s.boltState b == 1
  let base := bs.foldl (fun a b => match a with | none => some b.base | some x => some (min x b.base)) none
  let a := base.getD 0 * 2 ^ 30
  match s.keeperRegion with
  | some (k, n) => if k < a + 2 ^ 26 ∧ a < k + n then k + n else a
  | none => a

/-- Harts enabled, in ascending order. -/
def State.allHarts (s : State) : List Nat := ((List.range 12).flatMap panelHarts).filter s.hartOn

/-- DIST of a bolt for a panel, with the default where the entry gives 0 (R276). -/
def State.boltDist (_s : State) (b : Bolt) (p : Nat) : Nat :=
  let given := b.dist.getD p 0
  let steps := (bitsOf 12 b.mask).map fun dev =>
    let x := (p / 3 + 4 - b.saddleOf dev % 4) % 4
    if x = 3 then 1 else x
  if given ≠ 0 then given
  else if b.scope = 1 ∧ steps.any (· != 0) then 255
  else 10 + 6 * steps.foldl max 0 + (match b.kind with | 0 => 0 | 1 => 4 | _ => 12)

/-- The hand-off block (R436). -/
def State.handOffBlock (s : State) : List Byte :=
  let hs := s.allHarts
  let head := ascii "KRHO" ++ leBytes 4 1 ++ leBytes 8 (s.rd R.patId).toNat ++ leBytes 8 (s.rd R.pkgSerial).toNat ++
    leBytes 2 (hs.headD 0) ++ leBytes 2 hs.length ++ leBytes 1 s.bolts.length ++ leBytes 3 0
  let cores := (List.range 12).flatMap fun p => leBytes 4 (s.fld (R.hartEn p) F.hartEn_CORE_EN)
  let bolts := (List.range 64).flatMap fun i => match s.bolts[i]? with
    | none => leBytes 24 0
    | some b => leBytes 4 b.base ++ leBytes 4 b.size ++ leBytes 1 b.kind ++ leBytes 1 b.scope ++ leBytes 1 b.node ++
        leBytes 1 (s.boltState b) ++ (List.range 12).flatMap fun p => leBytes 1 (s.boltDist b p)
  head ++ cores ++ leBytes 2 s.maxPockets ++ leBytes 14 0 ++ bolts

/-- Address of the hand-off block. -/
def State.handOffAt (s : State) : Nat := (s.boot.load + s.boot.len + 4095) / 4096 * 4096

/-- Step 8: the hypervisor and the host firmware are placed, register 6 is extended, the hand-off block is
written, and every enabled hart is released at the hypervisor. -/
def State.enterFitting (s : State) : State :=
  let s := s.setStep 8
  let img := KMap.get [] s.pat.flash 4
  let a := le img 8 8
  let len := le img 16 4
  if s.checkHost img ≠ 0 ∨ !s.onlineRange a len then s.bootStop 8
  else
    let hv := s.hvPlace
    let s : State := { s with boot.hvBase := hv, boot.load := a, boot.len := len, boot.entry := le img 20 4 }
    let s := (s.setList hv s.boot.fwHv).setList a (img.take len)
    let s := s.extendMeas 6 (sha256 (img.take len))
    let s := s.setList s.handOffAt s.handOffBlock
    let s := (List.range 12).foldl (fun s p => s.setF (R.resetVec p) F.resetVec_ADDR (hv / 4)) s
    s.allHarts.foldl State.startHost s

/-- Step 7 ends once every panel that is being powered has opened or been excluded. DEDUCED (assumption 71). -/
def State.panelsReady (s : State) : State :=
  if s.atStep 7 && s.boot.pnlWait.isEmpty then s.enterFitting else s

/-- A panel fails at step 7: it is excluded (R427). -/
def State.dropPanel (s : State) (p : Nat) : State :=
  let s : State := { s with id.excluded := if s.id.excluded.contains p then s.id.excluded else p :: s.id.excluded
                            boot.pnlWait := s.boot.pnlWait.filter (· != p) }
  let s := (s.setF (R.hartEn p) F.hartEn_PANEL_EN 0).railOff p
  s.panelsReady

/-! ### Steps 9 and 10 (R435, R437) -/

/-- Bytes zeroed, but for those `keep` marks. -/
def State.clearBytes (s : State) (a : Nat) (keep : Nat → Bool) : Nat → State
  | 0 => s
  | n + 1 => (if keep (a + n) then s else s.setByte (a + n) 0).clearBytes a keep n

/-- HAND_OFF: the hypervisor clears the memory it used and starts every enabled hart at host firmware ENTRY. A
package already in Service mode, back from DORMANT, is at step 10. DEDUCED (assumption 74). -/
def handOffEff (s : State) : State :=
  if !s.atStep 8 || s.boot.hold || s.boot.payload.isSome then s
  else
    let b := s.handOffAt
    let keep := fun x => (decide (s.boot.load ≤ x) && decide (x < s.boot.load + s.boot.len)) ||
      (decide (b ≤ x) && decide (x < b + 1632))
    let s := s.clearBytes s.boot.hvBase keep s.boot.fwHv.length
    let s := s.allHarts.foldl (fun s h => s.updHart h fun x =>
      { x with w := ({ x.w with priv := 3, virt := false, pc := BitVec.ofNat 64 (s.boot.load + s.boot.entry) }.setX 10
                      (BitVec.ofNat 64 h)).setX 11 (BitVec.ofNat 64 b) }) s
    s.setStep (if s.service then 10 else 9)

/-- Every assignable block passes to the host world. -/
def State.hostOwners (s : State) : State :=
  let own := fun (s : State) (r : Reg) => s.wr r 0x8000000000000000
  let s := (List.range 12).foldl (fun s p => own s (R.panelOwner (p / 3) (p % 3))) s
  let s := (List.range 512).foldl (fun s i => own s (R.chOwner (i / 8) (i % 8))) s
  let s := (List.range 1024).foldl (fun s i => own (own s (R.cqOwner i)) (R.rqOwner i)) s
  (List.range 384).foldl (fun s h => (List.range 7).foldl (fun s g => own s (R.imsicOwner (8 * h + g + 1))) s) s

/-- The change to Service mode (R437). -/
def State.toService (s : State) : State :=
  if !s.atStep 9 || s.service then s
  else
    let s := (s.hostOwners.extendMeas 7 (sha256 (ascii "SERVICE"))).setStep 10
    s.setF R.kprMode F.kprMode_SERVICE 1

/-- SERVICE_REQ (R437). -/
def serviceReqEff (a : Agent) (s : State) : State := s.ctlGuard a R.serviceReq.addr fun s => (s.toService, .ok)

/-! ### Mailbox commands (R425, R426) -/

/-- The Keeper's firmware runs: a boot step after 2. -/
def State.fwRuns (s : State) : Bool := decide (3 ≤ s.bootStep)

/-- An authorised command (R426): its body and signature block stand in the argument area. `f` gives its result
and the state after it. -/
def State.mbxAuth (s : State) (seq code : Nat) (allowed : Bool) (f : Nat → List Byte → State → Nat × State) : State :=
  s.mbxRun seq allowed fun s =>
    let body := s.mbxArg 0 64
    let block := s.mbxArg 64 784
    if le body 0 2 ≠ code ∨ le body 8 8 ≠ (s.rd R.mbxNonce).toNat ∨ le body 16 8 ≠ (s.rd R.pkgSerial).toNat ∨
        (s.sigCheck body block).isSome then s.mbxEnd seq 0x81
    else
      let (r, s) := f (le block 0 1) (seg body 24 40) s
      (if r = 0x81 then s else s.newNonce).mbxEnd seq r

def setFabricKeyEff (seq : BitVec 16) (s : State) : State :=
  s.mbxAuth seq.toNat 0x10 s.fwRuns fun _ arg s =>
    let k := leNat (seg arg 0 32)
    let s : State := { s with otp.fabricKey := some k, boot.fabKey := some k }
    (0, s.setF R.fuseState F.fuseState_FABRIC_KEY 1)

def ownerKeyEff (seq : BitVec 16) (s : State) : State :=
  s.mbxAuth seq.toNat 0x11 true fun _ arg s =>
    let k := le arg 0 1
    if k < 1 ∨ 4 < k ∨ s.slotProgrammed k then (0x80, s)
    else (0, ({ s with otp.keys := KMap.insert k (leNat (seg arg 8 32)) s.otp.keys } : State).showFuses)

/-- REVOKE: never of the slot that signs, and only while another slot may still sign (R419). -/
def revokeEff (seq : BitVec 16) (s : State) : State :=
  s.mbxAuth seq.toNat 0x12 true fun signer arg s =>
    let k := le arg 0 1
    let others := (List.range 5).filter fun i => i != k && s.slotSigns i
    if k = signer then (0x81, s)
    else if 4 < k ∨ others.isEmpty ∨ (k = 0 ∧ others.all (· == 0)) then (0x80, s)
    else (0, ({ s with otp.revoked := if s.otp.revoked.contains k then s.otp.revoked else k :: s.otp.revoked } : State).showFuses)

def rollbackEff (seq : BitVec 16) (s : State) : State :=
  s.mbxAuth seq.toNat 0x13 true fun _ arg s =>
    let v := min 64 (le arg 1 1)
    match le arg 0 1 with
    | 0 => (0, ({ s with otp.fwRoll := max s.otp.fwRoll v } : State).showFuses)
    | 1 => (0, ({ s with otp.patRoll := max s.otp.patRoll v } : State).showFuses)
    | _ => (0x80, s)

def hostVerifyEff (seq : BitVec 16) (s : State) : State :=
  s.mbxAuth seq.toNat 0x14 true fun _ _ s => (0, ({ s with otp.hostVerify := true } : State).showFuses)

/-- The registers of measurement as 512 bytes. -/
def State.allMeas (s : State) : List Byte := (List.range 16).flatMap s.measBytes

/-- A quote over a nonce (R433): its signature, randomly salted, is a free value. -/
def State.quoteOver (s : State) (nonce : Nat) : List Byte × State :=
  let body := ascii "KRNQ" ++ leBytes 4 1 ++ leBytes 8 (s.rd R.pkgSerial).toNat ++ leBytes 32 nonce ++ s.allMeas ++
    leBytes 8 (s.rd R.patSeq).toNat ++ leBytes 8 s.tape
  let (sig, s) := s.randomBytes 384
  (body ++ sig, s)

def quoteEff (seq : BitVec 16) (nonce : BitVec 256) (s : State) : State :=
  s.mbxRun seq.toNat s.fwRuns fun s =>
    let (q, s) := s.quoteOver nonce.toNat
    (s.mbxReply 0 q).mbxEnd seq.toNat 0

def extendEff (seq : BitVec 16) (n : BitVec 8) (digest : BitVec 256) (s : State) : State :=
  s.mbxRun seq.toNat s.fwRuns fun s =>
    if n.toNat < 8 ∨ 15 < n.toNat then s.mbxEnd seq.toNat 0x80
    else (s.extendMeas n.toNat (leBytes 32 digest.toNat)).mbxEnd seq.toNat 0

/-- WARM_RESET: no reply. -/
def warmResetEff (seq : BitVec 16) (s : State) : State :=
  if !s.pins.vstby then s else s.mbxRun seq.toNat true State.warmAll

/-! ### Fitting (R435) -/

def fittingEff (seq : BitVec 16) (hold : Bool) (s : State) : State :=
  s.mbxRun seq.toNat (decide (2 ≤ s.bootStep) && decide (s.bootStep ≤ 8)) fun s =>
    { s with boot.hold := hold }.mbxEnd seq.toNat 0

/-- RUN_PAYLOAD: the staged image is placed and runs in VS on every enabled hart. -/
def runPayloadEff (seq : BitVec 16) (s : State) : State :=
  s.mbxRun seq.toNat (s.atStep 8 && s.boot.hold) fun s =>
    let l := s.pat.staging
    let a := le l 8 8
    let len := le l 16 4
    let c := s.checkHost l
    if c ≠ 0 then (s.svcMsix 3).mbxEnd seq.toNat c
    else if !s.onlineRange a len then (s.svcMsix 3).mbxEnd seq.toNat 0x80
    else
      let hs := s.allHarts
      let s := s.setList a (l.take len)
      let s := hs.foldl (fun s h => s.updHart h fun x =>
        { x with mode := .run, wait := .none
                 w := { x.w with priv := 1, virt := true, pc := BitVec.ofNat 64 (a + le l 20 4) } }) s
      let s : State := { s with boot.payload := some { seq := seq.toNat, t := s.timer 18 2, harts := hs } }
      (s.svcMsix 3).mbxBegin seq.toNat

/-- The reply area of a payload: a0 and STATUS of each enabled hart. -/
def State.payloadReply (s : State) (p : Payload) : State :=
  let hs := s.allHarts
  (List.range hs.length).foldl (fun s k =>
    let h := hs.getD k 0
    match p.a0.find? fun e => e.1 == h with
    | some e => s.mbxReply (16 * k) (leBytes 8 e.2.toNat ++ leBytes 8 0)
    | none => s.mbxReply (16 * k) (leBytes 8 0 ++ leBytes 8 1)) s

/-- PAYLOAD_ECALL: a hart's ecall from VS reaches the hypervisor in M. -/
def payloadEcallEff (h : HartId) (s : State) : State :=
  match s.boot.payload with
  | none => s
  | some p =>
    let x := s.hart h.num
    if !p.harts.contains h.num || !x.w.virt || x.w.priv != 1 then s
    else
      let p := { p with harts := p.harts.filter (· != h.num), a0 := p.a0 ++ [(h.num, x.w.xr 10)] }
      let s := s.trap h.num 10
      if p.harts.isEmpty then ({ s with boot.payload := none }.payloadReply p).mbxEnd p.seq 0
      else { s with boot.payload := some p }

/-- The IOC deadline of RUN_PAYLOAD is reached: the hypervisor takes back every hart that still runs. -/
def State.payloadLate (s : State) : State :=
  match s.boot.payload with
  | none => s
  | some p =>
    let s := s.advance p.t.due
    let s := s.err 18 1 3 (bankUnit 18) 0 0 (dlMisc 2 0 0 0xFF (s.tape - p.t.due))
    let s := p.harts.foldl (fun s h => s.updHart h fun x => { x with w := { x.w with priv := 3, virt := false } }) s
    ({ s with boot.payload := none }.payloadReply p).mbxEnd p.seq 0x85

/-! ### RESET_SADDLE (R430) -/

/-- REASONs 2 and 4 of R402 on a saddle: a panel of it not OFF; a saddle of its partition not OFF. -/
def State.saddleReason (s : State) (sd : Nat) : Option Nat :=
  if (List.range 3).any fun t => s.panelState (3 * sd + t) != 2 then some 2
  else if (s.partitionSaddles sd).any fun t => t != sd && s.saddleState t != 2 then some 4
  else none

/-- The saddle's Gusset ends, controllers and slices return to their reset state. -/
def State.scrubSaddle (s : State) (sd : Nat) : State :=
  let cs := sdCtlrs sd
  let s := cs.foldl (fun s c =>
    let s := s.resetClose (.mc c)
    let rs := [R.mcInfo c, R.mcTherm c, R.mcRefresh c, R.mcParam c, R.mcScrubBase c, R.mcScrubLimit c, R.mcScrubCtl c,
      R.mcScrubSum0 c, R.mcScrubSum1 c, R.mcScrubFirst c, R.mcScrubLast c, R.mcScrubTapeStart c, R.mcScrubTapeEnd c]
    let s := rs.foldl (fun s r => s.wr r r.reset) s
    { s with mcs := KMap.erase c.num s.mcs }) s
  let s := (List.range 24).foldl (fun s k => { s with slices := KMap.erase (24 * sd + k) s.slices }) s
  (allGusEnds.filter fun e => match e with | .saddle t _ => t.val == sd | .yoke _ => false).foldl (fun s e =>
    let s := [R.gusStatus e, R.gusRepair e, R.gusCtl e].foldl (fun s r => s.wr r r.reset) s
    { s with gus := KMap.erase e.num s.gus }) s

def resetSaddleEff (seq : BitVec 16) (sd : Saddle) (strapOk : Bool) (s : State) : State :=
  s.mbxRun seq.toNat s.service fun s =>
    let n := sd.val
    if (s.saddleReason n).isSome || s.saddleState n != 2 then s.mbxEnd seq.toNat 0x80
    else
      let s := (s.scrubSaddle n).refreshAllow.refreshBolts
      let mine := allGusEnds.filter fun e => match e with | .saddle t _ => t.val == n | .yoke _ => false
      let peers := mine.filterMap GusEnd.peer
      if strapOk then
        let s := s.configSaddle n
        let s := (sdCtlrs n).foldl State.configMc s
        let s := mine.foldl (fun s e => (s.setF (R.gusStatus e) F.gusStatus_LOCAL_GOOD 0xFFFF).gusStart e 1) s
        (peers.foldl (fun s e => if s.gusState e = 0 then s else s.gusReopen e) s).mbxEnd seq.toNat 0
      else
        let s : State := { s with id.dieHeld := saddlePos n :: s.id.dieHeld }
        let s := s.err 16 1 5 (unitCode 0x01 n) 0 0 (protoMisc 1 2)
        let s := s.setFbit R.pkgId F.pkgId_SADDLE_OK n false
        let s := peers.foldl (fun s e => (s.setF (R.gusStatus e) F.gusStatus_STATE 0).updGus e fun g => { g with n := 0, phase := 0, t := none }) s
        s.mbxEnd seq.toNat 0x80

/-! ### SPDM (R376, R432) -/

/-- An SPDM response is sent. PRESUMED (assumption 66). -/
def State.spdmSend (s : State) (l : List Byte) : State := { s with boot.certs := l :: s.boot.certs }

/-- ERROR, with its code and data. -/
def State.spdmError (s : State) (code : Nat) (data : Nat := 0) : State :=
  s.spdmSend (leBytes 1 0x12 ++ leBytes 1 0x7F ++ leBytes 1 code ++ leBytes 1 data)

/-- A request is answered once the exchanges before it have been made, else with UnexpectedRequest.
PRESUMED (assumption 66). -/
def State.spdmAt (s : State) (need : Nat) (f : State → State) : State :=
  if !s.fwRuns then s else if need ≤ s.boot.spdm then f s else s.spdmError 4

/-- VERSION: one entry, 1.2. The exchanges start again. -/
def getVersionEff (s : State) : State :=
  s.spdmAt 0 fun s => { s with boot.spdm := 1 }.spdmSend
    (leBytes 1 0x10 ++ leBytes 1 0x04 ++ leBytes 3 0 ++ leBytes 1 1 ++ leBytes 2 0x1200)

/-- CAPABILITIES: certificates, challenge, and signed measurements of the running registers.
PRESUMED (assumption 66). -/
def getCapabilitiesEff (s : State) : State :=
  s.spdmAt 1 fun s => { s with boot.spdm := max 2 s.boot.spdm }.spdmSend
    (leBytes 1 0x12 ++ leBytes 1 0x61 ++ leBytes 2 0 ++ leBytes 2 0 ++ leBytes 2 0 ++ leBytes 4 0x16 ++ leBytes 4 16384 ++
      leBytes 4 16384)

/-- ALGORITHMS: TPM_ALG_RSAPSS_3072 and SHA-256 for signatures and measurements. PRESUMED (assumption 66). -/
def negotiateAlgorithmsEff (s : State) : State :=
  s.spdmAt 2 fun s => { s with boot.spdm := 3 }.spdmSend
    (leBytes 1 0x12 ++ leBytes 1 0x63 ++ leBytes 2 0 ++ leBytes 2 36 ++ leBytes 1 1 ++ leBytes 1 0 ++ leBytes 4 1 ++
      leBytes 4 0x20 ++ leBytes 4 1 ++ leBytes 16 0)

/-- The digest of slot 0's chain. PRESUMED (assumption 66). -/
def certDigest : List Byte := sha256 Config.certChain

def getDigestsEff (s : State) : State :=
  s.spdmAt 3 fun s => s.spdmSend (leBytes 1 0x12 ++ leBytes 1 0x01 ++ leBytes 1 0 ++ leBytes 1 1 ++ certDigest)

/-- GET_CERTIFICATE: a portion of slot 0's chain; no other slot is provisioned. -/
def getCertificateEff (slot : BitVec 8) (off len : BitVec 16) (s : State) : State :=
  s.spdmAt 3 fun s =>
    let c := Config.certChain
    if slot.toNat % 16 ≠ 0 ∨ c.length ≤ off.toNat then s.spdmError 1
    else
      let part := (c.drop off.toNat).take (min len.toNat 16376)
      s.spdmSend (leBytes 1 0x12 ++ leBytes 1 0x02 ++ leBytes 1 0 ++ leBytes 1 0 ++ leBytes 2 part.length ++
        leBytes 2 (c.length - off.toNat - part.length) ++ part)

/-- CHALLENGE_AUTH, signed by the identity key: nonce and signature are free values. -/
def challengeEff (slot : BitVec 8) (_nonce : BitVec 256) (s : State) : State :=
  s.spdmAt 3 fun s =>
    if slot.toNat % 16 ≠ 0 then s.spdmError 1
    else
      let (n, s) := s.randomBytes 32
      let (sig, s) := s.randomBytes 384
      let sum := sha256 s.allMeas
      let hd := leBytes 1 0x12 ++ leBytes 1 0x03 ++ leBytes 1 0 ++ leBytes 1 1 ++ certDigest ++ n ++ sum ++ leBytes 2 0
      s.spdmSend (hd ++ sig)

/-- DMTF value type of a measurement index (R432). PRESUMED (assumption 66). -/
def measType (n : Nat) : Nat :=
  if n = 1 then 0 else if n = 2 ∨ n = 7 then 1 else if n = 3 ∨ n = 4 then 2 else 3

/-- A measurement block: index, SHA-256 digest of register n - 1. -/
def State.measBlock (s : State) (n : Nat) : List Byte :=
  leBytes 1 n ++ leBytes 1 1 ++ leBytes 2 35 ++ leBytes 1 (measType n) ++ leBytes 2 32 ++ s.measBytes (n - 1)

/-- GET_MEASUREMENTS: one register, or all 16, signed as one set. -/
def getMeasurementsEff (index : BitVec 8) (_nonce : BitVec 256) (s : State) : State :=
  s.spdmAt 3 fun s =>
    let i := index.toNat
    if i ≠ 0 ∧ i ≠ 0xFF ∧ 16 < i then s.spdmError 1
    else
      let ns := if i = 0 then [] else if i = 0xFF then (List.range 16).map (· + 1) else [i]
      let blocks := ns.flatMap s.measBlock
      let (n, s) := s.randomBytes 32
      let (sig, s) := s.randomBytes 384
      let hd := leBytes 1 0x12 ++ leBytes 1 0x60 ++ leBytes 1 (if i = 0 then 16 else 0) ++ leBytes 1 0 ++
        leBytes 1 ns.length ++ leBytes 3 blocks.length ++ blocks ++ n ++ leBytes 2 0
      s.spdmSend (hd ++ sig)

def execTrainingComplete (c : Ctlr) (r : TrainRes) (s : State) : Host.Outcome State Fault Refusal :=
  .next (trainingCompleteEff c r s)
def execSvcPerstN (s : State) : Host.Outcome State Fault Refusal :=
  .next (svcPerstNEff s)
def execColdReset (straps : BitVec 2) (resetN testN : Bool) (s : State) : Host.Outcome State Fault Refusal :=
  .next (coldResetEff straps resetN testN s)
def execFirmwareLoad (s : State) : Host.Outcome State Fault Refusal :=
  .next (firmwareLoadEff s)
def execLoadFirmware (seq : BitVec 16) (s : State) : Host.Outcome State Fault Refusal :=
  .next (loadFirmwareEff seq s)
def execRailGood (s : State) : Host.Outcome State Fault Refusal :=
  .next (railGoodEff s)
def execHandOff (s : State) : Host.Outcome State Fault Refusal :=
  .next (handOffEff s)
def execServiceReq (a : Agent) (s : State) : Host.Outcome State Fault Refusal :=
  .next (serviceReqEff a s)
def execQuote (seq : BitVec 16) (nonce : BitVec 256) (s : State) : Host.Outcome State Fault Refusal :=
  .next (quoteEff seq nonce s)
def execExtend (seq : BitVec 16) (n : BitVec 8) (digest : BitVec 256) (s : State) : Host.Outcome State Fault Refusal :=
  .next (extendEff seq n digest s)
def execResetSaddle (seq : BitVec 16) (sd : Saddle) (strapOk : Bool) (s : State) : Host.Outcome State Fault Refusal :=
  .next (resetSaddleEff seq sd strapOk s)
def execFitting (seq : BitVec 16) (hold : Bool) (s : State) : Host.Outcome State Fault Refusal :=
  .next (fittingEff seq hold s)
def execRunPayload (seq : BitVec 16) (s : State) : Host.Outcome State Fault Refusal :=
  .next (runPayloadEff seq s)
def execPayloadEcall (h : HartId) (s : State) : Host.Outcome State Fault Refusal :=
  .next (payloadEcallEff h s)
def execWarmReset (seq : BitVec 16) (s : State) : Host.Outcome State Fault Refusal :=
  .next (warmResetEff seq s)
def execPackageWarmReset (s : State) : Host.Outcome State Fault Refusal :=
  .next (packageWarmResetEff s)
def execResetN (lowNs : BitVec 32) (rises : Bool) (s : State) : Host.Outcome State Fault Refusal :=
  .next (resetNEff lowNs rises s)
def execSetFabricKey (seq : BitVec 16) (s : State) : Host.Outcome State Fault Refusal :=
  .next (setFabricKeyEff seq s)
def execOwnerKey (seq : BitVec 16) (s : State) : Host.Outcome State Fault Refusal :=
  .next (ownerKeyEff seq s)
def execRevoke (seq : BitVec 16) (s : State) : Host.Outcome State Fault Refusal :=
  .next (revokeEff seq s)
def execRollback (seq : BitVec 16) (s : State) : Host.Outcome State Fault Refusal :=
  .next (rollbackEff seq s)
def execHostVerify (seq : BitVec 16) (s : State) : Host.Outcome State Fault Refusal :=
  .next (hostVerifyEff seq s)
def execGetVersion (s : State) : Host.Outcome State Fault Refusal :=
  .next (getVersionEff s)
def execGetCapabilities (s : State) : Host.Outcome State Fault Refusal :=
  .next (getCapabilitiesEff s)
def execNegotiateAlgorithms (s : State) : Host.Outcome State Fault Refusal :=
  .next (negotiateAlgorithmsEff s)
def execGetDigests (s : State) : Host.Outcome State Fault Refusal :=
  .next (getDigestsEff s)
def execGetCertificate (slot : BitVec 8) (off len : BitVec 16) (s : State) : Host.Outcome State Fault Refusal :=
  .next (getCertificateEff slot off len s)
def execChallenge (slot : BitVec 8) (nonce : BitVec 256) (s : State) : Host.Outcome State Fault Refusal :=
  .next (challengeEff slot nonce s)
def execGetMeasurements (index : BitVec 8) (nonce : BitVec 256) (s : State) : Host.Outcome State Fault Refusal :=
  .next (getMeasurementsEff index nonce s)
def execSupplyLost (s : State) : Host.Outcome State Fault Refusal :=
  .next (supplyLostEff s)
def execVstbyLoss (s : State) : Host.Outcome State Fault Refusal :=
  .next (vstbyLossEff s)

end Sys2Proof.Machine
end

