-- ==== Sys2Proof/Machine/CsrOps.lean ====
section
/-! DEFINITION. The CSRs of a hart (R82-R85, R102-R113, R447-R451): which exist, who may reach them, what a
read gives and a write sets. The layouts of the standard CSRs are the RISC-V specifications' (R82). -/

namespace Sys2Proof.Machine

/-! ### Which CSRs exist -/

/-- Bits of mstatus that software writes: MIE, SIE, their PIEs, SPP, MPP, VS, FS, MPRV, SUM, MXR, TVM, TW, TSR, GVA, MPV. -/
def mstatusMask : Nat := 0xC0007E7FAA
/-- The part of mstatus that sstatus shows: also UXL and SD (read-only). -/
def sstatusMask : Nat := 0xC6762
/-- Local interrupts of the S level: SSI, STI, SEI, the counter overflow 13, the imprecise store error 24. -/
def sIntMask : Nat := 0x1002222
/-- Interrupts of VS: VSSI, VSTI, VSEI, and the guest external interrupt. -/
def vsIntMask : Nat := 0x1444
/-- Fields of mhpmevent (R447). -/
def hpmEventMask : Nat := 0xFC001FFF3FFFFFFF
/-- Fields of mstateen0: C, CONTEXT, IMSIC, AIA, CSRIND, ENVCFG, SE0. -/
def stateenMask : Nat := 0xDE00000000000001

/-- Bits that software writes of a standard CSR; `none` where the number names none. PRESUMED (assumption 9). -/
def csrMask (n : Nat) : Option Nat :=
  let all := 2 ^ 64 - 1
  match n with
  | 0x001 => some 0x1F | 0x002 => some 7 | 0x003 => some 0xFF
  | 0x008 => some 0x1FF | 0x009 => some 1 | 0x00A => some 3 | 0x00F => some 7
  | 0x100 => some 0xC6722 | 0x104 => some sIntMask | 0x105 => some (all - 2) | 0x106 => some 0x7FF
  | 0x10A => some 0x3000000F1 | 0x10C => some 1 | 0x10D => some 0 | 0x10E => some 0 | 0x10F => some 0
  | 0x140 => some all | 0x141 => some (all - 1) | 0x142 => some all | 0x143 => some all | 0x144 => some 0x2002
  | 0x14D => some all | 0x150 => some 0x1FF | 0x151 => some all | 0x15C => some all | 0x180 => some all
  | 0x200 => some 0xC6722 | 0x204 => some 0x222 | 0x205 => some (all - 2) | 0x240 => some all | 0x241 => some (all - 1)
  | 0x242 => some all | 0x243 => some all | 0x244 => some 2 | 0x24D => some all | 0x250 => some 0x1FF | 0x251 => some all
  | 0x25C => some all | 0x280 => some all
  | 0x300 => some mstatusMask | 0x301 => some 0 | 0x302 => some 0xF0B7FF | 0x303 => some sIntMask
  | 0x304 => some (sIntMask + vsIntMask + 0x888) | 0x305 => some (all - 2) | 0x306 => some 0x7FF
  | 0x308 => some 0 | 0x309 => some 0 | 0x30A => some 0xE0000003000000F1
  | 0x30C => some stateenMask | 0x30D => some (2 ^ 63) | 0x30E => some (2 ^ 63) | 0x30F => some (2 ^ 63)
  | 0x320 => some 0x7FD | 0x340 => some all | 0x341 => some (all - 1) | 0x342 => some all | 0x343 => some all
  | 0x344 => some 0x2226 | 0x34A => some all | 0x34B => some all | 0x350 => some 0x1FF | 0x351 => some all
  | 0x35C => some all
  | 0x600 => some 0x30000007003C0 | 0x602 => some 0xB1FF | 0x603 => some 0x444 | 0x604 => some vsIntMask | 0x605 => some all
  | 0x606 => some 0x7FF | 0x607 => some 0xFE | 0x608 => some 0 | 0x609 => some 0x4FFF03FF | 0x60A => some 0xE0000003000000F1
  | 0x60C => some stateenMask | 0x60D => some (2 ^ 63) | 0x60E => some (2 ^ 63) | 0x60F => some (2 ^ 63)
  | 0x643 => some all | 0x644 => some 4 | 0x645 => some 0x444 | 0x646 => some 0 | 0x647 => some 0 | 0x64A => some all
  | 0x680 => some all | 0x747 => some 7
  | 0x5A8 => some 0xFFFFFFFF | 0x6A8 => some 0x7FFF | 0x7A0 => some 0xF | 0x7A1 => some all | 0x7A2 => some all | 0x7A3 => some all
  | 0x7A4 => some 0 | 0x7A5 => some 0x88 | 0x7A8 => some 0x7FFF
  | 0xC20 => some 0 | 0xC21 => some 0 | 0xC22 => some 0 | 0xDA0 => some 0 | 0xDB0 => some 0 | 0xE12 => some 0 | 0xEB0 => some 0
  | 0xF11 => some 0 | 0xF12 => some 0 | 0xF13 => some 0 | 0xF14 => some 0 | 0xF15 => some 0 | 0xFB0 => some 0
  | n =>
    if 0x323 ≤ n ∧ n < 0x32B then some hpmEventMask
    else if 0x32B ≤ n ∧ n < 0x340 then some 0
    else if 0x3A0 ≤ n ∧ n < 0x3B0 then (if n % 2 = 0 then some all else none)
    else if 0x3B0 ≤ n ∧ n < 0x3F0 then some (2 ^ 54 - 1)
    else if n = 0xB00 ∨ n = 0xB02 ∨ (0xB03 ≤ n ∧ n < 0xB0B) then some all
    else if 0xB0B ≤ n ∧ n < 0xB20 then some 0
    else if 0xC00 ≤ n ∧ n < 0xC20 then some 0
    else none

/-- In V, S-level numbers name the VS copies. -/
def vsNumber (w : World) (n : Nat) : Nat :=
  if w.virt && [0x100, 0x104, 0x105, 0x140, 0x141, 0x142, 0x143, 0x144, 0x14D, 0x150, 0x151, 0x15C, 0x180].contains n then n + 0x100
  else n

/-- The bits of mstateen0 and hstateen0 that gate a CSR below M, if any. -/
def stateenBit (n : Nat) : Option Nat :=
  match n with
  | 0x10A => some 62 | 0x60A => some 62 | 0x10C => some 63 | 0x60C => some 63
  | 0x150 => some 60 | 0x151 => some 60 | 0x250 => some 60 | 0x251 => some 60 | 0x15C => some 58 | 0x25C => some 58
  | 0x609 => some 59 | 0xDB0 => some 59 | 0x5A8 => some 57 | 0x6A8 => some 57
  | _ => none

/-- The exception an access to a standard CSR raises (R82, R83, R357, the privileged specification).
DESIGN CHOICE (assumption 30). -/
def World.stdCheck (w : World) (n : Nat) (write : Bool) : Option Nat :=
  let lvl := n / 256 % 4
  let host := w.csrVal csr_skpocket == 0
  let gate := fun c : Nat => match stateenBit n with | some b => !bit (w.csrVal c).toNat b | none => false
  if (csrMask n).isNone then some causeIllegal
  else if write && decide (0xC00 ≤ n) then some causeIllegal
  else if !host && lvl == 2 then some causeIllegal
  else if w.virt && lvl == 2 then some causeVirtual
  else if w.virt && lvl == 1 && w.priv == 0 then some causeVirtual
  else if (lvl == 3 && decide (w.priv < 3)) || (lvl != 0 && w.priv == 0) then some causeIllegal
  else if decide (n ≤ 3) && w.isOff 13 then some causeIllegal
  else if (n == 8 || n == 9 || n == 0xA || n == 0xF) && w.isOff 9 then some causeIllegal
  else if host && decide (w.priv < 3) && gate 0x30C then some causeIllegal
  else if w.virt && gate 0x60C then some causeVirtual
  else if (n == 0x180 || n == 0x680) && w.priv == 1 && !w.virt && bit (w.csrVal 0x300).toNat 20 then some causeIllegal
  else if n == 0x180 && w.virt && bit (w.csrVal 0x600).toNat 20 then some causeVirtual
  else if host && n == 0x14D && decide (w.priv < 3) && !(bit (w.csrVal 0x30A).toNat 63 && bit (w.csrVal 0x306).toNat 1) then
    some causeIllegal
  else if n == 0x14D && w.virt && !(bit (w.csrVal 0x60A).toNat 63 && bit (w.csrVal 0x606).toNat 1) then some causeVirtual
  else none

/-! ### Interrupt files behind the indirect CSRs (R377, the AIA) -/

/-- The interrupt file a select CSR reaches: M 0, S 1 (a pocket's assigned guest file), VS the guest file of VGEIN. -/
def State.fileOf (s : State) (h : Nat) (n : Nat) : Option Nat :=
  let x := s.hart h
  if n = 0x350 then some 0
  else if n = 0x150 then
    if x.pocket = 0 then some 1
    else (s.guestFile h x.pocket.toNat).map (1 + ·)
  else
    let g := bitsAt (x.w.csrVal 0x600) 12 6
    if g = 0 then none else some (1 + g)

def State.file (s : State) (h f : Nat) : FileSt := KMap.get {} s.files (16 * h + f)

/-- An interrupt file has changed: its level-sensitive signal follows. -/
def State.setFile (s : State) (h f : Nat) (x : FileSt) : State :=
  let s : State := { s with files := KMap.set {} (16 * h + f) x s.files }
  if x.signals then s.fileSignal h f
  else
    let b := if f = 0 then 11 else 9
    if 2 ≤ f ∧ (s.hart h).pocket = 0 then
      let v := setBits ((s.hart h).w.csrVal 0xE12) (f - 1) 1 0
      let s := s.setCsr h 0xE12 v
      if bitsAt ((s.hart h).w.csrVal 0x600) 12 6 = f - 1 then s.setCsr h 0x344 (setBits (s.csr h 0x344) 10 1 0) else s
    else s.setCsr h 0x344 (setBits (s.csr h 0x344) b 1 0)

/-- The identity an interrupt file names first. -/
def FileSt.top (x : FileSt) : Nat :=
  ((List.range 256).find? fun i =>
    i != 0 && (x.thr == 0 || decide (i < x.thr)) && x.eip.getLsbD i && x.eie.getLsbD i).getD 0

/-- Identities `64 i` to `64 i + 63` of a file's register. -/
def word64 (v : BitVec 256) (i : Nat) : Nat := v.toNat >>> (64 * i) % 2 ^ 64
def setWord64 (v : BitVec 256) (i n : Nat) : BitVec 256 :=
  BitVec.ofNat 256 ((v.toNat - word64 v i <<< (64 * i) + (n % 2 ^ 64) <<< (64 * i)) / 2 * 2)

/-- An indirect register of a file: eidelivery 0x70, eithreshold 0x72, eip0 0x80, eie0 0xC0; the rest read 0.
PRESUMED (assumption 90). -/
def FileSt.get (x : FileSt) (sel : Nat) : Nat :=
  if sel = 0x70 then x.dlv
  else if sel = 0x72 then x.thr
  else if 0x80 ≤ sel ∧ sel < 0x88 ∧ sel % 2 = 0 then word64 x.eip ((sel - 0x80) / 2)
  else if 0xC0 ≤ sel ∧ sel < 0xC8 ∧ sel % 2 = 0 then word64 x.eie ((sel - 0xC0) / 2)
  else 0
def FileSt.put (x : FileSt) (sel v : Nat) : FileSt :=
  if sel = 0x70 then { x with dlv := if v = 1 then 1 else 0 }
  else if sel = 0x72 then { x with thr := v % 256 }
  else if 0x80 ≤ sel ∧ sel < 0x88 ∧ sel % 2 = 0 then { x with eip := setWord64 x.eip ((sel - 0x80) / 2) v }
  else if 0xC0 ≤ sel ∧ sel < 0xC8 ∧ sel % 2 = 0 then { x with eie := setWord64 x.eie ((sel - 0xC0) / 2) v }
  else x

/-! ### Reads -/

/-- mkfeat of a hart (R105). -/
def State.mkfeat (s : State) (h : Nat) : Word :=
  let p := h / 32
  let b0 := s.panelB0 p
  BitVec.ofNat 64 (s.fld R.pkgId F.pkgId_PKG_LEVEL <<< 52 + s.fld (R.pnlDieId p) F.pnlDieId_FEAT_LEVEL <<< 48 +
    s.fld (R.pnlDieId p) F.pnlDieId_STEPPING <<< 44 + s.fld R.pkgId F.pkgId_CORES_PER_PANEL <<< 32 + 0x70000 +
    (if b0 then 0x300 else 0))

/-- A status register with SD as its FS and VS give it. -/
def withSd (v : Word) : Word := setBits v 63 1 (if bitsAt v 13 2 = 3 ∨ bitsAt v 9 2 = 3 then 1 else 0)

/-- The S-level interrupts a world's sie and sip show: those delegated; all of them in a pocket (R357). -/
def World.sInts (w : World) : Nat :=
  if w.csrVal csr_skpocket ≠ 0 then sIntMask else (w.csrVal 0x303).toNat &&& sIntMask

/-- VS-level interrupts as vsie and vsip show them, one place down, where hideleg delegates them. -/
def World.vsInts (w : World) (n : Nat) : Nat := ((w.csrVal n &&& w.csrVal 0x603).toNat &&& 0x444) / 2

/-- The highest interrupt of a set, as mtopi and stopi name it, with priority 1. PRESUMED (assumption 11). -/
def topInt (v : Nat) : Nat :=
  match ([11, 3, 7, 9, 1, 5, 12, 10, 2, 6, 13, 24].find? fun n => bit v n) with
  | some n => n <<< 16 + 1
  | none => 0

/-- Key of a trigger register: 0-2 stand for tdata1-3 (R457). -/
def trigKey (w : World) (i : Nat) : Nat := 0x10000 + 4 * bitsAt (w.csrVal 0x7A0) 0 4 + i
/-- Type of a trigger: eight mcontrol6, then icount, itrigger and etrigger (R82). -/
def trigType (t : Nat) : Nat := match t with | 8 => 3 | 9 => 4 | 10 => 5 | _ => 6

/-- What a read of a CSR gives in the world a hart runs. PRESUMED (assumption 9). -/
def State.csrGet (s : State) (h n0 : Nat) : Word :=
  let w := (s.hart h).w
  let n := vsNumber w n0
  let v := w.csrVal n
  match n with
  | 0x001 => w.csrVal 3 &&& 0x1F
  | 0x002 => BitVec.ofNat 64 (bitsAt (w.csrVal 3) 5 3)
  | 0x00F => BitVec.ofNat 64 (2 * (w.csrVal 0xA).toNat + (w.csrVal 9).toNat)
  | 0x100 => withSd (w.csrVal 0x300) &&& BitVec.ofNat 64 (sstatusMask + 2 ^ 63 + 3 * 2 ^ 32)
  | 0x200 => withSd v
  | 0x300 => withSd v
  | 0x104 => w.csrVal 0x304 &&& BitVec.ofNat 64 w.sInts
  | 0x144 => w.csrVal 0x344 &&& BitVec.ofNat 64 w.sInts
  | 0x204 => BitVec.ofNat 64 (w.vsInts 0x304)
  | 0x244 => BitVec.ofNat 64 (w.vsInts 0x344)
  | 0x604 => w.csrVal 0x304 &&& BitVec.ofNat 64 vsIntMask
  | 0x644 => w.csrVal 0x344 &&& BitVec.ofNat 64 vsIntMask
  | 0xC00 => w.csrVal 0xB00
  | 0xC01 => BitVec.ofNat 64 s.tape + (if w.virt then w.csrVal 0x605 else 0)
  | 0xC02 => w.csrVal 0xB02
  | 0xDA0 => BitVec.ofNat 64 (ofBits (((List.range 8).map (3 + ·)).filter fun k => bit (w.csrVal (0x320 + k)).toNat 63))
  | 0xC22 => 64
  | 0xF13 => if s.panelB0 (h / 32) then 0xB0 else 0xA0
  | 0xF14 => BitVec.ofNat 64 h
  | 0x7C0 => s.mkfeat h
  | 0xCC1 => s.mkfeat h
  | 0x7C1 => BitVec.ofNat 64 (s.fld (R.pace (h / 32)) F.pace_CURRENT)
  | 0xCC0 => BitVec.ofNat 64 (s.fld (R.pace (h / 32)) F.pace_CURRENT)
  | 0x151 => match s.fileOf h 0x150 with | some f => BitVec.ofNat 64 ((s.file h f).get (w.csrVal 0x150).toNat) | none => 0
  | 0x251 => match s.fileOf h 0x250 with | some f => BitVec.ofNat 64 ((s.file h f).get (w.csrVal 0x250).toNat) | none => 0
  | 0x351 => BitVec.ofNat 64 ((s.file h 0).get (w.csrVal 0x350).toNat)
  | 0x15C => match s.fileOf h 0x150 with | some f => BitVec.ofNat 64 ((s.file h f).top * 0x10001) | none => 0
  | 0x25C => match s.fileOf h 0x250 with | some f => BitVec.ofNat 64 ((s.file h f).top * 0x10001) | none => 0
  | 0x35C => BitVec.ofNat 64 ((s.file h 0).top * 0x10001)
  | 0xDB0 => BitVec.ofNat 64 (topInt ((w.csrVal 0x344 &&& w.csrVal 0x304).toNat &&& w.sInts))
  | 0xEB0 => BitVec.ofNat 64 (topInt (w.vsInts 0x344 &&& w.vsInts 0x304))
  | 0xFB0 => BitVec.ofNat 64 (topInt ((w.csrVal 0x344 &&& w.csrVal 0x304 &&& ~~~ w.csrVal 0x303).toNat))
  | 0x7A1 =>
    let t := bitsAt (w.csrVal 0x7A0) 0 4
    setBits (KMap.get 0 w.csr (trigKey w 0)) 60 4 (trigType t)
  | 0x7A2 => KMap.get 0 w.csr (trigKey w 1)
  | 0x7A3 => KMap.get 0 w.csr (trigKey w 2)
  | 0x7A4 => BitVec.ofNat 64 (2 ^ trigType (bitsAt (w.csrVal 0x7A0) 0 4) + 2 ^ 24)
  | n => if 0xC03 ≤ n ∧ n < 0xC20 then w.csrVal (n - 0x100) else v

/-! ### Writes -/

/-- A legal mode of satp and vsatp, and of hgatp: Bare, 39, 48 and 57 bits (R82). PRESUMED (assumption 9). -/
def atpLegal (v : Nat) : Bool := [0, 8, 9, 10].contains (v / 2 ^ 60)

/-- A byte of pmpcfg as a write of `v` leaves it (R82: granularity 4 KiB, no NA4; Smepmp): a locked entry and a
reserved combination stay. PRESUMED (assumption 9). -/
def pmpByte (lockOff : Bool) (old v : Nat) : Nat :=
  let v := v &&& 0x9F
  if (bit old 7 && !lockOff) || v / 8 % 4 == 2 || (v % 4 == 2) then old else v

/-- A PMP entry's configuration byte. -/
def World.pmpCfg (w : World) (i : Nat) : Nat := (w.csrVal (0x3A0 + i / 8 * 2)).toNat >>> (8 * (i % 8)) % 256

/-- A PMP address is locked: its entry, or a locked TOR entry above it. -/
def World.pmpLocked (w : World) (i : Nat) : Bool :=
  !bit (w.csrVal 0x747).toNat 2 &&
    (bit (w.pmpCfg i) 7 || (decide (i < 63) && bit (w.pmpCfg (i + 1)) 7 && w.pmpCfg (i + 1) / 8 % 4 == 1))

/-- The bits of `v` that `m` marks, put into `old`. -/
def mergeBits (old : Word) (m : Nat) (v : Word) : Word := (old &&& ~~~ BitVec.ofNat 64 m) ||| (v &&& BitVec.ofNat 64 m)

/-- mip's timer bits follow the Tape and the compare registers where Sstc is on (R47). -/
def World.timers (w : World) (now : Nat) : World :=
  let mip := w.csrVal 0x344
  let mip := if bit (w.csrVal 0x30A).toNat 63 then setBits mip 5 1 (if (w.csrVal 0x14D).toNat ≤ now then 1 else 0) else mip
  let vt := if bit (w.csrVal 0x60A).toNat 63 then decide ((w.csrVal 0x24D).toNat ≤ (BitVec.ofNat 64 now + w.csrVal 0x605).toNat) else false
  let mip := setBits mip 6 1 (if vt || bit (w.csrVal 0x645).toNat 6 then 1 else 0)
  w.setCsr 0x344 mip

/-- A write of a standard CSR into a world's registers: the WARL rules of R82, R85, R447 and the privileged
specification. `b0`: the hart's die is B0. PRESUMED (assumption 9). -/
def World.csrPut (w : World) (n : Nat) (v : Word) (b0 : Bool) (now : Nat) : World :=
  let old := w.csrVal n
  let m := (csrMask n).getD 0
  let new := mergeBits old m v
  let ints := fun (w : World) (r m : Nat) (v : Word) => w.setCsr r (mergeBits (w.csrVal r) m v)
  match n with
  | 0x001 => (w.setCsr 3 (mergeBits (w.csrVal 3) 0x1F v)).dirty 13
  | 0x002 => (w.setCsr 3 (setBits (w.csrVal 3) 5 3 (v.toNat % 8))).dirty 13
  | 0x003 => (w.setCsr 3 (v &&& 0xFF)).dirty 13
  | 0x008 => (w.setCsr n new).dirty 9
  | 0x009 => (w.setCsr n new).dirty 9
  | 0x00A => (w.setCsr n new).dirty 9
  | 0x00F => ((w.setCsr 9 (v &&& 1)).setCsr 0xA (BitVec.ofNat 64 (bitsAt v 1 2))).dirty 9
  | 0x100 => ints w 0x300 m v
  | 0x300 =>
    let new := if bitsAt new 11 2 = 2 then setBits new 11 2 (bitsAt old 11 2) else new
    w.setCsr n new
  | 0x104 => ints w 0x304 w.sInts v
  | 0x144 => ints w 0x344 (w.sInts &&& 0x2002) v
  | 0x204 => ints w 0x304 ((w.csrVal 0x603).toNat &&& 0x444) (v <<< 1)
  | 0x244 => (ints w 0x645 ((w.csrVal 0x603).toNat &&& 4) (v <<< 1)) |> fun (w : World) => ints w 0x344 4 (w.csrVal 0x645)
  | 0x604 => ints w 0x304 vsIntMask v
  | 0x644 => (ints w 0x645 4 v) |> fun (w : World) => ints w 0x344 4 (w.csrVal 0x645)
  | 0x645 =>
    let w := w.setCsr n new
    let g := bit (w.csrVal 0xE12).toNat (bitsAt (w.csrVal 0x600) 12 6)
    (ints w 0x344 4 new |> fun (w : World) => w.setCsr 0x344 (setBits (w.csrVal 0x344) 10 1 (if g || bit new.toNat 10 then 1 else 0))).timers now
  | 0x600 =>
    let new := if 7 < bitsAt new 12 6 then setBits new 12 6 (bitsAt old 12 6) else new
    let w := w.setCsr n new
    let g := bit (w.csrVal 0xE12).toNat (bitsAt new 12 6)
    w.setCsr 0x344 (setBits (w.csrVal 0x344) 10 1 (if g || bit (w.csrVal 0x645).toNat 10 then 1 else 0))
  | 0x180 => if atpLegal v.toNat then w.setCsr n v else w
  | 0x280 => if atpLegal v.toNat then w.setCsr n v else w
  | 0x680 => if atpLegal v.toNat then w.setCsr n (v &&& 0xF3FFFFFFFFFFFFFF) else w
  | 0x303 => w.setCsr n (new ||| BitVec.ofNat 64 vsIntMask)
  | 0x30A => (w.setCsr n (if bitsAt new 4 2 = 2 then setBits new 4 2 (bitsAt old 4 2) else new)).timers now
  | 0x10A => w.setCsr n (if bitsAt new 4 2 = 2 then setBits new 4 2 (bitsAt old 4 2) else new)
  | 0x60A =>
    let new := if bitsAt new 4 2 = 2 then setBits new 4 2 (bitsAt old 4 2) else new
    (w.setCsr n (new &&& (w.csrVal 0x30A ||| 0x1FFFFFFFFFFFFFFF))).timers now
  | 0x60C => w.setCsr n (new &&& w.csrVal 0x30C)
  | 0x14D => (w.setCsr n v).timers now
  | 0x24D => (w.setCsr n v).timers now
  | 0x605 => (w.setCsr n v).timers now
  | 0x344 =>
    let stce := bit (w.csrVal 0x30A).toNat 63
    w.setCsr n (if stce then setBits new 5 1 (bitsAt old 5 1) else new)
  | 0x747 => w.setCsr n (old ||| (new &&& 3) ||| (if (List.range 64).any fun i => bit (w.pmpCfg i) 7 then old &&& 4 else new &&& 4))
  | 0x7A0 => if 10 < v.toNat then w else w.setCsr n v
  | 0x7A1 => if bit (KMap.get 0 w.csr (trigKey w 0)).toNat 59 then w
             else { w with csr := KMap.set 0 (trigKey w 0) (setBits (setBits v 60 4 0) 59 1 0) w.csr }
  | 0x7A2 => if bit (KMap.get 0 w.csr (trigKey w 0)).toNat 59 then w else { w with csr := KMap.set 0 (trigKey w 1) v w.csr }
  | 0x7A3 => if bit (KMap.get 0 w.csr (trigKey w 0)).toNat 59 then w else { w with csr := KMap.set 0 (trigKey w 2) v w.csr }
  | n =>
    if 0x323 ≤ n ∧ n < 0x32B then w.setCsr n (if !b0 && bitsAt new 28 2 == 3 then setBits new 28 2 2 else new)
    else if 0x3A0 ≤ n ∧ n < 0x3B0 then
      let rlb := bit (w.csrVal 0x747).toNat 2
      let byte := fun i => pmpByte rlb (old.toNat >>> (8 * i) % 256) (v.toNat >>> (8 * i) % 256)
      w.setCsr n (BitVec.ofNat 64 ((List.range 8).foldl (fun a i => a + byte i <<< (8 * i)) 0))
    else if 0x3B0 ≤ n ∧ n < 0x3F0 then (if w.pmpLocked (n - 0x3B0) then w else w.setCsr n (new &&& ~~~ 0x3FF))
    else if m = 0 then w
    else w.setCsr n new

/-- A write of a standard CSR by a hart. Writing a top-interrupt CSR claims the identity it names. -/
def State.csrStd (s : State) (h n0 : Nat) (v : Word) : State :=
  let n := vsNumber (s.hart h).w n0
  let claim := fun (s : State) (sel : Nat) => match s.fileOf h sel with
    | some f =>
      let x := s.file h f
      s.setFile h f { x with eip := x.eip &&& ~~~ BitVec.ofNat 256 (if x.top = 0 then 0 else 2 ^ x.top) }
    | none => s
  let put := fun (s : State) (sel : Nat) => match s.fileOf h sel with
    | some f => s.setFile h f ((s.file h f).put (s.csr h sel).toNat v.toNat)
    | none => s
  match n with
  | 0x151 => put s 0x150
  | 0x251 => put s 0x250
  | 0x351 => put s 0x350
  | 0x15C => claim s 0x150
  | 0x25C => claim s 0x250
  | 0x35C => claim s 0x350
  | n =>
    let s := s.updHart h fun x => { x with w := x.w.csrPut n v (s.panelB0 (h / 32)) s.tape }
    if 0x323 ≤ n ∧ n < 0x32B then { s with cnt.prev := KMap.set 0 (64 * h + (n - 0x320)) 0 s.cnt.prev } else s

/-- mkhold (R107): on an A0 hart a reserved register; HOLD clamps to 8-512. -/
def State.writeMkhold (s : State) (h : Nat) (v : Word) : State :=
  if s.panelB0 (h / 32) then
    s.setCsr h csr_mkhold (setBits (v &&& 0x8003FFFFFFFFFFFF) 50 10 (clampN 8 512 (bitsAt v 50 10)))
  else s

/-- A write of mkdoor (R110): its target, then its OP. DESIGN CHOICE (assumption 27). -/
def State.writeMkdoor (s : State) (h : Nat) (v : Word) : State :=
  let s := s.updHart h fun x => { x with w := x.w.doorTarget (BitVec.ofNat 12 (bitsAt v 44 12)) (bitsAt v 32 8) }
  match bitsAt v 0 2 with
  | 0 => s.retire h
  | 1 => s.doorEnter h
  | 2 => s.doorExit h
  | _ => s.doorDone h 0

/-- A write of a custom CSR that its checks let through (R102-R113). -/
def State.csrCustom (s : State) (h : HartId) (n : Nat) (v : Word) : State :=
  let k := h.num
  if n = csr_mkctl then (s.writeMkctl k v).retire k
  else if n = csr_mkhold then (s.writeMkhold k v).retire k
  else if n = csr_mkcmo then
    match bitsAt v 0 2 with
    | 0 =>
      let (level, set, way) := cmoPlace v
      (s.setCmo k level set way (bitsAt (s.csr k csr_mkcmo) 62 2)).retire k
    | 1 => s.mkcmoRun h v 1 (.mkcmoClean h v)
    | 2 => s.mkcmoRun h v 2 (.mkcmoInvalidate h v)
    | _ => s.mkcmoRun h v 3 (.mkcmoCleanInvalidate h v)
  else if n = csr_mkdoor then s.writeMkdoor k v
  else if n = csr_skpocket then
    if s.service || (s.hart k).w.priv != 3 then s.illegal k
    else (s.setCsr k csr_skpocket (v &&& 0xFFF)).retire k
  else s.retire k

/-- How a CSR instruction writes, and the value (R103). -/
def csrNew (op : CsrOp) (old v : Word) : Option Word :=
  match op with
  | .write => some v
  | .set z => if z then none else some (old ||| v)
  | .clear z => if z then none else some (old &&& ~~~ v)

/-- A CSR instruction of a hart (R93, R102, R103): skipped in run-ahead, checked, then its write. -/
def State.csrWrite (s : State) (h : HartId) (n : Nat) (op : CsrOp) (v : Word) : State :=
  s.onHart h fun s =>
    let k := h.num
    let w := (s.hart k).w
    let custom := (0x7C0 ≤ n ∧ n < 0x800) ∨ (0x5C0 ≤ n ∧ n < 0x600) ∨ (0xCC0 ≤ n ∧ n < 0xD00)
    let new := csrNew op (s.csrGet k n) v
    if s.inRunAhead k then s
    else match (if custom then w.customCheck n new.isSome else w.stdCheck n new.isSome) with
      | some c => s.trap k c
      | none =>
        match new with
        | none => s.retire k
        | some v => if custom then s.csrCustom h n v else ((s.csrStd k n v).retire k).pollInt k

end Sys2Proof.Machine
end

