-- ==== Sys2Proof/Machine/Counters.lean ====
section
/-! DEFINITION. Counters beyond one command: an overflow, and the Tape-timed snapshot and freeze of every
counter (R405, R447, R454, R455, R460). -/

namespace Sys2Proof.Machine

/-- COUNTER_OVERFLOW (R447): mhpmcounter k passes its top and goes on from 0. An inhibited or frozen counter does
not count (R455). DEDUCED (assumption 31). -/
def counterOverflowEff (h : HartId) (k : Fin 32) (s : State) : State :=
  let n := h.num
  let w := (s.hart n).w
  if k.val < 3 ∨ 10 < k.val ∨ s.frozenAt h.panel.val ∨ bit (w.csrVal 0x320).toNat k.val then s
  else (s.setCsr n (0xB00 + k.val) 0).hpmOverflow n k.val

/-! ### Residency (R405) -/

/-- Residency of a domain in a state, now: `d` its place in `since`, `k` its counters' first key. -/
def State.residOf (s : State) (d k cur st : Nat) : Nat :=
  KMap.get 0 s.thm.resid (k + st) +
    (if cur = st ∧ !s.frozenAt 16 then s.tape - KMap.get 0 s.thm.since d else 0)

/-- Residency of a hart in RUN 0, PARK 1 or SLEEP 2; a disabled hart's stay 0. -/
def State.residHart (s : State) (h st : Nat) : Nat :=
  let x := s.hart h
  KMap.get 0 x.resid st + (if x.mode.cls = st ∧ !s.frozenAt 16 then s.tape - x.since else 0)

/-- The counter at an offset of the residency layout; `none` between them. -/
def State.residAt (s : State) (off : Nat) : Option Nat :=
  let st := off % 32 / 8
  if off % 8 ≠ 0 ∨ st = 3 then none
  else if off < 0x20 then some (s.residOf 0 0 (s.fld R.domainState F.domainState_PKG) st)
  else if off < 0xA0 then
    let t := off / 32 - 1
    some (s.residOf (1 + t) (4 + 4 * t) (s.saddleState t) st)
  else if 0x100 ≤ off ∧ off < 0x280 then
    let p := (off - 0x100) / 32
    some (s.residOf (5 + p) (32 + 4 * p) (s.panelState p) st)
  else if 0x1000 ≤ off ∧ off < 0x1000 + 32 * 384 ∧ (off - 0x1000) / 32 % 32 < 20 then
    some (s.residHart ((off - 0x1000) / 32) st)
  else none

/-- Offsets of the residency layout that hold a counter. -/
def residOffs : List Nat :=
  let three := fun b : Nat => [b, b + 8, b + 16]
  three 0 ++ (List.range 4).flatMap (fun t => three (0x20 + 32 * t)) ++
    (List.range 12).flatMap (fun p => three (0x100 + 32 * p)) ++
    (List.range 12).flatMap fun p => (List.range 20).flatMap fun c => three (0x1000 + 32 * hartNum p c)

/-! ### Snapshot (R454) -/

/-- The shadows of a panel's harts. -/
def State.shadowPanel (s : State) (p : Nat) : State :=
  (List.range 20).foldl (fun s c =>
    let h := hartNum p c
    let w := (s.hart h).w
    let put := fun (s : State) (k : Nat) (v : Word) => s.wr (R.hartShadow p c k) v
    if !s.hartPresent h then s
    else
      let s := put (put (put s 0 (w.csrVal 0xB00)) 1 (BitVec.ofNat 64 s.tape)) 2 (w.csrVal 0xB02)
      (List.range 8).foldl (fun s i => put s (3 + i) (w.csrVal (0xB03 + i))) s) s

/-- The shadows of a saddle (0-3) or the yoke (4): unit counters, its Awls, and for the yoke the residency. -/
def State.shadowUnit (s : State) (u : Nat) : State :=
  let s := (List.range 16).foldl (fun s i => s.wr (R.uctrShadow u i) (s.rd (R.uctr u i))) s
  let awls := (List.range 32).filter fun n => awlStop n == 12 + u
  let s := awls.foldl (fun s n => s.wr (R.awlShadow n) (s.rd (R.awlCount n))) s
  if u < 4 then s
  else residOffs.foldl (fun s o => s.wr ⟨0xC20000 + o, 0⟩ (BitVec.ofNat 64 ((s.residAt o).getD 0))) s

/-- SNAP_SEQ of a stop. -/
def snapSeqReg (stop : Nat) : Reg := if stop < 12 then R.pnlSnapSeq stop else R.snapUnitSeq (stop - 12)

/-- A stop copies its counters. -/
def State.shadowStop (s : State) (seq stop : Nat) : State :=
  (if stop < 12 then s.shadowPanel stop else s.shadowUnit (stop - 12)).wr (snapSeqReg stop) (BitVec.ofNat 64 seq)

/-- A stop's counters stop, or start again. -/
def State.freezeStop (s : State) (b : Bool) (stop : Nat) : State :=
  let s := if stop = 16 then s.accrueAll else s
  let s : State := { s with cnt.frozen := setBit s.cnt.frozen stop b }
  if stop < 12 then
    { s with harts := s.harts.map fun e =>
               if e.1 / 32 = stop then
                 (e.1, { e.2 with w := { e.2.w with frozen := b }, host := e.2.host.map fun w => { w with frozen := b } })
               else e }
  else s

/-- The stop is reached by MGT: a panel or a saddle whose fence is OPEN, and the yoke. -/
def State.stopOpen (s : State) (stop : Nat) : Bool :=
  if stop < 12 then s.fenceIsOpen (.panel (Fin.ofNat 12 stop))
  else if stop < 16 then s.fenceIsOpen (.llc (Fin.ofNat 4 (stop - 12)))
  else true

/-- The stop takes the operation if it reaches it: a saddle's works unless the saddle is OFF.
DEDUCED (assumption 105). -/
def State.stopLive (s : State) (stop : Nat) : Bool :=
  if 12 ≤ stop ∧ stop < 16 then s.saddleState (stop - 12) != 2 else s.stopOpen stop

/-- A write of SNAP_CTL.OP (R455): TIME is raised to the least lead, and the operation is armed. -/
def State.snapStart (s : State) (op : Nat) : State :=
  if op = 0 ∨ s.fld R.snapCtl F.snapCtl_STATE = 1 then s
  else
    let lead := clampN 1000 1000000 (s.cfg 0x120 0xFFFF 8 4 1000)
    let t := max (s.rd R.snapTime).toNat (s.tape + lead)
    let s := (s.wr R.snapTime (BitVec.ofNat 64 t)).setF R.snapCtl F.snapCtl_STATE 1
    { s with cnt.op := op }

def snapArmEff (s : State) : State := s.snapStart 1
def armFreezeEff (s : State) : State := s.snapStart 2
def thawEff (s : State) : State := s.snapStart 3

/-- SNAPSHOT_TAKE (R455): the Tape reaches TIME. `missed`: the stops that the operation reaches late.
DEDUCED (assumption 105). -/
def snapshotTakeEff (missed : BitVec 17) (s : State) : State :=
  if s.fld R.snapCtl F.snapCtl_STATE ≠ 1 then s
  else
    let s := s.advance (s.rd R.snapTime).toNat
    let op := s.cnt.op
    let on := (List.range 17).filter fun i => s.stopLive i && !missed.getLsbD i
    let partly := (List.range 17).any fun i => s.stopOpen i && missed.getLsbD i
    let seq := (s.fld R.snapCtl F.snapCtl_SEQ + 1) % 65536
    let s := if op = 3 then s else (on.foldl (fun s i => s.shadowStop seq i) s).setF R.snapCtl F.snapCtl_SEQ seq
    let s := if op = 1 then s else on.foldl (fun s i => s.freezeStop (op == 2) i) s
    let s := if op = 1 then s else s.setF R.snapCtl F.snapCtl_FROZEN (if op = 2 then 1 else 0)
    let s := s.setF R.snapCtl F.snapCtl_PARTIAL (if partly then 1 else 0)
    { s.setF R.snapCtl F.snapCtl_STATE 2 with cnt.op := 0 }

def execCounterOverflow (h : HartId) (k : Fin 32) (s : State) : Host.Outcome State Fault Refusal :=
  .next (counterOverflowEff h k s)
def execSnapArm (s : State) : Host.Outcome State Fault Refusal :=
  .next (snapArmEff s)
def execArmFreeze (s : State) : Host.Outcome State Fault Refusal :=
  .next (armFreezeEff s)
def execThaw (s : State) : Host.Outcome State Fault Refusal :=
  .next (thawEff s)
def execSnapshotTake (missed : BitVec 17) (s : State) : Host.Outcome State Fault Refusal :=
  .next (snapshotTakeEff missed s)

end Sys2Proof.Machine
end

