-- ==== Sys2Proof/Machine/RegRead.lean ====
section
/-! DEFINITION. Reads of control space (R8-R14, R333, R336, R405, R414, R445, R454): what a register's fields
give, what a read clears, and the pages that are not registers. -/

namespace Sys2Proof.Machine

/-- The fence that stands before an offset's registers (R253): a PCIe port's or a Bobbin's, but for the fence's own. -/
def ctlFence (off : Nat) : Option FenceUnit :=
  if 0xF00 ≤ off % 0x10000 ∧ off % 0x10000 < 0x1000 then none
  else if 0x400000 ≤ off ∧ off < 0x480000 then some (.pcie (Fin.ofNat 8 ((off - 0x400000) / 0x10000)))
  else if 0x600000 ≤ off ∧ off < 0xA00000 then some (.bob (Fin.ofNat 64 ((off - 0x600000) / 0x10000)))
  else none

/-- The access has a form control space takes (R11): 4 or 8 bytes, naturally aligned. -/
def ctlForm (off size : Nat) : Bool := (size == 4 || size == 8) && off % size == 0

/-- A field lies in the half of its register that an access of `size` bytes at `off` reaches (R12). -/
def fieldReached (f : FieldDesc) (off size : Nat) : Bool :=
  size == 8 || (if off % 8 = 0 then decide (f.lo < 32) else decide (32 ≤ f.hi))

/-- POCKET of an error record's kind that names one (R445). -/
def recPocket (m0 m3 : Word) : Option Nat :=
  let k := getF m0 F.errRec0_KIND
  if k = 1 ∨ k = 2 ∨ k = 3 then some ((getF m3 F.errRec3_MISC) / 2 ^ 48 % 4096) else none

/-- An instance index of a place in an array. -/
def slotAt (base stride n a : Nat) : Option (Nat × Nat) :=
  if base ≤ a ∧ (a - base) / stride < n then some ((a - base) / stride, (a - base) % stride) else none

/-- What a requester sees of a register whose bits are withheld from all but the Keeper: shadows of filtered
counters (R454), Welt log entries (R336) and error records (R445) of pockets without REPORT_HOST. -/
def State.withheld (s : State) (a : Agent) (off : Nat) (v : Word) : Word :=
  let hidden := fun p : Nat => p != 0 && !s.reportHost p
  let filtered := fun e : Word => bit e.toNat 44 && bitsAt e 32 12 != 0
  if agentIsKeeper a then v
  else if 0x80000000 ≤ off ∧ off < 0xB0000000 ∧ 0x1000 ≤ off % 0x4000000 ∧ off % 0x4000000 < 0x2400 then
    let o := off % 0x4000000 - 0x1000
    let h := hartNum ((off - 0x80000000) / 0x4000000) (o / 0x100)
    let x := s.hart h
    let k := o % 0x100 / 8
    if 3 ≤ k ∧ filtered (x.w.csrVal (0x320 + k)) then 0 else v
  else if off < 0x50000000 ∧ 0xD00 ≤ off % 0x10000000 ∧ off % 0x10000000 < 0xD80 then
    let u := if off < 0x10000000 then 4 else off / 0x10000000 - 1
    if filtered (s.rd (R.uctrSel u (off % 0x80 / 8))) then 0 else v
  else if 0x10000000 ≤ off ∧ off < 0x50000000 ∧ 0x31100 ≤ off % 0x10000000 ∧ off % 0x10000000 < 0x31900 then
    let sd := off / 0x10000000 - 1
    let o := off % 0x10000000 - 0x31100
    if hidden (s.fld (R.weltLogM sd (o / 32)) F.weltLogM_POCKET) then
      match o % 32 / 8 with
      | 0 => 0
      | 2 => (putF (putF v F.weltLogM_OP 0) F.weltLogM_TXID 0)
      | _ => v
    else v
  else match (List.range 92).find? fun b => decide (bankBase b + 0x800 ≤ off) && decide (off < bankBase b + 0x900) with
    | some b =>
      let i := (off - bankBase b - 0x800) / 32
      match recPocket (s.rd (R.errRec0 b i)) (s.rd (R.errRec3 b i)) with
      | some p =>
        if hidden p then
          match off % 32 / 8 with
          | 1 => putF v F.errRec1_ADDR 0
          | 3 => setBits v 0 48 0
          | _ => v
        else v
      | none => v
    | none => v

/-- The value of a register that nothing stores: the Tape, and residency. -/
def State.regNow (s : State) (off : Nat) : Word :=
  if off = 0x40 then BitVec.ofNat 64 s.tape
  else if 0xC10000 ≤ off ∧ off < 0xC20000 then BitVec.ofNat 64 ((s.residAt (off - 0xC10000)).getD 0)
  else match regKindAt off with
    | some k => s.rd ⟨off, k.reset⟩
    | none => 0

/-- What a read of a register gives: WO fields read 0 (R8). -/
def State.regShown (s : State) (a : Agent) (off : Nat) (fields : List FieldDesc) : Word :=
  let v := s.withheld a off (s.regNow off)
  fields.foldl (fun v f => match f.acc with | .wo => putF v f 0 | _ => v) v

/-- The RC fields that a read reaches become 0 (R8). -/
def State.readClears (s : State) (off size : Nat) (k : RegKind) : State :=
  let r : Reg := ⟨off / 8 * 8, k.reset⟩
  k.fields.foldl (fun s f => match f.acc with
    | .rc => if fieldReached f off size then s.setF r f 0 else s
    | _ => s) s

/-! ### APLIC, IMSIC and IOMMU pages (R371, R377, R379) -/

/-- The file page an offset lies in: hart and file. -/
def filePage (off : Nat) : Option (Nat × Nat) :=
  if 0x4000000 ≤ off ∧ off < 0x8000000 then some ((off - 0x4000000) / 0x1000, 0)
  else if 0x8000000 ≤ off ∧ off < 0xC000000 then
    some ((off - 0x8000000) / 0x8000, 1 + (off - 0x8000000) / 0x1000 % 8)
  else none

/-- An APLIC domain's page. -/
def aplicPage (off : Nat) : Option (Nat × Nat) :=
  if 0xC000000 ≤ off ∧ off < 0xC010000 then some ((off - 0xC000000) / 0x8000, off % 0x8000) else none

/-- Sources of the word of 32 at an offset that belong to a domain and are not Inactive. -/
def State.aplicActive (s : State) (d word : Nat) : List Nat :=
  ((List.range 32).map (32 * word + ·)).filter fun n =>
    n != 0 && decide (n < 64) && s.aplicDomain n == d && s.aplicRd d (4 * n) % 8 != 0

/-- A 32-bit read of an APLIC domain: the AIA's layout; registers of no stored value read 0.
PRESUMED (assumption 90). -/
def State.aplicRead (s : State) (d o : Nat) : Nat :=
  if o = 0 then s.aplicRd d 0 ||| 0x80000004
  else if 4 ≤ o ∧ o < 0x100 then (if d = 1 ∧ s.aplicDomain (o / 4) = 0 then 0 else s.aplicRd d o)
  else if 0x1BC0 ≤ o ∧ o ≤ 0x1BCC ∧ d = 0 then s.aplicRd d o
  else if o = 0x1C00 ∨ o = 0x1C04 then s.aplicRd d o
  else if o = 0x1D00 ∨ o = 0x1D04 then ofBits ((s.aplicActive d ((o - 0x1D00) / 4)).filterMap fun n =>
    if s.aplic.contains n then some (n % 32) else none)
  else if o = 0x1E00 ∨ o = 0x1E04 then s.aplicRd d o
  else if 0x3004 ≤ o ∧ o < 0x3100 then s.aplicRd d o
  else 0

/-- A 32-bit read of the IOMMU's registers: capabilities give the options of R371, the rest as written.
PRESUMED (assumption 89). -/
def State.iommuRead (s : State) (o : Nat) : Nat :=
  if o = 0 then 0x024E0E10 else if o = 4 then 0x1F8 else (KMap.get 0 s.iommu o).toNat % 2 ^ 32

/-- Bytes of a page that is not a map of the spec, by 32-bit words; `none` where nothing is.
PRESUMED (assumption 111). -/
def State.pageRead (s : State) (off : Nat) : Option Nat :=
  match filePage off, aplicPage off with
  | some (h, _), _ => if s.hartPresent h then some 0 else none
  | none, some (d, o) => if o < 0x4000 then some (s.aplicRead d o) else none
  | none, none =>
    if 0x490000 ≤ off ∧ off < 0x491000 then some (s.iommuRead (off - 0x490000))
    else if 0x10000000 ≤ off ∧ off < 0x50000000 ∧ 0x70000 ≤ off % 0x10000000 ∧ off % 0x10000000 < 0x80000 then
      let base := 65536 * (off / 0x10000000 - 1) + off % 0x10000
      some (leNat ((List.range 4).map fun i => BitVec.ofNat 8 (KMap.get 0 s.trace (base + i))))
    else if 0xC02000 ≤ off ∧ off < 0xC03208 then some (s.cfg 0xE0 0xFFFF (off - 0xC02000) 4 0)
    else none

/-! ### A read -/

/-- A read of control space that its checks let through: its value, or DECERR (R11, R14). -/
def State.ctlFetch (s : State) (a : Agent) (off size : Nat) : State × Resp × Nat :=
  if !ctlForm off size then (s, .decerr, 0)
  else match s.pageRead off with
    | some lo =>
      let hi := if size = 8 then (s.pageRead (off + 4)).getD 0 else 0
      (s, .ok, lo + hi <<< 32)
    | none =>
      match regKindAt (off / 8 * 8) with
      | none => (s, .decerr, 0)
      | some k =>
        let v := (s.regShown a (off / 8 * 8) k.fields).toNat >>> (8 * (off % 8)) % 2 ^ (8 * size)
        (s.readClears off size k, .ok, v)

/-- A read of an agent is checked at its control stop. -/
def State.ctlChecked (s : State) (a : Agent) (off size : Nat) : State × Resp × Nat :=
  match s.ctlCheck a off with
  | .pass => s.ctlFetch a off size
  | .decerr => (s, .decerr, 0)
  | .domoff => (s, .domoff, 0)
  | .viol reason => (s.ctlViolation a off 0x0E reason, .viol, 0)

/-- A read of an agent reaches a control-space offset: its fence, its check, its value. -/
def State.ctlRead (s : State) (a : Agent) (off size : Nat) : State × Resp × Nat :=
  match ctlFence off with
  | some u =>
    if s.fenceIsOpen u then s.ctlChecked a off size
    else (s.incF (R.fenceStatus u) F.fenceStatus_DOMOFF_COUNT, .domoff, 0)
  | none => s.ctlChecked a off size

end Sys2Proof.Machine
end

