-- ==== Sys2Proof/Machine/RegPages.lean ====
section
/-! DEFINITION. Writes of the pages that are not register maps of the spec: interrupt files (R377), the APLIC
domains (R379) and the IOMMU (R371), in the layouts of the RISC-V specifications they name. -/

namespace Sys2Proof.Machine

/-! ### APLIC (R379) -/

/-- A pending bit of a domain's source is set or cleared by software: of a Level1 source only while its wire is
asserted, of a Detached one always. -/
def State.aplicPend (s : State) (d n : Nat) (b : Bool) : State :=
  if n = 0 ∨ 64 ≤ n ∨ s.aplicDomain n ≠ d then s
  else
    let mode := s.aplicRd d (4 * n) % 8
    let o := 0x1C00 + n / 32 * 4
    if mode = 0 ∨ (mode = 6 ∧ b ∧ !s.aplic.contains n) then s
    else (s.aplicWr d o (setBit (s.aplicRd d o) (n % 32) b)).aplicForward d n

/-- An enable bit of a domain's source. -/
def State.aplicEn (s : State) (d n : Nat) (b : Bool) : State :=
  if n = 0 ∨ 64 ≤ n ∨ s.aplicDomain n ≠ d ∨ s.aplicRd d (4 * n) % 8 = 0 then s
  else
    let o := 0x1E00 + n / 32 * 4
    (s.aplicWr d o (setBit (s.aplicRd d o) (n % 32) b)).aplicForward d n

/-- sourcecfg: D in the M domain delegates; of the modes Inactive, Detached and Level1 alone are taken (R379). A
source that becomes Inactive is neither pending nor enabled; a Level1 source whose wire is asserted is pending. -/
def State.aplicSource (s : State) (d n v : Nat) : State :=
  let mode := if v % 8 = 1 ∨ v % 8 = 6 then v % 8 else 0
  let off := fun (s : State) (d : Nat) =>
    (s.aplicWr d (0x1C00 + n / 32 * 4) (setBit (s.aplicRd d (0x1C00 + n / 32 * 4)) (n % 32) false)).aplicWr d
      (0x1E00 + n / 32 * 4) (setBit (s.aplicRd d (0x1E00 + n / 32 * 4)) (n % 32) false)
  if d = 1 ∧ s.aplicDomain n = 0 then s
  else if d = 0 ∧ bit v 10 then off (s.aplicWr 0 (4 * n) 0x400) 0
  else
    let s := if d = 0 then off (s.aplicWr 1 (4 * n) 0) 1 else s
    let s := s.aplicWr d (4 * n) mode
    if mode = 0 then off s d
    else if mode = 6 ∧ s.aplic.contains n then s.aplicPend d n true
    else s

/-- A 32-bit write of an APLIC domain. PRESUMED (assumption 90). -/
def State.aplicWrite (s : State) (d o v : Nat) : State :=
  let word := fun (s : State) (base : Nat) (f : State → Nat → State) =>
    (bitsOf 32 v).foldl (fun s i => f s (8 * (o - base) + i)) s
  if o = 0 then
    let s := s.aplicWr d 0 (if bit v 8 then 0x100 else 0)
    (List.range 64).foldl (fun s n => s.aplicForward d n) s
  else if 4 ≤ o ∧ o < 0x100 then s.aplicSource d (o / 4) v
  else if 0x1BC0 ≤ o ∧ o ≤ 0x1BCC ∧ d = 0 then
    if bit (s.aplicRd 0 0x1BC4) 31 then s
    else s.aplicWr 0 o (if o = 0x1BC4 then v &&& 0x9F77FFFF else if o = 0x1BCC then v &&& 0x700FFF else v)
  else if o = 0x1C00 ∨ o = 0x1C04 then word s 0x1C00 fun s n => s.aplicPend d n true
  else if o = 0x1CDC then s.aplicPend d v true
  else if o = 0x1D00 ∨ o = 0x1D04 then word s 0x1D00 fun s n => s.aplicPend d n false
  else if o = 0x1DDC then s.aplicPend d v false
  else if o = 0x1E00 ∨ o = 0x1E04 then word s 0x1E00 fun s n => s.aplicEn d n true
  else if o = 0x1EDC then s.aplicEn d v true
  else if o = 0x1F00 ∨ o = 0x1F04 then word s 0x1F00 fun s n => s.aplicEn d n false
  else if o = 0x1FDC then s.aplicEn d v false
  else if o = 0x2000 then s.aplicPend d v true
  else if o = 0x3000 then s.sendMsi (s.aplicMsiAddr d (v / 2 ^ 18) 0) (v % 2048)
  else if 0x3004 ≤ o ∧ o < 0x3100 then
    let n := (o - 0x3000) / 4
    if s.aplicDomain n = d ∧ s.aplicRd d (4 * n) % 8 ≠ 0 then s.aplicWr d o (v &&& 0xFFFFF7FF) else s
  else s

/-! ### IOMMU (R371) -/

/-- Bits of an IOMMU register's word that software sets, and bits that a 1 clears. PRESUMED (assumption 89). -/
def iommuMask (o : Nat) : Nat × Nat :=
  match o with
  | 16 => (0xFFFFFC0F, 0) | 20 => (0x003FFFFF, 0)
  | 24 => (0xFFFFFC1F, 0) | 28 => (0x003FFFFF, 0) | 36 => (0xFFFFFFFF, 0)
  | 40 => (0xFFFFFC1F, 0) | 44 => (0x003FFFFF, 0) | 48 => (0xFFFFFFFF, 0)
  | 56 => (0xFFFFFC1F, 0) | 60 => (0x003FFFFF, 0) | 64 => (0xFFFFFFFF, 0)
  | 72 => (3, 0xF00) | 76 => (3, 0x300) | 80 => (3, 0x300) | 84 => (0, 0xF) | 760 => (0xFFFF, 0)
  | o => if 768 ≤ o ∧ o < 1024 then
      (match o / 4 % 4 with | 0 => 0xFFFFFFFC | 1 => 0x00FFFFFF | 2 => 0xFFFFFFFF | _ => 1, 0) else (0, 0)

/-- A 32-bit write of an IOMMU register. A queue's on bit follows its enable. -/
def State.iommuWrite (s : State) (o v : Nat) : State :=
  let old := (KMap.get 0 s.iommu o).toNat
  let (m, c) := iommuMask o
  let new := ((old &&& (0xFFFFFFFF ^^^ m)) ||| (v &&& m)) &&& (0xFFFFFFFF ^^^ (v &&& c))
  let new := if o = 72 ∨ o = 76 ∨ o = 80 then setBit new 16 (bit new 0) else new
  let new := if o = 16 ∧ 4 < v % 16 then new - new % 16 + old % 16 else new
  { s with iommu := KMap.set 0 o (BitVec.ofNat 64 new) s.iommu }

/-! ### One page write -/

/-- A 32-bit write to a page that is not a register map, and its answer; `none` where the offset lies in none. -/
def State.pageWrite (s : State) (off v : Nat) : Option (State × Resp) :=
  match filePage off, aplicPage off with
  | some (h, f), _ =>
    if !s.hartPresent h then some (s, .decerr)
    else some (if off % 0x1000 = 0 then s.fileMsi h f v else s, .ok)
  | none, some (d, o) => if o < 0x4000 then some (s.aplicWrite d o v, .ok) else none
  | none, none =>
    if 0x490000 ≤ off ∧ off < 0x491000 then some (s.iommuWrite (off - 0x490000) v, .ok)
    else if (s.pageRead off).isSome then some (s, .ok)
    else none

end Sys2Proof.Machine
end

