-- ==== Sys2Proof/Machine/Debug.lean ====
section
/-! DEFINITION. JTAG and the debug module (R360, R456-R458, R469): the TAP's registers, halt and resume, abstract
commands, the system bus, the path lock. Where the rules name External Debug Support alone, the layout of its
registers is that specification's. -/

namespace Sys2Proof.Machine

/-! ### The boundary-scan register (R469): cell 0 is nearest TDI -/

/-- EXTEST takes effect only while RESET_N is low (R456). -/
def State.extestOn (s : State) : Bool := s.dbg.ir == 0 && !s.pins.resetN

/-- The pins the model holds, by their cells: inputs, then the data cells of outputs.
DESIGN CHOICE (assumption 106). -/
def State.pinCells (s : State) : List (Nat × Bool) :=
  [(0, s.pins.straps.getLsbD 1), (1, s.pins.straps.getLsbD 0), (2, s.pins.testN), (11, s.pins.resetN),
   (13, s.pins.railGood), (14, s.pins.railEn), (16, !s.pins.errFatal), (18, !s.pins.alert), (20, !s.pins.thermTrip)]

/-- What the cells capture: the pins the model holds, and `pads` for the others. -/
def State.capture (s : State) (pads : BitVec 120) : BitVec 120 :=
  s.pinCells.foldl (fun v e => (v &&& ~~~ BitVec.ofNat 120 (2 ^ e.1)) ||| (if e.2 then BitVec.ofNat 120 (2 ^ e.1) else 0)) pads

/-- The level of the output whose data cell is `cell`: under EXTEST the cells drive it where the enable cell after
it is set, else the package does. `none`: not driven. -/
def State.outPin (s : State) (cell : Nat) : Option Bool :=
  if s.extestOn then (if s.dbg.bsr.getLsbD (cell + 1) then some (s.dbg.bsr.getLsbD cell) else none)
  else (s.pinCells.find? fun e => e.1 == cell).map (·.2)

def extestEff (s : State) : State :=
  let s : State := { s with dbg.ir := 0 }
  if s.extestOn then s else { s with dbg.byp := false }

/-- SAMPLE/PRELOAD: the pads are sampled and shifted out while `v` is shifted in. -/
def samplePreloadEff (pins v : BitVec 120) (s : State) : State :=
  { s with dbg.ir := 1, dbg.bsr := v, dbg.tdo := (s.capture pins).toNat :: s.dbg.tdo }

/-- BYPASS: the one-bit register captures 0, which leaves while `tdi` enters. -/
def bypassEff (tdi : Bool) (s : State) : State :=
  { s with dbg.ir := 0x1F, dbg.byp := tdi, dbg.tdo := 0 :: s.dbg.tdo }

/-- TRST_N or Test-Logic-Reset (R429, R458): the instruction register and PATH_LOCK. -/
def testLogicResetEff (s : State) : State := { s.wr R.pathLock 0 with dbg.ir := 0x1F }

/-- DTMCS: version 1, abits 7; a DMI access never fails, so its resets have nothing to clear.
DESIGN CHOICE (assumption 106). -/
def dtmcsEff (v : BitVec 32) (s : State) : State :=
  let s : State := { s with dbg.ir := 0x10, dbg.tdo := 0x71 :: s.dbg.tdo }
  if v.getLsbD 17 then { s with dbg.dmiOut := 0 } else s

/-! ### Halt and resume (R360, R457) -/

/-- A halt request: pending until the hart runs a world whose INV is 1; it ends a wait in PARK, but for mkdoor's,
and a pause. DEDUCED (assumption 109). -/
def State.haltReq (s : State) (h : Nat) : State :=
  let s := s.updHart h fun x => { x with haltReq := true }
  let x := s.hart h
  let able := s.inv x.pocket.toNat
  if !able then s
  else match x.mode, x.wait with
    | .run, .none => s.halt h 3
    | .run, .pause _ => (s.unpark h).halt h 3
    | .park, .door .. => s
    | .park, _ => (s.unpark h).halt h 3
    | _, _ => s

/-- A debug resume: the hart goes on at dpc in the privilege dcsr names. -/
def State.resumeReq (s : State) (h : Nat) : State :=
  let x := s.hart h
  if x.mode != .halted then s
  else
    let d := x.w.csrVal 0x7B0
    let w : World := { x.w with priv := bitsAt d 0 2, virt := bitsAt d 5 1 == 1 }
    let s := s.updHart h fun x => { x with mode := .run, wait := .none, w := w }
    let ack := if s.dbg.resumeAck.contains h then s.dbg.resumeAck else h :: s.dbg.resumeAck
    ({ s with dbg.resumeAck := ack } : State).pollInt h

def haltRequestEff (h : HartId) (s : State) : State := s.haltReq h.num
def resumeRequestEff (h : HartId) (s : State) : State := s.resumeReq h.num

/-! ### Abstract commands (R457) -/

/-- The data registers as a number of 128 bits. -/
def State.dbgData (s : State) : Nat := (List.range 4).foldl (fun a i => a + KMap.get 0 s.dbg.data i <<< (32 * i)) 0

/-- `n` bytes put into the data registers from register `i` on; the others stay. -/
def State.setDbgData (s : State) (i n v : Nat) : State :=
  let data := (List.range (n / 4 + (if n % 4 = 0 then 0 else 1))).foldl
    (fun m j => KMap.set 0 (i + j) (v >>> (32 * j) % 2 ^ 32) m) s.dbg.data
  { s with dbg.data := data }

/-- An abstract command fails: cmderr keeps the first cause. -/
def State.cmdFail (s : State) (c : Nat) : State :=
  { s with dbg.cmderr := if s.dbg.cmderr = 0 then c else s.dbg.cmderr }

/-- A memory read by an abstract command that its hart has completed gives its data. -/
def State.absSettle (s : State) : State :=
  match s.dbg.abs with
  | none => s
  | some (h, n) =>
    let x := s.hart h
    if x.acc.any (·.rd == 192) || x.io.any (·.rd == 192) then s
    else
      let v := (x.w.vr 32).toNat
      let s := s.updHart h fun x => { x with w := x.w.setVr 32 0 }
      { s.setDbgData 0 n (v % 2 ^ (8 * n)) with dbg.abs := none }

/-- A hart that abstract commands may act on: halted, in a world whose INV is 1 (R360). -/
def State.absHart (s : State) (h : Nat) : Bool :=
  (s.hart h).mode == .halted && s.inv (s.hart h).pocket.toNat

/-- Bits of dcsr that the debugger writes. -/
def dcsrMask : Nat := 0x3B837

/-- The privilege a debugger acts with on CSRs: M in the host world, S in a pocket, which has no M. -/
def World.dbgWorld (w : World) : World :=
  { w with priv := if w.csrVal csr_skpocket = 0 then 3 else 1, virt := false }

/-- A CSR exists for the debugger and, where `wr`, is writable: of the custom CSRs mkctl and mkhold alone. -/
def World.dbgCsr (w : World) (n : Nat) (wr : Bool) : Bool :=
  let custom := (0x7C0 ≤ n ∧ n < 0x800) ∨ (0x5C0 ≤ n ∧ n < 0x600) ∨ (0xCC0 ≤ n ∧ n < 0xD00)
  if 0x7B0 ≤ n ∧ n < 0x7B4 then true
  else if custom then (w.dbgWorld.customCheck n false).isNone && (!wr || n == csr_mkctl || n == csr_mkhold)
  else (w.dbgWorld.stdCheck n wr).isNone

/-- A CSR as the debugger reads it: dcsr shows version 4 and stopcount 1, dpc the pc. -/
def State.dbgCsrGet (s : State) (h n : Nat) : Nat :=
  let w := (s.hart h).w
  if n = 0x7B0 then (w.csrVal 0x7B0 ||| 0x40000400).toNat
  else if n = 0x7B1 then w.pc.toNat
  else if n = 0x7B2 ∨ n = 0x7B3 then (w.csrVal n).toNat
  else (s.csrGet h n).toNat

/-- A CSR written by the debugger. dcsr.prv of a pocket's world is never M. -/
def State.dbgCsrPut (s : State) (h n : Nat) (v : Word) : State :=
  let w := (s.hart h).w
  if n = 0x7B0 then
    let d := mergeBits (w.csrVal n) dcsrMask v
    let p := bitsAt d 0 2
    let d := if p = 2 ∨ (p = 3 ∧ w.csrVal csr_skpocket ≠ 0) then setBits d 0 2 (bitsAt (w.csrVal n) 0 2) else d
    s.setCsr h n d
  else if n = 0x7B1 then s.updHart h fun x => { x with w := { x.w with pc := v &&& ~~~ 1 } }
  else if n = 0x7B2 ∨ n = 0x7B3 then s.setCsr h n v
  else if n = csr_mkctl then s.writeMkctl h v
  else if n = csr_mkhold then s.writeMkhold h v
  else s.csrStd h n v

/-- Width of a register in bytes. -/
def dbgWidth (r : DbgReg) : Nat := match r with | .fpr _ => 16 | _ => 8

/-- Access Register: aarsize 2, 3, and 4 for f registers; a partial write leaves the upper bits open.
PRESUMED (assumption 107). -/
def State.absRegister (s : State) (h : Nat) (r : DbgReg) (isWrite : Bool) (size : Nat) : State :=
  let s := s.absSettle
  let n := 2 ^ size
  if s.dbg.cmderr ≠ 0 then s
  else if s.dbg.abs.isSome then s.cmdFail 1
  else if size < 2 ∨ 4 < size ∨ dbgWidth r < n then s.cmdFail 2
  else if !s.absHart h then s.cmdFail 4
  else
    let w := (s.hart h).w
    let ok := match r with | .csr c => w.dbgCsr c.toNat isWrite | _ => true
    if !ok then s.cmdFail 3
    else
      let old := match r with
        | .gpr i => (w.xr i.val).toNat
        | .fpr i => (w.fr i.val).toNat
        | .csr c => s.dbgCsrGet h c.toNat
      if !isWrite then s.setDbgData 0 n (old % 2 ^ (8 * n))
      else
        let low := s.dbgData % 2 ^ (8 * n)
        let (up, s) := if n = dbgWidth r then (0, s) else s.fresh
        let v := low + up <<< (8 * n)
        match r with
        | .gpr i => s.setX h i.val (BitVec.ofNat 64 v)
        | .fpr i => s.updHart h fun x => { x with w := (x.w.setFr i.val (BitVec.ofNat 128 v)).dirty 13 }
        | .csr c => s.dbgCsrPut h c.toNat (BitVec.ofNat 64 v)

def accessRegisterEff (h : HartId) (r : DbgReg) (isWrite : Bool) (size : BitVec 3) (s : State) : State :=
  s.absRegister h.num r isWrite size.toNat

/-- Access Memory: an access of the halted hart in its world. A read's data come with its completion.
PRESUMED (assumption 107). -/
def State.absMemory (s : State) (h : Nat) (pa : Addr) (n : Nat) (isWrite : Bool) : State :=
  let s := s.absSettle
  let a := pa.toNat
  if s.dbg.cmderr ≠ 0 then s
  else if s.dbg.abs.isSome then s.cmdFail 1
  else if !s.absHart h then s.cmdFail 4
  else
    let s := s.updHart h fun x => { x with stitch := x.stitch + 1 }
    let v := BitVec.ofNat 128 (s.dbgData % 2 ^ (8 * n))
    match routeOf a .pma with
    | .hole => s.cmdFail 5
    | .cached =>
      let s := s.tagCheck h (a / 64)
      if isWrite then (s.addAcc h { kind := .store, id := 0, pa := pa, size := n, val := v }).pump h
      else (({ s with dbg.abs := some (h, n) } : State).addAcc h
        { kind := .load, id := 0, pa := pa, size := n, rd := 192 }).pump h
    | r =>
      if a % n ≠ 0 then s.cmdFail 5
      else if isWrite then
        (s.addIo h { isLoad := false, dst := s.ioDest a, pa := pa, size := n, val := v, t := s.timer (h / 32) 2, window := r == .window }).pump h
      else (({ s with dbg.abs := some (h, n) } : State).addIo h
        { isLoad := true, dst := s.ioDest a, pa := pa, size := n, rd := 192, t := s.timer (h / 32) 2, window := r == .window }).pump h

def accessMemoryEff (h : HartId) (pa : Addr) (size : Size) (isWrite : Bool) (s : State) : State :=
  s.absMemory h.num pa size.bytes isWrite

/-- The program buffer runs after a command that asks for it. Its words are instructions, which the model does not
decode: an ebreak at once ends it well, a word of zeros with an exception, any other run with either.
DESIGN CHOICE (assumption 108). -/
def State.postExec (s : State) : State :=
  if s.dbg.cmderr ≠ 0 then s
  else
    let w := KMap.get 0 s.dbg.buf 0
    if w = 0x00100073 ∨ w % 65536 = 0x9002 then s
    else if w % 65536 = 0 then s.cmdFail 3
    else
      let (x, s) := s.fresh
      if bit x 0 then s.cmdFail 3 else s

/-- A write of the command register, or its repetition by abstractauto. -/
def State.absCommand (s : State) : State :=
  let c := s.dbg.cmd
  let h := s.dbg.hartsel
  let size := c / 2 ^ 20 % 8
  let wr := bit c 16
  let s := s.absSettle
  if s.dbg.cmderr ≠ 0 then s
  else if s.dbg.abs.isSome then s.cmdFail 1
  else match c / 2 ^ 24 with
    | 0 =>
      let no := c % 65536
      let reg : Option DbgReg :=
        if no < 0x1000 then some (.csr (BitVec.ofNat 12 no))
        else if no < 0x1020 then some (.gpr (Fin.ofNat 32 no))
        else if no < 0x1040 then some (.fpr (Fin.ofNat 32 (no - 0x1020)))
        else none
      let s := if !bit c 17 then (if s.absHart h then s else s.cmdFail 4)
        else match reg with
          | some r => s.absRegister h r wr size
          | none => s.cmdFail 2
      let s := if bit c 19 ∧ s.dbg.cmderr = 0 then { s with dbg.cmd := c - no + (no + 1) % 65536 } else s
      if bit c 18 then s.postExec else s
    | 2 =>
      if 4 < size then s.cmdFail 2
      else
        let a := KMap.get 0 s.dbg.data 2 + KMap.get 0 s.dbg.data 3 <<< 32
        if 2 ^ 56 ≤ a then s.cmdFail 5
        else
          let s := s.absMemory h (BitVec.ofNat 56 a) (2 ^ size) wr
          if bit c 19 ∧ s.dbg.cmderr = 0 ∧ size < 4 then s.setDbgData 2 8 (a + 2 ^ size) else s
    | _ => s.cmdFail 2

/-! ### The system bus (R360, R457) -/

/-- A system-bus access. `svc`: through BAR2, which carries pocket 0 (R375). DESIGN CHOICE (assumption 116). -/
def State.sbAccess (s : State) (svc : Bool) (pa : Addr) (n : Nat) (isWrite : Bool) (v : Nat) : State :=
  let fail := fun (s : State) (c : Nat) =>
    { s with dbg.sberror := if s.dbg.sberror = 0 then c else s.dbg.sberror }
  let a := pa.toNat
  let off := a % 64
  let go := fun (s : State) (op : BitVec 8) (d : LineData) (be : Word) =>
    ({ s with dbg.sbOut := some (n, isWrite) } : State).yokeSend
      { agent := .debug, eye := 0, txid := 0, op := op, pa := pa, size := n, kind := 7, data := d, be := be, needData := !isWrite }
  if s.dbg.sberror ≠ 0 ∨ s.dbg.sbbusyErr then s
  else if s.dbg.sbOut.isSome then { s with dbg.sbbusyErr := true }
  else if a % n ≠ 0 then fail s 3
  else
    let s : State := { s with dbg.sbSvc := svc }
    if !s.inv (s.agentPocket .debug) then fail s 7
    else match regionOf a with
      | .bolt => if isWrite then go s 0x09 (placeAt (v % 2 ^ (8 * n)) off) (beOf off n) else go s 0x08 0 0
      | .ctl => if n ≠ 4 ∧ n ≠ 8 then fail s 4
                else go s (if isWrite then 0x40 else 0x0E) (placeAt (v % 2 ^ (8 * n)) 0) (beOf 0 n)
      | .mmio _ => go s (if isWrite then 0x40 else 0x0E) (placeAt (v % 2 ^ (8 * n)) 0) (beOf 0 n)
      | _ => fail s 2

/-- SYSTEM_BUS_ACCESS, by JTAG. -/
def systemBusAccessEff (pa : Addr) (size : Size) (isWrite : Bool) (v : BitVec 128) (s : State) : State :=
  s.sbAccess false pa size.bytes isWrite v.toNat

/-- An access that the system-bus registers start, of the size sbcs names. -/
def State.sbGo (s : State) (svc isWrite : Bool) : State :=
  let k := s.dbg.sbcs / 2 ^ 17 % 8
  if 4 < k then { s with dbg.sberror := if s.dbg.sberror = 0 then 4 else s.dbg.sberror }
  else s.sbAccess svc (BitVec.ofNat 56 s.dbg.sbAddr) (2 ^ k) isWrite s.dbg.sbData

/-! ### The path lock and ndmreset (R457, R458) -/

/-- A path's number: 1 JTAG, 2 the service port. -/
def pathNum (svc : Bool) : Nat := if svc then 2 else 1

/-- The other path holds the lock. -/
def State.lockedOut (s : State) (svc : Bool) : Bool :=
  let h := s.fld R.pathLock F.pathLock_HOLDER
  h != 0 && h != pathNum svc

/-- A write of PATH_LOCK by a path. -/
def State.lockWrite (s : State) (svc : Bool) (v : Nat) : State :=
  let h := s.fld R.pathLock F.pathLock_HOLDER
  if h = 0 ∧ v = pathNum svc then s.setF R.pathLock F.pathLock_HOLDER v
  else if h = pathNum svc ∧ v = 0 then s.setF R.pathLock F.pathLock_HOLDER 0
  else s

def pathLockEff (svc : Bool) (v : BitVec 2) (s : State) : State := s.lockWrite svc v.toNat

/-- ndmreset: a package warm reset if the host world's INV is 1, else ignored. -/
def ndmresetEff (s : State) : State := if s.inv 0 then s.warmAll else s

/-! ### The debug module's registers -/

/-- The debug module is reset by dmactive 0. PRESUMED (assumption 107). -/
def State.dmReset (s : State) : State :=
  let d := s.dbg
  let s := s.wr R.sbPocket 0
  { s with
    dbg := { ir := d.ir, bsr := d.bsr, byp := d.byp, tdo := d.tdo, dmiOut := d.dmiOut, haveReset := d.haveReset }
    harts := s.harts.map fun e => (e.1, { e.2 with haltReq := false }) }

/-- dmcontrol. -/
def State.dmControl (s : State) (v : Nat) : State :=
  if !bit v 0 then s.dmReset
  else
    let h := v / 2 ^ 16 % 512
    let s : State := { s with dbg.active := true, dbg.hartsel := h }
    let keep := fun (l : List Nat) => l.filter (· != h)
    let s : State := if bit v 28 then { s with dbg.haveReset := keep s.dbg.haveReset } else s
    let s : State := if bit v 2 then { s with dbg.resetHalt := keep s.dbg.resetHalt }
      else if bit v 3 then { s with dbg.resetHalt := h :: keep s.dbg.resetHalt } else s
    let s := if !s.hartPresent h then s
      else if bit v 31 then s.haltReq h
      else
        let s := s.updHart h fun x => { x with haltReq := false }
        if bit v 30 then ({ s with dbg.resumeAck := keep s.dbg.resumeAck } : State).resumeReq h else s
    if bit v 1 then ndmresetEff s else s

/-- dmstatus of the selected hart: version 3, authenticated, hasresethaltreq, impebreak. -/
def State.dmStatus (s : State) : Nat :=
  let h := s.dbg.hartsel
  let x := s.hart h
  let both := fun (lo : Nat) (b : Bool) => if b then 3 <<< lo else 0
  let here := s.hartPresent h
  let gone := here && (x.mode == .held || x.mode == .stopped || s.panelState (h / 32) == 2)
  0x4000A3 + both 8 (here && !gone && x.mode == .halted) + both 10 (here && !gone && x.mode != .halted) + both 12 gone +
    both 14 (!here) + both 16 (s.dbg.resumeAck.contains h) + both 18 (s.dbg.haveReset.contains h)

/-- Halted harts of 32 numbers from `base` on. -/
def State.haltSum (s : State) (base : Nat) : Nat :=
  ofBits ((List.range 32).filter fun i => (s.hart (base + i)).mode == .halted)

/-- What a register of the debug module holds. PRESUMED (assumption 107). -/
def State.dmValue (s : State) (n : Nat) : Nat :=
  let d := s.dbg
  if 0x04 ≤ n ∧ n < 0x08 then KMap.get 0 d.data (n - 4)
  else if 0x20 ≤ n ∧ n < 0x28 then KMap.get 0 d.buf (n - 0x20)
  else match n with
    | 0x10 => (if d.active then 1 else 0) + d.hartsel <<< 16
    | 0x11 => s.dmStatus
    | 0x13 => ofBits ((List.range 12).filter fun i => s.haltSum (32 * i) != 0)
    | 0x16 => 0x08000004 + d.cmderr <<< 8 + (if d.abs.isSome then 1 <<< 12 else 0)
    | 0x18 => d.autoexec
    | 0x38 => 0x2000071F + d.sbcs + d.sberror <<< 12 + (if d.sbOut.isSome then 1 <<< 21 else 0) + (if d.sbbusyErr then 1 <<< 22 else 0)
    | 0x39 => d.sbAddr % 2 ^ 32
    | 0x3A => d.sbAddr / 2 ^ 32
    | 0x3C => d.sbData % 2 ^ 32
    | 0x3D => d.sbData / 2 ^ 32 % 2 ^ 32
    | 0x3E => d.sbData / 2 ^ 64 % 2 ^ 32
    | 0x3F => d.sbData / 2 ^ 96 % 2 ^ 32
    | 0x40 => s.haltSum (d.hartsel / 32 * 32)
    | 0x70 => s.fld R.sbPocket F.sbPocket_POCKET
    | 0x71 => s.fld R.pathLock F.pathLock_HOLDER
    | _ => 0

/-- A data or program-buffer register has been accessed: abstractauto repeats the command. -/
def State.dmAuto (s : State) (n : Nat) : State :=
  let b := if 0x04 ≤ n ∧ n < 0x08 then bit s.dbg.autoexec (n - 4)
    else if 0x20 ≤ n ∧ n < 0x28 then bit s.dbg.autoexec (16 + (n - 0x20)) else false
  if b then s.absCommand else s

/-- A read of a debug-module register by a path. -/
def State.dmRead (s : State) (svc : Bool) (n : Nat) : Nat × State :=
  if n ≠ 0x71 ∧ s.lockedOut svc then (0, s)
  else
    let s := s.absSettle
    let v := s.dmValue n
    if !s.dbg.active then (v, s)
    else if n = 0x3C then
      if s.dbg.sbOut.isSome then (v, { s with dbg.sbbusyErr := true })
      else (v, if bit s.dbg.sbcs 15 then s.sbGo svc false else s)
    else (v, s.dmAuto n)

/-- A write of a debug-module register by a path. While dmactive is 0 only dmcontrol, PATH_LOCK and SBPOCKET take
writes. PRESUMED (assumption 107). -/
def State.dmWrite (s : State) (svc : Bool) (n v : Nat) : State :=
  let d := s.dbg
  let word := fun (old i : Nat) => old - old / 2 ^ (32 * i) % 2 ^ 32 * 2 ^ (32 * i) + v * 2 ^ (32 * i)
  if n = 0x71 then s.lockWrite svc (v % 4)
  else if s.lockedOut svc then s
  else if n = 0x10 then s.absSettle.dmControl v
  else if n = 0x70 then s.setF R.sbPocket F.sbPocket_POCKET (v % 4096)
  else if !d.active then s
  else
    let s := s.absSettle
    let busy := s.dbg.abs.isSome
    if 0x04 ≤ n ∧ n < 0x08 then
      if busy then s.cmdFail 1 else ({ s with dbg.data := KMap.set 0 (n - 4) v d.data } : State).dmAuto n
    else if 0x20 ≤ n ∧ n < 0x28 then
      if busy then s.cmdFail 1 else ({ s with dbg.buf := KMap.set 0 (n - 0x20) v d.buf } : State).dmAuto n
    else if 0x39 ≤ n ∧ n < 0x40 ∧ s.dbg.sbOut.isSome then { s with dbg.sbbusyErr := true }
    else match n with
      | 0x16 => if busy then s.cmdFail 1 else { s with dbg.cmderr := s.dbg.cmderr &&& (7 ^^^ (v / 256 % 8)) }
      | 0x17 => if busy then s.cmdFail 1 else if s.dbg.cmderr ≠ 0 then s else ({ s with dbg.cmd := v } : State).absCommand
      | 0x18 => if busy then s.cmdFail 1 else { s with dbg.autoexec := v &&& 0xFF000F }
      | 0x38 => { s with dbg.sbcs := v &&& 0x1F8000, dbg.sberror := s.dbg.sberror &&& (7 ^^^ (v / 4096 % 8))
                         dbg.sbbusyErr := s.dbg.sbbusyErr && !bit v 22 }
      | 0x39 =>
        let s : State := { s with dbg.sbAddr := s.dbg.sbAddr / 2 ^ 32 * 2 ^ 32 + v }
        if bit s.dbg.sbcs 20 then s.sbGo svc false else s
      | 0x3A => { s with dbg.sbAddr := s.dbg.sbAddr % 2 ^ 32 + v % 2 ^ 24 * 2 ^ 32 }
      | 0x3C => ({ s with dbg.sbData := word s.dbg.sbData 0 } : State).sbGo svc true
      | 0x3D => { s with dbg.sbData := word s.dbg.sbData 1 }
      | 0x3E => { s with dbg.sbData := word s.dbg.sbData 2 }
      | 0x3F => { s with dbg.sbData := word s.dbg.sbData 3 }
      | _ => s

/-- A DMI scan: the last access's outcome leaves, and this one is performed, indivisibly (R458). -/
def dmiEff (addr : BitVec 7) (data : BitVec 32) (op : BitVec 2) (s : State) : State :=
  let s : State := { s with dbg.ir := 0x11, dbg.tdo := s.dbg.dmiOut :: s.dbg.tdo }
  let out := fun (s : State) (v : Nat) => { s with dbg.dmiOut := addr.toNat <<< 34 + v <<< 2 }
  match op.toNat with
  | 1 => let (v, s) := s.dmRead false addr.toNat; out s v
  | 2 => out (s.dmWrite false addr.toNat data.toNat) data.toNat
  | _ => out s 0

def execExtest (s : State) : Host.Outcome State Fault Refusal :=
  .next (extestEff s)
def execSamplePreload (pins v : BitVec 120) (s : State) : Host.Outcome State Fault Refusal :=
  .next (samplePreloadEff pins v s)
def execDtmcs (v : BitVec 32) (s : State) : Host.Outcome State Fault Refusal :=
  .next (dtmcsEff v s)
def execDmi (addr : BitVec 7) (data : BitVec 32) (op : BitVec 2) (s : State) : Host.Outcome State Fault Refusal :=
  .next (dmiEff addr data op s)
def execBypass (tdi : Bool) (s : State) : Host.Outcome State Fault Refusal :=
  .next (bypassEff tdi s)
def execTestLogicReset (s : State) : Host.Outcome State Fault Refusal :=
  .next (testLogicResetEff s)
def execHaltRequest (h : HartId) (s : State) : Host.Outcome State Fault Refusal :=
  .next (haltRequestEff h s)
def execResumeRequest (h : HartId) (s : State) : Host.Outcome State Fault Refusal :=
  .next (resumeRequestEff h s)
def execAccessRegister (h : HartId) (r : DbgReg) (isWrite : Bool) (size : BitVec 3) (s : State) : Host.Outcome State Fault Refusal :=
  .next (accessRegisterEff h r isWrite size s)
def execAccessMemory (h : HartId) (pa : Addr) (size : Size) (isWrite : Bool) (s : State) : Host.Outcome State Fault Refusal :=
  .next (accessMemoryEff h pa size isWrite s)
def execSystemBusAccess (pa : Addr) (size : Size) (isWrite : Bool) (v : BitVec 128) (s : State) : Host.Outcome State Fault Refusal :=
  .next (systemBusAccessEff pa size isWrite v s)
def execNdmreset (s : State) : Host.Outcome State Fault Refusal :=
  .next (ndmresetEff s)
def execPathLock (svc : Bool) (v : BitVec 2) (s : State) : Host.Outcome State Fault Refusal :=
  .next (pathLockEff svc v s)

end Sys2Proof.Machine
end

