-- ==== Sys2Proof/Machine/Flags.lean ====
section
/-! DEFINITION. IEEE 754 arithmetic with its flags (R117-R120, R318): values, rounding, and the operations of the F, D
and Q extensions and Zfa on binary formats. Exact results are computed on integers and rounded once. -/

namespace Sys2Proof.Machine

/-! ### Formats and values -/

/-- A binary interchange format: exponent and fraction bits. -/
structure Fmt where
  eb : Nat
  mb : Nat
  deriving DecidableEq, Repr

def fmtH : Fmt := ⟨5, 10⟩
def fmtS : Fmt := ⟨8, 23⟩
def fmtD : Fmt := ⟨11, 52⟩
def fmtQ : Fmt := ⟨15, 112⟩

/-- Bits of an encoding. -/
def Fmt.width (f : Fmt) : Nat := 1 + f.eb + f.mb
def Fmt.bias (f : Fmt) : Nat := 2 ^ (f.eb - 1) - 1
/-- Exponent of the least significant bit of a subnormal. -/
def Fmt.qmin (f : Fmt) : Int := 1 - (f.bias : Int) - f.mb

def Fmt.inf (f : Fmt) (sg : Bool) : Nat := ((if sg then 2 ^ f.eb else 0) + (2 ^ f.eb - 1)) * 2 ^ f.mb
def Fmt.zero (f : Fmt) (sg : Bool) : Nat := if sg then 2 ^ (f.eb + f.mb) else 0
/-- The canonical NaN (R118). -/
def Fmt.nan (f : Fmt) : Nat := (2 ^ f.eb - 1) * 2 ^ f.mb + 2 ^ (f.mb - 1)
def Fmt.maxFin (f : Fmt) (sg : Bool) : Nat := f.inf sg - 1

/-- A value: a finite one is (-1)^sg * m * 2^e, with m not 0. -/
inductive FVal where
  | nan (signals : Bool)
  | inf (sg : Bool)
  | zero (sg : Bool)
  | fin (sg : Bool) (m : Nat) (e : Int)
  deriving DecidableEq, Repr

/-- The value an encoding stands for. -/
def Fmt.val (f : Fmt) (v : Nat) : FVal :=
  let m := v % 2 ^ f.mb
  let e := v / 2 ^ f.mb % 2 ^ f.eb
  let sg := v / 2 ^ (f.mb + f.eb) % 2 == 1
  if e = 2 ^ f.eb - 1 then (if m = 0 then .inf sg else .nan (decide (m < 2 ^ (f.mb - 1))))
  else if e = 0 then (if m = 0 then .zero sg else .fin sg m f.qmin)
  else .fin sg (m + 2 ^ f.mb) (f.qmin + e - 1)

def FVal.isNan : FVal → Bool | .nan _ => true | _ => false
def FVal.signals : FVal → Bool | .nan b => b | _ => false
def FVal.neg : FVal → FVal
  | .inf sg => .inf !sg
  | .zero sg => .zero !sg
  | .fin sg m e => .fin (!sg) m e
  | v => v

/-- A result: its encoding, or an integer, and the flags it raises: NV 16, DZ 8, OF 4, UF 2, NX 1. -/
abbrev FRes := Nat × Nat

/-! ### Rounding (R117) -/

/-- Bits of a number. -/
def bitLen (n : Nat) : Nat := if n = 0 then 0 else n.log2 + 1

/-- `m` rounded to units of 2^k, in those units, and whether it was inexact. `sticky`: the exact value lies a
little above m. Modes: 0 RNE, 1 RTZ, 2 RDN, 3 RUP, 4 RMM, 5 round to odd. -/
def roundAt (rm : Nat) (sg : Bool) (m k : Nat) (sticky : Bool) : Nat × Bool :=
  let n := m / 2 ^ k
  let r := 2 * (m % 2 ^ k)
  let u := 2 ^ k
  let inexact := r != 0 || sticky
  let above := decide (u < r) || (r == u && sticky)
  let half := r == u && !sticky && k != 0
  let up := match rm with
    | 0 => above || (half && n % 2 == 1)
    | 2 => sg && inexact
    | 3 => !sg && inexact
    | 4 => above || half
    | 5 => inexact && n % 2 == 0
    | _ => false
  (n + if up then 1 else 0, inexact)

/-- A nonzero exact value m * 2^e, or one a little above it, rounded to a format. `sticky` values are given with
more bits than any format has. Tininess is detected after rounding. PRESUMED (assumption 20). -/
def Fmt.round (f : Fmt) (rm : Nat) (sg : Bool) (m : Nat) (e : Int) (sticky : Bool) : FRes :=
  if m = 0 then (f.zero sg, 0)
  else
    let top := (bitLen m : Int) - 1 + e
    let emin : Int := 1 - (f.bias : Int)
    let q := max (top - f.mb) f.qmin
    let put := fun (q : Int) =>
      if q ≤ e then (m * 2 ^ (e - q).toNat, sticky) else roundAt rm sg m (q - e).toNat sticky
    let r := put q
    let free := put (top - f.mb)
    let tiny := decide (top < emin) && !(top == emin - 1 && free.1 == 2 ^ (f.mb + 1))
    let b := (q - f.qmin).toNat * 2 ^ f.mb + r.1
    let s := if sg then 2 ^ (f.eb + f.mb) else 0
    if (2 ^ f.eb - 1) * 2 ^ f.mb ≤ b then
      let toInf := match rm with | 0 => true | 4 => true | 2 => sg | 3 => !sg | _ => false
      (if toInf then f.inf sg else f.maxFin sg, 5)
    else (s + b, if r.2 then (if tiny then 3 else 1) else 0)

/-- The canonical NaN, with NV if an operand signals. -/
def Fmt.nanOf (f : Fmt) (l : List FVal) : FRes := (f.nan, if l.any FVal.signals then 16 else 0)

/-- An exact finite sum as a signed multiple of a power of two, rounded; an exact zero has sign `zs`. -/
def Fmt.roundInt (f : Fmt) (rm : Nat) (n e : Int) (zs : Bool) : FRes :=
  if n = 0 then (f.zero zs, 0) else f.round rm (decide (n < 0)) n.natAbs e false

/-! ### Arithmetic -/

/-- A finite value times a power of two, as an integer: (-1)^sg * m * 2^(e - k). -/
def signedAt (sg : Bool) (m : Nat) (e k : Int) : Int :=
  let v : Nat := m * 2 ^ (e - k).toNat
  if sg then -(v : Int) else v

/-- The sum of two values. -/
def Fmt.sum (f : Fmt) (rm : Nat) (a b : FVal) : FRes :=
  let down := rm == 2
  match a, b with
  | .nan _, _ => f.nanOf [a, b]
  | _, .nan _ => f.nanOf [a, b]
  | .inf x, .inf y => if x = y then (f.inf x, 0) else (f.nan, 16)
  | .inf x, _ => (f.inf x, 0)
  | _, .inf y => (f.inf y, 0)
  | .zero x, .zero y => (f.zero (if x = y then x else down), 0)
  | .zero _, .fin y m e => f.round rm y m e false
  | .fin x m e, .zero _ => f.round rm x m e false
  | .fin x m e, .fin y n d =>
    let k := min e d
    f.roundInt rm (signedAt x m e k + signedAt y n d k) k down

def signOf : FVal → Bool | .inf x => x | .zero x => x | .fin x _ _ => x | .nan _ => false

/-- The exact product of two values, none a NaN; `none` for infinity times zero. -/
def exactMul (a b : FVal) : Option FVal :=
  let sg := signOf a != signOf b
  match a, b with
  | .inf _, .zero _ => none
  | .zero _, .inf _ => none
  | .inf _, _ => some (.inf sg)
  | _, .inf _ => some (.inf sg)
  | .zero _, _ => some (.zero sg)
  | _, .zero _ => some (.zero sg)
  | .fin _ m e, .fin _ n d => some (.fin sg (m * n) (e + d))
  | .nan x, _ => some (.nan x)
  | _, .nan x => some (.nan x)

/-- A value rounded to a format. -/
def Fmt.ofVal (f : Fmt) (rm : Nat) (a : FVal) : FRes :=
  match a with
  | .nan x => (f.nan, if x then 16 else 0)
  | .inf x => (f.inf x, 0)
  | .zero x => (f.zero x, 0)
  | .fin x m e => f.round rm x m e false

def Fmt.mul (f : Fmt) (rm : Nat) (a b : FVal) : FRes :=
  if a.isNan || b.isNan then f.nanOf [a, b]
  else match exactMul a b with
    | none => (f.nan, 16)
    | some v => f.ofVal rm v

/-- a * b + c with one rounding. Infinity times zero raises NV even with a NaN addend. PRESUMED (assumption 20). -/
def Fmt.fma (f : Fmt) (rm : Nat) (a b c : FVal) : FRes :=
  if a.isNan || b.isNan then f.nanOf [a, b, c]
  else match exactMul a b with
    | none => (f.nan, 16)
    | some v => f.sum rm v c

def Fmt.div (f : Fmt) (rm : Nat) (a b : FVal) : FRes :=
  let sg := signOf a != signOf b
  match a, b with
  | .nan _, _ => f.nanOf [a, b]
  | _, .nan _ => f.nanOf [a, b]
  | .inf _, .inf _ => (f.nan, 16)
  | .zero _, .zero _ => (f.nan, 16)
  | .inf _, _ => (f.inf sg, 0)
  | _, .inf _ => (f.zero sg, 0)
  | .zero _, _ => (f.zero sg, 0)
  | .fin .., .zero _ => (f.inf sg, 8)
  | .fin _ m e, .fin _ n d =>
    let k := f.mb + 4 + bitLen n
    let x := m * 2 ^ k
    f.round rm sg (x / n) (e - d - k) (x % n != 0)

/-- The integer square root, found bit by bit from bit `i` - 1 down. -/
def isqrt (n : Nat) : Nat → Nat → Nat
  | 0, r => r
  | i + 1, r =>
    let t := r + 2 ^ i
    isqrt n i (if t * t ≤ n then t else r)

def Fmt.sqrt (f : Fmt) (rm : Nat) (a : FVal) : FRes :=
  match a with
  | .nan _ => f.nanOf [a]
  | .zero x => (f.zero x, 0)
  | .inf false => (f.inf false, 0)
  | .inf true => (f.nan, 16)
  | .fin true _ _ => (f.nan, 16)
  | .fin false m e =>
    let k := 2 * (f.mb + 4) + (if (e % 2) = 0 then 0 else 1)
    let x := m * 2 ^ k
    let r := isqrt x (bitLen x / 2 + 1) 0
    f.round rm false r ((e - k) / 2) (r * r != x)

/-! ### Comparison, minimum, sign, class -/

/-- Order of two values, none a NaN; zeros are equal. -/
def FVal.lt (a b : FVal) : Bool :=
  match a, b with
  | .zero _, .zero _ => false
  | .zero _, b => !signOf b
  | a, .zero _ => signOf a
  | .inf x, .inf y => x && !y
  | .inf x, _ => x
  | _, .inf y => !y
  | .fin x m e, .fin y n d => let k := min e d; decide (signedAt x m e k < signedAt y n d k)
  | _, _ => false

def FVal.eq (a b : FVal) : Bool := !a.isNan && !b.isNan && !a.lt b && !b.lt a

/-- A comparison's result and flags. `quiet`: NV for signalling NaNs only. -/
def compareF (quiet : Bool) (p : FVal → FVal → Bool) (a b : FVal) : FRes :=
  if a.isNan || b.isNan then (0, if !quiet || a.signals || b.signals then 16 else 0)
  else (if p a b then 1 else 0, 0)

/-- fmin, fmax: `x` and `y` are the encodings; -0 is below +0; the number where one is a NaN. With `nanWins`, fminm
and fmaxm. -/
def Fmt.pick (f : Fmt) (big nanWins : Bool) (x y : Nat) : FRes :=
  let a := f.val x
  let b := f.val y
  let fl := if a.signals || b.signals then 16 else 0
  let below := a.lt b || (match a, b with | .zero p, .zero q => p && !q | _, _ => false)
  if a.isNan && b.isNan || (nanWins && (a.isNan || b.isNan)) then (f.nan, fl)
  else if a.isNan then (y, fl)
  else if b.isNan then (x, fl)
  else (if below != big then x else y, fl)

/-- fsgnj, fsgnjn (1), fsgnjx (2). -/
def Fmt.sgnj (f : Fmt) (kind x y : Nat) : Nat :=
  let s := 2 ^ (f.eb + f.mb)
  let sy := y / s % 2
  let sg := match kind with | 0 => sy | 1 => 1 - sy | _ => (x / s + sy) % 2
  x % s + sg * s

/-- fclass. -/
def Fmt.cls (f : Fmt) (x : Nat) : Nat :=
  match f.val x with
  | .inf true => 1
  | .fin true m _ => if m < 2 ^ f.mb then 4 else 2
  | .zero true => 8
  | .zero false => 16
  | .fin false m _ => if m < 2 ^ f.mb then 32 else 64
  | .inf false => 128
  | .nan true => 256
  | .nan false => 512

/-! ### Integers -/

/-- An integer as a value of a format. -/
def Fmt.ofInt (f : Fmt) (rm : Nat) (n : Int) : FRes := f.roundInt rm n 0 false

/-- A finite value rounded to an integer, and whether that was inexact. -/
def roundInteger (rm : Nat) (sg : Bool) (m : Nat) (e : Int) : Nat × Bool :=
  if 0 ≤ e then (m * 2 ^ e.toNat, false) else roundAt rm sg m (-e).toNat false

/-- A value as an integer of `w` bits: out-of-range values and NaNs clamp with NV. -/
def toInt (w : Nat) (signed : Bool) (rm : Nat) (a : FVal) : Int × Nat :=
  let lo : Int := if signed then -(2 ^ (w - 1)) else 0
  let hi : Int := if signed then 2 ^ (w - 1) - 1 else 2 ^ w - 1
  match a with
  | .nan _ => (hi, 16)
  | .inf sg => (if sg then lo else hi, 16)
  | .zero _ => (0, 0)
  | .fin sg m e =>
    let r := roundInteger rm sg m e
    let v : Int := if sg then -(r.1 : Int) else r.1
    if v < lo then (lo, 16) else if hi < v then (hi, 16) else (v, if r.2 then 1 else 0)

/-- fround, and froundnx which raises NX. -/
def Fmt.roundInto (f : Fmt) (rm : Nat) (nx : Bool) (x : Nat) : FRes :=
  match f.val x with
  | .nan b => (f.nan, if b then 16 else 0)
  | .fin sg m e =>
    let r := roundInteger rm sg m e
    let v := if r.1 = 0 then f.zero sg else (f.round 0 sg r.1 0 false).1
    (v, if nx && r.2 then 1 else 0)
  | _ => (x, 0)

/-- The constants of fli (Zfa). PRESUMED (assumption 20). -/
def Fmt.li (f : Fmt) (i : Nat) : Nat :=
  let v := fun (m : Nat) (e : Int) => (f.round 0 false m e false).1
  match i with
  | 0 => (f.round 0 true 1 0 false).1
  | 1 => 2 ^ f.mb
  | 2 => v 1 (-16) | 3 => v 1 (-15) | 4 => v 1 (-8) | 5 => v 1 (-7) | 6 => v 1 (-4) | 7 => v 1 (-3)
  | 8 => v 1 (-2) | 9 => v 5 (-4) | 10 => v 3 (-3) | 11 => v 7 (-4) | 12 => v 1 (-1) | 13 => v 5 (-3)
  | 14 => v 3 (-2) | 15 => v 7 (-3) | 16 => v 1 0 | 17 => v 5 (-2) | 18 => v 3 (-1) | 19 => v 7 (-2)
  | 20 => v 1 1 | 21 => v 5 (-1) | 22 => v 3 0 | 23 => v 1 2 | 24 => v 1 3 | 25 => v 1 4 | 26 => v 1 7
  | 27 => v 1 8 | 28 => v 1 15 | 29 => v 1 16 | 30 => f.inf false | _ => f.nan

/-- fadd of the Harness (R318): round to nearest, ties to even. -/
def harnessAdd (f : Fmt) (x y : Nat) : FRes := f.sum 0 (f.val x) (f.val y)

end Sys2Proof.Machine
end

