-- ==== Sys2Proof/Machine/Power.lean ====
section
/-! DEFINITION. What the Keeper carries on from a report: panels being powered (R401), POWER requests (R356, R402,
R404), DESTROY, DORMANT (R403), and the end of an alteration (R79, R80). Then the commands of rails, fences,
deadlines and doors that set it going. -/

namespace Sys2Proof.Machine

/-! ### Units a POWER request names (R350, R404) -/

/-- A panel or a saddle's LLC under its own name. -/
def powerName : PowerUnit → PowerUnit
  | .other (.panel p) => .panel p
  | .other (.llc t) => .llc t
  | u => u

/-- The BLOCK argument of a unit. -/
def powerCode : PowerUnit → Nat
  | .panel p => p.val
  | .llc t => 10 * 2 ^ 28 + t.val
  | .other (.panel p) => p.val
  | .other (.llc t) => 10 * 2 ^ 28 + t.val
  | .other (.bob n) => 6 * 2 ^ 28 + n.val
  | .other (.pcie k) => 7 * 2 ^ 28 + k.val
  | .other (.mc (.hbm n)) => 8 * 2 ^ 28 + n.val
  | .other (.mc (.ddr n)) => 9 * 2 ^ 28 + n.val

/-- Controllers of a saddle that a POWER request acts on: those that have not FAILED and are not ABSENT. -/
def State.liveCtlrs (s : State) (t : Nat) : List Ctlr :=
  (sdCtlrs t).filter fun c => decide (s.fld (R.mcInfo c) F.mcInfo_STATE ≤ 2)

/-- Fences that close and open with a unit. -/
def State.powerFences (s : State) : PowerUnit → List FenceUnit
  | .panel p => [.panel p]
  | .llc t => FenceUnit.llc t :: (s.liveCtlrs t.val).map FenceUnit.mc
  | .other u => [u]

/-- A block lies inside a unit. -/
def blockInside (u : PowerUnit) (b : Block) : Bool :=
  match u, b with
  | .panel p, .panel q => p == q
  | .panel p, .file h _ => h.panel == p
  | .other (.pcie k), .func port _ => port == k
  | .other (.bob n), .chan m _ => m == n
  | _, _ => false

/-- Pocket-owned blocks inside a unit. -/
def State.pocketBlocks (s : State) (u : PowerUnit) : List Block :=
  let all : List Block := match u with
    | .panel p => Block.panel p :: ((List.finRange 20).flatMap fun c =>
        ((List.finRange 8).filter (·.val != 0)).map fun g => Block.file ⟨p, c⟩ g)
    | .other (.pcie k) => (s.io.func.filter fun (e : Nat × Nat) => e.1 / 65536 == k.val).map fun (e : Nat × Nat) => Block.func k (BitVec.ofNat 16 e.1)
    | .other (.bob n) => (List.finRange 8).map (Block.chan n)
    | _ => []
  all.filter fun b => (s.blockOwner b).2 != 0

/-! ### A command to a fence, on its way or its report -/

/-- A command or report of a fence is on its way. -/
def State.fenceBusy (s : State) (u : FenceUnit) : Bool :=
  s.net.any fun p => (p.op == 0x50 || p.op == 0x51) && p.txid == BitVec.ofNat 12 u.num

/-- The Keeper knows the fence to be CLOSED, or OPEN. -/
def State.knownClosed (s : State) (u : FenceUnit) : Bool := !s.fenceBusy u && s.fenceState u == 0
def State.knownOpen (s : State) (u : FenceUnit) : Bool := !s.fenceBusy u && s.fenceState u == 2

def State.isFaulted (s : State) (u : FenceUnit) : Bool := s.fld (R.fenceStatus u) F.fenceStatus_FAULTED == 1

/-! ### Panels being powered (R401, R427) -/

/-- POWER ON begins: the panel's target is requested. -/
def State.riseStart (s : State) (p : Nat) : State :=
  { s with thm.up := KMap.set 0 p 1 s.thm.up }.pushVout p

/-- A report of the fence of a panel that is being powered: OPEN, it is ON and its harts are released, at boot
step 7 with all the others; closed by force, its power-on has failed. -/
def State.panelRise (s : State) (p : Nat) : State :=
  let u : FenceUnit := .panel (Fin.ofNat 12 p)
  let boot := s.boot.pnlWait.contains p
  if KMap.get 0 s.thm.up p = 0 then s
  else if s.fenceState u = 2 then
    let s := { s with thm.up := KMap.erase p s.thm.up, boot.pnlWait := s.boot.pnlWait.filter (· != p) }.setPanelState p 0
    if boot then s.panelsReady else s.releaseHarts p
  else if s.fenceState u = 0 then
    if boot then s.dropPanel p else s.railOff p
  else s

/-! ### POWER requests (R356, R400-R404) -/

/-- Pockets that are not FREE and hold a range which a fence unit backs. -/
def State.rangesBacked (s : State) (us : List FenceUnit) : Bool :=
  s.bolts.any fun b => (us.any b.units.contains) && (s.pock.p.any fun e => s.heldBytes e.1 b != 0)

/-- Pockets hold ranges homed on a saddle, or backed by its controllers. -/
def State.rangesOn (s : State) (t : Nat) : Bool :=
  s.rangesBacked ((sdCtlrs t).map FenceUnit.mc) || s.pock.p.any fun e => (s.homeSaddles e.1).contains t

/-- The REASON for which a POWER request is refused (R356, R402, R404, R430). DEDUCED (assumption 79). -/
def State.powerRefused (s : State) (u : PowerUnit) (st : Nat) : Option Nat :=
  if s.boot.dorm.isSome then some 0
  else match u with
    | .panel p =>
      let gone := s.fld (R.hartEn p.val) F.hartEn_PANEL_EN == 0 || s.id.dieHeld.contains (saddlePos (p.val / 3)) ||
        s.id.dieHeld.contains (panelPos p.val)
      match st with
      | 0 => none
      | 1 => if s.panelState p.val = 2 ∨ s.fld (R.vstate p.val) F.vstate_VREG_FAULT = 1 then some 0 else none
      | 2 => if gone then some 0 else none
      | _ => some 0
    | .llc t =>
      match st with
      | 0 => if s.rangesOn t.val then some 1 else s.saddleReason t.val
      | 1 =>
        if s.rangesOn t.val then some 1
        else if s.saddleReason t.val = some 2 then some 2
        else if s.deadline 1 < 50000 then some 3
        else if s.saddleState t.val = 2 then some 0 else none
      | 2 => if s.id.dieHeld.contains (saddlePos t.val) then some 0 else none
      | _ => some 0
    | .other v =>
      let mem := match v with | .mc _ => true | .pcie _ => true | _ => false
      match st with
      | 0 => if mem && s.rangesBacked [v] then some 1 else none
      | 2 => none
      | _ => some 0

/-- The change of a POWER request begins. -/
def State.powerApply (s : State) (u : PowerUnit) (st : Nat) : State × Nat :=
  let off := fun (s : State) => ((s.powerFences u).filter fun v => s.fenceState v != 0).foldl (fun s v => s.keeperFence v false) s
  let on := fun (s : State) => ((s.powerFences u).filter fun v => s.fenceState v != 2).foldl (fun s v => s.keeperFence v true) s
  match u, st with
  | .panel p, 0 =>
    let n := p.val
    let s := (s.dimOf n).inv.foldl (fun s e => s.updHart (hartNum n e.1) fun x => (x.dropL1 e.2).dropL2 e.2) s
    if s.fenceState (.panel p) = 0 then (s, 2) else (off s, 1)
  | .panel p, 1 =>
    let d := s.dimOf p.val
    if d.stage = 0 then (s.dimStart p.val true, 1)
    else ({ s with thm.dim := KMap.set {} p.val { d with byReq := true, woken := false } s.thm.dim }, 1)
  | .panel p, _ =>
    let n := p.val
    if s.panelState n = 2 then (s.riseStart n, 1)
    else if (s.dimOf n).stage ≠ 0 then (s.dimCause n, 1)
    else (s, 1)
  | .llc t, 1 => (if s.saddleState t.val = 0 then s.quietEnter t.val else s, 1)
  | .llc t, 2 => (if s.saddleState t.val = 1 then s.quietWake t.val else on s, 1)
  | _, 2 => (on s, 1)
  | _, _ => (off s, 1)

/-- STATUS of a POWER request whose change has ended, and what then stands. -/
def State.powerEnded (s : State) (r : PowerReq) : Option (Nat × State) :=
  let us := s.powerFences r.unit
  let bad := us.any s.isFaulted
  let opened := fun (s : State) =>
    if us.any s.fenceBusy || us.any (fun v => s.fenceState v == 1 || s.fenceState v == 3) then none
    else some (if us.all fun v => s.fenceState v == 2 then 0 else 7)
  match r.unit, r.state with
  | .panel p, 0 =>
    if r.phase = 2 then some (0, s.railOff p.val)
    else if s.knownClosed (.panel p) then some (if bad then 7 else 0, s.railOff p.val)
    else none
  | .panel p, 1 => if (s.dimOf p.val).stage = 3 then some (0, s) else none
  | .panel p, _ =>
    if KMap.get 0 s.thm.up p.val ≠ 0 ∨ (s.dimOf p.val).stage ≠ 0 then none
    else some (if s.panelState p.val = 0 then 0 else 7, s)
  | .llc _, 1 => some (0, s)
  | .llc t, 2 =>
    if s.saddleState t.val = 1 then none
    else if s.saddleState t.val = 0 then some (0, s)
    else match opened s with
      | none => none
      | some c => some (c, if s.fenceState (.llc t) = 2 then s.setSaddleState t.val 0 else s)
  | .llc t, _ => if us.all s.knownClosed then some (if bad then 7 else 0, s.setSaddleState t.val 2) else none
  | .other _, 2 => (opened s).map fun c => (c, s)
  | .other v, _ => if s.knownClosed v then some (if s.isFaulted v then 7 else 0, s) else none

/-- A POWER request goes on: once its hand-overs have ended its change begins, and once that has ended it is
answered, with DONE where HELD was answered before. -/
def State.powerStep (s : State) (r : PowerReq) : State :=
  let mine := fun h : HandOver => h.power && h.world == r.world && h.seq == r.seq && blockInside r.unit h.block
  let same := fun x : PowerReq => x.unit == r.unit
  let put := fun (s : State) (r : PowerReq) =>
    ({ s with pock.power := s.pock.power.map fun x => if same x then r else x } : State)
  if r.phase = 0 ∧ s.pock.hand.any fun h => mine h && h.step != 7 then s
  else
    let (s, r) := if r.phase = 0 then
        let bad := s.pock.hand.any fun h => mine h && h.faulted
        let s := { s with pock.hand := s.pock.hand.filter fun h => !mine h }
        let (s, n) := s.powerApply r.unit r.state
        let r := { r with phase := n, bad := bad }
        (put s r, r)
      else (s, r)
    match s.powerEnded r with
    | none => s
    | some (c, s) =>
      let s := { s with pock.power := s.pock.power.filter fun x => !same x }
      s.doorPost { world := r.world, code := if r.held then 0x86 else 7, status := if r.bad then 7 else c, seq := r.seq
                   args := leBytes 4 (powerCode r.unit) }

/-- A POWER request that is served: HELD and its hand-overs, or its change at once. DEDUCED (assumption 79). -/
def State.powerServe (s : State) (world seq : Nat) (u : PowerUnit) (st : Nat) : State :=
  let bs := s.pocketBlocks u
  let r : PowerReq := { world := world, seq := seq, unit := u, state := st, held := !bs.isEmpty }
  let s : State := { s with pock.power := s.pock.power ++ [r] }
  if bs.isEmpty then s.powerStep r
  else
    let s := s.doorPost { world := world, code := 7, status := 3, seq := seq, args := leBytes 4 (powerCode u) }
    let s := bs.foldl (fun s b => s.handStart { block := b, src := (s.blockOwner b).2, dst := 0, step := 1, world := world
                                                seq := seq, power := true }) s
    s.checkSeals.powerStep r

/-- A panel of a saddle whose partition the alteration in progress changes (R76, R80). -/
def State.girthHeld (s : State) (p : Nat) : Bool :=
  match s.pat.alt with
  | none => false
  | some a => match a.epoch.find? fun x => x.type == 0x40 with
    | none => false
    | some x => (s.putPiece x).partitionSaddles (p / 3) != s.partitionSaddles (p / 3)

/-- A POWER request of the host world. -/
def State.powerReq (s : State) (d : DoorHdr) (u : PowerUnit) (st : Nat) : State :=
  s.doorHost d 7 fun s =>
    let u := powerName u
    let arg := leBytes 4 (powerCode u)
    let busy := (s.pock.power.any fun r => r.unit == u) || (s.pock.hand.any fun h => blockInside u h.block) ||
      (s.pat.heldPower.any fun e => PowerUnit.panel (Fin.ofNat 12 e.2.2) == u)
    if busy then s.doorReply d 7 5 0 0 arg
    else match s.powerRefused u st, u with
      | some n, _ => s.doorReply d 7 1 n 0 arg
      | none, .panel p =>
        if st = 2 ∧ s.girthHeld p.val then
          { s with pat.heldPower := s.pat.heldPower ++ [(d.world.toNat, d.seq.toNat, p.val)] }
        else s.powerServe d.world.toNat d.seq.toNat u st
      | none, _ => s.powerServe d.world.toNat d.seq.toNat u st

/-! ### DORMANT (R403) -/

/-- Registers elsewhere than `stays` marks return to their reset values. -/
def State.keepRegs (s : State) (stays : Nat → Bool) : State :=
  { s with regs := s.regs.filter fun e => stays e.1 }

/-- The units whose rails DORMANT has removed are at their reset values; identity, the Tape, deadline values, the
Thimble and the Keeper stay. The pieces of the pattern store configure the package anew. DEDUCED (assumption 81). -/
def State.dormDown (s : State) (keepDdr : Bool) : State :=
  let s : State := { s.accrueAll with cnt := {} }
  let s := (List.range 4).foldl (fun s t => s.setSaddleState t 2) ((List.range 12).foldl State.railOff s)
  let keep := [R.pkgId, R.pkgSerial, R.threadStatus, R.tape, R.tapeStatus] ++ (List.range 11).map R.deadline ++
    (List.range 4).map R.sdlDieId ++ (List.range 12).flatMap fun p => [R.pnlDieId p, R.hartEn p, R.resetVec p]
  let stays := fun a : Nat => (decide (0xC00000 ≤ a) && decide (a < 0xD00000)) ||
    (decide (0xD000000 ≤ a) && decide (a < 0x10000000)) || decide (0x100000000 ≤ a) || keep.any fun r => r.addr == a
  let lost := s.bolts.filter fun b => b.kind == 0 || (b.kind == 1 && !keepDdr)
  let s := lost.foldl (fun s b => s.rekey (b.base * 2 ^ 30) (b.size * 2 ^ 30) false) s
  let s := (List.range 12).foldl (fun s p => (panelHarts p).foldl State.resetHart s) s
  let s := s.keepRegs stays
  let s : State := { s with
    ports := [], slices := [], range := [], gus := [], fences := [], mcs := [], epoch := {}, trace := []
    io := {}, net := [], aplic := [], aplicReg := [], files := [], iommu := [], msi := []
    hrn := { nonce := s.hrn.nonce, serial := s.hrn.serial }, memPoison := []
    errSeq := s.errSeq.filter fun e => e.1 == 18 || e.1 == 19
    id.fabricUp := false, id.heldRecs := [], thm.dim := [], thm.up := [], thm.quiet := [], thm.keepDdr := keepDdr
    pins.railEn := false }
  let s := (List.range 12).foldl State.configPanel s
  let s := (List.range 4).foldl State.configSaddle s
  let s := allCtlrs.foldl State.configMc s
  let s := (List.range 92).foldl State.configBank s
  let s := (List.range 64).foldl State.configBobbin s
  (s.hostOwners.setPkg 2).setF R.svcStatus F.svcStatus_LINK_UP 0

/-- DORMANT goes on: panels first, then everything else behind a fence, then the rails. DEDUCED (assumption 81). -/
def State.dormStep (s : State) : State :=
  match s.boot.dorm with
  | none => s
  | some (seq, keep, stage) =>
    let others := (List.finRange 4).map FenceUnit.llc ++ allCtlrs.map FenceUnit.mc ++ (List.finRange 8).map FenceUnit.pcie ++
      (List.finRange 64).map FenceUnit.bob
    let ps := (List.finRange 12).map FenceUnit.panel
    if stage = 1 then
      if !ps.all s.knownClosed then s
      else
        let s := (List.range 12).foldl State.railOff s
        let s := (others.filter fun u => s.fenceState u != 0).foldl (fun s u => s.keeperFence u false) s
        { s with boot.dorm := some (seq, keep, 2) }
    else if !others.all s.knownClosed then s
    else { s with boot.dorm := none }.dormDown keep |>.mbxEnd seq 0

/-- DORMANT: refused unless every pocket is FREE. -/
def dormantEff (seq : BitVec 16) (keepDdr : Bool) (s : State) : State :=
  s.mbxRun seq.toNat s.service fun s =>
    if s.pock.p.any (fun e => e.2.st != .free) || !s.pock.power.isEmpty || s.boot.dorm.isSome then s.mbxEnd seq.toNat 0x80
    else
      let ps := (List.finRange 12).map FenceUnit.panel
      let s := (ps.filter fun u => s.fenceState u != 0).foldl (fun s u => s.keeperFence u false) (s.mbxBegin seq.toNat)
      let s : State := { s with boot.dorm := some (seq.toNat, keepDdr, 1) }
      s.dormStep.dormStep

/-! ### The Keeper goes on -/

/-- A DESTROY whose hand-overs have ended is completed. -/
def State.destroyStep (s : State) : State :=
  match s.pock.hand.find? fun h => h.destroy && !s.destroyWaits h.src with
  | some h => s.destroyEnd h.src h.seq
  | none => s

/-- What waits on a report is carried on: DESTROY, POWER requests, DORMANT. -/
def State.keeperWork (s : State) : State :=
  let s := s.destroyStep
  let s := s.pock.power.foldl State.powerStep s
  s.checkSeals.dormStep

/-! ### Rails and DIM -/

def voutAckEff (p : Panel) (s : State) : State := (s.voutAcked p.val).keeperWork

/-- VREG_EXPIRY: of a panel's rail, which at boot step 7 excludes the panel, or of RAIL_GOOD. -/
def vregExpiryEff (v : VregSite) (s : State) : State :=
  match v with
  | .railGood => s.railLate
  | .panel p =>
    if (KMap.get none s.thm.outT p.val).isNone then s
    else
      let s := s.vregExpired p.val
      if s.boot.pnlWait.contains p.val then s.dropPanel p.val else s

/-- A write of 1 to VREG_FAULT. -/
def vregFaultClearEff (a : Agent) (p : Panel) (s : State) : State :=
  s.ctlGuard a (R.vstate p.val).addr fun s => (s.clearVreg p.val, .ok)

def dimEntryEff (p : Panel) (s : State) : State := s.dimEnter p.val
def dimLeavingEmptyEff (p : Panel) (s : State) : State := s.dimLow p.val
def dimWakeEff (p : Panel) (s : State) : State := s.dimIrq p.val
def dimResumeEff (p : Panel) (s : State) : State := (s.dimEnd p.val).keeperWork
def quietExitEff (sd : Saddle) (s : State) : State := (s.quietEnd sd.val).keeperWork

/-! ### Resets, fences and deadlines -/

/-- PER_PANEL_RESET: of a panel being powered, or of one on its way to another world. -/
def perPanelResetEff (p : Panel) (identityOk : Bool) (s : State) : State :=
  let n := p.val
  let rising := KMap.get 0 s.thm.up n == 2
  let handed := match s.findHand (.panel p) with | some h => h.step == 3 | none => false
  if !rising && !handed then s
  else
    let s := s.resetPanel n identityOk
    let s := s.handTag n identityOk
    if !rising then s.keeperWork
    else if identityOk then { s with thm.up := KMap.set 0 n 3 s.thm.up }
    else (if s.boot.pnlWait.contains n then s.dropPanel n else s.railOff n).keeperWork

/-- FENCE_REPLY: the report reaches the Keeper. -/
def fenceReplyEff (u : FenceUnit) (s : State) : State :=
  let s := s.arrive fun p => p.op == 0x51 && p.txid == BitVec.ofNat 12 u.num
  match u with
  | .panel p => ((s.handFence p.val).panelRise p.val).keeperWork
  | _ => s.keeperWork

def drainCompleteEff (u : DrainUnit) (s : State) : State :=
  match u with
  | .fence u => s.drainDone u
  | .block b => (s.blockDrainDone b).keeperWork

def fenceExpiryEff (u : DrainUnit) (s : State) : State :=
  match u with
  | .fence u => s.fenceExpired u
  | .block b => (s.blockLate b).keeperWork

def releaseExpiryEff (b : Block) (s : State) : State := (s.releaseLate b).keeperWork

/-! ### POWER (R356) -/

def powerOffEff (d : DoorHdr) (u : PowerUnit) (s : State) : State := s.powerReq d u 0
def powerDimEff (d : DoorHdr) (p : Panel) (s : State) : State := s.powerReq d (.panel p) 1
def powerOnEff (d : DoorHdr) (u : PowerUnit) (s : State) : State := s.powerReq d u 2
def powerQuietEff (d : DoorHdr) (sd : Saddle) (s : State) : State := s.powerReq d (.llc sd) 1

/-! ### Alterations (R77-R80) -/

/-- ALTERATION_COMPLETE: every piece is in effect. Held resets and power-ons are served in their order. -/
def alterationCompleteEff (s : State) : State :=
  match s.pat.alt with
  | none => s
  | some a =>
    if !s.alterDone a then s
    else
      let s := (s.setF R.patSeq F.patSeq_LAST_SEQ a.sequence).incF R.patSeq F.patSeq_ALT_COUNT
      let s := (s.extendMeas 5 (leBytes 32 a.digest)).setF R.patStatus F.patStatus_BUSY 0
      let resets := s.pat.heldResets
      let power := s.pat.heldPower
      let s : State := { s with pat.alt := none, pat.locked := false, pat.heldResets := [], pat.heldPower := [] }
      let s := s.svcMsix 3
      let s := if a.door then s.doorPost { world := 0, code := 0x10, status := 0, seq := a.seq } else s.mbxEnd a.seq 0
      let s := resets.foldl State.endHeldReset s
      let s := power.foldl (fun s e => s.powerServe e.1 e.2.1 (.panel (Fin.ofNat 12 e.2.2)) 2) s
      s.checkSeals

/-- DOOR_ALTER: the Keeper copies the image from the host world's memory into the staging region. A refusal's
REASON is the code of the check. DEDUCED (assumption 70). -/
def doorAlterEff (d : DoorHdr) (pa : Addr) (len : BitVec 32) (s : State) : State :=
  s.doorTake d 0x10 fun s =>
    if d.world ≠ 0 then s.doorViol d 0x10
    else if s.fld R.patStatus F.patStatus_BUSY = 1 then s.doorReply d 0x10 5 1
    else
      let a := pa.toNat
      let n := min len.toNat 0x100001
      let seen := s.flushLines (a / 64) ((a + n + 63) / 64)
      let img := seen.getList a n
      match s.welt false 0 a false with
      | .pass =>
        let (c, s) := ({ s with pat.staging := img } : State).submitAlter img 4 true d.seq.toNat
        if c = 0 then s else (s.svcMsix 3).doorReply d 0x10 1 c
      | _ => s.doorReply d 0x10 1 0

def execVregExpiry (v : VregSite) (s : State) : Host.Outcome State Fault Refusal :=
  .next (vregExpiryEff v s)
def execFenceExpiry (u : DrainUnit) (s : State) : Host.Outcome State Fault Refusal :=
  .next (fenceExpiryEff u s)
def execReleaseExpiry (b : Block) (s : State) : Host.Outcome State Fault Refusal :=
  .next (releaseExpiryEff b s)
def execAlterationComplete (s : State) : Host.Outcome State Fault Refusal :=
  .next (alterationCompleteEff s)
def execDoorAlter (d : DoorHdr) (pa : Addr) (len : BitVec 32) (s : State) : Host.Outcome State Fault Refusal :=
  .next (doorAlterEff d pa len s)
def execPerPanelReset (p : Panel) (identityOk : Bool) (s : State) : Host.Outcome State Fault Refusal :=
  .next (perPanelResetEff p identityOk s)
def execDrainComplete (u : DrainUnit) (s : State) : Host.Outcome State Fault Refusal :=
  .next (drainCompleteEff u s)
def execFenceReply (u : FenceUnit) (s : State) : Host.Outcome State Fault Refusal :=
  .next (fenceReplyEff u s)
def execPowerOff (d : DoorHdr) (u : PowerUnit) (s : State) : Host.Outcome State Fault Refusal :=
  .next (powerOffEff d u s)
def execPowerDim (d : DoorHdr) (p : Panel) (s : State) : Host.Outcome State Fault Refusal :=
  .next (powerDimEff d p s)
def execPowerOn (d : DoorHdr) (u : PowerUnit) (s : State) : Host.Outcome State Fault Refusal :=
  .next (powerOnEff d u s)
def execPowerQuiet (d : DoorHdr) (sd : Saddle) (s : State) : Host.Outcome State Fault Refusal :=
  .next (powerQuietEff d sd s)
def execVoutAck (p : Panel) (s : State) : Host.Outcome State Fault Refusal :=
  .next (voutAckEff p s)
def execVregFaultClear (a : Agent) (p : Panel) (s : State) : Host.Outcome State Fault Refusal :=
  .next (vregFaultClearEff a p s)
def execDimEntry (p : Panel) (s : State) : Host.Outcome State Fault Refusal :=
  .next (dimEntryEff p s)
def execDimLeavingEmpty (p : Panel) (s : State) : Host.Outcome State Fault Refusal :=
  .next (dimLeavingEmptyEff p s)
def execDimWake (p : Panel) (s : State) : Host.Outcome State Fault Refusal :=
  .next (dimWakeEff p s)
def execDimResume (p : Panel) (s : State) : Host.Outcome State Fault Refusal :=
  .next (dimResumeEff p s)
def execDormant (seq : BitVec 16) (keepDdr : Bool) (s : State) : Host.Outcome State Fault Refusal :=
  .next (dormantEff seq keepDdr s)
def execQuietExit (sd : Saddle) (s : State) : Host.Outcome State Fault Refusal :=
  .next (quietExitEff sd s)

end Sys2Proof.Machine
end

