-- ==== Sys2Proof/Machine/HrnOps.lean ====
section
/-! DEFINITION. Harness operations at both ends (R311-R325): descriptors, what is sent and when, completion
records, window accesses, and what a destination checks and performs. -/

namespace Sys2Proof.Machine

/-! ### Accesses of the Harness to this package's memory (R315, R317) -/

/-- The pieces of `n` bytes from `pa` by line: address, offset, length. -/
def pieces (pa off n : Nat) : Nat → List (Nat × Nat × Nat)
  | 0 => []
  | fuel + 1 =>
    if n = 0 then []
    else
      let m := min n (64 - pa % 64)
      (pa, off, m) :: pieces (pa + m) (off + m) (n - m) fuel

/-- The pieces of a buffer of at most 4,096 bytes. -/
def bufPieces (pa n : Nat) : List (Nat × Nat × Nat) := pieces pa 0 n 66

/-- What a request of the Harness is for, with the operation it belongs to. Purposes: 0 a descriptor fetch of
queue `id`; 1 a read, 2 a write of the local buffer; 3 a completion record; 4 a line of an operation performed
here; 5 a slot's header; 6 an atomic performed here. -/
def hsub (purpose id : Nat) : Nat := purpose * 2 ^ 48 + id

/-- A request of the Harness under a pocket. -/
def State.hrnSend (s : State) (pocket sub : Nat) (op : BitVec 8) (c : Nat × Nat × Nat) (v : Nat := 0)
    (cmp : Nat := 0) (md : Nat := 0) : State :=
  let off := c.1 % 64
  s.yokeSend { agent := .harness (BitVec.ofNat 12 pocket), eye := 0, txid := 0, op := op, pa := BitVec.ofNat 56 c.1,
               size := c.2.2, kind := 5, off := c.2.1, data := placeAt v off, be := beOf off c.2.2, mod := BitVec.ofNat 8 md,
               cmp := BitVec.ofNat 128 cmp, sub := sub, needData := op != 0x09 }

/-- Reads of a buffer. -/
def State.hrnRead (s : State) (pocket sub pa n : Nat) : State :=
  (bufPieces pa n).foldl (fun s c => s.hrnSend pocket sub 0x08 c) s

/-- Writes of a buffer. -/
def State.hrnWrite (s : State) (pocket sub pa : Nat) (l : List Byte) : State :=
  (bufPieces pa l.length).foldl (fun s c => s.hrnSend pocket sub 0x09 c (le l c.2.1 c.2.2)) s

/-- The bytes of a list that `got` collects: byte `i` at key `i`, plus 1. -/
def gotBytes (got : KMap Nat) (n : Nat) : List Byte :=
  (List.range n).map fun i => BitVec.ofNat 8 (KMap.get 0 got i - 1)

/-- A piece of a line joins what has been read. -/
def collect (got : KMap Nat) (off n : Nat) (d : LineData) (at' : Nat) : KMap Nat :=
  (List.range n).foldl (fun g i => KMap.set 0 (off + i) (lineByte d (at' + i) + 1) g) got

/-- The Welt's check of a whole buffer under a pocket (R317): the first piece refused, and why. -/
def State.bufferBad (s : State) (pocket pa n : Nat) (write : Bool) : Option (Nat × Check) :=
  (bufPieces pa n).findSome? fun c =>
    match s.welt false pocket c.1 write with
    | .pass => none
    | k => some (c.1, k)

/-- A record of the Harness about a response other than OK (R315). The spec names no KIND for one that is
neither VIOL nor POISON. DESIGN CHOICE (assumption 99). -/
def State.hrnFail (s : State) (pocket pa tag : Nat) (r : Resp) : State :=
  let u := unitCode 0x0E 0x3FF
  match r with
  | .viol => s.err 17 1 2 u 1 pa (violMisc pocket tag 0xC9 0x1FF s.nodeId)
  | .poison => s.err 17 2 1 u 1 pa (poisonMisc 4 pocket tag 0x1FF)
  | _ =>
    let (n, s) := s.fresh
    s.err 17 1 (n % 6) u 1 pa (n / 8 % 2 ^ 64)

/-- Poison that the Harness consumes is recorded (R446), with the first poisoned byte of the piece.
DESIGN CHOICE (assumption 99). -/
def State.hrnPoison (s : State) (y : YReq) (po : BitVec 4) : State :=
  s.hrnFail (s.agentPocket y.agent) (y.pa.toNat + (firstPoison po (y.pa.toNat % 64) y.size).getD 0) (y.txid % 4096) .poison

/-! ### Command queues (R315) -/

/-- Entries of a command queue. -/
def State.cqSize (s : State) (q : Nat) : Nat := 2 ^ clampN 6 12 (s.fld (R.cqBase q) F.cqBase_LOG_ENTRIES)
/-- The pocket that owns a command queue. -/
def State.cqPocket (s : State) (q : Nat) : Nat := s.fld (R.cqOwner q) F.cqOwner_POCKET
/-- The ring of a command queue. -/
def State.cqRing (s : State) (q : Nat) : Nat := s.fld (R.cqBase q) F.cqBase_BASE * 4096

/-- RUNNING while a queue has descriptors to fetch, to start or to complete. -/
def State.cqRefresh (s : State) (q : Nat) : State :=
  let r := R.cqStatus q
  if s.fld r F.cqStatus_STATE = 2 then s
  else
    let busy := s.fld r F.cqStatus_HEAD != s.fld (R.cqTail q) F.cqTail_TAIL ||
      s.fld r F.cqStatus_OUTSTANDING != 0 || s.hrn.desc.any fun d => d.q == q
    s.setF r F.cqStatus_STATE (if busy then 1 else 0)

/-- A queue halts: no further descriptor is fetched, and a record is written. -/
def State.cqHalt (s : State) (q pa : Nat) (r : Resp) : State :=
  (s.setF (R.cqStatus q) F.cqStatus_STATE 2).hrnFail (s.cqPocket q) pa 0 r

/-- A descriptor fetch has been answered. -/
def State.cqFetched (s : State) (q slot pa : Nat) (r : Resp) (d : LineData) (po : BitVec 4) : State :=
  let mine := fun e : HDesc => e.q == q && e.slot == slot && e.body.isNone
  if !s.hrn.desc.any mine then s
  else
    let r := if r == .ok && poisonHit po (pa % 64) 64 then Resp.poison else r
    if r = .ok then
      let body := (List.range 64).map fun i => BitVec.ofNat 8 (lineByte d i)
      { s with hrn.desc := s.hrn.desc.map fun e => if mine e then { e with body := some body } else e }
    else
      let s : State := { s with hrn.desc := s.hrn.desc.filter fun e => !mine e }
      s.cqHalt q pa r

/-! ### Descriptors (R312, R316) -/

/-- OP of a descriptor. -/
def descOp (l : List Byte) : Nat := le l 0 1 % 8 % 7
/-- LEN as clamped. -/
def descLen (l : List Byte) : Nat := min 4096 (le l 4 4)
/-- AOP as clamped. -/
def descAop (l : List Byte) : Nat := min 10 (le l 2 1 % 16)
/-- Bytes of an atomic's operand. -/
def awBytes (wide : Bool) : Nat := if wide then 16 else 8

/-- A global pointer that names no destination (R312). -/
def badTarget (t : Nat) : Bool := bit t 127 || t / 2 ^ 112 % 2 ^ 15 == 0x7FFF || t / 2 ^ 56 % 256 != 0

/-- A tag no operation holds, from `n` on. -/
def freeTag (ops : List HOp) (n : Nat) : Nat → Nat
  | 0 => n % 16384
  | fuel + 1 => if ops.any fun o => o.tag == n % 16384 then freeTag ops (n + 1) fuel else n % 16384

/-- A descriptor of a queue as the operation it starts. -/
def State.descHOp (s : State) (d : HDesc) (l : List Byte) : HOp :=
  let p := s.cqPocket d.q
  let t := le l 8 16
  let kind := descOp l
  let wide := bit (le l 3 1) 0
  let data := if kind = 4 then (l.drop 0x20).take 32 else if kind = 3 then (l.drop 0x20).take 8 else []
  { tag := freeTag s.hrn.ops s.hrn.nextTag 16384, kind := kind, q := some d.q, slot := d.slot, phaseBit := d.phase,
    m := { srcNode := BitVec.ofNat 15 s.nodeId, dstNode := BitVec.ofNat 15 (t / 2 ^ 112), srcPocket := BitVec.ofNat 12 p,
           dstPocket := BitVec.ofNat 12 (t / 2 ^ 100), ordered := bit (le l 1 1) 0, vc := false,
           ttl := BitVec.ofNat 8 s.initTtl, budget := 0, tag := BitVec.ofNat 14 (freeTag s.hrn.ops s.hrn.nextTag 16384),
           len := BitVec.ofNat 13 (if kind = 4 then awBytes wide else descLen l), aop := BitVec.ofNat 4 (descAop l), awidth := wide,
           addr := BitVec.ofNat 56 t, resp := .ok, payload := data },
    loc := le l 0x18 8 % 2 ^ 56, irq := bit (le l 1 1) 1, result := bit (le l 1 1) 2, t := s.timer 17 5, serial := s.hrn.serial }

/-- An operation joins those outstanding. -/
def State.pushOp (s : State) (o : HOp) : State :=
  let s : State := { s with hrn.ops := s.hrn.ops ++ [o], hrn.serial := s.hrn.serial + 1, hrn.nextTag := o.tag + 1 }
  let s := s.uev 4 0x120 0 o.m.srcPocket.toNat
  match o.q with
  | some q => s.incF (R.cqStatus q) F.cqStatus_OUTSTANDING
  | none => s

def State.findOp (s : State) (serial : Nat) : Option HOp := s.hrn.ops.find? fun o => o.serial == serial

def State.updOp (s : State) (serial : Nat) (f : HOp → HOp) : State :=
  { s with hrn.ops := s.hrn.ops.map fun o => if o.serial == serial then f o else o }

def State.dropOp (s : State) (serial : Nat) : State :=
  { s with hrn.ops := s.hrn.ops.filter fun o => o.serial != serial }

/-- An operation's packets leave every local queue (R324). -/
def State.unqueue (s : State) (serial : Nat) : State :=
  { s with hrn.ports := s.hrn.ports.map fun e =>
      (e.1, { e.2 with queue := e.2.queue.filter fun t => t.id != serial + 1
                       sent := e.2.sent.filter fun t => t.id != serial + 1 }) }

/-! ### Completion (R319) -/

/-- The completion record of an operation. -/
def HOp.record (o : HOp) : List Byte :=
  leBytes 4 o.slot ++ leBytes 1 (respCode o.resp) ++
    leBytes 1 ((if o.phaseBit then 1 else 0) + (if o.fflags.isSome then 2 else 0)) ++ leBytes 1 (o.fflags.getD 0) ++ [0] ++
    leBytes 4 o.lenDone ++ leBytes 4 (if o.resp = .viol then o.violOff else 0)

/-- mhartid as a hart. -/
def hartIdOf (n : Nat) : HartId := ⟨Fin.ofNat 12 (n / 32), Fin.ofNat 20 (n % 32)⟩

/-- An operation completes or ends: its completion record is written, or its hart answered. -/
def State.endOp (s : State) (o : HOp) (r : Resp) : State :=
  let o := { o with resp := r, stage := 4 }
  let s := s.uev 4 0x121 0 o.m.srcPocket.toNat
  let s := match r with
    | .late => s.uev 4 0x122 0 o.m.srcPocket.toNat
    | .node => s.uev 4 0x123 0 o.m.srcPocket.toNat
    | _ => s
  match o.q, o.hart with
  | some q, _ =>
    let s := s.updOp o.serial fun _ => o
    s.hrnWrite (s.cqPocket q) (hsub 3 o.serial) (s.cqRing q + 64 * s.cqSize q + 16 * o.slot) o.record
  | none, some h =>
    (s.dropOp o.serial).ioReply (.hart (hartIdOf h)) (BitVec.ofNat 56 o.loc) (BitVec.ofNat 12 o.slot) o.rd r
      (if r = .ok then BitVec.ofNat 512 (le o.m.payload 0 16) else 0)
  | none, none => s.dropOp o.serial

/-- A completion record has been performed: the queue's MSI is sent; one that fails halts the queue.
DEDUCED (assumption 100). -/
def State.recordDone (s : State) (serial pa : Nat) (r : Resp) : State :=
  match s.findOp serial with
  | none => s
  | some o =>
    match o.q with
    | none => s
    | some q =>
      let s := s.dropOp serial
      let st := R.cqStatus q
      let s := s.setF st F.cqStatus_OUTSTANDING (s.fld st F.cqStatus_OUTSTANDING - 1)
      let s := if r ≠ .ok then s.cqHalt q pa r
        else if o.irq then s.sendMsi (s.fld (R.cqMsiAddr q) F.cqMsiAddr_ADDR * 4) (s.fld (R.cqMsiData q) F.cqMsiData_DATA)
        else s
      s.cqRefresh q

/-! ### Responses (R317, R319) -/

/-- A response reaches its operation: GET and ATOMIC write what it brings at LOCAL first. -/
def State.opResp (s : State) (m : HPkt) (lenDone violOff fflags : Nat) : State :=
  match s.hrn.ops.find? fun o => o.tag == m.tag.toNat && o.stage == 2 with
  | none => s.lateAnswer 17
  | some o =>
    let s := s.unqueue o.serial
    let o := { o with lenDone := lenDone, violOff := violOff, resp := m.resp,
                      fflags := if o.kind = 4 ∧ m.aop = 10 then some fflags else none }
    let put := fun (o : HOp) (pa : Nat) (l : List Byte) =>
      if l.isEmpty then s.endOp o o.resp
      else
        let s := s.updOp o.serial fun _ => { o with stage := 3, owed := (bufPieces pa l.length).length, lenDone := 0 }
        s.hrnWrite o.m.srcPocket.toNat (hsub 2 o.serial) pa l
    match o.hart, o.kind with
    | some _, _ => s.endOp { o with m := { o.m with payload := m.payload } } m.resp
    | none, 2 =>
      if m.resp = .ok ∨ m.resp = .viol then put o o.loc (m.payload.take m.len.toNat) else s.endOp o m.resp
    | none, 4 => if m.resp = .ok ∧ o.result then put o o.loc (m.payload.take (awBytes o.m.awidth)) else s.endOp o m.resp
    | none, 6 => put o (o.loc + 0x40) m.payload
    | none, _ => s.endOp o m.resp

/-- A write at LOCAL has been answered. -/
def State.localWrote (s : State) (serial size : Nat) (r : Resp) : State :=
  match s.findOp serial with
  | none => s
  | some o =>
    if o.stage ≠ 3 then s
    else
      let o := { o with owed := o.owed - 1, lenDone := if r = .ok ∧ o.kind = 2 then o.lenDone + size else o.lenDone,
                        resp := if r = .ok then o.resp else r }
      if o.owed = 0 then s.endOp o o.resp else s.updOp serial fun _ => o

/-! ### What a destination performs (R322-R325) -/

/-- A violation of the checks of R322 and R323. DESIGN CHOICE (assumption 99). -/
def State.hrnViol (s : State) (m : HPkt) (addr : Nat) : State :=
  let s := s.err 17 1 2 (unitCode 0x0E 0x3FF) 1 addr
    (violMisc m.srcPocket.toNat (m.tag.toNat % 4096) 0xC9 0x1FF m.srcNode.toNat)
  let s := s.note .harness
  if s.reportHost m.dstPocket.toNat then s.hrnEvent else s

/-- Export entries that have been written, lowest first. -/
def State.exportList (s : State) : List Nat :=
  (s.regs.filter fun e => decide (0x3000000 ≤ e.1) && decide (e.1 < 0x3020000) && (e.1 % 32 == 0)).map fun e => (e.1 - 0x3000000) / 32

/-- The export entry that an operation matches. -/
def State.exportFor (s : State) (m : HPkt) : Option Nat :=
  s.exportList.find? fun e =>
    let r := R.export0 e
    let lo := s.fld r F.export0_NODE_LO
    s.fld r F.export0_VALID == 1 && decide (lo ≤ m.srcNode.toNat) &&
      decide (m.srcNode.toNat ≤ max lo (s.fld r F.export0_NODE_HI)) &&
      (s.fld r F.export0_ANY_POCKET == 1 || s.fld (R.export1 e) F.export1_SRC_POCKET == m.srcPocket.toNat) &&
      s.fld (R.export1 e) F.export1_DST_POCKET == m.dstPocket.toNat &&
      decide (s.fld (R.export2 e) F.export2_BASE ≤ m.addr.toNat) &&
      decide (m.addr.toNat ≤ max (s.fld (R.export2 e) F.export2_BASE) (s.fld (R.export3 e) F.export3_LIMIT))

/-- A receive queue accepts a SEND (R322). -/
def State.rqAccepts (s : State) (m : HPkt) (r : Nat) : Bool :=
  let lo := s.fld (R.rqSrc r) F.rqSrc_NODE_LO
  decide (r < 1024) && s.fld (R.rqOwner r) F.rqOwner_ENABLE == 1 &&
    s.fld (R.rqOwner r) F.rqOwner_POCKET == m.dstPocket.toNat &&
    decide (lo ≤ m.srcNode.toNat) && decide (m.srcNode.toNat ≤ max lo (s.fld (R.rqSrc r) F.rqSrc_NODE_HI)) &&
    (s.fld (R.rqSrc r) F.rqSrc_ANY_POCKET == 1 || s.fld (R.rqSrc r) F.rqSrc_SRC_POCKET == m.srcPocket.toNat)

/-- What the checks let an operation do: the bytes up to its bound, or the response it gets at once. -/
inductive Admit where
  | bytes (n : Nat)
  | refuse (r : Resp)
  deriving DecidableEq, Repr

/-- Slots of a receive queue, and bytes of a slot. -/
def State.rqSlots (s : State) (r : Nat) : Nat := 2 ^ clampN 4 12 (s.fld (R.rqBase r) F.rqBase_LOG_SLOTS)
def State.rqBytes (s : State) (r : Nat) : Nat := 2 ^ clampN 7 13 (s.fld (R.rqBase r) F.rqBase_SLOT_LOG)

/-- The checks on an arriving operation: 1 PUT, 2 GET, 3 SEND, 4 ATOMIC. -/
def State.admission (s : State) (kind : Nat) (m : HPkt) : Admit :=
  if s.checkWorld false m.dstPocket.toNat == some .domoff then .refuse .domoff
  else
    let len := min 4096 m.len.toNat
    let a := m.addr.toNat
    if kind = 3 then
      if s.rqAccepts m a then .bytes (min len (s.rqBytes a - 32)) else .refuse .viol
    else
      match s.exportFor m with
      | none => .refuse .viol
      | some e =>
        let right := s.fld (R.export0 e) F.export0_RIGHTS
        let room := max (s.fld (R.export2 e) F.export2_BASE) (s.fld (R.export3 e) F.export3_LIMIT) + 1 - a
        if !bit right (match kind with | 1 => 1 | 2 => 2 | _ => 0) then .refuse .viol
        else if kind = 4 then
          let w := awBytes m.awidth
          if room < w then .refuse .viol else if a % w ≠ 0 then .refuse .decerr else .bytes w
        else .bytes (min len room)

def State.findIn (s : State) (id : Nat) : Option HIn := s.hrn.inb.find? fun h => h.id == id
def State.updIn (s : State) (id : Nat) (f : HIn → HIn) : State :=
  { s with hrn.inb := s.hrn.inb.map fun h => if h.id == id then f h else h }
def State.dropIn (s : State) (id : Nat) : State :=
  { s with hrn.inb := s.hrn.inb.filter fun h => h.id != id }

/-- The response of a destination: to its own operation, or out of a port (R309). -/
def State.respond (s : State) (m : HPkt) (ends : Nat) (r : Resp) (lenDone violOff fflags : Nat) (payload : List Byte) :
    State :=
  let p : HPkt := { m with
    srcNode := BitVec.ofNat 15 s.nodeId, dstNode := m.srcNode, srcPocket := m.dstPocket, dstPocket := m.srcPocket, vc := false,
    ttl := BitVec.ofNat 8 s.initTtl, resp := r, len := BitVec.ofNat 13 payload.length, addr := 0, payload := payload }
  let s : State := { s with hrn.sentResp := (m.tag.toNat, respCode r, lenDone, violOff) :: s.hrn.sentResp }
  if s.assigned && m.srcNode.toNat == s.nodeId then s.opResp p lenDone violOff fflags
  else s.portOut { typ := 4, id := 0, m := p, ends := ends } m.srcPocket.toNat

/-- An operation performed here ends, with its response. -/
def State.endIn (s : State) (h : HIn) : State :=
  let s := s.dropIn h.id
  let past := match h.viol with | none => decide (h.bound < h.m.len.toNat) && h.kind != 4 | some _ => false
  let s := if past && h.resp == .ok then s.hrnViol h.m (h.m.addr.toNat + h.bound) else s
  let h := if past && h.resp == .ok then { h with viol := some h.bound } else h
  let r := if h.resp ≠ .ok then h.resp else if h.viol.isSome then Resp.viol else .ok
  let done := match h.kind, h.viol with | 2, some v => min v h.bound | _, _ => h.done
  let data := match h.kind with
    | 2 => if r = .ok ∨ r = .viol then gotBytes h.got done else []
    | 4 => if r = .ok then leBytes 16 h.old else []
    | _ => []
  s.respond h.m h.ends r done (h.viol.getD 0) (h.fflags.getD 0) data

/-- Number of a SEND's waiting fellows in a queue. -/
def State.rqWaiting (s : State) (r : Nat) : Nat :=
  (s.hrn.inb.filter fun h => h.kind == 3 && h.stage == 0 && h.m.addr.toNat == r).length

/-- A receive queue has no free slot. -/
def State.rqFull (s : State) (r : Nat) : Bool :=
  (s.fld (R.rqPtr r) F.rqPtr_TAIL + 1) % s.rqSlots r == s.fld (R.rqPtr r) F.rqPtr_HEAD

/-- The header of a slot (R325). DEDUCED (assumption 101). -/
def State.slotHeader (s : State) (h : HIn) (phase : Bool) : List Byte :=
  leBytes 1 (if phase then 1 else 0) ++ [0] ++ leBytes 2 h.m.srcNode.toNat ++ leBytes 2 h.m.srcPocket.toNat ++ [0, 0] ++
    leBytes 4 h.done ++ [0, 0, 0, 0] ++ leBytes 8 s.tape ++ (h.m.payload.drop h.m.len.toNat).take 8

/-- The slot's header is written once its payload has been performed. -/
def State.writeHeader (s : State) (h : HIn) : State :=
  match h.rq with
  | none => s.endIn h
  | some (r, slot) =>
    let pass := KMap.get 0 s.hrn.pass (1024 + r)
    let phase := if slot < s.fld (R.rqPtr r) F.rqPtr_TAIL then pass % 2 == 0 else pass % 2 == 1
    let s := s.updIn h.id fun _ => { h with stage := 2, owed := 1 }
    s.hrnWrite h.m.dstPocket.toNat (hsub 5 h.id) (s.fld (R.rqBase r) F.rqBase_BASE * 4096 + slot * s.rqBytes r)
      (s.slotHeader h phase)

/-- The read that begins a compare-and-swap loop, or the ATOM that carries the operation (R318). -/
def State.startAtomic (s : State) (h : HIn) : State :=
  let n := awBytes h.m.awidth
  let f := h.m.aop.toNat
  let c := (h.m.addr.toNat, 0, n)
  let p := h.m.dstPocket.toNat
  let wcode := if h.m.awidth then 4 else 3
  if f = 9 ∨ (f < 9 ∧ ¬ h.m.awidth) then
    (s.updIn h.id fun _ => { h with stage := 1, owed := 1, try' := 0 }).hrnSend p (hsub 6 h.id) 0x05 c (le h.m.payload 0 n)
      (le h.m.payload 16 n) (16 * f + 2 * wcode)
  else (s.updIn h.id fun _ => { h with stage := 1, owed := 1, try' := 1 }).hrnSend p (hsub 6 h.id) 0x08 c

/-- The result of an operation that a compare-and-swap loop computes, and its flags. -/
def loopResult (m : HPkt) (old : Nat) : Nat × Option Nat :=
  let n := awBytes m.awidth
  let op := le m.payload 0 n
  if m.aop = 10 then
    let r := harnessAdd (if m.awidth then fmtQ else fmtD) old op
    (r.1, some r.2)
  else (amoApply m.aop.toNat n old op 0, none)

/-- An operation whose turn has come is performed. -/
def State.startIn (s : State) (h : HIn) : State :=
  let a := h.m.addr.toNat
  let p := h.m.dstPocket.toNat
  let n := (bufPieces a h.bound).length
  match h.kind with
  | 1 =>
    if h.bound = 0 then s.endIn h
    else (s.updIn h.id fun _ => { h with stage := 1, owed := n }).hrnWrite p (hsub 4 h.id) a (h.m.payload.take h.bound)
  | 2 =>
    if h.bound = 0 then s.endIn h
    else (s.updIn h.id fun _ => { h with stage := 1, owed := n }).hrnRead p (hsub 4 h.id) a h.bound
  | 3 =>
    let slot := s.fld (R.rqPtr a) F.rqPtr_TAIL
    let next := (slot + 1) % s.rqSlots a
    let s := s.setF (R.rqPtr a) F.rqPtr_TAIL next
    let s : State := if next = 0 then { s with hrn.pass := KMap.upd 0 (1024 + a) (· + 1) s.hrn.pass } else s
    let h := { h with rq := some (a, slot) }
    if h.bound = 0 then s.writeHeader h
    else
      let pa := s.fld (R.rqBase a) F.rqBase_BASE * 4096 + slot * s.rqBytes a + 32
      let owed := (bufPieces pa h.bound).length
      (s.updIn h.id fun _ => { h with stage := 1, owed := owed }).hrnWrite p (hsub 4 h.id) pa (h.m.payload.take h.bound)
  | _ => s.startAtomic h

/-- An operation must wait: for an earlier ORDERED one of its source (R320), or for a slot. -/
def State.inWaits (s : State) (h : HIn) : Bool :=
  (h.m.ordered && s.hrn.inb.any fun g =>
    decide (g.id < h.id) && g.m.ordered && g.m.srcNode == h.m.srcNode && g.m.srcPocket == h.m.srcPocket) ||
  (h.kind == 3 && (s.rqFull h.m.addr.toNat || s.hrn.inb.any fun g =>
    decide (g.id < h.id) && g.kind == 3 && g.stage == 0 && g.m.addr == h.m.addr))

/-- The waiting operations go on, in arrival order; one whose budget has ended is dropped and counted. -/
def State.inPump (s : State) : State :=
  s.hrn.inb.foldl (fun s h =>
    if h.stage ≠ 0 ∨ s.inWaits h then s
    else if h.ends ≤ s.tape then { s.dropIn h.id with hrn.drops := s.hrn.drops + 1 }
    else s.startIn h) s

/-- An operation arrives at its destination: 1 PUT, 2 GET, 3 SEND, 4 ATOMIC. -/
def State.receive (s : State) (kind : Nat) (m : HPkt) : State :=
  let ends := s.tape + m.budget.toNat
  if m.budget = 0 then { s with hrn.drops := s.hrn.drops + 1 }
  else match s.admission kind m with
    | .refuse .viol => (s.hrnViol m m.addr.toNat).respond m ends .viol 0 0 0 []
    | .refuse r => s.respond m ends r 0 0 0 []
    | .bytes n =>
      if kind = 3 ∧ s.rqFull m.addr.toNat ∧ 64 ≤ s.rqWaiting m.addr.toNat then
        s.incF (R.rqPtr m.addr.toNat) F.rqPtr_DROPS
      else
        let h : HIn := { id := s.hrn.nextIn, kind := kind, m := m, ends := ends, bound := n }
        let s : State := { s with hrn.nextIn := s.hrn.nextIn + 1, hrn.inb := s.hrn.inb ++ [h] }
        if s.inWaits h then s else s.startIn h

/-- A line of an operation performed here has been answered. -/
def State.inLine (s : State) (id : Nat) (y : YReq) (r : Resp) (d : LineData) (po : BitVec 4) : State :=
  match s.findIn id with
  | none => s
  | some h =>
    let r := if r = .ok ∧ h.kind = 2 ∧ poisonHit po (y.pa.toNat % 64) y.size then Resp.poison else r
    let s := if r = .viol then s.hrnViol h.m y.pa.toNat else if r = .poison then s.hrnPoison y po else s
    let h : HIn := { h with owed := h.owed - 1 }
    let h : HIn := match r with
      | .ok => { h with done := h.done + y.size
                        got := if h.kind = 2 then collect h.got y.off y.size d (y.pa.toNat % 64) else h.got }
      | .viol => { h with viol := some (match h.viol with | some v => min v y.off | none => y.off) }
      | r => { h with resp := r }
    if h.owed ≠ 0 then s.updIn id fun _ => h
    else if h.kind = 3 then s.writeHeader h
    else s.endIn h

/-- A slot's header has been performed: the queue's MSI is sent, then the response. -/
def State.headerDone (s : State) (id : Nat) (r : Resp) : State :=
  match s.findIn id with
  | none => s
  | some h =>
    let s : State := match h.rq with
      | some (q, _) =>
        if r = Resp.ok then s.sendMsi (s.fld (R.rqMsiAddr q) F.rqMsiAddr_ADDR * 4) (s.fld (R.rqMsiData q) F.rqMsiData_DATA)
        else s
      | none => s
    s.endIn (if r = Resp.ok then h else { h with resp := r })

/-- An atomic's access has been answered. -/
def State.inAtomic (s : State) (id : Nat) (y : YReq) (r : Resp) (d : LineData) (po : BitVec 4) : State :=
  match s.findIn id with
  | none => s
  | some h =>
    let n := awBytes h.m.awidth
    let off := y.pa.toNat % 64
    let r : Resp := if r = Resp.ok ∧ poisonHit po off n then Resp.poison else r
    let s := if r = .poison then s.hrnPoison y po else s
    if r = .viol then (s.hrnViol h.m y.pa.toNat).endIn { h with viol := some 0 }
    else if r ≠ .ok then s.endIn { h with resp := r }
    else
      let v := lineNat d off n
      match h.try' with
      | 0 => s.endIn { h with old := v, done := n }
      | 1 =>
        let (new, fl) := loopResult h.m v
        let wcode := if h.m.awidth then 4 else 3
        (s.updIn id fun _ => { h with try' := 2, old := v, fflags := fl }).hrnSend h.m.dstPocket.toNat (hsub 6 id) 0x05
          (h.m.addr.toNat, 0, n) new v (16 * 9 + 2 * wcode)
      | _ =>
        if v = h.old then s.endIn { h with done := n }
        else if h.ends ≤ s.tape then { s.dropIn id with hrn.drops := s.hrn.drops + 1 }
        else s.startAtomic h

/-! ### Sending (R309, R311, R320) -/

/-- Earlier ORDERED operations of a source pocket to a node that have neither completed nor ended. -/
def State.olderOrdered (s : State) (o : HOp) : List HOp :=
  s.hrn.ops.filter fun e => decide (e.serial < o.serial) && e.m.ordered && decide (e.stage ≤ 2) && e.kind != 6 &&
    e.m.srcPocket == o.m.srcPocket && e.m.dstNode == o.m.dstNode

/-- An operation of this node travels to this node. -/
def State.toSelf (s : State) (d : Nat) : Bool := s.assigned && d == s.nodeId

/-- The route of an operation is known to be down (R309). -/
def State.opDown (s : State) (o : HOp) : Bool :=
  if o.kind = 6 then decide (1 ≤ o.stage) && s.portState (o.m.addr.toNat % 16) != 2
  else !s.toSelf o.m.dstNode.toNat && (s.routeUp o.m.dstNode.toNat o.m.ordered o.m.srcPocket.toNat).isEmpty

/-- A ready operation leaves, unless R311, R320 or its route holds it. -/
def State.trySend (s : State) (o : HOp) : State :=
  let d := o.m.dstNode.toNat
  let go := fun (s : State) (k : Nat) (t : HTx) =>
    (s.updOp o.serial fun o => { o with stage := 2, port := some k }).portQueue k t
  let t : HTx := { typ := o.kind - 1, id := o.serial + 1, m := o.m, ends := o.t.due }
  if o.kind = 6 then
    let k := o.m.addr.toNat % 16
    let t := { t with typ := 5, path := BitVec.ofNat 64 o.violOff, hop := 1, hops := o.m.len.toNat }
    if s.portState k = 2 then go s k t else s.updOp o.serial fun o => { o with stage := 2 }
  else
    let older := if o.m.ordered then s.olderOrdered o else []
    if older.any fun e => decide (e.stage < 2) then s
    else if s.toSelf d then
      (s.updOp o.serial fun o => { o with stage := 2 }).receive o.kind { o.m with budget := BitVec.ofNat 32 (o.t.due - s.tape) }
    else match s.route d o.m.ordered o.m.srcPocket.toNat with
      | (none, s) => s
      | (some k, s') => if older.any fun e => e.port != some k then s else go s' k t

/-- Operations that are ready leave, in the order they started. -/
def State.opPump (s : State) : State :=
  s.hrn.ops.foldl (fun s o =>
    match s.findOp o.serial with
    | some o => if o.stage = 1 then s.trySend o else s
    | none => s) s

/-- What waits in the Harness goes on. -/
def State.hrnPump (s : State) : State := s.inPump.opPump.inPump

/-- A read of the local buffer has been answered (R317). -/
def State.localRead (s : State) (serial : Nat) (y : YReq) (r : Resp) (d : LineData) (po : BitVec 4) : State :=
  match s.findOp serial with
  | none => s
  | some o =>
    if o.stage ≠ 0 then s
    else
      let off := y.pa.toNat % 64
      let r : Resp := if r = Resp.ok ∧ poisonHit po off y.size then Resp.poison else r
      let s := if r = Resp.poison then s.hrnPoison y po else s
      let o := { o with owed := o.owed - 1, got := collect o.got y.off y.size d off, resp := if r = .ok then o.resp else r }
      if o.owed ≠ 0 then s.updOp serial fun _ => o
      else if o.resp ≠ .ok then s.endOp o o.resp
      else if o.kind = 6 then
        let l := gotBytes o.got 64
        s.updOp serial fun _ =>
          { o with stage := 1, violOff := le l 8 8
                   m := { o.m with addr := BitVec.ofNat 56 (le l 8 8), len := BitVec.ofNat 13 (clampN 1 16 (le l 1 1)),
                                   payload := l } }
      else s.updOp serial fun _ =>
        { o with stage := 1, m := { o.m with payload := gotBytes o.got o.m.len.toNat ++ o.m.payload } }

/-! ### The Harness window (R313) -/

/-- A window access has reached the Harness: a GET, a PUT or an ATOMIC of its hart's world. -/
def State.winStart (s : State) (h pa : Nat) (i : IoAcc) (txid : Nat) : State :=
  let node := windowNode pa
  let p := (s.hart h).pocket
  let tag := freeTag s.hrn.ops s.hrn.nextTag 16384
  let kind := if i.func.isSome then 4 else if i.isLoad then 2 else 1
  let data := match i.func with
    | some _ => leBytes 16 i.val.toNat ++ leBytes 16 i.cmp.toNat
    | none => if i.isLoad then [] else leBytes i.size i.val.toNat
  let o : HOp := {
    tag := tag, kind := kind, slot := txid, hart := some h, rd := i.isLoad, loc := pa, t := i.t, serial := s.hrn.serial, stage := 1,
    m := { srcNode := BitVec.ofNat 15 s.nodeId, dstNode := BitVec.ofNat 15 node, srcPocket := p, dstPocket := p,
           ordered := !i.isLoad || i.func.isSome, vc := false, ttl := BitVec.ofNat 8 s.initTtl, budget := 0,
           tag := BitVec.ofNat 14 tag, len := BitVec.ofNat 13 i.size, aop := BitVec.ofNat 4 (i.func.getD 0),
           awidth := i.func.isSome && i.size == 16, addr := BitVec.ofNat 56 (pa % 2 ^ 40), resp := .ok, payload := data } }
  let s := s.pushOp o
  if node = 0x7FFF then s.endOp o .decerr
  else if !s.assigned || s.opDown o then s.endOp o .node
  else s.hrnPump

end Sys2Proof.Machine
end

