-- ==== Sys2Proof/Machine/Harness.lean ====
section
/-! DEFINITION. The commands of the Harness: frames and HELLOs, management, queues and descriptors, arriving
operations and responses, transit, expiries, and the I3C target (R297-R326). -/

namespace Sys2Proof.Machine

/-! ### HELLO (R301) -/

/-- A HELLO is received: the peer is recorded, a duplicate node ID is flagged, and a port in training comes UP.
DEDUCED (assumption 93). -/
def helloEff (k : Fin 16) (m : Hello) (s : State) : State :=
  let r := R.portStatus k.val
  if !(s.portState k == 2 || (s.portState k == 1 && (s.hport k).trained)) then s
  else
    let s := (s.setF r F.portStatus_PEER_NODE m.node.toNat).setF r F.portStatus_PEER_PORT m.port.toNat
    let s := s.wr (R.portPeer k.val) m.serial
    let s := s.updHport k fun p => { p with heard := true, peerFeat := m.level.toNat }
    let s := if s.assigned && m.node.toNat == s.nodeId && m.serial.toNat != s.serialNo then
        ((s.setF R.hrnNode F.hrnNode_DUP_SEEN 1).portErr k 1 5 (protoMisc 8 m.serial.toNat)).hrnEvent
      else s
    if s.portState k = 2 then s
    else
      let lanes := s.fld r F.portStatus_LANES
      let s := s.setPort k 2
      let s := if lanes = 3 then s else s.portErr k 1 4 (linkMisc 5 k (laneMask lanes))
      (s.portPump k).hrnPump

/-! ### Management (R302-R305, R434) -/

/-- The 16 bytes of a port in a management reply. -/
def State.portBlock (s : State) (k : Nat) : List Byte :=
  let r := R.portStatus k
  leBytes 1 (s.portState k) ++ leBytes 1 (s.fld r F.portStatus_LANES) ++ leBytes 1 (s.fld r F.portStatus_PEER_PORT) ++ [0] ++
    leBytes 2 (s.fld r F.portStatus_PEER_NODE) ++ [0, 0] ++ leBytes 8 (s.rd (R.portPeer k)).toNat

/-- The reply of R304. -/
def State.mgmtBytes (s : State) (status mop : Nat) (quote : List Byte) : List Byte :=
  leBytes 1 status ++ leBytes 1 mop ++ leBytes 1 (s.fld R.pkgId F.pkgId_PKG_LEVEL) ++ [0] ++ leBytes 2 s.nodeId ++
    leBytes 2 (s.fld R.hrnNode F.hrnNode_PROV_ID) ++ leBytes 8 s.serialNo ++ leBytes 8 s.hrn.nonce ++ leBytes 8 0 ++
    (List.range 16).flatMap s.portBlock ++ leBytes 736 0 ++ quote ++ leBytes (960 - quote.length) 0

/-- The recorded ports in reverse: the way back. -/
def reversePath (k path hops : Nat) : Nat :=
  (List.range hops).foldl (fun a i => a + (if i = 0 then k else path / 16 ^ (hops - i) % 16) * 16 ^ i) 0

/-- A management reply leaves by the port its request came by; a port that is not UP drops it. -/
def State.mgmtReply (s : State) (e : Nat × Word × Nat) (status mop : Nat) (quote : List Byte) : State :=
  let (k, path, hops) := e
  let l := s.mgmtBytes status mop quote
  let s : State := { s with hrn.msgs := l :: s.hrn.msgs }
  if s.portState k ≠ 2 then s
  else s.portQueue k { typ := 4, id := 0, m := { noPkt with payload := l }, hop := 1, hops := hops
                       path := BitVec.ofNat 64 (reversePath k path.toNat hops) }

/-- A management packet reaches a hop: at the last it is delivered, and one of an unknown MOP answered; elsewhere
it leaves by the port its PATH names, that port being replaced by the one it came by. -/
def mgmtReceiveEff (k : Fin 16) (path : Word) (hop hops : BitVec 5) (mop : BitVec 8) (s : State) : State :=
  let n := clampN 1 16 hops.toNat
  let h := hop.toNat
  if s.portState k ≠ 2 then s
  else if n ≤ h then
    let e := (k.val, path, n)
    if 2 < mop.toNat then s.mgmtReply e 3 mop.toNat [] else { s with hrn.mgmtIn := s.hrn.mgmtIn ++ [e] }
  else
    let out := path.toNat / 16 ^ h % 16
    let path' := path.toNat - out * 16 ^ h + k.val * 16 ^ h
    if s.portState out ≠ 2 then s
    else s.portQueue out { typ := 5, id := 0, m := noPkt, path := BitVec.ofNat 64 path', hop := h + 1, hops := n }

/-- The first management packet that came by a port is taken up. -/
def State.mgmtTake (s : State) (k : Nat) (f : State → Nat × Word × Nat → State) : State :=
  match s.hrn.mgmtIn.find? fun e => e.1 == k with
  | none => s
  | some e => f { s with hrn.mgmtIn := s.hrn.mgmtIn.erase e } e

/-- QUERY: a nonce other than zeros asks for a quote (R434). -/
def queryEff (k : Fin 16) (nonce : BitVec 256) (s : State) : State :=
  s.mgmtTake k fun s e =>
    if nonce = 0 then s.mgmtReply e 0 0 []
    else
      let (q, s) := s.quoteOver nonce.toNat
      s.mgmtReply e 0 0 q

/-- The Keeper verifies an authenticated message (R303): its serial, nonce and tag. -/
def State.mgmtAuth (s : State) (mop : Nat) (m : MgmtReq) : Bool :=
  m.serial.toNat == s.serialNo && m.nonce.toNat == s.hrn.nonce &&
    match s.fabricMac mop m.newId.toNat s.serialNo s.hrn.nonce with
    | some t => leNat t == m.tag.toNat
    | none => false

/-- The nonce is renewed after an accepted authenticated message (R301). -/
def State.renewNonce (s : State) : State :=
  let (n, s) := s.draw
  { s with hrn.nonce := n % 2 ^ 64 }

/-- The node's ID becomes `id`; 0x7FFF is unassigned. HELLOs carry it at once. -/
def State.setNode (s : State) (id : Nat) : State :=
  let r := R.hrnNode
  let s : State := if s.nodeId = id then s else { s with pins.i3cIbi := true }
  ((s.setF r F.hrnNode_NODE_ID id).setF r F.hrnNode_ASSIGNED (if id = 0x7FFF then 0 else 1)).helloAll

/-- A peer on an UP port claims an ID with a serial other than this node's (R305). -/
def State.peerHas (s : State) (id : Nat) : Bool :=
  (List.range 16).any fun k => s.portState k == 2 && s.fld (R.portStatus k) F.portStatus_PEER_NODE == id &&
    (s.rd (R.portPeer k)).toNat != s.serialNo

/-- ASSIGN_ID (R303, R305): refused with AUTH or DUP; an assigned node waits for its operations to end first.
DEDUCED (assumption 98). -/
def assignIdEff (k : Fin 16) (m : MgmtReq) (s : State) : State :=
  let id := m.newId.toNat
  s.mgmtTake k fun s e =>
    let auth := s.mgmtAuth 1 m
    let was := s.assigned || s.hrn.change.isSome
    if was && !auth then s.mgmtReply e 1 1 []
    else if id = 0x7FFF ∨ s.peerHas id then s.mgmtReply e 2 1 []
    else
      let s := if auth then s.renewNonce else s
      if was then
        if s.hrn.change.isSome then s.mgmtReply e 2 1 [] else { s with hrn.change := some (id, e.1, e.2.1, e.2.2, 1) }
      else (s.setNode id).mgmtReply e 0 1 []

/-- RELEASE (R303). -/
def mgmtReleaseEff (k : Fin 16) (m : MgmtReq) (s : State) : State :=
  s.mgmtTake k fun s e =>
    let auth := s.mgmtAuth 2 m
    if !s.assigned then (if auth then (s.renewNonce).helloAll else s).mgmtReply e 0 2 []
    else if !auth then s.mgmtReply e 1 2 []
    else
      let s := s.renewNonce
      if s.hrn.change.isSome then s.mgmtReply e 2 2 [] else { s with hrn.change := some (0x7FFF, e.1, e.2.1, e.2.2, 2) }

/-- Every operation the node has started has ended: its ID changes, and the reply goes out.
DEDUCED (assumption 98). -/
def idChangeEff (s : State) : State :=
  match s.hrn.change with
  | none => s
  | some (id, k, path, hops, mop) =>
    if !s.hrn.ops.isEmpty then s
    else
      let s : State := { s with hrn.change := none }
      (s.setNode id).mgmtReply (k, path, hops) 0 mop []

/-! ### Queues (R315) -/

/-- The doorbell. -/
def cqTailEff (a : Agent) (q : Fin 1024) (v : BitVec 12) (s : State) : State :=
  s.ctlGuard a (R.cqTail q.val).addr fun s =>
    ((s.setF (R.cqTail q.val) F.cqTail_TAIL (min v.toNat (s.cqSize q.val - 1))).cqRefresh q.val, .ok)

/-- A write of CQ_BASE while OUTSTANDING is 0 restarts the queue; its fetches under way are forgotten. -/
def State.cqRestart (s : State) (q : Nat) (v : Word) : State :=
  let r := R.cqBase q
  let s := s.wr r 6
  let s := (s.setF r F.cqBase_BASE (getF v F.cqBase_BASE)).setF r F.cqBase_LOG_ENTRIES (clampF F.cqBase_LOG_ENTRIES (getF v F.cqBase_LOG_ENTRIES))
  let s := (s.wr (R.cqTail q) 0).wr (R.cqStatus q) 0
  { s with hrn.desc := s.hrn.desc.filter fun d => d.q != q, hrn.pass := KMap.erase q s.hrn.pass
           io.reqs := s.io.reqs.filter fun y => !(y.kind == 5 && y.sub == hsub 0 q) }

/-- DEDUCED (assumption 100). -/
def cqBaseWriteEff (a : Agent) (q : Fin 1024) (v : Word) (s : State) : State :=
  s.ctlGuard a (R.cqBase q.val).addr fun s =>
    (if s.fld (R.cqStatus q.val) F.cqStatus_OUTSTANDING = 0 then s.cqRestart q.val v else s, .ok)

/-- A descriptor is fetched from HEAD (R315, R321). -/
def descriptorFetchEff (q : Fin 1024) (s : State) : State :=
  let n := q.val
  let st := R.cqStatus n
  let head := s.fld st F.cqStatus_HEAD
  if s.fld (R.cqOwner n) F.cqOwner_ENABLE ≠ 1 ∨ s.fld st F.cqStatus_STATE ≠ 1 ∨ head = s.fld (R.cqTail n) F.cqTail_TAIL ∨
      16384 ≤ s.hrn.ops.length then s
  else
    let next := (head + 1) % s.cqSize n
    let pass := KMap.get 0 s.hrn.pass n
    let s := s.setF st F.cqStatus_HEAD next
    let s : State := if next = 0 then { s with hrn.pass := KMap.upd 0 n (· + 1) s.hrn.pass } else s
    let s : State := { s with hrn.desc := s.hrn.desc ++ [{ q := n, slot := head, phase := pass % 2 == 0 }] }
    s.hrnRead (s.cqPocket n) (hsub 0 n) (s.cqRing n + 64 * head) 64

/-! ### Descriptors (R316-R318) -/

/-- The earliest descriptor of a queue, where it is the one named and its OP is `kind`. -/
def State.nextDesc (s : State) (q slot kind : Nat) : Option (HDesc × List Byte) :=
  match s.hrn.desc.find? fun d => d.q == q with
  | some d => match d.body with
    | some l => if d.slot = slot ∧ descOp l = kind ∧ s.hrn.change.isNone then some (d, l) else none
    | none => none
  | none => none

/-- A descriptor becomes an operation. -/
def State.takeDesc (s : State) (d : HDesc) (l : List Byte) : HOp × State :=
  let o := s.descHOp d l
  let s : State := { s with hrn.desc := s.hrn.desc.erase d }
  (o, s.pushOp o)

/-- The local buffer of an operation: its bytes, and whether it is written. -/
def HOp.buffer (o : HOp) : Nat × Bool :=
  match o.kind with
  | 1 => (o.m.len.toNat, false)
  | 2 => (o.m.len.toNat, true)
  | 3 => (o.m.len.toNat, false)
  | 4 => (if o.result then o.m.len.toNat else 0, true)
  | 6 => (2048, true)
  | _ => (0, false)

/-- A failure of the local buffer's check (R317): a violation is logged. DEDUCED (assumption 101). -/
def State.bufferFail (s : State) (o : HOp) (pa : Nat) (c : Check) : State :=
  let s := match c with
    | .viol reason => s.violation 0 0xC9 pa o.m.srcPocket.toNat (if o.buffer.2 then 0x09 else 0x08) reason (o.tag % 4096)
    | _ => s
  s.endOp o .viol

/-- An operation reads its local buffer, or is ready at once. -/
def State.readLocal (s : State) (o : HOp) (n : Nat) : State :=
  if n = 0 then (s.updOp o.serial fun o => { o with stage := 1 }).hrnPump
  else
    let s := s.updOp o.serial fun o => { o with owed := (bufPieces o.loc n).length }
    s.hrnRead o.m.srcPocket.toNat (hsub 1 o.serial) o.loc n

/-- A PUT, GET, SEND or ATOMIC descriptor starts (R300, R312, R317, R318, R324). -/
def State.startData (s : State) (q slot kind : Nat) : State :=
  match s.nextDesc q slot kind with
  | none => s
  | some (d, l) =>
    let (o, s) := s.takeDesc d l
    let b := o.buffer
    if !s.assigned then s.endOp o .node
    else if badTarget (le l 8 16) || (kind == 4 && o.m.addr.toNat % awBytes o.m.awidth != 0) then s.endOp o .decerr
    else match s.bufferBad o.m.srcPocket.toNat o.loc b.1 b.2 with
      | some (pa, c) => s.bufferFail o pa c
      | none => if s.opDown o then s.endOp o .node else s.readLocal o (if kind = 1 ∨ kind = 3 then b.1 else 0)

def putEff (q : Fin 1024) (slot : BitVec 12) (s : State) : State := s.startData q.val slot.toNat 1
def getEff (q : Fin 1024) (slot : BitVec 12) (s : State) : State := s.startData q.val slot.toNat 2
def sendEff (q : Fin 1024) (slot : BitVec 12) (s : State) : State := s.startData q.val slot.toNat 3
def atomicEff (q : Fin 1024) (slot : BitVec 12) (s : State) : State := s.startData q.val slot.toNat 4

/-- NOP completes at fetch. -/
def nopEff (q : Fin 1024) (slot : BitVec 12) (s : State) : State :=
  match s.nextDesc q.val slot.toNat 0 with
  | none => s
  | some (d, l) =>
    let (o, s) := s.takeDesc d l
    s.endOp o (if s.assigned then .ok else .node)

/-- FENCE completes once every earlier descriptor of its queue has; none later starts before. -/
def hrnFenceEff (q : Fin 1024) (slot : BitVec 12) (s : State) : State :=
  match s.nextDesc q.val slot.toNat 5 with
  | none => s
  | some (d, l) =>
    if s.assigned && s.hrn.ops.any fun o => o.q == some q.val then s
    else
      let (o, s) := s.takeDesc d l
      s.endOp o (if s.assigned then .ok else .node)

/-- MGMT: pocket 0's queues only (R316); its block is checked and its request read (R304). -/
def mgmtEff (q : Fin 1024) (slot : BitVec 12) (s : State) : State :=
  match s.nextDesc q.val slot.toNat 6 with
  | none => s
  | some (d, l) =>
    let (o, s) := s.takeDesc d l
    let o := { o with loc := o.loc / 64 * 64, m := { o.m with ordered := false } }
    let s := s.updOp o.serial fun _ => o
    let p := o.m.srcPocket.toNat
    if p ≠ 0 then
      (s.err 17 1 2 (unitCode 0x0E 0x3FF) 1 (s.cqRing q.val + 64 * slot.toNat) (violMisc p (o.tag % 4096) 0xC9 0x1FF s.nodeId)).endOp o .viol
    else match s.bufferBad p o.loc 2048 true with
      | some (pa, c) => s.bufferFail o pa c
      | none => s.readLocal o 64

/-! ### Arrivals (R302, R310, R322) -/

/-- An operation for this node. -/
def State.arriveOp (s : State) (kind : Nat) (m : HPkt) : State :=
  if s.toSelf m.dstNode.toNat then (s.receive kind m).hrnPump else s

def putReceiveEff (m : HPkt) (s : State) : State := s.arriveOp 1 m
def getReceiveEff (m : HPkt) (s : State) : State := s.arriveOp 2 m
def sendReceiveEff (m : HPkt) (s : State) : State := s.arriveOp 3 m
def atomicReceiveEff (m : HPkt) (s : State) : State := s.arriveOp 4 m

/-- A response for this node: a management reply is source-routed and names no node. -/
def respEff (m : HPkt) (lenDone violOff : BitVec 32) (fflags : BitVec 5) (s : State) : State :=
  (s.opResp m lenDone.toNat violOff.toNat fflags.toNat).hrnPump

/-- A packet for another node (R310): forwarded by the route table, its TTL one less; dropped and counted at TTL 0
or without budget. -/
def transitForwardEff (typ : Fin 5) (m : HPkt) (k : Fin 16) (s : State) : State :=
  let d := m.dstNode.toNat
  if s.toSelf d then s
  else
    let pk := (if typ.val = 4 then m.dstPocket else m.srcPocket).toNat
    let s := s.uev 4 0x124 k.val pk
    if m.ttl.toNat ≤ 1 ∨ m.budget = 0 then
      match s.routeUp d m.ordered pk with
      | p :: _ => s.portDrop p
      | [] => { s with hrn.drops := s.hrn.drops + 1 }
    else s.portOut { typ := typ.val, id := 0, m := { m with ttl := m.ttl - 1 }, ends := s.tape + m.budget.toNat } pk

/-! ### Expiries (R313, R324, R325) -/

/-- A budget ends: of the packet of another node's operation that waits at a port with the least left, or of a SEND
that waits for a slot. DESIGN CHOICE (assumption 103). -/
def budgetExpiryEff (k : Fin 16) (rq : Option (Fin 1024)) (s : State) : State :=
  match rq with
  | some r =>
    match s.hrn.inb.find? fun h => h.kind == 3 && h.stage == 0 && h.m.addr.toNat == r.val with
    | none => s
    | some h => ((s.advance h.ends).dropIn h.id).incF (R.rqPtr r.val) F.rqPtr_DROPS
  | none =>
    let l := (s.hport k).queue.filter fun t => t.id == 0 && t.ends != 0
    match l with
    | [] => s
    | t :: rest =>
      let t := rest.foldl (fun a b => if b.ends < a.ends then b else a) t
      ((s.advance t.ends).updHport k fun p => { p with queue := p.queue.erase t }).portDrop k

/-- A younger window store that ends with the oldest one (R313). -/
def endsWith (o e : HOp) : Bool :=
  o.hart.isSome && !o.rd && o.kind == 1 && e.hart == o.hart && e.kind == 1 && e.m.dstNode == o.m.dstNode &&
    decide (o.serial < e.serial)

/-- An operation reaches its REMOTE deadline (R324): NODE where its route is down, else LATE. -/
def remoteExpiryEff (tag : BitVec 14) (s : State) : State :=
  match s.hrn.ops.find? fun o => o.tag == tag.toNat && decide (o.stage ≤ 3) with
  | none => s
  | some o =>
    let s := s.advance o.t.due
    let r : Resp := if s.opDown o then .node else .late
    let s := s.err 17 1 3 (unitCode 0x0E 0x3FF) 1 (if o.hart.isSome then o.loc else o.m.addr.toNat)
      (dlMisc 5 o.m.srcPocket.toNat (o.tag % 4096) 0xFF (s.tape - o.t.due))
    let young := s.hrn.ops.filter (endsWith o)
    let s := young.foldl (fun s e => (s.unqueue e.serial).dropOp e.serial) s
    ((s.unqueue o.serial).endOp o r).hrnPump

/-- Software frees slots of a receive queue: waiting SENDs go on. -/
def rqHeadWriteEff (a : Agent) (r : Fin 1024) (v : BitVec 12) (s : State) : State :=
  s.ctlGuard a (R.rqPtr r.val).addr fun s =>
    ((s.setF (R.rqPtr r.val) F.rqPtr_HEAD (min v.toNat (s.rqSlots r.val - 1))).hrnPump, .ok)

/-! ### Answers to the Harness's own requests -/

/-- A request of the Harness has been answered: what it was for goes on. -/
def State.hrnAnswer (s : State) (y : YReq) (r : Resp) (d : LineData) (po : BitVec 4) : State :=
  let id := y.sub % 2 ^ 48
  let pa := y.pa.toNat
  match y.sub / 2 ^ 48 with
  | 0 => s.cqFetched id ((pa - s.cqRing id) / 64) pa r d po
  | 1 => (s.localRead id y r d po).hrnPump
  | 2 => s.localWrote id y.size r
  | 3 => (s.recordDone id pa r).hrnPump
  | 4 => (s.inLine id y r d po).hrnPump
  | 5 => (s.headerDone id r).hrnPump
  | _ => (s.inAtomic id y r d po).hrnPump

/-! ### I3C (R307) -/

/-- An answer on the management bus. -/
def State.i3cSay (s : State) (l : List Byte) : State :=
  if s.hrn.da.isNone then s else { s with hrn.i3c := l :: s.hrn.i3c }

/-- The 48-bit provisioned ID, most significant byte first. -/
def State.i3cPid (s : State) : List Byte := (leBytes 6 (0x3A5 * 2 ^ 33 + s.serialNo % 2 ^ 32)).reverse

/-- ENTDAA: a target without an address takes the one assigned. -/
def entdaaEff (da : BitVec 7) (s : State) : State :=
  if s.hrn.da.isSome then s else { s with hrn.da := some da.toNat, hrn.i3c := s.i3cPid :: s.hrn.i3c }
def rstdaaEff (s : State) : State := { s with hrn.da := none }
def setnewdaEff (da : BitVec 7) (s : State) : State :=
  if s.hrn.da.isNone then s else { s with hrn.da := some da.toNat }
def getpidEff (s : State) : State := s.i3cSay s.i3cPid

/-- The bus and device characteristics and the status are not given by the spec. DESIGN CHOICE (assumption 104). -/
def getbcrEff (s : State) : State :=
  let (n, s) := s.fresh
  s.i3cSay (leBytes 1 n)
def getdcrEff (s : State) : State :=
  let (n, s) := s.fresh
  s.i3cSay (leBytes 1 n)
def getstatusEff (s : State) : State :=
  let (n, s) := s.fresh
  s.i3cSay (leBytes 2 n)

/-- The identity block: serial, provisional ID, node ID, HRN.NODE and the STATE of each port. -/
def State.identityBlock (s : State) : List Byte :=
  leBytes 8 s.serialNo ++ leBytes 2 (s.fld R.hrnNode F.hrnNode_PROV_ID) ++ leBytes 2 s.nodeId ++ leBytes 4 0 ++
    leBytes 8 (s.rd R.hrnNode).toNat ++ (List.range 16).flatMap (fun k => leBytes 1 (s.portState k)) ++ leBytes 24 0

/-- DESIGN CHOICE (assumption 104). -/
def privateReadEff (s : State) : State :=
  if s.hrn.da.isNone then s else { s.i3cSay s.identityBlock with pins.i3cIbi := false }

def execRemoteExpiry (tag : BitVec 14) (s : State) : Host.Outcome State Fault Refusal :=
  .next (remoteExpiryEff tag s)
def execHello (k : Fin 16) (m : Hello) (s : State) : Host.Outcome State Fault Refusal :=
  .next (helloEff k m s)
def execQuery (k : Fin 16) (nonce : BitVec 256) (s : State) : Host.Outcome State Fault Refusal :=
  .next (queryEff k nonce s)
def execAssignId (k : Fin 16) (m : MgmtReq) (s : State) : Host.Outcome State Fault Refusal :=
  .next (assignIdEff k m s)
def execMgmtRelease (k : Fin 16) (m : MgmtReq) (s : State) : Host.Outcome State Fault Refusal :=
  .next (mgmtReleaseEff k m s)
def execIdChange (s : State) : Host.Outcome State Fault Refusal :=
  .next (idChangeEff s)
def execCqTail (a : Agent) (q : Fin 1024) (v : BitVec 12) (s : State) : Host.Outcome State Fault Refusal :=
  .next (cqTailEff a q v s)
def execCqBaseWrite (a : Agent) (q : Fin 1024) (v : Word) (s : State) : Host.Outcome State Fault Refusal :=
  .next (cqBaseWriteEff a q v s)
def execDescriptorFetch (q : Fin 1024) (s : State) : Host.Outcome State Fault Refusal :=
  .next (descriptorFetchEff q s)
def execPut (q : Fin 1024) (slot : BitVec 12) (s : State) : Host.Outcome State Fault Refusal :=
  .next (putEff q slot s)
def execGet (q : Fin 1024) (slot : BitVec 12) (s : State) : Host.Outcome State Fault Refusal :=
  .next (getEff q slot s)
def execSend (q : Fin 1024) (slot : BitVec 12) (s : State) : Host.Outcome State Fault Refusal :=
  .next (sendEff q slot s)
def execAtomic (q : Fin 1024) (slot : BitVec 12) (s : State) : Host.Outcome State Fault Refusal :=
  .next (atomicEff q slot s)
def execHrnFence (q : Fin 1024) (slot : BitVec 12) (s : State) : Host.Outcome State Fault Refusal :=
  .next (hrnFenceEff q slot s)
def execMgmt (q : Fin 1024) (slot : BitVec 12) (s : State) : Host.Outcome State Fault Refusal :=
  .next (mgmtEff q slot s)
def execNop (q : Fin 1024) (slot : BitVec 12) (s : State) : Host.Outcome State Fault Refusal :=
  .next (nopEff q slot s)
def execPutReceive (m : HPkt) (s : State) : Host.Outcome State Fault Refusal :=
  .next (putReceiveEff m s)
def execGetReceive (m : HPkt) (s : State) : Host.Outcome State Fault Refusal :=
  .next (getReceiveEff m s)
def execSendReceive (m : HPkt) (s : State) : Host.Outcome State Fault Refusal :=
  .next (sendReceiveEff m s)
def execAtomicReceive (m : HPkt) (s : State) : Host.Outcome State Fault Refusal :=
  .next (atomicReceiveEff m s)
def execMgmtReceive (k : Fin 16) (path : Word) (hop hops : BitVec 5) (mop : BitVec 8) (s : State) : Host.Outcome State Fault Refusal :=
  .next (mgmtReceiveEff k path hop hops mop s)
def execResp (m : HPkt) (lenDone violOff : BitVec 32) (fflags : BitVec 5) (s : State) : Host.Outcome State Fault Refusal :=
  .next (respEff m lenDone violOff fflags s)
def execTransitForward (typ : Fin 5) (m : HPkt) (k : Fin 16) (s : State) : Host.Outcome State Fault Refusal :=
  .next (transitForwardEff typ m k s)
def execBudgetExpiry (k : Fin 16) (rq : Option (Fin 1024)) (s : State) : Host.Outcome State Fault Refusal :=
  .next (budgetExpiryEff k rq s)
def execRqHeadWrite (a : Agent) (r : Fin 1024) (v : BitVec 12) (s : State) : Host.Outcome State Fault Refusal :=
  .next (rqHeadWriteEff a r v s)
def execEntdaa (da : BitVec 7) (s : State) : Host.Outcome State Fault Refusal :=
  .next (entdaaEff da s)
def execRstdaa (s : State) : Host.Outcome State Fault Refusal :=
  .next (rstdaaEff s)
def execSetnewda (da : BitVec 7) (s : State) : Host.Outcome State Fault Refusal :=
  .next (setnewdaEff da s)
def execGetpid (s : State) : Host.Outcome State Fault Refusal :=
  .next (getpidEff s)
def execGetbcr (s : State) : Host.Outcome State Fault Refusal :=
  .next (getbcrEff s)
def execGetdcr (s : State) : Host.Outcome State Fault Refusal :=
  .next (getdcrEff s)
def execGetstatus (s : State) : Host.Outcome State Fault Refusal :=
  .next (getstatusEff s)
def execPrivateRead (s : State) : Host.Outcome State Fault Refusal :=
  .next (privateReadEff s)

end Sys2Proof.Machine
end

