-- ==== Sys2Proof/Machine/Replies.lean ====
section
/-! DEFINITION. GRANT, DATA, IO_ACK and IO_DATA at whoever they answer: a hart, a home, an agent at the yoke or an
Awl (R175, R176, R208, R264); and the expiry of an IOC wait (R54, R112, R210, R435). -/

namespace Sys2Proof.Machine

/-- Error bank of the unit at an eyelet of the yoke. -/
def eyeBank (y : YReq) : Nat :=
  match y.agent with
  | .bobbin n _ => 28 + n.val
  | .device p _ => 20 + p.val
  | .harness _ => 17
  | .keeper => 18
  | .thimble => 19
  | _ => 16

/-- COMP of an agent at the yoke (R176). -/
def State.yokeComp (s : State) (y : YReq) : State :=
  s.send { op := 0x21, src := BitVec.ofNat 8 y.eye, dst := BitVec.ofNat 8 (s.homeEyelet y.pa.toNat), txid := BitVec.ofNat 12 y.txid,
           pa := y.pa, prio := 2, pocket := BitVec.ofNat 12 (s.agentPocket y.agent) }

/-- A device's request has been answered: a read goes to the device, a posted write lets the next one go, and its
error stands in the port's AER (R217, R368, R446). -/
def State.deviceAnswer (s : State) (y : YReq) (r : Resp) (d : LineData) (po : BitVec 4) : State :=
  match y.agent with
  | .device p _ =>
    let s := if y.needData then
        let off := if y.op = 0x0E then 0 else y.pa.toNat % 64
        let r := if r = .ok ∧ poisonHit po off y.size then Resp.poison else r
        let s := if r = .poison then
            s.err (20 + p.val) 2 1 (unitCode 0x0C (4 * p.val)) 1 (y.pa.toNat + (firstPoison po off y.size).getD 0)
              (poisonMisc 5 (s.agentPocket y.agent) y.txid 0x1FF)
          else s
        s.reply y.agent r (if r = .ok ∨ r = .poison then BitVec.ofNat 512 (lineNat d off y.size) else 0)
      else if r = .ok then s else s.aerPost p.val r
    s.inboundPump p.val
  | a => s.reply a r d

/-- A system-bus access of the debug module has been answered (R457). -/
def State.sbAnswer (s : State) (y : YReq) (r : Resp) (d : LineData) (po : BitVec 4) : State :=
  let off := if y.op = 0x0E then 0 else y.pa.toNat % 64
  let r := if r = .ok ∧ y.needData ∧ poisonHit po off y.size then Resp.poison else r
  let s := if r = .poison then
      s.err 16 2 1 (bankUnit 16) 1 (y.pa.toNat + (firstPoison po off y.size).getD 0)
        (poisonMisc 6 (s.agentPocket y.agent) y.txid 0x1FF)
    else s
  let code := match r with | .ok => 0 | .late => 1 | .decerr => 2 | _ => 7
  let v := lineNat d off y.size
  let s : State := { s with
    dbg.sbOut := none
    dbg.sberror := if s.dbg.sberror = 0 then code else s.dbg.sberror
    dbg.sbData := if r = .ok ∧ y.needData then v else s.dbg.sbData
    dbg.sbAddr := if r = .ok ∧ bit s.dbg.sbcs 16 then (s.dbg.sbAddr + y.size) % 2 ^ 56 else s.dbg.sbAddr }
  s.reply .debug r (if r = .ok ∧ y.needData then BitVec.ofNat 512 v else 0)

/-- An agent's request is answered: what it was for goes on. -/
def State.yokeDone (s : State) (y : YReq) (r : Resp) (d : LineData) (po : BitVec 4) : State :=
  let t := s.dropYoke y.eye y.txid
  match y.agent with
  | .bobbin n c =>
    let r := if y.kind = 3 ∧ r = .ok ∧ poisonHit po (y.pa.toNat % 64) 4 then Resp.poison else r
    if y.kind = 0 then t.chanRead n c y r d po
    else if y.kind = 1 then t.chanWrote n c y r
    else if y.kind = 2 then t.chanFetched n c y r d po
    else if r = .ok then s
    else t.chanAtomFailed n c y r
  | .device .. => t.deviceAnswer y r d po
  | .harness _ => t.hrnAnswer y r d po
  | .debug => t.sbAnswer y r d po
  | a => if y.kind = 6 then t.doorWritten y.sub r else t.reply a r d

/-- An answer for a request of the yoke that has ended is late (R51). -/
def lateBank (eye : Nat) : Nat :=
  if 0xC0 ≤ eye ∧ eye < 0xC8 then 20 + (eye - 0xC0)
  else if eye = 0xC9 then 17 else if eye = 0xCA then 18 else if eye = 0xCB then 19
  else if 0xD0 ≤ eye ∧ eye < 0xE0 then 28 + 4 * (eye - 0xD0) else 16

/-- The Awl at an eyelet. -/
def awlAt (eye : Nat) : Option Nat := (List.range 32).find? fun n => awlEyelet n == eye

/-- GRANT at an Awl (R264): a trace write that met VIOL or DECERR stops it. -/
def State.grantAtAwl (s : State) (n : Nat) (pa : Addr) (txid : BitVec 12) (r : Resp) : State :=
  if r = .viol ∨ r = .decerr then s.setF (R.awlCtl n) F.awlCtl_ENABLE 0
  else if r ≠ .ok then s
  else s.send { op := 0x21, src := BitVec.ofNat 8 (awlEyelet n), dst := BitVec.ofNat 8 (s.homeEyelet pa.toNat), txid := txid, pa := pa, prio := 2 }

/-- GRANT (R175, R176). -/
def grantEff (who : Peer) (pa : Addr) (st : LState) (r : Resp) (alone : Bool) (s : State) : State :=
  match who with
  | .hart h => s.grantAtHart h.num pa st r alone
  | .home _ => s
  | .yoke eye txid =>
    let e := eye.toNat
    let s := s.arrive fun p => p.op == 0x20 && p.dst == eye && p.txid == txid
    match s.yokeReq e txid.toNat with
    | none => match awlAt e with
      | some n => s.grantAtAwl n pa txid r
      | none => s.lateAnswer (lateBank e)
    | some y =>
      if r ≠ .ok then s.yokeDone y r 0 0
      else if !y.needData then (s.yokeComp y).yokeDone y .ok 0 0
      else
        let s := s.updYoke e txid.toNat fun y => { y with granted := true }
        match y.got with
        | some (d, po) => (s.yokeComp y).yokeDone { y with granted := true } .ok d po
        | none => s

/-- Events 0x24 and 0x25 of a core (R448): by where its data came from. -/
def State.fillFrom (s : State) (h line : Nat) : State :=
  match s.net.find? fun p => p.op == 0x30 && lineOf p.pa == line &&
      p.dst == BitVec.ofNat 8 (portEyelet (portOf h line)) && p.txid.toNat / 128 == h % 32 with
  | none => s
  | some p =>
    let e := p.src.toNat
    if (panelOfEyelet e).isSome then s.bump h 0x25
    else if e / 0x30 = h / 32 / 3 ∧ (s.hart h).acc.any fun a => a.kind == .load && (accLines a).contains line then s.bump h 0x24
    else s

/-- DATA (R175, R176, R232). -/
def dataEff (who : Peer) (pa : Addr) (st : LState) (d : LineData) (poison : BitVec 4) (r : Resp) (err : CacheErr)
    (crcOk : Bool) (s : State) : State :=
  match who with
  | .hart h => (s.fillFrom h.num (lineOf pa)).dataAtHart h.num pa st d poison r err crcOk
  | .home h =>
    if crcOk then s.dataAtHome h.num (lineOf pa) d poison
    else
      let s := s.arrive fun p => p.op == 0x30 && lineOf p.pa == lineOf pa && p.dst == BitVec.ofNat 8 h.eyelet
      s.err (12 + h.sd.val) 1 5 (unitCode 0x01 h.sd.val) 0 0 (protoMisc 3 0xFF)
  | .yoke eye txid =>
    let e := eye.toNat
    let s := s.arrive fun p => p.op == 0x30 && p.dst == eye && p.txid == txid
    if !crcOk then s.err 16 1 5 (bankUnit 16) 0 0 (protoMisc 3 0xFF)
    else match s.yokeReq e txid.toNat with
      | none => s.lateAnswer (lateBank e)
      | some y =>
        let w := BitVec.ofNat 4 (2 ^ (pa.toNat / 16 % 4))
        let u := bankUnit (eyeBank y)
        let (s, po) : State × BitVec 4 := match err with
          | .single => (s.err (eyeBank y) 0 0 u 1 pa.toNat (eccMisc 4 0xFF w.toNat 0), poison)
          | .double => (s.err (eyeBank y) 2 0 u 1 pa.toNat (eccMisc 4 0xFF w.toNat 0), poison ||| w)
          | _ => (s, poison)
        if r ≠ .ok then s.yokeDone y r 0 0
        else
          let s := s.updYoke e txid.toNat fun y => { y with got := some (d, po) }
          if y.granted then (s.yokeComp y).yokeDone { y with got := some (d, po) } .ok d po else s

/-- An answer to an I/O-type request of the yoke. -/
def State.yokeIo (s : State) (eye : BitVec 8) (txid : BitVec 12) (op : BitVec 8) (r : Resp) (v : BitVec 128) : State :=
  let s := s.arrive fun p => p.op == op && p.dst == eye && p.txid == txid
  match s.yokeReq eye.toNat txid.toNat with
  | none => s.lateAnswer (lateBank eye.toNat)
  | some y => s.yokeDone y r (BitVec.ofNat 512 v.toNat) 0

/-- IO_ACK (R208). -/
def ioAckEff (who : Peer) (r : Resp) (s : State) : State :=
  match who with
  | .hart h => s.ioAckAt h.num r
  | .home _ => s
  | .yoke eye txid => s.yokeIo eye txid 0x26 r 0

/-- IO_DATA (R208). -/
def ioDataEff (who : Peer) (v : BitVec 128) (r : Resp) (s : State) : State :=
  match who with
  | .hart h => s.ioDataAt h.num v r
  | .home _ => s
  | .yoke eye txid => s.yokeIo eye txid 0x34 r v

/-- IOC_EXPIRY (R54): a load, the stores, an ENTER or EXIT of a hart, or a payload's run. -/
def iocExpiryEff (h : HartId) (k : IocKind) (s : State) : State :=
  match k with
  | .load => s.iocLoad h.num
  | .store => s.iocStore h.num
  | .door => s.iocDoor h.num
  | .payload => s.payloadLate

def execIocExpiry (h : HartId) (k : IocKind) (s : State) : Host.Outcome State Fault Refusal :=
  .next (iocExpiryEff h k s)
def execGrant (who : Peer) (pa : Addr) (st : LState) (r : Resp) (alone : Bool) (s : State) : Host.Outcome State Fault Refusal :=
  .next (s.livePeer who (grantEff who pa st r alone s))
def execData (who : Peer) (pa : Addr) (st : LState) (d : LineData) (poison : BitVec 4) (r : Resp) (err : CacheErr) (crcOk : Bool) (s : State) : Host.Outcome State Fault Refusal :=
  .next (s.livePeer who (dataEff who pa st d poison r err crcOk s))
def execIoAck (who : Peer) (r : Resp) (s : State) : Host.Outcome State Fault Refusal :=
  .next (s.livePeer who (ioAckEff who r s))
def execIoData (who : Peer) (v : BitVec 128) (r : Resp) (s : State) : Host.Outcome State Fault Refusal :=
  .next (s.livePeer who (ioDataEff who v r s))

end Sys2Proof.Machine
end

