-- ==== Sys2Proof/Machine/RegWrite.lean ====
section
/-! DEFINITION. Writes of registers (R8-R14) with what each sets off, the service port's BARs (R71, R375, R425), and
the arrival of I/O-type accesses at their destination (R206-R208). -/

namespace Sys2Proof.Machine

/-! ### One field, one register (R8, R12) -/

/-- The value a write of `size` bytes at `off` places in the register: `v` in the half it reaches. -/
def placedWord (off size : Nat) (v : Word) : Word :=
  if size = 8 then v else (v &&& 0xFFFFFFFF) <<< (8 * (off % 8))

/-- The register with the half a write reaches replaced. -/
def mergedWord (old : Word) (off size : Nat) (v : Word) : Word :=
  if size = 8 then v
  else if off % 8 = 0 then (old &&& 0xFFFFFFFF00000000) ||| (v &&& 0xFFFFFFFF)
  else (old &&& 0xFFFFFFFF) ||| (v &&& 0xFFFFFFFF) <<< 32

/-- A field takes a write by its access code (R8). `m`: the register as the write would leave it, `p`: the bits
written. -/
def State.writeField (s : State) (r : Reg) (m p : Word) (f : FieldDesc) : State :=
  match f.acc with
  | .rw => s.setF r f (clampF f (getF m f))
  | .kw => s.setF r f (clampF f (getF m f))
  | .w1c => s.setF r f (s.fld r f - (s.fld r f &&& getF p f))
  | .w1s => s.setF r f (s.fld r f ||| getF p f)
  | _ => s

/-- Every field of a register takes a write. -/
def State.writeFields (s : State) (r : Reg) (m p : Word) (fields : List FieldDesc) : State :=
  fields.foldl (fun s f => s.writeField r m p f) s

/-! ### What a write sets off -/

/-- Index of a place in an array of registers. -/
def idx (base stride n off : Nat) : Option Nat :=
  if base ≤ off ∧ (off - base) % stride = 0 ∧ (off - base) / stride < n then some ((off - base) / stride) else none

/-- Indices of a place in an array of arrays. -/
def idx2 (base s1 n1 s2 n2 off : Nat) : Option (Nat × Nat) :=
  if base ≤ off ∧ (off - base) / s1 < n1 then (idx 0 s2 n2 ((off - base) % s1)).map fun j => ((off - base) / s1, j)
  else none

/-- Every fence unit, by its registers' place. -/
def allFences : List FenceUnit :=
  (List.finRange 12).map FenceUnit.panel ++ (List.finRange 4).map FenceUnit.llc ++ allCtlrs.map FenceUnit.mc ++
    (List.finRange 8).map FenceUnit.pcie ++ (List.finRange 64).map FenceUnit.bob

/-- A write as it reaches a register: who, the register's place, its fields, what it would leave, what is written. -/
structure RegWr where
  a : Agent
  off : Nat
  r : Reg
  fields : List FieldDesc
  m : Word
  p : Word

/-- The write's plain effect on the register. -/
def State.plain (s : State) (w : RegWr) : State := s.writeFields w.r w.m w.p w.fields

/-- Registers of a saddle's block: range engine, Welt log, LLC, Gusset ends, pace, memory controllers. -/
def State.wrSaddle (s : State) (w : RegWr) : Option (State × Option Resp) :=
  let ok := fun s : State => some (s, some Resp.ok)
  let sd := w.off / 0x10000000 - 1
  let o := w.off % 0x10000000
  if !(0x10000000 ≤ w.off ∧ w.off < 0x50000000) then none
  else if o = 0x100 then ok (if getF w.p F.fabPace_CLR = 1 then paceClrEff (.saddle (Fin.ofNat 4 sd)) s else s)
  else if o = 0x20010 then
    if getF w.p F.rangeCtl_ABORT = 1 ∧ s.fld w.r F.rangeCtl_STATUS = 1 then ok (s.abortRange sd)
    else if s.fld w.r F.rangeCtl_STATUS = 1 then ok s
    else if getF w.p F.rangeCtl_GO = 1 then
      ok (s.startRange sd (getF w.m F.rangeCtl_OP) (s.agentPocket w.a) (getF w.m F.rangeCtl_IRQ_EN == 1))
    else ok (s.plain w)
  else if o = 0x31000 then
    let s := s.plain w
    ok (if s.fld w.r F.weltLogPtr_HEAD = s.fld w.r F.weltLogPtr_TAIL then s.setSource (25 + sd) false else s)
  else match idx2 0x100000 0x1000 24 8 5 o with
    | some (_, 0) =>
      let lock := getF w.m F.slcWayCtl_LOCK
      let off := getF w.m F.slcWayCtl_OFF
      ok ((s.setF w.r F.slcWayCtl_LOCK lock).setF w.r F.slcWayCtl_OFF (off - (off &&& lock)))
    | some (k, 2) =>
      let op := getF w.p F.slcSwCmd_OP
      let s := s.plain w
      ok (if op = 0 then s
          else s.slcOp (24 * sd + k) (s.fld w.r F.slcSwCmd_SET) (s.fld w.r F.slcSwCmd_WAY) op (s.agentPocket w.a))
    | some (k, 3) =>
      if getF w.p F.slcLockFill_GO = 1 then
        let (s, r) := s.lockFillGo w.a ⟨Fin.ofNat 4 sd, Fin.ofNat 24 k⟩ (getF w.m F.slcLockFill_WAY) (64 * getF w.m F.slcLockFill_LINE)
        some (s, some r)
      else ok (s.plain w)
    | _ => none

/-- Registers of the controllers, the fences and the Gusset ends. -/
def State.wrUnits (s : State) (w : RegWr) : Option (State × Option Resp) :=
  let ok := fun s : State => some (s, some Resp.ok)
  match allFences.find? fun u => fenceBase u == w.off with
  | some u => ok (s.fenceCommand u (getF w.m F.fenceCmd_ON == 1))
  | none =>
    match allGusEnds.find? fun e => gusBase e + 0x10 == w.off with
    | some e =>
      let s := s.plain w
      ok (if getF w.p F.gusCtl_REOPEN = 1 ∧ s.gusState e ≠ 0 then s.gusReopen e else s)
    | none =>
      match allCtlrs.find? fun c => ctlrBase c + 0x110 == w.off with
      | some c =>
        if s.fld w.r F.mcScrubCtl_STATUS = 1 then
          ok (if getF w.p F.mcScrubCtl_ABORT = 1 then s.abortScrub c else s)
        else if getF w.p F.mcScrubCtl_GO = 1 then
          ok (s.startScrub c (getF w.m F.mcScrubCtl_RATE) (getF w.m F.mcScrubCtl_IRQ_EN == 1) (getF w.m F.mcScrubCtl_MODE == 1))
        else ok (s.plain w)
      | none => none

/-- Registers of the Harness (R301, R315, R325). -/
def State.wrHarness (s : State) (w : RegWr) : Option (State × Option Resp) :=
  let ok := fun s : State => some (s, some Resp.ok)
  if w.off = R.hrnNode.addr then
    let s := s.plain w
    ok (if s.fld w.r F.hrnNode_DUP_SEEN = 0 ∧ s.fld (R.errStatus 17) F.errStatus_VALID = 0 then s.setSource 29 false else s)
  else match idx2 0x2100000 0x1000 1024 8 6 w.off with
    | some (q, 1) => ok (if s.fld (R.cqStatus q) F.cqStatus_OUTSTANDING = 0 then s.cqRestart q w.m else s)
    | some (q, 2) => ok ((s.setF w.r F.cqTail_TAIL (min (getF w.m F.cqTail_TAIL) (s.cqSize q - 1))).cqRefresh q)
    | some _ => none
    | none =>
      match idx2 0x2800000 0x1000 1024 8 6 w.off with
      | some (_, 2) =>
        let s := s.plain w
        ok (s.setF w.r F.rqSrc_NODE_HI (max (s.fld w.r F.rqSrc_NODE_LO) (s.fld w.r F.rqSrc_NODE_HI)))
      | some (r, 3) => ok ((s.setF w.r F.rqPtr_HEAD (min (getF w.m F.rqPtr_HEAD) (s.rqSlots r - 1))).hrnPump)
      | _ => none

/-- Registers of the Bobbins and the Thimble (R390, R395, R413). -/
def State.wrBobThm (s : State) (w : RegWr) : Option (State × Option Resp) :=
  let ok := fun s : State => some (s, some Resp.ok)
  if 0x600000 ≤ w.off ∧ w.off < 0xA00000 then
    let n := (w.off - 0x600000) / 0x10000
    match idx2 0x1000 0x1000 8 8 7 (w.off % 0x10000) with
    | some (c, 0) =>
      let share := getF w.m F.chCtl_SHARE
      let s := s.setF w.r F.chCtl_SHARE (min (s.fld (R.chLimit n c) F.chLimit_SHARE_MAX) (clampF F.chCtl_SHARE share))
      let s := if getF w.p F.chCtl_ABORT = 1 then s.chanAbort n c else s
      ok (if getF w.p F.chCtl_GO = 1 then s.chanGo n c else s)
    | some (c, 1) => ok (if s.chanState n c = 1 then s else s.plain w)
    | _ => none
  else if w.off = R.thmStatus.addr then
    let s := s.plain w
    ok (if s.fld w.r F.thmStatus_ALERT = 0 then { s with pins.alert := false } else s)
  else if w.off = R.thmAlarm.addr then
    let s := s.plain w
    ok (if s.fld w.r F.thmAlarm_BITS = 0 then s.setSource 30 false else s)
  else match idx 0xC00100 8 12 w.off, idx 0xC00200 8 12 w.off with
    | some _, _ => ok (s.setF w.r F.vreq_MV (clampN (s.limit 0 2 600) (s.limit 2 2 950) (getF w.m F.vreq_MV)))
    | none, some p => ok (if getF w.p F.vstate_VREG_FAULT = 1 then s.clearVreg p else s)
    | none, none => none

/-- Registers of the Keeper (R347, R348, R361, R362, R437). -/
def State.wrKeeper (s : State) (w : RegWr) : Option (State × Option Resp) :=
  let ok := fun s : State => some (s, some Resp.ok)
  if w.off = R.serviceReq.addr then ok (if getF w.p F.serviceReq_GO = 1 then s.toService else s)
  else match idx 0xF000000 8 4096 w.off with
    | some q =>
      let was := s.fld w.r F.debugEn_INV
      let s := s.plain w
      ok (if was = 1 ∧ s.fld w.r F.debugEn_INV = 0 then s.resumeLowered q else s)
    | none =>
      match idx2 0xE000000 0x1000 4096 8 4 w.off with
      | some (q, 0) =>
        let s := if s.fld w.r F.doorCtl_ENABLE = 1 then s else s.setF w.r F.doorCtl_BASE (getF w.m F.doorCtl_BASE)
        if getF w.m F.doorCtl_ENABLE = 0 then ok ((s.setF w.r F.doorCtl_ENABLE 0).setF w.r F.doorCtl_STATE 0)
        else
          let s := if s.doorRuns q then s
            else ((s.setF w.r F.doorCtl_ENABLE 1).setF w.r F.doorCtl_STATE 1).wr (R.doorPtr q) 0
          ok (s.doorPump q)
      | some (q, 1) => ok ((s.plain w).doorPump q)
      | _ => none

/-- Error records of every unit (R439, R443, R444). -/
def State.wrBank (s : State) (w : RegWr) : Option (State × Option Resp) :=
  match (List.range 92).find? fun b => decide (bankBase b + 0x800 ≤ w.off) && decide (w.off < bankBase b + 0x910) with
  | none => none
  | some b =>
    let s := (s.plain w).refreshBank b
    let s := if b = 17 ∧ s.fld (R.errStatus 17) F.errStatus_VALID = 0 ∧ s.fld R.hrnNode F.hrnNode_DUP_SEEN = 0 then
      s.setSource 29 false else s
    some (s, some .ok)

/-- Registers of the panels, the yoke and the Awls. -/
def State.wrOther (s : State) (w : RegWr) : State × Option Resp :=
  if w.off = R.snapCtl.addr then (s.snapStart (getF w.p F.snapCtl_OP), some .ok)
  else match idx 0x100 8 11 w.off with
    | some k =>
      if k = 3 then (s, some .ok)
      else
        let s := (s.setDeadline k (getF w.m F.deadline_VALUE_NS)).broadcastDeadlines 1
        (s, if s.clk.dlWait.isEmpty then some .ok else none)
    | none =>
      if 0x80000000 ≤ w.off ∧ w.off < 0xB0000000 then
        let p := (w.off - 0x80000000) / 0x4000000
        let o := w.off % 0x4000000
        if o = 0x100 then (if getF w.p F.pace_CLR = 1 then paceClrEff (.panel (Fin.ofNat 12 p)) s else s, some .ok)
        else match idx 0x200 16 20 o with
          | some c =>
            let s := s.plain w
            if getF w.p F.iseInfo_VALID = 1 then
              (((s.setF w.r F.iseInfo_OVERFLOW 0)).setCsr (hartNum p c) 0x344
                (setBits (s.csr (hartNum p c) 0x344) 24 1 0), some .ok)
            else (s, some .ok)
          | none => (s.plain w, some .ok)
      else
        let s := s.plain w
        match idx 0x500018 0x100 8 w.off with
        | some _ => (if s.fld w.r F.awlCtl_MODE = 1 then s.setF w.r F.awlCtl_MODE 0 else s, some .ok)
        | none => (s, some .ok)

/-- A register takes a write, and what it sets off happens; no answer yet where the answer comes later (R57).
PRESUMED (assumption 111). -/
def State.regWrite (s : State) (w : RegWr) : State × Option Resp :=
  ((s.wrBank w).orElse fun _ => (s.wrSaddle w).orElse fun _ => (s.wrUnits w).orElse fun _ =>
    (s.wrHarness w).orElse fun _ => (s.wrBobThm w).orElse fun _ => s.wrKeeper w).getD (s.wrOther w)

/-! ### A write of control space (R9-R14) -/

/-- A write that its checks let through. -/
def State.ctlStore (s : State) (a : Agent) (off size : Nat) (amo : Bool) (v : Word) : State × Option Resp :=
  if amo || !ctlForm off size then (s, some .decerr)
  else match s.pageWrite off (v.toNat % 2 ^ 32) with
    | some (s, r) =>
      let s := if size = 8 then (match s.pageWrite (off + 4) (v.toNat / 2 ^ 32) with | some (s, _) => s | none => s) else s
      (s, some r)
    | none =>
      let o := off / 8 * 8
      match regKindAt o with
      | none => (s, some .decerr)
      | some k =>
        if k.fields.any (fun f => f.acc == .kw) && !agentIsKeeper a then (s.kwViolation a off, some .viol)
        else
          let r : Reg := ⟨o, k.reset⟩
          let m := mergedWord (s.rd r) off size v
          s.regWrite ⟨a, o, r, k.fields, m, placedWord off size v⟩

/-- A write of an agent is checked at its control stop. -/
def State.ctlStoreChecked (s : State) (a : Agent) (off size : Nat) (amo : Bool) (v : Word) : State × Option Resp :=
  match s.ctlCheck a off with
  | .pass => s.ctlStore a off size amo v
  | .decerr => (s, some .decerr)
  | .domoff => (s, some .domoff)
  | .viol reason => (s.ctlViolation a off 0x40 reason, some .viol)

/-- A write of an agent reaches a control-space offset: its fence, its check, its effect. -/
def State.ctlWrite (s : State) (a : Agent) (off size : Nat) (amo : Bool) (v : Word) : State × Option Resp :=
  match ctlFence off with
  | some u =>
    if s.fenceIsOpen u then s.ctlStoreChecked a off size amo v
    else (s.fenceDropped u (2 ^ 49 + off), some .domoff)
  | none => s.ctlStoreChecked a off size amo v

/-! ### The service port's BARs (R71, R375, R425) -/

/-- A list with bytes replaced from `i` on, grown by zeros. -/
def putBytes (l : List Byte) (i : Nat) (bs : List Byte) : List Byte :=
  let l := l ++ List.replicate (i + bs.length - l.length) 0
  l.take i ++ bs ++ l.drop (i + bs.length)

/-- MBX_CMD with a nonzero CODE issues the command (R425); its arguments stand in the argument area.
DESIGN CHOICE (assumption 67). -/
def State.mailbox (s : State) (code : Nat) (seq : BitVec 16) : State :=
  let arg := fun off n => leNat (s.mbxArg off n)
  match code with
  | 0x01 => loadPatternEff seq s
  | 0x02 => alterEff seq s
  | 0x03 => loadFirmwareEff seq s
  | 0x04 => quoteEff seq (BitVec.ofNat 256 (arg 0 32)) s
  | 0x05 => extendEff seq (BitVec.ofNat 8 (arg 0 1)) (BitVec.ofNat 256 (arg 8 32)) s
  | 0x06 => dormantEff seq (bit (arg 0 1) 0) s
  | 0x07 =>
    let sd := Fin.ofNat 4 (arg 0 1)
    if 4 ≤ arg 0 1 then s.mbxRun seq.toNat s.service fun s => s.mbxEnd seq.toNat 0x80
    else resetSaddleEff seq sd (decide ((KMap.get {} s.id.straps sd.val).num = sd.val) && !(KMap.get {} s.id.straps sd.val).fault) s
  | 0x08 => fittingEff seq (bit (arg 0 1) 0) s
  | 0x09 => runPayloadEff seq s
  | 0x0A => warmResetEff seq s
  | 0x10 => setFabricKeyEff seq s
  | 0x11 => ownerKeyEff seq s
  | 0x12 => revokeEff seq s
  | 0x13 => rollbackEff seq s
  | 0x14 => hostVerifyEff seq s
  | _ => s.mbxRun seq.toNat true fun s => s.mbxEnd seq.toNat 0x83

/-- A write to BAR0: the mailbox, its argument area, the staging region unless it is locked.
DESIGN CHOICE (assumption 67). -/
def State.bar0Write (s : State) (off n : Nat) (v : Word) : State :=
  let bytes := leBytes n v.toNat
  if off < 8 then
    if !ctlForm off n then s
    else
      let m := mergedWord (s.rd R.mbxCmd) off n v
      let s := s.setF R.mbxCmd F.mbxCmd_SEQ (getF m F.mbxCmd_SEQ)
      let code := getF (placedWord off n v) F.mbxCmd_CODE
      if code = 0 then s else s.mailbox code (BitVec.ofNat 16 (getF m F.mbxCmd_SEQ))
  else if 0x1000 ≤ off ∧ off + n ≤ 0x2000 then
    { s with boot.args := (bytes.foldl (fun a b => (a.1 + 1, KMap.set 0 a.1 b.toNat a.2)) (off - 0x1000, s.boot.args)).2 }
  else if 0x2000000 ≤ off then
    if s.pat.locked then s.incF R.svcStatus F.svcStatus_STAGING_DROPS
    else { s with pat.staging := putBytes s.pat.staging (off - 0x2000000) bytes }
  else s

/-! ### Commands -/

/-- REGISTER_WRITE: of control space, of a BAR by the board controller, or of a hart's CSR.
DESIGN CHOICE (assumption 116). -/
def registerWriteEff (a : Agent) (t : RegTarget) (size : Size) (amo : Bool) (v : Word) (s : State) : State :=
  match t with
  | .ctl off =>
    match s.ctlWrite a off.toNat size.bytes amo v with
    | (s, some r) => s.reply a r
    | (s, none) => s
  | .bar0 off => (s.bar0Write off.toNat size.bytes v).reply .svcPort .ok
  | .bar2 off =>
    if size = .b4 ∧ off.toNat % 4 = 0 then (s.dmWrite true (off.toNat / 4) (v.toNat % 2 ^ 32)).reply .svcPort .ok
    else s.reply .svcPort .decerr
  | .bar4 _ => s.reply .svcPort .ok
  | .csr h n op => s.csrWrite h n.toNat op v

/-- The window access of a hart that a packet belongs to. -/
def State.windowAcc (s : State) (a : Agent) (pa : Addr) (op : BitVec 8) : Option (Nat × IoAcc × Nat) :=
  match a with
  | .hart h =>
    match s.net.find? fun p => (p.op == op || (p.op == 0x05 && op == 0x0E)) && p.pa == pa &&
        p.src == BitVec.ofNat 8 (agentEyelet a pa.toNat) && p.txid.toNat / 128 == h.core.val with
    | some p => ((s.hart h.num).io.find? fun i => i.sent && i.window && i.pa == pa && i.issued % 128 == p.txid.toNat % 128).map
        fun i => (h.num, i, p.txid.toNat)
    | none => none
  | _ => none

/-- A window access reaches the Harness (R313); it waits while every tag is in use (R317).
DEDUCED (assumption 102). -/
def State.windowGo (s : State) (a : Agent) (pa : Addr) (op : BitVec 8) : State :=
  match s.windowAcc a pa op with
  | some (h, i, txid) =>
    if 16384 ≤ s.hrn.ops.length then s
    else (s.arrive fun p => p.pa == pa && p.txid.toNat == txid && (p.op == op || p.op == 0x05)).winStart h pa.toNat i txid
  | none => (s.ioArrive a pa op).ioReply a pa (s.ioTxid a pa op) (op == 0x0E) .decerr

/-- An I/O-type access of a bolt address (PBMT IO) is served at the home as non-coherent (R86, R206).
DEDUCED (assumption 40). -/
def State.boltIo (s : State) (a : Agent) (pa : Addr) (isWr : Bool) (n : Nat) (v : BitVec 128) (txid : BitVec 12) : State :=
  let e := s.homeEyelet pa.toNat
  let off := pa.toNat % 64
  s.requestIn (sliceNumOfEyelet e)
    { op := if isWr then 0x07 else 0x06, src := BitVec.ofNat 8 (agentEyelet a pa.toNat), dst := BitVec.ofNat 8 e
      txid := txid, pocket := BitVec.ofNat 12 (s.agentPocket a), pa := pa, nc := true, mod := 1, size := n
      data := placeAt (v.toNat % 2 ^ (8 * n)) off, be := beOf off n }

/-- Offset of an address in control space (R136). -/
def ctlOff (pa : Addr) : Nat := pa.toNat % 2 ^ 32

/-- A load at its destination, which its address names. -/
def State.readAt (s : State) (reg : Region) (a : Agent) (pa : Addr) (n : Nat) (tx : BitVec 12) : State :=
  match reg with
  | .mmio k => s.mmioRd k a pa n tx
  | .ctl =>
    let o := s.ctlRead a (ctlOff pa) n
    o.1.ioReply a pa tx true o.2.1 (BitVec.ofNat 512 o.2.2)
  | .bolt => s.boltIo a pa false n 0 tx
  | _ => s.ioReply a pa tx true .decerr

/-- The answer to a store: an MSI's sender has a reply, another requester a packet. -/
def State.storeAnswer (s : State) (isMsi : Bool) (a : Agent) (pa : Addr) (tx : BitVec 12) (r : Resp) : State :=
  if isMsi then s.reply a r else s.ioReply a pa tx false r

/-- What a store in control space ends in: an answer, unless it waits. -/
def storeEnd (isMsi : Bool) (a : Agent) (pa : Addr) (tx : BitVec 12) : State × Option Resp → State
  | (s, some r) => s.storeAnswer isMsi a pa tx r
  | (s, none) => s

/-- A store at its destination, which its address names. -/
def State.writeAt (s : State) (reg : Region) (isMsi : Bool) (a : Agent) (pa : Addr) (n : Nat) (v : BitVec 128)
    (tx : BitVec 12) : State :=
  match reg with
  | .mmio k => s.mmioWr k a pa n v tx
  | .ctl => storeEnd isMsi a pa tx (s.ctlWrite a (ctlOff pa) n false (v.setWidth 64))
  | .bolt => s.boltIo a pa true n v tx
  | _ => s.storeAnswer isMsi a pa tx .decerr

/-- IO_RD: a load reaches its destination (R206, R207). -/
def ioRdEff (a : Agent) (pa : Addr) (size : Size) (s : State) : State :=
  let reg := regionOf pa.toNat
  if reg = .window then s.windowGo a pa 0x0E
  else (s.ioArrive a pa 0x0E).readAt reg a pa size.bytes (s.ioTxid a pa 0x0E)

/-- A store is an MSI that a unit of the yoke has sent. -/
def State.isMsi (s : State) (a : Agent) (pa : Addr) (v : BitVec 128) : Bool :=
  (match a with | .hart _ => false | _ => true) && s.msi.contains (pa.toNat, v.toNat)

/-- A store leaves the requests on their way. -/
def State.storeArrive (s : State) (isMsi : Bool) (a : Agent) (pa : Addr) (v : BitVec 128) : State :=
  if isMsi then { s with msi := s.msi.erase (pa.toNat, v.toNat) } else s.ioArrive a pa 0x40

/-- IO_WR: a store, or an MSI that a unit of the yoke has sent, reaches its destination (R206, R207, R377). -/
def ioWrEff (a : Agent) (pa : Addr) (size : Size) (v : BitVec 128) (s : State) : State :=
  let reg := regionOf pa.toNat
  let msi := s.isMsi a pa v
  if reg = .window then s.windowGo a pa 0x40
  else (s.storeArrive msi a pa v).writeAt reg msi a pa size.bytes v (s.ioTxid a pa 0x40)

def execRegisterWrite (a : Agent) (t : RegTarget) (size : Size) (amo : Bool) (v : Word) (s : State) : Host.Outcome State Fault Refusal :=
  .next (registerWriteEff a t size amo v s)
def execIoRd (a : Agent) (pa : Addr) (size : Size) (s : State) : Host.Outcome State Fault Refusal :=
  .next (ioRdEff a pa size s)
def execIoWr (a : Agent) (pa : Addr) (size : Size) (v : BitVec 128) (s : State) : Host.Outcome State Fault Refusal :=
  .next (ioWrEff a pa size v s)

end Sys2Proof.Machine
end

