-- ==== Sys2Proof/Machine/Wide.lean ====
section
/-! DEFINITION. Scalar and vector binary128: the Q and Zfa instructions (R117-R120) and Xkrnvq (R121-R127, R129,
R132). -/

namespace Sys2Proof.Machine

/-! ### Floating-point control -/

def csr_fcsr : Nat := 0x003
def csr_vstart : Nat := 0x008
def csr_vl : Nat := 0xC20
def csr_vtype : Nat := 0xC21

/-- frm; fflags and frm are parts of fcsr. DEDUCED (assumption 22). -/
def World.frm (w : World) : Nat := bitsAt (w.csrVal csr_fcsr) 5 3

/-- Flags are accrued into fflags. -/
def World.raise (w : World) (fl : Nat) : World :=
  if fl = 0 then w else (w.setCsr csr_fcsr (w.csrVal csr_fcsr ||| BitVec.ofNat 64 (fl % 32))).dirty 13

/-- f register `n` as an operand of a format narrower than 128 bits: NaN-boxed, else the canonical NaN (R118). -/
def World.unbox (w : World) (f : Fmt) (n : Nat) : Nat :=
  let v := (w.fr n).toNat
  if v / 2 ^ f.width = 2 ^ (128 - f.width) - 1 then v % 2 ^ f.width else f.nan

/-- A value of a narrower format, NaN-boxed. -/
def Fmt.box (f : Fmt) (v : Nat) : BitVec 128 := BitVec.ofNat 128 (2 ^ 128 - 2 ^ f.width + v % 2 ^ f.width)

/-- An f register is written. -/
def World.putF (w : World) (n : Nat) (v : BitVec 128) : World := (w.setFr n v).dirty 13

/-- A command of the arithmetic units: it waits (it has no effect) while older accesses have still to write a
register it uses; in run-ahead its results are discarded (R93). DESIGN CHOICE (assumption 17). -/
def State.onArith (s : State) (h : HartId) (uses : List Nat) (f : State → State) : State :=
  if uses.any (s.hart h.num).busyRegs.contains then s
  else s.onHart h fun s => if s.inRunAhead h.num then s else f s

/-- The instruction has its effect on the world the hart runs, and retires. -/
def State.putWorld (s : State) (h : Nat) (w : World) : State := s.updHart h fun x => { x with w := w.retire }

/-! ### Scalar binary128 -/

end Sys2Proof.Machine

namespace Sys2Proof

/-- The format an operand names. -/
def FFmt.fmt : FFmt → Machine.Fmt
  | .h => Machine.fmtH | .s => Machine.fmtS | .d => Machine.fmtD | .q => Machine.fmtQ

/-- Width and sign of an integer operand. -/
def IFmt.bits : IFmt → Nat
  | .w => 32 | .wu => 32 | .l => 64 | .lu => 64

def IFmt.signed : IFmt → Bool
  | .w => true | .l => true | _ => false

/-- The operation rounds, and takes its rm field. -/
def QOp.rounds : QOp → Bool
  | .add => true | .sub => true | .mul => true | .div => true | .sqrt => true | .madd => true | .msub => true
  | .nmadd => true | .nmsub => true | .cvtFromF _ => true | .cvtToF _ => true | .cvtFromI _ => true | .cvtToI _ => true
  | .round => true | .roundnx => true | _ => false

/-- A fused multiply-add. -/
def QOp.fused : QOp → Bool
  | .madd => true | .msub => true | .nmadd => true | .nmsub => true | _ => false

end Sys2Proof

namespace Sys2Proof.Machine

/-- An x register of 64 bits from an integer. -/
def intWord (n : Int) : Word := BitVec.ofInt 64 n

/-- What a scalar operation does to its hart's world: rm is the mode in force. -/
def World.qOp (w : World) (op : QOp) (rd rs1 rs2 rs3 rm : Nat) : World :=
  let q := fmtQ
  let x := (w.fr rs1).toNat
  let y := (w.fr rs2).toNat
  let a := q.val x
  let b := q.val y
  let c := q.val (w.fr rs3).toNat
  let toF := fun (r : FRes) => (w.putF rd (BitVec.ofNat 128 r.1)).raise r.2
  let toX := fun (r : FRes) => (w.setX rd (BitVec.ofNat 64 r.1)).raise r.2
  match op with
  | .add => toF (q.sum rm a b)
  | .sub => toF (q.sum rm a b.neg)
  | .mul => toF (q.mul rm a b)
  | .div => toF (q.div rm a b)
  | .sqrt => toF (q.sqrt rm a)
  | .madd => toF (q.fma rm a b c)
  | .msub => toF (q.fma rm a b c.neg)
  | .nmadd => toF (q.fma rm a.neg b c.neg)
  | .nmsub => toF (q.fma rm a.neg b c)
  | .min => toF (q.pick false false x y)
  | .max => toF (q.pick true false x y)
  | .minm => toF (q.pick false true x y)
  | .maxm => toF (q.pick true true x y)
  | .sgnj => toF (q.sgnj 0 x y, 0)
  | .sgnjn => toF (q.sgnj 1 x y, 0)
  | .sgnjx => toF (q.sgnj 2 x y, 0)
  | .eq => toX (compareF true FVal.eq a b)
  | .lt => toX (compareF false FVal.lt a b)
  | .le => toX (compareF false (fun a b => !b.lt a) a b)
  | .leq => toX (compareF true (fun a b => !b.lt a) a b)
  | .ltq => toX (compareF true FVal.lt a b)
  | .cls => toX (q.cls x, 0)
  | .cvtFromF f =>
    let f := f.fmt
    toF (q.ofVal rm (f.val (if f = q then x else w.unbox f rs1)))
  | .cvtToF f =>
    let f := f.fmt
    let r := f.ofVal rm a
    (w.putF rd (if f = q then BitVec.ofNat 128 r.1 else f.box r.1)).raise r.2
  | .cvtFromI i =>
    let v := (w.xr rs1).toNat % 2 ^ i.bits
    toF (q.ofInt rm (if i.signed then signedOf (i.bits / 8) v else v))
  | .cvtToI i =>
    let r := toInt i.bits i.signed rm a
    (w.setX rd (if i.bits = 32 then sext 4 (intWord r.1).toNat else intWord r.1)).raise r.2
  | .round => toF (q.roundInto rm false x)
  | .roundnx => toF (q.roundInto rm true x)
  | .li => toF (q.li rs1, 0)
  | .mvXD => w.setX rd (BitVec.ofNat 64 x)
  | .mvDX => w.putF rd (fmtD.box (w.xr rs1).toNat)

/-- Registers of a scalar operation; an index past its operands costs nothing but a wait. -/
def qRegs (rd rs1 rs2 rs3 : Nat) : List Nat := [rd, rs1, 32 + rd, 32 + rs1, 32 + rs2, 32 + rs3]

/-- A scalar binary128 instruction (R117-R120). FS Off, or a reserved rounding mode, is illegal. -/
def binary128ArithmeticEff (h : HartId) (op : QOp) (rd rs1 rs2 rs3 : Fin 32) (rm : Rm) (s : State) : State :=
  s.onArith h (qRegs rd rs1 rs2 rs3) fun s =>
    let w := (s.hart h.num).w
    let m := if rm = 7 then w.frm else rm.toNat
    if w.isOff 13 || (op.rounds && decide (4 < m)) then s.illegal h.num
    else
      (if op.fused then s.bump h.num 0x51 else s).putWorld h.num (w.qOp op rd rs1 rs2 rs3 m)

/-- fmvh.x.q: bits 127-64 of an f register (R119). -/
def fmvhXQEff (h : HartId) (rd rs1 : Fin 32) (s : State) : State :=
  s.onArith h [rd.val, 32 + rs1.val] fun s =>
    let w := (s.hart h.num).w
    if w.isOff 13 then s.illegal h.num
    else s.putWorld h.num (w.setX rd (BitVec.ofNat 64 ((w.fr rs1).toNat / 2 ^ 64)))

/-- fmvp.q.x: all 128 bits of an f register, rs1 the low half (R119). -/
def fmvpQXEff (h : HartId) (rd rs1 rs2 : Fin 32) (s : State) : State :=
  s.onArith h [32 + rd.val, rs1.val, rs2.val] fun s =>
    let w := (s.hart h.num).w
    if w.isOff 13 then s.illegal h.num
    else s.putWorld h.num (w.putF rd (BitVec.ofNat 128 ((w.xr rs1).toNat + (w.xr rs2).toNat * 2 ^ 64)))

/-! ### vtype and vl (R121) -/

/-- A vtype as an instruction uses it: log2 SEW, log2 LMUL. -/
structure VType where
  lsew : Nat
  llmul : Int
  deriving DecidableEq, Repr

/-- 512 * 2^l / 2^k. -/
def vlmaxOf (lsew : Nat) (l : Int) : Nat :=
  let n := (9 : Int) + l - lsew
  if n < 0 then 0 else 2 ^ n.toNat

/-- The vtype a value gives; `none`: vill. -/
def vtypeOf (v : Nat) : Option VType :=
  let sew := v / 8 % 8
  let m := v % 8
  let l : Int := if m < 4 then m else (m : Int) - 8
  if 256 ≤ v ∨ 4 < sew ∨ m = 4 ∨ vlmaxOf (3 + sew) l = 0 then none else some ⟨3 + sew, l⟩

/-- vtype in force. -/
def World.vtype (w : World) : Option VType := vtypeOf (w.csrVal csr_vtype).toNat

/-- What vsetvl, vsetvli and vsetivli do to a world. With rs1 and rd both x0, vl is kept; a changed VLMAX then sets
vill. DEDUCED (assumption 21). -/
def World.setVl (w : World) (rd : Fin 32) (a : VAvl) (vtypei : Word) : World :=
  let old := (w.csrVal csr_vl).toNat
  let t := vtypeOf vtypei.toNat
  let max := match t with | some t => vlmaxOf t.lsew t.llmul | none => 0
  let keep := match a with | .reg r => r == 0 && rd == 0 | .imm _ => false
  let oldMax := match w.vtype with | some t => vlmaxOf t.lsew t.llmul | none => 0
  let bad := t.isNone || (keep && oldMax != max)
  let avl := match a with
    | .imm u => u.toNat
    | .reg r => if r = 0 then (if rd = 0 then old else max) else (w.xr r).toNat
  let vl := if bad then 0 else min avl max
  let w := (w.setCsr csr_vtype (if bad then 0x8000000000000000 else vtypei)).setCsr csr_vl (BitVec.ofNat 64 vl)
  ((w.setCsr csr_vstart 0).dirty 9).setX rd (BitVec.ofNat 64 vl)

def vsetvlEff (h : HartId) (rd : Fin 32) (a : VAvl) (vtypei : Word) (s : State) : State :=
  let src := match a with | .reg r => [r.val] | .imm _ => []
  s.onArith h (rd.val :: 96 :: src) fun s =>
    let w := (s.hart h.num).w
    if w.isOff 9 then s.illegal h.num else s.putWorld h.num (w.setVl rd a vtypei)

/-! ### Elements and groups -/

/-- Element `i` of `ew` bits of the group at `r`. -/
def World.vGet (w : World) (r ew i : Nat) : Nat := (w.vr (r + i * ew / 512)).toNat >>> (i * ew % 512) % 2 ^ ew

def World.vSet (w : World) (r ew i v : Nat) : World :=
  let k := r + i * ew / 512
  let o := i * ew % 512
  let m : BitVec 512 := BitVec.ofNat 512 ((2 ^ ew - 1) <<< o)
  w.setVr k ((w.vr k &&& ~~~m) ||| BitVec.ofNat 512 (v % 2 ^ ew <<< o))

/-- Registers of a group of log2 EMUL `l`. -/
def groupRegs (l : Int) : Nat := if l ≤ 0 then 1 else 2 ^ l.toNat

/-- A group is aligned, and lies within the registers. -/
def groupOk (r : Nat) (l : Int) : Bool := r % groupRegs l == 0 && decide (r + groupRegs l ≤ 32)

/-- DEDUCED (assumption 21). -/
def groupsMeet (a na b nb : Nat) : Bool := decide (a < b + nb) && decide (b < a + na)

/-- Element `i` is active: unmasked, or its bit of v0 is 1. -/
def World.vActive (w : World) (vm : Bool) (i : Nat) : Bool := vm || (w.vr 0).getLsbD i

/-- Body elements from vstart on that are active. -/
def World.vBody (w : World) (vm : Bool) : List Nat :=
  (List.range (w.csrVal csr_vl).toNat).filter fun i => decide ((w.csrVal csr_vstart).toNat ≤ i) && w.vActive vm i

/-- Each active element of `ew` bits takes a result; flags come from active elements only (R127).
DEDUCED (assumption 21). -/
def World.vMap (w : World) (vm : Bool) (vd ew : Nat) (f : Nat → FRes) : World :=
  let r := (w.vBody vm).foldl (fun (a : World × Nat) i =>
    let e := f i
    (a.1.vSet vd ew i e.1, a.2 ||| e.2)) (w, 0)
  r.1.raise r.2

/-- Each active element gives a mask bit. -/
def World.vMask (w : World) (vm : Bool) (vd : Nat) (f : Nat → FRes) : World :=
  let r := (w.vBody vm).foldl (fun (a : World × Nat) i =>
    let e := f i
    (a.1.vSet vd 1 i e.1, a.2 ||| e.2)) (w, 0)
  r.1.raise r.2

/-- A vector instruction has run: vstart is 0. -/
def State.vDone (s : State) (h : Nat) (w : World) : State := s.putWorld h ((w.setCsr csr_vstart 0).dirty 9)

/-- Registers of the v operands of an instruction, and vl: what it waits for. -/
def vRegs (bases : List Nat) (extra : List Nat) : List Nat :=
  96 :: 64 :: extra ++ bases.flatMap fun r => (List.range 8).map fun i => 64 + r + i

/-- The registers a second source names. -/
def srcRegs : VSrc → List Nat × List Nat
  | .v n => ([n.val], [])
  | .f n => ([], [32 + n.val])
  | .x n => ([], [n.val])
  | _ => ([], [])

/-- VS is not Off, vtype is legal and SEW is 2^k bits; for a floating-point instruction FS is not Off and frm is
legal (R121, R127). -/
def World.vReady (w : World) (lsew : Nat) (fp : Bool) : Option Int :=
  match w.vtype with
  | none => none
  | some t =>
    if w.isOff 9 || t.lsew != lsew || (fp && (w.isOff 13 || decide (4 < w.frm))) then none else some t.llmul

/-! ### SEW = 128 (R122) -/

/-- The second source's element `i` at SEW = 128 (R125). -/
def World.vSrc (w : World) (src : VSrc) (i : Nat) : Nat :=
  match src with
  | .v n => w.vGet n 128 i
  | .f n => (w.fr n).toNat
  | .x n => (w.xr n).toNat
  | .imm n => n.toNat
  | .none => 0

/-- The form of the second source an operation takes. -/
def vopForm : VOp → VSrc → Bool
  | .frsub, .f _ => true | .mfgt, .f _ => true | .mfge, .f _ => true
  | .cls, .none => true | .mvFS, .none => true
  | .mvVF, .f _ => true | .mvSF, .f _ => true | .fmergeVFM, .f _ => true
  | .mvVV, .v _ => true | .mergeVVM, .v _ => true | .gatherei16, .v _ => true | .compress, .v _ => true
  | .slideup, .x _ => true | .slideup, .imm _ => true | .slidedown, .x _ => true | .slidedown, .imm _ => true
  | .slide1up, .f _ => true | .slide1down, .f _ => true
  | .gather, .v _ => true | .gather, .x _ => true | .gather, .imm _ => true
  | .fadd, .v _ => true | .fadd, .f _ => true | .fsub, .v _ => true | .fsub, .f _ => true
  | .fmul, .v _ => true | .fmul, .f _ => true
  | .fmacc, .v _ => true | .fmacc, .f _ => true | .fnmacc, .v _ => true | .fnmacc, .f _ => true
  | .fmsac, .v _ => true | .fmsac, .f _ => true | .fnmsac, .v _ => true | .fnmsac, .f _ => true
  | .fmadd, .v _ => true | .fmadd, .f _ => true | .fnmadd, .v _ => true | .fnmadd, .f _ => true
  | .fmsub, .v _ => true | .fmsub, .f _ => true | .fnmsub, .v _ => true | .fnmsub, .f _ => true
  | .sgnj, .v _ => true | .sgnj, .f _ => true | .sgnjn, .v _ => true | .sgnjn, .f _ => true
  | .sgnjx, .v _ => true | .sgnjx, .f _ => true | .min, .v _ => true | .min, .f _ => true
  | .max, .v _ => true | .max, .f _ => true
  | .mfeq, .v _ => true | .mfeq, .f _ => true | .mfne, .v _ => true | .mfne, .f _ => true
  | .mflt, .v _ => true | .mflt, .f _ => true | .mfle, .v _ => true | .mfle, .f _ => true
  | _, _ => false

/-- What kind of result an operation has: elements (0), a mask (1), one scalar (2). -/
def vopKind : VOp → Nat
  | .mfeq => 1 | .mfne => 1 | .mflt => 1 | .mfle => 1 | .mfgt => 1 | .mfge => 1
  | .mvFS => 2 | .mvSF => 2
  | _ => 0

/-- Moves and permutations that are no floating-point instructions of the V extension. -/
def vopPlain : VOp → Bool
  | .mvVV => true | .mergeVVM => true | .slideup => true | .slidedown => true | .gather => true
  | .gatherei16 => true | .compress => true | _ => false

/-- The destination may not overlap a source. -/
def vopApart : VOp → Bool
  | .slideup => true | .slide1up => true | .gather => true | .gatherei16 => true | .compress => true | _ => false

/-- Operations written with no mask: vm is 1, or v0 is an operand. -/
def vopNoMask : VOp → Bool
  | .mvVF => true | .mvFS => true | .mvSF => true | .mvVV => true | .mergeVVM => true | .fmergeVFM => true
  | .compress => true | _ => false

/-- The registers of an operation are legal for its groups. -/
def vopRegsOk (op : VOp) (vd vs2 : Nat) (src : VSrc) (vm : Bool) (l : Int) : Bool :=
  let n := groupRegs l
  let one := match src with | .v r => some r.val | _ => none
  let li : Int := if op = .gatherei16 then l - 3 else l
  let v1ok := match one with
    | some r => if op = .compress then true else groupOk r li
    | none => true
  let k := vopKind op
  if k = 2 then true
  else if k = 1 then
    groupOk vs2 l && v1ok && (vd == vs2 || !groupsMeet vd 1 vs2 n) &&
      (match one with | some r => vd == r || !groupsMeet vd 1 r n | none => true)
  else
    let noV2 := op == .mvVF || op == .mvVV
    let v0 := op == .mergeVVM || op == .fmergeVFM || (!vm && !vopNoMask op)
    groupOk vd l && (noV2 || groupOk vs2 l) && v1ok && !(v0 && vd == 0) &&
      !(op == .gatherei16 && decide (li < -3)) &&
      !(vopApart op && (groupsMeet vd n vs2 n || (match one with
        | some r => groupsMeet vd n r (if op == .compress then 1 else groupRegs li)
        | none => false)))

/-- An operation on element `i`, arithmetic and moves. -/
def World.vopElem (w : World) (op : VOp) (vd vs2 : Nat) (src : VSrc) (i : Nat) : FRes :=
  let q := fmtQ
  let rm := w.frm
  let x := w.vGet vs2 128 i
  let y := w.vSrc src i
  let z := w.vGet vd 128 i
  let a := q.val x
  let b := q.val y
  let c := q.val z
  match op with
  | .fadd => q.sum rm a b
  | .fsub => q.sum rm a b.neg
  | .frsub => q.sum rm b a.neg
  | .fmul => q.mul rm a b
  | .fmacc => q.fma rm b a c
  | .fnmacc => q.fma rm b.neg a c.neg
  | .fmsac => q.fma rm b a c.neg
  | .fnmsac => q.fma rm b.neg a c
  | .fmadd => q.fma rm b c a
  | .fnmadd => q.fma rm b.neg c a.neg
  | .fmsub => q.fma rm b c a.neg
  | .fnmsub => q.fma rm b.neg c a
  | .sgnj => (q.sgnj 0 x y, 0)
  | .sgnjn => (q.sgnj 1 x y, 0)
  | .sgnjx => (q.sgnj 2 x y, 0)
  | .min => q.pick false false x y
  | .max => q.pick true false x y
  | .mfeq => compareF true FVal.eq a b
  | .mfne => let r := compareF true FVal.eq a b; (1 - r.1, r.2)
  | .mflt => compareF false FVal.lt a b
  | .mfle => compareF false (fun a b => !b.lt a) a b
  | .mfgt => compareF false FVal.lt b a
  | .mfge => compareF false (fun a b => !a.lt b) a b
  | .cls => (q.cls x, 0)
  | .mvVF => (y, 0)
  | .mvVV => (y, 0)
  | .mergeVVM => (if (w.vr 0).getLsbD i then y else x, 0)
  | .fmergeVFM => (if (w.vr 0).getLsbD i then y else x, 0)
  | _ => (z, 0)

/-- A permutation at SEW = 128, VLMAX `max`. -/
def World.vPerm (w : World) (op : VOp) (vd vs2 : Nat) (src : VSrc) (vm : Bool) (max : Nat) : World :=
  let at' := fun i => w.vGet vs2 128 i
  let vl := (w.csrVal csr_vl).toNat
  match op with
  | .slideup =>
    let o := w.vSrc src 0
    w.vMap vm vd 128 fun i => (if i < o then w.vGet vd 128 i else at' (i - o), 0)
  | .slidedown =>
    let o := w.vSrc src 0
    w.vMap vm vd 128 fun i => (if i + o < max then at' (i + o) else 0, 0)
  | .slide1up => w.vMap vm vd 128 fun i => (if i = 0 then w.vSrc src 0 else at' (i - 1), 0)
  | .slide1down => w.vMap vm vd 128 fun i => (if i + 1 = vl then w.vSrc src 0 else at' (i + 1), 0)
  | .gather => w.vMap vm vd 128 fun i => let k := w.vSrc src i; (if k < max then at' k else 0, 0)
  | .gatherei16 =>
    let r := match src with | .v n => n.val | _ => 0
    w.vMap vm vd 128 fun i => let k := w.vGet r 16 i; (if k < max then at' k else 0, 0)
  | _ =>
    let r := match src with | .v n => n.val | _ => 0
    let picks := (List.range vl).filter fun i => (w.vr r).getLsbD i
    (List.range picks.length).foldl (fun u k => u.vSet vd 128 k (at' (picks.getD k 0))) w

/-- What an operation at SEW = 128 does to a world; `m`: every element is active. -/
def World.vOp (w : World) (op : VOp) (vd vs2 : Nat) (src : VSrc) (m : Bool) (max : Nat) : World :=
  match op with
  | .mvFS => w.putF vd (BitVec.ofNat 128 (w.vGet vs2 128 0))
  | .mvSF =>
    if (w.csrVal csr_vstart).toNat < (w.csrVal csr_vl).toNat then w.vSet vd 128 0 (w.vSrc src 0) else w
  | .slideup => w.vPerm op vd vs2 src m max
  | .slidedown => w.vPerm op vd vs2 src m max
  | .slide1up => w.vPerm op vd vs2 src m max
  | .slide1down => w.vPerm op vd vs2 src m max
  | .gather => w.vPerm op vd vs2 src m max
  | .gatherei16 => w.vPerm op vd vs2 src m max
  | .compress => w.vPerm op vd vs2 src m max
  | _ => if vopKind op = 1 then w.vMask m vd (w.vopElem op vd vs2 src) else w.vMap m vd 128 (w.vopElem op vd vs2 src)

/-- A fused multiply-add. -/
def vopFma : VOp → Bool
  | .fmacc => true | .fnmacc => true | .fmsac => true | .fnmsac => true | .fmadd => true | .fnmadd => true
  | .fmsub => true | .fnmsub => true | _ => false

/-- An operation's form and registers are legal in a world of log2 LMUL `l`. -/
def World.vopOk (w : World) (op : VOp) (vd vs2 : Nat) (src : VSrc) (vm : Bool) (l : Int) : Bool :=
  vopForm op src && vopRegsOk op vd vs2 src vm l && !(op == .compress && (w.csrVal csr_vstart).toNat != 0)

/-- A vector binary128 instruction. One that R122 does not list is illegal at SEW = 128. -/
def vectorBinary128Eff (h : HartId) (op : VOp) (vd vs2 : Fin 32) (src : VSrc) (vm : Bool) (s : State) : State :=
  let r := srcRegs src
  s.onArith h (vRegs (vd.val :: vs2.val :: r.1) ([32 + vd.val] ++ r.2)) fun s =>
    let w := (s.hart h.num).w
    match w.vReady 7 (!vopPlain op) with
    | none => s.illegal h.num
    | some l =>
      if !w.vopOk op vd vs2 src vm l then s.illegal h.num
      else
        let s := if vopFma op then s.bump h.num 0x50 ((w.csrVal csr_vl).toNat - (w.csrVal csr_vstart).toNat) else s
        s.vDone h.num (w.vOp op vd vs2 src (vm || vopNoMask op) (vlmaxOf 7 l))

/-! ### Widening and narrowing at SEW = 64 (R123, R125) -/

/-- A narrowing operation: its source is the wide one. -/
def vwNarrow : VWOp → Bool
  | .ncvtF => true | .ncvtRodF => true | .ncvtX => true | .ncvtXU => true | .ncvtRtzX => true | .ncvtRtzXU => true
  | _ => false

/-- A conversion: it has no second source. -/
def vwUnary : VWOp → Bool
  | .cvtF => true | .cvtX => true | .cvtXU => true | op => vwNarrow op

/-- A widening operation whose first source is wide (.wv, .wf). -/
def vwWide : VWOp → Bool
  | .waddW => true | .wsubW => true | _ => false

/-- The registers of a widening or narrowing operation are legal: a destination may meet a source of half its
width in the highest-numbered part only, and one of twice its width in the lowest-numbered part only. -/
def vwRegsOk (op : VWOp) (vd vs2 : Nat) (src : VSrc) (vm : Bool) (l : Int) : Bool :=
  let n := groupRegs l
  let nw := groupRegs (l + 1)
  let narrowSrc := fun r => groupOk r l && (!groupsMeet vd nw r n || (decide (0 ≤ l) && r + n == vd + nw))
  let form := match src with | .none => vwUnary op | .v _ => !vwUnary op | .f _ => !vwUnary op | _ => false
  form && decide (l ≤ 2) && !(!vm && vd == 0) &&
    (if vwNarrow op then groupOk vd l && groupOk vs2 (l + 1) && (vd == vs2 || !groupsMeet vd n vs2 nw)
     else groupOk vd (l + 1) && (if vwWide op then groupOk vs2 (l + 1) else narrowSrc vs2) &&
       (match src with | .v r => narrowSrc r | _ => true))

/-- A widening or narrowing operation on element `i`. -/
def World.vwElem (w : World) (op : VWOp) (vd vs2 : Nat) (src : VSrc) (i : Nat) : FRes :=
  let d := fmtD
  let q := fmtQ
  let rm := w.frm
  let x := w.vGet vs2 64 i
  let a := if vwWide op || vwNarrow op then q.val (w.vGet vs2 128 i) else d.val x
  let b := match src with
    | .v r => d.val (w.vGet r 64 i)
    | .f r => d.val (w.unbox d r)
    | _ => .zero false
  let c := q.val (w.vGet vd 128 i)
  let int := fun (r : Int × Nat) => ((r.1 % 2 ^ 64).toNat, r.2)
  match op with
  | .wadd => q.sum rm a b
  | .waddW => q.sum rm a b
  | .wsub => q.sum rm a b.neg
  | .wsubW => q.sum rm a b.neg
  | .wmul => q.mul rm a b
  | .wmacc => q.fma rm b a c
  | .wnmacc => q.fma rm b.neg a c.neg
  | .wmsac => q.fma rm b a c.neg
  | .wnmsac => q.fma rm b.neg a c
  | .cvtF => q.ofVal rm a
  | .cvtX => q.ofInt rm (signedOf 8 x)
  | .cvtXU => q.ofInt rm x
  | .ncvtF => d.ofVal rm a
  | .ncvtRodF => d.ofVal 5 a
  | .ncvtX => int (toInt 64 true rm a)
  | .ncvtXU => int (toInt 64 false rm a)
  | .ncvtRtzX => int (toInt 64 true 1 a)
  | .ncvtRtzXU => int (toInt 64 false 1 a)

def vectorWideningBinary128Eff (h : HartId) (op : VWOp) (vd vs2 : Fin 32) (src : VSrc) (vm : Bool) (s : State) : State :=
  let r := srcRegs src
  s.onArith h (vRegs (vd.val :: vs2.val :: r.1) r.2) fun s =>
    let w := (s.hart h.num).w
    match w.vReady 6 true with
    | none => s.illegal h.num
    | some l =>
      if !vwRegsOk op vd vs2 src vm l then s.illegal h.num
      else s.vDone h.num (w.vMap vm vd (if vwNarrow op then 64 else 128) (w.vwElem op vd vs2 src))

/-! ### Reductions (R126) and division (R129) -/

/-- A reduction takes binary64 elements. -/
def vredWide (op : VRed) : Bool := op == .wosum || op == .wusum

/-- A reduction: the scalar start value, then the active elements in ascending order, rounded after each. The
widening ones take binary64 elements. With vl 0 nothing is written. DEDUCED (assumption 21). -/
def World.vReduce (w : World) (op : VRed) (vd vs2 vs1 : Nat) (vm : Bool) : World :=
  if (w.csrVal csr_vl).toNat = 0 then w
  else
    let q := fmtQ
    let wide := vredWide op
    let r := (w.vBody vm).foldl (fun (a : FRes) i =>
      let x := if wide then (q.ofVal 0 (fmtD.val (w.vGet vs2 64 i))).1 else w.vGet vs2 128 i
      let v := if wide then fmtD.val (w.vGet vs2 64 i) else q.val x
      let e := match op with
        | .min => q.pick false false a.1 x
        | .max => q.pick true false a.1 x
        | _ => q.sum w.frm (q.val a.1) v
      (e.1, a.2 ||| e.2)) (w.vGet vs1 128 0, 0)
    (w.vSet vd 128 0 r.1).raise r.2

def vectorReductionEff (h : HartId) (op : VRed) (vd vs2 vs1 : Fin 32) (vm : Bool) (s : State) : State :=
  s.onArith h (vRegs [vd.val, vs2.val, vs1.val] []) fun s =>
    let w := (s.hart h.num).w
    match w.vReady (if vredWide op then 6 else 7) true with
    | none => s.illegal h.num
    | some l =>
      if (w.csrVal csr_vstart).toNat ≠ 0 ∨ !groupOk vs2 l then s.illegal h.num
      else s.vDone h.num (w.vReduce op vd vs2 vs1 vm)

/-- vfdiv, vfrdiv and vfsqrt on element `i`. -/
def World.vdivElem (w : World) (op : VDiv) (vs2 : Nat) (src : VSrc) (i : Nat) : FRes :=
  let q := fmtQ
  let a := q.val (w.vGet vs2 128 i)
  let b := q.val (w.vSrc src i)
  match op with
  | .div => q.div w.frm a b
  | .rdiv => q.div w.frm b a
  | .sqrt => q.sqrt w.frm a

/-- The form and the registers of a division are legal. -/
def vdivOk (op : VDiv) (vd vs2 : Nat) (src : VSrc) (vm : Bool) (l : Int) : Bool :=
  let form := match op, src with
    | .div, .v _ => true | .div, .f _ => true | .rdiv, .f _ => true | .sqrt, .none => true | _, _ => false
  let v1 := match src with | .v r => groupOk r l | _ => true
  form && groupOk vd l && groupOk vs2 l && v1 && (vm || vd != 0)

/-- vfdiv, vfrdiv and vfsqrt at SEW = 128, element by element. -/
def vectorDivideEff (h : HartId) (op : VDiv) (vd vs2 : Fin 32) (src : VSrc) (vm : Bool) (s : State) : State :=
  let r := srcRegs src
  s.onArith h (vRegs (vd.val :: vs2.val :: r.1) r.2) fun s =>
    let w := (s.hart h.num).w
    match w.vReady 7 true with
    | none => s.illegal h.num
    | some l =>
      if !vdivOk op vd vs2 src vm l then s.illegal h.num
      else s.vDone h.num (w.vMap vm vd 128 (w.vdivElem op vs2 src))

/-! ### Memory accesses at EEW = 128 (R124, R127, R132, R133) -/

/-- An element access joins the hart's accesses: its address, and the place it loads to or the value it stores.
`vstart` of its world names it. `none`: it traps at once. -/
def State.vElemIssue (s : State) (h : Nat) (isStore first : Bool) (i pa place : Nat) (v : Nat) (m : Pbmt) : State × Option Nat :=
  let mark := fun (s : State) => s.updHart h fun x =>
    { x with acc := x.acc.map fun a => if a.issued = x.stitch ∧ a.rd = place ∧ a.pa.toNat = pa then
               { a with first := first, snap := a.snap.setCsr csr_vstart (BitVec.ofNat 64 i) } else a
             io := x.io.map fun a => if a.issued = x.stitch ∧ a.rd = place ∧ a.pa.toNat = pa then
               { a with first := first, snap := a.snap.setCsr csr_vstart (BitVec.ofNat 64 i) } else a }
  let a : Addr := BitVec.ofNat 56 pa
  let n := if isStore then causeStoreAccess else causeLoadAccess
  let mis := if isStore then causeStoreMisaligned else causeLoadMisaligned
  match routeOf pa m with
  | .hole => (s, some n)
  | .cached =>
    let s := s.tagCheck h (pa / 64)
    (mark (s.addAcc h { kind := if isStore then .store else .load, id := 0, pa := a, size := 16, rd := place
                        val := BitVec.ofNat 128 v }), none)
  | .nc =>
    if pa % 64 + 16 > 64 then (s, some mis)
    else (mark (s.addAcc h { kind := if isStore then .store else .load, id := 0, pa := a, size := 16, rd := place
                             val := BitVec.ofNat 128 v, m := .nc, op := if isStore then 0x07 else 0x06, own := true }), none)
  | r =>
    if pa % 16 ≠ 0 then (s, some mis)
    else (mark (s.addIo h { isLoad := !isStore, dst := s.ioDest pa, pa := a, size := 16, rd := place
                            val := BitVec.ofNat 128 v, t := s.timer (h / 32) 2, window := r == .window }), none)

/-- The elements of a vector access issue in ascending order, each field of a segment in turn, up to the first
that traps. An element is its index, its address and its register place. -/
def State.vIssue (s : State) (h : Nat) (isStore ff : Bool) (m : Pbmt) : List (Nat × Nat × Nat) → State
  | [] => s.updHart h fun x => { x with w := ((x.w.setCsr csr_vstart 0).dirty 9).retire }
  | (i, pa, place) :: rest =>
    let w := (s.hart h).w
    let v := if isStore then w.vGet (place / 4 - 16) 128 (place % 4) else 0
    match s.vElemIssue h isStore (ff && i != 0) i pa place v m with
    | (s, none) => s.vIssue h isStore ff m rest
    | (s, some c) =>
      if ff && i != 0 then
        s.updHart h fun x =>
          { x with w := (((x.w.setCsr csr_vl (BitVec.ofNat 64 i)).setCsr csr_vstart 0).dirty 9).retire }
      else
        (s.updHart h fun x => { x with w := (x.w.setCsr csr_vstart (BitVec.ofNat 64 i)).dirty 9 }).trap h c
          (BitVec.ofNat 64 pa)

/-- log2 EMUL of the data, elements and first element of a vector access. -/
def World.vMemShape (w : World) (mode : VMem) : Option (Int × Nat) :=
  match mode with
  | .whole nr => some ((nr.val : Int), 4 * 2 ^ nr.val)
  | .indexed .. => (w.vReady 7 false).map fun l => (l, (w.csrVal csr_vl).toNat)
  | _ => match w.vtype with
    | none => none
    | some t => some (t.llmul + 7 - t.lsew, (w.csrVal csr_vl).toNat)

/-- Fields of a segment; a whole-register access has one. -/
def vFields (mode : VMem) (nf : Nat) : Nat := match mode with | .whole _ => 1 | _ => nf + 1

/-- Index width of an indexed access, in bits. -/
def vIdxBits : VMem → Nat
  | .indexed _ e => 8 * e.bytes
  | _ => 0

/-- The registers of a vector access are legal for its groups of log2 EMUL `l`. -/
def vMemOk (isStore : Bool) (mode : VMem) (nf vd : Nat) (vm : Bool) (l : Int) : Bool :=
  let fields := vFields mode nf
  let g := groupRegs l
  let li : Int := l + Nat.log2 (max 1 (vIdxBits mode)) - 7
  let idxOk := match mode with
    | .indexed v e => e != .b16 && decide (-3 ≤ li) && decide (li ≤ 3) && groupOk v li &&
        !(!isStore && decide (1 < fields) && groupsMeet vd (g * fields) v (groupRegs li))
    | _ => true
  let whole := match mode with | .whole _ => true | _ => false
  let ff := match mode with | .faultFirst => true | _ => false
  (whole || (decide (-2 ≤ l) && decide (l ≤ 3))) && decide (vd % g = 0) && decide (g * fields ≤ 8) &&
    decide (vd + g * fields ≤ 32) && idxOk && !(ff && isStore) && !(!vm && !isStore && vd == 0 && !whole)

/-- Address of field `f` of element `i` of a vector access at `base`. DESIGN CHOICE (assumption 15). -/
def World.vAddr (w : World) (mode : VMem) (base fields i f : Nat) : Nat :=
  match mode with
  | .strided r => base + i * (w.xr r).toNat + 16 * f
  | .indexed v _ => base + w.vGet v (vIdxBits mode) i + 16 * f
  | _ => base + 16 * (i * fields + f)

/-- The elements of a vector access in their order: index, address, register place. -/
def World.vElems (w : World) (mode : VMem) (nf vd base : Nat) (vm : Bool) (l : Int) (evl : Nat) : List (Nat × Nat × Nat) :=
  let whole := match mode with | .whole _ => true | _ => false
  let fields := vFields mode nf
  let is := (List.range evl).filter fun i => decide ((w.csrVal csr_vstart).toNat ≤ i) && (whole || w.vActive vm i)
  is.flatMap fun i => (List.range fields).map fun f =>
    (i, w.vAddr mode base fields i f % 2 ^ 56, 64 + 4 * (vd + f * groupRegs l + i / 4) + i % 4)

/-- A vector load or store with data of 128 bits. It waits for a fence that holds accesses of its kind. -/
def vectorLoadEew128Eff (h : HartId) (isStore : Bool) (mode : VMem) (nf : Fin 8) (vd rs1 : Fin 32) (vm : Bool) (m : Pbmt)
    (s : State) : State :=
  let n := h.num
  let idx := match mode with | .indexed v _ => [v.val] | _ => []
  let str := match mode with | .strided r => [r.val] | _ => []
  if (s.hart n).fenceHolds (if isStore then 5 else 10) then s
  else s.onArith h (vRegs (vd.val :: idx) (rs1.val :: str)) fun s =>
    let w := (s.hart n).w
    match w.vMemShape mode with
    | none => s.illegal n
    | some (l, evl) =>
      if w.isOff 9 || !vMemOk isStore mode nf vd vm l then s.illegal n
      else
        let ff := match mode with | .faultFirst => true | _ => false
        (s.vIssue n isStore ff m (w.vElems mode nf vd (w.xr rs1).toNat vm l evl)).pump n

def execBinary128Arithmetic (h : HartId) (op : QOp) (rd rs1 rs2 rs3 : Fin 32) (rm : Rm) (s : State) : Host.Outcome State Fault Refusal :=
  .next (binary128ArithmeticEff h op rd rs1 rs2 rs3 rm s)
def execFmvhXQ (h : HartId) (rd rs1 : Fin 32) (s : State) : Host.Outcome State Fault Refusal :=
  .next (fmvhXQEff h rd rs1 s)
def execFmvpQX (h : HartId) (rd rs1 rs2 : Fin 32) (s : State) : Host.Outcome State Fault Refusal :=
  .next (fmvpQXEff h rd rs1 rs2 s)
def execVsetvl (h : HartId) (rd : Fin 32) (a : VAvl) (vtypei : Word) (s : State) : Host.Outcome State Fault Refusal :=
  .next (vsetvlEff h rd a vtypei s)
def execVectorBinary128 (h : HartId) (op : VOp) (vd vs2 : Fin 32) (src : VSrc) (vm : Bool) (s : State) : Host.Outcome State Fault Refusal :=
  .next (vectorBinary128Eff h op vd vs2 src vm s)
def execVectorWideningBinary128 (h : HartId) (op : VWOp) (vd vs2 : Fin 32) (src : VSrc) (vm : Bool) (s : State) : Host.Outcome State Fault Refusal :=
  .next (vectorWideningBinary128Eff h op vd vs2 src vm s)
def execVectorReduction (h : HartId) (op : VRed) (vd vs2 vs1 : Fin 32) (vm : Bool) (s : State) : Host.Outcome State Fault Refusal :=
  .next (vectorReductionEff h op vd vs2 vs1 vm s)
def execVectorLoadEew128 (h : HartId) (isStore : Bool) (mode : VMem) (nf : Fin 8) (vd rs1 : Fin 32) (vm : Bool) (m : Pbmt) (s : State) : Host.Outcome State Fault Refusal :=
  .next (vectorLoadEew128Eff h isStore mode nf vd rs1 vm m s)
def execVectorDivide (h : HartId) (op : VDiv) (vd vs2 : Fin 32) (src : VSrc) (vm : Bool) (s : State) : Host.Outcome State Fault Refusal :=
  .next (vectorDivideEff h op vd vs2 src vm s)

end Sys2Proof.Machine
end

