-- ==== Sys2Proof/Machine/Dispatch.lean ====
section
/-! DEFINITION. One arm per command: its meaning. -/

namespace Sys2Proof.Machine

/-- What a command does to the package, the queue of waiting commands aside. -/
def exec (i : Instr) (s : State) : Host.Outcome State Fault Refusal :=
  match i with
  | .registerWrite a t size amo v => Sys2Proof.Machine.execRegisterWrite a t size amo v s
  | .strapRead sd pads => Sys2Proof.Machine.execStrapRead sd pads s
  | .orientationDecode p g0 g1 g2 g3 => Sys2Proof.Machine.execOrientationDecode p g0 g1 g2 g3 s
  | .threadDiscovery => Sys2Proof.Machine.execThreadDiscovery s
  | .threadFrameReturn r => Sys2Proof.Machine.execThreadFrameReturn r s
  | .threadFrameTimeout pos => Sys2Proof.Machine.execThreadFrameTimeout pos s
  | .threadMgmtFrame thimble pos => Sys2Proof.Machine.execThreadMgmtFrame thimble pos s
  | .brownOutPark p mv => Sys2Proof.Machine.execBrownOutPark p mv s
  | .brownOutResume p mv => Sys2Proof.Machine.execBrownOutResume p mv s
  | .paceWindowEnd u count => Sys2Proof.Machine.execPaceWindowEnd u count s
  | .paceClr u => Sys2Proof.Machine.execPaceClr u s
  | .refclkLoss pos => Sys2Proof.Machine.execRefclkLoss pos s
  | .refclkRelock pos => Sys2Proof.Machine.execRefclkRelock pos s
  | .replicaRealigned pos => Sys2Proof.Machine.execReplicaRealigned pos s
  | .lateCompletion u => Sys2Proof.Machine.execLateCompletion u s
  | .deadlineWrite a k v => Sys2Proof.Machine.execDeadlineWrite a k v s
  | .deadlineSet u k => Sys2Proof.Machine.execDeadlineSet u k s
  | .stallExpiry site silent => Sys2Proof.Machine.execStallExpiry site silent s
  | .homeExpiry h pa src txid => Sys2Proof.Machine.execHomeExpiry h pa src txid s
  | .iocExpiry h k => Sys2Proof.Machine.execIocExpiry h k s
  | .refreshExpiry c rank => Sys2Proof.Machine.execRefreshExpiry c rank s
  | .linkExpiry l => Sys2Proof.Machine.execLinkExpiry l s
  | .remoteExpiry tag => Sys2Proof.Machine.execRemoteExpiry tag s
  | .dmaExpiry n c => Sys2Proof.Machine.execDmaExpiry n c s
  | .thimbleExpiry x rule acting => Sys2Proof.Machine.execThimbleExpiry x rule acting s
  | .vregExpiry v => Sys2Proof.Machine.execVregExpiry v s
  | .fenceExpiry u => Sys2Proof.Machine.execFenceExpiry u s
  | .releaseExpiry b => Sys2Proof.Machine.execReleaseExpiry b s
  | .patternLoad => Sys2Proof.Machine.execPatternLoad s
  | .loadPattern seq => Sys2Proof.Machine.execLoadPattern seq s
  | .alter seq => Sys2Proof.Machine.execAlter seq s
  | .alterationComplete => Sys2Proof.Machine.execAlterationComplete s
  | .doorAlter d pa len => Sys2Proof.Machine.execDoorAlter d pa len s
  | .load h rd pa size m spec stream err => Sys2Proof.Machine.execLoad h rd pa size m spec stream err s
  | .store h pa size m v => Sys2Proof.Machine.execStore h pa size m v s
  | .amo h f rd pa size m op cmp aq rl => Sys2Proof.Machine.execAmo h f rd pa size m op cmp aq rl s
  | .lr h rd pa size m aq rl => Sys2Proof.Machine.execLr h rd pa size m aq rl s
  | .sc h rd pa size m v aq rl => Sys2Proof.Machine.execSc h rd pa size m v aq rl s
  | .amocasQ h rd rs2 pa m aq rl => Sys2Proof.Machine.execAmocasQ h rd rs2 pa m aq rl s
  | .fence h fm pred succ => Sys2Proof.Machine.execFence h fm pred succ s
  | .fenceTso h => Sys2Proof.Machine.execFenceTso h s
  | .fenceI h => Sys2Proof.Machine.execFenceI h s
  | .fenceComplete h => Sys2Proof.Machine.execFenceComplete h s
  | .wfi h => Sys2Proof.Machine.execWfi h s
  | .interruptPending h irq => Sys2Proof.Machine.execInterruptPending h irq s
  | .wfiTimeout h => Sys2Proof.Machine.execWfiTimeout h s
  | .pause h => Sys2Proof.Machine.execPause h s
  | .pauseEnd h => Sys2Proof.Machine.execPauseEnd h s
  | .wrsNto h => Sys2Proof.Machine.execWrsNto h s
  | .wrsSto h => Sys2Proof.Machine.execWrsSto h s
  | .wrsStoTimeout h => Sys2Proof.Machine.execWrsStoTimeout h s
  | .runAheadEntry h => Sys2Proof.Machine.execRunAheadEntry h s
  | .prefetchR h pa m stream => Sys2Proof.Machine.execPrefetchR h pa m stream s
  | .prefetchI h pa m => Sys2Proof.Machine.execPrefetchI h pa m s
  | .prefetchW h pa m stream => Sys2Proof.Machine.execPrefetchW h pa m stream s
  | .cboClean h pa m => Sys2Proof.Machine.execCboClean h pa m s
  | .cboFlush h pa m => Sys2Proof.Machine.execCboFlush h pa m s
  | .cboInval h pa m => Sys2Proof.Machine.execCboInval h pa m s
  | .cboZero h pa m => Sys2Proof.Machine.execCboZero h pa m s
  | .binary128Arithmetic h op rd rs1 rs2 rs3 rm => Sys2Proof.Machine.execBinary128Arithmetic h op rd rs1 rs2 rs3 rm s
  | .fmvhXQ h rd rs1 => Sys2Proof.Machine.execFmvhXQ h rd rs1 s
  | .fmvpQX h rd rs1 rs2 => Sys2Proof.Machine.execFmvpQX h rd rs1 rs2 s
  | .vsetvl h rd a vtypei => Sys2Proof.Machine.execVsetvl h rd a vtypei s
  | .vectorBinary128 h op vd vs2 src vm => Sys2Proof.Machine.execVectorBinary128 h op vd vs2 src vm s
  | .vectorWideningBinary128 h op vd vs2 src vm => Sys2Proof.Machine.execVectorWideningBinary128 h op vd vs2 src vm s
  | .vectorReduction h op vd vs2 vs1 vm => Sys2Proof.Machine.execVectorReduction h op vd vs2 vs1 vm s
  | .vectorLoadEew128 h isStore mode nf vd rs1 vm m => Sys2Proof.Machine.execVectorLoadEew128 h isStore mode nf vd rs1 vm m s
  | .vectorDivide h op vd vs2 src vm => Sys2Proof.Machine.execVectorDivide h op vd vs2 src vm s
  | .predClr h v => Sys2Proof.Machine.execPredClr h v s
  | .mkcmoClean h v => Sys2Proof.Machine.execMkcmoClean h v s
  | .mkcmoInvalidate h v => Sys2Proof.Machine.execMkcmoInvalidate h v s
  | .mkcmoCleanInvalidate h v => Sys2Proof.Machine.execMkcmoCleanInvalidate h v s
  | .enter h pocket slot => Sys2Proof.Machine.execEnter h pocket slot s
  | .exit h pocket slot => Sys2Proof.Machine.execExit h pocket slot s
  | .clearStatus h pocket slot => Sys2Proof.Machine.execClearStatus h pocket slot s
  | .entryAnswer h v => Sys2Proof.Machine.execEntryAnswer h v s
  | .perPanelReset p identityOk => Sys2Proof.Machine.execPerPanelReset p identityOk s
  | .fillResume h pa => Sys2Proof.Machine.execFillResume h pa s
  | .leavingTableAccept p => Sys2Proof.Machine.execLeavingTableAccept p s
  | .slcClean h set way => Sys2Proof.Machine.execSlcClean h set way s
  | .slcInvalidate a h set way => Sys2Proof.Machine.execSlcInvalidate a h set way s
  | .slcCleanInvalidate h set way => Sys2Proof.Machine.execSlcCleanInvalidate h set way s
  | .rangeGo a sd op irqEn => Sys2Proof.Machine.execRangeGo a sd op irqEn s
  | .rangeAbort a sd => Sys2Proof.Machine.execRangeAbort a sd s
  | .rangeDone sd => Sys2Proof.Machine.execRangeDone sd s
  | .wayCleanDone h => Sys2Proof.Machine.execWayCleanDone h s
  | .lockFill a h way pa => Sys2Proof.Machine.execLockFill a h way pa s
  | .rdS h r => Sys2Proof.Machine.execRdS h r s
  | .rdSp h r => Sys2Proof.Machine.execRdSp h r s
  | .rdO h r => Sys2Proof.Machine.execRdO h r s
  | .upg h r => Sys2Proof.Machine.execUpg h r s
  | .atom h r f size op cmp => Sys2Proof.Machine.execAtom h r f size op cmp s
  | .rdNc h r size rsv => Sys2Proof.Machine.execRdNc h r size rsv s
  | .wrNc h r data be cond => Sys2Proof.Machine.execWrNc h r data be cond s
  | .rdC h r => Sys2Proof.Machine.execRdC h r s
  | .wrC h r data be => Sys2Proof.Machine.execWrC h r data be s
  | .zero h r => Sys2Proof.Machine.execZero h r s
  | .cln h r => Sys2Proof.Machine.execCln h r s
  | .fls h r => Sys2Proof.Machine.execFls h r s
  | .inv h r => Sys2Proof.Machine.execInv h r s
  | .snpS p h r reqOp byHome keep lap => Sys2Proof.Machine.execSnpS p h r reqOp byHome keep lap s
  | .snpI p h r reqOp byHome full lap => Sys2Proof.Machine.execSnpI p h r reqOp byHome full lap s
  | .snpC p h r reqOp lap => Sys2Proof.Machine.execSnpC p h r reqOp lap s
  | .holderSnoop c h r snp reqOp byHome keep full err => Sys2Proof.Machine.execHolderSnoop c h r snp reqOp byHome keep full err s
  | .holdWindowEnd c pa => Sys2Proof.Machine.execHoldWindowEnd c pa s
  | .lapReturn h pa lap => Sys2Proof.Machine.execLapReturn h pa lap s
  | .wbAck p pa => Sys2Proof.Machine.execWbAck p pa s
  | .grant who pa st r alone => Sys2Proof.Machine.execGrant who pa st r alone s
  | .comp h pa src txid => Sys2Proof.Machine.execComp h pa src txid s
  | .fwdDone h pa k dirty panel => Sys2Proof.Machine.execFwdDone h pa k dirty panel s
  | .invDone h pa panel => Sys2Proof.Machine.execInvDone h pa panel s
  | .upgFail c pa => Sys2Proof.Machine.execUpgFail c pa s
  | .nodata c pa => Sys2Proof.Machine.execNodata c pa s
  | .data who pa st d poison r err crcOk => Sys2Proof.Machine.execData who pa st d poison r err crcOk s
  | .wb h p pa pocket d poison sentTape => Sys2Proof.Machine.execWb h p pa pocket d poison sentTape s
  | .ev h p pa pocket sentTape => Sys2Proof.Machine.execEv h p pa pocket sentTape s
  | .dirty h pa d poison => Sys2Proof.Machine.execDirty h pa d poison s
  | .tokenExpiry h pa panel => Sys2Proof.Machine.execTokenExpiry h pa panel s
  | .ioRd a pa size => Sys2Proof.Machine.execIoRd a pa size s
  | .ioWr a pa size v => Sys2Proof.Machine.execIoWr a pa size v s
  | .ioAck who r => Sys2Proof.Machine.execIoAck who r s
  | .ioData who v r => Sys2Proof.Machine.execIoData who v r s
  | .abandon c port => Sys2Proof.Machine.execAbandon c port s
  | .deviceRead port rid pa => Sys2Proof.Machine.execDeviceRead port rid pa s
  | .deviceWrite port rid pa data be => Sys2Proof.Machine.execDeviceWrite port rid pa data be s
  | .deviceAtomic port rid pa f size op cmp => Sys2Proof.Machine.execDeviceAtomic port rid pa f size op cmp s
  | .peerToPeer port rid pa isWrite => Sys2Proof.Machine.execPeerToPeer port rid pa isWrite s
  | .pcieCompletion port txid st v => Sys2Proof.Machine.execPcieCompletion port txid st v s
  | .linkDown port sub => Sys2Proof.Machine.execLinkDown port sub s
  | .slotBoundary stop => Sys2Proof.Machine.execSlotBoundary stop s
  | .reopen e => Sys2Proof.Machine.execReopen e s
  | .mask e n m => Sys2Proof.Machine.execMask e n m s
  | .confirm e n w => Sys2Proof.Machine.execConfirm e n w s
  | .safe e ok => Sys2Proof.Machine.execSafe e ok s
  | .idleTestFail e group failed => Sys2Proof.Machine.execIdleTestFail e group failed s
  | .gusCtlReopen a e => Sys2Proof.Machine.execGusCtlReopen a e s
  | .fenceCmd u on => Sys2Proof.Machine.execFenceCmd u on s
  | .drainComplete u => Sys2Proof.Machine.execDrainComplete u s
  | .fenceOpen u ok => Sys2Proof.Machine.execFenceOpen u ok s
  | .fenceReply u => Sys2Proof.Machine.execFenceReply u s
  | .epochFlip stop => Sys2Proof.Machine.execEpochFlip stop s
  | .epochEmpty stop => Sys2Proof.Machine.execEpochEmpty stop s
  | .epochGo stop => Sys2Proof.Machine.execEpochGo stop s
  | .tableLoad stop => Sys2Proof.Machine.execTableLoad stop s
  | .trainingComplete c r => Sys2Proof.Machine.execTrainingComplete c r s
  | .memoryRead u h pa txid err openRow bank => Sys2Proof.Machine.execMemoryRead u h pa txid err openRow bank s
  | .memoryWrite u h pa d be poison err openRow bank => Sys2Proof.Machine.execMemoryWrite u h pa d be poison err openRow bank s
  | .tempRead c reading => Sys2Proof.Machine.execTempRead c reading s
  | .refresh c rank => Sys2Proof.Machine.execRefresh c rank s
  | .scrubGo a c rate irqEn mode => Sys2Proof.Machine.execScrubGo a c rate irqEn mode s
  | .scrubLine c hold => Sys2Proof.Machine.execScrubLine c hold s
  | .scrubAbort a c => Sys2Proof.Machine.execScrubAbort a c s
  | .scrubEnd c => Sys2Proof.Machine.execScrubEnd c s
  | .linkFrame k seq ack crcOk typ => Sys2Proof.Machine.execLinkFrame k seq ack crcOk typ s
  | .nak k seq => Sys2Proof.Machine.execNak k seq s
  | .lossOfSignal k => Sys2Proof.Machine.execLossOfSignal k s
  | .trainTimeout k => Sys2Proof.Machine.execTrainTimeout k s
  | .retryTimer k => Sys2Proof.Machine.execRetryTimer k s
  | .hello k m => Sys2Proof.Machine.execHello k m s
  | .query k nonce => Sys2Proof.Machine.execQuery k nonce s
  | .assignId k m => Sys2Proof.Machine.execAssignId k m s
  | .mgmtRelease k m => Sys2Proof.Machine.execMgmtRelease k m s
  | .idChange => Sys2Proof.Machine.execIdChange s
  | .cqTail a q v => Sys2Proof.Machine.execCqTail a q v s
  | .cqBaseWrite a q v => Sys2Proof.Machine.execCqBaseWrite a q v s
  | .descriptorFetch q => Sys2Proof.Machine.execDescriptorFetch q s
  | .put q slot => Sys2Proof.Machine.execPut q slot s
  | .get q slot => Sys2Proof.Machine.execGet q slot s
  | .send q slot => Sys2Proof.Machine.execSend q slot s
  | .atomic q slot => Sys2Proof.Machine.execAtomic q slot s
  | .hrnFence q slot => Sys2Proof.Machine.execHrnFence q slot s
  | .mgmt q slot => Sys2Proof.Machine.execMgmt q slot s
  | .nop q slot => Sys2Proof.Machine.execNop q slot s
  | .putReceive m => Sys2Proof.Machine.execPutReceive m s
  | .getReceive m => Sys2Proof.Machine.execGetReceive m s
  | .sendReceive m => Sys2Proof.Machine.execSendReceive m s
  | .atomicReceive m => Sys2Proof.Machine.execAtomicReceive m s
  | .mgmtReceive k path hop hops mop => Sys2Proof.Machine.execMgmtReceive k path hop hops mop s
  | .resp m lenDone violOff fflags => Sys2Proof.Machine.execResp m lenDone violOff fflags s
  | .transitForward typ m k => Sys2Proof.Machine.execTransitForward typ m k s
  | .budgetExpiry k rq => Sys2Proof.Machine.execBudgetExpiry k rq s
  | .rqHeadWrite a r v => Sys2Proof.Machine.execRqHeadWrite a r v s
  | .entdaa da => Sys2Proof.Machine.execEntdaa da s
  | .rstdaa => Sys2Proof.Machine.execRstdaa s
  | .setnewda da => Sys2Proof.Machine.execSetnewda da s
  | .getpid => Sys2Proof.Machine.execGetpid s
  | .getbcr => Sys2Proof.Machine.execGetbcr s
  | .getdcr => Sys2Proof.Machine.execGetdcr s
  | .getstatus => Sys2Proof.Machine.execGetstatus s
  | .privateRead => Sys2Proof.Machine.execPrivateRead s
  | .create d peer slots stateBase entryPc doorBase => Sys2Proof.Machine.execCreate d peer slots stateBase entryPc doorBase s
  | .rangeAdd d peer base size kind roOthers adopt => Sys2Proof.Machine.execRangeAdd d peer base size kind roOthers adopt s
  | .rangeRemove d peer base => Sys2Proof.Machine.execRangeRemove d peer base s
  | .arm d peer => Sys2Proof.Machine.execArm d peer s
  | .destroy d peer => Sys2Proof.Machine.execDestroy d peer s
  | .assign d b peer bars => Sys2Proof.Machine.execAssign d b peer bars s
  | .release d b => Sys2Proof.Machine.execRelease d b s
  | .powerOff d u => Sys2Proof.Machine.execPowerOff d u s
  | .powerDim d p => Sys2Proof.Machine.execPowerDim d p s
  | .powerOn d u => Sys2Proof.Machine.execPowerOn d u s
  | .powerQuiet d sd => Sys2Proof.Machine.execPowerQuiet d sd s
  | .sealPocket d peer => Sys2Proof.Machine.execSealPocket d peer s
  | .unsealPocket d peer => Sys2Proof.Machine.execUnsealPocket d peer s
  | .msg d peer body => Sys2Proof.Machine.execMsg d peer body s
  | .exportSet d e w0 w1 w2 w3 => Sys2Proof.Machine.execExportSet d e w0 w1 w2 w3 s
  | .debugGrant d inv noninv => Sys2Proof.Machine.execDebugGrant d inv noninv s
  | .random d => Sys2Proof.Machine.execRandom d s
  | .fabricTag d mop m => Sys2Proof.Machine.execFabricTag d mop m s
  | .resetVec d p pa => Sys2Proof.Machine.execResetVec d p pa s
  | .doorEnable a w base => Sys2Proof.Machine.execDoorEnable a w base s
  | .sliceExpiry h => Sys2Proof.Machine.execSliceExpiry h s
  | .chGo a n c => Sys2Proof.Machine.execChGo a n c s
  | .chAbort a n c => Sys2Proof.Machine.execChAbort a n c s
  | .channelStopped n c => Sys2Proof.Machine.execChannelStopped n c s
  | .sourceBeat n c => Sys2Proof.Machine.execSourceBeat n c s
  | .descriptorComplete n c => Sys2Proof.Machine.execDescriptorComplete n c s
  | .statusAtom n c => Sys2Proof.Machine.execStatusAtom n c s
  | .hotPlugFrame k din => Sys2Proof.Machine.execHotPlugFrame k din s
  | .svcPerstN => Sys2Proof.Machine.execSvcPerstN s
  | .voutAck p => Sys2Proof.Machine.execVoutAck p s
  | .vregFaultClear a p => Sys2Proof.Machine.execVregFaultClear a p s
  | .thimbleLoop x => Sys2Proof.Machine.execThimbleLoop x s
  | .wakePinEdge k active => Sys2Proof.Machine.execWakePinEdge k active s
  | .tripComparator temps => Sys2Proof.Machine.execTripComparator temps s
  | .dimEntry p => Sys2Proof.Machine.execDimEntry p s
  | .dimLeavingEmpty p => Sys2Proof.Machine.execDimLeavingEmpty p s
  | .dimWake p => Sys2Proof.Machine.execDimWake p s
  | .dimResume p => Sys2Proof.Machine.execDimResume p s
  | .sleepEntry h => Sys2Proof.Machine.execSleepEntry h s
  | .sleepExit h => Sys2Proof.Machine.execSleepExit h s
  | .dormant seq keepDdr => Sys2Proof.Machine.execDormant seq keepDdr s
  | .coldReset straps resetN testN => Sys2Proof.Machine.execColdReset straps resetN testN s
  | .firmwareLoad => Sys2Proof.Machine.execFirmwareLoad s
  | .loadFirmware seq => Sys2Proof.Machine.execLoadFirmware seq s
  | .railGood => Sys2Proof.Machine.execRailGood s
  | .handOff => Sys2Proof.Machine.execHandOff s
  | .serviceReq a => Sys2Proof.Machine.execServiceReq a s
  | .quote seq nonce => Sys2Proof.Machine.execQuote seq nonce s
  | .extend seq n digest => Sys2Proof.Machine.execExtend seq n digest s
  | .resetSaddle seq sd strapOk => Sys2Proof.Machine.execResetSaddle seq sd strapOk s
  | .fitting seq hold => Sys2Proof.Machine.execFitting seq hold s
  | .runPayload seq => Sys2Proof.Machine.execRunPayload seq s
  | .payloadEcall h => Sys2Proof.Machine.execPayloadEcall h s
  | .warmReset seq => Sys2Proof.Machine.execWarmReset seq s
  | .packageWarmReset => Sys2Proof.Machine.execPackageWarmReset s
  | .resetN lowNs rises => Sys2Proof.Machine.execResetN lowNs rises s
  | .setFabricKey seq => Sys2Proof.Machine.execSetFabricKey seq s
  | .ownerKey seq => Sys2Proof.Machine.execOwnerKey seq s
  | .revoke seq => Sys2Proof.Machine.execRevoke seq s
  | .rollback seq => Sys2Proof.Machine.execRollback seq s
  | .hostVerify seq => Sys2Proof.Machine.execHostVerify seq s
  | .getVersion => Sys2Proof.Machine.execGetVersion s
  | .getCapabilities => Sys2Proof.Machine.execGetCapabilities s
  | .negotiateAlgorithms => Sys2Proof.Machine.execNegotiateAlgorithms s
  | .getDigests => Sys2Proof.Machine.execGetDigests s
  | .getCertificate slot off len => Sys2Proof.Machine.execGetCertificate slot off len s
  | .challenge slot nonce => Sys2Proof.Machine.execChallenge slot nonce s
  | .getMeasurements index nonce => Sys2Proof.Machine.execGetMeasurements index nonce s
  | .counterOverflow h k => Sys2Proof.Machine.execCounterOverflow h k s
  | .snapArm => Sys2Proof.Machine.execSnapArm s
  | .armFreeze => Sys2Proof.Machine.execArmFreeze s
  | .thaw => Sys2Proof.Machine.execThaw s
  | .snapshotTake missed => Sys2Proof.Machine.execSnapshotTake missed s
  | .extest => Sys2Proof.Machine.execExtest s
  | .samplePreload pins v => Sys2Proof.Machine.execSamplePreload pins v s
  | .dtmcs v => Sys2Proof.Machine.execDtmcs v s
  | .dmi addr data op => Sys2Proof.Machine.execDmi addr data op s
  | .bypass tdi => Sys2Proof.Machine.execBypass tdi s
  | .testLogicReset => Sys2Proof.Machine.execTestLogicReset s
  | .haltRequest h => Sys2Proof.Machine.execHaltRequest h s
  | .resumeRequest h => Sys2Proof.Machine.execResumeRequest h s
  | .accessRegister h r isWrite size => Sys2Proof.Machine.execAccessRegister h r isWrite size s
  | .accessMemory h pa size isWrite => Sys2Proof.Machine.execAccessMemory h pa size isWrite s
  | .systemBusAccess pa size isWrite v => Sys2Proof.Machine.execSystemBusAccess pa size isWrite v s
  | .ndmreset => Sys2Proof.Machine.execNdmreset s
  | .pathLock svc v => Sys2Proof.Machine.execPathLock svc v s
  | .supplyLost => Sys2Proof.Machine.execSupplyLost s
  | .vstbyLoss => Sys2Proof.Machine.execVstbyLoss s
  | .quietExit sd => Sys2Proof.Machine.execQuietExit sd s
  | .linkUp port sub speed width cxlGib => Sys2Proof.Machine.execLinkUp port sub speed width cxlGib s
  | .portTrained k lanes => Sys2Proof.Machine.execPortTrained k lanes s
  | .rplHeadWrite a w v => Sys2Proof.Machine.execRplHeadWrite a w v s
  | .branchResolve h pa right => Sys2Proof.Machine.execBranchResolve h pa right s
  | .atsRequest port rid => Sys2Proof.Machine.execAtsRequest port rid s
  | .flowControlCredits port sub n => Sys2Proof.Machine.execFlowControlCredits port sub n s

end Sys2Proof.Machine
end

