-- ==== Sys2Proof/Machine/Tick.lean ====
section
/-! DEFINITION. What happens at a tick of the Tape with no command waiting (R38, R46): the trackers in use are counted
once for each nanosecond (R452). -/

namespace Sys2Proof.Machine

/-- One nanosecond passes. DESIGN CHOICE (assumption 2). -/
def State.tick (s : State) : State := s.advance (s.tape + 1)

end Sys2Proof.Machine
end

