-- ==== Sys2Proof/Safety.lean ====
section
/-! DEFINITION. What a safe step is, and the forms a state keeps from step to step: canonical tables, fuses that
only ever blow. -/

namespace Sys2Proof.Machine

/-- A step that neither faults nor is refused. -/
def Safe (s : State) : Prop := ∃ t, step s = .next t

/-- The canonical form of bolt memory: addresses strictly rise, and no entry in memory the Keeper has zeroed is a
zero, which is what an unlisted address there reads as. -/
def Memory.wf (s : State) : Bool :=
  KMap.sortedFrom 0 s.mem && s.mem.all fun c => !(s.zeroed c.1 && c.2 == 0)

/-- The canonical form of the registers: places strictly rise. -/
def State.regsWf (s : State) : Bool := KMap.sortedFrom 0 s.regs

/-- `b` is the OTP `a` after some programming: what manufacture wrote stands, a fuse that is blown stays blown, and
a programmed owner slot keeps its key hash (R418). -/
structure Otp.Grows (a b : Otp) : Prop where
  made      : b.part = a.part ∧ b.mixed = a.mixed ∧ b.serial = a.serial
  slots     : ∀ k, (a.keys.any fun e => e.1 == k) = true →
    (b.keys.any fun e => e.1 == k) = true ∧ KMap.get 0 b.keys k = KMap.get 0 a.keys k
  revoked   : ∀ k, k ∈ a.revoked → k ∈ b.revoked
  fwRoll    : a.fwRoll ≤ b.fwRoll
  patRoll   : a.patRoll ≤ b.patRoll
  hostVerify : a.hostVerify = true → b.hostVerify = true

end Sys2Proof.Machine
end

