-- ==== Sys2Proof/WellFormed.lean ====
section
/-! DEFINITION. Which commands can be sent: the bounds that an operand's type does not carry. Every command, well
formed or not, has its effect by `exec`; an ill-formed one is no operation or event of the part. -/

namespace Sys2Proof

/-- Sizes of an atomic instruction other than a 16-byte compare-and-swap (R82): bytes to doublewords. -/
def Size.amoOk : Size → Bool
  | .b16 => false
  | _ => true

/-- Sizes of load-reserve and store-conditional (R82): words and doublewords. -/
def Size.lrOk : Size → Bool
  | .b4 => true
  | .b8 => true
  | _ => false

/-- The access lies inside its naturally aligned unit. -/
def Size.aligned (z : Size) (pa : Addr) : Bool := pa.toNat % z.bytes == 0

/-- A POWER target outside panels and LLC halves is a controller, a bolt or a Bobbin (R404). -/
def PowerUnit.ok : PowerUnit → Bool
  | .other (.panel _) => false
  | .other (.llc _) => false
  | _ => true

/-- The unit a home reads memory through is a memory controller, or a bolt's for memory behind CXL (R267, R269). -/
def FenceUnit.isMc : FenceUnit → Bool
  | .mc _ => true
  | .pcie _ => true
  | _ => false

/-- A packet's payload is at most 4,096 bytes, padded to 8 (R314). -/
def HPkt.ok (m : HPkt) : Bool := decide (m.payload.length ≤ 4096) && m.payload.length % 8 == 0

/-- A sample is a signed 32-bit integer (R407). -/
def Samples.ok (x : Samples) : Bool := x.vals.all fun v => decide (-0x80000000 ≤ v ∧ v < 0x80000000)

/-- The indices of an indexed vector access are at most 64 bits wide (R124). -/
def VMem.ok : VMem → Bool
  | .indexed _ eew => eew.amoOk
  | _ => true

/-- The bounds of a command's operands. -/
def Instr.wellFormed : Instr → Bool
  | .thimbleExpiry x _ _ => x.ok
  | .amo _ _ _ _ size _ _ _ _ _ => size.amoOk
  | .lr _ _ _ size _ _ _ => size.lrOk
  | .sc _ _ _ size _ _ _ _ => size.lrOk
  | .vectorLoadEew128 _ _ mode _ _ _ _ _ => mode.ok
  | .atom _ r _ size _ _ => size.aligned r.pa
  | .rdNc _ r size _ => size.aligned r.pa
  | .memoryRead u _ _ _ _ _ _ => u.isMc
  | .memoryWrite u _ _ _ _ _ _ _ _ => u.isMc
  | .putReceive m => m.ok
  | .getReceive m => m.ok
  | .sendReceive m => m.ok
  | .atomicReceive m => m.ok
  | .resp m _ _ _ => m.ok
  | .transitForward _ m _ => m.ok
  | .powerOff _ u => u.ok
  | .powerOn _ u => u.ok
  | .thimbleLoop x => x.ok
  | .tripComparator x => x.ok
  | .resetN lowNs rises => rises || decide (1000 ≤ lowNs.toNat)
  | _ => true

/-- A command that can be sent. -/
def Instr.WellFormed (i : Instr) : Prop := i.wellFormed = true

end Sys2Proof
end

