-- ==== Sys2Proof/Certificates/Slice0/Obligations.lean ====
section
/-! DEFINITION. The statements for the provers, each with the rule of the spec it formalises. -/

open Sys2Proof Sys2Proof.Machine

/-- For every command c and every state, a step of the state with c at the front of its queue is exec of c on the state
with the rest of the queue. -/
def Obligations.StepTakesFront : Prop :=
  ∀ (c : Instr) (q : List Instr) (s : State), step { s with pending := c :: q } = exec c { s with pending := q }

/-- A step on an empty queue answers a next state whose Tape is one nanosecond later and in which nothing else but
registers (the unit counters that count each nanosecond) has changed. That an idle step is a nanosecond is the
model's choice (assumption 2). -/
def Obligations.IdleStepTicks : Prop :=
  ∀ s : State, s.pending = [] → ∃ regs, step s = .next { s with tape := s.tape + 1, regs := regs }

/-- For every command and every state, exec answers a next state, and the queue of that state is the queue it was given:
no command stops the package, and none takes, adds or reorders commands. It rests on the model's choices of
assumption 3. -/
def Obligations.EveryCommandAnswers : Prop :=
  ∀ (i : Instr) (s : State), ∃ t, exec i s = .next t ∧ t.pending = s.pending

/-- From every state whose memory and register tables are in canonical form (keys strictly rising; no zero listed in
memory that the Keeper has zeroed), a step that answers a next state answers one whose tables are in canonical form.
It rests on the model's choices of assumption 6. -/
def Obligations.CanonicalKept : Prop :=
  ∀ s t : State, Memory.wf s = true → s.regsWf = true → step s = .next t → Memory.wf t = true ∧ t.regsWf = true

/-- The state after reset lists nothing in memory and no register, so both tables are in canonical form. -/
def Obligations.CanonicalAtReset : Prop :=
  Memory.wf State.reset = true ∧ State.reset.regsWf = true

/-- A step never changes what manufacture wrote in the OTP, clears a revocation, lowers a rollback count, clears
HOST_VERIFY, or changes the key hash of a programmed owner slot (R418: a field is fuses, programmed by the commands
of its row). -/
def Obligations.FusesOnlyBlow : Prop :=
  ∀ s t : State, step s = .next t → s.otp.Grows t.otp

/-- For every command other than COLD_RESET and VSTBY_LOSS (which end every state), the Tape of the next state is at
least the Tape before: no other reset restarts it and no requester sets it back. -/
def Obligations.TapeNeverBack : Prop :=
  ∀ (i : Instr) (s t : State), exec i s = .next t →
    (∀ a b c, i ≠ .coldReset a b c) → i ≠ .vstbyLoss → s.tape ≤ t.tape

/-- STRAP_READ and ORIENTATION_DECODE (with pad groups that agree on SADDLE and SITE) complete: the die keeps its
decode, and its ports are enabled exactly when the decode shows no fault. It rests on the model's choices of
assumption 60. -/
def Obligations.StrapsAndPads : Prop :=
  (∀ (sd : Saddle) (pads : BitVec 8) (s : State), ∃ t, exec (.strapRead sd pads) s = .next t ∧
      KMap.get {} t.id.straps sd.val = decodeStraps pads ∧
      (t.id.portsOn.contains (saddlePos sd.val) = !(decodeStraps pads).fault) ∧ t.regs = s.regs ∧ t.mem = s.mem) ∧
    ∀ (p : Panel) (g0 g1 g2 g3 : BitVec 8) (s : State),
      g1.toNat / 4 = g0.toNat / 4 → g2.toNat / 4 = g0.toNat / 4 → g3.toNat / 4 = g0.toNat / 4 →
      let d := decodePads [g0, g1, g2, g3] (g0.toNat / 4 % 4) (g0.toNat / 16 % 4)
      ∃ t, exec (.orientationDecode p g0 g1 g2 g3) s = .next t ∧ KMap.get {} t.id.pads p.val = d ∧
        (t.id.portsOn.contains (panelPos p.val) = !d.fault) ∧ t.regs = s.regs ∧ t.mem = s.mem

/-- THREAD_DISCOVERY at boot step 3 sends the first query, to the yoke, with nothing yet found; a discovery frame that
does not return in 100 µs of its three attempts, or returns with a bad CRC, is sent again; a returned management
frame is answered OK and frees its sender, and a frame to the yoke or a saddle is sent at once while one to an
excluded panel is answered ABSENT. It rests on the model's choices of assumption 61. -/
def Obligations.ThreadFrames : Prop :=
  (∀ s : State, s.atStep 3 = true → s.id.disc = none → s.id.discRun = false →
      ∃ t, exec .threadDiscovery s = .next t ∧ t.id.disc = some ⟨0, 1, s.tape⟩ ∧ t.id.found = [] ∧ t.rd R.threadStatus = 0) ∧
    (∀ (pos : Fin 17) (f : ThreadFrame) (s : State), s.id.disc = some f → f.pos = pos.val → f.attempts < 3 →
      ∃ t, exec (.threadFrameTimeout pos) s = .next t ∧
        t.id.disc = some ⟨pos.val, f.attempts + 1, max s.tape (f.sentAt + 100000)⟩) ∧
    (∀ (r : ThreadReply) (f : ThreadFrame) (s : State), s.id.disc = some f → f.pos = r.pos.val → r.crcOk = false →
      f.attempts < 3 →
      ∃ t, exec (.threadFrameReturn r) s = .next t ∧ t.id.disc = some ⟨r.pos.val, f.attempts + 1, s.tape⟩) ∧
    (∀ (r : ThreadReply) (f : ThreadFrame) (s : State), s.id.disc = none → s.id.kprFrame = some f → f.pos = r.pos.val →
      ∃ t, exec (.threadFrameReturn r) s = .next t ∧ t.id.kprFrame = none ∧
        t.id.threadLog = s.id.threadLog ++ [(r.pos.val, 0)]) ∧
    (∀ (pos : Fin 17) (s : State), 4 ≤ s.bootStep → s.id.kprFrame = none → panelAt pos.val = none →
      ∃ t, exec (.threadMgmtFrame false pos) s = .next t ∧ t.id.kprFrame = some ⟨pos.val, 1, s.tape⟩) ∧
    ∀ (pos : Fin 17) (p : Nat) (s : State), 4 ≤ s.bootStep → s.id.kprFrame = none → panelAt pos.val = some p →
      s.id.excluded.contains p = true →
      ∃ t, exec (.threadMgmtFrame false pos) s = .next t ∧ t.id.kprFrame = none ∧
        t.id.threadLog = s.id.threadLog ++ [(pos.val, 1)]

/-- BROWN_OUT_PARK below 585 mV on an ON panel that is not parked parks it: none of its harts can issue, and nothing
else of the state changes but the record of the park. BROWN_OUT_RESUME above 600 mV ends the park, unless a trip or
a lost supply parks every handshake. It rests on the model's choices of assumption 59. -/
def Obligations.BrownOut : Prop :=
  (∀ (p : Panel) (mv : BitVec 12) (s : State), mv.toNat < 585 → s.panelState p.val = 0 → KMap.get 0 s.clk.parks p.val = 0 →
      ∃ t, exec (.brownOutPark p mv) s = .next t ∧ t = { s with clk := t.clk } ∧ t.panelParked p.val = true ∧
        ∀ h : HartId, h.panel = p → t.canIssue h.num = false) ∧
    ∀ (p : Panel) (mv : BitVec 12) (s : State), 600 < mv.toNat → s.thm.parkAll = false →
      ∃ t, exec (.brownOutResume p mv) s = .next t ∧ t = { s with clk := t.clk } ∧ t.panelParked p.val = false

/-- PACE_WINDOW_END on a sensor that is not an OFF panel's sets CURRENT to the window's count, keeps MIN and MAX as the
extremes of the record, and in a record just cleared sets both to the count; PACE_CLR closes the record and changes
no register. It rests on the model's choices of assumption 59. -/
def Obligations.PaceSensor : Prop :=
  (∀ (u : PaceUnit) (n : BitVec 16) (s : State), s.paceOff u = false →
      ∃ t, exec (.paceWindowEnd u n) s = .next t ∧ t.fld (paceReg u) F.pace_CURRENT = n.toNat ∧
        t.fld (paceReg u) F.pace_MIN ≤ n.toNat ∧ n.toNat ≤ t.fld (paceReg u) F.pace_MAX ∧
        (s.clk.paceOpen.contains u.num = false →
          t.fld (paceReg u) F.pace_MIN = n.toNat ∧ t.fld (paceReg u) F.pace_MAX = n.toNat) ∧
        t.clk.paceOpen.contains u.num = true ∧ t.mem = s.mem) ∧
    ∀ (u : PaceUnit) (s : State), ∃ t, exec (.paceClr u) s = .next t ∧ t.clk.paceOpen.contains u.num = false ∧
      t.regs = s.regs ∧ t.mem = s.mem

/-- REFCLK_LOSS at a counter not in holdover sets its DIE_HOLD bit, HOLDOVER and HOLDOVER_SEEN and writes the link
record of cause 7; REFCLK_RELOCK of a replica in holdover starts its slew and ends nothing yet; REPLICA_REALIGNED
ends the replica's holdover, as a relock ends the master's. It rests on the model's choices of assumption 58. -/
def Obligations.Holdover : Prop :=
  (∀ (pos : Fin 17) (s : State), s.fbit R.tapeStatus F.tapeStatus_DIE_HOLD pos.val = false →
      let u : State := { s with clk.relocked := s.clk.relocked.filter (· != pos.val) }
      exec (.refclkLoss pos) s = .next ((((u.setFbit R.tapeStatus F.tapeStatus_DIE_HOLD pos.val true).showHoldover).setF
        R.tapeStatus F.tapeStatus_HOLDOVER_SEEN 1).err 16 1 4 (dieUnit pos.val) 0 0 (linkMisc 7 pos.val 0))) ∧
    (∀ (pos : Fin 17) (s : State), s.fbit R.tapeStatus F.tapeStatus_DIE_HOLD pos.val = true → pos.val ≠ 0 →
      s.clk.relocked.contains pos.val = false →
      ∃ t, exec (.refclkRelock pos) s = .next t ∧ t.clk.relocked = pos.val :: s.clk.relocked ∧ t.regs = s.regs) ∧
    (∀ (s : State), s.fbit R.tapeStatus F.tapeStatus_DIE_HOLD 0 = true →
      exec (.refclkRelock 0) s = .next (s.endHoldover 0)) ∧
    ∀ (pos : Fin 17) (s : State), s.clk.relocked.contains pos.val = true →
      exec (.replicaRealigned pos) s = .next (s.endHoldover pos.val)

/-- LATE_COMPLETION adds one to its unit's late count and changes nothing else. A DEADLINE_WRITE by the Keeper sets the
class under R52 and R53 and starts the broadcast, by anyone else answers VIOL; DEADLINE_SET at a unit that has not
acknowledged gives that unit's copy the value in force and takes the unit off the list of those awaited. It rests on
the model's choices of assumption 57. -/
def Obligations.LateAndDeadlines : Prop :=
  (∀ (u : UnitId) (s : State), ∃ t, exec (.lateCompletion u) s = .next t ∧ t = { s with clk := t.clk } ∧
      KMap.get 0 t.clk.late u.bank = KMap.get 0 s.clk.late u.bank + 1) ∧
    (∀ (k : Fin 11) (v : BitVec 40) (s : State), k.val ≠ 3 →
      let u := (s.setDeadline k.val v.toNat).broadcastDeadlines 1
      exec (.deadlineWrite .keeper k v) s = .next (if u.clk.dlWait.isEmpty then u.reply .keeper .ok else u)) ∧
    (∀ (h : HartId) (k : Fin 11) (v : BitVec 40) (s : State),
      exec (.deadlineWrite (.hart h) k v) s =
        .next ((s.kwViolation (.hart h) (R.deadline k.val).addr).reply (.hart h) .viol)) ∧
    ∀ (u : UnitId) (k : Fin 11) (s : State), s.clk.dlWait.contains (16 * u.bank + k.val) = true →
      ∃ t, exec (.deadlineSet u k) s = .next t ∧ t.dlCopy u.bank k.val = s.deadline k.val ∧
        t.clk.dlWait.contains (16 * u.bank + k.val) = false ∧ t.regs = s.regs ∧ t.mem = s.mem

/-- STALL records severity 1 (3 for a path of the fabric, which is fatal) and closes the fence it belongs to; REFRESH
records and forgets the due refresh; LINK of a rivet in service records the deadline and the link and forces the
panel's fence closed, LINK of a failing fitting test of a Gusset is kept up to two wires and reopens past two, LINK
of a handshake ends it; DMA records at the byte not written and halts the channel LATE; a fence, a block's drain and
a block's release take their FENCE and RELEASE outcomes. It rests on the model's choices of assumption 3. -/
def Obligations.ExpiriesOfUnits : Prop :=
  (∀ (p : Panel) (silent : BitVec 8) (s : State),
      exec (.stallExpiry (.panel p) silent) s = .next
        (((s.err (12 + p.val / 3) 1 3 (unitCode 0x08 (portEyelet (2 * p.val))) 0 0 (dlMisc 0 0 0 silent.toNat 0)).forceClose
          (.panel p)).note (.stall p.val))) ∧
    (∀ (t : Saddle) (silent : BitVec 8) (s : State),
      exec (.stallExpiry (.path t) silent) s = .next
        ((s.err (12 + t.val) 3 3 (unitCode 0x01 t.val) 0 0 (dlMisc 0 0 0 silent.toNat 0)).fatalStop t.val)) ∧
    (∀ (u : FenceUnit) (silent : BitVec 8) (s : State),
      exec (.stallExpiry (.unit u) silent) s = .next
        ((s.err (fenceBank u) 1 3 (fenceUnitCode u) 0 0 (dlMisc 0 0 0 silent.toNat 0)).forceClose u)) ∧
    (∀ (c : Ctlr) (rank : Fin 4) (t : Timer) (s : State), KMap.get none (s.mc c.num).due rank.val = some t →
      ∃ u, exec (.refreshExpiry c rank) s = .next u ∧ KMap.get none (u.mc c.num).due rank.val = none ∧
        u = ((s.advance t.due).mcErr c 1 3 0 0 (dlMisc 3 0 0 c.eyelet ((s.advance t.due).tape - t.due))).updMc c.num
          fun m => { m with due := KMap.set none rank.val none m.due }) ∧
    (∀ (p : PortId) (s : State), s.atStep 5 = false → s.fenceState (.panel p.panel) ≠ 0 →
      ∃ r, r = (s.err (12 + p.panel.val / 3) 1 3 (unitCode 0x08 p.eyelet) 0 0 (dlMisc 4 0 0 p.eyelet 0)).err
          (12 + p.panel.val / 3) 1 4 (unitCode 0x08 p.eyelet) 0 0 (linkMisc 0 p.eyelet 0) ∧
        exec (.linkExpiry (.rivet p)) s =
          .next (if r.fenceState (.panel p.panel) = 0 then r else r.forceClose (.panel p.panel))) ∧
    (∀ (e : GusEnd) (g : Fin 16) (failed : BitVec 7) (s : State), s.gusState e = 2 ∨ s.gusState e = 3 →
      exec (.linkExpiry (.gusset e g failed)) s = .next
        (if failed.toNat ≤ 2 then
          ((s.err e.bank 0 3 (unitCode 0x07 e.num) 0 0 (dlMisc 4 0 0 0xFF 0)).gusTest e g.val failed.toNat).gusRecord e 0
        else ((s.err e.bank 1 3 (unitCode 0x07 e.num) 0 0 (dlMisc 4 0 0 0xFF 0)).gusTest e g.val failed.toNat).gusReopen e)) ∧
    (∀ (n : Fin 64) (c : Fin 8) (t : Timer) (s : State), (s.chan n.val c.val).t = some t →
      let x := s.chan n.val c.val
      let u := s.advance t.due
      exec (.dmaExpiry n c) s = .next ((u.err (28 + n.val) 1 3 (unitCode 0x0F (8 * n.val + c.val)) 1 (x.dstAt x.nextByte)
        (dlMisc 6 (u.agentPocket (.bobbin n c)) 0 0xFF (u.tape - t.due))).chanHalt n.val c.val .late (x.dstAt x.nextByte)
          (some x.nextByte))) ∧
    (∀ (u : FenceUnit) (s : State), exec (.fenceExpiry (.fence u)) s = .next (s.fenceExpired u)) ∧
    (∀ (b : Block) (s : State), exec (.fenceExpiry (.block b)) s = .next (s.blockLate b).keeperWork) ∧
    ∀ (b : Block) (s : State), exec (.releaseExpiry b) s = .next (s.releaseLate b).keeperWork

/-- A token that expires is erased and recorded; a request held at its home that expires is answered LATE and leaves the
home, and a serialised one is poisoned; a load, the stores or a door wait of a hart end at IOC; a payload's run, a
rail's Vout and RAIL_GOOD at their bounds end so; a Thimble loop that is late is counted, alerts and records; a
slice of a pocket ends in a forced exit; an operation at REMOTE is recorded and ends NODE or LATE; a budget that
ends drops what waited. It rests on the model's choices of assumptions 3 and 37. -/
def Obligations.ExpiriesOfRequests : Prop :=
  (∀ (h : SliceId) (pa : Addr) (panel : Panel) (t : Token) (s : State),
      ((s.slice h.num).tokens.find? fun t => t.line == lineOf pa && t.panel == panel.val) = some t →
      let u := (((s.advance t.t.due).updSlice h.num fun x => { x with tokens := x.tokens.erase t }).cohCount h.num)
      exec (.tokenExpiry h pa panel) s = .next (u.err (12 + h.num / 24) 1 3 (unitCode 0x02 h.num) 1 (64 * lineOf pa)
        (dlMisc 1 0 0 (portEyelet (2 * panel.val + lineOf pa % 2)) (u.tape - t.t.due)))) ∧
    (∀ (h : SliceId) (pa : Addr) (src : BitVec 8) (txid : BitVec 12) (t : Tx) (s : State),
      ((s.slice h.num).heldq.findIdx? fun q => lineOf q.pa == lineOf pa && q.src == src && q.txid == txid) = none →
      s.tx h.num (lineOf pa) = some t → lineOf t.req.pa = lineOf pa → t.req.src = src → t.req.txid = txid → ownAgent src ≠ 2 →
      let u := s.advance t.t.due
      let v := (u.poisonLine h.num (lineOf pa) t.req.pocket).endTx h.num (lineOf pa) t.req .poison
      exec (.homeExpiry h pa src txid) s = .next
        (((v.err (12 + h.num / 24) 2 3 (unitCode 0x02 h.num) 1 pa.toNat (dlMisc 1 t.req.pocket.toNat t.req.txid.toNat
          (u.silentOf t) (v.tape - t.t.due))).dropTx h.num (lineOf pa)).homeGo h.num)) ∧
    (∀ (h : HartId) (i : IoAcc) (s : State),
      ((s.hart h.num).io.find? fun i => i.sent && i.isLoad && !i.window) = some i →
      exec (.iocExpiry h .load) s = .next (((s.advance i.t.due).iocRecord h.num i.pa.toNat i.dst
        (h.num % 32 * 128 + i.issued % 128) i.t).ioLoadFault h.num i)) ∧
    (∀ (h : HartId) (rd : Nat) (t : Timer) (s : State), (s.hart h.num).wait = .door rd t →
      exec (.iocExpiry h .door) s = .next (((((s.advance t.due).iocRecord h.num 0 0xCA 0 t).updHart h.num fun x =>
        { x with mode := .run, wait := .none }).doorDone h.num 4).wakeHart h.num)) ∧
    (∀ (h : HartId) (s : State), exec (.iocExpiry h .store) s = .next (s.iocStore h.num) ∧
      exec (.iocExpiry h .payload) s = .next s.payloadLate) ∧
    (∀ (t : Timer) (s : State), s.boot.railT = some t → s.atStep 5 = true →
      let u := s.advance t.due
      exec (.vregExpiry .railGood) s = .next (({ u with boot.railT := none }.err 19 1 3 (bankUnit 19) 0 0
        (dlMisc 8 0 0 0 (u.tape - t.due))).bootStop 5)) ∧
    (∀ (p : Panel) (t : Timer) (s : State), KMap.get none s.thm.outT p.val = some t →
      exec (.vregExpiry (.panel p)) s = .next (if (s.vregExpired p.val).boot.pnlWait.contains p.val then
        (s.vregExpired p.val).dropPanel p.val else s.vregExpired p.val)) ∧
    (∀ (x : Samples) (rule : Fin 65) (acting : Bool) (s : State),
      exec (.thimbleExpiry x rule acting) s = .next (s.thimbleLate x rule.val acting)) ∧
    (∀ (h : HartId) (s : State), s.cfg 0x100 0xFFFF 0xE 2 0 ≠ 0 → (s.hart h.num).hostEntered = true →
      exec (.sliceExpiry h) s = .next
        (((s.advance ((s.hart h.num).entered + 1000 * s.cfg 0x100 0xFFFF 0xE 2 0)).forceExit h.num).wakeHart h.num)) ∧
    (∀ (k : Fin 16) (r : Fin 1024) (x : HIn) (s : State),
      (s.hrn.inb.find? fun h => h.kind == 3 && h.stage == 0 && h.m.addr.toNat == r.val) = some x →
      exec (.budgetExpiry k (some r)) s = .next (((s.advance x.ends).dropIn x.id).incF (R.rqPtr r.val) F.rqPtr_DROPS)) ∧
    ∀ (tag : BitVec 14) (o : HOp) (s : State),
      (s.hrn.ops.find? fun o => o.tag == tag.toNat && decide (o.stage ≤ 3)) = some o →
      let u := s.advance o.t.due
      let v := u.err 17 1 3 (unitCode 0x0E 0x3FF) 1 (if o.hart.isSome then o.loc else o.m.addr.toNat)
        (dlMisc 5 o.m.srcPocket.toNat (o.tag % 4096) 0xFF (u.tape - o.t.due))
      exec (.remoteExpiry tag) s = .next
        (((((v.hrn.ops.filter (endsWith o)).foldl (fun s e => (s.unqueue e.serial).dropOp e.serial) v).unqueue o.serial).endOp o
          (if u.opDown o then .node else .late)).hrnPump)

/-- No register holds KW fields together with RW, WO, W1C or W1S fields (the whole register map). A well-formed write
that reaches a register holding KW fields, by any requester other than the Keeper, changes nothing but the record:
it is a violation, returns VIOL, and is recorded as an error record of kind VIOL in the target unit, with the
register address. -/
def Obligations.KeeperRegistersRefuseWrites : Prop :=
  (∀ k ∈ regTable, k.fields.any (fun f => f.acc == .kw) = true →
      k.fields.all (fun f => f.acc != .rw && f.acc != .wo && f.acc != .w1c && f.acc != .w1s) = true) ∧
    ∀ (a : Agent) (off : BitVec 32) (size : Size) (v : Word) (k : RegKind) (s : State),
      (match ctlFence off.toNat with | some u => s.fenceIsOpen u | none => true) = true → s.ctlCheck a off.toNat = .pass →
      ctlForm off.toNat size.bytes = true → s.pageWrite off.toNat (v.toNat % 2 ^ 32) = none →
      regKindAt (off.toNat / 8 * 8) = some k → k.fields.any (fun f => f.acc == .kw) = true → agentIsKeeper a = false →
      ∃ sev, exec (.registerWrite a (.ctl off) size false v) s = .next
        ((s.err (offBank off.toNat) sev 2 (bankUnit (offBank off.toNat)) 1 (2 ^ 49 + off.toNat)
          (violMisc (s.agentPocket a) 0 (agentEyelet a (2 ^ 49 + off.toNat)) a.mhart 0x7FFF)).reply a .viol)

/-- A write of any other size or alignment, or by an AMO, that reaches its register answers DECERR and changes nothing
else. A write refused by the world check answers VIOL and changes nothing but the record. A well-formed write of a
register that no page holds takes the meaning of its fields. A write to BAR4 and a CSR write complete. It rests on
the model's choices of assumptions 110 and 111. -/
def Obligations.RegisterWrites : Prop :=
  (∀ (a : Agent) (off : BitVec 32) (size : Size) (amo : Bool) (v : Word) (s : State), ctlFence off.toNat = none →
      s.ctlCheck a off.toNat = .pass → amo = true ∨ ctlForm off.toNat size.bytes = false →
      exec (.registerWrite a (.ctl off) size amo v) s = .next (s.reply a .decerr)) ∧
    (∀ (a : Agent) (off : BitVec 32) (size : Size) (amo : Bool) (v : Word) (r : Nat) (s : State), ctlFence off.toNat = none →
      s.ctlCheck a off.toNat = .viol r →
      exec (.registerWrite a (.ctl off) size amo v) s = .next ((s.ctlViolation a off.toNat 0x40 r).reply a .viol)) ∧
    (∀ (a : Agent) (off : BitVec 32) (size : Size) (v : Word) (k : RegKind) (t : State) (r : Resp) (s : State),
      ctlFence off.toNat = none → s.ctlCheck a off.toNat = .pass → ctlForm off.toNat size.bytes = true →
      s.pageWrite off.toNat (v.toNat % 2 ^ 32) = none → regKindAt (off.toNat / 8 * 8) = some k →
      (k.fields.any (fun f => f.acc == .kw) && !agentIsKeeper a) = false →
      s.regWrite ⟨a, off.toNat / 8 * 8, ⟨off.toNat / 8 * 8, k.reset⟩, k.fields,
        mergedWord (s.rd ⟨off.toNat / 8 * 8, k.reset⟩) off.toNat size.bytes v, placedWord off.toNat size.bytes v⟩ = (t, some r) →
      exec (.registerWrite a (.ctl off) size false v) s = .next (t.reply a r)) ∧
    (∀ (a : Agent) (off : BitVec 20) (size : Size) (amo : Bool) (v : Word) (s : State),
      exec (.registerWrite a (.bar4 off) size amo v) s = .next (s.reply .svcPort .ok)) ∧
    ∀ (a : Agent) (h : HartId) (n : BitVec 12) (op : CsrOp) (size : Size) (amo : Bool) (v : Word) (s : State),
      exec (.registerWrite a (.csr h n op) size amo v) s = .next (s.csrWrite h n.toNat op v)

/-- A refused base image changes PATTERN_STATUS alone, and an accepted one is applied in full. PATTERN_LOAD at step 4
tries flash image 0, then image 1, and waits where both are refused. LOAD_PATTERN in that wait tries the staged
image and answers its code. ALTER in service submits the staged image, and a refusal answers its code.
ALTERATION_COMPLETE, once every piece is in effect, sets LAST_SEQ to the image's SEQUENCE, counts it and extends
measurement register 5 (the served holds follow). A mailbox command outside its steps ends with STEP. It rests on
the model's choices of assumptions 62, 64 and 68. -/
def Obligations.PatternLoads : Prop :=
  (∀ (img : List Byte) (src c i : Nat) (s : State), s.checkImage img false = (c, i) → c ≠ 0 →
      s.tryBase img src = (c, s.patResult c i src false)) ∧
    (∀ (img : List Byte) (src i : Nat) (s : State), s.checkImage img false = (0, i) →
      s.tryBase img src = (0, (s.patResult 0 i src false).applyBase img)) ∧
    (∀ s : State, s.atStep 4 = true → s.boot.patWait = false →
      let a : State := { s with pat.staging := KMap.get [] s.pat.flash 2 }
      let ra := a.tryBase a.pat.staging 1
      let b : State := { ra.2 with pat.staging := KMap.get [] ra.2.pat.flash 3 }
      let rb := b.tryBase b.pat.staging 2
      exec .patternLoad s = .next (if ra.1 = 0 then ra.2 else if rb.1 = 0 then rb.2.svcMsix 3
        else { rb.2.svcMsix 3 with boot.patWait := true })) ∧
    (∀ (seq : BitVec 16) (s : State), s.atStep 4 = true → s.boot.patWait = true → s.mbxBusy = false →
      let r := (s.setF R.mbxCmd F.mbxCmd_SEQ seq.toNat).tryBase s.pat.staging 3
      exec (.loadPattern seq) s = .next
        (((if r.1 = 0 then { r.2 with boot.patWait := false } else r.2 : State).svcMsix 3).mbxEnd seq.toNat r.1)) ∧
    (∀ (seq : BitVec 16) (s : State), s.service = true → s.mbxBusy = false →
      let r := (s.setF R.mbxCmd F.mbxCmd_SEQ seq.toNat).submitAlter s.pat.staging 3 false seq.toNat
      exec (.alter seq) s = .next (if r.1 = 0 then r.2.mbxBegin seq.toNat else (r.2.svcMsix 3).mbxEnd seq.toNat r.1)) ∧
    (∀ (seq : BitVec 16) (s : State), s.service = false → s.mbxBusy = false →
      exec (.alter seq) s = .next ((s.setF R.mbxCmd F.mbxCmd_SEQ seq.toNat).mbxEnd seq.toNat 0x84)) ∧
    ∀ (a : Alter) (s : State), s.pat.alt = some a → s.alterDone a = true → a.door = false →
      s.pat.heldResets = [] → s.pat.heldPower = [] →
      let u := (((s.setF R.patSeq F.patSeq_LAST_SEQ a.sequence).incF R.patSeq F.patSeq_ALT_COUNT).extendMeas 5
        (leBytes 32 a.digest)).setF R.patStatus F.patStatus_BUSY 0
      exec .alterationComplete s = .next
        ((({ u with pat.alt := none, pat.locked := false, pat.heldResets := [], pat.heldPower := [] } : State).svcMsix
          3).mbxEnd a.seq 0).checkSeals

/-- A DOOR_ALTER fetched from the ring of any pocket other than pocket 0 is a violation: the Keeper replies VIOL and
writes an error record of kind VIOL in the Keeper, with the pocket in MISC, and KPR.PATTERN_STATUS is not changed. -/
def Obligations.DoorAlter : Prop :=
  ∀ (d : DoorHdr) (pa : Addr) (len : BitVec 32) (s : State), d.world ≠ 0 → s.doorReady d.world.toNat = true →
    s.welt false d.world.toNat (s.fld (R.doorCtl d.world.toNat) F.doorCtl_BASE * 4096 +
      64 * s.fld (R.doorPtr d.world.toNat) F.doorPtr_REQ_HEAD) false = .pass →
    ∃ u t sev, exec (.doorAlter d pa len) s = .next t ∧
      u = (s.setF (R.doorPtr d.world.toNat) F.doorPtr_REQ_HEAD
        ((s.fld (R.doorPtr d.world.toNat) F.doorPtr_REQ_HEAD + 1) % 64)).uev 4 0x130 0 d.world.toNat ∧
      t = (u.err 18 sev 2 (bankUnit 18) 0 0 (violMisc d.world.toNat 0 0xCA 0x1FF 0x7FFF)).doorPost
        { world := d.world.toNat, code := 0x10, status := 2, reason := 0, seq := d.seq.toNat, peer := 0, args := [] } ∧
      t.rd R.patStatus = s.rd R.patStatus

/-- At a hart that can issue, is not in run-ahead and has no waiting fence that holds it, a load or a store of main
memory (cacheable or non-coherent), of an I/O-type region or of the Harness window becomes an outstanding access,
retires and is served as far as it can go; one of no region takes the access exception, a misaligned I/O-type one
the misaligned exception. It rests on the model's choices of assumptions 13, 14, 15 and 16. -/
def Obligations.LoadsAndStores : Prop :=
  (∀ (h : HartId) (rd : Fin 32) (pa : Addr) (size : Size) (m : Pbmt) (spec stream : Bool) (err : CacheErr) (s : State),
      s.canIssue h.num = true → (s.hart h.num).haltReq = false → (s.issue h.num).inRunAhead h.num = false →
      (size = .b16 → ((s.issue h.num).hart h.num).w.isOff 13 = false) →
      ((s.issue h.num).hart h.num).fenceHolds (kindBit (routeOf pa.toNat m) 8 2) = false →
      let n := h.num
      let u := s.issue n
      let r := routeOf pa.toNat m
      (r = .cached → exec (.load h rd pa size m spec stream err) s = .next
        ((((((u.tagCheck n (pa.toNat / 64)).cacheError n pa err).addAcc n
            { kind := .load, id := 0, pa := pa, size := size.bytes, rd := rd.val, spec := spec, stream := stream }).retire n).pump n).stepped n)) ∧
      (r = .nc → spec = false → pa.toNat % 64 + size.bytes ≤ 64 → exec (.load h rd pa size m spec stream err) s = .next
        ((((u.addAcc n
            { kind := .load, id := 0, pa := pa, size := size.bytes, rd := rd.val, m := .nc, op := 0x06,
              own := true }).retire n).pump n).stepped n)) ∧
      (r = .io ∨ r = .window → spec = false → pa.toNat % size.bytes = 0 →
        exec (.load h rd pa size m spec stream err) s = .next
          ((((u.addIo n
            { isLoad := true, dst := u.ioDest pa.toNat, pa := pa, size := size.bytes, rd := rd.val,
              t := u.timer (n / 32) 2, window := r == .window }).retire n).pump n).stepped n)) ∧
      (r = .io ∨ r = .window → spec = false → pa.toNat % size.bytes ≠ 0 →
        exec (.load h rd pa size m spec stream err) s = .next
          ((u.trap n causeLoadMisaligned (BitVec.ofNat 64 pa.toNat)).stepped n)) ∧
      (r = .hole → exec (.load h rd pa size m spec stream err) s = .next
        ((u.trap n causeLoadAccess (BitVec.ofNat 64 pa.toNat)).stepped n))) ∧
    ∀ (h : HartId) (pa : Addr) (size : Size) (m : Pbmt) (v : BitVec 128) (s : State),
      s.canIssue h.num = true → (s.hart h.num).haltReq = false → (s.issue h.num).inRunAhead h.num = false →
      (size = .b16 → ((s.issue h.num).hart h.num).w.isOff 13 = false) →
      ((s.issue h.num).hart h.num).fenceHolds (kindBit (routeOf pa.toNat m) 4 1) = false →
      let n := h.num
      let u := s.issue n
      let r := routeOf pa.toNat m
      (r = .cached → exec (.store h pa size m v) s = .next
        (((((u.tagCheck n (pa.toNat / 64)).addAcc n
            { kind := .store, id := 0, pa := pa, size := size.bytes, val := v }).retire n).pump n).stepped n)) ∧
      (r = .nc → pa.toNat % 64 + size.bytes ≤ 64 → exec (.store h pa size m v) s = .next
        ((((u.addAcc n
            { kind := .store, id := 0, pa := pa, size := size.bytes, val := v, m := .nc, op := 0x07, own := true }).retire n).pump n).stepped n)) ∧
      (r = .io ∨ r = .window → pa.toNat % size.bytes = 0 → exec (.store h pa size m v) s = .next
        ((((u.addIo n
            { isLoad := false, dst := u.ioDest pa.toNat, pa := pa, size := size.bytes, val := v,
              t := u.timer (n / 32) 2, window := r == .window }).retire n).pump n).stepped n)) ∧
      (r = .hole → exec (.store h pa size m v) s = .next
        ((u.trap n causeStoreAccess (BitVec.ofNat 64 pa.toNat)).stepped n))

/-- At a hart that can issue, is not in run-ahead and has no fence waiting that holds it, an AMO of cacheable memory
within 16 bytes becomes one access, far at the home where its hint or the contention predictor says so and near
otherwise, and the same at the pair of AMOCAS_Q; an LR and an SC of 4 or 8 bytes in cacheable memory become one
access each; an SC of non-coherent memory without its reservation writes 1 to rd and ends the reservation. Of the
Harness window an AMO of 8 aligned bytes is carried by the Harness, and of an I/O-type region it takes the access
exception. It rests on the model's choices of assumptions 15, 16 and 112. -/
def Obligations.Atomics : Prop :=
  (∀ (h : HartId) (f : AmoFunc) (rd : Fin 32) (pa : Addr) (size : Size) (m : Pbmt) (op cmp : BitVec 128) (aq rl : Bool)
      (s : State), s.canIssue h.num = true → (s.hart h.num).haltReq = false → size ≠ .b16 →
      (s.issue h.num).inRunAhead h.num = false → ((s.issue h.num).hart h.num).fenceHolds 3 = false →
      pa.toNat % 16 + size.bytes ≤ 16 →
      let n := h.num
      let u := s.issue n
      let r := routeOf pa.toNat m
      (r = .cached ∨ r = .nc → exec (.amo h f rd pa size m op cmp aq rl) s = .next
        (((((if u.amoFar n pa.toNat m then u else u.tagCheck n (pa.toNat / 64)).addAcc n
            { kind := .amo, id := 0, pa := pa, size := size.bytes, rd := rd.val, pair := false, val := op,
              cmp := cmp, func := f.code, m := m, op := 0x05, own := u.amoFar n pa.toNat m, aq := aq, rl := rl }).retire n).pump n).stepped n)) ∧
      (r = .window → windowAmo size.bytes f.code = true → pa.toNat % size.bytes = 0 →
        exec (.amo h f rd pa size m op cmp aq rl) s = .next
        ((((u.addIo n
            { isLoad := true, dst := 0xC9, pa := pa, size := size.bytes, rd := rd.val, val := op, cmp := cmp,
              func := some f.code, t := u.timer (n / 32) 5, window := true }).retire n).pump n).stepped n)) ∧
      (r = .io ∨ r = .hole ∨ (r = .window ∧ (windowAmo size.bytes f.code = false ∨ pa.toNat % size.bytes ≠ 0)) →
        exec (.amo h f rd pa size m op cmp aq rl) s = .next
        ((u.trap n causeStoreAccess (BitVec.ofNat 64 pa.toNat)).stepped n))) ∧
    (∀ (h : HartId) (f : AmoFunc) (rd : Fin 32) (pa : Addr) (size : Size) (m : Pbmt) (op cmp : BitVec 128) (aq rl : Bool)
      (s : State), s.canIssue h.num = true → (s.hart h.num).haltReq = false →
      (size = .b16 → exec (.amo h f rd pa size m op cmp aq rl) s = .next
        (((s.issue h.num).trap h.num causeIllegal).stepped h.num)) ∧
      (size ≠ .b16 → (s.issue h.num).inRunAhead h.num = false → ((s.issue h.num).hart h.num).fenceHolds 3 = false →
        16 < pa.toNat % 16 + size.bytes → exec (.amo h f rd pa size m op cmp aq rl) s = .next
          (((s.issue h.num).trap h.num causeStoreMisaligned (BitVec.ofNat 64 pa.toNat)).stepped h.num))) ∧
    (∀ (h : HartId) (rd rs2 : Fin 32) (pa : Addr) (m : Pbmt) (aq rl : Bool) (s : State), s.canIssue h.num = true →
      (s.hart h.num).haltReq = false →
      ([rd.val, rd.val + 1, rs2.val, rs2.val + 1].any (s.hart h.num).busyRegs.contains) = false →
      rd.val % 2 = 0 → rs2.val % 2 = 0 → pa.toNat % 16 = 0 → (s.issue h.num).inRunAhead h.num = false →
      ((s.issue h.num).hart h.num).fenceHolds 3 = false → routeOf pa.toNat m = .cached →
      let n := h.num
      let u := s.issue n
      exec (.amocasQ h rd rs2 pa m aq rl) s = .next
        (((((if u.amoFar n pa.toNat m then u else u.tagCheck n (pa.toNat / 64)).addAcc n
            { kind := .amo, id := 0, pa := pa, size := 16, rd := rd.val, pair := true,
              val := (u.hart n).w.pairVal rs2.val, cmp := (u.hart n).w.pairVal rd.val, func := 9, m := m,
              op := 0x05, own := u.amoFar n pa.toNat m, aq := aq, rl := rl }).retire n).pump n).stepped n)) ∧
    (∀ (h : HartId) (rd : Fin 32) (pa : Addr) (size : Size) (m : Pbmt) (aq rl : Bool) (s : State),
      s.canIssue h.num = true → (s.hart h.num).haltReq = false → size = .b4 ∨ size = .b8 →
      (s.issue h.num).inRunAhead h.num = false → ((s.issue h.num).hart h.num).fenceHolds 2 = false →
      pa.toNat % 16 + size.bytes ≤ 16 → routeOf pa.toNat m = .cached →
      exec (.lr h rd pa size m aq rl) s = .next
        ((((((s.issue h.num).tagCheck h.num (pa.toNat / 64)).addAcc h.num
            { kind := .lr, id := 0, pa := pa, size := size.bytes, rd := rd.val, aq := aq, rl := rl }).retire h.num).pump h.num).stepped h.num)) ∧
    ∀ (h : HartId) (rd : Fin 32) (pa : Addr) (size : Size) (m : Pbmt) (v : Word) (aq rl : Bool) (s : State),
      s.canIssue h.num = true → (s.hart h.num).haltReq = false → size = .b4 ∨ size = .b8 →
      (s.issue h.num).inRunAhead h.num = false → ((s.issue h.num).hart h.num).fenceHolds 1 = false →
      pa.toNat % 16 + size.bytes ≤ 16 →
      let n := h.num
      let u := s.issue n
      (routeOf pa.toNat m = .cached → exec (.sc h rd pa size m v aq rl) s = .next
        ((((u.addAcc n
            { kind := .sc, id := 0, pa := pa, size := size.bytes, rd := rd.val, val := v.setWidth 128, aq := aq,
              rl := rl }).retire n).pump n).stepped n)) ∧
      (routeOf pa.toNat m = .nc → (u.hart n).resv ≠ some ⟨pa.toNat / 64, true⟩ → exec (.sc h rd pa size m v aq rl) s = .next
        ((((u.updHart n fun x => { x with resv := none }).setX n rd.val 1).retire n).stepped n))

/-- At a hart that can issue and is not in run-ahead: FENCE of two sets, FENCE_TSO and the tso form of FENCE complete at
once where the accesses issued before allow it and wait otherwise, and a fence with an empty set retires; FENCE_I
spends twenty stitches. CBO_CLEAN, CBO_FLUSH and CBO_INVAL that their enables permit become a clean, flush or
invalidate of the line at its home (an invalidate performed as a flush where a CBIE that applies says so); CBO_ZERO
a zeroing access. PREFETCH_R and PREFETCH_I of a line that is absent count and request a speculative read,
PREFETCH_W requests ownership, and all retire. It rests on the model's choices of assumptions 16, 19 and 23. -/
def Obligations.FencesAndCacheBlocks : Prop :=
  ∀ (h : HartId) (pa : Addr) (s : State), s.canIssue h.num = true → (s.hart h.num).haltReq = false →
    (s.issue h.num).inRunAhead h.num = false →
    let n := h.num
    let u := s.issue n
    (∀ (fm pred succ : BitVec 4), ¬ (fm = 8 ∧ pred = 3 ∧ succ = 3) → pred ≠ 0 → succ ≠ 0 →
      exec (.fence h fm pred succ) s = .next ((u.addFence n [(pred.toNat, succ.toNat)]).stepped n)) ∧
    (∀ (fm pred succ : BitVec 4), pred = 0 ∨ succ = 0 →
      exec (.fence h fm pred succ) s = .next ((u.retire n).stepped n)) ∧
    exec (.fence h 8 3 3) s = .next ((u.addFence n [(2, 3), (1, 1)]).stepped n) ∧
    exec (.fenceTso h) s = .next ((u.addFence n [(2, 3), (1, 1)]).stepped n) ∧
    exec (.fenceI h) s = .next ((((List.range 19).foldl (fun s _ => s.issue n) u).retire n).stepped n) ∧
    (∀ m, (u.hart n).w.envOk 6 1 = .ok → routeOf pa.toNat m = .cached →
      let line : BitVec 8 → State := fun op => ((((u.addAcc n
            { kind := .cbo, id := 0, pa := addrOfLine (lineOf pa), size := 64, op := op, own := true }).retire n).pump n).stepped n)
      exec (.cboClean h pa m) s = .next (line 0x0B) ∧ exec (.cboFlush h pa m) s = .next (line 0x0C)) ∧
    (∀ m, (u.hart n).w.envOk 4 2 = .ok → routeOf pa.toNat m = .cached →
      exec (.cboInval h pa m) s = .next ((((u.addAcc n
            { kind := .cbo, id := 0, pa := addrOfLine (lineOf pa), size := 64,
              op := if (u.hart n).w.invalIsFlush then 0x0C else 0x0D, own := true }).retire n).pump n).stepped n)) ∧
    (∀ m, (u.hart n).w.envOk 6 1 = .illegal → exec (.cboClean h pa m) s = .next ((u.trap n causeIllegal).stepped n)) ∧
    (∀ m, (u.hart n).w.envOk 7 1 = .ok → routeOf pa.toNat m = .cached →
      exec (.cboZero h pa m) s = .next (((((u.tagCheck n (lineOf pa)).addAcc n
            { kind := .zero, id := 0, pa := addrOfLine (lineOf pa), size := 64 }).retire n).pump n).stepped n)) ∧
    (∀ m stream, routeOf pa.toNat m = .cached → u.readable n (lineOf pa) = false →
      let t := (u.bump n 0x41).requestLine n 0x02 (lineOf pa) false stream false true
      exec (.prefetchR h pa m stream) s = .next ((if t.inRunAhead n then t else t.retire n).stepped n)) ∧
    (∀ m, routeOf pa.toNat m = .cached → u.readable n (lineOf pa) = false →
      let t := (u.bump n 0x41).requestLine n 0x02 (lineOf pa) false false true true
      exec (.prefetchI h pa m) s = .next ((if t.inRunAhead n then t else t.retire n).stepped n)) ∧
    ∀ m stream, routeOf pa.toNat m = .cached → u.writable n (lineOf pa) = false →
      let t := u.tagCheck n (lineOf pa)
      let st := ((t.hart n).l2Line (lineOf pa)).st
      exec (.prefetchW h pa m stream) s = .next ((((t.bump n 0x41).requestLine n
        (if st == .S || st == .F then 0x04 else 0x03) (lineOf pa) true stream false false).retire n).stepped n)

/-- At a hart that can issue and is not in run-ahead, WFI with an interrupt pending and enabled retires, else the hart
parks; PAUSE waits 64 stitches; WRS_NTO and WRS_STO with a reservation park, and without one retire. PAUSE_END
counts the remaining stitches and goes on; WRS_STO_TIMEOUT goes on 1 µs after the wait began; WFI_TIMEOUT under TW
below M raises illegal-instruction 4 µs after it. INTERRUPT_PENDING sets the pending bit in the world it belongs to
and wakes the hart where it may. FENCE_COMPLETE with every fence done retires the fence and carries on what it held.
It rests on the model's choices of assumptions 11 and 24. -/
def Obligations.HartWaits : Prop :=
  (∀ (h : HartId) (s : State), s.canIssue h.num = true → (s.hart h.num).haltReq = false →
      (s.issue h.num).inRunAhead h.num = false →
      let n := h.num
      let u := s.issue n
      exec (.wfi h) s = .next ((if (u.hart n).w.intReady then (u.retire n).pollInt n
        else (u.parkHart n (.wfi u.tape)).updPkg).stepped n) ∧
      exec (.pause h) s = .next ((if (u.hart n).w.intReady then (u.retire n).pollInt n
        else u.updHart n fun x => { x with wait := .pause (x.stitch + 64) }).stepped n) ∧
      ((u.hart n).resv.isNone = true ∨ (u.hart n).w.intReady = true →
        exec (.wrsNto h) s = .next (((u.retire n).pollInt n).stepped n) ∧
        exec (.wrsSto h) s = .next (((u.retire n).pollInt n).stepped n)) ∧
      ((u.hart n).resv.isNone = false → (u.hart n).w.intReady = false →
        exec (.wrsNto h) s = .next ((u.parkHart n (.wrsNto u.tape)).stepped n) ∧
        exec (.wrsSto h) s = .next ((u.parkHart n (.wrsSto u.tape)).stepped n))) ∧
    (∀ (h : HartId) (k : Nat) (s : State), s.panelParked (h.num / 32) = false → (s.hart h.num).wait = .pause k →
      exec (.pauseEnd h) s = .next
        (((List.range (k - (s.hart h.num).stitch)).foldl (fun s _ => s.issue h.num) s).unpark h.num)) ∧
    (∀ (h : HartId) (t : Nat) (s : State), s.panelParked (h.num / 32) = false → (s.hart h.num).wait = .wrsSto t →
      exec (.wrsStoTimeout h) s = .next ((s.advance (t + 1000)).unpark h.num)) ∧
    (∀ (h : HartId) (t : Nat) (s : State), s.panelParked (h.num / 32) = false → (s.hart h.num).wait = .wfi t →
      (s.hart h.num).mode = .park → bit ((s.hart h.num).w.csrVal 0x300).toNat 21 = true → (s.hart h.num).w.priv < 3 →
      exec (.wfiTimeout h) s = .next (((s.advance (t + 4000)).updHart h.num fun x =>
        { x with mode := .run, wait := .none }).trap h.num causeIllegal)) ∧
    (∀ (h : HartId) (irq : Fin 64) (s : State),
      (irq.val = 3 ∨ irq.val = 7 ∨ irq.val = 11) ∧ (s.hart h.num).pocket ≠ 0 → s.preemptExt (s.hart h.num).pocket.toNat = false →
      exec (.interruptPending h irq) s = .next (s.updHart h.num fun x => { x with
        host := x.host.map fun w => w.setCsr 0x344 (setBits (w.csrVal 0x344) irq.val 1 1) })) ∧
    (∀ (h : HartId) (irq : Fin 64) (s : State),
      ¬ ((irq.val = 3 ∨ irq.val = 7 ∨ irq.val = 11) ∧ (s.hart h.num).pocket ≠ 0) →
      exec (.interruptPending h irq) s = .next ((s.updHart h.num fun x => { x with
        w := x.w.setCsr 0x344 (setBits (x.w.csrVal 0x344) irq.val 1 1) }).wakeHart h.num)) ∧
    ∀ (h : HartId) (s : State), s.panelParked (h.num / 32) = false →
      let u := s.pump h.num
      (u.hart h.num).fences ≠ [] → (∀ f ∈ (u.hart h.num).fences, (u.hart h.num).fenceDone f = true) →
      exec (.fenceComplete h) s = .next (((u.updHart h.num fun x => { x with fences := [] }).retire h.num).goHeld h.num)

/-- A hart that can issue, whose mkctl enables run-ahead and whose oldest access is an unmet main-memory load, enters
run-ahead and only notes where; a branch that resolved right makes the speculative loads of its line ordinary, one
resolved wrong with nothing issued drops the held loads of the line; SLEEP_ENTRY of a hart in PARK writes its dirty
L1D lines into the L2 and empties both L1s SLEEP_US after the park, and SLEEP_EXIT with an interrupt ready goes on 2
µs later. It rests on the model's choices of assumptions 18 and 25. -/
def Obligations.SpeculationAndSleep : Prop :=
  (∀ (h : HartId) (e : Acc) (l : List Acc) (line : Nat) (s : State), s.canIssue h.num = true →
      (s.hart h.num).ra = none → bit (s.csr h.num csr_mkctl).toNat 10 = true → (s.hart h.num).acc = e :: l →
      ((accLines e).find? fun l => !s.readable h.num l) = some line → e.kind = .load → e.own = false → e.spec = false →
      exec (.runAheadEntry h) s = .next (s.updHart h.num fun x => { x with ra := some x.w, raLine := line })) ∧
    (∀ (h : HartId) (pa : Addr) (s : State), s.panelParked (h.num / 32) = false →
      exec (.branchResolve h pa true) s = .next ((((s.bump h.num 0x10).updHart h.num fun x => { x with
        acc := x.acc.map fun e => if e.spec && lineOf e.pa == lineOf pa then { e with spec := false } else e }).goHeld
          h.num).pump h.num)) ∧
    (∀ (h : HartId) (pa : Addr) (e : Acc) (s : State), s.panelParked (h.num / 32) = false →
      let u := (s.bump h.num 0x10).bump h.num 0x11
      ((u.hart h.num).acc.find? fun e => e.spec && lineOf e.pa == lineOf pa) = some e →
      exec (.branchResolve h pa false) s = .next (u.updHart h.num fun x =>
        { x with w := x.w.back e.snap, acc := x.acc.takeWhile fun a => a.id != e.id, heldOps := []
                 fences := x.fences.filter fun f => decide (f.at' ≤ e.issued)
                 io := x.io.filter fun i => decide (i.issued < e.issued) })) ∧
    (∀ (h : HartId) (s : State), s.panelParked (h.num / 32) = false → (s.hart h.num).mode = .park → s.sleepUs ≠ 0 →
      let x := s.hart h.num
      exec (.sleepEntry h) s = .next (((s.advance (x.wait.since + 1000 * s.sleepUs)).updHart h.num fun x =>
        { (s.hart h.num).l1d.foldl (fun x e => x.syncL2 e.2.line) x with l1d := [], l1i := [], mode := .sleep }).updPkg)) ∧
    ∀ (h : HartId) (t : Nat) (s : State), s.panelParked (h.num / 32) = false → (s.hart h.num).mode = .sleep →
      (s.hart h.num).wait = .wfi t → (s.hart h.num).w.intReady = true →
      exec (.sleepExit h) s = .next ((((s.advance (s.tape + 2000)).unpark h.num).pollInt h.num).updPkg)

/-- PRED_CLR empties the contention predictor through mkctl; the three MKCMO operations run on the hart's own caches,
and CLEAR_STATUS sets STATUS 0, each where the custom CSR may be written. ENTER from the host world in service and
EXIT of an entered pocket post to the Keeper and park, else end REFUSED. The Keeper's answer accepted and unopposed
enters the pocket's slot or returns to the host world; one refused ends with STATUS 2, one not assigned with STATUS
3 and a record. It rests on the model's choices of assumptions 27, 28 and 29. -/
def Obligations.WorldsAndCustomCsrs : Prop :=
  (∀ (h : HartId) (v : Word) (s : State), s.canIssue h.num = true → (s.hart h.num).haltReq = false →
      (s.issue h.num).inRunAhead h.num = false →
      let n := h.num
      let u := s.issue n
      ((u.hart n).w.customCheck csr_mkctl true = none →
        exec (.predClr h v) s = .next (((u.writeMkctl n (v ||| 0x2000)).retire n).stepped n)) ∧
      ((u.hart n).w.customCheck csr_mkcmo true = none →
        exec (.mkcmoClean h v) s = .next ((u.mkcmoRun h v 1 (.mkcmoClean h v)).stepped n) ∧
        exec (.mkcmoInvalidate h v) s = .next ((u.mkcmoRun h v 2 (.mkcmoInvalidate h v)).stepped n) ∧
        exec (.mkcmoCleanInvalidate h v) s = .next ((u.mkcmoRun h v 3 (.mkcmoCleanInvalidate h v)).stepped n)) ∧
      ((u.hart n).w.customCheck csr_mkdoor true = none → ∀ (pocket : Pocket) (slot : BitVec 8),
        let d := u.updHart n fun x => { x with w := x.w.doorTarget pocket slot.toNat }
        exec (.clearStatus h pocket slot) s = .next ((d.doorDone n 0).stepped n) ∧
        ((d.hart n).pocket = 0 → d.service = true →
          exec (.enter h pocket slot) s = .next ((d.parkHart n (.door 1 (d.timer (n / 32) 2))).stepped n)) ∧
        ((d.hart n).pocket ≠ 0 ∨ d.service = false →
          exec (.enter h pocket slot) s = .next ((d.doorDone n 2).stepped n)) ∧
        ((d.hart n).pocket ≠ 0 → (d.hart n).host.isNone = false →
          exec (.exit h pocket slot) s = .next ((d.parkHart n (.door 2 (d.timer (n / 32) 2))).stepped n)) ∧
        ((d.hart n).pocket = 0 ∨ (d.hart n).host.isNone = true →
          exec (.exit h pocket slot) s = .next ((d.doorDone n 2).stepped n))) ∧
      (∀ c, (u.hart n).w.customCheck csr_mkctl true = some c →
        exec (.predClr h v) s = .next ((u.trap n c).stepped n))) ∧
    ∀ (h : HartId) (op : Nat) (t : Timer) (s : State), s.panelParked (h.num / 32) = false →
      (s.hart h.num).wait = .door op t → (s.hart h.num).acc = [] → (s.hart h.num).io = [] →
      let n := h.num
      let d := (s.hart n).w.csrVal csr_mkdoor
      let free := s.updHart n fun x => { x with mode := .run, wait := .none }
      (op = 1 → s.entryVerdict n (bitsAt d 44 12) (bitsAt d 32 8) = .accepted →
        exec (.entryAnswer h .accepted) s = .next ((s.enterPocket n (bitsAt d 44 12) (bitsAt d 32 8) true).wakeHart n) ∧
        exec (.entryAnswer h .refused) s = .next ((free.doorDone n 2).wakeHart n)) ∧
      (op = 1 → s.entryVerdict n (bitsAt d 44 12) (bitsAt d 32 8) = .refused → ∀ v,
        exec (.entryAnswer h v) s = .next ((free.doorDone n 2).wakeHart n)) ∧
      (op = 1 → s.entryVerdict n (bitsAt d 44 12) (bitsAt d 32 8) = .violation → ∀ v,
        exec (.entryAnswer h v) s = .next ((((s.err 18 1 2 (unitCode 0x12 0) 0 0 (violMisc (bitsAt d 44 12) 0 0 n 0x7FFF)).updHart
          n fun x => { x with mode := .run, wait := .none }).doorDone n 3).wakeHart n)) ∧
      (op = 2 → exec (.entryAnswer h .accepted) s = .next ((s.leavePocket n 1).wakeHart n))

/-- At a hart that can issue, is not in run-ahead and waits for no register of the instruction, with FS not Off: a
binary128 instruction with a legal rounding mode has its result (qOp) and retires; FMVH_X_Q writes bits 127 to 64 of
rs1 and FMVP_Q_X the 128 bits of rs2 over rs1. With FS Off, or a rounding instruction with a reserved mode, each
raises illegal-instruction. VSETVL sets vl and vtype, with VS Off it is illegal. It rests on the model's choices of
assumptions 17, 20 and 22. -/
def Obligations.WideScalar : Prop :=
  ∀ (h : HartId) (rd rs1 rs2 rs3 : Fin 32) (s : State), s.canIssue h.num = true → (s.hart h.num).haltReq = false →
    (s.issue h.num).inRunAhead h.num = false →
    let n := h.num
    let u := s.issue n
    let w := (u.hart n).w
    (∀ (op : QOp) (rm : Rm), (qRegs rd rs1 rs2 rs3).any (s.hart n).busyRegs.contains = false → w.isOff 13 = false →
      (op.rounds = true → (if rm = 7 then w.frm else rm.toNat) ≤ 4) →
      exec (.binary128Arithmetic h op rd rs1 rs2 rs3 rm) s = .next (((if op.fused then u.bump n 0x51 else u).putWorld n
        (w.qOp op rd rs1 rs2 rs3 (if rm = 7 then w.frm else rm.toNat))).stepped n)) ∧
    (∀ (op : QOp) (rm : Rm), (qRegs rd rs1 rs2 rs3).any (s.hart n).busyRegs.contains = false →
      w.isOff 13 = true ∨ (op.rounds = true ∧ 4 < (if rm = 7 then w.frm else rm.toNat)) →
      exec (.binary128Arithmetic h op rd rs1 rs2 rs3 rm) s = .next ((u.trap n causeIllegal).stepped n)) ∧
    ([rd.val, 32 + rs1.val].any (s.hart n).busyRegs.contains = false → w.isOff 13 = false →
      exec (.fmvhXQ h rd rs1) s = .next ((u.putWorld n (w.setX rd (BitVec.ofNat 64 ((w.fr rs1).toNat / 2 ^ 64)))).stepped n)) ∧
    ([32 + rd.val, rs1.val, rs2.val].any (s.hart n).busyRegs.contains = false → w.isOff 13 = false →
      exec (.fmvpQX h rd rs1 rs2) s = .next
        ((u.putWorld n (w.putF rd (BitVec.ofNat 128 ((w.xr rs1).toNat + (w.xr rs2).toNat * 2 ^ 64)))).stepped n)) ∧
    (∀ (a : VAvl) (v : Word), (rd.val :: 96 :: (match a with | .reg r => [r.val] | .imm _ => [])).any
        (s.hart n).busyRegs.contains = false →
      (w.isOff 9 = false → exec (.vsetvl h rd a v) s = .next ((u.putWorld n (w.setVl rd a v)).stepped n)) ∧
      (w.isOff 9 = true → exec (.vsetvl h rd a v) s = .next ((u.trap n causeIllegal).stepped n)))

/-- At a hart that can issue, is not in run-ahead and waits for no register of the instruction: a vector binary128
operation, a division, a widening or narrowing operation and a reduction whose vtype is ready and whose form and
registers are legal has its result, sets vstart to 0 and retires; a vector binary128 operation whose vtype is not
ready raises illegal-instruction. A vector load or store of 128-bit elements that no fence holds issues its elements
in ascending order. It rests on the model's choices of assumptions 17, 21 and 22. -/
def Obligations.WideVector : Prop :=
  ∀ (h : HartId) (vd vs2 vs1 : Fin 32) (src : VSrc) (vm : Bool) (s : State), s.canIssue h.num = true →
    (s.hart h.num).haltReq = false → (s.issue h.num).inRunAhead h.num = false →
    let n := h.num
    let u := s.issue n
    let w := (u.hart n).w
    let r := srcRegs src
    (∀ (op : VOp) (l : Int),
      (vRegs (vd.val :: vs2.val :: r.1) ([32 + vd.val] ++ r.2)).any (s.hart n).busyRegs.contains = false →
      w.vReady 7 (!vopPlain op) = some l → w.vopOk op vd vs2 src vm l = true →
      exec (.vectorBinary128 h op vd vs2 src vm) s = .next (((if vopFma op then
        u.bump n 0x50 ((w.csrVal csr_vl).toNat - (w.csrVal csr_vstart).toNat) else u).vDone n
          (w.vOp op vd vs2 src (vm || vopNoMask op) (vlmaxOf 7 l))).stepped n)) ∧
    (∀ (op : VOp),
      (vRegs (vd.val :: vs2.val :: r.1) ([32 + vd.val] ++ r.2)).any (s.hart n).busyRegs.contains = false →
      w.vReady 7 (!vopPlain op) = none →
      exec (.vectorBinary128 h op vd vs2 src vm) s = .next ((u.trap n causeIllegal).stepped n)) ∧
    (∀ (op : VDiv) (l : Int), (vRegs (vd.val :: vs2.val :: r.1) r.2).any (s.hart n).busyRegs.contains = false →
      w.vReady 7 true = some l → vdivOk op vd vs2 src vm l = true →
      exec (.vectorDivide h op vd vs2 src vm) s = .next ((u.vDone n (w.vMap vm vd 128 (w.vdivElem op vs2 src))).stepped n)) ∧
    (∀ (op : VWOp) (l : Int), (vRegs (vd.val :: vs2.val :: r.1) r.2).any (s.hart n).busyRegs.contains = false →
      w.vReady 6 true = some l → vwRegsOk op vd vs2 src vm l = true →
      exec (.vectorWideningBinary128 h op vd vs2 src vm) s = .next
        ((u.vDone n (w.vMap vm vd (if vwNarrow op then 64 else 128) (w.vwElem op vd vs2 src))).stepped n)) ∧
    (∀ (op : VRed) (l : Int), (vRegs [vd.val, vs2.val, vs1.val] []).any (s.hart n).busyRegs.contains = false →
      w.vReady (if vredWide op then 6 else 7) true = some l → (w.csrVal csr_vstart).toNat = 0 → groupOk vs2 l = true →
      exec (.vectorReduction h op vd vs2 vs1 vm) s = .next ((u.vDone n (w.vReduce op vd vs2 vs1 vm)).stepped n)) ∧
    ∀ (isStore : Bool) (mode : VMem) (nf : Fin 8) (m : Pbmt) (l : Int) (evl : Nat),
      (s.hart n).fenceHolds (if isStore then 5 else 10) = false →
      (vRegs (vd.val :: (match mode with | .indexed v _ => [v.val] | _ => []))
        (vs1.val :: (match mode with | .strided r => [r.val] | _ => []))).any (s.hart n).busyRegs.contains = false →
      w.vMemShape mode = some (l, evl) → w.isOff 9 = false → vMemOk isStore mode nf vd vm l = true →
      exec (.vectorLoadEew128 h isStore mode nf vd vs1 vm m) s = .next
        (((u.vIssue n isStore (match mode with | .faultFirst => true | _ => false) m
          (w.vElems mode nf vd (w.xr vs1).toNat vm l evl)).pump n).stepped n)

/-- Each of the thirteen request commands, with a good CRC, at a slice whose saddle is not QUIET and whose LLC fence is
OPEN, leaves the fabric and joins its home's work as a packet with that command's opcode and operands, and the home
serves what it can; with a bad CRC the packet leaves the fabric and a PROTOCOL record of cause 3 is written, nothing
else. At a closed LLC fence a read is refused DOMOFF and counted. It rests on the model's choices of assumptions 3,
36 and 41. -/
def Obligations.RequestsAtTheHome : Prop :=
  (∀ (h : SliceId) (r : Hdr) (s : State), s.thm.parkAll = false → r.crcOk = true → s.saddleState (h.num / 24) ≠ 1 →
      s.fenceIsOpen (.llc (Fin.ofNat 4 (h.num / 24))) = true →
      let go : Pkt → State := fun q =>
        ((s.arrive fun p => p.op == q.op && p.src == q.src && p.txid == q.txid && p.pa == q.pa).enqueue h.num q).homeGo h.num
      exec (.rdS h r) s = .next (go (hdrPkt h r 0x01)) ∧ exec (.rdSp h r) s = .next (go (hdrPkt h r 0x02)) ∧
      exec (.rdO h r) s = .next (go (hdrPkt h r 0x03)) ∧ exec (.upg h r) s = .next (go (hdrPkt h r 0x04)) ∧
      exec (.rdC h r) s = .next (go (hdrPkt h r 0x08)) ∧ exec (.zero h r) s = .next (go (hdrPkt h r 0x0A)) ∧
      exec (.cln h r) s = .next (go (hdrPkt h r 0x0B)) ∧ exec (.fls h r) s = .next (go (hdrPkt h r 0x0C)) ∧
      exec (.inv h r) s = .next (go (hdrPkt h r 0x0D)) ∧
      (∀ f size op cmp, exec (.atom h r f size op cmp) s = .next (go { hdrPkt h r 0x05 with
        size := size.bytes, mod := BitVec.ofNat 8 (16 * f.code + 2 * size.code),
        data := placeAt (op.toNat % 2 ^ (8 * size.bytes)) (r.pa.toNat % 64), be := beOf (r.pa.toNat % 64) size.bytes,
        cmp := cmp })) ∧
      (∀ size rsv, exec (.rdNc h r size rsv) s = .next (go { hdrPkt h r 0x06 with
        size := size.bytes, mod := if rsv then 0x80 else 0 })) ∧
      (∀ d be cond, exec (.wrNc h r d be cond) s = .next (go { hdrPkt h r 0x07 with
        data := d, be := be, mod := if cond then 0x80 else 0 })) ∧
      (∀ d be, exec (.wrC h r d be) s = .next (go { hdrPkt h r 0x09 with data := d, be := be }))) ∧
    (∀ (h : SliceId) (r : Hdr) (s : State), s.thm.parkAll = false → r.crcOk = false →
      exec (.rdS h r) s = .next ((s.arrive fun p => p.op == 0x01 && p.src == r.src && p.txid == r.txid && p.pa == r.pa).err
        (12 + h.num / 24) 1 5 (unitCode 0x02 h.num) 0 0 (protoMisc 3 r.src.toNat)) ∧
      exec (.rdO h r) s = .next ((s.arrive fun p => p.op == 0x03 && p.src == r.src && p.txid == r.txid && p.pa == r.pa).err
        (12 + h.num / 24) 1 5 (unitCode 0x02 h.num) 0 0 (protoMisc 3 r.src.toNat))) ∧
    ∀ (h : SliceId) (r : Hdr) (s : State), s.thm.parkAll = false → r.crcOk = true → s.saddleState (h.num / 24) ≠ 1 →
      s.fenceIsOpen (.llc (Fin.ofNat 4 (h.num / 24))) = false →
      exec (.rdS h r) s = .next (((s.arrive fun p => p.op == 0x01 && p.src == r.src && p.txid == r.txid && p.pa == r.pa).incF
        (R.fenceStatus (.llc (Fin.ofNat 4 (h.num / 24)))) F.fenceStatus_DOMOFF_COUNT).sendGrant h.num (hdrPkt h r 0x01) .I .domoff)

/-- A snoop that comes damaged to a port is dropped with a PROTOCOL record. One at a panel in service with no holder and
no leaving entry goes on around the laps with code 0 for that panel. A holder whose line is in its hold window lets
a snoop that is not RD_SP wait, and otherwise acts as the holder's table says. HOLD_WINDOW_END of a held line ends
its window. A returned lap with no transaction is counted late; the reports of a transaction are taken, and one that
is complete is left and the next served. It rests on the model's choices of assumptions 3, 32, 33 and 34. -/
def Obligations.SnoopsAndLaps : Prop :=
  (∀ (p : PortId) (h : SliceId) (r : Hdr) (reqOp : BitVec 8) (byHome keep : Bool) (lap : Word) (s : State),
      s.panelParked p.panel.val = false → r.crcOk = false →
      exec (.snpS p h r reqOp byHome keep lap) s = .next ((s.arrive fun q => q.op == 0x10 &&
        q.src == BitVec.ofNat 8 (0x30 * (h.num / 24) + h.num % 24) && q.pa == r.pa && q.dst == 0xFF).err
          (12 + p.num / 2 / 3) 1 5 (unitCode 0x08 (portEyelet p.num)) 0 0
          (protoMisc 3 (BitVec.ofNat 8 (0x30 * (h.num / 24) + h.num % 24)).toNat))) ∧
    (∀ (p : PortId) (h : SliceId) (r : Hdr) (reqOp : BitVec 8) (byHome flag : Bool) (lap : Word) (s : State),
      s.panelParked p.panel.val = false → r.crcOk = true → s.fenceState (.panel (Fin.ofNat 12 (p.num / 2))) = 0 →
      s.fld (R.fenceStatus (.panel (Fin.ofNat 12 (p.num / 2)))) F.fenceStatus_FAULTED ≠ 1 →
      let home := BitVec.ofNat 8 (0x30 * (h.num / 24) + h.num % 24)
      let rc := if panelOfEyelet r.src.toNat = some (p.num / 2) then some (r.txid.toNat / 128) else none
      let own := match rc with
        | some c => ((s.hart (hartNum (p.num / 2) c)).l2Line (lineOf r.pa)).st == .S ||
            ((s.hart (hartNum (p.num / 2) c)).l2Line (lineOf r.pa)).st == .F
        | none => false
      let on : BitVec 8 → Bool → State := fun snp keep =>
        (s.arrive fun q => q.op == snp && q.src == home && q.pa == r.pa && q.dst == 0xFF).send
          { op := snp, src := home, dst := 0xFF, txid := r.txid, pocket := r.pocket, pa := r.pa, commit := r.commit,
            epoch := r.epoch, prio := 2, reqOp := reqOp, mod := (if byHome then 0x80 else 0) ||| (if keep then 0x40 else 0),
            lap := lapAdd lap (p.num / 2) 6 false own }
      exec (.snpS p h r reqOp byHome flag lap) s = .next (on 0x10 flag) ∧
      exec (.snpI p h r reqOp byHome flag lap) s = .next (on 0x11 false) ∧
      (byHome = false → exec (.snpC p h r reqOp lap) s = .next (on 0x12 false))) ∧
    (∀ (c : HartId) (h : SliceId) (r : Hdr) (snp reqOp : BitVec 8) (byHome keep full : Bool) (err : CacheErr) (s : State),
      s.panelParked (c.num / 32) = false →
      let u := (s.updPort (portOf c.num (lineOf r.pa)) fun p => { p with
        hem := p.hem.eraseP fun w => w.core == c.num % 32 && lineOf w.r.pa == lineOf r.pa && w.home == h.num }).cacheError
          c.num r.pa err
      let l := (u.hart c.num).l2Line (lineOf r.pa)
      (l.held = true → reqOp ≠ 0x02 → l.st = .M ∨ l.st = .E →
        exec (.holderSnoop c h r snp reqOp byHome keep full err) s = .next (u.waitAtPort (portOf c.num (lineOf r.pa))
          ({ core := c.num % 32, home := h.num, r := r, snp := snp, reqOp := reqOp, byHome := byHome, keep := keep,
             full := full } : WaitSnp))) ∧
      (l.held = false ∨ reqOp = 0x02 ∨ (l.st ≠ .M ∧ l.st ≠ .E) →
        exec (.holderSnoop c h r snp reqOp byHome keep full err) s = .next
          (u.holderAct c.num h.num r snp reqOp byHome keep full))) ∧
    (∀ (c : HartId) (pa : Addr) (s : State), s.panelParked (c.num / 32) = false →
      ((s.hart c.num).l2Line (lineOf pa)).held = true →
      exec (.holdWindowEnd c pa) s = .next ((s.updHart c.num fun x => { x with
        stitch := max x.stitch ((s.hart c.num).l2Line (lineOf pa)).holdEnd }).endWindow c.num (lineOf pa))) ∧
    (∀ (h : SliceId) (pa : Addr) (lap : Word) (t : Tx) (s : State), s.thm.parkAll = false →
      s.tx h.num (lineOf pa) = some t → t.lapOut = true → t.lapSeen = false →
      ((List.range 12).find? fun p => lapCode lap p == 7) = none →
      ((List.range 12).filter fun p => lapCode lap p == 5 || lapCode lap p == 3) = [] →
      let u := s.arrive fun p => (p.op == 0x10 || p.op == 0x11 || p.op == 0x12) &&
        p.src == BitVec.ofNat 8 (0x30 * (h.num / 24) + h.num % 24) && lineOf p.pa == lineOf pa && p.dst == 0xFF
      let v := ((u.updSlice h.num fun x => { x with tokens := x.tokens ++ [] }).cohCount h.num).updTx h.num (lineOf pa) fun t' =>
        { t' with lapSeen := true, lap := lap
                  fwdOwed := (List.range 12).filter fun p =>
                    (lapCode lap p == 2 || lapCode lap p == 4 || lapCode lap p == 5 || (lapCode lap p == 1 && t.fReports)) &&
                      !t.early.contains p
                  invOwed := if t.req.op == 0x01 || t.req.op == 0x02 || t.req.op == 0x08 || t.req.op == 0x0B then []
                    else (List.range 12).filter fun p => bit lap.toNat (48 + p) && !t.early.contains (16 + p)
                  declined := t'.declined || (List.range 12).any fun p => lapCode lap p == 8 }
      exec (.lapReturn h pa lap) s = .next ((v.tryComplete h.num (lineOf pa)).homeGo h.num)) ∧
    (∀ (h : SliceId) (pa : Addr) (src : BitVec 8) (txid : BitVec 12) (t : Tx) (s : State), s.thm.parkAll = false →
      s.tx h.num (lineOf pa) = some t → t.req.src = src → t.req.txid = txid → t.granted = true →
      exec (.comp h pa src txid) s = .next (((s.arrive fun p => p.op == 0x21 && lineOf p.pa == lineOf pa && p.src == src &&
        p.txid == txid).dropTx h.num (lineOf pa)).homeGo h.num)) ∧
    (∀ (h : SliceId) (pa : Addr) (panel : Panel) (t : Tx) (s : State), s.thm.parkAll = false →
      s.tx h.num (lineOf pa) = some t →
      exec (.invDone h pa panel) s = .next ((((s.arrive fun p => p.op == 0x23 && lineOf p.pa == lineOf pa).updTx h.num (lineOf pa)
        fun t => { t with invOwed := t.invOwed.filter (· != panel.val)
                          early := if t.lapSeen then t.early else (16 + panel.val) :: t.early }).tryComplete h.num
          (lineOf pa)).homeGo h.num)) ∧
    ∀ (h : SliceId) (pa : Addr) (k : FwdKind) (dirty : Bool) (panel : Panel) (t : Tx) (s : State), s.thm.parkAll = false →
      s.tx h.num (lineOf pa) = some t → k ≠ .lost →
      let toH := t.req.op == 0x05 || t.req.op == 0x0C || (t.req.op == 0x09 && t.req.be != beAll)
      exec (.fwdDone h pa k dirty panel) s = .next ((((s.arrive fun p => p.op == 0x22 && lineOf p.pa == lineOf pa).updTx h.num
        (lineOf pa) fun t => { t with
          fwdOwed := t.fwdOwed.filter (· != panel.val)
          early := if t.lapSeen then t.early else panel.val :: t.early
          declined := t.declined || k == .declined
          dirtyOwed := t.dirtyOwed || dirty
          homeOwed := t.homeOwed || (toH && !dirty && k == .forwarded) }).tryComplete h.num (lineOf pa)).homeGo h.num) ∧
      exec (.fwdDone h pa .lost dirty panel) s = .next
        ((s.arrive fun p => p.op == 0x22 && lineOf p.pa == lineOf pa).lostTx h.num (lineOf pa) panel.val)

/-- A WB or EV that meets its supersede token spends it and is acknowledged; a WB that meets none and is not suspect of
being stale puts its data in its home and is acknowledged, and an EV clears the panel's exclusive mark; a reported
dirty line of a transaction becomes the entry's data. A WB_ACK with its entry sent frees the entry, and what the
entry held goes. LEAVING_TABLE_ACCEPT and FILL_RESUME carry on what waited for room. It rests on the model's choices
of assumptions 3 and 35. -/
def Obligations.WritebacksAtTheHome : Prop :=
  (∀ (h : SliceId) (p : PortId) (pa : Addr) (pocket : Pocket) (d : LineData) (po : BitVec 4) (sent : Nat) (s : State),
      s.thm.parkAll = false →
      let line := lineOf pa
      let u := ((s.arrive fun q => q.op == 0x31 && lineOf q.pa == line && q.src == BitVec.ofNat 8 (portEyelet p.num)).updPort
        p.num fun x => { x with leaving := x.leaving.map fun l =>
          if l.line == line && l.st == .M then { l with sent := true } else l })
      let v := u.updSlice h.num fun x => x.clearResv line
      let kept := (u.port p.num).leaving.any fun l => l.line == line && l.keepE
      ((v.slice h.num).tokens.any (isToken line (p.num / 2) false) = false → v.staleSuspect h.num sent = false →
        exec (.wb h p pa pocket d po sent) s = .next
          ((((((v.putLine h.num line d po pocket true kept false false).updTx h.num line fun t =>
            { t with wbSeen := p.num / 2 :: t.wbSeen }).sendWbAck h.num p.num line).tryComplete h.num line).homeGo h.num))) ∧
      ((v.slice h.num).tokens.any (isToken line (p.num / 2) false) = false → v.staleSuspect h.num sent = true →
        let w := (v.poisonLine h.num line pocket).sendWbAck h.num p.num line
        exec (.wb h p pa pocket d po sent) s = .next (w.err (12 + h.num / 24) 2 3 (unitCode 0x02 h.num) 1 (64 * line)
          (dlMisc 1 pocket.toNat 0 (portEyelet p.num) (w.tape - sent - w.dlCopy (12 + h.num / 24) 1)))) ∧
      ((v.slice h.num).tokens.any (isToken line (p.num / 2) false) = true →
        exec (.wb h p pa pocket d po sent) s = .next
          (((((v.updSlice h.num fun x => { x with tokens := x.tokens.eraseP (isToken line (p.num / 2) false) }).uev (h.num / 24) 7
            (h.num % 24) pocket.toNat).cohCount h.num).incF (R.slcCoh (h.num / 24) (h.num % 24)) F.slcCoh_SUPERSEDED).sendWbAck
              h.num p.num line))) ∧
    (∀ (h : SliceId) (p : PortId) (pa : Addr) (pocket : Pocket) (sent : Nat) (s : State), s.thm.parkAll = false →
      let line := lineOf pa
      let u := ((s.arrive fun q => q.op == 0x32 && lineOf q.pa == line && q.src == BitVec.ofNat 8 (portEyelet p.num)).updPort
        p.num fun x => { x with leaving := x.leaving.map fun l =>
          if l.line == line && l.st != .M then { l with sent := true } else l })
      ((u.slice h.num).tokens.any (isToken line (p.num / 2) true) = false → u.staleSuspect h.num sent = false →
        exec (.ev h p pa pocket sent) s = .next
          (((u.setExcl h.num line false).updTx h.num line fun t =>
            { t with wbSeen := (16 + p.num / 2) :: t.wbSeen }).sendWbAck h.num p.num line)) ∧
      ((u.slice h.num).tokens.any (isToken line (p.num / 2) true) = true →
        exec (.ev h p pa pocket sent) s = .next
          (((u.updSlice h.num fun x => { x with tokens := x.tokens.eraseP (isToken line (p.num / 2) true) }).cohCount
            h.num).sendWbAck h.num p.num line))) ∧
    (∀ (h : SliceId) (pa : Addr) (d : LineData) (po : BitVec 4) (t : Tx) (k : Nat) (s : State), s.thm.parkAll = false →
      s.tx h.num (lineOf pa) = some t → t.req.op ≠ 0x05 → t.req.op ≠ 0x09 → (s.slice h.num).entKey (lineOf pa) = some k →
      exec (.dirty h pa d po) s = .next ((s.updSlice h.num fun x => x.updEntry (lineOf pa) fun e =>
        { e with data := d, poison := po, st := .dirty, pocket := t.req.pocket }).report h.num (lineOf pa) 0x33 fun t' =>
          { t' with dirtySeen := true, homeData := t'.homeData })) ∧
    (∀ (p : PortId) (pa : Addr) (e : Leave) (s : State), s.panelParked p.panel.val = false →
      ((s.port p.num).leaving.find? fun l => l.line == lineOf pa && l.sent) = some e → e.keepE = false →
      let u := (s.arrive fun q => q.op == 0x13 && q.dst == BitVec.ofNat 8 (portEyelet p.num) && lineOf q.pa == lineOf pa).updPort
        p.num fun x => { x with leaving := x.leaving.erase e }
      let mine := fun q : Pkt => lineOf q.pa == lineOf pa && q.txid.toNat / 128 == e.core
      ((u.port p.num).leaving.any fun l => l.line == lineOf pa && l.core == e.core) = false →
      exec (.wbAck p pa) s = .next ((u.updPort p.num fun x => { x with
        heldReq := x.heldReq.filter fun q => !mine q }).sendAll ((u.port p.num).heldReq.filter mine))) ∧
    (∀ (h : HartId) (pa : Addr) (q : L2Req) (s : State), s.panelParked (h.num / 32) = false →
      s.lineReq h.num (lineOf pa) = some q → exec (.fillResume h pa) s = .next (s.tryInstall h.num q)) ∧
    ∀ (p : PortId) (s : State), s.panelParked p.panel.val = false →
      exec (.leavingTableAccept p) s = .next
        ((List.range 20).foldl (fun s c => s.goHeld (hartNum p.panel.val c)) (s.acceptWaiting p.num))

/-- GRANT of a line request at a hart is noted with its state and installed once the data is there; one that answers an
access by another response ends it. DATA with a bad CRC at a hart is dropped with a PROTOCOL record, and at a home
it becomes the transaction's data. UPG_FAIL makes the upgrade an RD_O, NODATA ends the request. IO_ACK of a store
lets it go, IO_DATA of a load writes its register; an answer to nothing is counted late. It rests on the model's
choices of assumptions 3 and 42. -/
def Obligations.Replies : Prop :=
  (∀ (h : HartId) (pa : Addr) (st : LState) (alone : Bool) (q : L2Req) (s : State), s.panelParked (h.num / 32) = false →
      let u := s.arrive fun p => p.op == 0x20 && lineOf p.pa == lineOf pa &&
        p.dst == BitVec.ofNat 8 (portEyelet (portOf h.num (lineOf pa))) && p.txid.toNat / 128 == h.num % 32
      s.ownAcc h.num (lineOf pa) = none → s.lineReq h.num (lineOf pa) = some q →
      exec (.grant (.hart h) pa st .ok alone) s = .next ((u.updReq h.num (lineOf pa) fun q => { q with
        grant := some st }).tryInstall h.num { q with grant := some st }) ∧
      ∀ r, r ≠ .ok → exec (.grant (.hart h) pa st r alone) s = .next ((u.failReq h.num (lineOf pa) r).pump h.num)) ∧
    (∀ (eye : BitVec 8) (txid : BitVec 12) (pa : Addr) (st : LState) (alone : Bool) (y : YReq) (s : State),
      s.yokeReq eye.toNat txid.toNat = some y → y.needData = false →
      let u := s.arrive fun p => p.op == 0x20 && p.dst == eye && p.txid == txid
      exec (.grant (.yoke eye txid) pa st .ok alone) s = .next ((u.yokeComp y).yokeDone y .ok 0 0)) ∧
    (∀ (h : HartId) (pa : Addr) (st : LState) (d : LineData) (po : BitVec 4) (r : Resp) (err : CacheErr) (s : State),
      s.panelParked (h.num / 32) = false →
      exec (.data (.hart h) pa st d po r err false) s = .next (((s.fillFrom h.num (lineOf pa)).arrive fun p => p.op == 0x30 &&
        lineOf p.pa == lineOf pa && p.dst == BitVec.ofNat 8 (portEyelet (portOf h.num (lineOf pa))) &&
        p.txid.toNat / 128 == h.num % 32).err (h.num / 32) 1 5 (unitCode 0x09 (h.num / 32)) 0 0 (protoMisc 3 0xFF))) ∧
    (∀ (h : SliceId) (pa : Addr) (st : LState) (d : LineData) (po : BitVec 4) (r : Resp) (err : CacheErr) (t : Tx) (s : State),
      s.thm.parkAll = false → s.tx h.num (lineOf pa) = some t →
      exec (.data (.home h) pa st d po r err true) s = .next
        ((((s.arrive fun p => p.op == 0x30 && lineOf p.pa == lineOf pa).updTx h.num (lineOf pa) fun t =>
          { t with homeData := some (d, po) }).tryComplete h.num (lineOf pa)).homeGo h.num)) ∧
    (∀ (c : HartId) (pa : Addr) (q : L2Req) (s : State), s.panelParked (c.num / 32) = false →
      s.lineReq c.num (lineOf pa) = some q → q.op = 0x04 →
      let u := ((s.arrive fun p => p.op == 0x24 && lineOf p.pa == lineOf pa).sendComp c.num (lineOf pa) q.txid).updReq c.num
        (lineOf pa) fun q => { q with op := 0x03 }
      exec (.upgFail c pa) s = .next (u.send (u.reqPkt c.num 0x03 (lineOf pa) q.txid q.commit q.stream))) ∧
    (∀ (c : HartId) (pa : Addr) (q : L2Req) (s : State), s.panelParked (c.num / 32) = false →
      s.lineReq c.num (lineOf pa) = some q →
      let u := ((s.arrive fun p => p.op == 0x25 && lineOf p.pa == lineOf pa).sendComp c.num (lineOf pa) q.txid).updHart c.num
        fun x => { x with reqs := x.reqs.filter fun p => p.txid != q.txid }
      exec (.nodata c pa) s = .next
        (if (u.hart c.num).acc.any fun e => e.spec && (accLines e).contains (lineOf pa) then u else u.pump c.num)) ∧
    (∀ (h : HartId) (i : IoAcc) (s : State), s.panelParked (h.num / 32) = false → s.ioAnswered h.num 0x26 false = some i →
      exec (.ioAck (.hart h) .ok) s = .next (((s.arriveIo h.num 0x26).updHart h.num fun x => { x with
        io := (((s.arriveIo h.num 0x26).hart h.num).io.erase i).filter fun j => !windowEnds i .ok j }).pump h.num)) ∧
    (∀ (h : HartId) (i : IoAcc) (v : BitVec 128) (s : State), s.panelParked (h.num / 32) = false →
      s.ioAnswered h.num 0x34 true = some i →
      let u := (s.arriveIo h.num 0x34).updHart h.num fun x => { x with
        io := x.io.erase i
        w := x.w.setResult (i.func.isSome && i.size == 16) i.rd i.size i.func.isSome v.toNat }
      exec (.ioData (.hart h) v .ok) s = .next (((u.updHart h.num fun x => x.shareResult i.issued (i.func.isSome && i.size == 16)
        i.rd i.size).pump h.num).pollInt h.num)) ∧
    ∀ (h : HartId) (v : BitVec 128) (r : Resp) (s : State), s.panelParked (h.num / 32) = false →
      (s.ioAnswered h.num 0x34 true = none →
        exec (.ioData (.hart h) v r) s = .next ((s.arriveIo h.num 0x34).lateAnswer (h.num / 32))) ∧
      (s.ioAnswered h.num 0x26 false = none →
        exec (.ioAck (.hart h) r) s = .next ((s.arriveIo h.num 0x26).lateAnswer (h.num / 32)))

/-- On an invalid entry each of SLC_CLEAN, SLC_INVALIDATE and SLC_CLEAN_INVALIDATE only reports; on a clean one a clean
leaves it and the other two empty it; on a dirty one a clean or clean-and-invalidate writes it to its home first,
and keeps it where that write was refused. SLC_INVALIDATE answers its sender, and where the world check refuses it
answers VIOL. WAY_CLEAN_DONE ends a way change. It rests on the model's choices of assumption 38. -/
def Obligations.LlcMaintenance : Prop :=
  (∀ (h : SliceId) (set : Fin 4096) (way : Fin 16) (s : State), s.thm.parkAll = false →
      let key := 16 * set.val + way.val
      let e := KMap.get ({} : LEntry) (s.slice h.num).ent key
      let u := fun op => s.swResult h.num set.val way.val e op
      (e.st = .invalid → exec (.slcClean h set way) s = .next (u 1) ∧ exec (.slcCleanInvalidate h set way) s = .next (u 3)) ∧
      (e.st = .clean →
        exec (.slcClean h set way) s = .next ((u 1).updSlice h.num fun x => { x with
          ent := KMap.upd {} key (fun e => if e.st == .dirty then { e with st := .clean } else e) x.ent }) ∧
        exec (.slcCleanInvalidate h set way) s = .next ((u 3).updSlice h.num fun x => { x with
          ent := KMap.set {} key {} x.ent })) ∧
      (e.st = .dirty →
        let w := fun op => (u op).homeWrite (h.num / 24) e.line e.data beAll e.poison
        ((w 1).2 = true → exec (.slcClean h set way) s = .next ((w 1).1.updSlice h.num fun x => { x with
          ent := KMap.upd {} key (fun e => if e.st == .dirty then { e with st := .clean } else e) x.ent })) ∧
        ((w 3).2 = true → exec (.slcCleanInvalidate h set way) s = .next ((w 3).1.updSlice h.num fun x => { x with
          ent := KMap.set {} key {} x.ent })) ∧
        ((w 1).2 = false → exec (.slcClean h set way) s = .next (w 1).1) ∧
        ((w 3).2 = false → exec (.slcCleanInvalidate h set way) s = .next (w 3).1))) ∧
    (∀ (a : Agent) (h : SliceId) (set : Fin 4096) (way : Fin 16) (s : State), s.thm.parkAll = false →
      (s.ctlCheck a (R.slcSwCmd h.sd.val h.k.val).addr = .pass →
        exec (.slcInvalidate a h set way) s = .next ((s.slcOp h.num set.val way.val 2 (s.agentPocket a)).reply a .ok)) ∧
      ∀ r, s.ctlCheck a (R.slcSwCmd h.sd.val h.k.val).addr = .viol r →
        exec (.slcInvalidate a h set way) s =
          .next ((s.ctlViolation a (R.slcSwCmd h.sd.val h.k.val).addr 0x40 r).reply a .viol)) ∧
    ∀ (h : SliceId) (s : State), s.thm.parkAll = false →
      exec (.wayCleanDone h) s = .next ((s.endWays h.num).homeGo h.num)

/-- RANGE_GO by a requester the check lets through starts an engine that is not busy and answers OK; RANGE_ABORT makes a
busy engine stop and leaves an idle one; RANGE_DONE with nothing in flight and nothing left sets STATUS to 2 (3
where it was aborted), writes TAPE_END and asserts its interrupt where enabled. A LOCK_FILL of a way that is not
locked sets STATUS 2, of a line of another home 3, of a line that the requester may not read 4 with VIOL, and else
joins the home's work. It rests on the model's choices of assumption 39. -/
def Obligations.RangeAndLockFill : Prop :=
  (∀ (a : Agent) (sd : Saddle) (s : State), s.thm.parkAll = false → s.ctlCheck a (R.rangeCtl sd.val).addr = .pass →
      (∀ (op : BitVec 2) (irqEn : Bool), exec (.rangeGo a sd op irqEn) s = .next
        ((s.startRange sd.val op.toNat (s.agentPocket a) irqEn).reply a .ok)) ∧
      (s.fld (R.rangeCtl sd.val) F.rangeCtl_STATUS = 1 → exec (.rangeAbort a sd) s = .next
        (({ s with range := KMap.upd {} sd.val (fun r => { r with stop := if r.stop = 0 then 1 else r.stop }) s.range } :
          State).reply a .ok)) ∧
      (s.fld (R.rangeCtl sd.val) F.rangeCtl_STATUS ≠ 1 →
        exec (.rangeAbort a sd) s = .next (s.reply a .ok))) ∧
    (∀ (sd : Saddle) (s : State), s.thm.parkAll = false → s.fld (R.rangeCtl sd.val) F.rangeCtl_STATUS = 1 →
      let u := s.rangeGoOn sd.val
      let r := KMap.get ({} : RangeSt) u.range sd.val
      r.flight = 0 → r.stop ≠ 0 ∨ u.fld (R.rangeLimit sd.val) F.rangeLimit_LINE < r.next →
      let v := (u.setF (R.rangeCtl sd.val) F.rangeCtl_STATUS (match r.stop with | 0 => 2 | 1 => 3 | _ => 4)).wr
        (R.rangeTapeEnd sd.val) (BitVec.ofNat 64 u.tape)
      let w : State := { v with range := KMap.set {} sd.val {} v.range }
      exec (.rangeDone sd) s = .next
        (if w.fld (R.rangeCtl sd.val) F.rangeCtl_IRQ_EN = 1 then w.setSource (1 + sd.val) true else w)) ∧
    ∀ (a : Agent) (h : SliceId) (way : Fin 16) (pa : Addr) (s : State), s.thm.parkAll = false →
      s.ctlCheck a (R.slcLockFill h.sd.val h.k.val).addr = .pass →
      let r := R.slcLockFill h.sd.val h.k.val
      let u := (s.setF r F.slcLockFill_WAY way.val).setF r F.slcLockFill_LINE (pa.toNat / 64)
      (u.wayLocked h.num way.val = false → exec (.lockFill a h way pa) s = .next ((u.setF r F.slcLockFill_STATUS 2).reply a .ok)) ∧
      (u.wayLocked h.num way.val = true → u.home (64 * (pa.toNat / 64)) ≠ some (h.sd.val, h.k.val) →
        exec (.lockFill a h way pa) s = .next ((u.setF r F.slcLockFill_STATUS 3).reply a .ok)) ∧
      (u.wayLocked h.num way.val = true → u.home (64 * (pa.toNat / 64)) = some (h.sd.val, h.k.val) →
        (∀ c, u.welt (agentIsKeeper a) (u.agentPocket a) pa.toNat false = .viol c → exec (.lockFill a h way pa) s = .next
          (((u.violation h.sd.val (agentEyelet a pa.toNat) pa.toNat (u.agentPocket a) 0x01 c 0).setF r F.slcLockFill_STATUS 4).reply
            a .viol)) ∧
        (u.welt (agentIsKeeper a) (u.agentPocket a) pa.toNat false = .pass → exec (.lockFill a h way pa) s = .next
          ((((u.setF r F.slcLockFill_STATUS 0).enqueue h.num
            { op := 0x01, src := BitVec.ofNat 8 h.eyelet, dst := BitVec.ofNat 8 h.eyelet,
              pocket := BitVec.ofNat 12 (u.agentPocket a), pa := addrOfLine (pa.toNat / 64) }).homeGo h.num).reply a .ok)))

/-- A load or store of a PCIe window at a port whose fence is OPEN, that the owner check lets through and whose sub-
port's link is up, waits for its completion or joins the posted stores; at a closed fence it answers DOMOFF, refused
by the check VIOL, decoded to nothing or behind a link that is down DECERR, and a bridge's configuration space
answers at once. An access of a hole answers DECERR; one of control space is a register access with its answer. A
completion answers its read, an abandon notice discards the hart's unplaced stores, and credits place what waits. It
rests on the model's choices of assumptions 3 and 86. -/
def Obligations.WindowAccesses : Prop :=
  (∀ (a : Agent) (pa : Addr) (size : Size) (s : State),
      let n := size.bytes
      let tx := s.ioTxid a pa 0x0E
      let u := s.ioArrive a pa 0x0E
      (regionOf pa.toNat = .hole → exec (.ioRd a pa size) s = .next (u.ioReply a pa tx true .decerr)) ∧
      (regionOf pa.toNat = .ctl → exec (.ioRd a pa size) s = .next ((u.ctlRead a (ctlOff pa) n).1.ioReply a pa tx true
        (u.ctlRead a (ctlOff pa) n).2.1 (BitVec.ofNat 512 (u.ctlRead a (ctlOff pa) n).2.2))) ∧
      (∀ k, regionOf pa.toNat = .mmio k →
        (u.fenceIsOpen (.pcie (Fin.ofNat 8 k)) = false → exec (.ioRd a pa size) s = .next
          ((u.incF (R.fenceStatus (.pcie (Fin.ofNat 8 k))) F.fenceStatus_DOMOFF_COUNT).ioReply a pa tx true .domoff)) ∧
        (u.fenceIsOpen (.pcie (Fin.ofNat 8 k)) = true →
          (∀ r, u.windowCheck a k pa.toNat = .viol r → exec (.ioRd a pa size) s = .next
            ((u.windowViol a pa.toNat 0x0E r tx.toNat).ioReply a pa tx true .viol)) ∧
          (u.windowCheck a k pa.toNat = .pass → u.pcieDest k pa.toNat = .none →
            exec (.ioRd a pa size) s = .next (u.ioReply a pa tx true .decerr)) ∧
          (∀ j, u.windowCheck a k pa.toNat = .pass → u.pcieDest k pa.toNat = .sub j → ((u.pcie k).sub j).up = true →
            exec (.ioRd a pa size) s = .next ((u.uev 4 0x102 k (u.agentPocket a)).updPcie k fun x => { x with
              nonposted := x.nonposted ++
                [
            { agent := a, eye := agentEyelet a pa.toNat, txid := tx.toNat, op := 0x0E, pa := pa, size := n,
              kind := 4, sub := j }] }))))) ∧
    (∀ (a : Agent) (pa : Addr) (size : Size) (v : BitVec 128) (s : State), s.isMsi a pa v = false →
      let n := size.bytes
      let tx := s.ioTxid a pa 0x40
      let u := s.ioArrive a pa 0x40
      (regionOf pa.toNat = .hole → exec (.ioWr a pa size v) s = .next (u.ioReply a pa tx false .decerr)) ∧
      (∀ k, regionOf pa.toNat = .mmio k →
        (u.fenceIsOpen (.pcie (Fin.ofNat 8 k)) = false → exec (.ioWr a pa size v) s = .next
          ((u.fenceDropped (.pcie (Fin.ofNat 8 k)) pa.toNat).ioReply a pa tx false .domoff)) ∧
        (u.fenceIsOpen (.pcie (Fin.ofNat 8 k)) = true → u.windowCheck a k pa.toNat = .pass →
          (∀ j off, u.pcieDest k pa.toNat = .cfg j off →
            exec (.ioWr a pa size v) s = .next ((u.cfgWrite k j off n v).ioReply a pa tx false .ok)) ∧
          (∀ j, u.pcieDest k pa.toNat = .sub j → ((u.pcie k).sub j).up = true → u.ownedCfg k pa.toNat ≠ 2 →
            exec (.ioWr a pa size v) s = .next (u.postStore k
            { agent := a, eye := agentEyelet a pa.toNat, txid := tx.toNat, op := 0x40, pa := pa, size := n,
              kind := 4, off := u.ownedCfg k pa.toNat, data := placeAt v.toNat 0, sub := j })) ∧
          (∀ j, u.pcieDest k pa.toNat = .sub j → ((u.pcie k).sub j).up = true → u.ownedCfg k pa.toNat = 2 →
            exec (.ioWr a pa size v) s = .next (u.ioReply a pa tx false .ok))))) ∧
    (∀ (port : Fin 8) (txid : BitVec 12) (st : CplStatus) (v : BitVec 128) (s : State), s.thm.parkAll = false →
      (((s.pcie port.val).nonposted.find? fun r => r.txid == txid.toNat) = none →
        exec (.pcieCompletion port txid st v) s = .next (s.lateAnswer (20 + port.val))) ∧
      (∀ (r : YReq) (h : HartId), ((s.pcie port.val).nonposted.find? fun r => r.txid == txid.toNat) = some r → r.agent = .hart h →
        exec (.pcieCompletion port txid .ok v) s = .next ((s.updPcie port.val fun x => { x with
          nonposted := x.nonposted.erase r }).ioReply (.hart h) r.pa txid true .ok (BitVec.ofNat 512 (v.toNat % 2 ^ (8 * r.size)))) ∧
        exec (.pcieCompletion port txid .ca v) s = .next ((s.updPcie port.val fun x => { x with
          nonposted := x.nonposted.erase r }).ioReply (.hart h) r.pa txid true .decerr 0))) ∧
    (∀ (c : HartId) (port : Fin 8) (s : State),
      let u := s.arrive fun p => p.op == 0x56 && p.dst == BitVec.ofNat 8 (0xC0 + port.val) &&
        panelOfEyelet p.src.toNat == some c.panel.val && p.txid.toNat / 128 == c.core.val
      let n := ((s.pcie port.val).posted.filter fun r => r.agent == .hart c).length
      let v := ({ u with clk.late := KMap.upd 0 (20 + port.val) (· + n) u.clk.late } : State).updPcie port.val fun x =>
        { x with posted := x.posted.filter fun r => !(r.agent == .hart c) }
      exec (.abandon c port) s = .next (v.placeList port.val [] (v.pcie port.val).posted)) ∧
    ∀ (port : Fin 8) (sub : Fin 8) (n : BitVec 8) (s : State), s.thm.parkAll = false →
      ((s.pcie port.val).sub sub.val).up = true →
      let u := s.updPcie port.val fun x => x.updSub sub.val fun y => { y with credits := y.credits + n.toNat }
      exec (.flowControlCredits port sub n) s = .next (u.placeList port.val [] (u.pcie port.val).posted)

/-- A read, write or atomic of a device that may enter goes to the home of its bolt address (an atomic of a supported
kind), an MSI-sized one to control space; of any other address, or of an unsupported kind, it answers DECERR, and
one that may not enter DOMOFF (a write by the port's AER). A peer-to-peer request is served at its target where the
link is up, else it fails. ATS is answered as its owner says. LINK_DOWN and LINK_UP change the sub-port's link and,
at the service port, its link registers; a hot-plug frame is sampled at the next 10 µs. It rests on the model's
choices of assumptions 3, 4, 85, 87 and 88. -/
def Obligations.DevicesAndLinks : Prop :=
  (∀ (port : Fin 8) (rid : BitVec 16) (pa : Addr) (s : State), s.thm.parkAll = false →
      let a := Agent.device port rid
      (s.deviceMayEnter port rid = true → regionOf pa.toNat = .bolt →
        exec (.deviceRead port rid pa) s = .next
          (s.yokeSend { agent := a, eye := 0, txid := 0, op := 0x08, pa := pa, size := 64, kind := 4 }) ∧
        (∀ d be, exec (.deviceWrite port rid pa d be) s = .next ((s.updPcie port.val fun x => { x with inbound := x.inbound ++
            [
            { agent := a, eye := 0, txid := 0, op := 0x09, pa := pa, size := 64, kind := 4, data := d, be := be,
              needData := false }] }).inboundPump port.val)) ∧
        ∀ f size op cmp, atomicSupported f size = true → exec (.deviceAtomic port rid pa f size op cmp) s = .next
          (s.yokeSend
            { agent := a, eye := 0, txid := 0, op := 0x05, pa := pa, size := size.bytes, kind := 4,
              mod := BitVec.ofNat 8 (16 * f.code + 2 * size.code), cmp := cmp,
              data := placeAt (op.toNat % 2 ^ (8 * size.bytes)) (pa.toNat % 64),
              be := beOf (pa.toNat % 64) size.bytes })) ∧
      (s.deviceMayEnter port rid = true → regionOf pa.toNat = .hole →
        exec (.deviceRead port rid pa) s = .next (s.reply a .decerr) ∧
        (∀ d be, exec (.deviceWrite port rid pa d be) s = .next (s.aerPost port.val .decerr)) ∧
        ∀ f size op cmp, exec (.deviceAtomic port rid pa f size op cmp) s = .next (s.reply a .decerr)) ∧
      (s.deviceMayEnter port rid = false →
        exec (.deviceRead port rid pa) s = .next (s.reply a .domoff) ∧
        (∀ d be, exec (.deviceWrite port rid pa d be) s = .next (s.aerPost port.val .domoff)) ∧
        (∀ f size op cmp, exec (.deviceAtomic port rid pa f size op cmp) s = .next (s.reply a .domoff)) ∧
        ∀ w, exec (.peerToPeer port rid pa w) s = .next (s.p2pFail port.val a w .domoff)) ∧
      (∀ k j w, s.deviceMayEnter port rid = true → regionOf pa.toNat = .mmio k →
        s.fenceIsOpen (.pcie (Fin.ofNat 8 k)) = true → s.windowCheck a k pa.toNat = .pass → s.pcieDest k pa.toNat = .sub j →
        exec (.peerToPeer port rid pa w) s = .next
          (if ((s.pcie k).sub j).up then s.p2pPlace port.val k j a pa w else s.p2pFail port.val a w .decerr)) ∧
      (∀ q, s.funcOwner port.val rid.toNat = some (true, q) →
        exec (.atsRequest port rid) s = .next (s.reply a (if q = 0 then .ok else .decerr)))) ∧
    (∀ (port : Fin 9) (sub : Fin 8) (s : State), ((s.pcie port.val).sub sub.val).up = true →
      exec (.linkDown port sub) s = .next (if port.val = 8 then (s.subDown port.val sub.val).svcLink
        else s.subDown port.val sub.val)) ∧
    (∀ (speed width : BitVec 4) (gib : BitVec 16) (s : State),
      exec (.linkUp 8 0 speed width gib) s = .next ((s.updPcie 8 fun x => x.updSub 0 fun y =>
        { y with up := true, speed := clampN 1 5 speed.toNat, width := min 3 width.toNat }).svcLink)) ∧
    (∀ (port : Fin 9) (sub : Fin 8) (speed width : BitVec 4) (gib : BitVec 16) (lanes : Nat) (s : State), port.val < 8 →
      (subLanes (s.pcieMode port.val))[sub.val]? = some lanes → s.fenceIsOpen (.pcie (Fin.ofNat 8 port.val)) = true →
      let w := min (Nat.log2 lanes) width.toNat
      let cxl := decide (port.val < 4) && sub.val == 0 && bit (s.cfg 0xC0 port.val 2 1 0) 0 && decide (3 ≤ w)
      exec (.linkUp port sub speed width gib) s = .next ((s.updPcie port.val fun x =>
        { x.updSub sub.val (fun y => { y with
            up := true, width := w, speed := clampN 1 (s.cfg 0xC0 port.val 1 1 6) speed.toNat }) with
          cxlCap := if cxl then gib.toNat else x.cxlCap }).refreshBolts)) ∧
    ∀ (k : Fin 8) (din : Word) (s : State), s.cfg 0xC0 k.val 3 1 0 ≠ 0 →
      let hp := s.cfg 0xC0 k.val 3 1 0
      let u := s.advance ((s.tape / 10000 + 1) * 10000)
      exec (.hotPlugFrame k din) s = .next ((List.range (subLanes (u.pcieMode k.val)).length).foldl (fun s j =>
          if !bit hp j then s
          else
            let v := din.toNat >>> (8 * j) % 256 / 16 * 16
            let y := (s.pcie k.val).sub j
            let act := if v = y.hpIn then v else y.hpAct
            let s := s.updPcie k.val fun x => x.updSub j fun y => { y with hpIn := v, hpAct := act }
            if bit act 7 && y.up then s.subDown k.val j else s) u)

/-- A REOPEN received resets the interface, counts, and restarts the handshake at attempt 1, from whatever state but
DOWN. The peer's MASK of the running attempt is kept as PEER_GOOD and the intersection with LOCAL_GOOD sent. An
equal CONFIRM of at least 4 groups ends the handshake UP on those groups, of fewer goes to SAFE; an unequal one ends
the attempt, and the next begins while the limit is not reached. SAFE ends at groups 0 to 3 where both ends have all
four good, else DOWN. The idle test puts up to two failed wires of a group on its spares and retires the group
beyond that. GUS_CTL.REOPEN is the Keeper's alone. It rests on the model's choices of assumptions 47 and 48. -/
def Obligations.WidthHandshake : Prop :=
  (∀ (e : GusEnd) (s : State), s.thm.parkAll = false → e.peer.isSome = true → s.gusState e ≠ 0 →
      let u := s.incF (R.gusStatus e) F.gusStatus_REOPENS
      let was := if (u.gusset e).n = 0 then u.fld (R.gusStatus e) F.gusStatus_ACTIVE else (u.gusset e).wasActive
      let v := (u.setF (R.gusStatus e) F.gusStatus_STATE 4).setF (R.gusStatus e) F.gusStatus_RETRIES 0
      exec (.reopen e) s = .next (((v.setF (R.gusCtl e) F.gusCtl_ATTEMPTS v.gusLimit).updGus e fun g =>
        { g with wasActive := was }).gusAttempt e 1)) ∧
    (∀ (e : GusEnd) (n : BitVec 3) (m : BitVec 16) (s : State), s.thm.parkAll = false →
      (s.gusset e).phase = 1 → (s.gusset e).n = n.toNat →
      let u := s.setF (R.gusStatus e) F.gusStatus_PEER_GOOD m.toNat
      exec (.mask e n m) s = .next (u.updGus e fun g =>
        { g with phase := 2, sentW := u.gusGood e &&& m.toNat, t := some (u.timer e.bank 4) })) ∧
    (∀ (e : GusEnd) (n : BitVec 3) (w : BitVec 16) (s : State), s.thm.parkAll = false →
      (s.gusset e).phase = 2 → (s.gusset e).n = n.toNat →
      ((s.gusset e).sentW = w.toNat → 4 ≤ popcount 16 w.toNat →
        exec (.confirm e n w) s = .next (s.gusEnd e 2 w.toNat)) ∧
      ((s.gusset e).sentW = w.toNat → popcount 16 w.toNat < 4 →
        exec (.confirm e n w) s = .next (s.updGus e fun g => { g with phase := 3, t := some (s.timer e.bank 4) })) ∧
      ((s.gusset e).sentW ≠ w.toNat →
        let u := if s.fld R.pkgId F.pkgId_PKG_LEVEL = 2 then s.setF (R.gusStatus e) F.gusStatus_RETRIES (s.gusset e).n else s
        ((s.gusset e).n < u.fld (R.gusCtl e) F.gusCtl_ATTEMPTS →
          exec (.confirm e n w) s = .next (u.gusAttempt e ((s.gusset e).n + 1))) ∧
        (u.fld (R.gusCtl e) F.gusCtl_ATTEMPTS ≤ (s.gusset e).n →
          exec (.confirm e n w) s = .next (u.gusSafe e)))) ∧
    (∀ (e : GusEnd) (s : State), s.thm.parkAll = false → (s.gusset e).phase = 3 →
      (s.gusGood e % 16 = 15 → exec (.safe e true) s = .next (s.gusEnd e 3 0xF)) ∧
      (s.gusGood e % 16 ≠ 15 → exec (.safe e true) s = .next (s.gusEnd e 0 0)) ∧
      exec (.safe e false) s = .next (s.gusEnd e 0 0)) ∧
    (∀ (e : GusEnd) (g : Fin 16) (w : BitVec 7) (s : State), s.thm.parkAll = false →
      s.gusState e = 1 ∨ s.gusState e = 4 →
      let v := s.fld (R.gusRepair e) F.gusRepair_SPARES_USED
      (w.toNat ≤ 2 → exec (.idleTestFail e g w) s = .next (s.setF (R.gusRepair e) F.gusRepair_SPARES_USED
        (setBit (setBit v (2 * g.val) (bit w.toNat 0)) (2 * g.val + 1) (bit w.toNat 1)))) ∧
      (2 < w.toNat → exec (.idleTestFail e g w) s = .next
        ((s.setFbit (R.gusRepair e) F.gusRepair_RETIRED g.val true).setFbit (R.gusStatus e) F.gusStatus_LOCAL_GOOD g.val false))) ∧
    ∀ (a : Agent) (e : GusEnd) (s : State), s.thm.parkAll = false → e.peer.isSome = true →
      (agentIsKeeper a = true → s.gusState e ≠ 0 → exec (.gusCtlReopen a e) s = .next ((s.gusReopen e).reply a .ok)) ∧
      (agentIsKeeper a = true → s.gusState e = 0 → exec (.gusCtlReopen a e) s = .next (s.reply a .ok)) ∧
      (agentIsKeeper a = false → exec (.gusCtlReopen a e) s = .next ((s.kwViolation a (R.gusCtl e).addr).reply a .viol))

/-- A command to ON starts a closed fence opening and one to OFF starts an open one draining; one that arrives in
OPENING or DRAINING is kept for afterwards. A bring-up that finishes opens the fence, one that fails leaves it
CLOSED and FAULTED with ON cleared. A drain that is complete closes the unit and its fence, and the report reaches
the Keeper. A table load that leaves stops unloaded is only noted; the last one starts the hold of every stop. A
stop that holds and has nothing of the old epoch reports, the last report switches, and EPOCH_GO releases what a
stop held. A slot boundary injects what the slot's group has waiting. It rests on the model's choices of assumptions
44 and 49. -/
def Obligations.FencesAndEpochs : Prop :=
  (∀ (u : FenceUnit) (s : State),
      let v := fun on : Bool => (s.arrive fun p => p.op == 0x50 && p.txid == BitVec.ofNat 12 u.num).setF (R.fenceCmd u) F.fenceCmd_ON (if on then 1 else 0)
      ((v true).fenceState u = 0 → exec (.fenceCmd u true) s = .next (((v true).setFence u 1).updFence u.num fun x =>
        { x with t := some (x.t.getD ((v true).timer (fenceBank u) 9)), next := none })) ∧
      ((v false).fenceState u = 2 → exec (.fenceCmd u false) s = .next ((v false).startDrain u)) ∧
      ((v true).fenceState u = 3 → exec (.fenceCmd u true) s = .next ((v true).updFence u.num fun x => { x with next := some true })) ∧
      ((v false).fenceState u = 1 → exec (.fenceCmd u false) s = .next ((v false).updFence u.num fun x => { x with next := some false })) ∧
      ((v true).fenceState u = 2 → exec (.fenceCmd u true) s = .next (v true)) ∧
      ((v false).fenceState u = 0 → exec (.fenceCmd u false) s = .next (v false))) ∧
    (∀ (u : FenceUnit) (s : State), s.fenceState u = 1 → (∀ c, u ≠ .mc c) →
      exec (.fenceOpen u true) s = .next (s.fenceOpened u) ∧
      exec (.fenceOpen u false) s = .next (((((s.setFence u 0).setF (R.fenceStatus u) F.fenceStatus_FAULTED 1).setF
        (R.fenceCmd u) F.fenceCmd_ON 0).updFence u.num fun x => { x with t := none, next := none, wasReset := false }).sendFenceReply u)) ∧
    (∀ (c : Ctlr) (s : State), s.fenceState (.mc c) = 1 → (s.mc c.num).trainAt = none →
      (s.fld (R.mcInfo c) F.mcInfo_STATE = 1 ∨ s.fld (R.mcInfo c) F.mcInfo_STATE = 2 →
        exec (.fenceOpen (.mc c) true) s = .next ((s.leaveSelfRefresh c).fenceOpened (.mc c))) ∧
      (s.fld (R.mcInfo c) F.mcInfo_STATE = 2 →
        exec (.fenceOpen (.mc c) false) s = .next (s.updMc c.num fun m => { m with trainAt := some s.tape })) ∧
      (s.fld (R.mcInfo c) F.mcInfo_STATE = 3 ∨ s.fld (R.mcInfo c) F.mcInfo_STATE = 4 →
        exec (.fenceOpen (.mc c) true) s = .next (s.fenceOpenFailed (.mc c)))) ∧
    (∀ (u : FenceUnit) (s : State), (∀ p, u ≠ .panel p) → s.fenceState u = 3 → s.drained u = true →
      exec (.drainComplete (.fence u)) s = .next ((s.closeUnit u).closeFence u)) ∧
    (∀ (p : Panel) (s : State), (s.flushPanel p.val).fenceState (.panel p) = 3 →
      (s.flushPanel p.val).panelEmpty p.val = true →
      exec (.drainComplete (.fence (.panel p))) s = .next ((s.flushPanel p.val).closeFence (.panel p))) ∧
    (∀ (u : FenceUnit) (s : State),
      let v := s.arrive fun p => p.op == 0x51 && p.txid == BitVec.ofNat 12 u.num
      ((∀ p, u ≠ .panel p) → exec (.fenceReply u) s = .next v.keeperWork) ∧
      ∀ p, u = .panel p → exec (.fenceReply u) s = .next ((v.handFence p.val).panelRise p.val).keeperWork) ∧
    (∀ (stop : BitVec 8) (s : State),
      s.epoch.running = true → s.epoch.loaded.contains stop.toNat = false → s.epochStops.contains stop.toNat = true →
      s.fld R.epoch F.epoch_HOLDING ≠ 1 → s.epoch.holding = [] →
      let u : State := { s with epoch.loaded := stop.toNat :: s.epoch.loaded }
      (s.epochStops.all u.epoch.loaded.contains = false → exec (.tableLoad stop) s = .next u) ∧
      (s.epochStops.all u.epoch.loaded.contains = true → exec (.tableLoad stop) s = .next
        { (u.setF R.epoch F.epoch_WAITING s.epochStops.length).setF R.epoch F.epoch_HOLDING 1 with
          epoch.waiting := s.epochStops })) ∧
    (∀ (stop : BitVec 8) (s : State), s.fld R.epoch F.epoch_HOLDING = 1 →
      s.epoch.waiting.contains stop.toNat = true → s.epoch.holding.contains stop.toNat = false →
      exec (.epochFlip stop) s = .next { s with epoch.holding := stop.toNat :: s.epoch.holding }) ∧
    (∀ (stop : BitVec 8) (s : State), s.epoch.holding.contains stop.toNat = true →
      s.epoch.waiting.contains stop.toNat = true → s.stopBusy stop.toNat = false →
      let left := s.epoch.waiting.filter (· != stop.toNat)
      let u := ({ s with epoch.waiting := left } : State).setF R.epoch F.epoch_WAITING left.length
      (left.isEmpty = false → exec (.epochEmpty stop) s = .next u) ∧
      (left.isEmpty = true → exec (.epochEmpty stop) s = .next u.epochSwitch)) ∧
    (∀ (stop : BitVec 8) (s : State), s.fld R.epoch F.epoch_HOLDING ≠ 1 → s.epoch.holding.contains stop.toNat = true →
      let mine := fun p : Pkt => p.src.toNat == stop.toNat
      exec (.epochGo stop) s = .next ((s.epoch.heldPkts.filter mine).foldl
        (fun s p => if s.waitsSlot p then { s with epoch.slotQ := s.epoch.slotQ ++ [p] } else s.inject p)
        { s with
          epoch.holding := s.epoch.holding.filter (· != stop.toNat)
          epoch.heldPkts := s.epoch.heldPkts.filter fun p => !mine p })) ∧
    ∀ (stop : Fin 5) (s : State), s.slotted stop.val = true →
      let u := s.advance s.nextSlot
      let goes := fun p : Pkt => u.injectRing p == some stop.val && u.slotOpen (u.pktGroup p)
      exec (.slotBoundary stop) s = .next ((u.epoch.slotQ.filter goes).foldl State.inject
        { u with epoch.slotQ := u.epoch.slotQ.filter fun p => !goes p })

/-- A read a home waits for, at a unit whose fence is OPEN or DRAINING, is answered with the line the controller
decodes: data and stored poison with no error, the same data after a corrected error with its record, poison added
and a record where an uncorrectable word was not already a poison code word; behind a closed fence it is counted
DOMOFF and the home's transaction marked. A write at an OPEN fence is stored with its byte enables and poison; one
at a fence that is not OPEN takes the outcome of a dropped write. What a controller decodes without error changes no
state. It rests on the model's choices of assumptions 3, 51 and 53. -/
def Obligations.MemoryReadsAndWrites : Prop :=
  (∀ (u : FenceUnit) (h : SliceId) (pa : Addr) (txid : BitVec 12) (err : MemErr) (row : Bool) (bank : Fin 64) (s : State) (t : Tx),
      s.thm.parkAll = false → s.tx h.num (lineOf pa) = some t → t.memWait = true → t.req.txid = txid →
      s.backsLine u (lineOf pa) = true →
      let v := s.arrive fun p => p.op == 0x08 && p.src == BitVec.ofNat 8 h.eyelet && lineOf p.pa == lineOf pa && p.txid == txid
      (∀ c, u = .mc c → v.fenceState u = 2 ∨ v.fenceState u = 3 →
        let pk := match v.tx h.num (lineOf pa) with | some t => t.req.pocket.toNat | none => 0
        let w := v.uev c.saddle 0x10 (ctlrSrc c) pk
        let x := if row && w.mcCfg c 4 1 0 0 == 0 then w else (w.uev c.saddle 0x13 (ctlrSrc c) pk).activate c bank.val
        let r := x.mcDecode u (lineOf pa) err
        exec (.memoryRead u h pa txid err row bank) s = .next ((r.1.memAnswer h.num (lineOf pa) r.2.1 r.2.2).homeGo h.num)) ∧
      (∀ k, u = .pcie k → v.fenceState u = 2 ∨ v.fenceState u = 3 →
        let r := v.mcDecode u (lineOf pa) err
        exec (.memoryRead u h pa txid err row bank) s = .next ((r.1.memAnswer h.num (lineOf pa) r.2.1 r.2.2).homeGo h.num)) ∧
      ∀ t', v.fenceState u ≠ 2 → v.fenceState u ≠ 3 →
        let w := (v.incF (R.fenceStatus u) F.fenceStatus_DOMOFF_COUNT).updTx h.num (lineOf pa) fun t => { t with memWait := false, domoff := true }
        w.tx h.num (lineOf pa) = some t' →
        exec (.memoryRead u h pa txid err row bank) s = .next
          ((if t'.req.op == 0x06 || (t'.req.op == 0x05 && t'.req.nc) then w.endTx h.num (lineOf pa) t'.req .domoff
            else w.tryComplete h.num (lineOf pa)).homeGo h.num)) ∧
    (∀ (u : FenceUnit) (line : Nat) (s : State),
      s.mcDecode u line .none = (s, s.memLine line, s.memPoisonOf line)) ∧
    (∀ (c : Ctlr) (line : Nat) (sym : BitVec 8) (w : BitVec 4) (s : State),
      s.mcDecode (.mc c) line (.corrected sym w) =
        (s.mcCorrected c (64 * line) sym.toNat w.toNat, s.memLine line, s.memPoisonOf line)) ∧
    (∀ (c : Ctlr) (line : Nat) (w : BitVec 4) (s : State),
      let w' := errWords (.mc c) w
      let new := w' &&& ~~~ s.memPoisonOf line
      s.mcDecode (.mc c) line (.uncorrectable w) =
        (if new = 0 then s else s.mcUncorrected c (64 * line) new.toNat, s.memLine line, s.memPoisonOf line ||| w')) ∧
    ∀ (u : FenceUnit) (h : SliceId) (pa : Addr) (d : LineData) (be : Word) (po : BitVec 4) (row : Bool) (bank : Fin 64) (s : State),
      s.thm.parkAll = false → s.backsLine u (lineOf pa) = true →
      (∀ err, s.fenceIsOpen u = false →
        exec (.memoryWrite u h pa d be po err row bank) s = .next (s.homeWrite h.sd.val (lineOf pa) d be po).1) ∧
      (∀ k, u = .pcie k → s.fenceIsOpen u = true →
        exec (.memoryWrite u h pa d be po .none row bank) s = .next (s.ctlrWrite u (lineOf pa) d be po)) ∧
      ∀ c, u = .mc c → s.fenceIsOpen u = true →
        let w := s.uev c.saddle (if be = beAll then 0x11 else 0x12) (ctlrSrc c) 0
        let x := if row && w.mcCfg c 4 1 0 0 == 0 then w else (w.uev c.saddle 0x13 (ctlrSrc c) 0).activate c bank.val
        exec (.memoryWrite u h pa d be po .none row bank) s = .next (x.ctlrWrite u (lineOf pa) d be po) ∧
        let touched := BitVec.ofNat 4 (ofBits ((List.range 4).filter fun w => be.toNat >>> (16 * w) % 65536 != 0))
        let whole := match u with
          | .mc (.ddr _) => if be = beAll then (15 : BitVec 4) else 0
          | _ => wholeWords be
        let merged := errWords u (touched &&& ~~~ wholeWords be) &&& ~~~ whole
        ∀ y z, exec (.memoryWrite u h pa d be po (.corrected y z) row bank) s = .next
          ((if merged = 0 then x else x.mcCorrected c (64 * lineOf pa) y.toNat (z &&& merged).toNat).ctlrWrite u (lineOf pa) d be po)

/-- A GO at a serving controller clears the sums and starts a pass at BASE; while a pass runs it has no effect, and at
one not in service it leaves STATUS OFFLINE. A line is counted by what it holds and moves the pass on; ABORT stops
it, and it ends ABORTED, OFFLINE or, past LIMIT, DONE. A temperature reading doubles the rate above TEMP_HI, returns
to the normal one 3 degrees below, and raises ALARM from 95. A refresh due gets its deadline from ALLOW_NS as it
stands. A training result at step 6 opens the controller that serves. It rests on the model's choices of assumptions
51, 52, 54 and 55. -/
def Obligations.ScrubTrainingAndHeat : Prop :=
  (∀ (a : Agent) (c : Ctlr) (rate : BitVec 11) (irq mode : Bool) (s : State), s.thm.parkAll = false →
      (s.ctlCheck a (R.mcScrubCtl c).addr = .pass →
        (s.fld (R.mcScrubCtl c) F.mcScrubCtl_STATUS = 1 → exec (.scrubGo a c rate irq mode) s = .next (s.reply a .ok)) ∧
        (s.fld (R.mcScrubCtl c) F.mcScrubCtl_STATUS ≠ 1 →
          let r := R.mcScrubCtl c
          let u := ((s.setF r F.mcScrubCtl_RATE (clampN 1 1024 rate.toNat)).setF r F.mcScrubCtl_IRQ_EN
            (if irq then 1 else 0)).setF r F.mcScrubCtl_MODE (if mode then 1 else 0)
          ((u.mcServes c && u.fenceIsOpen (.mc c)) = false →
            exec (.scrubGo a c rate irq mode) s = .next ((u.setF r F.mcScrubCtl_STATUS 4).reply a .ok)) ∧
          ((u.mcServes c && u.fenceIsOpen (.mc c)) = true →
            let lo := u.fld (R.mcScrubBase c) F.mcScrubBase_LINE
            let v := u.setF (R.mcScrubLimit c) F.mcScrubLimit_LINE (max lo (u.fld (R.mcScrubLimit c) F.mcScrubLimit_LINE))
            let w := (((v.wr (R.mcScrubSum0 c) 0).wr (R.mcScrubSum1 c) 0).wr (R.mcScrubFirst c) 0).wr (R.mcScrubLast c) 0
            let x := ((w.wr (R.mcScrubTapeStart c) (BitVec.ofNat 64 s.tape)).setF r F.mcScrubCtl_STATUS 1).setSource (5 + c.num) false
            exec (.scrubGo a c rate irq mode) s = .next ((x.updMc c.num fun m =>
              { m with next := lo, stop := 0, us := x.tape / 1000, started := 0 }).reply a .ok)))) ∧
      (∀ r, s.ctlCheck a (R.mcScrubCtl c).addr = .viol r →
        exec (.scrubGo a c rate irq mode) s = .next ((s.ctlViolation a (R.mcScrubCtl c).addr 0x40 r).reply a .viol) ∧
        exec (.scrubAbort a c) s = .next ((s.ctlViolation a (R.mcScrubCtl c).addr 0x40 r).reply a .viol)) ∧
      (s.ctlCheck a (R.mcScrubCtl c).addr = .pass →
        (s.fld (R.mcScrubCtl c) F.mcScrubCtl_STATUS = 1 → exec (.scrubAbort a c) s = .next
          ((s.updMc c.num fun m => { m with stop := if m.stop = 0 then 1 else m.stop }).reply a .ok)) ∧
        (s.fld (R.mcScrubCtl c) F.mcScrubCtl_STATUS ≠ 1 → exec (.scrubAbort a c) s = .next (s.reply a .ok)))) ∧
    (∀ (c : Ctlr) (line : Nat) (s : State), s.thm.parkAll = false → s.nextBacked c (s.mc c.num).next = some line →
      s.fld (R.mcScrubCtl c) F.mcScrubCtl_STATUS = 1 → (s.mc c.num).stop = 0 →
      line ≤ s.fld (R.mcScrubLimit c) F.mcScrubLimit_LINE → (s.mc c.num).us = s.tape / 1000 →
      (s.mc c.num).started < s.fld (R.mcScrubCtl c) F.mcScrubCtl_RATE →
      let u := (s.updMc c.num fun m => { m with next := line + 1, us := s.tape / 1000, started := if m.us = s.tape / 1000 then m.started + 1 else 1 }).incF
        (R.mcScrubSum0 c) F.mcScrubSum0_SCANNED
      exec (.scrubLine c .clean) s = .next u ∧
      exec (.scrubLine c .correctable) s = .next (u.incF (R.mcScrubSum0 c) F.mcScrubSum0_CORRECTED) ∧
      exec (.scrubLine c .poisonOnly) s = .next (u.incF (R.mcScrubSum1 c) F.mcScrubSum1_POISONED)) ∧
    (∀ (c : Ctlr) (s : State), s.thm.parkAll = false → s.fld (R.mcScrubCtl c) F.mcScrubCtl_STATUS = 1 →
      ((s.mc c.num).stop = 1 → exec (.scrubEnd c) s = .next (s.endScrub c 3)) ∧
      ((s.mc c.num).stop = 2 → exec (.scrubEnd c) s = .next (s.endScrub c 4)) ∧
      ((s.mc c.num).stop = 0 → s.nextBacked c (s.mc c.num).next = none → exec (.scrubEnd c) s = .next (s.endScrub c 2)) ∧
      ((s.mc c.num).stop = 0 → (∀ l, s.nextBacked c (s.mc c.num).next = some l →
        s.fld (R.mcScrubLimit c) F.mcScrubLimit_LINE < l → exec (.scrubEnd c) s = .next (s.endScrub c 2)))) ∧
    (∀ (c : Ctlr) (s : State), s.thm.parkAll = false → s.mcServes c = true →
      exec (.tempRead c none) s = .next (((((s.setF (R.mcTherm c) F.mcTherm_READ_FAIL 1).setF (R.mcTherm c) F.mcTherm_DOUBLED 1)).mcErr
        c 0 5 0 0 (protoMisc 7 0)).refreshAllow) ∧
      ∀ t : BitVec 8,
        let hi := s.fld (R.mcParam c) F.mcParam_TEMP_HI
        let u := (s.setF (R.mcTherm c) F.mcTherm_TEMP t.toNat).setF (R.mcTherm c) F.mcTherm_READ_FAIL 0
        let v := if hi < t.toNat then u.setF (R.mcTherm c) F.mcTherm_DOUBLED 1
          else if t.toNat + 3 ≤ hi then u.setF (R.mcTherm c) F.mcTherm_DOUBLED 0 else u
        (95 ≤ t.toNat → exec (.tempRead c (some t)) s =
          .next ((v.setF (R.mcTherm c) F.mcTherm_ALARM 1).setF (R.mcTherm c) F.mcTherm_ALARM_SEEN 1).refreshAllow) ∧
        (t.toNat < 95 → exec (.tempRead c (some t)) s = .next (v.setF (R.mcTherm c) F.mcTherm_ALARM 0).refreshAllow)) ∧
    (∀ (c : Ctlr) (rank : Fin 4) (s : State), s.thm.parkAll = false → s.mcServes c = true →
      exec (.refresh c rank) s = .next (s.updMc c.num fun m =>
        { m with due := KMap.set none rank.val (some ⟨3, s.tape, s.fld (R.mcRefresh c) F.mcRefresh_ALLOW_NS, 0⟩) m.due })) ∧
    ∀ (c : Ctlr) (r : TrainRes) (s : State),
      (s.atStep 6 = true → s.fld (R.mcInfo c) F.mcInfo_STATE = 0 →
        ((s.trainMc c r).mcServes c = true → exec (.trainingComplete c r) s = .next
          (((s.trainMc c r).setFence (.mc c) 2).setF (R.fenceCmd (.mc c)) F.fenceCmd_ON 1).memReady) ∧
        ((s.trainMc c r).mcServes c = false → exec (.trainingComplete c r) s = .next (s.trainMc c r).memReady)) ∧
      (s.atStep 6 = false → exec (.trainingComplete c r) s = .next (s.retrained c r))

/-- A port whose lanes train at the width tried sends its HELLO and comes UP when one is heard; an attempt that ends
tries the next width where ALLOW_X2 lets it, else the port is DOWN with a LINK record, and it trains again after
RETRY_MS. Loss of signal trains again. A frame that fails its CRC is answered by a NAK; a good one in sequence is
accepted and one of an unknown TYPE is discarded and counted. A NAK replays from the frame it names; the eighth
replay in succession of one frame retrains. It rests on the model's choices of assumptions 93, 94 and 95. -/
def Obligations.HarnessPorts : Prop :=
  (∀ (k : Fin 16) (lanes : BitVec 2) (s : State), s.portState k = 1 → (s.hport k).trained = false →
      lanes.toNat = (match (s.hport k).lane with | 0 => 3 | 1 => 1 | _ => 2) →
      exec (.portTrained k lanes) s = .next
        (((s.setF (R.portStatus k.val) F.portStatus_LANES lanes.toNat).updHport k fun p => { p with trained := true }).sendHello k)) ∧
    (∀ (k : Fin 16) (s : State), s.portState k = 1 →
      let u := (s.advance ((s.hport k).since + s.cfg 0xB0 k.val 4 2 500 * 1000000)).setF (R.portStatus k.val) F.portStatus_LANES 0
      ((s.hport k).lane < 2 → u.portCtl k 1 = true → exec (.trainTimeout k) s = .next
        (u.updHport k fun p => { p with lane := p.lane + 1, since := u.tape, trained := false, heard := false })) ∧
      (2 ≤ (s.hport k).lane ∨ u.portCtl k 1 = false → exec (.trainTimeout k) s = .next
        (((u.setPort k 3).updHport k fun p => { p with since := u.tape, trained := false, heard := false }).portErr k 1 4
          (linkMisc 5 k.val 0)))) ∧
    (∀ (k : Fin 16) (s : State), s.portState k = 3 → s.portCtl k 0 = true →
      exec (.retryTimer k) s = .next ((s.advance ((s.hport k).since + s.cfg 0xB0 k.val 6 2 1000 * 1000000)).trainStart k)) ∧
    (∀ (k : Fin 16) (s : State), s.portState k = 2 ∨ (s.portState k = 1 ∧ (s.hport k).trained = true) →
      exec (.lossOfSignal k) s = .next (s.trainStart k)) ∧
    (∀ (k : Fin 16) (seq ack : BitVec 12) (typ : BitVec 8) (s : State),
      s.portState k = 2 ∨ (s.portState k = 1 ∧ (s.hport k).trained = true) →
      exec (.linkFrame k seq ack false typ) s = .next (s.updHport k fun x => { x with naks := x.rx % 4096 :: x.naks }) ∧
      let p := s.hport k
      let d := (ack.toNat + 1 + 4096 - p.una % 4096) % 4096
      let una := if d ≤ p.tx - p.una then p.una + d else p.una
      let u := s.updHport k fun x => { x with
        una := una, runs := if una = x.una then x.runs else 0
        sent := x.sent.filter fun t => match t.last with | some n => decide (una ≤ n) | none => true }
      let v := u.updHport k fun x => { x with rx := x.rx + 1 }
      (seq.toNat ≠ p.rx % 4096 → exec (.linkFrame k seq ack true typ) s = .next (u.portPump k)) ∧
      (seq.toNat = p.rx % 4096 → typ.toNat ≤ 6 → exec (.linkFrame k seq ack true typ) s = .next (v.portPump k)) ∧
      (seq.toNat = p.rx % 4096 → 6 < typ.toNat → exec (.linkFrame k seq ack true typ) s = .next
        (((({ v with hrn.badType := v.hrn.badType + 1 } : State).updHport k fun x => { x with badType := x.badType + 1 }).portErr k 1 5
          (protoMisc 0x0B typ.toNat)).portPump k))) ∧
    (∀ (k : Fin 16) (seq : BitVec 12) (s : State), s.portState k = 2 ∨ (s.portState k = 1 ∧ (s.hport k).trained = true) →
      let p := s.hport k
      let n := p.una + (seq.toNat + 4096 - p.una % 4096) % 4096
      let runs := if n = p.una then p.runs + 1 else 1
      let u := (s.incF (R.portStatus k.val) F.portStatus_REPLAYS (p.tx - n)).updHport k fun x => { x with
        una := n, runs := runs
        sent := x.sent.filter fun t => match t.last with | some m => decide (n ≤ m) | none => true }
      n < p.tx →
      (8 ≤ runs → exec (.nak k seq) s = .next (u.trainStart k)) ∧
      (runs < 8 → exec (.nak k seq) s = .next (u.portPump k))) ∧
    ∀ (k : Fin 16) (m : Hello) (s : State), s.portState k = 2 ∨ (s.portState k = 1 ∧ (s.hport k).trained = true) →
      let r := R.portStatus k.val
      let u := ((((s.setF r F.portStatus_PEER_NODE m.node.toNat).setF r F.portStatus_PEER_PORT m.port.toNat).wr
        (R.portPeer k.val) m.serial).updHport k fun p => { p with heard := true, peerFeat := m.level.toNat })
      let v := if u.assigned && m.node.toNat == u.nodeId && m.serial.toNat != u.serialNo then
          ((u.setF R.hrnNode F.hrnNode_DUP_SEEN 1).portErr k 1 5 (protoMisc 8 m.serial.toNat)).hrnEvent else u
      (v.portState k = 2 → exec (.hello k m) s = .next v) ∧
      (v.portState k ≠ 2 →
        let w := if v.fld r F.portStatus_LANES = 3 then v.setPort k 2
          else (v.setPort k 2).portErr k 1 4 (linkMisc 5 k.val (laneMask (v.fld r F.portStatus_LANES)))
        exec (.hello k m) s = .next (w.portPump k).hrnPump)

/-- A management packet at an UP port that is not at its last hop leaves by the port its PATH names, that port replaced
by the arrival port; at its last hop it is delivered. QUERY is answered with status 0, ASSIGN_ID to an unassigned
node without a conflict takes the ID and answers 0, and to an assigned one without a valid tag answers 1; RELEASE of
an assigned node needs the tag. A change that waits is made once no operation is outstanding. ENTDAA, RSTDAA and
SETNEWDA set the dynamic address; GETPID and a private read return the provisioned ID and the identity block.
GETBCR, GETDCR and GETSTATUS return free values (the spec gives none). It rests on the model's choices of
assumptions 3, 98 and 104. -/
def Obligations.HarnessManagement : Prop :=
  (∀ (k : Fin 16) (path : Word) (hop hops : BitVec 5) (mop : BitVec 8) (s : State), s.portState k = 2 →
      let n := clampN 1 16 hops.toNat
      (n ≤ hop.toNat → mop.toNat ≤ 2 → exec (.mgmtReceive k path hop hops mop) s =
        .next { s with hrn.mgmtIn := s.hrn.mgmtIn ++ [(k.val, path, n)] }) ∧
      (n ≤ hop.toNat → 2 < mop.toNat → exec (.mgmtReceive k path hop hops mop) s =
        .next (s.mgmtReply (k.val, path, n) 3 mop.toNat [])) ∧
      (hop.toNat < n →
        let out := path.toNat / 16 ^ hop.toNat % 16
        (s.portState out ≠ 2 → exec (.mgmtReceive k path hop hops mop) s = .next s) ∧
        let path' := BitVec.ofNat 64 (path.toNat - out * 16 ^ hop.toNat + k.val * 16 ^ hop.toNat)
        (s.portState out = 2 → exec (.mgmtReceive k path hop hops mop) s = .next (s.portQueue out
          { typ := 5, id := 0, m := noPkt, path := path', hop := hop.toNat + 1, hops := n })))) ∧
    (∀ (k : Fin 16) (e : Nat × Word × Nat) (s : State), (s.hrn.mgmtIn.find? fun e => e.1 == k.val) = some e →
      let u : State := { s with hrn.mgmtIn := s.hrn.mgmtIn.erase e }
      exec (.query k 0) s = .next (u.mgmtReply e 0 0 []) ∧
      (∀ nonce, nonce ≠ 0 → exec (.query k nonce) s =
        .next ((u.quoteOver nonce.toNat).2.mgmtReply e 0 0 (u.quoteOver nonce.toNat).1)) ∧
      ∀ m : MgmtReq,
        ((u.assigned || u.hrn.change.isSome) = true → u.mgmtAuth 1 m = false →
          exec (.assignId k m) s = .next (u.mgmtReply e 1 1 [])) ∧
        ((u.assigned || u.hrn.change.isSome) = false → (m.newId = 0x7FFF ∨ u.peerHas m.newId.toNat = true) →
          exec (.assignId k m) s = .next (u.mgmtReply e 2 1 [])) ∧
        ((u.assigned || u.hrn.change.isSome) = false → m.newId ≠ 0x7FFF → u.peerHas m.newId.toNat = false →
          exec (.assignId k m) s = .next (((if u.mgmtAuth 1 m then u.renewNonce else u).setNode m.newId.toNat).mgmtReply e 0 1 [])) ∧
        (u.assigned = true → u.hrn.change = none → u.mgmtAuth 1 m = true → m.newId ≠ 0x7FFF → u.peerHas m.newId.toNat = false →
          exec (.assignId k m) s = .next { u.renewNonce with hrn.change := some (m.newId.toNat, e.1, e.2.1, e.2.2, 1) }) ∧
        (u.assigned = true → u.mgmtAuth 2 m = false → exec (.mgmtRelease k m) s = .next (u.mgmtReply e 1 2 [])) ∧
        (u.assigned = true → u.mgmtAuth 2 m = true → u.hrn.change = none →
          exec (.mgmtRelease k m) s = .next { u.renewNonce with hrn.change := some (0x7FFF, e.1, e.2.1, e.2.2, 2) })) ∧
    (∀ (s : State) (id k : Nat) (path : Word) (hops mop : Nat), s.hrn.change = some (id, k, path, hops, mop) →
      (s.hrn.ops = [] → exec .idChange s =
        .next ((({ s with hrn.change := none } : State).setNode id).mgmtReply (k, path, hops) 0 mop [])) ∧
      (s.hrn.ops ≠ [] → exec .idChange s = .next s)) ∧
    (∀ (da : BitVec 7) (s : State),
      exec .rstdaa s = .next { s with hrn.da := none } ∧
      (s.hrn.da = none → exec (.entdaa da) s = .next { s with hrn.da := some da.toNat, hrn.i3c := s.i3cPid :: s.hrn.i3c }) ∧
      (s.hrn.da.isSome = true →
        exec (.setnewda da) s = .next { s with hrn.da := some da.toNat } ∧
        exec .getpid s = .next { s with hrn.i3c := s.i3cPid :: s.hrn.i3c } ∧
        exec .privateRead s = .next { s with hrn.i3c := s.identityBlock :: s.hrn.i3c, pins.i3cIbi := false } ∧
        exec .getbcr s = .next { s.fresh.2 with hrn.i3c := leBytes 1 s.fresh.1 :: s.hrn.i3c } ∧
        exec .getdcr s = .next { s.fresh.2 with hrn.i3c := leBytes 1 s.fresh.1 :: s.hrn.i3c } ∧
        exec .getstatus s = .next { s.fresh.2 with hrn.i3c := leBytes 2 s.fresh.1 :: s.hrn.i3c }))

/-- A doorbell sets TAIL, clamped to the ring, and CQ_BASE restarts a queue with nothing outstanding. A descriptor is
fetched from HEAD of a RUNNING queue and HEAD advances. A fetched PUT, GET, SEND or ATOMIC that comes next in its
queue becomes an operation: on an unassigned node it ends NODE, at a bad target or a misaligned ATOMIC offset
DECERR, where the Welt refuses its local buffer VIOL, on a route that is down NODE, else it reads what it sends, or
is ready at once. NOP completes at fetch, FENCE once nothing earlier of its queue is outstanding, MGMT of a pocket
other than 0 ends VIOL, of pocket 0 reads its request. A receive queue's HEAD write frees slots. It rests on the
model's choices of assumptions 99, 100 and 101. -/
def Obligations.HarnessQueues : Prop :=
  (∀ (a : Agent) (q : Fin 1024) (v : BitVec 12) (s : State), s.ctlCheck a (R.cqTail q.val).addr = .pass →
      exec (.cqTail a q v) s = .next (((s.setF (R.cqTail q.val) F.cqTail_TAIL (min v.toNat (s.cqSize q.val - 1))).cqRefresh q.val).reply a .ok)) ∧
    (∀ (a : Agent) (q : Fin 1024) (v : Word) (s : State), s.ctlCheck a (R.cqBase q.val).addr = .pass →
      (s.fld (R.cqStatus q.val) F.cqStatus_OUTSTANDING = 0 →
        exec (.cqBaseWrite a q v) s = .next ((s.cqRestart q.val v).reply a .ok)) ∧
      (s.fld (R.cqStatus q.val) F.cqStatus_OUTSTANDING ≠ 0 → exec (.cqBaseWrite a q v) s = .next (s.reply a .ok))) ∧
    (∀ (a : Agent) (r : Fin 1024) (v : BitVec 12) (s : State), s.ctlCheck a (R.rqPtr r.val).addr = .pass →
      exec (.rqHeadWrite a r v) s = .next
        (((s.setF (R.rqPtr r.val) F.rqPtr_HEAD (min v.toNat (s.rqSlots r.val - 1))).hrnPump).reply a .ok)) ∧
    (∀ (q : Fin 1024) (s : State),
      let st := R.cqStatus q.val
      let head := s.fld st F.cqStatus_HEAD
      s.fld (R.cqOwner q.val) F.cqOwner_ENABLE = 1 → s.fld st F.cqStatus_STATE = 1 →
      head ≠ s.fld (R.cqTail q.val) F.cqTail_TAIL → s.hrn.ops.length < 16384 →
      let next := (head + 1) % s.cqSize q.val
      let u := s.setF st F.cqStatus_HEAD next
      let v : State := if next = 0 then { u with hrn.pass := KMap.upd 0 q.val (· + 1) u.hrn.pass } else u
      let w : State := { v with hrn.desc := v.hrn.desc ++ [{ q := q.val, slot := head, phase := KMap.get 0 s.hrn.pass q.val % 2 == 0 }] }
      exec (.descriptorFetch q) s = .next (w.hrnRead (w.cqPocket q.val) (hsub 0 q.val) (w.cqRing q.val + 64 * head) 64)) ∧
    (∀ (q : Fin 1024) (slot : BitVec 12) (kind : Nat) (c : Instr) (d : HDesc) (l : List Byte) (s : State),
      (kind = 1 ∧ c = .put q slot) ∨ (kind = 2 ∧ c = .get q slot) ∨ (kind = 3 ∧ c = .send q slot) ∨ (kind = 4 ∧ c = .atomic q slot) →
      s.nextDesc q.val slot.toNat kind = some (d, l) →
      let o := s.descHOp d l
      let u := ({ s with hrn.desc := s.hrn.desc.erase d } : State).pushOp o
      let bad := badTarget (le l 8 16) || (kind == 4 && o.m.addr.toNat % awBytes o.m.awidth != 0)
      (u.assigned = false → exec c s = .next (u.endOp o .node)) ∧
      (u.assigned = true → bad = true → exec c s = .next (u.endOp o .decerr)) ∧
      (u.assigned = true → bad = false →
        (∀ pa k, u.bufferBad o.m.srcPocket.toNat o.loc o.buffer.1 o.buffer.2 = some (pa, k) →
          exec c s = .next (u.bufferFail o pa k)) ∧
        (u.bufferBad o.m.srcPocket.toNat o.loc o.buffer.1 o.buffer.2 = none → u.opDown o = true →
          exec c s = .next (u.endOp o .node)) ∧
        (u.bufferBad o.m.srcPocket.toNat o.loc o.buffer.1 o.buffer.2 = none → u.opDown o = false →
          exec c s = .next (u.readLocal o (if kind = 1 ∨ kind = 3 then o.buffer.1 else 0))))) ∧
    (∀ (q : Fin 1024) (slot : BitVec 12) (d : HDesc) (l : List Byte) (s : State),
      let o := s.descHOp d l
      let u := ({ s with hrn.desc := s.hrn.desc.erase d } : State).pushOp o
      (s.nextDesc q.val slot.toNat 0 = some (d, l) →
        exec (.nop q slot) s = .next (u.endOp o (if u.assigned then .ok else .node))) ∧
      (s.nextDesc q.val slot.toNat 5 = some (d, l) →
        ((s.assigned && s.hrn.ops.any fun o => o.q == some q.val) = false →
          exec (.hrnFence q slot) s = .next (u.endOp o (if u.assigned then .ok else .node))) ∧
        ((s.assigned && s.hrn.ops.any fun o => o.q == some q.val) = true → exec (.hrnFence q slot) s = .next s)) ∧
      (s.nextDesc q.val slot.toNat 6 = some (d, l) →
        let o' := { o with loc := o.loc / 64 * 64, m := { o.m with ordered := false } }
        let v := u.updOp o'.serial fun _ => o'
        (o'.m.srcPocket.toNat ≠ 0 → exec (.mgmt q slot) s = .next ((v.err 17 1 2 (unitCode 0x0E 0x3FF) 1
          (v.cqRing q.val + 64 * slot.toNat) (violMisc o'.m.srcPocket.toNat (o'.tag % 4096) 0xC9 0x1FF v.nodeId)).endOp o' .viol)) ∧
        (o'.m.srcPocket.toNat = 0 → v.bufferBad 0 o'.loc 2048 true = none →
          exec (.mgmt q slot) s = .next (v.readLocal o' 64))))

/-- A PUT, GET, SEND or ATOMIC for this node whose budget has not run out and whose checks refuse it is answered with
that response at once (VIOL with its violation); one they accept joins those performed here, its bytes bounded, and
starts unless it must wait; a SEND to a full queue with 64 waiting is counted. A response of no operation is late;
one of a data operation of a hart completes it. A packet for another node leaves with its TTL one less, or is
dropped at TTL 0 or without budget. It rests on the model's choices of assumption 101. -/
def Obligations.HarnessArrivals : Prop :=
  (∀ (kind : Nat) (c : HPkt → Instr) (m : HPkt) (s : State),
      (kind = 1 ∧ c = .putReceive) ∨ (kind = 2 ∧ c = .getReceive) ∨ (kind = 3 ∧ c = .sendReceive) ∨ (kind = 4 ∧ c = .atomicReceive) →
      s.assigned = true → m.dstNode.toNat = s.nodeId →
      let ends := s.tape + m.budget.toNat
      (m.budget = 0 → exec (c m) s = .next ({ s with hrn.drops := s.hrn.drops + 1 } : State).hrnPump) ∧
      (m.budget ≠ 0 →
        (s.admission kind m = .refuse .viol → exec (c m) s =
          .next ((s.hrnViol m m.addr.toNat).respond m ends .viol 0 0 0 []).hrnPump) ∧
        (∀ r, r ≠ .viol → s.admission kind m = .refuse r → exec (c m) s = .next (s.respond m ends r 0 0 0 []).hrnPump) ∧
        ∀ n, s.admission kind m = .bytes n →
          (kind = 3 ∧ s.rqFull m.addr.toNat = true ∧ 64 ≤ s.rqWaiting m.addr.toNat →
            exec (c m) s = .next (s.incF (R.rqPtr m.addr.toNat) F.rqPtr_DROPS).hrnPump) ∧
          (¬ (kind = 3 ∧ s.rqFull m.addr.toNat = true ∧ 64 ≤ s.rqWaiting m.addr.toNat) →
            let h : HIn := { id := s.hrn.nextIn, kind := kind, m := m, ends := ends, bound := n }
            let u : State := { s with hrn.nextIn := s.hrn.nextIn + 1, hrn.inb := s.hrn.inb ++ [h] }
            exec (c m) s = .next (if u.inWaits h then u else u.startIn h).hrnPump))) ∧
    (∀ (m : HPkt) (len off : BitVec 32) (fl : BitVec 5) (s : State),
      let op := s.hrn.ops.find? fun o => o.tag == m.tag.toNat && o.stage == 2
      (op = none → exec (.resp m len off fl) s = .next (s.lateAnswer 17).hrnPump) ∧
      ∀ o, op = some o → ∀ h, o.hart = some h →
        let u := s.unqueue o.serial
        exec (.resp m len off fl) s = .next (u.endOp { o with
          lenDone := len.toNat, violOff := off.toNat, resp := m.resp
          fflags := if o.kind = 4 ∧ m.aop = 10 then some fl.toNat else none
          m := { o.m with payload := m.payload } } m.resp).hrnPump) ∧
    ∀ (t : Fin 5) (m : HPkt) (k : Fin 16) (s : State), s.toSelf m.dstNode.toNat = false →
      let pk := (if t.val = 4 then m.dstPocket else m.srcPocket).toNat
      let u := s.uev 4 0x124 k.val pk
      let cand := u.routeUp m.dstNode.toNat m.ordered pk
      (m.ttl.toNat ≤ 1 ∨ m.budget = 0 →
        (∀ p l, cand = p :: l → exec (.transitForward t m k) s = .next (u.portDrop p)) ∧
        (cand = [] → exec (.transitForward t m k) s = .next { u with hrn.drops := u.hrn.drops + 1 })) ∧
      (1 < m.ttl.toNat → m.budget ≠ 0 → exec (.transitForward t m k) s = .next
        (u.portOut { typ := t.val, id := 0, m := { m with ttl := m.ttl - 1 }, ends := u.tape + m.budget.toNat } pk))

/-- A request that its door's ring holds is fetched, its head advanced; from a world other than the host world each of
CREATE, RANGE_ADD, ARM, DESTROY, SEAL and UNSEAL is a violation, and on a busy pocket BUSY. CREATE of a FREE number
defines the pocket, makes its key and starts its door; one of a number in use is refused. RANGE_ADD of a range that
fits and breaks no seal adds it under the pocket's key, RANGE_REMOVE takes it out; ARM of a defined pocket whose
saved states lie in a private range arms it; SEAL of an armed one seals it unless a condition fails, which the
REASON names; UNSEAL returns it to ARMED; DESTROY of a pocket without blocks ends it FREE. It rests on the model's
choices of assumptions 75 and 76. -/
def Obligations.PocketRequests : Prop :=
  ∀ (d : DoorHdr) (peer : Pocket) (s : State),
    let w := d.world.toNat
    let q := peer.toNat
    let head := s.fld (R.doorPtr w) F.doorPtr_REQ_HEAD
    let pa := s.fld (R.doorCtl w) F.doorCtl_BASE * 4096 + 64 * head
    let u := (s.setF (R.doorPtr w) F.doorPtr_REQ_HEAD ((head + 1) % 64)).uev 4 0x130 0 w
    s.doorReady w = true → s.welt false w pa false = .pass → u.service = true →
    (d.world ≠ 0 → ∀ n st en db base size k ro ad,
      exec (.create d peer n st en db) s = .next (u.doorViol d 1) ∧
      exec (.rangeAdd d peer base size k ro ad) s = .next (u.doorViol d 2) ∧
      exec (.arm d peer) s = .next (u.doorViol d 4) ∧ exec (.destroy d peer) s = .next (u.doorViol d 5) ∧
      exec (.sealPocket d peer) s = .next (u.doorViol d 9) ∧ exec (.unsealPocket d peer) s = .next (u.doorViol d 0xA)) ∧
    (d.world = 0 → peer ≠ 0 → (u.pocket q).busy = true → ∀ n st en db,
      exec (.create d peer n st en db) s = .next (u.doorReply d 1 5 0 q) ∧
      exec (.arm d peer) s = .next (u.doorReply d 4 5 0 q) ∧ exec (.destroy d peer) s = .next (u.doorReply d 5 5 0 q)) ∧
    (d.world = 0 → peer ≠ 0 → (u.pocket q).busy = false →
      (∀ (n : BitVec 9) (st en db : Addr), (u.pocket q).st ≠ .free →
        exec (.create d peer n st en db) s = .next (u.doorReply d 1 1 0 q)) ∧
      (∀ (n : BitVec 9) (st en db : Addr), (u.pocket q).st = .free → q ≤ u.maxPockets → n.toNat ≠ 0 → n.toNat ≤ 256 →
        let a := u.updPocket q fun _ => { st := .defined, slots := n.toNat, stateBase := st.toNat, entryPc := en.toNat, key := true }
        let b := (((a.wr (R.doorCtl q) 0).setF (R.doorCtl q) F.doorCtl_BASE (db.toNat / 4096)).setF (R.doorCtl q) F.doorCtl_ENABLE 1).setF
          (R.doorCtl q) F.doorCtl_STATE 1
        let c := b.wr (R.doorPtr q) 0
        exec (.create d peer n st en db) s =
          .next ((c.wr (R.debugEn q) (BitVec.ofNat 64 (c.debugPolicy q % 4))).doorReply d 1 0 0 q)) ∧
      (∀ (base size : Addr) (k : RangeKind) (ro ad : Bool),
        ((u.pocket q).st = .free ∨ u.rangeFits q base.toNat size.toNat = false →
          exec (.rangeAdd d peer base size k ro ad) s = .next (u.doorReply d 2 1 0 q)) ∧
        ((u.pocket q).st ≠ .free → u.rangeFits q base.toNat size.toNat = true →
          let t := u.updPocket q fun p => { p with ranges := p.ranges ++ [⟨base.toNat, size.toNat, k, ro, false⟩] }
          (∀ reason, u.breaks t = some reason → exec (.rangeAdd d peer base size k ro ad) s = .next (u.doorReply d 2 1 reason q)) ∧
          (u.breaks t = none → exec (.rangeAdd d peer base size k ro ad) s = .next
            ((t.rangeKey base.toNat size.toNat ad).doorReply d 2 0 0 q
              (if ad then sha256 ((t.rangeKey base.toNat size.toNat ad).getList base.toNat size.toNat) else []))))) ∧
      (∀ (base : Addr) (r : PRange), ((u.pocket q).ranges.find? fun r => r.base == base.toNat) = some r →
        u.breaks (u.updPocket q fun p => { p with ranges := p.ranges.filter fun x => x.base != r.base }) = none →
        exec (.rangeRemove d peer base) s = .next ((u.dropRange q r).doorReply d 3 0 0 q)) ∧
      (let p := u.pocket q
       let ok := p.ranges.any fun r => r.kind == .priv && decide (r.base ≤ p.stateBase) &&
         decide (p.stateBase + 0x2000 * p.slots ≤ r.base + r.size)
       (p.st = .defined → ok = true →
         exec (.arm d peer) s = .next ((u.updPocket q fun p => { p with st := .armed }).showMode.doorReply d 4 0 0 q)) ∧
       (p.st ≠ .defined ∨ ok = false → exec (.arm d peer) s = .next (u.doorReply d 4 1 0 q))) ∧
      ((u.pocket q).st ≠ .armed → exec (.sealPocket d peer) s = .next (u.doorReply d 9 1 0 q)) ∧
      (∀ n, (u.pocket q).st = .armed → u.sealFail q = some n → exec (.sealPocket d peer) s = .next (u.doorReply d 9 1 n q)) ∧
      ((u.pocket q).st = .armed → u.sealFail q = none →
        let v := (u.updPocket q fun p => { p with st := .sealed }).showMode
        exec (.sealPocket d peer) s = .next ((((List.range 12).filter fun p => v.panelPocket p == q).foldl (fun x p =>
          ({ x with thm.fix := KMap.set 0 p (x.fld (R.vstate p) F.vstate_IN_FORCE + 1) x.thm.fix } : State).setF (R.vstate p)
            F.vstate_SEALED_FIX 1) v).doorReply d 9 0 0 q)) ∧
      ((u.pocket q).st = .sealed → exec (.unsealPocket d peer) s = .next ((u.unsealed q).doorReply d 0xA 0 0 q)) ∧
      ((u.pocket q).st ≠ .sealed → exec (.unsealPocket d peer) s = .next (u.doorReply d 0xA 1 0 q)) ∧
      ((u.pocket q).st = .free → exec (.destroy d peer) s = .next (u.doorReply d 5 1 0 q)) ∧
      (let v := (u.updPocket q fun p => { p with busy := true })
       let x := (v.harts.map (·.1)).foldl (fun s h =>
          if (s.hart h).hostEntered && (s.hart h).pocket == peer then (s.forceExit h).wakeHart h else s) v
       (u.pocket q).st ≠ .free → (u.pocket q).st ≠ .sealed →
       (u.pock.hand.any fun h => (h.src == q || h.dst == q) && h.step != 7) = false →
       ((x.blocksOf q).filter fun b => (x.findHand b).isNone) = [] → x.destroyWaits q = false →
       exec (.destroy d peer) s = .next (x.destroyEnd q d.seq.toNat)))

/-- With a request fetched: ASSIGN of a block that is there, unowned by another pocket and breaks no seal starts its
hand-over at step 2, of one on its way answers BUSY; RELEASE by a world that does not own the block is a violation,
of one with no hand-over starts its own. MSG between the host world and a pocket that is not FREE is posted to it
and answered OK; between two pockets it is a violation. EXPORT_SET of an entry no other pocket holds writes it with
the sender as DST_POCKET. DEBUG_GRANT lowers the sender's enables, and refuses to raise them without MAY_GRANT.
RANDOM answers 32 bytes drawn from the free source. FABRIC_TAG answers the tag, or is refused without a key;
RESET_VEC sets the panel's register. A door request in Fitting mode other than RANDOM, RESET_VEC and ALTER is
refused, and where the Welt refuses its fetch the door halts. It rests on the model's choices of assumptions 75, 77
and 78. -/
def Obligations.BlockAndMessageRequests : Prop :=
  ∀ (d : DoorHdr) (s : State),
    let w := d.world.toNat
    let head := s.fld (R.doorPtr w) F.doorPtr_REQ_HEAD
    let pa := s.fld (R.doorCtl w) F.doorCtl_BASE * 4096 + 64 * head
    let u := (s.setF (R.doorPtr w) F.doorPtr_REQ_HEAD ((head + 1) % 64)).uev 4 0x130 0 w
    s.doorReady w = true →
    (∀ reason peer body, s.welt false w pa false = .viol reason →
      exec (.msg d peer body) s = .next ((s.violation 0 0xCA pa w 0x08 reason 0).haltDoor w)) ∧
    (s.welt false w pa false = .pass → u.service = false →
      (∀ peer body, exec (.msg d peer body) s = .next (u.doorReply d 0xB 1)) ∧
      exec (.random d) s = .next ((u.randomBytes 32).2.doorReply d 0xE 0 0 0 (u.randomBytes 32).1)) ∧
    (s.welt false w pa false = .pass → u.service = true →
      (∀ (b : Block) (peer : Pocket) (bars : List (Addr × Addr)), d.world = 0 → peer ≠ 0 → (u.pocket peer.toNat).busy = false →
        ((u.findHand b).isSome = true → exec (.assign d b peer bars) s = .next (u.doorReply d 6 5 0 peer.toNat)) ∧
        ((u.findHand b).isSome = false → u.blockThere b = true →
          (match b with | .panel _ => u.armed peer.toNat | _ => (u.pocket peer.toNat).st != .free) = true →
          ((u.blockOwner b).1 && (u.blockOwner b).2 != 0) = false → u.breaks (u.setOwner b true peer.toNat) = none →
          exec (.assign d b peer bars) s = .next (u.handStart
            { block := b, src := 0, dst := peer.toNat, step := 2, world := 0, seq := d.seq.toNat,
              bars := bars.map fun e => (e.1.toNat, e.2.toNat) }))) ∧
      (∀ b : Block,
        (d.world = 0 ∨ (u.blockOwner b).2 ≠ d.world.toNat → exec (.release d b) s = .next (u.doorViol d 8)) ∧
        (d.world ≠ 0 → (u.blockOwner b).2 = d.world.toNat → (u.blockOwner b).1 = true → u.findHand b = none →
          exec (.release d b) s = .next (u.handStart
            { block := b, src := d.world.toNat, dst := 0, step := 2, world := d.world.toNat, seq := d.seq.toNat,
              rel := some d.seq.toNat }).checkSeals)) ∧
      (∀ (peer : Pocket) (body : BitVec 320),
        ((d.world = 0) = (peer = 0) → exec (.msg d peer body) s = .next (u.doorViol d 0xB)) ∧
        ((d.world = 0) ≠ (peer = 0) → (peer = 0 ∨ (u.pocket peer.toNat).st ≠ .free) →
          exec (.msg d peer body) s = .next ((u.doorPost
            { world := peer.toNat, code := 0x83, seq := d.seq.toNat, peer := d.world.toNat,
              args := leBytes 40 body.toNat }).doorReply d 0xB 0 0 peer.toNat))) ∧
      (∀ (e : Fin 4096) (w0 w1 w2 w3 : Word),
        (u.fld (R.export0 e.val) F.export0_VALID = 1 → u.fld (R.export1 e.val) F.export1_DST_POCKET ≠ d.world.toNat →
          exec (.exportSet d e w0 w1 w2 w3) s = .next (u.doorReply d 0xC 1)) ∧
        (u.fld (R.export0 e.val) F.export0_VALID ≠ 1 ∨ u.fld (R.export1 e.val) F.export1_DST_POCKET = d.world.toNat →
          let m := fun (w : Word) hi lo => w.toNat / 2 ^ lo % 2 ^ (hi + 1 - lo)
          let a := ((u.setF (R.export0 e.val) F.export0_VALID (m w0 63 63)).setF (R.export0 e.val) F.export0_RIGHTS (m w0 62 60)).setF
            (R.export0 e.val) F.export0_ANY_POCKET (m w0 59 59)
          let b := (a.setF (R.export0 e.val) F.export0_NODE_LO (m w0 43 29)).setF (R.export0 e.val) F.export0_NODE_HI
            (max (m w0 43 29) (m w0 58 44))
          let c := (b.setF (R.export1 e.val) F.export1_SRC_POCKET (m w1 23 12)).setF (R.export1 e.val) F.export1_DST_POCKET d.world.toNat
          let f := (c.setF (R.export2 e.val) F.export2_BASE (m w2 55 0)).setF (R.export3 e.val) F.export3_LIMIT (max (m w2 55 0) (m w3 55 0))
          exec (.exportSet d e w0 w1 w2 w3) s = .next (f.doorReply d 0xC 0))) ∧
      (∀ inv noninv : Bool,
        let r := R.debugEn w
        let up := (inv && u.fld r F.debugEn_INV == 0) || (noninv && u.fld r F.debugEn_NONINV == 0)
        let v := (u.setF r F.debugEn_INV (if inv then 1 else 0)).setF r F.debugEn_NONINV (if noninv then 1 else 0)
        (up = true → (w != 0 && bit (u.debugPolicy w) 2) = false → exec (.debugGrant d inv noninv) s = .next (u.doorReply d 0xD 1)) ∧
        (up = false ∨ (w != 0 && bit (u.debugPolicy w) 2) = true →
          exec (.debugGrant d inv noninv) s = .next ((if inv then v else v.resumeLowered w).doorReply d 0xD 0))) ∧
      exec (.random d) s = .next ((u.randomBytes 32).2.doorReply d 0xE 0 0 0 (u.randomBytes 32).1) ∧
      (d.world = 0 → ∀ (mop : BitVec 8) (m : MgmtReq) (p : Panel) (pa : Addr),
        (∀ t, u.fabricMac mop.toNat m.newId.toNat m.serial.toNat m.nonce.toNat = some t →
          exec (.fabricTag d mop m) s = .next (u.doorReply d 0xF 0 0 0 t)) ∧
        (u.fabricMac mop.toNat m.newId.toNat m.serial.toNat m.nonce.toNat = none →
          exec (.fabricTag d mop m) s = .next (u.doorReply d 0xF 1)) ∧
        exec (.resetVec d p pa) s = .next ((u.setF (R.resetVec p.val) F.resetVec_ADDR (pa.toNat / 4)).doorReply d 0x11 0)))

/-- A write of DOOR_CTL with ENABLE on a door that is not RUNNING starts it with every pointer at 0, and a write of the
reply head frees entries; a write the check refuses is a violation. A POWER request, once fetched from the host
world, is BUSY while one on its unit runs, REFUSED with its REASON where a rule refuses it, and else served. A panel
that its power-on holds at its reset is reset and re-tagged; a reset fails, and the panel's power-on with it, where
its identity is not read again. It rests on the model's choices of assumptions 3, 75 and 79. -/
def Obligations.DoorsAndPower : Prop :=
  (∀ (a : Agent) (w : Pocket) (base : Addr) (s : State),
      let n := w.toNat
      let r := R.doorCtl n
      (s.ctlCheck a r.addr = .pass →
        let u := if s.fld r F.doorCtl_ENABLE = 1 then s else s.setF r F.doorCtl_BASE (base.toNat / 4096)
        (u.doorRuns n = true → exec (.doorEnable a w base) s = .next ((u.doorPump n).reply a .ok)) ∧
        (u.doorRuns n = false → exec (.doorEnable a w base) s = .next
          (((((u.setF r F.doorCtl_ENABLE 1).setF r F.doorCtl_STATE 1).wr (R.doorPtr n) 0).doorPump n).reply a .ok))) ∧
      (∀ reason, s.ctlCheck a r.addr = .viol reason →
        exec (.doorEnable a w base) s = .next ((s.ctlViolation a r.addr 0x40 reason).reply a .viol))) ∧
    (∀ (a : Agent) (w : Pocket) (v : BitVec 6) (s : State), s.ctlCheck a (R.doorPtr w.toNat).addr = .pass →
      exec (.rplHeadWrite a w v) s =
        .next (((s.setF (R.doorPtr w.toNat) F.doorPtr_RPL_HEAD v.toNat).doorPump w.toNat).reply a .ok)) ∧
    (∀ (d : DoorHdr) (c : Instr) (u0 : PowerUnit) (st : Nat) (s : State),
      (c = .powerOff d u0 ∧ st = 0) ∨ (∃ p, c = .powerDim d p ∧ u0 = .panel p ∧ st = 1) ∨ (c = .powerOn d u0 ∧ st = 2) ∨
        (∃ t, c = .powerQuiet d t ∧ u0 = .llc t ∧ st = 1) →
      let head := s.fld (R.doorPtr 0) F.doorPtr_REQ_HEAD
      let u := (s.setF (R.doorPtr 0) F.doorPtr_REQ_HEAD ((head + 1) % 64)).uev 4 0x130 0 0
      let unit := powerName u0
      let busy := (u.pock.power.any fun r => r.unit == unit) || (u.pock.hand.any fun h => blockInside unit h.block) ||
        (u.pat.heldPower.any fun e => PowerUnit.panel (Fin.ofNat 12 e.2.2) == unit)
      let arg := leBytes 4 (powerCode unit)
      d.world = 0 → s.doorReady 0 = true → s.welt false 0 (s.fld (R.doorCtl 0) F.doorCtl_BASE * 4096 + 64 * head) false = .pass →
      u.service = true →
      (busy = true → exec c s = .next (u.doorReply d 7 5 0 0 arg)) ∧
      (∀ n, busy = false → u.powerRefused unit st = some n → exec c s = .next (u.doorReply d 7 1 n 0 arg)) ∧
      (busy = false → u.powerRefused unit st = none → (∀ p, unit ≠ .panel p) →
        exec c s = .next (u.powerServe 0 d.seq.toNat unit st)) ∧
      (∀ p, busy = false → u.powerRefused unit st = none → unit = .panel p →
        (¬ (st = 2 ∧ u.girthHeld p.val = true) → exec c s = .next (u.powerServe 0 d.seq.toNat unit st)) ∧
        (st = 2 ∧ u.girthHeld p.val = true → exec c s = .next
          { u with pat.heldPower := u.pat.heldPower ++ [(0, d.seq.toNat, p.val)] }))) ∧
    ∀ (p : Panel) (s : State), KMap.get 0 s.thm.up p.val = 2 →
      let u := fun ok => (s.resetPanel p.val ok).handTag p.val ok
      exec (.perPanelReset p true) s = .next { u true with thm.up := KMap.set 0 p.val 3 (u true).thm.up } ∧
      ((u false).boot.pnlWait.contains p.val = false → exec (.perPanelReset p false) s = .next ((u false).railOff p.val).keeperWork) ∧
      ((u false).boot.pnlWait.contains p.val = true → exec (.perPanelReset p false) s = .next ((u false).dropPanel p.val).keeperWork)

/-- GO on an IDLE or HALTED channel with nothing in flight sets it RUNNING, clears RESP and BYTES_DONE and fetches its
descriptor; on another it has no effect. ABORT sets a RUNNING channel STOPPING, and a STOPPING one with nothing in
flight becomes IDLE. Behind a fence that is not OPEN both receive DOMOFF. A source beat of a RUNNING channel is sent
once its credit allows it, and takes its bytes from it. A descriptor all of whose bytes are written goes on to its
status ATOM; the ATOM's old value ends the chain at LAST, else the next descriptor is fetched. It rests on the
model's choices of assumption 92. -/
def Obligations.BobbinChannels : Prop :=
  (∀ (a : Agent) (n : Fin 64) (c : Fin 8) (s : State), s.thm.parkAll = false →
      let r := R.chCtl n.val c.val
      (s.fenceIsOpen (.bob n) = false →
        exec (.chGo a n c) s = .next ((s.fenceDropped (.bob n) (2 ^ 49 + r.addr)).reply a .domoff) ∧
        exec (.chAbort a n c) s = .next ((s.fenceDropped (.bob n) (2 ^ 49 + r.addr)).reply a .domoff)) ∧
      (s.fenceIsOpen (.bob n) = true →
        (∀ reason, s.ctlCheck a r.addr = .viol reason →
          exec (.chGo a n c) s = .next ((s.ctlViolation a r.addr 0x40 reason).reply a .viol)) ∧
        (s.ctlCheck a r.addr = .pass →
          ((s.chanState n.val c.val = 0 ∨ s.chanState n.val c.val = 2) → s.fld r F.chCtl_INFLIGHT = 0 →
            exec (.chGo a n c) s = .next
              (((((s.setF r F.chCtl_STATE 1).setF r F.chCtl_RESP 0).setF (R.chDone n.val c.val) F.chDone_BYTES_DONE 0).chanFetch
                n.val c.val 1).reply a .ok)) ∧
          ((s.chanState n.val c.val = 1 ∨ s.chanState n.val c.val = 3) → exec (.chGo a n c) s = .next (s.reply a .ok)) ∧
          (s.chanState n.val c.val = 1 → exec (.chAbort a n c) s = .next ((s.setF r F.chCtl_STATE 3).reply a .ok)) ∧
          (s.chanState n.val c.val ≠ 1 → exec (.chAbort a n c) s = .next (s.reply a .ok))))) ∧
    (∀ (n : Fin 64) (c : Fin 8) (s : State), s.thm.parkAll = false → s.chanState n.val c.val = 3 →
      s.fld (R.chCtl n.val c.val) F.chCtl_INFLIGHT = 0 →
      exec (.channelStopped n c) s = .next ((s.setF (R.chCtl n.val c.val) F.chCtl_STATE 0).updChan n.val c.val fun x =>
        { x with stage := 0, t := none, buf := [] })) ∧
    (∀ (n : Fin 64) (c : Fin 8) (s : State), s.thm.parkAll = false → s.chanState n.val c.val = 1 →
      let x := s.chan n.val c.val
      x.stage = 2 → x.read < x.len → s.fenceIsOpen (.bob n) = true →
      s.fld (R.chCtl n.val c.val) F.chCtl_INFLIGHT < s.fld (R.chLimit n.val c.val) F.chLimit_MAX_BEATS →
      let o := x.nextBeat.1
      let b := x.nextBeat.2
      let u := s.uev 4 0x110 n.val (s.agentPocket (chanAgent n.val c.val))
      let share := u.chanShare n.val c.val
      let v := if b ≤ x.creditNow share u.tape then u else u.advance (u.tape + (b - x.creditNow share u.tape + share - 1) / share)
      let w := v.updChan n.val c.val fun y => { y with
        read := y.read + b, credit := x.creditNow share v.tape - b, creditAt := v.tape }
      let io := !bit x.ctl 0 && match regionOf (x.srcAt o) with | .mmio _ => true | _ => false
      exec (.sourceBeat n c) s = .next ((w.yokeSend
            { agent := .bobbin n c, eye := 0, txid := 0, op := if io then 0x0E else 0x08,
              pa := BitVec.ofNat 56 (x.srcAt o), size := b, kind := 0, off := o, sub := x.serial }).chanFlight n.val c.val)) ∧
    (∀ (n : Fin 64) (c : Fin 8) (s : State), s.thm.parkAll = false → s.chanState n.val c.val = 1 →
      let x := s.chan n.val c.val
      x.stage = 2 → x.issued = x.len → (bit x.ctl 2 && s.chanBusy n.val c.val) = false →
      let u := if bit x.ctl 3 && decide (x.len < 2) then
        (s.setF (R.chIrq n.val c.val) F.chIrq_HALF 1).chanMsi n.val c.val else s
      exec (.descriptorComplete n c) s = .next ((u.updChan n.val c.val fun x => { x with stage := 3, t := none }).chanAtom n.val c.val .ok)) ∧
    ∀ (n : Fin 64) (c : Fin 8) (r : YReq) (e : LineData × BitVec 4) (s : State), s.thm.parkAll = false →
      s.atomBack n.val c.val = some r → r.got = some e →
      let old := lineNat e.1 (r.pa.toNat % 64) 4
      let u := s.dropYoke r.eye r.txid
      let x := u.chan n.val c.val
      u.chanState n.val c.val = 1 → x.stage = 3 →
      let v := u.setF (R.chDone n.val c.val) F.chDone_DESCS (u.fld (R.chDone n.val c.val) F.chDone_DESCS + 1)
      let w := if bit x.ctl 4 then (v.setF (R.chIrq n.val c.val) F.chIrq_FULL 1).chanMsi n.val c.val else v
      (ctlLast old = true → exec (.statusAtom n c) s = .next
        ((w.setF (R.chCtl n.val c.val) F.chCtl_STATE 0).updChan n.val c.val fun x => { x with stage := 0 })) ∧
      (ctlLast old = false → ctlChain old = 1 → exec (.statusAtom n c) s = .next
        (w.chanNext n.val c.val (w.fld (R.chDesc n.val c.val) F.chDesc_ADDR * 32 + 32))) ∧
      (ctlLast old = false → ctlChain old ≠ 1 → exec (.statusAtom n c) s = .next (w.chanFetch n.val c.val 4))

/-- An acknowledged Vout write puts its value in force, its PENDING cleared, and a wanted newer value is sent; a write
of VREG_FAULT clears it and HOLD and sends the current target. DIM starts for a panel whose enabled harts have all
been parked for DIM_US, goes to VRET_MV once nothing of it is left, and ends with its late invalidations done and
its harts awake; a wake cause aborts or turns it. A QUIET saddle that is waking is ON again. It rests on the model's
choices of assumptions 80 and 82. -/
def Obligations.RailsAndDim : Prop :=
  (∀ (p : Panel) (s : State), KMap.get 0 s.thm.out p.val ≠ 0 → (s.dimOf p.val).stage = 0 → KMap.get 0 s.thm.up p.val ≠ 1 →
      let u := (s.voutClosed p.val).setF (R.vstate p.val) F.vstate_IN_FORCE (KMap.get 0 s.thm.out p.val - 1)
      exec (.voutAck p) s = .next (u.pushVout p.val).keeperWork) ∧
    (∀ (a : Agent) (p : Panel) (s : State), s.ctlCheck a (R.vstate p.val).addr = .pass →
      (s.fld (R.vstate p.val) F.vstate_VREG_FAULT = 0 → exec (.vregFaultClear a p) s = .next (s.reply a .ok)) ∧
      (s.fld (R.vstate p.val) F.vstate_VREG_FAULT ≠ 0 →
        let u := s.setF (R.vstate p.val) F.vstate_VREG_FAULT 0
        exec (.vregFaultClear a p) s =
          .next ((({ u with thm.hold := KMap.erase p.val u.thm.hold } : State).pushVout p.val).reply a .ok))) ∧
    (∀ (p : Panel) (s : State),
      let us := s.limit 0x12 2 1000
      let hs := (panelHarts p.val).filter s.hartOn
      us ≠ 0 → hs ≠ [] → (∀ h ∈ hs, (s.hart h).mode = .park ∨ (s.hart h).mode = .sleep) → s.panelState p.val = 0 →
      (s.dimOf p.val).stage = 0 → s.panelSealed p.val = false → s.fld (R.vstate p.val) F.vstate_VREG_FAULT ≠ 1 →
      exec (.dimEntry p) s =
        .next ((s.advance (hs.foldl (fun a h => max a ((s.hart h).idleAt + 1000 * us)) 0)).dimStart p.val false)) ∧
    (∀ (p : Panel) (s : State), (s.dimOf p.val).stage = 1 →
      let u := s.dimFlush p.val
      (u.dimEmpty p.val = false → exec (.dimLeavingEmpty p) s = .next u) ∧
      (u.dimEmpty p.val = true → exec (.dimLeavingEmpty p) s =
        .next (({ u with thm.dim := KMap.set {} p.val { s.dimOf p.val with stage := 2 } u.thm.dim } : State).pushVout p.val))) ∧
    (∀ (p : Panel) (s : State), (s.dimOf p.val).byReq = false →
      ((panelHarts p.val).any fun h => s.hartOn h && (s.hart h).w.intReady) = true →
      exec (.dimWake p) s = .next (s.dimCause p.val)) ∧
    (∀ (p : Panel) (s : State), (s.dimOf p.val).stage = 4 →
      let u := (s.dimOf p.val).inv.foldl (fun s e => s.updHart (hartNum p.val e.1) fun x => (x.dropL1 e.2).dropL2 e.2) s
      let v := ({ u with thm.dim := KMap.erase p.val u.thm.dim } : State).setPanelState p.val 0
      exec (.dimResume p) s = .next ((panelHarts p.val).foldl State.wakeHart v).keeperWork) ∧
    (∀ (sd : Saddle) (s : State), s.saddleState sd.val = 1 → s.thm.quiet.contains sd.val = true →
      let u := ({ s with thm.quiet := s.thm.quiet.filter (· != sd.val) } : State).setSaddleState sd.val 0
      let v := ((sdCtlrs sd.val).filter fun c => u.fenceState (.mc c) == 2).foldl State.leaveSelfRefresh u
      exec (.quietExit sd) s = .next
        ((List.range 24).foldl (fun s k => s.homeLoop (24 * sd.val + k) ((s.slice (24 * sd.val + k)).heldq.length)) v).keeperWork)

/-- A loop starts at its boundary, samples and filters its channels, evaluates the 64 rules, runs the governor, takes
the actions of the rules it has asserted, sends changed targets and counts itself. A used WAKE pin latches an edge,
or its level. Two readings of one sensor in succession at or above TRIP_C trip; a trip parks the package, asserts
THERMTRIP_N and writes its record. DORMANT is refused while a pocket is not FREE or a POWER request runs, else it
closes the panels first. It rests on the model's choices of assumptions 3, 81, 83 and 84. -/
def Obligations.ThimbleTripAndDormant : Prop :=
  (∀ (k : Fin 8) (s : State), bit (s.prog 4 1) k.val = true →
      (bit (s.prog 3 1) k.val = true →
        exec (.wakePinEdge k true) s = .next { s with thm.edges := setBit s.thm.edges k.val true } ∧
        exec (.wakePinEdge k false) s = .next s) ∧
      (bit (s.prog 3 1) k.val = false →
        exec (.wakePinEdge k true) s = .next { s with thm.levels := setBit (setBit s.thm.levels k.val true) (8 + k.val) true } ∧
        exec (.wakePinEdge k false) s = .next { s with thm.levels := setBit s.thm.levels k.val false })) ∧
    (∀ (x : Samples) (s : State),
      let hot := (List.range 17).filter fun c => decide ((16 * s.limit 9 1 110 : Nat) ≤ x.vals.getD c 0)
      let u : State := { s with thm.hot := hot }
      (hot.find? s.thm.hot.contains = none → exec (.tripComparator x) s = .next u) ∧
      ∀ c, hot.find? s.thm.hot.contains = some c → exec (.tripComparator x) s = .next (u.trip c)) ∧
    (∀ (c : Nat) (s : State), s.fld R.thmStatus F.thmStatus_TRIPPED ≠ 1 →
      let u : State := { s with pins.thermTrip := true, thm.parkAll := true }
      s.trip c = ((u.setF R.thmStatus F.thmStatus_TRIPPED 1).err 16 3 5 (bankUnit 16) 0 0 (protoMisc 0x0A c)).note .trip) ∧
    (∀ (x : Samples) (s : State),
      let u := s.loopStart
      let v := ((u.sampleAll x).evalRules 64).governor
      let w := (List.range 12).foldl State.pushVout (v.actRules u.ruleOn 64)
      exec (.thimbleLoop x) s = .next
        (let y := w.setF R.thmStatus F.thmStatus_LOOPS ((w.fld R.thmStatus F.thmStatus_LOOPS + 1) % 2 ^ 32)
         { y with thm.loop := y.thm.loop + 1 })) ∧
    ∀ (seq : BitVec 16) (keep : Bool) (s : State),
      let bad : State → Bool := fun s => s.pock.p.any (fun e => e.2.st != .free) || !s.pock.power.isEmpty || s.boot.dorm.isSome
      exec (.dormant seq keep) s = .next (s.mbxRun seq.toNat s.service fun s =>
        if bad s then s.mbxEnd seq.toNat 0x80
        else
          let ps := (List.finRange 12).map FenceUnit.panel
          let t := (ps.filter fun u => s.fenceState u != 0).foldl (fun s u => s.keeperFence u false) (s.mbxBegin seq.toNat)
          ({ t with boot.dorm := some (seq.toNat, keep, 1) } : State).dormStep.dormStep)

/-- A slot that is not programmed, or is revoked, verifies no Keeper firmware image, no signed host firmware image and
no pattern or alteration, and an authorised command signed by it leaves the OTP as it was. A REVOKE that would leave
no slot that may sign changes nothing in the OTP, so that from a state with such a slot it leads only to states with
one; and slot 0 is revoked only while some owner slot is programmed and not revoked. -/
def Obligations.KeySlots : Prop :=
  (∀ (s : State) (k : Nat), s.slotSigns k = true ↔ k < 5 ∧ s.slotProgrammed k = true ∧ s.otp.revoked.contains k = false) ∧
    (∀ (s : State) (l : List Byte),
      (s.slotSigns (le (seg l (le l 8 4) 784) 0 1) = false → s.checkFw l ≠ 0) ∧
      (s.slotSigns (le (seg l (le l 16 4) 784) 0 1) = false → bit (le l 4 4) 0 = true → s.checkHost l ≠ 0) ∧
      ∀ alt, s.slotSigns (le (seg l (imgLen l) 784) 0 1) = false → (s.checkImage l alt).1 ≠ 0) ∧
    (∀ (c : Instr) (seq : BitVec 16) (s t : State),
      c = .setFabricKey seq ∨ c = .ownerKey seq ∨ c = .revoke seq ∨ c = .rollback seq ∨ c = .hostVerify seq →
      s.slotSigns (le (s.mbxArg 64 784) 0 1) = false → exec c s = .next t → t.otp = s.otp) ∧
    ∀ (seq : BitVec 16) (s t : State), exec (.revoke seq) s = .next t →
      let k := le (seg (s.mbxArg 0 64) 24 40) 0 1
      ((∀ i, i ≠ k → s.slotSigns i = false) → t.otp = s.otp) ∧
      ((∀ i, 1 ≤ i → s.slotSigns i = false) → k = 0 → t.otp = s.otp) ∧
      ((∃ i, s.slotSigns i = true) → ∃ i, t.slotSigns i = true) ∧
      (s.otp.revoked.contains 0 = false → t.otp.revoked.contains 0 = true → ∃ i, 1 ≤ i ∧ t.slotSigns i = true)

/-- Two states with the same OTP and the same flash (and the same of what is the model's own: the commands that wait,
the counter of free values and the count of memory generations) become one state by the loss of VSTBY, which has
that OTP and that flash, and in which every register and every byte of memory is as after reset; a cold reset on
that state is the cold reset of either one before. -/
def Obligations.StandbyLost : Prop :=
  (∀ s s' t : State, s.otp = s'.otp → s.pat.flash = s'.pat.flash → s.pending = s'.pending → s.freeCtr = s'.freeCtr →
      s.memEpoch = s'.memEpoch → exec .vstbyLoss s = .next t →
      exec .vstbyLoss s' = .next t ∧ t.otp = s.otp ∧ t.pat.flash = s.pat.flash ∧ t.pins.vstby = false ∧
      t.regs = State.reset.regs ∧ t.mem = State.reset.mem ∧ t.harts = State.reset.harts ∧ t.slices = State.reset.slices) ∧
    ∀ (s t : State) (straps : BitVec 2) (resetN testN : Bool), exec .vstbyLoss s = .next t →
      exec (.coldReset straps resetN testN) t = exec (.coldReset straps resetN testN) { s with memEpoch := s.memEpoch + 1 }

/-- A cold reset leaves the package at its reset values but for OTP and flash, with the straps sampled and step 1's
measurement made. At step 2 an accepted image 0 runs, else an accepted image 1, else the Keeper waits for
LOAD_FIRMWARE. RAIL_GOOD at step 5 opens the fences and starts the ports and the Gussets. HAND_OFF at step 8 starts
every enabled hart at host firmware and goes on to step 9. SERVICE_REQ at step 9 in Fitting mode gives every block
to the host world, extends register 7, and enters Service mode; at other times it has no effect. RESET_N low for
1,000 ns is a package warm reset, and a shorter pulse nothing. RAIL_GOOD lost while RAIL_EN is asserted parks the
package. A payload's ecall is kept, and the last one answers the mailbox. It rests on the model's choices of
assumptions 71, 73 and 74. -/
def Obligations.BootSteps : Prop :=
  (∀ (straps : BitVec 2) (resetN testN : Bool) (s : State),
      let r : State := { State.reset with
        pending := s.pending, otp := s.otp, pat.flash := s.pat.flash, freeCtr := s.freeCtr, memEpoch := s.memEpoch + 1
        pins.straps := straps, pins.resetN := resetN, pins.testN := testN, boot.testMode := !testN }
      let u := r.romStart
      exec (.coldReset straps resetN testN) s =
        .next (if straps.getLsbD 1 then u.err 16 0 5 (bankUnit 16) 0 0 (protoMisc 1 0) else u)) ∧
    (∀ s : State, s.atStep 2 = true → s.boot.fwWait = false → s.pins.resetN = true → s.boot.testMode = false →
      let c0 := s.checkFw (KMap.get [] s.pat.flash 0)
      let u := s.setF R.bootStatus F.bootStatus_FW_CODE c0
      let c1 := u.checkFw (KMap.get [] u.pat.flash 1)
      (c0 = 0 → exec .firmwareLoad s = .next (s.runFw (KMap.get [] s.pat.flash 0) 1)) ∧
      (c0 ≠ 0 → c1 = 0 → exec .firmwareLoad s = .next (u.runFw (KMap.get [] u.pat.flash 1) 2)) ∧
      (c0 ≠ 0 → c1 ≠ 0 → exec .firmwareLoad s =
        .next { u.setF R.bootStatus F.bootStatus_FW_CODE c1 with boot.fwWait := true })) ∧
    (∀ s : State,
      let u : State := { s with pins.railGood := true }
      (u.atStep 5 = false → exec .railGood s = .next u) ∧
      (u.atStep 5 = true → s.boot.railT.isSome = true →
        let us := (List.finRange 4).map FenceUnit.llc ++ (List.finRange 8).map FenceUnit.pcie ++ (List.finRange 64).map FenceUnit.bob
        let v := us.foldl (fun s u => (s.setFence u 2).setF (R.fenceCmd u) F.fenceCmd_ON 1) ({ u with boot.railT := none } : State)
        let w := ((List.range 4).foldl (fun s t => s.setSaddleState t 0) v).startPorts
        exec .railGood s = .next
          (allGusEnds.foldl (fun s e => (s.setF (R.gusStatus e) F.gusStatus_LOCAL_GOOD 0xFFFF).gusStart e 1) w))) ∧
    (∀ s : State, s.atStep 8 = true → s.boot.hold = false → s.boot.payload = none →
      let b := s.handOffAt
      let keep := fun x => (decide (s.boot.load ≤ x) && decide (x < s.boot.load + s.boot.len)) || (decide (b ≤ x) && decide (x < b + 1632))
      let u := s.clearBytes s.boot.hvBase keep s.boot.fwHv.length
      let v := u.allHarts.foldl (fun s h => s.updHart h fun x =>
        { x with w := ({ x.w with priv := 3, virt := false, pc := BitVec.ofNat 64 (s.boot.load + s.boot.entry) }.setX 10
                        (BitVec.ofNat 64 h)).setX 11 (BitVec.ofNat 64 b) }) u
      exec .handOff s = .next (v.setStep (if v.service then 10 else 9))) ∧
    (∀ (a : Agent) (s : State), s.ctlCheck a R.serviceReq.addr = .pass →
      (s.atStep 9 = true → s.service = false → exec (.serviceReq a) s = .next
        ((((s.hostOwners.extendMeas 7 (sha256 (ascii "SERVICE"))).setStep 10).setF R.kprMode F.kprMode_SERVICE 1).reply a .ok)) ∧
      (s.atStep 9 = false ∨ s.service = true → exec (.serviceReq a) s = .next (s.reply a .ok))) ∧
    (∀ (ns : BitVec 32) (rises : Bool) (s : State), s.pins.vstby = true →
      (s.pins.resetN = true → 1000 ≤ ns.toNat → exec (.resetN ns rises) s =
        .next { (s.advance (s.tape + 1000)).warmAll with pins.resetN := rises }) ∧
      (s.pins.resetN = true → ns.toNat < 1000 → exec (.resetN ns rises) s = .next s) ∧
      (s.pins.resetN = false → exec (.resetN ns rises) s = .next { s with pins.resetN := rises })) ∧
    (∀ s : State, exec .packageWarmReset s = .next s.warmAll) ∧
    (∀ s : State,
      (((s.pcie 8).sub 0).up = true → exec .svcPerstN s = .next (s.subDown 8 0).svcLink) ∧
      (((s.pcie 8).sub 0).up = false → exec .svcPerstN s = .next s)) ∧
    (∀ s : State, s.pins.railGood = true →
      let u : State := { s with pins.railGood := false }
      (s.pins.railEn = false → exec .supplyLost s = .next u) ∧
      (s.pins.railEn = true → exec .supplyLost s = .next
        ((({ u with thm.parkAll := true } : State).err 16 3 5 (bankUnit 16) 0 0 (protoMisc 0x0C 0)).note .supply))) ∧
    ∀ (h : HartId) (p : Payload) (s : State), s.boot.payload = some p → p.harts.contains h.num = true →
      (s.hart h.num).w.virt = true → (s.hart h.num).w.priv = 1 →
      let p' := { p with harts := p.harts.filter (· != h.num), a0 := p.a0 ++ [(h.num, (s.hart h.num).w.xr 10)] }
      let u := s.trap h.num 10
      (p'.harts.isEmpty = false → exec (.payloadEcall h) s = .next { u with boot.payload := some p' }) ∧
      (p'.harts.isEmpty = true → exec (.payloadEcall h) s =
        .next (({ u with boot.payload := none } : State).payloadReply p' |>.mbxEnd p.seq 0))

/-- A command written while one runs is rejected and counted, RESULT left as it was; one its boot step does not allow
ends with STEP. LOAD_FIRMWARE runs the staged image where it is accepted. FITTING keeps HOLD. RUN_PAYLOAD places a
checked image and starts every enabled hart in it. QUOTE leaves a quote in the reply area; EXTEND extends one of
registers 8 to 15 and refuses others. WARM_RESET resets. RESET_SADDLE is refused while a panel of the saddle, or its
LLC, is not OFF. An authorised command whose body or signature does not verify ends with 0x81; one that does is run,
and the nonce is renewed: a fabric key is taken, an unprogrammed owner slot programmed, a rollback count raised,
HOST_VERIFY set. It rests on the model's choices of assumptions 67 and 70. -/
def Obligations.MailboxCommands : Prop :=
  ∀ (seq : BitVec 16) (s : State),
    let u := s.setF R.mbxCmd F.mbxCmd_SEQ seq.toNat
    let auth : List Instr := [.setFabricKey seq, .ownerKey seq, .revoke seq, .rollback seq, .hostVerify seq]
    let body := u.mbxArg 0 64
    let block := u.mbxArg 64 784
    let arg := seg body 24 40
    let good := le body 8 8 = (u.rd R.mbxNonce).toNat ∧ le body 16 8 = (u.rd R.pkgSerial).toNat ∧ u.sigCheck body block = none
    (u.mbxBusy = true → ∀ c ∈ (.loadFirmware seq :: .runPayload seq :: .fitting seq true :: auth), exec c s = .next
      ((u.setF R.mbxStatus F.mbxStatus_REJECTS ((u.fld R.mbxStatus F.mbxStatus_REJECTS + 1) % 256)).setF R.mbxStatus
        F.mbxStatus_REJECTED_SEQ seq.toNat)) ∧
    (u.mbxBusy = false →
      ((s.atStep 2 && s.boot.fwWait) = false → exec (.loadFirmware seq) s = .next (u.mbxEnd seq.toNat 0x84)) ∧
      ((s.atStep 2 && s.boot.fwWait) = true →
        (u.checkFw u.pat.staging = 0 → exec (.loadFirmware seq) s =
          .next (((u.runFw u.pat.staging 3).svcMsix 3).mbxEnd seq.toNat 0)) ∧
        (∀ c, c ≠ 0 → u.checkFw u.pat.staging = c → exec (.loadFirmware seq) s =
          .next (((u.setF R.bootStatus F.bootStatus_FW_CODE c).svcMsix 3).mbxEnd seq.toNat c))) ∧
      (∀ hold, 2 ≤ s.bootStep → s.bootStep ≤ 8 → exec (.fitting seq hold) s =
        .next (({ u with boot.hold := hold } : State).mbxEnd seq.toNat 0)) ∧
      ((s.atStep 8 && s.boot.hold) = true →
        let l := u.pat.staging
        (u.checkHost l ≠ 0 → exec (.runPayload seq) s = .next ((u.svcMsix 3).mbxEnd seq.toNat (u.checkHost l))) ∧
        (u.checkHost l = 0 → u.onlineRange (le l 8 8) (le l 16 4) = true →
          let v := u.setList (le l 8 8) (l.take (le l 16 4))
          let w := u.allHarts.foldl (fun s h => s.updHart h fun x =>
            { x with
              mode := .run, wait := .none
              w := { x.w with priv := 1, virt := true, pc := BitVec.ofNat 64 (le l 8 8 + le l 20 4) } }) v
          exec (.runPayload seq) s = .next
            (({ w with boot.payload := some { seq := seq.toNat, t := w.timer 18 2, harts := u.allHarts } } : State).svcMsix 3 |>.mbxBegin
              seq.toNat))) ∧
      (s.fwRuns = true →
        (∀ nonce, exec (.quote seq nonce) s =
          .next (((u.quoteOver nonce.toNat).2.mbxReply 0 (u.quoteOver nonce.toNat).1).mbxEnd seq.toNat 0)) ∧
        (∀ (n : BitVec 8) (d : BitVec 256), 8 ≤ n.toNat → n.toNat ≤ 15 → exec (.extend seq n d) s =
          .next ((u.extendMeas n.toNat (leBytes 32 d.toNat)).mbxEnd seq.toNat 0)) ∧
        (∀ (n : BitVec 8) (d : BitVec 256), n.toNat < 8 ∨ 15 < n.toNat → exec (.extend seq n d) s = .next (u.mbxEnd seq.toNat 0x80))) ∧
      (s.pins.vstby = true → exec (.warmReset seq) s = .next u.warmAll) ∧
      (s.service = true → ∀ (sd : Saddle) (ok : Bool), (u.saddleReason sd.val).isSome = true ∨ u.saddleState sd.val ≠ 2 →
        exec (.resetSaddle seq sd ok) s = .next (u.mbxEnd seq.toNat 0x80)) ∧
      (s.service = true → ∀ sd : Saddle, (u.saddleReason sd.val) = none → u.saddleState sd.val = 2 →
        let mine := allGusEnds.filter fun e => match e with | .saddle t _ => t.val == sd.val | .yoke _ => false
        let v := (sdCtlrs sd.val).foldl State.configMc (((u.scrubSaddle sd.val).refreshAllow.refreshBolts).configSaddle sd.val)
        let w := mine.foldl (fun s e => (s.setF (R.gusStatus e) F.gusStatus_LOCAL_GOOD 0xFFFF).gusStart e 1) v
        exec (.resetSaddle seq sd true) s = .next
          (((mine.filterMap GusEnd.peer).foldl (fun s e => if s.gusState e = 0 then s else s.gusReopen e) w).mbxEnd seq.toNat 0)) ∧
      (¬ good → ∀ c ∈ [Instr.ownerKey seq, .revoke seq, .rollback seq, .hostVerify seq], exec c s = .next (u.mbxEnd seq.toNat 0x81)) ∧
      (good →
        (s.fwRuns = true → le body 0 2 = 0x10 →
          let k := leNat (seg arg 0 32)
          exec (.setFabricKey seq) s = .next (((({ u with otp.fabricKey := some k, boot.fabKey := some k } : State).setF R.fuseState
            F.fuseState_FABRIC_KEY 1).newNonce).mbxEnd seq.toNat 0)) ∧
        (le body 0 2 = 0x11 →
          let k := le arg 0 1
          (1 ≤ k → k ≤ 4 → u.slotProgrammed k = false → exec (.ownerKey seq) s = .next
            ((({ u with otp.keys := KMap.insert k (leNat (seg arg 8 32)) u.otp.keys } : State).showFuses.newNonce).mbxEnd seq.toNat 0)) ∧
          (u.slotProgrammed k = true → exec (.ownerKey seq) s = .next (u.newNonce.mbxEnd seq.toNat 0x80))) ∧
        (le body 0 2 = 0x12 →
          let k := le arg 0 1
          let others := (List.range 5).filter fun i => i != k && u.slotSigns i
          (k = le block 0 1 → exec (.revoke seq) s = .next (u.mbxEnd seq.toNat 0x81)) ∧
          (k ≠ le block 0 1 → k ≤ 4 → others ≠ [] → (k = 0 → others.any (· != 0) = true) → exec (.revoke seq) s = .next
            ((({ u with otp.revoked := if u.otp.revoked.contains k then u.otp.revoked else k :: u.otp.revoked } : State).showFuses.newNonce).mbxEnd
              seq.toNat 0))) ∧
        (le body 0 2 = 0x13 →
          let v := min 64 (le arg 1 1)
          (le arg 0 1 = 0 → exec (.rollback seq) s = .next
            ((({ u with otp.fwRoll := max u.otp.fwRoll v } : State).showFuses.newNonce).mbxEnd seq.toNat 0)) ∧
          (le arg 0 1 = 1 → exec (.rollback seq) s = .next
            ((({ u with otp.patRoll := max u.otp.patRoll v } : State).showFuses.newNonce).mbxEnd seq.toNat 0))) ∧
        (le body 0 2 = 0x14 → exec (.hostVerify seq) s = .next
          ((({ u with otp.hostVerify := true } : State).showFuses.newNonce).mbxEnd seq.toNat 0))))

/-- Before Keeper firmware runs no request is answered, and one sent before the exchanges it follows is answered
UnexpectedRequest. GET_VERSION begins the exchanges and NEGOTIATE_ALGORITHMS ends them. GET_DIGESTS and
GET_CERTIFICATE give slot 0's chain, GET_MEASUREMENTS the SHA-256 digests of the registers asked for, all 16 for
index 0xFF, with the value type of R432. Another slot or index is InvalidRequest. No request changes anything but
the responses sent, the place in the exchanges, and the source of free values. The bytes around the rules' own
contents are SPDM 1.2's and PRESUMED; nonces and signatures are free. It rests on the model's choices of assumption
66. -/
def Obligations.SpdmResponses : Prop :=
  (∀ (c : Instr) (s : State) (slot index : BitVec 8) (off len : BitVec 16) (n : BitVec 256),
      c ∈ ([.getVersion, .getCapabilities, .negotiateAlgorithms, .getDigests, .getCertificate slot off len, .challenge slot n,
        .getMeasurements index n] : List Instr) →
      (s.fwRuns = false → exec c s = .next s) ∧
      (∀ t, exec c s = .next t →
        t = { s with boot.spdm := t.boot.spdm, boot.certs := t.boot.certs, freeCtr := t.freeCtr })) ∧
    (∀ (c : Instr) (s : State) (slot index : BitVec 8) (off len : BitVec 16) (n : BitVec 256), s.fwRuns = true →
      (s.boot.spdm < 1 ∧ c = .getCapabilities) ∨ (s.boot.spdm < 2 ∧ c = .negotiateAlgorithms) ∨
        (s.boot.spdm < 3 ∧
          c ∈ ([.getDigests, .getCertificate slot off len, .challenge slot n, .getMeasurements index n] : List Instr)) →
      exec c s = .next { s with boot.certs := [0x12#8, 0x7F#8, 0x04#8, 0x00#8] :: s.boot.certs }) ∧
    (∀ s : State, s.fwRuns = true →
      exec .getVersion s = .next
        { s with boot.spdm := 1, boot.certs := [0x10#8, 0x04#8, 0#8, 0#8, 0#8, 1#8, 0x00#8, 0x12#8] :: s.boot.certs } ∧
      (1 ≤ s.boot.spdm → ∃ r : List Byte, r.length = 20 ∧ exec .getCapabilities s =
        .next { s with boot.spdm := max 2 s.boot.spdm, boot.certs := r :: s.boot.certs }) ∧
      (2 ≤ s.boot.spdm → ∃ r : List Byte, r.length = 36 ∧ exec .negotiateAlgorithms s =
        .next { s with boot.spdm := 3, boot.certs := r :: s.boot.certs })) ∧
    ∀ s : State, s.fwRuns = true → 3 ≤ s.boot.spdm →
      exec .getDigests s = .next
        { s with boot.certs := ([0x12#8, 0x01#8, 0x00#8, 0x01#8] ++ sha256 Config.certChain) :: s.boot.certs } ∧
      (∀ (slot : BitVec 8) (off len : BitVec 16),
        let c := Config.certChain
        let part := (c.drop off.toNat).take (min len.toNat 16376)
        let r := leBytes 2 part.length ++ leBytes 2 (c.length - off.toNat - part.length) ++ part
        (slot.toNat % 16 = 0 → off.toNat < c.length → exec (.getCertificate slot off len) s =
          .next { s with boot.certs := ([0x12#8, 0x02#8, 0x00#8, 0x00#8] ++ r) :: s.boot.certs }) ∧
        (slot.toNat % 16 ≠ 0 ∨ c.length ≤ off.toNat → exec (.getCertificate slot off len) s =
          .next { s with boot.certs := [0x12#8, 0x7F#8, 0x01#8, 0x00#8] :: s.boot.certs })) ∧
      (∀ (slot : BitVec 8) (n : BitVec 256),
        let (a, u) := s.randomBytes 32
        let (sig, v) := u.randomBytes 384
        (slot.toNat % 16 = 0 → exec (.challenge slot n) s = .next { v with
          boot.certs := ([0x12#8, 0x03#8, 0x00#8, 0x01#8] ++ sha256 Config.certChain ++ a ++ sha256 s.allMeas ++ leBytes 2 0 ++ sig) ::
            s.boot.certs }) ∧
        (slot.toNat % 16 ≠ 0 → exec (.challenge slot n) s =
          .next { s with boot.certs := [0x12#8, 0x7F#8, 0x01#8, 0x00#8] :: s.boot.certs })) ∧
      ∀ (index : BitVec 8) (n : BitVec 256),
        let i := index.toNat
        let (a, u) := s.randomBytes 32
        let (sig, v) := u.randomBytes 384
        let block := fun k : Nat =>
          leBytes 1 k ++ [0x01#8] ++ leBytes 2 35 ++
            leBytes 1 (if k = 1 then 0 else if k = 2 ∨ k = 7 then 1 else if k = 3 ∨ k = 4 then 2 else 3) ++ leBytes 2 32 ++ s.measBytes (k - 1)
        let answer := fun (p k : Nat) (l : List Byte) => [0x12#8, 0x60#8] ++ leBytes 1 p ++ [0x00#8] ++ leBytes 1 k ++
          leBytes 3 l.length ++ l ++ a ++ leBytes 2 0 ++ sig
        let all := (List.range 16).flatMap fun k => block (k + 1)
        (1 ≤ i → i ≤ 16 → exec (.getMeasurements index n) s =
          .next { v with boot.certs := answer 0 1 (block i) :: s.boot.certs }) ∧
        (i = 0xFF → exec (.getMeasurements index n) s = .next { v with boot.certs := answer 0 16 all :: s.boot.certs }) ∧
        (i = 0 → exec (.getMeasurements index n) s = .next { v with boot.certs := answer 16 0 [] :: s.boot.certs }) ∧
        (16 < i → i < 0xFF → exec (.getMeasurements index n) s =
          .next { s with boot.certs := [0x12#8, 0x7F#8, 0x01#8, 0x00#8] :: s.boot.certs })

/-- Counter 3 to 10 of a hart wraps to 0 and sets OF, and interrupt 13 of the host world pends where OF was 0; an
inhibited or frozen counter, and one that does not exist, does nothing. ARM, ARM_FREEZE and THAW have no effect
while an operation is ARMED; otherwise TIME is raised to the least lead and the operation waits. At TIME each stop
that has the operation copies its counters with the new SEQ, for ARM and ARM_FREEZE, and stops or restarts them, for
ARM_FREEZE and THAW; PARTIAL says whether an open stop missed it. A panel's copy holds each present hart's mcycle,
the Tape, minstret and mhpmcounter3 to 10, and changes no other register. That the counter wraps at the command, and
which stops hear of it, are the model's choices. It rests on the model's choices of assumptions 31 and 105. -/
def Obligations.CountersAndSnapshots : Prop :=
  (∀ (h : HartId) (k : Fin 32) (s : State),
      let live := 3 ≤ k.val ∧ k.val ≤ 10 ∧ s.frozenAt h.panel.val = false ∧ bit ((s.hart h.num).w.csrVal 0x320).toNat k.val = false
      let u := s.setCsr h.num (0xB00 + k.val) 0
      let v := (u.csr h.num (0x320 + k.val)).toNat
      let w := u.setCsr h.num (0x320 + k.val) (BitVec.ofNat 64 (setBit v 63 true))
      let pend := fun w : World => w.setCsr 0x344 (BitVec.ofNat 64 (setBit (w.csrVal 0x344).toNat 13 true))
      (¬ live → exec (.counterOverflow h k) s = .next s) ∧
      (live → bit v 63 = true → exec (.counterOverflow h k) s = .next w) ∧
      (live → bit v 63 = false → exec (.counterOverflow h k) s = .next (w.updHart h.num fun x =>
        match x.host with
        | some y => { x with host := some (pend y) }
        | none => { x with w := pend x.w }))) ∧
    (∀ (c : Instr) (op : Nat) (s : State), (c = .snapArm ∧ op = 1) ∨ (c = .armFreeze ∧ op = 2) ∨ (c = .thaw ∧ op = 3) →
      (s.fld R.snapCtl F.snapCtl_STATE = 1 → exec c s = .next s) ∧
      (s.fld R.snapCtl F.snapCtl_STATE ≠ 1 →
        let least := s.tape + clampN 1000 1000000 (s.cfg 0x120 0xFFFF 8 4 1000)
        let u := s.wr R.snapTime (BitVec.ofNat 64 (max (s.rd R.snapTime).toNat least))
        exec c s = .next { u.setF R.snapCtl F.snapCtl_STATE 1 with cnt.op := op })) ∧
    (∀ (missed : BitVec 17) (s : State),
      (s.fld R.snapCtl F.snapCtl_STATE ≠ 1 → exec (.snapshotTake missed) s = .next s) ∧
      (s.fld R.snapCtl F.snapCtl_STATE = 1 →
        let u := s.advance (s.rd R.snapTime).toNat
        let on := (List.range 17).filter fun i => u.stopLive i && !missed.getLsbD i
        let part := if (List.range 17).any fun i => u.stopOpen i && missed.getLsbD i then 1 else 0
        let seq := (u.fld R.snapCtl F.snapCtl_SEQ + 1) % 65536
        let copied := (on.foldl (fun s i => s.shadowStop seq i) u).setF R.snapCtl F.snapCtl_SEQ seq
        let done := fun x : State => .next
          { (x.setF R.snapCtl F.snapCtl_PARTIAL part).setF R.snapCtl F.snapCtl_STATE 2 with cnt.op := 0 }
        (s.cnt.op = 1 → exec (.snapshotTake missed) s = done copied) ∧
        (s.cnt.op = 2 → exec (.snapshotTake missed) s =
          done ((on.foldl (fun s i => s.freezeStop true i) copied).setF R.snapCtl F.snapCtl_FROZEN 1)) ∧
        (s.cnt.op = 3 → exec (.snapshotTake missed) s =
          done ((on.foldl (fun s i => s.freezeStop false i) u).setF R.snapCtl F.snapCtl_FROZEN 0)))) ∧
    ∀ (s : State) (seq p : Nat), p < 12 →
      let t := s.shadowStop seq p
      t.rd (R.pnlSnapSeq p) = BitVec.ofNat 64 seq ∧
      (∀ c, c < 20 → s.hartPresent (hartNum p c) = true →
        let w := (s.hart (hartNum p c)).w
        t.rd (R.hartShadow p c 0) = w.csrVal 0xB00 ∧ t.rd (R.hartShadow p c 1) = BitVec.ofNat 64 s.tape ∧
        t.rd (R.hartShadow p c 2) = w.csrVal 0xB02 ∧
        ∀ i, i < 8 → t.rd (R.hartShadow p c (3 + i)) = w.csrVal (0xB03 + i)) ∧
      (∀ q : Reg, q.addr ≠ (R.pnlSnapSeq p).addr → (∀ c k, c < 20 → k < 11 → q.addr ≠ (R.hartShadow p c k).addr) → t.rd q = s.rd q) ∧
      ∃ r, t = { s with regs := r }

/-- EXTEST is selected and, unless RESET_N is low, acts as BYPASS. SAMPLE/PRELOAD shifts out what the cells capture and
shifts in the next values. BYPASS passes one bit behind a 0, DTMCS gives version and abits 7, Test-Logic-Reset loads
BYPASS and frees PATH_LOCK. PATH_LOCK is taken while free, released by its holder, and no other write changes it. A
DMI scan gives the last access's outcome and performs this one; while the other path holds the lock it does nothing
and reads 0, but for reads of PATH_LOCK. dmcontrol's haltreq for a present hart is a halt request. It rests on the
model's choices of assumption 106. -/
def Obligations.JtagAndPathLock : Prop :=
  (∀ s : State,
      (s.pins.resetN = false → exec .extest s = .next { s with dbg.ir := 0 }) ∧
      (s.pins.resetN = true → exec .extest s = .next { s with dbg.ir := 0, dbg.byp := false })) ∧
    (∀ (pads v : BitVec 120) (s : State), ∃ c : BitVec 120,
      exec (.samplePreload pads v) s = .next { s with dbg.ir := 1, dbg.bsr := v, dbg.tdo := c.toNat :: s.dbg.tdo } ∧
      c.getLsbD 0 = s.pins.straps.getLsbD 1 ∧ c.getLsbD 1 = s.pins.straps.getLsbD 0 ∧ c.getLsbD 2 = s.pins.testN ∧
      c.getLsbD 11 = s.pins.resetN ∧ c.getLsbD 13 = s.pins.railGood ∧ c.getLsbD 14 = s.pins.railEn ∧
      c.getLsbD 16 = !s.pins.errFatal ∧ c.getLsbD 18 = !s.pins.alert ∧ c.getLsbD 20 = !s.pins.thermTrip ∧
      ∀ i, i < 120 → i ∉ [0, 1, 2, 11, 13, 14, 16, 18, 20] → c.getLsbD i = pads.getLsbD i) ∧
    (∀ (tdi : Bool) (s : State), exec (.bypass tdi) s = .next { s with dbg.ir := 0x1F, dbg.byp := tdi, dbg.tdo := 0 :: s.dbg.tdo }) ∧
    (∀ (v : BitVec 32) (s : State), exec (.dtmcs v) s = .next
      { s with dbg.ir := 0x10, dbg.tdo := 0x71 :: s.dbg.tdo, dbg.dmiOut := if v.getLsbD 17 then 0 else s.dbg.dmiOut }) ∧
    (∀ s : State, exec .testLogicReset s = .next { s.wr R.pathLock 0 with dbg.ir := 0x1F }) ∧
    (∀ (svc : Bool) (v : BitVec 2) (s : State),
      let own := if svc then 2 else 1
      let holder := s.fld R.pathLock F.pathLock_HOLDER
      (holder = 0 → v.toNat = own → exec (.pathLock svc v) s = .next (s.setF R.pathLock F.pathLock_HOLDER own)) ∧
      (holder = own → v.toNat = 0 → exec (.pathLock svc v) s = .next (s.setF R.pathLock F.pathLock_HOLDER 0)) ∧
      (¬ (holder = 0 ∧ v.toNat = own) → ¬ (holder = own ∧ v.toNat = 0) → exec (.pathLock svc v) s = .next s)) ∧
    ∀ (addr : BitVec 7) (data : BitVec 32) (op : BitVec 2) (s : State),
      let u : State := { s with dbg.ir := 0x11, dbg.tdo := s.dbg.dmiOut :: s.dbg.tdo }
      let n := addr.toNat
      let out : State → Nat → Host.Outcome State Fault Refusal := fun x v => .next { x with dbg.dmiOut := n <<< 34 + v <<< 2 }
      let barred := s.fld R.pathLock F.pathLock_HOLDER ≠ 0 ∧ s.fld R.pathLock F.pathLock_HOLDER ≠ 1
      (op.toNat = 0 ∨ op.toNat = 3 → exec (.dmi addr data op) s = out u 0) ∧
      (op.toNat = 1 → barred → n ≠ 0x71 → exec (.dmi addr data op) s = out u 0) ∧
      (op.toNat = 1 → ¬ barred ∨ n = 0x71 → exec (.dmi addr data op) s = out (u.dmRead false n).2 (u.dmRead false n).1) ∧
      (op.toNat = 1 → n = 0x71 → (u.dmRead false n).1 = s.fld R.pathLock F.pathLock_HOLDER) ∧
      (op.toNat = 2 → barred → n ≠ 0x71 → exec (.dmi addr data op) s = out u data.toNat) ∧
      (op.toNat = 2 → ¬ barred ∨ n = 0x71 → exec (.dmi addr data op) s = out (u.dmWrite false n data.toNat) data.toNat) ∧
      (op.toNat = 2 → ¬ barred → n = 0x10 → data.toNat % 2 = 0 → exec (.dmi addr data op) s = out u.absSettle.dmReset data.toNat) ∧
      (op.toNat = 2 → ¬ barred → n = 0x10 → ∀ h : HartId, data.toNat = 2 ^ 31 + h.num * 2 ^ 16 + 1 →
        let a := u.absSettle
        let b : State := { a with dbg.active := true, dbg.hartsel := h.num }
        b.hartPresent h.num = true → exec (.dmi addr data op) s = out (b.haltReq h.num) data.toNat)

/-- A halt request stays pending, and changes nothing else, while the hart's world has INV 0; where INV is 1 a running
hart halts, its pc kept, dcsr's cause 3 and its privilege saved. A resume returns a halted hart to run at the
privilege dcsr names, and has no effect on another. Abstract commands on a hart that is not halted, or whose world
has INV 0, fail with cmderr 4; a register of the wrong size fails with 2, an absent or barred CSR with 3, a hole in
the address map with 5, and every command waits for an error to be cleared. A register read puts its value in the
data registers, a register write takes it from them. ndmreset is a package warm reset if the host world's INV is 1,
else ignored. cmderr's values are External Debug Support's. It rests on the model's choices of assumptions 107 and
109. -/
def Obligations.HaltAndAbstractCommands : Prop :=
  (∀ (h : HartId) (s : State), s.inv (s.hart h.num).pocket.toNat = false →
      exec (.haltRequest h) s = .next (s.updHart h.num fun x => { x with haltReq := true })) ∧
    (∀ (h : HartId) (s : State), s.inv (s.hart h.num).pocket.toNat = true → (s.hart h.num).mode = .run → (s.hart h.num).wait = .none →
      ∃ t : State, exec (.haltRequest h) s = .next t ∧
        (∀ k, k ≠ h.num → t.hart k = s.hart k) ∧
        let x := s.hart h.num
        let y := t.hart h.num
        y.mode = .halted ∧ y.haltReq = false ∧
        (x.ra = none → y.pocket = x.pocket ∧ y.w.pc = x.w.pc ∧ (∀ i, y.w.xr i = x.w.xr i) ∧ (∀ i, y.w.fr i = x.w.fr i) ∧
          bitsAt (y.w.csrVal 0x7B0) 6 3 = 3 ∧ (x.w.priv < 4 → bitsAt (y.w.csrVal 0x7B0) 0 2 = x.w.priv) ∧
          ∀ n, n ≠ 0x7B0 → y.w.csrVal n = x.w.csrVal n)) ∧
    (∀ (h : HartId) (s : State),
      let x := s.hart h.num
      let d := x.w.csrVal 0x7B0
      (x.mode ≠ .halted → exec (.resumeRequest h) s = .next s) ∧
      (x.mode = .halted →
        let u := s.updHart h.num fun x => { x with mode := .run, wait := .none, w := { x.w with priv := bitsAt d 0 2, virt := bitsAt d 5 1 == 1 } }
        let v : State := { u with dbg.resumeAck := if u.dbg.resumeAck.contains h.num then u.dbg.resumeAck else h.num :: u.dbg.resumeAck }
        exec (.resumeRequest h) s = .next (v.pollInt h.num))) ∧
    (∀ (h : HartId) (r : DbgReg) (isWrite : Bool) (size : BitVec 3) (s : State),
      let a := s.absSettle
      let k := h.num
      let w := (a.hart k).w
      let n := 2 ^ size.toNat
      let wide := match r with | .fpr _ => 16 | _ => 8
      let sized := 2 ≤ size.toNat ∧ size.toNat ≤ 4 ∧ n ≤ wide
      let able := (a.hart k).mode = .halted ∧ a.inv (a.hart k).pocket.toNat = true
      let cmd := Instr.accessRegister h r isWrite size
      (a.dbg.cmderr ≠ 0 → exec cmd s = .next a) ∧
      (a.dbg.cmderr = 0 → a.dbg.abs = none →
        (¬ sized → exec cmd s = .next { a with dbg.cmderr := 2 }) ∧
        (sized → ¬ able → exec cmd s = .next { a with dbg.cmderr := 4 }) ∧
        (sized → able →
          (∀ c, r = .csr c → w.dbgCsr c.toNat isWrite = false → exec cmd s = .next { a with dbg.cmderr := 3 }) ∧
          (isWrite = false → ∀ i, r = .gpr i → exec cmd s = .next (a.setDbgData 0 n ((w.xr i.val).toNat % 2 ^ (8 * n)))) ∧
          (isWrite = false → ∀ i, r = .fpr i → exec cmd s = .next (a.setDbgData 0 n ((w.fr i.val).toNat % 2 ^ (8 * n)))) ∧
          (isWrite = false → ∀ c, r = .csr c → w.dbgCsr c.toNat false = true →
            exec cmd s = .next (a.setDbgData 0 n (a.dbgCsrGet k c.toNat % 2 ^ (8 * n)))) ∧
          (isWrite = true → size.toNat = 3 → ∀ i, r = .gpr i → exec cmd s = .next (a.setX k i.val (BitVec.ofNat 64 a.dbgData))) ∧
          (isWrite = true → size.toNat = 4 → ∀ i, r = .fpr i → exec cmd s =
            .next (a.updHart k fun x => { x with w := (x.w.setFr i.val (BitVec.ofNat 128 a.dbgData)).dirty 13 })) ∧
          (isWrite = true → size.toNat = 3 → ∀ c, r = .csr c → w.dbgCsr c.toNat true = true →
            exec cmd s = .next (a.dbgCsrPut k c.toNat (BitVec.ofNat 64 a.dbgData))) ∧
          (isWrite = true → size.toNat = 2 → ∀ i, r = .gpr i → exec cmd s = .next
            (a.fresh.2.setX k i.val (BitVec.ofNat 64 (a.dbgData % 2 ^ 32 + a.fresh.1 <<< 32))))))) ∧
    (∀ (h : HartId) (pa : Addr) (size : Size) (isWrite : Bool) (s : State),
      let a := s.absSettle
      let k := h.num
      let n := size.bytes
      let able := (a.hart k).mode = .halted ∧ a.inv (a.hart k).pocket.toNat = true
      let cmd := Instr.accessMemory h pa size isWrite
      let u := a.updHart k fun x => { x with stitch := x.stitch + 1 }
      let val := BitVec.ofNat 128 (u.dbgData % 2 ^ (8 * n))
      (a.dbg.cmderr ≠ 0 → exec cmd s = .next a) ∧
      (a.dbg.cmderr = 0 → a.dbg.abs ≠ none → exec cmd s = .next { a with dbg.cmderr := 1 }) ∧
      (a.dbg.cmderr = 0 → a.dbg.abs = none →
        (¬ able → exec cmd s = .next { a with dbg.cmderr := 4 }) ∧
        (able → routeOf pa.toNat .pma = .hole → exec cmd s = .next { u with dbg.cmderr := 5 }) ∧
        (able → routeOf pa.toNat .pma = .cached →
          let v := u.tagCheck k (pa.toNat / 64)
          (isWrite = true → exec cmd s = .next ((v.addAcc k { kind := .store, id := 0, pa := pa, size := n, val := val }).pump k)) ∧
          (isWrite = false → exec cmd s = .next
            ((({ v with dbg.abs := some (k, n) } : State).addAcc k { kind := .load, id := 0, pa := pa, size := n, rd := 192 }).pump k))) ∧
        (∀ r, able → routeOf pa.toNat .pma = r → r ≠ .hole → r ≠ .cached →
          let acc : IoAcc := { isLoad := !isWrite, dst := u.ioDest pa.toNat, pa := pa, size := n, t := u.timer (k / 32) 2, window := r == .window }
          (pa.toNat % n ≠ 0 → exec cmd s = .next { u with dbg.cmderr := 5 }) ∧
          (pa.toNat % n = 0 → isWrite = true → exec cmd s = .next ((u.addIo k { acc with val := val }).pump k)) ∧
          (pa.toNat % n = 0 → isWrite = false → exec cmd s = .next
            ((({ u with dbg.abs := some (k, n) } : State).addIo k { acc with rd := 192 }).pump k))))) ∧
    ∀ s : State, (s.inv 0 = true → exec .ndmreset s = .next s.warmAll) ∧ (s.inv 0 = false → exec .ndmreset s = .next s)

/-- While an error stands, nothing is done; while an access is outstanding, sbbusyerror is set. A misaligned access
leaves sberror 3, one for a world whose INV is 0 leaves 7 (VIOL), one of a size other than 32 or 64 bits to control
space leaves 4, and one to an address that is neither Bolt, MMIO nor control space leaves 2. Any other access is
outstanding, and its request leaves the yoke as an uncached read or write of Bolt memory, or as an I/O read or
write. It rests on the model's choices of assumptions 107 and 116. -/
def Obligations.SystemBusAccesses : Prop :=
  ∀ (pa : Addr) (size : Size) (isWrite : Bool) (v : BitVec 128) (s : State),
    let n := size.bytes
    let u : State := { s with dbg.sbSvc := false }
    let off := pa.toNat % 64
    let lane := placeAt (v.toNat % 2 ^ (8 * n)) 0
    let sent := fun (op : BitVec 8) (d : LineData) (be : Word) =>
      ({ u with dbg.sbOut := some (n, isWrite) } : State).yokeSend
        { agent := .debug, eye := 0, txid := 0, op := op, pa := pa, size := n, kind := 7, data := d, be := be, needData := !isWrite }
    let cmd := Instr.systemBusAccess pa size isWrite v
    (s.dbg.sberror ≠ 0 ∨ s.dbg.sbbusyErr = true → exec cmd s = .next s) ∧
    (s.dbg.sberror = 0 → s.dbg.sbbusyErr = false →
      (s.dbg.sbOut ≠ none → exec cmd s = .next { s with dbg.sbbusyErr := true }) ∧
      (s.dbg.sbOut = none →
        (pa.toNat % n ≠ 0 → exec cmd s = .next { s with dbg.sberror := 3 }) ∧
        (pa.toNat % n = 0 → s.inv (s.fld R.sbPocket F.sbPocket_POCKET) = false → exec cmd s = .next { u with dbg.sberror := 7 }) ∧
        (pa.toNat % n = 0 → s.inv (s.fld R.sbPocket F.sbPocket_POCKET) = true →
          (regionOf pa.toNat = .bolt → isWrite = false → exec cmd s = .next (sent 0x08 0 0)) ∧
          (regionOf pa.toNat = .bolt → isWrite = true →
            exec cmd s = .next (sent 0x09 (placeAt (v.toNat % 2 ^ (8 * n)) off) (beOf off n))) ∧
          (regionOf pa.toNat = .ctl → n ≠ 4 → n ≠ 8 → exec cmd s = .next { u with dbg.sberror := 4 }) ∧
          (regionOf pa.toNat = .ctl → n = 4 ∨ n = 8 → exec cmd s = .next (sent (if isWrite then 0x40 else 0x0E) lane (beOf 0 n))) ∧
          (∀ k, regionOf pa.toNat = .mmio k → exec cmd s = .next (sent (if isWrite then 0x40 else 0x0E) lane (beOf 0 n))) ∧
          (regionOf pa.toNat ≠ .bolt → regionOf pa.toNat ≠ .ctl → (∀ k, regionOf pa.toNat ≠ .mmio k) →
            exec cmd s = .next { u with dbg.sberror := 2 }))))

/-- At the reset state no command waits, the Tape is 0, every control-space register reads the reset value of its map,
nothing is on its way, no unit has a request, no MSI has been sent and no error is recorded. Every hart is held in
reset in M without virtualisation at the panel's RESET_VEC, with x, f and v registers 0, no reservation, no cached
line and no access outstanding; its CSRs are those of R115, mkctl 0xE00 and mkhold, mkcmo, mkdoor and skpocket 0
among them. The OTP's contents at the reset state are the model's choice. It rests on the model's choices of
assumptions 7 and 8. -/
def Obligations.ResetState : Prop :=
  let s := State.reset
  s.pending = [] ∧ s.tape = 0 ∧ (∀ r : Reg, s.rd r = r.reset) ∧ s.net = [] ∧ s.io.reqs = [] ∧ s.msi = [] ∧ s.msix = [] ∧
    (∀ b i, s.recValid b i = false) ∧ (∀ k, (s.slice k).txs = []) ∧
    ∀ h : HartId,
      let x := s.hart h.num
      x.mode = .held ∧ x.w.priv = 3 ∧ x.w.virt = false ∧ x.w.pc = s.rd (R.resetVec h.panel.val) ∧ x.resv = none ∧ x.acc = [] ∧ x.io = [] ∧
        x.reqs = [] ∧ (∀ l, x.l2Line l = {}) ∧ x.l1d = [] ∧ x.l1i = [] ∧
        (∀ i, x.w.xr i = 0 ∧ x.w.fr i = 0 ∧ x.w.vr i = 0) ∧
        x.w.csrVal 0x300 = 0x0000000A00000000 ∧
        (∀ n ∈ [0x305, 0x341, 0x342, 0x343, 0x180, 0x280, 0x680, 0x30C, 0x60C, 0x306, 0x106, 0x606, 0xB00, 0xB02, 0x7C3, 0x7C4, 0x7C5, 0x5C0],
          x.w.csrVal n = 0) ∧
        (∀ i, i < 8 → x.w.csrVal (0xB03 + i) = 0) ∧ (∀ i, i < 64 → x.w.csrVal (0x3B0 + i) = 0) ∧ (∀ i, i < 16 → x.w.csrVal (0x3A0 + i) = 0) ∧
        x.w.csrVal 0x7C2 = 0xE00
end

