-- ==== Sys2Proof/Laws/Keeps.lean ====
section
/-! SUPPORT. What every operation keeps: the queue, the canonical tables, the fuses, the Tape. `Keeps a s` says that `s` is a
state the machine may reach from `a` without breaking any of them; each operation's lemma carries it on. -/

namespace Sys2Proof.Machine

theorem Otp.Grows.refl (o : Otp) : o.Grows o :=
  ⟨⟨rfl, rfl, rfl⟩, fun _ h => ⟨h, rfl⟩, fun _ h => h, le_rfl, le_rfl, fun h => h⟩

theorem Otp.Grows.trans {a b c : Otp} (h : a.Grows b) (k : b.Grows c) : a.Grows c where
  made := ⟨k.made.1.trans h.made.1, k.made.2.1.trans h.made.2.1, k.made.2.2.trans h.made.2.2⟩
  slots i hi := ⟨(k.slots i (h.slots i hi).1).1, (k.slots i (h.slots i hi).1).2.trans (h.slots i hi).2⟩
  revoked i hi := k.revoked i (h.revoked i hi)
  fwRoll := h.fwRoll.trans k.fwRoll
  patRoll := h.patRoll.trans k.patRoll
  hostVerify hi := k.hostVerify (h.hostVerify hi)

/-- `s` has the queue of `a`, its tables are canonical where those of `a` are, its
fuses are those of `a` or more, and its Tape has not gone back. -/
structure Keeps (a s : State) : Prop where
  queue : s.pending = a.pending
  mem   : Memory.wf a = true → Memory.wf s = true
  regs  : a.regsWf = true → s.regsWf = true
  fuses : a.otp.Grows s.otp
  tape  : a.tape ≤ s.tape

/-- The same of a state that an operation may answer. -/
def KeepsO (a : State) (o : Option State) : Prop := ∀ t, o = some t → Keeps a t

theorem Keeps.refl (s : State) : Keeps s s := ⟨rfl, id, id, .refl _, le_rfl⟩

theorem Keeps.trans {a s t : State} (h : Keeps a s) (k : Keeps s t) : Keeps a t :=
  ⟨k.queue.trans h.queue, fun hw => k.mem (h.mem hw), fun hw => k.regs (h.regs hw), h.fuses.trans k.fuses,
    h.tape.trans k.tape⟩

theorem Memory.wf_congr {s t : State} (hm : t.mem = s.mem) (hr : t.rekeys = s.rekeys) : Memory.wf t = Memory.wf s := by
  simp only [Memory.wf, State.zeroed, hm, hr]

/-- An update of any other field. -/
theorem Keeps.record {a s : State} {f0} {f1} {f2} {f3} {f4} {f5} {f6} {f7} {f8} {f9} {f10} {f11} {f12} {f13} {f14} {f15} {f16} {f17} {f18} {f19} 
      {f20} {f21} {f22} {f23} {f24} {f25} {f26} {f27} {f28} {f29} {f30} {f31} {f32} :
    Keeps a (State.mk s.pending s.tape f0 s.regs s.mem f1 f2 s.rekeys s.otp f3 f4 f5 f6 f7 f8 f9 f10 f11 f12 f13 f14 f15 f16 f17 f18 
      f19 f20 f21 f22 f23 f24 f25 f26 f27 f28 f29 f30 f31 f32) ↔ Keeps a s :=
  ⟨fun h => ⟨h.queue, h.mem, h.regs, h.fuses, h.tape⟩, fun h => ⟨h.queue, h.mem, h.regs, h.fuses, h.tape⟩⟩

theorem Keeps.foldl {α : Type} {a s : State} {f : State → α → State} {l : List α}
    (hf : ∀ s x, Keeps a s → Keeps a (f s x)) (h : Keeps a s) : Keeps a (l.foldl f s) := by
  induction l generalizing s with
  | nil => exact h
  | cons x l ih => exact ih (hf s x h)

theorem Keeps.foldlFst {α β : Type} {a : State} {p : State × β} {f : State × β → α → State × β} {l : List α}
    (hf : ∀ p x, Keeps a p.1 → Keeps a (f p x).1) (h : Keeps a p.1) : Keeps a (l.foldl f p).1 := by
  induction l generalizing p with
  | nil => exact h
  | cons x l ih => exact ih (hf p x h)

theorem Keeps.foldlSnd {α β : Type} {a : State} {p : β × State} {f : β × State → α → β × State} {l : List α}
    (hf : ∀ p x, Keeps a p.2 → Keeps a (f p x).2) (h : Keeps a p.2) : Keeps a (l.foldl f p).2 := by
  induction l generalizing p with
  | nil => exact h
  | cons x l ih => exact ih (hf p x h)

theorem Keeps.ite {a s t : State} {c : Prop} [Decidable c] (hs : Keeps a s) (ht : Keeps a t) :
    Keeps a (if c then s else t) := by split <;> assumption
theorem KeepsO.none {a : State} : KeepsO a .none := fun _ h => nomatch h
theorem KeepsO.some {a s : State} (h : Keeps a s) : KeepsO a (.some s) := fun _ e => by cases e; exact h
theorem KeepsO.map {a : State} {o : Option State} {f : State → State} (hf : ∀ s, Keeps a s → Keeps a (f s))
    (k : KeepsO a o) : KeepsO a (o.map f) := by
  intro t e; obtain ⟨u, hu, rfl⟩ := Option.map_eq_some_iff.mp e; exact hf u (k u hu)
theorem KeepsO.getD {a s : State} {o : Option State} (k : KeepsO a o) (h : Keeps a s) : Keeps a (o.getD s) := by
  cases o with
  | none => exact h
  | some t => exact k t rfl
theorem KeepsO.fstNone {a : State} {β : Type} : KeepsO a (Option.map Prod.fst (.none : Option (State × β))) :=
  fun _ h => nomatch h
theorem KeepsO.fst {a : State} {β : Type} {p : State × β} (h : Keeps a p.1) : KeepsO a (Option.map Prod.fst (.some p)) :=
  fun _ e => by cases e; exact h
theorem KeepsO.sndNone {a : State} {β : Type} : KeepsO a (Option.map Prod.snd (.none : Option (β × State))) :=
  fun _ h => nomatch h
theorem KeepsO.snd {a : State} {β : Type} {p : β × State} (h : Keeps a p.2) : KeepsO a (Option.map Prod.snd (.some p)) :=
  fun _ e => by cases e; exact h
theorem KeepsO.sndPut {a s : State} {β : Type} {o : Option β} (h : Keeps a s) :
    KeepsO a (Option.map Prod.snd (Option.map (fun c => (c, s)) o)) := by
  intro t e; cases o with
  | none => cases e
  | some b => cases e; exact h
theorem Keeps.of_some {a t : State} {o : Option State} (e : o = .some t) (k : KeepsO a o) : Keeps a t := k t e
theorem Keeps.of_snd {a t : State} {β : Type} {b : β} {p : β × State} (e : p = (b, t)) (k : Keeps a p.2) : Keeps a t := by
  subst e; exact k
theorem Keeps.of_fst {a t : State} {β : Type} {b : β} {p : State × β} (e : p = (t, b)) (k : Keeps a p.1) : Keeps a t := by
  subst e; exact k
theorem Keeps.of_fst3 {a t : State} {β γ : Type} {b : β} {c : γ} {p : State × β × γ} (e : p = (t, b, c))
    (k : Keeps a p.1) : Keeps a t := by subst e; exact k
theorem Keeps.of_someFst {a t : State} {β : Type} {b : β} {o : Option (State × β)} (e : o = .some (t, b))
    (k : KeepsO a (o.map Prod.fst)) : Keeps a t := k t (by simp [e])
theorem Keeps.of_someSnd {a t : State} {β : Type} {b : β} {o : Option (β × State)} (e : o = .some (b, t))
    (k : KeepsO a (o.map Prod.snd)) : Keeps a t := k t (by simp [e])
theorem Keeps.of_someP1 {a : State} {β : Type} {p : State × β} {o : Option (State × β)} (e : o = .some p)
    (k : KeepsO a (o.map Prod.fst)) : Keeps a p.1 := k p.1 (by simp [e])

/-! ### The tables -/

theorem KMap.sortedFrom_mono {α : Type} : ∀ {m : KMap α} {i j : Nat}, i ≤ j → KMap.sortedFrom j m = true →
    KMap.sortedFrom i m = true
  | [], _, _, _, _ => rfl
  | (k, _) :: m, i, j, hij, h => by
    simp only [KMap.sortedFrom, Bool.and_eq_true, decide_eq_true_eq] at h ⊢
    exact ⟨hij.trans h.1, h.2⟩

theorem KMap.sorted_filter {α : Type} (p : Nat × α → Bool) : ∀ {m : KMap α} {i : Nat},
    KMap.sortedFrom i m = true → KMap.sortedFrom i (m.filter p) = true
  | [], _, _ => rfl
  | (k, v) :: m, i, h => by
    simp only [KMap.sortedFrom, Bool.and_eq_true, decide_eq_true_eq] at h
    have ih := KMap.sorted_filter p h.2
    simp only [List.filter]
    split
    · simp only [KMap.sortedFrom, Bool.and_eq_true, decide_eq_true_eq]; exact ⟨h.1, ih⟩
    · exact KMap.sortedFrom_mono (by omega) ih

theorem KMap.sorted_erase {α : Type} (k : Nat) : ∀ {m : KMap α} {i : Nat},
    KMap.sortedFrom i m = true → KMap.sortedFrom i (KMap.erase k m) = true
  | [], _, _ => rfl
  | (j, v) :: m, i, h => by
    simp only [KMap.sortedFrom, Bool.and_eq_true, decide_eq_true_eq] at h
    have ih := KMap.sorted_erase k h.2
    simp only [KMap.erase]
    split
    · exact KMap.sortedFrom_mono (by omega) ih
    · simp only [KMap.sortedFrom, Bool.and_eq_true, decide_eq_true_eq]; exact ⟨h.1, ih⟩

theorem KMap.sorted_insert {α : Type} (k : Nat) (v : α) : ∀ {m : KMap α} {i : Nat},
    i ≤ k → KMap.sortedFrom i m = true → KMap.sortedFrom i (KMap.insert k v m) = true
  | [], _, hk, _ => by simp [KMap.insert, KMap.sortedFrom, hk]
  | (j, w) :: m, i, hk, h => by
    simp only [KMap.sortedFrom, Bool.and_eq_true, decide_eq_true_eq] at h
    simp only [KMap.insert]
    split
    · simp only [KMap.sortedFrom, Bool.and_eq_true, decide_eq_true_eq]; exact ⟨hk, by omega, h.2⟩
    · split
      · subst_vars; simp only [KMap.sortedFrom, Bool.and_eq_true, decide_eq_true_eq]; exact ⟨hk, h.2⟩
      · simp only [KMap.sortedFrom, Bool.and_eq_true, decide_eq_true_eq]
        exact ⟨h.1, KMap.sorted_insert k v (by omega) h.2⟩

theorem KMap.sorted_set {α : Type} [DecidableEq α] (d : α) (k : Nat) (v : α) {m : KMap α}
    (h : KMap.sortedFrom 0 m = true) : KMap.sortedFrom 0 (KMap.set d k v m) = true := by
  unfold KMap.set; split
  · exact KMap.sorted_erase k h
  · exact KMap.sorted_insert k v (Nat.zero_le k) h

theorem KMap.mem_erase {α : Type} {k : Nat} : ∀ {m : KMap α} {e : Nat × α}, e ∈ KMap.erase k m → e ∈ m ∧ e.1 ≠ k
  | [], _, h => nomatch h
  | (j, v) :: m, e, h => by
    simp only [KMap.erase] at h
    split at h
    · have := KMap.mem_erase h; exact ⟨List.mem_cons_of_mem _ this.1, this.2⟩
    · rcases List.mem_cons.mp h with rfl | h
      · exact ⟨List.mem_cons_self, by assumption⟩
      · have := KMap.mem_erase h; exact ⟨List.mem_cons_of_mem _ this.1, this.2⟩

theorem KMap.mem_insert {α : Type} {k : Nat} {v : α} : ∀ {m : KMap α} {e : Nat × α},
    e ∈ KMap.insert k v m → e = (k, v) ∨ e ∈ m
  | [], _, h => by simp only [KMap.insert, List.mem_singleton] at h; exact .inl h
  | (j, w) :: m, e, h => by
    simp only [KMap.insert] at h
    split at h
    · rcases List.mem_cons.mp h with h | h
      · exact .inl h
      · exact .inr h
    · split at h
      · rcases List.mem_cons.mp h with h | h
        · exact .inl h
        · exact .inr (List.mem_cons_of_mem _ h)
      · rcases List.mem_cons.mp h with rfl | h
        · exact .inr List.mem_cons_self
        · rcases KMap.mem_insert h with h | h
          · exact .inl h
          · exact .inr (List.mem_cons_of_mem _ h)

theorem KMap.any_insert {α : Type} (k i : Nat) (v : α) : ∀ (m : KMap α),
    (KMap.insert k v m).any (fun e => e.1 == i) = (k == i || m.any fun e => e.1 == i)
  | [] => by simp [KMap.insert]
  | (j, w) :: m => by
    simp only [KMap.insert]
    split
    · simp
    · split
      · subst_vars; simp
      · simp only [List.any_cons, KMap.any_insert k i v m]; cases k == i <;> cases j == i <;> simp

theorem KMap.get_insert_ne {α : Type} (d : α) {k i : Nat} (v : α) (h : k ≠ i) : ∀ (m : KMap α),
    KMap.get d (KMap.insert k v m) i = KMap.get d m i
  | [] => by simp [KMap.insert, KMap.get, h]
  | (j, w) :: m => by
    simp only [KMap.insert]
    split
    · simp [KMap.get, h]
    · split
      · subst_vars; simp [KMap.get, h]
      · simp only [KMap.get, KMap.get_insert_ne d v h m]

theorem KMap.get_insert_self {α : Type} (d : α) (k : Nat) (v : α) : ∀ (m : KMap α),
    KMap.get d (KMap.insert k v m) k = v
  | [] => by simp [KMap.insert, KMap.get]
  | (j, w) :: m => by
    simp only [KMap.insert]
    split
    · simp [KMap.get]
    · split
      · simp [KMap.get]
      · rename_i h; simp [KMap.get, h, KMap.get_insert_self d k v m]

theorem KMap.get_erase {α : Type} (d : α) (k i : Nat) : ∀ (m : KMap α),
    KMap.get d (KMap.erase k m) i = if i = k then d else KMap.get d m i
  | [] => by simp [KMap.erase, KMap.get]
  | (j, w) :: m => by
    have ih := KMap.get_erase d k i m
    simp only [KMap.erase]
    split
    · subst_vars
      simp only [ih, KMap.get]
      split
      · rfl
      · split
        · subst_vars; contradiction
        · rfl
    · simp only [KMap.get, ih]
      split
      · subst_vars; split
        · subst_vars; contradiction
        · rfl
      · rfl

/-- A table reads what was last set. -/
theorem KMap.get_set {α : Type} [DecidableEq α] (d : α) (k i : Nat) (v : α) (m : KMap α) :
    KMap.get d (KMap.set d k v m) i = if i = k then v else KMap.get d m i := by
  unfold KMap.set
  split
  · rw [KMap.get_erase]; split
    · exact (by assumption : v = d).symm
    · rfl
  · split
    · subst_vars; exact KMap.get_insert_self d _ v m
    · rename_i h; exact KMap.get_insert_ne d v (Ne.symm h) m

/-! ### The writers of the tables -/

theorem State.wr_keeps {a s : State} {r : Reg} {v : Word} (h : Keeps a s) : Keeps a (State.wr s r v) :=
  ⟨h.queue, h.mem, fun hw => KMap.sorted_set r.reset r.addr v (h.regs hw), h.fuses, h.tape⟩

theorem State.eraseRegs_keeps {a s : State} {lo size : Nat} {keep : List Reg} (h : Keeps a s) :
    Keeps a (State.eraseRegs s lo size keep) :=
  ⟨h.queue, h.mem, fun hw => KMap.sorted_filter _ (h.regs hw), h.fuses, h.tape⟩

theorem State.keepRegs_keeps {a s : State} {stays : Nat → Bool} (h : Keeps a s) : Keeps a (State.keepRegs s stays) :=
  ⟨h.queue, h.mem, fun hw => KMap.sorted_filter _ (h.regs hw), h.fuses, h.tape⟩

theorem Memory.wf_setByte {s : State} (x : Nat) (b : Byte) (h : Memory.wf s = true) : Memory.wf (s.setByte x b) = true := by
  simp only [Memory.wf, Bool.and_eq_true, List.all_eq_true, Bool.not_eq_true', Bool.and_eq_false_iff] at h ⊢
  unfold State.setByte
  split
  · rename_i hz
    refine ⟨KMap.sorted_set 0 x b h.1, fun c hc => ?_⟩
    unfold KMap.set at hc
    split at hc
    · exact h.2 c (KMap.mem_erase hc).1
    · rename_i hb
      rcases KMap.mem_insert hc with rfl | hc
      · exact .inr (by simpa using hb)
      · exact h.2 c hc
  · rename_i hz
    refine ⟨KMap.sorted_insert x b (Nat.zero_le x) h.1, fun c hc => ?_⟩
    rcases KMap.mem_insert hc with rfl | hc
    · exact .inl (by simpa [State.zeroed] using hz)
    · exact h.2 c hc

theorem State.setByte_keeps {a s : State} {x : Nat} {b : Byte} (h : Keeps a s) : Keeps a (State.setByte s x b) := by
  refine ⟨?_, fun hw => Memory.wf_setByte x b (h.mem hw), ?_, ?_, ?_⟩ <;> unfold State.setByte
  · exact h.queue
  · exact h.regs
  · exact h.fuses
  · exact h.tape

theorem Memory.wf_rekey {s : State} (base size : Nat) (z : Bool) (h : Memory.wf s = true) :
    Memory.wf (s.rekey base size z) = true := by
  simp only [Memory.wf, Bool.and_eq_true, List.all_eq_true, Bool.not_eq_true', Bool.and_eq_false_iff] at h ⊢
  refine ⟨KMap.sorted_filter _ h.1, fun c hc => ?_⟩
  simp only [State.rekey, List.mem_filter] at hc
  refine (h.2 c hc.1).imp (fun hz => ?_) id
  have hn : inRange (base, size, z) c.1 = false := by
    have h2 := hc.2
    simp only [Bool.not_eq_true', Bool.and_eq_false_iff, decide_eq_false_iff_not] at h2
    simpa only [inRange, Bool.and_eq_false_iff, decide_eq_false_iff_not] using h2
  simpa only [State.zeroed, State.rekey, List.find?, hn] using hz

theorem State.rekey_keeps {a s : State} {base size : Nat} {z : Bool} (h : Keeps a s) :
    Keeps a (State.rekey s base size z) :=
  ⟨h.queue, fun hw => Memory.wf_rekey base size z (h.mem hw), h.regs, h.fuses, h.tape⟩

/-- The fuses, or what stands in their place, programmed. -/
theorem Keeps.program {a s : State} {o : Otp} (h : Keeps a s) (g : s.otp.Grows o) : Keeps a { s with otp := o } :=
  ⟨h.queue, h.mem, h.regs, h.fuses.trans g, h.tape⟩

end Sys2Proof.Machine
end

