-- ==== Sys2Proof/Laws/Keeps1.lean ====
section
/-! SUPPORT. What each operation keeps, in the order the operations are built on one another (part 1). -/

set_option linter.unusedVariables false
set_option linter.unreachableTactic false
set_option linter.unusedTactic false

namespace Sys2Proof.Machine

theorem State.live_keeps {a s : State} {t : State} (h : Keeps a s) (h2 : Keeps a t) :
    Keeps a (State.live s t) := by
  unfold State.live
  try dsimp only
  repeat' (first | with_reducible assumption | simp only [Keeps.record]
                  | with_reducible refine Keeps.of_snd ‹_ = (_, _)› ?_
                  | with_reducible refine Keeps.of_fst ‹_ = (_, _)› ?_
                  | with_reducible refine Keeps.of_fst3 ‹_ = (_, _, _)› ?_ | with_reducible apply Keeps.ite
                  | split | dsimp only)

theorem State.setF_keeps {a s : State} {x1} {x2} {x3} (h : Keeps a s) :
    Keeps a (State.setF s x1 x2 x3) := by
  unfold State.setF
  try dsimp only
  repeat' (first | with_reducible assumption | with_reducible apply State.wr_keeps | simp only [Keeps.record]
                  | with_reducible refine Keeps.of_snd ‹_ = (_, _)› ?_
                  | with_reducible refine Keeps.of_fst ‹_ = (_, _)› ?_
                  | with_reducible refine Keeps.of_fst3 ‹_ = (_, _, _)› ?_ | with_reducible apply Keeps.ite
                  | split | dsimp only)

theorem State.incF_keeps {a s : State} {x1} {x2} {x3} (h : Keeps a s) :
    Keeps a (State.incF s x1 x2 x3) := by
  unfold State.incF
  try dsimp only
  repeat' (first | with_reducible assumption | with_reducible apply State.setF_keeps | simp only [Keeps.record]
                  | with_reducible refine Keeps.of_snd ‹_ = (_, _)› ?_
                  | with_reducible refine Keeps.of_fst ‹_ = (_, _)› ?_
                  | with_reducible refine Keeps.of_fst3 ‹_ = (_, _, _)› ?_ | with_reducible apply Keeps.ite
                  | split | dsimp only)

theorem State.countCe_keeps {a s : State} {x1} (h : Keeps a s) :
    Keeps a (State.countCe s x1) := by
  unfold State.countCe
  try dsimp only
  repeat' (first | with_reducible assumption | with_reducible apply State.incF_keeps
                  | with_reducible apply State.setF_keeps | simp only [Keeps.record]
                  | with_reducible refine Keeps.of_snd ‹_ = (_, _)› ?_
                  | with_reducible refine Keeps.of_fst ‹_ = (_, _)› ?_
                  | with_reducible refine Keeps.of_fst3 ‹_ = (_, _, _)› ?_ | with_reducible apply Keeps.ite
                  | split | dsimp only)

theorem State.putRecord_keeps {a s : State} {x1} (h : Keeps a s) :
    Keeps a (State.putRecord s x1) := by
  unfold State.putRecord
  try dsimp only
  repeat' (first | with_reducible assumption | with_reducible apply State.incF_keeps
                  | with_reducible apply State.wr_keeps | simp only [Keeps.record]
                  | with_reducible refine Keeps.of_snd ‹_ = (_, _)› ?_
                  | with_reducible refine Keeps.of_fst ‹_ = (_, _)› ?_
                  | with_reducible refine Keeps.of_fst3 ‹_ = (_, _, _)› ?_ | with_reducible apply Keeps.ite
                  | split | dsimp only)

theorem State.note_keeps {a s : State} {x1} (h : Keeps a s) :
    Keeps a (State.note s x1) := by
  unfold State.note
  try dsimp only
  repeat' (first | with_reducible assumption | simp only [Keeps.record]
                  | with_reducible refine Keeps.of_snd ‹_ = (_, _)› ?_
                  | with_reducible refine Keeps.of_fst ‹_ = (_, _)› ?_
                  | with_reducible refine Keeps.of_fst3 ‹_ = (_, _, _)› ?_ | with_reducible apply Keeps.ite
                  | split | dsimp only)

theorem State.svcMsix_keeps {a s : State} {x1} (h : Keeps a s) :
    Keeps a (State.svcMsix s x1) := by
  unfold State.svcMsix
  try dsimp only
  repeat' (first | with_reducible assumption | simp only [Keeps.record]
                  | with_reducible refine Keeps.of_snd ‹_ = (_, _)› ?_
                  | with_reducible refine Keeps.of_fst ‹_ = (_, _)› ?_
                  | with_reducible refine Keeps.of_fst3 ‹_ = (_, _, _)› ?_ | with_reducible apply Keeps.ite
                  | split | dsimp only)

theorem State.signalFatal_keeps {a s : State} {x1} (h : Keeps a s) :
    Keeps a (State.signalFatal s x1) := by
  unfold State.signalFatal
  try dsimp only
  repeat' (first | with_reducible assumption | with_reducible apply State.note_keeps
                  | with_reducible apply State.svcMsix_keeps | simp only [Keeps.record]
                  | with_reducible refine Keeps.of_snd ‹_ = (_, _)› ?_
                  | with_reducible refine Keeps.of_fst ‹_ = (_, _)› ?_
                  | with_reducible refine Keeps.of_fst3 ‹_ = (_, _, _)› ?_ | with_reducible apply Keeps.ite
                  | split | dsimp only)

theorem State.setFbit_keeps {a s : State} {x1} {x2} {x3} {x4} (h : Keeps a s) :
    Keeps a (State.setFbit s x1 x2 x3 x4) := by
  unfold State.setFbit
  try dsimp only
  repeat' (first | with_reducible assumption | with_reducible apply State.setF_keeps | simp only [Keeps.record]
                  | with_reducible refine Keeps.of_snd ‹_ = (_, _)› ?_
                  | with_reducible refine Keeps.of_fst ‹_ = (_, _)› ?_
                  | with_reducible refine Keeps.of_fst3 ‹_ = (_, _, _)› ?_ | with_reducible apply Keeps.ite
                  | split | dsimp only)

theorem State.sendMsi_keeps {a s : State} {x1} {x2} (h : Keeps a s) :
    Keeps a (State.sendMsi s x1 x2) := by
  unfold State.sendMsi
  try dsimp only
  repeat' (first | with_reducible assumption | simp only [Keeps.record]
                  | with_reducible refine Keeps.of_snd ‹_ = (_, _)› ?_
                  | with_reducible refine Keeps.of_fst ‹_ = (_, _)› ?_
                  | with_reducible refine Keeps.of_fst3 ‹_ = (_, _, _)› ?_ | with_reducible apply Keeps.ite
                  | split | dsimp only)

theorem State.aplicWr_keeps {a s : State} {x1} {x2} {x3} (h : Keeps a s) :
    Keeps a (State.aplicWr s x1 x2 x3) := by
  unfold State.aplicWr
  try dsimp only
  repeat' (first | with_reducible assumption | simp only [Keeps.record]
                  | with_reducible refine Keeps.of_snd ‹_ = (_, _)› ?_
                  | with_reducible refine Keeps.of_fst ‹_ = (_, _)› ?_
                  | with_reducible refine Keeps.of_fst3 ‹_ = (_, _, _)› ?_ | with_reducible apply Keeps.ite
                  | split | dsimp only)

theorem State.aplicForward_keeps {a s : State} {x1} {x2} (h : Keeps a s) :
    Keeps a (State.aplicForward s x1 x2) := by
  unfold State.aplicForward
  try dsimp only
  repeat' (first | with_reducible assumption | with_reducible apply State.sendMsi_keeps
                  | with_reducible apply State.aplicWr_keeps | simp only [Keeps.record]
                  | with_reducible refine Keeps.of_snd ‹_ = (_, _)› ?_
                  | with_reducible refine Keeps.of_fst ‹_ = (_, _)› ?_
                  | with_reducible refine Keeps.of_fst3 ‹_ = (_, _, _)› ?_ | with_reducible apply Keeps.ite
                  | split | dsimp only)

theorem State.setSource_keeps {a s : State} {x1} {x2} (h : Keeps a s) :
    Keeps a (State.setSource s x1 x2) := by
  unfold State.setSource
  try dsimp only
  repeat' (first | with_reducible assumption | with_reducible apply State.aplicForward_keeps
                  | with_reducible apply State.aplicWr_keeps | simp only [Keeps.record]
                  | with_reducible refine Keeps.of_snd ‹_ = (_, _)› ?_
                  | with_reducible refine Keeps.of_fst ‹_ = (_, _)› ?_
                  | with_reducible refine Keeps.of_fst3 ‹_ = (_, _, _)› ?_ | with_reducible apply Keeps.ite
                  | split | dsimp only)

theorem State.refreshBank_keeps {a s : State} {x1} (h : Keeps a s) :
    Keeps a (State.refreshBank s x1) := by
  unfold State.refreshBank
  try dsimp only
  repeat' (first | with_reducible assumption | with_reducible apply State.setF_keeps
                  | with_reducible apply State.setFbit_keeps | with_reducible apply State.setSource_keeps
                  | simp only [Keeps.record] | with_reducible refine Keeps.of_snd ‹_ = (_, _)› ?_
                  | with_reducible refine Keeps.of_fst ‹_ = (_, _)› ?_
                  | with_reducible refine Keeps.of_fst3 ‹_ = (_, _, _)› ?_ | with_reducible apply Keeps.ite
                  | split | dsimp only)

theorem State.record_keeps {a s : State} {x1} (h : Keeps a s) :
    Keeps a (State.record s x1) := by
  unfold State.record
  try dsimp only
  repeat' (first | with_reducible assumption | with_reducible apply State.countCe_keeps
                  | with_reducible apply State.putRecord_keeps | with_reducible apply State.signalFatal_keeps
                  | with_reducible apply State.refreshBank_keeps | simp only [Keeps.record]
                  | with_reducible refine Keeps.of_snd ‹_ = (_, _)› ?_
                  | with_reducible refine Keeps.of_fst ‹_ = (_, _)› ?_
                  | with_reducible refine Keeps.of_fst3 ‹_ = (_, _, _)› ?_ | with_reducible apply Keeps.ite
                  | split | dsimp only)

theorem State.err_keeps {a s : State} {x1} {x2} {x3} {x4} {x5} {x6} {x7} (h : Keeps a s) :
    Keeps a (State.err s x1 x2 x3 x4 x5 x6 x7) := by
  unfold State.err
  try dsimp only
  repeat' (first | with_reducible assumption | with_reducible apply State.record_keeps | simp only [Keeps.record]
                  | with_reducible refine Keeps.of_snd ‹_ = (_, _)› ?_
                  | with_reducible refine Keeps.of_fst ‹_ = (_, _)› ?_
                  | with_reducible refine Keeps.of_fst3 ‹_ = (_, _, _)› ?_ | with_reducible apply Keeps.ite
                  | split | dsimp only)

theorem State.updMc_keeps {a s : State} {x1} {x2} (h : Keeps a s) :
    Keeps a (State.updMc s x1 x2) := by
  unfold State.updMc
  try dsimp only
  repeat' (first | with_reducible assumption | simp only [Keeps.record]
                  | with_reducible refine Keeps.of_snd ‹_ = (_, _)› ?_
                  | with_reducible refine Keeps.of_fst ‹_ = (_, _)› ?_
                  | with_reducible refine Keeps.of_fst3 ‹_ = (_, _, _)› ?_ | with_reducible apply Keeps.ite
                  | split | dsimp only)

theorem State.arrive_keeps {a s : State} {x1} (h : Keeps a s) :
    Keeps a (State.arrive s x1) := by
  unfold State.arrive
  try dsimp only
  repeat' (first | with_reducible assumption | simp only [Keeps.record]
                  | with_reducible refine Keeps.of_snd ‹_ = (_, _)› ?_
                  | with_reducible refine Keeps.of_fst ‹_ = (_, _)› ?_
                  | with_reducible refine Keeps.of_fst3 ‹_ = (_, _, _)› ?_ | with_reducible apply Keeps.ite
                  | split | dsimp only)

theorem State.updSlice_keeps {a s : State} {x1} {x2} (h : Keeps a s) :
    Keeps a (State.updSlice s x1 x2) := by
  unfold State.updSlice
  try dsimp only
  repeat' (first | with_reducible assumption | simp only [Keeps.record]
                  | with_reducible refine Keeps.of_snd ‹_ = (_, _)› ?_
                  | with_reducible refine Keeps.of_fst ‹_ = (_, _)› ?_
                  | with_reducible refine Keeps.of_fst3 ‹_ = (_, _, _)› ?_ | with_reducible apply Keeps.ite
                  | split | dsimp only)

theorem State.fresh_keeps {a s : State} (h : Keeps a s) :
    Keeps a (State.fresh s).2 := by
  unfold State.fresh
  try dsimp only
  repeat' (first | with_reducible assumption | simp only [Keeps.record]
                  | with_reducible refine Keeps.of_snd ‹_ = (_, _)› ?_
                  | with_reducible refine Keeps.of_fst ‹_ = (_, _)› ?_
                  | with_reducible refine Keeps.of_fst3 ‹_ = (_, _, _)› ?_ | with_reducible apply Keeps.ite
                  | split | dsimp only)

theorem State.setHart_keeps {a s : State} {x1} {x2} (h : Keeps a s) :
    Keeps a (State.setHart s x1 x2) := by
  unfold State.setHart
  try dsimp only
  repeat' (first | with_reducible assumption | simp only [Keeps.record]
                  | with_reducible refine Keeps.of_snd ‹_ = (_, _)› ?_
                  | with_reducible refine Keeps.of_fst ‹_ = (_, _)› ?_
                  | with_reducible refine Keeps.of_fst3 ‹_ = (_, _, _)› ?_ | with_reducible apply Keeps.ite
                  | split | dsimp only)

theorem State.updHart_keeps {a s : State} {x1} {x2} (h : Keeps a s) :
    Keeps a (State.updHart s x1 x2) := by
  unfold State.updHart
  try dsimp only
  repeat' (first | with_reducible assumption | with_reducible apply State.setHart_keeps | simp only [Keeps.record]
                  | with_reducible refine Keeps.of_snd ‹_ = (_, _)› ?_
                  | with_reducible refine Keeps.of_fst ‹_ = (_, _)› ?_
                  | with_reducible refine Keeps.of_fst3 ‹_ = (_, _, _)› ?_ | with_reducible apply Keeps.ite
                  | split | dsimp only)

theorem State.uev_keeps {a s : State} {x1} {x2} {x3} {x4} {x5} (h : Keeps a s) :
    Keeps a (State.uev s x1 x2 x3 x4 x5) := by
  unfold State.uev
  try dsimp only
  repeat' (first | with_reducible assumption | with_reducible apply State.wr_keeps
                  | with_reducible refine Keeps.foldl (fun _ _ _ => ?_) ?_
                  | with_reducible refine Keeps.foldlFst (fun _ _ _ => ?_) ?_
                  | with_reducible refine Keeps.foldlSnd (fun _ _ _ => ?_) ?_ | simp only [Keeps.record]
                  | with_reducible refine Keeps.of_snd ‹_ = (_, _)› ?_
                  | with_reducible refine Keeps.of_fst ‹_ = (_, _)› ?_
                  | with_reducible refine Keeps.of_fst3 ‹_ = (_, _, _)› ?_ | with_reducible apply Keeps.ite
                  | split | dsimp only)

theorem State.occupy_keeps {a s : State} {x1} (h : Keeps a s) :
    Keeps a (State.occupy s x1) := by
  unfold State.occupy
  try dsimp only
  repeat' (first | with_reducible assumption | with_reducible apply State.uev_keeps
                  | with_reducible refine Keeps.foldl (fun _ _ _ => ?_) ?_
                  | with_reducible refine Keeps.foldlFst (fun _ _ _ => ?_) ?_
                  | with_reducible refine Keeps.foldlSnd (fun _ _ _ => ?_) ?_ | simp only [Keeps.record]
                  | with_reducible refine Keeps.of_snd ‹_ = (_, _)› ?_
                  | with_reducible refine Keeps.of_fst ‹_ = (_, _)› ?_
                  | with_reducible refine Keeps.of_fst3 ‹_ = (_, _, _)› ?_ | with_reducible apply Keeps.ite
                  | split | dsimp only)

theorem State.advance_keeps {a s : State} {x1} (h : Keeps a s) : Keeps a (State.advance s x1) := by
  have ho : Keeps a (s.occupy (x1 - s.tape)) := State.occupy_keeps h
  exact ⟨ho.queue, ho.mem, ho.regs, ho.fuses, h.tape.trans (Nat.le_max_left _ _)⟩

theorem State.setBytes_keeps {a s : State} {x1} {x2} {x3} {x4} (h : Keeps a s) :
    Keeps a (State.setBytes s x1 x2 x3 x4) := by
  induction x4 generalizing s x1 x2 x3 with
  | zero =>
    unfold State.setBytes
    try dsimp only
    repeat' (first | with_reducible assumption | with_reducible apply State.setByte_keeps | simp only [Keeps.record]
                    | with_reducible refine Keeps.of_snd ‹_ = (_, _)› ?_
                    | with_reducible refine Keeps.of_fst ‹_ = (_, _)› ?_
                    | with_reducible refine Keeps.of_fst3 ‹_ = (_, _, _)› ?_ | with_reducible apply Keeps.ite
                    | split | dsimp only)
  | succ n ih =>
    unfold State.setBytes
    try dsimp only
    repeat' (first | with_reducible assumption | with_reducible apply ih | with_reducible apply State.setByte_keeps
                    | simp only [Keeps.record] | with_reducible refine Keeps.of_snd ‹_ = (_, _)› ?_
                    | with_reducible refine Keeps.of_fst ‹_ = (_, _)› ?_
                    | with_reducible refine Keeps.of_fst3 ‹_ = (_, _, _)› ?_ | with_reducible apply Keeps.ite
                    | split | dsimp only)

theorem State.setList_keeps {a s : State} {x1} {x2} (h : Keeps a s) :
    Keeps a (State.setList s x1 x2) := by
  induction x2 generalizing s x1 with
  | nil =>
    unfold State.setList
    try dsimp only
    repeat' (first | with_reducible assumption | with_reducible apply State.setByte_keeps | simp only [Keeps.record]
                    | with_reducible refine Keeps.of_snd ‹_ = (_, _)› ?_
                    | with_reducible refine Keeps.of_fst ‹_ = (_, _)› ?_
                    | with_reducible refine Keeps.of_fst3 ‹_ = (_, _, _)› ?_ | with_reducible apply Keeps.ite
                    | split | dsimp only)
  | cons y l ih =>
    unfold State.setList
    try dsimp only
    repeat' (first | with_reducible assumption | with_reducible apply ih | with_reducible apply State.setByte_keeps
                    | simp only [Keeps.record] | with_reducible refine Keeps.of_snd ‹_ = (_, _)› ?_
                    | with_reducible refine Keeps.of_fst ‹_ = (_, _)› ?_
                    | with_reducible refine Keeps.of_fst3 ‹_ = (_, _, _)› ?_ | with_reducible apply Keeps.ite
                    | split | dsimp only)

theorem State.updPort_keeps {a s : State} {x1} {x2} (h : Keeps a s) :
    Keeps a (State.updPort s x1 x2) := by
  unfold State.updPort
  try dsimp only
  repeat' (first | with_reducible assumption | simp only [Keeps.record]
                  | with_reducible refine Keeps.of_snd ‹_ = (_, _)› ?_
                  | with_reducible refine Keeps.of_fst ‹_ = (_, _)› ?_
                  | with_reducible refine Keeps.of_fst3 ‹_ = (_, _, _)› ?_ | with_reducible apply Keeps.ite
                  | split | dsimp only)

theorem State.updPocket_keeps {a s : State} {x1} {x2} (h : Keeps a s) :
    Keeps a (State.updPocket s x1 x2) := by
  unfold State.updPocket
  try dsimp only
  repeat' (first | with_reducible assumption | simp only [Keeps.record]
                  | with_reducible refine Keeps.of_snd ‹_ = (_, _)› ?_
                  | with_reducible refine Keeps.of_fst ‹_ = (_, _)› ?_
                  | with_reducible refine Keeps.of_fst3 ‹_ = (_, _, _)› ?_ | with_reducible apply Keeps.ite
                  | split | dsimp only)

theorem State.draw_keeps {a s : State} (h : Keeps a s) :
    Keeps a (State.draw s).2 := by
  unfold State.draw
  try dsimp only
  repeat' (first | with_reducible assumption | simp only [Keeps.record]
                  | with_reducible refine Keeps.of_snd ‹_ = (_, _)› ?_
                  | with_reducible refine Keeps.of_fst ‹_ = (_, _)› ?_
                  | with_reducible refine Keeps.of_fst3 ‹_ = (_, _, _)› ?_ | with_reducible apply Keeps.ite
                  | split | dsimp only)

theorem State.setX_keeps {a s : State} {x1} {x2} {x3} (h : Keeps a s) :
    Keeps a (State.setX s x1 x2 x3) := by
  unfold State.setX
  try dsimp only
  repeat' (first | with_reducible assumption | with_reducible apply State.updHart_keeps | simp only [Keeps.record]
                  | with_reducible refine Keeps.of_snd ‹_ = (_, _)› ?_
                  | with_reducible refine Keeps.of_fst ‹_ = (_, _)› ?_
                  | with_reducible refine Keeps.of_fst3 ‹_ = (_, _, _)› ?_ | with_reducible apply Keeps.ite
                  | split | dsimp only)

theorem State.updFence_keeps {a s : State} {x1} {x2} (h : Keeps a s) :
    Keeps a (State.updFence s x1 x2) := by
  unfold State.updFence
  try dsimp only
  repeat' (first | with_reducible assumption | simp only [Keeps.record]
                  | with_reducible refine Keeps.of_snd ‹_ = (_, _)› ?_
                  | with_reducible refine Keeps.of_fst ‹_ = (_, _)› ?_
                  | with_reducible refine Keeps.of_fst3 ‹_ = (_, _, _)› ?_ | with_reducible apply Keeps.ite
                  | split | dsimp only)

theorem State.setCsr_keeps {a s : State} {x1} {x2} {x3} (h : Keeps a s) :
    Keeps a (State.setCsr s x1 x2 x3) := by
  unfold State.setCsr
  try dsimp only
  repeat' (first | with_reducible assumption | with_reducible apply State.updHart_keeps | simp only [Keeps.record]
                  | with_reducible refine Keeps.of_snd ‹_ = (_, _)› ?_
                  | with_reducible refine Keeps.of_fst ‹_ = (_, _)› ?_
                  | with_reducible refine Keeps.of_fst3 ‹_ = (_, _, _)› ?_ | with_reducible apply Keeps.ite
                  | split | dsimp only)

theorem State.weltLog_keeps {a s : State} {x1} {x2} {x3} {x4} {x5} {x6} {x7} (h : Keeps a s) :
    Keeps a (State.weltLog s x1 x2 x3 x4 x5 x6 x7) := by
  unfold State.weltLog
  try dsimp only
  repeat' (first | with_reducible assumption | with_reducible apply State.incF_keeps
                  | with_reducible apply State.wr_keeps | with_reducible apply State.setF_keeps
                  | simp only [Keeps.record] | with_reducible refine Keeps.of_snd ‹_ = (_, _)› ?_
                  | with_reducible refine Keeps.of_fst ‹_ = (_, _)› ?_
                  | with_reducible refine Keeps.of_fst3 ‹_ = (_, _, _)› ?_ | with_reducible apply Keeps.ite
                  | split | dsimp only)

theorem State.violation_keeps {a s : State} {x1} {x2} {x3} {x4} {x5} {x6} {x7} (h : Keeps a s) :
    Keeps a (State.violation s x1 x2 x3 x4 x5 x6 x7) := by
  unfold State.violation
  try dsimp only
  repeat' (first | with_reducible assumption | with_reducible apply State.note_keeps
                  | with_reducible apply State.weltLog_keeps | with_reducible apply State.setSource_keeps
                  | simp only [Keeps.record] | with_reducible refine Keeps.of_snd ‹_ = (_, _)› ?_
                  | with_reducible refine Keeps.of_fst ‹_ = (_, _)› ?_
                  | with_reducible refine Keeps.of_fst3 ‹_ = (_, _, _)› ?_ | with_reducible apply Keeps.ite
                  | split | dsimp only)

theorem State.reply_keeps {a s : State} {x1} {x2} {x3} (h : Keeps a s) :
    Keeps a (State.reply s x1 x2 x3) := by
  unfold State.reply
  try dsimp only
  repeat' (first | with_reducible assumption | simp only [Keeps.record]
                  | with_reducible refine Keeps.of_snd ‹_ = (_, _)› ?_
                  | with_reducible refine Keeps.of_fst ‹_ = (_, _)› ?_
                  | with_reducible refine Keeps.of_fst3 ‹_ = (_, _, _)› ?_ | with_reducible apply Keeps.ite
                  | split | dsimp only)

theorem State.awlTrace_keeps {a s : State} {x1} {x2} {x3} (h : Keeps a s) :
    Keeps a (State.awlTrace s x1 x2 x3) := by
  unfold State.awlTrace
  try dsimp only
  repeat' (first | with_reducible assumption | with_reducible apply State.setF_keeps
                  | with_reducible apply State.wr_keeps | with_reducible refine Keeps.foldl (fun _ _ _ => ?_) ?_
                  | with_reducible refine Keeps.foldlFst (fun _ _ _ => ?_) ?_
                  | with_reducible refine Keeps.foldlSnd (fun _ _ _ => ?_) ?_ | simp only [Keeps.record]
                  | with_reducible refine Keeps.of_snd ‹_ = (_, _)› ?_
                  | with_reducible refine Keeps.of_fst ‹_ = (_, _)› ?_
                  | with_reducible refine Keeps.of_fst3 ‹_ = (_, _, _)› ?_ | with_reducible apply Keeps.ite
                  | split | dsimp only)

theorem State.awlSee_keeps {a s : State} {x1} (h : Keeps a s) :
    Keeps a (State.awlSee s x1) := by
  unfold State.awlSee
  try dsimp only
  repeat' (first | with_reducible assumption | with_reducible apply State.awlTrace_keeps
                  | with_reducible apply State.wr_keeps | with_reducible refine Keeps.foldl (fun _ _ _ => ?_) ?_
                  | with_reducible refine Keeps.foldlFst (fun _ _ _ => ?_) ?_
                  | with_reducible refine Keeps.foldlSnd (fun _ _ _ => ?_) ?_ | simp only [Keeps.record]
                  | with_reducible refine Keeps.of_snd ‹_ = (_, _)› ?_
                  | with_reducible refine Keeps.of_fst ‹_ = (_, _)› ?_
                  | with_reducible refine Keeps.of_fst3 ‹_ = (_, _, _)› ?_ | with_reducible apply Keeps.ite
                  | split | dsimp only)

theorem State.inject_keeps {a s : State} {x1} (h : Keeps a s) :
    Keeps a (State.inject s x1) := by
  unfold State.inject
  try dsimp only
  repeat' (first | with_reducible assumption | with_reducible apply State.awlSee_keeps | simp only [Keeps.record]
                  | with_reducible refine Keeps.of_snd ‹_ = (_, _)› ?_
                  | with_reducible refine Keeps.of_fst ‹_ = (_, _)› ?_
                  | with_reducible refine Keeps.of_fst3 ‹_ = (_, _, _)› ?_ | with_reducible apply Keeps.ite
                  | split | dsimp only)

theorem State.send_keeps {a s : State} {x1} (h : Keeps a s) :
    Keeps a (State.send s x1) := by
  unfold State.send
  try dsimp only
  repeat' (first | with_reducible assumption | with_reducible apply State.err_keeps
                  | with_reducible apply State.inject_keeps | simp only [Keeps.record]
                  | with_reducible refine Keeps.of_snd ‹_ = (_, _)› ?_
                  | with_reducible refine Keeps.of_fst ‹_ = (_, _)› ?_
                  | with_reducible refine Keeps.of_fst3 ‹_ = (_, _, _)› ?_ | with_reducible apply Keeps.ite
                  | split | dsimp only)

theorem State.sendAll_keeps {a s : State} {x1} (h : Keeps a s) :
    Keeps a (State.sendAll s x1) := by
  unfold State.sendAll
  try dsimp only
  repeat' (first | with_reducible assumption | with_reducible apply State.send_keeps
                  | with_reducible refine Keeps.foldl (fun _ _ _ => ?_) ?_
                  | with_reducible refine Keeps.foldlFst (fun _ _ _ => ?_) ?_
                  | with_reducible refine Keeps.foldlSnd (fun _ _ _ => ?_) ?_ | simp only [Keeps.record]
                  | with_reducible refine Keeps.of_snd ‹_ = (_, _)› ?_
                  | with_reducible refine Keeps.of_fst ‹_ = (_, _)› ?_
                  | with_reducible refine Keeps.of_fst3 ‹_ = (_, _, _)› ?_ | with_reducible apply Keeps.ite
                  | split | dsimp only)

theorem State.hpmOverflow_keeps {a s : State} {x1} {x2} (h : Keeps a s) :
    Keeps a (State.hpmOverflow s x1 x2) := by
  unfold State.hpmOverflow
  try dsimp only
  repeat' (first | with_reducible assumption | with_reducible apply State.setCsr_keeps
                  | with_reducible apply State.updHart_keeps | simp only [Keeps.record]
                  | with_reducible refine Keeps.of_snd ‹_ = (_, _)› ?_
                  | with_reducible refine Keeps.of_fst ‹_ = (_, _)› ?_
                  | with_reducible refine Keeps.of_fst3 ‹_ = (_, _, _)› ?_ | with_reducible apply Keeps.ite
                  | split | dsimp only)

theorem State.hpmOne_keeps {a s : State} {x1} {x2} (h : Keeps a s) :
    Keeps a (State.hpmOne s x1 x2) := by
  unfold State.hpmOne
  try dsimp only
  repeat' (first | with_reducible assumption | with_reducible apply State.setCsr_keeps
                  | with_reducible apply State.hpmOverflow_keeps | simp only [Keeps.record]
                  | with_reducible refine Keeps.of_snd ‹_ = (_, _)› ?_
                  | with_reducible refine Keeps.of_fst ‹_ = (_, _)› ?_
                  | with_reducible refine Keeps.of_fst3 ‹_ = (_, _, _)› ?_ | with_reducible apply Keeps.ite
                  | split | dsimp only)

theorem State.hpmStep_keeps {a s : State} {x1} (h : Keeps a s) :
    Keeps a (State.hpmStep s x1) := by
  unfold State.hpmStep
  try dsimp only
  repeat' (first | with_reducible assumption | with_reducible apply State.hpmOne_keeps
                  | with_reducible refine Keeps.foldl (fun _ _ _ => ?_) ?_
                  | with_reducible refine Keeps.foldlFst (fun _ _ _ => ?_) ?_
                  | with_reducible refine Keeps.foldlSnd (fun _ _ _ => ?_) ?_ | simp only [Keeps.record]
                  | with_reducible refine Keeps.of_snd ‹_ = (_, _)› ?_
                  | with_reducible refine Keeps.of_fst ‹_ = (_, _)› ?_
                  | with_reducible refine Keeps.of_fst3 ‹_ = (_, _, _)› ?_ | with_reducible apply Keeps.ite
                  | split | dsimp only)

theorem State.issue_keeps {a s : State} {x1} (h : Keeps a s) :
    Keeps a (State.issue s x1) := by
  unfold State.issue
  try dsimp only
  repeat' (first | with_reducible assumption | with_reducible apply State.hpmStep_keeps
                  | with_reducible apply State.updHart_keeps | simp only [Keeps.record]
                  | with_reducible refine Keeps.of_snd ‹_ = (_, _)› ?_
                  | with_reducible refine Keeps.of_fst ‹_ = (_, _)› ?_
                  | with_reducible refine Keeps.of_fst3 ‹_ = (_, _, _)› ?_ | with_reducible apply Keeps.ite
                  | split | dsimp only)

theorem State.livePanel_keeps {a s : State} {t : State} {x1} (h : Keeps a s) (h2 : Keeps a t) :
    Keeps a (State.livePanel s x1 t) := by
  unfold State.livePanel
  try dsimp only
  repeat' (first | with_reducible assumption | simp only [Keeps.record]
                  | with_reducible refine Keeps.of_snd ‹_ = (_, _)› ?_
                  | with_reducible refine Keeps.of_fst ‹_ = (_, _)› ?_
                  | with_reducible refine Keeps.of_fst3 ‹_ = (_, _, _)› ?_ | with_reducible apply Keeps.ite
                  | split | dsimp only)

theorem State.livePeer_keeps {a s : State} {t : State} {x1} (h : Keeps a s) (h2 : Keeps a t) :
    Keeps a (State.livePeer s x1 t) := by
  unfold State.livePeer
  try dsimp only
  repeat' (first | with_reducible assumption | with_reducible apply State.livePanel_keeps
                  | with_reducible apply State.live_keeps | simp only [Keeps.record]
                  | with_reducible refine Keeps.of_snd ‹_ = (_, _)› ?_
                  | with_reducible refine Keeps.of_fst ‹_ = (_, _)› ?_
                  | with_reducible refine Keeps.of_fst3 ‹_ = (_, _, _)› ?_ | with_reducible apply Keeps.ite
                  | split | dsimp only)

theorem State.accrue_keeps {a s : State} {x1} {x2} {x3} (h : Keeps a s) :
    Keeps a (State.accrue s x1 x2 x3) := by
  unfold State.accrue
  try dsimp only
  repeat' (first | with_reducible assumption | simp only [Keeps.record]
                  | with_reducible refine Keeps.of_snd ‹_ = (_, _)› ?_
                  | with_reducible refine Keeps.of_fst ‹_ = (_, _)› ?_
                  | with_reducible refine Keeps.of_fst3 ‹_ = (_, _, _)› ?_ | with_reducible apply Keeps.ite
                  | split | dsimp only)

theorem State.setPkg_keeps {a s : State} {x1} (h : Keeps a s) :
    Keeps a (State.setPkg s x1) := by
  unfold State.setPkg
  try dsimp only
  repeat' (first | with_reducible assumption | with_reducible apply State.setF_keeps
                  | with_reducible apply State.accrue_keeps | simp only [Keeps.record]
                  | with_reducible refine Keeps.of_snd ‹_ = (_, _)› ?_
                  | with_reducible refine Keeps.of_fst ‹_ = (_, _)› ?_
                  | with_reducible refine Keeps.of_fst3 ‹_ = (_, _, _)› ?_ | with_reducible apply Keeps.ite
                  | split | dsimp only)

theorem State.updPkg_keeps {a s : State} (h : Keeps a s) :
    Keeps a (State.updPkg s) := by
  unfold State.updPkg
  try dsimp only
  repeat' (first | with_reducible assumption | with_reducible apply State.setPkg_keeps | simp only [Keeps.record]
                  | with_reducible refine Keeps.of_snd ‹_ = (_, _)› ?_
                  | with_reducible refine Keeps.of_fst ‹_ = (_, _)› ?_
                  | with_reducible refine Keeps.of_fst3 ‹_ = (_, _, _)› ?_ | with_reducible apply Keeps.ite
                  | split | dsimp only)

theorem State.setSaddleState_keeps {a s : State} {x1} {x2} (h : Keeps a s) :
    Keeps a (State.setSaddleState s x1 x2) := by
  unfold State.setSaddleState
  try dsimp only
  repeat' (first | with_reducible assumption | with_reducible apply State.accrue_keeps
                  | with_reducible apply State.updPkg_keeps | with_reducible apply State.setF_keeps
                  | simp only [Keeps.record] | with_reducible refine Keeps.of_snd ‹_ = (_, _)› ?_
                  | with_reducible refine Keeps.of_fst ‹_ = (_, _)› ?_
                  | with_reducible refine Keeps.of_fst3 ‹_ = (_, _, _)› ?_ | with_reducible apply Keeps.ite
                  | split | dsimp only)

theorem State.accrueAll_keeps {a s : State} (h : Keeps a s) :
    Keeps a (State.accrueAll s) := by
  unfold State.accrueAll
  try dsimp only
  repeat' (first | with_reducible assumption | with_reducible apply State.accrue_keeps
                  | with_reducible refine Keeps.foldl (fun _ _ _ => ?_) ?_
                  | with_reducible refine Keeps.foldlFst (fun _ _ _ => ?_) ?_
                  | with_reducible refine Keeps.foldlSnd (fun _ _ _ => ?_) ?_ | simp only [Keeps.record]
                  | with_reducible refine Keeps.of_snd ‹_ = (_, _)› ?_
                  | with_reducible refine Keeps.of_fst ‹_ = (_, _)› ?_
                  | with_reducible refine Keeps.of_fst3 ‹_ = (_, _, _)› ?_ | with_reducible apply Keeps.ite
                  | split | dsimp only)

theorem State.acceptLeave_keeps {a s : State} {x1} {x2} (h : Keeps a s) :
    KeepsO a (State.acceptLeave s x1 x2) := by
  unfold State.acceptLeave
  try dsimp only
  repeat' (first | with_reducible assumption | with_reducible apply State.updPort_keeps | simp only [Keeps.record]
                  | with_reducible exact KeepsO.none | with_reducible apply KeepsO.some
                  | with_reducible exact KeepsO.fstNone | with_reducible exact KeepsO.sndNone
                  | with_reducible apply KeepsO.fst | with_reducible apply KeepsO.snd
                  | with_reducible refine KeepsO.map (fun _ _ => ?_) ?_ | with_reducible apply KeepsO.getD
                  | with_reducible apply KeepsO.sndPut | with_reducible refine Keeps.of_some ‹_ = some _› ?_
                  | with_reducible refine Keeps.of_someFst ‹_ = some (_, _)› ?_
                  | with_reducible refine Keeps.of_someSnd ‹_ = some (_, _)› ?_
                  | with_reducible refine Keeps.of_someP1 ‹_ = some _› ?_
                  | with_reducible refine Keeps.of_snd ‹_ = (_, _)› ?_
                  | with_reducible refine Keeps.of_fst ‹_ = (_, _)› ?_
                  | with_reducible refine Keeps.of_fst3 ‹_ = (_, _, _)› ?_ | with_reducible apply Keeps.ite
                  | split | dsimp only)

theorem State.trap_keeps {a s : State} {x1} {x2} {x3} (h : Keeps a s) :
    Keeps a (State.trap s x1 x2 x3) := by
  unfold State.trap
  try dsimp only
  repeat' (first | with_reducible assumption | with_reducible apply State.updHart_keeps | simp only [Keeps.record]
                  | with_reducible refine Keeps.of_snd ‹_ = (_, _)› ?_
                  | with_reducible refine Keeps.of_fst ‹_ = (_, _)› ?_
                  | with_reducible refine Keeps.of_fst3 ‹_ = (_, _, _)› ?_ | with_reducible apply Keeps.ite
                  | split | dsimp only)

theorem State.illegal_keeps {a s : State} {x1} (h : Keeps a s) :
    Keeps a (State.illegal s x1) := by
  unfold State.illegal
  try dsimp only
  repeat' (first | with_reducible assumption | with_reducible apply State.trap_keeps | simp only [Keeps.record]
                  | with_reducible refine Keeps.of_snd ‹_ = (_, _)› ?_
                  | with_reducible refine Keeps.of_fst ‹_ = (_, _)› ?_
                  | with_reducible refine Keeps.of_fst3 ‹_ = (_, _, _)› ?_ | with_reducible apply Keeps.ite
                  | split | dsimp only)

theorem State.halt_keeps {a s : State} {x1} {x2} (h : Keeps a s) :
    Keeps a (State.halt s x1 x2) := by
  unfold State.halt
  try dsimp only
  repeat' (first | with_reducible assumption | with_reducible apply State.updHart_keeps | simp only [Keeps.record]
                  | with_reducible refine Keeps.of_snd ‹_ = (_, _)› ?_
                  | with_reducible refine Keeps.of_fst ‹_ = (_, _)› ?_
                  | with_reducible refine Keeps.of_fst3 ‹_ = (_, _, _)› ?_ | with_reducible apply Keeps.ite
                  | split | dsimp only)

theorem State.stepped_keeps {a s : State} {x1} (h : Keeps a s) :
    Keeps a (State.stepped s x1) := by
  unfold State.stepped
  try dsimp only
  repeat' (first | with_reducible assumption | with_reducible apply State.halt_keeps | simp only [Keeps.record]
                  | with_reducible refine Keeps.of_snd ‹_ = (_, _)› ?_
                  | with_reducible refine Keeps.of_fst ‹_ = (_, _)› ?_
                  | with_reducible refine Keeps.of_fst3 ‹_ = (_, _, _)› ?_ | with_reducible apply Keeps.ite
                  | split | dsimp only)

theorem State.bump_keeps {a s : State} {x1} {x2} {x3} (h : Keeps a s) :
    Keeps a (State.bump s x1 x2 x3) := by
  unfold State.bump
  try dsimp only
  repeat' (first | with_reducible assumption | with_reducible apply State.updHart_keeps | simp only [Keeps.record]
                  | with_reducible refine Keeps.of_snd ‹_ = (_, _)› ?_
                  | with_reducible refine Keeps.of_fst ‹_ = (_, _)› ?_
                  | with_reducible refine Keeps.of_fst3 ‹_ = (_, _, _)› ?_ | with_reducible apply Keeps.ite
                  | split | dsimp only)

theorem State.evictL2_keeps {a s : State} {x1} {x2} {x3} (h : Keeps a s) :
    KeepsO a (State.evictL2 s x1 x2 x3) := by
  unfold State.evictL2
  try dsimp only
  repeat' (first | with_reducible assumption | with_reducible apply State.setHart_keeps
                  | with_reducible apply State.acceptLeave_keeps | simp only [Keeps.record]
                  | with_reducible exact KeepsO.none | with_reducible apply KeepsO.some
                  | with_reducible exact KeepsO.fstNone | with_reducible exact KeepsO.sndNone
                  | with_reducible apply KeepsO.fst | with_reducible apply KeepsO.snd
                  | with_reducible refine KeepsO.map (fun _ _ => ?_) ?_ | with_reducible apply KeepsO.getD
                  | with_reducible apply KeepsO.sndPut | with_reducible refine Keeps.of_some ‹_ = some _› ?_
                  | with_reducible refine Keeps.of_someFst ‹_ = some (_, _)› ?_
                  | with_reducible refine Keeps.of_someSnd ‹_ = some (_, _)› ?_
                  | with_reducible refine Keeps.of_someP1 ‹_ = some _› ?_
                  | with_reducible refine Keeps.of_snd ‹_ = (_, _)› ?_
                  | with_reducible refine Keeps.of_fst ‹_ = (_, _)› ?_
                  | with_reducible refine Keeps.of_fst3 ‹_ = (_, _, _)› ?_ | with_reducible apply Keeps.ite
                  | split | dsimp only)

theorem State.tagCheck_keeps {a s : State} {x1} {x2} (h : Keeps a s) :
    Keeps a (State.tagCheck s x1 x2) := by
  unfold State.tagCheck
  try dsimp only
  repeat' (first | with_reducible assumption | with_reducible apply State.evictL2_keeps | simp only [Keeps.record]
                  | with_reducible exact KeepsO.none | with_reducible apply KeepsO.some
                  | with_reducible exact KeepsO.fstNone | with_reducible exact KeepsO.sndNone
                  | with_reducible apply KeepsO.fst | with_reducible apply KeepsO.snd
                  | with_reducible refine KeepsO.map (fun _ _ => ?_) ?_ | with_reducible apply KeepsO.getD
                  | with_reducible apply KeepsO.sndPut | with_reducible refine Keeps.of_some ‹_ = some _› ?_
                  | with_reducible refine Keeps.of_someFst ‹_ = some (_, _)› ?_
                  | with_reducible refine Keeps.of_someSnd ‹_ = some (_, _)› ?_
                  | with_reducible refine Keeps.of_someP1 ‹_ = some _› ?_
                  | with_reducible refine Keeps.of_snd ‹_ = (_, _)› ?_
                  | with_reducible refine Keeps.of_fst ‹_ = (_, _)› ?_
                  | with_reducible refine Keeps.of_fst3 ‹_ = (_, _, _)› ?_ | with_reducible apply Keeps.ite
                  | split | dsimp only)

theorem State.installL2_keeps {a s : State} {x1} {x2} {x3} {x4} {x5} {x6} {x7} (h : Keeps a s) :
    KeepsO a (State.installL2 s x1 x2 x3 x4 x5 x6 x7) := by
  unfold State.installL2
  try dsimp only
  repeat' (first | with_reducible assumption | with_reducible apply State.updHart_keeps
                  | with_reducible apply State.evictL2_keeps | simp only [Keeps.record]
                  | with_reducible exact KeepsO.none | with_reducible apply KeepsO.some
                  | with_reducible exact KeepsO.fstNone | with_reducible exact KeepsO.sndNone
                  | with_reducible apply KeepsO.fst | with_reducible apply KeepsO.snd
                  | with_reducible refine KeepsO.map (fun _ _ => ?_) ?_ | with_reducible apply KeepsO.getD
                  | with_reducible apply KeepsO.sndPut | with_reducible refine Keeps.of_some ‹_ = some _› ?_
                  | with_reducible refine Keeps.of_someFst ‹_ = some (_, _)› ?_
                  | with_reducible refine Keeps.of_someSnd ‹_ = some (_, _)› ?_
                  | with_reducible refine Keeps.of_someP1 ‹_ = some _› ?_
                  | with_reducible refine Keeps.of_snd ‹_ = (_, _)› ?_
                  | with_reducible refine Keeps.of_fst ‹_ = (_, _)› ?_
                  | with_reducible refine Keeps.of_fst3 ‹_ = (_, _, _)› ?_ | with_reducible apply Keeps.ite
                  | split | dsimp only)

theorem State.addReq_keeps {a s : State} {x1} {x2} {x3} {x4} {x5} {x6} {x7} (h : Keeps a s) :
    Keeps a (State.addReq s x1 x2 x3 x4 x5 x6 x7) := by
  unfold State.addReq
  try dsimp only
  repeat' (first | with_reducible assumption | with_reducible apply State.updHart_keeps | simp only [Keeps.record]
                  | with_reducible refine Keeps.of_snd ‹_ = (_, _)› ?_
                  | with_reducible refine Keeps.of_fst ‹_ = (_, _)› ?_
                  | with_reducible refine Keeps.of_fst3 ‹_ = (_, _, _)› ?_ | with_reducible apply Keeps.ite
                  | split | dsimp only)

theorem State.requestLine_keeps {a s : State} {x1} {x2} {x3} {x4} {x5} {x6} {x7} (h : Keeps a s) :
    Keeps a (State.requestLine s x1 x2 x3 x4 x5 x6 x7) := by
  unfold State.requestLine
  try dsimp only
  repeat' (first | with_reducible assumption | with_reducible apply State.tagCheck_keeps
                  | with_reducible apply State.installL2_keeps | with_reducible apply State.updPort_keeps
                  | with_reducible apply State.addReq_keeps | with_reducible apply State.send_keeps
                  | simp only [Keeps.record] | with_reducible exact KeepsO.none
                  | with_reducible apply KeepsO.some | with_reducible exact KeepsO.fstNone
                  | with_reducible exact KeepsO.sndNone | with_reducible apply KeepsO.fst
                  | with_reducible apply KeepsO.snd | with_reducible refine KeepsO.map (fun _ _ => ?_) ?_
                  | with_reducible apply KeepsO.getD | with_reducible apply KeepsO.sndPut
                  | with_reducible refine Keeps.of_some ‹_ = some _› ?_
                  | with_reducible refine Keeps.of_someFst ‹_ = some (_, _)› ?_
                  | with_reducible refine Keeps.of_someSnd ‹_ = some (_, _)› ?_
                  | with_reducible refine Keeps.of_someP1 ‹_ = some _› ?_
                  | with_reducible refine Keeps.of_snd ‹_ = (_, _)› ?_
                  | with_reducible refine Keeps.of_fst ‹_ = (_, _)› ?_
                  | with_reducible refine Keeps.of_fst3 ‹_ = (_, _, _)› ?_ | with_reducible apply Keeps.ite
                  | split | dsimp only)

theorem State.setPanelState_keeps {a s : State} {x1} {x2} (h : Keeps a s) :
    Keeps a (State.setPanelState s x1 x2) := by
  unfold State.setPanelState
  try dsimp only
  repeat' (first | with_reducible assumption | with_reducible apply State.accrue_keeps
                  | with_reducible apply State.updPkg_keeps | with_reducible apply State.setF_keeps
                  | simp only [Keeps.record] | with_reducible refine Keeps.of_snd ‹_ = (_, _)› ?_
                  | with_reducible refine Keeps.of_fst ‹_ = (_, _)› ?_
                  | with_reducible refine Keeps.of_fst3 ‹_ = (_, _, _)› ?_ | with_reducible apply Keeps.ite
                  | split | dsimp only)

theorem State.retire_keeps {a s : State} {x1} (h : Keeps a s) :
    Keeps a (State.retire s x1) := by
  unfold State.retire
  try dsimp only
  repeat' (first | with_reducible assumption | with_reducible apply State.updHart_keeps | simp only [Keeps.record]
                  | with_reducible refine Keeps.of_snd ‹_ = (_, _)› ?_
                  | with_reducible refine Keeps.of_fst ‹_ = (_, _)› ?_
                  | with_reducible refine Keeps.of_fst3 ‹_ = (_, _, _)› ?_ | with_reducible apply Keeps.ite
                  | split | dsimp only)

theorem State.onHart_keeps {a s : State} {x1} {x2} (h2 : ∀ y0, Keeps a y0 → Keeps a (x2 y0)) (h : Keeps a s) :
    Keeps a (State.onHart s x1 x2) := by
  unfold State.onHart
  try dsimp only
  repeat' (first | with_reducible assumption | with_reducible apply State.halt_keeps
                  | with_reducible apply State.stepped_keeps | with_reducible apply State.issue_keeps
                  | simp only [Keeps.record] | with_reducible apply h2
                  | with_reducible refine Keeps.of_snd ‹_ = (_, _)› ?_
                  | with_reducible refine Keeps.of_fst ‹_ = (_, _)› ?_
                  | with_reducible refine Keeps.of_fst3 ‹_ = (_, _, _)› ?_ | with_reducible apply Keeps.ite
                  | split | dsimp only)

theorem State.sendLeaving_keeps {a s : State} {x1} (h : Keeps a s) :
    Keeps a (State.sendLeaving s x1) := by
  unfold State.sendLeaving
  try dsimp only
  repeat' (first | with_reducible assumption | with_reducible apply State.updPort_keeps
                  | with_reducible apply State.sendAll_keeps | simp only [Keeps.record]
                  | with_reducible refine Keeps.of_snd ‹_ = (_, _)› ?_
                  | with_reducible refine Keeps.of_fst ‹_ = (_, _)› ?_
                  | with_reducible refine Keeps.of_fst3 ‹_ = (_, _, _)› ?_ | with_reducible apply Keeps.ite
                  | split | dsimp only)

theorem State.fatalStop_keeps {a s : State} {x1} (h : Keeps a s) :
    Keeps a (State.fatalStop s x1) := by
  unfold State.fatalStop
  try dsimp only
  repeat' (first | with_reducible assumption | with_reducible refine Keeps.foldl (fun _ _ _ => ?_) ?_
                  | with_reducible refine Keeps.foldlFst (fun _ _ _ => ?_) ?_
                  | with_reducible refine Keeps.foldlSnd (fun _ _ _ => ?_) ?_ | simp only [Keeps.record]
                  | with_reducible refine Keeps.of_snd ‹_ = (_, _)› ?_
                  | with_reducible refine Keeps.of_fst ‹_ = (_, _)› ?_
                  | with_reducible refine Keeps.of_fst3 ‹_ = (_, _, _)› ?_ | with_reducible apply Keeps.ite
                  | split | dsimp only)

theorem State.cacheError_keeps {a s : State} {x1} {x2} {x3} (h : Keeps a s) :
    Keeps a (State.cacheError s x1 x2 x3) := by
  unfold State.cacheError
  try dsimp only
  repeat' (first | with_reducible assumption | with_reducible apply State.err_keeps
                  | with_reducible apply State.updHart_keeps | with_reducible apply State.evictL2_keeps
                  | with_reducible apply State.fatalStop_keeps | simp only [Keeps.record]
                  | with_reducible exact KeepsO.none | with_reducible apply KeepsO.some
                  | with_reducible exact KeepsO.fstNone | with_reducible exact KeepsO.sndNone
                  | with_reducible apply KeepsO.fst | with_reducible apply KeepsO.snd
                  | with_reducible refine KeepsO.map (fun _ _ => ?_) ?_ | with_reducible apply KeepsO.getD
                  | with_reducible apply KeepsO.sndPut | with_reducible refine Keeps.of_some ‹_ = some _› ?_
                  | with_reducible refine Keeps.of_someFst ‹_ = some (_, _)› ?_
                  | with_reducible refine Keeps.of_someSnd ‹_ = some (_, _)› ?_
                  | with_reducible refine Keeps.of_someP1 ‹_ = some _› ?_
                  | with_reducible refine Keeps.of_snd ‹_ = (_, _)› ?_
                  | with_reducible refine Keeps.of_fst ‹_ = (_, _)› ?_
                  | with_reducible refine Keeps.of_fst3 ‹_ = (_, _, _)› ?_ | with_reducible apply Keeps.ite
                  | split | dsimp only)

theorem State.cleanL2_keeps {a s : State} {x1} {x2} (h : Keeps a s) :
    KeepsO a (State.cleanL2 s x1 x2) := by
  unfold State.cleanL2
  try dsimp only
  repeat' (first | with_reducible assumption | with_reducible apply State.setHart_keeps
                  | with_reducible apply State.acceptLeave_keeps | simp only [Keeps.record]
                  | with_reducible exact KeepsO.none | with_reducible apply KeepsO.some
                  | with_reducible exact KeepsO.fstNone | with_reducible exact KeepsO.sndNone
                  | with_reducible apply KeepsO.fst | with_reducible apply KeepsO.snd
                  | with_reducible refine KeepsO.map (fun _ _ => ?_) ?_ | with_reducible apply KeepsO.getD
                  | with_reducible apply KeepsO.sndPut | with_reducible refine Keeps.of_some ‹_ = some _› ?_
                  | with_reducible refine Keeps.of_someFst ‹_ = some (_, _)› ?_
                  | with_reducible refine Keeps.of_someSnd ‹_ = some (_, _)› ?_
                  | with_reducible refine Keeps.of_someP1 ‹_ = some _› ?_
                  | with_reducible refine Keeps.of_snd ‹_ = (_, _)› ?_
                  | with_reducible refine Keeps.of_fst ‹_ = (_, _)› ?_
                  | with_reducible refine Keeps.of_fst3 ‹_ = (_, _, _)› ?_ | with_reducible apply Keeps.ite
                  | split | dsimp only)

theorem State.ownCopy_keeps {a s : State} {x1} {x2} {x3} (h : Keeps a s) :
    KeepsO a (State.ownCopy s x1 x2 x3) := by
  unfold State.ownCopy
  try dsimp only
  repeat' (first | with_reducible assumption | with_reducible apply State.cleanL2_keeps
                  | with_reducible apply State.evictL2_keeps | with_reducible apply State.setHart_keeps
                  | with_reducible apply State.sendLeaving_keeps | simp only [Keeps.record]
                  | with_reducible exact KeepsO.none | with_reducible apply KeepsO.some
                  | with_reducible exact KeepsO.fstNone | with_reducible exact KeepsO.sndNone
                  | with_reducible apply KeepsO.fst | with_reducible apply KeepsO.snd
                  | with_reducible refine KeepsO.map (fun _ _ => ?_) ?_ | with_reducible apply KeepsO.getD
                  | with_reducible apply KeepsO.sndPut | with_reducible refine Keeps.of_some ‹_ = some _› ?_
                  | with_reducible refine Keeps.of_someFst ‹_ = some (_, _)› ?_
                  | with_reducible refine Keeps.of_someSnd ‹_ = some (_, _)› ?_
                  | with_reducible refine Keeps.of_someP1 ‹_ = some _› ?_
                  | with_reducible refine Keeps.of_snd ‹_ = (_, _)› ?_
                  | with_reducible refine Keeps.of_fst ‹_ = (_, _)› ?_
                  | with_reducible refine Keeps.of_fst3 ‹_ = (_, _, _)› ?_ | with_reducible apply Keeps.ite
                  | split | dsimp only)

theorem State.sendVia_keeps {a s : State} {x1} {x2} (h : Keeps a s) :
    Keeps a (State.sendVia s x1 x2) := by
  unfold State.sendVia
  try dsimp only
  repeat' (first | with_reducible assumption | with_reducible apply State.updPort_keeps
                  | with_reducible apply State.send_keeps | simp only [Keeps.record]
                  | with_reducible refine Keeps.of_snd ‹_ = (_, _)› ?_
                  | with_reducible refine Keeps.of_fst ‹_ = (_, _)› ?_
                  | with_reducible refine Keeps.of_fst3 ‹_ = (_, _, _)› ?_ | with_reducible apply Keeps.ite
                  | split | dsimp only)

theorem State.hartPoison_keeps {a s : State} {x1} {x2} {x3} (h : Keeps a s) :
    Keeps a (State.hartPoison s x1 x2 x3) := by
  unfold State.hartPoison
  try dsimp only
  repeat' (first | with_reducible assumption | with_reducible apply State.err_keeps | simp only [Keeps.record]
                  | with_reducible refine Keeps.of_snd ‹_ = (_, _)› ?_
                  | with_reducible refine Keeps.of_fst ‹_ = (_, _)› ?_
                  | with_reducible refine Keeps.of_fst3 ‹_ = (_, _, _)› ?_ | with_reducible apply Keeps.ite
                  | split | dsimp only)

theorem State.askLines_keeps {a s : State} {x1} {x2} {x3} (h : Keeps a s) :
    Keeps a (State.askLines s x1 x2 x3) := by
  unfold State.askLines
  try dsimp only
  repeat' (first | with_reducible assumption | with_reducible apply State.tagCheck_keeps
                  | with_reducible apply State.requestLine_keeps
                  | with_reducible refine Keeps.foldl (fun _ _ _ => ?_) ?_
                  | with_reducible refine Keeps.foldlFst (fun _ _ _ => ?_) ?_
                  | with_reducible refine Keeps.foldlSnd (fun _ _ _ => ?_) ?_ | simp only [Keeps.record]
                  | with_reducible refine Keeps.of_snd ‹_ = (_, _)› ?_
                  | with_reducible refine Keeps.of_fst ‹_ = (_, _)› ?_
                  | with_reducible refine Keeps.of_fst3 ‹_ = (_, _, _)› ?_ | with_reducible apply Keeps.ite
                  | split | dsimp only)

theorem State.storeLine_keeps {a s : State} {x1} {x2} {x3} {x4} {x5} (h : Keeps a s) :
    Keeps a (State.storeLine s x1 x2 x3 x4 x5) := by
  unfold State.storeLine
  try dsimp only
  repeat' (first | with_reducible assumption | with_reducible apply State.updHart_keeps | simp only [Keeps.record]
                  | with_reducible refine Keeps.of_snd ‹_ = (_, _)› ?_
                  | with_reducible refine Keeps.of_fst ‹_ = (_, _)› ?_
                  | with_reducible refine Keeps.of_fst3 ‹_ = (_, _, _)› ?_ | with_reducible apply Keeps.ite
                  | split | dsimp only)

theorem State.performStore_keeps {a s : State} {x1} {x2} (h : Keeps a s) :
    Keeps a (State.performStore s x1 x2) := by
  unfold State.performStore
  try dsimp only
  repeat' (first | with_reducible assumption | with_reducible apply State.storeLine_keeps
                  | with_reducible refine Keeps.foldl (fun _ _ _ => ?_) ?_
                  | with_reducible refine Keeps.foldlFst (fun _ _ _ => ?_) ?_
                  | with_reducible refine Keeps.foldlSnd (fun _ _ _ => ?_) ?_ | simp only [Keeps.record]
                  | with_reducible refine Keeps.of_snd ‹_ = (_, _)› ?_
                  | with_reducible refine Keeps.of_fst ‹_ = (_, _)› ?_
                  | with_reducible refine Keeps.of_fst3 ‹_ = (_, _, _)› ?_ | with_reducible apply Keeps.ite
                  | split | dsimp only)

theorem State.tryAcc_keeps {a s : State} {x1} {x2} {x3} (h : Keeps a s) :
    Keeps a (State.tryAcc s x1 x2 x3).1 := by
  unfold State.tryAcc
  try dsimp only
  repeat' (first | with_reducible assumption | with_reducible apply State.ownCopy_keeps
                  | with_reducible apply State.bump_keeps | with_reducible apply State.sendVia_keeps
                  | with_reducible apply State.hartPoison_keeps | with_reducible apply State.updHart_keeps
                  | with_reducible apply State.setX_keeps | with_reducible apply State.askLines_keeps
                  | with_reducible apply State.performStore_keeps
                  | with_reducible refine Keeps.foldl (fun _ _ _ => ?_) ?_
                  | with_reducible refine Keeps.foldlFst (fun _ _ _ => ?_) ?_
                  | with_reducible refine Keeps.foldlSnd (fun _ _ _ => ?_) ?_ | simp only [Keeps.record]
                  | with_reducible exact KeepsO.none | with_reducible apply KeepsO.some
                  | with_reducible exact KeepsO.fstNone | with_reducible exact KeepsO.sndNone
                  | with_reducible apply KeepsO.fst | with_reducible apply KeepsO.snd
                  | with_reducible refine KeepsO.map (fun _ _ => ?_) ?_ | with_reducible apply KeepsO.getD
                  | with_reducible apply KeepsO.sndPut | with_reducible refine Keeps.of_some ‹_ = some _› ?_
                  | with_reducible refine Keeps.of_someFst ‹_ = some (_, _)› ?_
                  | with_reducible refine Keeps.of_someSnd ‹_ = some (_, _)› ?_
                  | with_reducible refine Keeps.of_someP1 ‹_ = some _› ?_
                  | with_reducible refine Keeps.of_snd ‹_ = (_, _)› ?_
                  | with_reducible refine Keeps.of_fst ‹_ = (_, _)› ?_
                  | with_reducible refine Keeps.of_fst3 ‹_ = (_, _, _)› ?_ | with_reducible apply Keeps.ite
                  | split | dsimp only)

theorem State.cutVl_keeps {a s : State} {x1} {x2} (h : Keeps a s) :
    Keeps a (State.cutVl s x1 x2) := by
  unfold State.cutVl
  try dsimp only
  repeat' (first | with_reducible assumption | with_reducible apply State.updHart_keeps | simp only [Keeps.record]
                  | with_reducible refine Keeps.of_snd ‹_ = (_, _)› ?_
                  | with_reducible refine Keeps.of_fst ‹_ = (_, _)› ?_
                  | with_reducible refine Keeps.of_fst3 ‹_ = (_, _, _)› ?_ | with_reducible apply Keeps.ite
                  | split | dsimp only)

theorem State.preciseFault_keeps {a s : State} {x1} {x2} {x3} {x4} (h : Keeps a s) :
    Keeps a (State.preciseFault s x1 x2 x3 x4) := by
  unfold State.preciseFault
  try dsimp only
  repeat' (first | with_reducible assumption | with_reducible apply State.updHart_keeps
                  | with_reducible apply State.trap_keeps | simp only [Keeps.record]
                  | with_reducible refine Keeps.of_snd ‹_ = (_, _)› ?_
                  | with_reducible refine Keeps.of_fst ‹_ = (_, _)› ?_
                  | with_reducible refine Keeps.of_fst3 ‹_ = (_, _, _)› ?_ | with_reducible apply Keeps.ite
                  | split | dsimp only)

theorem State.pumpList_keeps {a s : State} {x1} {x2} {x3} {x4} {x5} (h : Keeps a s) :
    Keeps a (State.pumpList s x1 x2 x3 x4 x5) := by
  induction x5 generalizing s x1 x2 x3 x4 with
  | nil =>
    unfold State.pumpList
    try dsimp only
    repeat' (first | with_reducible assumption | with_reducible apply State.updHart_keeps
                    | with_reducible apply State.tryAcc_keeps | with_reducible apply State.cutVl_keeps
                    | with_reducible apply State.preciseFault_keeps
                    | with_reducible refine Keeps.foldl (fun _ _ _ => ?_) ?_
                    | with_reducible refine Keeps.foldlFst (fun _ _ _ => ?_) ?_
                    | with_reducible refine Keeps.foldlSnd (fun _ _ _ => ?_) ?_ | simp only [Keeps.record]
                    | with_reducible refine Keeps.of_snd ‹_ = (_, _)› ?_
                    | with_reducible refine Keeps.of_fst ‹_ = (_, _)› ?_
                    | with_reducible refine Keeps.of_fst3 ‹_ = (_, _, _)› ?_ | with_reducible apply Keeps.ite
                    | split | dsimp only)
  | cons y l ih =>
    unfold State.pumpList
    try dsimp only
    repeat' (first | with_reducible assumption | with_reducible apply ih | with_reducible apply State.updHart_keeps
                    | with_reducible apply State.tryAcc_keeps | with_reducible apply State.cutVl_keeps
                    | with_reducible apply State.preciseFault_keeps
                    | with_reducible refine Keeps.foldl (fun _ _ _ => ?_) ?_
                    | with_reducible refine Keeps.foldlFst (fun _ _ _ => ?_) ?_
                    | with_reducible refine Keeps.foldlSnd (fun _ _ _ => ?_) ?_ | simp only [Keeps.record]
                    | with_reducible refine Keeps.of_snd ‹_ = (_, _)› ?_
                    | with_reducible refine Keeps.of_fst ‹_ = (_, _)› ?_
                    | with_reducible refine Keeps.of_fst3 ‹_ = (_, _, _)› ?_ | with_reducible apply Keeps.ite
                    | split | dsimp only)

theorem State.pumpIoList_keeps {a s : State} {x1} {x2} {x3} (h : Keeps a s) :
    Keeps a (State.pumpIoList s x1 x2 x3) := by
  induction x3 generalizing s x1 x2 with
  | nil =>
    unfold State.pumpIoList
    try dsimp only
    repeat' (first | with_reducible assumption | with_reducible apply State.updHart_keeps
                    | with_reducible apply State.send_keeps | simp only [Keeps.record]
                    | with_reducible refine Keeps.of_snd ‹_ = (_, _)› ?_
                    | with_reducible refine Keeps.of_fst ‹_ = (_, _)› ?_
                    | with_reducible refine Keeps.of_fst3 ‹_ = (_, _, _)› ?_ | with_reducible apply Keeps.ite
                    | split | dsimp only)
  | cons y l ih =>
    unfold State.pumpIoList
    try dsimp only
    repeat' (first | with_reducible assumption | with_reducible apply ih | with_reducible apply State.updHart_keeps
                    | with_reducible apply State.send_keeps | simp only [Keeps.record]
                    | with_reducible refine Keeps.of_snd ‹_ = (_, _)› ?_
                    | with_reducible refine Keeps.of_fst ‹_ = (_, _)› ?_
                    | with_reducible refine Keeps.of_fst3 ‹_ = (_, _, _)› ?_ | with_reducible apply Keeps.ite
                    | split | dsimp only)

theorem State.pump_keeps {a s : State} {x1} (h : Keeps a s) :
    Keeps a (State.pump s x1) := by
  unfold State.pump
  try dsimp only
  repeat' (first | with_reducible assumption | with_reducible apply State.pumpList_keeps
                  | with_reducible apply State.pumpIoList_keeps | simp only [Keeps.record]
                  | with_reducible refine Keeps.of_snd ‹_ = (_, _)› ?_
                  | with_reducible refine Keeps.of_fst ‹_ = (_, _)› ?_
                  | with_reducible refine Keeps.of_fst3 ‹_ = (_, _, _)› ?_ | with_reducible apply Keeps.ite
                  | split | dsimp only)

theorem State.addAcc_keeps {a s : State} {x1} {x2} (h : Keeps a s) :
    Keeps a (State.addAcc s x1 x2) := by
  unfold State.addAcc
  try dsimp only
  repeat' (first | with_reducible assumption | with_reducible apply State.updHart_keeps | simp only [Keeps.record]
                  | with_reducible refine Keeps.of_snd ‹_ = (_, _)› ?_
                  | with_reducible refine Keeps.of_fst ‹_ = (_, _)› ?_
                  | with_reducible refine Keeps.of_fst3 ‹_ = (_, _, _)› ?_ | with_reducible apply Keeps.ite
                  | split | dsimp only)

theorem State.addIo_keeps {a s : State} {x1} {x2} (h : Keeps a s) :
    Keeps a (State.addIo s x1 x2) := by
  unfold State.addIo
  try dsimp only
  repeat' (first | with_reducible assumption | with_reducible apply State.updHart_keeps | simp only [Keeps.record]
                  | with_reducible refine Keeps.of_snd ‹_ = (_, _)› ?_
                  | with_reducible refine Keeps.of_fst ‹_ = (_, _)› ?_
                  | with_reducible refine Keeps.of_fst3 ‹_ = (_, _, _)› ?_ | with_reducible apply Keeps.ite
                  | split | dsimp only)

theorem State.loadWorld_keeps {a s : State} {x1} {x2} {x3} (h : Keeps a s) :
    Keeps a (State.loadWorld s x1 x2 x3) := by
  unfold State.loadWorld
  try dsimp only
  repeat' (first | with_reducible assumption | with_reducible apply State.wr_keeps
                  | with_reducible apply State.updHart_keeps
                  | with_reducible refine Keeps.foldl (fun _ _ _ => ?_) ?_
                  | with_reducible refine Keeps.foldlFst (fun _ _ _ => ?_) ?_
                  | with_reducible refine Keeps.foldlSnd (fun _ _ _ => ?_) ?_ | simp only [Keeps.record]
                  | with_reducible refine Keeps.of_snd ‹_ = (_, _)› ?_
                  | with_reducible refine Keeps.of_fst ‹_ = (_, _)› ?_
                  | with_reducible refine Keeps.of_fst3 ‹_ = (_, _, _)› ?_ | with_reducible apply Keeps.ite
                  | split | dsimp only)

theorem State.leavePocket_keeps {a s : State} {x1} {x2} (h : Keeps a s) :
    Keeps a (State.leavePocket s x1 x2) := by
  unfold State.leavePocket
  try dsimp only
  repeat' (first | with_reducible assumption | with_reducible apply State.updPocket_keeps
                  | with_reducible apply State.loadWorld_keeps | with_reducible apply State.updHart_keeps
                  | simp only [Keeps.record] | with_reducible refine Keeps.of_snd ‹_ = (_, _)› ?_
                  | with_reducible refine Keeps.of_fst ‹_ = (_, _)› ?_
                  | with_reducible refine Keeps.of_fst3 ‹_ = (_, _, _)› ?_ | with_reducible apply Keeps.ite
                  | split | dsimp only)

theorem State.forceExit_keeps {a s : State} {x1} (h : Keeps a s) :
    Keeps a (State.forceExit s x1) := by
  unfold State.forceExit
  try dsimp only
  repeat' (first | with_reducible assumption | with_reducible apply State.leavePocket_keeps
                  | with_reducible apply State.updHart_keeps | simp only [Keeps.record]
                  | with_reducible refine Keeps.of_snd ‹_ = (_, _)› ?_
                  | with_reducible refine Keeps.of_fst ‹_ = (_, _)› ?_
                  | with_reducible refine Keeps.of_fst3 ‹_ = (_, _, _)› ?_ | with_reducible apply Keeps.ite
                  | split | dsimp only)

theorem State.enterPocket_keeps {a s : State} {x1} {x2} {x3} {x4} (h : Keeps a s) :
    Keeps a (State.enterPocket s x1 x2 x3 x4) := by
  unfold State.enterPocket
  try dsimp only
  repeat' (first | with_reducible assumption | with_reducible apply State.updPocket_keeps
                  | with_reducible apply State.loadWorld_keeps | with_reducible apply State.updHart_keeps
                  | simp only [Keeps.record] | with_reducible refine Keeps.of_snd ‹_ = (_, _)› ?_
                  | with_reducible refine Keeps.of_fst ‹_ = (_, _)› ?_
                  | with_reducible refine Keeps.of_fst3 ‹_ = (_, _, _)› ?_ | with_reducible apply Keeps.ite
                  | split | dsimp only)

theorem State.hold_keeps {a s : State} {x1} {x2} (h : Keeps a s) :
    Keeps a (State.hold s x1 x2) := by
  unfold State.hold
  try dsimp only
  repeat' (first | with_reducible assumption | with_reducible apply State.updHart_keeps | simp only [Keeps.record]
                  | with_reducible refine Keeps.of_snd ‹_ = (_, _)› ?_
                  | with_reducible refine Keeps.of_fst ‹_ = (_, _)› ?_
                  | with_reducible refine Keeps.of_fst3 ‹_ = (_, _, _)› ?_ | with_reducible apply Keeps.ite
                  | split | dsimp only)

theorem State.faultAt_keeps {a s : State} {x1} {x2} {x3} (h : Keeps a s) :
    Keeps a (State.faultAt s x1 x2 x3) := by
  unfold State.faultAt
  try dsimp only
  repeat' (first | with_reducible assumption | with_reducible apply State.trap_keeps | simp only [Keeps.record]
                  | with_reducible refine Keeps.of_snd ‹_ = (_, _)› ?_
                  | with_reducible refine Keeps.of_fst ‹_ = (_, _)› ?_
                  | with_reducible refine Keeps.of_fst3 ‹_ = (_, _, _)› ?_ | with_reducible apply Keeps.ite
                  | split | dsimp only)

theorem State.cboZeroBody_keeps {a s : State} {x1} {x2} {x3} (h : Keeps a s) :
    Keeps a (State.cboZeroBody s x1 x2 x3) := by
  unfold State.cboZeroBody
  try dsimp only
  repeat' (first | with_reducible assumption | with_reducible apply State.illegal_keeps
                  | with_reducible apply State.trap_keeps | with_reducible apply State.tagCheck_keeps
                  | with_reducible apply State.addAcc_keeps | with_reducible apply State.pump_keeps
                  | with_reducible apply State.retire_keeps | with_reducible apply State.faultAt_keeps
                  | simp only [Keeps.record] | with_reducible refine Keeps.of_snd ‹_ = (_, _)› ?_
                  | with_reducible refine Keeps.of_fst ‹_ = (_, _)› ?_
                  | with_reducible refine Keeps.of_fst3 ‹_ = (_, _, _)› ?_ | with_reducible apply Keeps.ite
                  | split | dsimp only)

theorem prefetchIEff_keeps {a s : State} {x0} {x1} {x2} (h : Keeps a s) :
    Keeps a (prefetchIEff x0 x1 x2 s) := by
  unfold prefetchIEff
  try dsimp only
  repeat' (first | with_reducible assumption | with_reducible refine State.onHart_keeps (fun _ _ => ?_) ?_
                  | with_reducible apply State.updHart_keeps | with_reducible apply State.requestLine_keeps
                  | with_reducible apply State.bump_keeps | with_reducible apply State.retire_keeps
                  | simp only [Keeps.record] | with_reducible refine Keeps.of_snd ‹_ = (_, _)› ?_
                  | with_reducible refine Keeps.of_fst ‹_ = (_, _)› ?_
                  | with_reducible refine Keeps.of_fst3 ‹_ = (_, _, _)› ?_ | with_reducible apply Keeps.ite
                  | split | dsimp only)

theorem State.storeBody_keeps {a s : State} {x1} {x2} {x3} {x4} {x5} (h : Keeps a s) :
    Keeps a (State.storeBody s x1 x2 x3 x4 x5) := by
  unfold State.storeBody
  try dsimp only
  repeat' (first | with_reducible assumption | with_reducible apply State.hold_keeps
                  | with_reducible apply State.faultAt_keeps | with_reducible apply State.addIo_keeps
                  | with_reducible apply State.pump_keeps | with_reducible apply State.retire_keeps
                  | with_reducible apply State.addAcc_keeps | with_reducible apply State.tagCheck_keeps
                  | simp only [Keeps.record] | with_reducible refine Keeps.of_snd ‹_ = (_, _)› ?_
                  | with_reducible refine Keeps.of_fst ‹_ = (_, _)› ?_
                  | with_reducible refine Keeps.of_fst3 ‹_ = (_, _, _)› ?_ | with_reducible apply Keeps.ite
                  | split | dsimp only)

theorem State.cboBody_keeps {a s : State} {x1} {x2} {x3} {x4} {x5} {x6} (h : Keeps a s) :
    Keeps a (State.cboBody s x1 x2 x3 x4 x5 x6) := by
  unfold State.cboBody
  try dsimp only
  repeat' (first | with_reducible assumption | with_reducible apply State.illegal_keeps
                  | with_reducible apply State.trap_keeps | with_reducible apply State.addAcc_keeps
                  | with_reducible apply State.pump_keeps | with_reducible apply State.retire_keeps
                  | simp only [Keeps.record] | with_reducible refine Keeps.of_snd ‹_ = (_, _)› ?_
                  | with_reducible refine Keeps.of_fst ‹_ = (_, _)› ?_
                  | with_reducible refine Keeps.of_fst3 ‹_ = (_, _, _)› ?_ | with_reducible apply Keeps.ite
                  | split | dsimp only)

theorem cboFlushEff_keeps {a s : State} {x0} {x1} {x2} (h : Keeps a s) :
    Keeps a (cboFlushEff x0 x1 x2 s) := by
  unfold cboFlushEff
  try dsimp only
  repeat' (first | with_reducible assumption | with_reducible refine State.onHart_keeps (fun _ _ => ?_) ?_
                  | with_reducible apply State.cboBody_keeps | simp only [Keeps.record]
                  | with_reducible refine Keeps.of_snd ‹_ = (_, _)› ?_
                  | with_reducible refine Keeps.of_fst ‹_ = (_, _)› ?_
                  | with_reducible refine Keeps.of_fst3 ‹_ = (_, _, _)› ?_ | with_reducible apply Keeps.ite
                  | split | dsimp only)

theorem State.amoBody_keeps {a s : State} {x1} {x2} {x3} {x4} {x5} {x6} {x7} {x8} {x9} {x10} {x11} {x12} (h : Keeps a s) :
    Keeps a (State.amoBody s x1 x2 x3 x4 x5 x6 x7 x8 x9 x10 x11 x12) := by
  unfold State.amoBody
  try dsimp only
  repeat' (first | with_reducible assumption | with_reducible apply State.hold_keeps
                  | with_reducible apply State.faultAt_keeps | with_reducible apply State.addIo_keeps
                  | with_reducible apply State.pump_keeps | with_reducible apply State.retire_keeps
                  | with_reducible apply State.tagCheck_keeps | with_reducible apply State.addAcc_keeps
                  | simp only [Keeps.record] | with_reducible refine Keeps.of_snd ‹_ = (_, _)› ?_
                  | with_reducible refine Keeps.of_fst ‹_ = (_, _)› ?_
                  | with_reducible refine Keeps.of_fst3 ‹_ = (_, _, _)› ?_ | with_reducible apply Keeps.ite
                  | split | dsimp only)

theorem amocasQEff_keeps {a s : State} {x0} {x1} {x2} {x3} {x4} {x5} {x6} (h : Keeps a s) :
    Keeps a (amocasQEff x0 x1 x2 x3 x4 x5 x6 s) := by
  unfold amocasQEff
  try dsimp only
  repeat' (first | with_reducible assumption | with_reducible refine State.onHart_keeps (fun _ _ => ?_) ?_
                  | with_reducible apply State.illegal_keeps | with_reducible apply State.faultAt_keeps
                  | with_reducible apply State.amoBody_keeps | simp only [Keeps.record]
                  | with_reducible refine Keeps.of_snd ‹_ = (_, _)› ?_
                  | with_reducible refine Keeps.of_fst ‹_ = (_, _)› ?_
                  | with_reducible refine Keeps.of_fst3 ‹_ = (_, _, _)› ?_ | with_reducible apply Keeps.ite
                  | split | dsimp only)

theorem fenceIEff_keeps {a s : State} {x0} (h : Keeps a s) :
    Keeps a (fenceIEff x0 s) := by
  unfold fenceIEff
  try dsimp only
  repeat' (first | with_reducible assumption | with_reducible refine State.onHart_keeps (fun _ _ => ?_) ?_
                  | with_reducible apply State.retire_keeps | with_reducible apply State.issue_keeps
                  | with_reducible refine Keeps.foldl (fun _ _ _ => ?_) ?_
                  | with_reducible refine Keeps.foldlFst (fun _ _ _ => ?_) ?_
                  | with_reducible refine Keeps.foldlSnd (fun _ _ _ => ?_) ?_ | simp only [Keeps.record]
                  | with_reducible refine Keeps.of_snd ‹_ = (_, _)› ?_
                  | with_reducible refine Keeps.of_fst ‹_ = (_, _)› ?_
                  | with_reducible refine Keeps.of_fst3 ‹_ = (_, _, _)› ?_ | with_reducible apply Keeps.ite
                  | split | dsimp only)

theorem State.lrBody_keeps {a s : State} {x1} {x2} {x3} {x4} {x5} {x6} {x7} (h : Keeps a s) :
    Keeps a (State.lrBody s x1 x2 x3 x4 x5 x6 x7) := by
  unfold State.lrBody
  try dsimp only
  repeat' (first | with_reducible assumption | with_reducible apply State.hold_keeps
                  | with_reducible apply State.illegal_keeps | with_reducible apply State.faultAt_keeps
                  | with_reducible apply State.tagCheck_keeps | with_reducible apply State.addAcc_keeps
                  | with_reducible apply State.pump_keeps | with_reducible apply State.retire_keeps
                  | simp only [Keeps.record] | with_reducible refine Keeps.of_snd ‹_ = (_, _)› ?_
                  | with_reducible refine Keeps.of_fst ‹_ = (_, _)› ?_
                  | with_reducible refine Keeps.of_fst3 ‹_ = (_, _, _)› ?_ | with_reducible apply Keeps.ite
                  | split | dsimp only)

theorem State.addFence_keeps {a s : State} {x1} {x2} (h : Keeps a s) :
    Keeps a (State.addFence s x1 x2) := by
  unfold State.addFence
  try dsimp only
  repeat' (first | with_reducible assumption | with_reducible apply State.retire_keeps
                  | with_reducible apply State.updHart_keeps | simp only [Keeps.record]
                  | with_reducible refine Keeps.of_snd ‹_ = (_, _)› ?_
                  | with_reducible refine Keeps.of_fst ‹_ = (_, _)› ?_
                  | with_reducible refine Keeps.of_fst3 ‹_ = (_, _, _)› ?_ | with_reducible apply Keeps.ite
                  | split | dsimp only)

theorem fenceTsoEff_keeps {a s : State} {x0} (h : Keeps a s) :
    Keeps a (fenceTsoEff x0 s) := by
  unfold fenceTsoEff
  try dsimp only
  repeat' (first | with_reducible assumption | with_reducible refine State.onHart_keeps (fun _ _ => ?_) ?_
                  | with_reducible apply State.addFence_keeps | simp only [Keeps.record]
                  | with_reducible refine Keeps.of_snd ‹_ = (_, _)› ?_
                  | with_reducible refine Keeps.of_fst ‹_ = (_, _)› ?_
                  | with_reducible refine Keeps.of_fst3 ‹_ = (_, _, _)› ?_ | with_reducible apply Keeps.ite
                  | split | dsimp only)

theorem State.scBody_keeps {a s : State} {x1} {x2} {x3} {x4} {x5} {x6} {x7} {x8} (h : Keeps a s) :
    Keeps a (State.scBody s x1 x2 x3 x4 x5 x6 x7 x8) := by
  unfold State.scBody
  try dsimp only
  repeat' (first | with_reducible assumption | with_reducible apply State.hold_keeps
                  | with_reducible apply State.illegal_keeps | with_reducible apply State.faultAt_keeps
                  | with_reducible apply State.addAcc_keeps | with_reducible apply State.pump_keeps
                  | with_reducible apply State.retire_keeps | with_reducible apply State.updHart_keeps
                  | with_reducible apply State.setX_keeps | simp only [Keeps.record]
                  | with_reducible refine Keeps.of_snd ‹_ = (_, _)› ?_
                  | with_reducible refine Keeps.of_fst ‹_ = (_, _)› ?_
                  | with_reducible refine Keeps.of_fst3 ‹_ = (_, _, _)› ?_ | with_reducible apply Keeps.ite
                  | split | dsimp only)

theorem prefetchREff_keeps {a s : State} {x0} {x1} {x2} {x3} (h : Keeps a s) :
    Keeps a (prefetchREff x0 x1 x2 x3 s) := by
  unfold prefetchREff
  try dsimp only
  repeat' (first | with_reducible assumption | with_reducible refine State.onHart_keeps (fun _ _ => ?_) ?_
                  | with_reducible apply State.requestLine_keeps | with_reducible apply State.bump_keeps
                  | with_reducible apply State.retire_keeps | simp only [Keeps.record]
                  | with_reducible refine Keeps.of_snd ‹_ = (_, _)› ?_
                  | with_reducible refine Keeps.of_fst ‹_ = (_, _)› ?_
                  | with_reducible refine Keeps.of_fst3 ‹_ = (_, _, _)› ?_ | with_reducible apply Keeps.ite
                  | split | dsimp only)

theorem amoEff_keeps {a s : State} {x0} {x1} {x2} {x3} {x4} {x5} {x6} {x7} {x8} {x9} (h : Keeps a s) :
    Keeps a (amoEff x0 x1 x2 x3 x4 x5 x6 x7 x8 x9 s) := by
  unfold amoEff
  try dsimp only
  repeat' (first | with_reducible assumption | with_reducible refine State.onHart_keeps (fun _ _ => ?_) ?_
                  | with_reducible apply State.illegal_keeps | with_reducible apply State.amoBody_keeps
                  | simp only [Keeps.record] | with_reducible refine Keeps.of_snd ‹_ = (_, _)› ?_
                  | with_reducible refine Keeps.of_fst ‹_ = (_, _)› ?_
                  | with_reducible refine Keeps.of_fst3 ‹_ = (_, _, _)› ?_ | with_reducible apply Keeps.ite
                  | split | dsimp only)

theorem cboCleanEff_keeps {a s : State} {x0} {x1} {x2} (h : Keeps a s) :
    Keeps a (cboCleanEff x0 x1 x2 s) := by
  unfold cboCleanEff
  try dsimp only
  repeat' (first | with_reducible assumption | with_reducible refine State.onHart_keeps (fun _ _ => ?_) ?_
                  | with_reducible apply State.cboBody_keeps | simp only [Keeps.record]
                  | with_reducible refine Keeps.of_snd ‹_ = (_, _)› ?_
                  | with_reducible refine Keeps.of_fst ‹_ = (_, _)› ?_
                  | with_reducible refine Keeps.of_fst3 ‹_ = (_, _, _)› ?_ | with_reducible apply Keeps.ite
                  | split | dsimp only)

theorem scEff_keeps {a s : State} {x0} {x1} {x2} {x3} {x4} {x5} {x6} {x7} (h : Keeps a s) :
    Keeps a (scEff x0 x1 x2 x3 x4 x5 x6 x7 s) := by
  unfold scEff
  try dsimp only
  repeat' (first | with_reducible assumption | with_reducible refine State.onHart_keeps (fun _ _ => ?_) ?_
                  | with_reducible apply State.scBody_keeps | simp only [Keeps.record]
                  | with_reducible refine Keeps.of_snd ‹_ = (_, _)› ?_
                  | with_reducible refine Keeps.of_fst ‹_ = (_, _)› ?_
                  | with_reducible refine Keeps.of_fst3 ‹_ = (_, _, _)› ?_ | with_reducible apply Keeps.ite
                  | split | dsimp only)

theorem cboZeroEff_keeps {a s : State} {x0} {x1} {x2} (h : Keeps a s) :
    Keeps a (cboZeroEff x0 x1 x2 s) := by
  unfold cboZeroEff
  try dsimp only
  repeat' (first | with_reducible assumption | with_reducible refine State.onHart_keeps (fun _ _ => ?_) ?_
                  | with_reducible apply State.cboZeroBody_keeps | simp only [Keeps.record]
                  | with_reducible refine Keeps.of_snd ‹_ = (_, _)› ?_
                  | with_reducible refine Keeps.of_fst ‹_ = (_, _)› ?_
                  | with_reducible refine Keeps.of_fst3 ‹_ = (_, _, _)› ?_ | with_reducible apply Keeps.ite
                  | split | dsimp only)

theorem State.loadBody_keeps {a s : State} {x1} {x2} {x3} {x4} {x5} {x6} {x7} {x8} (h : Keeps a s) :
    Keeps a (State.loadBody s x1 x2 x3 x4 x5 x6 x7 x8) := by
  unfold State.loadBody
  try dsimp only
  repeat' (first | with_reducible assumption | with_reducible apply State.requestLine_keeps
                  | with_reducible apply State.hold_keeps | with_reducible apply State.faultAt_keeps
                  | with_reducible apply State.addIo_keeps | with_reducible apply State.pump_keeps
                  | with_reducible apply State.retire_keeps | with_reducible apply State.addAcc_keeps
                  | with_reducible apply State.tagCheck_keeps | with_reducible apply State.cacheError_keeps
                  | simp only [Keeps.record] | with_reducible refine Keeps.of_snd ‹_ = (_, _)› ?_
                  | with_reducible refine Keeps.of_fst ‹_ = (_, _)› ?_
                  | with_reducible refine Keeps.of_fst3 ‹_ = (_, _, _)› ?_ | with_reducible apply Keeps.ite
                  | split | dsimp only)

theorem loadEff_keeps {a s : State} {x0} {x1} {x2} {x3} {x4} {x5} {x6} {x7} (h : Keeps a s) :
    Keeps a (loadEff x0 x1 x2 x3 x4 x5 x6 x7 s) := by
  unfold loadEff
  try dsimp only
  repeat' (first | with_reducible assumption | with_reducible refine State.onHart_keeps (fun _ _ => ?_) ?_
                  | with_reducible apply State.illegal_keeps | with_reducible apply State.loadBody_keeps
                  | simp only [Keeps.record] | with_reducible refine Keeps.of_snd ‹_ = (_, _)› ?_
                  | with_reducible refine Keeps.of_fst ‹_ = (_, _)› ?_
                  | with_reducible refine Keeps.of_fst3 ‹_ = (_, _, _)› ?_ | with_reducible apply Keeps.ite
                  | split | dsimp only)

theorem State.fenceBody_keeps {a s : State} {x1} {x2} {x3} {x4} (h : Keeps a s) :
    Keeps a (State.fenceBody s x1 x2 x3 x4) := by
  unfold State.fenceBody
  try dsimp only
  repeat' (first | with_reducible assumption | with_reducible apply State.addFence_keeps
                  | with_reducible apply State.retire_keeps | simp only [Keeps.record]
                  | with_reducible refine Keeps.of_snd ‹_ = (_, _)› ?_
                  | with_reducible refine Keeps.of_fst ‹_ = (_, _)› ?_
                  | with_reducible refine Keeps.of_fst3 ‹_ = (_, _, _)› ?_ | with_reducible apply Keeps.ite
                  | split | dsimp only)

theorem fenceEff_keeps {a s : State} {x0} {x1} {x2} {x3} (h : Keeps a s) :
    Keeps a (fenceEff x0 x1 x2 x3 s) := by
  unfold fenceEff
  try dsimp only
  repeat' (first | with_reducible assumption | with_reducible refine State.onHart_keeps (fun _ _ => ?_) ?_
                  | with_reducible apply State.fenceBody_keeps | simp only [Keeps.record]
                  | with_reducible refine Keeps.of_snd ‹_ = (_, _)› ?_
                  | with_reducible refine Keeps.of_fst ‹_ = (_, _)› ?_
                  | with_reducible refine Keeps.of_fst3 ‹_ = (_, _, _)› ?_ | with_reducible apply Keeps.ite
                  | split | dsimp only)

theorem lrEff_keeps {a s : State} {x0} {x1} {x2} {x3} {x4} {x5} {x6} (h : Keeps a s) :
    Keeps a (lrEff x0 x1 x2 x3 x4 x5 x6 s) := by
  unfold lrEff
  try dsimp only
  repeat' (first | with_reducible assumption | with_reducible refine State.onHart_keeps (fun _ _ => ?_) ?_
                  | with_reducible apply State.lrBody_keeps | simp only [Keeps.record]
                  | with_reducible refine Keeps.of_snd ‹_ = (_, _)› ?_
                  | with_reducible refine Keeps.of_fst ‹_ = (_, _)› ?_
                  | with_reducible refine Keeps.of_fst3 ‹_ = (_, _, _)› ?_ | with_reducible apply Keeps.ite
                  | split | dsimp only)

theorem storeEff_keeps {a s : State} {x0} {x1} {x2} {x3} {x4} (h : Keeps a s) :
    Keeps a (storeEff x0 x1 x2 x3 x4 s) := by
  unfold storeEff
  try dsimp only
  repeat' (first | with_reducible assumption | with_reducible refine State.onHart_keeps (fun _ _ => ?_) ?_
                  | with_reducible apply State.illegal_keeps | with_reducible apply State.storeBody_keeps
                  | simp only [Keeps.record] | with_reducible refine Keeps.of_snd ‹_ = (_, _)› ?_
                  | with_reducible refine Keeps.of_fst ‹_ = (_, _)› ?_
                  | with_reducible refine Keeps.of_fst3 ‹_ = (_, _, _)› ?_ | with_reducible apply Keeps.ite
                  | split | dsimp only)

theorem prefetchWEff_keeps {a s : State} {x0} {x1} {x2} {x3} (h : Keeps a s) :
    Keeps a (prefetchWEff x0 x1 x2 x3 s) := by
  unfold prefetchWEff
  try dsimp only
  repeat' (first | with_reducible assumption | with_reducible refine State.onHart_keeps (fun _ _ => ?_) ?_
                  | with_reducible apply State.tagCheck_keeps | with_reducible apply State.requestLine_keeps
                  | with_reducible apply State.bump_keeps | with_reducible apply State.retire_keeps
                  | simp only [Keeps.record] | with_reducible refine Keeps.of_snd ‹_ = (_, _)› ?_
                  | with_reducible refine Keeps.of_fst ‹_ = (_, _)› ?_
                  | with_reducible refine Keeps.of_fst3 ‹_ = (_, _, _)› ?_ | with_reducible apply Keeps.ite
                  | split | dsimp only)

theorem cboInvalEff_keeps {a s : State} {x0} {x1} {x2} (h : Keeps a s) :
    Keeps a (cboInvalEff x0 x1 x2 s) := by
  unfold cboInvalEff
  try dsimp only
  repeat' (first | with_reducible assumption | with_reducible refine State.onHart_keeps (fun _ _ => ?_) ?_
                  | with_reducible apply State.cboBody_keeps | simp only [Keeps.record]
                  | with_reducible refine Keeps.of_snd ‹_ = (_, _)› ?_
                  | with_reducible refine Keeps.of_fst ‹_ = (_, _)› ?_
                  | with_reducible refine Keeps.of_fst3 ‹_ = (_, _, _)› ?_ | with_reducible apply Keeps.ite
                  | split | dsimp only)

theorem State.setMemPoison_keeps {a s : State} {x1} {x2} (h : Keeps a s) :
    Keeps a (State.setMemPoison s x1 x2) := by
  unfold State.setMemPoison
  try dsimp only
  repeat' (first | with_reducible assumption | simp only [Keeps.record]
                  | with_reducible refine Keeps.of_snd ‹_ = (_, _)› ?_
                  | with_reducible refine Keeps.of_fst ‹_ = (_, _)› ?_
                  | with_reducible refine Keeps.of_fst3 ‹_ = (_, _, _)› ?_ | with_reducible apply Keeps.ite
                  | split | dsimp only)

theorem State.ctlrWrite_keeps {a s : State} {x1} {x2} {x3} {x4} {x5} (h : Keeps a s) :
    Keeps a (State.ctlrWrite s x1 x2 x3 x4 x5) := by
  unfold State.ctlrWrite
  try dsimp only
  repeat' (first | with_reducible assumption | with_reducible apply State.setBytes_keeps
                  | with_reducible apply State.setMemPoison_keeps | simp only [Keeps.record]
                  | with_reducible refine Keeps.of_snd ‹_ = (_, _)› ?_
                  | with_reducible refine Keeps.of_fst ‹_ = (_, _)› ?_
                  | with_reducible refine Keeps.of_fst3 ‹_ = (_, _, _)› ?_ | with_reducible apply Keeps.ite
                  | split | dsimp only)

theorem State.fenceDropped_keeps {a s : State} {x1} {x2} (h : Keeps a s) :
    Keeps a (State.fenceDropped s x1 x2) := by
  unfold State.fenceDropped
  try dsimp only
  repeat' (first | with_reducible assumption | with_reducible apply State.incF_keeps
                  | with_reducible apply State.wr_keeps | simp only [Keeps.record]
                  | with_reducible refine Keeps.of_snd ‹_ = (_, _)› ?_
                  | with_reducible refine Keeps.of_fst ‹_ = (_, _)› ?_
                  | with_reducible refine Keeps.of_fst3 ‹_ = (_, _, _)› ?_ | with_reducible apply Keeps.ite
                  | split | dsimp only)

theorem State.homeWrite_keeps {a s : State} {x1} {x2} {x3} {x4} {x5} (h : Keeps a s) :
    Keeps a (State.homeWrite s x1 x2 x3 x4 x5).1 := by
  unfold State.homeWrite
  try dsimp only
  repeat' (first | with_reducible assumption | with_reducible apply State.ctlrWrite_keeps
                  | with_reducible apply State.fenceDropped_keeps | with_reducible apply State.err_keeps
                  | simp only [Keeps.record] | with_reducible refine Keeps.of_snd ‹_ = (_, _)› ?_
                  | with_reducible refine Keeps.of_fst ‹_ = (_, _)› ?_
                  | with_reducible refine Keeps.of_fst3 ‹_ = (_, _, _)› ?_ | with_reducible apply Keeps.ite
                  | split | dsimp only)

theorem State.evictEnt_keeps {a s : State} {x1} {x2} (h : Keeps a s) :
    Keeps a (State.evictEnt s x1 x2) := by
  unfold State.evictEnt
  try dsimp only
  repeat' (first | with_reducible assumption | with_reducible apply State.homeWrite_keeps
                  | with_reducible apply State.updSlice_keeps | simp only [Keeps.record]
                  | with_reducible refine Keeps.of_snd ‹_ = (_, _)› ?_
                  | with_reducible refine Keeps.of_fst ‹_ = (_, _)› ?_
                  | with_reducible refine Keeps.of_fst3 ‹_ = (_, _, _)› ?_ | with_reducible apply Keeps.ite
                  | split | dsimp only)

theorem State.allocEnt_keeps {a s : State} {x1} {x2} {x3} (h : Keeps a s) :
    KeepsO a (State.allocEnt s x1 x2 x3) := by
  unfold State.allocEnt
  try dsimp only
  repeat' (first | with_reducible assumption | with_reducible apply State.evictEnt_keeps
                  | with_reducible apply State.updSlice_keeps | simp only [Keeps.record]
                  | with_reducible exact KeepsO.none | with_reducible apply KeepsO.some
                  | with_reducible exact KeepsO.fstNone | with_reducible exact KeepsO.sndNone
                  | with_reducible apply KeepsO.fst | with_reducible apply KeepsO.snd
                  | with_reducible refine KeepsO.map (fun _ _ => ?_) ?_ | with_reducible apply KeepsO.getD
                  | with_reducible apply KeepsO.sndPut | with_reducible refine Keeps.of_some ‹_ = some _› ?_
                  | with_reducible refine Keeps.of_someFst ‹_ = some (_, _)› ?_
                  | with_reducible refine Keeps.of_someSnd ‹_ = some (_, _)› ?_
                  | with_reducible refine Keeps.of_someP1 ‹_ = some _› ?_
                  | with_reducible refine Keeps.of_snd ‹_ = (_, _)› ?_
                  | with_reducible refine Keeps.of_fst ‹_ = (_, _)› ?_
                  | with_reducible refine Keeps.of_fst3 ‹_ = (_, _, _)› ?_ | with_reducible apply Keeps.ite
                  | split | dsimp only)

theorem State.putLine_keeps {a s : State} {x1} {x2} {x3} {x4} {x5} {x6} {x7} {x8} {x9} (h : Keeps a s) :
    Keeps a (State.putLine s x1 x2 x3 x4 x5 x6 x7 x8 x9) := by
  unfold State.putLine
  try dsimp only
  repeat' (first | with_reducible assumption | with_reducible apply State.updSlice_keeps
                  | with_reducible apply State.allocEnt_keeps | with_reducible apply State.homeWrite_keeps
                  | simp only [Keeps.record] | with_reducible exact KeepsO.none
                  | with_reducible apply KeepsO.some | with_reducible exact KeepsO.fstNone
                  | with_reducible exact KeepsO.sndNone | with_reducible apply KeepsO.fst
                  | with_reducible apply KeepsO.snd | with_reducible refine KeepsO.map (fun _ _ => ?_) ?_
                  | with_reducible apply KeepsO.getD | with_reducible apply KeepsO.sndPut
                  | with_reducible refine Keeps.of_some ‹_ = some _› ?_
                  | with_reducible refine Keeps.of_someFst ‹_ = some (_, _)› ?_
                  | with_reducible refine Keeps.of_someSnd ‹_ = some (_, _)› ?_
                  | with_reducible refine Keeps.of_someP1 ‹_ = some _› ?_
                  | with_reducible refine Keeps.of_snd ‹_ = (_, _)› ?_
                  | with_reducible refine Keeps.of_fst ‹_ = (_, _)› ?_
                  | with_reducible refine Keeps.of_fst3 ‹_ = (_, _, _)› ?_ | with_reducible apply Keeps.ite
                  | split | dsimp only)

theorem State.cleanEnt_keeps {a s : State} {x1} {x2} (h : Keeps a s) :
    Keeps a (State.cleanEnt s x1 x2).1 := by
  unfold State.cleanEnt
  try dsimp only
  repeat' (first | with_reducible assumption | with_reducible apply State.homeWrite_keeps
                  | with_reducible apply State.updSlice_keeps | simp only [Keeps.record]
                  | with_reducible refine Keeps.of_snd ‹_ = (_, _)› ?_
                  | with_reducible refine Keeps.of_fst ‹_ = (_, _)› ?_
                  | with_reducible refine Keeps.of_fst3 ‹_ = (_, _, _)› ?_ | with_reducible apply Keeps.ite
                  | split | dsimp only)

theorem State.poisonLine_keeps {a s : State} {x1} {x2} {x3} (h : Keeps a s) :
    Keeps a (State.poisonLine s x1 x2 x3) := by
  unfold State.poisonLine
  try dsimp only
  repeat' (first | with_reducible assumption | with_reducible apply State.updSlice_keeps
                  | with_reducible apply State.allocEnt_keeps | with_reducible apply State.homeWrite_keeps
                  | simp only [Keeps.record] | with_reducible exact KeepsO.none
                  | with_reducible apply KeepsO.some | with_reducible exact KeepsO.fstNone
                  | with_reducible exact KeepsO.sndNone | with_reducible apply KeepsO.fst
                  | with_reducible apply KeepsO.snd | with_reducible refine KeepsO.map (fun _ _ => ?_) ?_
                  | with_reducible apply KeepsO.getD | with_reducible apply KeepsO.sndPut
                  | with_reducible refine Keeps.of_some ‹_ = some _› ?_
                  | with_reducible refine Keeps.of_someFst ‹_ = some (_, _)› ?_
                  | with_reducible refine Keeps.of_someSnd ‹_ = some (_, _)› ?_
                  | with_reducible refine Keeps.of_someP1 ‹_ = some _› ?_
                  | with_reducible refine Keeps.of_snd ‹_ = (_, _)› ?_
                  | with_reducible refine Keeps.of_fst ‹_ = (_, _)› ?_
                  | with_reducible refine Keeps.of_fst3 ‹_ = (_, _, _)› ?_ | with_reducible apply Keeps.ite
                  | split | dsimp only)

theorem State.takenInM_keeps {a s : State} {x1} {x2} (h : Keeps a s) :
    Keeps a (State.takenInM s x1 x2) := by
  unfold State.takenInM
  try dsimp only
  repeat' (first | with_reducible assumption | with_reducible apply State.updSlice_keeps | simp only [Keeps.record]
                  | with_reducible refine Keeps.of_snd ‹_ = (_, _)› ?_
                  | with_reducible refine Keeps.of_fst ‹_ = (_, _)› ?_
                  | with_reducible refine Keeps.of_fst3 ‹_ = (_, _, _)› ?_ | with_reducible apply Keeps.ite
                  | split | dsimp only)

theorem State.updTx_keeps {a s : State} {x1} {x2} {x3} (h : Keeps a s) :
    Keeps a (State.updTx s x1 x2 x3) := by
  unfold State.updTx
  try dsimp only
  repeat' (first | with_reducible assumption | with_reducible apply State.updSlice_keeps | simp only [Keeps.record]
                  | with_reducible refine Keeps.of_snd ‹_ = (_, _)› ?_
                  | with_reducible refine Keeps.of_fst ‹_ = (_, _)› ?_
                  | with_reducible refine Keeps.of_fst3 ‹_ = (_, _, _)› ?_ | with_reducible apply Keeps.ite
                  | split | dsimp only)

theorem State.startMemRead_keeps {a s : State} {x1} {x2} (h : Keeps a s) :
    Keeps a (State.startMemRead s x1 x2) := by
  unfold State.startMemRead
  try dsimp only
  repeat' (first | with_reducible assumption | with_reducible apply State.updTx_keeps
                  | with_reducible apply State.send_keeps | with_reducible apply State.incF_keeps
                  | simp only [Keeps.record] | with_reducible refine Keeps.of_snd ‹_ = (_, _)› ?_
                  | with_reducible refine Keeps.of_fst ‹_ = (_, _)› ?_
                  | with_reducible refine Keeps.of_fst3 ‹_ = (_, _, _)› ?_ | with_reducible apply Keeps.ite
                  | split | dsimp only)

theorem State.answer_keeps {a s : State} {x1} {x2} (h : Keeps a s) :
    Keeps a (State.answer s x1 x2) := by
  unfold State.answer
  try dsimp only
  repeat' (first | with_reducible assumption | with_reducible apply State.send_keeps | simp only [Keeps.record]
                  | with_reducible refine Keeps.of_snd ‹_ = (_, _)› ?_
                  | with_reducible refine Keeps.of_fst ‹_ = (_, _)› ?_
                  | with_reducible refine Keeps.of_fst3 ‹_ = (_, _, _)› ?_ | with_reducible apply Keeps.ite
                  | split | dsimp only)

theorem State.sendGrant_keeps {a s : State} {x1} {x2} {x3} {x4} {x5} (h : Keeps a s) :
    Keeps a (State.sendGrant s x1 x2 x3 x4 x5) := by
  unfold State.sendGrant
  try dsimp only
  repeat' (first | with_reducible assumption | with_reducible apply State.answer_keeps | simp only [Keeps.record]
                  | with_reducible refine Keeps.of_snd ‹_ = (_, _)› ?_
                  | with_reducible refine Keeps.of_fst ‹_ = (_, _)› ?_
                  | with_reducible refine Keeps.of_fst3 ‹_ = (_, _, _)› ?_ | with_reducible apply Keeps.ite
                  | split | dsimp only)

theorem State.endTx_keeps {a s : State} {x1} {x2} {x3} {x4} (h : Keeps a s) :
    Keeps a (State.endTx s x1 x2 x3 x4) := by
  unfold State.endTx
  try dsimp only
  repeat' (first | with_reducible assumption | with_reducible apply State.updTx_keeps
                  | with_reducible apply State.sendGrant_keeps | simp only [Keeps.record]
                  | with_reducible refine Keeps.of_snd ‹_ = (_, _)› ?_
                  | with_reducible refine Keeps.of_fst ‹_ = (_, _)› ?_
                  | with_reducible refine Keeps.of_fst3 ‹_ = (_, _, _)› ?_ | with_reducible apply Keeps.ite
                  | split | dsimp only)

end Sys2Proof.Machine
end

