-- ==== Sys2Proof/Laws/Keeps2.lean ====
section
/-! SUPPORT. What each operation keeps, in the order the operations are built on one another (part 2). -/

set_option linter.unusedVariables false
set_option linter.unreachableTactic false
set_option linter.unusedTactic false

namespace Sys2Proof.Machine

theorem State.ncMemRead_keeps {a s : State} {x1} {x2} (h : Keeps a s) :
    Keeps a (State.ncMemRead s x1 x2) := by
  unfold State.ncMemRead
  try dsimp only
  repeat' (first | with_reducible assumption | with_reducible apply State.startMemRead_keeps
                  | with_reducible apply State.endTx_keeps | simp only [Keeps.record]
                  | with_reducible refine Keeps.of_snd ‹_ = (_, _)› ?_
                  | with_reducible refine Keeps.of_fst ‹_ = (_, _)› ?_
                  | with_reducible refine Keeps.of_fst3 ‹_ = (_, _, _)› ?_ | with_reducible apply Keeps.ite
                  | split | dsimp only)

theorem State.setExcl_keeps {a s : State} {x1} {x2} {x3} (h : Keeps a s) :
    Keeps a (State.setExcl s x1 x2 x3) := by
  unfold State.setExcl
  try dsimp only
  repeat' (first | with_reducible assumption | with_reducible apply State.updSlice_keeps | simp only [Keeps.record]
                  | with_reducible refine Keeps.of_snd ‹_ = (_, _)› ?_
                  | with_reducible refine Keeps.of_fst ‹_ = (_, _)› ?_
                  | with_reducible refine Keeps.of_fst3 ‹_ = (_, _, _)› ?_ | with_reducible apply Keeps.ite
                  | split | dsimp only)

theorem State.cohCount_keeps {a s : State} {x1} (h : Keeps a s) :
    Keeps a (State.cohCount s x1) := by
  unfold State.cohCount
  try dsimp only
  repeat' (first | with_reducible assumption | with_reducible apply State.setF_keeps | simp only [Keeps.record]
                  | with_reducible refine Keeps.of_snd ‹_ = (_, _)› ?_
                  | with_reducible refine Keeps.of_fst ‹_ = (_, _)› ?_
                  | with_reducible refine Keeps.of_fst3 ‹_ = (_, _, _)› ?_ | with_reducible apply Keeps.ite
                  | split | dsimp only)

theorem State.rangeCount_keeps {a s : State} {x1} {x2} (h : Keeps a s) :
    Keeps a (State.rangeCount s x1 x2) := by
  unfold State.rangeCount
  try dsimp only
  repeat' (first | with_reducible assumption | with_reducible apply State.incF_keeps | simp only [Keeps.record]
                  | with_reducible refine Keeps.of_snd ‹_ = (_, _)› ?_
                  | with_reducible refine Keeps.of_fst ‹_ = (_, _)› ?_
                  | with_reducible refine Keeps.of_fst3 ‹_ = (_, _, _)› ?_ | with_reducible apply Keeps.ite
                  | split | dsimp only)

theorem State.dropTx_keeps {a s : State} {x1} {x2} (h : Keeps a s) :
    Keeps a (State.dropTx s x1 x2) := by
  unfold State.dropTx
  try dsimp only
  repeat' (first | with_reducible assumption | with_reducible apply State.cohCount_keeps
                  | with_reducible apply State.updSlice_keeps | with_reducible apply State.rangeCount_keeps
                  | simp only [Keeps.record] | with_reducible refine Keeps.of_snd ‹_ = (_, _)› ?_
                  | with_reducible refine Keeps.of_fst ‹_ = (_, _)› ?_
                  | with_reducible refine Keeps.of_fst3 ‹_ = (_, _, _)› ?_ | with_reducible apply Keeps.ite
                  | split | dsimp only)

theorem State.dropEnded_keeps {a s : State} {x1} (h : Keeps a s) :
    Keeps a (State.dropEnded s x1) := by
  unfold State.dropEnded
  try dsimp only
  repeat' (first | with_reducible assumption | with_reducible apply State.dropTx_keeps
                  | with_reducible refine Keeps.foldl (fun _ _ _ => ?_) ?_
                  | with_reducible refine Keeps.foldlFst (fun _ _ _ => ?_) ?_
                  | with_reducible refine Keeps.foldlSnd (fun _ _ _ => ?_) ?_ | simp only [Keeps.record]
                  | with_reducible refine Keeps.of_snd ‹_ = (_, _)› ?_
                  | with_reducible refine Keeps.of_fst ‹_ = (_, _)› ?_
                  | with_reducible refine Keeps.of_fst3 ‹_ = (_, _, _)› ?_ | with_reducible apply Keeps.ite
                  | split | dsimp only)

theorem State.grantDone_keeps {a s : State} {x1} {x2} (h : Keeps a s) :
    Keeps a (State.grantDone s x1 x2) := by
  unfold State.grantDone
  try dsimp only
  repeat' (first | with_reducible assumption | with_reducible apply State.updTx_keeps | simp only [Keeps.record]
                  | with_reducible refine Keeps.of_snd ‹_ = (_, _)› ?_
                  | with_reducible refine Keeps.of_fst ‹_ = (_, _)› ?_
                  | with_reducible refine Keeps.of_fst3 ‹_ = (_, _, _)› ?_ | with_reducible apply Keeps.ite
                  | split | dsimp only)

theorem State.lockPlace_keeps {a s : State} {x1} {x2} {x3} (h : Keeps a s) :
    Keeps a (State.lockPlace s x1 x2 x3) := by
  unfold State.lockPlace
  try dsimp only
  repeat' (first | with_reducible assumption | with_reducible apply State.evictEnt_keeps
                  | with_reducible apply State.updSlice_keeps | with_reducible apply State.grantDone_keeps
                  | with_reducible apply State.setF_keeps | simp only [Keeps.record]
                  | with_reducible refine Keeps.of_snd ‹_ = (_, _)› ?_
                  | with_reducible refine Keeps.of_fst ‹_ = (_, _)› ?_
                  | with_reducible refine Keeps.of_fst3 ‹_ = (_, _, _)› ?_ | with_reducible apply Keeps.ite
                  | split | dsimp only)

theorem State.sendData_keeps {a s : State} {x1} {x2} {x3} {x4} {x5} (h : Keeps a s) :
    Keeps a (State.sendData s x1 x2 x3 x4 x5) := by
  unfold State.sendData
  try dsimp only
  repeat' (first | with_reducible assumption | with_reducible apply State.answer_keeps | simp only [Keeps.record]
                  | with_reducible refine Keeps.of_snd ‹_ = (_, _)› ?_
                  | with_reducible refine Keeps.of_fst ‹_ = (_, _)› ?_
                  | with_reducible refine Keeps.of_fst3 ‹_ = (_, _, _)› ?_ | with_reducible apply Keeps.ite
                  | split | dsimp only)

theorem State.launchLap_keeps {a s : State} {x1} {x2} {x3} {x4} {x5} (h : Keeps a s) :
    Keeps a (State.launchLap s x1 x2 x3 x4 x5) := by
  unfold State.launchLap
  try dsimp only
  repeat' (first | with_reducible assumption | with_reducible apply State.uev_keeps
                  | with_reducible apply State.updTx_keeps | with_reducible apply State.send_keeps
                  | simp only [Keeps.record] | with_reducible refine Keeps.of_snd ‹_ = (_, _)› ?_
                  | with_reducible refine Keeps.of_fst ‹_ = (_, _)› ?_
                  | with_reducible refine Keeps.of_fst3 ‹_ = (_, _, _)› ?_ | with_reducible apply Keeps.ite
                  | split | dsimp only)

theorem State.mergeEntry_keeps {a s : State} {x1} {x2} {x3} {x4} (h : Keeps a s) :
    Keeps a (State.mergeEntry s x1 x2 x3 x4) := by
  unfold State.mergeEntry
  try dsimp only
  repeat' (first | with_reducible assumption | with_reducible apply State.updSlice_keeps | simp only [Keeps.record]
                  | with_reducible refine Keeps.of_snd ‹_ = (_, _)› ?_
                  | with_reducible refine Keeps.of_fst ‹_ = (_, _)› ?_
                  | with_reducible refine Keeps.of_fst3 ‹_ = (_, _, _)› ?_ | with_reducible apply Keeps.ite
                  | split | dsimp only)

theorem State.doAtomNc_keeps {a s : State} {x1} {x2} {x3} {x4} (h : Keeps a s) :
    Keeps a (State.doAtomNc s x1 x2 x3 x4) := by
  unfold State.doAtomNc
  try dsimp only
  repeat' (first | with_reducible assumption | with_reducible apply State.endTx_keeps
                  | with_reducible apply State.mergeEntry_keeps | with_reducible apply State.homeWrite_keeps
                  | with_reducible apply State.updTx_keeps | with_reducible apply State.sendGrant_keeps
                  | with_reducible apply State.sendData_keeps | simp only [Keeps.record]
                  | with_reducible refine Keeps.of_snd ‹_ = (_, _)› ?_
                  | with_reducible refine Keeps.of_fst ‹_ = (_, _)› ?_
                  | with_reducible refine Keeps.of_fst3 ‹_ = (_, _, _)› ?_ | with_reducible apply Keeps.ite
                  | split | dsimp only)

theorem State.serveNcAtom_keeps {a s : State} {x1} {x2} (h : Keeps a s) :
    Keeps a (State.serveNcAtom s x1 x2) := by
  unfold State.serveNcAtom
  try dsimp only
  repeat' (first | with_reducible assumption | with_reducible apply State.doAtomNc_keeps
                  | with_reducible apply State.ncMemRead_keeps | simp only [Keeps.record]
                  | with_reducible refine Keeps.of_snd ‹_ = (_, _)› ?_
                  | with_reducible refine Keeps.of_fst ‹_ = (_, _)› ?_
                  | with_reducible refine Keeps.of_fst3 ‹_ = (_, _, _)› ?_ | with_reducible apply Keeps.ite
                  | split | dsimp only)

theorem State.serveNc_keeps {a s : State} {x1} {x2} (h : Keeps a s) :
    Keeps a (State.serveNc s x1 x2) := by
  unfold State.serveNc
  try dsimp only
  repeat' (first | with_reducible assumption | with_reducible apply State.updSlice_keeps
                  | with_reducible apply State.updTx_keeps | with_reducible apply State.sendData_keeps
                  | with_reducible apply State.ncMemRead_keeps | with_reducible apply State.sendGrant_keeps
                  | with_reducible apply State.mergeEntry_keeps | with_reducible apply State.homeWrite_keeps
                  | with_reducible apply State.endTx_keeps | simp only [Keeps.record]
                  | with_reducible refine Keeps.of_snd ‹_ = (_, _)› ?_
                  | with_reducible refine Keeps.of_fst ‹_ = (_, _)› ?_
                  | with_reducible refine Keeps.of_fst3 ‹_ = (_, _, _)› ?_ | with_reducible apply Keeps.ite
                  | split | dsimp only)

theorem State.serve_keeps {a s : State} {x1} {x2} (h : Keeps a s) :
    Keeps a (State.serve s x1 x2) := by
  unfold State.serve
  try dsimp only
  repeat' (first | with_reducible assumption | with_reducible apply State.updSlice_keeps
                  | with_reducible apply State.uev_keeps | with_reducible apply State.updTx_keeps
                  | with_reducible apply State.sendData_keeps | with_reducible apply State.startMemRead_keeps
                  | with_reducible apply State.launchLap_keeps | with_reducible apply State.sendGrant_keeps
                  | with_reducible apply State.serveNcAtom_keeps | with_reducible apply State.cleanEnt_keeps
                  | with_reducible apply State.endTx_keeps | with_reducible apply State.serveNc_keeps
                  | simp only [Keeps.record] | with_reducible refine Keeps.of_snd ‹_ = (_, _)› ?_
                  | with_reducible refine Keeps.of_fst ‹_ = (_, _)› ?_
                  | with_reducible refine Keeps.of_fst3 ‹_ = (_, _, _)› ?_ | with_reducible apply Keeps.ite
                  | split | dsimp only)

theorem State.checked_keeps {a s : State} {x1} {x2} (h : Keeps a s) :
    Keeps a (State.checked s x1 x2) := by
  unfold State.checked
  try dsimp only
  repeat' (first | with_reducible assumption | with_reducible apply State.endTx_keeps
                  | with_reducible apply State.violation_keeps | with_reducible apply State.grantDone_keeps
                  | with_reducible apply State.answer_keeps | with_reducible apply State.serve_keeps
                  | simp only [Keeps.record] | with_reducible refine Keeps.of_snd ‹_ = (_, _)› ?_
                  | with_reducible refine Keeps.of_fst ‹_ = (_, _)› ?_
                  | with_reducible refine Keeps.of_fst3 ‹_ = (_, _, _)› ?_ | with_reducible apply Keeps.ite
                  | split | dsimp only)

theorem State.openTx_keeps {a s : State} {x1} {x2} {x3} (h : Keeps a s) :
    Keeps a (State.openTx s x1 x2 x3) := by
  unfold State.openTx
  try dsimp only
  repeat' (first | with_reducible assumption | with_reducible apply State.cohCount_keeps
                  | with_reducible apply State.updSlice_keeps | with_reducible apply State.setF_keeps
                  | with_reducible apply State.lockPlace_keeps | with_reducible apply State.checked_keeps
                  | with_reducible apply State.serve_keeps | simp only [Keeps.record]
                  | with_reducible refine Keeps.of_snd ‹_ = (_, _)› ?_
                  | with_reducible refine Keeps.of_fst ‹_ = (_, _)› ?_
                  | with_reducible refine Keeps.of_fst3 ‹_ = (_, _, _)› ?_ | with_reducible apply Keeps.ite
                  | split | dsimp only)

theorem State.enqueue_keeps {a s : State} {x1} {x2} (h : Keeps a s) :
    Keeps a (State.enqueue s x1 x2) := by
  unfold State.enqueue
  try dsimp only
  repeat' (first | with_reducible assumption | with_reducible apply State.updSlice_keeps
                  | with_reducible apply State.openTx_keeps | simp only [Keeps.record]
                  | with_reducible refine Keeps.of_snd ‹_ = (_, _)› ?_
                  | with_reducible refine Keeps.of_fst ‹_ = (_, _)› ?_
                  | with_reducible refine Keeps.of_fst3 ‹_ = (_, _, _)› ?_ | with_reducible apply Keeps.ite
                  | split | dsimp only)

theorem State.rangeLine_keeps {a s : State} {x1} {x2} (h : Keeps a s) :
    Keeps a (State.rangeLine s x1 x2) := by
  unfold State.rangeLine
  try dsimp only
  repeat' (first | with_reducible assumption | with_reducible apply State.incF_keeps
                  | with_reducible apply State.dropEnded_keeps | with_reducible apply State.enqueue_keeps
                  | with_reducible apply State.violation_keeps | with_reducible apply State.wr_keeps
                  | simp only [Keeps.record] | with_reducible refine Keeps.of_snd ‹_ = (_, _)› ?_
                  | with_reducible refine Keeps.of_fst ‹_ = (_, _)› ?_
                  | with_reducible refine Keeps.of_fst3 ‹_ = (_, _, _)› ?_ | with_reducible apply Keeps.ite
                  | split | dsimp only)

theorem State.rangeRun_keeps {a s : State} {x1} {x2} (h : Keeps a s) :
    Keeps a (State.rangeRun s x1 x2) := by
  induction x2 generalizing s x1 with
  | zero =>
    unfold State.rangeRun
    try dsimp only
    repeat' (first | with_reducible assumption | with_reducible apply State.rangeLine_keeps | simp only [Keeps.record]
                    | with_reducible refine Keeps.of_snd ‹_ = (_, _)› ?_
                    | with_reducible refine Keeps.of_fst ‹_ = (_, _)› ?_
                    | with_reducible refine Keeps.of_fst3 ‹_ = (_, _, _)› ?_ | with_reducible apply Keeps.ite
                    | split | dsimp only)
  | succ n ih =>
    unfold State.rangeRun
    try dsimp only
    repeat' (first | with_reducible assumption | with_reducible apply ih | with_reducible apply State.rangeLine_keeps
                    | simp only [Keeps.record] | with_reducible refine Keeps.of_snd ‹_ = (_, _)› ?_
                    | with_reducible refine Keeps.of_fst ‹_ = (_, _)› ?_
                    | with_reducible refine Keeps.of_fst3 ‹_ = (_, _, _)› ?_ | with_reducible apply Keeps.ite
                    | split | dsimp only)

theorem State.refuseReq_keeps {a s : State} {x1} {x2} {x3} (h : Keeps a s) :
    Keeps a (State.refuseReq s x1 x2 x3) := by
  unfold State.refuseReq
  try dsimp only
  repeat' (first | with_reducible assumption | with_reducible apply State.sendGrant_keeps | simp only [Keeps.record]
                  | with_reducible refine Keeps.of_snd ‹_ = (_, _)› ?_
                  | with_reducible refine Keeps.of_fst ‹_ = (_, _)› ?_
                  | with_reducible refine Keeps.of_fst3 ‹_ = (_, _, _)› ?_ | with_reducible apply Keeps.ite
                  | split | dsimp only)

theorem State.ncWake_keeps {a s : State} {x1} (h : Keeps a s) :
    Keeps a (State.ncWake s x1) := by
  unfold State.ncWake
  try dsimp only
  repeat' (first | with_reducible assumption | simp only [Keeps.record]
                  | with_reducible refine Keeps.of_snd ‹_ = (_, _)› ?_
                  | with_reducible refine Keeps.of_fst ‹_ = (_, _)› ?_
                  | with_reducible refine Keeps.of_fst3 ‹_ = (_, _, _)› ?_ | with_reducible apply Keeps.ite
                  | split | dsimp only)

theorem State.serveHeld_keeps {a s : State} {x1} (h : Keeps a s) :
    Keeps a (State.serveHeld s x1) := by
  unfold State.serveHeld
  try dsimp only
  repeat' (first | with_reducible assumption | with_reducible apply State.updSlice_keeps
                  | with_reducible apply State.openTx_keeps | simp only [Keeps.record]
                  | with_reducible refine Keeps.of_snd ‹_ = (_, _)› ?_
                  | with_reducible refine Keeps.of_fst ‹_ = (_, _)› ?_
                  | with_reducible refine Keeps.of_fst3 ‹_ = (_, _, _)› ?_ | with_reducible apply Keeps.ite
                  | split | dsimp only)

theorem State.homeLoop_keeps {a s : State} {x1} {x2} (h : Keeps a s) :
    Keeps a (State.homeLoop s x1 x2) := by
  induction x2 generalizing s x1 with
  | zero =>
    unfold State.homeLoop
    try dsimp only
    repeat' (first | with_reducible assumption | with_reducible apply State.dropEnded_keeps
                    | with_reducible apply State.serveHeld_keeps | simp only [Keeps.record]
                    | with_reducible refine Keeps.of_snd ‹_ = (_, _)› ?_
                    | with_reducible refine Keeps.of_fst ‹_ = (_, _)› ?_
                    | with_reducible refine Keeps.of_fst3 ‹_ = (_, _, _)› ?_ | with_reducible apply Keeps.ite
                    | split | dsimp only)
  | succ n ih =>
    unfold State.homeLoop
    try dsimp only
    repeat' (first | with_reducible assumption | with_reducible apply ih | with_reducible apply State.dropEnded_keeps
                    | with_reducible apply State.serveHeld_keeps | simp only [Keeps.record]
                    | with_reducible refine Keeps.of_snd ‹_ = (_, _)› ?_
                    | with_reducible refine Keeps.of_fst ‹_ = (_, _)› ?_
                    | with_reducible refine Keeps.of_fst3 ‹_ = (_, _, _)› ?_ | with_reducible apply Keeps.ite
                    | split | dsimp only)

theorem State.rangeGoOn_keeps {a s : State} {x1} (h : Keeps a s) :
    Keeps a (State.rangeGoOn s x1) := by
  unfold State.rangeGoOn
  try dsimp only
  repeat' (first | with_reducible assumption | with_reducible apply State.rangeRun_keeps | simp only [Keeps.record]
                  | with_reducible refine Keeps.of_snd ‹_ = (_, _)› ?_
                  | with_reducible refine Keeps.of_fst ‹_ = (_, _)› ?_
                  | with_reducible refine Keeps.of_fst3 ‹_ = (_, _, _)› ?_ | with_reducible apply Keeps.ite
                  | split | dsimp only)

theorem State.homeGo_keeps {a s : State} {x1} (h : Keeps a s) :
    Keeps a (State.homeGo s x1) := by
  unfold State.homeGo
  try dsimp only
  repeat' (first | with_reducible assumption | with_reducible apply State.ncWake_keeps
                  | with_reducible apply State.homeLoop_keeps | with_reducible apply State.rangeGoOn_keeps
                  | simp only [Keeps.record] | with_reducible refine Keeps.of_snd ‹_ = (_, _)› ?_
                  | with_reducible refine Keeps.of_fst ‹_ = (_, _)› ?_
                  | with_reducible refine Keeps.of_fst3 ‹_ = (_, _, _)› ?_ | with_reducible apply Keeps.ite
                  | split | dsimp only)

theorem State.requestIn_keeps {a s : State} {x1} {x2} (h : Keeps a s) :
    Keeps a (State.requestIn s x1 x2) := by
  unfold State.requestIn
  try dsimp only
  repeat' (first | with_reducible assumption | with_reducible apply State.enqueue_keeps
                  | with_reducible apply State.fenceDropped_keeps | with_reducible apply State.incF_keeps
                  | with_reducible apply State.refuseReq_keeps | with_reducible apply State.homeGo_keeps
                  | simp only [Keeps.record] | with_reducible refine Keeps.of_snd ‹_ = (_, _)› ?_
                  | with_reducible refine Keeps.of_fst ‹_ = (_, _)› ?_
                  | with_reducible refine Keeps.of_fst3 ‹_ = (_, _, _)› ?_ | with_reducible apply Keeps.ite
                  | split | dsimp only)

theorem State.request_keeps {a s : State} {x1} {x2} {x3} (h : Keeps a s) :
    Keeps a (State.request s x1 x2 x3) := by
  unfold State.request
  try dsimp only
  repeat' (first | with_reducible assumption | with_reducible apply State.arrive_keeps
                  | with_reducible apply State.err_keeps | with_reducible apply State.requestIn_keeps
                  | simp only [Keeps.record] | with_reducible refine Keeps.of_snd ‹_ = (_, _)› ?_
                  | with_reducible refine Keeps.of_fst ‹_ = (_, _)› ?_
                  | with_reducible refine Keeps.of_fst3 ‹_ = (_, _, _)› ?_ | with_reducible apply Keeps.ite
                  | split | dsimp only)

theorem State.maintain_keeps {a s : State} {x1} {x2} (h : Keeps a s) :
    Keeps a (State.maintain s x1 x2) := by
  unfold State.maintain
  try dsimp only
  repeat' (first | with_reducible assumption | with_reducible apply State.cleanEnt_keeps
                  | with_reducible apply State.updSlice_keeps | with_reducible apply State.updTx_keeps
                  | with_reducible apply State.grantDone_keeps | with_reducible apply State.sendGrant_keeps
                  | with_reducible apply State.endTx_keeps | simp only [Keeps.record]
                  | with_reducible refine Keeps.of_snd ‹_ = (_, _)› ?_
                  | with_reducible refine Keeps.of_fst ‹_ = (_, _)› ?_
                  | with_reducible refine Keeps.of_fst3 ‹_ = (_, _, _)› ?_ | with_reducible apply Keeps.ite
                  | split | dsimp only)

theorem State.doAtom_keeps {a s : State} {x1} {x2} {x3} {x4} (h : Keeps a s) :
    Keeps a (State.doAtom s x1 x2 x3 x4) := by
  unfold State.doAtom
  try dsimp only
  repeat' (first | with_reducible assumption | with_reducible apply State.endTx_keeps
                  | with_reducible apply State.putLine_keeps | with_reducible apply State.updTx_keeps
                  | with_reducible apply State.sendGrant_keeps | with_reducible apply State.sendData_keeps
                  | simp only [Keeps.record] | with_reducible refine Keeps.of_snd ‹_ = (_, _)› ?_
                  | with_reducible refine Keeps.of_fst ‹_ = (_, _)› ?_
                  | with_reducible refine Keeps.of_fst3 ‹_ = (_, _, _)› ?_ | with_reducible apply Keeps.ite
                  | split | dsimp only)

theorem State.complete_keeps {a s : State} {x1} {x2} (h : Keeps a s) :
    Keeps a (State.complete s x1 x2) := by
  unfold State.complete
  try dsimp only
  repeat' (first | with_reducible assumption | with_reducible apply State.lockPlace_keeps
                  | with_reducible apply State.endTx_keeps | with_reducible apply State.setF_keeps
                  | with_reducible apply State.grantDone_keeps | with_reducible apply State.answer_keeps
                  | with_reducible apply State.sendGrant_keeps | with_reducible apply State.setExcl_keeps
                  | with_reducible apply State.putLine_keeps | with_reducible apply State.sendData_keeps
                  | with_reducible apply State.takenInM_keeps | with_reducible apply State.doAtom_keeps
                  | with_reducible apply State.maintain_keeps | simp only [Keeps.record]
                  | with_reducible refine Keeps.of_snd ‹_ = (_, _)› ?_
                  | with_reducible refine Keeps.of_fst ‹_ = (_, _)› ?_
                  | with_reducible refine Keeps.of_fst3 ‹_ = (_, _, _)› ?_ | with_reducible apply Keeps.ite
                  | split | dsimp only)

theorem State.tryComplete_keeps {a s : State} {x1} {x2} (h : Keeps a s) :
    Keeps a (State.tryComplete s x1 x2) := by
  unfold State.tryComplete
  try dsimp only
  repeat' (first | with_reducible assumption | with_reducible apply State.complete_keeps | simp only [Keeps.record]
                  | with_reducible refine Keeps.of_snd ‹_ = (_, _)› ?_
                  | with_reducible refine Keeps.of_fst ‹_ = (_, _)› ?_
                  | with_reducible refine Keeps.of_fst3 ‹_ = (_, _, _)› ?_ | with_reducible apply Keeps.ite
                  | split | dsimp only)

theorem State.slcLate_keeps {a s : State} {x1} (h : Keeps a s) :
    Keeps a (State.slcLate s x1) := by
  unfold State.slcLate
  try dsimp only
  repeat' (first | with_reducible assumption | with_reducible apply State.incF_keeps | simp only [Keeps.record]
                  | with_reducible refine Keeps.of_snd ‹_ = (_, _)› ?_
                  | with_reducible refine Keeps.of_fst ‹_ = (_, _)› ?_
                  | with_reducible refine Keeps.of_fst3 ‹_ = (_, _, _)› ?_ | with_reducible apply Keeps.ite
                  | split | dsimp only)

theorem State.memAnswer_keeps {a s : State} {x1} {x2} {x3} {x4} (h : Keeps a s) :
    Keeps a (State.memAnswer s x1 x2 x3 x4) := by
  unfold State.memAnswer
  try dsimp only
  repeat' (first | with_reducible assumption | with_reducible apply State.slcLate_keeps
                  | with_reducible apply State.updTx_keeps | with_reducible apply State.grantDone_keeps
                  | with_reducible apply State.sendData_keeps | with_reducible apply State.doAtomNc_keeps
                  | with_reducible apply State.tryComplete_keeps | simp only [Keeps.record]
                  | with_reducible refine Keeps.of_snd ‹_ = (_, _)› ?_
                  | with_reducible refine Keeps.of_fst ‹_ = (_, _)› ?_
                  | with_reducible refine Keeps.of_fst3 ‹_ = (_, _, _)› ?_ | with_reducible apply Keeps.ite
                  | split | dsimp only)

theorem State.sendComp_keeps {a s : State} {x1} {x2} {x3} (h : Keeps a s) :
    Keeps a (State.sendComp s x1 x2 x3) := by
  unfold State.sendComp
  try dsimp only
  repeat' (first | with_reducible assumption | with_reducible apply State.send_keeps | simp only [Keeps.record]
                  | with_reducible refine Keeps.of_snd ‹_ = (_, _)› ?_
                  | with_reducible refine Keeps.of_fst ‹_ = (_, _)› ?_
                  | with_reducible refine Keeps.of_fst3 ‹_ = (_, _, _)› ?_ | with_reducible apply Keeps.ite
                  | split | dsimp only)

theorem State.tryInstall_keeps {a s : State} {x1} {x2} (h : Keeps a s) :
    Keeps a (State.tryInstall s x1 x2) := by
  unfold State.tryInstall
  try dsimp only
  repeat' (first | with_reducible assumption | with_reducible apply State.updHart_keeps
                  | with_reducible apply State.pump_keeps | with_reducible apply State.sendComp_keeps
                  | with_reducible apply State.installL2_keeps | simp only [Keeps.record]
                  | with_reducible exact KeepsO.none | with_reducible apply KeepsO.some
                  | with_reducible exact KeepsO.fstNone | with_reducible exact KeepsO.sndNone
                  | with_reducible apply KeepsO.fst | with_reducible apply KeepsO.snd
                  | with_reducible refine KeepsO.map (fun _ _ => ?_) ?_ | with_reducible apply KeepsO.getD
                  | with_reducible apply KeepsO.sndPut | with_reducible refine Keeps.of_some ‹_ = some _› ?_
                  | with_reducible refine Keeps.of_someFst ‹_ = some (_, _)› ?_
                  | with_reducible refine Keeps.of_someSnd ‹_ = some (_, _)› ?_
                  | with_reducible refine Keeps.of_someP1 ‹_ = some _› ?_
                  | with_reducible refine Keeps.of_snd ‹_ = (_, _)› ?_
                  | with_reducible refine Keeps.of_fst ‹_ = (_, _)› ?_
                  | with_reducible refine Keeps.of_fst3 ‹_ = (_, _, _)› ?_ | with_reducible apply Keeps.ite
                  | split | dsimp only)

theorem State.resumeFill_keeps {a s : State} {x1} {x2} (h : Keeps a s) :
    Keeps a (State.resumeFill s x1 x2) := by
  unfold State.resumeFill
  try dsimp only
  repeat' (first | with_reducible assumption | with_reducible apply State.tryInstall_keeps | simp only [Keeps.record]
                  | with_reducible refine Keeps.of_snd ‹_ = (_, _)› ?_
                  | with_reducible refine Keeps.of_fst ‹_ = (_, _)› ?_
                  | with_reducible refine Keeps.of_fst3 ‹_ = (_, _, _)› ?_ | with_reducible apply Keeps.ite
                  | split | dsimp only)

theorem State.acceptWaiting_keeps {a s : State} {x1} (h : Keeps a s) :
    Keeps a (State.acceptWaiting s x1) := by
  unfold State.acceptWaiting
  try dsimp only
  repeat' (first | with_reducible assumption | with_reducible apply State.sendLeaving_keeps
                  | with_reducible apply State.pump_keeps | with_reducible apply State.resumeFill_keeps
                  | with_reducible refine Keeps.foldl (fun _ _ _ => ?_) ?_
                  | with_reducible refine Keeps.foldlFst (fun _ _ _ => ?_) ?_
                  | with_reducible refine Keeps.foldlSnd (fun _ _ _ => ?_) ?_ | simp only [Keeps.record]
                  | with_reducible refine Keeps.of_snd ‹_ = (_, _)› ?_
                  | with_reducible refine Keeps.of_fst ‹_ = (_, _)› ?_
                  | with_reducible refine Keeps.of_fst3 ‹_ = (_, _, _)› ?_ | with_reducible apply Keeps.ite
                  | split | dsimp only)

theorem State.report_keeps {a s : State} {x1} {x2} {x3} {x4} (h : Keeps a s) :
    Keeps a (State.report s x1 x2 x3 x4) := by
  unfold State.report
  try dsimp only
  repeat' (first | with_reducible assumption | with_reducible apply State.arrive_keeps
                  | with_reducible apply State.slcLate_keeps | with_reducible apply State.homeGo_keeps
                  | with_reducible apply State.tryComplete_keeps | with_reducible apply State.updTx_keeps
                  | simp only [Keeps.record] | with_reducible refine Keeps.of_snd ‹_ = (_, _)› ?_
                  | with_reducible refine Keeps.of_fst ‹_ = (_, _)› ?_
                  | with_reducible refine Keeps.of_fst3 ‹_ = (_, _, _)› ?_ | with_reducible apply Keeps.ite
                  | split | dsimp only)

theorem State.dataAtHome_keeps {a s : State} {x1} {x2} {x3} {x4} (h : Keeps a s) :
    Keeps a (State.dataAtHome s x1 x2 x3 x4) := by
  unfold State.dataAtHome
  try dsimp only
  repeat' (first | with_reducible assumption | with_reducible apply State.report_keeps | simp only [Keeps.record]
                  | with_reducible refine Keeps.of_snd ‹_ = (_, _)› ?_
                  | with_reducible refine Keeps.of_fst ‹_ = (_, _)› ?_
                  | with_reducible refine Keeps.of_fst3 ‹_ = (_, _, _)› ?_ | with_reducible apply Keeps.ite
                  | split | dsimp only)

theorem State.dataError_keeps {a s : State} {x1} {x2} {x3} {x4} (h : Keeps a s) :
    Keeps a (State.dataError s x1 x2 x3 x4).1 := by
  unfold State.dataError
  try dsimp only
  repeat' (first | with_reducible assumption | with_reducible apply State.err_keeps | simp only [Keeps.record]
                  | with_reducible refine Keeps.of_snd ‹_ = (_, _)› ?_
                  | with_reducible refine Keeps.of_fst ‹_ = (_, _)› ?_
                  | with_reducible refine Keeps.of_fst3 ‹_ = (_, _, _)› ?_ | with_reducible apply Keeps.ite
                  | split | dsimp only)

theorem State.failAcc_keeps {a s : State} {x1} {x2} {x3} (h : Keeps a s) :
    Keeps a (State.failAcc s x1 x2 x3) := by
  unfold State.failAcc
  try dsimp only
  repeat' (first | with_reducible assumption | with_reducible apply State.hartPoison_keeps
                  | with_reducible apply State.preciseFault_keeps | simp only [Keeps.record]
                  | with_reducible refine Keeps.of_snd ‹_ = (_, _)› ?_
                  | with_reducible refine Keeps.of_fst ‹_ = (_, _)› ?_
                  | with_reducible refine Keeps.of_fst3 ‹_ = (_, _, _)› ?_ | with_reducible apply Keeps.ite
                  | split | dsimp only)

theorem State.updAcc_keeps {a s : State} {x1} {x2} {x3} (h : Keeps a s) :
    Keeps a (State.updAcc s x1 x2 x3) := by
  unfold State.updAcc
  try dsimp only
  repeat' (first | with_reducible assumption | with_reducible apply State.updHart_keeps | simp only [Keeps.record]
                  | with_reducible refine Keeps.of_snd ‹_ = (_, _)› ?_
                  | with_reducible refine Keeps.of_fst ‹_ = (_, _)› ?_
                  | with_reducible refine Keeps.of_fst3 ‹_ = (_, _, _)› ?_ | with_reducible apply Keeps.ite
                  | split | dsimp only)

theorem State.failReq_keeps {a s : State} {x1} {x2} {x3} (h : Keeps a s) :
    Keeps a (State.failReq s x1 x2 x3) := by
  unfold State.failReq
  try dsimp only
  repeat' (first | with_reducible assumption | with_reducible apply State.updHart_keeps
                  | with_reducible apply State.failAcc_keeps | simp only [Keeps.record]
                  | with_reducible refine Keeps.of_snd ‹_ = (_, _)› ?_
                  | with_reducible refine Keeps.of_fst ‹_ = (_, _)› ?_
                  | with_reducible refine Keeps.of_fst3 ‹_ = (_, _, _)› ?_ | with_reducible apply Keeps.ite
                  | split | dsimp only)

theorem State.takeB_keeps {a s : State} {x1} (h : Keeps a s) :
    Keeps a (State.takeB s x1).2 := by
  unfold State.takeB
  try dsimp only
  repeat' (first | with_reducible assumption | with_reducible apply State.updSlice_keeps | simp only [Keeps.record]
                  | with_reducible refine Keeps.of_snd ‹_ = (_, _)› ?_
                  | with_reducible refine Keeps.of_fst ‹_ = (_, _)› ?_
                  | with_reducible refine Keeps.of_fst3 ‹_ = (_, _, _)› ?_ | with_reducible apply Keeps.ite
                  | split | dsimp only)

theorem State.updReq_keeps {a s : State} {x1} {x2} {x3} (h : Keeps a s) :
    Keeps a (State.updReq s x1 x2 x3) := by
  unfold State.updReq
  try dsimp only
  repeat' (first | with_reducible assumption | with_reducible apply State.updHart_keeps | simp only [Keeps.record]
                  | with_reducible refine Keeps.of_snd ‹_ = (_, _)› ?_
                  | with_reducible refine Keeps.of_fst ‹_ = (_, _)› ?_
                  | with_reducible refine Keeps.of_fst3 ‹_ = (_, _, _)› ?_ | with_reducible apply Keeps.ite
                  | split | dsimp only)

theorem State.runAheadExit_keeps {a s : State} {x1} (h : Keeps a s) :
    Keeps a (State.runAheadExit s x1) := by
  unfold State.runAheadExit
  try dsimp only
  repeat' (first | with_reducible assumption | with_reducible apply State.updHart_keeps | simp only [Keeps.record]
                  | with_reducible refine Keeps.of_snd ‹_ = (_, _)› ?_
                  | with_reducible refine Keeps.of_fst ‹_ = (_, _)› ?_
                  | with_reducible refine Keeps.of_fst3 ‹_ = (_, _, _)› ?_ | with_reducible apply Keeps.ite
                  | split | dsimp only)

theorem State.dataAtHart_keeps {a s : State} {x1} {x2} {x3} {x4} {x5} {x6} {x7} {x8} (h : Keeps a s) :
    Keeps a (State.dataAtHart s x1 x2 x3 x4 x5 x6 x7 x8) := by
  unfold State.dataAtHart
  try dsimp only
  repeat' (first | with_reducible assumption | with_reducible apply State.arrive_keeps
                  | with_reducible apply State.err_keeps | with_reducible apply State.dataError_keeps
                  | with_reducible apply State.failAcc_keeps | with_reducible apply State.updAcc_keeps
                  | with_reducible apply State.sendComp_keeps | with_reducible apply State.pump_keeps
                  | with_reducible apply State.failReq_keeps | with_reducible apply State.takeB_keeps
                  | with_reducible apply State.updReq_keeps | with_reducible apply State.runAheadExit_keeps
                  | with_reducible apply State.tryInstall_keeps | simp only [Keeps.record]
                  | with_reducible refine Keeps.of_snd ‹_ = (_, _)› ?_
                  | with_reducible refine Keeps.of_fst ‹_ = (_, _)› ?_
                  | with_reducible refine Keeps.of_fst3 ‹_ = (_, _, _)› ?_ | with_reducible apply Keeps.ite
                  | split | dsimp only)

theorem State.sendAnswer_keeps {a s : State} {x1} {x2} {x3} {x4} {x5} {x6} {x7} {x8} (h : Keeps a s) :
    Keeps a (State.sendAnswer s x1 x2 x3 x4 x5 x6 x7 x8) := by
  unfold State.sendAnswer
  try dsimp only
  repeat' (first | with_reducible assumption | with_reducible apply State.send_keeps | simp only [Keeps.record]
                  | with_reducible refine Keeps.of_snd ‹_ = (_, _)› ?_
                  | with_reducible refine Keeps.of_fst ‹_ = (_, _)› ?_
                  | with_reducible refine Keeps.of_fst3 ‹_ = (_, _, _)› ?_ | with_reducible apply Keeps.ite
                  | split | dsimp only)

theorem State.invProgress_keeps {a s : State} {x1} {x2} {x3} (h : Keeps a s) :
    Keeps a (State.invProgress s x1 x2 x3) := by
  unfold State.invProgress
  try dsimp only
  repeat' (first | with_reducible assumption | with_reducible apply State.updPort_keeps
                  | with_reducible apply State.send_keeps
                  | with_reducible refine Keeps.foldl (fun _ _ _ => ?_) ?_
                  | with_reducible refine Keeps.foldlFst (fun _ _ _ => ?_) ?_
                  | with_reducible refine Keeps.foldlSnd (fun _ _ _ => ?_) ?_ | simp only [Keeps.record]
                  | with_reducible refine Keeps.of_snd ‹_ = (_, _)› ?_
                  | with_reducible refine Keeps.of_fst ‹_ = (_, _)› ?_
                  | with_reducible refine Keeps.of_fst3 ‹_ = (_, _, _)› ?_ | with_reducible apply Keeps.ite
                  | split | dsimp only)

theorem State.wrsWake_keeps {a s : State} {x1} (h : Keeps a s) :
    Keeps a (State.wrsWake s x1) := by
  unfold State.wrsWake
  try dsimp only
  repeat' (first | with_reducible assumption | with_reducible apply State.updHart_keeps | simp only [Keeps.record]
                  | with_reducible refine Keeps.of_snd ‹_ = (_, _)› ?_
                  | with_reducible refine Keeps.of_fst ‹_ = (_, _)› ?_
                  | with_reducible refine Keeps.of_fst3 ‹_ = (_, _, _)› ?_ | with_reducible apply Keeps.ite
                  | split | dsimp only)

theorem State.holderAct_keeps {a s : State} {x1} {x2} {x3} {x4} {x5} {x6} {x7} {x8} (h : Keeps a s) :
    Keeps a (State.holderAct s x1 x2 x3 x4 x5 x6 x7 x8) := by
  unfold State.holderAct
  try dsimp only
  repeat' (first | with_reducible assumption | with_reducible apply State.setHart_keeps
                  | with_reducible apply State.sendAnswer_keeps | with_reducible apply State.updHart_keeps
                  | with_reducible apply State.invProgress_keeps | with_reducible apply State.wrsWake_keeps
                  | simp only [Keeps.record] | with_reducible refine Keeps.of_snd ‹_ = (_, _)› ?_
                  | with_reducible refine Keeps.of_fst ‹_ = (_, _)› ?_
                  | with_reducible refine Keeps.of_fst3 ‹_ = (_, _, _)› ?_ | with_reducible apply Keeps.ite
                  | split | dsimp only)

theorem State.runWait_keeps {a s : State} {x1} {x2} (h : Keeps a s) :
    Keeps a (State.runWait s x1 x2) := by
  unfold State.runWait
  try dsimp only
  repeat' (first | with_reducible assumption | with_reducible apply State.holderAct_keeps | simp only [Keeps.record]
                  | with_reducible refine Keeps.of_snd ‹_ = (_, _)› ?_
                  | with_reducible refine Keeps.of_fst ‹_ = (_, _)› ?_
                  | with_reducible refine Keeps.of_fst3 ‹_ = (_, _, _)› ?_ | with_reducible apply Keeps.ite
                  | split | dsimp only)

theorem State.endWindow_keeps {a s : State} {x1} {x2} (h : Keeps a s) :
    Keeps a (State.endWindow s x1 x2) := by
  unfold State.endWindow
  try dsimp only
  repeat' (first | with_reducible assumption | with_reducible apply State.updHart_keeps
                  | with_reducible apply State.updPort_keeps | with_reducible apply State.runWait_keeps
                  | with_reducible refine Keeps.foldl (fun _ _ _ => ?_) ?_
                  | with_reducible refine Keeps.foldlFst (fun _ _ _ => ?_) ?_
                  | with_reducible refine Keeps.foldlSnd (fun _ _ _ => ?_) ?_ | simp only [Keeps.record]
                  | with_reducible refine Keeps.of_snd ‹_ = (_, _)› ?_
                  | with_reducible refine Keeps.of_fst ‹_ = (_, _)› ?_
                  | with_reducible refine Keeps.of_fst3 ‹_ = (_, _, _)› ?_ | with_reducible apply Keeps.ite
                  | split | dsimp only)

theorem State.upgFailAt_keeps {a s : State} {x1} {x2} (h : Keeps a s) :
    Keeps a (State.upgFailAt s x1 x2) := by
  unfold State.upgFailAt
  try dsimp only
  repeat' (first | with_reducible assumption | with_reducible apply State.arrive_keeps
                  | with_reducible apply State.sendComp_keeps | with_reducible apply State.updReq_keeps
                  | with_reducible apply State.send_keeps | simp only [Keeps.record]
                  | with_reducible refine Keeps.of_snd ‹_ = (_, _)› ?_
                  | with_reducible refine Keeps.of_fst ‹_ = (_, _)› ?_
                  | with_reducible refine Keeps.of_fst3 ‹_ = (_, _, _)› ?_ | with_reducible apply Keeps.ite
                  | split | dsimp only)

theorem State.dimSnoop_keeps {a s : State} {x1} {x2} {x3} {x4} {x5} {x6} (h6 : ∀ y0 y1, Keeps a y0 → Keeps a (x6 y0 y1)) (h : Keeps a s) :
    Keeps a (State.dimSnoop s x1 x2 x3 x4 x5 x6) := by
  unfold State.dimSnoop
  try dsimp only
  repeat' (first | with_reducible assumption | with_reducible apply State.send_keeps | simp only [Keeps.record]
                  | with_reducible apply h6 | with_reducible refine Keeps.of_snd ‹_ = (_, _)› ?_
                  | with_reducible refine Keeps.of_fst ‹_ = (_, _)› ?_
                  | with_reducible refine Keeps.of_fst3 ‹_ = (_, _, _)› ?_ | with_reducible apply Keeps.ite
                  | split | dsimp only)

theorem State.expireToken_keeps {a s : State} {x1} {x2} {x3} (h : Keeps a s) :
    Keeps a (State.expireToken s x1 x2 x3) := by
  unfold State.expireToken
  try dsimp only
  repeat' (first | with_reducible assumption | with_reducible apply State.advance_keeps
                  | with_reducible apply State.updSlice_keeps | with_reducible apply State.cohCount_keeps
                  | with_reducible apply State.err_keeps | simp only [Keeps.record]
                  | with_reducible refine Keeps.of_snd ‹_ = (_, _)› ?_
                  | with_reducible refine Keeps.of_fst ‹_ = (_, _)› ?_
                  | with_reducible refine Keeps.of_fst3 ‹_ = (_, _, _)› ?_ | with_reducible apply Keeps.ite
                  | split | dsimp only)

theorem State.wbAckAt_keeps {a s : State} {x1} {x2} (h : Keeps a s) :
    Keeps a (State.wbAckAt s x1 x2) := by
  unfold State.wbAckAt
  try dsimp only
  repeat' (first | with_reducible assumption | with_reducible apply State.arrive_keeps
                  | with_reducible apply State.updPort_keeps | with_reducible apply State.sendAll_keeps
                  | with_reducible apply State.endWindow_keeps | simp only [Keeps.record]
                  | with_reducible refine Keeps.of_snd ‹_ = (_, _)› ?_
                  | with_reducible refine Keeps.of_fst ‹_ = (_, _)› ?_
                  | with_reducible refine Keeps.of_fst3 ‹_ = (_, _, _)› ?_ | with_reducible apply Keeps.ite
                  | split | dsimp only)

theorem State.sendWbAck_keeps {a s : State} {x1} {x2} {x3} (h : Keeps a s) :
    Keeps a (State.sendWbAck s x1 x2 x3) := by
  unfold State.sendWbAck
  try dsimp only
  repeat' (first | with_reducible assumption | with_reducible apply State.send_keeps | simp only [Keeps.record]
                  | with_reducible refine Keeps.of_snd ‹_ = (_, _)› ?_
                  | with_reducible refine Keeps.of_fst ‹_ = (_, _)› ?_
                  | with_reducible refine Keeps.of_fst3 ‹_ = (_, _, _)› ?_ | with_reducible apply Keeps.ite
                  | split | dsimp only)

theorem State.wbAtHome_keeps {a s : State} {x1} {x2} {x3} {x4} {x5} {x6} {x7} (h : Keeps a s) :
    Keeps a (State.wbAtHome s x1 x2 x3 x4 x5 x6 x7) := by
  unfold State.wbAtHome
  try dsimp only
  repeat' (first | with_reducible assumption | with_reducible apply State.arrive_keeps
                  | with_reducible apply State.updPort_keeps | with_reducible apply State.updSlice_keeps
                  | with_reducible apply State.uev_keeps | with_reducible apply State.sendWbAck_keeps
                  | with_reducible apply State.incF_keeps | with_reducible apply State.cohCount_keeps
                  | with_reducible apply State.poisonLine_keeps | with_reducible apply State.err_keeps
                  | with_reducible apply State.putLine_keeps | with_reducible apply State.updTx_keeps
                  | with_reducible apply State.homeGo_keeps | with_reducible apply State.tryComplete_keeps
                  | simp only [Keeps.record] | with_reducible refine Keeps.of_snd ‹_ = (_, _)› ?_
                  | with_reducible refine Keeps.of_fst ‹_ = (_, _)› ?_
                  | with_reducible refine Keeps.of_fst3 ‹_ = (_, _, _)› ?_ | with_reducible apply Keeps.ite
                  | split | dsimp only)

theorem State.dirtyAtHome_keeps {a s : State} {x1} {x2} {x3} {x4} (h : Keeps a s) :
    Keeps a (State.dirtyAtHome s x1 x2 x3 x4) := by
  unfold State.dirtyAtHome
  try dsimp only
  repeat' (first | with_reducible assumption | with_reducible apply State.slcLate_keeps
                  | with_reducible apply State.arrive_keeps | with_reducible apply State.updSlice_keeps
                  | with_reducible apply State.homeWrite_keeps | with_reducible apply State.updTx_keeps
                  | with_reducible apply State.report_keeps | simp only [Keeps.record]
                  | with_reducible refine Keeps.of_snd ‹_ = (_, _)› ?_
                  | with_reducible refine Keeps.of_fst ‹_ = (_, _)› ?_
                  | with_reducible refine Keeps.of_fst3 ‹_ = (_, _, _)› ?_ | with_reducible apply Keeps.ite
                  | split | dsimp only)

theorem State.endWindows_keeps {a s : State} {x1} (h : Keeps a s) :
    Keeps a (State.endWindows s x1) := by
  unfold State.endWindows
  try dsimp only
  repeat' (first | with_reducible assumption | with_reducible apply State.endWindow_keeps
                  | with_reducible refine Keeps.foldl (fun _ _ _ => ?_) ?_
                  | with_reducible refine Keeps.foldlFst (fun _ _ _ => ?_) ?_
                  | with_reducible refine Keeps.foldlSnd (fun _ _ _ => ?_) ?_ | simp only [Keeps.record]
                  | with_reducible refine Keeps.of_snd ‹_ = (_, _)› ?_
                  | with_reducible refine Keeps.of_fst ‹_ = (_, _)› ?_
                  | with_reducible refine Keeps.of_fst3 ‹_ = (_, _, _)› ?_ | with_reducible apply Keeps.ite
                  | split | dsimp only)

theorem State.evAtHome_keeps {a s : State} {x1} {x2} {x3} {x4} (h : Keeps a s) :
    Keeps a (State.evAtHome s x1 x2 x3 x4) := by
  unfold State.evAtHome
  try dsimp only
  repeat' (first | with_reducible assumption | with_reducible apply State.arrive_keeps
                  | with_reducible apply State.updPort_keeps | with_reducible apply State.updSlice_keeps
                  | with_reducible apply State.sendWbAck_keeps | with_reducible apply State.cohCount_keeps
                  | with_reducible apply State.updTx_keeps | with_reducible apply State.setExcl_keeps
                  | simp only [Keeps.record] | with_reducible refine Keeps.of_snd ‹_ = (_, _)› ?_
                  | with_reducible refine Keeps.of_fst ‹_ = (_, _)› ?_
                  | with_reducible refine Keeps.of_fst3 ‹_ = (_, _, _)› ?_ | with_reducible apply Keeps.ite
                  | split | dsimp only)

theorem State.lostTx_keeps {a s : State} {x1} {x2} {x3} (h : Keeps a s) :
    Keeps a (State.lostTx s x1 x2 x3) := by
  unfold State.lostTx
  try dsimp only
  repeat' (first | with_reducible assumption | with_reducible apply State.slcLate_keeps
                  | with_reducible apply State.poisonLine_keeps | with_reducible apply State.setF_keeps
                  | with_reducible apply State.err_keeps | with_reducible apply State.homeGo_keeps
                  | with_reducible apply State.dropTx_keeps | with_reducible apply State.endTx_keeps
                  | simp only [Keeps.record] | with_reducible refine Keeps.of_snd ‹_ = (_, _)› ?_
                  | with_reducible refine Keeps.of_fst ‹_ = (_, _)› ?_
                  | with_reducible refine Keeps.of_fst3 ‹_ = (_, _, _)› ?_ | with_reducible apply Keeps.ite
                  | split | dsimp only)

theorem State.lapBack_keeps {a s : State} {x1} {x2} {x3} (h : Keeps a s) :
    Keeps a (State.lapBack s x1 x2 x3) := by
  unfold State.lapBack
  try dsimp only
  repeat' (first | with_reducible assumption | with_reducible apply State.arrive_keeps
                  | with_reducible apply State.slcLate_keeps | with_reducible apply State.cohCount_keeps
                  | with_reducible apply State.updSlice_keeps | with_reducible apply State.lostTx_keeps
                  | with_reducible apply State.updTx_keeps | with_reducible apply State.homeGo_keeps
                  | with_reducible apply State.tryComplete_keeps | simp only [Keeps.record]
                  | with_reducible refine Keeps.of_snd ‹_ = (_, _)› ?_
                  | with_reducible refine Keeps.of_fst ‹_ = (_, _)› ?_
                  | with_reducible refine Keeps.of_fst3 ‹_ = (_, _, _)› ?_ | with_reducible apply Keeps.ite
                  | split | dsimp only)

theorem State.invReport_keeps {a s : State} {x1} {x2} {x3} (h : Keeps a s) :
    Keeps a (State.invReport s x1 x2 x3) := by
  unfold State.invReport
  try dsimp only
  repeat' (first | with_reducible assumption | with_reducible apply State.report_keeps | simp only [Keeps.record]
                  | with_reducible refine Keeps.of_snd ‹_ = (_, _)› ?_
                  | with_reducible refine Keeps.of_fst ‹_ = (_, _)› ?_
                  | with_reducible refine Keeps.of_fst3 ‹_ = (_, _, _)› ?_ | with_reducible apply Keeps.ite
                  | split | dsimp only)

theorem State.waitAtPort_keeps {a s : State} {x1} {x2} (h : Keeps a s) :
    Keeps a (State.waitAtPort s x1 x2) := by
  unfold State.waitAtPort
  try dsimp only
  repeat' (first | with_reducible assumption | with_reducible apply State.bump_keeps
                  | with_reducible apply State.updPort_keeps | with_reducible apply State.updHart_keeps
                  | with_reducible apply State.runWait_keeps
                  | with_reducible refine Keeps.foldl (fun _ _ _ => ?_) ?_
                  | with_reducible refine Keeps.foldlFst (fun _ _ _ => ?_) ?_
                  | with_reducible refine Keeps.foldlSnd (fun _ _ _ => ?_) ?_ | simp only [Keeps.record]
                  | with_reducible refine Keeps.of_snd ‹_ = (_, _)› ?_
                  | with_reducible refine Keeps.of_fst ‹_ = (_, _)› ?_
                  | with_reducible refine Keeps.of_fst3 ‹_ = (_, _, _)› ?_ | with_reducible apply Keeps.ite
                  | split | dsimp only)

theorem State.expireHome_keeps {a s : State} {x1} {x2} {x3} {x4} (h : Keeps a s) :
    Keeps a (State.expireHome s x1 x2 x3 x4) := by
  unfold State.expireHome
  try dsimp only
  repeat' (first | with_reducible assumption | with_reducible apply State.setF_keeps
                  | with_reducible apply State.advance_keeps | with_reducible apply State.updSlice_keeps
                  | with_reducible apply State.sendGrant_keeps | with_reducible apply State.rangeCount_keeps
                  | with_reducible apply State.homeGo_keeps | with_reducible apply State.err_keeps
                  | with_reducible apply State.poisonLine_keeps | with_reducible apply State.endTx_keeps
                  | with_reducible apply State.dropTx_keeps | simp only [Keeps.record]
                  | with_reducible refine Keeps.of_snd ‹_ = (_, _)› ?_
                  | with_reducible refine Keeps.of_fst ‹_ = (_, _)› ?_
                  | with_reducible refine Keeps.of_fst3 ‹_ = (_, _, _)› ?_ | with_reducible apply Keeps.ite
                  | split | dsimp only)

theorem State.leavingAnswer_keeps {a s : State} {x1} {x2} {x3} {x4} {x5} {x6} {x7} (h : Keeps a s) :
    Keeps a (State.leavingAnswer s x1 x2 x3 x4 x5 x6 x7).2 := by
  unfold State.leavingAnswer
  try dsimp only
  repeat' (first | with_reducible assumption | with_reducible apply State.updPort_keeps
                  | with_reducible apply State.sendAnswer_keeps | simp only [Keeps.record]
                  | with_reducible refine Keeps.of_snd ‹_ = (_, _)› ?_
                  | with_reducible refine Keeps.of_fst ‹_ = (_, _)› ?_
                  | with_reducible refine Keeps.of_fst3 ‹_ = (_, _, _)› ?_ | with_reducible apply Keeps.ite
                  | split | dsimp only)

theorem State.nodataAt_keeps {a s : State} {x1} {x2} (h : Keeps a s) :
    Keeps a (State.nodataAt s x1 x2) := by
  unfold State.nodataAt
  try dsimp only
  repeat' (first | with_reducible assumption | with_reducible apply State.arrive_keeps
                  | with_reducible apply State.sendComp_keeps | with_reducible apply State.updHart_keeps
                  | with_reducible apply State.pump_keeps | simp only [Keeps.record]
                  | with_reducible refine Keeps.of_snd ‹_ = (_, _)› ?_
                  | with_reducible refine Keeps.of_fst ‹_ = (_, _)› ?_
                  | with_reducible refine Keeps.of_fst3 ‹_ = (_, _, _)› ?_ | with_reducible apply Keeps.ite
                  | split | dsimp only)

theorem State.snoopAt_keeps {a s : State} {x1} {x2} {x3} {x4} {x5} {x6} {x7} {x8} {x9} (h : Keeps a s) :
    Keeps a (State.snoopAt s x1 x2 x3 x4 x5 x6 x7 x8 x9) := by
  unfold State.snoopAt
  extract_lets panel line home s1 rc own u faulted cores st act me fs sends quiet pass
  have hs : Keeps a s1 := State.arrive_keeps h
  have hp : ∀ {s c b}, Keeps a s → Keeps a (pass s c b) := fun h => State.send_keeps h
  clear_value s1 own faulted cores st act me fs sends quiet pass
  split
  · exact State.err_keeps hs
  · repeat' (first | with_reducible assumption | with_reducible apply hp | with_reducible apply State.leavingAnswer_keeps
                    | with_reducible refine State.dimSnoop_keeps (fun _ _ _ => ?_) ?_
                    | with_reducible refine Keeps.foldl (fun _ _ _ => ?_) ?_ | with_reducible apply State.updPort_keeps
                    | with_reducible apply State.updHart_keeps | with_reducible apply State.waitAtPort_keeps
                    | with_reducible refine Keeps.of_snd ‹_ = (_, _)› ?_ | split | dsimp only)

theorem State.snoopHolder_keeps {a s : State} {x1} {x2} {x3} {x4} {x5} {x6} {x7} {x8} {x9} (h : Keeps a s) :
    Keeps a (State.snoopHolder s x1 x2 x3 x4 x5 x6 x7 x8 x9) := by
  unfold State.snoopHolder
  try dsimp only
  repeat' (first | with_reducible assumption | with_reducible apply State.updPort_keeps
                  | with_reducible apply State.cacheError_keeps | with_reducible apply State.waitAtPort_keeps
                  | with_reducible apply State.holderAct_keeps | simp only [Keeps.record]
                  | with_reducible refine Keeps.of_snd ‹_ = (_, _)› ?_
                  | with_reducible refine Keeps.of_fst ‹_ = (_, _)› ?_
                  | with_reducible refine Keeps.of_fst3 ‹_ = (_, _, _)› ?_ | with_reducible apply Keeps.ite
                  | split | dsimp only)

theorem State.grantAtHart_keeps {a s : State} {x1} {x2} {x3} {x4} {x5} (h : Keeps a s) :
    Keeps a (State.grantAtHart s x1 x2 x3 x4 x5) := by
  unfold State.grantAtHart
  try dsimp only
  repeat' (first | with_reducible assumption | with_reducible apply State.arrive_keeps
                  | with_reducible apply State.failAcc_keeps | with_reducible apply State.updHart_keeps
                  | with_reducible apply State.updAcc_keeps | with_reducible apply State.sendComp_keeps
                  | with_reducible apply State.pump_keeps | with_reducible apply State.failReq_keeps
                  | with_reducible apply State.tryInstall_keeps | with_reducible apply State.updReq_keeps
                  | simp only [Keeps.record] | with_reducible refine Keeps.of_snd ‹_ = (_, _)› ?_
                  | with_reducible refine Keeps.of_fst ‹_ = (_, _)› ?_
                  | with_reducible refine Keeps.of_fst3 ‹_ = (_, _, _)› ?_ | with_reducible apply Keeps.ite
                  | split | dsimp only)

theorem State.portsFault_keeps {a s : State} {x1} (h : Keeps a s) :
    Keeps a (State.portsFault s x1) := by
  unfold State.portsFault
  try dsimp only
  repeat' (first | with_reducible assumption | with_reducible apply State.sendAll_keeps
                  | with_reducible apply State.updPort_keeps
                  | with_reducible refine Keeps.foldl (fun _ _ _ => ?_) ?_
                  | with_reducible refine Keeps.foldlFst (fun _ _ _ => ?_) ?_
                  | with_reducible refine Keeps.foldlSnd (fun _ _ _ => ?_) ?_ | simp only [Keeps.record]
                  | with_reducible refine Keeps.of_snd ‹_ = (_, _)› ?_
                  | with_reducible refine Keeps.of_fst ‹_ = (_, _)› ?_
                  | with_reducible refine Keeps.of_fst3 ‹_ = (_, _, _)› ?_ | with_reducible apply Keeps.ite
                  | split | dsimp only)

theorem State.compReport_keeps {a s : State} {x1} {x2} {x3} {x4} (h : Keeps a s) :
    Keeps a (State.compReport s x1 x2 x3 x4) := by
  unfold State.compReport
  try dsimp only
  repeat' (first | with_reducible assumption | with_reducible apply State.arrive_keeps
                  | with_reducible apply State.slcLate_keeps | with_reducible apply State.homeGo_keeps
                  | with_reducible apply State.dropTx_keeps | simp only [Keeps.record]
                  | with_reducible refine Keeps.of_snd ‹_ = (_, _)› ?_
                  | with_reducible refine Keeps.of_fst ‹_ = (_, _)› ?_
                  | with_reducible refine Keeps.of_fst3 ‹_ = (_, _, _)› ?_ | with_reducible apply Keeps.ite
                  | split | dsimp only)

theorem State.fwdReport_keeps {a s : State} {x1} {x2} {x3} {x4} {x5} (h : Keeps a s) :
    Keeps a (State.fwdReport s x1 x2 x3 x4 x5) := by
  unfold State.fwdReport
  try dsimp only
  repeat' (first | with_reducible assumption | with_reducible apply State.slcLate_keeps
                  | with_reducible apply State.arrive_keeps | with_reducible apply State.lostTx_keeps
                  | with_reducible apply State.report_keeps | simp only [Keeps.record]
                  | with_reducible refine Keeps.of_snd ‹_ = (_, _)› ?_
                  | with_reducible refine Keeps.of_fst ‹_ = (_, _)› ?_
                  | with_reducible refine Keeps.of_fst3 ‹_ = (_, _, _)› ?_ | with_reducible apply Keeps.ite
                  | split | dsimp only)

theorem State.ctlViolation_keeps {a s : State} {x1} {x2} {x3} {x4} (h : Keeps a s) :
    Keeps a (State.ctlViolation s x1 x2 x3 x4) := by
  unfold State.ctlViolation
  try dsimp only
  repeat' (first | with_reducible assumption | with_reducible apply State.violation_keeps | simp only [Keeps.record]
                  | with_reducible refine Keeps.of_snd ‹_ = (_, _)› ?_
                  | with_reducible refine Keeps.of_fst ‹_ = (_, _)› ?_
                  | with_reducible refine Keeps.of_fst3 ‹_ = (_, _, _)› ?_ | with_reducible apply Keeps.ite
                  | split | dsimp only)

theorem State.ctlGuard_keeps {a s : State} {x1} {x2} {x3} (h3 : ∀ y0, Keeps a y0 → Keeps a (x3 y0).1) (h : Keeps a s) :
    Keeps a (State.ctlGuard s x1 x2 x3) := by
  unfold State.ctlGuard
  try dsimp only
  repeat' (first | with_reducible assumption | with_reducible apply State.reply_keeps
                  | with_reducible apply State.ctlViolation_keeps | simp only [Keeps.record]
                  | with_reducible apply h3 | with_reducible refine Keeps.of_snd ‹_ = (_, _)› ?_
                  | with_reducible refine Keeps.of_fst ‹_ = (_, _)› ?_
                  | with_reducible refine Keeps.of_fst3 ‹_ = (_, _, _)› ?_ | with_reducible apply Keeps.ite
                  | split | dsimp only)

theorem State.kwViolation_keeps {a s : State} {x1} {x2} (h : Keeps a s) :
    Keeps a (State.kwViolation s x1 x2) := by
  unfold State.kwViolation
  try dsimp only
  repeat' (first | with_reducible assumption | with_reducible apply State.err_keeps | simp only [Keeps.record]
                  | with_reducible refine Keeps.of_snd ‹_ = (_, _)› ?_
                  | with_reducible refine Keeps.of_fst ‹_ = (_, _)› ?_
                  | with_reducible refine Keeps.of_fst3 ‹_ = (_, _, _)› ?_ | with_reducible apply Keeps.ite
                  | split | dsimp only)

theorem State.flushYoung_keeps {a s : State} {x1} (h : Keeps a s) :
    Keeps a (State.flushYoung s x1) := by
  unfold State.flushYoung
  try dsimp only
  repeat' (first | with_reducible assumption | with_reducible apply State.updHart_keeps | simp only [Keeps.record]
                  | with_reducible refine Keeps.of_snd ‹_ = (_, _)› ?_
                  | with_reducible refine Keeps.of_fst ‹_ = (_, _)› ?_
                  | with_reducible refine Keeps.of_fst3 ‹_ = (_, _, _)› ?_ | with_reducible apply Keeps.ite
                  | split | dsimp only)

theorem State.pollInt_keeps {a s : State} {x1} (h : Keeps a s) :
    Keeps a (State.pollInt s x1) := by
  unfold State.pollInt
  try dsimp only
  repeat' (first | with_reducible assumption | with_reducible apply State.flushYoung_keeps
                  | with_reducible apply State.updHart_keeps | simp only [Keeps.record]
                  | with_reducible refine Keeps.of_snd ‹_ = (_, _)› ?_
                  | with_reducible refine Keeps.of_fst ‹_ = (_, _)› ?_
                  | with_reducible refine Keeps.of_fst3 ‹_ = (_, _, _)› ?_ | with_reducible apply Keeps.ite
                  | split | dsimp only)

theorem State.unpark_keeps {a s : State} {x1} (h : Keeps a s) :
    Keeps a (State.unpark s x1) := by
  unfold State.unpark
  try dsimp only
  repeat' (first | with_reducible assumption | with_reducible apply State.updHart_keeps | simp only [Keeps.record]
                  | with_reducible refine Keeps.of_snd ‹_ = (_, _)› ?_
                  | with_reducible refine Keeps.of_fst ‹_ = (_, _)› ?_
                  | with_reducible refine Keeps.of_fst3 ‹_ = (_, _, _)› ?_ | with_reducible apply Keeps.ite
                  | split | dsimp only)

theorem sleepExitEff_keeps {a s : State} {x0} (h : Keeps a s) :
    Keeps a (sleepExitEff x0 s) := by
  unfold sleepExitEff
  try dsimp only
  repeat' (first | with_reducible assumption | with_reducible apply State.updHart_keeps
                  | with_reducible apply State.updPkg_keeps | with_reducible apply State.pollInt_keeps
                  | with_reducible apply State.unpark_keeps | with_reducible apply State.advance_keeps
                  | simp only [Keeps.record] | with_reducible refine Keeps.of_snd ‹_ = (_, _)› ?_
                  | with_reducible refine Keeps.of_fst ‹_ = (_, _)› ?_
                  | with_reducible refine Keeps.of_fst3 ‹_ = (_, _, _)› ?_ | with_reducible apply Keeps.ite
                  | split | dsimp only)

theorem State.onCsr_keeps {a s : State} {x1} {x2} {x3} (h3 : ∀ y0, Keeps a y0 → Keeps a (x3 y0)) (h : Keeps a s) :
    Keeps a (State.onCsr s x1 x2 x3) := by
  unfold State.onCsr
  try dsimp only
  repeat' (first | with_reducible assumption | with_reducible refine State.onHart_keeps (fun _ _ => ?_) ?_
                  | with_reducible apply State.trap_keeps | simp only [Keeps.record] | with_reducible apply h3
                  | with_reducible refine Keeps.of_snd ‹_ = (_, _)› ?_
                  | with_reducible refine Keeps.of_fst ‹_ = (_, _)› ?_
                  | with_reducible refine Keeps.of_fst3 ‹_ = (_, _, _)› ?_ | with_reducible apply Keeps.ite
                  | split | dsimp only)

theorem State.writeMkctl_keeps {a s : State} {x1} {x2} (h : Keeps a s) :
    Keeps a (State.writeMkctl s x1 x2) := by
  unfold State.writeMkctl
  try dsimp only
  repeat' (first | with_reducible assumption | with_reducible apply State.setCsr_keeps
                  | with_reducible apply State.updHart_keeps | simp only [Keeps.record]
                  | with_reducible refine Keeps.of_snd ‹_ = (_, _)› ?_
                  | with_reducible refine Keeps.of_fst ‹_ = (_, _)› ?_
                  | with_reducible refine Keeps.of_fst3 ‹_ = (_, _, _)› ?_ | with_reducible apply Keeps.ite
                  | split | dsimp only)

theorem predClrEff_keeps {a s : State} {x0} {x1} (h : Keeps a s) :
    Keeps a (predClrEff x0 x1 s) := by
  unfold predClrEff
  try dsimp only
  repeat' (first | with_reducible assumption | with_reducible refine State.onCsr_keeps (fun _ _ => ?_) ?_
                  | with_reducible apply State.retire_keeps | with_reducible apply State.writeMkctl_keeps
                  | simp only [Keeps.record] | with_reducible refine Keeps.of_snd ‹_ = (_, _)› ?_
                  | with_reducible refine Keeps.of_fst ‹_ = (_, _)› ?_
                  | with_reducible refine Keeps.of_fst3 ‹_ = (_, _, _)› ?_ | with_reducible apply Keeps.ite
                  | split | dsimp only)

theorem State.doorDone_keeps {a s : State} {x1} {x2} (h : Keeps a s) :
    Keeps a (State.doorDone s x1 x2) := by
  unfold State.doorDone
  try dsimp only
  repeat' (first | with_reducible assumption | with_reducible apply State.updHart_keeps | simp only [Keeps.record]
                  | with_reducible refine Keeps.of_snd ‹_ = (_, _)› ?_
                  | with_reducible refine Keeps.of_fst ‹_ = (_, _)› ?_
                  | with_reducible refine Keeps.of_fst3 ‹_ = (_, _, _)› ?_ | with_reducible apply Keeps.ite
                  | split | dsimp only)

theorem State.parkHart_keeps {a s : State} {x1} {x2} (h : Keeps a s) :
    Keeps a (State.parkHart s x1 x2) := by
  unfold State.parkHart
  try dsimp only
  repeat' (first | with_reducible assumption | with_reducible apply State.endWindows_keeps
                  | with_reducible apply State.updHart_keeps | simp only [Keeps.record]
                  | with_reducible refine Keeps.of_snd ‹_ = (_, _)› ?_
                  | with_reducible refine Keeps.of_fst ‹_ = (_, _)› ?_
                  | with_reducible refine Keeps.of_fst3 ‹_ = (_, _, _)› ?_ | with_reducible apply Keeps.ite
                  | split | dsimp only)

theorem State.doorWait_keeps {a s : State} {x1} {x2} (h : Keeps a s) :
    Keeps a (State.doorWait s x1 x2) := by
  unfold State.doorWait
  try dsimp only
  repeat' (first | with_reducible assumption | with_reducible apply State.parkHart_keeps | simp only [Keeps.record]
                  | with_reducible refine Keeps.of_snd ‹_ = (_, _)› ?_
                  | with_reducible refine Keeps.of_fst ‹_ = (_, _)› ?_
                  | with_reducible refine Keeps.of_fst3 ‹_ = (_, _, _)› ?_ | with_reducible apply Keeps.ite
                  | split | dsimp only)

theorem State.doorEnter_keeps {a s : State} {x1} (h : Keeps a s) :
    Keeps a (State.doorEnter s x1) := by
  unfold State.doorEnter
  try dsimp only
  repeat' (first | with_reducible assumption | with_reducible apply State.doorDone_keeps
                  | with_reducible apply State.doorWait_keeps | simp only [Keeps.record]
                  | with_reducible refine Keeps.of_snd ‹_ = (_, _)› ?_
                  | with_reducible refine Keeps.of_fst ‹_ = (_, _)› ?_
                  | with_reducible refine Keeps.of_fst3 ‹_ = (_, _, _)› ?_ | with_reducible apply Keeps.ite
                  | split | dsimp only)

theorem sleepEntryEff_keeps {a s : State} {x0} (h : Keeps a s) :
    Keeps a (sleepEntryEff x0 s) := by
  unfold sleepEntryEff
  try dsimp only
  repeat' (first | with_reducible assumption | with_reducible apply State.advance_keeps
                  | with_reducible apply State.updPkg_keeps | with_reducible apply State.updHart_keeps
                  | with_reducible refine Keeps.foldl (fun _ _ _ => ?_) ?_
                  | with_reducible refine Keeps.foldlFst (fun _ _ _ => ?_) ?_
                  | with_reducible refine Keeps.foldlSnd (fun _ _ _ => ?_) ?_ | simp only [Keeps.record]
                  | with_reducible refine Keeps.of_snd ‹_ = (_, _)› ?_
                  | with_reducible refine Keeps.of_fst ‹_ = (_, _)› ?_
                  | with_reducible refine Keeps.of_fst3 ‹_ = (_, _, _)› ?_ | with_reducible apply Keeps.ite
                  | split | dsimp only)

theorem State.setCmo_keeps {a s : State} {x1} {x2} {x3} {x4} {x5} (h : Keeps a s) :
    Keeps a (State.setCmo s x1 x2 x3 x4 x5) := by
  unfold State.setCmo
  try dsimp only
  repeat' (first | with_reducible assumption | with_reducible apply State.setCsr_keeps | simp only [Keeps.record]
                  | with_reducible refine Keeps.of_snd ‹_ = (_, _)› ?_
                  | with_reducible refine Keeps.of_fst ‹_ = (_, _)› ?_
                  | with_reducible refine Keeps.of_fst3 ‹_ = (_, _, _)› ?_ | with_reducible apply Keeps.ite
                  | split | dsimp only)

theorem State.serveSnoops_keeps {a s : State} {x1} {x2} (h : Keeps a s) :
    Keeps a (State.serveSnoops s x1 x2) := by
  unfold State.serveSnoops
  try dsimp only
  repeat' (first | with_reducible assumption | with_reducible apply State.endWindow_keeps
                  | with_reducible apply State.updPort_keeps | with_reducible apply State.runWait_keeps
                  | with_reducible refine Keeps.foldl (fun _ _ _ => ?_) ?_
                  | with_reducible refine Keeps.foldlFst (fun _ _ _ => ?_) ?_
                  | with_reducible refine Keeps.foldlSnd (fun _ _ _ => ?_) ?_ | simp only [Keeps.record]
                  | with_reducible refine Keeps.of_snd ‹_ = (_, _)› ?_
                  | with_reducible refine Keeps.of_fst ‹_ = (_, _)› ?_
                  | with_reducible refine Keeps.of_fst3 ‹_ = (_, _, _)› ?_ | with_reducible apply Keeps.ite
                  | split | dsimp only)

theorem State.mkcmo_keeps {a s : State} {x1} {x2} {x3} (h : Keeps a s) :
    KeepsO a (State.mkcmo s x1 x2 x3) := by
  unfold State.mkcmo
  try dsimp only
  repeat' (first | with_reducible assumption | with_reducible apply State.setCmo_keeps
                  | with_reducible apply State.updHart_keeps | with_reducible apply State.serveSnoops_keeps
                  | with_reducible apply State.cleanL2_keeps | with_reducible apply State.evictL2_keeps
                  | simp only [Keeps.record] | with_reducible exact KeepsO.none
                  | with_reducible apply KeepsO.some | with_reducible exact KeepsO.fstNone
                  | with_reducible exact KeepsO.sndNone | with_reducible apply KeepsO.fst
                  | with_reducible apply KeepsO.snd | with_reducible refine KeepsO.map (fun _ _ => ?_) ?_
                  | with_reducible apply KeepsO.getD | with_reducible apply KeepsO.sndPut
                  | with_reducible refine Keeps.of_some ‹_ = some _› ?_
                  | with_reducible refine Keeps.of_someFst ‹_ = some (_, _)› ?_
                  | with_reducible refine Keeps.of_someSnd ‹_ = some (_, _)› ?_
                  | with_reducible refine Keeps.of_someP1 ‹_ = some _› ?_
                  | with_reducible refine Keeps.of_snd ‹_ = (_, _)› ?_
                  | with_reducible refine Keeps.of_fst ‹_ = (_, _)› ?_
                  | with_reducible refine Keeps.of_fst3 ‹_ = (_, _, _)› ?_ | with_reducible apply Keeps.ite
                  | split | dsimp only)

theorem State.mkcmoRun_keeps {a s : State} {x1} {x2} {x3} {x4} (h : Keeps a s) :
    Keeps a (State.mkcmoRun s x1 x2 x3 x4) := by
  unfold State.mkcmoRun
  try dsimp only
  repeat' (first | with_reducible assumption | with_reducible apply State.mkcmo_keeps
                  | with_reducible apply State.retire_keeps | with_reducible apply State.hold_keeps
                  | simp only [Keeps.record] | with_reducible exact KeepsO.none
                  | with_reducible apply KeepsO.some | with_reducible exact KeepsO.fstNone
                  | with_reducible exact KeepsO.sndNone | with_reducible apply KeepsO.fst
                  | with_reducible apply KeepsO.snd | with_reducible refine KeepsO.map (fun _ _ => ?_) ?_
                  | with_reducible apply KeepsO.getD | with_reducible apply KeepsO.sndPut
                  | with_reducible refine Keeps.of_some ‹_ = some _› ?_
                  | with_reducible refine Keeps.of_someFst ‹_ = some (_, _)› ?_
                  | with_reducible refine Keeps.of_someSnd ‹_ = some (_, _)› ?_
                  | with_reducible refine Keeps.of_someP1 ‹_ = some _› ?_
                  | with_reducible refine Keeps.of_snd ‹_ = (_, _)› ?_
                  | with_reducible refine Keeps.of_fst ‹_ = (_, _)› ?_
                  | with_reducible refine Keeps.of_fst3 ‹_ = (_, _, _)› ?_ | with_reducible apply Keeps.ite
                  | split | dsimp only)

theorem mkcmoCleanEff_keeps {a s : State} {x0} {x1} (h : Keeps a s) :
    Keeps a (mkcmoCleanEff x0 x1 s) := by
  unfold mkcmoCleanEff
  try dsimp only
  repeat' (first | with_reducible assumption | with_reducible refine State.onCsr_keeps (fun _ _ => ?_) ?_
                  | with_reducible apply State.mkcmoRun_keeps | simp only [Keeps.record]
                  | with_reducible refine Keeps.of_snd ‹_ = (_, _)› ?_
                  | with_reducible refine Keeps.of_fst ‹_ = (_, _)› ?_
                  | with_reducible refine Keeps.of_fst3 ‹_ = (_, _, _)› ?_ | with_reducible apply Keeps.ite
                  | split | dsimp only)

theorem State.wrs_keeps {a s : State} {x1} {x2} (h : Keeps a s) :
    Keeps a (State.wrs s x1 x2) := by
  unfold State.wrs
  try dsimp only
  repeat' (first | with_reducible assumption | with_reducible apply State.pollInt_keeps
                  | with_reducible apply State.retire_keeps | with_reducible apply State.parkHart_keeps
                  | simp only [Keeps.record] | with_reducible refine Keeps.of_snd ‹_ = (_, _)› ?_
                  | with_reducible refine Keeps.of_fst ‹_ = (_, _)› ?_
                  | with_reducible refine Keeps.of_fst3 ‹_ = (_, _, _)› ?_ | with_reducible apply Keeps.ite
                  | split | dsimp only)

theorem State.onDoor_keeps {a s : State} {x1} {x2} {x3} {x4} (h4 : ∀ y0, Keeps a y0 → Keeps a (x4 y0)) (h : Keeps a s) :
    Keeps a (State.onDoor s x1 x2 x3 x4) := by
  unfold State.onDoor
  try dsimp only
  repeat' (first | with_reducible assumption | with_reducible refine State.onCsr_keeps (fun _ _ => ?_) ?_
                  | with_reducible apply State.updHart_keeps | simp only [Keeps.record]
                  | with_reducible apply h4 | with_reducible refine Keeps.of_snd ‹_ = (_, _)› ?_
                  | with_reducible refine Keeps.of_fst ‹_ = (_, _)› ?_
                  | with_reducible refine Keeps.of_fst3 ‹_ = (_, _, _)› ?_ | with_reducible apply Keeps.ite
                  | split | dsimp only)

theorem clearStatusEff_keeps {a s : State} {x0} {x1} {x2} (h : Keeps a s) :
    Keeps a (clearStatusEff x0 x1 x2 s) := by
  unfold clearStatusEff
  try dsimp only
  repeat' (first | with_reducible assumption | with_reducible refine State.onDoor_keeps (fun _ _ => ?_) ?_
                  | with_reducible apply State.doorDone_keeps | simp only [Keeps.record]
                  | with_reducible refine Keeps.of_snd ‹_ = (_, _)› ?_
                  | with_reducible refine Keeps.of_fst ‹_ = (_, _)› ?_
                  | with_reducible refine Keeps.of_fst3 ‹_ = (_, _, _)› ?_ | with_reducible apply Keeps.ite
                  | split | dsimp only)

theorem State.wakeHart_keeps {a s : State} {x1} (h : Keeps a s) :
    Keeps a (State.wakeHart s x1) := by
  unfold State.wakeHart
  try dsimp only
  repeat' (first | with_reducible assumption | with_reducible apply State.unpark_keeps
                  | with_reducible apply State.pollInt_keeps | simp only [Keeps.record]
                  | with_reducible refine Keeps.of_snd ‹_ = (_, _)› ?_
                  | with_reducible refine Keeps.of_fst ‹_ = (_, _)› ?_
                  | with_reducible refine Keeps.of_fst3 ‹_ = (_, _, _)› ?_ | with_reducible apply Keeps.ite
                  | split | dsimp only)

theorem State.intPend_keeps {a s : State} {x1} {x2} {x3} (h : Keeps a s) :
    Keeps a (State.intPend s x1 x2 x3) := by
  unfold State.intPend
  try dsimp only
  repeat' (first | with_reducible assumption | with_reducible apply State.updHart_keeps
                  | with_reducible apply State.wakeHart_keeps | with_reducible apply State.forceExit_keeps
                  | simp only [Keeps.record] | with_reducible refine Keeps.of_snd ‹_ = (_, _)› ?_
                  | with_reducible refine Keeps.of_fst ‹_ = (_, _)› ?_
                  | with_reducible refine Keeps.of_fst3 ‹_ = (_, _, _)› ?_ | with_reducible apply Keeps.ite
                  | split | dsimp only)

theorem interruptPendingEff_keeps {a s : State} {x0} {x1} (h : Keeps a s) :
    Keeps a (interruptPendingEff x0 x1 s) := by
  unfold interruptPendingEff
  try dsimp only
  repeat' (first | with_reducible assumption | with_reducible apply State.intPend_keeps | simp only [Keeps.record]
                  | with_reducible refine Keeps.of_snd ‹_ = (_, _)› ?_
                  | with_reducible refine Keeps.of_fst ‹_ = (_, _)› ?_
                  | with_reducible refine Keeps.of_fst3 ‹_ = (_, _, _)› ?_ | with_reducible apply Keeps.ite
                  | split | dsimp only)

theorem entryAnswerEff_keeps {a s : State} {x0} {x1} (h : Keeps a s) :
    Keeps a (entryAnswerEff x0 x1 s) := by
  unfold entryAnswerEff
  try dsimp only
  repeat' (first | with_reducible assumption | with_reducible apply State.updHart_keeps
                  | with_reducible apply State.err_keeps | with_reducible apply State.wakeHart_keeps
                  | with_reducible apply State.doorDone_keeps | with_reducible apply State.enterPocket_keeps
                  | with_reducible apply State.leavePocket_keeps | simp only [Keeps.record]
                  | with_reducible refine Keeps.of_snd ‹_ = (_, _)› ?_
                  | with_reducible refine Keeps.of_fst ‹_ = (_, _)› ?_
                  | with_reducible refine Keeps.of_fst3 ‹_ = (_, _, _)› ?_ | with_reducible apply Keeps.ite
                  | split | dsimp only)

theorem wfiTimeoutEff_keeps {a s : State} {x0} (h : Keeps a s) :
    Keeps a (wfiTimeoutEff x0 s) := by
  unfold wfiTimeoutEff
  try dsimp only
  repeat' (first | with_reducible assumption | with_reducible apply State.advance_keeps
                  | with_reducible apply State.updHart_keeps | with_reducible apply State.illegal_keeps
                  | with_reducible apply State.trap_keeps | simp only [Keeps.record]
                  | with_reducible refine Keeps.of_snd ‹_ = (_, _)› ?_
                  | with_reducible refine Keeps.of_fst ‹_ = (_, _)› ?_
                  | with_reducible refine Keeps.of_fst3 ‹_ = (_, _, _)› ?_ | with_reducible apply Keeps.ite
                  | split | dsimp only)

theorem State.doorExit_keeps {a s : State} {x1} (h : Keeps a s) :
    Keeps a (State.doorExit s x1) := by
  unfold State.doorExit
  try dsimp only
  repeat' (first | with_reducible assumption | with_reducible apply State.doorDone_keeps
                  | with_reducible apply State.doorWait_keeps | simp only [Keeps.record]
                  | with_reducible refine Keeps.of_snd ‹_ = (_, _)› ?_
                  | with_reducible refine Keeps.of_fst ‹_ = (_, _)› ?_
                  | with_reducible refine Keeps.of_fst3 ‹_ = (_, _, _)› ?_ | with_reducible apply Keeps.ite
                  | split | dsimp only)

theorem exitEff_keeps {a s : State} {x0} {x1} {x2} (h : Keeps a s) :
    Keeps a (exitEff x0 x1 x2 s) := by
  unfold exitEff
  try dsimp only
  repeat' (first | with_reducible assumption | with_reducible refine State.onDoor_keeps (fun _ _ => ?_) ?_
                  | with_reducible apply State.doorExit_keeps | simp only [Keeps.record]
                  | with_reducible refine Keeps.of_snd ‹_ = (_, _)› ?_
                  | with_reducible refine Keeps.of_fst ‹_ = (_, _)› ?_
                  | with_reducible refine Keeps.of_fst3 ‹_ = (_, _, _)› ?_ | with_reducible apply Keeps.ite
                  | split | dsimp only)

theorem State.runHeldMem_keeps {a s : State} {x1} (h : Keeps a s) :
    Keeps a (State.runHeldMem s x1) := by
  unfold State.runHeldMem
  try dsimp only
  repeat' (first | with_reducible assumption | with_reducible apply State.loadBody_keeps
                  | with_reducible apply State.storeBody_keeps | with_reducible apply State.amoBody_keeps
                  | with_reducible apply State.lrBody_keeps | with_reducible apply State.scBody_keeps
                  | simp only [Keeps.record] | with_reducible refine Keeps.of_snd ‹_ = (_, _)› ?_
                  | with_reducible refine Keeps.of_fst ‹_ = (_, _)› ?_
                  | with_reducible refine Keeps.of_fst3 ‹_ = (_, _, _)› ?_ | with_reducible apply Keeps.ite
                  | split | dsimp only)

theorem State.runHeld_keeps {a s : State} {x1} (h : Keeps a s) :
    Keeps a (State.runHeld s x1) := by
  unfold State.runHeld
  try dsimp only
  repeat' (first | with_reducible assumption | with_reducible apply State.mkcmoRun_keeps
                  | with_reducible apply State.runHeldMem_keeps | simp only [Keeps.record]
                  | with_reducible refine Keeps.of_snd ‹_ = (_, _)› ?_
                  | with_reducible refine Keeps.of_fst ‹_ = (_, _)› ?_
                  | with_reducible refine Keeps.of_fst3 ‹_ = (_, _, _)› ?_ | with_reducible apply Keeps.ite
                  | split | dsimp only)

theorem State.goHeld_keeps {a s : State} {x1} (h : Keeps a s) :
    Keeps a (State.goHeld s x1) := by
  unfold State.goHeld
  try dsimp only
  repeat' (first | with_reducible assumption | with_reducible apply State.runHeld_keeps
                  | with_reducible apply State.updHart_keeps
                  | with_reducible refine Keeps.foldl (fun _ _ _ => ?_) ?_
                  | with_reducible refine Keeps.foldlFst (fun _ _ _ => ?_) ?_
                  | with_reducible refine Keeps.foldlSnd (fun _ _ _ => ?_) ?_ | simp only [Keeps.record]
                  | with_reducible refine Keeps.of_snd ‹_ = (_, _)› ?_
                  | with_reducible refine Keeps.of_fst ‹_ = (_, _)› ?_
                  | with_reducible refine Keeps.of_fst3 ‹_ = (_, _, _)› ?_ | with_reducible apply Keeps.ite
                  | split | dsimp only)

theorem branchResolveEff_keeps {a s : State} {x0} {x1} {x2} (h : Keeps a s) :
    Keeps a (branchResolveEff x0 x1 x2 s) := by
  unfold branchResolveEff
  try dsimp only
  repeat' (first | with_reducible assumption | with_reducible apply State.bump_keeps
                  | with_reducible apply State.updHart_keeps | with_reducible apply State.pump_keeps
                  | with_reducible apply State.goHeld_keeps | simp only [Keeps.record]
                  | with_reducible refine Keeps.of_snd ‹_ = (_, _)› ?_
                  | with_reducible refine Keeps.of_fst ‹_ = (_, _)› ?_
                  | with_reducible refine Keeps.of_fst3 ‹_ = (_, _, _)› ?_ | with_reducible apply Keeps.ite
                  | split | dsimp only)

theorem fenceCompleteEff_keeps {a s : State} {x0} (h : Keeps a s) :
    Keeps a (fenceCompleteEff x0 s) := by
  unfold fenceCompleteEff
  try dsimp only
  repeat' (first | with_reducible assumption | with_reducible apply State.pump_keeps
                  | with_reducible apply State.updHart_keeps | with_reducible apply State.goHeld_keeps
                  | with_reducible apply State.retire_keeps | simp only [Keeps.record]
                  | with_reducible refine Keeps.of_snd ‹_ = (_, _)› ?_
                  | with_reducible refine Keeps.of_fst ‹_ = (_, _)› ?_
                  | with_reducible refine Keeps.of_fst3 ‹_ = (_, _, _)› ?_ | with_reducible apply Keeps.ite
                  | split | dsimp only)

theorem pauseEff_keeps {a s : State} {x0} (h : Keeps a s) :
    Keeps a (pauseEff x0 s) := by
  unfold pauseEff
  try dsimp only
  repeat' (first | with_reducible assumption | with_reducible refine State.onHart_keeps (fun _ _ => ?_) ?_
                  | with_reducible apply State.pollInt_keeps | with_reducible apply State.retire_keeps
                  | with_reducible apply State.updHart_keeps | simp only [Keeps.record]
                  | with_reducible refine Keeps.of_snd ‹_ = (_, _)› ?_
                  | with_reducible refine Keeps.of_fst ‹_ = (_, _)› ?_
                  | with_reducible refine Keeps.of_fst3 ‹_ = (_, _, _)› ?_ | with_reducible apply Keeps.ite
                  | split | dsimp only)

theorem wrsStoTimeoutEff_keeps {a s : State} {x0} (h : Keeps a s) :
    Keeps a (wrsStoTimeoutEff x0 s) := by
  unfold wrsStoTimeoutEff
  try dsimp only
  repeat' (first | with_reducible assumption | with_reducible apply State.unpark_keeps
                  | with_reducible apply State.advance_keeps | simp only [Keeps.record]
                  | with_reducible refine Keeps.of_snd ‹_ = (_, _)› ?_
                  | with_reducible refine Keeps.of_fst ‹_ = (_, _)› ?_
                  | with_reducible refine Keeps.of_fst3 ‹_ = (_, _, _)› ?_ | with_reducible apply Keeps.ite
                  | split | dsimp only)

theorem pauseEndEff_keeps {a s : State} {x0} (h : Keeps a s) :
    Keeps a (pauseEndEff x0 s) := by
  unfold pauseEndEff
  try dsimp only
  repeat' (first | with_reducible assumption | with_reducible apply State.unpark_keeps
                  | with_reducible apply State.issue_keeps
                  | with_reducible refine Keeps.foldl (fun _ _ _ => ?_) ?_
                  | with_reducible refine Keeps.foldlFst (fun _ _ _ => ?_) ?_
                  | with_reducible refine Keeps.foldlSnd (fun _ _ _ => ?_) ?_ | simp only [Keeps.record]
                  | with_reducible refine Keeps.of_snd ‹_ = (_, _)› ?_
                  | with_reducible refine Keeps.of_fst ‹_ = (_, _)› ?_
                  | with_reducible refine Keeps.of_fst3 ‹_ = (_, _, _)› ?_ | with_reducible apply Keeps.ite
                  | split | dsimp only)

theorem mkcmoCleanInvalidateEff_keeps {a s : State} {x0} {x1} (h : Keeps a s) :
    Keeps a (mkcmoCleanInvalidateEff x0 x1 s) := by
  unfold mkcmoCleanInvalidateEff
  try dsimp only
  repeat' (first | with_reducible assumption | with_reducible refine State.onCsr_keeps (fun _ _ => ?_) ?_
                  | with_reducible apply State.mkcmoRun_keeps | simp only [Keeps.record]
                  | with_reducible refine Keeps.of_snd ‹_ = (_, _)› ?_
                  | with_reducible refine Keeps.of_fst ‹_ = (_, _)› ?_
                  | with_reducible refine Keeps.of_fst3 ‹_ = (_, _, _)› ?_ | with_reducible apply Keeps.ite
                  | split | dsimp only)

theorem wrsNtoEff_keeps {a s : State} {x0} (h : Keeps a s) :
    Keeps a (wrsNtoEff x0 s) := by
  unfold wrsNtoEff
  try dsimp only
  repeat' (first | with_reducible assumption | with_reducible refine State.onHart_keeps (fun _ _ => ?_) ?_
                  | with_reducible apply State.wrs_keeps | simp only [Keeps.record]
                  | with_reducible refine Keeps.of_snd ‹_ = (_, _)› ?_
                  | with_reducible refine Keeps.of_fst ‹_ = (_, _)› ?_
                  | with_reducible refine Keeps.of_fst3 ‹_ = (_, _, _)› ?_ | with_reducible apply Keeps.ite
                  | split | dsimp only)

theorem runAheadEntryEff_keeps {a s : State} {x0} (h : Keeps a s) :
    Keeps a (runAheadEntryEff x0 s) := by
  unfold runAheadEntryEff
  try dsimp only
  repeat' (first | with_reducible assumption | with_reducible apply State.updHart_keeps | simp only [Keeps.record]
                  | with_reducible refine Keeps.of_snd ‹_ = (_, _)› ?_
                  | with_reducible refine Keeps.of_fst ‹_ = (_, _)› ?_
                  | with_reducible refine Keeps.of_fst3 ‹_ = (_, _, _)› ?_ | with_reducible apply Keeps.ite
                  | split | dsimp only)

theorem enterEff_keeps {a s : State} {x0} {x1} {x2} (h : Keeps a s) :
    Keeps a (enterEff x0 x1 x2 s) := by
  unfold enterEff
  try dsimp only
  repeat' (first | with_reducible assumption | with_reducible refine State.onDoor_keeps (fun _ _ => ?_) ?_
                  | with_reducible apply State.doorEnter_keeps | simp only [Keeps.record]
                  | with_reducible refine Keeps.of_snd ‹_ = (_, _)› ?_
                  | with_reducible refine Keeps.of_fst ‹_ = (_, _)› ?_
                  | with_reducible refine Keeps.of_fst3 ‹_ = (_, _, _)› ?_ | with_reducible apply Keeps.ite
                  | split | dsimp only)

theorem wrsStoEff_keeps {a s : State} {x0} (h : Keeps a s) :
    Keeps a (wrsStoEff x0 s) := by
  unfold wrsStoEff
  try dsimp only
  repeat' (first | with_reducible assumption | with_reducible refine State.onHart_keeps (fun _ _ => ?_) ?_
                  | with_reducible apply State.wrs_keeps | simp only [Keeps.record]
                  | with_reducible refine Keeps.of_snd ‹_ = (_, _)› ?_
                  | with_reducible refine Keeps.of_fst ‹_ = (_, _)› ?_
                  | with_reducible refine Keeps.of_fst3 ‹_ = (_, _, _)› ?_ | with_reducible apply Keeps.ite
                  | split | dsimp only)

theorem mkcmoInvalidateEff_keeps {a s : State} {x0} {x1} (h : Keeps a s) :
    Keeps a (mkcmoInvalidateEff x0 x1 s) := by
  unfold mkcmoInvalidateEff
  try dsimp only
  repeat' (first | with_reducible assumption | with_reducible refine State.onCsr_keeps (fun _ _ => ?_) ?_
                  | with_reducible apply State.mkcmoRun_keeps | simp only [Keeps.record]
                  | with_reducible refine Keeps.of_snd ‹_ = (_, _)› ?_
                  | with_reducible refine Keeps.of_fst ‹_ = (_, _)› ?_
                  | with_reducible refine Keeps.of_fst3 ‹_ = (_, _, _)› ?_ | with_reducible apply Keeps.ite
                  | split | dsimp only)

theorem wfiEff_keeps {a s : State} {x0} (h : Keeps a s) :
    Keeps a (wfiEff x0 s) := by
  unfold wfiEff
  try dsimp only
  repeat' (first | with_reducible assumption | with_reducible refine State.onHart_keeps (fun _ _ => ?_) ?_
                  | with_reducible apply State.pollInt_keeps | with_reducible apply State.retire_keeps
                  | with_reducible apply State.updPkg_keeps | with_reducible apply State.parkHart_keeps
                  | simp only [Keeps.record] | with_reducible refine Keeps.of_snd ‹_ = (_, _)› ?_
                  | with_reducible refine Keeps.of_fst ‹_ = (_, _)› ?_
                  | with_reducible refine Keeps.of_fst3 ‹_ = (_, _, _)› ?_ | with_reducible apply Keeps.ite
                  | split | dsimp only)

theorem sliceExpiryEff_keeps {a s : State} {x0} (h : Keeps a s) :
    Keeps a (sliceExpiryEff x0 s) := by
  unfold sliceExpiryEff
  try dsimp only
  repeat' (first | with_reducible assumption | with_reducible apply State.wakeHart_keeps
                  | with_reducible apply State.forceExit_keeps | with_reducible apply State.advance_keeps
                  | simp only [Keeps.record] | with_reducible refine Keeps.of_snd ‹_ = (_, _)› ?_
                  | with_reducible refine Keeps.of_fst ‹_ = (_, _)› ?_
                  | with_reducible refine Keeps.of_fst3 ‹_ = (_, _, _)› ?_ | with_reducible apply Keeps.ite
                  | split | dsimp only)

theorem State.dropYoke_keeps {a s : State} {x1} {x2} (h : Keeps a s) :
    Keeps a (State.dropYoke s x1 x2) := by
  unfold State.dropYoke
  try dsimp only
  repeat' (first | with_reducible assumption | simp only [Keeps.record]
                  | with_reducible refine Keeps.of_snd ‹_ = (_, _)› ?_
                  | with_reducible refine Keeps.of_fst ‹_ = (_, _)› ?_
                  | with_reducible refine Keeps.of_fst3 ‹_ = (_, _, _)› ?_ | with_reducible apply Keeps.ite
                  | split | dsimp only)

theorem State.yokeSend_keeps {a s : State} {x1} (h : Keeps a s) :
    Keeps a (State.yokeSend s x1) := by
  unfold State.yokeSend
  try dsimp only
  repeat' (first | with_reducible assumption | with_reducible apply State.send_keeps | simp only [Keeps.record]
                  | with_reducible refine Keeps.of_snd ‹_ = (_, _)› ?_
                  | with_reducible refine Keeps.of_fst ‹_ = (_, _)› ?_
                  | with_reducible refine Keeps.of_fst3 ‹_ = (_, _, _)› ?_ | with_reducible apply Keeps.ite
                  | split | dsimp only)

theorem State.haltDoor_keeps {a s : State} {x1} (h : Keeps a s) :
    Keeps a (State.haltDoor s x1) := by
  unfold State.haltDoor
  try dsimp only
  repeat' (first | with_reducible assumption | with_reducible apply State.setF_keeps | simp only [Keeps.record]
                  | with_reducible refine Keeps.of_snd ‹_ = (_, _)› ?_
                  | with_reducible refine Keeps.of_fst ‹_ = (_, _)› ?_
                  | with_reducible refine Keeps.of_fst3 ‹_ = (_, _, _)› ?_ | with_reducible apply Keeps.ite
                  | split | dsimp only)

theorem State.doorPump_keeps {a s : State} {x1} (h : Keeps a s) :
    Keeps a (State.doorPump s x1) := by
  unfold State.doorPump
  try dsimp only
  repeat' (first | with_reducible assumption | with_reducible apply State.yokeSend_keeps
                  | with_reducible apply State.haltDoor_keeps | with_reducible apply State.violation_keeps
                  | simp only [Keeps.record] | with_reducible refine Keeps.of_snd ‹_ = (_, _)› ?_
                  | with_reducible refine Keeps.of_fst ‹_ = (_, _)› ?_
                  | with_reducible refine Keeps.of_fst3 ‹_ = (_, _, _)› ?_ | with_reducible apply Keeps.ite
                  | split | dsimp only)

theorem State.doorWritten_keeps {a s : State} {x1} {x2} (h : Keeps a s) :
    Keeps a (State.doorWritten s x1 x2) := by
  unfold State.doorWritten
  try dsimp only
  repeat' (first | with_reducible assumption | with_reducible apply State.haltDoor_keeps
                  | with_reducible apply State.setF_keeps | with_reducible apply State.sendMsi_keeps
                  | with_reducible apply State.doorPump_keeps | simp only [Keeps.record]
                  | with_reducible refine Keeps.of_snd ‹_ = (_, _)› ?_
                  | with_reducible refine Keeps.of_fst ‹_ = (_, _)› ?_
                  | with_reducible refine Keeps.of_fst3 ‹_ = (_, _, _)› ?_ | with_reducible apply Keeps.ite
                  | split | dsimp only)

theorem State.doorPost_keeps {a s : State} {x1} (h : Keeps a s) :
    Keeps a (State.doorPost s x1) := by
  unfold State.doorPost
  try dsimp only
  repeat' (first | with_reducible assumption | with_reducible apply State.doorPump_keeps | simp only [Keeps.record]
                  | with_reducible refine Keeps.of_snd ‹_ = (_, _)› ?_
                  | with_reducible refine Keeps.of_fst ‹_ = (_, _)› ?_
                  | with_reducible refine Keeps.of_fst3 ‹_ = (_, _, _)› ?_ | with_reducible apply Keeps.ite
                  | split | dsimp only)

theorem State.updYoke_keeps {a s : State} {x1} {x2} {x3} (h : Keeps a s) :
    Keeps a (State.updYoke s x1 x2 x3) := by
  unfold State.updYoke
  try dsimp only
  repeat' (first | with_reducible assumption | simp only [Keeps.record]
                  | with_reducible refine Keeps.of_snd ‹_ = (_, _)› ?_
                  | with_reducible refine Keeps.of_fst ‹_ = (_, _)› ?_
                  | with_reducible refine Keeps.of_fst3 ‹_ = (_, _, _)› ?_ | with_reducible apply Keeps.ite
                  | split | dsimp only)

theorem State.arriveIo_keeps {a s : State} {x1} {x2} (h : Keeps a s) :
    Keeps a (State.arriveIo s x1 x2) := by
  unfold State.arriveIo
  try dsimp only
  repeat' (first | with_reducible assumption | with_reducible apply State.arrive_keeps | simp only [Keeps.record]
                  | with_reducible refine Keeps.of_snd ‹_ = (_, _)› ?_
                  | with_reducible refine Keeps.of_fst ‹_ = (_, _)› ?_
                  | with_reducible refine Keeps.of_fst3 ‹_ = (_, _, _)› ?_ | with_reducible apply Keeps.ite
                  | split | dsimp only)

end Sys2Proof.Machine
end

