-- ==== Sys2Proof/Laws/Keeps3.lean ====
section
/-! SUPPORT. What each operation keeps, in the order the operations are built on one another (part 3). -/

set_option linter.unusedVariables false
set_option linter.unreachableTactic false
set_option linter.unusedTactic false

namespace Sys2Proof.Machine

theorem State.lateAnswer_keeps {a s : State} {x1} (h : Keeps a s) :
    Keeps a (State.lateAnswer s x1) := by
  unfold State.lateAnswer
  try dsimp only
  repeat' (first | with_reducible assumption | simp only [Keeps.record]
                  | with_reducible refine Keeps.of_snd ‹_ = (_, _)› ?_
                  | with_reducible refine Keeps.of_fst ‹_ = (_, _)› ?_
                  | with_reducible refine Keeps.of_fst3 ‹_ = (_, _, _)› ?_ | with_reducible apply Keeps.ite
                  | split | dsimp only)

theorem State.ioLoadFault_keeps {a s : State} {x1} {x2} (h : Keeps a s) :
    Keeps a (State.ioLoadFault s x1 x2) := by
  unfold State.ioLoadFault
  try dsimp only
  repeat' (first | with_reducible assumption | with_reducible apply State.updHart_keeps
                  | with_reducible apply State.pump_keeps | with_reducible apply State.trap_keeps
                  | simp only [Keeps.record] | with_reducible refine Keeps.of_snd ‹_ = (_, _)› ?_
                  | with_reducible refine Keeps.of_fst ‹_ = (_, _)› ?_
                  | with_reducible refine Keeps.of_fst3 ‹_ = (_, _, _)› ?_ | with_reducible apply Keeps.ite
                  | split | dsimp only)

theorem State.ioDataAt_keeps {a s : State} {x1} {x2} {x3} (h : Keeps a s) :
    Keeps a (State.ioDataAt s x1 x2 x3) := by
  unfold State.ioDataAt
  try dsimp only
  repeat' (first | with_reducible assumption | with_reducible apply State.arriveIo_keeps
                  | with_reducible apply State.lateAnswer_keeps | with_reducible apply State.hartPoison_keeps
                  | with_reducible apply State.ioLoadFault_keeps | with_reducible apply State.updHart_keeps
                  | with_reducible apply State.pollInt_keeps | with_reducible apply State.pump_keeps
                  | simp only [Keeps.record] | with_reducible refine Keeps.of_snd ‹_ = (_, _)› ?_
                  | with_reducible refine Keeps.of_fst ‹_ = (_, _)› ?_
                  | with_reducible refine Keeps.of_fst3 ‹_ = (_, _, _)› ?_ | with_reducible apply Keeps.ite
                  | split | dsimp only)

theorem State.fileSignal_keeps {a s : State} {x1} {x2} (h : Keeps a s) :
    Keeps a (State.fileSignal s x1 x2) := by
  unfold State.fileSignal
  split
  · exact h
  split
  · exact State.intPend_keeps h
  split
  · exact State.intPend_keeps h
  extract_lets g x owner world w v s1 s2
  have h1 : Keeps a s1 := State.updHart_keeps h
  clear_value s1
  have h2 : Keeps a s2 := by
    dsimp -zeta only [s2]; split
    · exact State.intPend_keeps h1
    · exact h1
  clear_value s2 v w owner
  repeat' (first | with_reducible assumption | with_reducible apply State.intPend_keeps
                  | with_reducible apply State.updHart_keeps | with_reducible apply State.doorPost_keeps
                  | split | dsimp only)

theorem State.imprecise_keeps {a s : State} {x1} {x2} {x3} {x4} (h : Keeps a s) :
    Keeps a (State.imprecise s x1 x2 x3 x4) := by
  unfold State.imprecise
  try dsimp only
  repeat' (first | with_reducible assumption | with_reducible apply State.err_keeps
                  | with_reducible apply State.setF_keeps | with_reducible apply State.intPend_keeps
                  | simp only [Keeps.record] | with_reducible refine Keeps.of_snd ‹_ = (_, _)› ?_
                  | with_reducible refine Keeps.of_fst ‹_ = (_, _)› ?_
                  | with_reducible refine Keeps.of_fst3 ‹_ = (_, _, _)› ?_ | with_reducible apply Keeps.ite
                  | split | dsimp only)

theorem State.iocStore_keeps {a s : State} {x1} (h : Keeps a s) :
    Keeps a (State.iocStore s x1) := by
  unfold State.iocStore
  try dsimp only
  repeat' (first | with_reducible assumption | with_reducible apply State.advance_keeps
                  | with_reducible apply State.updHart_keeps | with_reducible apply State.imprecise_keeps
                  | with_reducible apply State.pump_keeps | with_reducible apply State.send_keeps
                  | simp only [Keeps.record] | with_reducible refine Keeps.of_snd ‹_ = (_, _)› ?_
                  | with_reducible refine Keeps.of_fst ‹_ = (_, _)› ?_
                  | with_reducible refine Keeps.of_fst3 ‹_ = (_, _, _)› ?_ | with_reducible apply Keeps.ite
                  | split | dsimp only)

theorem State.iocRecord_keeps {a s : State} {x1} {x2} {x3} {x4} {x5} (h : Keeps a s) :
    Keeps a (State.iocRecord s x1 x2 x3 x4 x5) := by
  unfold State.iocRecord
  try dsimp only
  repeat' (first | with_reducible assumption | with_reducible apply State.err_keeps | simp only [Keeps.record]
                  | with_reducible refine Keeps.of_snd ‹_ = (_, _)› ?_
                  | with_reducible refine Keeps.of_fst ‹_ = (_, _)› ?_
                  | with_reducible refine Keeps.of_fst3 ‹_ = (_, _, _)› ?_ | with_reducible apply Keeps.ite
                  | split | dsimp only)

theorem State.ioAckAt_keeps {a s : State} {x1} {x2} (h : Keeps a s) :
    Keeps a (State.ioAckAt s x1 x2) := by
  unfold State.ioAckAt
  try dsimp only
  repeat' (first | with_reducible assumption | with_reducible apply State.arriveIo_keeps
                  | with_reducible apply State.lateAnswer_keeps | with_reducible apply State.updHart_keeps
                  | with_reducible apply State.imprecise_keeps | with_reducible apply State.pump_keeps
                  | simp only [Keeps.record] | with_reducible refine Keeps.of_snd ‹_ = (_, _)› ?_
                  | with_reducible refine Keeps.of_fst ‹_ = (_, _)› ?_
                  | with_reducible refine Keeps.of_fst3 ‹_ = (_, _, _)› ?_ | with_reducible apply Keeps.ite
                  | split | dsimp only)

theorem State.iocDoor_keeps {a s : State} {x1} (h : Keeps a s) :
    Keeps a (State.iocDoor s x1) := by
  unfold State.iocDoor
  try dsimp only
  repeat' (first | with_reducible assumption | with_reducible apply State.advance_keeps
                  | with_reducible apply State.iocRecord_keeps | with_reducible apply State.updHart_keeps
                  | with_reducible apply State.wakeHart_keeps | with_reducible apply State.doorDone_keeps
                  | simp only [Keeps.record] | with_reducible refine Keeps.of_snd ‹_ = (_, _)› ?_
                  | with_reducible refine Keeps.of_fst ‹_ = (_, _)› ?_
                  | with_reducible refine Keeps.of_fst3 ‹_ = (_, _, _)› ?_ | with_reducible apply Keeps.ite
                  | split | dsimp only)

theorem State.iocLoad_keeps {a s : State} {x1} (h : Keeps a s) :
    Keeps a (State.iocLoad s x1) := by
  unfold State.iocLoad
  try dsimp only
  repeat' (first | with_reducible assumption | with_reducible apply State.advance_keeps
                  | with_reducible apply State.ioLoadFault_keeps | with_reducible apply State.iocRecord_keeps
                  | simp only [Keeps.record] | with_reducible refine Keeps.of_snd ‹_ = (_, _)› ?_
                  | with_reducible refine Keeps.of_fst ‹_ = (_, _)› ?_
                  | with_reducible refine Keeps.of_fst3 ‹_ = (_, _, _)› ?_ | with_reducible apply Keeps.ite
                  | split | dsimp only)

theorem State.fileMsi_keeps {a s : State} {x1} {x2} {x3} (h : Keeps a s) :
    Keeps a (State.fileMsi s x1 x2 x3) := by
  unfold State.fileMsi
  try dsimp only
  repeat' (first | with_reducible assumption | with_reducible apply State.fileSignal_keeps | simp only [Keeps.record]
                  | with_reducible refine Keeps.of_snd ‹_ = (_, _)› ?_
                  | with_reducible refine Keeps.of_fst ‹_ = (_, _)› ?_
                  | with_reducible refine Keeps.of_fst3 ‹_ = (_, _, _)› ?_ | with_reducible apply Keeps.ite
                  | split | dsimp only)

theorem evEff_keeps {a s : State} {x0} {x1} {x2} {x3} {x4} (h : Keeps a s) :
    Keeps a (evEff x0 x1 x2 x3 x4 s) := by
  unfold evEff
  try dsimp only
  repeat' (first | with_reducible assumption | with_reducible apply State.evAtHome_keeps | simp only [Keeps.record]
                  | with_reducible refine Keeps.of_snd ‹_ = (_, _)› ?_
                  | with_reducible refine Keeps.of_fst ‹_ = (_, _)› ?_
                  | with_reducible refine Keeps.of_fst3 ‹_ = (_, _, _)› ?_ | with_reducible apply Keeps.ite
                  | split | dsimp only)

theorem wrCEff_keeps {a s : State} {x0} {x1} {x2} {x3} (h : Keeps a s) :
    Keeps a (wrCEff x0 x1 x2 x3 s) := by
  unfold wrCEff
  try dsimp only
  repeat' (first | with_reducible assumption | with_reducible apply State.request_keeps | simp only [Keeps.record]
                  | with_reducible refine Keeps.of_snd ‹_ = (_, _)› ?_
                  | with_reducible refine Keeps.of_fst ‹_ = (_, _)› ?_
                  | with_reducible refine Keeps.of_fst3 ‹_ = (_, _, _)› ?_ | with_reducible apply Keeps.ite
                  | split | dsimp only)

theorem upgEff_keeps {a s : State} {x0} {x1} (h : Keeps a s) :
    Keeps a (upgEff x0 x1 s) := by
  unfold upgEff
  try dsimp only
  repeat' (first | with_reducible assumption | with_reducible apply State.request_keeps | simp only [Keeps.record]
                  | with_reducible refine Keeps.of_snd ‹_ = (_, _)› ?_
                  | with_reducible refine Keeps.of_fst ‹_ = (_, _)› ?_
                  | with_reducible refine Keeps.of_fst3 ‹_ = (_, _, _)› ?_ | with_reducible apply Keeps.ite
                  | split | dsimp only)

theorem snpIEff_keeps {a s : State} {x0} {x1} {x2} {x3} {x4} {x5} {x6} (h : Keeps a s) :
    Keeps a (snpIEff x0 x1 x2 x3 x4 x5 x6 s) := by
  unfold snpIEff
  try dsimp only
  repeat' (first | with_reducible assumption | with_reducible apply State.snoopAt_keeps | simp only [Keeps.record]
                  | with_reducible refine Keeps.of_snd ‹_ = (_, _)› ?_
                  | with_reducible refine Keeps.of_fst ‹_ = (_, _)› ?_
                  | with_reducible refine Keeps.of_fst3 ‹_ = (_, _, _)› ?_ | with_reducible apply Keeps.ite
                  | split | dsimp only)

theorem snpCEff_keeps {a s : State} {x0} {x1} {x2} {x3} {x4} (h : Keeps a s) :
    Keeps a (snpCEff x0 x1 x2 x3 x4 s) := by
  unfold snpCEff
  try dsimp only
  repeat' (first | with_reducible assumption | with_reducible apply State.snoopAt_keeps | simp only [Keeps.record]
                  | with_reducible refine Keeps.of_snd ‹_ = (_, _)› ?_
                  | with_reducible refine Keeps.of_fst ‹_ = (_, _)› ?_
                  | with_reducible refine Keeps.of_fst3 ‹_ = (_, _, _)› ?_ | with_reducible apply Keeps.ite
                  | split | dsimp only)

theorem dirtyEff_keeps {a s : State} {x0} {x1} {x2} {x3} (h : Keeps a s) :
    Keeps a (dirtyEff x0 x1 x2 x3 s) := by
  unfold dirtyEff
  try dsimp only
  repeat' (first | with_reducible assumption | with_reducible apply State.dirtyAtHome_keeps | simp only [Keeps.record]
                  | with_reducible refine Keeps.of_snd ‹_ = (_, _)› ?_
                  | with_reducible refine Keeps.of_fst ‹_ = (_, _)› ?_
                  | with_reducible refine Keeps.of_fst3 ‹_ = (_, _, _)› ?_ | with_reducible apply Keeps.ite
                  | split | dsimp only)

theorem nodataEff_keeps {a s : State} {x0} {x1} (h : Keeps a s) :
    Keeps a (nodataEff x0 x1 s) := by
  unfold nodataEff
  try dsimp only
  repeat' (first | with_reducible assumption | with_reducible apply State.nodataAt_keeps | simp only [Keeps.record]
                  | with_reducible refine Keeps.of_snd ‹_ = (_, _)› ?_
                  | with_reducible refine Keeps.of_fst ‹_ = (_, _)› ?_
                  | with_reducible refine Keeps.of_fst3 ‹_ = (_, _, _)› ?_ | with_reducible apply Keeps.ite
                  | split | dsimp only)

theorem wbAckEff_keeps {a s : State} {x0} {x1} (h : Keeps a s) :
    Keeps a (wbAckEff x0 x1 s) := by
  unfold wbAckEff
  try dsimp only
  repeat' (first | with_reducible assumption | with_reducible apply State.wbAckAt_keeps | simp only [Keeps.record]
                  | with_reducible refine Keeps.of_snd ‹_ = (_, _)› ?_
                  | with_reducible refine Keeps.of_fst ‹_ = (_, _)› ?_
                  | with_reducible refine Keeps.of_fst3 ‹_ = (_, _, _)› ?_ | with_reducible apply Keeps.ite
                  | split | dsimp only)

theorem rdNcEff_keeps {a s : State} {x0} {x1} {x2} {x3} (h : Keeps a s) :
    Keeps a (rdNcEff x0 x1 x2 x3 s) := by
  unfold rdNcEff
  try dsimp only
  repeat' (first | with_reducible assumption | with_reducible apply State.request_keeps | simp only [Keeps.record]
                  | with_reducible refine Keeps.of_snd ‹_ = (_, _)› ?_
                  | with_reducible refine Keeps.of_fst ‹_ = (_, _)› ?_
                  | with_reducible refine Keeps.of_fst3 ‹_ = (_, _, _)› ?_ | with_reducible apply Keeps.ite
                  | split | dsimp only)

theorem lapReturnEff_keeps {a s : State} {x0} {x1} {x2} (h : Keeps a s) :
    Keeps a (lapReturnEff x0 x1 x2 s) := by
  unfold lapReturnEff
  try dsimp only
  repeat' (first | with_reducible assumption | with_reducible apply State.lapBack_keeps | simp only [Keeps.record]
                  | with_reducible refine Keeps.of_snd ‹_ = (_, _)› ?_
                  | with_reducible refine Keeps.of_fst ‹_ = (_, _)› ?_
                  | with_reducible refine Keeps.of_fst3 ‹_ = (_, _, _)› ?_ | with_reducible apply Keeps.ite
                  | split | dsimp only)

theorem rdSpEff_keeps {a s : State} {x0} {x1} (h : Keeps a s) :
    Keeps a (rdSpEff x0 x1 s) := by
  unfold rdSpEff
  try dsimp only
  repeat' (first | with_reducible assumption | with_reducible apply State.request_keeps | simp only [Keeps.record]
                  | with_reducible refine Keeps.of_snd ‹_ = (_, _)› ?_
                  | with_reducible refine Keeps.of_fst ‹_ = (_, _)› ?_
                  | with_reducible refine Keeps.of_fst3 ‹_ = (_, _, _)› ?_ | with_reducible apply Keeps.ite
                  | split | dsimp only)

theorem leavingTableAcceptEff_keeps {a s : State} {x0} (h : Keeps a s) :
    Keeps a (leavingTableAcceptEff x0 s) := by
  unfold leavingTableAcceptEff
  try dsimp only
  repeat' (first | with_reducible assumption | with_reducible apply State.goHeld_keeps
                  | with_reducible apply State.acceptWaiting_keeps
                  | with_reducible refine Keeps.foldl (fun _ _ _ => ?_) ?_
                  | with_reducible refine Keeps.foldlFst (fun _ _ _ => ?_) ?_
                  | with_reducible refine Keeps.foldlSnd (fun _ _ _ => ?_) ?_ | simp only [Keeps.record]
                  | with_reducible refine Keeps.of_snd ‹_ = (_, _)› ?_
                  | with_reducible refine Keeps.of_fst ‹_ = (_, _)› ?_
                  | with_reducible refine Keeps.of_fst3 ‹_ = (_, _, _)› ?_ | with_reducible apply Keeps.ite
                  | split | dsimp only)

theorem atomEff_keeps {a s : State} {x0} {x1} {x2} {x3} {x4} {x5} (h : Keeps a s) :
    Keeps a (atomEff x0 x1 x2 x3 x4 x5 s) := by
  unfold atomEff
  try dsimp only
  repeat' (first | with_reducible assumption | with_reducible apply State.request_keeps | simp only [Keeps.record]
                  | with_reducible refine Keeps.of_snd ‹_ = (_, _)› ?_
                  | with_reducible refine Keeps.of_fst ‹_ = (_, _)› ?_
                  | with_reducible refine Keeps.of_fst3 ‹_ = (_, _, _)› ?_ | with_reducible apply Keeps.ite
                  | split | dsimp only)

theorem invEff_keeps {a s : State} {x0} {x1} (h : Keeps a s) :
    Keeps a (invEff x0 x1 s) := by
  unfold invEff
  try dsimp only
  repeat' (first | with_reducible assumption | with_reducible apply State.request_keeps | simp only [Keeps.record]
                  | with_reducible refine Keeps.of_snd ‹_ = (_, _)› ?_
                  | with_reducible refine Keeps.of_fst ‹_ = (_, _)› ?_
                  | with_reducible refine Keeps.of_fst3 ‹_ = (_, _, _)› ?_ | with_reducible apply Keeps.ite
                  | split | dsimp only)

theorem holderSnoopEff_keeps {a s : State} {x0} {x1} {x2} {x3} {x4} {x5} {x6} {x7} {x8} (h : Keeps a s) :
    Keeps a (holderSnoopEff x0 x1 x2 x3 x4 x5 x6 x7 x8 s) := by
  unfold holderSnoopEff
  try dsimp only
  repeat' (first | with_reducible assumption | with_reducible apply State.snoopHolder_keeps | simp only [Keeps.record]
                  | with_reducible refine Keeps.of_snd ‹_ = (_, _)› ?_
                  | with_reducible refine Keeps.of_fst ‹_ = (_, _)› ?_
                  | with_reducible refine Keeps.of_fst3 ‹_ = (_, _, _)› ?_ | with_reducible apply Keeps.ite
                  | split | dsimp only)

theorem invDoneEff_keeps {a s : State} {x0} {x1} {x2} (h : Keeps a s) :
    Keeps a (invDoneEff x0 x1 x2 s) := by
  unfold invDoneEff
  try dsimp only
  repeat' (first | with_reducible assumption | with_reducible apply State.invReport_keeps | simp only [Keeps.record]
                  | with_reducible refine Keeps.of_snd ‹_ = (_, _)› ?_
                  | with_reducible refine Keeps.of_fst ‹_ = (_, _)› ?_
                  | with_reducible refine Keeps.of_fst3 ‹_ = (_, _, _)› ?_ | with_reducible apply Keeps.ite
                  | split | dsimp only)

theorem upgFailEff_keeps {a s : State} {x0} {x1} (h : Keeps a s) :
    Keeps a (upgFailEff x0 x1 s) := by
  unfold upgFailEff
  try dsimp only
  repeat' (first | with_reducible assumption | with_reducible apply State.upgFailAt_keeps | simp only [Keeps.record]
                  | with_reducible refine Keeps.of_snd ‹_ = (_, _)› ?_
                  | with_reducible refine Keeps.of_fst ‹_ = (_, _)› ?_
                  | with_reducible refine Keeps.of_fst3 ‹_ = (_, _, _)› ?_ | with_reducible apply Keeps.ite
                  | split | dsimp only)

theorem homeExpiryEff_keeps {a s : State} {x0} {x1} {x2} {x3} (h : Keeps a s) :
    Keeps a (homeExpiryEff x0 x1 x2 x3 s) := by
  unfold homeExpiryEff
  try dsimp only
  repeat' (first | with_reducible assumption | with_reducible apply State.expireHome_keeps | simp only [Keeps.record]
                  | with_reducible refine Keeps.of_snd ‹_ = (_, _)› ?_
                  | with_reducible refine Keeps.of_fst ‹_ = (_, _)› ?_
                  | with_reducible refine Keeps.of_fst3 ‹_ = (_, _, _)› ?_ | with_reducible apply Keeps.ite
                  | split | dsimp only)

theorem wbEff_keeps {a s : State} {x0} {x1} {x2} {x3} {x4} {x5} {x6} (h : Keeps a s) :
    Keeps a (wbEff x0 x1 x2 x3 x4 x5 x6 s) := by
  unfold wbEff
  try dsimp only
  repeat' (first | with_reducible assumption | with_reducible apply State.wbAtHome_keeps | simp only [Keeps.record]
                  | with_reducible refine Keeps.of_snd ‹_ = (_, _)› ?_
                  | with_reducible refine Keeps.of_fst ‹_ = (_, _)› ?_
                  | with_reducible refine Keeps.of_fst3 ‹_ = (_, _, _)› ?_ | with_reducible apply Keeps.ite
                  | split | dsimp only)

theorem flsEff_keeps {a s : State} {x0} {x1} (h : Keeps a s) :
    Keeps a (flsEff x0 x1 s) := by
  unfold flsEff
  try dsimp only
  repeat' (first | with_reducible assumption | with_reducible apply State.request_keeps | simp only [Keeps.record]
                  | with_reducible refine Keeps.of_snd ‹_ = (_, _)› ?_
                  | with_reducible refine Keeps.of_fst ‹_ = (_, _)› ?_
                  | with_reducible refine Keeps.of_fst3 ‹_ = (_, _, _)› ?_ | with_reducible apply Keeps.ite
                  | split | dsimp only)

theorem fwdDoneEff_keeps {a s : State} {x0} {x1} {x2} {x3} {x4} (h : Keeps a s) :
    Keeps a (fwdDoneEff x0 x1 x2 x3 x4 s) := by
  unfold fwdDoneEff
  try dsimp only
  repeat' (first | with_reducible assumption | with_reducible apply State.fwdReport_keeps | simp only [Keeps.record]
                  | with_reducible refine Keeps.of_snd ‹_ = (_, _)› ?_
                  | with_reducible refine Keeps.of_fst ‹_ = (_, _)› ?_
                  | with_reducible refine Keeps.of_fst3 ‹_ = (_, _, _)› ?_ | with_reducible apply Keeps.ite
                  | split | dsimp only)

theorem compEff_keeps {a s : State} {x0} {x1} {x2} {x3} (h : Keeps a s) :
    Keeps a (compEff x0 x1 x2 x3 s) := by
  unfold compEff
  try dsimp only
  repeat' (first | with_reducible assumption | with_reducible apply State.compReport_keeps | simp only [Keeps.record]
                  | with_reducible refine Keeps.of_snd ‹_ = (_, _)› ?_
                  | with_reducible refine Keeps.of_fst ‹_ = (_, _)› ?_
                  | with_reducible refine Keeps.of_fst3 ‹_ = (_, _, _)› ?_ | with_reducible apply Keeps.ite
                  | split | dsimp only)

theorem rdOEff_keeps {a s : State} {x0} {x1} (h : Keeps a s) :
    Keeps a (rdOEff x0 x1 s) := by
  unfold rdOEff
  try dsimp only
  repeat' (first | with_reducible assumption | with_reducible apply State.request_keeps | simp only [Keeps.record]
                  | with_reducible refine Keeps.of_snd ‹_ = (_, _)› ?_
                  | with_reducible refine Keeps.of_fst ‹_ = (_, _)› ?_
                  | with_reducible refine Keeps.of_fst3 ‹_ = (_, _, _)› ?_ | with_reducible apply Keeps.ite
                  | split | dsimp only)

theorem clnEff_keeps {a s : State} {x0} {x1} (h : Keeps a s) :
    Keeps a (clnEff x0 x1 s) := by
  unfold clnEff
  try dsimp only
  repeat' (first | with_reducible assumption | with_reducible apply State.request_keeps | simp only [Keeps.record]
                  | with_reducible refine Keeps.of_snd ‹_ = (_, _)› ?_
                  | with_reducible refine Keeps.of_fst ‹_ = (_, _)› ?_
                  | with_reducible refine Keeps.of_fst3 ‹_ = (_, _, _)› ?_ | with_reducible apply Keeps.ite
                  | split | dsimp only)

theorem rdCEff_keeps {a s : State} {x0} {x1} (h : Keeps a s) :
    Keeps a (rdCEff x0 x1 s) := by
  unfold rdCEff
  try dsimp only
  repeat' (first | with_reducible assumption | with_reducible apply State.request_keeps | simp only [Keeps.record]
                  | with_reducible refine Keeps.of_snd ‹_ = (_, _)› ?_
                  | with_reducible refine Keeps.of_fst ‹_ = (_, _)› ?_
                  | with_reducible refine Keeps.of_fst3 ‹_ = (_, _, _)› ?_ | with_reducible apply Keeps.ite
                  | split | dsimp only)

theorem tokenExpiryEff_keeps {a s : State} {x0} {x1} {x2} (h : Keeps a s) :
    Keeps a (tokenExpiryEff x0 x1 x2 s) := by
  unfold tokenExpiryEff
  try dsimp only
  repeat' (first | with_reducible assumption | with_reducible apply State.expireToken_keeps | simp only [Keeps.record]
                  | with_reducible refine Keeps.of_snd ‹_ = (_, _)› ?_
                  | with_reducible refine Keeps.of_fst ‹_ = (_, _)› ?_
                  | with_reducible refine Keeps.of_fst3 ‹_ = (_, _, _)› ?_ | with_reducible apply Keeps.ite
                  | split | dsimp only)

theorem wrNcEff_keeps {a s : State} {x0} {x1} {x2} {x3} {x4} (h : Keeps a s) :
    Keeps a (wrNcEff x0 x1 x2 x3 x4 s) := by
  unfold wrNcEff
  try dsimp only
  repeat' (first | with_reducible assumption | with_reducible apply State.request_keeps | simp only [Keeps.record]
                  | with_reducible refine Keeps.of_snd ‹_ = (_, _)› ?_
                  | with_reducible refine Keeps.of_fst ‹_ = (_, _)› ?_
                  | with_reducible refine Keeps.of_fst3 ‹_ = (_, _, _)› ?_ | with_reducible apply Keeps.ite
                  | split | dsimp only)

theorem holdWindowEndEff_keeps {a s : State} {x0} {x1} (h : Keeps a s) :
    Keeps a (holdWindowEndEff x0 x1 s) := by
  unfold holdWindowEndEff
  try dsimp only
  repeat' (first | with_reducible assumption | with_reducible apply State.endWindow_keeps
                  | with_reducible apply State.updHart_keeps | simp only [Keeps.record]
                  | with_reducible refine Keeps.of_snd ‹_ = (_, _)› ?_
                  | with_reducible refine Keeps.of_fst ‹_ = (_, _)› ?_
                  | with_reducible refine Keeps.of_fst3 ‹_ = (_, _, _)› ?_ | with_reducible apply Keeps.ite
                  | split | dsimp only)

theorem rdSEff_keeps {a s : State} {x0} {x1} (h : Keeps a s) :
    Keeps a (rdSEff x0 x1 s) := by
  unfold rdSEff
  try dsimp only
  repeat' (first | with_reducible assumption | with_reducible apply State.request_keeps | simp only [Keeps.record]
                  | with_reducible refine Keeps.of_snd ‹_ = (_, _)› ?_
                  | with_reducible refine Keeps.of_fst ‹_ = (_, _)› ?_
                  | with_reducible refine Keeps.of_fst3 ‹_ = (_, _, _)› ?_ | with_reducible apply Keeps.ite
                  | split | dsimp only)

theorem snpSEff_keeps {a s : State} {x0} {x1} {x2} {x3} {x4} {x5} {x6} (h : Keeps a s) :
    Keeps a (snpSEff x0 x1 x2 x3 x4 x5 x6 s) := by
  unfold snpSEff
  try dsimp only
  repeat' (first | with_reducible assumption | with_reducible apply State.snoopAt_keeps | simp only [Keeps.record]
                  | with_reducible refine Keeps.of_snd ‹_ = (_, _)› ?_
                  | with_reducible refine Keeps.of_fst ‹_ = (_, _)› ?_
                  | with_reducible refine Keeps.of_fst3 ‹_ = (_, _, _)› ?_ | with_reducible apply Keeps.ite
                  | split | dsimp only)

theorem zeroEff_keeps {a s : State} {x0} {x1} (h : Keeps a s) :
    Keeps a (zeroEff x0 x1 s) := by
  unfold zeroEff
  try dsimp only
  repeat' (first | with_reducible assumption | with_reducible apply State.request_keeps | simp only [Keeps.record]
                  | with_reducible refine Keeps.of_snd ‹_ = (_, _)› ?_
                  | with_reducible refine Keeps.of_fst ‹_ = (_, _)› ?_
                  | with_reducible refine Keeps.of_fst3 ‹_ = (_, _, _)› ?_ | with_reducible apply Keeps.ite
                  | split | dsimp only)

theorem fillResumeEff_keeps {a s : State} {x0} {x1} (h : Keeps a s) :
    Keeps a (fillResumeEff x0 x1 s) := by
  unfold fillResumeEff
  try dsimp only
  repeat' (first | with_reducible assumption | with_reducible apply State.resumeFill_keeps | simp only [Keeps.record]
                  | with_reducible refine Keeps.of_snd ‹_ = (_, _)› ?_
                  | with_reducible refine Keeps.of_fst ‹_ = (_, _)› ?_
                  | with_reducible refine Keeps.of_fst3 ‹_ = (_, _, _)› ?_ | with_reducible apply Keeps.ite
                  | split | dsimp only)

theorem State.swResult_keeps {a s : State} {x1} {x2} {x3} {x4} {x5} (h : Keeps a s) :
    Keeps a (State.swResult s x1 x2 x3 x4 x5) := by
  unfold State.swResult
  try dsimp only
  repeat' (first | with_reducible assumption | with_reducible apply State.setF_keeps | simp only [Keeps.record]
                  | with_reducible refine Keeps.of_snd ‹_ = (_, _)› ?_
                  | with_reducible refine Keeps.of_fst ‹_ = (_, _)› ?_
                  | with_reducible refine Keeps.of_fst3 ‹_ = (_, _, _)› ?_ | with_reducible apply Keeps.ite
                  | split | dsimp only)

theorem State.slcOp_keeps {a s : State} {x1} {x2} {x3} {x4} {x5} (h : Keeps a s) :
    Keeps a (State.slcOp s x1 x2 x3 x4 x5) := by
  unfold State.slcOp
  try dsimp only
  repeat' (first | with_reducible assumption | with_reducible apply State.swResult_keeps
                  | with_reducible apply State.homeWrite_keeps | with_reducible apply State.updSlice_keeps
                  | simp only [Keeps.record] | with_reducible refine Keeps.of_snd ‹_ = (_, _)› ?_
                  | with_reducible refine Keeps.of_fst ‹_ = (_, _)› ?_
                  | with_reducible refine Keeps.of_fst3 ‹_ = (_, _, _)› ?_ | with_reducible apply Keeps.ite
                  | split | dsimp only)

theorem slcCleanEff_keeps {a s : State} {x0} {x1} {x2} (h : Keeps a s) :
    Keeps a (slcCleanEff x0 x1 x2 s) := by
  unfold slcCleanEff
  try dsimp only
  repeat' (first | with_reducible assumption | with_reducible apply State.slcOp_keeps | simp only [Keeps.record]
                  | with_reducible refine Keeps.of_snd ‹_ = (_, _)› ?_
                  | with_reducible refine Keeps.of_fst ‹_ = (_, _)› ?_
                  | with_reducible refine Keeps.of_fst3 ‹_ = (_, _, _)› ?_ | with_reducible apply Keeps.ite
                  | split | dsimp only)

theorem State.beginWays_keeps {a s : State} {x1} (h : Keeps a s) :
    Keeps a (State.beginWays s x1) := by
  unfold State.beginWays
  try dsimp only
  repeat' (first | with_reducible assumption | with_reducible apply State.setF_keeps
                  | with_reducible apply State.updSlice_keeps
                  | with_reducible refine Keeps.foldl (fun _ _ _ => ?_) ?_
                  | with_reducible refine Keeps.foldlFst (fun _ _ _ => ?_) ?_
                  | with_reducible refine Keeps.foldlSnd (fun _ _ _ => ?_) ?_ | simp only [Keeps.record]
                  | with_reducible refine Keeps.of_snd ‹_ = (_, _)› ?_
                  | with_reducible refine Keeps.of_fst ‹_ = (_, _)› ?_
                  | with_reducible refine Keeps.of_fst3 ‹_ = (_, _, _)› ?_ | with_reducible apply Keeps.ite
                  | split | dsimp only)

theorem slcCleanInvalidateEff_keeps {a s : State} {x0} {x1} {x2} (h : Keeps a s) :
    Keeps a (slcCleanInvalidateEff x0 x1 x2 s) := by
  unfold slcCleanInvalidateEff
  try dsimp only
  repeat' (first | with_reducible assumption | with_reducible apply State.slcOp_keeps | simp only [Keeps.record]
                  | with_reducible refine Keeps.of_snd ‹_ = (_, _)› ?_
                  | with_reducible refine Keeps.of_fst ‹_ = (_, _)› ?_
                  | with_reducible refine Keeps.of_fst3 ‹_ = (_, _, _)› ?_ | with_reducible apply Keeps.ite
                  | split | dsimp only)

theorem State.abortRange_keeps {a s : State} {x1} (h : Keeps a s) :
    Keeps a (State.abortRange s x1) := by
  unfold State.abortRange
  try dsimp only
  repeat' (first | with_reducible assumption | simp only [Keeps.record]
                  | with_reducible refine Keeps.of_snd ‹_ = (_, _)› ?_
                  | with_reducible refine Keeps.of_fst ‹_ = (_, _)› ?_
                  | with_reducible refine Keeps.of_fst3 ‹_ = (_, _, _)› ?_ | with_reducible apply Keeps.ite
                  | split | dsimp only)

theorem State.startRange_keeps {a s : State} {x1} {x2} {x3} {x4} (h : Keeps a s) :
    Keeps a (State.startRange s x1 x2 x3 x4) := by
  unfold State.startRange
  try dsimp only
  repeat' (first | with_reducible assumption | with_reducible apply State.setF_keeps
                  | with_reducible apply State.wr_keeps | with_reducible apply State.setSource_keeps
                  | with_reducible apply State.rangeGoOn_keeps | simp only [Keeps.record]
                  | with_reducible refine Keeps.of_snd ‹_ = (_, _)› ?_
                  | with_reducible refine Keeps.of_fst ‹_ = (_, _)› ?_
                  | with_reducible refine Keeps.of_fst3 ‹_ = (_, _, _)› ?_ | with_reducible apply Keeps.ite
                  | split | dsimp only)

theorem rangeGoEff_keeps {a s : State} {x0} {x1} {x2} {x3} (h : Keeps a s) :
    Keeps a (rangeGoEff x0 x1 x2 x3 s) := by
  unfold rangeGoEff
  try dsimp only
  repeat' (first | with_reducible assumption | with_reducible refine State.ctlGuard_keeps (fun _ _ => ?_) ?_
                  | with_reducible apply State.startRange_keeps | simp only [Keeps.record]
                  | with_reducible refine Keeps.of_snd ‹_ = (_, _)› ?_
                  | with_reducible refine Keeps.of_fst ‹_ = (_, _)› ?_
                  | with_reducible refine Keeps.of_fst3 ‹_ = (_, _, _)› ?_ | with_reducible apply Keeps.ite
                  | split | dsimp only)

theorem State.endWays_keeps {a s : State} {x1} (h : Keeps a s) :
    Keeps a (State.endWays s x1) := by
  unfold State.endWays
  try dsimp only
  repeat' (first | with_reducible assumption | with_reducible apply State.evictEnt_keeps
                  | with_reducible apply State.setF_keeps | with_reducible apply State.updSlice_keeps
                  | with_reducible refine Keeps.foldl (fun _ _ _ => ?_) ?_
                  | with_reducible refine Keeps.foldlFst (fun _ _ _ => ?_) ?_
                  | with_reducible refine Keeps.foldlSnd (fun _ _ _ => ?_) ?_ | simp only [Keeps.record]
                  | with_reducible refine Keeps.of_snd ‹_ = (_, _)› ?_
                  | with_reducible refine Keeps.of_fst ‹_ = (_, _)› ?_
                  | with_reducible refine Keeps.of_fst3 ‹_ = (_, _, _)› ?_ | with_reducible apply Keeps.ite
                  | split | dsimp only)

theorem slcInvalidateEff_keeps {a s : State} {x0} {x1} {x2} {x3} (h : Keeps a s) :
    Keeps a (slcInvalidateEff x0 x1 x2 x3 s) := by
  unfold slcInvalidateEff
  try dsimp only
  repeat' (first | with_reducible assumption | with_reducible refine State.ctlGuard_keeps (fun _ _ => ?_) ?_
                  | with_reducible apply State.slcOp_keeps | simp only [Keeps.record]
                  | with_reducible refine Keeps.of_snd ‹_ = (_, _)› ?_
                  | with_reducible refine Keeps.of_fst ‹_ = (_, _)› ?_
                  | with_reducible refine Keeps.of_fst3 ‹_ = (_, _, _)› ?_ | with_reducible apply Keeps.ite
                  | split | dsimp only)

theorem State.lockFillGo_keeps {a s : State} {x1} {x2} {x3} {x4} (h : Keeps a s) :
    Keeps a (State.lockFillGo s x1 x2 x3 x4).1 := by
  unfold State.lockFillGo
  try dsimp only
  repeat' (first | with_reducible assumption | with_reducible apply State.setF_keeps
                  | with_reducible apply State.violation_keeps | with_reducible apply State.homeGo_keeps
                  | with_reducible apply State.enqueue_keeps | simp only [Keeps.record]
                  | with_reducible refine Keeps.of_snd ‹_ = (_, _)› ?_
                  | with_reducible refine Keeps.of_fst ‹_ = (_, _)› ?_
                  | with_reducible refine Keeps.of_fst3 ‹_ = (_, _, _)› ?_ | with_reducible apply Keeps.ite
                  | split | dsimp only)

theorem rangeAbortEff_keeps {a s : State} {x0} {x1} (h : Keeps a s) :
    Keeps a (rangeAbortEff x0 x1 s) := by
  unfold rangeAbortEff
  try dsimp only
  repeat' (first | with_reducible assumption | with_reducible refine State.ctlGuard_keeps (fun _ _ => ?_) ?_
                  | with_reducible apply State.abortRange_keeps | simp only [Keeps.record]
                  | with_reducible refine Keeps.of_snd ‹_ = (_, _)› ?_
                  | with_reducible refine Keeps.of_fst ‹_ = (_, _)› ?_
                  | with_reducible refine Keeps.of_fst3 ‹_ = (_, _, _)› ?_ | with_reducible apply Keeps.ite
                  | split | dsimp only)

theorem wayCleanDoneEff_keeps {a s : State} {x0} (h : Keeps a s) :
    Keeps a (wayCleanDoneEff x0 s) := by
  unfold wayCleanDoneEff
  try dsimp only
  repeat' (first | with_reducible assumption | with_reducible apply State.homeGo_keeps
                  | with_reducible apply State.endWays_keeps | simp only [Keeps.record]
                  | with_reducible refine Keeps.of_snd ‹_ = (_, _)› ?_
                  | with_reducible refine Keeps.of_fst ‹_ = (_, _)› ?_
                  | with_reducible refine Keeps.of_fst3 ‹_ = (_, _, _)› ?_ | with_reducible apply Keeps.ite
                  | split | dsimp only)

theorem lockFillEff_keeps {a s : State} {x0} {x1} {x2} {x3} (h : Keeps a s) :
    Keeps a (lockFillEff x0 x1 x2 x3 s) := by
  unfold lockFillEff
  try dsimp only
  repeat' (first | with_reducible assumption | with_reducible refine State.ctlGuard_keeps (fun _ _ => ?_) ?_
                  | with_reducible apply State.lockFillGo_keeps | simp only [Keeps.record]
                  | with_reducible refine Keeps.of_snd ‹_ = (_, _)› ?_
                  | with_reducible refine Keeps.of_fst ‹_ = (_, _)› ?_
                  | with_reducible refine Keeps.of_fst3 ‹_ = (_, _, _)› ?_ | with_reducible apply Keeps.ite
                  | split | dsimp only)

theorem rangeDoneEff_keeps {a s : State} {x0} (h : Keeps a s) :
    Keeps a (rangeDoneEff x0 s) := by
  unfold rangeDoneEff
  try dsimp only
  repeat' (first | with_reducible assumption | with_reducible apply State.rangeGoOn_keeps
                  | with_reducible apply State.setF_keeps | with_reducible apply State.wr_keeps
                  | with_reducible apply State.setSource_keeps | simp only [Keeps.record]
                  | with_reducible refine Keeps.of_snd ‹_ = (_, _)› ?_
                  | with_reducible refine Keeps.of_fst ‹_ = (_, _)› ?_
                  | with_reducible refine Keeps.of_fst3 ‹_ = (_, _, _)› ?_ | with_reducible apply Keeps.ite
                  | split | dsimp only)

theorem State.refreshBolts_keeps {a s : State} (h : Keeps a s) :
    Keeps a (State.refreshBolts s) := by
  unfold State.refreshBolts
  try dsimp only
  repeat' (first | with_reducible assumption | with_reducible apply State.setF_keeps
                  | with_reducible refine Keeps.foldl (fun _ _ _ => ?_) ?_
                  | with_reducible refine Keeps.foldlFst (fun _ _ _ => ?_) ?_
                  | with_reducible refine Keeps.foldlSnd (fun _ _ _ => ?_) ?_ | simp only [Keeps.record]
                  | with_reducible refine Keeps.of_snd ‹_ = (_, _)› ?_
                  | with_reducible refine Keeps.of_fst ‹_ = (_, _)› ?_
                  | with_reducible refine Keeps.of_fst3 ‹_ = (_, _, _)› ?_ | with_reducible apply Keeps.ite
                  | split | dsimp only)

theorem State.setBolts_keeps {a s : State} (h : Keeps a s) :
    Keeps a (State.setBolts s) := by
  unfold State.setBolts
  try dsimp only
  repeat' (first | with_reducible assumption | with_reducible apply State.refreshBolts_keeps
                  | with_reducible apply State.wr_keeps | with_reducible apply State.err_keeps
                  | with_reducible refine Keeps.foldl (fun _ _ _ => ?_) ?_
                  | with_reducible refine Keeps.foldlFst (fun _ _ _ => ?_) ?_
                  | with_reducible refine Keeps.foldlSnd (fun _ _ _ => ?_) ?_ | simp only [Keeps.record]
                  | with_reducible refine Keeps.of_snd ‹_ = (_, _)› ?_
                  | with_reducible refine Keeps.of_fst ‹_ = (_, _)› ?_
                  | with_reducible refine Keeps.of_fst3 ‹_ = (_, _, _)› ?_ | with_reducible apply Keeps.ite
                  | split | dsimp only)

theorem State.rfmIssue_keeps {a s : State} {x1} {x2} (h : Keeps a s) :
    Keeps a (State.rfmIssue s x1 x2) := by
  unfold State.rfmIssue
  try dsimp only
  repeat' (first | with_reducible assumption | with_reducible apply State.uev_keeps
                  | with_reducible apply State.incF_keeps | with_reducible apply State.updMc_keeps
                  | simp only [Keeps.record] | with_reducible refine Keeps.of_snd ‹_ = (_, _)› ?_
                  | with_reducible refine Keeps.of_fst ‹_ = (_, _)› ?_
                  | with_reducible refine Keeps.of_fst3 ‹_ = (_, _, _)› ?_ | with_reducible apply Keeps.ite
                  | split | dsimp only)

theorem State.activate_keeps {a s : State} {x1} {x2} (h : Keeps a s) :
    Keeps a (State.activate s x1 x2) := by
  unfold State.activate
  try dsimp only
  repeat' (first | with_reducible assumption | with_reducible apply State.rfmIssue_keeps
                  | with_reducible apply State.updMc_keeps | simp only [Keeps.record]
                  | with_reducible refine Keeps.of_snd ‹_ = (_, _)› ?_
                  | with_reducible refine Keeps.of_fst ‹_ = (_, _)› ?_
                  | with_reducible refine Keeps.of_fst3 ‹_ = (_, _, _)› ?_ | with_reducible apply Keeps.ite
                  | split | dsimp only)

theorem State.startScrub_keeps {a s : State} {x1} {x2} {x3} {x4} (h : Keeps a s) :
    Keeps a (State.startScrub s x1 x2 x3 x4) := by
  unfold State.startScrub
  try dsimp only
  repeat' (first | with_reducible assumption | with_reducible apply State.setF_keeps
                  | with_reducible apply State.wr_keeps | with_reducible apply State.setSource_keeps
                  | with_reducible apply State.updMc_keeps | simp only [Keeps.record]
                  | with_reducible refine Keeps.of_snd ‹_ = (_, _)› ?_
                  | with_reducible refine Keeps.of_fst ‹_ = (_, _)› ?_
                  | with_reducible refine Keeps.of_fst3 ‹_ = (_, _, _)› ?_ | with_reducible apply Keeps.ite
                  | split | dsimp only)

theorem scrubGoEff_keeps {a s : State} {x0} {x1} {x2} {x3} {x4} (h : Keeps a s) :
    Keeps a (scrubGoEff x0 x1 x2 x3 x4 s) := by
  unfold scrubGoEff
  try dsimp only
  repeat' (first | with_reducible assumption | with_reducible refine State.ctlGuard_keeps (fun _ _ => ?_) ?_
                  | with_reducible apply State.startScrub_keeps | simp only [Keeps.record]
                  | with_reducible refine Keeps.of_snd ‹_ = (_, _)› ?_
                  | with_reducible refine Keeps.of_fst ‹_ = (_, _)› ?_
                  | with_reducible refine Keeps.of_fst3 ‹_ = (_, _, _)› ?_ | with_reducible apply Keeps.ite
                  | split | dsimp only)

theorem State.mcErr_keeps {a s : State} {x1} {x2} {x3} {x4} {x5} {x6} (h : Keeps a s) :
    Keeps a (State.mcErr s x1 x2 x3 x4 x5 x6) := by
  unfold State.mcErr
  try dsimp only
  repeat' (first | with_reducible assumption | with_reducible apply State.err_keeps | simp only [Keeps.record]
                  | with_reducible refine Keeps.of_snd ‹_ = (_, _)› ?_
                  | with_reducible refine Keeps.of_fst ‹_ = (_, _)› ?_
                  | with_reducible refine Keeps.of_fst3 ‹_ = (_, _, _)› ?_ | with_reducible apply Keeps.ite
                  | split | dsimp only)

theorem State.endScrub_keeps {a s : State} {x1} {x2} (h : Keeps a s) :
    Keeps a (State.endScrub s x1 x2) := by
  unfold State.endScrub
  try dsimp only
  repeat' (first | with_reducible assumption | with_reducible apply State.wr_keeps
                  | with_reducible apply State.setF_keeps | with_reducible apply State.updMc_keeps
                  | with_reducible apply State.mcErr_keeps | with_reducible apply State.setSource_keeps
                  | simp only [Keeps.record] | with_reducible refine Keeps.of_snd ‹_ = (_, _)› ?_
                  | with_reducible refine Keeps.of_fst ‹_ = (_, _)› ?_
                  | with_reducible refine Keeps.of_fst3 ‹_ = (_, _, _)› ?_ | with_reducible apply Keeps.ite
                  | split | dsimp only)

theorem scrubEndEff_keeps {a s : State} {x0} (h : Keeps a s) :
    Keeps a (scrubEndEff x0 s) := by
  unfold scrubEndEff
  try dsimp only
  repeat' (first | with_reducible assumption | with_reducible apply State.endScrub_keeps | simp only [Keeps.record]
                  | with_reducible refine Keeps.of_snd ‹_ = (_, _)› ?_
                  | with_reducible refine Keeps.of_fst ‹_ = (_, _)› ?_
                  | with_reducible refine Keeps.of_fst3 ‹_ = (_, _, _)› ?_ | with_reducible apply Keeps.ite
                  | split | dsimp only)

theorem State.refreshAllow_keeps {a s : State} (h : Keeps a s) :
    Keeps a (State.refreshAllow s) := by
  unfold State.refreshAllow
  try dsimp only
  repeat' (first | with_reducible assumption | with_reducible apply State.setF_keeps
                  | with_reducible apply State.wr_keeps | with_reducible refine Keeps.foldl (fun _ _ _ => ?_) ?_
                  | with_reducible refine Keeps.foldlFst (fun _ _ _ => ?_) ?_
                  | with_reducible refine Keeps.foldlSnd (fun _ _ _ => ?_) ?_ | simp only [Keeps.record]
                  | with_reducible refine Keeps.of_snd ‹_ = (_, _)› ?_
                  | with_reducible refine Keeps.of_fst ‹_ = (_, _)› ?_
                  | with_reducible refine Keeps.of_fst3 ‹_ = (_, _, _)› ?_ | with_reducible apply Keeps.ite
                  | split | dsimp only)

theorem State.leaveSelfRefresh_keeps {a s : State} {x1} (h : Keeps a s) :
    Keeps a (State.leaveSelfRefresh s x1) := by
  unfold State.leaveSelfRefresh
  try dsimp only
  repeat' (first | with_reducible assumption | with_reducible apply State.refreshAllow_keeps
                  | with_reducible apply State.setF_keeps | simp only [Keeps.record]
                  | with_reducible refine Keeps.of_snd ‹_ = (_, _)› ?_
                  | with_reducible refine Keeps.of_fst ‹_ = (_, _)› ?_
                  | with_reducible refine Keeps.of_fst3 ‹_ = (_, _, _)› ?_ | with_reducible apply Keeps.ite
                  | split | dsimp only)

theorem State.abortScrub_keeps {a s : State} {x1} (h : Keeps a s) :
    Keeps a (State.abortScrub s x1) := by
  unfold State.abortScrub
  try dsimp only
  repeat' (first | with_reducible assumption | with_reducible apply State.updMc_keeps | simp only [Keeps.record]
                  | with_reducible refine Keeps.of_snd ‹_ = (_, _)› ?_
                  | with_reducible refine Keeps.of_fst ‹_ = (_, _)› ?_
                  | with_reducible refine Keeps.of_fst3 ‹_ = (_, _, _)› ?_ | with_reducible apply Keeps.ite
                  | split | dsimp only)

theorem scrubAbortEff_keeps {a s : State} {x0} {x1} (h : Keeps a s) :
    Keeps a (scrubAbortEff x0 x1 s) := by
  unfold scrubAbortEff
  try dsimp only
  repeat' (first | with_reducible assumption | with_reducible refine State.ctlGuard_keeps (fun _ _ => ?_) ?_
                  | with_reducible apply State.abortScrub_keeps | simp only [Keeps.record]
                  | with_reducible refine Keeps.of_snd ‹_ = (_, _)› ?_
                  | with_reducible refine Keeps.of_fst ‹_ = (_, _)› ?_
                  | with_reducible refine Keeps.of_fst3 ‹_ = (_, _, _)› ?_ | with_reducible apply Keeps.ite
                  | split | dsimp only)

theorem State.mcCorrected_keeps {a s : State} {x1} {x2} {x3} {x4} (h : Keeps a s) :
    Keeps a (State.mcCorrected s x1 x2 x3 x4) := by
  unfold State.mcCorrected
  try dsimp only
  repeat' (first | with_reducible assumption | with_reducible apply State.updMc_keeps
                  | with_reducible apply State.mcErr_keeps | simp only [Keeps.record]
                  | with_reducible refine Keeps.of_snd ‹_ = (_, _)› ?_
                  | with_reducible refine Keeps.of_fst ‹_ = (_, _)› ?_
                  | with_reducible refine Keeps.of_fst3 ‹_ = (_, _, _)› ?_ | with_reducible apply Keeps.ite
                  | split | dsimp only)

theorem State.mcUncorrected_keeps {a s : State} {x1} {x2} {x3} (h : Keeps a s) :
    Keeps a (State.mcUncorrected s x1 x2 x3) := by
  unfold State.mcUncorrected
  try dsimp only
  repeat' (first | with_reducible assumption | with_reducible apply State.mcErr_keeps | simp only [Keeps.record]
                  | with_reducible refine Keeps.of_snd ‹_ = (_, _)› ?_
                  | with_reducible refine Keeps.of_fst ‹_ = (_, _)› ?_
                  | with_reducible refine Keeps.of_fst3 ‹_ = (_, _, _)› ?_ | with_reducible apply Keeps.ite
                  | split | dsimp only)

theorem State.mcDecode_keeps {a s : State} {x1} {x2} {x3} (h : Keeps a s) :
    Keeps a (State.mcDecode s x1 x2 x3).1 := by
  unfold State.mcDecode
  try dsimp only
  repeat' (first | with_reducible assumption | with_reducible apply State.mcCorrected_keeps
                  | with_reducible apply State.mcUncorrected_keeps | with_reducible apply State.fresh_keeps
                  | simp only [Keeps.record] | with_reducible refine Keeps.of_snd ‹_ = (_, _)› ?_
                  | with_reducible refine Keeps.of_fst ‹_ = (_, _)› ?_
                  | with_reducible refine Keeps.of_fst3 ‹_ = (_, _, _)› ?_ | with_reducible apply Keeps.ite
                  | split | dsimp only)

theorem State.selfRefresh_keeps {a s : State} {x1} (h : Keeps a s) :
    Keeps a (State.selfRefresh s x1) := by
  unfold State.selfRefresh
  try dsimp only
  repeat' (first | with_reducible assumption | with_reducible apply State.setF_keeps
                  | with_reducible apply State.refreshAllow_keeps | with_reducible apply State.updMc_keeps
                  | simp only [Keeps.record] | with_reducible refine Keeps.of_snd ‹_ = (_, _)› ?_
                  | with_reducible refine Keeps.of_fst ‹_ = (_, _)› ?_
                  | with_reducible refine Keeps.of_fst3 ‹_ = (_, _, _)› ?_ | with_reducible apply Keeps.ite
                  | split | dsimp only)

theorem State.mcTrained_keeps {a s : State} {x1} {x2} {x3} {x4} {x5} {x6} (h : Keeps a s) :
    Keeps a (State.mcTrained s x1 x2 x3 x4 x5 x6) := by
  unfold State.mcTrained
  try dsimp only
  repeat' (first | with_reducible assumption | with_reducible apply State.wr_keeps
                  | with_reducible apply State.draw_keeps | with_reducible apply State.updMc_keeps
                  | with_reducible apply State.refreshAllow_keeps | with_reducible apply State.setF_keeps
                  | simp only [Keeps.record] | with_reducible refine Keeps.of_snd ‹_ = (_, _)› ?_
                  | with_reducible refine Keeps.of_fst ‹_ = (_, _)› ?_
                  | with_reducible refine Keeps.of_fst3 ‹_ = (_, _, _)› ?_ | with_reducible apply Keeps.ite
                  | split | dsimp only)

theorem memoryWriteEff_keeps {a s : State} {x0} {x1} {x2} {x3} {x4} {x5} {x6} {x7} {x8} (h : Keeps a s) :
    Keeps a (memoryWriteEff x0 x1 x2 x3 x4 x5 x6 x7 x8 s) := by
  unfold memoryWriteEff
  try dsimp only
  repeat' (first | with_reducible assumption | with_reducible apply State.homeWrite_keeps
                  | with_reducible apply State.uev_keeps | with_reducible apply State.activate_keeps
                  | with_reducible apply State.mcUncorrected_keeps | with_reducible apply State.ctlrWrite_keeps
                  | with_reducible apply State.setMemPoison_keeps | with_reducible apply State.mcCorrected_keeps
                  | with_reducible apply State.fresh_keeps | with_reducible apply State.setBytes_keeps
                  | simp only [Keeps.record] | with_reducible refine Keeps.of_snd ‹_ = (_, _)› ?_
                  | with_reducible refine Keeps.of_fst ‹_ = (_, _)› ?_
                  | with_reducible refine Keeps.of_fst3 ‹_ = (_, _, _)› ?_ | with_reducible apply Keeps.ite
                  | split | dsimp only)

theorem memoryReadEff_keeps {a s : State} {x0} {x1} {x2} {x3} {x4} {x5} {x6} (h : Keeps a s) :
    Keeps a (memoryReadEff x0 x1 x2 x3 x4 x5 x6 s) := by
  unfold memoryReadEff
  try dsimp only
  repeat' (first | with_reducible assumption | with_reducible apply State.arrive_keeps
                  | with_reducible apply State.incF_keeps | with_reducible apply State.updTx_keeps
                  | with_reducible apply State.endTx_keeps | with_reducible apply State.tryComplete_keeps
                  | with_reducible apply State.homeGo_keeps | with_reducible apply State.uev_keeps
                  | with_reducible apply State.activate_keeps | with_reducible apply State.mcDecode_keeps
                  | with_reducible apply State.memAnswer_keeps | simp only [Keeps.record]
                  | with_reducible refine Keeps.of_snd ‹_ = (_, _)› ?_
                  | with_reducible refine Keeps.of_fst ‹_ = (_, _)› ?_
                  | with_reducible refine Keeps.of_fst3 ‹_ = (_, _, _)› ?_ | with_reducible apply Keeps.ite
                  | split | dsimp only)

theorem State.mcFellBack_keeps {a s : State} {x1} (h : Keeps a s) :
    Keeps a (State.mcFellBack s x1) := by
  unfold State.mcFellBack
  try dsimp only
  repeat' (first | with_reducible assumption | with_reducible apply State.mcErr_keeps | simp only [Keeps.record]
                  | with_reducible refine Keeps.of_snd ‹_ = (_, _)› ?_
                  | with_reducible refine Keeps.of_fst ‹_ = (_, _)› ?_
                  | with_reducible refine Keeps.of_fst3 ‹_ = (_, _, _)› ?_ | with_reducible apply Keeps.ite
                  | split | dsimp only)

theorem State.trainMc_keeps {a s : State} {x1} {x2} (h : Keeps a s) :
    Keeps a (State.trainMc s x1 x2) := by
  unfold State.trainMc
  try dsimp only
  repeat' (first | with_reducible assumption | with_reducible apply State.mcTrained_keeps
                  | with_reducible apply State.mcFellBack_keeps | with_reducible apply State.refreshAllow_keeps
                  | with_reducible apply State.setF_keeps | simp only [Keeps.record]
                  | with_reducible refine Keeps.of_snd ‹_ = (_, _)› ?_
                  | with_reducible refine Keeps.of_fst ‹_ = (_, _)› ?_
                  | with_reducible refine Keeps.of_fst3 ‹_ = (_, _, _)› ?_ | with_reducible apply Keeps.ite
                  | split | dsimp only)

theorem scrubLineEff_keeps {a s : State} {x0} {x1} (h : Keeps a s) :
    Keeps a (scrubLineEff x0 x1 s) := by
  unfold scrubLineEff
  try dsimp only
  repeat' (first | with_reducible assumption | with_reducible apply State.advance_keeps
                  | with_reducible apply State.updMc_keeps | with_reducible apply State.incF_keeps
                  | with_reducible apply State.setF_keeps | with_reducible apply State.setMemPoison_keeps
                  | simp only [Keeps.record] | with_reducible refine Keeps.of_snd ‹_ = (_, _)› ?_
                  | with_reducible refine Keeps.of_fst ‹_ = (_, _)› ?_
                  | with_reducible refine Keeps.of_fst3 ‹_ = (_, _, _)› ?_ | with_reducible apply Keeps.ite
                  | split | dsimp only)

theorem tempReadEff_keeps {a s : State} {x0} {x1} (h : Keeps a s) :
    Keeps a (tempReadEff x0 x1 s) := by
  unfold tempReadEff
  try dsimp only
  repeat' (first | with_reducible assumption | with_reducible apply State.setF_keeps
                  | with_reducible apply State.refreshAllow_keeps | with_reducible apply State.mcErr_keeps
                  | simp only [Keeps.record] | with_reducible refine Keeps.of_snd ‹_ = (_, _)› ?_
                  | with_reducible refine Keeps.of_fst ‹_ = (_, _)› ?_
                  | with_reducible refine Keeps.of_fst3 ‹_ = (_, _, _)› ?_ | with_reducible apply Keeps.ite
                  | split | dsimp only)

theorem refreshEff_keeps {a s : State} {x0} {x1} (h : Keeps a s) :
    Keeps a (refreshEff x0 x1 s) := by
  unfold refreshEff
  try dsimp only
  repeat' (first | with_reducible assumption | with_reducible apply State.updMc_keeps | simp only [Keeps.record]
                  | with_reducible refine Keeps.of_snd ‹_ = (_, _)› ?_
                  | with_reducible refine Keeps.of_fst ‹_ = (_, _)› ?_
                  | with_reducible refine Keeps.of_fst3 ‹_ = (_, _, _)› ?_ | with_reducible apply Keeps.ite
                  | split | dsimp only)

theorem refreshExpiryEff_keeps {a s : State} {x0} {x1} (h : Keeps a s) :
    Keeps a (refreshExpiryEff x0 x1 s) := by
  unfold refreshExpiryEff
  try dsimp only
  repeat' (first | with_reducible assumption | with_reducible apply State.advance_keeps
                  | with_reducible apply State.mcErr_keeps | with_reducible apply State.updMc_keeps
                  | simp only [Keeps.record] | with_reducible refine Keeps.of_snd ‹_ = (_, _)› ?_
                  | with_reducible refine Keeps.of_fst ‹_ = (_, _)› ?_
                  | with_reducible refine Keeps.of_fst3 ‹_ = (_, _, _)› ?_ | with_reducible apply Keeps.ite
                  | split | dsimp only)

theorem State.setFence_keeps {a s : State} {x1} {x2} (h : Keeps a s) :
    Keeps a (State.setFence s x1 x2) := by
  unfold State.setFence
  try dsimp only
  repeat' (first | with_reducible assumption | with_reducible apply State.setF_keeps | simp only [Keeps.record]
                  | with_reducible refine Keeps.of_snd ‹_ = (_, _)› ?_
                  | with_reducible refine Keeps.of_fst ‹_ = (_, _)› ?_
                  | with_reducible refine Keeps.of_fst3 ‹_ = (_, _, _)› ?_ | with_reducible apply Keeps.ite
                  | split | dsimp only)

theorem State.svcLink_keeps {a s : State} (h : Keeps a s) :
    Keeps a (State.svcLink s) := by
  unfold State.svcLink
  try dsimp only
  repeat' (first | with_reducible assumption | with_reducible apply State.setF_keeps | simp only [Keeps.record]
                  | with_reducible refine Keeps.of_snd ‹_ = (_, _)› ?_
                  | with_reducible refine Keeps.of_fst ‹_ = (_, _)› ?_
                  | with_reducible refine Keeps.of_fst3 ‹_ = (_, _, _)› ?_ | with_reducible apply Keeps.ite
                  | split | dsimp only)

theorem State.updPcie_keeps {a s : State} {x1} {x2} (h : Keeps a s) :
    Keeps a (State.updPcie s x1 x2) := by
  unfold State.updPcie
  try dsimp only
  repeat' (first | with_reducible assumption | simp only [Keeps.record]
                  | with_reducible refine Keeps.of_snd ‹_ = (_, _)› ?_
                  | with_reducible refine Keeps.of_fst ‹_ = (_, _)› ?_
                  | with_reducible refine Keeps.of_fst3 ‹_ = (_, _, _)› ?_ | with_reducible apply Keeps.ite
                  | split | dsimp only)

theorem State.windowViol_keeps {a s : State} {x1} {x2} {x3} {x4} {x5} (h : Keeps a s) :
    Keeps a (State.windowViol s x1 x2 x3 x4 x5) := by
  unfold State.windowViol
  try dsimp only
  repeat' (first | with_reducible assumption | with_reducible apply State.violation_keeps | simp only [Keeps.record]
                  | with_reducible refine Keeps.of_snd ‹_ = (_, _)› ?_
                  | with_reducible refine Keeps.of_fst ‹_ = (_, _)› ?_
                  | with_reducible refine Keeps.of_fst3 ‹_ = (_, _, _)› ?_ | with_reducible apply Keeps.ite
                  | split | dsimp only)

theorem State.ioReply_keeps {a s : State} {x1} {x2} {x3} {x4} {x5} {x6} (h : Keeps a s) :
    Keeps a (State.ioReply s x1 x2 x3 x4 x5 x6) := by
  unfold State.ioReply
  extract_lets packet
  clear_value packet
  split
  · exact State.send_keeps h
  · exact State.reply_keeps h

theorem State.placeList_keeps {a s : State} {x1} {x2} {x3} (h : Keeps a s) :
    Keeps a (State.placeList s x1 x2 x3) := by
  induction x3 generalizing s x1 x2 with
  | nil =>
    unfold State.placeList
    try dsimp only
    repeat' (first | with_reducible assumption | with_reducible apply State.updPcie_keeps
                    | with_reducible apply State.ioReply_keeps | simp only [Keeps.record]
                    | with_reducible refine Keeps.of_snd ‹_ = (_, _)› ?_
                    | with_reducible refine Keeps.of_fst ‹_ = (_, _)› ?_
                    | with_reducible refine Keeps.of_fst3 ‹_ = (_, _, _)› ?_ | with_reducible apply Keeps.ite
                    | split | dsimp only)
  | cons y l ih =>
    unfold State.placeList
    try dsimp only
    repeat' (first | with_reducible assumption | with_reducible apply ih | with_reducible apply State.updPcie_keeps
                    | with_reducible apply State.ioReply_keeps | simp only [Keeps.record]
                    | with_reducible refine Keeps.of_snd ‹_ = (_, _)› ?_
                    | with_reducible refine Keeps.of_fst ‹_ = (_, _)› ?_
                    | with_reducible refine Keeps.of_fst3 ‹_ = (_, _, _)› ?_ | with_reducible apply Keeps.ite
                    | split | dsimp only)

theorem State.postStore_keeps {a s : State} {x1} {x2} (h : Keeps a s) :
    Keeps a (State.postStore s x1 x2) := by
  unfold State.postStore
  try dsimp only
  repeat' (first | with_reducible assumption | with_reducible apply State.uev_keeps
                  | with_reducible apply State.updPcie_keeps | with_reducible apply State.placeList_keeps
                  | simp only [Keeps.record] | with_reducible refine Keeps.of_snd ‹_ = (_, _)› ?_
                  | with_reducible refine Keeps.of_fst ‹_ = (_, _)› ?_
                  | with_reducible refine Keeps.of_fst3 ‹_ = (_, _, _)› ?_ | with_reducible apply Keeps.ite
                  | split | dsimp only)

theorem State.subDown_keeps {a s : State} {x1} {x2} (h : Keeps a s) :
    Keeps a (State.subDown s x1 x2) := by
  unfold State.subDown
  try dsimp only
  repeat' (first | with_reducible assumption | with_reducible apply State.updPcie_keeps
                  | with_reducible apply State.reply_keeps | with_reducible apply State.ioReply_keeps
                  | with_reducible apply State.refreshBolts_keeps
                  | with_reducible refine Keeps.foldl (fun _ _ _ => ?_) ?_
                  | with_reducible refine Keeps.foldlFst (fun _ _ _ => ?_) ?_
                  | with_reducible refine Keeps.foldlSnd (fun _ _ _ => ?_) ?_ | simp only [Keeps.record]
                  | with_reducible refine Keeps.of_snd ‹_ = (_, _)› ?_
                  | with_reducible refine Keeps.of_fst ‹_ = (_, _)› ?_
                  | with_reducible refine Keeps.of_fst3 ‹_ = (_, _, _)› ?_ | with_reducible apply Keeps.ite
                  | split | dsimp only)

theorem linkDownEff_keeps {a s : State} {x0} {x1} (h : Keeps a s) :
    Keeps a (linkDownEff x0 x1 s) := by
  unfold linkDownEff
  try dsimp only
  repeat' (first | with_reducible assumption | with_reducible apply State.subDown_keeps
                  | with_reducible apply State.svcLink_keeps | simp only [Keeps.record]
                  | with_reducible refine Keeps.of_snd ‹_ = (_, _)› ?_
                  | with_reducible refine Keeps.of_fst ‹_ = (_, _)› ?_
                  | with_reducible refine Keeps.of_fst3 ‹_ = (_, _, _)› ?_ | with_reducible apply Keeps.ite
                  | split | dsimp only)

theorem State.aerPost_keeps {a s : State} {x1} {x2} (h : Keeps a s) :
    Keeps a (State.aerPost s x1 x2) := by
  unfold State.aerPost
  try dsimp only
  repeat' (first | with_reducible assumption | with_reducible apply State.updPcie_keeps | simp only [Keeps.record]
                  | with_reducible refine Keeps.of_snd ‹_ = (_, _)› ?_
                  | with_reducible refine Keeps.of_fst ‹_ = (_, _)› ?_
                  | with_reducible refine Keeps.of_fst3 ‹_ = (_, _, _)› ?_ | with_reducible apply Keeps.ite
                  | split | dsimp only)

theorem State.p2pFail_keeps {a s : State} {x1} {x2} {x3} {x4} (h : Keeps a s) :
    Keeps a (State.p2pFail s x1 x2 x3 x4) := by
  unfold State.p2pFail
  try dsimp only
  repeat' (first | with_reducible assumption | with_reducible apply State.aerPost_keeps
                  | with_reducible apply State.reply_keeps | simp only [Keeps.record]
                  | with_reducible refine Keeps.of_snd ‹_ = (_, _)› ?_
                  | with_reducible refine Keeps.of_fst ‹_ = (_, _)› ?_
                  | with_reducible refine Keeps.of_fst3 ‹_ = (_, _, _)› ?_ | with_reducible apply Keeps.ite
                  | split | dsimp only)

theorem State.ioArrive_keeps {a s : State} {x1} {x2} {x3} (h : Keeps a s) :
    Keeps a (State.ioArrive s x1 x2 x3) := by
  unfold State.ioArrive
  try dsimp only
  repeat' (first | with_reducible assumption | with_reducible apply State.arrive_keeps | simp only [Keeps.record]
                  | with_reducible refine Keeps.of_snd ‹_ = (_, _)› ?_
                  | with_reducible refine Keeps.of_fst ‹_ = (_, _)› ?_
                  | with_reducible refine Keeps.of_fst3 ‹_ = (_, _, _)› ?_ | with_reducible apply Keeps.ite
                  | split | dsimp only)

theorem State.inboundList_keeps {a s : State} {x1} {x2} {x3} (h : Keeps a s) :
    Keeps a (State.inboundList s x1 x2 x3) := by
  induction x3 generalizing s x1 x2 with
  | nil =>
    unfold State.inboundList
    try dsimp only
    repeat' (first | with_reducible assumption | with_reducible apply State.updPcie_keeps
                    | with_reducible apply State.yokeSend_keeps | simp only [Keeps.record]
                    | with_reducible refine Keeps.of_snd ‹_ = (_, _)› ?_
                    | with_reducible refine Keeps.of_fst ‹_ = (_, _)› ?_
                    | with_reducible refine Keeps.of_fst3 ‹_ = (_, _, _)› ?_ | with_reducible apply Keeps.ite
                    | split | dsimp only)
  | cons y l ih =>
    unfold State.inboundList
    try dsimp only
    repeat' (first | with_reducible assumption | with_reducible apply ih | with_reducible apply State.updPcie_keeps
                    | with_reducible apply State.yokeSend_keeps | simp only [Keeps.record]
                    | with_reducible refine Keeps.of_snd ‹_ = (_, _)› ?_
                    | with_reducible refine Keeps.of_fst ‹_ = (_, _)› ?_
                    | with_reducible refine Keeps.of_fst3 ‹_ = (_, _, _)› ?_ | with_reducible apply Keeps.ite
                    | split | dsimp only)

theorem flowControlCreditsEff_keeps {a s : State} {x0} {x1} {x2} (h : Keeps a s) :
    Keeps a (flowControlCreditsEff x0 x1 x2 s) := by
  unfold flowControlCreditsEff
  try dsimp only
  repeat' (first | with_reducible assumption | with_reducible apply State.updPcie_keeps
                  | with_reducible apply State.placeList_keeps | simp only [Keeps.record]
                  | with_reducible refine Keeps.of_snd ‹_ = (_, _)› ?_
                  | with_reducible refine Keeps.of_fst ‹_ = (_, _)› ?_
                  | with_reducible refine Keeps.of_fst3 ‹_ = (_, _, _)› ?_ | with_reducible apply Keeps.ite
                  | split | dsimp only)

theorem State.inboundPump_keeps {a s : State} {x1} (h : Keeps a s) :
    Keeps a (State.inboundPump s x1) := by
  unfold State.inboundPump
  try dsimp only
  repeat' (first | with_reducible assumption | with_reducible apply State.inboundList_keeps | simp only [Keeps.record]
                  | with_reducible refine Keeps.of_snd ‹_ = (_, _)› ?_
                  | with_reducible refine Keeps.of_fst ‹_ = (_, _)› ?_
                  | with_reducible refine Keeps.of_fst3 ‹_ = (_, _, _)› ?_ | with_reducible apply Keeps.ite
                  | split | dsimp only)

theorem deviceWriteEff_keeps {a s : State} {x0} {x1} {x2} {x3} {x4} (h : Keeps a s) :
    Keeps a (deviceWriteEff x0 x1 x2 x3 x4 s) := by
  unfold deviceWriteEff
  try dsimp only
  repeat' (first | with_reducible assumption | with_reducible apply State.inboundPump_keeps
                  | with_reducible apply State.updPcie_keeps | with_reducible apply State.aerPost_keeps
                  | simp only [Keeps.record] | with_reducible refine Keeps.of_snd ‹_ = (_, _)› ?_
                  | with_reducible refine Keeps.of_fst ‹_ = (_, _)› ?_
                  | with_reducible refine Keeps.of_fst3 ‹_ = (_, _, _)› ?_ | with_reducible apply Keeps.ite
                  | split | dsimp only)

theorem State.cfgWrite_keeps {a s : State} {x1} {x2} {x3} {x4} {x5} (h : Keeps a s) :
    Keeps a (State.cfgWrite s x1 x2 x3 x4 x5) := by
  unfold State.cfgWrite
  try dsimp only
  repeat' (first | with_reducible assumption | with_reducible apply State.updPcie_keeps | simp only [Keeps.record]
                  | with_reducible refine Keeps.of_snd ‹_ = (_, _)› ?_
                  | with_reducible refine Keeps.of_fst ‹_ = (_, _)› ?_
                  | with_reducible refine Keeps.of_fst3 ‹_ = (_, _, _)› ?_ | with_reducible apply Keeps.ite
                  | split | dsimp only)

theorem hotPlugFrameEff_keeps {a s : State} {x0} {x1} (h : Keeps a s) :
    Keeps a (hotPlugFrameEff x0 x1 s) := by
  unfold hotPlugFrameEff
  try dsimp only
  repeat' (first | with_reducible assumption | with_reducible apply State.advance_keeps
                  | with_reducible apply State.updPcie_keeps | with_reducible apply State.subDown_keeps
                  | with_reducible refine Keeps.foldl (fun _ _ _ => ?_) ?_
                  | with_reducible refine Keeps.foldlFst (fun _ _ _ => ?_) ?_
                  | with_reducible refine Keeps.foldlSnd (fun _ _ _ => ?_) ?_ | simp only [Keeps.record]
                  | with_reducible refine Keeps.of_snd ‹_ = (_, _)› ?_
                  | with_reducible refine Keeps.of_fst ‹_ = (_, _)› ?_
                  | with_reducible refine Keeps.of_fst3 ‹_ = (_, _, _)› ?_ | with_reducible apply Keeps.ite
                  | split | dsimp only)

theorem atsRequestEff_keeps {a s : State} {x0} {x1} (h : Keeps a s) :
    Keeps a (atsRequestEff x0 x1 s) := by
  unfold atsRequestEff
  try dsimp only
  repeat' (first | with_reducible assumption | with_reducible apply State.reply_keeps | simp only [Keeps.record]
                  | with_reducible refine Keeps.of_snd ‹_ = (_, _)› ?_
                  | with_reducible refine Keeps.of_fst ‹_ = (_, _)› ?_
                  | with_reducible refine Keeps.of_fst3 ‹_ = (_, _, _)› ?_ | with_reducible apply Keeps.ite
                  | split | dsimp only)

theorem State.mmioRd_keeps {a s : State} {x1} {x2} {x3} {x4} {x5} (h : Keeps a s) :
    Keeps a (State.mmioRd s x1 x2 x3 x4 x5) := by
  unfold State.mmioRd
  extract_lets u
  clear_value u
  split
  · exact State.ioReply_keeps (State.incF_keeps h)
  · generalize s.windowCheck x2 x1 x3.toNat = w
    cases w with
    | viol _ => exact State.ioReply_keeps (State.windowViol_keeps h)
    | domoff => exact State.ioReply_keeps h
    | decerr => exact State.ioReply_keeps h
    | pass =>
      generalize s.pcieDest x1 x3.toNat = d
      cases d with
      | none => exact State.ioReply_keeps h
      | cfg _ _ => exact State.ioReply_keeps h
      | sub _ =>
        dsimp only
        split
        · exact State.ioReply_keeps h
        · exact State.updPcie_keeps (State.uev_keeps h)

theorem State.p2pPlace_keeps {a s : State} {x1} {x2} {x3} {x4} {x5} {x6} (h : Keeps a s) :
    Keeps a (State.p2pPlace s x1 x2 x3 x4 x5 x6) := by
  unfold State.p2pPlace
  try dsimp only
  repeat' (first | with_reducible assumption | with_reducible apply State.updPcie_keeps | simp only [Keeps.record]
                  | with_reducible refine Keeps.of_snd ‹_ = (_, _)› ?_
                  | with_reducible refine Keeps.of_fst ‹_ = (_, _)› ?_
                  | with_reducible refine Keeps.of_fst3 ‹_ = (_, _, _)› ?_ | with_reducible apply Keeps.ite
                  | split | dsimp only)

theorem abandonEff_keeps {a s : State} {x0} {x1} (h : Keeps a s) :
    Keeps a (abandonEff x0 x1 s) := by
  unfold abandonEff
  try dsimp only
  repeat' (first | with_reducible assumption | with_reducible apply State.arrive_keeps
                  | with_reducible apply State.updPcie_keeps | with_reducible apply State.placeList_keeps
                  | simp only [Keeps.record] | with_reducible refine Keeps.of_snd ‹_ = (_, _)› ?_
                  | with_reducible refine Keeps.of_fst ‹_ = (_, _)› ?_
                  | with_reducible refine Keeps.of_fst3 ‹_ = (_, _, _)› ?_ | with_reducible apply Keeps.ite
                  | split | dsimp only)

theorem deviceReadEff_keeps {a s : State} {x0} {x1} {x2} (h : Keeps a s) :
    Keeps a (deviceReadEff x0 x1 x2 s) := by
  unfold deviceReadEff
  try dsimp only
  repeat' (first | with_reducible assumption | with_reducible apply State.reply_keeps
                  | with_reducible apply State.yokeSend_keeps | simp only [Keeps.record]
                  | with_reducible refine Keeps.of_snd ‹_ = (_, _)› ?_
                  | with_reducible refine Keeps.of_fst ‹_ = (_, _)› ?_
                  | with_reducible refine Keeps.of_fst3 ‹_ = (_, _, _)› ?_ | with_reducible apply Keeps.ite
                  | split | dsimp only)

theorem peerToPeerEff_keeps {a s : State} {x0} {x1} {x2} {x3} (h : Keeps a s) :
    Keeps a (peerToPeerEff x0 x1 x2 x3 s) := by
  unfold peerToPeerEff
  extract_lets who
  clear_value who
  split
  · exact State.p2pFail_keeps h
  · generalize regionOf x2.toNat = g
    split
    · extract_lets u
      clear_value u
      split
      · refine State.p2pFail_keeps ?_
        split
        · exact State.fenceDropped_keeps h
        · exact State.incF_keeps h
      · rename_i k _
        generalize s.windowCheck who k x2.toNat = w
        cases w with
        | viol _ => exact State.p2pFail_keeps (State.windowViol_keeps h)
        | domoff => exact State.p2pFail_keeps h
        | decerr => exact State.p2pFail_keeps h
        | pass =>
          generalize s.pcieDest k x2.toNat = d
          cases d with
          | none => exact State.p2pFail_keeps h
          | cfg _ _ => exact State.p2pFail_keeps h
          | sub _ =>
            dsimp only
            split
            · exact State.p2pFail_keeps h
            · exact State.p2pPlace_keeps h
    · exact State.p2pFail_keeps h

theorem State.mmioWr_keeps {a s : State} {x1} {x2} {x3} {x4} {x5} {x6} (h : Keeps a s) :
    Keeps a (State.mmioWr s x1 x2 x3 x4 x5 x6) := by
  unfold State.mmioWr
  extract_lets u
  clear_value u
  split
  · exact State.ioReply_keeps (State.fenceDropped_keeps h)
  · generalize s.windowCheck x2 x1 x3.toNat = w
    cases w with
    | viol _ => exact State.ioReply_keeps (State.windowViol_keeps h)
    | domoff => exact State.ioReply_keeps h
    | decerr => exact State.ioReply_keeps h
    | pass =>
      generalize s.pcieDest x1 x3.toNat = d
      cases d with
      | none => exact State.ioReply_keeps h
      | cfg _ _ => exact State.ioReply_keeps (State.cfgWrite_keeps h)
      | sub _ =>
        generalize s.ownedCfg x1 x3.toNat = o
        dsimp only
        split
        · exact State.ioReply_keeps h
        · split
          · exact State.ioReply_keeps h
          · exact State.postStore_keeps h

theorem deviceAtomicEff_keeps {a s : State} {x0} {x1} {x2} {x3} {x4} {x5} {x6} (h : Keeps a s) :
    Keeps a (deviceAtomicEff x0 x1 x2 x3 x4 x5 x6 s) := by
  unfold deviceAtomicEff
  try dsimp only
  repeat' (first | with_reducible assumption | with_reducible apply State.reply_keeps
                  | with_reducible apply State.yokeSend_keeps | simp only [Keeps.record]
                  | with_reducible refine Keeps.of_snd ‹_ = (_, _)› ?_
                  | with_reducible refine Keeps.of_fst ‹_ = (_, _)› ?_
                  | with_reducible refine Keeps.of_fst3 ‹_ = (_, _, _)› ?_ | with_reducible apply Keeps.ite
                  | split | dsimp only)

theorem pcieCompletionEff_keeps {a s : State} {x0} {x1} {x2} {x3} (h : Keeps a s) :
    Keeps a (pcieCompletionEff x0 x1 x2 x3 s) := by
  unfold pcieCompletionEff
  try dsimp only
  repeat' (first | with_reducible assumption | with_reducible apply State.lateAnswer_keeps
                  | with_reducible apply State.updPcie_keeps | with_reducible apply State.reply_keeps
                  | with_reducible apply State.ioReply_keeps | simp only [Keeps.record]
                  | with_reducible refine Keeps.of_snd ‹_ = (_, _)› ?_
                  | with_reducible refine Keeps.of_fst ‹_ = (_, _)› ?_
                  | with_reducible refine Keeps.of_fst3 ‹_ = (_, _, _)› ?_ | with_reducible apply Keeps.ite
                  | split | dsimp only)

theorem linkUpEff_keeps {a s : State} {x0} {x1} {x2} {x3} {x4} (h : Keeps a s) :
    Keeps a (linkUpEff x0 x1 x2 x3 x4 s) := by
  unfold linkUpEff
  try dsimp only
  repeat' (first | with_reducible assumption | with_reducible apply State.svcLink_keeps
                  | with_reducible apply State.updPcie_keeps | with_reducible apply State.refreshBolts_keeps
                  | simp only [Keeps.record] | with_reducible refine Keeps.of_snd ‹_ = (_, _)› ?_
                  | with_reducible refine Keeps.of_fst ‹_ = (_, _)› ?_
                  | with_reducible refine Keeps.of_fst3 ‹_ = (_, _, _)› ?_ | with_reducible apply Keeps.ite
                  | split | dsimp only)

theorem State.chanAtom_keeps {a s : State} {x1} {x2} {x3} (h : Keeps a s) :
    Keeps a (State.chanAtom s x1 x2 x3) := by
  unfold State.chanAtom
  try dsimp only
  repeat' (first | with_reducible assumption | with_reducible apply State.yokeSend_keeps | simp only [Keeps.record]
                  | with_reducible refine Keeps.of_snd ‹_ = (_, _)› ?_
                  | with_reducible refine Keeps.of_fst ‹_ = (_, _)› ?_
                  | with_reducible refine Keeps.of_fst3 ‹_ = (_, _, _)› ?_ | with_reducible apply Keeps.ite
                  | split | dsimp only)

theorem State.chanMsi_keeps {a s : State} {x1} {x2} (h : Keeps a s) :
    Keeps a (State.chanMsi s x1 x2) := by
  unfold State.chanMsi
  try dsimp only
  repeat' (first | with_reducible assumption | with_reducible apply State.sendMsi_keeps | simp only [Keeps.record]
                  | with_reducible refine Keeps.of_snd ‹_ = (_, _)› ?_
                  | with_reducible refine Keeps.of_fst ‹_ = (_, _)› ?_
                  | with_reducible refine Keeps.of_fst3 ‹_ = (_, _, _)› ?_ | with_reducible apply Keeps.ite
                  | split | dsimp only)

theorem State.updChan_keeps {a s : State} {x1} {x2} {x3} (h : Keeps a s) :
    Keeps a (State.updChan s x1 x2 x3) := by
  unfold State.updChan
  try dsimp only
  repeat' (first | with_reducible assumption | simp only [Keeps.record]
                  | with_reducible refine Keeps.of_snd ‹_ = (_, _)› ?_
                  | with_reducible refine Keeps.of_fst ‹_ = (_, _)› ?_
                  | with_reducible refine Keeps.of_fst3 ‹_ = (_, _, _)› ?_ | with_reducible apply Keeps.ite
                  | split | dsimp only)

theorem descriptorCompleteEff_keeps {a s : State} {x0} {x1} (h : Keeps a s) :
    Keeps a (descriptorCompleteEff x0 x1 s) := by
  unfold descriptorCompleteEff
  try dsimp only
  repeat' (first | with_reducible assumption | with_reducible apply State.chanMsi_keeps
                  | with_reducible apply State.setF_keeps | with_reducible apply State.updChan_keeps
                  | with_reducible apply State.chanAtom_keeps | simp only [Keeps.record]
                  | with_reducible refine Keeps.of_snd ‹_ = (_, _)› ?_
                  | with_reducible refine Keeps.of_fst ‹_ = (_, _)› ?_
                  | with_reducible refine Keeps.of_fst3 ‹_ = (_, _, _)› ?_ | with_reducible apply Keeps.ite
                  | split | dsimp only)

theorem State.chanHalt_keeps {a s : State} {x1} {x2} {x3} {x4} {x5} {x6} (h : Keeps a s) :
    Keeps a (State.chanHalt s x1 x2 x3 x4 x5 x6) := by
  unfold State.chanHalt
  try dsimp only
  repeat' (first | with_reducible assumption | with_reducible apply State.setF_keeps
                  | with_reducible apply State.chanMsi_keeps | with_reducible apply State.updChan_keeps
                  | with_reducible apply State.chanAtom_keeps | simp only [Keeps.record]
                  | with_reducible refine Keeps.of_snd ‹_ = (_, _)› ?_
                  | with_reducible refine Keeps.of_fst ‹_ = (_, _)› ?_
                  | with_reducible refine Keeps.of_fst3 ‹_ = (_, _, _)› ?_ | with_reducible apply Keeps.ite
                  | split | dsimp only)

theorem State.chanStart_keeps {a s : State} {x1} {x2} {x3} (h : Keeps a s) :
    Keeps a (State.chanStart s x1 x2 x3) := by
  unfold State.chanStart
  try dsimp only
  repeat' (first | with_reducible assumption | with_reducible apply State.updChan_keeps
                  | with_reducible apply State.chanHalt_keeps | with_reducible apply State.setF_keeps
                  | simp only [Keeps.record] | with_reducible refine Keeps.of_snd ‹_ = (_, _)› ?_
                  | with_reducible refine Keeps.of_fst ‹_ = (_, _)› ?_
                  | with_reducible refine Keeps.of_fst3 ‹_ = (_, _, _)› ?_ | with_reducible apply Keeps.ite
                  | split | dsimp only)

theorem State.chanFetch_keeps {a s : State} {x1} {x2} {x3} (h : Keeps a s) :
    Keeps a (State.chanFetch s x1 x2 x3) := by
  unfold State.chanFetch
  try dsimp only
  repeat' (first | with_reducible assumption | with_reducible apply State.updChan_keeps
                  | with_reducible apply State.yokeSend_keeps | simp only [Keeps.record]
                  | with_reducible refine Keeps.of_snd ‹_ = (_, _)› ?_
                  | with_reducible refine Keeps.of_fst ‹_ = (_, _)› ?_
                  | with_reducible refine Keeps.of_fst3 ‹_ = (_, _, _)› ?_ | with_reducible apply Keeps.ite
                  | split | dsimp only)

theorem State.chanAbort_keeps {a s : State} {x1} {x2} (h : Keeps a s) :
    Keeps a (State.chanAbort s x1 x2) := by
  unfold State.chanAbort
  try dsimp only
  repeat' (first | with_reducible assumption | with_reducible apply State.setF_keeps | simp only [Keeps.record]
                  | with_reducible refine Keeps.of_snd ‹_ = (_, _)› ?_
                  | with_reducible refine Keeps.of_fst ‹_ = (_, _)› ?_
                  | with_reducible refine Keeps.of_fst3 ‹_ = (_, _, _)› ?_ | with_reducible apply Keeps.ite
                  | split | dsimp only)

theorem State.chanWrite_keeps {a s : State} {x1} {x2} {x3} {x4} {x5} {x6} (h : Keeps a s) :
    Keeps a (State.chanWrite s x1 x2 x3 x4 x5 x6) := by
  unfold State.chanWrite
  try dsimp only
  repeat' (first | with_reducible assumption | with_reducible apply State.updChan_keeps
                  | with_reducible apply State.yokeSend_keeps | simp only [Keeps.record]
                  | with_reducible refine Keeps.of_snd ‹_ = (_, _)› ?_
                  | with_reducible refine Keeps.of_fst ‹_ = (_, _)› ?_
                  | with_reducible refine Keeps.of_fst3 ‹_ = (_, _, _)› ?_ | with_reducible apply Keeps.ite
                  | split | dsimp only)

theorem State.chanUnits_keeps {a s : State} {x1} {x2} {x3} (h : Keeps a s) :
    Keeps a (State.chanUnits s x1 x2 x3) := by
  induction x3 generalizing s x1 x2 with
  | zero =>
    unfold State.chanUnits
    try dsimp only
    repeat' (first | with_reducible assumption | with_reducible apply State.updChan_keeps
                    | with_reducible apply State.chanWrite_keeps
                    | with_reducible refine Keeps.foldl (fun _ _ _ => ?_) ?_
                    | with_reducible refine Keeps.foldlFst (fun _ _ _ => ?_) ?_
                    | with_reducible refine Keeps.foldlSnd (fun _ _ _ => ?_) ?_ | simp only [Keeps.record]
                    | with_reducible refine Keeps.of_snd ‹_ = (_, _)› ?_
                    | with_reducible refine Keeps.of_fst ‹_ = (_, _)› ?_
                    | with_reducible refine Keeps.of_fst3 ‹_ = (_, _, _)› ?_ | with_reducible apply Keeps.ite
                    | split | dsimp only)
  | succ n ih =>
    unfold State.chanUnits
    try dsimp only
    repeat' (first | with_reducible assumption | with_reducible apply ih | with_reducible apply State.updChan_keeps
                    | with_reducible apply State.chanWrite_keeps
                    | with_reducible refine Keeps.foldl (fun _ _ _ => ?_) ?_
                    | with_reducible refine Keeps.foldlFst (fun _ _ _ => ?_) ?_
                    | with_reducible refine Keeps.foldlSnd (fun _ _ _ => ?_) ?_ | simp only [Keeps.record]
                    | with_reducible refine Keeps.of_snd ‹_ = (_, _)› ?_
                    | with_reducible refine Keeps.of_fst ‹_ = (_, _)› ?_
                    | with_reducible refine Keeps.of_fst3 ‹_ = (_, _, _)› ?_ | with_reducible apply Keeps.ite
                    | split | dsimp only)

theorem dmaExpiryEff_keeps {a s : State} {x0} {x1} (h : Keeps a s) :
    Keeps a (dmaExpiryEff x0 x1 s) := by
  unfold dmaExpiryEff
  try dsimp only
  repeat' (first | with_reducible assumption | with_reducible apply State.advance_keeps
                  | with_reducible apply State.err_keeps | with_reducible apply State.chanHalt_keeps
                  | simp only [Keeps.record] | with_reducible refine Keeps.of_snd ‹_ = (_, _)› ?_
                  | with_reducible refine Keeps.of_fst ‹_ = (_, _)› ?_
                  | with_reducible refine Keeps.of_fst3 ‹_ = (_, _, _)› ?_ | with_reducible apply Keeps.ite
                  | split | dsimp only)

theorem State.chanNext_keeps {a s : State} {x1} {x2} {x3} (h : Keeps a s) :
    Keeps a (State.chanNext s x1 x2 x3) := by
  unfold State.chanNext
  try dsimp only
  repeat' (first | with_reducible assumption | with_reducible apply State.chanFetch_keeps
                  | with_reducible apply State.setF_keeps | simp only [Keeps.record]
                  | with_reducible refine Keeps.of_snd ‹_ = (_, _)› ?_
                  | with_reducible refine Keeps.of_fst ‹_ = (_, _)› ?_
                  | with_reducible refine Keeps.of_fst3 ‹_ = (_, _, _)› ?_ | with_reducible apply Keeps.ite
                  | split | dsimp only)

theorem State.chanFetched_keeps {a s : State} {x1} {x2} {x3} {x4} {x5} {x6} (h : Keeps a s) :
    Keeps a (State.chanFetched s x1 x2 x3 x4 x5 x6) := by
  unfold State.chanFetched
  try dsimp only
  repeat' (first | with_reducible assumption | with_reducible apply State.chanHalt_keeps
                  | with_reducible apply State.chanStart_keeps | with_reducible apply State.chanNext_keeps
                  | simp only [Keeps.record] | with_reducible refine Keeps.of_snd ‹_ = (_, _)› ?_
                  | with_reducible refine Keeps.of_fst ‹_ = (_, _)› ?_
                  | with_reducible refine Keeps.of_fst3 ‹_ = (_, _, _)› ?_ | with_reducible apply Keeps.ite
                  | split | dsimp only)

theorem State.bobGuard_keeps {a s : State} {x1} {x2} {x3} {x4} (h4 : ∀ y0, Keeps a y0 → Keeps a (x4 y0).1) (h : Keeps a s) :
    Keeps a (State.bobGuard s x1 x2 x3 x4) := by
  unfold State.bobGuard
  try dsimp only
  repeat' (first | with_reducible assumption | with_reducible refine State.ctlGuard_keeps (fun _ _ => ?_) ?_
                  | with_reducible apply State.reply_keeps | with_reducible apply State.fenceDropped_keeps
                  | simp only [Keeps.record] | with_reducible apply h4
                  | with_reducible refine Keeps.of_snd ‹_ = (_, _)› ?_
                  | with_reducible refine Keeps.of_fst ‹_ = (_, _)› ?_
                  | with_reducible refine Keeps.of_fst3 ‹_ = (_, _, _)› ?_ | with_reducible apply Keeps.ite
                  | split | dsimp only)

theorem channelStoppedEff_keeps {a s : State} {x0} {x1} (h : Keeps a s) :
    Keeps a (channelStoppedEff x0 x1 s) := by
  unfold channelStoppedEff
  try dsimp only
  repeat' (first | with_reducible assumption | with_reducible apply State.updChan_keeps
                  | with_reducible apply State.setF_keeps | simp only [Keeps.record]
                  | with_reducible refine Keeps.of_snd ‹_ = (_, _)› ?_
                  | with_reducible refine Keeps.of_fst ‹_ = (_, _)› ?_
                  | with_reducible refine Keeps.of_fst3 ‹_ = (_, _, _)› ?_ | with_reducible apply Keeps.ite
                  | split | dsimp only)

theorem State.chanFlight_keeps {a s : State} {x1} {x2} (h : Keeps a s) :
    Keeps a (State.chanFlight s x1 x2) := by
  unfold State.chanFlight
  try dsimp only
  repeat' (first | with_reducible assumption | with_reducible apply State.setF_keeps | simp only [Keeps.record]
                  | with_reducible refine Keeps.of_snd ‹_ = (_, _)› ?_
                  | with_reducible refine Keeps.of_fst ‹_ = (_, _)› ?_
                  | with_reducible refine Keeps.of_fst3 ‹_ = (_, _, _)› ?_ | with_reducible apply Keeps.ite
                  | split | dsimp only)

theorem sourceBeatEff_keeps {a s : State} {x0} {x1} (h : Keeps a s) :
    Keeps a (sourceBeatEff x0 x1 s) := by
  unfold sourceBeatEff
  try dsimp only
  repeat' (first | with_reducible assumption | with_reducible apply State.uev_keeps
                  | with_reducible apply State.advance_keeps | with_reducible apply State.updChan_keeps
                  | with_reducible apply State.chanFlight_keeps | with_reducible apply State.yokeSend_keeps
                  | simp only [Keeps.record] | with_reducible refine Keeps.of_snd ‹_ = (_, _)› ?_
                  | with_reducible refine Keeps.of_fst ‹_ = (_, _)› ?_
                  | with_reducible refine Keeps.of_fst3 ‹_ = (_, _, _)› ?_ | with_reducible apply Keeps.ite
                  | split | dsimp only)

theorem statusAtomEff_keeps {a s : State} {x0} {x1} (h : Keeps a s) :
    Keeps a (statusAtomEff x0 x1 s) := by
  unfold statusAtomEff
  try dsimp only
  repeat' (first | with_reducible assumption | with_reducible apply State.dropYoke_keeps
                  | with_reducible apply State.setF_keeps | with_reducible apply State.chanMsi_keeps
                  | with_reducible apply State.updChan_keeps | with_reducible apply State.chanNext_keeps
                  | with_reducible apply State.chanFetch_keeps | simp only [Keeps.record]
                  | with_reducible refine Keeps.of_snd ‹_ = (_, _)› ?_
                  | with_reducible refine Keeps.of_fst ‹_ = (_, _)› ?_
                  | with_reducible refine Keeps.of_fst3 ‹_ = (_, _, _)› ?_ | with_reducible apply Keeps.ite
                  | split | dsimp only)

end Sys2Proof.Machine
end

