-- ==== Sys2Proof/Laws/Keeps4.lean ====
section
/-! SUPPORT. What each operation keeps, in the order the operations are built on one another (part 4). -/

set_option linter.unusedVariables false
set_option linter.unreachableTactic false
set_option linter.unusedTactic false

namespace Sys2Proof.Machine

theorem chAbortEff_keeps {a s : State} {x0} {x1} {x2} (h : Keeps a s) :
    Keeps a (chAbortEff x0 x1 x2 s) := by
  unfold chAbortEff
  try dsimp only
  repeat' (first | with_reducible assumption | with_reducible refine State.bobGuard_keeps (fun _ _ => ?_) ?_
                  | with_reducible apply State.chanAbort_keeps | simp only [Keeps.record]
                  | with_reducible refine Keeps.of_snd ‹_ = (_, _)› ?_
                  | with_reducible refine Keeps.of_fst ‹_ = (_, _)› ?_
                  | with_reducible refine Keeps.of_fst3 ‹_ = (_, _, _)› ?_ | with_reducible apply Keeps.ite
                  | split | dsimp only)

theorem State.bobDrain_keeps {a s : State} {x1} (h : Keeps a s) :
    Keeps a (State.bobDrain s x1) := by
  unfold State.bobDrain
  try dsimp only
  repeat' (first | with_reducible assumption | with_reducible apply State.chanHalt_keeps
                  | with_reducible refine Keeps.foldl (fun _ _ _ => ?_) ?_
                  | with_reducible refine Keeps.foldlFst (fun _ _ _ => ?_) ?_
                  | with_reducible refine Keeps.foldlSnd (fun _ _ _ => ?_) ?_ | simp only [Keeps.record]
                  | with_reducible refine Keeps.of_snd ‹_ = (_, _)› ?_
                  | with_reducible refine Keeps.of_fst ‹_ = (_, _)› ?_
                  | with_reducible refine Keeps.of_fst3 ‹_ = (_, _, _)› ?_ | with_reducible apply Keeps.ite
                  | split | dsimp only)

theorem State.chanCopy_keeps {a s : State} {x1} {x2} {x3} {x4} {x5} (h : Keeps a s) :
    Keeps a (State.chanCopy s x1 x2 x3 x4 x5) := by
  unfold State.chanCopy
  try dsimp only
  repeat' (first | with_reducible assumption | with_reducible apply State.chanWrite_keeps | simp only [Keeps.record]
                  | with_reducible refine Keeps.of_snd ‹_ = (_, _)› ?_
                  | with_reducible refine Keeps.of_fst ‹_ = (_, _)› ?_
                  | with_reducible refine Keeps.of_fst3 ‹_ = (_, _, _)› ?_ | with_reducible apply Keeps.ite
                  | split | dsimp only)

theorem State.chanProgress_keeps {a s : State} {x1} {x2} (h : Keeps a s) :
    Keeps a (State.chanProgress s x1 x2) := by
  unfold State.chanProgress
  try dsimp only
  repeat' (first | with_reducible assumption | with_reducible apply State.setF_keeps
                  | with_reducible apply State.chanMsi_keeps | with_reducible apply State.updChan_keeps
                  | simp only [Keeps.record] | with_reducible refine Keeps.of_snd ‹_ = (_, _)› ?_
                  | with_reducible refine Keeps.of_fst ‹_ = (_, _)› ?_
                  | with_reducible refine Keeps.of_fst3 ‹_ = (_, _, _)› ?_ | with_reducible apply Keeps.ite
                  | split | dsimp only)

theorem State.chanRead_keeps {a s : State} {x1} {x2} {x3} {x4} {x5} {x6} (h : Keeps a s) :
    Keeps a (State.chanRead s x1 x2 x3 x4 x5 x6) := by
  unfold State.chanRead
  try dsimp only
  repeat' (first | with_reducible assumption | with_reducible apply State.chanFlight_keeps
                  | with_reducible apply State.chanHalt_keeps | with_reducible apply State.err_keeps
                  | with_reducible apply State.chanCopy_keeps | with_reducible apply State.updChan_keeps
                  | with_reducible apply State.chanUnits_keeps | with_reducible apply State.chanProgress_keeps
                  | with_reducible refine Keeps.foldl (fun _ _ _ => ?_) ?_
                  | with_reducible refine Keeps.foldlFst (fun _ _ _ => ?_) ?_
                  | with_reducible refine Keeps.foldlSnd (fun _ _ _ => ?_) ?_ | simp only [Keeps.record]
                  | with_reducible refine Keeps.of_snd ‹_ = (_, _)› ?_
                  | with_reducible refine Keeps.of_fst ‹_ = (_, _)› ?_
                  | with_reducible refine Keeps.of_fst3 ‹_ = (_, _, _)› ?_ | with_reducible apply Keeps.ite
                  | split | dsimp only)

theorem State.chanGo_keeps {a s : State} {x1} {x2} (h : Keeps a s) :
    Keeps a (State.chanGo s x1 x2) := by
  unfold State.chanGo
  try dsimp only
  repeat' (first | with_reducible assumption | with_reducible apply State.setF_keeps
                  | with_reducible apply State.chanFetch_keeps | simp only [Keeps.record]
                  | with_reducible refine Keeps.of_snd ‹_ = (_, _)› ?_
                  | with_reducible refine Keeps.of_fst ‹_ = (_, _)› ?_
                  | with_reducible refine Keeps.of_fst3 ‹_ = (_, _, _)› ?_ | with_reducible apply Keeps.ite
                  | split | dsimp only)

theorem chGoEff_keeps {a s : State} {x0} {x1} {x2} (h : Keeps a s) :
    Keeps a (chGoEff x0 x1 x2 s) := by
  unfold chGoEff
  try dsimp only
  repeat' (first | with_reducible assumption | with_reducible refine State.bobGuard_keeps (fun _ _ => ?_) ?_
                  | with_reducible apply State.chanGo_keeps | simp only [Keeps.record]
                  | with_reducible refine Keeps.of_snd ‹_ = (_, _)› ?_
                  | with_reducible refine Keeps.of_fst ‹_ = (_, _)› ?_
                  | with_reducible refine Keeps.of_fst3 ‹_ = (_, _, _)› ?_ | with_reducible apply Keeps.ite
                  | split | dsimp only)

theorem State.chanAtomFailed_keeps {a s : State} {x1} {x2} {x3} {x4} (h : Keeps a s) :
    Keeps a (State.chanAtomFailed s x1 x2 x3 x4) := by
  unfold State.chanAtomFailed
  try dsimp only
  repeat' (first | with_reducible assumption | with_reducible apply State.chanHalt_keeps | simp only [Keeps.record]
                  | with_reducible refine Keeps.of_snd ‹_ = (_, _)› ?_
                  | with_reducible refine Keeps.of_fst ‹_ = (_, _)› ?_
                  | with_reducible refine Keeps.of_fst3 ‹_ = (_, _, _)› ?_ | with_reducible apply Keeps.ite
                  | split | dsimp only)

theorem State.chanWrote_keeps {a s : State} {x1} {x2} {x3} {x4} (h : Keeps a s) :
    Keeps a (State.chanWrote s x1 x2 x3 x4) := by
  unfold State.chanWrote
  try dsimp only
  repeat' (first | with_reducible assumption | with_reducible apply State.chanFlight_keeps
                  | with_reducible apply State.chanHalt_keeps | with_reducible apply State.updChan_keeps
                  | with_reducible apply State.chanProgress_keeps | simp only [Keeps.record]
                  | with_reducible refine Keeps.of_snd ‹_ = (_, _)› ?_
                  | with_reducible refine Keeps.of_fst ‹_ = (_, _)› ?_
                  | with_reducible refine Keeps.of_fst3 ‹_ = (_, _, _)› ?_ | with_reducible apply Keeps.ite
                  | split | dsimp only)

theorem State.flushPanel_keeps {a s : State} {x1} (h : Keeps a s) :
    Keeps a (State.flushPanel s x1) := by
  unfold State.flushPanel
  try dsimp only
  repeat' (first | with_reducible assumption | with_reducible apply State.evictL2_keeps
                  | with_reducible apply State.updHart_keeps
                  | with_reducible refine Keeps.foldl (fun _ _ _ => ?_) ?_
                  | with_reducible refine Keeps.foldlFst (fun _ _ _ => ?_) ?_
                  | with_reducible refine Keeps.foldlSnd (fun _ _ _ => ?_) ?_ | simp only [Keeps.record]
                  | with_reducible exact KeepsO.none | with_reducible apply KeepsO.some
                  | with_reducible exact KeepsO.fstNone | with_reducible exact KeepsO.sndNone
                  | with_reducible apply KeepsO.fst | with_reducible apply KeepsO.snd
                  | with_reducible refine KeepsO.map (fun _ _ => ?_) ?_ | with_reducible apply KeepsO.getD
                  | with_reducible apply KeepsO.sndPut | with_reducible refine Keeps.of_some ‹_ = some _› ?_
                  | with_reducible refine Keeps.of_someFst ‹_ = some (_, _)› ?_
                  | with_reducible refine Keeps.of_someSnd ‹_ = some (_, _)› ?_
                  | with_reducible refine Keeps.of_someP1 ‹_ = some _› ?_
                  | with_reducible refine Keeps.of_snd ‹_ = (_, _)› ?_
                  | with_reducible refine Keeps.of_fst ‹_ = (_, _)› ?_
                  | with_reducible refine Keeps.of_fst3 ‹_ = (_, _, _)› ?_ | with_reducible apply Keeps.ite
                  | split | dsimp only)

theorem State.sendFenceReply_keeps {a s : State} {x1} (h : Keeps a s) :
    Keeps a (State.sendFenceReply s x1) := by
  unfold State.sendFenceReply
  try dsimp only
  repeat' (first | with_reducible assumption | with_reducible apply State.send_keeps | simp only [Keeps.record]
                  | with_reducible refine Keeps.of_snd ‹_ = (_, _)› ?_
                  | with_reducible refine Keeps.of_fst ‹_ = (_, _)› ?_
                  | with_reducible refine Keeps.of_fst3 ‹_ = (_, _, _)› ?_ | with_reducible apply Keeps.ite
                  | split | dsimp only)

theorem State.startOpen_keeps {a s : State} {x1} (h : Keeps a s) :
    Keeps a (State.startOpen s x1) := by
  unfold State.startOpen
  try dsimp only
  repeat' (first | with_reducible assumption | with_reducible apply State.updFence_keeps
                  | with_reducible apply State.setFence_keeps | simp only [Keeps.record]
                  | with_reducible refine Keeps.of_snd ‹_ = (_, _)› ?_
                  | with_reducible refine Keeps.of_fst ‹_ = (_, _)› ?_
                  | with_reducible refine Keeps.of_fst3 ‹_ = (_, _, _)› ?_ | with_reducible apply Keeps.ite
                  | split | dsimp only)

theorem State.closeFence_keeps {a s : State} {x1} (h : Keeps a s) :
    Keeps a (State.closeFence s x1) := by
  unfold State.closeFence
  try dsimp only
  repeat' (first | with_reducible assumption | with_reducible apply State.setFence_keeps
                  | with_reducible apply State.refreshBolts_keeps | with_reducible apply State.updFence_keeps
                  | with_reducible apply State.sendFenceReply_keeps | with_reducible apply State.startOpen_keeps
                  | simp only [Keeps.record] | with_reducible refine Keeps.of_snd ‹_ = (_, _)› ?_
                  | with_reducible refine Keeps.of_fst ‹_ = (_, _)› ?_
                  | with_reducible refine Keeps.of_fst3 ‹_ = (_, _, _)› ?_ | with_reducible apply Keeps.ite
                  | split | dsimp only)

theorem State.closeLlc_keeps {a s : State} {x1} (h : Keeps a s) :
    Keeps a (State.closeLlc s x1) := by
  unfold State.closeLlc
  try dsimp only
  repeat' (first | with_reducible assumption | with_reducible apply State.evictEnt_keeps
                  | with_reducible apply State.updSlice_keeps
                  | with_reducible refine Keeps.foldl (fun _ _ _ => ?_) ?_
                  | with_reducible refine Keeps.foldlFst (fun _ _ _ => ?_) ?_
                  | with_reducible refine Keeps.foldlSnd (fun _ _ _ => ?_) ?_ | simp only [Keeps.record]
                  | with_reducible refine Keeps.of_snd ‹_ = (_, _)› ?_
                  | with_reducible refine Keeps.of_fst ‹_ = (_, _)› ?_
                  | with_reducible refine Keeps.of_fst3 ‹_ = (_, _, _)› ?_ | with_reducible apply Keeps.ite
                  | split | dsimp only)

theorem State.closeUnit_keeps {a s : State} {x1} (h : Keeps a s) :
    Keeps a (State.closeUnit s x1) := by
  unfold State.closeUnit
  try dsimp only
  repeat' (first | with_reducible assumption | with_reducible apply State.closeLlc_keeps
                  | with_reducible apply State.endScrub_keeps | with_reducible apply State.selfRefresh_keeps
                  | with_reducible apply State.updPcie_keeps | with_reducible apply State.bobDrain_keeps
                  | simp only [Keeps.record] | with_reducible refine Keeps.of_snd ‹_ = (_, _)› ?_
                  | with_reducible refine Keeps.of_fst ‹_ = (_, _)› ?_
                  | with_reducible refine Keeps.of_fst3 ‹_ = (_, _, _)› ?_ | with_reducible apply Keeps.ite
                  | split | dsimp only)

theorem State.drainDone_keeps {a s : State} {x1} (h : Keeps a s) :
    Keeps a (State.drainDone s x1) := by
  unfold State.drainDone
  try dsimp only
  repeat' (first | with_reducible assumption | with_reducible apply State.flushPanel_keeps
                  | with_reducible apply State.closeFence_keeps | with_reducible apply State.closeUnit_keeps
                  | simp only [Keeps.record] | with_reducible refine Keeps.of_snd ‹_ = (_, _)› ?_
                  | with_reducible refine Keeps.of_fst ‹_ = (_, _)› ?_
                  | with_reducible refine Keeps.of_fst3 ‹_ = (_, _, _)› ?_ | with_reducible apply Keeps.ite
                  | split | dsimp only)

theorem State.resumePanel_keeps {a s : State} {x1} (h : Keeps a s) :
    Keeps a (State.resumePanel s x1) := by
  unfold State.resumePanel
  try dsimp only
  repeat' (first | with_reducible assumption | with_reducible apply State.updHart_keeps
                  | with_reducible refine Keeps.foldl (fun _ _ _ => ?_) ?_
                  | with_reducible refine Keeps.foldlFst (fun _ _ _ => ?_) ?_
                  | with_reducible refine Keeps.foldlSnd (fun _ _ _ => ?_) ?_ | simp only [Keeps.record]
                  | with_reducible refine Keeps.of_snd ‹_ = (_, _)› ?_
                  | with_reducible refine Keeps.of_fst ‹_ = (_, _)› ?_
                  | with_reducible refine Keeps.of_fst3 ‹_ = (_, _, _)› ?_ | with_reducible apply Keeps.ite
                  | split | dsimp only)

theorem State.parkPanel_keeps {a s : State} {x1} (h : Keeps a s) :
    Keeps a (State.parkPanel s x1) := by
  unfold State.parkPanel
  try dsimp only
  repeat' (first | with_reducible assumption | with_reducible apply State.updHart_keeps
                  | with_reducible refine Keeps.foldl (fun _ _ _ => ?_) ?_
                  | with_reducible refine Keeps.foldlFst (fun _ _ _ => ?_) ?_
                  | with_reducible refine Keeps.foldlSnd (fun _ _ _ => ?_) ?_ | simp only [Keeps.record]
                  | with_reducible refine Keeps.of_snd ‹_ = (_, _)› ?_
                  | with_reducible refine Keeps.of_fst ‹_ = (_, _)› ?_
                  | with_reducible refine Keeps.of_fst3 ‹_ = (_, _, _)› ?_ | with_reducible apply Keeps.ite
                  | split | dsimp only)

theorem State.startDrain_keeps {a s : State} {x1} (h : Keeps a s) :
    Keeps a (State.startDrain s x1) := by
  unfold State.startDrain
  try dsimp only
  repeat' (first | with_reducible assumption | with_reducible apply State.setFence_keeps
                  | with_reducible apply State.updFence_keeps | with_reducible apply State.flushPanel_keeps
                  | with_reducible apply State.parkPanel_keeps | with_reducible apply State.updMc_keeps
                  | with_reducible apply State.refreshBolts_keeps | simp only [Keeps.record]
                  | with_reducible refine Keeps.of_snd ‹_ = (_, _)› ?_
                  | with_reducible refine Keeps.of_fst ‹_ = (_, _)› ?_
                  | with_reducible refine Keeps.of_fst3 ‹_ = (_, _, _)› ?_ | with_reducible apply Keeps.ite
                  | split | dsimp only)

theorem State.fenceOpened_keeps {a s : State} {x1} (h : Keeps a s) :
    Keeps a (State.fenceOpened s x1) := by
  unfold State.fenceOpened
  try dsimp only
  repeat' (first | with_reducible assumption | with_reducible apply State.setFence_keeps
                  | with_reducible apply State.setF_keeps | with_reducible apply State.updFence_keeps
                  | with_reducible apply State.resumePanel_keeps
                  | with_reducible apply State.sendFenceReply_keeps
                  | with_reducible apply State.refreshBolts_keeps | with_reducible apply State.startDrain_keeps
                  | simp only [Keeps.record] | with_reducible refine Keeps.of_snd ‹_ = (_, _)› ?_
                  | with_reducible refine Keeps.of_fst ‹_ = (_, _)› ?_
                  | with_reducible refine Keeps.of_fst3 ‹_ = (_, _, _)› ?_ | with_reducible apply Keeps.ite
                  | split | dsimp only)

theorem State.fenceOpenFailed_keeps {a s : State} {x1} (h : Keeps a s) :
    Keeps a (State.fenceOpenFailed s x1) := by
  unfold State.fenceOpenFailed
  try dsimp only
  repeat' (first | with_reducible assumption | with_reducible apply State.setF_keeps
                  | with_reducible apply State.setFence_keeps | with_reducible apply State.sendFenceReply_keeps
                  | with_reducible apply State.updFence_keeps | simp only [Keeps.record]
                  | with_reducible refine Keeps.of_snd ‹_ = (_, _)› ?_
                  | with_reducible refine Keeps.of_fst ‹_ = (_, _)› ?_
                  | with_reducible refine Keeps.of_fst3 ‹_ = (_, _, _)› ?_ | with_reducible apply Keeps.ite
                  | split | dsimp only)

theorem fenceOpenEff_keeps {a s : State} {x0} {x1} (h : Keeps a s) :
    Keeps a (fenceOpenEff x0 x1 s) := by
  unfold fenceOpenEff
  try dsimp only
  repeat' (first | with_reducible assumption | with_reducible apply State.updMc_keeps
                  | with_reducible apply State.fenceOpened_keeps
                  | with_reducible apply State.leaveSelfRefresh_keeps
                  | with_reducible apply State.fenceOpenFailed_keeps | simp only [Keeps.record]
                  | with_reducible refine Keeps.of_snd ‹_ = (_, _)› ?_
                  | with_reducible refine Keeps.of_fst ‹_ = (_, _)› ?_
                  | with_reducible refine Keeps.of_fst3 ‹_ = (_, _, _)› ?_ | with_reducible apply Keeps.ite
                  | split | dsimp only)

theorem State.fenceCommand_keeps {a s : State} {x1} {x2} (h : Keeps a s) :
    Keeps a (State.fenceCommand s x1 x2) := by
  unfold State.fenceCommand
  try dsimp only
  repeat' (first | with_reducible assumption | with_reducible apply State.setF_keeps
                  | with_reducible apply State.updFence_keeps | with_reducible apply State.startOpen_keeps
                  | with_reducible apply State.startDrain_keeps | simp only [Keeps.record]
                  | with_reducible refine Keeps.of_snd ‹_ = (_, _)› ?_
                  | with_reducible refine Keeps.of_fst ‹_ = (_, _)› ?_
                  | with_reducible refine Keeps.of_fst3 ‹_ = (_, _, _)› ?_ | with_reducible apply Keeps.ite
                  | split | dsimp only)

theorem fenceCmdEff_keeps {a s : State} {x0} {x1} (h : Keeps a s) :
    Keeps a (fenceCmdEff x0 x1 s) := by
  unfold fenceCmdEff
  try dsimp only
  repeat' (first | with_reducible assumption | with_reducible apply State.fenceCommand_keeps
                  | with_reducible apply State.arrive_keeps | simp only [Keeps.record]
                  | with_reducible refine Keeps.of_snd ‹_ = (_, _)› ?_
                  | with_reducible refine Keeps.of_fst ‹_ = (_, _)› ?_
                  | with_reducible refine Keeps.of_fst3 ‹_ = (_, _, _)› ?_ | with_reducible apply Keeps.ite
                  | split | dsimp only)

theorem State.fenceMismatch_keeps {a s : State} {x1} (h : Keeps a s) :
    Keeps a (State.fenceMismatch s x1) := by
  unfold State.fenceMismatch
  try dsimp only
  repeat' (first | with_reducible assumption | with_reducible apply State.setF_keeps
                  | with_reducible apply State.note_keeps | with_reducible apply State.err_keeps
                  | simp only [Keeps.record] | with_reducible refine Keeps.of_snd ‹_ = (_, _)› ?_
                  | with_reducible refine Keeps.of_fst ‹_ = (_, _)› ?_
                  | with_reducible refine Keeps.of_fst3 ‹_ = (_, _, _)› ?_ | with_reducible apply Keeps.ite
                  | split | dsimp only)

theorem State.resetClose_keeps {a s : State} {x1} (h : Keeps a s) :
    Keeps a (State.resetClose s x1) := by
  unfold State.resetClose
  try dsimp only
  repeat' (first | with_reducible assumption | with_reducible apply State.updFence_keeps
                  | with_reducible apply State.refreshBolts_keeps
                  | with_reducible apply State.fenceMismatch_keeps | with_reducible apply State.setFence_keeps
                  | simp only [Keeps.record] | with_reducible refine Keeps.of_snd ‹_ = (_, _)› ?_
                  | with_reducible refine Keeps.of_fst ‹_ = (_, _)› ?_
                  | with_reducible refine Keeps.of_fst3 ‹_ = (_, _, _)› ?_ | with_reducible apply Keeps.ite
                  | split | dsimp only)

theorem State.killUnit_keeps {a s : State} {x1} (h : Keeps a s) :
    Keeps a (State.killUnit s x1) := by
  unfold State.killUnit
  try dsimp only
  repeat' (first | with_reducible assumption | with_reducible apply State.updHart_keeps
                  | with_reducible apply State.portsFault_keeps | with_reducible apply State.ioReply_keeps
                  | with_reducible apply State.updPcie_keeps | with_reducible apply State.chanFlight_keeps
                  | with_reducible apply State.bobDrain_keeps | with_reducible apply State.closeUnit_keeps
                  | with_reducible refine Keeps.foldl (fun _ _ _ => ?_) ?_
                  | with_reducible refine Keeps.foldlFst (fun _ _ _ => ?_) ?_
                  | with_reducible refine Keeps.foldlSnd (fun _ _ _ => ?_) ?_ | simp only [Keeps.record]
                  | with_reducible refine Keeps.of_snd ‹_ = (_, _)› ?_
                  | with_reducible refine Keeps.of_fst ‹_ = (_, _)› ?_
                  | with_reducible refine Keeps.of_fst3 ‹_ = (_, _, _)› ?_ | with_reducible apply Keeps.ite
                  | split | dsimp only)

theorem State.faultFence_keeps {a s : State} {x1} (h : Keeps a s) :
    Keeps a (State.faultFence s x1) := by
  unfold State.faultFence
  try dsimp only
  repeat' (first | with_reducible assumption | with_reducible apply State.setFence_keeps
                  | with_reducible apply State.setF_keeps | with_reducible apply State.killUnit_keeps
                  | with_reducible apply State.updFence_keeps | with_reducible apply State.refreshBolts_keeps
                  | with_reducible apply State.note_keeps | simp only [Keeps.record]
                  | with_reducible refine Keeps.of_snd ‹_ = (_, _)› ?_
                  | with_reducible refine Keeps.of_fst ‹_ = (_, _)› ?_
                  | with_reducible refine Keeps.of_fst3 ‹_ = (_, _, _)› ?_ | with_reducible apply Keeps.ite
                  | split | dsimp only)

theorem State.forceClose_keeps {a s : State} {x1} (h : Keeps a s) :
    Keeps a (State.forceClose s x1) := by
  unfold State.forceClose
  try dsimp only
  repeat' (first | with_reducible assumption | with_reducible apply State.fenceMismatch_keeps
                  | with_reducible apply State.faultFence_keeps | simp only [Keeps.record]
                  | with_reducible refine Keeps.of_snd ‹_ = (_, _)› ?_
                  | with_reducible refine Keeps.of_fst ‹_ = (_, _)› ?_
                  | with_reducible refine Keeps.of_fst3 ‹_ = (_, _, _)› ?_ | with_reducible apply Keeps.ite
                  | split | dsimp only)

theorem State.keeperFence_keeps {a s : State} {x1} {x2} (h : Keeps a s) :
    Keeps a (State.keeperFence s x1 x2) := by
  unfold State.keeperFence
  try dsimp only
  repeat' (first | with_reducible assumption | with_reducible apply State.setF_keeps
                  | with_reducible apply State.send_keeps | simp only [Keeps.record]
                  | with_reducible refine Keeps.of_snd ‹_ = (_, _)› ?_
                  | with_reducible refine Keeps.of_fst ‹_ = (_, _)› ?_
                  | with_reducible refine Keeps.of_fst3 ‹_ = (_, _, _)› ?_ | with_reducible apply Keeps.ite
                  | split | dsimp only)

theorem State.retrained_keeps {a s : State} {x1} {x2} (h : Keeps a s) :
    Keeps a (State.retrained s x1 x2) := by
  unfold State.retrained
  try dsimp only
  repeat' (first | with_reducible assumption | with_reducible apply State.updMc_keeps
                  | with_reducible apply State.updFence_keeps | with_reducible apply State.trainMc_keeps
                  | with_reducible apply State.fenceOpened_keeps
                  | with_reducible apply State.fenceOpenFailed_keeps | simp only [Keeps.record]
                  | with_reducible refine Keeps.of_snd ‹_ = (_, _)› ?_
                  | with_reducible refine Keeps.of_fst ‹_ = (_, _)› ?_
                  | with_reducible refine Keeps.of_fst3 ‹_ = (_, _, _)› ?_ | with_reducible apply Keeps.ite
                  | split | dsimp only)

theorem State.fenceExpired_keeps {a s : State} {x1} (h : Keeps a s) :
    Keeps a (State.fenceExpired s x1) := by
  unfold State.fenceExpired
  try dsimp only
  repeat' (first | with_reducible assumption | with_reducible apply State.advance_keeps
                  | with_reducible apply State.setF_keeps | with_reducible apply State.err_keeps
                  | with_reducible apply State.faultFence_keeps
                  | with_reducible apply State.sendFenceReply_keeps | with_reducible apply State.startOpen_keeps
                  | simp only [Keeps.record] | with_reducible refine Keeps.of_snd ‹_ = (_, _)› ?_
                  | with_reducible refine Keeps.of_fst ‹_ = (_, _)› ?_
                  | with_reducible refine Keeps.of_fst3 ‹_ = (_, _, _)› ?_ | with_reducible apply Keeps.ite
                  | split | dsimp only)

theorem stallExpiryEff_keeps {a s : State} {x0} {x1} (h : Keeps a s) :
    Keeps a (stallExpiryEff x0 x1 s) := by
  unfold stallExpiryEff
  try dsimp only
  repeat' (first | with_reducible assumption | with_reducible apply State.err_keeps
                  | with_reducible apply State.note_keeps | with_reducible apply State.forceClose_keeps
                  | with_reducible apply State.fatalStop_keeps | simp only [Keeps.record]
                  | with_reducible refine Keeps.of_snd ‹_ = (_, _)› ?_
                  | with_reducible refine Keeps.of_fst ‹_ = (_, _)› ?_
                  | with_reducible refine Keeps.of_fst3 ‹_ = (_, _, _)› ?_ | with_reducible apply Keeps.ite
                  | split | dsimp only)

theorem State.gusRecord_keeps {a s : State} {x1} {x2} (h : Keeps a s) :
    Keeps a (State.gusRecord s x1 x2) := by
  unfold State.gusRecord
  try dsimp only
  repeat' (first | with_reducible assumption | with_reducible apply State.err_keeps | simp only [Keeps.record]
                  | with_reducible refine Keeps.of_snd ‹_ = (_, _)› ?_
                  | with_reducible refine Keeps.of_fst ‹_ = (_, _)› ?_
                  | with_reducible refine Keeps.of_fst3 ‹_ = (_, _, _)› ?_ | with_reducible apply Keeps.ite
                  | split | dsimp only)

theorem State.updGus_keeps {a s : State} {x1} {x2} (h : Keeps a s) :
    Keeps a (State.updGus s x1 x2) := by
  unfold State.updGus
  try dsimp only
  repeat' (first | with_reducible assumption | simp only [Keeps.record]
                  | with_reducible refine Keeps.of_snd ‹_ = (_, _)› ?_
                  | with_reducible refine Keeps.of_fst ‹_ = (_, _)› ?_
                  | with_reducible refine Keeps.of_fst3 ‹_ = (_, _, _)› ?_ | with_reducible apply Keeps.ite
                  | split | dsimp only)

theorem State.bootStop_keeps {a s : State} {x1} (h : Keeps a s) :
    Keeps a (State.bootStop s x1) := by
  unfold State.bootStop
  try dsimp only
  repeat' (first | with_reducible assumption | with_reducible apply State.setF_keeps | simp only [Keeps.record]
                  | with_reducible refine Keeps.of_snd ‹_ = (_, _)› ?_
                  | with_reducible refine Keeps.of_fst ‹_ = (_, _)› ?_
                  | with_reducible refine Keeps.of_fst3 ‹_ = (_, _, _)› ?_ | with_reducible apply Keeps.ite
                  | split | dsimp only)

theorem State.rivetFail_keeps {a s : State} {x1} (h : Keeps a s) :
    Keeps a (State.rivetFail s x1) := by
  unfold State.rivetFail
  try dsimp only
  repeat' (first | with_reducible assumption | with_reducible apply State.err_keeps
                  | with_reducible apply State.setFbit_keeps | with_reducible apply State.setF_keeps
                  | with_reducible apply State.setPanelState_keeps | with_reducible apply State.bootStop_keeps
                  | simp only [Keeps.record] | with_reducible refine Keeps.of_snd ‹_ = (_, _)› ?_
                  | with_reducible refine Keeps.of_fst ‹_ = (_, _)› ?_
                  | with_reducible refine Keeps.of_fst3 ‹_ = (_, _, _)› ?_ | with_reducible apply Keeps.ite
                  | split | dsimp only)

theorem State.fabricIsUp_keeps {a s : State} (h : Keeps a s) :
    Keeps a (State.fabricIsUp s) := by
  unfold State.fabricIsUp
  try dsimp only
  repeat' (first | with_reducible assumption | with_reducible apply State.record_keeps
                  | with_reducible refine Keeps.foldl (fun _ _ _ => ?_) ?_
                  | with_reducible refine Keeps.foldlFst (fun _ _ _ => ?_) ?_
                  | with_reducible refine Keeps.foldlSnd (fun _ _ _ => ?_) ?_ | simp only [Keeps.record]
                  | with_reducible refine Keeps.of_snd ‹_ = (_, _)› ?_
                  | with_reducible refine Keeps.of_fst ‹_ = (_, _)› ?_
                  | with_reducible refine Keeps.of_fst3 ‹_ = (_, _, _)› ?_ | with_reducible apply Keeps.ite
                  | split | dsimp only)

theorem State.linksUp_keeps {a s : State} (h : Keeps a s) :
    Keeps a (State.linksUp s) := by
  unfold State.linksUp
  try dsimp only
  repeat' (first | with_reducible assumption | with_reducible apply State.fabricIsUp_keeps
                  | with_reducible apply State.setF_keeps | simp only [Keeps.record]
                  | with_reducible refine Keeps.of_snd ‹_ = (_, _)› ?_
                  | with_reducible refine Keeps.of_fst ‹_ = (_, _)› ?_
                  | with_reducible refine Keeps.of_fst3 ‹_ = (_, _, _)› ?_ | with_reducible apply Keeps.ite
                  | split | dsimp only)

theorem State.gusAttempt_keeps {a s : State} {x1} {x2} (h : Keeps a s) :
    Keeps a (State.gusAttempt s x1 x2) := by
  unfold State.gusAttempt
  try dsimp only
  repeat' (first | with_reducible assumption | with_reducible apply State.updGus_keeps | simp only [Keeps.record]
                  | with_reducible refine Keeps.of_snd ‹_ = (_, _)› ?_
                  | with_reducible refine Keeps.of_fst ‹_ = (_, _)› ?_
                  | with_reducible refine Keeps.of_fst3 ‹_ = (_, _, _)› ?_ | with_reducible apply Keeps.ite
                  | split | dsimp only)

theorem State.gusStart_keeps {a s : State} {x1} {x2} (h : Keeps a s) :
    Keeps a (State.gusStart s x1 x2) := by
  unfold State.gusStart
  try dsimp only
  repeat' (first | with_reducible assumption | with_reducible apply State.setF_keeps
                  | with_reducible apply State.gusAttempt_keeps | with_reducible apply State.updGus_keeps
                  | simp only [Keeps.record] | with_reducible refine Keeps.of_snd ‹_ = (_, _)› ?_
                  | with_reducible refine Keeps.of_fst ‹_ = (_, _)› ?_
                  | with_reducible refine Keeps.of_fst3 ‹_ = (_, _, _)› ?_ | with_reducible apply Keeps.ite
                  | split | dsimp only)

theorem State.gusReopen_keeps {a s : State} {x1} (h : Keeps a s) :
    Keeps a (State.gusReopen s x1) := by
  unfold State.gusReopen
  try dsimp only
  repeat' (first | with_reducible assumption | with_reducible apply State.incF_keeps
                  | with_reducible apply State.gusStart_keeps | simp only [Keeps.record]
                  | with_reducible refine Keeps.of_snd ‹_ = (_, _)› ?_
                  | with_reducible refine Keeps.of_fst ‹_ = (_, _)› ?_
                  | with_reducible refine Keeps.of_fst3 ‹_ = (_, _, _)› ?_ | with_reducible apply Keeps.ite
                  | split | dsimp only)

theorem gusCtlReopenEff_keeps {a s : State} {x0} {x1} (h : Keeps a s) :
    Keeps a (gusCtlReopenEff x0 x1 s) := by
  unfold gusCtlReopenEff
  try dsimp only
  repeat' (first | with_reducible assumption | with_reducible apply State.reply_keeps
                  | with_reducible apply State.kwViolation_keeps | with_reducible apply State.gusReopen_keeps
                  | simp only [Keeps.record] | with_reducible refine Keeps.of_snd ‹_ = (_, _)› ?_
                  | with_reducible refine Keeps.of_fst ‹_ = (_, _)› ?_
                  | with_reducible refine Keeps.of_fst3 ‹_ = (_, _, _)› ?_ | with_reducible apply Keeps.ite
                  | split | dsimp only)

theorem State.gusTest_keeps {a s : State} {x1} {x2} {x3} (h : Keeps a s) :
    Keeps a (State.gusTest s x1 x2 x3) := by
  unfold State.gusTest
  try dsimp only
  repeat' (first | with_reducible assumption | with_reducible apply State.setF_keeps
                  | with_reducible apply State.setFbit_keeps | simp only [Keeps.record]
                  | with_reducible refine Keeps.of_snd ‹_ = (_, _)› ?_
                  | with_reducible refine Keeps.of_fst ‹_ = (_, _)› ?_
                  | with_reducible refine Keeps.of_fst3 ‹_ = (_, _, _)› ?_ | with_reducible apply Keeps.ite
                  | split | dsimp only)

theorem idleTestFailEff_keeps {a s : State} {x0} {x1} {x2} (h : Keeps a s) :
    Keeps a (idleTestFailEff x0 x1 x2 s) := by
  unfold idleTestFailEff
  try dsimp only
  repeat' (first | with_reducible assumption | with_reducible apply State.gusTest_keeps | simp only [Keeps.record]
                  | with_reducible refine Keeps.of_snd ‹_ = (_, _)› ?_
                  | with_reducible refine Keeps.of_fst ‹_ = (_, _)› ?_
                  | with_reducible refine Keeps.of_fst3 ‹_ = (_, _, _)› ?_ | with_reducible apply Keeps.ite
                  | split | dsimp only)

theorem State.gusEnd_keeps {a s : State} {x1} {x2} {x3} (h : Keeps a s) :
    Keeps a (State.gusEnd s x1 x2 x3) := by
  unfold State.gusEnd
  try dsimp only
  repeat' (first | with_reducible assumption | with_reducible apply State.setF_keeps
                  | with_reducible apply State.updGus_keeps | with_reducible apply State.linksUp_keeps
                  | with_reducible apply State.gusRecord_keeps | with_reducible apply State.note_keeps
                  | with_reducible apply State.fatalStop_keeps | with_reducible apply State.bootStop_keeps
                  | with_reducible refine Keeps.foldl (fun _ _ _ => ?_) ?_
                  | with_reducible refine Keeps.foldlFst (fun _ _ _ => ?_) ?_
                  | with_reducible refine Keeps.foldlSnd (fun _ _ _ => ?_) ?_ | simp only [Keeps.record]
                  | with_reducible refine Keeps.of_snd ‹_ = (_, _)› ?_
                  | with_reducible refine Keeps.of_fst ‹_ = (_, _)› ?_
                  | with_reducible refine Keeps.of_fst3 ‹_ = (_, _, _)› ?_ | with_reducible apply Keeps.ite
                  | split | dsimp only)

theorem State.gusSafe_keeps {a s : State} {x1} (h : Keeps a s) :
    Keeps a (State.gusSafe s x1) := by
  unfold State.gusSafe
  try dsimp only
  repeat' (first | with_reducible assumption | with_reducible apply State.updGus_keeps | simp only [Keeps.record]
                  | with_reducible refine Keeps.of_snd ‹_ = (_, _)› ?_
                  | with_reducible refine Keeps.of_fst ‹_ = (_, _)› ?_
                  | with_reducible refine Keeps.of_fst3 ‹_ = (_, _, _)› ?_ | with_reducible apply Keeps.ite
                  | split | dsimp only)

theorem State.gusDisagree_keeps {a s : State} {x1} (h : Keeps a s) :
    Keeps a (State.gusDisagree s x1) := by
  unfold State.gusDisagree
  try dsimp only
  repeat' (first | with_reducible assumption | with_reducible apply State.setF_keeps
                  | with_reducible apply State.gusAttempt_keeps | with_reducible apply State.gusSafe_keeps
                  | simp only [Keeps.record] | with_reducible refine Keeps.of_snd ‹_ = (_, _)› ?_
                  | with_reducible refine Keeps.of_fst ‹_ = (_, _)› ?_
                  | with_reducible refine Keeps.of_fst3 ‹_ = (_, _, _)› ?_ | with_reducible apply Keeps.ite
                  | split | dsimp only)

theorem confirmEff_keeps {a s : State} {x0} {x1} {x2} (h : Keeps a s) :
    Keeps a (confirmEff x0 x1 x2 s) := by
  unfold confirmEff
  try dsimp only
  repeat' (first | with_reducible assumption | with_reducible apply State.gusEnd_keeps
                  | with_reducible apply State.gusSafe_keeps | with_reducible apply State.gusDisagree_keeps
                  | simp only [Keeps.record] | with_reducible refine Keeps.of_snd ‹_ = (_, _)› ?_
                  | with_reducible refine Keeps.of_fst ‹_ = (_, _)› ?_
                  | with_reducible refine Keeps.of_fst3 ‹_ = (_, _, _)› ?_ | with_reducible apply Keeps.ite
                  | split | dsimp only)

theorem safeEff_keeps {a s : State} {x0} {x1} (h : Keeps a s) :
    Keeps a (safeEff x0 x1 s) := by
  unfold safeEff
  try dsimp only
  repeat' (first | with_reducible assumption | with_reducible apply State.gusEnd_keeps | simp only [Keeps.record]
                  | with_reducible refine Keeps.of_snd ‹_ = (_, _)› ?_
                  | with_reducible refine Keeps.of_fst ‹_ = (_, _)› ?_
                  | with_reducible refine Keeps.of_fst3 ‹_ = (_, _, _)› ?_ | with_reducible apply Keeps.ite
                  | split | dsimp only)

theorem reopenEff_keeps {a s : State} {x0} (h : Keeps a s) :
    Keeps a (reopenEff x0 s) := by
  unfold reopenEff
  try dsimp only
  repeat' (first | with_reducible assumption | with_reducible apply State.gusReopen_keeps | simp only [Keeps.record]
                  | with_reducible refine Keeps.of_snd ‹_ = (_, _)› ?_
                  | with_reducible refine Keeps.of_fst ‹_ = (_, _)› ?_
                  | with_reducible refine Keeps.of_fst3 ‹_ = (_, _, _)› ?_ | with_reducible apply Keeps.ite
                  | split | dsimp only)

theorem maskEff_keeps {a s : State} {x0} {x1} {x2} (h : Keeps a s) :
    Keeps a (maskEff x0 x1 x2 s) := by
  unfold maskEff
  try dsimp only
  repeat' (first | with_reducible assumption | with_reducible apply State.setF_keeps
                  | with_reducible apply State.updGus_keeps | simp only [Keeps.record]
                  | with_reducible refine Keeps.of_snd ‹_ = (_, _)› ?_
                  | with_reducible refine Keeps.of_fst ‹_ = (_, _)› ?_
                  | with_reducible refine Keeps.of_fst3 ‹_ = (_, _, _)› ?_ | with_reducible apply Keeps.ite
                  | split | dsimp only)

theorem linkExpiryEff_keeps {a s : State} {x0} (h : Keeps a s) :
    Keeps a (linkExpiryEff x0 s) := by
  unfold linkExpiryEff
  try dsimp only
  repeat' (first | with_reducible assumption | with_reducible apply State.rivetFail_keeps
                  | with_reducible apply State.err_keeps | with_reducible apply State.forceClose_keeps
                  | with_reducible apply State.gusTest_keeps | with_reducible apply State.gusRecord_keeps
                  | with_reducible apply State.gusReopen_keeps | with_reducible apply State.advance_keeps
                  | with_reducible apply State.gusEnd_keeps | with_reducible apply State.gusDisagree_keeps
                  | simp only [Keeps.record] | with_reducible refine Keeps.of_snd ‹_ = (_, _)› ?_
                  | with_reducible refine Keeps.of_fst ‹_ = (_, _)› ?_
                  | with_reducible refine Keeps.of_fst3 ‹_ = (_, _, _)› ?_ | with_reducible apply Keeps.ite
                  | split | dsimp only)

theorem slotBoundaryEff_keeps {a s : State} {x0} (h : Keeps a s) :
    Keeps a (slotBoundaryEff x0 s) := by
  unfold slotBoundaryEff
  try dsimp only
  repeat' (first | with_reducible assumption | with_reducible apply State.advance_keeps
                  | with_reducible apply State.inject_keeps
                  | with_reducible refine Keeps.foldl (fun _ _ _ => ?_) ?_
                  | with_reducible refine Keeps.foldlFst (fun _ _ _ => ?_) ?_
                  | with_reducible refine Keeps.foldlSnd (fun _ _ _ => ?_) ?_ | simp only [Keeps.record]
                  | with_reducible refine Keeps.of_snd ‹_ = (_, _)› ?_
                  | with_reducible refine Keeps.of_fst ‹_ = (_, _)› ?_
                  | with_reducible refine Keeps.of_fst3 ‹_ = (_, _, _)› ?_ | with_reducible apply Keeps.ite
                  | split | dsimp only)

theorem epochFlipEff_keeps {a s : State} {x0} (h : Keeps a s) :
    Keeps a (epochFlipEff x0 s) := by
  unfold epochFlipEff
  try dsimp only
  repeat' (first | with_reducible assumption | simp only [Keeps.record]
                  | with_reducible refine Keeps.of_snd ‹_ = (_, _)› ?_
                  | with_reducible refine Keeps.of_fst ‹_ = (_, _)› ?_
                  | with_reducible refine Keeps.of_fst3 ‹_ = (_, _, _)› ?_ | with_reducible apply Keeps.ite
                  | split | dsimp only)

theorem tableLoadEff_keeps {a s : State} {x0} (h : Keeps a s) :
    Keeps a (tableLoadEff x0 s) := by
  unfold tableLoadEff
  try dsimp only
  repeat' (first | with_reducible assumption | with_reducible apply State.setF_keeps | simp only [Keeps.record]
                  | with_reducible refine Keeps.of_snd ‹_ = (_, _)› ?_
                  | with_reducible refine Keeps.of_fst ‹_ = (_, _)› ?_
                  | with_reducible refine Keeps.of_fst3 ‹_ = (_, _, _)› ?_ | with_reducible apply Keeps.ite
                  | split | dsimp only)

theorem epochGoEff_keeps {a s : State} {x0} (h : Keeps a s) :
    Keeps a (epochGoEff x0 s) := by
  unfold epochGoEff
  try dsimp only
  repeat' (first | with_reducible assumption | with_reducible apply State.inject_keeps
                  | with_reducible refine Keeps.foldl (fun _ _ _ => ?_) ?_
                  | with_reducible refine Keeps.foldlFst (fun _ _ _ => ?_) ?_
                  | with_reducible refine Keeps.foldlSnd (fun _ _ _ => ?_) ?_ | simp only [Keeps.record]
                  | with_reducible refine Keeps.of_snd ‹_ = (_, _)› ?_
                  | with_reducible refine Keeps.of_fst ‹_ = (_, _)› ?_
                  | with_reducible refine Keeps.of_fst3 ‹_ = (_, _, _)› ?_ | with_reducible apply Keeps.ite
                  | split | dsimp only)

theorem State.putPiece_keeps {a s : State} {x1} (h : Keeps a s) :
    Keeps a (State.putPiece s x1) := by
  unfold State.putPiece
  try dsimp only
  repeat' (first | with_reducible assumption | simp only [Keeps.record]
                  | with_reducible refine Keeps.of_snd ‹_ = (_, _)› ?_
                  | with_reducible refine Keeps.of_fst ‹_ = (_, _)› ?_
                  | with_reducible refine Keeps.of_fst3 ‹_ = (_, _, _)› ?_ | with_reducible apply Keeps.ite
                  | split | dsimp only)

theorem State.epochSwitch_keeps {a s : State} (h : Keeps a s) :
    Keeps a (State.epochSwitch s) := by
  unfold State.epochSwitch
  try dsimp only
  repeat' (first | with_reducible assumption | with_reducible apply State.setF_keeps
                  | with_reducible apply State.incF_keeps | with_reducible apply State.wr_keeps
                  | with_reducible apply State.putPiece_keeps
                  | with_reducible refine Keeps.foldl (fun _ _ _ => ?_) ?_
                  | with_reducible refine Keeps.foldlFst (fun _ _ _ => ?_) ?_
                  | with_reducible refine Keeps.foldlSnd (fun _ _ _ => ?_) ?_ | simp only [Keeps.record]
                  | with_reducible refine Keeps.of_snd ‹_ = (_, _)› ?_
                  | with_reducible refine Keeps.of_fst ‹_ = (_, _)› ?_
                  | with_reducible refine Keeps.of_fst3 ‹_ = (_, _, _)› ?_ | with_reducible apply Keeps.ite
                  | split | dsimp only)

theorem epochEmptyEff_keeps {a s : State} {x0} (h : Keeps a s) :
    Keeps a (epochEmptyEff x0 s) := by
  unfold epochEmptyEff
  try dsimp only
  repeat' (first | with_reducible assumption | with_reducible apply State.setF_keeps
                  | with_reducible apply State.epochSwitch_keeps | simp only [Keeps.record]
                  | with_reducible refine Keeps.of_snd ‹_ = (_, _)› ?_
                  | with_reducible refine Keeps.of_fst ‹_ = (_, _)› ?_
                  | with_reducible refine Keeps.of_fst3 ‹_ = (_, _, _)› ?_ | with_reducible apply Keeps.ite
                  | split | dsimp only)

theorem State.mbxEnd_keeps {a s : State} {x1} {x2} (h : Keeps a s) :
    Keeps a (State.mbxEnd s x1 x2) := by
  unfold State.mbxEnd
  try dsimp only
  repeat' (first | with_reducible assumption | with_reducible apply State.setF_keeps
                  | with_reducible apply State.svcMsix_keeps | simp only [Keeps.record]
                  | with_reducible refine Keeps.of_snd ‹_ = (_, _)› ?_
                  | with_reducible refine Keeps.of_fst ‹_ = (_, _)› ?_
                  | with_reducible refine Keeps.of_fst3 ‹_ = (_, _, _)› ?_ | with_reducible apply Keeps.ite
                  | split | dsimp only)

theorem State.showIdentity_keeps {a s : State} (h : Keeps a s) :
    Keeps a (State.showIdentity s) := by
  unfold State.showIdentity
  try dsimp only
  repeat' (first | with_reducible assumption | with_reducible apply State.setF_keeps
                  | with_reducible apply State.wr_keeps | simp only [Keeps.record]
                  | with_reducible refine Keeps.of_snd ‹_ = (_, _)› ?_
                  | with_reducible refine Keeps.of_fst ‹_ = (_, _)› ?_
                  | with_reducible refine Keeps.of_fst3 ‹_ = (_, _, _)› ?_ | with_reducible apply Keeps.ite
                  | split | dsimp only)

theorem State.mbxBegin_keeps {a s : State} {x1} (h : Keeps a s) :
    Keeps a (State.mbxBegin s x1) := by
  unfold State.mbxBegin
  try dsimp only
  repeat' (first | with_reducible assumption | with_reducible apply State.setF_keeps | simp only [Keeps.record]
                  | with_reducible refine Keeps.of_snd ‹_ = (_, _)› ?_
                  | with_reducible refine Keeps.of_fst ‹_ = (_, _)› ?_
                  | with_reducible refine Keeps.of_fst3 ‹_ = (_, _, _)› ?_ | with_reducible apply Keeps.ite
                  | split | dsimp only)

theorem State.randomBytes_keeps {a s : State} {x1} (h : Keeps a s) :
    Keeps a (State.randomBytes s x1).2 := by
  unfold State.randomBytes
  try dsimp only
  repeat' (first | with_reducible assumption | with_reducible apply State.draw_keeps | simp only [Keeps.record]
                  | with_reducible refine Keeps.of_snd ‹_ = (_, _)› ?_
                  | with_reducible refine Keeps.of_fst ‹_ = (_, _)› ?_
                  | with_reducible refine Keeps.of_fst3 ‹_ = (_, _, _)› ?_ | with_reducible apply Keeps.ite
                  | split | dsimp only)

theorem State.showFuses_keeps {a s : State} (h : Keeps a s) :
    Keeps a (State.showFuses s) := by
  unfold State.showFuses
  try dsimp only
  repeat' (first | with_reducible assumption | with_reducible apply State.setF_keeps | simp only [Keeps.record]
                  | with_reducible refine Keeps.of_snd ‹_ = (_, _)› ?_
                  | with_reducible refine Keeps.of_fst ‹_ = (_, _)› ?_
                  | with_reducible refine Keeps.of_fst3 ‹_ = (_, _, _)› ?_ | with_reducible apply Keeps.ite
                  | split | dsimp only)

theorem State.mbxReply_keeps {a s : State} {x1} {x2} (h : Keeps a s) :
    Keeps a (State.mbxReply s x1 x2) := by
  unfold State.mbxReply
  try dsimp only
  repeat' (first | with_reducible assumption | with_reducible refine Keeps.foldl (fun _ _ _ => ?_) ?_
                  | with_reducible refine Keeps.foldlFst (fun _ _ _ => ?_) ?_
                  | with_reducible refine Keeps.foldlSnd (fun _ _ _ => ?_) ?_ | simp only [Keeps.record]
                  | with_reducible refine Keeps.of_snd ‹_ = (_, _)› ?_
                  | with_reducible refine Keeps.of_fst ‹_ = (_, _)› ?_
                  | with_reducible refine Keeps.of_fst3 ‹_ = (_, _, _)› ?_ | with_reducible apply Keeps.ite
                  | split | dsimp only)

theorem State.newNonce_keeps {a s : State} (h : Keeps a s) :
    Keeps a (State.newNonce s) := by
  unfold State.newNonce
  try dsimp only
  repeat' (first | with_reducible assumption | with_reducible apply State.draw_keeps
                  | with_reducible apply State.wr_keeps | simp only [Keeps.record]
                  | with_reducible refine Keeps.of_snd ‹_ = (_, _)› ?_
                  | with_reducible refine Keeps.of_fst ‹_ = (_, _)› ?_
                  | with_reducible refine Keeps.of_fst3 ‹_ = (_, _, _)› ?_ | with_reducible apply Keeps.ite
                  | split | dsimp only)

theorem State.mbxRun_keeps {a s : State} {x1} {x2} {x3} (h3 : ∀ y0, Keeps a y0 → Keeps a (x3 y0)) (h : Keeps a s) :
    Keeps a (State.mbxRun s x1 x2 x3) := by
  unfold State.mbxRun
  try dsimp only
  repeat' (first | with_reducible assumption | with_reducible apply State.setF_keeps
                  | with_reducible apply State.mbxEnd_keeps | simp only [Keeps.record] | with_reducible apply h3
                  | with_reducible refine Keeps.of_snd ‹_ = (_, _)› ?_
                  | with_reducible refine Keeps.of_fst ‹_ = (_, _)› ?_
                  | with_reducible refine Keeps.of_fst3 ‹_ = (_, _, _)› ?_ | with_reducible apply Keeps.ite
                  | split | dsimp only)

theorem State.setStep_keeps {a s : State} {x1} (h : Keeps a s) :
    Keeps a (State.setStep s x1) := by
  unfold State.setStep
  try dsimp only
  repeat' (first | with_reducible assumption | with_reducible apply State.setF_keeps | simp only [Keeps.record]
                  | with_reducible refine Keeps.of_snd ‹_ = (_, _)› ?_
                  | with_reducible refine Keeps.of_fst ‹_ = (_, _)› ?_
                  | with_reducible refine Keeps.of_fst3 ‹_ = (_, _, _)› ?_ | with_reducible apply Keeps.ite
                  | split | dsimp only)

theorem State.extendMeas_keeps {a s : State} {x1} {x2} (h : Keeps a s) :
    Keeps a (State.extendMeas s x1 x2) := by
  unfold State.extendMeas
  try dsimp only
  repeat' (first | with_reducible assumption | with_reducible apply State.wr_keeps
                  | with_reducible refine Keeps.foldl (fun _ _ _ => ?_) ?_
                  | with_reducible refine Keeps.foldlFst (fun _ _ _ => ?_) ?_
                  | with_reducible refine Keeps.foldlSnd (fun _ _ _ => ?_) ?_ | simp only [Keeps.record]
                  | with_reducible refine Keeps.of_snd ‹_ = (_, _)› ?_
                  | with_reducible refine Keeps.of_fst ‹_ = (_, _)› ?_
                  | with_reducible refine Keeps.of_fst3 ‹_ = (_, _, _)› ?_ | with_reducible apply Keeps.ite
                  | split | dsimp only)

theorem State.threadAnswer_keeps {a s : State} {x1} {x2} {x3} (h : Keeps a s) :
    Keeps a (State.threadAnswer s x1 x2 x3) := by
  unfold State.threadAnswer
  try dsimp only
  repeat' (first | with_reducible assumption | simp only [Keeps.record]
                  | with_reducible refine Keeps.of_snd ‹_ = (_, _)› ?_
                  | with_reducible refine Keeps.of_fst ‹_ = (_, _)› ?_
                  | with_reducible refine Keeps.of_fst3 ‹_ = (_, _, _)› ?_ | with_reducible apply Keeps.ite
                  | split | dsimp only)

theorem threadMgmtFrameEff_keeps {a s : State} {x0} {x1} (h : Keeps a s) :
    Keeps a (threadMgmtFrameEff x0 x1 s) := by
  unfold threadMgmtFrameEff
  try dsimp only
  repeat' (first | with_reducible assumption | with_reducible apply State.threadAnswer_keeps
                  | simp only [Keeps.record] | with_reducible refine Keeps.of_snd ‹_ = (_, _)› ?_
                  | with_reducible refine Keeps.of_fst ‹_ = (_, _)› ?_
                  | with_reducible refine Keeps.of_fst3 ‹_ = (_, _, _)› ?_ | with_reducible apply Keeps.ite
                  | split | dsimp only)

theorem State.showSaddle_keeps {a s : State} {x1} {x2} (h : Keeps a s) :
    Keeps a (State.showSaddle s x1 x2) := by
  unfold State.showSaddle
  try dsimp only
  repeat' (first | with_reducible assumption | with_reducible apply State.setF_keeps | simp only [Keeps.record]
                  | with_reducible refine Keeps.of_snd ‹_ = (_, _)› ?_
                  | with_reducible refine Keeps.of_fst ‹_ = (_, _)› ?_
                  | with_reducible refine Keeps.of_fst3 ‹_ = (_, _, _)› ?_ | with_reducible apply Keeps.ite
                  | split | dsimp only)

theorem State.showDiscovery_keeps {a s : State} (h : Keeps a s) :
    Keeps a (State.showDiscovery s) := by
  unfold State.showDiscovery
  try dsimp only
  repeat' (first | with_reducible assumption | with_reducible apply State.setF_keeps
                  | with_reducible refine Keeps.foldl (fun _ _ _ => ?_) ?_
                  | with_reducible refine Keeps.foldlFst (fun _ _ _ => ?_) ?_
                  | with_reducible refine Keeps.foldlSnd (fun _ _ _ => ?_) ?_ | simp only [Keeps.record]
                  | with_reducible refine Keeps.of_snd ‹_ = (_, _)› ?_
                  | with_reducible refine Keeps.of_fst ‹_ = (_, _)› ?_
                  | with_reducible refine Keeps.of_fst3 ‹_ = (_, _, _)› ?_ | with_reducible apply Keeps.ite
                  | split | dsimp only)

theorem State.discQuery_keeps {a s : State} {x1} (h : Keeps a s) :
    Keeps a (State.discQuery s x1) := by
  unfold State.discQuery
  try dsimp only
  repeat' (first | with_reducible assumption | simp only [Keeps.record]
                  | with_reducible refine Keeps.of_snd ‹_ = (_, _)› ?_
                  | with_reducible refine Keeps.of_fst ‹_ = (_, _)› ?_
                  | with_reducible refine Keeps.of_fst3 ‹_ = (_, _, _)› ?_ | with_reducible apply Keeps.ite
                  | split | dsimp only)

theorem State.discNext_keeps {a s : State} {x1} (h : Keeps a s) :
    Keeps a (State.discNext s x1) := by
  unfold State.discNext
  try dsimp only
  repeat' (first | with_reducible assumption | with_reducible apply State.discQuery_keeps
                  | with_reducible apply State.showDiscovery_keeps | with_reducible apply State.setF_keeps
                  | with_reducible apply State.setStep_keeps | with_reducible apply State.extendMeas_keeps
                  | simp only [Keeps.record] | with_reducible refine Keeps.of_snd ‹_ = (_, _)› ?_
                  | with_reducible refine Keeps.of_fst ‹_ = (_, _)› ?_
                  | with_reducible refine Keeps.of_fst3 ‹_ = (_, _, _)› ?_ | with_reducible apply Keeps.ite
                  | split | dsimp only)

theorem State.discFail_keeps {a s : State} {x1} {x2} (h : Keeps a s) :
    Keeps a (State.discFail s x1 x2) := by
  unfold State.discFail
  try dsimp only
  repeat' (first | with_reducible assumption | with_reducible apply State.discNext_keeps
                  | with_reducible apply State.bootStop_keeps | with_reducible apply State.showDiscovery_keeps
                  | simp only [Keeps.record] | with_reducible refine Keeps.of_snd ‹_ = (_, _)› ?_
                  | with_reducible refine Keeps.of_fst ‹_ = (_, _)› ?_
                  | with_reducible refine Keeps.of_fst3 ‹_ = (_, _, _)› ?_ | with_reducible apply Keeps.ite
                  | split | dsimp only)

theorem State.mgmtTimeout_keeps {a s : State} {x1} {x2} (h : Keeps a s) :
    Keeps a (State.mgmtTimeout s x1 x2) := by
  unfold State.mgmtTimeout
  try dsimp only
  repeat' (first | with_reducible assumption | with_reducible apply State.advance_keeps
                  | with_reducible apply State.threadAnswer_keeps | with_reducible apply State.err_keeps
                  | simp only [Keeps.record] | with_reducible refine Keeps.of_snd ‹_ = (_, _)› ?_
                  | with_reducible refine Keeps.of_fst ‹_ = (_, _)› ?_
                  | with_reducible refine Keeps.of_fst3 ‹_ = (_, _, _)› ?_ | with_reducible apply Keeps.ite
                  | split | dsimp only)

theorem threadFrameTimeoutEff_keeps {a s : State} {x0} (h : Keeps a s) :
    Keeps a (threadFrameTimeoutEff x0 s) := by
  unfold threadFrameTimeoutEff
  try dsimp only
  repeat' (first | with_reducible assumption | with_reducible apply State.advance_keeps
                  | with_reducible apply State.bootStop_keeps | with_reducible apply State.setF_keeps
                  | with_reducible apply State.showDiscovery_keeps | with_reducible apply State.wr_keeps
                  | with_reducible apply State.discFail_keeps | with_reducible apply State.mgmtTimeout_keeps
                  | simp only [Keeps.record] | with_reducible refine Keeps.of_snd ‹_ = (_, _)› ?_
                  | with_reducible refine Keeps.of_fst ‹_ = (_, _)› ?_
                  | with_reducible refine Keeps.of_fst3 ‹_ = (_, _, _)› ?_ | with_reducible apply Keeps.ite
                  | split | dsimp only)

theorem State.showPanel_keeps {a s : State} {x1} {x2} {x3} (h : Keeps a s) :
    Keeps a (State.showPanel s x1 x2 x3) := by
  unfold State.showPanel
  try dsimp only
  repeat' (first | with_reducible assumption | with_reducible apply State.setF_keeps | simp only [Keeps.record]
                  | with_reducible refine Keeps.of_snd ‹_ = (_, _)› ?_
                  | with_reducible refine Keeps.of_fst ‹_ = (_, _)› ?_
                  | with_reducible refine Keeps.of_fst3 ‹_ = (_, _, _)› ?_ | with_reducible apply Keeps.ite
                  | split | dsimp only)

theorem State.enablePorts_keeps {a s : State} {x1} {x2} (h : Keeps a s) :
    Keeps a (State.enablePorts s x1 x2) := by
  unfold State.enablePorts
  try dsimp only
  repeat' (first | with_reducible assumption | simp only [Keeps.record]
                  | with_reducible refine Keeps.of_snd ‹_ = (_, _)› ?_
                  | with_reducible refine Keeps.of_fst ‹_ = (_, _)› ?_
                  | with_reducible refine Keeps.of_fst3 ‹_ = (_, _, _)› ?_ | with_reducible apply Keeps.ite
                  | split | dsimp only)

theorem State.discReturn_keeps {a s : State} {x1} {x2} (h : Keeps a s) :
    Keeps a (State.discReturn s x1 x2) := by
  unfold State.discReturn
  try dsimp only
  repeat' (first | with_reducible assumption | with_reducible apply State.setF_keeps
                  | with_reducible apply State.showSaddle_keeps | with_reducible apply State.showPanel_keeps
                  | with_reducible apply State.discNext_keeps | with_reducible apply State.discFail_keeps
                  | simp only [Keeps.record] | with_reducible refine Keeps.of_snd ‹_ = (_, _)› ?_
                  | with_reducible refine Keeps.of_fst ‹_ = (_, _)› ?_
                  | with_reducible refine Keeps.of_fst3 ‹_ = (_, _, _)› ?_ | with_reducible apply Keeps.ite
                  | split | dsimp only)

theorem threadFrameReturnEff_keeps {a s : State} {x0} (h : Keeps a s) :
    Keeps a (threadFrameReturnEff x0 s) := by
  unfold threadFrameReturnEff
  try dsimp only
  repeat' (first | with_reducible assumption | with_reducible apply State.discReturn_keeps
                  | with_reducible apply State.threadAnswer_keeps | simp only [Keeps.record]
                  | with_reducible refine Keeps.of_snd ‹_ = (_, _)› ?_
                  | with_reducible refine Keeps.of_fst ‹_ = (_, _)› ?_
                  | with_reducible refine Keeps.of_fst3 ‹_ = (_, _, _)› ?_ | with_reducible apply Keeps.ite
                  | split | dsimp only)

theorem orientationDecodeEff_keeps {a s : State} {x0} {x1} {x2} {x3} {x4} (h : Keeps a s) :
    Keeps a (orientationDecodeEff x0 x1 x2 x3 x4 s) := by
  unfold orientationDecodeEff
  try dsimp only
  repeat' (first | with_reducible assumption | with_reducible apply State.fresh_keeps
                  | with_reducible apply State.enablePorts_keeps | simp only [Keeps.record]
                  | with_reducible refine Keeps.of_snd ‹_ = (_, _)› ?_
                  | with_reducible refine Keeps.of_fst ‹_ = (_, _)› ?_
                  | with_reducible refine Keeps.of_fst3 ‹_ = (_, _, _)› ?_ | with_reducible apply Keeps.ite
                  | split | dsimp only)

theorem strapReadEff_keeps {a s : State} {x0} {x1} (h : Keeps a s) :
    Keeps a (strapReadEff x0 x1 s) := by
  unfold strapReadEff
  try dsimp only
  repeat' (first | with_reducible assumption | with_reducible apply State.enablePorts_keeps | simp only [Keeps.record]
                  | with_reducible refine Keeps.of_snd ‹_ = (_, _)› ?_
                  | with_reducible refine Keeps.of_fst ‹_ = (_, _)› ?_
                  | with_reducible refine Keeps.of_fst3 ‹_ = (_, _, _)› ?_ | with_reducible apply Keeps.ite
                  | split | dsimp only)

theorem threadDiscoveryEff_keeps {a s : State} (h : Keeps a s) :
    Keeps a (threadDiscoveryEff s) := by
  unfold threadDiscoveryEff
  try dsimp only
  repeat' (first | with_reducible assumption | with_reducible apply State.discQuery_keeps
                  | with_reducible apply State.wr_keeps | simp only [Keeps.record]
                  | with_reducible refine Keeps.of_snd ‹_ = (_, _)› ?_
                  | with_reducible refine Keeps.of_fst ‹_ = (_, _)› ?_
                  | with_reducible refine Keeps.of_fst3 ‹_ = (_, _, _)› ?_ | with_reducible apply Keeps.ite
                  | split | dsimp only)

theorem State.showHoldover_keeps {a s : State} (h : Keeps a s) :
    Keeps a (State.showHoldover s) := by
  unfold State.showHoldover
  try dsimp only
  repeat' (first | with_reducible assumption | with_reducible apply State.setF_keeps | simp only [Keeps.record]
                  | with_reducible refine Keeps.of_snd ‹_ = (_, _)› ?_
                  | with_reducible refine Keeps.of_fst ‹_ = (_, _)› ?_
                  | with_reducible refine Keeps.of_fst3 ‹_ = (_, _, _)› ?_ | with_reducible apply Keeps.ite
                  | split | dsimp only)

theorem refclkLossEff_keeps {a s : State} {x0} (h : Keeps a s) :
    Keeps a (refclkLossEff x0 s) := by
  unfold refclkLossEff
  try dsimp only
  repeat' (first | with_reducible assumption | with_reducible apply State.showHoldover_keeps
                  | with_reducible apply State.setFbit_keeps | with_reducible apply State.setF_keeps
                  | with_reducible apply State.err_keeps | simp only [Keeps.record]
                  | with_reducible refine Keeps.of_snd ‹_ = (_, _)› ?_
                  | with_reducible refine Keeps.of_fst ‹_ = (_, _)› ?_
                  | with_reducible refine Keeps.of_fst3 ‹_ = (_, _, _)› ?_ | with_reducible apply Keeps.ite
                  | split | dsimp only)

theorem deadlineSetEff_keeps {a s : State} {x0} {x1} (h : Keeps a s) :
    Keeps a (deadlineSetEff x0 x1 s) := by
  unfold deadlineSetEff
  try dsimp only
  repeat' (first | with_reducible assumption | with_reducible apply State.reply_keeps | simp only [Keeps.record]
                  | with_reducible refine Keeps.of_snd ‹_ = (_, _)› ?_
                  | with_reducible refine Keeps.of_fst ‹_ = (_, _)› ?_
                  | with_reducible refine Keeps.of_fst3 ‹_ = (_, _, _)› ?_ | with_reducible apply Keeps.ite
                  | split | dsimp only)

theorem paceClrEff_keeps {a s : State} {x0} (h : Keeps a s) :
    Keeps a (paceClrEff x0 s) := by
  unfold paceClrEff
  try dsimp only
  repeat' (first | with_reducible assumption | simp only [Keeps.record]
                  | with_reducible refine Keeps.of_snd ‹_ = (_, _)› ?_
                  | with_reducible refine Keeps.of_fst ‹_ = (_, _)› ?_
                  | with_reducible refine Keeps.of_fst3 ‹_ = (_, _, _)› ?_ | with_reducible apply Keeps.ite
                  | split | dsimp only)

theorem State.putDeadline_keeps {a s : State} {x1} {x2} (h : Keeps a s) :
    Keeps a (State.putDeadline s x1 x2) := by
  unfold State.putDeadline
  try dsimp only
  repeat' (first | with_reducible assumption | with_reducible apply State.wr_keeps | simp only [Keeps.record]
                  | with_reducible refine Keeps.of_snd ‹_ = (_, _)› ?_
                  | with_reducible refine Keeps.of_fst ‹_ = (_, _)› ?_
                  | with_reducible refine Keeps.of_fst3 ‹_ = (_, _, _)› ?_ | with_reducible apply Keeps.ite
                  | split | dsimp only)

theorem brownOutResumeEff_keeps {a s : State} {x0} {x1} (h : Keeps a s) :
    Keeps a (brownOutResumeEff x0 x1 s) := by
  unfold brownOutResumeEff
  try dsimp only
  repeat' (first | with_reducible assumption | simp only [Keeps.record]
                  | with_reducible refine Keeps.of_snd ‹_ = (_, _)› ?_
                  | with_reducible refine Keeps.of_fst ‹_ = (_, _)› ?_
                  | with_reducible refine Keeps.of_fst3 ‹_ = (_, _, _)› ?_ | with_reducible apply Keeps.ite
                  | split | dsimp only)

theorem State.boundAll_keeps {a s : State} (h : Keeps a s) :
    Keeps a (State.boundAll s) := by
  unfold State.boundAll
  try dsimp only
  repeat' (first | with_reducible assumption | with_reducible apply State.putDeadline_keeps
                  | with_reducible refine Keeps.foldl (fun _ _ _ => ?_) ?_
                  | with_reducible refine Keeps.foldlFst (fun _ _ _ => ?_) ?_
                  | with_reducible refine Keeps.foldlSnd (fun _ _ _ => ?_) ?_ | simp only [Keeps.record]
                  | with_reducible refine Keeps.of_snd ‹_ = (_, _)› ?_
                  | with_reducible refine Keeps.of_fst ‹_ = (_, _)› ?_
                  | with_reducible refine Keeps.of_fst3 ‹_ = (_, _, _)› ?_ | with_reducible apply Keeps.ite
                  | split | dsimp only)

theorem State.broadcastDeadlines_keeps {a s : State} {x1} (h : Keeps a s) :
    Keeps a (State.broadcastDeadlines s x1) := by
  unfold State.broadcastDeadlines
  try dsimp only
  repeat' (first | with_reducible assumption | simp only [Keeps.record]
                  | with_reducible refine Keeps.of_snd ‹_ = (_, _)› ?_
                  | with_reducible refine Keeps.of_fst ‹_ = (_, _)› ?_
                  | with_reducible refine Keeps.of_fst3 ‹_ = (_, _, _)› ?_ | with_reducible apply Keeps.ite
                  | split | dsimp only)

theorem State.endHoldover_keeps {a s : State} {x1} (h : Keeps a s) :
    Keeps a (State.endHoldover s x1) := by
  unfold State.endHoldover
  try dsimp only
  repeat' (first | with_reducible assumption | with_reducible apply State.showHoldover_keeps
                  | with_reducible apply State.setFbit_keeps | simp only [Keeps.record]
                  | with_reducible refine Keeps.of_snd ‹_ = (_, _)› ?_
                  | with_reducible refine Keeps.of_fst ‹_ = (_, _)› ?_
                  | with_reducible refine Keeps.of_fst3 ‹_ = (_, _, _)› ?_ | with_reducible apply Keeps.ite
                  | split | dsimp only)

theorem replicaRealignedEff_keeps {a s : State} {x0} (h : Keeps a s) :
    Keeps a (replicaRealignedEff x0 s) := by
  unfold replicaRealignedEff
  try dsimp only
  repeat' (first | with_reducible assumption | with_reducible apply State.endHoldover_keeps | simp only [Keeps.record]
                  | with_reducible refine Keeps.of_snd ‹_ = (_, _)› ?_
                  | with_reducible refine Keeps.of_fst ‹_ = (_, _)› ?_
                  | with_reducible refine Keeps.of_fst3 ‹_ = (_, _, _)› ?_ | with_reducible apply Keeps.ite
                  | split | dsimp only)

theorem brownOutParkEff_keeps {a s : State} {x0} {x1} (h : Keeps a s) :
    Keeps a (brownOutParkEff x0 x1 s) := by
  unfold brownOutParkEff
  try dsimp only
  repeat' (first | with_reducible assumption | simp only [Keeps.record]
                  | with_reducible refine Keeps.of_snd ‹_ = (_, _)› ?_
                  | with_reducible refine Keeps.of_fst ‹_ = (_, _)› ?_
                  | with_reducible refine Keeps.of_fst3 ‹_ = (_, _, _)› ?_ | with_reducible apply Keeps.ite
                  | split | dsimp only)

theorem refclkRelockEff_keeps {a s : State} {x0} (h : Keeps a s) :
    Keeps a (refclkRelockEff x0 s) := by
  unfold refclkRelockEff
  try dsimp only
  repeat' (first | with_reducible assumption | with_reducible apply State.endHoldover_keeps | simp only [Keeps.record]
                  | with_reducible refine Keeps.of_snd ‹_ = (_, _)› ?_
                  | with_reducible refine Keeps.of_fst ‹_ = (_, _)› ?_
                  | with_reducible refine Keeps.of_fst3 ‹_ = (_, _, _)› ?_ | with_reducible apply Keeps.ite
                  | split | dsimp only)

theorem State.setDeadline_keeps {a s : State} {x1} {x2} (h : Keeps a s) :
    Keeps a (State.setDeadline s x1 x2) := by
  unfold State.setDeadline
  try dsimp only
  repeat' (first | with_reducible assumption | with_reducible apply State.boundAll_keeps
                  | with_reducible apply State.putDeadline_keeps | simp only [Keeps.record]
                  | with_reducible refine Keeps.of_snd ‹_ = (_, _)› ?_
                  | with_reducible refine Keeps.of_fst ‹_ = (_, _)› ?_
                  | with_reducible refine Keeps.of_fst3 ‹_ = (_, _, _)› ?_ | with_reducible apply Keeps.ite
                  | split | dsimp only)

theorem deadlineWriteEff_keeps {a s : State} {x0} {x1} {x2} (h : Keeps a s) :
    Keeps a (deadlineWriteEff x0 x1 x2 s) := by
  unfold deadlineWriteEff
  try dsimp only
  repeat' (first | with_reducible assumption | with_reducible apply State.reply_keeps
                  | with_reducible apply State.kwViolation_keeps
                  | with_reducible apply State.broadcastDeadlines_keeps
                  | with_reducible apply State.setDeadline_keeps | simp only [Keeps.record]
                  | with_reducible refine Keeps.of_snd ‹_ = (_, _)› ?_
                  | with_reducible refine Keeps.of_fst ‹_ = (_, _)› ?_
                  | with_reducible refine Keeps.of_fst3 ‹_ = (_, _, _)› ?_ | with_reducible apply Keeps.ite
                  | split | dsimp only)

theorem lateCompletionEff_keeps {a s : State} {x0} (h : Keeps a s) :
    Keeps a (lateCompletionEff x0 s) := by
  unfold lateCompletionEff
  try dsimp only
  repeat' (first | with_reducible assumption | simp only [Keeps.record]
                  | with_reducible refine Keeps.of_snd ‹_ = (_, _)› ?_
                  | with_reducible refine Keeps.of_fst ‹_ = (_, _)› ?_
                  | with_reducible refine Keeps.of_fst3 ‹_ = (_, _, _)› ?_ | with_reducible apply Keeps.ite
                  | split | dsimp only)

theorem State.paceStop_keeps {a s : State} {x1} (h : Keeps a s) :
    Keeps a (State.paceStop s x1) := by
  unfold State.paceStop
  try dsimp only
  repeat' (first | with_reducible assumption | with_reducible apply State.wr_keeps | simp only [Keeps.record]
                  | with_reducible refine Keeps.of_snd ‹_ = (_, _)› ?_
                  | with_reducible refine Keeps.of_fst ‹_ = (_, _)› ?_
                  | with_reducible refine Keeps.of_fst3 ‹_ = (_, _, _)› ?_ | with_reducible apply Keeps.ite
                  | split | dsimp only)

theorem paceWindowEndEff_keeps {a s : State} {x0} {x1} (h : Keeps a s) :
    Keeps a (paceWindowEndEff x0 x1 s) := by
  unfold paceWindowEndEff
  try dsimp only
  repeat' (first | with_reducible assumption | with_reducible apply State.advance_keeps
                  | with_reducible apply State.setF_keeps | simp only [Keeps.record]
                  | with_reducible refine Keeps.of_snd ‹_ = (_, _)› ?_
                  | with_reducible refine Keeps.of_fst ‹_ = (_, _)› ?_
                  | with_reducible refine Keeps.of_fst3 ‹_ = (_, _, _)› ?_ | with_reducible apply Keeps.ite
                  | split | dsimp only)

theorem State.copyDeadlines_keeps {a s : State} (h : Keeps a s) :
    Keeps a (State.copyDeadlines s) := by
  unfold State.copyDeadlines
  try dsimp only
  repeat' (first | with_reducible assumption | with_reducible refine Keeps.foldl (fun _ _ _ => ?_) ?_
                  | with_reducible refine Keeps.foldlFst (fun _ _ _ => ?_) ?_
                  | with_reducible refine Keeps.foldlSnd (fun _ _ _ => ?_) ?_ | simp only [Keeps.record]
                  | with_reducible refine Keeps.of_snd ‹_ = (_, _)› ?_
                  | with_reducible refine Keeps.of_fst ‹_ = (_, _)› ?_
                  | with_reducible refine Keeps.of_fst3 ‹_ = (_, _, _)› ?_ | with_reducible apply Keeps.ite
                  | split | dsimp only)

theorem State.patResult_keeps {a s : State} {x1} {x2} {x3} {x4} (h : Keeps a s) :
    Keeps a (State.patResult s x1 x2 x3 x4) := by
  unfold State.patResult
  try dsimp only
  repeat' (first | with_reducible assumption | with_reducible apply State.setF_keeps | simp only [Keeps.record]
                  | with_reducible refine Keeps.of_snd ‹_ = (_, _)› ?_
                  | with_reducible refine Keeps.of_fst ‹_ = (_, _)› ?_
                  | with_reducible refine Keeps.of_fst3 ‹_ = (_, _, _)› ?_ | with_reducible apply Keeps.ite
                  | split | dsimp only)

theorem State.applyDeadlines_keeps {a s : State} {x1} {x2} (h : Keeps a s) :
    Keeps a (State.applyDeadlines s x1 x2) := by
  unfold State.applyDeadlines
  try dsimp only
  repeat' (first | with_reducible assumption | with_reducible apply State.putDeadline_keeps
                  | with_reducible apply State.boundAll_keeps
                  | with_reducible refine Keeps.foldl (fun _ _ _ => ?_) ?_
                  | with_reducible refine Keeps.foldlFst (fun _ _ _ => ?_) ?_
                  | with_reducible refine Keeps.foldlSnd (fun _ _ _ => ?_) ?_ | simp only [Keeps.record]
                  | with_reducible refine Keeps.of_snd ‹_ = (_, _)› ?_
                  | with_reducible refine Keeps.of_fst ‹_ = (_, _)› ?_
                  | with_reducible refine Keeps.of_fst3 ‹_ = (_, _, _)› ?_ | with_reducible apply Keeps.ite
                  | split | dsimp only)

theorem State.configBank_keeps {a s : State} {x1} (h : Keeps a s) :
    Keeps a (State.configBank s x1) := by
  unfold State.configBank
  try dsimp only
  repeat' (first | with_reducible assumption | with_reducible apply State.setF_keeps
                  | with_reducible apply State.refreshBank_keeps | simp only [Keeps.record]
                  | with_reducible refine Keeps.of_snd ‹_ = (_, _)› ?_
                  | with_reducible refine Keeps.of_fst ‹_ = (_, _)› ?_
                  | with_reducible refine Keeps.of_fst3 ‹_ = (_, _, _)› ?_ | with_reducible apply Keeps.ite
                  | split | dsimp only)

theorem State.applyPiece_keeps {a s : State} {x0} {x2} (h : Keeps a s) :
    Keeps a (State.applyPiece x0 s x2) := by
  unfold State.applyPiece
  try dsimp only
  repeat' (first | with_reducible assumption | with_reducible apply State.applyDeadlines_keeps
                  | with_reducible apply State.putPiece_keeps
                  | with_reducible apply State.broadcastDeadlines_keeps
                  | with_reducible apply State.beginWays_keeps | with_reducible apply State.configBank_keeps
                  | with_reducible refine Keeps.foldl (fun _ _ _ => ?_) ?_
                  | with_reducible refine Keeps.foldlFst (fun _ _ _ => ?_) ?_
                  | with_reducible refine Keeps.foldlSnd (fun _ _ _ => ?_) ?_ | simp only [Keeps.record]
                  | with_reducible refine Keeps.of_snd ‹_ = (_, _)› ?_
                  | with_reducible refine Keeps.of_fst ‹_ = (_, _)› ?_
                  | with_reducible refine Keeps.of_fst3 ‹_ = (_, _, _)› ?_ | with_reducible apply Keeps.ite
                  | split | dsimp only)

theorem State.submitAlter_keeps {a s : State} {x1} {x2} {x3} {x4} (h : Keeps a s) :
    Keeps a (State.submitAlter s x1 x2 x3 x4).2 := by
  unfold State.submitAlter
  try dsimp only
  repeat' (first | with_reducible assumption | with_reducible apply State.patResult_keeps
                  | with_reducible apply State.setF_keeps | with_reducible apply State.applyPiece_keeps
                  | with_reducible refine Keeps.foldl (fun _ _ _ => ?_) ?_
                  | with_reducible refine Keeps.foldlFst (fun _ _ _ => ?_) ?_
                  | with_reducible refine Keeps.foldlSnd (fun _ _ _ => ?_) ?_ | simp only [Keeps.record]
                  | with_reducible refine Keeps.of_snd ‹_ = (_, _)› ?_
                  | with_reducible refine Keeps.of_fst ‹_ = (_, _)› ?_
                  | with_reducible refine Keeps.of_fst3 ‹_ = (_, _, _)› ?_ | with_reducible apply Keeps.ite
                  | split | dsimp only)

theorem State.baseStore_keeps {a s : State} {x1} (h : Keeps a s) :
    Keeps a (State.baseStore s x1) := by
  unfold State.baseStore
  try dsimp only
  repeat' (first | with_reducible assumption | with_reducible apply State.setF_keeps
                  | with_reducible apply State.wr_keeps | with_reducible refine Keeps.foldl (fun _ _ _ => ?_) ?_
                  | with_reducible refine Keeps.foldlFst (fun _ _ _ => ?_) ?_
                  | with_reducible refine Keeps.foldlSnd (fun _ _ _ => ?_) ?_ | simp only [Keeps.record]
                  | with_reducible refine Keeps.of_snd ‹_ = (_, _)› ?_
                  | with_reducible refine Keeps.of_fst ‹_ = (_, _)› ?_
                  | with_reducible refine Keeps.of_fst3 ‹_ = (_, _, _)› ?_ | with_reducible apply Keeps.ite
                  | split | dsimp only)

theorem State.configPanel_keeps {a s : State} {x1} (h : Keeps a s) :
    Keeps a (State.configPanel s x1) := by
  unfold State.configPanel
  try dsimp only
  repeat' (first | with_reducible assumption | with_reducible apply State.wr_keeps
                  | with_reducible apply State.setF_keeps | simp only [Keeps.record]
                  | with_reducible refine Keeps.of_snd ‹_ = (_, _)› ?_
                  | with_reducible refine Keeps.of_fst ‹_ = (_, _)› ?_
                  | with_reducible refine Keeps.of_fst3 ‹_ = (_, _, _)› ?_ | with_reducible apply Keeps.ite
                  | split | dsimp only)

theorem State.assertRailEn_keeps {a s : State} (h : Keeps a s) :
    Keeps a (State.assertRailEn s) := by
  unfold State.assertRailEn
  try dsimp only
  repeat' (first | with_reducible assumption | with_reducible apply State.setStep_keeps | simp only [Keeps.record]
                  | with_reducible refine Keeps.of_snd ‹_ = (_, _)› ?_
                  | with_reducible refine Keeps.of_fst ‹_ = (_, _)› ?_
                  | with_reducible refine Keeps.of_fst3 ‹_ = (_, _, _)› ?_ | with_reducible apply Keeps.ite
                  | split | dsimp only)

theorem State.baseMeasure_keeps {a s : State} {x1} (h : Keeps a s) :
    Keeps a (State.baseMeasure s x1) := by
  unfold State.baseMeasure
  try dsimp only
  repeat' (first | with_reducible assumption | with_reducible apply State.extendMeas_keeps | simp only [Keeps.record]
                  | with_reducible refine Keeps.of_snd ‹_ = (_, _)› ?_
                  | with_reducible refine Keeps.of_fst ‹_ = (_, _)› ?_
                  | with_reducible refine Keeps.of_fst3 ‹_ = (_, _, _)› ?_ | with_reducible apply Keeps.ite
                  | split | dsimp only)

theorem State.configSaddle_keeps {a s : State} {x1} (h : Keeps a s) :
    Keeps a (State.configSaddle s x1) := by
  unfold State.configSaddle
  try dsimp only
  repeat' (first | with_reducible assumption | with_reducible apply State.setF_keeps
                  | with_reducible refine Keeps.foldl (fun _ _ _ => ?_) ?_
                  | with_reducible refine Keeps.foldlFst (fun _ _ _ => ?_) ?_
                  | with_reducible refine Keeps.foldlSnd (fun _ _ _ => ?_) ?_ | simp only [Keeps.record]
                  | with_reducible refine Keeps.of_snd ‹_ = (_, _)› ?_
                  | with_reducible refine Keeps.of_fst ‹_ = (_, _)› ?_
                  | with_reducible refine Keeps.of_fst3 ‹_ = (_, _, _)› ?_ | with_reducible apply Keeps.ite
                  | split | dsimp only)

theorem State.configMc_keeps {a s : State} {x1} (h : Keeps a s) :
    Keeps a (State.configMc s x1) := by
  unfold State.configMc
  try dsimp only
  repeat' (first | with_reducible assumption | with_reducible apply State.setF_keeps | simp only [Keeps.record]
                  | with_reducible refine Keeps.of_snd ‹_ = (_, _)› ?_
                  | with_reducible refine Keeps.of_fst ‹_ = (_, _)› ?_
                  | with_reducible refine Keeps.of_fst3 ‹_ = (_, _, _)› ?_ | with_reducible apply Keeps.ite
                  | split | dsimp only)

theorem State.configBobbin_keeps {a s : State} {x1} (h : Keeps a s) :
    Keeps a (State.configBobbin s x1) := by
  unfold State.configBobbin
  try dsimp only
  repeat' (first | with_reducible assumption | with_reducible apply State.setF_keeps
                  | with_reducible refine Keeps.foldl (fun _ _ _ => ?_) ?_
                  | with_reducible refine Keeps.foldlFst (fun _ _ _ => ?_) ?_
                  | with_reducible refine Keeps.foldlSnd (fun _ _ _ => ?_) ?_ | simp only [Keeps.record]
                  | with_reducible refine Keeps.of_snd ‹_ = (_, _)› ?_
                  | with_reducible refine Keeps.of_fst ‹_ = (_, _)› ?_
                  | with_reducible refine Keeps.of_fst3 ‹_ = (_, _, _)› ?_ | with_reducible apply Keeps.ite
                  | split | dsimp only)

theorem State.panelsOff_keeps {a s : State} (h : Keeps a s) :
    Keeps a (State.panelsOff s) := by
  unfold State.panelsOff
  try dsimp only
  repeat' (first | with_reducible assumption | with_reducible apply State.setPanelState_keeps
                  | with_reducible refine Keeps.foldl (fun _ _ _ => ?_) ?_
                  | with_reducible refine Keeps.foldlFst (fun _ _ _ => ?_) ?_
                  | with_reducible refine Keeps.foldlSnd (fun _ _ _ => ?_) ?_ | simp only [Keeps.record]
                  | with_reducible refine Keeps.of_snd ‹_ = (_, _)› ?_
                  | with_reducible refine Keeps.of_fst ‹_ = (_, _)› ?_
                  | with_reducible refine Keeps.of_fst3 ‹_ = (_, _, _)› ?_ | with_reducible apply Keeps.ite
                  | split | dsimp only)

theorem State.configVreq_keeps {a s : State} (h : Keeps a s) :
    Keeps a (State.configVreq s) := by
  unfold State.configVreq
  try dsimp only
  repeat' (first | with_reducible assumption | with_reducible apply State.setF_keeps
                  | with_reducible refine Keeps.foldl (fun _ _ _ => ?_) ?_
                  | with_reducible refine Keeps.foldlFst (fun _ _ _ => ?_) ?_
                  | with_reducible refine Keeps.foldlSnd (fun _ _ _ => ?_) ?_ | simp only [Keeps.record]
                  | with_reducible refine Keeps.of_snd ‹_ = (_, _)› ?_
                  | with_reducible refine Keeps.of_fst ‹_ = (_, _)› ?_
                  | with_reducible refine Keeps.of_fst3 ‹_ = (_, _, _)› ?_ | with_reducible apply Keeps.ite
                  | split | dsimp only)

theorem State.configDebug_keeps {a s : State} (h : Keeps a s) :
    Keeps a (State.configDebug s) := by
  unfold State.configDebug
  try dsimp only
  repeat' (first | with_reducible assumption | with_reducible apply State.wr_keeps | simp only [Keeps.record]
                  | with_reducible refine Keeps.of_snd ‹_ = (_, _)› ?_
                  | with_reducible refine Keeps.of_fst ‹_ = (_, _)› ?_
                  | with_reducible refine Keeps.of_fst3 ‹_ = (_, _, _)› ?_ | with_reducible apply Keeps.ite
                  | split | dsimp only)

theorem State.baseConfig_keeps {a s : State} (h : Keeps a s) :
    Keeps a (State.baseConfig s) := by
  unfold State.baseConfig
  try dsimp only
  repeat' (first | with_reducible assumption | with_reducible apply State.configPanel_keeps
                  | with_reducible apply State.configSaddle_keeps | with_reducible apply State.configMc_keeps
                  | with_reducible apply State.configBank_keeps | with_reducible apply State.configBobbin_keeps
                  | with_reducible apply State.panelsOff_keeps | with_reducible apply State.configVreq_keeps
                  | with_reducible apply State.configDebug_keeps
                  | with_reducible apply State.applyDeadlines_keeps | with_reducible apply State.boundAll_keeps
                  | with_reducible apply State.copyDeadlines_keeps
                  | with_reducible refine Keeps.foldl (fun _ _ _ => ?_) ?_
                  | with_reducible refine Keeps.foldlFst (fun _ _ _ => ?_) ?_
                  | with_reducible refine Keeps.foldlSnd (fun _ _ _ => ?_) ?_ | simp only [Keeps.record]
                  | with_reducible refine Keeps.of_snd ‹_ = (_, _)› ?_
                  | with_reducible refine Keeps.of_fst ‹_ = (_, _)› ?_
                  | with_reducible refine Keeps.of_fst3 ‹_ = (_, _, _)› ?_ | with_reducible apply Keeps.ite
                  | split | dsimp only)

theorem State.applyBase_keeps {a s : State} {x1} (h : Keeps a s) :
    Keeps a (State.applyBase s x1) := by
  unfold State.applyBase
  try dsimp only
  repeat' (first | with_reducible assumption | with_reducible apply State.assertRailEn_keeps
                  | with_reducible apply State.baseMeasure_keeps | with_reducible apply State.baseConfig_keeps
                  | with_reducible apply State.baseStore_keeps | simp only [Keeps.record]
                  | with_reducible refine Keeps.of_snd ‹_ = (_, _)› ?_
                  | with_reducible refine Keeps.of_fst ‹_ = (_, _)› ?_
                  | with_reducible refine Keeps.of_fst3 ‹_ = (_, _, _)› ?_ | with_reducible apply Keeps.ite
                  | split | dsimp only)

theorem State.tryBase_keeps {a s : State} {x1} {x2} (h : Keeps a s) :
    Keeps a (State.tryBase s x1 x2).2 := by
  unfold State.tryBase
  try dsimp only
  repeat' (first | with_reducible assumption | with_reducible apply State.patResult_keeps
                  | with_reducible apply State.applyBase_keeps | simp only [Keeps.record]
                  | with_reducible refine Keeps.of_snd ‹_ = (_, _)› ?_
                  | with_reducible refine Keeps.of_fst ‹_ = (_, _)› ?_
                  | with_reducible refine Keeps.of_fst3 ‹_ = (_, _, _)› ?_ | with_reducible apply Keeps.ite
                  | split | dsimp only)

theorem patternLoadEff_keeps {a s : State} (h : Keeps a s) :
    Keeps a (patternLoadEff s) := by
  unfold patternLoadEff
  try dsimp only
  repeat' (first | with_reducible assumption | with_reducible apply State.tryBase_keeps
                  | with_reducible apply State.svcMsix_keeps | simp only [Keeps.record]
                  | with_reducible refine Keeps.of_snd ‹_ = (_, _)› ?_
                  | with_reducible refine Keeps.of_fst ‹_ = (_, _)› ?_
                  | with_reducible refine Keeps.of_fst3 ‹_ = (_, _, _)› ?_ | with_reducible apply Keeps.ite
                  | split | dsimp only)

theorem loadPatternEff_keeps {a s : State} {x0} (h : Keeps a s) :
    Keeps a (loadPatternEff x0 s) := by
  unfold loadPatternEff
  try dsimp only
  repeat' (first | with_reducible assumption | with_reducible refine State.mbxRun_keeps (fun _ _ => ?_) ?_
                  | with_reducible apply State.tryBase_keeps | with_reducible apply State.mbxEnd_keeps
                  | with_reducible apply State.svcMsix_keeps | simp only [Keeps.record]
                  | with_reducible refine Keeps.of_snd ‹_ = (_, _)› ?_
                  | with_reducible refine Keeps.of_fst ‹_ = (_, _)› ?_
                  | with_reducible refine Keeps.of_fst3 ‹_ = (_, _, _)› ?_ | with_reducible apply Keeps.ite
                  | split | dsimp only)

theorem alterEff_keeps {a s : State} {x0} (h : Keeps a s) :
    Keeps a (alterEff x0 s) := by
  unfold alterEff
  try dsimp only
  repeat' (first | with_reducible assumption | with_reducible refine State.mbxRun_keeps (fun _ _ => ?_) ?_
                  | with_reducible apply State.submitAlter_keeps | with_reducible apply State.mbxBegin_keeps
                  | with_reducible apply State.mbxEnd_keeps | with_reducible apply State.svcMsix_keeps
                  | simp only [Keeps.record] | with_reducible refine Keeps.of_snd ‹_ = (_, _)› ?_
                  | with_reducible refine Keeps.of_fst ‹_ = (_, _)› ?_
                  | with_reducible refine Keeps.of_fst3 ‹_ = (_, _, _)› ?_ | with_reducible apply Keeps.ite
                  | split | dsimp only)

theorem State.quietEnter_keeps {a s : State} {x1} (h : Keeps a s) :
    Keeps a (State.quietEnter s x1) := by
  unfold State.quietEnter
  try dsimp only
  repeat' (first | with_reducible assumption | with_reducible apply State.setSaddleState_keeps
                  | with_reducible apply State.selfRefresh_keeps
                  | with_reducible refine Keeps.foldl (fun _ _ _ => ?_) ?_
                  | with_reducible refine Keeps.foldlFst (fun _ _ _ => ?_) ?_
                  | with_reducible refine Keeps.foldlSnd (fun _ _ _ => ?_) ?_ | simp only [Keeps.record]
                  | with_reducible refine Keeps.of_snd ‹_ = (_, _)› ?_
                  | with_reducible refine Keeps.of_fst ‹_ = (_, _)› ?_
                  | with_reducible refine Keeps.of_fst3 ‹_ = (_, _, _)› ?_ | with_reducible apply Keeps.ite
                  | split | dsimp only)

theorem State.dimEnd_keeps {a s : State} {x1} (h : Keeps a s) :
    Keeps a (State.dimEnd s x1) := by
  unfold State.dimEnd
  try dsimp only
  repeat' (first | with_reducible assumption | with_reducible apply State.updHart_keeps
                  | with_reducible apply State.setPanelState_keeps | with_reducible apply State.wakeHart_keeps
                  | with_reducible refine Keeps.foldl (fun _ _ _ => ?_) ?_
                  | with_reducible refine Keeps.foldlFst (fun _ _ _ => ?_) ?_
                  | with_reducible refine Keeps.foldlSnd (fun _ _ _ => ?_) ?_ | simp only [Keeps.record]
                  | with_reducible refine Keeps.of_snd ‹_ = (_, _)› ?_
                  | with_reducible refine Keeps.of_fst ‹_ = (_, _)› ?_
                  | with_reducible refine Keeps.of_fst3 ‹_ = (_, _, _)› ?_ | with_reducible apply Keeps.ite
                  | split | dsimp only)

theorem State.dimFlush_keeps {a s : State} {x1} (h : Keeps a s) :
    Keeps a (State.dimFlush s x1) := by
  unfold State.dimFlush
  try dsimp only
  repeat' (first | with_reducible assumption | with_reducible apply State.evictL2_keeps
                  | with_reducible apply State.updHart_keeps
                  | with_reducible refine Keeps.foldl (fun _ _ _ => ?_) ?_
                  | with_reducible refine Keeps.foldlFst (fun _ _ _ => ?_) ?_
                  | with_reducible refine Keeps.foldlSnd (fun _ _ _ => ?_) ?_ | simp only [Keeps.record]
                  | with_reducible exact KeepsO.none | with_reducible apply KeepsO.some
                  | with_reducible exact KeepsO.fstNone | with_reducible exact KeepsO.sndNone
                  | with_reducible apply KeepsO.fst | with_reducible apply KeepsO.snd
                  | with_reducible refine KeepsO.map (fun _ _ => ?_) ?_ | with_reducible apply KeepsO.getD
                  | with_reducible apply KeepsO.sndPut | with_reducible refine Keeps.of_some ‹_ = some _› ?_
                  | with_reducible refine Keeps.of_someFst ‹_ = some (_, _)› ?_
                  | with_reducible refine Keeps.of_someSnd ‹_ = some (_, _)› ?_
                  | with_reducible refine Keeps.of_someP1 ‹_ = some _› ?_
                  | with_reducible refine Keeps.of_snd ‹_ = (_, _)› ?_
                  | with_reducible refine Keeps.of_fst ‹_ = (_, _)› ?_
                  | with_reducible refine Keeps.of_fst3 ‹_ = (_, _, _)› ?_ | with_reducible apply Keeps.ite
                  | split | dsimp only)

theorem State.showTarget_keeps {a s : State} {x1} {x2} (h : Keeps a s) :
    Keeps a (State.showTarget s x1 x2) := by
  unfold State.showTarget
  try dsimp only
  repeat' (first | with_reducible assumption | with_reducible apply State.setF_keeps | simp only [Keeps.record]
                  | with_reducible refine Keeps.of_snd ‹_ = (_, _)› ?_
                  | with_reducible refine Keeps.of_fst ‹_ = (_, _)› ?_
                  | with_reducible refine Keeps.of_fst3 ‹_ = (_, _, _)› ?_ | with_reducible apply Keeps.ite
                  | split | dsimp only)

theorem State.pushVout_keeps {a s : State} {x1} (h : Keeps a s) :
    Keeps a (State.pushVout s x1) := by
  unfold State.pushVout
  try dsimp only
  repeat' (first | with_reducible assumption | with_reducible apply State.showTarget_keeps
                  | with_reducible apply State.setF_keeps | simp only [Keeps.record]
                  | with_reducible refine Keeps.of_snd ‹_ = (_, _)› ?_
                  | with_reducible refine Keeps.of_fst ‹_ = (_, _)› ?_
                  | with_reducible refine Keeps.of_fst3 ‹_ = (_, _, _)› ?_ | with_reducible apply Keeps.ite
                  | split | dsimp only)

end Sys2Proof.Machine
end

