-- ==== Sys2Proof/Laws/Keeps5.lean ====
section
/-! SUPPORT. What each operation keeps, in the order the operations are built on one another (part 5). -/

set_option linter.unusedVariables false
set_option linter.unreachableTactic false
set_option linter.unusedTactic false

namespace Sys2Proof.Machine

theorem State.dimLow_keeps {a s : State} {x1} (h : Keeps a s) :
    Keeps a (State.dimLow s x1) := by
  unfold State.dimLow
  try dsimp only
  repeat' (first | with_reducible assumption | with_reducible apply State.dimFlush_keeps
                  | with_reducible apply State.pushVout_keeps | simp only [Keeps.record]
                  | with_reducible refine Keeps.of_snd ‹_ = (_, _)› ?_
                  | with_reducible refine Keeps.of_fst ‹_ = (_, _)› ?_
                  | with_reducible refine Keeps.of_fst3 ‹_ = (_, _, _)› ?_ | with_reducible apply Keeps.ite
                  | split | dsimp only)

theorem State.dimStart_keeps {a s : State} {x1} {x2} (h : Keeps a s) :
    Keeps a (State.dimStart s x1 x2) := by
  unfold State.dimStart
  try dsimp only
  repeat' (first | with_reducible assumption | with_reducible apply State.dimFlush_keeps | simp only [Keeps.record]
                  | with_reducible refine Keeps.of_snd ‹_ = (_, _)› ?_
                  | with_reducible refine Keeps.of_fst ‹_ = (_, _)› ?_
                  | with_reducible refine Keeps.of_fst3 ‹_ = (_, _, _)› ?_ | with_reducible apply Keeps.ite
                  | split | dsimp only)

theorem State.voutClosed_keeps {a s : State} {x1} (h : Keeps a s) :
    Keeps a (State.voutClosed s x1) := by
  unfold State.voutClosed
  try dsimp only
  repeat' (first | with_reducible assumption | with_reducible apply State.setF_keeps | simp only [Keeps.record]
                  | with_reducible refine Keeps.of_snd ‹_ = (_, _)› ?_
                  | with_reducible refine Keeps.of_fst ‹_ = (_, _)› ?_
                  | with_reducible refine Keeps.of_fst3 ‹_ = (_, _, _)› ?_ | with_reducible apply Keeps.ite
                  | split | dsimp only)

theorem State.dimCause_keeps {a s : State} {x1} (h : Keeps a s) :
    Keeps a (State.dimCause s x1) := by
  unfold State.dimCause
  try dsimp only
  repeat' (first | with_reducible assumption | with_reducible apply State.wakeHart_keeps
                  | with_reducible apply State.pushVout_keeps
                  | with_reducible refine Keeps.foldl (fun _ _ _ => ?_) ?_
                  | with_reducible refine Keeps.foldlFst (fun _ _ _ => ?_) ?_
                  | with_reducible refine Keeps.foldlSnd (fun _ _ _ => ?_) ?_ | simp only [Keeps.record]
                  | with_reducible refine Keeps.of_snd ‹_ = (_, _)› ?_
                  | with_reducible refine Keeps.of_fst ‹_ = (_, _)› ?_
                  | with_reducible refine Keeps.of_fst3 ‹_ = (_, _, _)› ?_ | with_reducible apply Keeps.ite
                  | split | dsimp only)

theorem State.dimIrq_keeps {a s : State} {x1} (h : Keeps a s) :
    Keeps a (State.dimIrq s x1) := by
  unfold State.dimIrq
  try dsimp only
  repeat' (first | with_reducible assumption | with_reducible apply State.dimCause_keeps | simp only [Keeps.record]
                  | with_reducible refine Keeps.of_snd ‹_ = (_, _)› ?_
                  | with_reducible refine Keeps.of_fst ‹_ = (_, _)› ?_
                  | with_reducible refine Keeps.of_fst3 ‹_ = (_, _, _)› ?_ | with_reducible apply Keeps.ite
                  | split | dsimp only)

theorem State.railOff_keeps {a s : State} {x1} (h : Keeps a s) :
    Keeps a (State.railOff s x1) := by
  unfold State.railOff
  try dsimp only
  repeat' (first | with_reducible assumption | with_reducible apply State.voutClosed_keeps
                  | with_reducible apply State.paceStop_keeps | with_reducible apply State.setPanelState_keeps
                  | with_reducible apply State.setF_keeps | simp only [Keeps.record]
                  | with_reducible refine Keeps.of_snd ‹_ = (_, _)› ?_
                  | with_reducible refine Keeps.of_fst ‹_ = (_, _)› ?_
                  | with_reducible refine Keeps.of_fst3 ‹_ = (_, _, _)› ?_ | with_reducible apply Keeps.ite
                  | split | dsimp only)

theorem State.quietWake_keeps {a s : State} {x1} (h : Keeps a s) :
    Keeps a (State.quietWake s x1) := by
  unfold State.quietWake
  try dsimp only
  repeat' (first | with_reducible assumption | simp only [Keeps.record]
                  | with_reducible refine Keeps.of_snd ‹_ = (_, _)› ?_
                  | with_reducible refine Keeps.of_fst ‹_ = (_, _)› ?_
                  | with_reducible refine Keeps.of_fst3 ‹_ = (_, _, _)› ?_ | with_reducible apply Keeps.ite
                  | split | dsimp only)

theorem State.clearVreg_keeps {a s : State} {x1} (h : Keeps a s) :
    Keeps a (State.clearVreg s x1) := by
  unfold State.clearVreg
  try dsimp only
  repeat' (first | with_reducible assumption | with_reducible apply State.setF_keeps
                  | with_reducible apply State.pushVout_keeps | simp only [Keeps.record]
                  | with_reducible refine Keeps.of_snd ‹_ = (_, _)› ?_
                  | with_reducible refine Keeps.of_fst ‹_ = (_, _)› ?_
                  | with_reducible refine Keeps.of_fst3 ‹_ = (_, _, _)› ?_ | with_reducible apply Keeps.ite
                  | split | dsimp only)

theorem State.voutAcked_keeps {a s : State} {x1} (h : Keeps a s) :
    Keeps a (State.voutAcked s x1) := by
  unfold State.voutAcked
  try dsimp only
  repeat' (first | with_reducible assumption | with_reducible apply State.setF_keeps
                  | with_reducible apply State.voutClosed_keeps | with_reducible apply State.setPanelState_keeps
                  | with_reducible apply State.updFence_keeps | with_reducible apply State.pushVout_keeps
                  | simp only [Keeps.record] | with_reducible refine Keeps.of_snd ‹_ = (_, _)› ?_
                  | with_reducible refine Keeps.of_fst ‹_ = (_, _)› ?_
                  | with_reducible refine Keeps.of_fst3 ‹_ = (_, _, _)› ?_ | with_reducible apply Keeps.ite
                  | split | dsimp only)

theorem State.quietEnd_keeps {a s : State} {x1} (h : Keeps a s) :
    Keeps a (State.quietEnd s x1) := by
  unfold State.quietEnd
  try dsimp only
  repeat' (first | with_reducible assumption | with_reducible apply State.setSaddleState_keeps
                  | with_reducible apply State.leaveSelfRefresh_keeps
                  | with_reducible apply State.homeLoop_keeps
                  | with_reducible refine Keeps.foldl (fun _ _ _ => ?_) ?_
                  | with_reducible refine Keeps.foldlFst (fun _ _ _ => ?_) ?_
                  | with_reducible refine Keeps.foldlSnd (fun _ _ _ => ?_) ?_ | simp only [Keeps.record]
                  | with_reducible refine Keeps.of_snd ‹_ = (_, _)› ?_
                  | with_reducible refine Keeps.of_fst ‹_ = (_, _)› ?_
                  | with_reducible refine Keeps.of_fst3 ‹_ = (_, _, _)› ?_ | with_reducible apply Keeps.ite
                  | split | dsimp only)

theorem State.dimEnter_keeps {a s : State} {x1} (h : Keeps a s) :
    Keeps a (State.dimEnter s x1) := by
  unfold State.dimEnter
  try dsimp only
  repeat' (first | with_reducible assumption | with_reducible apply State.advance_keeps
                  | with_reducible apply State.dimStart_keeps
                  | with_reducible refine Keeps.foldl (fun _ _ _ => ?_) ?_
                  | with_reducible refine Keeps.foldlFst (fun _ _ _ => ?_) ?_
                  | with_reducible refine Keeps.foldlSnd (fun _ _ _ => ?_) ?_ | simp only [Keeps.record]
                  | with_reducible refine Keeps.of_snd ‹_ = (_, _)› ?_
                  | with_reducible refine Keeps.of_fst ‹_ = (_, _)› ?_
                  | with_reducible refine Keeps.of_fst3 ‹_ = (_, _, _)› ?_ | with_reducible apply Keeps.ite
                  | split | dsimp only)

theorem State.vregExpired_keeps {a s : State} {x1} (h : Keeps a s) :
    Keeps a (State.vregExpired s x1) := by
  unfold State.vregExpired
  try dsimp only
  repeat' (first | with_reducible assumption | with_reducible apply State.advance_keeps
                  | with_reducible apply State.voutClosed_keeps | with_reducible apply State.setF_keeps
                  | with_reducible apply State.err_keeps | simp only [Keeps.record]
                  | with_reducible refine Keeps.of_snd ‹_ = (_, _)› ?_
                  | with_reducible refine Keeps.of_fst ‹_ = (_, _)› ?_
                  | with_reducible refine Keeps.of_fst3 ‹_ = (_, _, _)› ?_ | with_reducible apply Keeps.ite
                  | split | dsimp only)

theorem State.wakeAction_keeps {a s : State} {x1} {x2} (h : Keeps a s) :
    Keeps a (State.wakeAction s x1 x2) := by
  unfold State.wakeAction
  try dsimp only
  repeat' (first | with_reducible assumption | with_reducible apply State.dimCause_keeps
                  | with_reducible apply State.quietWake_keeps | with_reducible apply State.assertRailEn_keeps
                  | with_reducible apply State.updPkg_keeps | with_reducible apply State.setPkg_keeps
                  | simp only [Keeps.record] | with_reducible refine Keeps.of_snd ‹_ = (_, _)› ?_
                  | with_reducible refine Keeps.of_fst ‹_ = (_, _)› ?_
                  | with_reducible refine Keeps.of_fst3 ‹_ = (_, _, _)› ?_ | with_reducible apply Keeps.ite
                  | split | dsimp only)

theorem State.alarmAction_keeps {a s : State} {x1} (h : Keeps a s) :
    Keeps a (State.alarmAction s x1) := by
  unfold State.alarmAction
  try dsimp only
  repeat' (first | with_reducible assumption | with_reducible apply State.svcMsix_keeps
                  | with_reducible apply State.setSource_keeps | with_reducible apply State.setFbit_keeps
                  | simp only [Keeps.record] | with_reducible refine Keeps.of_snd ‹_ = (_, _)› ?_
                  | with_reducible refine Keeps.of_fst ‹_ = (_, _)› ?_
                  | with_reducible refine Keeps.of_fst3 ‹_ = (_, _, _)› ?_ | with_reducible apply Keeps.ite
                  | split | dsimp only)

theorem State.logAction_keeps {a s : State} {x1} (h : Keeps a s) :
    Keeps a (State.logAction s x1) := by
  unfold State.logAction
  try dsimp only
  repeat' (first | with_reducible assumption | with_reducible apply State.incF_keeps
                  | with_reducible apply State.wr_keeps | with_reducible apply State.setF_keeps
                  | simp only [Keeps.record] | with_reducible refine Keeps.of_snd ‹_ = (_, _)› ?_
                  | with_reducible refine Keeps.of_fst ‹_ = (_, _)› ?_
                  | with_reducible refine Keeps.of_fst3 ‹_ = (_, _, _)› ?_ | with_reducible apply Keeps.ite
                  | split | dsimp only)

theorem State.scrubAction_keeps {a s : State} {x1} {x2} (h : Keeps a s) :
    Keeps a (State.scrubAction s x1 x2) := by
  unfold State.scrubAction
  try dsimp only
  repeat' (first | with_reducible assumption | with_reducible apply State.setF_keeps
                  | with_reducible apply State.startScrub_keeps | simp only [Keeps.record]
                  | with_reducible refine Keeps.of_snd ‹_ = (_, _)› ?_
                  | with_reducible refine Keeps.of_fst ‹_ = (_, _)› ?_
                  | with_reducible refine Keeps.of_fst3 ‹_ = (_, _, _)› ?_ | with_reducible apply Keeps.ite
                  | split | dsimp only)

theorem State.trip_keeps {a s : State} {x1} (h : Keeps a s) :
    Keeps a (State.trip s x1) := by
  unfold State.trip
  try dsimp only
  repeat' (first | with_reducible assumption | with_reducible apply State.setF_keeps
                  | with_reducible apply State.note_keeps | with_reducible apply State.err_keeps
                  | simp only [Keeps.record] | with_reducible refine Keeps.of_snd ‹_ = (_, _)› ?_
                  | with_reducible refine Keeps.of_fst ‹_ = (_, _)› ?_
                  | with_reducible refine Keeps.of_fst3 ‹_ = (_, _, _)› ?_ | with_reducible apply Keeps.ite
                  | split | dsimp only)

theorem State.ruleAction_keeps {a s : State} {x1} (h : Keeps a s) :
    Keeps a (State.ruleAction s x1) := by
  unfold State.ruleAction
  try dsimp only
  repeat' (first | with_reducible assumption | with_reducible apply State.wakeAction_keeps
                  | with_reducible apply State.setF_keeps | with_reducible apply State.alarmAction_keeps
                  | with_reducible apply State.logAction_keeps | with_reducible apply State.scrubAction_keeps
                  | with_reducible apply State.trip_keeps
                  | with_reducible refine Keeps.foldl (fun _ _ _ => ?_) ?_
                  | with_reducible refine Keeps.foldlFst (fun _ _ _ => ?_) ?_
                  | with_reducible refine Keeps.foldlSnd (fun _ _ _ => ?_) ?_ | simp only [Keeps.record]
                  | with_reducible refine Keeps.of_snd ‹_ = (_, _)› ?_
                  | with_reducible refine Keeps.of_fst ‹_ = (_, _)› ?_
                  | with_reducible refine Keeps.of_fst3 ‹_ = (_, _, _)› ?_ | with_reducible apply Keeps.ite
                  | split | dsimp only)

theorem State.runChan_keeps {a s : State} {x1} {x2} (h : Keeps a s) :
    Keeps a (State.runChan s x1 x2) := by
  unfold State.runChan
  try dsimp only
  repeat' (first | with_reducible assumption | with_reducible refine Keeps.foldl (fun _ _ _ => ?_) ?_
                  | with_reducible refine Keeps.foldlFst (fun _ _ _ => ?_) ?_
                  | with_reducible refine Keeps.foldlSnd (fun _ _ _ => ?_) ?_ | simp only [Keeps.record]
                  | with_reducible refine Keeps.of_snd ‹_ = (_, _)› ?_
                  | with_reducible refine Keeps.of_fst ‹_ = (_, _)› ?_
                  | with_reducible refine Keeps.of_fst3 ‹_ = (_, _, _)› ?_ | with_reducible apply Keeps.ite
                  | split | dsimp only)

theorem State.sampleAll_keeps {a s : State} {x1} (h : Keeps a s) :
    Keeps a (State.sampleAll s x1) := by
  unfold State.sampleAll
  try dsimp only
  repeat' (first | with_reducible assumption | with_reducible apply State.runChan_keeps
                  | with_reducible refine Keeps.foldl (fun _ _ _ => ?_) ?_
                  | with_reducible refine Keeps.foldlFst (fun _ _ _ => ?_) ?_
                  | with_reducible refine Keeps.foldlSnd (fun _ _ _ => ?_) ?_ | simp only [Keeps.record]
                  | with_reducible refine Keeps.of_snd ‹_ = (_, _)› ?_
                  | with_reducible refine Keeps.of_fst ‹_ = (_, _)› ?_
                  | with_reducible refine Keeps.of_fst3 ‹_ = (_, _, _)› ?_ | with_reducible apply Keeps.ite
                  | split | dsimp only)

theorem State.setVfab_keeps {a s : State} (h : Keeps a s) :
    Keeps a (State.setVfab s) := by
  unfold State.setVfab
  try dsimp only
  repeat' (first | with_reducible assumption | simp only [Keeps.record]
                  | with_reducible refine Keeps.of_snd ‹_ = (_, _)› ?_
                  | with_reducible refine Keeps.of_fst ‹_ = (_, _)› ?_
                  | with_reducible refine Keeps.of_fst3 ‹_ = (_, _, _)› ?_ | with_reducible apply Keeps.ite
                  | split | dsimp only)

theorem State.evalRule_keeps {a s : State} {x1} (h : Keeps a s) :
    Keeps a (State.evalRule s x1) := by
  unfold State.evalRule
  try dsimp only
  repeat' (first | with_reducible assumption | simp only [Keeps.record]
                  | with_reducible refine Keeps.of_snd ‹_ = (_, _)› ?_
                  | with_reducible refine Keeps.of_fst ‹_ = (_, _)› ?_
                  | with_reducible refine Keeps.of_fst3 ‹_ = (_, _, _)› ?_ | with_reducible apply Keeps.ite
                  | split | dsimp only)

theorem State.thmDeadline_keeps {a s : State} {x1} (h : Keeps a s) :
    Keeps a (State.thmDeadline s x1) := by
  unfold State.thmDeadline
  try dsimp only
  repeat' (first | with_reducible assumption | with_reducible apply State.setDeadline_keeps | simp only [Keeps.record]
                  | with_reducible refine Keeps.of_snd ‹_ = (_, _)› ?_
                  | with_reducible refine Keeps.of_fst ‹_ = (_, _)› ?_
                  | with_reducible refine Keeps.of_fst3 ‹_ = (_, _, _)› ?_ | with_reducible apply Keeps.ite
                  | split | dsimp only)

theorem State.loadPend_keeps {a s : State} (h : Keeps a s) :
    Keeps a (State.loadPend s) := by
  unfold State.loadPend
  try dsimp only
  repeat' (first | with_reducible assumption | with_reducible apply State.putPiece_keeps
                  | with_reducible apply State.thmDeadline_keeps | with_reducible apply State.setVfab_keeps
                  | with_reducible refine Keeps.foldl (fun _ _ _ => ?_) ?_
                  | with_reducible refine Keeps.foldlFst (fun _ _ _ => ?_) ?_
                  | with_reducible refine Keeps.foldlSnd (fun _ _ _ => ?_) ?_ | simp only [Keeps.record]
                  | with_reducible refine Keeps.of_snd ‹_ = (_, _)› ?_
                  | with_reducible refine Keeps.of_fst ‹_ = (_, _)› ?_
                  | with_reducible refine Keeps.of_fst3 ‹_ = (_, _, _)› ?_ | with_reducible apply Keeps.ite
                  | split | dsimp only)

theorem State.loopStart_keeps {a s : State} (h : Keeps a s) :
    Keeps a (State.loopStart s) := by
  unfold State.loopStart
  try dsimp only
  repeat' (first | with_reducible assumption | with_reducible apply State.loadPend_keeps
                  | with_reducible apply State.setF_keeps | with_reducible apply State.advance_keeps
                  | simp only [Keeps.record] | with_reducible refine Keeps.of_snd ‹_ = (_, _)› ?_
                  | with_reducible refine Keeps.of_fst ‹_ = (_, _)› ?_
                  | with_reducible refine Keeps.of_fst3 ‹_ = (_, _, _)› ?_ | with_reducible apply Keeps.ite
                  | split | dsimp only)

theorem wakePinEdgeEff_keeps {a s : State} {x0} {x1} (h : Keeps a s) :
    Keeps a (wakePinEdgeEff x0 x1 s) := by
  unfold wakePinEdgeEff
  try dsimp only
  repeat' (first | with_reducible assumption | simp only [Keeps.record]
                  | with_reducible refine Keeps.of_snd ‹_ = (_, _)› ?_
                  | with_reducible refine Keeps.of_fst ‹_ = (_, _)› ?_
                  | with_reducible refine Keeps.of_fst3 ‹_ = (_, _, _)› ?_ | with_reducible apply Keeps.ite
                  | split | dsimp only)

theorem State.evalRules_keeps {a s : State} {x1} (h : Keeps a s) :
    Keeps a (State.evalRules s x1) := by
  unfold State.evalRules
  try dsimp only
  repeat' (first | with_reducible assumption | with_reducible apply State.evalRule_keeps
                  | with_reducible refine Keeps.foldl (fun _ _ _ => ?_) ?_
                  | with_reducible refine Keeps.foldlFst (fun _ _ _ => ?_) ?_
                  | with_reducible refine Keeps.foldlSnd (fun _ _ _ => ?_) ?_ | simp only [Keeps.record]
                  | with_reducible refine Keeps.of_snd ‹_ = (_, _)› ?_
                  | with_reducible refine Keeps.of_fst ‹_ = (_, _)› ?_
                  | with_reducible refine Keeps.of_fst3 ‹_ = (_, _, _)› ?_ | with_reducible apply Keeps.ite
                  | split | dsimp only)

theorem State.governor_keeps {a s : State} (h : Keeps a s) :
    Keeps a (State.governor s) := by
  unfold State.governor
  try dsimp only
  repeat' (first | with_reducible assumption | simp only [Keeps.record]
                  | with_reducible refine Keeps.of_snd ‹_ = (_, _)› ?_
                  | with_reducible refine Keeps.of_fst ‹_ = (_, _)› ?_
                  | with_reducible refine Keeps.of_fst3 ‹_ = (_, _, _)› ?_ | with_reducible apply Keeps.ite
                  | split | dsimp only)

theorem State.actRules_keeps {a s : State} {x1} {x2} (h : Keeps a s) :
    Keeps a (State.actRules s x1 x2) := by
  unfold State.actRules
  try dsimp only
  repeat' (first | with_reducible assumption | with_reducible apply State.ruleAction_keeps
                  | with_reducible refine Keeps.foldl (fun _ _ _ => ?_) ?_
                  | with_reducible refine Keeps.foldlFst (fun _ _ _ => ?_) ?_
                  | with_reducible refine Keeps.foldlSnd (fun _ _ _ => ?_) ?_ | simp only [Keeps.record]
                  | with_reducible refine Keeps.of_snd ‹_ = (_, _)› ?_
                  | with_reducible refine Keeps.of_fst ‹_ = (_, _)› ?_
                  | with_reducible refine Keeps.of_fst3 ‹_ = (_, _, _)› ?_ | with_reducible apply Keeps.ite
                  | split | dsimp only)

theorem tripComparatorEff_keeps {a s : State} {x0} (h : Keeps a s) :
    Keeps a (tripComparatorEff x0 s) := by
  unfold tripComparatorEff
  try dsimp only
  repeat' (first | with_reducible assumption | with_reducible apply State.trip_keeps | simp only [Keeps.record]
                  | with_reducible refine Keeps.of_snd ‹_ = (_, _)› ?_
                  | with_reducible refine Keeps.of_fst ‹_ = (_, _)› ?_
                  | with_reducible refine Keeps.of_fst3 ‹_ = (_, _, _)› ?_ | with_reducible apply Keeps.ite
                  | split | dsimp only)

theorem State.thimbleRun_keeps {a s : State} {x1} (h : Keeps a s) :
    Keeps a (State.thimbleRun s x1) := by
  unfold State.thimbleRun
  try dsimp only
  repeat' (first | with_reducible assumption | with_reducible apply State.loopStart_keeps
                  | with_reducible apply State.governor_keeps | with_reducible apply State.evalRules_keeps
                  | with_reducible apply State.sampleAll_keeps | with_reducible apply State.actRules_keeps
                  | with_reducible apply State.pushVout_keeps | with_reducible apply State.setF_keeps
                  | with_reducible refine Keeps.foldl (fun _ _ _ => ?_) ?_
                  | with_reducible refine Keeps.foldlFst (fun _ _ _ => ?_) ?_
                  | with_reducible refine Keeps.foldlSnd (fun _ _ _ => ?_) ?_ | simp only [Keeps.record]
                  | with_reducible refine Keeps.of_snd ‹_ = (_, _)› ?_
                  | with_reducible refine Keeps.of_fst ‹_ = (_, _)› ?_
                  | with_reducible refine Keeps.of_fst3 ‹_ = (_, _, _)› ?_ | with_reducible apply Keeps.ite
                  | split | dsimp only)

theorem thimbleLoopEff_keeps {a s : State} {x0} (h : Keeps a s) :
    Keeps a (thimbleLoopEff x0 s) := by
  unfold thimbleLoopEff
  try dsimp only
  repeat' (first | with_reducible assumption | with_reducible apply State.thimbleRun_keeps | simp only [Keeps.record]
                  | with_reducible refine Keeps.of_snd ‹_ = (_, _)› ?_
                  | with_reducible refine Keeps.of_fst ‹_ = (_, _)› ?_
                  | with_reducible refine Keeps.of_fst3 ‹_ = (_, _, _)› ?_ | with_reducible apply Keeps.ite
                  | split | dsimp only)

theorem State.thimbleLate_keeps {a s : State} {x1} {x2} {x3} (h : Keeps a s) :
    Keeps a (State.thimbleLate s x1 x2 x3) := by
  unfold State.thimbleLate
  try dsimp only
  repeat' (first | with_reducible assumption | with_reducible apply State.loopStart_keeps
                  | with_reducible apply State.sampleAll_keeps | with_reducible apply State.actRules_keeps
                  | with_reducible apply State.governor_keeps | with_reducible apply State.evalRules_keeps
                  | with_reducible apply State.advance_keeps | with_reducible apply State.incF_keeps
                  | with_reducible apply State.setF_keeps | with_reducible apply State.err_keeps
                  | simp only [Keeps.record] | with_reducible refine Keeps.of_snd ‹_ = (_, _)› ?_
                  | with_reducible refine Keeps.of_fst ‹_ = (_, _)› ?_
                  | with_reducible refine Keeps.of_fst3 ‹_ = (_, _, _)› ?_ | with_reducible apply Keeps.ite
                  | split | dsimp only)

theorem thimbleExpiryEff_keeps {a s : State} {x0} {x1} {x2} (h : Keeps a s) :
    Keeps a (thimbleExpiryEff x0 x1 x2 s) := by
  unfold thimbleExpiryEff
  try dsimp only
  repeat' (first | with_reducible assumption | with_reducible apply State.thimbleLate_keeps | simp only [Keeps.record]
                  | with_reducible refine Keeps.of_snd ‹_ = (_, _)› ?_
                  | with_reducible refine Keeps.of_fst ‹_ = (_, _)› ?_
                  | with_reducible refine Keeps.of_fst3 ‹_ = (_, _, _)› ?_ | with_reducible apply Keeps.ite
                  | split | dsimp only)

theorem State.resetHart_keeps {a s : State} {x1} (h : Keeps a s) :
    Keeps a (State.resetHart s x1) := by
  unfold State.resetHart
  try dsimp only
  repeat' (first | with_reducible assumption | with_reducible apply State.updHart_keeps | simp only [Keeps.record]
                  | with_reducible refine Keeps.of_snd ‹_ = (_, _)› ?_
                  | with_reducible refine Keeps.of_fst ‹_ = (_, _)› ?_
                  | with_reducible refine Keeps.of_fst3 ‹_ = (_, _, _)› ?_ | with_reducible apply Keeps.ite
                  | split | dsimp only)

theorem State.scrubPanel_keeps {a s : State} {x1} (h : Keeps a s) :
    Keeps a (State.scrubPanel s x1) := by
  unfold State.scrubPanel
  try dsimp only
  repeat' (first | with_reducible assumption | with_reducible apply State.resetHart_keeps
                  | with_reducible apply State.eraseRegs_keeps | with_reducible apply State.refreshBank_keeps
                  | with_reducible apply State.paceStop_keeps
                  | with_reducible refine Keeps.foldl (fun _ _ _ => ?_) ?_
                  | with_reducible refine Keeps.foldlFst (fun _ _ _ => ?_) ?_
                  | with_reducible refine Keeps.foldlSnd (fun _ _ _ => ?_) ?_ | simp only [Keeps.record]
                  | with_reducible refine Keeps.of_snd ‹_ = (_, _)› ?_
                  | with_reducible refine Keeps.of_fst ‹_ = (_, _)› ?_
                  | with_reducible refine Keeps.of_fst3 ‹_ = (_, _, _)› ?_ | with_reducible apply Keeps.ite
                  | split | dsimp only)

theorem State.excludePanel_keeps {a s : State} {x1} (h : Keeps a s) :
    Keeps a (State.excludePanel s x1) := by
  unfold State.excludePanel
  try dsimp only
  repeat' (first | with_reducible assumption | with_reducible apply State.setFbit_keeps
                  | with_reducible apply State.setF_keeps | with_reducible apply State.err_keeps
                  | simp only [Keeps.record] | with_reducible refine Keeps.of_snd ‹_ = (_, _)› ?_
                  | with_reducible refine Keeps.of_fst ‹_ = (_, _)› ?_
                  | with_reducible refine Keeps.of_fst3 ‹_ = (_, _, _)› ?_ | with_reducible apply Keeps.ite
                  | split | dsimp only)

theorem State.reapplyPanel_keeps {a s : State} {x1} (h : Keeps a s) :
    Keeps a (State.reapplyPanel s x1) := by
  unfold State.reapplyPanel
  try dsimp only
  repeat' (first | with_reducible assumption | with_reducible apply State.configBank_keeps
                  | with_reducible apply State.configPanel_keeps
                  | with_reducible refine Keeps.foldl (fun _ _ _ => ?_) ?_
                  | with_reducible refine Keeps.foldlFst (fun _ _ _ => ?_) ?_
                  | with_reducible refine Keeps.foldlSnd (fun _ _ _ => ?_) ?_ | simp only [Keeps.record]
                  | with_reducible refine Keeps.of_snd ‹_ = (_, _)› ?_
                  | with_reducible refine Keeps.of_fst ‹_ = (_, _)› ?_
                  | with_reducible refine Keeps.of_fst3 ‹_ = (_, _, _)› ?_ | with_reducible apply Keeps.ite
                  | split | dsimp only)

theorem State.resetPanel_keeps {a s : State} {x1} {x2} (h : Keeps a s) :
    Keeps a (State.resetPanel s x1 x2) := by
  unfold State.resetPanel
  try dsimp only
  repeat' (first | with_reducible assumption | with_reducible apply State.scrubPanel_keeps
                  | with_reducible apply State.updFence_keeps | with_reducible apply State.setPanelState_keeps
                  | with_reducible apply State.excludePanel_keeps | with_reducible apply State.setF_keeps
                  | with_reducible apply State.keeperFence_keeps | with_reducible apply State.reapplyPanel_keeps
                  | simp only [Keeps.record] | with_reducible refine Keeps.of_snd ‹_ = (_, _)› ?_
                  | with_reducible refine Keeps.of_fst ‹_ = (_, _)› ?_
                  | with_reducible refine Keeps.of_fst3 ‹_ = (_, _, _)› ?_ | with_reducible apply Keeps.ite
                  | split | dsimp only)

theorem State.startHost_keeps {a s : State} {x1} (h : Keeps a s) :
    Keeps a (State.startHost s x1) := by
  unfold State.startHost
  try dsimp only
  repeat' (first | with_reducible assumption | with_reducible apply State.updHart_keeps | simp only [Keeps.record]
                  | with_reducible refine Keeps.of_snd ‹_ = (_, _)› ?_
                  | with_reducible refine Keeps.of_fst ‹_ = (_, _)› ?_
                  | with_reducible refine Keeps.of_fst3 ‹_ = (_, _, _)› ?_ | with_reducible apply Keeps.ite
                  | split | dsimp only)

theorem State.releaseHarts_keeps {a s : State} {x1} (h : Keeps a s) :
    Keeps a (State.releaseHarts s x1) := by
  unfold State.releaseHarts
  try dsimp only
  repeat' (first | with_reducible assumption | with_reducible apply State.startHost_keeps
                  | with_reducible apply State.enterPocket_keeps
                  | with_reducible refine Keeps.foldl (fun _ _ _ => ?_) ?_
                  | with_reducible refine Keeps.foldlFst (fun _ _ _ => ?_) ?_
                  | with_reducible refine Keeps.foldlSnd (fun _ _ _ => ?_) ?_ | simp only [Keeps.record]
                  | with_reducible refine Keeps.of_snd ‹_ = (_, _)› ?_
                  | with_reducible refine Keeps.of_fst ‹_ = (_, _)› ?_
                  | with_reducible refine Keeps.of_fst3 ‹_ = (_, _, _)› ?_ | with_reducible apply Keeps.ite
                  | split | dsimp only)

theorem State.endHeldReset_keeps {a s : State} {x1} (h : Keeps a s) :
    Keeps a (State.endHeldReset s x1) := by
  unfold State.endHeldReset
  try dsimp only
  repeat' (first | with_reducible assumption | with_reducible apply State.keeperFence_keeps
                  | with_reducible apply State.reapplyPanel_keeps | simp only [Keeps.record]
                  | with_reducible refine Keeps.of_snd ‹_ = (_, _)› ?_
                  | with_reducible refine Keeps.of_fst ‹_ = (_, _)› ?_
                  | with_reducible refine Keeps.of_fst3 ‹_ = (_, _, _)› ?_ | with_reducible apply Keeps.ite
                  | split | dsimp only)

theorem State.showMode_keeps {a s : State} (h : Keeps a s) :
    Keeps a (State.showMode s) := by
  unfold State.showMode
  try dsimp only
  repeat' (first | with_reducible assumption | with_reducible apply State.setF_keeps | simp only [Keeps.record]
                  | with_reducible refine Keeps.of_snd ‹_ = (_, _)› ?_
                  | with_reducible refine Keeps.of_fst ‹_ = (_, _)› ?_
                  | with_reducible refine Keeps.of_fst3 ‹_ = (_, _, _)› ?_ | with_reducible apply Keeps.ite
                  | split | dsimp only)

theorem State.setOwner_keeps {a s : State} {x1} {x2} {x3} (h : Keeps a s) :
    Keeps a (State.setOwner s x1 x2 x3) := by
  unfold State.setOwner
  try dsimp only
  repeat' (first | with_reducible assumption | with_reducible apply State.setF_keeps | simp only [Keeps.record]
                  | with_reducible refine Keeps.of_snd ‹_ = (_, _)› ?_
                  | with_reducible refine Keeps.of_fst ‹_ = (_, _)› ?_
                  | with_reducible refine Keeps.of_fst3 ‹_ = (_, _, _)› ?_ | with_reducible apply Keeps.ite
                  | split | dsimp only)

theorem State.updHand_keeps {a s : State} {x1} {x2} (h : Keeps a s) :
    Keeps a (State.updHand s x1 x2) := by
  unfold State.updHand
  try dsimp only
  repeat' (first | with_reducible assumption | simp only [Keeps.record]
                  | with_reducible refine Keeps.of_snd ‹_ = (_, _)› ?_
                  | with_reducible refine Keeps.of_fst ‹_ = (_, _)› ?_
                  | with_reducible refine Keeps.of_fst3 ‹_ = (_, _, _)› ?_ | with_reducible apply Keeps.ite
                  | split | dsimp only)

theorem State.blockPost_keeps {a s : State} {x1} {x2} {x3} {x4} {x5} {x6} (h : Keeps a s) :
    Keeps a (State.blockPost s x1 x2 x3 x4 x5 x6) := by
  unfold State.blockPost
  try dsimp only
  repeat' (first | with_reducible assumption | with_reducible apply State.doorPost_keeps | simp only [Keeps.record]
                  | with_reducible refine Keeps.of_snd ‹_ = (_, _)› ?_
                  | with_reducible refine Keeps.of_fst ‹_ = (_, _)› ?_
                  | with_reducible refine Keeps.of_fst3 ‹_ = (_, _, _)› ?_ | with_reducible apply Keeps.ite
                  | split | dsimp only)

theorem State.handEnd_keeps {a s : State} {x1} (h : Keeps a s) :
    Keeps a (State.handEnd s x1) := by
  unfold State.handEnd
  try dsimp only
  repeat' (first | with_reducible assumption | with_reducible apply State.updHand_keeps
                  | with_reducible apply State.blockPost_keeps | simp only [Keeps.record]
                  | with_reducible refine Keeps.of_snd ‹_ = (_, _)› ?_
                  | with_reducible refine Keeps.of_fst ‹_ = (_, _)› ?_
                  | with_reducible refine Keeps.of_fst3 ‹_ = (_, _, _)› ?_ | with_reducible apply Keeps.ite
                  | split | dsimp only)

theorem State.blockScrub_keeps {a s : State} {x1} (h : Keeps a s) :
    Keeps a (State.blockScrub s x1) := by
  unfold State.blockScrub
  try dsimp only
  repeat' (first | with_reducible assumption | with_reducible apply State.updPcie_keeps
                  | with_reducible apply State.wr_keeps | with_reducible apply State.updChan_keeps
                  | with_reducible refine Keeps.foldl (fun _ _ _ => ?_) ?_
                  | with_reducible refine Keeps.foldlFst (fun _ _ _ => ?_) ?_
                  | with_reducible refine Keeps.foldlSnd (fun _ _ _ => ?_) ?_ | simp only [Keeps.record]
                  | with_reducible refine Keeps.of_snd ‹_ = (_, _)› ?_
                  | with_reducible refine Keeps.of_fst ‹_ = (_, _)› ?_
                  | with_reducible refine Keeps.of_fst3 ‹_ = (_, _, _)› ?_ | with_reducible apply Keeps.ite
                  | split | dsimp only)

theorem State.handFinish_keeps {a s : State} {x1} (h : Keeps a s) :
    Keeps a (State.handFinish s x1) := by
  unfold State.handFinish
  try dsimp only
  repeat' (first | with_reducible assumption | with_reducible apply State.handEnd_keeps
                  | with_reducible apply State.setOwner_keeps | with_reducible apply State.blockScrub_keeps
                  | simp only [Keeps.record] | with_reducible refine Keeps.of_snd ‹_ = (_, _)› ?_
                  | with_reducible refine Keeps.of_fst ‹_ = (_, _)› ?_
                  | with_reducible refine Keeps.of_fst3 ‹_ = (_, _, _)› ?_ | with_reducible apply Keeps.ite
                  | split | dsimp only)

theorem State.handReset_keeps {a s : State} {x1} (h : Keeps a s) :
    Keeps a (State.handReset s x1) := by
  unfold State.handReset
  try dsimp only
  repeat' (first | with_reducible assumption | with_reducible apply State.handEnd_keeps
                  | with_reducible apply State.setOwner_keeps | with_reducible apply State.updHand_keeps
                  | with_reducible apply State.handFinish_keeps | simp only [Keeps.record]
                  | with_reducible refine Keeps.of_snd ‹_ = (_, _)› ?_
                  | with_reducible refine Keeps.of_fst ‹_ = (_, _)› ?_
                  | with_reducible refine Keeps.of_fst3 ‹_ = (_, _, _)› ?_ | with_reducible apply Keeps.ite
                  | split | dsimp only)

theorem State.handDrain_keeps {a s : State} {x1} (h : Keeps a s) :
    Keeps a (State.handDrain s x1) := by
  unfold State.handDrain
  try dsimp only
  repeat' (first | with_reducible assumption | with_reducible apply State.setOwner_keeps
                  | with_reducible apply State.updHand_keeps | with_reducible apply State.handReset_keeps
                  | with_reducible apply State.keeperFence_keeps | with_reducible apply State.chanAbort_keeps
                  | with_reducible apply State.wakeHart_keeps | with_reducible apply State.forceExit_keeps
                  | simp only [Keeps.record] | with_reducible refine Keeps.of_snd ‹_ = (_, _)› ?_
                  | with_reducible refine Keeps.of_fst ‹_ = (_, _)› ?_
                  | with_reducible refine Keeps.of_fst3 ‹_ = (_, _, _)› ?_ | with_reducible apply Keeps.ite
                  | split | dsimp only)

theorem State.handFault_keeps {a s : State} {x1} (h : Keeps a s) :
    Keeps a (State.handFault s x1) := by
  unfold State.handFault
  try dsimp only
  repeat' (first | with_reducible assumption | with_reducible apply State.handEnd_keeps | simp only [Keeps.record]
                  | with_reducible refine Keeps.of_snd ‹_ = (_, _)› ?_
                  | with_reducible refine Keeps.of_fst ‹_ = (_, _)› ?_
                  | with_reducible refine Keeps.of_fst3 ‹_ = (_, _, _)› ?_ | with_reducible apply Keeps.ite
                  | split | dsimp only)

theorem State.handFence_keeps {a s : State} {x1} (h : Keeps a s) :
    Keeps a (State.handFence s x1) := by
  unfold State.handFence
  try dsimp only
  repeat' (first | with_reducible assumption | with_reducible apply State.handFault_keeps
                  | with_reducible apply State.handReset_keeps | with_reducible apply State.handEnd_keeps
                  | with_reducible apply State.releaseHarts_keeps | simp only [Keeps.record]
                  | with_reducible refine Keeps.of_snd ‹_ = (_, _)› ?_
                  | with_reducible refine Keeps.of_fst ‹_ = (_, _)› ?_
                  | with_reducible refine Keeps.of_fst3 ‹_ = (_, _, _)› ?_ | with_reducible apply Keeps.ite
                  | split | dsimp only)

theorem State.handTag_keeps {a s : State} {x1} {x2} (h : Keeps a s) :
    Keeps a (State.handTag s x1 x2) := by
  unfold State.handTag
  try dsimp only
  repeat' (first | with_reducible assumption | with_reducible apply State.handFault_keeps
                  | with_reducible apply State.setOwner_keeps | with_reducible apply State.updHand_keeps
                  | simp only [Keeps.record] | with_reducible refine Keeps.of_snd ‹_ = (_, _)› ?_
                  | with_reducible refine Keeps.of_fst ‹_ = (_, _)› ?_
                  | with_reducible refine Keeps.of_fst3 ‹_ = (_, _, _)› ?_ | with_reducible apply Keeps.ite
                  | split | dsimp only)

theorem State.blockDrainDone_keeps {a s : State} {x1} (h : Keeps a s) :
    Keeps a (State.blockDrainDone s x1) := by
  unfold State.blockDrainDone
  try dsimp only
  repeat' (first | with_reducible assumption | with_reducible apply State.handFinish_keeps | simp only [Keeps.record]
                  | with_reducible refine Keeps.of_snd ‹_ = (_, _)› ?_
                  | with_reducible refine Keeps.of_fst ‹_ = (_, _)› ?_
                  | with_reducible refine Keeps.of_fst3 ‹_ = (_, _, _)› ?_ | with_reducible apply Keeps.ite
                  | split | dsimp only)

theorem State.handStart_keeps {a s : State} {x1} (h : Keeps a s) :
    Keeps a (State.handStart s x1) := by
  unfold State.handStart
  try dsimp only
  repeat' (first | with_reducible assumption | with_reducible apply State.handReset_keeps
                  | with_reducible apply State.handDrain_keeps | with_reducible apply State.updHand_keeps
                  | with_reducible apply State.blockPost_keeps | simp only [Keeps.record]
                  | with_reducible refine Keeps.of_snd ‹_ = (_, _)› ?_
                  | with_reducible refine Keeps.of_fst ‹_ = (_, _)› ?_
                  | with_reducible refine Keeps.of_fst3 ‹_ = (_, _, _)› ?_ | with_reducible apply Keeps.ite
                  | split | dsimp only)

theorem State.unsealed_keeps {a s : State} {x1} (h : Keeps a s) :
    Keeps a (State.unsealed s x1) := by
  unfold State.unsealed
  try dsimp only
  repeat' (first | with_reducible assumption | with_reducible apply State.showMode_keeps
                  | with_reducible apply State.updPocket_keeps | with_reducible apply State.setF_keeps
                  | with_reducible apply State.setVfab_keeps
                  | with_reducible refine Keeps.foldl (fun _ _ _ => ?_) ?_
                  | with_reducible refine Keeps.foldlFst (fun _ _ _ => ?_) ?_
                  | with_reducible refine Keeps.foldlSnd (fun _ _ _ => ?_) ?_ | simp only [Keeps.record]
                  | with_reducible refine Keeps.of_snd ‹_ = (_, _)› ?_
                  | with_reducible refine Keeps.of_fst ‹_ = (_, _)› ?_
                  | with_reducible refine Keeps.of_fst3 ‹_ = (_, _, _)› ?_ | with_reducible apply Keeps.ite
                  | split | dsimp only)

theorem State.checkSeals_keeps {a s : State} (h : Keeps a s) :
    Keeps a (State.checkSeals s) := by
  unfold State.checkSeals
  try dsimp only
  repeat' (first | with_reducible assumption | with_reducible apply State.doorPost_keeps
                  | with_reducible apply State.unsealed_keeps
                  | with_reducible refine Keeps.foldl (fun _ _ _ => ?_) ?_
                  | with_reducible refine Keeps.foldlFst (fun _ _ _ => ?_) ?_
                  | with_reducible refine Keeps.foldlSnd (fun _ _ _ => ?_) ?_ | simp only [Keeps.record]
                  | with_reducible refine Keeps.of_snd ‹_ = (_, _)› ?_
                  | with_reducible refine Keeps.of_fst ‹_ = (_, _)› ?_
                  | with_reducible refine Keeps.of_fst3 ‹_ = (_, _, _)› ?_ | with_reducible apply Keeps.ite
                  | split | dsimp only)

theorem State.blockLate_keeps {a s : State} {x1} (h : Keeps a s) :
    Keeps a (State.blockLate s x1) := by
  unfold State.blockLate
  try dsimp only
  repeat' (first | with_reducible assumption | with_reducible apply State.advance_keeps
                  | with_reducible apply State.err_keeps | with_reducible apply State.handFault_keeps
                  | simp only [Keeps.record] | with_reducible refine Keeps.of_snd ‹_ = (_, _)› ?_
                  | with_reducible refine Keeps.of_fst ‹_ = (_, _)› ?_
                  | with_reducible refine Keeps.of_fst3 ‹_ = (_, _, _)› ?_ | with_reducible apply Keeps.ite
                  | split | dsimp only)

theorem State.releaseLate_keeps {a s : State} {x1} (h : Keeps a s) :
    Keeps a (State.releaseLate s x1) := by
  unfold State.releaseLate
  try dsimp only
  repeat' (first | with_reducible assumption | with_reducible apply State.advance_keeps
                  | with_reducible apply State.err_keeps | with_reducible apply State.handDrain_keeps
                  | simp only [Keeps.record] | with_reducible refine Keeps.of_snd ‹_ = (_, _)› ?_
                  | with_reducible refine Keeps.of_fst ‹_ = (_, _)› ?_
                  | with_reducible refine Keeps.of_fst3 ‹_ = (_, _, _)› ?_ | with_reducible apply Keeps.ite
                  | split | dsimp only)

theorem State.doorReply_keeps {a s : State} {x1} {x2} {x3} {x4} {x5} {x6} (h : Keeps a s) :
    Keeps a (State.doorReply s x1 x2 x3 x4 x5 x6) := by
  unfold State.doorReply
  try dsimp only
  repeat' (first | with_reducible assumption | with_reducible apply State.doorPost_keeps | simp only [Keeps.record]
                  | with_reducible refine Keeps.of_snd ‹_ = (_, _)› ?_
                  | with_reducible refine Keeps.of_fst ‹_ = (_, _)› ?_
                  | with_reducible refine Keeps.of_fst3 ‹_ = (_, _, _)› ?_ | with_reducible apply Keeps.ite
                  | split | dsimp only)

theorem State.doorTake_keeps {a s : State} {x1} {x2} {x3} (h3 : ∀ y0, Keeps a y0 → Keeps a (x3 y0)) (h : Keeps a s) :
    Keeps a (State.doorTake s x1 x2 x3) := by
  unfold State.doorTake
  try dsimp only
  repeat' (first | with_reducible assumption | with_reducible apply State.uev_keeps
                  | with_reducible apply State.setF_keeps | with_reducible apply State.doorReply_keeps
                  | with_reducible apply State.haltDoor_keeps | with_reducible apply State.violation_keeps
                  | simp only [Keeps.record] | with_reducible apply h3
                  | with_reducible refine Keeps.of_snd ‹_ = (_, _)› ?_
                  | with_reducible refine Keeps.of_fst ‹_ = (_, _)› ?_
                  | with_reducible refine Keeps.of_fst3 ‹_ = (_, _, _)› ?_ | with_reducible apply Keeps.ite
                  | split | dsimp only)

theorem State.doorViol_keeps {a s : State} {x1} {x2} (h : Keeps a s) :
    Keeps a (State.doorViol s x1 x2) := by
  unfold State.doorViol
  try dsimp only
  repeat' (first | with_reducible assumption | with_reducible apply State.err_keeps
                  | with_reducible apply State.doorReply_keeps | simp only [Keeps.record]
                  | with_reducible refine Keeps.of_snd ‹_ = (_, _)› ?_
                  | with_reducible refine Keeps.of_fst ‹_ = (_, _)› ?_
                  | with_reducible refine Keeps.of_fst3 ‹_ = (_, _, _)› ?_ | with_reducible apply Keeps.ite
                  | split | dsimp only)

theorem msgEff_keeps {a s : State} {x0} {x1} {x2} (h : Keeps a s) :
    Keeps a (msgEff x0 x1 x2 s) := by
  unfold msgEff
  try dsimp only
  repeat' (first | with_reducible assumption | with_reducible refine State.doorTake_keeps (fun _ _ => ?_) ?_
                  | with_reducible apply State.doorViol_keeps | with_reducible apply State.doorReply_keeps
                  | with_reducible apply State.doorPost_keeps | simp only [Keeps.record]
                  | with_reducible refine Keeps.of_snd ‹_ = (_, _)› ?_
                  | with_reducible refine Keeps.of_fst ‹_ = (_, _)› ?_
                  | with_reducible refine Keeps.of_fst3 ‹_ = (_, _, _)› ?_ | with_reducible apply Keeps.ite
                  | split | dsimp only)

theorem State.doorHost_keeps {a s : State} {x1} {x2} {x3} (h3 : ∀ y0, Keeps a y0 → Keeps a (x3 y0)) (h : Keeps a s) :
    Keeps a (State.doorHost s x1 x2 x3) := by
  unfold State.doorHost
  try dsimp only
  repeat' (first | with_reducible assumption | with_reducible refine State.doorTake_keeps (fun _ _ => ?_) ?_
                  | with_reducible apply State.doorViol_keeps | simp only [Keeps.record]
                  | with_reducible apply h3 | with_reducible refine Keeps.of_snd ‹_ = (_, _)› ?_
                  | with_reducible refine Keeps.of_fst ‹_ = (_, _)› ?_
                  | with_reducible refine Keeps.of_fst3 ‹_ = (_, _, _)› ?_ | with_reducible apply Keeps.ite
                  | split | dsimp only)

theorem State.doorPocket_keeps {a s : State} {x1} {x2} {x3} {x4} (h4 : ∀ y0, Keeps a y0 → Keeps a (x4 y0)) (h : Keeps a s) :
    Keeps a (State.doorPocket s x1 x2 x3 x4) := by
  unfold State.doorPocket
  try dsimp only
  repeat' (first | with_reducible assumption | with_reducible refine State.doorHost_keeps (fun _ _ => ?_) ?_
                  | with_reducible apply State.doorReply_keeps | simp only [Keeps.record]
                  | with_reducible apply h4 | with_reducible refine Keeps.of_snd ‹_ = (_, _)› ?_
                  | with_reducible refine Keeps.of_fst ‹_ = (_, _)› ?_
                  | with_reducible refine Keeps.of_fst3 ‹_ = (_, _, _)› ?_ | with_reducible apply Keeps.ite
                  | split | dsimp only)

theorem State.flushLines_keeps {a s : State} {x1} {x2} (h : Keeps a s) :
    Keeps a (State.flushLines s x1 x2) := by
  unfold State.flushLines
  try dsimp only
  repeat' (first | with_reducible assumption | with_reducible apply State.evictEnt_keeps
                  | with_reducible apply State.homeWrite_keeps | with_reducible apply State.updPort_keeps
                  | with_reducible apply State.updHart_keeps
                  | with_reducible refine Keeps.foldl (fun _ _ _ => ?_) ?_
                  | with_reducible refine Keeps.foldlFst (fun _ _ _ => ?_) ?_
                  | with_reducible refine Keeps.foldlSnd (fun _ _ _ => ?_) ?_ | simp only [Keeps.record]
                  | with_reducible refine Keeps.of_snd ‹_ = (_, _)› ?_
                  | with_reducible refine Keeps.of_fst ‹_ = (_, _)› ?_
                  | with_reducible refine Keeps.of_fst3 ‹_ = (_, _, _)› ?_ | with_reducible apply Keeps.ite
                  | split | dsimp only)

theorem State.rangeKey_keeps {a s : State} {x1} {x2} {x3} (h : Keeps a s) :
    Keeps a (State.rangeKey s x1 x2 x3) := by
  unfold State.rangeKey
  try dsimp only
  repeat' (first | with_reducible assumption | with_reducible apply State.flushLines_keeps
                  | with_reducible apply State.rekey_keeps | simp only [Keeps.record]
                  | with_reducible refine Keeps.of_snd ‹_ = (_, _)› ?_
                  | with_reducible refine Keeps.of_fst ‹_ = (_, _)› ?_
                  | with_reducible refine Keeps.of_fst3 ‹_ = (_, _, _)› ?_ | with_reducible apply Keeps.ite
                  | split | dsimp only)

theorem rangeAddEff_keeps {a s : State} {x0} {x1} {x2} {x3} {x4} {x5} {x6} (h : Keeps a s) :
    Keeps a (rangeAddEff x0 x1 x2 x3 x4 x5 x6 s) := by
  unfold rangeAddEff
  try dsimp only
  repeat' (first | with_reducible assumption | with_reducible refine State.doorPocket_keeps (fun _ _ => ?_) ?_
                  | with_reducible apply State.doorReply_keeps | with_reducible apply State.updPocket_keeps
                  | with_reducible apply State.rangeKey_keeps | simp only [Keeps.record]
                  | with_reducible refine Keeps.of_snd ‹_ = (_, _)› ?_
                  | with_reducible refine Keeps.of_fst ‹_ = (_, _)› ?_
                  | with_reducible refine Keeps.of_fst3 ‹_ = (_, _, _)› ?_ | with_reducible apply Keeps.ite
                  | split | dsimp only)

theorem doorEnableEff_keeps {a s : State} {x0} {x1} {x2} (h : Keeps a s) :
    Keeps a (doorEnableEff x0 x1 x2 s) := by
  unfold doorEnableEff
  try dsimp only
  repeat' (first | with_reducible assumption | with_reducible refine State.ctlGuard_keeps (fun _ _ => ?_) ?_
                  | with_reducible apply State.setF_keeps | with_reducible apply State.wr_keeps
                  | with_reducible apply State.doorPump_keeps | simp only [Keeps.record]
                  | with_reducible refine Keeps.of_snd ‹_ = (_, _)› ?_
                  | with_reducible refine Keeps.of_fst ‹_ = (_, _)› ?_
                  | with_reducible refine Keeps.of_fst3 ‹_ = (_, _, _)› ?_ | with_reducible apply Keeps.ite
                  | split | dsimp only)

theorem resetVecEff_keeps {a s : State} {x0} {x1} {x2} (h : Keeps a s) :
    Keeps a (resetVecEff x0 x1 x2 s) := by
  unfold resetVecEff
  try dsimp only
  repeat' (first | with_reducible assumption | with_reducible refine State.doorHost_keeps (fun _ _ => ?_) ?_
                  | with_reducible apply State.doorReply_keeps | with_reducible apply State.setF_keeps
                  | simp only [Keeps.record] | with_reducible refine Keeps.of_snd ‹_ = (_, _)› ?_
                  | with_reducible refine Keeps.of_fst ‹_ = (_, _)› ?_
                  | with_reducible refine Keeps.of_fst3 ‹_ = (_, _, _)› ?_ | with_reducible apply Keeps.ite
                  | split | dsimp only)

theorem releaseEff_keeps {a s : State} {x0} {x1} (h : Keeps a s) :
    Keeps a (releaseEff x0 x1 s) := by
  unfold releaseEff
  try dsimp only
  repeat' (first | with_reducible assumption | with_reducible refine State.doorTake_keeps (fun _ _ => ?_) ?_
                  | with_reducible apply State.doorViol_keeps | with_reducible apply State.checkSeals_keeps
                  | with_reducible apply State.handDrain_keeps | with_reducible apply State.updHand_keeps
                  | with_reducible apply State.doorReply_keeps | with_reducible apply State.handStart_keeps
                  | simp only [Keeps.record] | with_reducible refine Keeps.of_snd ‹_ = (_, _)› ?_
                  | with_reducible refine Keeps.of_fst ‹_ = (_, _)› ?_
                  | with_reducible refine Keeps.of_fst3 ‹_ = (_, _, _)› ?_ | with_reducible apply Keeps.ite
                  | split | dsimp only)

theorem State.dropRange_keeps {a s : State} {x1} {x2} (h : Keeps a s) :
    Keeps a (State.dropRange s x1 x2) := by
  unfold State.dropRange
  try dsimp only
  repeat' (first | with_reducible assumption | with_reducible apply State.rangeKey_keeps
                  | with_reducible apply State.updPocket_keeps | simp only [Keeps.record]
                  | with_reducible refine Keeps.of_snd ‹_ = (_, _)› ?_
                  | with_reducible refine Keeps.of_fst ‹_ = (_, _)› ?_
                  | with_reducible refine Keeps.of_fst3 ‹_ = (_, _, _)› ?_ | with_reducible apply Keeps.ite
                  | split | dsimp only)

theorem rangeRemoveEff_keeps {a s : State} {x0} {x1} {x2} (h : Keeps a s) :
    Keeps a (rangeRemoveEff x0 x1 x2 s) := by
  unfold rangeRemoveEff
  try dsimp only
  repeat' (first | with_reducible assumption | with_reducible refine State.doorTake_keeps (fun _ _ => ?_) ?_
                  | with_reducible apply State.doorViol_keeps | with_reducible apply State.doorReply_keeps
                  | with_reducible apply State.updPocket_keeps | with_reducible apply State.dropRange_keeps
                  | simp only [Keeps.record] | with_reducible refine Keeps.of_snd ‹_ = (_, _)› ?_
                  | with_reducible refine Keeps.of_fst ‹_ = (_, _)› ?_
                  | with_reducible refine Keeps.of_fst3 ‹_ = (_, _, _)› ?_ | with_reducible apply Keeps.ite
                  | split | dsimp only)

theorem createEff_keeps {a s : State} {x0} {x1} {x2} {x3} {x4} {x5} (h : Keeps a s) :
    Keeps a (createEff x0 x1 x2 x3 x4 x5 s) := by
  unfold createEff
  try dsimp only
  repeat' (first | with_reducible assumption | with_reducible refine State.doorPocket_keeps (fun _ _ => ?_) ?_
                  | with_reducible apply State.doorReply_keeps | with_reducible apply State.updPocket_keeps
                  | with_reducible apply State.wr_keeps | with_reducible apply State.setF_keeps
                  | simp only [Keeps.record] | with_reducible refine Keeps.of_snd ‹_ = (_, _)› ?_
                  | with_reducible refine Keeps.of_fst ‹_ = (_, _)› ?_
                  | with_reducible refine Keeps.of_fst3 ‹_ = (_, _, _)› ?_ | with_reducible apply Keeps.ite
                  | split | dsimp only)

theorem armEff_keeps {a s : State} {x0} {x1} (h : Keeps a s) :
    Keeps a (armEff x0 x1 s) := by
  unfold armEff
  try dsimp only
  repeat' (first | with_reducible assumption | with_reducible refine State.doorPocket_keeps (fun _ _ => ?_) ?_
                  | with_reducible apply State.doorReply_keeps | with_reducible apply State.showMode_keeps
                  | with_reducible apply State.updPocket_keeps | simp only [Keeps.record]
                  | with_reducible refine Keeps.of_snd ‹_ = (_, _)› ?_
                  | with_reducible refine Keeps.of_fst ‹_ = (_, _)› ?_
                  | with_reducible refine Keeps.of_fst3 ‹_ = (_, _, _)› ?_ | with_reducible apply Keeps.ite
                  | split | dsimp only)

theorem randomEff_keeps {a s : State} {x0} (h : Keeps a s) :
    Keeps a (randomEff x0 s) := by
  unfold randomEff
  try dsimp only
  repeat' (first | with_reducible assumption | with_reducible refine State.doorTake_keeps (fun _ _ => ?_) ?_
                  | with_reducible apply State.randomBytes_keeps | with_reducible apply State.doorReply_keeps
                  | simp only [Keeps.record] | with_reducible refine Keeps.of_snd ‹_ = (_, _)› ?_
                  | with_reducible refine Keeps.of_fst ‹_ = (_, _)› ?_
                  | with_reducible refine Keeps.of_fst3 ‹_ = (_, _, _)› ?_ | with_reducible apply Keeps.ite
                  | split | dsimp only)

theorem unsealEff_keeps {a s : State} {x0} {x1} (h : Keeps a s) :
    Keeps a (unsealEff x0 x1 s) := by
  unfold unsealEff
  try dsimp only
  repeat' (first | with_reducible assumption | with_reducible refine State.doorPocket_keeps (fun _ _ => ?_) ?_
                  | with_reducible apply State.doorReply_keeps | with_reducible apply State.unsealed_keeps
                  | simp only [Keeps.record] | with_reducible refine Keeps.of_snd ‹_ = (_, _)› ?_
                  | with_reducible refine Keeps.of_fst ‹_ = (_, _)› ?_
                  | with_reducible refine Keeps.of_fst3 ‹_ = (_, _, _)› ?_ | with_reducible apply Keeps.ite
                  | split | dsimp only)

theorem exportSetEff_keeps {a s : State} {x0} {x1} {x2} {x3} {x4} {x5} (h : Keeps a s) :
    Keeps a (exportSetEff x0 x1 x2 x3 x4 x5 s) := by
  unfold exportSetEff
  try dsimp only
  repeat' (first | with_reducible assumption | with_reducible refine State.doorTake_keeps (fun _ _ => ?_) ?_
                  | with_reducible apply State.doorReply_keeps | with_reducible apply State.setF_keeps
                  | simp only [Keeps.record] | with_reducible refine Keeps.of_snd ‹_ = (_, _)› ?_
                  | with_reducible refine Keeps.of_fst ‹_ = (_, _)› ?_
                  | with_reducible refine Keeps.of_fst3 ‹_ = (_, _, _)› ?_ | with_reducible apply Keeps.ite
                  | split | dsimp only)

theorem State.destroyEnd_keeps {a s : State} {x1} {x2} (h : Keeps a s) :
    Keeps a (State.destroyEnd s x1 x2) := by
  unfold State.destroyEnd
  try dsimp only
  repeat' (first | with_reducible assumption | with_reducible apply State.dropRange_keeps
                  | with_reducible apply State.wr_keeps | with_reducible apply State.doorPost_keeps
                  | with_reducible apply State.setVfab_keeps | with_reducible apply State.showMode_keeps
                  | with_reducible refine Keeps.foldl (fun _ _ _ => ?_) ?_
                  | with_reducible refine Keeps.foldlFst (fun _ _ _ => ?_) ?_
                  | with_reducible refine Keeps.foldlSnd (fun _ _ _ => ?_) ?_ | simp only [Keeps.record]
                  | with_reducible refine Keeps.of_snd ‹_ = (_, _)› ?_
                  | with_reducible refine Keeps.of_fst ‹_ = (_, _)› ?_
                  | with_reducible refine Keeps.of_fst3 ‹_ = (_, _, _)› ?_ | with_reducible apply Keeps.ite
                  | split | dsimp only)

theorem rplHeadWriteEff_keeps {a s : State} {x0} {x1} {x2} (h : Keeps a s) :
    Keeps a (rplHeadWriteEff x0 x1 x2 s) := by
  unfold rplHeadWriteEff
  try dsimp only
  repeat' (first | with_reducible assumption | with_reducible refine State.ctlGuard_keeps (fun _ _ => ?_) ?_
                  | with_reducible apply State.doorPump_keeps | with_reducible apply State.setF_keeps
                  | simp only [Keeps.record] | with_reducible refine Keeps.of_snd ‹_ = (_, _)› ?_
                  | with_reducible refine Keeps.of_fst ‹_ = (_, _)› ?_
                  | with_reducible refine Keeps.of_fst3 ‹_ = (_, _, _)› ?_ | with_reducible apply Keeps.ite
                  | split | dsimp only)

theorem State.resumeLowered_keeps {a s : State} {x1} (h : Keeps a s) :
    Keeps a (State.resumeLowered s x1) := by
  unfold State.resumeLowered
  try dsimp only
  repeat' (first | with_reducible assumption | with_reducible apply State.updHart_keeps
                  | with_reducible refine Keeps.foldl (fun _ _ _ => ?_) ?_
                  | with_reducible refine Keeps.foldlFst (fun _ _ _ => ?_) ?_
                  | with_reducible refine Keeps.foldlSnd (fun _ _ _ => ?_) ?_ | simp only [Keeps.record]
                  | with_reducible refine Keeps.of_snd ‹_ = (_, _)› ?_
                  | with_reducible refine Keeps.of_fst ‹_ = (_, _)› ?_
                  | with_reducible refine Keeps.of_fst3 ‹_ = (_, _, _)› ?_ | with_reducible apply Keeps.ite
                  | split | dsimp only)

theorem fabricTagEff_keeps {a s : State} {x0} {x1} {x2} (h : Keeps a s) :
    Keeps a (fabricTagEff x0 x1 x2 s) := by
  unfold fabricTagEff
  try dsimp only
  repeat' (first | with_reducible assumption | with_reducible refine State.doorHost_keeps (fun _ _ => ?_) ?_
                  | with_reducible apply State.doorReply_keeps | simp only [Keeps.record]
                  | with_reducible refine Keeps.of_snd ‹_ = (_, _)› ?_
                  | with_reducible refine Keeps.of_fst ‹_ = (_, _)› ?_
                  | with_reducible refine Keeps.of_fst3 ‹_ = (_, _, _)› ?_ | with_reducible apply Keeps.ite
                  | split | dsimp only)

theorem destroyEff_keeps {a s : State} {x0} {x1} (h : Keeps a s) :
    Keeps a (destroyEff x0 x1 s) := by
  unfold destroyEff
  try dsimp only
  repeat' (first | with_reducible assumption | with_reducible refine State.doorPocket_keeps (fun _ _ => ?_) ?_
                  | with_reducible apply State.doorReply_keeps | with_reducible apply State.unsealed_keeps
                  | with_reducible apply State.updPocket_keeps | with_reducible apply State.wakeHart_keeps
                  | with_reducible apply State.forceExit_keeps | with_reducible apply State.handStart_keeps
                  | with_reducible apply State.destroyEnd_keeps
                  | with_reducible refine Keeps.foldl (fun _ _ _ => ?_) ?_
                  | with_reducible refine Keeps.foldlFst (fun _ _ _ => ?_) ?_
                  | with_reducible refine Keeps.foldlSnd (fun _ _ _ => ?_) ?_ | simp only [Keeps.record]
                  | with_reducible refine Keeps.of_snd ‹_ = (_, _)› ?_
                  | with_reducible refine Keeps.of_fst ‹_ = (_, _)› ?_
                  | with_reducible refine Keeps.of_fst3 ‹_ = (_, _, _)› ?_ | with_reducible apply Keeps.ite
                  | split | dsimp only)

theorem assignEff_keeps {a s : State} {x0} {x1} {x2} {x3} (h : Keeps a s) :
    Keeps a (assignEff x0 x1 x2 x3 s) := by
  unfold assignEff
  try dsimp only
  repeat' (first | with_reducible assumption | with_reducible refine State.doorPocket_keeps (fun _ _ => ?_) ?_
                  | with_reducible apply State.doorReply_keeps | with_reducible apply State.setOwner_keeps
                  | with_reducible apply State.handStart_keeps | simp only [Keeps.record]
                  | with_reducible refine Keeps.of_snd ‹_ = (_, _)› ?_
                  | with_reducible refine Keeps.of_fst ‹_ = (_, _)› ?_
                  | with_reducible refine Keeps.of_fst3 ‹_ = (_, _, _)› ?_ | with_reducible apply Keeps.ite
                  | split | dsimp only)

theorem sealEff_keeps {a s : State} {x0} {x1} (h : Keeps a s) :
    Keeps a (sealEff x0 x1 s) := by
  unfold sealEff
  try dsimp only
  repeat' (first | with_reducible assumption | with_reducible refine State.doorPocket_keeps (fun _ _ => ?_) ?_
                  | with_reducible apply State.doorReply_keeps | with_reducible apply State.showMode_keeps
                  | with_reducible apply State.updPocket_keeps | with_reducible apply State.setF_keeps
                  | with_reducible refine Keeps.foldl (fun _ _ _ => ?_) ?_
                  | with_reducible refine Keeps.foldlFst (fun _ _ _ => ?_) ?_
                  | with_reducible refine Keeps.foldlSnd (fun _ _ _ => ?_) ?_ | simp only [Keeps.record]
                  | with_reducible refine Keeps.of_snd ‹_ = (_, _)› ?_
                  | with_reducible refine Keeps.of_fst ‹_ = (_, _)› ?_
                  | with_reducible refine Keeps.of_fst3 ‹_ = (_, _, _)› ?_ | with_reducible apply Keeps.ite
                  | split | dsimp only)

theorem debugGrantEff_keeps {a s : State} {x0} {x1} {x2} (h : Keeps a s) :
    Keeps a (debugGrantEff x0 x1 x2 s) := by
  unfold debugGrantEff
  try dsimp only
  repeat' (first | with_reducible assumption | with_reducible refine State.doorTake_keeps (fun _ _ => ?_) ?_
                  | with_reducible apply State.doorReply_keeps | with_reducible apply State.setF_keeps
                  | with_reducible apply State.resumeLowered_keeps | simp only [Keeps.record]
                  | with_reducible refine Keeps.of_snd ‹_ = (_, _)› ?_
                  | with_reducible refine Keeps.of_fst ‹_ = (_, _)› ?_
                  | with_reducible refine Keeps.of_fst3 ‹_ = (_, _, _)› ?_ | with_reducible apply Keeps.ite
                  | split | dsimp only)

theorem State.updHport_keeps {a s : State} {x1} {x2} (h : Keeps a s) :
    Keeps a (State.updHport s x1 x2) := by
  unfold State.updHport
  try dsimp only
  repeat' (first | with_reducible assumption | simp only [Keeps.record]
                  | with_reducible refine Keeps.of_snd ‹_ = (_, _)› ?_
                  | with_reducible refine Keeps.of_fst ‹_ = (_, _)› ?_
                  | with_reducible refine Keeps.of_fst3 ‹_ = (_, _, _)› ?_ | with_reducible apply Keeps.ite
                  | split | dsimp only)

theorem State.sendHello_keeps {a s : State} {x1} (h : Keeps a s) :
    Keeps a (State.sendHello s x1) := by
  unfold State.sendHello
  try dsimp only
  repeat' (first | with_reducible assumption | with_reducible apply State.updHport_keeps | simp only [Keeps.record]
                  | with_reducible refine Keeps.of_snd ‹_ = (_, _)› ?_
                  | with_reducible refine Keeps.of_fst ‹_ = (_, _)› ?_
                  | with_reducible refine Keeps.of_fst3 ‹_ = (_, _, _)› ?_ | with_reducible apply Keeps.ite
                  | split | dsimp only)

theorem State.helloAll_keeps {a s : State} (h : Keeps a s) :
    Keeps a (State.helloAll s) := by
  unfold State.helloAll
  try dsimp only
  repeat' (first | with_reducible assumption | with_reducible apply State.sendHello_keeps
                  | with_reducible refine Keeps.foldl (fun _ _ _ => ?_) ?_
                  | with_reducible refine Keeps.foldlFst (fun _ _ _ => ?_) ?_
                  | with_reducible refine Keeps.foldlSnd (fun _ _ _ => ?_) ?_ | simp only [Keeps.record]
                  | with_reducible refine Keeps.of_snd ‹_ = (_, _)› ?_
                  | with_reducible refine Keeps.of_fst ‹_ = (_, _)› ?_
                  | with_reducible refine Keeps.of_fst3 ‹_ = (_, _, _)› ?_ | with_reducible apply Keeps.ite
                  | split | dsimp only)

theorem State.setPort_keeps {a s : State} {x1} {x2} (h : Keeps a s) :
    Keeps a (State.setPort s x1 x2) := by
  unfold State.setPort
  try dsimp only
  repeat' (first | with_reducible assumption | with_reducible apply State.setF_keeps | simp only [Keeps.record]
                  | with_reducible refine Keeps.of_snd ‹_ = (_, _)› ?_
                  | with_reducible refine Keeps.of_fst ‹_ = (_, _)› ?_
                  | with_reducible refine Keeps.of_fst3 ‹_ = (_, _, _)› ?_ | with_reducible apply Keeps.ite
                  | split | dsimp only)

theorem State.trainStart_keeps {a s : State} {x1} (h : Keeps a s) :
    Keeps a (State.trainStart s x1) := by
  unfold State.trainStart
  try dsimp only
  repeat' (first | with_reducible assumption | with_reducible apply State.incF_keeps
                  | with_reducible apply State.setPort_keeps | with_reducible apply State.setF_keeps
                  | with_reducible apply State.updHport_keeps | simp only [Keeps.record]
                  | with_reducible refine Keeps.of_snd ‹_ = (_, _)› ?_
                  | with_reducible refine Keeps.of_fst ‹_ = (_, _)› ?_
                  | with_reducible refine Keeps.of_fst3 ‹_ = (_, _, _)› ?_ | with_reducible apply Keeps.ite
                  | split | dsimp only)

theorem State.startPorts_keeps {a s : State} (h : Keeps a s) :
    Keeps a (State.startPorts s) := by
  unfold State.startPorts
  try dsimp only
  repeat' (first | with_reducible assumption | with_reducible apply State.trainStart_keeps
                  | with_reducible refine Keeps.foldl (fun _ _ _ => ?_) ?_
                  | with_reducible refine Keeps.foldlFst (fun _ _ _ => ?_) ?_
                  | with_reducible refine Keeps.foldlSnd (fun _ _ _ => ?_) ?_ | simp only [Keeps.record]
                  | with_reducible refine Keeps.of_snd ‹_ = (_, _)› ?_
                  | with_reducible refine Keeps.of_fst ‹_ = (_, _)› ?_
                  | with_reducible refine Keeps.of_fst3 ‹_ = (_, _, _)› ?_ | with_reducible apply Keeps.ite
                  | split | dsimp only)

theorem State.portDrop_keeps {a s : State} {x1} {x2} (h : Keeps a s) :
    Keeps a (State.portDrop s x1 x2) := by
  unfold State.portDrop
  try dsimp only
  repeat' (first | with_reducible assumption | with_reducible apply State.incF_keeps | simp only [Keeps.record]
                  | with_reducible refine Keeps.of_snd ‹_ = (_, _)› ?_
                  | with_reducible refine Keeps.of_fst ‹_ = (_, _)› ?_
                  | with_reducible refine Keeps.of_fst3 ‹_ = (_, _, _)› ?_ | with_reducible apply Keeps.ite
                  | split | dsimp only)

theorem State.route_keeps {a s : State} {x1} {x2} {x3} (h : Keeps a s) :
    Keeps a (State.route s x1 x2 x3).2 := by
  unfold State.route
  try dsimp only
  repeat' (first | with_reducible assumption | with_reducible apply State.fresh_keeps | simp only [Keeps.record]
                  | with_reducible refine Keeps.of_snd ‹_ = (_, _)› ?_
                  | with_reducible refine Keeps.of_fst ‹_ = (_, _)› ?_
                  | with_reducible refine Keeps.of_fst3 ‹_ = (_, _, _)› ?_ | with_reducible apply Keeps.ite
                  | split | dsimp only)

theorem State.portSendList_keeps {a s : State} {x1} {x2} (h : Keeps a s) :
    Keeps a (State.portSendList s x1 x2) := by
  induction x2 generalizing s x1 with
  | nil =>
    unfold State.portSendList
    try dsimp only
    repeat' (first | with_reducible assumption | with_reducible apply State.updHport_keeps
                    | with_reducible apply State.portDrop_keeps | simp only [Keeps.record]
                    | with_reducible refine Keeps.of_snd ‹_ = (_, _)› ?_
                    | with_reducible refine Keeps.of_fst ‹_ = (_, _)› ?_
                    | with_reducible refine Keeps.of_fst3 ‹_ = (_, _, _)› ?_ | with_reducible apply Keeps.ite
                    | split | dsimp only)
  | cons y l ih =>
    unfold State.portSendList
    try dsimp only
    repeat' (first | with_reducible assumption | with_reducible apply ih | with_reducible apply State.updHport_keeps
                    | with_reducible apply State.portDrop_keeps | simp only [Keeps.record]
                    | with_reducible refine Keeps.of_snd ‹_ = (_, _)› ?_
                    | with_reducible refine Keeps.of_fst ‹_ = (_, _)› ?_
                    | with_reducible refine Keeps.of_fst3 ‹_ = (_, _, _)› ?_ | with_reducible apply Keeps.ite
                    | split | dsimp only)

theorem State.portPump_keeps {a s : State} {x1} (h : Keeps a s) :
    Keeps a (State.portPump s x1) := by
  unfold State.portPump
  try dsimp only
  repeat' (first | with_reducible assumption | with_reducible apply State.portSendList_keeps
                  | simp only [Keeps.record] | with_reducible refine Keeps.of_snd ‹_ = (_, _)› ?_
                  | with_reducible refine Keeps.of_fst ‹_ = (_, _)› ?_
                  | with_reducible refine Keeps.of_fst3 ‹_ = (_, _, _)› ?_ | with_reducible apply Keeps.ite
                  | split | dsimp only)

theorem State.portQueue_keeps {a s : State} {x1} {x2} (h : Keeps a s) :
    Keeps a (State.portQueue s x1 x2) := by
  unfold State.portQueue
  try dsimp only
  repeat' (first | with_reducible assumption | with_reducible apply State.portPump_keeps
                  | with_reducible apply State.updHport_keeps | simp only [Keeps.record]
                  | with_reducible refine Keeps.of_snd ‹_ = (_, _)› ?_
                  | with_reducible refine Keeps.of_fst ‹_ = (_, _)› ?_
                  | with_reducible refine Keeps.of_fst3 ‹_ = (_, _, _)› ?_ | with_reducible apply Keeps.ite
                  | split | dsimp only)

theorem State.portOut_keeps {a s : State} {x1} {x2} (h : Keeps a s) :
    Keeps a (State.portOut s x1 x2) := by
  unfold State.portOut
  try dsimp only
  repeat' (first | with_reducible assumption | with_reducible apply State.route_keeps
                  | with_reducible apply State.portQueue_keeps | simp only [Keeps.record]
                  | with_reducible refine Keeps.of_snd ‹_ = (_, _)› ?_
                  | with_reducible refine Keeps.of_fst ‹_ = (_, _)› ?_
                  | with_reducible refine Keeps.of_fst3 ‹_ = (_, _, _)› ?_ | with_reducible apply Keeps.ite
                  | split | dsimp only)

theorem State.portErr_keeps {a s : State} {x1} {x2} {x3} {x4} (h : Keeps a s) :
    Keeps a (State.portErr s x1 x2 x3 x4) := by
  unfold State.portErr
  try dsimp only
  repeat' (first | with_reducible assumption | with_reducible apply State.err_keeps | simp only [Keeps.record]
                  | with_reducible refine Keeps.of_snd ‹_ = (_, _)› ?_
                  | with_reducible refine Keeps.of_fst ‹_ = (_, _)› ?_
                  | with_reducible refine Keeps.of_fst3 ‹_ = (_, _, _)› ?_ | with_reducible apply Keeps.ite
                  | split | dsimp only)

theorem retryTimerEff_keeps {a s : State} {x0} (h : Keeps a s) :
    Keeps a (retryTimerEff x0 s) := by
  unfold retryTimerEff
  try dsimp only
  repeat' (first | with_reducible assumption | with_reducible apply State.trainStart_keeps
                  | with_reducible apply State.advance_keeps | simp only [Keeps.record]
                  | with_reducible refine Keeps.of_snd ‹_ = (_, _)› ?_
                  | with_reducible refine Keeps.of_fst ‹_ = (_, _)› ?_
                  | with_reducible refine Keeps.of_fst3 ‹_ = (_, _, _)› ?_ | with_reducible apply Keeps.ite
                  | split | dsimp only)

theorem lossOfSignalEff_keeps {a s : State} {x0} (h : Keeps a s) :
    Keeps a (lossOfSignalEff x0 s) := by
  unfold lossOfSignalEff
  try dsimp only
  repeat' (first | with_reducible assumption | with_reducible apply State.trainStart_keeps | simp only [Keeps.record]
                  | with_reducible refine Keeps.of_snd ‹_ = (_, _)› ?_
                  | with_reducible refine Keeps.of_fst ‹_ = (_, _)› ?_
                  | with_reducible refine Keeps.of_fst3 ‹_ = (_, _, _)› ?_ | with_reducible apply Keeps.ite
                  | split | dsimp only)

theorem nakEff_keeps {a s : State} {x0} {x1} (h : Keeps a s) :
    Keeps a (nakEff x0 x1 s) := by
  unfold nakEff
  try dsimp only
  repeat' (first | with_reducible assumption | with_reducible apply State.incF_keeps
                  | with_reducible apply State.updHport_keeps | with_reducible apply State.trainStart_keeps
                  | with_reducible apply State.portPump_keeps | simp only [Keeps.record]
                  | with_reducible refine Keeps.of_snd ‹_ = (_, _)› ?_
                  | with_reducible refine Keeps.of_fst ‹_ = (_, _)› ?_
                  | with_reducible refine Keeps.of_fst3 ‹_ = (_, _, _)› ?_ | with_reducible apply Keeps.ite
                  | split | dsimp only)

theorem trainTimeoutEff_keeps {a s : State} {x0} (h : Keeps a s) :
    Keeps a (trainTimeoutEff x0 s) := by
  unfold trainTimeoutEff
  try dsimp only
  repeat' (first | with_reducible assumption | with_reducible apply State.advance_keeps
                  | with_reducible apply State.setF_keeps | with_reducible apply State.updHport_keeps
                  | with_reducible apply State.setPort_keeps | with_reducible apply State.portErr_keeps
                  | simp only [Keeps.record] | with_reducible refine Keeps.of_snd ‹_ = (_, _)› ?_
                  | with_reducible refine Keeps.of_fst ‹_ = (_, _)› ?_
                  | with_reducible refine Keeps.of_fst3 ‹_ = (_, _, _)› ?_ | with_reducible apply Keeps.ite
                  | split | dsimp only)

theorem linkFrameEff_keeps {a s : State} {x0} {x1} {x2} {x3} {x4} (h : Keeps a s) :
    Keeps a (linkFrameEff x0 x1 x2 x3 x4 s) := by
  unfold linkFrameEff
  try dsimp only
  repeat' (first | with_reducible assumption | with_reducible apply State.updHport_keeps
                  | with_reducible apply State.portErr_keeps | with_reducible apply State.portPump_keeps
                  | simp only [Keeps.record] | with_reducible refine Keeps.of_snd ‹_ = (_, _)› ?_
                  | with_reducible refine Keeps.of_fst ‹_ = (_, _)› ?_
                  | with_reducible refine Keeps.of_fst3 ‹_ = (_, _, _)› ?_ | with_reducible apply Keeps.ite
                  | split | dsimp only)

theorem State.hrnEvent_keeps {a s : State} (h : Keeps a s) :
    Keeps a (State.hrnEvent s) := by
  unfold State.hrnEvent
  try dsimp only
  repeat' (first | with_reducible assumption | with_reducible apply State.setSource_keeps | simp only [Keeps.record]
                  | with_reducible refine Keeps.of_snd ‹_ = (_, _)› ?_
                  | with_reducible refine Keeps.of_fst ‹_ = (_, _)› ?_
                  | with_reducible refine Keeps.of_fst3 ‹_ = (_, _, _)› ?_ | with_reducible apply Keeps.ite
                  | split | dsimp only)

theorem portTrainedEff_keeps {a s : State} {x0} {x1} (h : Keeps a s) :
    Keeps a (portTrainedEff x0 x1 s) := by
  unfold portTrainedEff
  try dsimp only
  repeat' (first | with_reducible assumption | with_reducible apply State.setF_keeps
                  | with_reducible apply State.sendHello_keeps | with_reducible apply State.updHport_keeps
                  | simp only [Keeps.record] | with_reducible refine Keeps.of_snd ‹_ = (_, _)› ?_
                  | with_reducible refine Keeps.of_fst ‹_ = (_, _)› ?_
                  | with_reducible refine Keeps.of_fst3 ‹_ = (_, _, _)› ?_ | with_reducible apply Keeps.ite
                  | split | dsimp only)

theorem State.romStart_keeps {a s : State} (h : Keeps a s) :
    Keeps a (State.romStart s) := by
  unfold State.romStart
  try dsimp only
  repeat' (first | with_reducible assumption | with_reducible apply State.extendMeas_keeps
                  | with_reducible apply State.showIdentity_keeps | with_reducible apply State.showFuses_keeps
                  | with_reducible apply State.newNonce_keeps | with_reducible apply State.draw_keeps
                  | with_reducible apply State.setStep_keeps | simp only [Keeps.record]
                  | with_reducible refine Keeps.of_snd ‹_ = (_, _)› ?_
                  | with_reducible refine Keeps.of_fst ‹_ = (_, _)› ?_
                  | with_reducible refine Keeps.of_fst3 ‹_ = (_, _, _)› ?_ | with_reducible apply Keeps.ite
                  | split | dsimp only)

theorem State.coldStart_keeps {a s : State} {x1 x2 x3} (h : Keeps a s) : Keeps a (State.coldStart s x1 x2 x3) := by
  unfold State.coldStart
  try dsimp only
  repeat' (first | with_reducible assumption | with_reducible apply State.romStart_keeps
                  | with_reducible apply State.err_keeps | simp only [Keeps.record]
                  | with_reducible apply Keeps.ite)

theorem State.mbxAuth_keeps {a s : State} {x1} {x2} {x3} {x4} (h4 : ∀ y0 y1 y2, Keeps a y2 → Keeps a (x4 y0 y1 y2).2) (h : Keeps a s) :
    Keeps a (State.mbxAuth s x1 x2 x3 x4) := by
  unfold State.mbxAuth
  try dsimp only
  repeat' (first | with_reducible assumption | with_reducible refine State.mbxRun_keeps (fun _ _ => ?_) ?_
                  | with_reducible apply State.mbxEnd_keeps | with_reducible apply State.newNonce_keeps
                  | simp only [Keeps.record] | with_reducible apply h4
                  | with_reducible refine Keeps.of_snd ‹_ = (_, _)› ?_
                  | with_reducible refine Keeps.of_fst ‹_ = (_, _)› ?_
                  | with_reducible refine Keeps.of_fst3 ‹_ = (_, _, _)› ?_ | with_reducible apply Keeps.ite
                  | split | dsimp only)

theorem hostVerifyEff_keeps {a s : State} {x0} (h : Keeps a s) : Keeps a (hostVerifyEff x0 s) := by
  unfold hostVerifyEff
  refine State.mbxAuth_keeps (fun _ _ s hs => ?_) h
  refine State.showFuses_keeps (hs.program ?_)
  exact ⟨⟨rfl, rfl, rfl⟩, fun _ h => ⟨h, rfl⟩, fun _ h => h, le_rfl, le_rfl, fun _ => rfl⟩

theorem svcPerstNEff_keeps {a s : State} (h : Keeps a s) :
    Keeps a (svcPerstNEff s) := by
  unfold svcPerstNEff
  try dsimp only
  repeat' (first | with_reducible assumption | with_reducible apply linkDownEff_keeps | simp only [Keeps.record]
                  | with_reducible refine Keeps.of_snd ‹_ = (_, _)› ?_
                  | with_reducible refine Keeps.of_fst ‹_ = (_, _)› ?_
                  | with_reducible refine Keeps.of_fst3 ‹_ = (_, _, _)› ?_ | with_reducible apply Keeps.ite
                  | split | dsimp only)

theorem State.warmBase_keeps {a s : State} (h : Keeps a s) : Keeps a (State.warmBase s) :=
  ⟨h.queue, fun _ => rfl, fun _ => rfl, h.fuses, h.tape⟩

theorem State.keepBoot_keeps {a s : State} {t : State} (h : Keeps a s) (h2 : Keeps a t) :
    Keeps a (State.keepBoot s t) := by
  unfold State.keepBoot
  try dsimp only
  repeat' (first | with_reducible assumption | with_reducible apply State.setF_keeps | simp only [Keeps.record]
                  | with_reducible refine Keeps.of_snd ‹_ = (_, _)› ?_
                  | with_reducible refine Keeps.of_fst ‹_ = (_, _)› ?_
                  | with_reducible refine Keeps.of_fst3 ‹_ = (_, _, _)› ?_ | with_reducible apply Keeps.ite
                  | split | dsimp only)

theorem State.warmAll_keeps {a s : State} (h : Keeps a s) :
    Keeps a (State.warmAll s) := by
  unfold State.warmAll
  try dsimp only
  repeat' (first | with_reducible assumption | with_reducible apply State.accrueAll_keeps
                  | with_reducible apply State.wr_keeps | with_reducible apply State.warmBase_keeps
                  | with_reducible apply State.setF_keeps | with_reducible apply State.romStart_keeps
                  | with_reducible apply State.keepBoot_keeps | simp only [Keeps.record]
                  | with_reducible refine Keeps.of_snd ‹_ = (_, _)› ?_
                  | with_reducible refine Keeps.of_fst ‹_ = (_, _)› ?_
                  | with_reducible refine Keeps.of_fst3 ‹_ = (_, _, _)› ?_ | with_reducible apply Keeps.ite
                  | split | dsimp only)

theorem warmResetEff_keeps {a s : State} {x0} (h : Keeps a s) :
    Keeps a (warmResetEff x0 s) := by
  unfold warmResetEff
  try dsimp only
  repeat' (first | with_reducible assumption | with_reducible refine State.mbxRun_keeps (fun _ _ => ?_) ?_
                  | with_reducible apply State.warmAll_keeps | simp only [Keeps.record]
                  | with_reducible refine Keeps.of_snd ‹_ = (_, _)› ?_
                  | with_reducible refine Keeps.of_fst ‹_ = (_, _)› ?_
                  | with_reducible refine Keeps.of_fst3 ‹_ = (_, _, _)› ?_ | with_reducible apply Keeps.ite
                  | split | dsimp only)

theorem State.hostOwners_keeps {a s : State} (h : Keeps a s) :
    Keeps a (State.hostOwners s) := by
  unfold State.hostOwners
  try dsimp only
  repeat' (first | with_reducible assumption | with_reducible apply State.wr_keeps
                  | with_reducible refine Keeps.foldl (fun _ _ _ => ?_) ?_
                  | with_reducible refine Keeps.foldlFst (fun _ _ _ => ?_) ?_
                  | with_reducible refine Keeps.foldlSnd (fun _ _ _ => ?_) ?_ | simp only [Keeps.record]
                  | with_reducible refine Keeps.of_snd ‹_ = (_, _)› ?_
                  | with_reducible refine Keeps.of_fst ‹_ = (_, _)› ?_
                  | with_reducible refine Keeps.of_fst3 ‹_ = (_, _, _)› ?_ | with_reducible apply Keeps.ite
                  | split | dsimp only)

theorem setFabricKeyEff_keeps {a s : State} {x0} (h : Keeps a s) : Keeps a (setFabricKeyEff x0 s) := by
  unfold setFabricKeyEff
  refine State.mbxAuth_keeps (fun _ _ s hs => ?_) h
  refine State.setF_keeps ?_
  have := hs.program (o := { s.otp with fabricKey := some (leNat (seg ‹List Byte› 0 32)) })
    ⟨⟨rfl, rfl, rfl⟩, fun _ h => ⟨h, rfl⟩, fun _ h => h, le_rfl, le_rfl, fun h => h⟩
  exact Keeps.record.mpr this

theorem State.quoteOver_keeps {a s : State} {x1} (h : Keeps a s) :
    Keeps a (State.quoteOver s x1).2 := by
  unfold State.quoteOver
  try dsimp only
  repeat' (first | with_reducible assumption | with_reducible apply State.randomBytes_keeps | simp only [Keeps.record]
                  | with_reducible refine Keeps.of_snd ‹_ = (_, _)› ?_
                  | with_reducible refine Keeps.of_fst ‹_ = (_, _)› ?_
                  | with_reducible refine Keeps.of_fst3 ‹_ = (_, _, _)› ?_ | with_reducible apply Keeps.ite
                  | split | dsimp only)

theorem quoteEff_keeps {a s : State} {x0} {x1} (h : Keeps a s) :
    Keeps a (quoteEff x0 x1 s) := by
  unfold quoteEff
  try dsimp only
  repeat' (first | with_reducible assumption | with_reducible refine State.mbxRun_keeps (fun _ _ => ?_) ?_
                  | with_reducible apply State.quoteOver_keeps | with_reducible apply State.mbxEnd_keeps
                  | with_reducible apply State.mbxReply_keeps | simp only [Keeps.record]
                  | with_reducible refine Keeps.of_snd ‹_ = (_, _)› ?_
                  | with_reducible refine Keeps.of_fst ‹_ = (_, _)› ?_
                  | with_reducible refine Keeps.of_fst3 ‹_ = (_, _, _)› ?_ | with_reducible apply Keeps.ite
                  | split | dsimp only)

theorem State.enterFitting_keeps {a s : State} (h : Keeps a s) :
    Keeps a (State.enterFitting s) := by
  unfold State.enterFitting
  try dsimp only
  repeat' (first | with_reducible assumption | with_reducible apply State.setStep_keeps
                  | with_reducible apply State.bootStop_keeps | with_reducible apply State.setList_keeps
                  | with_reducible apply State.extendMeas_keeps | with_reducible apply State.setF_keeps
                  | with_reducible apply State.startHost_keeps
                  | with_reducible refine Keeps.foldl (fun _ _ _ => ?_) ?_
                  | with_reducible refine Keeps.foldlFst (fun _ _ _ => ?_) ?_
                  | with_reducible refine Keeps.foldlSnd (fun _ _ _ => ?_) ?_ | simp only [Keeps.record]
                  | with_reducible refine Keeps.of_snd ‹_ = (_, _)› ?_
                  | with_reducible refine Keeps.of_fst ‹_ = (_, _)› ?_
                  | with_reducible refine Keeps.of_fst3 ‹_ = (_, _, _)› ?_ | with_reducible apply Keeps.ite
                  | split | dsimp only)

theorem State.panelsReady_keeps {a s : State} (h : Keeps a s) :
    Keeps a (State.panelsReady s) := by
  unfold State.panelsReady
  try dsimp only
  repeat' (first | with_reducible assumption | with_reducible apply State.enterFitting_keeps
                  | simp only [Keeps.record] | with_reducible refine Keeps.of_snd ‹_ = (_, _)› ?_
                  | with_reducible refine Keeps.of_fst ‹_ = (_, _)› ?_
                  | with_reducible refine Keeps.of_fst3 ‹_ = (_, _, _)› ?_ | with_reducible apply Keeps.ite
                  | split | dsimp only)

theorem State.payloadReply_keeps {a s : State} {x1} (h : Keeps a s) :
    Keeps a (State.payloadReply s x1) := by
  unfold State.payloadReply
  try dsimp only
  repeat' (first | with_reducible assumption | with_reducible apply State.mbxReply_keeps
                  | with_reducible refine Keeps.foldl (fun _ _ _ => ?_) ?_
                  | with_reducible refine Keeps.foldlFst (fun _ _ _ => ?_) ?_
                  | with_reducible refine Keeps.foldlSnd (fun _ _ _ => ?_) ?_ | simp only [Keeps.record]
                  | with_reducible refine Keeps.of_snd ‹_ = (_, _)› ?_
                  | with_reducible refine Keeps.of_fst ‹_ = (_, _)› ?_
                  | with_reducible refine Keeps.of_fst3 ‹_ = (_, _, _)› ?_ | with_reducible apply Keeps.ite
                  | split | dsimp only)

theorem State.runFw_keeps {a s : State} {x1} {x2} (h : Keeps a s) :
    Keeps a (State.runFw s x1 x2) := by
  unfold State.runFw
  try dsimp only
  repeat' (first | with_reducible assumption | with_reducible apply State.setF_keeps
                  | with_reducible apply State.extendMeas_keeps | with_reducible apply State.setStep_keeps
                  | simp only [Keeps.record] | with_reducible refine Keeps.of_snd ‹_ = (_, _)› ?_
                  | with_reducible refine Keeps.of_fst ‹_ = (_, _)› ?_
                  | with_reducible refine Keeps.of_fst3 ‹_ = (_, _, _)› ?_ | with_reducible apply Keeps.ite
                  | split | dsimp only)

theorem State.tryFw_keeps {a s : State} {x1} {x2} (h : Keeps a s) :
    Keeps a (State.tryFw s x1 x2).2 := by
  unfold State.tryFw
  try dsimp only
  repeat' (first | with_reducible assumption | with_reducible apply State.runFw_keeps
                  | with_reducible apply State.setF_keeps | simp only [Keeps.record]
                  | with_reducible refine Keeps.of_snd ‹_ = (_, _)› ?_
                  | with_reducible refine Keeps.of_fst ‹_ = (_, _)› ?_
                  | with_reducible refine Keeps.of_fst3 ‹_ = (_, _, _)› ?_ | with_reducible apply Keeps.ite
                  | split | dsimp only)

theorem firmwareLoadEff_keeps {a s : State} (h : Keeps a s) :
    Keeps a (firmwareLoadEff s) := by
  unfold firmwareLoadEff
  try dsimp only
  repeat' (first | with_reducible assumption | with_reducible apply State.tryFw_keeps | simp only [Keeps.record]
                  | with_reducible refine Keeps.of_snd ‹_ = (_, _)› ?_
                  | with_reducible refine Keeps.of_fst ‹_ = (_, _)› ?_
                  | with_reducible refine Keeps.of_fst3 ‹_ = (_, _, _)› ?_ | with_reducible apply Keeps.ite
                  | split | dsimp only)

theorem supplyLostEff_keeps {a s : State} (h : Keeps a s) :
    Keeps a (supplyLostEff s) := by
  unfold supplyLostEff
  try dsimp only
  repeat' (first | with_reducible assumption | with_reducible apply State.note_keeps
                  | with_reducible apply State.err_keeps | simp only [Keeps.record]
                  | with_reducible refine Keeps.of_snd ‹_ = (_, _)› ?_
                  | with_reducible refine Keeps.of_fst ‹_ = (_, _)› ?_
                  | with_reducible refine Keeps.of_fst3 ‹_ = (_, _, _)› ?_ | with_reducible apply Keeps.ite
                  | split | dsimp only)

theorem State.spdmSend_keeps {a s : State} {x1} (h : Keeps a s) :
    Keeps a (State.spdmSend s x1) := by
  unfold State.spdmSend
  try dsimp only
  repeat' (first | with_reducible assumption | simp only [Keeps.record]
                  | with_reducible refine Keeps.of_snd ‹_ = (_, _)› ?_
                  | with_reducible refine Keeps.of_fst ‹_ = (_, _)› ?_
                  | with_reducible refine Keeps.of_fst3 ‹_ = (_, _, _)› ?_ | with_reducible apply Keeps.ite
                  | split | dsimp only)

theorem State.spdmError_keeps {a s : State} {x1} {x2} (h : Keeps a s) :
    Keeps a (State.spdmError s x1 x2) := by
  unfold State.spdmError
  try dsimp only
  repeat' (first | with_reducible assumption | with_reducible apply State.spdmSend_keeps | simp only [Keeps.record]
                  | with_reducible refine Keeps.of_snd ‹_ = (_, _)› ?_
                  | with_reducible refine Keeps.of_fst ‹_ = (_, _)› ?_
                  | with_reducible refine Keeps.of_fst3 ‹_ = (_, _, _)› ?_ | with_reducible apply Keeps.ite
                  | split | dsimp only)

theorem State.spdmAt_keeps {a s : State} {x1} {x2} (h2 : ∀ y0, Keeps a y0 → Keeps a (x2 y0)) (h : Keeps a s) :
    Keeps a (State.spdmAt s x1 x2) := by
  unfold State.spdmAt
  try dsimp only
  repeat' (first | with_reducible assumption | with_reducible apply State.spdmError_keeps | simp only [Keeps.record]
                  | with_reducible apply h2 | with_reducible refine Keeps.of_snd ‹_ = (_, _)› ?_
                  | with_reducible refine Keeps.of_fst ‹_ = (_, _)› ?_
                  | with_reducible refine Keeps.of_fst3 ‹_ = (_, _, _)› ?_ | with_reducible apply Keeps.ite
                  | split | dsimp only)

end Sys2Proof.Machine
end

