-- ==== Sys2Proof/Laws/Keeps6.lean ====
section
/-! SUPPORT. What each operation keeps, in the order the operations are built on one another (part 6). -/

set_option linter.unusedVariables false
set_option linter.unreachableTactic false
set_option linter.unusedTactic false

namespace Sys2Proof.Machine

theorem getCapabilitiesEff_keeps {a s : State} (h : Keeps a s) :
    Keeps a (getCapabilitiesEff s) := by
  unfold getCapabilitiesEff
  try dsimp only
  repeat' (first | with_reducible assumption | with_reducible refine State.spdmAt_keeps (fun _ _ => ?_) ?_
                  | with_reducible apply State.spdmSend_keeps | simp only [Keeps.record]
                  | with_reducible refine Keeps.of_snd ‹_ = (_, _)› ?_
                  | with_reducible refine Keeps.of_fst ‹_ = (_, _)› ?_
                  | with_reducible refine Keeps.of_fst3 ‹_ = (_, _, _)› ?_ | with_reducible apply Keeps.ite
                  | split | dsimp only)

theorem State.dropPanel_keeps {a s : State} {x1} (h : Keeps a s) :
    Keeps a (State.dropPanel s x1) := by
  unfold State.dropPanel
  try dsimp only
  repeat' (first | with_reducible assumption | with_reducible apply State.railOff_keeps
                  | with_reducible apply State.setF_keeps | with_reducible apply State.panelsReady_keeps
                  | simp only [Keeps.record] | with_reducible refine Keeps.of_snd ‹_ = (_, _)› ?_
                  | with_reducible refine Keeps.of_fst ‹_ = (_, _)› ?_
                  | with_reducible refine Keeps.of_fst3 ‹_ = (_, _, _)› ?_ | with_reducible apply Keeps.ite
                  | split | dsimp only)

theorem getDigestsEff_keeps {a s : State} (h : Keeps a s) :
    Keeps a (getDigestsEff s) := by
  unfold getDigestsEff
  try dsimp only
  repeat' (first | with_reducible assumption | with_reducible refine State.spdmAt_keeps (fun _ _ => ?_) ?_
                  | with_reducible apply State.spdmSend_keeps | simp only [Keeps.record]
                  | with_reducible refine Keeps.of_snd ‹_ = (_, _)› ?_
                  | with_reducible refine Keeps.of_fst ‹_ = (_, _)› ?_
                  | with_reducible refine Keeps.of_fst3 ‹_ = (_, _, _)› ?_ | with_reducible apply Keeps.ite
                  | split | dsimp only)

theorem rollbackEff_keeps {a s : State} {x0} (h : Keeps a s) : Keeps a (rollbackEff x0 s) := by
  unfold rollbackEff
  refine State.mbxAuth_keeps (fun _ _ s hs => ?_) h
  dsimp only
  split
  · refine State.showFuses_keeps (hs.program ?_)
    exact ⟨⟨rfl, rfl, rfl⟩, fun _ h => ⟨h, rfl⟩, fun _ h => h, le_max_left _ _, le_rfl, fun h => h⟩
  · refine State.showFuses_keeps (hs.program ?_)
    exact ⟨⟨rfl, rfl, rfl⟩, fun _ h => ⟨h, rfl⟩, fun _ h => h, le_rfl, le_max_left _ _, fun h => h⟩
  · exact hs

theorem State.clearBytes_keeps {a s : State} {x1} {x2} {x3} (h : Keeps a s) :
    Keeps a (State.clearBytes s x1 x2 x3) := by
  induction x3 generalizing s x1 x2 with
  | zero =>
    unfold State.clearBytes
    try dsimp only
    repeat' (first | with_reducible assumption | with_reducible apply State.setByte_keeps | simp only [Keeps.record]
                    | with_reducible refine Keeps.of_snd ‹_ = (_, _)› ?_
                    | with_reducible refine Keeps.of_fst ‹_ = (_, _)› ?_
                    | with_reducible refine Keeps.of_fst3 ‹_ = (_, _, _)› ?_ | with_reducible apply Keeps.ite
                    | split | dsimp only)
  | succ n ih =>
    unfold State.clearBytes
    try dsimp only
    repeat' (first | with_reducible assumption | with_reducible apply ih | with_reducible apply State.setByte_keeps
                    | simp only [Keeps.record] | with_reducible refine Keeps.of_snd ‹_ = (_, _)› ?_
                    | with_reducible refine Keeps.of_fst ‹_ = (_, _)› ?_
                    | with_reducible refine Keeps.of_fst3 ‹_ = (_, _, _)› ?_ | with_reducible apply Keeps.ite
                    | split | dsimp only)

theorem handOffEff_keeps {a s : State} (h : Keeps a s) :
    Keeps a (handOffEff s) := by
  unfold handOffEff
  try dsimp only
  repeat' (first | with_reducible assumption | with_reducible apply State.clearBytes_keeps
                  | with_reducible apply State.updHart_keeps | with_reducible apply State.setStep_keeps
                  | with_reducible refine Keeps.foldl (fun _ _ _ => ?_) ?_
                  | with_reducible refine Keeps.foldlFst (fun _ _ _ => ?_) ?_
                  | with_reducible refine Keeps.foldlSnd (fun _ _ _ => ?_) ?_ | simp only [Keeps.record]
                  | with_reducible refine Keeps.of_snd ‹_ = (_, _)› ?_
                  | with_reducible refine Keeps.of_fst ‹_ = (_, _)› ?_
                  | with_reducible refine Keeps.of_fst3 ‹_ = (_, _, _)› ?_ | with_reducible apply Keeps.ite
                  | split | dsimp only)

theorem State.showRegion_keeps {a s : State} (h : Keeps a s) :
    Keeps a (State.showRegion s) := by
  unfold State.showRegion
  try dsimp only
  repeat' (first | with_reducible assumption | with_reducible apply State.setF_keeps | simp only [Keeps.record]
                  | with_reducible refine Keeps.of_snd ‹_ = (_, _)› ?_
                  | with_reducible refine Keeps.of_fst ‹_ = (_, _)› ?_
                  | with_reducible refine Keeps.of_fst3 ‹_ = (_, _, _)› ?_ | with_reducible apply Keeps.ite
                  | split | dsimp only)

theorem State.powerPanels_keeps {a s : State} (h : Keeps a s) :
    Keeps a (State.powerPanels s) := by
  unfold State.powerPanels
  try dsimp only
  repeat' (first | with_reducible assumption | with_reducible apply State.setStep_keeps
                  | with_reducible apply State.pushVout_keeps
                  | with_reducible refine Keeps.foldl (fun _ _ _ => ?_) ?_
                  | with_reducible refine Keeps.foldlFst (fun _ _ _ => ?_) ?_
                  | with_reducible refine Keeps.foldlSnd (fun _ _ _ => ?_) ?_ | simp only [Keeps.record]
                  | with_reducible refine Keeps.of_snd ‹_ = (_, _)› ?_
                  | with_reducible refine Keeps.of_fst ‹_ = (_, _)› ?_
                  | with_reducible refine Keeps.of_fst3 ‹_ = (_, _, _)› ?_ | with_reducible apply Keeps.ite
                  | split | dsimp only)

theorem State.memReady_keeps {a s : State} (h : Keeps a s) :
    Keeps a (State.memReady s) := by
  unfold State.memReady
  try dsimp only
  repeat' (first | with_reducible assumption | with_reducible apply State.showRegion_keeps
                  | with_reducible apply State.setBolts_keeps | with_reducible apply State.powerPanels_keeps
                  | with_reducible apply State.bootStop_keeps | simp only [Keeps.record]
                  | with_reducible refine Keeps.of_snd ‹_ = (_, _)› ?_
                  | with_reducible refine Keeps.of_fst ‹_ = (_, _)› ?_
                  | with_reducible refine Keeps.of_fst3 ‹_ = (_, _, _)› ?_ | with_reducible apply Keeps.ite
                  | split | dsimp only)

theorem State.trainedAtBoot_keeps {a s : State} {x1} {x2} (h : Keeps a s) :
    Keeps a (State.trainedAtBoot s x1 x2) := by
  unfold State.trainedAtBoot
  try dsimp only
  repeat' (first | with_reducible assumption | with_reducible apply State.trainMc_keeps
                  | with_reducible apply State.setF_keeps | with_reducible apply State.setFence_keeps
                  | with_reducible apply State.memReady_keeps | simp only [Keeps.record]
                  | with_reducible refine Keeps.of_snd ‹_ = (_, _)› ?_
                  | with_reducible refine Keeps.of_fst ‹_ = (_, _)› ?_
                  | with_reducible refine Keeps.of_fst3 ‹_ = (_, _, _)› ?_ | with_reducible apply Keeps.ite
                  | split | dsimp only)

theorem runPayloadEff_keeps {a s : State} {x0} (h : Keeps a s) :
    Keeps a (runPayloadEff x0 s) := by
  unfold runPayloadEff
  try dsimp only
  repeat' (first | with_reducible assumption | with_reducible refine State.mbxRun_keeps (fun _ _ => ?_) ?_
                  | with_reducible apply State.mbxEnd_keeps | with_reducible apply State.svcMsix_keeps
                  | with_reducible apply State.setList_keeps | with_reducible apply State.updHart_keeps
                  | with_reducible apply State.mbxBegin_keeps
                  | with_reducible refine Keeps.foldl (fun _ _ _ => ?_) ?_
                  | with_reducible refine Keeps.foldlFst (fun _ _ _ => ?_) ?_
                  | with_reducible refine Keeps.foldlSnd (fun _ _ _ => ?_) ?_ | simp only [Keeps.record]
                  | with_reducible refine Keeps.of_snd ‹_ = (_, _)› ?_
                  | with_reducible refine Keeps.of_fst ‹_ = (_, _)› ?_
                  | with_reducible refine Keeps.of_fst3 ‹_ = (_, _, _)› ?_ | with_reducible apply Keeps.ite
                  | split | dsimp only)

theorem payloadEcallEff_keeps {a s : State} {x0} (h : Keeps a s) :
    Keeps a (payloadEcallEff x0 s) := by
  unfold payloadEcallEff
  try dsimp only
  repeat' (first | with_reducible assumption | with_reducible apply State.trap_keeps
                  | with_reducible apply State.mbxEnd_keeps | with_reducible apply State.payloadReply_keeps
                  | simp only [Keeps.record] | with_reducible refine Keeps.of_snd ‹_ = (_, _)› ?_
                  | with_reducible refine Keeps.of_fst ‹_ = (_, _)› ?_
                  | with_reducible refine Keeps.of_fst3 ‹_ = (_, _, _)› ?_ | with_reducible apply Keeps.ite
                  | split | dsimp only)

theorem State.scrubSaddle_keeps {a s : State} {x1} (h : Keeps a s) :
    Keeps a (State.scrubSaddle s x1) := by
  unfold State.scrubSaddle
  try dsimp only
  repeat' (first | with_reducible assumption | with_reducible apply State.resetClose_keeps
                  | with_reducible apply State.wr_keeps | with_reducible refine Keeps.foldl (fun _ _ _ => ?_) ?_
                  | with_reducible refine Keeps.foldlFst (fun _ _ _ => ?_) ?_
                  | with_reducible refine Keeps.foldlSnd (fun _ _ _ => ?_) ?_ | simp only [Keeps.record]
                  | with_reducible refine Keeps.of_snd ‹_ = (_, _)› ?_
                  | with_reducible refine Keeps.of_fst ‹_ = (_, _)› ?_
                  | with_reducible refine Keeps.of_fst3 ‹_ = (_, _, _)› ?_ | with_reducible apply Keeps.ite
                  | split | dsimp only)

theorem trainingCompleteEff_keeps {a s : State} {x0} {x1} (h : Keeps a s) :
    Keeps a (trainingCompleteEff x0 x1 s) := by
  unfold trainingCompleteEff
  try dsimp only
  repeat' (first | with_reducible assumption | with_reducible apply State.trainedAtBoot_keeps
                  | with_reducible apply State.retrained_keeps | simp only [Keeps.record]
                  | with_reducible refine Keeps.of_snd ‹_ = (_, _)› ?_
                  | with_reducible refine Keeps.of_fst ‹_ = (_, _)› ?_
                  | with_reducible refine Keeps.of_fst3 ‹_ = (_, _, _)› ?_ | with_reducible apply Keeps.ite
                  | split | dsimp only)

theorem State.railLate_keeps {a s : State} (h : Keeps a s) :
    Keeps a (State.railLate s) := by
  unfold State.railLate
  try dsimp only
  repeat' (first | with_reducible assumption | with_reducible apply State.advance_keeps
                  | with_reducible apply State.bootStop_keeps | with_reducible apply State.err_keeps
                  | simp only [Keeps.record] | with_reducible refine Keeps.of_snd ‹_ = (_, _)› ?_
                  | with_reducible refine Keeps.of_fst ‹_ = (_, _)› ?_
                  | with_reducible refine Keeps.of_fst3 ‹_ = (_, _, _)› ?_ | with_reducible apply Keeps.ite
                  | split | dsimp only)

theorem State.toService_keeps {a s : State} (h : Keeps a s) :
    Keeps a (State.toService s) := by
  unfold State.toService
  try dsimp only
  repeat' (first | with_reducible assumption | with_reducible apply State.setStep_keeps
                  | with_reducible apply State.extendMeas_keeps | with_reducible apply State.hostOwners_keeps
                  | with_reducible apply State.setF_keeps | simp only [Keeps.record]
                  | with_reducible refine Keeps.of_snd ‹_ = (_, _)› ?_
                  | with_reducible refine Keeps.of_fst ‹_ = (_, _)› ?_
                  | with_reducible refine Keeps.of_fst3 ‹_ = (_, _, _)› ?_ | with_reducible apply Keeps.ite
                  | split | dsimp only)

theorem getMeasurementsEff_keeps {a s : State} {x0} {x1} (h : Keeps a s) :
    Keeps a (getMeasurementsEff x0 x1 s) := by
  unfold getMeasurementsEff
  try dsimp only
  repeat' (first | with_reducible assumption | with_reducible refine State.spdmAt_keeps (fun _ _ => ?_) ?_
                  | with_reducible apply State.spdmError_keeps | with_reducible apply State.randomBytes_keeps
                  | with_reducible apply State.spdmSend_keeps | simp only [Keeps.record]
                  | with_reducible refine Keeps.of_snd ‹_ = (_, _)› ?_
                  | with_reducible refine Keeps.of_fst ‹_ = (_, _)› ?_
                  | with_reducible refine Keeps.of_fst3 ‹_ = (_, _, _)› ?_ | with_reducible apply Keeps.ite
                  | split | dsimp only)

theorem fittingEff_keeps {a s : State} {x0} {x1} (h : Keeps a s) :
    Keeps a (fittingEff x0 x1 s) := by
  unfold fittingEff
  try dsimp only
  repeat' (first | with_reducible assumption | with_reducible refine State.mbxRun_keeps (fun _ _ => ?_) ?_
                  | with_reducible apply State.mbxEnd_keeps | simp only [Keeps.record]
                  | with_reducible refine Keeps.of_snd ‹_ = (_, _)› ?_
                  | with_reducible refine Keeps.of_fst ‹_ = (_, _)› ?_
                  | with_reducible refine Keeps.of_fst3 ‹_ = (_, _, _)› ?_ | with_reducible apply Keeps.ite
                  | split | dsimp only)

theorem loadFirmwareEff_keeps {a s : State} {x0} (h : Keeps a s) :
    Keeps a (loadFirmwareEff x0 s) := by
  unfold loadFirmwareEff
  try dsimp only
  repeat' (first | with_reducible assumption | with_reducible refine State.mbxRun_keeps (fun _ _ => ?_) ?_
                  | with_reducible apply State.tryFw_keeps | with_reducible apply State.mbxEnd_keeps
                  | with_reducible apply State.svcMsix_keeps | simp only [Keeps.record]
                  | with_reducible refine Keeps.of_snd ‹_ = (_, _)› ?_
                  | with_reducible refine Keeps.of_fst ‹_ = (_, _)› ?_
                  | with_reducible refine Keeps.of_fst3 ‹_ = (_, _, _)› ?_ | with_reducible apply Keeps.ite
                  | split | dsimp only)

theorem challengeEff_keeps {a s : State} {x0} {x1} (h : Keeps a s) :
    Keeps a (challengeEff x0 x1 s) := by
  unfold challengeEff
  try dsimp only
  repeat' (first | with_reducible assumption | with_reducible refine State.spdmAt_keeps (fun _ _ => ?_) ?_
                  | with_reducible apply State.spdmError_keeps | with_reducible apply State.randomBytes_keeps
                  | with_reducible apply State.spdmSend_keeps | simp only [Keeps.record]
                  | with_reducible refine Keeps.of_snd ‹_ = (_, _)› ?_
                  | with_reducible refine Keeps.of_fst ‹_ = (_, _)› ?_
                  | with_reducible refine Keeps.of_fst3 ‹_ = (_, _, _)› ?_ | with_reducible apply Keeps.ite
                  | split | dsimp only)

theorem ownerKeyEff_keeps {a s : State} {x0} (h : Keeps a s) : Keeps a (ownerKeyEff x0 s) := by
  unfold ownerKeyEff
  refine State.mbxAuth_keeps (fun _ arg s hs => ?_) h
  dsimp only
  split
  · exact hs
  · rename_i hn
    refine State.showFuses_keeps (hs.program ?_)
    refine ⟨⟨rfl, rfl, rfl⟩, fun i hi => ?_, fun _ h => h, le_rfl, le_rfl, fun h => h⟩
    dsimp only
    refine ⟨by rw [KMap.any_insert, hi, Bool.or_true], KMap.get_insert_ne _ _ (fun hk => hn ?_) _⟩
    subst hk
    exact .inr (.inr (by rw [State.slotProgrammed, hi, Bool.or_true]))

theorem State.payloadLate_keeps {a s : State} (h : Keeps a s) :
    Keeps a (State.payloadLate s) := by
  unfold State.payloadLate
  try dsimp only
  repeat' (first | with_reducible assumption | with_reducible apply State.advance_keeps
                  | with_reducible apply State.err_keeps | with_reducible apply State.updHart_keeps
                  | with_reducible apply State.mbxEnd_keeps | with_reducible apply State.payloadReply_keeps
                  | with_reducible refine Keeps.foldl (fun _ _ _ => ?_) ?_
                  | with_reducible refine Keeps.foldlFst (fun _ _ _ => ?_) ?_
                  | with_reducible refine Keeps.foldlSnd (fun _ _ _ => ?_) ?_ | simp only [Keeps.record]
                  | with_reducible refine Keeps.of_snd ‹_ = (_, _)› ?_
                  | with_reducible refine Keeps.of_fst ‹_ = (_, _)› ?_
                  | with_reducible refine Keeps.of_fst3 ‹_ = (_, _, _)› ?_ | with_reducible apply Keeps.ite
                  | split | dsimp only)

theorem revokeEff_keeps {a s : State} {x0} (h : Keeps a s) : Keeps a (revokeEff x0 s) := by
  unfold revokeEff
  refine State.mbxAuth_keeps (fun _ _ s hs => ?_) h
  dsimp only
  split
  · exact hs
  · split
    · exact hs
    · refine State.showFuses_keeps (hs.program ?_)
      refine ⟨⟨rfl, rfl, rfl⟩, fun _ h => ⟨h, rfl⟩, fun k hk => ?_, le_rfl, le_rfl, fun h => h⟩
      dsimp only
      split
      · exact hk
      · exact List.mem_cons_of_mem _ hk

theorem resetNEff_keeps {a s : State} {x0} {x1} (h : Keeps a s) :
    Keeps a (resetNEff x0 x1 s) := by
  unfold resetNEff
  try dsimp only
  repeat' (first | with_reducible assumption | with_reducible apply State.warmAll_keeps
                  | with_reducible apply State.advance_keeps | simp only [Keeps.record]
                  | with_reducible refine Keeps.of_snd ‹_ = (_, _)› ?_
                  | with_reducible refine Keeps.of_fst ‹_ = (_, _)› ?_
                  | with_reducible refine Keeps.of_fst3 ‹_ = (_, _, _)› ?_ | with_reducible apply Keeps.ite
                  | split | dsimp only)

theorem packageWarmResetEff_keeps {a s : State} (h : Keeps a s) :
    Keeps a (packageWarmResetEff s) := by
  unfold packageWarmResetEff
  try dsimp only
  repeat' (first | with_reducible assumption | with_reducible apply State.warmAll_keeps | simp only [Keeps.record]
                  | with_reducible refine Keeps.of_snd ‹_ = (_, _)› ?_
                  | with_reducible refine Keeps.of_fst ‹_ = (_, _)› ?_
                  | with_reducible refine Keeps.of_fst3 ‹_ = (_, _, _)› ?_ | with_reducible apply Keeps.ite
                  | split | dsimp only)

theorem railGoodEff_keeps {a s : State} (h : Keeps a s) :
    Keeps a (railGoodEff s) := by
  unfold railGoodEff
  try dsimp only
  repeat' (first | with_reducible assumption | with_reducible apply State.setF_keeps
                  | with_reducible apply State.setFence_keeps | with_reducible apply State.setSaddleState_keeps
                  | with_reducible apply State.startPorts_keeps | with_reducible apply State.gusStart_keeps
                  | with_reducible refine Keeps.foldl (fun _ _ _ => ?_) ?_
                  | with_reducible refine Keeps.foldlFst (fun _ _ _ => ?_) ?_
                  | with_reducible refine Keeps.foldlSnd (fun _ _ _ => ?_) ?_ | simp only [Keeps.record]
                  | with_reducible refine Keeps.of_snd ‹_ = (_, _)› ?_
                  | with_reducible refine Keeps.of_fst ‹_ = (_, _)› ?_
                  | with_reducible refine Keeps.of_fst3 ‹_ = (_, _, _)› ?_ | with_reducible apply Keeps.ite
                  | split | dsimp only)

theorem serviceReqEff_keeps {a s : State} {x0} (h : Keeps a s) :
    Keeps a (serviceReqEff x0 s) := by
  unfold serviceReqEff
  try dsimp only
  repeat' (first | with_reducible assumption | with_reducible refine State.ctlGuard_keeps (fun _ _ => ?_) ?_
                  | with_reducible apply State.toService_keeps | simp only [Keeps.record]
                  | with_reducible refine Keeps.of_snd ‹_ = (_, _)› ?_
                  | with_reducible refine Keeps.of_fst ‹_ = (_, _)› ?_
                  | with_reducible refine Keeps.of_fst3 ‹_ = (_, _, _)› ?_ | with_reducible apply Keeps.ite
                  | split | dsimp only)

theorem extendEff_keeps {a s : State} {x0} {x1} {x2} (h : Keeps a s) :
    Keeps a (extendEff x0 x1 x2 s) := by
  unfold extendEff
  try dsimp only
  repeat' (first | with_reducible assumption | with_reducible refine State.mbxRun_keeps (fun _ _ => ?_) ?_
                  | with_reducible apply State.mbxEnd_keeps | with_reducible apply State.extendMeas_keeps
                  | simp only [Keeps.record] | with_reducible refine Keeps.of_snd ‹_ = (_, _)› ?_
                  | with_reducible refine Keeps.of_fst ‹_ = (_, _)› ?_
                  | with_reducible refine Keeps.of_fst3 ‹_ = (_, _, _)› ?_ | with_reducible apply Keeps.ite
                  | split | dsimp only)

theorem negotiateAlgorithmsEff_keeps {a s : State} (h : Keeps a s) :
    Keeps a (negotiateAlgorithmsEff s) := by
  unfold negotiateAlgorithmsEff
  try dsimp only
  repeat' (first | with_reducible assumption | with_reducible refine State.spdmAt_keeps (fun _ _ => ?_) ?_
                  | with_reducible apply State.spdmSend_keeps | simp only [Keeps.record]
                  | with_reducible refine Keeps.of_snd ‹_ = (_, _)› ?_
                  | with_reducible refine Keeps.of_fst ‹_ = (_, _)› ?_
                  | with_reducible refine Keeps.of_fst3 ‹_ = (_, _, _)› ?_ | with_reducible apply Keeps.ite
                  | split | dsimp only)

theorem resetSaddleEff_keeps {a s : State} {x0} {x1} {x2} (h : Keeps a s) :
    Keeps a (resetSaddleEff x0 x1 x2 s) := by
  unfold resetSaddleEff
  try dsimp only
  repeat' (first | with_reducible assumption | with_reducible refine State.mbxRun_keeps (fun _ _ => ?_) ?_
                  | with_reducible apply State.mbxEnd_keeps | with_reducible apply State.refreshBolts_keeps
                  | with_reducible apply State.refreshAllow_keeps | with_reducible apply State.scrubSaddle_keeps
                  | with_reducible apply State.configSaddle_keeps | with_reducible apply State.configMc_keeps
                  | with_reducible apply State.gusStart_keeps | with_reducible apply State.setF_keeps
                  | with_reducible apply State.gusReopen_keeps | with_reducible apply State.err_keeps
                  | with_reducible apply State.setFbit_keeps | with_reducible apply State.updGus_keeps
                  | with_reducible refine Keeps.foldl (fun _ _ _ => ?_) ?_
                  | with_reducible refine Keeps.foldlFst (fun _ _ _ => ?_) ?_
                  | with_reducible refine Keeps.foldlSnd (fun _ _ _ => ?_) ?_ | simp only [Keeps.record]
                  | with_reducible refine Keeps.of_snd ‹_ = (_, _)› ?_
                  | with_reducible refine Keeps.of_fst ‹_ = (_, _)› ?_
                  | with_reducible refine Keeps.of_fst3 ‹_ = (_, _, _)› ?_ | with_reducible apply Keeps.ite
                  | split | dsimp only)

theorem getCertificateEff_keeps {a s : State} {x0} {x1} {x2} (h : Keeps a s) :
    Keeps a (getCertificateEff x0 x1 x2 s) := by
  unfold getCertificateEff
  try dsimp only
  repeat' (first | with_reducible assumption | with_reducible refine State.spdmAt_keeps (fun _ _ => ?_) ?_
                  | with_reducible apply State.spdmError_keeps | with_reducible apply State.spdmSend_keeps
                  | simp only [Keeps.record] | with_reducible refine Keeps.of_snd ‹_ = (_, _)› ?_
                  | with_reducible refine Keeps.of_fst ‹_ = (_, _)› ?_
                  | with_reducible refine Keeps.of_fst3 ‹_ = (_, _, _)› ?_ | with_reducible apply Keeps.ite
                  | split | dsimp only)

theorem getVersionEff_keeps {a s : State} (h : Keeps a s) :
    Keeps a (getVersionEff s) := by
  unfold getVersionEff
  try dsimp only
  repeat' (first | with_reducible assumption | with_reducible refine State.spdmAt_keeps (fun _ _ => ?_) ?_
                  | with_reducible apply State.spdmSend_keeps | simp only [Keeps.record]
                  | with_reducible refine Keeps.of_snd ‹_ = (_, _)› ?_
                  | with_reducible refine Keeps.of_fst ‹_ = (_, _)› ?_
                  | with_reducible refine Keeps.of_fst3 ‹_ = (_, _, _)› ?_ | with_reducible apply Keeps.ite
                  | split | dsimp only)

theorem State.setFile_keeps {a s : State} {x1} {x2} {x3} (h : Keeps a s) :
    Keeps a (State.setFile s x1 x2 x3) := by
  unfold State.setFile
  try dsimp only
  repeat' (first | with_reducible assumption | with_reducible apply State.fileSignal_keeps
                  | with_reducible apply State.setCsr_keeps | simp only [Keeps.record]
                  | with_reducible refine Keeps.of_snd ‹_ = (_, _)› ?_
                  | with_reducible refine Keeps.of_fst ‹_ = (_, _)› ?_
                  | with_reducible refine Keeps.of_fst3 ‹_ = (_, _, _)› ?_ | with_reducible apply Keeps.ite
                  | split | dsimp only)

theorem State.csrStd_keeps {a s : State} {x1} {x2} {x3} (h : Keeps a s) :
    Keeps a (State.csrStd s x1 x2 x3) := by
  unfold State.csrStd
  try dsimp only
  repeat' (first | with_reducible assumption | with_reducible apply State.setFile_keeps
                  | with_reducible apply State.updHart_keeps | simp only [Keeps.record]
                  | with_reducible refine Keeps.of_snd ‹_ = (_, _)› ?_
                  | with_reducible refine Keeps.of_fst ‹_ = (_, _)› ?_
                  | with_reducible refine Keeps.of_fst3 ‹_ = (_, _, _)› ?_ | with_reducible apply Keeps.ite
                  | split | dsimp only)

theorem State.writeMkdoor_keeps {a s : State} {x1} {x2} (h : Keeps a s) :
    Keeps a (State.writeMkdoor s x1 x2) := by
  unfold State.writeMkdoor
  try dsimp only
  repeat' (first | with_reducible assumption | with_reducible apply State.updHart_keeps
                  | with_reducible apply State.retire_keeps | with_reducible apply State.doorEnter_keeps
                  | with_reducible apply State.doorExit_keeps | with_reducible apply State.doorDone_keeps
                  | simp only [Keeps.record] | with_reducible refine Keeps.of_snd ‹_ = (_, _)› ?_
                  | with_reducible refine Keeps.of_fst ‹_ = (_, _)› ?_
                  | with_reducible refine Keeps.of_fst3 ‹_ = (_, _, _)› ?_ | with_reducible apply Keeps.ite
                  | split | dsimp only)

theorem State.writeMkhold_keeps {a s : State} {x1} {x2} (h : Keeps a s) :
    Keeps a (State.writeMkhold s x1 x2) := by
  unfold State.writeMkhold
  try dsimp only
  repeat' (first | with_reducible assumption | with_reducible apply State.setCsr_keeps | simp only [Keeps.record]
                  | with_reducible refine Keeps.of_snd ‹_ = (_, _)› ?_
                  | with_reducible refine Keeps.of_fst ‹_ = (_, _)› ?_
                  | with_reducible refine Keeps.of_fst3 ‹_ = (_, _, _)› ?_ | with_reducible apply Keeps.ite
                  | split | dsimp only)

theorem State.csrCustom_keeps {a s : State} {x1} {x2} {x3} (h : Keeps a s) :
    Keeps a (State.csrCustom s x1 x2 x3) := by
  unfold State.csrCustom
  try dsimp only
  repeat' (first | with_reducible assumption | with_reducible apply State.retire_keeps
                  | with_reducible apply State.writeMkctl_keeps | with_reducible apply State.writeMkhold_keeps
                  | with_reducible apply State.setCmo_keeps | with_reducible apply State.mkcmoRun_keeps
                  | with_reducible apply State.writeMkdoor_keeps | with_reducible apply State.illegal_keeps
                  | with_reducible apply State.setCsr_keeps | simp only [Keeps.record]
                  | with_reducible refine Keeps.of_snd ‹_ = (_, _)› ?_
                  | with_reducible refine Keeps.of_fst ‹_ = (_, _)› ?_
                  | with_reducible refine Keeps.of_fst3 ‹_ = (_, _, _)› ?_ | with_reducible apply Keeps.ite
                  | split | dsimp only)

theorem State.csrWrite_keeps {a s : State} {x1} {x2} {x3} {x4} (h : Keeps a s) :
    Keeps a (State.csrWrite s x1 x2 x3 x4) := by
  unfold State.csrWrite
  try dsimp only
  repeat' (first | with_reducible assumption | with_reducible refine State.onHart_keeps (fun _ _ => ?_) ?_
                  | with_reducible apply State.trap_keeps | with_reducible apply State.retire_keeps
                  | with_reducible apply State.csrCustom_keeps | with_reducible apply State.pollInt_keeps
                  | with_reducible apply State.csrStd_keeps | simp only [Keeps.record]
                  | with_reducible refine Keeps.of_snd ‹_ = (_, _)› ?_
                  | with_reducible refine Keeps.of_fst ‹_ = (_, _)› ?_
                  | with_reducible refine Keeps.of_fst3 ‹_ = (_, _, _)› ?_ | with_reducible apply Keeps.ite
                  | split | dsimp only)

theorem State.snapStart_keeps {a s : State} {x1} (h : Keeps a s) :
    Keeps a (State.snapStart s x1) := by
  unfold State.snapStart
  try dsimp only
  repeat' (first | with_reducible assumption | with_reducible apply State.setF_keeps
                  | with_reducible apply State.wr_keeps | simp only [Keeps.record]
                  | with_reducible refine Keeps.of_snd ‹_ = (_, _)› ?_
                  | with_reducible refine Keeps.of_fst ‹_ = (_, _)› ?_
                  | with_reducible refine Keeps.of_fst3 ‹_ = (_, _, _)› ?_ | with_reducible apply Keeps.ite
                  | split | dsimp only)

theorem armFreezeEff_keeps {a s : State} (h : Keeps a s) :
    Keeps a (armFreezeEff s) := by
  unfold armFreezeEff
  try dsimp only
  repeat' (first | with_reducible assumption | with_reducible apply State.snapStart_keeps | simp only [Keeps.record]
                  | with_reducible refine Keeps.of_snd ‹_ = (_, _)› ?_
                  | with_reducible refine Keeps.of_fst ‹_ = (_, _)› ?_
                  | with_reducible refine Keeps.of_fst3 ‹_ = (_, _, _)› ?_ | with_reducible apply Keeps.ite
                  | split | dsimp only)

theorem State.shadowPanel_keeps {a s : State} {x1} (h : Keeps a s) :
    Keeps a (State.shadowPanel s x1) := by
  unfold State.shadowPanel
  try dsimp only
  repeat' (first | with_reducible assumption | with_reducible apply State.wr_keeps
                  | with_reducible refine Keeps.foldl (fun _ _ _ => ?_) ?_
                  | with_reducible refine Keeps.foldlFst (fun _ _ _ => ?_) ?_
                  | with_reducible refine Keeps.foldlSnd (fun _ _ _ => ?_) ?_ | simp only [Keeps.record]
                  | with_reducible refine Keeps.of_snd ‹_ = (_, _)› ?_
                  | with_reducible refine Keeps.of_fst ‹_ = (_, _)› ?_
                  | with_reducible refine Keeps.of_fst3 ‹_ = (_, _, _)› ?_ | with_reducible apply Keeps.ite
                  | split | dsimp only)

theorem State.shadowUnit_keeps {a s : State} {x1} (h : Keeps a s) :
    Keeps a (State.shadowUnit s x1) := by
  unfold State.shadowUnit
  try dsimp only
  repeat' (first | with_reducible assumption | with_reducible apply State.wr_keeps
                  | with_reducible refine Keeps.foldl (fun _ _ _ => ?_) ?_
                  | with_reducible refine Keeps.foldlFst (fun _ _ _ => ?_) ?_
                  | with_reducible refine Keeps.foldlSnd (fun _ _ _ => ?_) ?_ | simp only [Keeps.record]
                  | with_reducible refine Keeps.of_snd ‹_ = (_, _)› ?_
                  | with_reducible refine Keeps.of_fst ‹_ = (_, _)› ?_
                  | with_reducible refine Keeps.of_fst3 ‹_ = (_, _, _)› ?_ | with_reducible apply Keeps.ite
                  | split | dsimp only)

theorem State.shadowStop_keeps {a s : State} {x1} {x2} (h : Keeps a s) :
    Keeps a (State.shadowStop s x1 x2) := by
  unfold State.shadowStop
  try dsimp only
  repeat' (first | with_reducible assumption | with_reducible apply State.wr_keeps
                  | with_reducible apply State.shadowPanel_keeps | with_reducible apply State.shadowUnit_keeps
                  | simp only [Keeps.record] | with_reducible refine Keeps.of_snd ‹_ = (_, _)› ?_
                  | with_reducible refine Keeps.of_fst ‹_ = (_, _)› ?_
                  | with_reducible refine Keeps.of_fst3 ‹_ = (_, _, _)› ?_ | with_reducible apply Keeps.ite
                  | split | dsimp only)

theorem counterOverflowEff_keeps {a s : State} {x0} {x1} (h : Keeps a s) :
    Keeps a (counterOverflowEff x0 x1 s) := by
  unfold counterOverflowEff
  try dsimp only
  repeat' (first | with_reducible assumption | with_reducible apply State.hpmOverflow_keeps
                  | with_reducible apply State.setCsr_keeps | simp only [Keeps.record]
                  | with_reducible refine Keeps.of_snd ‹_ = (_, _)› ?_
                  | with_reducible refine Keeps.of_fst ‹_ = (_, _)› ?_
                  | with_reducible refine Keeps.of_fst3 ‹_ = (_, _, _)› ?_ | with_reducible apply Keeps.ite
                  | split | dsimp only)

theorem State.freezeStop_keeps {a s : State} {x1} {x2} (h : Keeps a s) :
    Keeps a (State.freezeStop s x1 x2) := by
  unfold State.freezeStop
  try dsimp only
  repeat' (first | with_reducible assumption | with_reducible apply State.accrueAll_keeps | simp only [Keeps.record]
                  | with_reducible refine Keeps.of_snd ‹_ = (_, _)› ?_
                  | with_reducible refine Keeps.of_fst ‹_ = (_, _)› ?_
                  | with_reducible refine Keeps.of_fst3 ‹_ = (_, _, _)› ?_ | with_reducible apply Keeps.ite
                  | split | dsimp only)

theorem thawEff_keeps {a s : State} (h : Keeps a s) :
    Keeps a (thawEff s) := by
  unfold thawEff
  try dsimp only
  repeat' (first | with_reducible assumption | with_reducible apply State.snapStart_keeps | simp only [Keeps.record]
                  | with_reducible refine Keeps.of_snd ‹_ = (_, _)› ?_
                  | with_reducible refine Keeps.of_fst ‹_ = (_, _)› ?_
                  | with_reducible refine Keeps.of_fst3 ‹_ = (_, _, _)› ?_ | with_reducible apply Keeps.ite
                  | split | dsimp only)

theorem snapshotTakeEff_keeps {a s : State} {x0} (h : Keeps a s) :
    Keeps a (snapshotTakeEff x0 s) := by
  unfold snapshotTakeEff
  try dsimp only
  repeat' (first | with_reducible assumption | with_reducible apply State.advance_keeps
                  | with_reducible apply State.setF_keeps | with_reducible apply State.shadowStop_keeps
                  | with_reducible apply State.freezeStop_keeps
                  | with_reducible refine Keeps.foldl (fun _ _ _ => ?_) ?_
                  | with_reducible refine Keeps.foldlFst (fun _ _ _ => ?_) ?_
                  | with_reducible refine Keeps.foldlSnd (fun _ _ _ => ?_) ?_ | simp only [Keeps.record]
                  | with_reducible refine Keeps.of_snd ‹_ = (_, _)› ?_
                  | with_reducible refine Keeps.of_fst ‹_ = (_, _)› ?_
                  | with_reducible refine Keeps.of_fst3 ‹_ = (_, _, _)› ?_ | with_reducible apply Keeps.ite
                  | split | dsimp only)

theorem snapArmEff_keeps {a s : State} (h : Keeps a s) :
    Keeps a (snapArmEff s) := by
  unfold snapArmEff
  try dsimp only
  repeat' (first | with_reducible assumption | with_reducible apply State.snapStart_keeps | simp only [Keeps.record]
                  | with_reducible refine Keeps.of_snd ‹_ = (_, _)› ?_
                  | with_reducible refine Keeps.of_fst ‹_ = (_, _)› ?_
                  | with_reducible refine Keeps.of_fst3 ‹_ = (_, _, _)› ?_ | with_reducible apply Keeps.ite
                  | split | dsimp only)

theorem State.readClears_keeps {a s : State} {x1} {x2} {x3} (h : Keeps a s) :
    Keeps a (State.readClears s x1 x2 x3) := by
  unfold State.readClears
  try dsimp only
  repeat' (first | with_reducible assumption | with_reducible apply State.setF_keeps
                  | with_reducible refine Keeps.foldl (fun _ _ _ => ?_) ?_
                  | with_reducible refine Keeps.foldlFst (fun _ _ _ => ?_) ?_
                  | with_reducible refine Keeps.foldlSnd (fun _ _ _ => ?_) ?_ | simp only [Keeps.record]
                  | with_reducible refine Keeps.of_snd ‹_ = (_, _)› ?_
                  | with_reducible refine Keeps.of_fst ‹_ = (_, _)› ?_
                  | with_reducible refine Keeps.of_fst3 ‹_ = (_, _, _)› ?_ | with_reducible apply Keeps.ite
                  | split | dsimp only)

theorem State.ctlFetch_keeps {a s : State} {x1} {x2} {x3} (h : Keeps a s) :
    Keeps a (State.ctlFetch s x1 x2 x3).1 := by
  unfold State.ctlFetch
  try dsimp only
  repeat' (first | with_reducible assumption | with_reducible apply State.readClears_keeps | simp only [Keeps.record]
                  | with_reducible refine Keeps.of_snd ‹_ = (_, _)› ?_
                  | with_reducible refine Keeps.of_fst ‹_ = (_, _)› ?_
                  | with_reducible refine Keeps.of_fst3 ‹_ = (_, _, _)› ?_ | with_reducible apply Keeps.ite
                  | split | dsimp only)

theorem State.ctlChecked_keeps {a s : State} {x1} {x2} {x3} (h : Keeps a s) :
    Keeps a (State.ctlChecked s x1 x2 x3).1 := by
  unfold State.ctlChecked
  try dsimp only
  repeat' (first | with_reducible assumption | with_reducible apply State.ctlFetch_keeps
                  | with_reducible apply State.ctlViolation_keeps | simp only [Keeps.record]
                  | with_reducible refine Keeps.of_snd ‹_ = (_, _)› ?_
                  | with_reducible refine Keeps.of_fst ‹_ = (_, _)› ?_
                  | with_reducible refine Keeps.of_fst3 ‹_ = (_, _, _)› ?_ | with_reducible apply Keeps.ite
                  | split | dsimp only)

theorem State.ctlRead_keeps {a s : State} {x1} {x2} {x3} (h : Keeps a s) :
    Keeps a (State.ctlRead s x1 x2 x3).1 := by
  unfold State.ctlRead
  try dsimp only
  repeat' (first | with_reducible assumption | with_reducible apply State.ctlChecked_keeps
                  | with_reducible apply State.incF_keeps | simp only [Keeps.record]
                  | with_reducible refine Keeps.of_snd ‹_ = (_, _)› ?_
                  | with_reducible refine Keeps.of_fst ‹_ = (_, _)› ?_
                  | with_reducible refine Keeps.of_fst3 ‹_ = (_, _, _)› ?_ | with_reducible apply Keeps.ite
                  | split | dsimp only)

theorem State.aplicPend_keeps {a s : State} {x1} {x2} {x3} (h : Keeps a s) :
    Keeps a (State.aplicPend s x1 x2 x3) := by
  unfold State.aplicPend
  try dsimp only
  repeat' (first | with_reducible assumption | with_reducible apply State.aplicForward_keeps
                  | with_reducible apply State.aplicWr_keeps | simp only [Keeps.record]
                  | with_reducible refine Keeps.of_snd ‹_ = (_, _)› ?_
                  | with_reducible refine Keeps.of_fst ‹_ = (_, _)› ?_
                  | with_reducible refine Keeps.of_fst3 ‹_ = (_, _, _)› ?_ | with_reducible apply Keeps.ite
                  | split | dsimp only)

theorem State.aplicSource_keeps {a s : State} {x1} {x2} {x3} (h : Keeps a s) :
    Keeps a (State.aplicSource s x1 x2 x3) := by
  unfold State.aplicSource
  try dsimp only
  repeat' (first | with_reducible assumption | with_reducible apply State.aplicWr_keeps
                  | with_reducible apply State.aplicPend_keeps | simp only [Keeps.record]
                  | with_reducible refine Keeps.of_snd ‹_ = (_, _)› ?_
                  | with_reducible refine Keeps.of_fst ‹_ = (_, _)› ?_
                  | with_reducible refine Keeps.of_fst3 ‹_ = (_, _, _)› ?_ | with_reducible apply Keeps.ite
                  | split | dsimp only)

theorem State.iommuWrite_keeps {a s : State} {x1} {x2} (h : Keeps a s) :
    Keeps a (State.iommuWrite s x1 x2) := by
  unfold State.iommuWrite
  try dsimp only
  repeat' (first | with_reducible assumption | simp only [Keeps.record]
                  | with_reducible refine Keeps.of_snd ‹_ = (_, _)› ?_
                  | with_reducible refine Keeps.of_fst ‹_ = (_, _)› ?_
                  | with_reducible refine Keeps.of_fst3 ‹_ = (_, _, _)› ?_ | with_reducible apply Keeps.ite
                  | split | dsimp only)

theorem State.aplicEn_keeps {a s : State} {x1} {x2} {x3} (h : Keeps a s) :
    Keeps a (State.aplicEn s x1 x2 x3) := by
  unfold State.aplicEn
  try dsimp only
  repeat' (first | with_reducible assumption | with_reducible apply State.aplicForward_keeps
                  | with_reducible apply State.aplicWr_keeps | simp only [Keeps.record]
                  | with_reducible refine Keeps.of_snd ‹_ = (_, _)› ?_
                  | with_reducible refine Keeps.of_fst ‹_ = (_, _)› ?_
                  | with_reducible refine Keeps.of_fst3 ‹_ = (_, _, _)› ?_ | with_reducible apply Keeps.ite
                  | split | dsimp only)

theorem State.aplicWrite_keeps {a s : State} {x1} {x2} {x3} (h : Keeps a s) :
    Keeps a (State.aplicWrite s x1 x2 x3) := by
  unfold State.aplicWrite
  try dsimp only
  repeat' (first | with_reducible assumption | with_reducible apply State.aplicWr_keeps
                  | with_reducible apply State.aplicForward_keeps | with_reducible apply State.aplicSource_keeps
                  | with_reducible apply State.aplicPend_keeps | with_reducible apply State.aplicEn_keeps
                  | with_reducible apply State.sendMsi_keeps
                  | with_reducible refine Keeps.foldl (fun _ _ _ => ?_) ?_
                  | with_reducible refine Keeps.foldlFst (fun _ _ _ => ?_) ?_
                  | with_reducible refine Keeps.foldlSnd (fun _ _ _ => ?_) ?_ | simp only [Keeps.record]
                  | with_reducible refine Keeps.of_snd ‹_ = (_, _)› ?_
                  | with_reducible refine Keeps.of_fst ‹_ = (_, _)› ?_
                  | with_reducible refine Keeps.of_fst3 ‹_ = (_, _, _)› ?_ | with_reducible apply Keeps.ite
                  | split | dsimp only)

theorem State.pageWrite_keeps {a s : State} {x1} {x2} (h : Keeps a s) :
    KeepsO a (Option.map Prod.fst (State.pageWrite s x1 x2)) := by
  unfold State.pageWrite
  try dsimp only
  repeat' (first | with_reducible assumption | with_reducible apply State.fileMsi_keeps
                  | with_reducible apply State.aplicWrite_keeps | with_reducible apply State.iommuWrite_keeps
                  | simp only [Keeps.record] | with_reducible exact KeepsO.none
                  | with_reducible apply KeepsO.some | with_reducible exact KeepsO.fstNone
                  | with_reducible exact KeepsO.sndNone | with_reducible apply KeepsO.fst
                  | with_reducible apply KeepsO.snd | with_reducible refine KeepsO.map (fun _ _ => ?_) ?_
                  | with_reducible apply KeepsO.getD | with_reducible apply KeepsO.sndPut
                  | with_reducible refine Keeps.of_some ‹_ = some _› ?_
                  | with_reducible refine Keeps.of_someFst ‹_ = some (_, _)› ?_
                  | with_reducible refine Keeps.of_someSnd ‹_ = some (_, _)› ?_
                  | with_reducible refine Keeps.of_someP1 ‹_ = some _› ?_
                  | with_reducible refine Keeps.of_snd ‹_ = (_, _)› ?_
                  | with_reducible refine Keeps.of_fst ‹_ = (_, _)› ?_
                  | with_reducible refine Keeps.of_fst3 ‹_ = (_, _, _)› ?_ | with_reducible apply Keeps.ite
                  | split | dsimp only)

theorem State.dmReset_keeps {a s : State} (h : Keeps a s) :
    Keeps a (State.dmReset s) := by
  unfold State.dmReset
  try dsimp only
  repeat' (first | with_reducible assumption | with_reducible apply State.wr_keeps | simp only [Keeps.record]
                  | with_reducible refine Keeps.of_snd ‹_ = (_, _)› ?_
                  | with_reducible refine Keeps.of_fst ‹_ = (_, _)› ?_
                  | with_reducible refine Keeps.of_fst3 ‹_ = (_, _, _)› ?_ | with_reducible apply Keeps.ite
                  | split | dsimp only)

theorem State.resumeReq_keeps {a s : State} {x1} (h : Keeps a s) :
    Keeps a (State.resumeReq s x1) := by
  unfold State.resumeReq
  try dsimp only
  repeat' (first | with_reducible assumption | with_reducible apply State.updHart_keeps
                  | with_reducible apply State.pollInt_keeps | simp only [Keeps.record]
                  | with_reducible refine Keeps.of_snd ‹_ = (_, _)› ?_
                  | with_reducible refine Keeps.of_fst ‹_ = (_, _)› ?_
                  | with_reducible refine Keeps.of_fst3 ‹_ = (_, _, _)› ?_ | with_reducible apply Keeps.ite
                  | split | dsimp only)

theorem resumeRequestEff_keeps {a s : State} {x0} (h : Keeps a s) :
    Keeps a (resumeRequestEff x0 s) := by
  unfold resumeRequestEff
  try dsimp only
  repeat' (first | with_reducible assumption | with_reducible apply State.resumeReq_keeps | simp only [Keeps.record]
                  | with_reducible refine Keeps.of_snd ‹_ = (_, _)› ?_
                  | with_reducible refine Keeps.of_fst ‹_ = (_, _)› ?_
                  | with_reducible refine Keeps.of_fst3 ‹_ = (_, _, _)› ?_ | with_reducible apply Keeps.ite
                  | split | dsimp only)

theorem State.dbgCsrPut_keeps {a s : State} {x1} {x2} {x3} (h : Keeps a s) :
    Keeps a (State.dbgCsrPut s x1 x2 x3) := by
  unfold State.dbgCsrPut
  try dsimp only
  repeat' (first | with_reducible assumption | with_reducible apply State.setCsr_keeps
                  | with_reducible apply State.updHart_keeps | with_reducible apply State.writeMkctl_keeps
                  | with_reducible apply State.writeMkhold_keeps | with_reducible apply State.csrStd_keeps
                  | simp only [Keeps.record] | with_reducible refine Keeps.of_snd ‹_ = (_, _)› ?_
                  | with_reducible refine Keeps.of_fst ‹_ = (_, _)› ?_
                  | with_reducible refine Keeps.of_fst3 ‹_ = (_, _, _)› ?_ | with_reducible apply Keeps.ite
                  | split | dsimp only)

theorem samplePreloadEff_keeps {a s : State} {x0} {x1} (h : Keeps a s) :
    Keeps a (samplePreloadEff x0 x1 s) := by
  unfold samplePreloadEff
  try dsimp only
  repeat' (first | with_reducible assumption | simp only [Keeps.record]
                  | with_reducible refine Keeps.of_snd ‹_ = (_, _)› ?_
                  | with_reducible refine Keeps.of_fst ‹_ = (_, _)› ?_
                  | with_reducible refine Keeps.of_fst3 ‹_ = (_, _, _)› ?_ | with_reducible apply Keeps.ite
                  | split | dsimp only)

theorem State.setDbgData_keeps {a s : State} {x1} {x2} {x3} (h : Keeps a s) :
    Keeps a (State.setDbgData s x1 x2 x3) := by
  unfold State.setDbgData
  try dsimp only
  repeat' (first | with_reducible assumption | with_reducible refine Keeps.foldl (fun _ _ _ => ?_) ?_
                  | with_reducible refine Keeps.foldlFst (fun _ _ _ => ?_) ?_
                  | with_reducible refine Keeps.foldlSnd (fun _ _ _ => ?_) ?_ | simp only [Keeps.record]
                  | with_reducible refine Keeps.of_snd ‹_ = (_, _)› ?_
                  | with_reducible refine Keeps.of_fst ‹_ = (_, _)› ?_
                  | with_reducible refine Keeps.of_fst3 ‹_ = (_, _, _)› ?_ | with_reducible apply Keeps.ite
                  | split | dsimp only)

theorem State.absSettle_keeps {a s : State} (h : Keeps a s) :
    Keeps a (State.absSettle s) := by
  unfold State.absSettle
  try dsimp only
  repeat' (first | with_reducible assumption | with_reducible apply State.updHart_keeps
                  | with_reducible apply State.setDbgData_keeps | simp only [Keeps.record]
                  | with_reducible refine Keeps.of_snd ‹_ = (_, _)› ?_
                  | with_reducible refine Keeps.of_fst ‹_ = (_, _)› ?_
                  | with_reducible refine Keeps.of_fst3 ‹_ = (_, _, _)› ?_ | with_reducible apply Keeps.ite
                  | split | dsimp only)

theorem State.cmdFail_keeps {a s : State} {x1} (h : Keeps a s) :
    Keeps a (State.cmdFail s x1) := by
  unfold State.cmdFail
  try dsimp only
  repeat' (first | with_reducible assumption | simp only [Keeps.record]
                  | with_reducible refine Keeps.of_snd ‹_ = (_, _)› ?_
                  | with_reducible refine Keeps.of_fst ‹_ = (_, _)› ?_
                  | with_reducible refine Keeps.of_fst3 ‹_ = (_, _, _)› ?_ | with_reducible apply Keeps.ite
                  | split | dsimp only)

theorem State.absRegister_keeps {a s : State} {x1} {x2} {x3} {x4} (h : Keeps a s) :
    Keeps a (State.absRegister s x1 x2 x3 x4) := by
  unfold State.absRegister
  try dsimp only
  repeat' (first | with_reducible assumption | with_reducible apply State.absSettle_keeps
                  | with_reducible apply State.cmdFail_keeps | with_reducible apply State.setDbgData_keeps
                  | with_reducible apply State.fresh_keeps | with_reducible apply State.setX_keeps
                  | with_reducible apply State.updHart_keeps | with_reducible apply State.dbgCsrPut_keeps
                  | simp only [Keeps.record] | with_reducible refine Keeps.of_snd ‹_ = (_, _)› ?_
                  | with_reducible refine Keeps.of_fst ‹_ = (_, _)› ?_
                  | with_reducible refine Keeps.of_fst3 ‹_ = (_, _, _)› ?_ | with_reducible apply Keeps.ite
                  | split | dsimp only)

theorem bypassEff_keeps {a s : State} {x0} (h : Keeps a s) :
    Keeps a (bypassEff x0 s) := by
  unfold bypassEff
  try dsimp only
  repeat' (first | with_reducible assumption | simp only [Keeps.record]
                  | with_reducible refine Keeps.of_snd ‹_ = (_, _)› ?_
                  | with_reducible refine Keeps.of_fst ‹_ = (_, _)› ?_
                  | with_reducible refine Keeps.of_fst3 ‹_ = (_, _, _)› ?_ | with_reducible apply Keeps.ite
                  | split | dsimp only)

theorem State.sbAccess_keeps {a s : State} {x1} {x2} {x3} {x4} {x5} (h : Keeps a s) :
    Keeps a (State.sbAccess s x1 x2 x3 x4 x5) := by
  unfold State.sbAccess
  try dsimp only
  repeat' (first | with_reducible assumption | with_reducible apply State.yokeSend_keeps | simp only [Keeps.record]
                  | with_reducible refine Keeps.of_snd ‹_ = (_, _)› ?_
                  | with_reducible refine Keeps.of_fst ‹_ = (_, _)› ?_
                  | with_reducible refine Keeps.of_fst3 ‹_ = (_, _, _)› ?_ | with_reducible apply Keeps.ite
                  | split | dsimp only)

theorem systemBusAccessEff_keeps {a s : State} {x0} {x1} {x2} {x3} (h : Keeps a s) :
    Keeps a (systemBusAccessEff x0 x1 x2 x3 s) := by
  unfold systemBusAccessEff
  try dsimp only
  repeat' (first | with_reducible assumption | with_reducible apply State.sbAccess_keeps | simp only [Keeps.record]
                  | with_reducible refine Keeps.of_snd ‹_ = (_, _)› ?_
                  | with_reducible refine Keeps.of_fst ‹_ = (_, _)› ?_
                  | with_reducible refine Keeps.of_fst3 ‹_ = (_, _, _)› ?_ | with_reducible apply Keeps.ite
                  | split | dsimp only)

theorem State.lockWrite_keeps {a s : State} {x1} {x2} (h : Keeps a s) :
    Keeps a (State.lockWrite s x1 x2) := by
  unfold State.lockWrite
  try dsimp only
  repeat' (first | with_reducible assumption | with_reducible apply State.setF_keeps | simp only [Keeps.record]
                  | with_reducible refine Keeps.of_snd ‹_ = (_, _)› ?_
                  | with_reducible refine Keeps.of_fst ‹_ = (_, _)› ?_
                  | with_reducible refine Keeps.of_fst3 ‹_ = (_, _, _)› ?_ | with_reducible apply Keeps.ite
                  | split | dsimp only)

theorem State.sbGo_keeps {a s : State} {x1} {x2} (h : Keeps a s) :
    Keeps a (State.sbGo s x1 x2) := by
  unfold State.sbGo
  try dsimp only
  repeat' (first | with_reducible assumption | with_reducible apply State.sbAccess_keeps | simp only [Keeps.record]
                  | with_reducible refine Keeps.of_snd ‹_ = (_, _)› ?_
                  | with_reducible refine Keeps.of_fst ‹_ = (_, _)› ?_
                  | with_reducible refine Keeps.of_fst3 ‹_ = (_, _, _)› ?_ | with_reducible apply Keeps.ite
                  | split | dsimp only)

theorem State.postExec_keeps {a s : State} (h : Keeps a s) :
    Keeps a (State.postExec s) := by
  unfold State.postExec
  try dsimp only
  repeat' (first | with_reducible assumption | with_reducible apply State.cmdFail_keeps
                  | with_reducible apply State.fresh_keeps | simp only [Keeps.record]
                  | with_reducible refine Keeps.of_snd ‹_ = (_, _)› ?_
                  | with_reducible refine Keeps.of_fst ‹_ = (_, _)› ?_
                  | with_reducible refine Keeps.of_fst3 ‹_ = (_, _, _)› ?_ | with_reducible apply Keeps.ite
                  | split | dsimp only)

theorem State.absMemory_keeps {a s : State} {x1} {x2} {x3} {x4} (h : Keeps a s) :
    Keeps a (State.absMemory s x1 x2 x3 x4) := by
  unfold State.absMemory
  try dsimp only
  repeat' (first | with_reducible assumption | with_reducible apply State.absSettle_keeps
                  | with_reducible apply State.cmdFail_keeps | with_reducible apply State.updHart_keeps
                  | with_reducible apply State.tagCheck_keeps | with_reducible apply State.pump_keeps
                  | with_reducible apply State.addAcc_keeps | with_reducible apply State.addIo_keeps
                  | simp only [Keeps.record] | with_reducible refine Keeps.of_snd ‹_ = (_, _)› ?_
                  | with_reducible refine Keeps.of_fst ‹_ = (_, _)› ?_
                  | with_reducible refine Keeps.of_fst3 ‹_ = (_, _, _)› ?_ | with_reducible apply Keeps.ite
                  | split | dsimp only)

theorem State.absCommand_keeps {a s : State} (h : Keeps a s) :
    Keeps a (State.absCommand s) := by
  unfold State.absCommand
  try dsimp only
  repeat' (first | with_reducible assumption | with_reducible apply State.absSettle_keeps
                  | with_reducible apply State.cmdFail_keeps | with_reducible apply State.absRegister_keeps
                  | with_reducible apply State.postExec_keeps | with_reducible apply State.absMemory_keeps
                  | with_reducible apply State.setDbgData_keeps | simp only [Keeps.record]
                  | with_reducible refine Keeps.of_snd ‹_ = (_, _)› ?_
                  | with_reducible refine Keeps.of_fst ‹_ = (_, _)› ?_
                  | with_reducible refine Keeps.of_fst3 ‹_ = (_, _, _)› ?_ | with_reducible apply Keeps.ite
                  | split | dsimp only)

theorem State.dmAuto_keeps {a s : State} {x1} (h : Keeps a s) :
    Keeps a (State.dmAuto s x1) := by
  unfold State.dmAuto
  try dsimp only
  repeat' (first | with_reducible assumption | with_reducible apply State.absCommand_keeps | simp only [Keeps.record]
                  | with_reducible refine Keeps.of_snd ‹_ = (_, _)› ?_
                  | with_reducible refine Keeps.of_fst ‹_ = (_, _)› ?_
                  | with_reducible refine Keeps.of_fst3 ‹_ = (_, _, _)› ?_ | with_reducible apply Keeps.ite
                  | split | dsimp only)

theorem State.dmRead_keeps {a s : State} {x1} {x2} (h : Keeps a s) :
    Keeps a (State.dmRead s x1 x2).2 := by
  unfold State.dmRead
  try dsimp only
  repeat' (first | with_reducible assumption | with_reducible apply State.absSettle_keeps
                  | with_reducible apply State.sbGo_keeps | with_reducible apply State.dmAuto_keeps
                  | simp only [Keeps.record] | with_reducible refine Keeps.of_snd ‹_ = (_, _)› ?_
                  | with_reducible refine Keeps.of_fst ‹_ = (_, _)› ?_
                  | with_reducible refine Keeps.of_fst3 ‹_ = (_, _, _)› ?_ | with_reducible apply Keeps.ite
                  | split | dsimp only)

theorem ndmresetEff_keeps {a s : State} (h : Keeps a s) :
    Keeps a (ndmresetEff s) := by
  unfold ndmresetEff
  try dsimp only
  repeat' (first | with_reducible assumption | with_reducible apply State.warmAll_keeps | simp only [Keeps.record]
                  | with_reducible refine Keeps.of_snd ‹_ = (_, _)› ?_
                  | with_reducible refine Keeps.of_fst ‹_ = (_, _)› ?_
                  | with_reducible refine Keeps.of_fst3 ‹_ = (_, _, _)› ?_ | with_reducible apply Keeps.ite
                  | split | dsimp only)

theorem dtmcsEff_keeps {a s : State} {x0} (h : Keeps a s) :
    Keeps a (dtmcsEff x0 s) := by
  unfold dtmcsEff
  try dsimp only
  repeat' (first | with_reducible assumption | simp only [Keeps.record]
                  | with_reducible refine Keeps.of_snd ‹_ = (_, _)› ?_
                  | with_reducible refine Keeps.of_fst ‹_ = (_, _)› ?_
                  | with_reducible refine Keeps.of_fst3 ‹_ = (_, _, _)› ?_ | with_reducible apply Keeps.ite
                  | split | dsimp only)

theorem accessMemoryEff_keeps {a s : State} {x0} {x1} {x2} {x3} (h : Keeps a s) :
    Keeps a (accessMemoryEff x0 x1 x2 x3 s) := by
  unfold accessMemoryEff
  try dsimp only
  repeat' (first | with_reducible assumption | with_reducible apply State.absMemory_keeps | simp only [Keeps.record]
                  | with_reducible refine Keeps.of_snd ‹_ = (_, _)› ?_
                  | with_reducible refine Keeps.of_fst ‹_ = (_, _)› ?_
                  | with_reducible refine Keeps.of_fst3 ‹_ = (_, _, _)› ?_ | with_reducible apply Keeps.ite
                  | split | dsimp only)

theorem State.haltReq_keeps {a s : State} {x1} (h : Keeps a s) :
    Keeps a (State.haltReq s x1) := by
  unfold State.haltReq
  try dsimp only
  repeat' (first | with_reducible assumption | with_reducible apply State.updHart_keeps
                  | with_reducible apply State.halt_keeps | with_reducible apply State.unpark_keeps
                  | simp only [Keeps.record] | with_reducible refine Keeps.of_snd ‹_ = (_, _)› ?_
                  | with_reducible refine Keeps.of_fst ‹_ = (_, _)› ?_
                  | with_reducible refine Keeps.of_fst3 ‹_ = (_, _, _)› ?_ | with_reducible apply Keeps.ite
                  | split | dsimp only)

theorem State.dmControl_keeps {a s : State} {x1} (h : Keeps a s) :
    Keeps a (State.dmControl s x1) := by
  unfold State.dmControl
  try dsimp only
  repeat' (first | with_reducible assumption | with_reducible apply State.dmReset_keeps
                  | with_reducible apply State.haltReq_keeps | with_reducible apply State.updHart_keeps
                  | with_reducible apply State.resumeReq_keeps | with_reducible apply ndmresetEff_keeps
                  | simp only [Keeps.record] | with_reducible refine Keeps.of_snd ‹_ = (_, _)› ?_
                  | with_reducible refine Keeps.of_fst ‹_ = (_, _)› ?_
                  | with_reducible refine Keeps.of_fst3 ‹_ = (_, _, _)› ?_ | with_reducible apply Keeps.ite
                  | split | dsimp only)

theorem State.dmWrite_keeps {a s : State} {x1} {x2} {x3} (h : Keeps a s) :
    Keeps a (State.dmWrite s x1 x2 x3) := by
  unfold State.dmWrite
  try dsimp only
  repeat' (first | with_reducible assumption | with_reducible apply State.lockWrite_keeps
                  | with_reducible apply State.dmControl_keeps | with_reducible apply State.absSettle_keeps
                  | with_reducible apply State.setF_keeps | with_reducible apply State.cmdFail_keeps
                  | with_reducible apply State.dmAuto_keeps | with_reducible apply State.absCommand_keeps
                  | with_reducible apply State.sbGo_keeps | simp only [Keeps.record]
                  | with_reducible refine Keeps.of_snd ‹_ = (_, _)› ?_
                  | with_reducible refine Keeps.of_fst ‹_ = (_, _)› ?_
                  | with_reducible refine Keeps.of_fst3 ‹_ = (_, _, _)› ?_ | with_reducible apply Keeps.ite
                  | split | dsimp only)

theorem dmiEff_keeps {a s : State} {x0} {x1} {x2} (h : Keeps a s) :
    Keeps a (dmiEff x0 x1 x2 s) := by
  unfold dmiEff
  try dsimp only
  repeat' (first | with_reducible assumption | with_reducible apply State.dmRead_keeps
                  | with_reducible apply State.dmWrite_keeps | simp only [Keeps.record]
                  | with_reducible refine Keeps.of_snd ‹_ = (_, _)› ?_
                  | with_reducible refine Keeps.of_fst ‹_ = (_, _)› ?_
                  | with_reducible refine Keeps.of_fst3 ‹_ = (_, _, _)› ?_ | with_reducible apply Keeps.ite
                  | split | dsimp only)

theorem pathLockEff_keeps {a s : State} {x0} {x1} (h : Keeps a s) :
    Keeps a (pathLockEff x0 x1 s) := by
  unfold pathLockEff
  try dsimp only
  repeat' (first | with_reducible assumption | with_reducible apply State.lockWrite_keeps | simp only [Keeps.record]
                  | with_reducible refine Keeps.of_snd ‹_ = (_, _)› ?_
                  | with_reducible refine Keeps.of_fst ‹_ = (_, _)› ?_
                  | with_reducible refine Keeps.of_fst3 ‹_ = (_, _, _)› ?_ | with_reducible apply Keeps.ite
                  | split | dsimp only)

theorem testLogicResetEff_keeps {a s : State} (h : Keeps a s) :
    Keeps a (testLogicResetEff s) := by
  unfold testLogicResetEff
  try dsimp only
  repeat' (first | with_reducible assumption | with_reducible apply State.wr_keeps | simp only [Keeps.record]
                  | with_reducible refine Keeps.of_snd ‹_ = (_, _)› ?_
                  | with_reducible refine Keeps.of_fst ‹_ = (_, _)› ?_
                  | with_reducible refine Keeps.of_fst3 ‹_ = (_, _, _)› ?_ | with_reducible apply Keeps.ite
                  | split | dsimp only)

theorem accessRegisterEff_keeps {a s : State} {x0} {x1} {x2} {x3} (h : Keeps a s) :
    Keeps a (accessRegisterEff x0 x1 x2 x3 s) := by
  unfold accessRegisterEff
  try dsimp only
  repeat' (first | with_reducible assumption | with_reducible apply State.absRegister_keeps | simp only [Keeps.record]
                  | with_reducible refine Keeps.of_snd ‹_ = (_, _)› ?_
                  | with_reducible refine Keeps.of_fst ‹_ = (_, _)› ?_
                  | with_reducible refine Keeps.of_fst3 ‹_ = (_, _, _)› ?_ | with_reducible apply Keeps.ite
                  | split | dsimp only)

theorem extestEff_keeps {a s : State} (h : Keeps a s) :
    Keeps a (extestEff s) := by
  unfold extestEff
  try dsimp only
  repeat' (first | with_reducible assumption | simp only [Keeps.record]
                  | with_reducible refine Keeps.of_snd ‹_ = (_, _)› ?_
                  | with_reducible refine Keeps.of_fst ‹_ = (_, _)› ?_
                  | with_reducible refine Keeps.of_fst3 ‹_ = (_, _, _)› ?_ | with_reducible apply Keeps.ite
                  | split | dsimp only)

theorem haltRequestEff_keeps {a s : State} {x0} (h : Keeps a s) :
    Keeps a (haltRequestEff x0 s) := by
  unfold haltRequestEff
  try dsimp only
  repeat' (first | with_reducible assumption | with_reducible apply State.haltReq_keeps | simp only [Keeps.record]
                  | with_reducible refine Keeps.of_snd ‹_ = (_, _)› ?_
                  | with_reducible refine Keeps.of_fst ‹_ = (_, _)› ?_
                  | with_reducible refine Keeps.of_fst3 ‹_ = (_, _, _)› ?_ | with_reducible apply Keeps.ite
                  | split | dsimp only)

theorem vregFaultClearEff_keeps {a s : State} {x0} {x1} (h : Keeps a s) :
    Keeps a (vregFaultClearEff x0 x1 s) := by
  unfold vregFaultClearEff
  try dsimp only
  repeat' (first | with_reducible assumption | with_reducible refine State.ctlGuard_keeps (fun _ _ => ?_) ?_
                  | with_reducible apply State.clearVreg_keeps | simp only [Keeps.record]
                  | with_reducible refine Keeps.of_snd ‹_ = (_, _)› ?_
                  | with_reducible refine Keeps.of_fst ‹_ = (_, _)› ?_
                  | with_reducible refine Keeps.of_fst3 ‹_ = (_, _, _)› ?_ | with_reducible apply Keeps.ite
                  | split | dsimp only)

theorem State.panelRise_keeps {a s : State} {x1} (h : Keeps a s) :
    Keeps a (State.panelRise s x1) := by
  unfold State.panelRise
  try dsimp only
  repeat' (first | with_reducible assumption | with_reducible apply State.setPanelState_keeps
                  | with_reducible apply State.panelsReady_keeps | with_reducible apply State.releaseHarts_keeps
                  | with_reducible apply State.dropPanel_keeps | with_reducible apply State.railOff_keeps
                  | simp only [Keeps.record] | with_reducible refine Keeps.of_snd ‹_ = (_, _)› ?_
                  | with_reducible refine Keeps.of_fst ‹_ = (_, _)› ?_
                  | with_reducible refine Keeps.of_fst3 ‹_ = (_, _, _)› ?_ | with_reducible apply Keeps.ite
                  | split | dsimp only)

theorem State.destroyStep_keeps {a s : State} (h : Keeps a s) :
    Keeps a (State.destroyStep s) := by
  unfold State.destroyStep
  try dsimp only
  repeat' (first | with_reducible assumption | with_reducible apply State.destroyEnd_keeps | simp only [Keeps.record]
                  | with_reducible refine Keeps.of_snd ‹_ = (_, _)› ?_
                  | with_reducible refine Keeps.of_fst ‹_ = (_, _)› ?_
                  | with_reducible refine Keeps.of_fst3 ‹_ = (_, _, _)› ?_ | with_reducible apply Keeps.ite
                  | split | dsimp only)

theorem State.riseStart_keeps {a s : State} {x1} (h : Keeps a s) :
    Keeps a (State.riseStart s x1) := by
  unfold State.riseStart
  try dsimp only
  repeat' (first | with_reducible assumption | with_reducible apply State.pushVout_keeps | simp only [Keeps.record]
                  | with_reducible refine Keeps.of_snd ‹_ = (_, _)› ?_
                  | with_reducible refine Keeps.of_fst ‹_ = (_, _)› ?_
                  | with_reducible refine Keeps.of_fst3 ‹_ = (_, _, _)› ?_ | with_reducible apply Keeps.ite
                  | split | dsimp only)

theorem State.powerApply_keeps {a s : State} {x1} {x2} (h : Keeps a s) :
    Keeps a (State.powerApply s x1 x2).1 := by
  unfold State.powerApply
  try dsimp only
  repeat' (first | with_reducible assumption | with_reducible apply State.keeperFence_keeps
                  | with_reducible apply State.updHart_keeps | with_reducible apply State.dimStart_keeps
                  | with_reducible apply State.riseStart_keeps | with_reducible apply State.dimCause_keeps
                  | with_reducible apply State.quietEnter_keeps | with_reducible apply State.quietWake_keeps
                  | with_reducible refine Keeps.foldl (fun _ _ _ => ?_) ?_
                  | with_reducible refine Keeps.foldlFst (fun _ _ _ => ?_) ?_
                  | with_reducible refine Keeps.foldlSnd (fun _ _ _ => ?_) ?_ | simp only [Keeps.record]
                  | with_reducible refine Keeps.of_snd ‹_ = (_, _)› ?_
                  | with_reducible refine Keeps.of_fst ‹_ = (_, _)› ?_
                  | with_reducible refine Keeps.of_fst3 ‹_ = (_, _, _)› ?_ | with_reducible apply Keeps.ite
                  | split | dsimp only)

theorem State.powerEnded_keeps {a s : State} {x1} (h : Keeps a s) :
    KeepsO a (Option.map Prod.snd (State.powerEnded s x1)) := by
  unfold State.powerEnded
  try dsimp only
  repeat' (first | with_reducible assumption | with_reducible apply State.railOff_keeps
                  | with_reducible apply State.setSaddleState_keeps | simp only [Keeps.record]
                  | with_reducible exact KeepsO.none | with_reducible apply KeepsO.some
                  | with_reducible exact KeepsO.fstNone | with_reducible exact KeepsO.sndNone
                  | with_reducible apply KeepsO.fst | with_reducible apply KeepsO.snd
                  | with_reducible refine KeepsO.map (fun _ _ => ?_) ?_ | with_reducible apply KeepsO.getD
                  | with_reducible apply KeepsO.sndPut | with_reducible refine Keeps.of_some ‹_ = some _› ?_
                  | with_reducible refine Keeps.of_someFst ‹_ = some (_, _)› ?_
                  | with_reducible refine Keeps.of_someSnd ‹_ = some (_, _)› ?_
                  | with_reducible refine Keeps.of_someP1 ‹_ = some _› ?_
                  | with_reducible refine Keeps.of_snd ‹_ = (_, _)› ?_
                  | with_reducible refine Keeps.of_fst ‹_ = (_, _)› ?_
                  | with_reducible refine Keeps.of_fst3 ‹_ = (_, _, _)› ?_ | with_reducible apply Keeps.ite
                  | split | dsimp only)

theorem State.powerStep_keeps {a s : State} {x1} (h : Keeps a s) :
    Keeps a (State.powerStep s x1) := by
  unfold State.powerStep
  try dsimp only
  repeat' (first | with_reducible assumption | with_reducible apply State.powerApply_keeps
                  | with_reducible apply State.powerEnded_keeps | with_reducible apply State.doorPost_keeps
                  | simp only [Keeps.record] | with_reducible exact KeepsO.none
                  | with_reducible apply KeepsO.some | with_reducible exact KeepsO.fstNone
                  | with_reducible exact KeepsO.sndNone | with_reducible apply KeepsO.fst
                  | with_reducible apply KeepsO.snd | with_reducible refine KeepsO.map (fun _ _ => ?_) ?_
                  | with_reducible apply KeepsO.getD | with_reducible apply KeepsO.sndPut
                  | with_reducible refine Keeps.of_some ‹_ = some _› ?_
                  | with_reducible refine Keeps.of_someFst ‹_ = some (_, _)› ?_
                  | with_reducible refine Keeps.of_someSnd ‹_ = some (_, _)› ?_
                  | with_reducible refine Keeps.of_someP1 ‹_ = some _› ?_
                  | with_reducible refine Keeps.of_snd ‹_ = (_, _)› ?_
                  | with_reducible refine Keeps.of_fst ‹_ = (_, _)› ?_
                  | with_reducible refine Keeps.of_fst3 ‹_ = (_, _, _)› ?_ | with_reducible apply Keeps.ite
                  | split | dsimp only)

theorem State.dormDown_keeps {a s : State} {x1} (h : Keeps a s) :
    Keeps a (State.dormDown s x1) := by
  unfold State.dormDown
  try dsimp only
  repeat' (first | with_reducible assumption | with_reducible apply State.accrueAll_keeps
                  | with_reducible apply State.setSaddleState_keeps | with_reducible apply State.railOff_keeps
                  | with_reducible apply State.rekey_keeps | with_reducible apply State.resetHart_keeps
                  | with_reducible apply State.keepRegs_keeps | with_reducible apply State.configPanel_keeps
                  | with_reducible apply State.configSaddle_keeps | with_reducible apply State.configMc_keeps
                  | with_reducible apply State.configBank_keeps | with_reducible apply State.configBobbin_keeps
                  | with_reducible apply State.setF_keeps | with_reducible apply State.setPkg_keeps
                  | with_reducible apply State.hostOwners_keeps
                  | with_reducible refine Keeps.foldl (fun _ _ _ => ?_) ?_
                  | with_reducible refine Keeps.foldlFst (fun _ _ _ => ?_) ?_
                  | with_reducible refine Keeps.foldlSnd (fun _ _ _ => ?_) ?_ | simp only [Keeps.record]
                  | with_reducible refine Keeps.of_snd ‹_ = (_, _)› ?_
                  | with_reducible refine Keeps.of_fst ‹_ = (_, _)› ?_
                  | with_reducible refine Keeps.of_fst3 ‹_ = (_, _, _)› ?_ | with_reducible apply Keeps.ite
                  | split | dsimp only)

theorem State.dormStep_keeps {a s : State} (h : Keeps a s) :
    Keeps a (State.dormStep s) := by
  unfold State.dormStep
  try dsimp only
  repeat' (first | with_reducible assumption | with_reducible apply State.railOff_keeps
                  | with_reducible apply State.keeperFence_keeps | with_reducible apply State.mbxEnd_keeps
                  | with_reducible apply State.dormDown_keeps
                  | with_reducible refine Keeps.foldl (fun _ _ _ => ?_) ?_
                  | with_reducible refine Keeps.foldlFst (fun _ _ _ => ?_) ?_
                  | with_reducible refine Keeps.foldlSnd (fun _ _ _ => ?_) ?_ | simp only [Keeps.record]
                  | with_reducible refine Keeps.of_snd ‹_ = (_, _)› ?_
                  | with_reducible refine Keeps.of_fst ‹_ = (_, _)› ?_
                  | with_reducible refine Keeps.of_fst3 ‹_ = (_, _, _)› ?_ | with_reducible apply Keeps.ite
                  | split | dsimp only)

theorem State.keeperWork_keeps {a s : State} (h : Keeps a s) :
    Keeps a (State.keeperWork s) := by
  unfold State.keeperWork
  try dsimp only
  repeat' (first | with_reducible assumption | with_reducible apply State.destroyStep_keeps
                  | with_reducible apply State.powerStep_keeps | with_reducible apply State.dormStep_keeps
                  | with_reducible apply State.checkSeals_keeps
                  | with_reducible refine Keeps.foldl (fun _ _ _ => ?_) ?_
                  | with_reducible refine Keeps.foldlFst (fun _ _ _ => ?_) ?_
                  | with_reducible refine Keeps.foldlSnd (fun _ _ _ => ?_) ?_ | simp only [Keeps.record]
                  | with_reducible refine Keeps.of_snd ‹_ = (_, _)› ?_
                  | with_reducible refine Keeps.of_fst ‹_ = (_, _)› ?_
                  | with_reducible refine Keeps.of_fst3 ‹_ = (_, _, _)› ?_ | with_reducible apply Keeps.ite
                  | split | dsimp only)

theorem quietExitEff_keeps {a s : State} {x0} (h : Keeps a s) :
    Keeps a (quietExitEff x0 s) := by
  unfold quietExitEff
  try dsimp only
  repeat' (first | with_reducible assumption | with_reducible apply State.keeperWork_keeps
                  | with_reducible apply State.quietEnd_keeps | simp only [Keeps.record]
                  | with_reducible refine Keeps.of_snd ‹_ = (_, _)› ?_
                  | with_reducible refine Keeps.of_fst ‹_ = (_, _)› ?_
                  | with_reducible refine Keeps.of_fst3 ‹_ = (_, _, _)› ?_ | with_reducible apply Keeps.ite
                  | split | dsimp only)

theorem State.powerServe_keeps {a s : State} {x1} {x2} {x3} {x4} (h : Keeps a s) :
    Keeps a (State.powerServe s x1 x2 x3 x4) := by
  unfold State.powerServe
  try dsimp only
  repeat' (first | with_reducible assumption | with_reducible apply State.powerStep_keeps
                  | with_reducible apply State.doorPost_keeps | with_reducible apply State.handStart_keeps
                  | with_reducible apply State.checkSeals_keeps
                  | with_reducible refine Keeps.foldl (fun _ _ _ => ?_) ?_
                  | with_reducible refine Keeps.foldlFst (fun _ _ _ => ?_) ?_
                  | with_reducible refine Keeps.foldlSnd (fun _ _ _ => ?_) ?_ | simp only [Keeps.record]
                  | with_reducible refine Keeps.of_snd ‹_ = (_, _)› ?_
                  | with_reducible refine Keeps.of_fst ‹_ = (_, _)› ?_
                  | with_reducible refine Keeps.of_fst3 ‹_ = (_, _, _)› ?_ | with_reducible apply Keeps.ite
                  | split | dsimp only)

theorem alterationCompleteEff_keeps {a s : State} (h : Keeps a s) :
    Keeps a (alterationCompleteEff s) := by
  unfold alterationCompleteEff
  try dsimp only
  repeat' (first | with_reducible assumption | with_reducible apply State.incF_keeps
                  | with_reducible apply State.setF_keeps | with_reducible apply State.extendMeas_keeps
                  | with_reducible apply State.svcMsix_keeps | with_reducible apply State.doorPost_keeps
                  | with_reducible apply State.mbxEnd_keeps | with_reducible apply State.endHeldReset_keeps
                  | with_reducible apply State.powerServe_keeps | with_reducible apply State.checkSeals_keeps
                  | with_reducible refine Keeps.foldl (fun _ _ _ => ?_) ?_
                  | with_reducible refine Keeps.foldlFst (fun _ _ _ => ?_) ?_
                  | with_reducible refine Keeps.foldlSnd (fun _ _ _ => ?_) ?_ | simp only [Keeps.record]
                  | with_reducible refine Keeps.of_snd ‹_ = (_, _)› ?_
                  | with_reducible refine Keeps.of_fst ‹_ = (_, _)› ?_
                  | with_reducible refine Keeps.of_fst3 ‹_ = (_, _, _)› ?_ | with_reducible apply Keeps.ite
                  | split | dsimp only)

theorem fenceExpiryEff_keeps {a s : State} {x0} (h : Keeps a s) :
    Keeps a (fenceExpiryEff x0 s) := by
  unfold fenceExpiryEff
  try dsimp only
  repeat' (first | with_reducible assumption | with_reducible apply State.fenceExpired_keeps
                  | with_reducible apply State.keeperWork_keeps | with_reducible apply State.blockLate_keeps
                  | simp only [Keeps.record] | with_reducible refine Keeps.of_snd ‹_ = (_, _)› ?_
                  | with_reducible refine Keeps.of_fst ‹_ = (_, _)› ?_
                  | with_reducible refine Keeps.of_fst3 ‹_ = (_, _, _)› ?_ | with_reducible apply Keeps.ite
                  | split | dsimp only)

theorem State.powerReq_keeps {a s : State} {x1} {x2} {x3} (h : Keeps a s) :
    Keeps a (State.powerReq s x1 x2 x3) := by
  unfold State.powerReq
  try dsimp only
  repeat' (first | with_reducible assumption | with_reducible refine State.doorHost_keeps (fun _ _ => ?_) ?_
                  | with_reducible apply State.doorReply_keeps | with_reducible apply State.powerServe_keeps
                  | simp only [Keeps.record] | with_reducible refine Keeps.of_snd ‹_ = (_, _)› ?_
                  | with_reducible refine Keeps.of_fst ‹_ = (_, _)› ?_
                  | with_reducible refine Keeps.of_fst3 ‹_ = (_, _, _)› ?_ | with_reducible apply Keeps.ite
                  | split | dsimp only)

theorem powerQuietEff_keeps {a s : State} {x0} {x1} (h : Keeps a s) :
    Keeps a (powerQuietEff x0 x1 s) := by
  unfold powerQuietEff
  try dsimp only
  repeat' (first | with_reducible assumption | with_reducible apply State.powerReq_keeps | simp only [Keeps.record]
                  | with_reducible refine Keeps.of_snd ‹_ = (_, _)› ?_
                  | with_reducible refine Keeps.of_fst ‹_ = (_, _)› ?_
                  | with_reducible refine Keeps.of_fst3 ‹_ = (_, _, _)› ?_ | with_reducible apply Keeps.ite
                  | split | dsimp only)

theorem dormantEff_keeps {a s : State} {x0} {x1} (h : Keeps a s) :
    Keeps a (dormantEff x0 x1 s) := by
  unfold dormantEff
  try dsimp only
  repeat' (first | with_reducible assumption | with_reducible refine State.mbxRun_keeps (fun _ _ => ?_) ?_
                  | with_reducible apply State.mbxEnd_keeps | with_reducible apply State.keeperFence_keeps
                  | with_reducible apply State.mbxBegin_keeps | with_reducible apply State.dormStep_keeps
                  | with_reducible refine Keeps.foldl (fun _ _ _ => ?_) ?_
                  | with_reducible refine Keeps.foldlFst (fun _ _ _ => ?_) ?_
                  | with_reducible refine Keeps.foldlSnd (fun _ _ _ => ?_) ?_ | simp only [Keeps.record]
                  | with_reducible refine Keeps.of_snd ‹_ = (_, _)› ?_
                  | with_reducible refine Keeps.of_fst ‹_ = (_, _)› ?_
                  | with_reducible refine Keeps.of_fst3 ‹_ = (_, _, _)› ?_ | with_reducible apply Keeps.ite
                  | split | dsimp only)

theorem dimResumeEff_keeps {a s : State} {x0} (h : Keeps a s) :
    Keeps a (dimResumeEff x0 s) := by
  unfold dimResumeEff
  try dsimp only
  repeat' (first | with_reducible assumption | with_reducible apply State.keeperWork_keeps
                  | with_reducible apply State.dimEnd_keeps | simp only [Keeps.record]
                  | with_reducible refine Keeps.of_snd ‹_ = (_, _)› ?_
                  | with_reducible refine Keeps.of_fst ‹_ = (_, _)› ?_
                  | with_reducible refine Keeps.of_fst3 ‹_ = (_, _, _)› ?_ | with_reducible apply Keeps.ite
                  | split | dsimp only)

theorem perPanelResetEff_keeps {a s : State} {x0} {x1} (h : Keeps a s) :
    Keeps a (perPanelResetEff x0 x1 s) := by
  unfold perPanelResetEff
  try dsimp only
  repeat' (first | with_reducible assumption | with_reducible apply State.resetPanel_keeps
                  | with_reducible apply State.handTag_keeps | with_reducible apply State.keeperWork_keeps
                  | with_reducible apply State.dropPanel_keeps | with_reducible apply State.railOff_keeps
                  | simp only [Keeps.record] | with_reducible refine Keeps.of_snd ‹_ = (_, _)› ?_
                  | with_reducible refine Keeps.of_fst ‹_ = (_, _)› ?_
                  | with_reducible refine Keeps.of_fst3 ‹_ = (_, _, _)› ?_ | with_reducible apply Keeps.ite
                  | split | dsimp only)

theorem doorAlterEff_keeps {a s : State} {x0} {x1} {x2} (h : Keeps a s) :
    Keeps a (doorAlterEff x0 x1 x2 s) := by
  unfold doorAlterEff
  try dsimp only
  repeat' (first | with_reducible assumption | with_reducible refine State.doorTake_keeps (fun _ _ => ?_) ?_
                  | with_reducible apply State.doorViol_keeps | with_reducible apply State.doorReply_keeps
                  | with_reducible apply State.flushLines_keeps | with_reducible apply State.submitAlter_keeps
                  | with_reducible apply State.svcMsix_keeps | simp only [Keeps.record]
                  | with_reducible refine Keeps.of_snd ‹_ = (_, _)› ?_
                  | with_reducible refine Keeps.of_fst ‹_ = (_, _)› ?_
                  | with_reducible refine Keeps.of_fst3 ‹_ = (_, _, _)› ?_ | with_reducible apply Keeps.ite
                  | split | dsimp only)

theorem dimWakeEff_keeps {a s : State} {x0} (h : Keeps a s) :
    Keeps a (dimWakeEff x0 s) := by
  unfold dimWakeEff
  try dsimp only
  repeat' (first | with_reducible assumption | with_reducible apply State.dimIrq_keeps | simp only [Keeps.record]
                  | with_reducible refine Keeps.of_snd ‹_ = (_, _)› ?_
                  | with_reducible refine Keeps.of_fst ‹_ = (_, _)› ?_
                  | with_reducible refine Keeps.of_fst3 ‹_ = (_, _, _)› ?_ | with_reducible apply Keeps.ite
                  | split | dsimp only)

theorem powerOffEff_keeps {a s : State} {x0} {x1} (h : Keeps a s) :
    Keeps a (powerOffEff x0 x1 s) := by
  unfold powerOffEff
  try dsimp only
  repeat' (first | with_reducible assumption | with_reducible apply State.powerReq_keeps | simp only [Keeps.record]
                  | with_reducible refine Keeps.of_snd ‹_ = (_, _)› ?_
                  | with_reducible refine Keeps.of_fst ‹_ = (_, _)› ?_
                  | with_reducible refine Keeps.of_fst3 ‹_ = (_, _, _)› ?_ | with_reducible apply Keeps.ite
                  | split | dsimp only)

theorem fenceReplyEff_keeps {a s : State} {x0} (h : Keeps a s) :
    Keeps a (fenceReplyEff x0 s) := by
  unfold fenceReplyEff
  try dsimp only
  repeat' (first | with_reducible assumption | with_reducible apply State.arrive_keeps
                  | with_reducible apply State.keeperWork_keeps | with_reducible apply State.panelRise_keeps
                  | with_reducible apply State.handFence_keeps | simp only [Keeps.record]
                  | with_reducible refine Keeps.of_snd ‹_ = (_, _)› ?_
                  | with_reducible refine Keeps.of_fst ‹_ = (_, _)› ?_
                  | with_reducible refine Keeps.of_fst3 ‹_ = (_, _, _)› ?_ | with_reducible apply Keeps.ite
                  | split | dsimp only)

theorem voutAckEff_keeps {a s : State} {x0} (h : Keeps a s) :
    Keeps a (voutAckEff x0 s) := by
  unfold voutAckEff
  try dsimp only
  repeat' (first | with_reducible assumption | with_reducible apply State.keeperWork_keeps
                  | with_reducible apply State.voutAcked_keeps | simp only [Keeps.record]
                  | with_reducible refine Keeps.of_snd ‹_ = (_, _)› ?_
                  | with_reducible refine Keeps.of_fst ‹_ = (_, _)› ?_
                  | with_reducible refine Keeps.of_fst3 ‹_ = (_, _, _)› ?_ | with_reducible apply Keeps.ite
                  | split | dsimp only)

theorem vregExpiryEff_keeps {a s : State} {x0} (h : Keeps a s) :
    Keeps a (vregExpiryEff x0 s) := by
  unfold vregExpiryEff
  try dsimp only
  repeat' (first | with_reducible assumption | with_reducible apply State.railLate_keeps
                  | with_reducible apply State.vregExpired_keeps | with_reducible apply State.dropPanel_keeps
                  | simp only [Keeps.record] | with_reducible refine Keeps.of_snd ‹_ = (_, _)› ?_
                  | with_reducible refine Keeps.of_fst ‹_ = (_, _)› ?_
                  | with_reducible refine Keeps.of_fst3 ‹_ = (_, _, _)› ?_ | with_reducible apply Keeps.ite
                  | split | dsimp only)

theorem drainCompleteEff_keeps {a s : State} {x0} (h : Keeps a s) :
    Keeps a (drainCompleteEff x0 s) := by
  unfold drainCompleteEff
  try dsimp only
  repeat' (first | with_reducible assumption | with_reducible apply State.drainDone_keeps
                  | with_reducible apply State.keeperWork_keeps
                  | with_reducible apply State.blockDrainDone_keeps | simp only [Keeps.record]
                  | with_reducible refine Keeps.of_snd ‹_ = (_, _)› ?_
                  | with_reducible refine Keeps.of_fst ‹_ = (_, _)› ?_
                  | with_reducible refine Keeps.of_fst3 ‹_ = (_, _, _)› ?_ | with_reducible apply Keeps.ite
                  | split | dsimp only)

theorem powerOnEff_keeps {a s : State} {x0} {x1} (h : Keeps a s) :
    Keeps a (powerOnEff x0 x1 s) := by
  unfold powerOnEff
  try dsimp only
  repeat' (first | with_reducible assumption | with_reducible apply State.powerReq_keeps | simp only [Keeps.record]
                  | with_reducible refine Keeps.of_snd ‹_ = (_, _)› ?_
                  | with_reducible refine Keeps.of_fst ‹_ = (_, _)› ?_
                  | with_reducible refine Keeps.of_fst3 ‹_ = (_, _, _)› ?_ | with_reducible apply Keeps.ite
                  | split | dsimp only)

theorem powerDimEff_keeps {a s : State} {x0} {x1} (h : Keeps a s) :
    Keeps a (powerDimEff x0 x1 s) := by
  unfold powerDimEff
  try dsimp only
  repeat' (first | with_reducible assumption | with_reducible apply State.powerReq_keeps | simp only [Keeps.record]
                  | with_reducible refine Keeps.of_snd ‹_ = (_, _)› ?_
                  | with_reducible refine Keeps.of_fst ‹_ = (_, _)› ?_
                  | with_reducible refine Keeps.of_fst3 ‹_ = (_, _, _)› ?_ | with_reducible apply Keeps.ite
                  | split | dsimp only)

theorem dimLeavingEmptyEff_keeps {a s : State} {x0} (h : Keeps a s) :
    Keeps a (dimLeavingEmptyEff x0 s) := by
  unfold dimLeavingEmptyEff
  try dsimp only
  repeat' (first | with_reducible assumption | with_reducible apply State.dimLow_keeps | simp only [Keeps.record]
                  | with_reducible refine Keeps.of_snd ‹_ = (_, _)› ?_
                  | with_reducible refine Keeps.of_fst ‹_ = (_, _)› ?_
                  | with_reducible refine Keeps.of_fst3 ‹_ = (_, _, _)› ?_ | with_reducible apply Keeps.ite
                  | split | dsimp only)

theorem releaseExpiryEff_keeps {a s : State} {x0} (h : Keeps a s) :
    Keeps a (releaseExpiryEff x0 s) := by
  unfold releaseExpiryEff
  try dsimp only
  repeat' (first | with_reducible assumption | with_reducible apply State.keeperWork_keeps
                  | with_reducible apply State.releaseLate_keeps | simp only [Keeps.record]
                  | with_reducible refine Keeps.of_snd ‹_ = (_, _)› ?_
                  | with_reducible refine Keeps.of_fst ‹_ = (_, _)› ?_
                  | with_reducible refine Keeps.of_fst3 ‹_ = (_, _, _)› ?_ | with_reducible apply Keeps.ite
                  | split | dsimp only)

theorem dimEntryEff_keeps {a s : State} {x0} (h : Keeps a s) :
    Keeps a (dimEntryEff x0 s) := by
  unfold dimEntryEff
  try dsimp only
  repeat' (first | with_reducible assumption | with_reducible apply State.dimEnter_keeps | simp only [Keeps.record]
                  | with_reducible refine Keeps.of_snd ‹_ = (_, _)› ?_
                  | with_reducible refine Keeps.of_fst ‹_ = (_, _)› ?_
                  | with_reducible refine Keeps.of_fst3 ‹_ = (_, _, _)› ?_ | with_reducible apply Keeps.ite
                  | split | dsimp only)

theorem State.dropIn_keeps {a s : State} {x1} (h : Keeps a s) :
    Keeps a (State.dropIn s x1) := by
  unfold State.dropIn
  try dsimp only
  repeat' (first | with_reducible assumption | simp only [Keeps.record]
                  | with_reducible refine Keeps.of_snd ‹_ = (_, _)› ?_
                  | with_reducible refine Keeps.of_fst ‹_ = (_, _)› ?_
                  | with_reducible refine Keeps.of_fst3 ‹_ = (_, _, _)› ?_ | with_reducible apply Keeps.ite
                  | split | dsimp only)

theorem State.hrnViol_keeps {a s : State} {x1} {x2} (h : Keeps a s) :
    Keeps a (State.hrnViol s x1 x2) := by
  unfold State.hrnViol
  try dsimp only
  repeat' (first | with_reducible assumption | with_reducible apply State.err_keeps
                  | with_reducible apply State.note_keeps | with_reducible apply State.hrnEvent_keeps
                  | simp only [Keeps.record] | with_reducible refine Keeps.of_snd ‹_ = (_, _)› ?_
                  | with_reducible refine Keeps.of_fst ‹_ = (_, _)› ?_
                  | with_reducible refine Keeps.of_fst3 ‹_ = (_, _, _)› ?_ | with_reducible apply Keeps.ite
                  | split | dsimp only)

theorem State.unqueue_keeps {a s : State} {x1} (h : Keeps a s) :
    Keeps a (State.unqueue s x1) := by
  unfold State.unqueue
  try dsimp only
  repeat' (first | with_reducible assumption | simp only [Keeps.record]
                  | with_reducible refine Keeps.of_snd ‹_ = (_, _)› ?_
                  | with_reducible refine Keeps.of_fst ‹_ = (_, _)› ?_
                  | with_reducible refine Keeps.of_fst3 ‹_ = (_, _, _)› ?_ | with_reducible apply Keeps.ite
                  | split | dsimp only)

theorem State.updOp_keeps {a s : State} {x1} {x2} (h : Keeps a s) :
    Keeps a (State.updOp s x1 x2) := by
  unfold State.updOp
  try dsimp only
  repeat' (first | with_reducible assumption | simp only [Keeps.record]
                  | with_reducible refine Keeps.of_snd ‹_ = (_, _)› ?_
                  | with_reducible refine Keeps.of_fst ‹_ = (_, _)› ?_
                  | with_reducible refine Keeps.of_fst3 ‹_ = (_, _, _)› ?_ | with_reducible apply Keeps.ite
                  | split | dsimp only)

theorem State.hrnSend_keeps {a s : State} {x1} {x2} {x3} {x4} {x5} {x6} {x7} (h : Keeps a s) :
    Keeps a (State.hrnSend s x1 x2 x3 x4 x5 x6 x7) := by
  unfold State.hrnSend
  try dsimp only
  repeat' (first | with_reducible assumption | with_reducible apply State.yokeSend_keeps | simp only [Keeps.record]
                  | with_reducible refine Keeps.of_snd ‹_ = (_, _)› ?_
                  | with_reducible refine Keeps.of_fst ‹_ = (_, _)› ?_
                  | with_reducible refine Keeps.of_fst3 ‹_ = (_, _, _)› ?_ | with_reducible apply Keeps.ite
                  | split | dsimp only)

theorem State.hrnWrite_keeps {a s : State} {x1} {x2} {x3} {x4} (h : Keeps a s) :
    Keeps a (State.hrnWrite s x1 x2 x3 x4) := by
  unfold State.hrnWrite
  try dsimp only
  repeat' (first | with_reducible assumption | with_reducible apply State.hrnSend_keeps
                  | with_reducible refine Keeps.foldl (fun _ _ _ => ?_) ?_
                  | with_reducible refine Keeps.foldlFst (fun _ _ _ => ?_) ?_
                  | with_reducible refine Keeps.foldlSnd (fun _ _ _ => ?_) ?_ | simp only [Keeps.record]
                  | with_reducible refine Keeps.of_snd ‹_ = (_, _)› ?_
                  | with_reducible refine Keeps.of_fst ‹_ = (_, _)› ?_
                  | with_reducible refine Keeps.of_fst3 ‹_ = (_, _, _)› ?_ | with_reducible apply Keeps.ite
                  | split | dsimp only)

theorem State.dropOp_keeps {a s : State} {x1} (h : Keeps a s) :
    Keeps a (State.dropOp s x1) := by
  unfold State.dropOp
  try dsimp only
  repeat' (first | with_reducible assumption | simp only [Keeps.record]
                  | with_reducible refine Keeps.of_snd ‹_ = (_, _)› ?_
                  | with_reducible refine Keeps.of_fst ‹_ = (_, _)› ?_
                  | with_reducible refine Keeps.of_fst3 ‹_ = (_, _, _)› ?_ | with_reducible apply Keeps.ite
                  | split | dsimp only)

theorem State.endOp_keeps {a s : State} {x1} {x2} (h : Keeps a s) :
    Keeps a (State.endOp s x1 x2) := by
  unfold State.endOp
  try dsimp only
  repeat' (first | with_reducible assumption | with_reducible apply State.uev_keeps
                  | with_reducible apply State.updOp_keeps | with_reducible apply State.hrnWrite_keeps
                  | with_reducible apply State.ioReply_keeps | with_reducible apply State.dropOp_keeps
                  | simp only [Keeps.record] | with_reducible refine Keeps.of_snd ‹_ = (_, _)› ?_
                  | with_reducible refine Keeps.of_fst ‹_ = (_, _)› ?_
                  | with_reducible refine Keeps.of_fst3 ‹_ = (_, _, _)› ?_ | with_reducible apply Keeps.ite
                  | split | dsimp only)

theorem State.opResp_keeps {a s : State} {x1} {x2} {x3} {x4} (h : Keeps a s) :
    Keeps a (State.opResp s x1 x2 x3 x4) := by
  unfold State.opResp
  try dsimp only
  repeat' (first | with_reducible assumption | with_reducible apply State.lateAnswer_keeps
                  | with_reducible apply State.unqueue_keeps | with_reducible apply State.endOp_keeps
                  | with_reducible apply State.updOp_keeps | with_reducible apply State.hrnWrite_keeps
                  | simp only [Keeps.record] | with_reducible refine Keeps.of_snd ‹_ = (_, _)› ?_
                  | with_reducible refine Keeps.of_fst ‹_ = (_, _)› ?_
                  | with_reducible refine Keeps.of_fst3 ‹_ = (_, _, _)› ?_ | with_reducible apply Keeps.ite
                  | split | dsimp only)

theorem State.respond_keeps {a s : State} {x1} {x2} {x3} {x4} {x5} {x6} {x7} (h : Keeps a s) :
    Keeps a (State.respond s x1 x2 x3 x4 x5 x6 x7) := by
  unfold State.respond
  try dsimp only
  repeat' (first | with_reducible assumption | with_reducible apply State.opResp_keeps
                  | with_reducible apply State.portOut_keeps | simp only [Keeps.record]
                  | with_reducible refine Keeps.of_snd ‹_ = (_, _)› ?_
                  | with_reducible refine Keeps.of_fst ‹_ = (_, _)› ?_
                  | with_reducible refine Keeps.of_fst3 ‹_ = (_, _, _)› ?_ | with_reducible apply Keeps.ite
                  | split | dsimp only)

end Sys2Proof.Machine
end

