-- ==== Sys2Proof/Laws/Keeps7.lean ====
section
/-! SUPPORT. What each operation keeps, in the order the operations are built on one another (part 7). -/

set_option linter.unusedVariables false
set_option linter.unreachableTactic false
set_option linter.unusedTactic false

namespace Sys2Proof.Machine

theorem State.endIn_keeps {a s : State} {x1} (h : Keeps a s) :
    Keeps a (State.endIn s x1) := by
  unfold State.endIn
  try dsimp only
  repeat' (first | with_reducible assumption | with_reducible apply State.dropIn_keeps
                  | with_reducible apply State.hrnViol_keeps | with_reducible apply State.respond_keeps
                  | simp only [Keeps.record] | with_reducible refine Keeps.of_snd ‹_ = (_, _)› ?_
                  | with_reducible refine Keeps.of_fst ‹_ = (_, _)› ?_
                  | with_reducible refine Keeps.of_fst3 ‹_ = (_, _, _)› ?_ | with_reducible apply Keeps.ite
                  | split | dsimp only)

theorem State.updIn_keeps {a s : State} {x1} {x2} (h : Keeps a s) :
    Keeps a (State.updIn s x1 x2) := by
  unfold State.updIn
  try dsimp only
  repeat' (first | with_reducible assumption | simp only [Keeps.record]
                  | with_reducible refine Keeps.of_snd ‹_ = (_, _)› ?_
                  | with_reducible refine Keeps.of_fst ‹_ = (_, _)› ?_
                  | with_reducible refine Keeps.of_fst3 ‹_ = (_, _, _)› ?_ | with_reducible apply Keeps.ite
                  | split | dsimp only)

theorem State.hrnRead_keeps {a s : State} {x1} {x2} {x3} {x4} (h : Keeps a s) :
    Keeps a (State.hrnRead s x1 x2 x3 x4) := by
  unfold State.hrnRead
  try dsimp only
  repeat' (first | with_reducible assumption | with_reducible apply State.hrnSend_keeps
                  | with_reducible refine Keeps.foldl (fun _ _ _ => ?_) ?_
                  | with_reducible refine Keeps.foldlFst (fun _ _ _ => ?_) ?_
                  | with_reducible refine Keeps.foldlSnd (fun _ _ _ => ?_) ?_ | simp only [Keeps.record]
                  | with_reducible refine Keeps.of_snd ‹_ = (_, _)› ?_
                  | with_reducible refine Keeps.of_fst ‹_ = (_, _)› ?_
                  | with_reducible refine Keeps.of_fst3 ‹_ = (_, _, _)› ?_ | with_reducible apply Keeps.ite
                  | split | dsimp only)

theorem State.writeHeader_keeps {a s : State} {x1} (h : Keeps a s) :
    Keeps a (State.writeHeader s x1) := by
  unfold State.writeHeader
  try dsimp only
  repeat' (first | with_reducible assumption | with_reducible apply State.endIn_keeps
                  | with_reducible apply State.updIn_keeps | with_reducible apply State.hrnWrite_keeps
                  | simp only [Keeps.record] | with_reducible refine Keeps.of_snd ‹_ = (_, _)› ?_
                  | with_reducible refine Keeps.of_fst ‹_ = (_, _)› ?_
                  | with_reducible refine Keeps.of_fst3 ‹_ = (_, _, _)› ?_ | with_reducible apply Keeps.ite
                  | split | dsimp only)

theorem State.startAtomic_keeps {a s : State} {x1} (h : Keeps a s) :
    Keeps a (State.startAtomic s x1) := by
  unfold State.startAtomic
  try dsimp only
  repeat' (first | with_reducible assumption | with_reducible apply State.hrnSend_keeps
                  | with_reducible apply State.updIn_keeps | simp only [Keeps.record]
                  | with_reducible refine Keeps.of_snd ‹_ = (_, _)› ?_
                  | with_reducible refine Keeps.of_fst ‹_ = (_, _)› ?_
                  | with_reducible refine Keeps.of_fst3 ‹_ = (_, _, _)› ?_ | with_reducible apply Keeps.ite
                  | split | dsimp only)

theorem State.startIn_keeps {a s : State} {x1} (h : Keeps a s) :
    Keeps a (State.startIn s x1) := by
  unfold State.startIn
  try dsimp only
  repeat' (first | with_reducible assumption | with_reducible apply State.endIn_keeps
                  | with_reducible apply State.hrnWrite_keeps | with_reducible apply State.updIn_keeps
                  | with_reducible apply State.hrnRead_keeps | with_reducible apply State.setF_keeps
                  | with_reducible apply State.writeHeader_keeps | with_reducible apply State.startAtomic_keeps
                  | simp only [Keeps.record] | with_reducible refine Keeps.of_snd ‹_ = (_, _)› ?_
                  | with_reducible refine Keeps.of_fst ‹_ = (_, _)› ?_
                  | with_reducible refine Keeps.of_fst3 ‹_ = (_, _, _)› ?_ | with_reducible apply Keeps.ite
                  | split | dsimp only)

theorem State.inPump_keeps {a s : State} (h : Keeps a s) :
    Keeps a (State.inPump s) := by
  unfold State.inPump
  try dsimp only
  repeat' (first | with_reducible assumption | with_reducible apply State.dropIn_keeps
                  | with_reducible apply State.startIn_keeps
                  | with_reducible refine Keeps.foldl (fun _ _ _ => ?_) ?_
                  | with_reducible refine Keeps.foldlFst (fun _ _ _ => ?_) ?_
                  | with_reducible refine Keeps.foldlSnd (fun _ _ _ => ?_) ?_ | simp only [Keeps.record]
                  | with_reducible refine Keeps.of_snd ‹_ = (_, _)› ?_
                  | with_reducible refine Keeps.of_fst ‹_ = (_, _)› ?_
                  | with_reducible refine Keeps.of_fst3 ‹_ = (_, _, _)› ?_ | with_reducible apply Keeps.ite
                  | split | dsimp only)

theorem State.cqRefresh_keeps {a s : State} {x1} (h : Keeps a s) :
    Keeps a (State.cqRefresh s x1) := by
  unfold State.cqRefresh
  try dsimp only
  repeat' (first | with_reducible assumption | with_reducible apply State.setF_keeps | simp only [Keeps.record]
                  | with_reducible refine Keeps.of_snd ‹_ = (_, _)› ?_
                  | with_reducible refine Keeps.of_fst ‹_ = (_, _)› ?_
                  | with_reducible refine Keeps.of_fst3 ‹_ = (_, _, _)› ?_ | with_reducible apply Keeps.ite
                  | split | dsimp only)

theorem State.headerDone_keeps {a s : State} {x1} {x2} (h : Keeps a s) :
    Keeps a (State.headerDone s x1 x2) := by
  unfold State.headerDone
  try dsimp only
  repeat' (first | with_reducible assumption | with_reducible apply State.sendMsi_keeps
                  | with_reducible apply State.endIn_keeps | simp only [Keeps.record]
                  | with_reducible refine Keeps.of_snd ‹_ = (_, _)› ?_
                  | with_reducible refine Keeps.of_fst ‹_ = (_, _)› ?_
                  | with_reducible refine Keeps.of_fst3 ‹_ = (_, _, _)› ?_ | with_reducible apply Keeps.ite
                  | split | dsimp only)

theorem State.receive_keeps {a s : State} {x1} {x2} (h : Keeps a s) :
    Keeps a (State.receive s x1 x2) := by
  unfold State.receive
  try dsimp only
  repeat' (first | with_reducible assumption | with_reducible apply State.respond_keeps
                  | with_reducible apply State.hrnViol_keeps | with_reducible apply State.incF_keeps
                  | with_reducible apply State.startIn_keeps | simp only [Keeps.record]
                  | with_reducible refine Keeps.of_snd ‹_ = (_, _)› ?_
                  | with_reducible refine Keeps.of_fst ‹_ = (_, _)› ?_
                  | with_reducible refine Keeps.of_fst3 ‹_ = (_, _, _)› ?_ | with_reducible apply Keeps.ite
                  | split | dsimp only)

theorem State.trySend_keeps {a s : State} {x1} (h : Keeps a s) :
    Keeps a (State.trySend s x1) := by
  unfold State.trySend
  try dsimp only
  repeat' (first | with_reducible assumption | with_reducible apply State.portQueue_keeps
                  | with_reducible apply State.updOp_keeps | with_reducible apply State.receive_keeps
                  | with_reducible apply State.route_keeps | simp only [Keeps.record]
                  | with_reducible refine Keeps.of_snd ‹_ = (_, _)› ?_
                  | with_reducible refine Keeps.of_fst ‹_ = (_, _)› ?_
                  | with_reducible refine Keeps.of_fst3 ‹_ = (_, _, _)› ?_ | with_reducible apply Keeps.ite
                  | split | dsimp only)

theorem State.opPump_keeps {a s : State} (h : Keeps a s) :
    Keeps a (State.opPump s) := by
  unfold State.opPump
  try dsimp only
  repeat' (first | with_reducible assumption | with_reducible apply State.trySend_keeps
                  | with_reducible refine Keeps.foldl (fun _ _ _ => ?_) ?_
                  | with_reducible refine Keeps.foldlFst (fun _ _ _ => ?_) ?_
                  | with_reducible refine Keeps.foldlSnd (fun _ _ _ => ?_) ?_ | simp only [Keeps.record]
                  | with_reducible refine Keeps.of_snd ‹_ = (_, _)› ?_
                  | with_reducible refine Keeps.of_fst ‹_ = (_, _)› ?_
                  | with_reducible refine Keeps.of_fst3 ‹_ = (_, _, _)› ?_ | with_reducible apply Keeps.ite
                  | split | dsimp only)

theorem State.hrnPump_keeps {a s : State} (h : Keeps a s) :
    Keeps a (State.hrnPump s) := by
  unfold State.hrnPump
  try dsimp only
  repeat' (first | with_reducible assumption | with_reducible apply State.inPump_keeps
                  | with_reducible apply State.opPump_keeps | simp only [Keeps.record]
                  | with_reducible refine Keeps.of_snd ‹_ = (_, _)› ?_
                  | with_reducible refine Keeps.of_fst ‹_ = (_, _)› ?_
                  | with_reducible refine Keeps.of_fst3 ‹_ = (_, _, _)› ?_ | with_reducible apply Keeps.ite
                  | split | dsimp only)

theorem State.pushOp_keeps {a s : State} {x1} (h : Keeps a s) :
    Keeps a (State.pushOp s x1) := by
  unfold State.pushOp
  try dsimp only
  repeat' (first | with_reducible assumption | with_reducible apply State.uev_keeps
                  | with_reducible apply State.incF_keeps | simp only [Keeps.record]
                  | with_reducible refine Keeps.of_snd ‹_ = (_, _)› ?_
                  | with_reducible refine Keeps.of_fst ‹_ = (_, _)› ?_
                  | with_reducible refine Keeps.of_fst3 ‹_ = (_, _, _)› ?_ | with_reducible apply Keeps.ite
                  | split | dsimp only)

theorem State.winStart_keeps {a s : State} {x1} {x2} {x3} {x4} (h : Keeps a s) :
    Keeps a (State.winStart s x1 x2 x3 x4) := by
  unfold State.winStart
  try dsimp only
  repeat' (first | with_reducible assumption | with_reducible apply State.pushOp_keeps
                  | with_reducible apply State.endOp_keeps | with_reducible apply State.hrnPump_keeps
                  | simp only [Keeps.record] | with_reducible refine Keeps.of_snd ‹_ = (_, _)› ?_
                  | with_reducible refine Keeps.of_fst ‹_ = (_, _)› ?_
                  | with_reducible refine Keeps.of_fst3 ‹_ = (_, _, _)› ?_ | with_reducible apply Keeps.ite
                  | split | dsimp only)

theorem State.hrnFail_keeps {a s : State} {x1} {x2} {x3} {x4} (h : Keeps a s) :
    Keeps a (State.hrnFail s x1 x2 x3 x4) := by
  unfold State.hrnFail
  try dsimp only
  repeat' (first | with_reducible assumption | with_reducible apply State.err_keeps
                  | with_reducible apply State.fresh_keeps | simp only [Keeps.record]
                  | with_reducible refine Keeps.of_snd ‹_ = (_, _)› ?_
                  | with_reducible refine Keeps.of_fst ‹_ = (_, _)› ?_
                  | with_reducible refine Keeps.of_fst3 ‹_ = (_, _, _)› ?_ | with_reducible apply Keeps.ite
                  | split | dsimp only)

theorem State.hrnPoison_keeps {a s : State} {x1} {x2} (h : Keeps a s) :
    Keeps a (State.hrnPoison s x1 x2) := by
  unfold State.hrnPoison
  try dsimp only
  repeat' (first | with_reducible assumption | with_reducible apply State.hrnFail_keeps | simp only [Keeps.record]
                  | with_reducible refine Keeps.of_snd ‹_ = (_, _)› ?_
                  | with_reducible refine Keeps.of_fst ‹_ = (_, _)› ?_
                  | with_reducible refine Keeps.of_fst3 ‹_ = (_, _, _)› ?_ | with_reducible apply Keeps.ite
                  | split | dsimp only)

theorem State.inAtomic_keeps {a s : State} {x1} {x2} {x3} {x4} {x5} (h : Keeps a s) :
    Keeps a (State.inAtomic s x1 x2 x3 x4 x5) := by
  unfold State.inAtomic
  try dsimp only
  repeat' (first | with_reducible assumption | with_reducible apply State.hrnPoison_keeps
                  | with_reducible apply State.endIn_keeps | with_reducible apply State.hrnViol_keeps
                  | with_reducible apply State.hrnSend_keeps | with_reducible apply State.updIn_keeps
                  | with_reducible apply State.dropIn_keeps | with_reducible apply State.startAtomic_keeps
                  | simp only [Keeps.record] | with_reducible refine Keeps.of_snd ‹_ = (_, _)› ?_
                  | with_reducible refine Keeps.of_fst ‹_ = (_, _)› ?_
                  | with_reducible refine Keeps.of_fst3 ‹_ = (_, _, _)› ?_ | with_reducible apply Keeps.ite
                  | split | dsimp only)

theorem State.cqHalt_keeps {a s : State} {x1} {x2} {x3} (h : Keeps a s) :
    Keeps a (State.cqHalt s x1 x2 x3) := by
  unfold State.cqHalt
  try dsimp only
  repeat' (first | with_reducible assumption | with_reducible apply State.hrnFail_keeps
                  | with_reducible apply State.setF_keeps | simp only [Keeps.record]
                  | with_reducible refine Keeps.of_snd ‹_ = (_, _)› ?_
                  | with_reducible refine Keeps.of_fst ‹_ = (_, _)› ?_
                  | with_reducible refine Keeps.of_fst3 ‹_ = (_, _, _)› ?_ | with_reducible apply Keeps.ite
                  | split | dsimp only)

theorem State.recordDone_keeps {a s : State} {x1} {x2} {x3} (h : Keeps a s) :
    Keeps a (State.recordDone s x1 x2 x3) := by
  unfold State.recordDone
  try dsimp only
  repeat' (first | with_reducible assumption | with_reducible apply State.dropOp_keeps
                  | with_reducible apply State.setF_keeps | with_reducible apply State.cqHalt_keeps
                  | with_reducible apply State.sendMsi_keeps | with_reducible apply State.cqRefresh_keeps
                  | simp only [Keeps.record] | with_reducible refine Keeps.of_snd ‹_ = (_, _)› ?_
                  | with_reducible refine Keeps.of_fst ‹_ = (_, _)› ?_
                  | with_reducible refine Keeps.of_fst3 ‹_ = (_, _, _)› ?_ | with_reducible apply Keeps.ite
                  | split | dsimp only)

theorem State.localRead_keeps {a s : State} {x1} {x2} {x3} {x4} {x5} (h : Keeps a s) :
    Keeps a (State.localRead s x1 x2 x3 x4 x5) := by
  unfold State.localRead
  try dsimp only
  repeat' (first | with_reducible assumption | with_reducible apply State.hrnPoison_keeps
                  | with_reducible apply State.updOp_keeps | with_reducible apply State.endOp_keeps
                  | simp only [Keeps.record] | with_reducible refine Keeps.of_snd ‹_ = (_, _)› ?_
                  | with_reducible refine Keeps.of_fst ‹_ = (_, _)› ?_
                  | with_reducible refine Keeps.of_fst3 ‹_ = (_, _, _)› ?_ | with_reducible apply Keeps.ite
                  | split | dsimp only)

theorem State.localWrote_keeps {a s : State} {x1} {x2} {x3} (h : Keeps a s) :
    Keeps a (State.localWrote s x1 x2 x3) := by
  unfold State.localWrote
  try dsimp only
  repeat' (first | with_reducible assumption | with_reducible apply State.endOp_keeps
                  | with_reducible apply State.updOp_keeps | simp only [Keeps.record]
                  | with_reducible refine Keeps.of_snd ‹_ = (_, _)› ?_
                  | with_reducible refine Keeps.of_fst ‹_ = (_, _)› ?_
                  | with_reducible refine Keeps.of_fst3 ‹_ = (_, _, _)› ?_ | with_reducible apply Keeps.ite
                  | split | dsimp only)

theorem State.cqFetched_keeps {a s : State} {x1} {x2} {x3} {x4} {x5} {x6} (h : Keeps a s) :
    Keeps a (State.cqFetched s x1 x2 x3 x4 x5 x6) := by
  unfold State.cqFetched
  try dsimp only
  repeat' (first | with_reducible assumption | with_reducible apply State.cqHalt_keeps | simp only [Keeps.record]
                  | with_reducible refine Keeps.of_snd ‹_ = (_, _)› ?_
                  | with_reducible refine Keeps.of_fst ‹_ = (_, _)› ?_
                  | with_reducible refine Keeps.of_fst3 ‹_ = (_, _, _)› ?_ | with_reducible apply Keeps.ite
                  | split | dsimp only)

theorem State.inLine_keeps {a s : State} {x1} {x2} {x3} {x4} {x5} (h : Keeps a s) :
    Keeps a (State.inLine s x1 x2 x3 x4 x5) := by
  unfold State.inLine
  try dsimp only
  repeat' (first | with_reducible assumption | with_reducible apply State.hrnViol_keeps
                  | with_reducible apply State.hrnPoison_keeps | with_reducible apply State.updIn_keeps
                  | with_reducible apply State.writeHeader_keeps | with_reducible apply State.endIn_keeps
                  | simp only [Keeps.record] | with_reducible refine Keeps.of_snd ‹_ = (_, _)› ?_
                  | with_reducible refine Keeps.of_fst ‹_ = (_, _)› ?_
                  | with_reducible refine Keeps.of_fst3 ‹_ = (_, _, _)› ?_ | with_reducible apply Keeps.ite
                  | split | dsimp only)

theorem State.takeDesc_keeps {a s : State} {x1} {x2} (h : Keeps a s) :
    Keeps a (State.takeDesc s x1 x2).2 := by
  unfold State.takeDesc
  try dsimp only
  repeat' (first | with_reducible assumption | with_reducible apply State.pushOp_keeps | simp only [Keeps.record]
                  | with_reducible refine Keeps.of_snd ‹_ = (_, _)› ?_
                  | with_reducible refine Keeps.of_fst ‹_ = (_, _)› ?_
                  | with_reducible refine Keeps.of_fst3 ‹_ = (_, _, _)› ?_ | with_reducible apply Keeps.ite
                  | split | dsimp only)

theorem State.bufferFail_keeps {a s : State} {x1} {x2} {x3} (h : Keeps a s) :
    Keeps a (State.bufferFail s x1 x2 x3) := by
  unfold State.bufferFail
  try dsimp only
  repeat' (first | with_reducible assumption | with_reducible apply State.violation_keeps
                  | with_reducible apply State.endOp_keeps | simp only [Keeps.record]
                  | with_reducible refine Keeps.of_snd ‹_ = (_, _)› ?_
                  | with_reducible refine Keeps.of_fst ‹_ = (_, _)› ?_
                  | with_reducible refine Keeps.of_fst3 ‹_ = (_, _, _)› ?_ | with_reducible apply Keeps.ite
                  | split | dsimp only)

theorem State.readLocal_keeps {a s : State} {x1} {x2} (h : Keeps a s) :
    Keeps a (State.readLocal s x1 x2) := by
  unfold State.readLocal
  try dsimp only
  repeat' (first | with_reducible assumption | with_reducible apply State.hrnPump_keeps
                  | with_reducible apply State.updOp_keeps | with_reducible apply State.hrnRead_keeps
                  | simp only [Keeps.record] | with_reducible refine Keeps.of_snd ‹_ = (_, _)› ?_
                  | with_reducible refine Keeps.of_fst ‹_ = (_, _)› ?_
                  | with_reducible refine Keeps.of_fst3 ‹_ = (_, _, _)› ?_ | with_reducible apply Keeps.ite
                  | split | dsimp only)

theorem State.startData_keeps {a s : State} {x1} {x2} {x3} (h : Keeps a s) :
    Keeps a (State.startData s x1 x2 x3) := by
  unfold State.startData
  try dsimp only
  repeat' (first | with_reducible assumption | with_reducible apply State.takeDesc_keeps
                  | with_reducible apply State.endOp_keeps | with_reducible apply State.bufferFail_keeps
                  | with_reducible apply State.readLocal_keeps | simp only [Keeps.record]
                  | with_reducible refine Keeps.of_snd ‹_ = (_, _)› ?_
                  | with_reducible refine Keeps.of_fst ‹_ = (_, _)› ?_
                  | with_reducible refine Keeps.of_fst3 ‹_ = (_, _, _)› ?_ | with_reducible apply Keeps.ite
                  | split | dsimp only)

theorem sendEff_keeps {a s : State} {x0} {x1} (h : Keeps a s) :
    Keeps a (sendEff x0 x1 s) := by
  unfold sendEff
  try dsimp only
  repeat' (first | with_reducible assumption | with_reducible apply State.startData_keeps | simp only [Keeps.record]
                  | with_reducible refine Keeps.of_snd ‹_ = (_, _)› ?_
                  | with_reducible refine Keeps.of_fst ‹_ = (_, _)› ?_
                  | with_reducible refine Keeps.of_fst3 ‹_ = (_, _, _)› ?_ | with_reducible apply Keeps.ite
                  | split | dsimp only)

theorem State.i3cSay_keeps {a s : State} {x1} (h : Keeps a s) :
    Keeps a (State.i3cSay s x1) := by
  unfold State.i3cSay
  try dsimp only
  repeat' (first | with_reducible assumption | simp only [Keeps.record]
                  | with_reducible refine Keeps.of_snd ‹_ = (_, _)› ?_
                  | with_reducible refine Keeps.of_fst ‹_ = (_, _)› ?_
                  | with_reducible refine Keeps.of_fst3 ‹_ = (_, _, _)› ?_ | with_reducible apply Keeps.ite
                  | split | dsimp only)

theorem State.mgmtTake_keeps {a s : State} {x1} {x2} (h2 : ∀ y0 y1, Keeps a y0 → Keeps a (x2 y0 y1)) (h : Keeps a s) :
    Keeps a (State.mgmtTake s x1 x2) := by
  unfold State.mgmtTake
  try dsimp only
  repeat' (first | with_reducible assumption | simp only [Keeps.record] | with_reducible apply h2
                  | with_reducible refine Keeps.of_snd ‹_ = (_, _)› ?_
                  | with_reducible refine Keeps.of_fst ‹_ = (_, _)› ?_
                  | with_reducible refine Keeps.of_fst3 ‹_ = (_, _, _)› ?_ | with_reducible apply Keeps.ite
                  | split | dsimp only)

theorem State.mgmtReply_keeps {a s : State} {x1} {x2} {x3} {x4} (h : Keeps a s) :
    Keeps a (State.mgmtReply s x1 x2 x3 x4) := by
  unfold State.mgmtReply
  try dsimp only
  repeat' (first | with_reducible assumption | with_reducible apply State.portQueue_keeps | simp only [Keeps.record]
                  | with_reducible refine Keeps.of_snd ‹_ = (_, _)› ?_
                  | with_reducible refine Keeps.of_fst ‹_ = (_, _)› ?_
                  | with_reducible refine Keeps.of_fst3 ‹_ = (_, _, _)› ?_ | with_reducible apply Keeps.ite
                  | split | dsimp only)

theorem State.renewNonce_keeps {a s : State} (h : Keeps a s) :
    Keeps a (State.renewNonce s) := by
  unfold State.renewNonce
  try dsimp only
  repeat' (first | with_reducible assumption | with_reducible apply State.draw_keeps | simp only [Keeps.record]
                  | with_reducible refine Keeps.of_snd ‹_ = (_, _)› ?_
                  | with_reducible refine Keeps.of_fst ‹_ = (_, _)› ?_
                  | with_reducible refine Keeps.of_fst3 ‹_ = (_, _, _)› ?_ | with_reducible apply Keeps.ite
                  | split | dsimp only)

theorem mgmtReleaseEff_keeps {a s : State} {x0} {x1} (h : Keeps a s) :
    Keeps a (mgmtReleaseEff x0 x1 s) := by
  unfold mgmtReleaseEff
  try dsimp only
  repeat' (first | with_reducible assumption | with_reducible refine State.mgmtTake_keeps (fun _ _ _ => ?_) ?_
                  | with_reducible apply State.mgmtReply_keeps | with_reducible apply State.helloAll_keeps
                  | with_reducible apply State.renewNonce_keeps | simp only [Keeps.record]
                  | with_reducible refine Keeps.of_snd ‹_ = (_, _)› ?_
                  | with_reducible refine Keeps.of_fst ‹_ = (_, _)› ?_
                  | with_reducible refine Keeps.of_fst3 ‹_ = (_, _, _)› ?_ | with_reducible apply Keeps.ite
                  | split | dsimp only)

theorem mgmtReceiveEff_keeps {a s : State} {x0} {x1} {x2} {x3} {x4} (h : Keeps a s) :
    Keeps a (mgmtReceiveEff x0 x1 x2 x3 x4 s) := by
  unfold mgmtReceiveEff
  try dsimp only
  repeat' (first | with_reducible assumption | with_reducible apply State.mgmtReply_keeps
                  | with_reducible apply State.portQueue_keeps | simp only [Keeps.record]
                  | with_reducible refine Keeps.of_snd ‹_ = (_, _)› ?_
                  | with_reducible refine Keeps.of_fst ‹_ = (_, _)› ?_
                  | with_reducible refine Keeps.of_fst3 ‹_ = (_, _, _)› ?_ | with_reducible apply Keeps.ite
                  | split | dsimp only)

theorem getEff_keeps {a s : State} {x0} {x1} (h : Keeps a s) :
    Keeps a (getEff x0 x1 s) := by
  unfold getEff
  try dsimp only
  repeat' (first | with_reducible assumption | with_reducible apply State.startData_keeps | simp only [Keeps.record]
                  | with_reducible refine Keeps.of_snd ‹_ = (_, _)› ?_
                  | with_reducible refine Keeps.of_fst ‹_ = (_, _)› ?_
                  | with_reducible refine Keeps.of_fst3 ‹_ = (_, _, _)› ?_ | with_reducible apply Keeps.ite
                  | split | dsimp only)

theorem putEff_keeps {a s : State} {x0} {x1} (h : Keeps a s) :
    Keeps a (putEff x0 x1 s) := by
  unfold putEff
  try dsimp only
  repeat' (first | with_reducible assumption | with_reducible apply State.startData_keeps | simp only [Keeps.record]
                  | with_reducible refine Keeps.of_snd ‹_ = (_, _)› ?_
                  | with_reducible refine Keeps.of_fst ‹_ = (_, _)› ?_
                  | with_reducible refine Keeps.of_fst3 ‹_ = (_, _, _)› ?_ | with_reducible apply Keeps.ite
                  | split | dsimp only)

theorem atomicEff_keeps {a s : State} {x0} {x1} (h : Keeps a s) :
    Keeps a (atomicEff x0 x1 s) := by
  unfold atomicEff
  try dsimp only
  repeat' (first | with_reducible assumption | with_reducible apply State.startData_keeps | simp only [Keeps.record]
                  | with_reducible refine Keeps.of_snd ‹_ = (_, _)› ?_
                  | with_reducible refine Keeps.of_fst ‹_ = (_, _)› ?_
                  | with_reducible refine Keeps.of_fst3 ‹_ = (_, _, _)› ?_ | with_reducible apply Keeps.ite
                  | split | dsimp only)

theorem queryEff_keeps {a s : State} {x0} {x1} (h : Keeps a s) :
    Keeps a (queryEff x0 x1 s) := by
  unfold queryEff
  try dsimp only
  repeat' (first | with_reducible assumption | with_reducible refine State.mgmtTake_keeps (fun _ _ _ => ?_) ?_
                  | with_reducible apply State.mgmtReply_keeps | with_reducible apply State.quoteOver_keeps
                  | simp only [Keeps.record] | with_reducible refine Keeps.of_snd ‹_ = (_, _)› ?_
                  | with_reducible refine Keeps.of_fst ‹_ = (_, _)› ?_
                  | with_reducible refine Keeps.of_fst3 ‹_ = (_, _, _)› ?_ | with_reducible apply Keeps.ite
                  | split | dsimp only)

theorem State.setNode_keeps {a s : State} {x1} (h : Keeps a s) :
    Keeps a (State.setNode s x1) := by
  unfold State.setNode
  try dsimp only
  repeat' (first | with_reducible assumption | with_reducible apply State.helloAll_keeps
                  | with_reducible apply State.setF_keeps | simp only [Keeps.record]
                  | with_reducible refine Keeps.of_snd ‹_ = (_, _)› ?_
                  | with_reducible refine Keeps.of_fst ‹_ = (_, _)› ?_
                  | with_reducible refine Keeps.of_fst3 ‹_ = (_, _, _)› ?_ | with_reducible apply Keeps.ite
                  | split | dsimp only)

theorem assignIdEff_keeps {a s : State} {x0} {x1} (h : Keeps a s) :
    Keeps a (assignIdEff x0 x1 s) := by
  unfold assignIdEff
  try dsimp only
  repeat' (first | with_reducible assumption | with_reducible refine State.mgmtTake_keeps (fun _ _ _ => ?_) ?_
                  | with_reducible apply State.mgmtReply_keeps | with_reducible apply State.renewNonce_keeps
                  | with_reducible apply State.setNode_keeps | simp only [Keeps.record]
                  | with_reducible refine Keeps.of_snd ‹_ = (_, _)› ?_
                  | with_reducible refine Keeps.of_fst ‹_ = (_, _)› ?_
                  | with_reducible refine Keeps.of_fst3 ‹_ = (_, _, _)› ?_ | with_reducible apply Keeps.ite
                  | split | dsimp only)

theorem setnewdaEff_keeps {a s : State} {x0} (h : Keeps a s) :
    Keeps a (setnewdaEff x0 s) := by
  unfold setnewdaEff
  try dsimp only
  repeat' (first | with_reducible assumption | simp only [Keeps.record]
                  | with_reducible refine Keeps.of_snd ‹_ = (_, _)› ?_
                  | with_reducible refine Keeps.of_fst ‹_ = (_, _)› ?_
                  | with_reducible refine Keeps.of_fst3 ‹_ = (_, _, _)› ?_ | with_reducible apply Keeps.ite
                  | split | dsimp only)

theorem State.arriveOp_keeps {a s : State} {x1} {x2} (h : Keeps a s) :
    Keeps a (State.arriveOp s x1 x2) := by
  unfold State.arriveOp
  try dsimp only
  repeat' (first | with_reducible assumption | with_reducible apply State.hrnPump_keeps
                  | with_reducible apply State.receive_keeps | simp only [Keeps.record]
                  | with_reducible refine Keeps.of_snd ‹_ = (_, _)› ?_
                  | with_reducible refine Keeps.of_fst ‹_ = (_, _)› ?_
                  | with_reducible refine Keeps.of_fst3 ‹_ = (_, _, _)› ?_ | with_reducible apply Keeps.ite
                  | split | dsimp only)

theorem getbcrEff_keeps {a s : State} (h : Keeps a s) :
    Keeps a (getbcrEff s) := by
  unfold getbcrEff
  try dsimp only
  repeat' (first | with_reducible assumption | with_reducible apply State.fresh_keeps
                  | with_reducible apply State.i3cSay_keeps | simp only [Keeps.record]
                  | with_reducible refine Keeps.of_snd ‹_ = (_, _)› ?_
                  | with_reducible refine Keeps.of_fst ‹_ = (_, _)› ?_
                  | with_reducible refine Keeps.of_fst3 ‹_ = (_, _, _)› ?_ | with_reducible apply Keeps.ite
                  | split | dsimp only)

theorem idChangeEff_keeps {a s : State} (h : Keeps a s) :
    Keeps a (idChangeEff s) := by
  unfold idChangeEff
  try dsimp only
  repeat' (first | with_reducible assumption | with_reducible apply State.mgmtReply_keeps
                  | with_reducible apply State.setNode_keeps | simp only [Keeps.record]
                  | with_reducible refine Keeps.of_snd ‹_ = (_, _)› ?_
                  | with_reducible refine Keeps.of_fst ‹_ = (_, _)› ?_
                  | with_reducible refine Keeps.of_fst3 ‹_ = (_, _, _)› ?_ | with_reducible apply Keeps.ite
                  | split | dsimp only)

theorem transitForwardEff_keeps {a s : State} {x0} {x1} {x2} (h : Keeps a s) :
    Keeps a (transitForwardEff x0 x1 x2 s) := by
  unfold transitForwardEff
  try dsimp only
  repeat' (first | with_reducible assumption | with_reducible apply State.uev_keeps
                  | with_reducible apply State.portDrop_keeps | with_reducible apply State.portOut_keeps
                  | simp only [Keeps.record] | with_reducible refine Keeps.of_snd ‹_ = (_, _)› ?_
                  | with_reducible refine Keeps.of_fst ‹_ = (_, _)› ?_
                  | with_reducible refine Keeps.of_fst3 ‹_ = (_, _, _)› ?_ | with_reducible apply Keeps.ite
                  | split | dsimp only)

theorem getpidEff_keeps {a s : State} (h : Keeps a s) :
    Keeps a (getpidEff s) := by
  unfold getpidEff
  try dsimp only
  repeat' (first | with_reducible assumption | with_reducible apply State.i3cSay_keeps | simp only [Keeps.record]
                  | with_reducible refine Keeps.of_snd ‹_ = (_, _)› ?_
                  | with_reducible refine Keeps.of_fst ‹_ = (_, _)› ?_
                  | with_reducible refine Keeps.of_fst3 ‹_ = (_, _, _)› ?_ | with_reducible apply Keeps.ite
                  | split | dsimp only)

theorem privateReadEff_keeps {a s : State} (h : Keeps a s) :
    Keeps a (privateReadEff s) := by
  unfold privateReadEff
  try dsimp only
  repeat' (first | with_reducible assumption | with_reducible apply State.i3cSay_keeps | simp only [Keeps.record]
                  | with_reducible refine Keeps.of_snd ‹_ = (_, _)› ?_
                  | with_reducible refine Keeps.of_fst ‹_ = (_, _)› ?_
                  | with_reducible refine Keeps.of_fst3 ‹_ = (_, _, _)› ?_ | with_reducible apply Keeps.ite
                  | split | dsimp only)

theorem helloEff_keeps {a s : State} {x0} {x1} (h : Keeps a s) :
    Keeps a (helloEff x0 x1 s) := by
  unfold helloEff
  try dsimp only
  repeat' (first | with_reducible assumption | with_reducible apply State.setF_keeps
                  | with_reducible apply State.wr_keeps | with_reducible apply State.updHport_keeps
                  | with_reducible apply State.hrnEvent_keeps | with_reducible apply State.portErr_keeps
                  | with_reducible apply State.setPort_keeps | with_reducible apply State.hrnPump_keeps
                  | with_reducible apply State.portPump_keeps | simp only [Keeps.record]
                  | with_reducible refine Keeps.of_snd ‹_ = (_, _)› ?_
                  | with_reducible refine Keeps.of_fst ‹_ = (_, _)› ?_
                  | with_reducible refine Keeps.of_fst3 ‹_ = (_, _, _)› ?_ | with_reducible apply Keeps.ite
                  | split | dsimp only)

theorem getstatusEff_keeps {a s : State} (h : Keeps a s) :
    Keeps a (getstatusEff s) := by
  unfold getstatusEff
  try dsimp only
  repeat' (first | with_reducible assumption | with_reducible apply State.fresh_keeps
                  | with_reducible apply State.i3cSay_keeps | simp only [Keeps.record]
                  | with_reducible refine Keeps.of_snd ‹_ = (_, _)› ?_
                  | with_reducible refine Keeps.of_fst ‹_ = (_, _)› ?_
                  | with_reducible refine Keeps.of_fst3 ‹_ = (_, _, _)› ?_ | with_reducible apply Keeps.ite
                  | split | dsimp only)

theorem State.cqRestart_keeps {a s : State} {x1} {x2} (h : Keeps a s) :
    Keeps a (State.cqRestart s x1 x2) := by
  unfold State.cqRestart
  try dsimp only
  repeat' (first | with_reducible assumption | with_reducible apply State.wr_keeps
                  | with_reducible apply State.setF_keeps | simp only [Keeps.record]
                  | with_reducible refine Keeps.of_snd ‹_ = (_, _)› ?_
                  | with_reducible refine Keeps.of_fst ‹_ = (_, _)› ?_
                  | with_reducible refine Keeps.of_fst3 ‹_ = (_, _, _)› ?_ | with_reducible apply Keeps.ite
                  | split | dsimp only)

theorem cqBaseWriteEff_keeps {a s : State} {x0} {x1} {x2} (h : Keeps a s) :
    Keeps a (cqBaseWriteEff x0 x1 x2 s) := by
  unfold cqBaseWriteEff
  try dsimp only
  repeat' (first | with_reducible assumption | with_reducible refine State.ctlGuard_keeps (fun _ _ => ?_) ?_
                  | with_reducible apply State.cqRestart_keeps | simp only [Keeps.record]
                  | with_reducible refine Keeps.of_snd ‹_ = (_, _)› ?_
                  | with_reducible refine Keeps.of_fst ‹_ = (_, _)› ?_
                  | with_reducible refine Keeps.of_fst3 ‹_ = (_, _, _)› ?_ | with_reducible apply Keeps.ite
                  | split | dsimp only)

theorem hrnFenceEff_keeps {a s : State} {x0} {x1} (h : Keeps a s) :
    Keeps a (hrnFenceEff x0 x1 s) := by
  unfold hrnFenceEff
  try dsimp only
  repeat' (first | with_reducible assumption | with_reducible apply State.takeDesc_keeps
                  | with_reducible apply State.endOp_keeps | simp only [Keeps.record]
                  | with_reducible refine Keeps.of_snd ‹_ = (_, _)› ?_
                  | with_reducible refine Keeps.of_fst ‹_ = (_, _)› ?_
                  | with_reducible refine Keeps.of_fst3 ‹_ = (_, _, _)› ?_ | with_reducible apply Keeps.ite
                  | split | dsimp only)

theorem budgetExpiryEff_keeps {a s : State} {x0} {x1} (h : Keeps a s) :
    Keeps a (budgetExpiryEff x0 x1 s) := by
  unfold budgetExpiryEff
  try dsimp only
  repeat' (first | with_reducible assumption | with_reducible apply State.incF_keeps
                  | with_reducible apply State.dropIn_keeps | with_reducible apply State.advance_keeps
                  | with_reducible apply State.portDrop_keeps | with_reducible apply State.updHport_keeps
                  | with_reducible refine Keeps.foldl (fun _ _ _ => ?_) ?_
                  | with_reducible refine Keeps.foldlFst (fun _ _ _ => ?_) ?_
                  | with_reducible refine Keeps.foldlSnd (fun _ _ _ => ?_) ?_ | simp only [Keeps.record]
                  | with_reducible refine Keeps.of_snd ‹_ = (_, _)› ?_
                  | with_reducible refine Keeps.of_fst ‹_ = (_, _)› ?_
                  | with_reducible refine Keeps.of_fst3 ‹_ = (_, _, _)› ?_ | with_reducible apply Keeps.ite
                  | split | dsimp only)

theorem cqTailEff_keeps {a s : State} {x0} {x1} {x2} (h : Keeps a s) :
    Keeps a (cqTailEff x0 x1 x2 s) := by
  unfold cqTailEff
  try dsimp only
  repeat' (first | with_reducible assumption | with_reducible refine State.ctlGuard_keeps (fun _ _ => ?_) ?_
                  | with_reducible apply State.cqRefresh_keeps | with_reducible apply State.setF_keeps
                  | simp only [Keeps.record] | with_reducible refine Keeps.of_snd ‹_ = (_, _)› ?_
                  | with_reducible refine Keeps.of_fst ‹_ = (_, _)› ?_
                  | with_reducible refine Keeps.of_fst3 ‹_ = (_, _, _)› ?_ | with_reducible apply Keeps.ite
                  | split | dsimp only)

theorem descriptorFetchEff_keeps {a s : State} {x0} (h : Keeps a s) :
    Keeps a (descriptorFetchEff x0 s) := by
  unfold descriptorFetchEff
  try dsimp only
  repeat' (first | with_reducible assumption | with_reducible apply State.setF_keeps
                  | with_reducible apply State.hrnRead_keeps | simp only [Keeps.record]
                  | with_reducible refine Keeps.of_snd ‹_ = (_, _)› ?_
                  | with_reducible refine Keeps.of_fst ‹_ = (_, _)› ?_
                  | with_reducible refine Keeps.of_fst3 ‹_ = (_, _, _)› ?_ | with_reducible apply Keeps.ite
                  | split | dsimp only)

theorem putReceiveEff_keeps {a s : State} {x0} (h : Keeps a s) :
    Keeps a (putReceiveEff x0 s) := by
  unfold putReceiveEff
  try dsimp only
  repeat' (first | with_reducible assumption | with_reducible apply State.arriveOp_keeps | simp only [Keeps.record]
                  | with_reducible refine Keeps.of_snd ‹_ = (_, _)› ?_
                  | with_reducible refine Keeps.of_fst ‹_ = (_, _)› ?_
                  | with_reducible refine Keeps.of_fst3 ‹_ = (_, _, _)› ?_ | with_reducible apply Keeps.ite
                  | split | dsimp only)

theorem remoteExpiryEff_keeps {a s : State} {x0} (h : Keeps a s) :
    Keeps a (remoteExpiryEff x0 s) := by
  unfold remoteExpiryEff
  try dsimp only
  repeat' (first | with_reducible assumption | with_reducible apply State.advance_keeps
                  | with_reducible apply State.err_keeps | with_reducible apply State.dropOp_keeps
                  | with_reducible apply State.unqueue_keeps | with_reducible apply State.hrnPump_keeps
                  | with_reducible apply State.endOp_keeps
                  | with_reducible refine Keeps.foldl (fun _ _ _ => ?_) ?_
                  | with_reducible refine Keeps.foldlFst (fun _ _ _ => ?_) ?_
                  | with_reducible refine Keeps.foldlSnd (fun _ _ _ => ?_) ?_ | simp only [Keeps.record]
                  | with_reducible refine Keeps.of_snd ‹_ = (_, _)› ?_
                  | with_reducible refine Keeps.of_fst ‹_ = (_, _)› ?_
                  | with_reducible refine Keeps.of_fst3 ‹_ = (_, _, _)› ?_ | with_reducible apply Keeps.ite
                  | split | dsimp only)

theorem mgmtEff_keeps {a s : State} {x0} {x1} (h : Keeps a s) :
    Keeps a (mgmtEff x0 x1 s) := by
  unfold mgmtEff
  try dsimp only
  repeat' (first | with_reducible assumption | with_reducible apply State.takeDesc_keeps
                  | with_reducible apply State.updOp_keeps | with_reducible apply State.endOp_keeps
                  | with_reducible apply State.err_keeps | with_reducible apply State.bufferFail_keeps
                  | with_reducible apply State.readLocal_keeps | simp only [Keeps.record]
                  | with_reducible refine Keeps.of_snd ‹_ = (_, _)› ?_
                  | with_reducible refine Keeps.of_fst ‹_ = (_, _)› ?_
                  | with_reducible refine Keeps.of_fst3 ‹_ = (_, _, _)› ?_ | with_reducible apply Keeps.ite
                  | split | dsimp only)

theorem entdaaEff_keeps {a s : State} {x0} (h : Keeps a s) :
    Keeps a (entdaaEff x0 s) := by
  unfold entdaaEff
  try dsimp only
  repeat' (first | with_reducible assumption | simp only [Keeps.record]
                  | with_reducible refine Keeps.of_snd ‹_ = (_, _)› ?_
                  | with_reducible refine Keeps.of_fst ‹_ = (_, _)› ?_
                  | with_reducible refine Keeps.of_fst3 ‹_ = (_, _, _)› ?_ | with_reducible apply Keeps.ite
                  | split | dsimp only)

theorem State.hrnAnswer_keeps {a s : State} {x1} {x2} {x3} {x4} (h : Keeps a s) :
    Keeps a (State.hrnAnswer s x1 x2 x3 x4) := by
  unfold State.hrnAnswer
  try dsimp only
  repeat' (first | with_reducible assumption | with_reducible apply State.cqFetched_keeps
                  | with_reducible apply State.hrnPump_keeps | with_reducible apply State.localRead_keeps
                  | with_reducible apply State.localWrote_keeps | with_reducible apply State.recordDone_keeps
                  | with_reducible apply State.inLine_keeps | with_reducible apply State.headerDone_keeps
                  | with_reducible apply State.inAtomic_keeps | simp only [Keeps.record]
                  | with_reducible refine Keeps.of_snd ‹_ = (_, _)› ?_
                  | with_reducible refine Keeps.of_fst ‹_ = (_, _)› ?_
                  | with_reducible refine Keeps.of_fst3 ‹_ = (_, _, _)› ?_ | with_reducible apply Keeps.ite
                  | split | dsimp only)

theorem getdcrEff_keeps {a s : State} (h : Keeps a s) :
    Keeps a (getdcrEff s) := by
  unfold getdcrEff
  try dsimp only
  repeat' (first | with_reducible assumption | with_reducible apply State.fresh_keeps
                  | with_reducible apply State.i3cSay_keeps | simp only [Keeps.record]
                  | with_reducible refine Keeps.of_snd ‹_ = (_, _)› ?_
                  | with_reducible refine Keeps.of_fst ‹_ = (_, _)› ?_
                  | with_reducible refine Keeps.of_fst3 ‹_ = (_, _, _)› ?_ | with_reducible apply Keeps.ite
                  | split | dsimp only)

theorem sendReceiveEff_keeps {a s : State} {x0} (h : Keeps a s) :
    Keeps a (sendReceiveEff x0 s) := by
  unfold sendReceiveEff
  try dsimp only
  repeat' (first | with_reducible assumption | with_reducible apply State.arriveOp_keeps | simp only [Keeps.record]
                  | with_reducible refine Keeps.of_snd ‹_ = (_, _)› ?_
                  | with_reducible refine Keeps.of_fst ‹_ = (_, _)› ?_
                  | with_reducible refine Keeps.of_fst3 ‹_ = (_, _, _)› ?_ | with_reducible apply Keeps.ite
                  | split | dsimp only)

theorem getReceiveEff_keeps {a s : State} {x0} (h : Keeps a s) :
    Keeps a (getReceiveEff x0 s) := by
  unfold getReceiveEff
  try dsimp only
  repeat' (first | with_reducible assumption | with_reducible apply State.arriveOp_keeps | simp only [Keeps.record]
                  | with_reducible refine Keeps.of_snd ‹_ = (_, _)› ?_
                  | with_reducible refine Keeps.of_fst ‹_ = (_, _)› ?_
                  | with_reducible refine Keeps.of_fst3 ‹_ = (_, _, _)› ?_ | with_reducible apply Keeps.ite
                  | split | dsimp only)

theorem nopEff_keeps {a s : State} {x0} {x1} (h : Keeps a s) :
    Keeps a (nopEff x0 x1 s) := by
  unfold nopEff
  try dsimp only
  repeat' (first | with_reducible assumption | with_reducible apply State.takeDesc_keeps
                  | with_reducible apply State.endOp_keeps | simp only [Keeps.record]
                  | with_reducible refine Keeps.of_snd ‹_ = (_, _)› ?_
                  | with_reducible refine Keeps.of_fst ‹_ = (_, _)› ?_
                  | with_reducible refine Keeps.of_fst3 ‹_ = (_, _, _)› ?_ | with_reducible apply Keeps.ite
                  | split | dsimp only)

theorem rqHeadWriteEff_keeps {a s : State} {x0} {x1} {x2} (h : Keeps a s) :
    Keeps a (rqHeadWriteEff x0 x1 x2 s) := by
  unfold rqHeadWriteEff
  try dsimp only
  repeat' (first | with_reducible assumption | with_reducible refine State.ctlGuard_keeps (fun _ _ => ?_) ?_
                  | with_reducible apply State.hrnPump_keeps | with_reducible apply State.setF_keeps
                  | simp only [Keeps.record] | with_reducible refine Keeps.of_snd ‹_ = (_, _)› ?_
                  | with_reducible refine Keeps.of_fst ‹_ = (_, _)› ?_
                  | with_reducible refine Keeps.of_fst3 ‹_ = (_, _, _)› ?_ | with_reducible apply Keeps.ite
                  | split | dsimp only)

theorem respEff_keeps {a s : State} {x0} {x1} {x2} {x3} (h : Keeps a s) :
    Keeps a (respEff x0 x1 x2 x3 s) := by
  unfold respEff
  try dsimp only
  repeat' (first | with_reducible assumption | with_reducible apply State.hrnPump_keeps
                  | with_reducible apply State.opResp_keeps | simp only [Keeps.record]
                  | with_reducible refine Keeps.of_snd ‹_ = (_, _)› ?_
                  | with_reducible refine Keeps.of_fst ‹_ = (_, _)› ?_
                  | with_reducible refine Keeps.of_fst3 ‹_ = (_, _, _)› ?_ | with_reducible apply Keeps.ite
                  | split | dsimp only)

theorem atomicReceiveEff_keeps {a s : State} {x0} (h : Keeps a s) :
    Keeps a (atomicReceiveEff x0 s) := by
  unfold atomicReceiveEff
  try dsimp only
  repeat' (first | with_reducible assumption | with_reducible apply State.arriveOp_keeps | simp only [Keeps.record]
                  | with_reducible refine Keeps.of_snd ‹_ = (_, _)› ?_
                  | with_reducible refine Keeps.of_fst ‹_ = (_, _)› ?_
                  | with_reducible refine Keeps.of_fst3 ‹_ = (_, _, _)› ?_ | with_reducible apply Keeps.ite
                  | split | dsimp only)

theorem rstdaaEff_keeps {a s : State} (h : Keeps a s) :
    Keeps a (rstdaaEff s) := by
  unfold rstdaaEff
  try dsimp only
  repeat' (first | with_reducible assumption | simp only [Keeps.record]
                  | with_reducible refine Keeps.of_snd ‹_ = (_, _)› ?_
                  | with_reducible refine Keeps.of_fst ‹_ = (_, _)› ?_
                  | with_reducible refine Keeps.of_fst3 ‹_ = (_, _, _)› ?_ | with_reducible apply Keeps.ite
                  | split | dsimp only)

theorem iocExpiryEff_keeps {a s : State} {x0} {x1} (h : Keeps a s) :
    Keeps a (iocExpiryEff x0 x1 s) := by
  unfold iocExpiryEff
  try dsimp only
  repeat' (first | with_reducible assumption | with_reducible apply State.iocLoad_keeps
                  | with_reducible apply State.iocStore_keeps | with_reducible apply State.iocDoor_keeps
                  | with_reducible apply State.payloadLate_keeps | simp only [Keeps.record]
                  | with_reducible refine Keeps.of_snd ‹_ = (_, _)› ?_
                  | with_reducible refine Keeps.of_fst ‹_ = (_, _)› ?_
                  | with_reducible refine Keeps.of_fst3 ‹_ = (_, _, _)› ?_ | with_reducible apply Keeps.ite
                  | split | dsimp only)

theorem State.fillFrom_keeps {a s : State} {x1} {x2} (h : Keeps a s) :
    Keeps a (State.fillFrom s x1 x2) := by
  unfold State.fillFrom
  try dsimp only
  repeat' (first | with_reducible assumption | with_reducible apply State.bump_keeps | simp only [Keeps.record]
                  | with_reducible refine Keeps.of_snd ‹_ = (_, _)› ?_
                  | with_reducible refine Keeps.of_fst ‹_ = (_, _)› ?_
                  | with_reducible refine Keeps.of_fst3 ‹_ = (_, _, _)› ?_ | with_reducible apply Keeps.ite
                  | split | dsimp only)

theorem State.deviceAnswer_keeps {a s : State} {x1} {x2} {x3} {x4} (h : Keeps a s) :
    Keeps a (State.deviceAnswer s x1 x2 x3 x4) := by
  unfold State.deviceAnswer
  try dsimp only
  repeat' (first | with_reducible assumption | with_reducible apply State.err_keeps
                  | with_reducible apply State.reply_keeps | with_reducible apply State.aerPost_keeps
                  | with_reducible apply State.inboundPump_keeps | simp only [Keeps.record]
                  | with_reducible refine Keeps.of_snd ‹_ = (_, _)› ?_
                  | with_reducible refine Keeps.of_fst ‹_ = (_, _)› ?_
                  | with_reducible refine Keeps.of_fst3 ‹_ = (_, _, _)› ?_ | with_reducible apply Keeps.ite
                  | split | dsimp only)

theorem State.sbAnswer_keeps {a s : State} {x1} {x2} {x3} {x4} (h : Keeps a s) :
    Keeps a (State.sbAnswer s x1 x2 x3 x4) := by
  unfold State.sbAnswer
  try dsimp only
  repeat' (first | with_reducible assumption | with_reducible apply State.err_keeps
                  | with_reducible apply State.reply_keeps | simp only [Keeps.record]
                  | with_reducible refine Keeps.of_snd ‹_ = (_, _)› ?_
                  | with_reducible refine Keeps.of_fst ‹_ = (_, _)› ?_
                  | with_reducible refine Keeps.of_fst3 ‹_ = (_, _, _)› ?_ | with_reducible apply Keeps.ite
                  | split | dsimp only)

theorem State.yokeDone_keeps {a s : State} {x1} {x2} {x3} {x4} (h : Keeps a s) :
    Keeps a (State.yokeDone s x1 x2 x3 x4) := by
  unfold State.yokeDone
  extract_lets t r
  have ht : Keeps a t := State.dropYoke_keeps h
  clear_value t r
  generalize x1.agent = g
  cases g with
  | bobbin n c =>
    exact Keeps.ite (State.chanRead_keeps ht) (Keeps.ite (State.chanWrote_keeps ht) (Keeps.ite (State.chanFetched_keeps ht)
      (Keeps.ite h (State.chanAtomFailed_keeps ht))))
  | device _ _ => exact State.deviceAnswer_keeps ht
  | harness _ => exact State.hrnAnswer_keeps ht
  | debug => exact State.sbAnswer_keeps ht
  | hart _ => exact Keeps.ite (State.doorWritten_keeps ht) (State.reply_keeps ht)
  | keeper => exact Keeps.ite (State.doorWritten_keeps ht) (State.reply_keeps ht)
  | loader => exact Keeps.ite (State.doorWritten_keeps ht) (State.reply_keeps ht)
  | thimble => exact Keeps.ite (State.doorWritten_keeps ht) (State.reply_keeps ht)
  | svcPort => exact Keeps.ite (State.doorWritten_keeps ht) (State.reply_keeps ht)
  | yoke => exact Keeps.ite (State.doorWritten_keeps ht) (State.reply_keeps ht)

theorem State.yokeIo_keeps {a s : State} {x1} {x2} {x3} {x4} {x5} (h : Keeps a s) :
    Keeps a (State.yokeIo s x1 x2 x3 x4 x5) := by
  unfold State.yokeIo
  try dsimp only
  repeat' (first | with_reducible assumption | with_reducible apply State.arrive_keeps
                  | with_reducible apply State.lateAnswer_keeps | with_reducible apply State.yokeDone_keeps
                  | simp only [Keeps.record] | with_reducible refine Keeps.of_snd ‹_ = (_, _)› ?_
                  | with_reducible refine Keeps.of_fst ‹_ = (_, _)› ?_
                  | with_reducible refine Keeps.of_fst3 ‹_ = (_, _, _)› ?_ | with_reducible apply Keeps.ite
                  | split | dsimp only)

theorem ioAckEff_keeps {a s : State} {x0} {x1} (h : Keeps a s) :
    Keeps a (ioAckEff x0 x1 s) := by
  unfold ioAckEff
  try dsimp only
  repeat' (first | with_reducible assumption | with_reducible apply State.ioAckAt_keeps
                  | with_reducible apply State.yokeIo_keeps | simp only [Keeps.record]
                  | with_reducible refine Keeps.of_snd ‹_ = (_, _)› ?_
                  | with_reducible refine Keeps.of_fst ‹_ = (_, _)› ?_
                  | with_reducible refine Keeps.of_fst3 ‹_ = (_, _, _)› ?_ | with_reducible apply Keeps.ite
                  | split | dsimp only)

theorem ioDataEff_keeps {a s : State} {x0} {x1} {x2} (h : Keeps a s) :
    Keeps a (ioDataEff x0 x1 x2 s) := by
  unfold ioDataEff
  try dsimp only
  repeat' (first | with_reducible assumption | with_reducible apply State.ioDataAt_keeps
                  | with_reducible apply State.yokeIo_keeps | simp only [Keeps.record]
                  | with_reducible refine Keeps.of_snd ‹_ = (_, _)› ?_
                  | with_reducible refine Keeps.of_fst ‹_ = (_, _)› ?_
                  | with_reducible refine Keeps.of_fst3 ‹_ = (_, _, _)› ?_ | with_reducible apply Keeps.ite
                  | split | dsimp only)

theorem State.yokeComp_keeps {a s : State} {x1} (h : Keeps a s) :
    Keeps a (State.yokeComp s x1) := by
  unfold State.yokeComp
  try dsimp only
  repeat' (first | with_reducible assumption | with_reducible apply State.send_keeps | simp only [Keeps.record]
                  | with_reducible refine Keeps.of_snd ‹_ = (_, _)› ?_
                  | with_reducible refine Keeps.of_fst ‹_ = (_, _)› ?_
                  | with_reducible refine Keeps.of_fst3 ‹_ = (_, _, _)› ?_ | with_reducible apply Keeps.ite
                  | split | dsimp only)

theorem dataEff_keeps {a s : State} {x0} {x1} {x2} {x3} {x4} {x5} {x6} {x7} (h : Keeps a s) :
    Keeps a (dataEff x0 x1 x2 x3 x4 x5 x6 x7 s) := by
  unfold dataEff
  try dsimp only
  repeat' (first | with_reducible assumption | with_reducible apply State.dataAtHart_keeps
                  | with_reducible apply State.fillFrom_keeps | with_reducible apply State.dataAtHome_keeps
                  | with_reducible apply State.arrive_keeps | with_reducible apply State.err_keeps
                  | with_reducible apply State.lateAnswer_keeps | with_reducible apply State.yokeDone_keeps
                  | with_reducible apply State.updYoke_keeps | with_reducible apply State.yokeComp_keeps
                  | simp only [Keeps.record] | with_reducible refine Keeps.of_snd ‹_ = (_, _)› ?_
                  | with_reducible refine Keeps.of_fst ‹_ = (_, _)› ?_
                  | with_reducible refine Keeps.of_fst3 ‹_ = (_, _, _)› ?_ | with_reducible apply Keeps.ite
                  | split | dsimp only)

theorem State.grantAtAwl_keeps {a s : State} {x1} {x2} {x3} {x4} (h : Keeps a s) :
    Keeps a (State.grantAtAwl s x1 x2 x3 x4) := by
  unfold State.grantAtAwl
  try dsimp only
  repeat' (first | with_reducible assumption | with_reducible apply State.setF_keeps
                  | with_reducible apply State.send_keeps | simp only [Keeps.record]
                  | with_reducible refine Keeps.of_snd ‹_ = (_, _)› ?_
                  | with_reducible refine Keeps.of_fst ‹_ = (_, _)› ?_
                  | with_reducible refine Keeps.of_fst3 ‹_ = (_, _, _)› ?_ | with_reducible apply Keeps.ite
                  | split | dsimp only)

theorem grantEff_keeps {a s : State} {x0} {x1} {x2} {x3} {x4} (h : Keeps a s) :
    Keeps a (grantEff x0 x1 x2 x3 x4 s) := by
  unfold grantEff
  try dsimp only
  repeat' (first | with_reducible assumption | with_reducible apply State.grantAtHart_keeps
                  | with_reducible apply State.arrive_keeps | with_reducible apply State.grantAtAwl_keeps
                  | with_reducible apply State.lateAnswer_keeps | with_reducible apply State.yokeDone_keeps
                  | with_reducible apply State.yokeComp_keeps | with_reducible apply State.updYoke_keeps
                  | simp only [Keeps.record] | with_reducible refine Keeps.of_snd ‹_ = (_, _)› ?_
                  | with_reducible refine Keeps.of_fst ‹_ = (_, _)› ?_
                  | with_reducible refine Keeps.of_fst3 ‹_ = (_, _, _)› ?_ | with_reducible apply Keeps.ite
                  | split | dsimp only)

theorem State.writeField_keeps {a s : State} {x1} {x2} {x3} {x4} (h : Keeps a s) :
    Keeps a (State.writeField s x1 x2 x3 x4) := by
  unfold State.writeField
  try dsimp only
  repeat' (first | with_reducible assumption | with_reducible apply State.setF_keeps | simp only [Keeps.record]
                  | with_reducible refine Keeps.of_snd ‹_ = (_, _)› ?_
                  | with_reducible refine Keeps.of_fst ‹_ = (_, _)› ?_
                  | with_reducible refine Keeps.of_fst3 ‹_ = (_, _, _)› ?_ | with_reducible apply Keeps.ite
                  | split | dsimp only)

theorem State.writeFields_keeps {a s : State} {x1} {x2} {x3} {x4} (h : Keeps a s) :
    Keeps a (State.writeFields s x1 x2 x3 x4) := by
  unfold State.writeFields
  try dsimp only
  repeat' (first | with_reducible assumption | with_reducible apply State.writeField_keeps
                  | with_reducible refine Keeps.foldl (fun _ _ _ => ?_) ?_
                  | with_reducible refine Keeps.foldlFst (fun _ _ _ => ?_) ?_
                  | with_reducible refine Keeps.foldlSnd (fun _ _ _ => ?_) ?_ | simp only [Keeps.record]
                  | with_reducible refine Keeps.of_snd ‹_ = (_, _)› ?_
                  | with_reducible refine Keeps.of_fst ‹_ = (_, _)› ?_
                  | with_reducible refine Keeps.of_fst3 ‹_ = (_, _, _)› ?_ | with_reducible apply Keeps.ite
                  | split | dsimp only)

theorem State.plain_keeps {a s : State} {x1} (h : Keeps a s) :
    Keeps a (State.plain s x1) := by
  unfold State.plain
  try dsimp only
  repeat' (first | with_reducible assumption | with_reducible apply State.writeFields_keeps | simp only [Keeps.record]
                  | with_reducible refine Keeps.of_snd ‹_ = (_, _)› ?_
                  | with_reducible refine Keeps.of_fst ‹_ = (_, _)› ?_
                  | with_reducible refine Keeps.of_fst3 ‹_ = (_, _, _)› ?_ | with_reducible apply Keeps.ite
                  | split | dsimp only)

theorem State.wrBank_keeps {a s : State} {x1} (h : Keeps a s) :
    KeepsO a (Option.map Prod.fst (State.wrBank s x1)) := by
  unfold State.wrBank
  try dsimp only
  repeat' (first | with_reducible assumption | with_reducible apply State.refreshBank_keeps
                  | with_reducible apply State.plain_keeps | with_reducible apply State.setSource_keeps
                  | simp only [Keeps.record] | with_reducible exact KeepsO.none
                  | with_reducible apply KeepsO.some | with_reducible exact KeepsO.fstNone
                  | with_reducible exact KeepsO.sndNone | with_reducible apply KeepsO.fst
                  | with_reducible apply KeepsO.snd | with_reducible refine KeepsO.map (fun _ _ => ?_) ?_
                  | with_reducible apply KeepsO.getD | with_reducible apply KeepsO.sndPut
                  | with_reducible refine Keeps.of_some ‹_ = some _› ?_
                  | with_reducible refine Keeps.of_someFst ‹_ = some (_, _)› ?_
                  | with_reducible refine Keeps.of_someSnd ‹_ = some (_, _)› ?_
                  | with_reducible refine Keeps.of_someP1 ‹_ = some _› ?_
                  | with_reducible refine Keeps.of_snd ‹_ = (_, _)› ?_
                  | with_reducible refine Keeps.of_fst ‹_ = (_, _)› ?_
                  | with_reducible refine Keeps.of_fst3 ‹_ = (_, _, _)› ?_ | with_reducible apply Keeps.ite
                  | split | dsimp only)

theorem State.wrSaddle_keeps {a s : State} {x1} (h : Keeps a s) :
    KeepsO a (Option.map Prod.fst (State.wrSaddle s x1)) := by
  unfold State.wrSaddle
  try dsimp only
  repeat' (first | with_reducible assumption | with_reducible apply paceClrEff_keeps
                  | with_reducible apply State.abortRange_keeps | with_reducible apply State.startRange_keeps
                  | with_reducible apply State.plain_keeps | with_reducible apply State.setSource_keeps
                  | with_reducible apply State.setF_keeps | with_reducible apply State.slcOp_keeps
                  | with_reducible apply State.lockFillGo_keeps | simp only [Keeps.record]
                  | with_reducible exact KeepsO.none | with_reducible apply KeepsO.some
                  | with_reducible exact KeepsO.fstNone | with_reducible exact KeepsO.sndNone
                  | with_reducible apply KeepsO.fst | with_reducible apply KeepsO.snd
                  | with_reducible refine KeepsO.map (fun _ _ => ?_) ?_ | with_reducible apply KeepsO.getD
                  | with_reducible apply KeepsO.sndPut | with_reducible refine Keeps.of_some ‹_ = some _› ?_
                  | with_reducible refine Keeps.of_someFst ‹_ = some (_, _)› ?_
                  | with_reducible refine Keeps.of_someSnd ‹_ = some (_, _)› ?_
                  | with_reducible refine Keeps.of_someP1 ‹_ = some _› ?_
                  | with_reducible refine Keeps.of_snd ‹_ = (_, _)› ?_
                  | with_reducible refine Keeps.of_fst ‹_ = (_, _)› ?_
                  | with_reducible refine Keeps.of_fst3 ‹_ = (_, _, _)› ?_ | with_reducible apply Keeps.ite
                  | split | dsimp only)

theorem State.wrUnits_keeps {a s : State} {x1} (h : Keeps a s) :
    KeepsO a (Option.map Prod.fst (State.wrUnits s x1)) := by
  unfold State.wrUnits
  try dsimp only
  repeat' (first | with_reducible assumption | with_reducible apply State.fenceCommand_keeps
                  | with_reducible apply State.plain_keeps | with_reducible apply State.gusReopen_keeps
                  | with_reducible apply State.abortScrub_keeps | with_reducible apply State.startScrub_keeps
                  | simp only [Keeps.record] | with_reducible exact KeepsO.none
                  | with_reducible apply KeepsO.some | with_reducible exact KeepsO.fstNone
                  | with_reducible exact KeepsO.sndNone | with_reducible apply KeepsO.fst
                  | with_reducible apply KeepsO.snd | with_reducible refine KeepsO.map (fun _ _ => ?_) ?_
                  | with_reducible apply KeepsO.getD | with_reducible apply KeepsO.sndPut
                  | with_reducible refine Keeps.of_some ‹_ = some _› ?_
                  | with_reducible refine Keeps.of_someFst ‹_ = some (_, _)› ?_
                  | with_reducible refine Keeps.of_someSnd ‹_ = some (_, _)› ?_
                  | with_reducible refine Keeps.of_someP1 ‹_ = some _› ?_
                  | with_reducible refine Keeps.of_snd ‹_ = (_, _)› ?_
                  | with_reducible refine Keeps.of_fst ‹_ = (_, _)› ?_
                  | with_reducible refine Keeps.of_fst3 ‹_ = (_, _, _)› ?_ | with_reducible apply Keeps.ite
                  | split | dsimp only)

theorem State.wrHarness_keeps {a s : State} {x1} (h : Keeps a s) :
    KeepsO a (Option.map Prod.fst (State.wrHarness s x1)) := by
  unfold State.wrHarness
  try dsimp only
  repeat' (first | with_reducible assumption | with_reducible apply State.plain_keeps
                  | with_reducible apply State.setSource_keeps | with_reducible apply State.cqRestart_keeps
                  | with_reducible apply State.cqRefresh_keeps | with_reducible apply State.setF_keeps
                  | with_reducible apply State.hrnPump_keeps | simp only [Keeps.record]
                  | with_reducible exact KeepsO.none | with_reducible apply KeepsO.some
                  | with_reducible exact KeepsO.fstNone | with_reducible exact KeepsO.sndNone
                  | with_reducible apply KeepsO.fst | with_reducible apply KeepsO.snd
                  | with_reducible refine KeepsO.map (fun _ _ => ?_) ?_ | with_reducible apply KeepsO.getD
                  | with_reducible apply KeepsO.sndPut | with_reducible refine Keeps.of_some ‹_ = some _› ?_
                  | with_reducible refine Keeps.of_someFst ‹_ = some (_, _)› ?_
                  | with_reducible refine Keeps.of_someSnd ‹_ = some (_, _)› ?_
                  | with_reducible refine Keeps.of_someP1 ‹_ = some _› ?_
                  | with_reducible refine Keeps.of_snd ‹_ = (_, _)› ?_
                  | with_reducible refine Keeps.of_fst ‹_ = (_, _)› ?_
                  | with_reducible refine Keeps.of_fst3 ‹_ = (_, _, _)› ?_ | with_reducible apply Keeps.ite
                  | split | dsimp only)

theorem State.wrBobThm_keeps {a s : State} {x1} (h : Keeps a s) :
    KeepsO a (Option.map Prod.fst (State.wrBobThm s x1)) := by
  unfold State.wrBobThm
  try dsimp only
  repeat' (first | with_reducible assumption | with_reducible apply State.setF_keeps
                  | with_reducible apply State.chanAbort_keeps | with_reducible apply State.chanGo_keeps
                  | with_reducible apply State.plain_keeps | with_reducible apply State.setSource_keeps
                  | with_reducible apply State.clearVreg_keeps | simp only [Keeps.record]
                  | with_reducible exact KeepsO.none | with_reducible apply KeepsO.some
                  | with_reducible exact KeepsO.fstNone | with_reducible exact KeepsO.sndNone
                  | with_reducible apply KeepsO.fst | with_reducible apply KeepsO.snd
                  | with_reducible refine KeepsO.map (fun _ _ => ?_) ?_ | with_reducible apply KeepsO.getD
                  | with_reducible apply KeepsO.sndPut | with_reducible refine Keeps.of_some ‹_ = some _› ?_
                  | with_reducible refine Keeps.of_someFst ‹_ = some (_, _)› ?_
                  | with_reducible refine Keeps.of_someSnd ‹_ = some (_, _)› ?_
                  | with_reducible refine Keeps.of_someP1 ‹_ = some _› ?_
                  | with_reducible refine Keeps.of_snd ‹_ = (_, _)› ?_
                  | with_reducible refine Keeps.of_fst ‹_ = (_, _)› ?_
                  | with_reducible refine Keeps.of_fst3 ‹_ = (_, _, _)› ?_ | with_reducible apply Keeps.ite
                  | split | dsimp only)

theorem State.wrKeeper_keeps {a s : State} {x1} (h : Keeps a s) :
    KeepsO a (Option.map Prod.fst (State.wrKeeper s x1)) := by
  unfold State.wrKeeper
  try dsimp only
  repeat' (first | with_reducible assumption | with_reducible apply State.toService_keeps
                  | with_reducible apply State.plain_keeps | with_reducible apply State.resumeLowered_keeps
                  | with_reducible apply State.setF_keeps | with_reducible apply State.wr_keeps
                  | with_reducible apply State.doorPump_keeps | simp only [Keeps.record]
                  | with_reducible exact KeepsO.none | with_reducible apply KeepsO.some
                  | with_reducible exact KeepsO.fstNone | with_reducible exact KeepsO.sndNone
                  | with_reducible apply KeepsO.fst | with_reducible apply KeepsO.snd
                  | with_reducible refine KeepsO.map (fun _ _ => ?_) ?_ | with_reducible apply KeepsO.getD
                  | with_reducible apply KeepsO.sndPut | with_reducible refine Keeps.of_some ‹_ = some _› ?_
                  | with_reducible refine Keeps.of_someFst ‹_ = some (_, _)› ?_
                  | with_reducible refine Keeps.of_someSnd ‹_ = some (_, _)› ?_
                  | with_reducible refine Keeps.of_someP1 ‹_ = some _› ?_
                  | with_reducible refine Keeps.of_snd ‹_ = (_, _)› ?_
                  | with_reducible refine Keeps.of_fst ‹_ = (_, _)› ?_
                  | with_reducible refine Keeps.of_fst3 ‹_ = (_, _, _)› ?_ | with_reducible apply Keeps.ite
                  | split | dsimp only)

theorem State.wrOther_keeps {a s : State} {x1} (h : Keeps a s) :
    Keeps a (State.wrOther s x1).1 := by
  unfold State.wrOther
  try dsimp only
  repeat' (first | with_reducible assumption | with_reducible apply State.snapStart_keeps
                  | with_reducible apply State.broadcastDeadlines_keeps
                  | with_reducible apply State.setDeadline_keeps | with_reducible apply paceClrEff_keeps
                  | with_reducible apply State.plain_keeps | with_reducible apply State.setCsr_keeps
                  | with_reducible apply State.setF_keeps | simp only [Keeps.record]
                  | with_reducible refine Keeps.of_snd ‹_ = (_, _)› ?_
                  | with_reducible refine Keeps.of_fst ‹_ = (_, _)› ?_
                  | with_reducible refine Keeps.of_fst3 ‹_ = (_, _, _)› ?_ | with_reducible apply Keeps.ite
                  | split | dsimp only)

theorem State.regWrite_keeps {a s : State} {x1} (h : Keeps a s) : Keeps a (State.regWrite s x1).1 := by
  have one : ∀ {o : Option (State × Option Resp)} {d : State × Option Resp},
      KeepsO a (o.map Prod.fst) → Keeps a d.1 → Keeps a (o.getD d).1 := by
    intro o d ho hd
    cases o with
    | none => exact hd
    | some p => exact ho p.1 rfl
  have two : ∀ {o o' : Option (State × Option Resp)},
      KeepsO a (o.map Prod.fst) → KeepsO a (o'.map Prod.fst) → KeepsO a ((o.orElse fun _ => o').map Prod.fst) := by
    intro o o' ho ho'
    cases o with
    | none => exact ho'
    | some p => exact ho
  exact one (two (State.wrBank_keeps h) (two (State.wrSaddle_keeps h) (two (State.wrUnits_keeps h)
    (two (State.wrHarness_keeps h) (two (State.wrBobThm_keeps h) (State.wrKeeper_keeps h)))))) (State.wrOther_keeps h)

theorem State.ctlStore_keeps {a s : State} {x1} {x2} {x3} {x4} {x5} (h : Keeps a s) :
    Keeps a (State.ctlStore s x1 x2 x3 x4 x5).1 := by
  unfold State.ctlStore
  try dsimp only
  repeat' (first | with_reducible assumption | with_reducible apply State.pageWrite_keeps
                  | with_reducible apply State.kwViolation_keeps | with_reducible apply State.regWrite_keeps
                  | simp only [Keeps.record] | with_reducible exact KeepsO.none
                  | with_reducible apply KeepsO.some | with_reducible exact KeepsO.fstNone
                  | with_reducible exact KeepsO.sndNone | with_reducible apply KeepsO.fst
                  | with_reducible apply KeepsO.snd | with_reducible refine KeepsO.map (fun _ _ => ?_) ?_
                  | with_reducible apply KeepsO.getD | with_reducible apply KeepsO.sndPut
                  | with_reducible refine Keeps.of_some ‹_ = some _› ?_
                  | with_reducible refine Keeps.of_someFst ‹_ = some (_, _)› ?_
                  | with_reducible refine Keeps.of_someSnd ‹_ = some (_, _)› ?_
                  | with_reducible refine Keeps.of_someP1 ‹_ = some _› ?_
                  | with_reducible refine Keeps.of_snd ‹_ = (_, _)› ?_
                  | with_reducible refine Keeps.of_fst ‹_ = (_, _)› ?_
                  | with_reducible refine Keeps.of_fst3 ‹_ = (_, _, _)› ?_ | with_reducible apply Keeps.ite
                  | split | dsimp only)

theorem State.windowGo_keeps {a s : State} {x1} {x2} {x3} (h : Keeps a s) :
    Keeps a (State.windowGo s x1 x2 x3) := by
  unfold State.windowGo
  try dsimp only
  repeat' (first | with_reducible assumption | with_reducible apply State.winStart_keeps
                  | with_reducible apply State.arrive_keeps | with_reducible apply State.ioReply_keeps
                  | with_reducible apply State.ioArrive_keeps | simp only [Keeps.record]
                  | with_reducible refine Keeps.of_snd ‹_ = (_, _)› ?_
                  | with_reducible refine Keeps.of_fst ‹_ = (_, _)› ?_
                  | with_reducible refine Keeps.of_fst3 ‹_ = (_, _, _)› ?_ | with_reducible apply Keeps.ite
                  | split | dsimp only)

theorem State.boltIo_keeps {a s : State} {x1} {x2} {x3} {x4} {x5} {x6} (h : Keeps a s) :
    Keeps a (State.boltIo s x1 x2 x3 x4 x5 x6) := by
  unfold State.boltIo
  try dsimp only
  repeat' (first | with_reducible assumption | with_reducible apply State.requestIn_keeps | simp only [Keeps.record]
                  | with_reducible refine Keeps.of_snd ‹_ = (_, _)› ?_
                  | with_reducible refine Keeps.of_fst ‹_ = (_, _)› ?_
                  | with_reducible refine Keeps.of_fst3 ‹_ = (_, _, _)› ?_ | with_reducible apply Keeps.ite
                  | split | dsimp only)

theorem State.readAt_keeps {a s : State} {x1} {x2} {x3} {x4} {x5} (h : Keeps a s) :
    Keeps a (State.readAt s x1 x2 x3 x4 x5) := by
  cases x1 with
  | mmio _ => exact State.mmioRd_keeps h
  | ctl => exact State.ioReply_keeps (State.ctlRead_keeps h)
  | bolt => exact State.boltIo_keeps h
  | window => exact State.ioReply_keeps h
  | hole => exact State.ioReply_keeps h

theorem ioRdEff_keeps {a s : State} {x0} {x1} {x2} (h : Keeps a s) : Keeps a (ioRdEff x0 x1 x2 s) := by
  unfold ioRdEff
  generalize regionOf x1.toNat = g
  exact Keeps.ite (State.windowGo_keeps h) (State.readAt_keeps (State.ioArrive_keeps h))

theorem State.ctlStoreChecked_keeps {a s : State} {x1} {x2} {x3} {x4} {x5} (h : Keeps a s) :
    Keeps a (State.ctlStoreChecked s x1 x2 x3 x4 x5).1 := by
  unfold State.ctlStoreChecked
  try dsimp only
  repeat' (first | with_reducible assumption | with_reducible apply State.ctlStore_keeps
                  | with_reducible apply State.ctlViolation_keeps | simp only [Keeps.record]
                  | with_reducible refine Keeps.of_snd ‹_ = (_, _)› ?_
                  | with_reducible refine Keeps.of_fst ‹_ = (_, _)› ?_
                  | with_reducible refine Keeps.of_fst3 ‹_ = (_, _, _)› ?_ | with_reducible apply Keeps.ite
                  | split | dsimp only)

theorem State.ctlWrite_keeps {a s : State} {x1} {x2} {x3} {x4} {x5} (h : Keeps a s) :
    Keeps a (State.ctlWrite s x1 x2 x3 x4 x5).1 := by
  unfold State.ctlWrite
  try dsimp only
  repeat' (first | with_reducible assumption | with_reducible apply State.ctlStoreChecked_keeps
                  | with_reducible apply State.fenceDropped_keeps | simp only [Keeps.record]
                  | with_reducible refine Keeps.of_snd ‹_ = (_, _)› ?_
                  | with_reducible refine Keeps.of_fst ‹_ = (_, _)› ?_
                  | with_reducible refine Keeps.of_fst3 ‹_ = (_, _, _)› ?_ | with_reducible apply Keeps.ite
                  | split | dsimp only)

theorem State.mailbox_keeps {a s : State} {x1} {x2} (h : Keeps a s) :
    Keeps a (State.mailbox s x1 x2) := by
  unfold State.mailbox
  try dsimp only
  repeat' (first | with_reducible assumption | with_reducible apply loadPatternEff_keeps
                  | with_reducible apply alterEff_keeps | with_reducible apply loadFirmwareEff_keeps
                  | with_reducible apply quoteEff_keeps | with_reducible apply extendEff_keeps
                  | with_reducible apply dormantEff_keeps
                  | with_reducible refine State.mbxRun_keeps (fun _ _ => ?_) ?_
                  | with_reducible apply State.mbxEnd_keeps | with_reducible apply resetSaddleEff_keeps
                  | with_reducible apply fittingEff_keeps | with_reducible apply runPayloadEff_keeps
                  | with_reducible apply warmResetEff_keeps | with_reducible apply setFabricKeyEff_keeps
                  | with_reducible apply ownerKeyEff_keeps | with_reducible apply revokeEff_keeps
                  | with_reducible apply rollbackEff_keeps | with_reducible apply hostVerifyEff_keeps
                  | simp only [Keeps.record] | with_reducible refine Keeps.of_snd ‹_ = (_, _)› ?_
                  | with_reducible refine Keeps.of_fst ‹_ = (_, _)› ?_
                  | with_reducible refine Keeps.of_fst3 ‹_ = (_, _, _)› ?_ | with_reducible apply Keeps.ite
                  | split | dsimp only)

theorem State.bar0Write_keeps {a s : State} {x1} {x2} {x3} (h : Keeps a s) :
    Keeps a (State.bar0Write s x1 x2 x3) := by
  unfold State.bar0Write
  try dsimp only
  repeat' (first | with_reducible assumption | with_reducible apply State.setF_keeps
                  | with_reducible apply State.mailbox_keeps | with_reducible apply State.incF_keeps
                  | with_reducible refine Keeps.foldl (fun _ _ _ => ?_) ?_
                  | with_reducible refine Keeps.foldlFst (fun _ _ _ => ?_) ?_
                  | with_reducible refine Keeps.foldlSnd (fun _ _ _ => ?_) ?_ | simp only [Keeps.record]
                  | with_reducible refine Keeps.of_snd ‹_ = (_, _)› ?_
                  | with_reducible refine Keeps.of_fst ‹_ = (_, _)› ?_
                  | with_reducible refine Keeps.of_fst3 ‹_ = (_, _, _)› ?_ | with_reducible apply Keeps.ite
                  | split | dsimp only)

theorem registerWriteEff_keeps {a s : State} {x0} {x1} {x2} {x3} {x4} (h : Keeps a s) :
    Keeps a (registerWriteEff x0 x1 x2 x3 x4 s) := by
  unfold registerWriteEff
  try dsimp only
  repeat' (first | with_reducible assumption | with_reducible apply State.ctlWrite_keeps
                  | with_reducible apply State.reply_keeps | with_reducible apply State.bar0Write_keeps
                  | with_reducible apply State.dmWrite_keeps | with_reducible apply State.csrWrite_keeps
                  | simp only [Keeps.record] | with_reducible refine Keeps.of_snd ‹_ = (_, _)› ?_
                  | with_reducible refine Keeps.of_fst ‹_ = (_, _)› ?_
                  | with_reducible refine Keeps.of_fst3 ‹_ = (_, _, _)› ?_ | with_reducible apply Keeps.ite
                  | split | dsimp only)

theorem State.storeAnswer_keeps {a s : State} {x1} {x2} {x3} {x4} {x5} (h : Keeps a s) :
    Keeps a (State.storeAnswer s x1 x2 x3 x4 x5) := by
  unfold State.storeAnswer
  try dsimp only
  repeat' (first | with_reducible assumption | with_reducible apply State.reply_keeps
                  | with_reducible apply State.ioReply_keeps | simp only [Keeps.record]
                  | with_reducible refine Keeps.of_snd ‹_ = (_, _)› ?_
                  | with_reducible refine Keeps.of_fst ‹_ = (_, _)› ?_
                  | with_reducible refine Keeps.of_fst3 ‹_ = (_, _, _)› ?_ | with_reducible apply Keeps.ite
                  | split | dsimp only)

theorem State.writeAt_keeps {a s : State} {x1} {x2} {x3} {x4} {x5} {x6} {x7} (h : Keeps a s) :
    Keeps a (State.writeAt s x1 x2 x3 x4 x5 x6 x7) := by
  have hend : ∀ {p : State × Option Resp}, Keeps a p.1 → Keeps a (storeEnd x2 x3 x4 x7 p) := by
    intro p hp
    obtain ⟨t, r⟩ := p
    cases r with
    | some r => exact State.storeAnswer_keeps hp
    | none => exact hp
  cases x1 with
  | mmio _ => exact State.mmioWr_keeps h
  | ctl =>
    show Keeps a (storeEnd x2 x3 x4 x7 (s.ctlWrite x3 (ctlOff x4) x5 false (x6.setWidth 64)))
    exact hend (State.ctlWrite_keeps h)
  | bolt => exact State.boltIo_keeps h
  | window => exact State.storeAnswer_keeps h
  | hole => exact State.storeAnswer_keeps h

theorem State.storeArrive_keeps {a s : State} {x1} {x2} {x3} {x4} (h : Keeps a s) :
    Keeps a (State.storeArrive s x1 x2 x3 x4) := by
  unfold State.storeArrive
  try dsimp only
  repeat' (first | with_reducible assumption | with_reducible apply State.ioArrive_keeps | simp only [Keeps.record]
                  | with_reducible refine Keeps.of_snd ‹_ = (_, _)› ?_
                  | with_reducible refine Keeps.of_fst ‹_ = (_, _)› ?_
                  | with_reducible refine Keeps.of_fst3 ‹_ = (_, _, _)› ?_ | with_reducible apply Keeps.ite
                  | split | dsimp only)

theorem ioWrEff_keeps {a s : State} {x0} {x1} {x2} {x3} (h : Keeps a s) : Keeps a (ioWrEff x0 x1 x2 x3 s) := by
  unfold ioWrEff
  generalize regionOf x1.toNat = g
  exact Keeps.ite (State.windowGo_keeps h) (State.writeAt_keeps (State.storeArrive_keeps h))

theorem State.onArith_keeps {a s : State} {x1} {x2} {x3} (h3 : ∀ y0, Keeps a y0 → Keeps a (x3 y0)) (h : Keeps a s) :
    Keeps a (State.onArith s x1 x2 x3) := by
  unfold State.onArith
  try dsimp only
  repeat' (first | with_reducible assumption | with_reducible refine State.onHart_keeps (fun _ _ => ?_) ?_
                  | simp only [Keeps.record] | with_reducible apply h3
                  | with_reducible refine Keeps.of_snd ‹_ = (_, _)› ?_
                  | with_reducible refine Keeps.of_fst ‹_ = (_, _)› ?_
                  | with_reducible refine Keeps.of_fst3 ‹_ = (_, _, _)› ?_ | with_reducible apply Keeps.ite
                  | split | dsimp only)

theorem State.putWorld_keeps {a s : State} {x1} {x2} (h : Keeps a s) :
    Keeps a (State.putWorld s x1 x2) := by
  unfold State.putWorld
  try dsimp only
  repeat' (first | with_reducible assumption | with_reducible apply State.updHart_keeps | simp only [Keeps.record]
                  | with_reducible refine Keeps.of_snd ‹_ = (_, _)› ?_
                  | with_reducible refine Keeps.of_fst ‹_ = (_, _)› ?_
                  | with_reducible refine Keeps.of_fst3 ‹_ = (_, _, _)› ?_ | with_reducible apply Keeps.ite
                  | split | dsimp only)

theorem State.vDone_keeps {a s : State} {x1} {x2} (h : Keeps a s) :
    Keeps a (State.vDone s x1 x2) := by
  unfold State.vDone
  try dsimp only
  repeat' (first | with_reducible assumption | with_reducible apply State.putWorld_keeps | simp only [Keeps.record]
                  | with_reducible refine Keeps.of_snd ‹_ = (_, _)› ?_
                  | with_reducible refine Keeps.of_fst ‹_ = (_, _)› ?_
                  | with_reducible refine Keeps.of_fst3 ‹_ = (_, _, _)› ?_ | with_reducible apply Keeps.ite
                  | split | dsimp only)

theorem vectorReductionEff_keeps {a s : State} {x0} {x1} {x2} {x3} {x4} {x5} (h : Keeps a s) :
    Keeps a (vectorReductionEff x0 x1 x2 x3 x4 x5 s) := by
  unfold vectorReductionEff
  try dsimp only
  repeat' (first | with_reducible assumption | with_reducible refine State.onArith_keeps (fun _ _ => ?_) ?_
                  | with_reducible apply State.illegal_keeps | with_reducible apply State.vDone_keeps
                  | simp only [Keeps.record] | with_reducible refine Keeps.of_snd ‹_ = (_, _)› ?_
                  | with_reducible refine Keeps.of_fst ‹_ = (_, _)› ?_
                  | with_reducible refine Keeps.of_fst3 ‹_ = (_, _, _)› ?_ | with_reducible apply Keeps.ite
                  | split | dsimp only)

theorem vsetvlEff_keeps {a s : State} {x0} {x1} {x2} {x3} (h : Keeps a s) :
    Keeps a (vsetvlEff x0 x1 x2 x3 s) := by
  unfold vsetvlEff
  try dsimp only
  repeat' (first | with_reducible assumption | with_reducible refine State.onArith_keeps (fun _ _ => ?_) ?_
                  | with_reducible apply State.illegal_keeps | with_reducible apply State.putWorld_keeps
                  | simp only [Keeps.record] | with_reducible refine Keeps.of_snd ‹_ = (_, _)› ?_
                  | with_reducible refine Keeps.of_fst ‹_ = (_, _)› ?_
                  | with_reducible refine Keeps.of_fst3 ‹_ = (_, _, _)› ?_ | with_reducible apply Keeps.ite
                  | split | dsimp only)

theorem vectorDivideEff_keeps {a s : State} {x0} {x1} {x2} {x3} {x4} {x5} (h : Keeps a s) :
    Keeps a (vectorDivideEff x0 x1 x2 x3 x4 x5 s) := by
  unfold vectorDivideEff
  try dsimp only
  repeat' (first | with_reducible assumption | with_reducible refine State.onArith_keeps (fun _ _ => ?_) ?_
                  | with_reducible apply State.illegal_keeps | with_reducible apply State.vDone_keeps
                  | simp only [Keeps.record] | with_reducible refine Keeps.of_snd ‹_ = (_, _)› ?_
                  | with_reducible refine Keeps.of_fst ‹_ = (_, _)› ?_
                  | with_reducible refine Keeps.of_fst3 ‹_ = (_, _, _)› ?_ | with_reducible apply Keeps.ite
                  | split | dsimp only)

theorem vectorWideningBinary128Eff_keeps {a s : State} {x0} {x1} {x2} {x3} {x4} {x5} (h : Keeps a s) :
    Keeps a (vectorWideningBinary128Eff x0 x1 x2 x3 x4 x5 s) := by
  unfold vectorWideningBinary128Eff
  try dsimp only
  repeat' (first | with_reducible assumption | with_reducible refine State.onArith_keeps (fun _ _ => ?_) ?_
                  | with_reducible apply State.illegal_keeps | with_reducible apply State.vDone_keeps
                  | simp only [Keeps.record] | with_reducible refine Keeps.of_snd ‹_ = (_, _)› ?_
                  | with_reducible refine Keeps.of_fst ‹_ = (_, _)› ?_
                  | with_reducible refine Keeps.of_fst3 ‹_ = (_, _, _)› ?_ | with_reducible apply Keeps.ite
                  | split | dsimp only)

theorem fmvhXQEff_keeps {a s : State} {x0} {x1} {x2} (h : Keeps a s) :
    Keeps a (fmvhXQEff x0 x1 x2 s) := by
  unfold fmvhXQEff
  try dsimp only
  repeat' (first | with_reducible assumption | with_reducible refine State.onArith_keeps (fun _ _ => ?_) ?_
                  | with_reducible apply State.illegal_keeps | with_reducible apply State.putWorld_keeps
                  | simp only [Keeps.record] | with_reducible refine Keeps.of_snd ‹_ = (_, _)› ?_
                  | with_reducible refine Keeps.of_fst ‹_ = (_, _)› ?_
                  | with_reducible refine Keeps.of_fst3 ‹_ = (_, _, _)› ?_ | with_reducible apply Keeps.ite
                  | split | dsimp only)

theorem State.vElemIssue_keeps {a s : State} {x1} {x2} {x3} {x4} {x5} {x6} {x7} {x8} (h : Keeps a s) :
    Keeps a (State.vElemIssue s x1 x2 x3 x4 x5 x6 x7 x8).1 := by
  unfold State.vElemIssue
  try dsimp only
  repeat' (first | with_reducible assumption | with_reducible apply State.updHart_keeps
                  | with_reducible apply State.tagCheck_keeps | with_reducible apply State.addAcc_keeps
                  | with_reducible apply State.addIo_keeps | simp only [Keeps.record]
                  | with_reducible refine Keeps.of_snd ‹_ = (_, _)› ?_
                  | with_reducible refine Keeps.of_fst ‹_ = (_, _)› ?_
                  | with_reducible refine Keeps.of_fst3 ‹_ = (_, _, _)› ?_ | with_reducible apply Keeps.ite
                  | split | dsimp only)

theorem State.vIssue_keeps {a s : State} {x1} {x2} {x3} {x4} {x5} (h : Keeps a s) :
    Keeps a (State.vIssue s x1 x2 x3 x4 x5) := by
  induction x5 generalizing s x1 x2 x3 x4 with
  | nil =>
    unfold State.vIssue
    try dsimp only
    repeat' (first | with_reducible assumption | with_reducible apply State.updHart_keeps
                    | with_reducible apply State.vElemIssue_keeps | with_reducible apply State.trap_keeps
                    | simp only [Keeps.record] | with_reducible refine Keeps.of_snd ‹_ = (_, _)› ?_
                    | with_reducible refine Keeps.of_fst ‹_ = (_, _)› ?_
                    | with_reducible refine Keeps.of_fst3 ‹_ = (_, _, _)› ?_ | with_reducible apply Keeps.ite
                    | split | dsimp only)
  | cons y l ih =>
    unfold State.vIssue
    try dsimp only
    repeat' (first | with_reducible assumption | with_reducible apply ih | with_reducible apply State.updHart_keeps
                    | with_reducible apply State.vElemIssue_keeps | with_reducible apply State.trap_keeps
                    | simp only [Keeps.record] | with_reducible refine Keeps.of_snd ‹_ = (_, _)› ?_
                    | with_reducible refine Keeps.of_fst ‹_ = (_, _)› ?_
                    | with_reducible refine Keeps.of_fst3 ‹_ = (_, _, _)› ?_ | with_reducible apply Keeps.ite
                    | split | dsimp only)

theorem binary128ArithmeticEff_keeps {a s : State} {x0} {x1} {x2} {x3} {x4} {x5} {x6} (h : Keeps a s) :
    Keeps a (binary128ArithmeticEff x0 x1 x2 x3 x4 x5 x6 s) := by
  unfold binary128ArithmeticEff
  try dsimp only
  repeat' (first | with_reducible assumption | with_reducible refine State.onArith_keeps (fun _ _ => ?_) ?_
                  | with_reducible apply State.illegal_keeps | with_reducible apply State.putWorld_keeps
                  | with_reducible apply State.bump_keeps | simp only [Keeps.record]
                  | with_reducible refine Keeps.of_snd ‹_ = (_, _)› ?_
                  | with_reducible refine Keeps.of_fst ‹_ = (_, _)› ?_
                  | with_reducible refine Keeps.of_fst3 ‹_ = (_, _, _)› ?_ | with_reducible apply Keeps.ite
                  | split | dsimp only)

theorem vectorBinary128Eff_keeps {a s : State} {x0} {x1} {x2} {x3} {x4} {x5} (h : Keeps a s) :
    Keeps a (vectorBinary128Eff x0 x1 x2 x3 x4 x5 s) := by
  unfold vectorBinary128Eff
  try dsimp only
  repeat' (first | with_reducible assumption | with_reducible refine State.onArith_keeps (fun _ _ => ?_) ?_
                  | with_reducible apply State.illegal_keeps | with_reducible apply State.bump_keeps
                  | with_reducible apply State.vDone_keeps | simp only [Keeps.record]
                  | with_reducible refine Keeps.of_snd ‹_ = (_, _)› ?_
                  | with_reducible refine Keeps.of_fst ‹_ = (_, _)› ?_
                  | with_reducible refine Keeps.of_fst3 ‹_ = (_, _, _)› ?_ | with_reducible apply Keeps.ite
                  | split | dsimp only)

theorem vectorLoadEew128Eff_keeps {a s : State} {x0} {x1} {x2} {x3} {x4} {x5} {x6} {x7} (h : Keeps a s) :
    Keeps a (vectorLoadEew128Eff x0 x1 x2 x3 x4 x5 x6 x7 s) := by
  unfold vectorLoadEew128Eff
  try dsimp only
  repeat' (first | with_reducible assumption | with_reducible refine State.onArith_keeps (fun _ _ => ?_) ?_
                  | with_reducible apply State.illegal_keeps | with_reducible apply State.pump_keeps
                  | with_reducible apply State.vIssue_keeps | simp only [Keeps.record]
                  | with_reducible refine Keeps.of_snd ‹_ = (_, _)› ?_
                  | with_reducible refine Keeps.of_fst ‹_ = (_, _)› ?_
                  | with_reducible refine Keeps.of_fst3 ‹_ = (_, _, _)› ?_ | with_reducible apply Keeps.ite
                  | split | dsimp only)

theorem fmvpQXEff_keeps {a s : State} {x0} {x1} {x2} {x3} (h : Keeps a s) :
    Keeps a (fmvpQXEff x0 x1 x2 x3 s) := by
  unfold fmvpQXEff
  try dsimp only
  repeat' (first | with_reducible assumption | with_reducible refine State.onArith_keeps (fun _ _ => ?_) ?_
                  | with_reducible apply State.illegal_keeps | with_reducible apply State.putWorld_keeps
                  | simp only [Keeps.record] | with_reducible refine Keeps.of_snd ‹_ = (_, _)› ?_
                  | with_reducible refine Keeps.of_fst ‹_ = (_, _)› ?_
                  | with_reducible refine Keeps.of_fst3 ‹_ = (_, _, _)› ?_ | with_reducible apply Keeps.ite
                  | split | dsimp only)

theorem State.tick_keeps {a s : State} (h : Keeps a s) :
    Keeps a (State.tick s) := by
  unfold State.tick
  try dsimp only
  repeat' (first | with_reducible assumption | with_reducible apply State.advance_keeps | simp only [Keeps.record]
                  | with_reducible refine Keeps.of_snd ‹_ = (_, _)› ?_
                  | with_reducible refine Keeps.of_fst ‹_ = (_, _)› ?_
                  | with_reducible refine Keeps.of_fst3 ‹_ = (_, _, _)› ?_ | with_reducible apply Keeps.ite
                  | split | dsimp only)

end Sys2Proof.Machine
end

