-- ==== Sys2Proof/Laws/State.lean ====
section
/-! SUPPORT. What an update of the state leaves as it was, one lemma for each field, and what it makes a read answer. -/

namespace Sys2Proof.Machine

/-! ### wr -/

@[simp] theorem State.wr_pending (s : State) (r : Reg) (v : Word) : (s.wr r v).pending = s.pending := rfl
@[simp] theorem State.wr_tape (s : State) (r : Reg) (v : Word) : (s.wr r v).tape = s.tape := rfl
@[simp] theorem State.wr_freeCtr (s : State) (r : Reg) (v : Word) : (s.wr r v).freeCtr = s.freeCtr := rfl
@[simp] theorem State.wr_mem (s : State) (r : Reg) (v : Word) : (s.wr r v).mem = s.mem := rfl
@[simp] theorem State.wr_memPoison (s : State) (r : Reg) (v : Word) : (s.wr r v).memPoison = s.memPoison := rfl
@[simp] theorem State.wr_memEpoch (s : State) (r : Reg) (v : Word) : (s.wr r v).memEpoch = s.memEpoch := rfl
@[simp] theorem State.wr_rekeys (s : State) (r : Reg) (v : Word) : (s.wr r v).rekeys = s.rekeys := rfl
@[simp] theorem State.wr_otp (s : State) (r : Reg) (v : Word) : (s.wr r v).otp = s.otp := rfl
@[simp] theorem State.wr_id (s : State) (r : Reg) (v : Word) : (s.wr r v).id = s.id := rfl
@[simp] theorem State.wr_clk (s : State) (r : Reg) (v : Word) : (s.wr r v).clk = s.clk := rfl
@[simp] theorem State.wr_pat (s : State) (r : Reg) (v : Word) : (s.wr r v).pat = s.pat := rfl
@[simp] theorem State.wr_harts (s : State) (r : Reg) (v : Word) : (s.wr r v).harts = s.harts := rfl
@[simp] theorem State.wr_ports (s : State) (r : Reg) (v : Word) : (s.wr r v).ports = s.ports := rfl
@[simp] theorem State.wr_slices (s : State) (r : Reg) (v : Word) : (s.wr r v).slices = s.slices := rfl
@[simp] theorem State.wr_range (s : State) (r : Reg) (v : Word) : (s.wr r v).range = s.range := rfl
@[simp] theorem State.wr_gus (s : State) (r : Reg) (v : Word) : (s.wr r v).gus = s.gus := rfl
@[simp] theorem State.wr_fences (s : State) (r : Reg) (v : Word) : (s.wr r v).fences = s.fences := rfl
@[simp] theorem State.wr_mcs (s : State) (r : Reg) (v : Word) : (s.wr r v).mcs = s.mcs := rfl
@[simp] theorem State.wr_epoch (s : State) (r : Reg) (v : Word) : (s.wr r v).epoch = s.epoch := rfl
@[simp] theorem State.wr_trace (s : State) (r : Reg) (v : Word) : (s.wr r v).trace = s.trace := rfl
@[simp] theorem State.wr_io (s : State) (r : Reg) (v : Word) : (s.wr r v).io = s.io := rfl
@[simp] theorem State.wr_pock (s : State) (r : Reg) (v : Word) : (s.wr r v).pock = s.pock := rfl
@[simp] theorem State.wr_net (s : State) (r : Reg) (v : Word) : (s.wr r v).net = s.net := rfl
@[simp] theorem State.wr_boot (s : State) (r : Reg) (v : Word) : (s.wr r v).boot = s.boot := rfl
@[simp] theorem State.wr_thm (s : State) (r : Reg) (v : Word) : (s.wr r v).thm = s.thm := rfl
@[simp] theorem State.wr_pins (s : State) (r : Reg) (v : Word) : (s.wr r v).pins = s.pins := rfl
@[simp] theorem State.wr_hrn (s : State) (r : Reg) (v : Word) : (s.wr r v).hrn = s.hrn := rfl
@[simp] theorem State.wr_cnt (s : State) (r : Reg) (v : Word) : (s.wr r v).cnt = s.cnt := rfl
@[simp] theorem State.wr_dbg (s : State) (r : Reg) (v : Word) : (s.wr r v).dbg = s.dbg := rfl
@[simp] theorem State.wr_msi (s : State) (r : Reg) (v : Word) : (s.wr r v).msi = s.msi := rfl
@[simp] theorem State.wr_msix (s : State) (r : Reg) (v : Word) : (s.wr r v).msix = s.msix := rfl
@[simp] theorem State.wr_aplic (s : State) (r : Reg) (v : Word) : (s.wr r v).aplic = s.aplic := rfl
@[simp] theorem State.wr_aplicReg (s : State) (r : Reg) (v : Word) : (s.wr r v).aplicReg = s.aplicReg := rfl
@[simp] theorem State.wr_files (s : State) (r : Reg) (v : Word) : (s.wr r v).files = s.files := rfl
@[simp] theorem State.wr_iommu (s : State) (r : Reg) (v : Word) : (s.wr r v).iommu = s.iommu := rfl
@[simp] theorem State.wr_notes (s : State) (r : Reg) (v : Word) : (s.wr r v).notes = s.notes := rfl
@[simp] theorem State.wr_errSeq (s : State) (r : Reg) (v : Word) : (s.wr r v).errSeq = s.errSeq := rfl
@[simp] theorem State.wr_answers (s : State) (r : Reg) (v : Word) : (s.wr r v).answers = s.answers := rfl

/-! ### setF -/

@[simp] theorem State.setF_pending (s : State) (r : Reg) (f : FieldDesc) (n : Nat) : (s.setF r f n).pending = s.pending := rfl
@[simp] theorem State.setF_tape (s : State) (r : Reg) (f : FieldDesc) (n : Nat) : (s.setF r f n).tape = s.tape := rfl
@[simp] theorem State.setF_freeCtr (s : State) (r : Reg) (f : FieldDesc) (n : Nat) : (s.setF r f n).freeCtr = s.freeCtr := rfl
@[simp] theorem State.setF_mem (s : State) (r : Reg) (f : FieldDesc) (n : Nat) : (s.setF r f n).mem = s.mem := rfl
@[simp] theorem State.setF_memPoison (s : State) (r : Reg) (f : FieldDesc) (n : Nat) : (s.setF r f n).memPoison = s.memPoison := rfl
@[simp] theorem State.setF_memEpoch (s : State) (r : Reg) (f : FieldDesc) (n : Nat) : (s.setF r f n).memEpoch = s.memEpoch := rfl
@[simp] theorem State.setF_rekeys (s : State) (r : Reg) (f : FieldDesc) (n : Nat) : (s.setF r f n).rekeys = s.rekeys := rfl
@[simp] theorem State.setF_otp (s : State) (r : Reg) (f : FieldDesc) (n : Nat) : (s.setF r f n).otp = s.otp := rfl
@[simp] theorem State.setF_id (s : State) (r : Reg) (f : FieldDesc) (n : Nat) : (s.setF r f n).id = s.id := rfl
@[simp] theorem State.setF_clk (s : State) (r : Reg) (f : FieldDesc) (n : Nat) : (s.setF r f n).clk = s.clk := rfl
@[simp] theorem State.setF_pat (s : State) (r : Reg) (f : FieldDesc) (n : Nat) : (s.setF r f n).pat = s.pat := rfl
@[simp] theorem State.setF_harts (s : State) (r : Reg) (f : FieldDesc) (n : Nat) : (s.setF r f n).harts = s.harts := rfl
@[simp] theorem State.setF_ports (s : State) (r : Reg) (f : FieldDesc) (n : Nat) : (s.setF r f n).ports = s.ports := rfl
@[simp] theorem State.setF_slices (s : State) (r : Reg) (f : FieldDesc) (n : Nat) : (s.setF r f n).slices = s.slices := rfl
@[simp] theorem State.setF_range (s : State) (r : Reg) (f : FieldDesc) (n : Nat) : (s.setF r f n).range = s.range := rfl
@[simp] theorem State.setF_gus (s : State) (r : Reg) (f : FieldDesc) (n : Nat) : (s.setF r f n).gus = s.gus := rfl
@[simp] theorem State.setF_fences (s : State) (r : Reg) (f : FieldDesc) (n : Nat) : (s.setF r f n).fences = s.fences := rfl
@[simp] theorem State.setF_mcs (s : State) (r : Reg) (f : FieldDesc) (n : Nat) : (s.setF r f n).mcs = s.mcs := rfl
@[simp] theorem State.setF_epoch (s : State) (r : Reg) (f : FieldDesc) (n : Nat) : (s.setF r f n).epoch = s.epoch := rfl
@[simp] theorem State.setF_trace (s : State) (r : Reg) (f : FieldDesc) (n : Nat) : (s.setF r f n).trace = s.trace := rfl
@[simp] theorem State.setF_io (s : State) (r : Reg) (f : FieldDesc) (n : Nat) : (s.setF r f n).io = s.io := rfl
@[simp] theorem State.setF_pock (s : State) (r : Reg) (f : FieldDesc) (n : Nat) : (s.setF r f n).pock = s.pock := rfl
@[simp] theorem State.setF_net (s : State) (r : Reg) (f : FieldDesc) (n : Nat) : (s.setF r f n).net = s.net := rfl
@[simp] theorem State.setF_boot (s : State) (r : Reg) (f : FieldDesc) (n : Nat) : (s.setF r f n).boot = s.boot := rfl
@[simp] theorem State.setF_thm (s : State) (r : Reg) (f : FieldDesc) (n : Nat) : (s.setF r f n).thm = s.thm := rfl
@[simp] theorem State.setF_pins (s : State) (r : Reg) (f : FieldDesc) (n : Nat) : (s.setF r f n).pins = s.pins := rfl
@[simp] theorem State.setF_hrn (s : State) (r : Reg) (f : FieldDesc) (n : Nat) : (s.setF r f n).hrn = s.hrn := rfl
@[simp] theorem State.setF_cnt (s : State) (r : Reg) (f : FieldDesc) (n : Nat) : (s.setF r f n).cnt = s.cnt := rfl
@[simp] theorem State.setF_dbg (s : State) (r : Reg) (f : FieldDesc) (n : Nat) : (s.setF r f n).dbg = s.dbg := rfl
@[simp] theorem State.setF_msi (s : State) (r : Reg) (f : FieldDesc) (n : Nat) : (s.setF r f n).msi = s.msi := rfl
@[simp] theorem State.setF_msix (s : State) (r : Reg) (f : FieldDesc) (n : Nat) : (s.setF r f n).msix = s.msix := rfl
@[simp] theorem State.setF_aplic (s : State) (r : Reg) (f : FieldDesc) (n : Nat) : (s.setF r f n).aplic = s.aplic := rfl
@[simp] theorem State.setF_aplicReg (s : State) (r : Reg) (f : FieldDesc) (n : Nat) : (s.setF r f n).aplicReg = s.aplicReg := rfl
@[simp] theorem State.setF_files (s : State) (r : Reg) (f : FieldDesc) (n : Nat) : (s.setF r f n).files = s.files := rfl
@[simp] theorem State.setF_iommu (s : State) (r : Reg) (f : FieldDesc) (n : Nat) : (s.setF r f n).iommu = s.iommu := rfl
@[simp] theorem State.setF_notes (s : State) (r : Reg) (f : FieldDesc) (n : Nat) : (s.setF r f n).notes = s.notes := rfl
@[simp] theorem State.setF_errSeq (s : State) (r : Reg) (f : FieldDesc) (n : Nat) : (s.setF r f n).errSeq = s.errSeq := rfl
@[simp] theorem State.setF_answers (s : State) (r : Reg) (f : FieldDesc) (n : Nat) : (s.setF r f n).answers = s.answers := rfl

/-! ### setHart -/

@[simp] theorem State.setHart_pending (s : State) (h : Nat) (v : HartSt) : (s.setHart h v).pending = s.pending := rfl
@[simp] theorem State.setHart_tape (s : State) (h : Nat) (v : HartSt) : (s.setHart h v).tape = s.tape := rfl
@[simp] theorem State.setHart_freeCtr (s : State) (h : Nat) (v : HartSt) : (s.setHart h v).freeCtr = s.freeCtr := rfl
@[simp] theorem State.setHart_regs (s : State) (h : Nat) (v : HartSt) : (s.setHart h v).regs = s.regs := rfl
@[simp] theorem State.setHart_mem (s : State) (h : Nat) (v : HartSt) : (s.setHart h v).mem = s.mem := rfl
@[simp] theorem State.setHart_memPoison (s : State) (h : Nat) (v : HartSt) : (s.setHart h v).memPoison = s.memPoison := rfl
@[simp] theorem State.setHart_memEpoch (s : State) (h : Nat) (v : HartSt) : (s.setHart h v).memEpoch = s.memEpoch := rfl
@[simp] theorem State.setHart_rekeys (s : State) (h : Nat) (v : HartSt) : (s.setHart h v).rekeys = s.rekeys := rfl
@[simp] theorem State.setHart_otp (s : State) (h : Nat) (v : HartSt) : (s.setHart h v).otp = s.otp := rfl
@[simp] theorem State.setHart_id (s : State) (h : Nat) (v : HartSt) : (s.setHart h v).id = s.id := rfl
@[simp] theorem State.setHart_clk (s : State) (h : Nat) (v : HartSt) : (s.setHart h v).clk = s.clk := rfl
@[simp] theorem State.setHart_pat (s : State) (h : Nat) (v : HartSt) : (s.setHart h v).pat = s.pat := rfl
@[simp] theorem State.setHart_ports (s : State) (h : Nat) (v : HartSt) : (s.setHart h v).ports = s.ports := rfl
@[simp] theorem State.setHart_slices (s : State) (h : Nat) (v : HartSt) : (s.setHart h v).slices = s.slices := rfl
@[simp] theorem State.setHart_range (s : State) (h : Nat) (v : HartSt) : (s.setHart h v).range = s.range := rfl
@[simp] theorem State.setHart_gus (s : State) (h : Nat) (v : HartSt) : (s.setHart h v).gus = s.gus := rfl
@[simp] theorem State.setHart_fences (s : State) (h : Nat) (v : HartSt) : (s.setHart h v).fences = s.fences := rfl
@[simp] theorem State.setHart_mcs (s : State) (h : Nat) (v : HartSt) : (s.setHart h v).mcs = s.mcs := rfl
@[simp] theorem State.setHart_epoch (s : State) (h : Nat) (v : HartSt) : (s.setHart h v).epoch = s.epoch := rfl
@[simp] theorem State.setHart_trace (s : State) (h : Nat) (v : HartSt) : (s.setHart h v).trace = s.trace := rfl
@[simp] theorem State.setHart_io (s : State) (h : Nat) (v : HartSt) : (s.setHart h v).io = s.io := rfl
@[simp] theorem State.setHart_pock (s : State) (h : Nat) (v : HartSt) : (s.setHart h v).pock = s.pock := rfl
@[simp] theorem State.setHart_net (s : State) (h : Nat) (v : HartSt) : (s.setHart h v).net = s.net := rfl
@[simp] theorem State.setHart_boot (s : State) (h : Nat) (v : HartSt) : (s.setHart h v).boot = s.boot := rfl
@[simp] theorem State.setHart_thm (s : State) (h : Nat) (v : HartSt) : (s.setHart h v).thm = s.thm := rfl
@[simp] theorem State.setHart_pins (s : State) (h : Nat) (v : HartSt) : (s.setHart h v).pins = s.pins := rfl
@[simp] theorem State.setHart_hrn (s : State) (h : Nat) (v : HartSt) : (s.setHart h v).hrn = s.hrn := rfl
@[simp] theorem State.setHart_dbg (s : State) (h : Nat) (v : HartSt) : (s.setHart h v).dbg = s.dbg := rfl
@[simp] theorem State.setHart_msi (s : State) (h : Nat) (v : HartSt) : (s.setHart h v).msi = s.msi := rfl
@[simp] theorem State.setHart_msix (s : State) (h : Nat) (v : HartSt) : (s.setHart h v).msix = s.msix := rfl
@[simp] theorem State.setHart_aplic (s : State) (h : Nat) (v : HartSt) : (s.setHart h v).aplic = s.aplic := rfl
@[simp] theorem State.setHart_aplicReg (s : State) (h : Nat) (v : HartSt) : (s.setHart h v).aplicReg = s.aplicReg := rfl
@[simp] theorem State.setHart_files (s : State) (h : Nat) (v : HartSt) : (s.setHart h v).files = s.files := rfl
@[simp] theorem State.setHart_iommu (s : State) (h : Nat) (v : HartSt) : (s.setHart h v).iommu = s.iommu := rfl
@[simp] theorem State.setHart_notes (s : State) (h : Nat) (v : HartSt) : (s.setHart h v).notes = s.notes := rfl
@[simp] theorem State.setHart_errSeq (s : State) (h : Nat) (v : HartSt) : (s.setHart h v).errSeq = s.errSeq := rfl
@[simp] theorem State.setHart_answers (s : State) (h : Nat) (v : HartSt) : (s.setHart h v).answers = s.answers := rfl

/-! ### updHart -/

@[simp] theorem State.updHart_pending (s : State) (h : Nat) (f : HartSt → HartSt) : (s.updHart h f).pending = s.pending := rfl
@[simp] theorem State.updHart_tape (s : State) (h : Nat) (f : HartSt → HartSt) : (s.updHart h f).tape = s.tape := rfl
@[simp] theorem State.updHart_freeCtr (s : State) (h : Nat) (f : HartSt → HartSt) : (s.updHart h f).freeCtr = s.freeCtr := rfl
@[simp] theorem State.updHart_regs (s : State) (h : Nat) (f : HartSt → HartSt) : (s.updHart h f).regs = s.regs := rfl
@[simp] theorem State.updHart_mem (s : State) (h : Nat) (f : HartSt → HartSt) : (s.updHart h f).mem = s.mem := rfl
@[simp] theorem State.updHart_memPoison (s : State) (h : Nat) (f : HartSt → HartSt) : (s.updHart h f).memPoison = s.memPoison := rfl
@[simp] theorem State.updHart_memEpoch (s : State) (h : Nat) (f : HartSt → HartSt) : (s.updHart h f).memEpoch = s.memEpoch := rfl
@[simp] theorem State.updHart_rekeys (s : State) (h : Nat) (f : HartSt → HartSt) : (s.updHart h f).rekeys = s.rekeys := rfl
@[simp] theorem State.updHart_otp (s : State) (h : Nat) (f : HartSt → HartSt) : (s.updHart h f).otp = s.otp := rfl
@[simp] theorem State.updHart_id (s : State) (h : Nat) (f : HartSt → HartSt) : (s.updHart h f).id = s.id := rfl
@[simp] theorem State.updHart_clk (s : State) (h : Nat) (f : HartSt → HartSt) : (s.updHart h f).clk = s.clk := rfl
@[simp] theorem State.updHart_pat (s : State) (h : Nat) (f : HartSt → HartSt) : (s.updHart h f).pat = s.pat := rfl
@[simp] theorem State.updHart_ports (s : State) (h : Nat) (f : HartSt → HartSt) : (s.updHart h f).ports = s.ports := rfl
@[simp] theorem State.updHart_slices (s : State) (h : Nat) (f : HartSt → HartSt) : (s.updHart h f).slices = s.slices := rfl
@[simp] theorem State.updHart_range (s : State) (h : Nat) (f : HartSt → HartSt) : (s.updHart h f).range = s.range := rfl
@[simp] theorem State.updHart_gus (s : State) (h : Nat) (f : HartSt → HartSt) : (s.updHart h f).gus = s.gus := rfl
@[simp] theorem State.updHart_fences (s : State) (h : Nat) (f : HartSt → HartSt) : (s.updHart h f).fences = s.fences := rfl
@[simp] theorem State.updHart_mcs (s : State) (h : Nat) (f : HartSt → HartSt) : (s.updHart h f).mcs = s.mcs := rfl
@[simp] theorem State.updHart_epoch (s : State) (h : Nat) (f : HartSt → HartSt) : (s.updHart h f).epoch = s.epoch := rfl
@[simp] theorem State.updHart_trace (s : State) (h : Nat) (f : HartSt → HartSt) : (s.updHart h f).trace = s.trace := rfl
@[simp] theorem State.updHart_io (s : State) (h : Nat) (f : HartSt → HartSt) : (s.updHart h f).io = s.io := rfl
@[simp] theorem State.updHart_pock (s : State) (h : Nat) (f : HartSt → HartSt) : (s.updHart h f).pock = s.pock := rfl
@[simp] theorem State.updHart_net (s : State) (h : Nat) (f : HartSt → HartSt) : (s.updHart h f).net = s.net := rfl
@[simp] theorem State.updHart_boot (s : State) (h : Nat) (f : HartSt → HartSt) : (s.updHart h f).boot = s.boot := rfl
@[simp] theorem State.updHart_thm (s : State) (h : Nat) (f : HartSt → HartSt) : (s.updHart h f).thm = s.thm := rfl
@[simp] theorem State.updHart_pins (s : State) (h : Nat) (f : HartSt → HartSt) : (s.updHart h f).pins = s.pins := rfl
@[simp] theorem State.updHart_hrn (s : State) (h : Nat) (f : HartSt → HartSt) : (s.updHart h f).hrn = s.hrn := rfl
@[simp] theorem State.updHart_dbg (s : State) (h : Nat) (f : HartSt → HartSt) : (s.updHart h f).dbg = s.dbg := rfl
@[simp] theorem State.updHart_msi (s : State) (h : Nat) (f : HartSt → HartSt) : (s.updHart h f).msi = s.msi := rfl
@[simp] theorem State.updHart_msix (s : State) (h : Nat) (f : HartSt → HartSt) : (s.updHart h f).msix = s.msix := rfl
@[simp] theorem State.updHart_aplic (s : State) (h : Nat) (f : HartSt → HartSt) : (s.updHart h f).aplic = s.aplic := rfl
@[simp] theorem State.updHart_aplicReg (s : State) (h : Nat) (f : HartSt → HartSt) : (s.updHart h f).aplicReg = s.aplicReg := rfl
@[simp] theorem State.updHart_files (s : State) (h : Nat) (f : HartSt → HartSt) : (s.updHart h f).files = s.files := rfl
@[simp] theorem State.updHart_iommu (s : State) (h : Nat) (f : HartSt → HartSt) : (s.updHart h f).iommu = s.iommu := rfl
@[simp] theorem State.updHart_notes (s : State) (h : Nat) (f : HartSt → HartSt) : (s.updHart h f).notes = s.notes := rfl
@[simp] theorem State.updHart_errSeq (s : State) (h : Nat) (f : HartSt → HartSt) : (s.updHart h f).errSeq = s.errSeq := rfl
@[simp] theorem State.updHart_answers (s : State) (h : Nat) (f : HartSt → HartSt) : (s.updHart h f).answers = s.answers := rfl

/-! ### updPort -/

@[simp] theorem State.updPort_pending (s : State) (k : Nat) (f : PortSt → PortSt) : (s.updPort k f).pending = s.pending := rfl
@[simp] theorem State.updPort_tape (s : State) (k : Nat) (f : PortSt → PortSt) : (s.updPort k f).tape = s.tape := rfl
@[simp] theorem State.updPort_freeCtr (s : State) (k : Nat) (f : PortSt → PortSt) : (s.updPort k f).freeCtr = s.freeCtr := rfl
@[simp] theorem State.updPort_regs (s : State) (k : Nat) (f : PortSt → PortSt) : (s.updPort k f).regs = s.regs := rfl
@[simp] theorem State.updPort_mem (s : State) (k : Nat) (f : PortSt → PortSt) : (s.updPort k f).mem = s.mem := rfl
@[simp] theorem State.updPort_memPoison (s : State) (k : Nat) (f : PortSt → PortSt) : (s.updPort k f).memPoison = s.memPoison := rfl
@[simp] theorem State.updPort_memEpoch (s : State) (k : Nat) (f : PortSt → PortSt) : (s.updPort k f).memEpoch = s.memEpoch := rfl
@[simp] theorem State.updPort_rekeys (s : State) (k : Nat) (f : PortSt → PortSt) : (s.updPort k f).rekeys = s.rekeys := rfl
@[simp] theorem State.updPort_otp (s : State) (k : Nat) (f : PortSt → PortSt) : (s.updPort k f).otp = s.otp := rfl
@[simp] theorem State.updPort_id (s : State) (k : Nat) (f : PortSt → PortSt) : (s.updPort k f).id = s.id := rfl
@[simp] theorem State.updPort_clk (s : State) (k : Nat) (f : PortSt → PortSt) : (s.updPort k f).clk = s.clk := rfl
@[simp] theorem State.updPort_pat (s : State) (k : Nat) (f : PortSt → PortSt) : (s.updPort k f).pat = s.pat := rfl
@[simp] theorem State.updPort_harts (s : State) (k : Nat) (f : PortSt → PortSt) : (s.updPort k f).harts = s.harts := rfl
@[simp] theorem State.updPort_slices (s : State) (k : Nat) (f : PortSt → PortSt) : (s.updPort k f).slices = s.slices := rfl
@[simp] theorem State.updPort_range (s : State) (k : Nat) (f : PortSt → PortSt) : (s.updPort k f).range = s.range := rfl
@[simp] theorem State.updPort_gus (s : State) (k : Nat) (f : PortSt → PortSt) : (s.updPort k f).gus = s.gus := rfl
@[simp] theorem State.updPort_fences (s : State) (k : Nat) (f : PortSt → PortSt) : (s.updPort k f).fences = s.fences := rfl
@[simp] theorem State.updPort_mcs (s : State) (k : Nat) (f : PortSt → PortSt) : (s.updPort k f).mcs = s.mcs := rfl
@[simp] theorem State.updPort_epoch (s : State) (k : Nat) (f : PortSt → PortSt) : (s.updPort k f).epoch = s.epoch := rfl
@[simp] theorem State.updPort_trace (s : State) (k : Nat) (f : PortSt → PortSt) : (s.updPort k f).trace = s.trace := rfl
@[simp] theorem State.updPort_io (s : State) (k : Nat) (f : PortSt → PortSt) : (s.updPort k f).io = s.io := rfl
@[simp] theorem State.updPort_pock (s : State) (k : Nat) (f : PortSt → PortSt) : (s.updPort k f).pock = s.pock := rfl
@[simp] theorem State.updPort_net (s : State) (k : Nat) (f : PortSt → PortSt) : (s.updPort k f).net = s.net := rfl
@[simp] theorem State.updPort_boot (s : State) (k : Nat) (f : PortSt → PortSt) : (s.updPort k f).boot = s.boot := rfl
@[simp] theorem State.updPort_thm (s : State) (k : Nat) (f : PortSt → PortSt) : (s.updPort k f).thm = s.thm := rfl
@[simp] theorem State.updPort_pins (s : State) (k : Nat) (f : PortSt → PortSt) : (s.updPort k f).pins = s.pins := rfl
@[simp] theorem State.updPort_hrn (s : State) (k : Nat) (f : PortSt → PortSt) : (s.updPort k f).hrn = s.hrn := rfl
@[simp] theorem State.updPort_cnt (s : State) (k : Nat) (f : PortSt → PortSt) : (s.updPort k f).cnt = s.cnt := rfl
@[simp] theorem State.updPort_dbg (s : State) (k : Nat) (f : PortSt → PortSt) : (s.updPort k f).dbg = s.dbg := rfl
@[simp] theorem State.updPort_msi (s : State) (k : Nat) (f : PortSt → PortSt) : (s.updPort k f).msi = s.msi := rfl
@[simp] theorem State.updPort_msix (s : State) (k : Nat) (f : PortSt → PortSt) : (s.updPort k f).msix = s.msix := rfl
@[simp] theorem State.updPort_aplic (s : State) (k : Nat) (f : PortSt → PortSt) : (s.updPort k f).aplic = s.aplic := rfl
@[simp] theorem State.updPort_aplicReg (s : State) (k : Nat) (f : PortSt → PortSt) : (s.updPort k f).aplicReg = s.aplicReg := rfl
@[simp] theorem State.updPort_files (s : State) (k : Nat) (f : PortSt → PortSt) : (s.updPort k f).files = s.files := rfl
@[simp] theorem State.updPort_iommu (s : State) (k : Nat) (f : PortSt → PortSt) : (s.updPort k f).iommu = s.iommu := rfl
@[simp] theorem State.updPort_notes (s : State) (k : Nat) (f : PortSt → PortSt) : (s.updPort k f).notes = s.notes := rfl
@[simp] theorem State.updPort_errSeq (s : State) (k : Nat) (f : PortSt → PortSt) : (s.updPort k f).errSeq = s.errSeq := rfl
@[simp] theorem State.updPort_answers (s : State) (k : Nat) (f : PortSt → PortSt) : (s.updPort k f).answers = s.answers := rfl

/-! ### updSlice -/

@[simp] theorem State.updSlice_pending (s : State) (k : Nat) (f : SliceSt → SliceSt) : (s.updSlice k f).pending = s.pending := rfl
@[simp] theorem State.updSlice_tape (s : State) (k : Nat) (f : SliceSt → SliceSt) : (s.updSlice k f).tape = s.tape := rfl
@[simp] theorem State.updSlice_freeCtr (s : State) (k : Nat) (f : SliceSt → SliceSt) : (s.updSlice k f).freeCtr = s.freeCtr := rfl
@[simp] theorem State.updSlice_regs (s : State) (k : Nat) (f : SliceSt → SliceSt) : (s.updSlice k f).regs = s.regs := rfl
@[simp] theorem State.updSlice_mem (s : State) (k : Nat) (f : SliceSt → SliceSt) : (s.updSlice k f).mem = s.mem := rfl
@[simp] theorem State.updSlice_memPoison (s : State) (k : Nat) (f : SliceSt → SliceSt) : (s.updSlice k f).memPoison = s.memPoison := rfl
@[simp] theorem State.updSlice_memEpoch (s : State) (k : Nat) (f : SliceSt → SliceSt) : (s.updSlice k f).memEpoch = s.memEpoch := rfl
@[simp] theorem State.updSlice_rekeys (s : State) (k : Nat) (f : SliceSt → SliceSt) : (s.updSlice k f).rekeys = s.rekeys := rfl
@[simp] theorem State.updSlice_otp (s : State) (k : Nat) (f : SliceSt → SliceSt) : (s.updSlice k f).otp = s.otp := rfl
@[simp] theorem State.updSlice_id (s : State) (k : Nat) (f : SliceSt → SliceSt) : (s.updSlice k f).id = s.id := rfl
@[simp] theorem State.updSlice_clk (s : State) (k : Nat) (f : SliceSt → SliceSt) : (s.updSlice k f).clk = s.clk := rfl
@[simp] theorem State.updSlice_pat (s : State) (k : Nat) (f : SliceSt → SliceSt) : (s.updSlice k f).pat = s.pat := rfl
@[simp] theorem State.updSlice_harts (s : State) (k : Nat) (f : SliceSt → SliceSt) : (s.updSlice k f).harts = s.harts := rfl
@[simp] theorem State.updSlice_ports (s : State) (k : Nat) (f : SliceSt → SliceSt) : (s.updSlice k f).ports = s.ports := rfl
@[simp] theorem State.updSlice_range (s : State) (k : Nat) (f : SliceSt → SliceSt) : (s.updSlice k f).range = s.range := rfl
@[simp] theorem State.updSlice_gus (s : State) (k : Nat) (f : SliceSt → SliceSt) : (s.updSlice k f).gus = s.gus := rfl
@[simp] theorem State.updSlice_fences (s : State) (k : Nat) (f : SliceSt → SliceSt) : (s.updSlice k f).fences = s.fences := rfl
@[simp] theorem State.updSlice_mcs (s : State) (k : Nat) (f : SliceSt → SliceSt) : (s.updSlice k f).mcs = s.mcs := rfl
@[simp] theorem State.updSlice_epoch (s : State) (k : Nat) (f : SliceSt → SliceSt) : (s.updSlice k f).epoch = s.epoch := rfl
@[simp] theorem State.updSlice_trace (s : State) (k : Nat) (f : SliceSt → SliceSt) : (s.updSlice k f).trace = s.trace := rfl
@[simp] theorem State.updSlice_io (s : State) (k : Nat) (f : SliceSt → SliceSt) : (s.updSlice k f).io = s.io := rfl
@[simp] theorem State.updSlice_pock (s : State) (k : Nat) (f : SliceSt → SliceSt) : (s.updSlice k f).pock = s.pock := rfl
@[simp] theorem State.updSlice_net (s : State) (k : Nat) (f : SliceSt → SliceSt) : (s.updSlice k f).net = s.net := rfl
@[simp] theorem State.updSlice_boot (s : State) (k : Nat) (f : SliceSt → SliceSt) : (s.updSlice k f).boot = s.boot := rfl
@[simp] theorem State.updSlice_thm (s : State) (k : Nat) (f : SliceSt → SliceSt) : (s.updSlice k f).thm = s.thm := rfl
@[simp] theorem State.updSlice_pins (s : State) (k : Nat) (f : SliceSt → SliceSt) : (s.updSlice k f).pins = s.pins := rfl
@[simp] theorem State.updSlice_hrn (s : State) (k : Nat) (f : SliceSt → SliceSt) : (s.updSlice k f).hrn = s.hrn := rfl
@[simp] theorem State.updSlice_cnt (s : State) (k : Nat) (f : SliceSt → SliceSt) : (s.updSlice k f).cnt = s.cnt := rfl
@[simp] theorem State.updSlice_dbg (s : State) (k : Nat) (f : SliceSt → SliceSt) : (s.updSlice k f).dbg = s.dbg := rfl
@[simp] theorem State.updSlice_msi (s : State) (k : Nat) (f : SliceSt → SliceSt) : (s.updSlice k f).msi = s.msi := rfl
@[simp] theorem State.updSlice_msix (s : State) (k : Nat) (f : SliceSt → SliceSt) : (s.updSlice k f).msix = s.msix := rfl
@[simp] theorem State.updSlice_aplic (s : State) (k : Nat) (f : SliceSt → SliceSt) : (s.updSlice k f).aplic = s.aplic := rfl
@[simp] theorem State.updSlice_aplicReg (s : State) (k : Nat) (f : SliceSt → SliceSt) : (s.updSlice k f).aplicReg = s.aplicReg := rfl
@[simp] theorem State.updSlice_files (s : State) (k : Nat) (f : SliceSt → SliceSt) : (s.updSlice k f).files = s.files := rfl
@[simp] theorem State.updSlice_iommu (s : State) (k : Nat) (f : SliceSt → SliceSt) : (s.updSlice k f).iommu = s.iommu := rfl
@[simp] theorem State.updSlice_notes (s : State) (k : Nat) (f : SliceSt → SliceSt) : (s.updSlice k f).notes = s.notes := rfl
@[simp] theorem State.updSlice_errSeq (s : State) (k : Nat) (f : SliceSt → SliceSt) : (s.updSlice k f).errSeq = s.errSeq := rfl
@[simp] theorem State.updSlice_answers (s : State) (k : Nat) (f : SliceSt → SliceSt) : (s.updSlice k f).answers = s.answers := rfl

/-! ### updMc -/

@[simp] theorem State.updMc_pending (s : State) (k : Nat) (f : McSt → McSt) : (s.updMc k f).pending = s.pending := rfl
@[simp] theorem State.updMc_tape (s : State) (k : Nat) (f : McSt → McSt) : (s.updMc k f).tape = s.tape := rfl
@[simp] theorem State.updMc_freeCtr (s : State) (k : Nat) (f : McSt → McSt) : (s.updMc k f).freeCtr = s.freeCtr := rfl
@[simp] theorem State.updMc_regs (s : State) (k : Nat) (f : McSt → McSt) : (s.updMc k f).regs = s.regs := rfl
@[simp] theorem State.updMc_mem (s : State) (k : Nat) (f : McSt → McSt) : (s.updMc k f).mem = s.mem := rfl
@[simp] theorem State.updMc_memPoison (s : State) (k : Nat) (f : McSt → McSt) : (s.updMc k f).memPoison = s.memPoison := rfl
@[simp] theorem State.updMc_memEpoch (s : State) (k : Nat) (f : McSt → McSt) : (s.updMc k f).memEpoch = s.memEpoch := rfl
@[simp] theorem State.updMc_rekeys (s : State) (k : Nat) (f : McSt → McSt) : (s.updMc k f).rekeys = s.rekeys := rfl
@[simp] theorem State.updMc_otp (s : State) (k : Nat) (f : McSt → McSt) : (s.updMc k f).otp = s.otp := rfl
@[simp] theorem State.updMc_id (s : State) (k : Nat) (f : McSt → McSt) : (s.updMc k f).id = s.id := rfl
@[simp] theorem State.updMc_clk (s : State) (k : Nat) (f : McSt → McSt) : (s.updMc k f).clk = s.clk := rfl
@[simp] theorem State.updMc_pat (s : State) (k : Nat) (f : McSt → McSt) : (s.updMc k f).pat = s.pat := rfl
@[simp] theorem State.updMc_harts (s : State) (k : Nat) (f : McSt → McSt) : (s.updMc k f).harts = s.harts := rfl
@[simp] theorem State.updMc_ports (s : State) (k : Nat) (f : McSt → McSt) : (s.updMc k f).ports = s.ports := rfl
@[simp] theorem State.updMc_slices (s : State) (k : Nat) (f : McSt → McSt) : (s.updMc k f).slices = s.slices := rfl
@[simp] theorem State.updMc_range (s : State) (k : Nat) (f : McSt → McSt) : (s.updMc k f).range = s.range := rfl
@[simp] theorem State.updMc_gus (s : State) (k : Nat) (f : McSt → McSt) : (s.updMc k f).gus = s.gus := rfl
@[simp] theorem State.updMc_fences (s : State) (k : Nat) (f : McSt → McSt) : (s.updMc k f).fences = s.fences := rfl
@[simp] theorem State.updMc_epoch (s : State) (k : Nat) (f : McSt → McSt) : (s.updMc k f).epoch = s.epoch := rfl
@[simp] theorem State.updMc_trace (s : State) (k : Nat) (f : McSt → McSt) : (s.updMc k f).trace = s.trace := rfl
@[simp] theorem State.updMc_io (s : State) (k : Nat) (f : McSt → McSt) : (s.updMc k f).io = s.io := rfl
@[simp] theorem State.updMc_pock (s : State) (k : Nat) (f : McSt → McSt) : (s.updMc k f).pock = s.pock := rfl
@[simp] theorem State.updMc_net (s : State) (k : Nat) (f : McSt → McSt) : (s.updMc k f).net = s.net := rfl
@[simp] theorem State.updMc_boot (s : State) (k : Nat) (f : McSt → McSt) : (s.updMc k f).boot = s.boot := rfl
@[simp] theorem State.updMc_thm (s : State) (k : Nat) (f : McSt → McSt) : (s.updMc k f).thm = s.thm := rfl
@[simp] theorem State.updMc_pins (s : State) (k : Nat) (f : McSt → McSt) : (s.updMc k f).pins = s.pins := rfl
@[simp] theorem State.updMc_hrn (s : State) (k : Nat) (f : McSt → McSt) : (s.updMc k f).hrn = s.hrn := rfl
@[simp] theorem State.updMc_cnt (s : State) (k : Nat) (f : McSt → McSt) : (s.updMc k f).cnt = s.cnt := rfl
@[simp] theorem State.updMc_dbg (s : State) (k : Nat) (f : McSt → McSt) : (s.updMc k f).dbg = s.dbg := rfl
@[simp] theorem State.updMc_msi (s : State) (k : Nat) (f : McSt → McSt) : (s.updMc k f).msi = s.msi := rfl
@[simp] theorem State.updMc_msix (s : State) (k : Nat) (f : McSt → McSt) : (s.updMc k f).msix = s.msix := rfl
@[simp] theorem State.updMc_aplic (s : State) (k : Nat) (f : McSt → McSt) : (s.updMc k f).aplic = s.aplic := rfl
@[simp] theorem State.updMc_aplicReg (s : State) (k : Nat) (f : McSt → McSt) : (s.updMc k f).aplicReg = s.aplicReg := rfl
@[simp] theorem State.updMc_files (s : State) (k : Nat) (f : McSt → McSt) : (s.updMc k f).files = s.files := rfl
@[simp] theorem State.updMc_iommu (s : State) (k : Nat) (f : McSt → McSt) : (s.updMc k f).iommu = s.iommu := rfl
@[simp] theorem State.updMc_notes (s : State) (k : Nat) (f : McSt → McSt) : (s.updMc k f).notes = s.notes := rfl
@[simp] theorem State.updMc_errSeq (s : State) (k : Nat) (f : McSt → McSt) : (s.updMc k f).errSeq = s.errSeq := rfl
@[simp] theorem State.updMc_answers (s : State) (k : Nat) (f : McSt → McSt) : (s.updMc k f).answers = s.answers := rfl

/-! ### updFence -/

@[simp] theorem State.updFence_pending (s : State) (k : Nat) (f : FenceSt → FenceSt) : (s.updFence k f).pending = s.pending := rfl
@[simp] theorem State.updFence_tape (s : State) (k : Nat) (f : FenceSt → FenceSt) : (s.updFence k f).tape = s.tape := rfl
@[simp] theorem State.updFence_freeCtr (s : State) (k : Nat) (f : FenceSt → FenceSt) : (s.updFence k f).freeCtr = s.freeCtr := rfl
@[simp] theorem State.updFence_regs (s : State) (k : Nat) (f : FenceSt → FenceSt) : (s.updFence k f).regs = s.regs := rfl
@[simp] theorem State.updFence_mem (s : State) (k : Nat) (f : FenceSt → FenceSt) : (s.updFence k f).mem = s.mem := rfl
@[simp] theorem State.updFence_memPoison (s : State) (k : Nat) (f : FenceSt → FenceSt) : (s.updFence k f).memPoison = s.memPoison := rfl
@[simp] theorem State.updFence_memEpoch (s : State) (k : Nat) (f : FenceSt → FenceSt) : (s.updFence k f).memEpoch = s.memEpoch := rfl
@[simp] theorem State.updFence_rekeys (s : State) (k : Nat) (f : FenceSt → FenceSt) : (s.updFence k f).rekeys = s.rekeys := rfl
@[simp] theorem State.updFence_otp (s : State) (k : Nat) (f : FenceSt → FenceSt) : (s.updFence k f).otp = s.otp := rfl
@[simp] theorem State.updFence_id (s : State) (k : Nat) (f : FenceSt → FenceSt) : (s.updFence k f).id = s.id := rfl
@[simp] theorem State.updFence_clk (s : State) (k : Nat) (f : FenceSt → FenceSt) : (s.updFence k f).clk = s.clk := rfl
@[simp] theorem State.updFence_pat (s : State) (k : Nat) (f : FenceSt → FenceSt) : (s.updFence k f).pat = s.pat := rfl
@[simp] theorem State.updFence_harts (s : State) (k : Nat) (f : FenceSt → FenceSt) : (s.updFence k f).harts = s.harts := rfl
@[simp] theorem State.updFence_ports (s : State) (k : Nat) (f : FenceSt → FenceSt) : (s.updFence k f).ports = s.ports := rfl
@[simp] theorem State.updFence_slices (s : State) (k : Nat) (f : FenceSt → FenceSt) : (s.updFence k f).slices = s.slices := rfl
@[simp] theorem State.updFence_range (s : State) (k : Nat) (f : FenceSt → FenceSt) : (s.updFence k f).range = s.range := rfl
@[simp] theorem State.updFence_gus (s : State) (k : Nat) (f : FenceSt → FenceSt) : (s.updFence k f).gus = s.gus := rfl
@[simp] theorem State.updFence_mcs (s : State) (k : Nat) (f : FenceSt → FenceSt) : (s.updFence k f).mcs = s.mcs := rfl
@[simp] theorem State.updFence_epoch (s : State) (k : Nat) (f : FenceSt → FenceSt) : (s.updFence k f).epoch = s.epoch := rfl
@[simp] theorem State.updFence_trace (s : State) (k : Nat) (f : FenceSt → FenceSt) : (s.updFence k f).trace = s.trace := rfl
@[simp] theorem State.updFence_io (s : State) (k : Nat) (f : FenceSt → FenceSt) : (s.updFence k f).io = s.io := rfl
@[simp] theorem State.updFence_pock (s : State) (k : Nat) (f : FenceSt → FenceSt) : (s.updFence k f).pock = s.pock := rfl
@[simp] theorem State.updFence_net (s : State) (k : Nat) (f : FenceSt → FenceSt) : (s.updFence k f).net = s.net := rfl
@[simp] theorem State.updFence_boot (s : State) (k : Nat) (f : FenceSt → FenceSt) : (s.updFence k f).boot = s.boot := rfl
@[simp] theorem State.updFence_thm (s : State) (k : Nat) (f : FenceSt → FenceSt) : (s.updFence k f).thm = s.thm := rfl
@[simp] theorem State.updFence_pins (s : State) (k : Nat) (f : FenceSt → FenceSt) : (s.updFence k f).pins = s.pins := rfl
@[simp] theorem State.updFence_hrn (s : State) (k : Nat) (f : FenceSt → FenceSt) : (s.updFence k f).hrn = s.hrn := rfl
@[simp] theorem State.updFence_cnt (s : State) (k : Nat) (f : FenceSt → FenceSt) : (s.updFence k f).cnt = s.cnt := rfl
@[simp] theorem State.updFence_dbg (s : State) (k : Nat) (f : FenceSt → FenceSt) : (s.updFence k f).dbg = s.dbg := rfl
@[simp] theorem State.updFence_msi (s : State) (k : Nat) (f : FenceSt → FenceSt) : (s.updFence k f).msi = s.msi := rfl
@[simp] theorem State.updFence_msix (s : State) (k : Nat) (f : FenceSt → FenceSt) : (s.updFence k f).msix = s.msix := rfl
@[simp] theorem State.updFence_aplic (s : State) (k : Nat) (f : FenceSt → FenceSt) : (s.updFence k f).aplic = s.aplic := rfl
@[simp] theorem State.updFence_aplicReg (s : State) (k : Nat) (f : FenceSt → FenceSt) : (s.updFence k f).aplicReg = s.aplicReg := rfl
@[simp] theorem State.updFence_files (s : State) (k : Nat) (f : FenceSt → FenceSt) : (s.updFence k f).files = s.files := rfl
@[simp] theorem State.updFence_iommu (s : State) (k : Nat) (f : FenceSt → FenceSt) : (s.updFence k f).iommu = s.iommu := rfl
@[simp] theorem State.updFence_notes (s : State) (k : Nat) (f : FenceSt → FenceSt) : (s.updFence k f).notes = s.notes := rfl
@[simp] theorem State.updFence_errSeq (s : State) (k : Nat) (f : FenceSt → FenceSt) : (s.updFence k f).errSeq = s.errSeq := rfl
@[simp] theorem State.updFence_answers (s : State) (k : Nat) (f : FenceSt → FenceSt) : (s.updFence k f).answers = s.answers := rfl

/-! ### updPocket -/

@[simp] theorem State.updPocket_pending (s : State) (p : Nat) (f : PocketSt → PocketSt) : (s.updPocket p f).pending = s.pending := rfl
@[simp] theorem State.updPocket_tape (s : State) (p : Nat) (f : PocketSt → PocketSt) : (s.updPocket p f).tape = s.tape := rfl
@[simp] theorem State.updPocket_freeCtr (s : State) (p : Nat) (f : PocketSt → PocketSt) : (s.updPocket p f).freeCtr = s.freeCtr := rfl
@[simp] theorem State.updPocket_regs (s : State) (p : Nat) (f : PocketSt → PocketSt) : (s.updPocket p f).regs = s.regs := rfl
@[simp] theorem State.updPocket_mem (s : State) (p : Nat) (f : PocketSt → PocketSt) : (s.updPocket p f).mem = s.mem := rfl
@[simp] theorem State.updPocket_memPoison (s : State) (p : Nat) (f : PocketSt → PocketSt) : (s.updPocket p f).memPoison = s.memPoison := rfl
@[simp] theorem State.updPocket_memEpoch (s : State) (p : Nat) (f : PocketSt → PocketSt) : (s.updPocket p f).memEpoch = s.memEpoch := rfl
@[simp] theorem State.updPocket_rekeys (s : State) (p : Nat) (f : PocketSt → PocketSt) : (s.updPocket p f).rekeys = s.rekeys := rfl
@[simp] theorem State.updPocket_otp (s : State) (p : Nat) (f : PocketSt → PocketSt) : (s.updPocket p f).otp = s.otp := rfl
@[simp] theorem State.updPocket_id (s : State) (p : Nat) (f : PocketSt → PocketSt) : (s.updPocket p f).id = s.id := rfl
@[simp] theorem State.updPocket_clk (s : State) (p : Nat) (f : PocketSt → PocketSt) : (s.updPocket p f).clk = s.clk := rfl
@[simp] theorem State.updPocket_pat (s : State) (p : Nat) (f : PocketSt → PocketSt) : (s.updPocket p f).pat = s.pat := rfl
@[simp] theorem State.updPocket_harts (s : State) (p : Nat) (f : PocketSt → PocketSt) : (s.updPocket p f).harts = s.harts := rfl
@[simp] theorem State.updPocket_ports (s : State) (p : Nat) (f : PocketSt → PocketSt) : (s.updPocket p f).ports = s.ports := rfl
@[simp] theorem State.updPocket_slices (s : State) (p : Nat) (f : PocketSt → PocketSt) : (s.updPocket p f).slices = s.slices := rfl
@[simp] theorem State.updPocket_range (s : State) (p : Nat) (f : PocketSt → PocketSt) : (s.updPocket p f).range = s.range := rfl
@[simp] theorem State.updPocket_gus (s : State) (p : Nat) (f : PocketSt → PocketSt) : (s.updPocket p f).gus = s.gus := rfl
@[simp] theorem State.updPocket_fences (s : State) (p : Nat) (f : PocketSt → PocketSt) : (s.updPocket p f).fences = s.fences := rfl
@[simp] theorem State.updPocket_mcs (s : State) (p : Nat) (f : PocketSt → PocketSt) : (s.updPocket p f).mcs = s.mcs := rfl
@[simp] theorem State.updPocket_epoch (s : State) (p : Nat) (f : PocketSt → PocketSt) : (s.updPocket p f).epoch = s.epoch := rfl
@[simp] theorem State.updPocket_trace (s : State) (p : Nat) (f : PocketSt → PocketSt) : (s.updPocket p f).trace = s.trace := rfl
@[simp] theorem State.updPocket_io (s : State) (p : Nat) (f : PocketSt → PocketSt) : (s.updPocket p f).io = s.io := rfl
@[simp] theorem State.updPocket_net (s : State) (p : Nat) (f : PocketSt → PocketSt) : (s.updPocket p f).net = s.net := rfl
@[simp] theorem State.updPocket_boot (s : State) (p : Nat) (f : PocketSt → PocketSt) : (s.updPocket p f).boot = s.boot := rfl
@[simp] theorem State.updPocket_thm (s : State) (p : Nat) (f : PocketSt → PocketSt) : (s.updPocket p f).thm = s.thm := rfl
@[simp] theorem State.updPocket_pins (s : State) (p : Nat) (f : PocketSt → PocketSt) : (s.updPocket p f).pins = s.pins := rfl
@[simp] theorem State.updPocket_hrn (s : State) (p : Nat) (f : PocketSt → PocketSt) : (s.updPocket p f).hrn = s.hrn := rfl
@[simp] theorem State.updPocket_cnt (s : State) (p : Nat) (f : PocketSt → PocketSt) : (s.updPocket p f).cnt = s.cnt := rfl
@[simp] theorem State.updPocket_dbg (s : State) (p : Nat) (f : PocketSt → PocketSt) : (s.updPocket p f).dbg = s.dbg := rfl
@[simp] theorem State.updPocket_msi (s : State) (p : Nat) (f : PocketSt → PocketSt) : (s.updPocket p f).msi = s.msi := rfl
@[simp] theorem State.updPocket_msix (s : State) (p : Nat) (f : PocketSt → PocketSt) : (s.updPocket p f).msix = s.msix := rfl
@[simp] theorem State.updPocket_aplic (s : State) (p : Nat) (f : PocketSt → PocketSt) : (s.updPocket p f).aplic = s.aplic := rfl
@[simp] theorem State.updPocket_aplicReg (s : State) (p : Nat) (f : PocketSt → PocketSt) : (s.updPocket p f).aplicReg = s.aplicReg := rfl
@[simp] theorem State.updPocket_files (s : State) (p : Nat) (f : PocketSt → PocketSt) : (s.updPocket p f).files = s.files := rfl
@[simp] theorem State.updPocket_iommu (s : State) (p : Nat) (f : PocketSt → PocketSt) : (s.updPocket p f).iommu = s.iommu := rfl
@[simp] theorem State.updPocket_notes (s : State) (p : Nat) (f : PocketSt → PocketSt) : (s.updPocket p f).notes = s.notes := rfl
@[simp] theorem State.updPocket_errSeq (s : State) (p : Nat) (f : PocketSt → PocketSt) : (s.updPocket p f).errSeq = s.errSeq := rfl
@[simp] theorem State.updPocket_answers (s : State) (p : Nat) (f : PocketSt → PocketSt) : (s.updPocket p f).answers = s.answers := rfl

/-! ### setByte -/

@[simp] theorem State.setByte_pending (s : State) (a : Nat) (b : Byte) : (s.setByte a b).pending = s.pending := rfl
@[simp] theorem State.setByte_tape (s : State) (a : Nat) (b : Byte) : (s.setByte a b).tape = s.tape := rfl
@[simp] theorem State.setByte_freeCtr (s : State) (a : Nat) (b : Byte) : (s.setByte a b).freeCtr = s.freeCtr := rfl
@[simp] theorem State.setByte_regs (s : State) (a : Nat) (b : Byte) : (s.setByte a b).regs = s.regs := rfl
@[simp] theorem State.setByte_memPoison (s : State) (a : Nat) (b : Byte) : (s.setByte a b).memPoison = s.memPoison := rfl
@[simp] theorem State.setByte_memEpoch (s : State) (a : Nat) (b : Byte) : (s.setByte a b).memEpoch = s.memEpoch := rfl
@[simp] theorem State.setByte_rekeys (s : State) (a : Nat) (b : Byte) : (s.setByte a b).rekeys = s.rekeys := rfl
@[simp] theorem State.setByte_otp (s : State) (a : Nat) (b : Byte) : (s.setByte a b).otp = s.otp := rfl
@[simp] theorem State.setByte_id (s : State) (a : Nat) (b : Byte) : (s.setByte a b).id = s.id := rfl
@[simp] theorem State.setByte_clk (s : State) (a : Nat) (b : Byte) : (s.setByte a b).clk = s.clk := rfl
@[simp] theorem State.setByte_pat (s : State) (a : Nat) (b : Byte) : (s.setByte a b).pat = s.pat := rfl
@[simp] theorem State.setByte_harts (s : State) (a : Nat) (b : Byte) : (s.setByte a b).harts = s.harts := rfl
@[simp] theorem State.setByte_ports (s : State) (a : Nat) (b : Byte) : (s.setByte a b).ports = s.ports := rfl
@[simp] theorem State.setByte_slices (s : State) (a : Nat) (b : Byte) : (s.setByte a b).slices = s.slices := rfl
@[simp] theorem State.setByte_range (s : State) (a : Nat) (b : Byte) : (s.setByte a b).range = s.range := rfl
@[simp] theorem State.setByte_gus (s : State) (a : Nat) (b : Byte) : (s.setByte a b).gus = s.gus := rfl
@[simp] theorem State.setByte_fences (s : State) (a : Nat) (b : Byte) : (s.setByte a b).fences = s.fences := rfl
@[simp] theorem State.setByte_mcs (s : State) (a : Nat) (b : Byte) : (s.setByte a b).mcs = s.mcs := rfl
@[simp] theorem State.setByte_epoch (s : State) (a : Nat) (b : Byte) : (s.setByte a b).epoch = s.epoch := rfl
@[simp] theorem State.setByte_trace (s : State) (a : Nat) (b : Byte) : (s.setByte a b).trace = s.trace := rfl
@[simp] theorem State.setByte_io (s : State) (a : Nat) (b : Byte) : (s.setByte a b).io = s.io := rfl
@[simp] theorem State.setByte_pock (s : State) (a : Nat) (b : Byte) : (s.setByte a b).pock = s.pock := rfl
@[simp] theorem State.setByte_net (s : State) (a : Nat) (b : Byte) : (s.setByte a b).net = s.net := rfl
@[simp] theorem State.setByte_boot (s : State) (a : Nat) (b : Byte) : (s.setByte a b).boot = s.boot := rfl
@[simp] theorem State.setByte_thm (s : State) (a : Nat) (b : Byte) : (s.setByte a b).thm = s.thm := rfl
@[simp] theorem State.setByte_pins (s : State) (a : Nat) (b : Byte) : (s.setByte a b).pins = s.pins := rfl
@[simp] theorem State.setByte_hrn (s : State) (a : Nat) (b : Byte) : (s.setByte a b).hrn = s.hrn := rfl
@[simp] theorem State.setByte_cnt (s : State) (a : Nat) (b : Byte) : (s.setByte a b).cnt = s.cnt := rfl
@[simp] theorem State.setByte_dbg (s : State) (a : Nat) (b : Byte) : (s.setByte a b).dbg = s.dbg := rfl
@[simp] theorem State.setByte_msi (s : State) (a : Nat) (b : Byte) : (s.setByte a b).msi = s.msi := rfl
@[simp] theorem State.setByte_msix (s : State) (a : Nat) (b : Byte) : (s.setByte a b).msix = s.msix := rfl
@[simp] theorem State.setByte_aplic (s : State) (a : Nat) (b : Byte) : (s.setByte a b).aplic = s.aplic := rfl
@[simp] theorem State.setByte_aplicReg (s : State) (a : Nat) (b : Byte) : (s.setByte a b).aplicReg = s.aplicReg := rfl
@[simp] theorem State.setByte_files (s : State) (a : Nat) (b : Byte) : (s.setByte a b).files = s.files := rfl
@[simp] theorem State.setByte_iommu (s : State) (a : Nat) (b : Byte) : (s.setByte a b).iommu = s.iommu := rfl
@[simp] theorem State.setByte_notes (s : State) (a : Nat) (b : Byte) : (s.setByte a b).notes = s.notes := rfl
@[simp] theorem State.setByte_errSeq (s : State) (a : Nat) (b : Byte) : (s.setByte a b).errSeq = s.errSeq := rfl
@[simp] theorem State.setByte_answers (s : State) (a : Nat) (b : Byte) : (s.setByte a b).answers = s.answers := rfl

/-! ### note -/

@[simp] theorem State.note_pending (s : State) (n : KNote) : (s.note n).pending = s.pending := rfl
@[simp] theorem State.note_tape (s : State) (n : KNote) : (s.note n).tape = s.tape := rfl
@[simp] theorem State.note_freeCtr (s : State) (n : KNote) : (s.note n).freeCtr = s.freeCtr := rfl
@[simp] theorem State.note_regs (s : State) (n : KNote) : (s.note n).regs = s.regs := rfl
@[simp] theorem State.note_mem (s : State) (n : KNote) : (s.note n).mem = s.mem := rfl
@[simp] theorem State.note_memPoison (s : State) (n : KNote) : (s.note n).memPoison = s.memPoison := rfl
@[simp] theorem State.note_memEpoch (s : State) (n : KNote) : (s.note n).memEpoch = s.memEpoch := rfl
@[simp] theorem State.note_rekeys (s : State) (n : KNote) : (s.note n).rekeys = s.rekeys := rfl
@[simp] theorem State.note_otp (s : State) (n : KNote) : (s.note n).otp = s.otp := rfl
@[simp] theorem State.note_id (s : State) (n : KNote) : (s.note n).id = s.id := rfl
@[simp] theorem State.note_clk (s : State) (n : KNote) : (s.note n).clk = s.clk := rfl
@[simp] theorem State.note_pat (s : State) (n : KNote) : (s.note n).pat = s.pat := rfl
@[simp] theorem State.note_harts (s : State) (n : KNote) : (s.note n).harts = s.harts := rfl
@[simp] theorem State.note_ports (s : State) (n : KNote) : (s.note n).ports = s.ports := rfl
@[simp] theorem State.note_slices (s : State) (n : KNote) : (s.note n).slices = s.slices := rfl
@[simp] theorem State.note_range (s : State) (n : KNote) : (s.note n).range = s.range := rfl
@[simp] theorem State.note_gus (s : State) (n : KNote) : (s.note n).gus = s.gus := rfl
@[simp] theorem State.note_fences (s : State) (n : KNote) : (s.note n).fences = s.fences := rfl
@[simp] theorem State.note_mcs (s : State) (n : KNote) : (s.note n).mcs = s.mcs := rfl
@[simp] theorem State.note_epoch (s : State) (n : KNote) : (s.note n).epoch = s.epoch := rfl
@[simp] theorem State.note_trace (s : State) (n : KNote) : (s.note n).trace = s.trace := rfl
@[simp] theorem State.note_io (s : State) (n : KNote) : (s.note n).io = s.io := rfl
@[simp] theorem State.note_pock (s : State) (n : KNote) : (s.note n).pock = s.pock := rfl
@[simp] theorem State.note_net (s : State) (n : KNote) : (s.note n).net = s.net := rfl
@[simp] theorem State.note_boot (s : State) (n : KNote) : (s.note n).boot = s.boot := rfl
@[simp] theorem State.note_thm (s : State) (n : KNote) : (s.note n).thm = s.thm := rfl
@[simp] theorem State.note_pins (s : State) (n : KNote) : (s.note n).pins = s.pins := rfl
@[simp] theorem State.note_hrn (s : State) (n : KNote) : (s.note n).hrn = s.hrn := rfl
@[simp] theorem State.note_cnt (s : State) (n : KNote) : (s.note n).cnt = s.cnt := rfl
@[simp] theorem State.note_dbg (s : State) (n : KNote) : (s.note n).dbg = s.dbg := rfl
@[simp] theorem State.note_msi (s : State) (n : KNote) : (s.note n).msi = s.msi := rfl
@[simp] theorem State.note_msix (s : State) (n : KNote) : (s.note n).msix = s.msix := rfl
@[simp] theorem State.note_aplic (s : State) (n : KNote) : (s.note n).aplic = s.aplic := rfl
@[simp] theorem State.note_aplicReg (s : State) (n : KNote) : (s.note n).aplicReg = s.aplicReg := rfl
@[simp] theorem State.note_files (s : State) (n : KNote) : (s.note n).files = s.files := rfl
@[simp] theorem State.note_iommu (s : State) (n : KNote) : (s.note n).iommu = s.iommu := rfl
@[simp] theorem State.note_errSeq (s : State) (n : KNote) : (s.note n).errSeq = s.errSeq := rfl
@[simp] theorem State.note_answers (s : State) (n : KNote) : (s.note n).answers = s.answers := rfl

/-! ### arrive -/

@[simp] theorem State.arrive_pending (s : State) (f : Pkt → Bool) : (s.arrive f).pending = s.pending := rfl
@[simp] theorem State.arrive_tape (s : State) (f : Pkt → Bool) : (s.arrive f).tape = s.tape := rfl
@[simp] theorem State.arrive_freeCtr (s : State) (f : Pkt → Bool) : (s.arrive f).freeCtr = s.freeCtr := rfl
@[simp] theorem State.arrive_regs (s : State) (f : Pkt → Bool) : (s.arrive f).regs = s.regs := rfl
@[simp] theorem State.arrive_mem (s : State) (f : Pkt → Bool) : (s.arrive f).mem = s.mem := rfl
@[simp] theorem State.arrive_memPoison (s : State) (f : Pkt → Bool) : (s.arrive f).memPoison = s.memPoison := rfl
@[simp] theorem State.arrive_memEpoch (s : State) (f : Pkt → Bool) : (s.arrive f).memEpoch = s.memEpoch := rfl
@[simp] theorem State.arrive_rekeys (s : State) (f : Pkt → Bool) : (s.arrive f).rekeys = s.rekeys := rfl
@[simp] theorem State.arrive_otp (s : State) (f : Pkt → Bool) : (s.arrive f).otp = s.otp := rfl
@[simp] theorem State.arrive_id (s : State) (f : Pkt → Bool) : (s.arrive f).id = s.id := rfl
@[simp] theorem State.arrive_clk (s : State) (f : Pkt → Bool) : (s.arrive f).clk = s.clk := rfl
@[simp] theorem State.arrive_pat (s : State) (f : Pkt → Bool) : (s.arrive f).pat = s.pat := rfl
@[simp] theorem State.arrive_harts (s : State) (f : Pkt → Bool) : (s.arrive f).harts = s.harts := rfl
@[simp] theorem State.arrive_ports (s : State) (f : Pkt → Bool) : (s.arrive f).ports = s.ports := rfl
@[simp] theorem State.arrive_slices (s : State) (f : Pkt → Bool) : (s.arrive f).slices = s.slices := rfl
@[simp] theorem State.arrive_range (s : State) (f : Pkt → Bool) : (s.arrive f).range = s.range := rfl
@[simp] theorem State.arrive_gus (s : State) (f : Pkt → Bool) : (s.arrive f).gus = s.gus := rfl
@[simp] theorem State.arrive_fences (s : State) (f : Pkt → Bool) : (s.arrive f).fences = s.fences := rfl
@[simp] theorem State.arrive_mcs (s : State) (f : Pkt → Bool) : (s.arrive f).mcs = s.mcs := rfl
@[simp] theorem State.arrive_epoch (s : State) (f : Pkt → Bool) : (s.arrive f).epoch = s.epoch := rfl
@[simp] theorem State.arrive_trace (s : State) (f : Pkt → Bool) : (s.arrive f).trace = s.trace := rfl
@[simp] theorem State.arrive_io (s : State) (f : Pkt → Bool) : (s.arrive f).io = s.io := rfl
@[simp] theorem State.arrive_pock (s : State) (f : Pkt → Bool) : (s.arrive f).pock = s.pock := rfl
@[simp] theorem State.arrive_boot (s : State) (f : Pkt → Bool) : (s.arrive f).boot = s.boot := rfl
@[simp] theorem State.arrive_thm (s : State) (f : Pkt → Bool) : (s.arrive f).thm = s.thm := rfl
@[simp] theorem State.arrive_pins (s : State) (f : Pkt → Bool) : (s.arrive f).pins = s.pins := rfl
@[simp] theorem State.arrive_hrn (s : State) (f : Pkt → Bool) : (s.arrive f).hrn = s.hrn := rfl
@[simp] theorem State.arrive_cnt (s : State) (f : Pkt → Bool) : (s.arrive f).cnt = s.cnt := rfl
@[simp] theorem State.arrive_dbg (s : State) (f : Pkt → Bool) : (s.arrive f).dbg = s.dbg := rfl
@[simp] theorem State.arrive_msi (s : State) (f : Pkt → Bool) : (s.arrive f).msi = s.msi := rfl
@[simp] theorem State.arrive_msix (s : State) (f : Pkt → Bool) : (s.arrive f).msix = s.msix := rfl
@[simp] theorem State.arrive_aplic (s : State) (f : Pkt → Bool) : (s.arrive f).aplic = s.aplic := rfl
@[simp] theorem State.arrive_aplicReg (s : State) (f : Pkt → Bool) : (s.arrive f).aplicReg = s.aplicReg := rfl
@[simp] theorem State.arrive_files (s : State) (f : Pkt → Bool) : (s.arrive f).files = s.files := rfl
@[simp] theorem State.arrive_iommu (s : State) (f : Pkt → Bool) : (s.arrive f).iommu = s.iommu := rfl
@[simp] theorem State.arrive_notes (s : State) (f : Pkt → Bool) : (s.arrive f).notes = s.notes := rfl
@[simp] theorem State.arrive_errSeq (s : State) (f : Pkt → Bool) : (s.arrive f).errSeq = s.errSeq := rfl
@[simp] theorem State.arrive_answers (s : State) (f : Pkt → Bool) : (s.arrive f).answers = s.answers := rfl

/-! ### reply -/

@[simp] theorem State.reply_pending (s : State) (a : Agent) (r : Resp) (v : LineData) : (s.reply a r v).pending = s.pending := rfl
@[simp] theorem State.reply_tape (s : State) (a : Agent) (r : Resp) (v : LineData) : (s.reply a r v).tape = s.tape := rfl
@[simp] theorem State.reply_freeCtr (s : State) (a : Agent) (r : Resp) (v : LineData) : (s.reply a r v).freeCtr = s.freeCtr := rfl
@[simp] theorem State.reply_regs (s : State) (a : Agent) (r : Resp) (v : LineData) : (s.reply a r v).regs = s.regs := rfl
@[simp] theorem State.reply_mem (s : State) (a : Agent) (r : Resp) (v : LineData) : (s.reply a r v).mem = s.mem := rfl
@[simp] theorem State.reply_memPoison (s : State) (a : Agent) (r : Resp) (v : LineData) : (s.reply a r v).memPoison = s.memPoison := rfl
@[simp] theorem State.reply_memEpoch (s : State) (a : Agent) (r : Resp) (v : LineData) : (s.reply a r v).memEpoch = s.memEpoch := rfl
@[simp] theorem State.reply_rekeys (s : State) (a : Agent) (r : Resp) (v : LineData) : (s.reply a r v).rekeys = s.rekeys := rfl
@[simp] theorem State.reply_otp (s : State) (a : Agent) (r : Resp) (v : LineData) : (s.reply a r v).otp = s.otp := rfl
@[simp] theorem State.reply_id (s : State) (a : Agent) (r : Resp) (v : LineData) : (s.reply a r v).id = s.id := rfl
@[simp] theorem State.reply_clk (s : State) (a : Agent) (r : Resp) (v : LineData) : (s.reply a r v).clk = s.clk := rfl
@[simp] theorem State.reply_pat (s : State) (a : Agent) (r : Resp) (v : LineData) : (s.reply a r v).pat = s.pat := rfl
@[simp] theorem State.reply_harts (s : State) (a : Agent) (r : Resp) (v : LineData) : (s.reply a r v).harts = s.harts := rfl
@[simp] theorem State.reply_ports (s : State) (a : Agent) (r : Resp) (v : LineData) : (s.reply a r v).ports = s.ports := rfl
@[simp] theorem State.reply_slices (s : State) (a : Agent) (r : Resp) (v : LineData) : (s.reply a r v).slices = s.slices := rfl
@[simp] theorem State.reply_range (s : State) (a : Agent) (r : Resp) (v : LineData) : (s.reply a r v).range = s.range := rfl
@[simp] theorem State.reply_gus (s : State) (a : Agent) (r : Resp) (v : LineData) : (s.reply a r v).gus = s.gus := rfl
@[simp] theorem State.reply_fences (s : State) (a : Agent) (r : Resp) (v : LineData) : (s.reply a r v).fences = s.fences := rfl
@[simp] theorem State.reply_mcs (s : State) (a : Agent) (r : Resp) (v : LineData) : (s.reply a r v).mcs = s.mcs := rfl
@[simp] theorem State.reply_epoch (s : State) (a : Agent) (r : Resp) (v : LineData) : (s.reply a r v).epoch = s.epoch := rfl
@[simp] theorem State.reply_trace (s : State) (a : Agent) (r : Resp) (v : LineData) : (s.reply a r v).trace = s.trace := rfl
@[simp] theorem State.reply_io (s : State) (a : Agent) (r : Resp) (v : LineData) : (s.reply a r v).io = s.io := rfl
@[simp] theorem State.reply_pock (s : State) (a : Agent) (r : Resp) (v : LineData) : (s.reply a r v).pock = s.pock := rfl
@[simp] theorem State.reply_net (s : State) (a : Agent) (r : Resp) (v : LineData) : (s.reply a r v).net = s.net := rfl
@[simp] theorem State.reply_boot (s : State) (a : Agent) (r : Resp) (v : LineData) : (s.reply a r v).boot = s.boot := rfl
@[simp] theorem State.reply_thm (s : State) (a : Agent) (r : Resp) (v : LineData) : (s.reply a r v).thm = s.thm := rfl
@[simp] theorem State.reply_pins (s : State) (a : Agent) (r : Resp) (v : LineData) : (s.reply a r v).pins = s.pins := rfl
@[simp] theorem State.reply_hrn (s : State) (a : Agent) (r : Resp) (v : LineData) : (s.reply a r v).hrn = s.hrn := rfl
@[simp] theorem State.reply_cnt (s : State) (a : Agent) (r : Resp) (v : LineData) : (s.reply a r v).cnt = s.cnt := rfl
@[simp] theorem State.reply_dbg (s : State) (a : Agent) (r : Resp) (v : LineData) : (s.reply a r v).dbg = s.dbg := rfl
@[simp] theorem State.reply_msi (s : State) (a : Agent) (r : Resp) (v : LineData) : (s.reply a r v).msi = s.msi := rfl
@[simp] theorem State.reply_msix (s : State) (a : Agent) (r : Resp) (v : LineData) : (s.reply a r v).msix = s.msix := rfl
@[simp] theorem State.reply_aplic (s : State) (a : Agent) (r : Resp) (v : LineData) : (s.reply a r v).aplic = s.aplic := rfl
@[simp] theorem State.reply_aplicReg (s : State) (a : Agent) (r : Resp) (v : LineData) : (s.reply a r v).aplicReg = s.aplicReg := rfl
@[simp] theorem State.reply_files (s : State) (a : Agent) (r : Resp) (v : LineData) : (s.reply a r v).files = s.files := rfl
@[simp] theorem State.reply_iommu (s : State) (a : Agent) (r : Resp) (v : LineData) : (s.reply a r v).iommu = s.iommu := rfl
@[simp] theorem State.reply_notes (s : State) (a : Agent) (r : Resp) (v : LineData) : (s.reply a r v).notes = s.notes := rfl
@[simp] theorem State.reply_errSeq (s : State) (a : Agent) (r : Resp) (v : LineData) : (s.reply a r v).errSeq = s.errSeq := rfl

/-! ### updGus -/

@[simp] theorem State.updGus_pending (s : State) (e : GusEnd) (f : GusSt → GusSt) : (s.updGus e f).pending = s.pending := rfl
@[simp] theorem State.updGus_tape (s : State) (e : GusEnd) (f : GusSt → GusSt) : (s.updGus e f).tape = s.tape := rfl
@[simp] theorem State.updGus_freeCtr (s : State) (e : GusEnd) (f : GusSt → GusSt) : (s.updGus e f).freeCtr = s.freeCtr := rfl
@[simp] theorem State.updGus_regs (s : State) (e : GusEnd) (f : GusSt → GusSt) : (s.updGus e f).regs = s.regs := rfl
@[simp] theorem State.updGus_mem (s : State) (e : GusEnd) (f : GusSt → GusSt) : (s.updGus e f).mem = s.mem := rfl
@[simp] theorem State.updGus_memPoison (s : State) (e : GusEnd) (f : GusSt → GusSt) : (s.updGus e f).memPoison = s.memPoison := rfl
@[simp] theorem State.updGus_memEpoch (s : State) (e : GusEnd) (f : GusSt → GusSt) : (s.updGus e f).memEpoch = s.memEpoch := rfl
@[simp] theorem State.updGus_rekeys (s : State) (e : GusEnd) (f : GusSt → GusSt) : (s.updGus e f).rekeys = s.rekeys := rfl
@[simp] theorem State.updGus_otp (s : State) (e : GusEnd) (f : GusSt → GusSt) : (s.updGus e f).otp = s.otp := rfl
@[simp] theorem State.updGus_id (s : State) (e : GusEnd) (f : GusSt → GusSt) : (s.updGus e f).id = s.id := rfl
@[simp] theorem State.updGus_clk (s : State) (e : GusEnd) (f : GusSt → GusSt) : (s.updGus e f).clk = s.clk := rfl
@[simp] theorem State.updGus_pat (s : State) (e : GusEnd) (f : GusSt → GusSt) : (s.updGus e f).pat = s.pat := rfl
@[simp] theorem State.updGus_harts (s : State) (e : GusEnd) (f : GusSt → GusSt) : (s.updGus e f).harts = s.harts := rfl
@[simp] theorem State.updGus_ports (s : State) (e : GusEnd) (f : GusSt → GusSt) : (s.updGus e f).ports = s.ports := rfl
@[simp] theorem State.updGus_slices (s : State) (e : GusEnd) (f : GusSt → GusSt) : (s.updGus e f).slices = s.slices := rfl
@[simp] theorem State.updGus_range (s : State) (e : GusEnd) (f : GusSt → GusSt) : (s.updGus e f).range = s.range := rfl
@[simp] theorem State.updGus_fences (s : State) (e : GusEnd) (f : GusSt → GusSt) : (s.updGus e f).fences = s.fences := rfl
@[simp] theorem State.updGus_mcs (s : State) (e : GusEnd) (f : GusSt → GusSt) : (s.updGus e f).mcs = s.mcs := rfl
@[simp] theorem State.updGus_epoch (s : State) (e : GusEnd) (f : GusSt → GusSt) : (s.updGus e f).epoch = s.epoch := rfl
@[simp] theorem State.updGus_trace (s : State) (e : GusEnd) (f : GusSt → GusSt) : (s.updGus e f).trace = s.trace := rfl
@[simp] theorem State.updGus_io (s : State) (e : GusEnd) (f : GusSt → GusSt) : (s.updGus e f).io = s.io := rfl
@[simp] theorem State.updGus_pock (s : State) (e : GusEnd) (f : GusSt → GusSt) : (s.updGus e f).pock = s.pock := rfl
@[simp] theorem State.updGus_net (s : State) (e : GusEnd) (f : GusSt → GusSt) : (s.updGus e f).net = s.net := rfl
@[simp] theorem State.updGus_boot (s : State) (e : GusEnd) (f : GusSt → GusSt) : (s.updGus e f).boot = s.boot := rfl
@[simp] theorem State.updGus_thm (s : State) (e : GusEnd) (f : GusSt → GusSt) : (s.updGus e f).thm = s.thm := rfl
@[simp] theorem State.updGus_pins (s : State) (e : GusEnd) (f : GusSt → GusSt) : (s.updGus e f).pins = s.pins := rfl
@[simp] theorem State.updGus_hrn (s : State) (e : GusEnd) (f : GusSt → GusSt) : (s.updGus e f).hrn = s.hrn := rfl
@[simp] theorem State.updGus_cnt (s : State) (e : GusEnd) (f : GusSt → GusSt) : (s.updGus e f).cnt = s.cnt := rfl
@[simp] theorem State.updGus_dbg (s : State) (e : GusEnd) (f : GusSt → GusSt) : (s.updGus e f).dbg = s.dbg := rfl
@[simp] theorem State.updGus_msi (s : State) (e : GusEnd) (f : GusSt → GusSt) : (s.updGus e f).msi = s.msi := rfl
@[simp] theorem State.updGus_msix (s : State) (e : GusEnd) (f : GusSt → GusSt) : (s.updGus e f).msix = s.msix := rfl
@[simp] theorem State.updGus_aplic (s : State) (e : GusEnd) (f : GusSt → GusSt) : (s.updGus e f).aplic = s.aplic := rfl
@[simp] theorem State.updGus_aplicReg (s : State) (e : GusEnd) (f : GusSt → GusSt) : (s.updGus e f).aplicReg = s.aplicReg := rfl
@[simp] theorem State.updGus_files (s : State) (e : GusEnd) (f : GusSt → GusSt) : (s.updGus e f).files = s.files := rfl
@[simp] theorem State.updGus_iommu (s : State) (e : GusEnd) (f : GusSt → GusSt) : (s.updGus e f).iommu = s.iommu := rfl
@[simp] theorem State.updGus_notes (s : State) (e : GusEnd) (f : GusSt → GusSt) : (s.updGus e f).notes = s.notes := rfl
@[simp] theorem State.updGus_errSeq (s : State) (e : GusEnd) (f : GusSt → GusSt) : (s.updGus e f).errSeq = s.errSeq := rfl
@[simp] theorem State.updGus_answers (s : State) (e : GusEnd) (f : GusSt → GusSt) : (s.updGus e f).answers = s.answers := rfl

/-! ### updHport -/

@[simp] theorem State.updHport_pending (s : State) (k : Nat) (f : HPort → HPort) : (s.updHport k f).pending = s.pending := rfl
@[simp] theorem State.updHport_tape (s : State) (k : Nat) (f : HPort → HPort) : (s.updHport k f).tape = s.tape := rfl
@[simp] theorem State.updHport_freeCtr (s : State) (k : Nat) (f : HPort → HPort) : (s.updHport k f).freeCtr = s.freeCtr := rfl
@[simp] theorem State.updHport_regs (s : State) (k : Nat) (f : HPort → HPort) : (s.updHport k f).regs = s.regs := rfl
@[simp] theorem State.updHport_mem (s : State) (k : Nat) (f : HPort → HPort) : (s.updHport k f).mem = s.mem := rfl
@[simp] theorem State.updHport_memPoison (s : State) (k : Nat) (f : HPort → HPort) : (s.updHport k f).memPoison = s.memPoison := rfl
@[simp] theorem State.updHport_memEpoch (s : State) (k : Nat) (f : HPort → HPort) : (s.updHport k f).memEpoch = s.memEpoch := rfl
@[simp] theorem State.updHport_rekeys (s : State) (k : Nat) (f : HPort → HPort) : (s.updHport k f).rekeys = s.rekeys := rfl
@[simp] theorem State.updHport_otp (s : State) (k : Nat) (f : HPort → HPort) : (s.updHport k f).otp = s.otp := rfl
@[simp] theorem State.updHport_id (s : State) (k : Nat) (f : HPort → HPort) : (s.updHport k f).id = s.id := rfl
@[simp] theorem State.updHport_clk (s : State) (k : Nat) (f : HPort → HPort) : (s.updHport k f).clk = s.clk := rfl
@[simp] theorem State.updHport_pat (s : State) (k : Nat) (f : HPort → HPort) : (s.updHport k f).pat = s.pat := rfl
@[simp] theorem State.updHport_harts (s : State) (k : Nat) (f : HPort → HPort) : (s.updHport k f).harts = s.harts := rfl
@[simp] theorem State.updHport_ports (s : State) (k : Nat) (f : HPort → HPort) : (s.updHport k f).ports = s.ports := rfl
@[simp] theorem State.updHport_slices (s : State) (k : Nat) (f : HPort → HPort) : (s.updHport k f).slices = s.slices := rfl
@[simp] theorem State.updHport_range (s : State) (k : Nat) (f : HPort → HPort) : (s.updHport k f).range = s.range := rfl
@[simp] theorem State.updHport_gus (s : State) (k : Nat) (f : HPort → HPort) : (s.updHport k f).gus = s.gus := rfl
@[simp] theorem State.updHport_fences (s : State) (k : Nat) (f : HPort → HPort) : (s.updHport k f).fences = s.fences := rfl
@[simp] theorem State.updHport_mcs (s : State) (k : Nat) (f : HPort → HPort) : (s.updHport k f).mcs = s.mcs := rfl
@[simp] theorem State.updHport_epoch (s : State) (k : Nat) (f : HPort → HPort) : (s.updHport k f).epoch = s.epoch := rfl
@[simp] theorem State.updHport_trace (s : State) (k : Nat) (f : HPort → HPort) : (s.updHport k f).trace = s.trace := rfl
@[simp] theorem State.updHport_io (s : State) (k : Nat) (f : HPort → HPort) : (s.updHport k f).io = s.io := rfl
@[simp] theorem State.updHport_pock (s : State) (k : Nat) (f : HPort → HPort) : (s.updHport k f).pock = s.pock := rfl
@[simp] theorem State.updHport_net (s : State) (k : Nat) (f : HPort → HPort) : (s.updHport k f).net = s.net := rfl
@[simp] theorem State.updHport_boot (s : State) (k : Nat) (f : HPort → HPort) : (s.updHport k f).boot = s.boot := rfl
@[simp] theorem State.updHport_thm (s : State) (k : Nat) (f : HPort → HPort) : (s.updHport k f).thm = s.thm := rfl
@[simp] theorem State.updHport_pins (s : State) (k : Nat) (f : HPort → HPort) : (s.updHport k f).pins = s.pins := rfl
@[simp] theorem State.updHport_cnt (s : State) (k : Nat) (f : HPort → HPort) : (s.updHport k f).cnt = s.cnt := rfl
@[simp] theorem State.updHport_dbg (s : State) (k : Nat) (f : HPort → HPort) : (s.updHport k f).dbg = s.dbg := rfl
@[simp] theorem State.updHport_msi (s : State) (k : Nat) (f : HPort → HPort) : (s.updHport k f).msi = s.msi := rfl
@[simp] theorem State.updHport_msix (s : State) (k : Nat) (f : HPort → HPort) : (s.updHport k f).msix = s.msix := rfl
@[simp] theorem State.updHport_aplic (s : State) (k : Nat) (f : HPort → HPort) : (s.updHport k f).aplic = s.aplic := rfl
@[simp] theorem State.updHport_aplicReg (s : State) (k : Nat) (f : HPort → HPort) : (s.updHport k f).aplicReg = s.aplicReg := rfl
@[simp] theorem State.updHport_files (s : State) (k : Nat) (f : HPort → HPort) : (s.updHport k f).files = s.files := rfl
@[simp] theorem State.updHport_iommu (s : State) (k : Nat) (f : HPort → HPort) : (s.updHport k f).iommu = s.iommu := rfl
@[simp] theorem State.updHport_notes (s : State) (k : Nat) (f : HPort → HPort) : (s.updHport k f).notes = s.notes := rfl
@[simp] theorem State.updHport_errSeq (s : State) (k : Nat) (f : HPort → HPort) : (s.updHport k f).errSeq = s.errSeq := rfl
@[simp] theorem State.updHport_answers (s : State) (k : Nat) (f : HPort → HPort) : (s.updHport k f).answers = s.answers := rfl

/-! ### updPcie -/

@[simp] theorem State.updPcie_pending (s : State) (k : Nat) (f : PcieSt → PcieSt) : (s.updPcie k f).pending = s.pending := rfl
@[simp] theorem State.updPcie_tape (s : State) (k : Nat) (f : PcieSt → PcieSt) : (s.updPcie k f).tape = s.tape := rfl
@[simp] theorem State.updPcie_freeCtr (s : State) (k : Nat) (f : PcieSt → PcieSt) : (s.updPcie k f).freeCtr = s.freeCtr := rfl
@[simp] theorem State.updPcie_regs (s : State) (k : Nat) (f : PcieSt → PcieSt) : (s.updPcie k f).regs = s.regs := rfl
@[simp] theorem State.updPcie_mem (s : State) (k : Nat) (f : PcieSt → PcieSt) : (s.updPcie k f).mem = s.mem := rfl
@[simp] theorem State.updPcie_memPoison (s : State) (k : Nat) (f : PcieSt → PcieSt) : (s.updPcie k f).memPoison = s.memPoison := rfl
@[simp] theorem State.updPcie_memEpoch (s : State) (k : Nat) (f : PcieSt → PcieSt) : (s.updPcie k f).memEpoch = s.memEpoch := rfl
@[simp] theorem State.updPcie_rekeys (s : State) (k : Nat) (f : PcieSt → PcieSt) : (s.updPcie k f).rekeys = s.rekeys := rfl
@[simp] theorem State.updPcie_otp (s : State) (k : Nat) (f : PcieSt → PcieSt) : (s.updPcie k f).otp = s.otp := rfl
@[simp] theorem State.updPcie_id (s : State) (k : Nat) (f : PcieSt → PcieSt) : (s.updPcie k f).id = s.id := rfl
@[simp] theorem State.updPcie_clk (s : State) (k : Nat) (f : PcieSt → PcieSt) : (s.updPcie k f).clk = s.clk := rfl
@[simp] theorem State.updPcie_pat (s : State) (k : Nat) (f : PcieSt → PcieSt) : (s.updPcie k f).pat = s.pat := rfl
@[simp] theorem State.updPcie_harts (s : State) (k : Nat) (f : PcieSt → PcieSt) : (s.updPcie k f).harts = s.harts := rfl
@[simp] theorem State.updPcie_ports (s : State) (k : Nat) (f : PcieSt → PcieSt) : (s.updPcie k f).ports = s.ports := rfl
@[simp] theorem State.updPcie_slices (s : State) (k : Nat) (f : PcieSt → PcieSt) : (s.updPcie k f).slices = s.slices := rfl
@[simp] theorem State.updPcie_range (s : State) (k : Nat) (f : PcieSt → PcieSt) : (s.updPcie k f).range = s.range := rfl
@[simp] theorem State.updPcie_gus (s : State) (k : Nat) (f : PcieSt → PcieSt) : (s.updPcie k f).gus = s.gus := rfl
@[simp] theorem State.updPcie_fences (s : State) (k : Nat) (f : PcieSt → PcieSt) : (s.updPcie k f).fences = s.fences := rfl
@[simp] theorem State.updPcie_mcs (s : State) (k : Nat) (f : PcieSt → PcieSt) : (s.updPcie k f).mcs = s.mcs := rfl
@[simp] theorem State.updPcie_epoch (s : State) (k : Nat) (f : PcieSt → PcieSt) : (s.updPcie k f).epoch = s.epoch := rfl
@[simp] theorem State.updPcie_trace (s : State) (k : Nat) (f : PcieSt → PcieSt) : (s.updPcie k f).trace = s.trace := rfl
@[simp] theorem State.updPcie_pock (s : State) (k : Nat) (f : PcieSt → PcieSt) : (s.updPcie k f).pock = s.pock := rfl
@[simp] theorem State.updPcie_net (s : State) (k : Nat) (f : PcieSt → PcieSt) : (s.updPcie k f).net = s.net := rfl
@[simp] theorem State.updPcie_boot (s : State) (k : Nat) (f : PcieSt → PcieSt) : (s.updPcie k f).boot = s.boot := rfl
@[simp] theorem State.updPcie_thm (s : State) (k : Nat) (f : PcieSt → PcieSt) : (s.updPcie k f).thm = s.thm := rfl
@[simp] theorem State.updPcie_pins (s : State) (k : Nat) (f : PcieSt → PcieSt) : (s.updPcie k f).pins = s.pins := rfl
@[simp] theorem State.updPcie_hrn (s : State) (k : Nat) (f : PcieSt → PcieSt) : (s.updPcie k f).hrn = s.hrn := rfl
@[simp] theorem State.updPcie_cnt (s : State) (k : Nat) (f : PcieSt → PcieSt) : (s.updPcie k f).cnt = s.cnt := rfl
@[simp] theorem State.updPcie_dbg (s : State) (k : Nat) (f : PcieSt → PcieSt) : (s.updPcie k f).dbg = s.dbg := rfl
@[simp] theorem State.updPcie_msi (s : State) (k : Nat) (f : PcieSt → PcieSt) : (s.updPcie k f).msi = s.msi := rfl
@[simp] theorem State.updPcie_msix (s : State) (k : Nat) (f : PcieSt → PcieSt) : (s.updPcie k f).msix = s.msix := rfl
@[simp] theorem State.updPcie_aplic (s : State) (k : Nat) (f : PcieSt → PcieSt) : (s.updPcie k f).aplic = s.aplic := rfl
@[simp] theorem State.updPcie_aplicReg (s : State) (k : Nat) (f : PcieSt → PcieSt) : (s.updPcie k f).aplicReg = s.aplicReg := rfl
@[simp] theorem State.updPcie_files (s : State) (k : Nat) (f : PcieSt → PcieSt) : (s.updPcie k f).files = s.files := rfl
@[simp] theorem State.updPcie_iommu (s : State) (k : Nat) (f : PcieSt → PcieSt) : (s.updPcie k f).iommu = s.iommu := rfl
@[simp] theorem State.updPcie_notes (s : State) (k : Nat) (f : PcieSt → PcieSt) : (s.updPcie k f).notes = s.notes := rfl
@[simp] theorem State.updPcie_errSeq (s : State) (k : Nat) (f : PcieSt → PcieSt) : (s.updPcie k f).errSeq = s.errSeq := rfl
@[simp] theorem State.updPcie_answers (s : State) (k : Nat) (f : PcieSt → PcieSt) : (s.updPcie k f).answers = s.answers := rfl

/-! ### updChan -/

@[simp] theorem State.updChan_pending (s : State) (n c : Nat) (f : ChanSt → ChanSt) : (s.updChan n c f).pending = s.pending := rfl
@[simp] theorem State.updChan_tape (s : State) (n c : Nat) (f : ChanSt → ChanSt) : (s.updChan n c f).tape = s.tape := rfl
@[simp] theorem State.updChan_freeCtr (s : State) (n c : Nat) (f : ChanSt → ChanSt) : (s.updChan n c f).freeCtr = s.freeCtr := rfl
@[simp] theorem State.updChan_regs (s : State) (n c : Nat) (f : ChanSt → ChanSt) : (s.updChan n c f).regs = s.regs := rfl
@[simp] theorem State.updChan_mem (s : State) (n c : Nat) (f : ChanSt → ChanSt) : (s.updChan n c f).mem = s.mem := rfl
@[simp] theorem State.updChan_memPoison (s : State) (n c : Nat) (f : ChanSt → ChanSt) : (s.updChan n c f).memPoison = s.memPoison := rfl
@[simp] theorem State.updChan_memEpoch (s : State) (n c : Nat) (f : ChanSt → ChanSt) : (s.updChan n c f).memEpoch = s.memEpoch := rfl
@[simp] theorem State.updChan_rekeys (s : State) (n c : Nat) (f : ChanSt → ChanSt) : (s.updChan n c f).rekeys = s.rekeys := rfl
@[simp] theorem State.updChan_otp (s : State) (n c : Nat) (f : ChanSt → ChanSt) : (s.updChan n c f).otp = s.otp := rfl
@[simp] theorem State.updChan_id (s : State) (n c : Nat) (f : ChanSt → ChanSt) : (s.updChan n c f).id = s.id := rfl
@[simp] theorem State.updChan_clk (s : State) (n c : Nat) (f : ChanSt → ChanSt) : (s.updChan n c f).clk = s.clk := rfl
@[simp] theorem State.updChan_pat (s : State) (n c : Nat) (f : ChanSt → ChanSt) : (s.updChan n c f).pat = s.pat := rfl
@[simp] theorem State.updChan_harts (s : State) (n c : Nat) (f : ChanSt → ChanSt) : (s.updChan n c f).harts = s.harts := rfl
@[simp] theorem State.updChan_ports (s : State) (n c : Nat) (f : ChanSt → ChanSt) : (s.updChan n c f).ports = s.ports := rfl
@[simp] theorem State.updChan_slices (s : State) (n c : Nat) (f : ChanSt → ChanSt) : (s.updChan n c f).slices = s.slices := rfl
@[simp] theorem State.updChan_range (s : State) (n c : Nat) (f : ChanSt → ChanSt) : (s.updChan n c f).range = s.range := rfl
@[simp] theorem State.updChan_gus (s : State) (n c : Nat) (f : ChanSt → ChanSt) : (s.updChan n c f).gus = s.gus := rfl
@[simp] theorem State.updChan_fences (s : State) (n c : Nat) (f : ChanSt → ChanSt) : (s.updChan n c f).fences = s.fences := rfl
@[simp] theorem State.updChan_mcs (s : State) (n c : Nat) (f : ChanSt → ChanSt) : (s.updChan n c f).mcs = s.mcs := rfl
@[simp] theorem State.updChan_epoch (s : State) (n c : Nat) (f : ChanSt → ChanSt) : (s.updChan n c f).epoch = s.epoch := rfl
@[simp] theorem State.updChan_trace (s : State) (n c : Nat) (f : ChanSt → ChanSt) : (s.updChan n c f).trace = s.trace := rfl
@[simp] theorem State.updChan_pock (s : State) (n c : Nat) (f : ChanSt → ChanSt) : (s.updChan n c f).pock = s.pock := rfl
@[simp] theorem State.updChan_net (s : State) (n c : Nat) (f : ChanSt → ChanSt) : (s.updChan n c f).net = s.net := rfl
@[simp] theorem State.updChan_boot (s : State) (n c : Nat) (f : ChanSt → ChanSt) : (s.updChan n c f).boot = s.boot := rfl
@[simp] theorem State.updChan_thm (s : State) (n c : Nat) (f : ChanSt → ChanSt) : (s.updChan n c f).thm = s.thm := rfl
@[simp] theorem State.updChan_pins (s : State) (n c : Nat) (f : ChanSt → ChanSt) : (s.updChan n c f).pins = s.pins := rfl
@[simp] theorem State.updChan_hrn (s : State) (n c : Nat) (f : ChanSt → ChanSt) : (s.updChan n c f).hrn = s.hrn := rfl
@[simp] theorem State.updChan_cnt (s : State) (n c : Nat) (f : ChanSt → ChanSt) : (s.updChan n c f).cnt = s.cnt := rfl
@[simp] theorem State.updChan_dbg (s : State) (n c : Nat) (f : ChanSt → ChanSt) : (s.updChan n c f).dbg = s.dbg := rfl
@[simp] theorem State.updChan_msi (s : State) (n c : Nat) (f : ChanSt → ChanSt) : (s.updChan n c f).msi = s.msi := rfl
@[simp] theorem State.updChan_msix (s : State) (n c : Nat) (f : ChanSt → ChanSt) : (s.updChan n c f).msix = s.msix := rfl
@[simp] theorem State.updChan_aplic (s : State) (n c : Nat) (f : ChanSt → ChanSt) : (s.updChan n c f).aplic = s.aplic := rfl
@[simp] theorem State.updChan_aplicReg (s : State) (n c : Nat) (f : ChanSt → ChanSt) : (s.updChan n c f).aplicReg = s.aplicReg := rfl
@[simp] theorem State.updChan_files (s : State) (n c : Nat) (f : ChanSt → ChanSt) : (s.updChan n c f).files = s.files := rfl
@[simp] theorem State.updChan_iommu (s : State) (n c : Nat) (f : ChanSt → ChanSt) : (s.updChan n c f).iommu = s.iommu := rfl
@[simp] theorem State.updChan_notes (s : State) (n c : Nat) (f : ChanSt → ChanSt) : (s.updChan n c f).notes = s.notes := rfl
@[simp] theorem State.updChan_errSeq (s : State) (n c : Nat) (f : ChanSt → ChanSt) : (s.updChan n c f).errSeq = s.errSeq := rfl
@[simp] theorem State.updChan_answers (s : State) (n c : Nat) (f : ChanSt → ChanSt) : (s.updChan n c f).answers = s.answers := rfl

/-! ### Reads of registers -/

/-- A register reads what was written. -/
@[simp] theorem State.rd_wr_self (s : State) (r : Reg) (v : Word) : (s.wr r v).rd r = v := by
  simp only [State.rd, State.wr, KMap.get_set, if_pos]

/-- A write of one register leaves the others. -/
theorem State.rd_wr_ne (s : State) {r q : Reg} (v : Word) (h : q.addr ≠ r.addr) : (s.wr r v).rd q = s.rd q := by
  simp only [State.rd, State.wr]
  cases hk : decide (v = r.reset)
  · simp only [KMap.set, of_decide_eq_false hk, if_false]; exact KMap.get_insert_ne _ _ (Ne.symm h) _
  · simp only [KMap.set, of_decide_eq_true hk, if_true, KMap.get_erase, if_neg h]

theorem State.rd_setF_ne (s : State) {r q : Reg} (f : FieldDesc) (n : Nat) (h : q.addr ≠ r.addr) :
    (s.setF r f n).rd q = s.rd q := s.rd_wr_ne _ h

/-- A bit of a register value with a field replaced. -/
theorem putF_bit (v : Word) (f : FieldDesc) (n i : Nat) (hi : i < 64) :
    (putF v f n).getLsbD i = if f.lo ≤ i ∧ i ≤ f.hi then n.testBit (i - f.lo) else v.getLsbD i := by
  simp only [putF, maskF, BitVec.getLsbD_or, BitVec.getLsbD_and, BitVec.getLsbD_not, BitVec.getLsbD_ofNat,
    Nat.testBit_shiftLeft, Nat.testBit_mod_two_pow, Nat.testBit_two_pow_sub_one, hi, decide_true, Bool.true_and]
  by_cases h1 : f.lo ≤ i
  · by_cases h2 : i ≤ f.hi
    · have : i - f.lo < f.hi + 1 - f.lo := by omega
      simp [h1, h2, this]
    · have : ¬ i - f.lo < f.hi + 1 - f.lo := by omega
      simp [h1, h2, this]
  · simp [h1]

/-- A bit of a field. -/
theorem getF_bit (v : Word) (f : FieldDesc) (i : Nat) (hl : f.lo ≤ f.hi) :
    (getF v f).testBit i = (decide (i ≤ f.hi - f.lo) && v.getLsbD (f.lo + i)) := by
  simp only [getF, Nat.testBit_mod_two_pow, Nat.testBit_shiftRight, BitVec.getLsbD]
  congr 1
  simp; omega

/-- A field reads what was put into it, cut to its width. -/
theorem getF_putF (v : Word) (f : FieldDesc) (n : Nat) (hl : f.lo ≤ f.hi) (hh : f.hi < 64) :
    getF (putF v f n) f = n % 2 ^ (f.hi + 1 - f.lo) := by
  apply Nat.eq_of_testBit_eq
  intro i
  rw [getF_bit _ _ _ hl, Nat.testBit_mod_two_pow]
  by_cases h : i ≤ f.hi - f.lo
  · rw [putF_bit _ _ _ _ (by omega), if_pos (by omega)]
    have : i < f.hi + 1 - f.lo := by omega
    simp [h, this]
  · have : ¬ i < f.hi + 1 - f.lo := by omega
    simp [h, this]

/-- A field leaves the fields beside it. -/
theorem getF_putF_ne (v : Word) {f g : FieldDesc} (n : Nat) (hl : g.lo ≤ g.hi) (hg : g.hi < 64)
    (h : g.hi < f.lo ∨ f.hi < g.lo) : getF (putF v f n) g = getF v g := by
  apply Nat.eq_of_testBit_eq
  intro i
  rw [getF_bit _ _ _ hl, getF_bit _ _ _ hl]
  by_cases hi : i ≤ g.hi - g.lo
  · rw [putF_bit _ _ _ _ (by omega), if_neg (by omega)]
  · simp [hi]

/-- A field of a register reads what was put into it. -/
theorem State.fld_setF_self (s : State) (r : Reg) (f : FieldDesc) (n : Nat) (hl : f.lo ≤ f.hi) (hh : f.hi < 64) :
    (s.setF r f n).fld r f = n % 2 ^ (f.hi + 1 - f.lo) := by
  simp only [State.fld, State.setF, State.rd_wr_self, getF_putF _ _ _ hl hh]

/-- The fields beside it keep theirs. -/
theorem State.fld_setF_field (s : State) (r : Reg) {f g : FieldDesc} (n : Nat) (hl : g.lo ≤ g.hi) (hg : g.hi < 64)
    (h : g.hi < f.lo ∨ f.hi < g.lo) : (s.setF r f n).fld r g = s.fld r g := by
  simp only [State.fld, State.setF, State.rd_wr_self, getF_putF_ne _ _ hl hg h]

/-- So do the fields of other registers. -/
theorem State.fld_setF_reg (s : State) {r q : Reg} (f g : FieldDesc) (n : Nat) (h : q.addr ≠ r.addr) :
    (s.setF r f n).fld q g = s.fld q g := by simp only [State.fld, State.rd_setF_ne s f n h]

/-! ### Harts -/

@[simp] theorem State.hart_updHart_ne (s : State) {h k : Nat} (f : HartSt → HartSt) (hk : k ≠ h) :
    (s.updHart h f).hart k = s.hart k := by
  simp only [State.updHart, State.setHart, State.hart, KMap.get_set, if_neg hk]

/-- A hart that is changed holds the change, and its times: since when it is in its mode, its residency, its idle time. -/
theorem State.hart_updHart_self (s : State) (h : Nat) (f : HartSt → HartSt) : ∃ since resid idle,
    (s.updHart h f).hart h = { f (s.hart h) with since := since, resid := resid, idleAt := idle } := by
  have e : (s.updHart h f).hart h = (s.hart h).moved (f (s.hart h)) s.tape (bit s.cnt.frozen 16) := by
    simp only [State.updHart, State.setHart, State.hart, KMap.get_set, if_true]
  rw [e]
  unfold HartSt.moved
  split
  · exact ⟨_, _, _, rfl⟩
  · exact ⟨_, _, _, rfl⟩

/-- A CSR of a world reads what was put into it, and the others keep their values. -/
theorem World.csrVal_setCsr (w : World) (n : Nat) (v : Word) (k : Nat) :
    (w.setCsr n v).csrVal k = if k = n then v else w.csrVal k := by
  simp only [World.setCsr, World.csrVal]
  by_cases h : k = n
  · subst h; simp only [KMap.get_set, if_true]
  · rw [if_neg h]
    cases hk : decide (v = csrReset n)
    · simp only [KMap.set, of_decide_eq_false hk, if_false]; exact KMap.get_insert_ne _ _ (Ne.symm h) _
    · simp only [KMap.set, of_decide_eq_true hk, if_true, KMap.get_erase, if_neg h]

/-! ### Time passing touches registers alone -/

/-- An event of a unit changes registers alone. -/
theorem State.uev_regs (s : State) (u code src p n : Nat) : ∃ r, s.uev u code src p n = { s with regs := r } := by
  unfold State.uev
  split
  · exact ⟨_, rfl⟩
  · rename_i hh
    clear hh
    generalize List.range 16 = l
    induction l generalizing s with
    | nil => exact ⟨_, rfl⟩
    | cons i l ih =>
      rw [List.foldl_cons]
      split
      · obtain ⟨r, e⟩ := ih (s.wr (R.uctr u i) (s.rd (R.uctr u i) + BitVec.ofNat 64 n))
        exact ⟨r, e⟩
      · exact ih s

/-- So does the count of trackers in use. -/
theorem State.occupy_regs (s : State) (d : Nat) : ∃ r, s.occupy d = { s with regs := r } := by
  have ht : ∀ (l : List Tx) (s : State) (k : Nat),
      ∃ r, l.foldl (fun s t => s.uev (k / 24) 4 (k % 24) t.req.pocket.toNat d) s = { s with regs := r } := by
    intro l
    induction l with
    | nil => intro s k; exact ⟨_, rfl⟩
    | cons t l ih =>
      intro s k
      rw [List.foldl_cons]
      obtain ⟨r, e⟩ := s.uev_regs (k / 24) 4 (k % 24) t.req.pocket.toNat d
      obtain ⟨r', e'⟩ := ih { s with regs := r } k
      rw [e]; exact ⟨r', e'⟩
  unfold State.occupy
  split
  · exact ⟨_, rfl⟩
  · have hs : ∀ (l : KMap SliceSt) (s : State), ∃ r,
        l.foldl (fun s x => x.2.txs.foldl (fun s t => s.uev (x.1 / 24) 4 (x.1 % 24) t.req.pocket.toNat d) s) s =
          { s with regs := r } := by
      intro l
      induction l with
      | nil => intro s; exact ⟨_, rfl⟩
      | cons x l ih =>
        intro s
        rw [List.foldl_cons]
        obtain ⟨r, e⟩ := ht x.2.txs s x.1
        obtain ⟨r', e'⟩ := ih { s with regs := r }
        rw [e]; exact ⟨r', e'⟩
    exact hs s.slices s

/-- Time that passes moves the Tape and touches registers alone. -/
theorem State.advance_regs (s : State) (n : Nat) : ∃ r, s.advance n = { s with tape := max s.tape n, regs := r } := by
  obtain ⟨r, e⟩ := s.occupy_regs (n - s.tape)
  exact ⟨r, by rw [State.advance, e]⟩

end Sys2Proof.Machine
end

