-- ==== Sys2Proof/Tests/Slice0.lean ====
section
/-! SUPPORT. Tests: for every statement with hypotheses, states and operands that meet them, one for each of its
clauses; commands that WellFormed refuses; worked cases of the spec. Expected values are the spec's. -/

set_option Elab.async false
set_option linter.unusedVariables false

namespace Sys2Proof.Tests

open Sys2Proof Sys2Proof.Machine

/-- A signing key made for these tests: a modulus, and the hash its slot holds (R61, R417). -/
def tKey : Nat := 0xfc32722170eb4badd583a5614bb96e33b479cdcf0ece10883b2efafa4b02fb73af7d060569af923530fdb1e80f3a249ebc68756adf2c812a895a750b1b76c8ca03d2fb9353f6e6ad51dfb50d87057e5afc1fd52630be2f0e75eae73e1aef5939511e3ebc53623bfb46c6cbb2265b882999131dfa7e54826899aa2721350b84e3aa6fade94aade2ff4ea37ecd608d3d8b44f2a990cb5d02576d827466034f1c397597d273575e7ce3d92d438e4f25af0d1489df44a5f798c21a2d9f12b276864c7db375978ed179ddf09021e24912e693872932a731248646bd908a9fdf49124e2ecbd9863a734ba774cd7e1214c84efae8726502014833afd9ccfcf865a1d68417025d1784259afbb83f583f5a5519ae514432e4c14a987088de314bd4d57ecc9831201e714c59967579c65f04fdb64f20577331e1cc71420bf43ad479342ad6fc90536aa4ca1c7bafdec60132a07749b5b6366c288f51be80162690be2c08db8712fc8569d1cc0ed33fe8c85e4d7656a40466132d33d8c5b34ab33b85e0d6f9
def tHash : Nat := 0x2be9b284a8b1a5bfb0d99c45666f4199954ebac437372bd27d790ccb0e868c9a
/-- The signature block of R61 of a signature by the key of a slot. -/
def tBlock (slot sig : Nat) : List Byte :=
  (leBytes 4 slot ++ leBytes 4 65537 ++ List.replicate 8 0) ++ beBytes 384 tKey ++ beBytes 384 sig
/-- The part with that key in slot 0. -/
def tOtp : Otp := { keys := [(0, tHash)] }
/-- A firmware image that is a header alone, signed (R422). -/
def tFw : List Byte :=
  ascii "KRNK" ++ leBytes 2 1 ++ leBytes 2 0xFFFF ++ leBytes 4 64 ++ List.replicate 52 0 ++ tBlock 0
    0x8fededa15b7254416e7da93cedd79eff0610c79204d2541362a71bd8812281dce5c146ec87404c0269611fa9b1b965fbd4325a6689df448068c894469371f745cf8031318a43339cd245654c6e953d8a0176e635be5f793aa642a31d7273aafde53113db4b893d20e279c7fa12afa1a79c934aaddaa24bbf5a1a917b9512aadef08e3b8bcc2895f8f33f634e1cb5b409fce1bdf3c49142dbae3cc4cdf75477cd6cc1d14308112dd8851b4a7fe89eeb68134f870c9023e7b5615bb25a404e7397eaa780dee213a5725d5646db6b0fcb667776030b62c034f49b621e5baf794a4a3064f450e44628bbe98c336f2113a0002a5d56f9535489a673733e1bbed93ecc6f2e853cd5405b7328c76421b344a86655a257b44f04c0f4198a1994a68d8a3b09af2287ecd71d592ed9d846c5697e0a4873ccd015e47e253c1df7294c0965c2500c6fe41dd565a7f9f716f1bafc00aac457f8009f4a5bb36db09a05ce162da63520685abd844cbe2e91c7aff7b1326fcd04d7c7232298e83a39b7d53879f944
/-- A piece of an image (R60). -/
def tPiece (type n : Nat) (l : List Byte) : List Byte :=
  leBytes 2 type ++ leBytes 2 0xFFFF ++ leBytes 4 n ++ leBytes 8 1 ++ l ++ List.replicate (n - l.length) 0
/-- A base pattern with core 0 of panel 0 enabled, signed (R58-R62). -/
def tPat : List Byte :=
  ascii "KRNP" ++ leBytes 2 1 ++ leBytes 2 0x240 ++ leBytes 4 1 ++ leBytes 4 2328 ++ leBytes 4 3 ++
    List.replicate 44 0 ++ tPiece 1 64 [] ++ tPiece 0x10 96 [1, 0, 0, 0, 1] ++ tPiece 0x20 2056 [] ++ tBlock 0
    0x8926c973123700d4e2530a387dc57b7f2a36321dba16ea7a36a191452e2d85dfe747a4024045cca030466061c49d067b3ad016fbe418019a204ebb2c7215345c2d0e7beb9fb3c729d3381b5801178e80e0bc1f22875ae7a36a9db3005eb6aae63a44392c5db4314be2783caac0ee61dd5ba3d08b43fbcd58235ef00793567ae23b948e9d78bb6289c460b5c0fc1b3f3ad05c3a6b887144ee332d51c2af6888b0eb6b552a1868b724ed67f344f27cd04539d8134221a158023af21dd3571d07810026034368b7de3f501c92c87d72f1edce0334ab3f10d93e73fe98fca063fc67f4ad9fa981d06f3c1e1c1ff931d97c2e5242531b7a7d84e660533206e452e9aa9519aec3adea815eebac16f4672cf1d329064364c339399eb0f6179544e434bdad7210b49f5b143dcf60d67324911877bc6313f6a29136f100da7b200ae1ddca0d857af20c449bae306a3da070ee93b50549f658698c2e76679e093af3019c63fe2f0fb7fef40a170cee05e9391db02436f4b267855c1fda720fb084835444f9

theorem seg_mid (a b c : List Byte) (n m : Nat) (h : a.length = n) (h' : b.length = m) : seg (a ++ b ++ c) n m = b := by
  subst h; subst h'; simp [seg]
theorem leBytes_length (n v : Nat) : (leBytes n v).length = n := by simp [leBytes]
theorem beBytes_length (n v : Nat) : (beBytes n v).length = n := by simp [beBytes]
theorem tKey_hash : leNat (sha256 (beBytes 384 tKey ++ leBytes 4 65537)) = tHash := by decide +kernel
theorem tKey_be : be (beBytes 384 tKey) = tKey := by decide +kernel
/-- A block whose slot holds the key, over a region its signature verifies, is accepted. -/
theorem sig_ok (s : State) (region : List Byte) (slot sig : Nat) (hs : slot < 256) (h1 : s.slotSigns slot = true)
    (h2 : s.slotHash slot = tHash) (hv : pssVerify tKey 65537 region (be (beBytes 384 sig)) = true) :
    s.sigCheck region (tBlock slot sig) = none := by
  have a1 : le (tBlock slot sig) 0 1 = slot := by
    simp [tBlock, le, leBytes, List.range_succ]; omega
  have a2 : seg (tBlock slot sig) 4 4 = leBytes 4 65537 := by
    unfold tBlock
    rw [show leBytes 4 slot ++ leBytes 4 65537 ++ List.replicate 8 0 ++ beBytes 384 tKey ++ beBytes 384 sig =
      leBytes 4 slot ++ leBytes 4 65537 ++ (List.replicate 8 0 ++ beBytes 384 tKey ++ beBytes 384 sig) by simp]
    exact seg_mid _ _ _ 4 4 (leBytes_length ..) (leBytes_length ..)
  have a3 : le (tBlock slot sig) 4 4 = 65537 := by
    show (seg (tBlock slot sig) 4 4).foldr (fun b a => b.toNat + 256 * a) 0 = _
    rw [a2]; decide +kernel
  have a4 : seg (tBlock slot sig) 0x10 384 = beBytes 384 tKey := by
    exact seg_mid _ _ _ 16 384 (by simp [leBytes_length]) (beBytes_length ..)
  have a5 : seg (tBlock slot sig) 0x190 384 = beBytes 384 sig := by
    have := seg_mid ((leBytes 4 slot ++ leBytes 4 65537 ++ List.replicate 8 0) ++ beBytes 384 tKey) (beBytes 384 sig) []
      0x190 384 (by simp [leBytes_length, beBytes_length]) (beBytes_length ..)
    simpa [tBlock] using this
  simp only [State.sigCheck, a1, a2, a3, a4, a5, h1, h2, tKey_hash, tKey_be, hv]
  simp

theorem checkFw_otp (s t : State) (l : List Byte) (h : s.otp = t.otp)
    (h' : s.fld R.pkgId F.pkgId_PART_CODE = t.fld R.pkgId F.pkgId_PART_CODE) : s.checkFw l = t.checkFw l := by
  have e : ∀ r b, s.sigCheck r b = t.sigCheck r b := by
    intro r b
    unfold State.sigCheck State.slotSigns State.slotProgrammed State.slotHash
    rw [h]
  unfold State.checkFw
  rw [h', h]
  simp only [e]
theorem tFw_ok : ({ State.reset with otp := tOtp } : State).checkFw tFw = 0 := by decide +kernel
theorem tFw_good (s : State) (h : s.otp = tOtp) (h' : s.fld R.pkgId F.pkgId_PART_CODE = 0x240) : s.checkFw tFw = 0 := by
  rw [checkFw_otp s { State.reset with otp := tOtp } tFw h (h'.trans (by decide +kernel)), tFw_ok]
/-- Hart 0 of panel 0, and slice 0 of saddle 0. -/
def h0 : HartId := ⟨0, 0⟩
def sl0 : SliceId := ⟨0, 0⟩
/-- Plain operands. -/
def hdr0 : Hdr := ⟨0, 0, 0, 0, false, true, false, false, true⟩
def dh0 : DoorHdr := ⟨0, 0⟩
def hp0 : HPkt := ⟨0, 0, 0, 0, false, false, 0, 0, 0, 0, 0, false, 0, .ok, []⟩
def sam0 : Samples := ⟨[]⟩
def tx0 : Tx := { line := 0, req := { op := 0 }, t := ⟨0, 0, 0, 0⟩ }
def hello0 : Hello := ⟨0, 0, 0, 0, 0, 0⟩
def rep0 : ThreadReply := ⟨0, 0, false, true, 0, 0, 0, 0, false⟩
def tr0 : TrainRes := .absent
def mr0 : MgmtReq := ⟨0, 0, 0, 0⟩
/-- The machine after reset at a boot step. -/
def at' (n : Nat) : State := State.reset.setStep n
/-- The machine after reset with one hart as given. -/
def hs (x : HartSt) : State := { State.reset with harts := [(0, x)] }
def hin3 : HIn := { id := 0, kind := 3, m := hp0, ends := 0 }
def hop0 : HOp := { tag := 0, kind := 1, m := hp0, t := ⟨5, 0, 0, 0⟩ }
/-- Service mode (R424). -/
def svc : State := State.reset.setF R.kprMode F.kprMode_SERVICE 1
/-- Pattern images may be accepted: the test key, PKG_LEVEL 1. -/
def keyed : State := ({ State.reset with otp := tOtp } : State).setF R.pkgId F.pkgId_PKG_LEVEL 1
def alt0 : Alter := { door := false, seq := 0, world := 0, sequence := 1, digest := 0, stage := 2 }
/-- A state with the first GiB of bolt memory ONLINE in an HBM stack. -/
def onBolt (s : State) : State :=
  ({ s with pat := { s.pat with store := [⟨0x20, 0xFFFF, [1, 0, 0, 0, 0, 0, 0, 0, 0, 0, 0, 0, 1, 0, 0, 0, 1, 0]⟩] } } : State).setF
    (R.boltStatus 0) F.boltStatus_STATE 1
/-- A state whose door of a world runs with one request waiting. -/
def doorOn (w : Nat) (s : State) : State :=
  ((onBolt s).setF (R.doorCtl w) F.doorCtl_STATE 1).setF (R.doorPtr w) F.doorPtr_REQ_TAIL 1
/-- Hart 0 runs in a world, or in M mode with every unit on. -/
def go (w : World) : State := hs { mode := .run, w := w }
def m0 : State := go {}
def fsOn : Nat × Word := (0x300, 0x0000000A00002200)
def vgo (l : List (Nat × Word)) : State := go { csr := [fsOn] ++ l }
def acc0 (pa : Addr) : Acc := { kind := .load, id := 0, pa := pa, size := 8 }
/-- Pocket 1 armed with two slots, its entry state at 0, and guest file 1 of hart 0 its own. -/
def pk1 (s : State) : State :=
  ({ s with pock := { s.pock with p := [(1, { st := .armed, slots := 2 })] } } : State).setF (R.imsicOwner 1) F.imsicOwner_POCKET 1
    |>.setF (R.imsicOwner 1) F.imsicOwner_ENABLE 1
def doorWait (op : Nat) (d : Word) : State := hs { mode := .park, wait := .door op ⟨2, 0, 0, 0⟩, w := { csr := [(0x7C5, d)] } }
/-- Hart 0 holds line 0 in its L2 in a state. -/
def l2at (st : LState) (held : Bool) : State := hs { l2 := [(0, { st := st, held := held })] }
def slc (x : SliceSt) : State := { State.reset with slices := [(0, x)] }
/-- Slice 0 has an open transaction of op 1. -/
def txn (t : Tx) : State := slc { txs := [t] }
def tx1 : Tx := { tx0 with req := { op := 1 } }
def tok0 (ev : Bool) : Token := ⟨0, 0, ev, ⟨1, 0, 0, 0⟩⟩
def llc (st : LlcState) : State := slc { ent := [(0, { st := st })] }
/-- Panel 0 has its fence, slice and controller fences open. -/
def openF (u : FenceUnit) (s : State) : State := s.setF (R.fenceStatus u) F.fenceStatus_STATE 2
def req0 : L2Req := { txid := 0, op := 3, line := 0 }
def io0 (l : Bool) : IoAcc := { isLoad := l, dst := 0, pa := 0, size := 8, sent := true, t := ⟨10, 0, 0, 0⟩ }
def ioDown : Pkt := { op := 0x34, txid := 99 }
def yr0 : YReq := { agent := .svcPort, eye := 0, txid := 0, op := 6, pa := 0, size := 8, kind := 4 }
/-- Hart 0 runs in pocket 1, which is armed. -/
def pkHart (s : State) : State :=
  { s with harts := [(0, { mode := .run, w := { priv := 1, csr := [(0x5C0, 1)] } })], pock := { p := [(1, { st := .armed })] } }
def lock0 : State := State.reset.setFbit (R.slcWayCtl 0 0) F.slcWayCtl_LOCK 0 true
/-- The Keeper's region is the first MiB of that bolt. -/
def withKeeper (s : State) : State :=
  { onBolt s with pat := { (onBolt s).pat with store := (onBolt s).pat.store ++ [⟨0x100, 0xFFFF, [0, 0, 0, 0, 0, 0, 0, 0, 1]⟩] } }
/-- Port 0 with its fence open, a link up behind sub-port 0, bus 1 there, and function 01:00.0 of pocket 1. -/
def port0 (s : State) : State :=
  openF (.pcie 0) { s with io := { func := [(0x100, 4)], ports := [(0, { subs := [(0, { up := true, cfg := [(6, 0x10100)] })] })] } }
/-- A CXL bolt in place of the HBM one. -/
def onCxl (s : State) : State :=
  { onBolt s with pat := { (onBolt s).pat with store := [⟨0x20, 0xFFFF, [1, 0, 0, 0, 0, 0, 0, 0, 0, 0, 0, 0, 1, 0, 0, 0, 1, 0, 2]⟩] } }
def gus0 (st : Nat) (g : GusSt) : State := { State.reset.setF (R.gusStatus (.yoke 0)) F.gusStatus_STATE st with gus := [(20, g)] }
def fen (u : FenceUnit) (st : Nat) : State := State.reset.setF (R.fenceStatus u) F.fenceStatus_STATE st
def info0 (st fs : Nat) : State := (fen (.mc (.hbm 0)) fs).setF (R.mcInfo (.hbm 0)) F.mcInfo_STATE st
def memTx : Tx := { tx1 with memWait := true }
def scrub0 (st : Nat) (m : McSt) : State := { State.reset.setF (R.mcScrubCtl (.hbm 0)) F.mcScrubCtl_STATUS st with mcs := [(0, m)] }
def ep (e : EpochSt) (holding : Nat) : State := ({ State.reset with epoch := e } : State).setF R.epoch F.epoch_HOLDING holding
def cfg1 (type unit : Nat) (l : List Byte) (s : State) : State := { s with pat := { s.pat with store := s.pat.store ++ [⟨type, unit, l⟩] } }
/-- Harness port 0 in a state, with what else it holds. -/
def port' (st : Nat) (p : HPort) : State :=
  ({ State.reset with hrn := { ports := [(0, p)] } } : State).setF (R.portStatus 0) F.portStatus_STATE st
/-- A management packet has been delivered at port 0. -/
def mg : State := { State.reset with hrn := { mgmtIn := [(0, 0, 1)] } }
/-- A descriptor of an operation for node 6, and one with a bad target. -/
def dput (op : Byte) : List Byte := op :: [0, 0, 0, 1] ++ List.replicate 17 0 ++ [6, 0] ++ List.replicate 40 0
def dbad : List Byte := 1 :: List.replicate 21 0 ++ [0xFF, 0x7F] ++ List.replicate 40 0
def dsc0 (l : List Byte) : HDesc := { q := 0, slot := 0, body := some l }
def qd (l : List Byte) : State := { State.reset with hrn := { desc := [dsc0 l] } }
/-- The node has ID 5. -/
def nodeOn (s : State) : State := (s.setF R.hrnNode F.hrnNode_ASSIGNED 1).setF R.hrnNode F.hrnNode_NODE_ID 5
/-- Every node is routed to port 0, which is UP. -/
def route0 (s : State) : State :=
  (cfg1 0xB1 0xFFFF [1, 0, 0, 0, 0, 0, 0, 0, 0, 0, 0xFF, 0x7F, 0x80] s).setF (R.portStatus 0) F.portStatus_STATE 2
/-- Receive queue 0 is enabled, accepts every source and is full. -/
def rq0 : State :=
  (((nodeOn State.reset).setF (R.rqOwner 0) F.rqOwner_ENABLE 1).setF (R.rqSrc 0) F.rqSrc_ANY_POCKET 1).setF (R.rqPtr 0) F.rqPtr_TAIL 15
def withP (p : PocketSt) (s : State) : State := { s with pock := { s.pock with p := [(1, p)] } }
/-- One pocket can be made. -/
def maxOne (s : State) : State := cfg1 0x100 0xFFFF [0, 0, 0, 0, 0, 0, 0, 0, 0, 0, 1] (s.setF R.kprMode F.kprMode_REGION_OK 1)
/-- Pocket 1 is sealed and meets every condition of sealing: panel 0 and slot 0 of every ring are its own. -/
def sealed1 : State :=
  ((cfg1 0x100 0xFFFF (List.replicate 13 0 ++ [1]) (cfg1 0x70 0xFFFF ([0x1F, 0, 0, 0, 0, 0, 0, 0, 1] ++ List.replicate 67 0 ++ [1, 0, 1, 0])
    (doorOn 0 (withP { st := .sealed } svc)))).setF (R.panelOwner 0 0) F.panelOwner_ENABLE 1).setF (R.panelOwner 0 0) F.panelOwner_POCKET 1
/-- Pocket 1, armed, owns the memory of its running door. -/
def tenant : State := doorOn 1 (withP { st := .armed, ranges := [⟨0, 0x200000, .priv, false, false⟩] } svc)
def hand0 (b : Block) : HandOver := { block := b, src := 0, dst := 1, step := 1, world := 0, seq := 0 }
def dim0 (d : DimSt) : State := { State.reset with thm := { dim := [(0, d)] } }
/-- Bobbin 0 with its fence open and channel 0 in a state. -/
def bob0 (st : Nat) (c : ChanSt) (s : State) : State :=
  (openF (.bob 0) { s with io := { s.io with chans := [(0, c)] } }).setF (R.chCtl 0 0) F.chCtl_STATE st
/-- A status atom of channel 0 that has come back with a descriptor's CTL word. -/
def atom (w : LineData) : YReq :=
  { agent := .bobbin 0 0, eye := 0, txid := 0, op := 5, pa := 0, size := 4, kind := 3, got := some (w, 0), granted := true }
def atomS (w : LineData) : State := bob0 1 { stage := 3 } { State.reset with io := { reqs := [atom w] } }
/-- Hart 0 of panel 0 is the one hart enabled. -/
def one (s : State) : State := (s.setF (R.hartEn 0) F.hartEn_PANEL_EN 1).setF (R.hartEn 0) F.hartEn_CORE_EN 1
def prog0 (a b : Byte) : State := cfg1 0xE0 0xFFFF [0, 0, 0, a, b] State.reset
/-- Hart 0 as given, with invasive debug of the host world allowed. -/
def inv0 (x : HartSt) : State := (hs x).setF (R.debugEn 0) F.debugEn_INV 1
/-- A host-firmware image that is a header alone (R434). -/
def tHost : List Byte := ascii "KRNF" ++ List.replicate 12 0 ++ leBytes 4 32 ++ List.replicate 12 0
theorem noKeys : ∀ i, i ≠ le (seg (State.reset.mbxArg 0 64) 24 40) 0 1 → State.reset.slotSigns i = false := by
  have h : le (seg (State.reset.mbxArg 0 64) 24 40) 0 1 = 0 := by decide +kernel
  intro i hi
  rw [h] at hi
  simp [State.slotSigns, State.slotProgrammed, State.reset, hi]
theorem noKeys' : ∀ i, 1 ≤ i → State.reset.slotSigns i = false := by
  intro i hi
  have : i ≠ 0 := by omega
  simp [State.slotSigns, State.slotProgrammed, State.reset, this]
theorem noShadow : ∀ c k, c < 20 → k < 11 → R.tape.addr ≠ (R.hartShadow 0 c k).addr := by
  intro c k _ _ h
  simp [R.tape, R.hartShadow] at h
  omega

theorem info_ne_refresh (c d : Ctlr) : (R.mcInfo c).addr ≠ (R.mcRefresh d).addr := by
  revert c d
  rintro (c | c) (d | d) <;> revert c d <;> decide
theorem info_refreshAllow (s : State) (c : Ctlr) : s.refreshAllow.mcServes c = s.mcServes c := by
  have key : ∀ (l : List Ctlr) (f : State → Ctlr → Nat) (s : State),
      (l.foldl (fun s d => s.setF (R.mcRefresh d) F.mcRefresh_ALLOW_NS (f s d)) s).mcServes c = s.mcServes c := by
    intro l f
    induction l with
    | nil => exact fun _ => rfl
    | cons d l ih => intro s; rw [List.foldl_cons, ih]; simp only [State.mcServes, State.fld_setF_reg _ _ _ _ (info_ne_refresh c d)]
  have w : ∀ (s : State) (v : Word), (s.wr (R.deadline 3) v).mcServes c = s.mcServes c := by
    intro s v
    simp only [State.mcServes, State.fld]
    rw [State.rd_wr_ne]
    rcases c with c | c <;> clear key <;> revert c <;> decide
  exact (w _ _).trans (key ..)
theorem trained0 : ((at' 6).trainMc (.hbm 0) (.ok 6400 1 1 1 1)).mcServes (.hbm 0) = true :=
  (info_refreshAllow _ _).trans (by decide +kernel)
/-- The 64-byte body of an authorised command (R426): its code and an argument byte, nonce and serial 0. -/
def authBody (code arg : Nat) : List Byte := leBytes 24 code ++ leBytes 40 arg
/-- Bytes as the argument area holds them. -/
def argsFrom : Nat → List Byte → KMap Nat
  | _, [] => []
  | k, b :: l => (k, b.toNat) :: argsFrom (k + 1) l
theorem get_argsFrom (l : List Byte) (k i : Nat) : KMap.get 0 (argsFrom k l) (k + i) = (l.getD i 0).toNat := by
  induction l generalizing k i with
  | nil => simp [argsFrom, KMap.get]
  | cons b l ih =>
    cases i with
    | zero => simp [argsFrom, KMap.get]
    | succ i => 
      have := ih (k + 1) i
      rw [show k + 1 + i = k + (i + 1) by omega] at this
      simp [argsFrom, KMap.get, this]
/-- Firmware runs at step 8 with an authorised command in the argument area. -/
def authS (otp : Otp) (code arg slot sig : Nat) : State :=
  { at' 8 with otp := otp, boot := { args := argsFrom 0 (authBody code arg ++ tBlock slot sig) } }
theorem mbxArg_auth (s : State) (l : List Byte) (off n : Nat) (h : s.boot.args = argsFrom 0 l) (hl : off + n ≤ l.length) :
    s.mbxArg off n = (l.drop off).take n := by
  apply List.ext_getElem
  · simp [State.mbxArg]; omega
  · intro i h1 h2
    have := get_argsFrom l 0 (off + i)
    simp only [State.mbxArg, List.length_map, List.length_range] at h1
    rw [Nat.zero_add] at this
    simp [State.mbxArg, h, this, List.getElem?_eq_getElem (show off + i < l.length by omega)]
theorem tBlock_length (slot sig : Nat) : (tBlock slot sig).length = 784 := by simp [tBlock, leBytes_length, beBytes_length]
/-- What the Keeper reads of such a command. -/
theorem auth_body (s : State) (code arg slot sig : Nat)
    (h : s.boot.args = argsFrom 0 (authBody code arg ++ tBlock slot sig)) :
    s.mbxArg 0 64 = authBody code arg ∧ s.mbxArg 64 784 = tBlock slot sig := by
  have hb : (authBody code arg).length = 64 := by simp [authBody, leBytes_length]
  have ht := tBlock_length slot sig
  constructor
  · rw [mbxArg_auth s _ 0 64 h (by simp [hb, ht])]
    simp [← hb]
  · rw [mbxArg_auth s _ 64 784 h (by simp [hb, ht])]
    rw [← hb, ← ht]; simp
/-- Slot 1 holds the key too. -/
def tOtp2 : Otp := { keys := [(0, tHash), (1, tHash)] }
def sigA : Nat :=
  0x85433892f65103f32ebf82bc27f09ce380051a9d3fd7af7891094c4c007b127418649347fc4cdeda17afacdacfb0495df692469db6f198966b9127b96aa6c54c856dff9da847a1a7a0a21e1050440e5a7570daac3eb1ffec9159c8ea2222a3639dad241e8d4f0dbf233f3d9f1db8b736b8260d09780b40248c93ccfd5bef5e887373522b2ec6918c4bd5059dd38755baf215b8169ec21ed000d1d4147abcac09d48ebc42ba451ed93c572b36fe2a3089e2b73ed7cadb2bcb5f4e72f487be01cf4140b961f175cce908f55db29e6d1ca1c2b8cfe753b86dd417edf6108bf053ede0bbd152284afe1746fc485842e7eb7cef0ea98e24970cd13db937731c8d972e563d03a8eb3f07c7a486081b93d494e6035fbb549ad5873fc48401d312f4538ed3869156bd332fd079746b1500c6acf82660208303dba2796c6c7191aa6817553a327d43f20ee4d8d99f9ab105cfafde0162283735bbc72b9e6c1b86ee802a8302633e7f526b8d7528eb89619dd95f802d6b1cf7bb94a1dc7f19d6df237a8acc
def sigB : Nat :=
  0x6554925911e8b08489c63ca0cfc781dc92c065b4187f825e774b9419800d1307cddd8b3b91acc992da2dbb1cd316640309cd6feaa3635f1ed167dd382114dec63c991fc5d5c875d668c6a4c5b8754919ac83e16cfb359a30513483801b951fd1c221c5f2adea4ada521e5e84c66b3dd41425ff7fef5f61a5e8e8437cb97353198517368870d1ee96b4a5b9049ac02e3cf8fe4f8fe500a7fdc14d42df843ad74bb0508a31c9711f24db3a0dd68883598b2abe3e7d004e4d0b05d994861a5afc67dbc6dcfdee79bec4f93a85e2689f2e2cc7ac9f315676786d4ca18d089149dbb99e6e16edd0f8742435f203cad8d0632546e97c73f62430d0b31dde0e86febfe68ba38e6da8d53374d1ad86e8e37d95acaadf53249c21ecd906005960c0b099928d010e29098ab2938cc13d570ec1d4363cb5642b20acdf62f31737c4f40d2fa70a6e8c8ff1dc9e0172e85bbc0c8d89f6bc73828ee920d11b8f935a550e08fcd4fadc42ad83a1deb305a1fb056063c0c5f413f42e0c424181ee35618f417be50b
def sigD : Nat :=
  0xca16bc01df3eb7a0c4ad03bb7efcc30b470ba4bc00c0e48d278fdfb74842810258ab9f3851115c8f5b56ed1cdea5362a2fdef67cb368a044a8ea5be8428fe60bf6382b13966d3d8dde96d68971f9e50ce0e45975b399d22cbcf263d0376410747affee9f66de3eee389f1cceb5da44f8d816606c57e4e3ee53b0c0ea00aad7e40a2863df8e2b38a9eca69f68edc00812acc0487e4fae0e4f09e52ba22bdd3a653e697597813ab006ba1ada92d16d44a74c422dcc7f23c53764b2f0604b52f4c36c096e9ebf7bc65bc99a1bacc6a60c2847d7415f99107d8552b7640836ea1dc4429d91516b96a052e6a65de49907e1c8fbdb2a5edfd3a0287c6c409cc2daf54a8e4c93e25bc686309e287a6ae4b3d51ac3bbb8dd1cb61fadf30f3f7acd1ef8e6da6937827b4599af3344e398774a5376acc6a0561fdcde953ac1c151ff0058159c3e742f0ba849e83844daf278e5112dae5603f626b9191cc0216f82526d1f6672f1f1c6fc0f7455c4441ade6039116eb7e707847c09affb53a4174754138d2b
def sigE : Nat :=
  0x9c9b1d7e2bf913818c7be23ec24b9190bd647ffe0d355a136c3b74bbaf7b0cb7d56f0aca718e729bc9e13996b2b8c62db657c463755c1d0d141f477b8ff702ac223b39f675b89f98bb578b53d139c1c463a732a28865be97d3295f1367be01d8ebac49f404068e3862a2fd78a16f0ca263effffd6ccc816cc21effbcd3fba835d790d54aa1e10bc37ba69daf58fa51395dc49a92a05db2b07796b742f18d676d917080dcafa0630fb8f4d4e19bfcbec4a0cfac75620a334f30b3a91eab0d2265d242170a2b67c005c17aebd5917d35263f728365cedfadd1b061dd1960049925f95e770c7126e7c4f3b07e604742995f2de3ea8f621023496ac5e5cf9a3689614b7fdff4c013a06b18e6cb7a286ad9401193044182dcd06cdc517167432a727be9cc8fab65ed498beb1423c604254b2ec4fdb805a69cb28c0ac2cfc2f958725c7a07416d74af03e0deade3e520cd350b5e29b6a7bd737c367da889c6a8a5b325d4bbfa44ba9f4cca38f4df61fa5b4613da98e38d165e9b0f621ea2b6459b06b7
def sigF : Nat :=
  0x39e14b3058802c8cb974f22be2c9f21aebb1a63a49ea03f212d24bd684054369fb70392e8e5441888893381bc624c2af0663c8ad6131aee55cd38ff29b04cb869b51aadb1dc1d075987688f2d13c79f4730d4b9dbbfeeda53afa8c0c3e0732a43278877e6923c924ccac3fe6e5acc34f6a9ab5b7c43a7a18ff596da1152e517e6189fea5091cfbb97b766cd03e51474625ff67508a3b160e61d0fc220e9479d1ac21cd63226bb507504abaabf3619cd2aab75ecd19dffa2e691b7d28617ca50d6d3415dd3216ab5b8a3aefe461539f14b74a09c3537b307b92a2b986a8da26e9fda0518577f561ca706aa672120b555149bfd72fad499607d9d86149d0b03ae369f85e0e8669294772b860e321c2868fd97f45832010e28a4a80027421e359caa1f8d60b562ad7c64ebc5f969dd02129cbcb3d24dbdfe57d822c80e58e81ddf0e9c038b289702bcd4b1197fd0c7383d88c8f048904cc4eea7e67e0421370e975963482aae96b5e27120e3ff902f47941b3ccff9eccdb6399f8a8f59e3eab4be7
def sigG : Nat :=
  0x210fc95babda7157eaf29eec5447b79267d7dd7d44e45bbbedf366f30e119f44fa4dcc3b096aefcad357e098f609e459d3cd004d10cf6a6ff2d694eaf36351968a940133296da79c0c35aeb51c2d1c05e944cba729019b814fec1b72d555447f8298e72a456a01ed2e77b3414452cc60ea2396c98b622b2d64195dd8116b30a761a3b34efc57f590bbfe46c68a4c6dbd93fa57b9766704a283b59ec8ebed8817082f08bbaaf4794661ee8faf8f824d8a0c75a5dbd42e030ab8455d2f1dd25d82f2e94ab006decf6ea0784b5868766a4a8832d67f1a0e5e262537d51d1ab5f772ac047f8236ff9ee0a4011add42a62882daa4f0e0a5fcbb5c7f8ca511402930d1d1a697fa0740f8c2c737f6feae8d3666ce788313ba8529556b1e5f868643b6d41109c75339520087a1801693cc590ae2a72db06daa3fa5d2f0175366acea5ef69959de1e96223492290d91c6c6342c26ca72394d8637eda4fabec457f224c7836f162b0c2ef14d3b7f2dc03b2923fd9b05e3b020878a2d032ecbf3493cd520fe
def sigH : Nat :=
  0xba9ab0e49439f02af1256d769286dc657b6d7b0697134ac4126aa3ab8a7b6dccbf8b28372f98e7cb68e02614225d8238ae970fcc23d0f6fd26b7a501fdf66b073454dfddf01f733d7dd9c058013dfee134063ad37aefb1525c5e9b398c27e0180183ba4349b098f4f01236d9c6eee0e25b1eca8be64cd1d5a7b4bfa49510e25267686d4d58f848eb9ffdce90d8d9be103a208ab0b1c1b8319561754d5df759dc7793eef400b5ef1fdac5a90e6914bbfc5bbdfa6e24408ef8dccd3f6bd9897a684f427c689f171d75cceee70bedcdead6664ebd23bb011d4e2e03bef93cd4e2b427a7ccd775e78c588c33462546e1cb9d1e41b33b22e981e546a512742729d45a67fbe6dbfbfd3d73ecbed4760c8018e25c0e6d69715048dd2fdc50d4888381ffd67b19e1ac3b7f626e919d8ccb6e668e151fb3d306eef005439302938779d789321e8ed7bd206c1c35ac300f08db601daeb98c75aa5fe9816c6d55fe077e80fce3c803cf6d70581f32e745b53de52fd3f312d32526023ebd1d15a67d37385cc0

/-- And once the Keeper has taken it. -/
abbrev authMbx (otp : Otp) (code arg slot sig : Nat) : State := (authS otp code arg slot sig).setF R.mbxCmd F.mbxCmd_SEQ (0 : BitVec 16).toNat
theorem auth_good (otp : Otp) (code arg slot sig : Nat) (hs : slot < 256)
    (h1 : (authMbx otp code arg slot sig).slotSigns slot = true) (h2 : (authMbx otp code arg slot sig).slotHash slot = tHash)
    (n1 : le (authBody code arg) 8 8 = ((authMbx otp code arg slot sig).rd R.mbxNonce).toNat)
    (n2 : le (authBody code arg) 16 8 = ((authMbx otp code arg slot sig).rd R.pkgSerial).toNat)
    (hv : pssVerify tKey 65537 (authBody code arg) (be (beBytes 384 sig)) = true) :
    le ((authMbx otp code arg slot sig).mbxArg 0 64) 8 8 = ((authMbx otp code arg slot sig).rd R.mbxNonce).toNat ∧
    le ((authMbx otp code arg slot sig).mbxArg 0 64) 16 8 = ((authMbx otp code arg slot sig).rd R.pkgSerial).toNat ∧
    (authMbx otp code arg slot sig).sigCheck ((authMbx otp code arg slot sig).mbxArg 0 64)
      ((authMbx otp code arg slot sig).mbxArg 64 784) = none := by
  obtain ⟨b1, b2⟩ := auth_body (authMbx otp code arg slot sig) code arg slot sig rfl
  rw [b1, b2]
  exact ⟨n1, n2, sig_ok _ _ slot sig hs h1 h2 hv⟩
theorem pssA : pssVerify tKey 65537 (authBody 16 0) (be (beBytes 384 sigA)) = true := by decide +kernel
theorem pssB : pssVerify tKey 65537 (authBody 17 1) (be (beBytes 384 sigB)) = true := by decide +kernel
theorem pssD : pssVerify tKey 65537 (authBody 18 0) (be (beBytes 384 sigD)) = true := by decide +kernel
theorem pssE : pssVerify tKey 65537 (authBody 18 1) (be (beBytes 384 sigE)) = true := by decide +kernel
theorem pssF : pssVerify tKey 65537 (authBody 19 0) (be (beBytes 384 sigF)) = true := by decide +kernel
theorem pssG : pssVerify tKey 65537 (authBody 19 1) (be (beBytes 384 sigG)) = true := by decide +kernel
theorem pssH : pssVerify tKey 65537 (authBody 20 0) (be (beBytes 384 sigH)) = true := by decide +kernel
theorem auth_of (otp : Otp) (code arg slot sig : Nat) (P : List Byte → List Byte → Prop)
    (h : P (authBody code arg) (tBlock slot sig)) :
    P ((authMbx otp code arg slot sig).mbxArg 0 64) ((authMbx otp code arg slot sig).mbxArg 64 784) := by
  obtain ⟨b1, b2⟩ := auth_body (authMbx otp code arg slot sig) code arg slot sig rfl
  rw [b1, b2]; exact h
theorem mbxEnd_revoked (s : State) (q r : Nat) : (s.mbxEnd q r).otp = s.otp := by
  unfold State.mbxEnd State.svcMsix
  dsimp only
  split <;> rfl
theorem revoked0 : (revokeEff 0 (authS tOtp2 18 0 1 sigD)).otp.revoked.contains 0 = true := by
  obtain ⟨g1, g2, g3⟩ := auth_good tOtp2 18 0 1 sigD (by decide) (by decide +kernel) (by decide +kernel)
    (by decide +kernel) (by decide +kernel) pssD
  obtain ⟨b1, b2⟩ := auth_body (authMbx tOtp2 18 0 1 sigD) 18 0 1 sigD rfl
  have busy : (authMbx tOtp2 18 0 1 sigD).mbxBusy = false := by decide +kernel
  have c1 : le (authBody 18 0) 0 2 = 18 := by decide +kernel
  have c2 : le (seg (authBody 18 0) 24 40) 0 1 = 0 := by decide +kernel
  have c3 : le (tBlock 1 sigD) 0 1 = 1 := by decide +kernel
  have c4 : ((List.range 5).filter fun i => i != 0 && (authMbx tOtp2 18 0 1 sigD).slotSigns i) = [1] := by decide +kernel
  rw [b1] at g1 g2
  rw [b1, b2] at g3
  unfold revokeEff State.mbxAuth State.mbxRun
  simp only [authMbx] at *
  simp only [busy, b1, b2, g1, g2, g3, c1, c2, c3, c4]
  simp only [Bool.false_eq_true, ite_false, Bool.not_true, Option.isSome_none, ne_eq, not_true_eq_false, or_self,
    List.isEmpty_cons, show ¬ ((0 : Nat) = 1) by decide, show ¬ (4 : Nat) < 0 by decide, List.all_cons, List.all_nil,
    show ((1 : Nat) == 0) = false by decide, Bool.false_and, and_false, show ¬ ((0 : Nat) = 129) by decide, mbxEnd_revoked]
  decide

/-! Witnesses: the hypotheses of each clause of a statement, met together. -/

theorem test_witness_IdleStepTicks :
    ∃ s : State, (s.pending = []) :=
  ⟨State.reset, (by decide +kernel)⟩

theorem test_witness_CanonicalKept :
    ∃ s : State, ∃ t : State, (Memory.wf s = true) ∧ (s.regsWf = true) ∧ (step s = .next t) :=
  ⟨State.reset, _, (by decide +kernel), (by decide +kernel), rfl⟩

theorem test_witness_FusesOnlyBlow :
    ∃ s : State, ∃ t : State, (step s = .next t) :=
  ⟨State.reset, _, rfl⟩

theorem test_witness_TapeNeverBack :
    ∃ i : Instr, ∃ s : State, ∃ t : State, (exec i s = .next t) ∧ (∀ a b c, i ≠ .coldReset a b c) ∧ (i ≠ .vstbyLoss) :=
  ⟨.threadDiscovery, State.reset, _, rfl, (fun _ _ _ h => nomatch h), (fun h => nomatch h)⟩

theorem test_witness_StrapsAndPads :
    ∃ g0 : BitVec 8, ∃ g1 : BitVec 8, ∃ g2 : BitVec 8, ∃ g3 : BitVec 8, (g1.toNat / 4 = g0.toNat / 4) ∧ (g2.toNat / 4 = g0.toNat / 4) ∧ (g3.toNat / 4 = g0.toNat / 4) :=
  ⟨0, 0, 0, 0, (by decide +kernel), (by decide +kernel), (by decide +kernel)⟩

theorem test_witness_ThreadFrames :
    (∃ s : State, (s.atStep 3 = true) ∧ (s.id.disc = none) ∧ (s.id.discRun = false)) ∧
    (∃ pos : Fin 17, ∃ f : ThreadFrame, ∃ s : State, (s.id.disc = some f) ∧ (f.pos = pos.val) ∧ (f.attempts < 3)) ∧
    (∃ r : ThreadReply, ∃ f : ThreadFrame, ∃ s : State, (s.id.disc = some f) ∧ (f.pos = r.pos.val) ∧ (r.crcOk = false) ∧ (f.attempts < 3)) ∧
    (∃ r : ThreadReply, ∃ f : ThreadFrame, ∃ s : State, (s.id.disc = none) ∧ (s.id.kprFrame = some f) ∧ (f.pos = r.pos.val)) ∧
    (∃ pos : Fin 17, ∃ s : State, (4 ≤ s.bootStep) ∧ (s.id.kprFrame = none) ∧ (panelAt pos.val = none)) ∧
    (∃ pos : Fin 17, ∃ p : Nat, ∃ s : State, (4 ≤ s.bootStep) ∧ (s.id.kprFrame = none) ∧ (panelAt pos.val = some p) ∧ (s.id.excluded.contains p = true)) :=
  ⟨⟨at' 3, (by decide +kernel), (by decide +kernel), (by decide +kernel)⟩,
   ⟨0, { pos := 0, attempts := 2 }, { State.reset with id := { disc := some { pos := 0, attempts := 2 } } }, (by decide +kernel), (by decide +kernel), (by decide +kernel)⟩,
   ⟨{ rep0 with crcOk := false }, { pos := 0, attempts := 2 }, { State.reset with id := { disc := some { pos := 0, attempts := 2 } } }, (by decide +kernel), (by decide +kernel), (by decide +kernel), (by decide +kernel)⟩,
   ⟨rep0, { pos := 0 }, { State.reset with id := { kprFrame := some { pos := 0 } } }, (by decide +kernel), (by decide +kernel), (by decide +kernel)⟩,
   ⟨0, at' 4, (by decide +kernel), (by decide +kernel), (by decide +kernel)⟩,
   ⟨2, 0, { at' 4 with id := { excluded := [0] } }, (by decide +kernel), (by decide +kernel), (by decide +kernel), (by decide +kernel)⟩⟩

theorem test_witness_BrownOut :
    (∃ p : Panel, ∃ mv : BitVec 12, ∃ s : State, (mv.toNat < 585) ∧ (s.panelState p.val = 0) ∧ (KMap.get 0 s.clk.parks p.val = 0)) ∧
    (∃ mv : BitVec 12, ∃ s : State, (600 < mv.toNat) ∧ (s.thm.parkAll = false)) :=
  ⟨⟨0, 584, State.reset, (by decide +kernel), (by decide +kernel), (by decide +kernel)⟩,
   ⟨601, State.reset, (by decide +kernel), (by decide +kernel)⟩⟩

theorem test_witness_PaceSensor :
    ∃ u : PaceUnit, ∃ s : State, (s.paceOff u = false) :=
  ⟨(.panel 0), State.reset, (by decide +kernel)⟩

theorem test_witness_Holdover :
    (∃ pos : Fin 17, ∃ s : State, (s.fbit R.tapeStatus F.tapeStatus_DIE_HOLD pos.val = false)) ∧
    (∃ pos : Fin 17, ∃ s : State, (s.fbit R.tapeStatus F.tapeStatus_DIE_HOLD pos.val = true) ∧ (pos.val ≠ 0) ∧ (s.clk.relocked.contains pos.val = false)) ∧
    (∃ s : State, (s.fbit R.tapeStatus F.tapeStatus_DIE_HOLD 0 = true)) ∧
    (∃ pos : Fin 17, ∃ s : State, (s.clk.relocked.contains pos.val = true)) :=
  ⟨⟨0, State.reset, (by decide +kernel)⟩,
   ⟨16, State.reset.setFbit R.tapeStatus F.tapeStatus_DIE_HOLD 16 true, (by decide +kernel), (by decide +kernel), (by decide +kernel)⟩,
   ⟨State.reset.setFbit R.tapeStatus F.tapeStatus_DIE_HOLD 0 true, (by decide +kernel)⟩,
   ⟨0, { State.reset with clk := { relocked := [0] } }, (by decide +kernel)⟩⟩

theorem test_witness_LateAndDeadlines :
    (∃ k : Fin 11, (k.val ≠ 3)) ∧
    (∃ u : UnitId, ∃ k : Fin 11, ∃ s : State, (s.clk.dlWait.contains (16 * u.bank + k.val) = true)) :=
  ⟨⟨0, (by decide +kernel)⟩,
   ⟨.yoke, 0, { State.reset with clk := { dlWait := [16 * 16] } }, (by decide +kernel)⟩⟩

theorem test_witness_ExpiriesOfUnits :
    (∃ c : Ctlr, ∃ rank : Fin 4, ∃ t : Timer, ∃ s : State, (KMap.get none (s.mc c.num).due rank.val = some t)) ∧
    (∃ p : PortId, ∃ s : State, (s.atStep 5 = false) ∧ (s.fenceState (.panel p.panel) ≠ 0)) ∧
    (∃ e : GusEnd, ∃ s : State, (s.gusState e = 2 ∨ s.gusState e = 3)) ∧
    (∃ n : Fin 64, ∃ c : Fin 8, ∃ t : Timer, ∃ s : State, ((s.chan n.val c.val).t = some t)) :=
  ⟨⟨(.hbm 0), 0, ⟨4, 0, 0, 0⟩, { State.reset with mcs := [(0, { due := [(0, some ⟨4, 0, 0, 0⟩)] })] }, (by decide +kernel)⟩,
   ⟨⟨0, 0⟩, State.reset.setF (R.fenceStatus (.panel 0)) F.fenceStatus_STATE 2, (by decide +kernel), (by decide +kernel)⟩,
   ⟨(.yoke 0), State.reset.setF (R.gusStatus (.yoke 0)) F.gusStatus_STATE 3, (by decide +kernel)⟩,
   ⟨0, 0, ⟨9, 0, 0, 0⟩, { State.reset with io := { chans := [(0, { t := some ⟨9, 0, 0, 0⟩ })] } }, (by decide +kernel)⟩⟩

theorem test_witness_ExpiriesOfRequests :
    (∃ h : SliceId, ∃ pa : Addr, ∃ panel : Panel, ∃ t : Token, ∃ s : State, (((s.slice h.num).tokens.find? fun t => t.line == lineOf pa && t.panel == panel.val) = some t)) ∧
    (∃ h : SliceId, ∃ pa : Addr, ∃ src : BitVec 8, ∃ txid : BitVec 12, ∃ t : Tx, ∃ s : State, (((s.slice h.num).heldq.findIdx? fun q => lineOf q.pa == lineOf pa && q.src == src && q.txid == txid) = none) ∧ (s.tx h.num (lineOf pa) = some t) ∧ (lineOf t.req.pa = lineOf pa) ∧ (t.req.src = src) ∧ (t.req.txid = txid) ∧ (ownAgent src ≠ 2)) ∧
    (∃ h : HartId, ∃ i : IoAcc, ∃ s : State, (((s.hart h.num).io.find? fun i => i.sent && i.isLoad && !i.window) = some i)) ∧
    (∃ h : HartId, ∃ rd : Nat, ∃ t : Timer, ∃ s : State, ((s.hart h.num).wait = .door rd t)) ∧
    (∃ t : Timer, ∃ s : State, (s.boot.railT = some t) ∧ (s.atStep 5 = true)) ∧
    (∃ p : Panel, ∃ t : Timer, ∃ s : State, (KMap.get none s.thm.outT p.val = some t)) ∧
    (∃ h : HartId, ∃ s : State, (s.cfg 0x100 0xFFFF 0xE 2 0 ≠ 0) ∧ ((s.hart h.num).hostEntered = true)) ∧
    (∃ r : Fin 1024, ∃ x : HIn, ∃ s : State, ((s.hrn.inb.find? fun h => h.kind == 3 && h.stage == 0 && h.m.addr.toNat == r.val) = some x)) ∧
    (∃ tag : BitVec 14, ∃ o : HOp, ∃ s : State, ((s.hrn.ops.find? fun o => o.tag == tag.toNat && decide (o.stage ≤ 3)) = some o)) :=
  ⟨⟨sl0, 0, 0, ⟨0, 0, false, ⟨1, 0, 0, 0⟩⟩, { State.reset with slices := [(0, { tokens := [⟨0, 0, false, ⟨1, 0, 0, 0⟩⟩] })] }, (by decide +kernel)⟩,
   ⟨sl0, 0, 0x18, 0, { tx0 with req := { op := 1, src := 0x18 } }, { State.reset with slices := [(0, { txs := [{ tx0 with req := { op := 1, src := 0x18 } }] })] }, (by decide +kernel), (by decide +kernel), (by decide +kernel), (by decide +kernel), (by decide +kernel), (by decide +kernel)⟩,
   ⟨h0, { isLoad := true, dst := 0, pa := 0, size := 8, sent := true, t := ⟨10, 0, 0, 0⟩ }, hs { io := [{ isLoad := true, dst := 0, pa := 0, size := 8, sent := true, t := ⟨10, 0, 0, 0⟩ }] }, (by decide +kernel)⟩,
   ⟨h0, 0, ⟨0, 0, 0, 0⟩, hs { wait := .door 0 ⟨0, 0, 0, 0⟩ }, (by decide +kernel)⟩,
   ⟨⟨8, 0, 0, 0⟩, { at' 5 with boot := { railT := some ⟨8, 0, 0, 0⟩ } }, (by decide +kernel), (by decide +kernel)⟩,
   ⟨0, ⟨8, 0, 0, 0⟩, { State.reset with thm := { outT := [(0, some ⟨8, 0, 0, 0⟩)] } }, (by decide +kernel)⟩,
   ⟨h0, { hs { hostEntered := true } with pat := { store := [⟨0x100, 0xFFFF, List.replicate 16 1⟩] } }, (by decide +kernel), (by decide +kernel)⟩,
   ⟨0, hin3, { State.reset with hrn := { inb := [hin3] } }, (by decide +kernel)⟩,
   ⟨0, hop0, { State.reset with hrn := { ops := [hop0] } }, (by decide +kernel)⟩⟩

theorem test_witness_KeeperRegistersRefuseWrites :
    (∃ k, (k ∈ regTable) ∧ (k.fields.any (fun f => f.acc == .kw) = true)) ∧
    (∃ a : Agent, ∃ off : BitVec 32, ∃ size : Size, ∃ v : Word, ∃ k : RegKind, ∃ s : State, ((match ctlFence off.toNat with | some u => s.fenceIsOpen u | none => true) = true) ∧ (s.ctlCheck a off.toNat = .pass) ∧ (ctlForm off.toNat size.bytes = true) ∧ (s.pageWrite off.toNat (v.toNat % 2 ^ 32) = none) ∧ (regKindAt (off.toNat / 8 * 8) = some k) ∧ (k.fields.any (fun f => f.acc == .kw) = true) ∧ (agentIsKeeper a = false)) :=
  ⟨⟨(regKindAt 0x100).getD ⟨0, [], 0, []⟩, (List.mem_of_find?_eq_some (p := fun k => decide (k.base ≤ 0x100) && dimsHold k.dims (0x100 - k.base)) rfl), (by decide +kernel)⟩,
   ⟨.hart h0, 0x100, .b8, 0, (regKindAt 0x100).getD ⟨0, [], 0, []⟩, State.reset, (by decide +kernel), (by decide +kernel), (by decide +kernel), (by decide +kernel), (by decide +kernel), (by decide +kernel), (by decide +kernel)⟩⟩

theorem test_witness_RegisterWrites :
    (∃ a : Agent, ∃ off : BitVec 32, ∃ size : Size, ∃ amo : Bool, ∃ s : State, (ctlFence off.toNat = none) ∧ (s.ctlCheck a off.toNat = .pass) ∧ (amo = true ∨ ctlForm off.toNat size.bytes = false)) ∧
    (∃ a : Agent, ∃ off : BitVec 32, ∃ r : Nat, ∃ s : State, (ctlFence off.toNat = none) ∧ (s.ctlCheck a off.toNat = .viol r)) ∧
    (∃ a : Agent, ∃ off : BitVec 32, ∃ size : Size, ∃ v : Word, ∃ k : RegKind, ∃ t : State, ∃ r : Resp, ∃ s : State, (ctlFence off.toNat = none) ∧ (s.ctlCheck a off.toNat = .pass) ∧ (ctlForm off.toNat size.bytes = true) ∧ (s.pageWrite off.toNat (v.toNat % 2 ^ 32) = none) ∧ (regKindAt (off.toNat / 8 * 8) = some k) ∧ ((k.fields.any (fun f => f.acc == .kw) && !agentIsKeeper a) = false) ∧ (s.regWrite ⟨a, off.toNat / 8 * 8, ⟨off.toNat / 8 * 8, k.reset⟩, k.fields, mergedWord (s.rd ⟨off.toNat / 8 * 8, k.reset⟩) off.toNat size.bytes v, placedWord off.toNat size.bytes v⟩ = (t, some r))) :=
  ⟨⟨.keeper, 0, .b8, true, State.reset, (by decide +kernel), (by decide +kernel), (by decide +kernel)⟩,
   ⟨.hart h0, 0x100, 6, { svc with harts := [(0, { w := { csr := [(0x5C0, 1)] } })], pock := { p := [(1, { st := .armed })] } }, (by decide +kernel), (by decide +kernel)⟩,
   ⟨.keeper, 0x10020000, .b8, 0, (regKindAt 0x10020000).getD ⟨0, [], 0, []⟩, _, .ok, State.reset, (by decide +kernel), (by decide +kernel), (by decide +kernel), (by decide +kernel), (by decide +kernel), (by decide +kernel), rfl⟩⟩

theorem test_witness_PatternLoads :
    (∃ img : List Byte, ∃ c : Nat, ∃ i : Nat, ∃ s : State, (s.checkImage img false = (c, i)) ∧ (c ≠ 0)) ∧
    (∃ img : List Byte, ∃ i : Nat, ∃ s : State, (s.checkImage img false = (0, i))) ∧
    (∃ s : State, (s.atStep 4 = true) ∧ (s.boot.patWait = false)) ∧
    (∃ s : State, (s.atStep 4 = true) ∧ (s.boot.patWait = true) ∧ (s.mbxBusy = false)) ∧
    (∃ s : State, (s.service = true) ∧ (s.mbxBusy = false)) ∧
    (∃ s : State, (s.service = false) ∧ (s.mbxBusy = false)) ∧
    (∃ a : Alter, ∃ s : State, (s.pat.alt = some a) ∧ (s.alterDone a = true) ∧ (a.door = false) ∧ (s.pat.heldResets = []) ∧ (s.pat.heldPower = [])) :=
  ⟨⟨[], 3, 0xFFFF, State.reset, (by decide +kernel), (by decide +kernel)⟩,
   ⟨tPat, 0xFFFF, keyed, (by decide +kernel)⟩,
   ⟨at' 4, (by decide +kernel), (by decide +kernel)⟩,
   ⟨{ at' 4 with boot := { patWait := true } }, (by decide +kernel), (by decide +kernel), (by decide +kernel)⟩,
   ⟨svc, (by decide +kernel), (by decide +kernel)⟩,
   ⟨State.reset, (by decide +kernel), (by decide +kernel)⟩,
   ⟨alt0, { State.reset with pat := { alt := some alt0 } }, (by decide +kernel), (by decide +kernel), (by decide +kernel), (by decide +kernel), (by decide +kernel)⟩⟩

theorem test_witness_DoorAlter :
    ∃ d : DoorHdr, ∃ s : State, (d.world ≠ 0) ∧ (s.doorReady d.world.toNat = true) ∧ (s.welt false d.world.toNat (s.fld (R.doorCtl d.world.toNat) F.doorCtl_BASE * 4096 + 64 * s.fld (R.doorPtr d.world.toNat) F.doorPtr_REQ_HEAD) false = .pass) :=
  ⟨⟨1, 0⟩, doorOn 1 State.reset, (by decide +kernel), (by decide +kernel), (by decide +kernel)⟩

theorem test_witness_LoadsAndStores :
    (∃ h : HartId, ∃ pa : Addr, ∃ size : Size, ∃ m : Pbmt, ∃ s : State, (s.canIssue h.num = true) ∧ ((s.hart h.num).haltReq = false) ∧ ((s.issue h.num).inRunAhead h.num = false) ∧ (size = .b16 → ((s.issue h.num).hart h.num).w.isOff 13 = false) ∧ (((s.issue h.num).hart h.num).fenceHolds (kindBit (routeOf pa.toNat m) 8 2) = false) ∧ let r := routeOf pa.toNat m; (r = .cached)) ∧
    (∃ h : HartId, ∃ pa : Addr, ∃ size : Size, ∃ m : Pbmt, ∃ spec : Bool, ∃ s : State, (s.canIssue h.num = true) ∧ ((s.hart h.num).haltReq = false) ∧ ((s.issue h.num).inRunAhead h.num = false) ∧ (size = .b16 → ((s.issue h.num).hart h.num).w.isOff 13 = false) ∧ (((s.issue h.num).hart h.num).fenceHolds (kindBit (routeOf pa.toNat m) 8 2) = false) ∧ let r := routeOf pa.toNat m; (r = .nc) ∧ (spec = false) ∧ (pa.toNat % 64 + size.bytes ≤ 64)) ∧
    (∃ h : HartId, ∃ pa : Addr, ∃ size : Size, ∃ m : Pbmt, ∃ spec : Bool, ∃ s : State, (s.canIssue h.num = true) ∧ ((s.hart h.num).haltReq = false) ∧ ((s.issue h.num).inRunAhead h.num = false) ∧ (size = .b16 → ((s.issue h.num).hart h.num).w.isOff 13 = false) ∧ (((s.issue h.num).hart h.num).fenceHolds (kindBit (routeOf pa.toNat m) 8 2) = false) ∧ let r := routeOf pa.toNat m; (r = .io ∨ r = .window) ∧ (spec = false) ∧ (pa.toNat % size.bytes = 0)) ∧
    (∃ h : HartId, ∃ pa : Addr, ∃ size : Size, ∃ m : Pbmt, ∃ spec : Bool, ∃ s : State, (s.canIssue h.num = true) ∧ ((s.hart h.num).haltReq = false) ∧ ((s.issue h.num).inRunAhead h.num = false) ∧ (size = .b16 → ((s.issue h.num).hart h.num).w.isOff 13 = false) ∧ (((s.issue h.num).hart h.num).fenceHolds (kindBit (routeOf pa.toNat m) 8 2) = false) ∧ let r := routeOf pa.toNat m; (r = .io ∨ r = .window) ∧ (spec = false) ∧ (pa.toNat % size.bytes ≠ 0)) ∧
    (∃ h : HartId, ∃ pa : Addr, ∃ size : Size, ∃ m : Pbmt, ∃ s : State, (s.canIssue h.num = true) ∧ ((s.hart h.num).haltReq = false) ∧ ((s.issue h.num).inRunAhead h.num = false) ∧ (size = .b16 → ((s.issue h.num).hart h.num).w.isOff 13 = false) ∧ (((s.issue h.num).hart h.num).fenceHolds (kindBit (routeOf pa.toNat m) 8 2) = false) ∧ let r := routeOf pa.toNat m; (r = .hole)) ∧
    (∃ h : HartId, ∃ pa : Addr, ∃ size : Size, ∃ m : Pbmt, ∃ s : State, (s.canIssue h.num = true) ∧ ((s.hart h.num).haltReq = false) ∧ ((s.issue h.num).inRunAhead h.num = false) ∧ (size = .b16 → ((s.issue h.num).hart h.num).w.isOff 13 = false) ∧ (((s.issue h.num).hart h.num).fenceHolds (kindBit (routeOf pa.toNat m) 4 1) = false) ∧ let r := routeOf pa.toNat m; (r = .cached)) ∧
    (∃ h : HartId, ∃ pa : Addr, ∃ size : Size, ∃ m : Pbmt, ∃ s : State, (s.canIssue h.num = true) ∧ ((s.hart h.num).haltReq = false) ∧ ((s.issue h.num).inRunAhead h.num = false) ∧ (size = .b16 → ((s.issue h.num).hart h.num).w.isOff 13 = false) ∧ (((s.issue h.num).hart h.num).fenceHolds (kindBit (routeOf pa.toNat m) 4 1) = false) ∧ let r := routeOf pa.toNat m; (r = .nc) ∧ (pa.toNat % 64 + size.bytes ≤ 64)) ∧
    (∃ h : HartId, ∃ pa : Addr, ∃ size : Size, ∃ m : Pbmt, ∃ s : State, (s.canIssue h.num = true) ∧ ((s.hart h.num).haltReq = false) ∧ ((s.issue h.num).inRunAhead h.num = false) ∧ (size = .b16 → ((s.issue h.num).hart h.num).w.isOff 13 = false) ∧ (((s.issue h.num).hart h.num).fenceHolds (kindBit (routeOf pa.toNat m) 4 1) = false) ∧ let r := routeOf pa.toNat m; (r = .io ∨ r = .window) ∧ (pa.toNat % size.bytes = 0)) ∧
    (∃ h : HartId, ∃ pa : Addr, ∃ size : Size, ∃ m : Pbmt, ∃ s : State, (s.canIssue h.num = true) ∧ ((s.hart h.num).haltReq = false) ∧ ((s.issue h.num).inRunAhead h.num = false) ∧ (size = .b16 → ((s.issue h.num).hart h.num).w.isOff 13 = false) ∧ (((s.issue h.num).hart h.num).fenceHolds (kindBit (routeOf pa.toNat m) 4 1) = false) ∧ let r := routeOf pa.toNat m; (r = .hole)) :=
  ⟨⟨h0, 0xFFFFFFFFFFFF, .b8, .pma, m0, (by decide +kernel), (by decide +kernel), (by decide +kernel), (by decide +kernel), (by decide +kernel), (by decide +kernel)⟩,
   ⟨h0, 56, .b8, .nc, false, m0, (by decide +kernel), (by decide +kernel), (by decide +kernel), (by decide +kernel), (by decide +kernel), (by decide +kernel), (by decide +kernel), (by decide +kernel)⟩,
   ⟨h0, 0x1000000000000, .b8, .pma, false, m0, (by decide +kernel), (by decide +kernel), (by decide +kernel), (by decide +kernel), (by decide +kernel), (by decide +kernel), (by decide +kernel), (by decide +kernel)⟩,
   ⟨h0, 0x1000000000001, .b8, .pma, false, m0, (by decide +kernel), (by decide +kernel), (by decide +kernel), (by decide +kernel), (by decide +kernel), (by decide +kernel), (by decide +kernel), (by decide +kernel)⟩,
   ⟨h0, 0x2000100000000, .b8, .pma, m0, (by decide +kernel), (by decide +kernel), (by decide +kernel), (by decide +kernel), (by decide +kernel), (by decide +kernel)⟩,
   ⟨h0, 0, .b8, .pma, m0, (by decide +kernel), (by decide +kernel), (by decide +kernel), (by decide +kernel), (by decide +kernel), (by decide +kernel)⟩,
   ⟨h0, 56, .b8, .nc, m0, (by decide +kernel), (by decide +kernel), (by decide +kernel), (by decide +kernel), (by decide +kernel), (by decide +kernel), (by decide +kernel)⟩,
   ⟨h0, 0x80000000000000, .b8, .pma, m0, (by decide +kernel), (by decide +kernel), (by decide +kernel), (by decide +kernel), (by decide +kernel), (by decide +kernel), (by decide +kernel)⟩,
   ⟨h0, 0x7FFFFFFFFFFFFF, .b8, .pma, m0, (by decide +kernel), (by decide +kernel), (by decide +kernel), (by decide +kernel), (by decide +kernel), (by decide +kernel)⟩⟩

theorem test_witness_Atomics :
    (∃ h : HartId, ∃ pa : Addr, ∃ size : Size, ∃ m : Pbmt, ∃ s : State, (s.canIssue h.num = true) ∧ ((s.hart h.num).haltReq = false) ∧ (size ≠ .b16) ∧ ((s.issue h.num).inRunAhead h.num = false) ∧ (((s.issue h.num).hart h.num).fenceHolds 3 = false) ∧ (pa.toNat % 16 + size.bytes ≤ 16) ∧ let r := routeOf pa.toNat m; (r = .cached ∨ r = .nc)) ∧
    (∃ h : HartId, ∃ f : AmoFunc, ∃ pa : Addr, ∃ size : Size, ∃ m : Pbmt, ∃ s : State, (s.canIssue h.num = true) ∧ ((s.hart h.num).haltReq = false) ∧ (size ≠ .b16) ∧ ((s.issue h.num).inRunAhead h.num = false) ∧ (((s.issue h.num).hart h.num).fenceHolds 3 = false) ∧ (pa.toNat % 16 + size.bytes ≤ 16) ∧ let r := routeOf pa.toNat m; (r = .window) ∧ (windowAmo size.bytes f.code = true) ∧ (pa.toNat % size.bytes = 0)) ∧
    (∃ h : HartId, ∃ f : AmoFunc, ∃ pa : Addr, ∃ size : Size, ∃ m : Pbmt, ∃ s : State, (s.canIssue h.num = true) ∧ ((s.hart h.num).haltReq = false) ∧ (size ≠ .b16) ∧ ((s.issue h.num).inRunAhead h.num = false) ∧ (((s.issue h.num).hart h.num).fenceHolds 3 = false) ∧ (pa.toNat % 16 + size.bytes ≤ 16) ∧ let r := routeOf pa.toNat m; (r = .io ∨ r = .hole ∨ (r = .window ∧ (windowAmo size.bytes f.code = false ∨ pa.toNat % size.bytes ≠ 0)))) ∧
    (∃ h : HartId, ∃ size : Size, ∃ s : State, (s.canIssue h.num = true) ∧ ((s.hart h.num).haltReq = false) ∧ (size = .b16)) ∧
    (∃ h : HartId, ∃ pa : Addr, ∃ size : Size, ∃ s : State, (s.canIssue h.num = true) ∧ ((s.hart h.num).haltReq = false) ∧ (size ≠ .b16) ∧ ((s.issue h.num).inRunAhead h.num = false) ∧ (((s.issue h.num).hart h.num).fenceHolds 3 = false) ∧ (16 < pa.toNat % 16 + size.bytes)) ∧
    (∃ h : HartId, ∃ rd : Fin 32, ∃ rs2 : Fin 32, ∃ pa : Addr, ∃ m : Pbmt, ∃ s : State, (s.canIssue h.num = true) ∧ ((s.hart h.num).haltReq = false) ∧ (([rd.val, rd.val + 1, rs2.val, rs2.val + 1].any (s.hart h.num).busyRegs.contains) = false) ∧ (rd.val % 2 = 0) ∧ (rs2.val % 2 = 0) ∧ (pa.toNat % 16 = 0) ∧ ((s.issue h.num).inRunAhead h.num = false) ∧ (((s.issue h.num).hart h.num).fenceHolds 3 = false) ∧ (routeOf pa.toNat m = .cached)) ∧
    (∃ h : HartId, ∃ pa : Addr, ∃ size : Size, ∃ m : Pbmt, ∃ s : State, (s.canIssue h.num = true) ∧ ((s.hart h.num).haltReq = false) ∧ (size = .b4 ∨ size = .b8) ∧ ((s.issue h.num).inRunAhead h.num = false) ∧ (((s.issue h.num).hart h.num).fenceHolds 2 = false) ∧ (pa.toNat % 16 + size.bytes ≤ 16) ∧ (routeOf pa.toNat m = .cached)) ∧
    (∃ h : HartId, ∃ pa : Addr, ∃ size : Size, ∃ m : Pbmt, ∃ s : State, (s.canIssue h.num = true) ∧ ((s.hart h.num).haltReq = false) ∧ (size = .b4 ∨ size = .b8) ∧ ((s.issue h.num).inRunAhead h.num = false) ∧ (((s.issue h.num).hart h.num).fenceHolds 1 = false) ∧ (pa.toNat % 16 + size.bytes ≤ 16) ∧ (routeOf pa.toNat m = .cached)) ∧
    (∃ h : HartId, ∃ pa : Addr, ∃ size : Size, ∃ m : Pbmt, ∃ s : State, (s.canIssue h.num = true) ∧ ((s.hart h.num).haltReq = false) ∧ (size = .b4 ∨ size = .b8) ∧ ((s.issue h.num).inRunAhead h.num = false) ∧ (((s.issue h.num).hart h.num).fenceHolds 1 = false) ∧ (pa.toNat % 16 + size.bytes ≤ 16) ∧ let n := h.num; let u := s.issue n; (routeOf pa.toNat m = .nc) ∧ ((u.hart n).resv ≠ some ⟨pa.toNat / 64, true⟩)) :=
  ⟨⟨h0, 8, .b8, .pma, m0, (by decide +kernel), (by decide +kernel), (by decide +kernel), (by decide +kernel), (by decide +kernel), (by decide +kernel), (by decide +kernel)⟩,
   ⟨h0, .add, 0x80000000000000, .b8, .pma, m0, (by decide +kernel), (by decide +kernel), (by decide +kernel), (by decide +kernel), (by decide +kernel), (by decide +kernel), (by decide +kernel), (by decide +kernel), (by decide +kernel)⟩,
   ⟨h0, .add, 0x7FFFFFFFFFFFFF, .b1, .pma, m0, (by decide +kernel), (by decide +kernel), (by decide +kernel), (by decide +kernel), (by decide +kernel), (by decide +kernel), (by decide +kernel)⟩,
   ⟨h0, .b16, m0, (by decide +kernel), (by decide +kernel), (by decide +kernel)⟩,
   ⟨h0, 9, .b8, m0, (by decide +kernel), (by decide +kernel), (by decide +kernel), (by decide +kernel), (by decide +kernel), (by decide +kernel)⟩,
   ⟨h0, 0, 0, 0, .pma, m0, (by decide +kernel), (by decide +kernel), (by decide +kernel), (by decide +kernel), (by decide +kernel), (by decide +kernel), (by decide +kernel), (by decide +kernel), (by decide +kernel)⟩,
   ⟨h0, 12, .b4, .pma, m0, (by decide +kernel), (by decide +kernel), (by decide +kernel), (by decide +kernel), (by decide +kernel), (by decide +kernel), (by decide +kernel)⟩,
   ⟨h0, 8, .b8, .pma, m0, (by decide +kernel), (by decide +kernel), (by decide +kernel), (by decide +kernel), (by decide +kernel), (by decide +kernel), (by decide +kernel)⟩,
   ⟨h0, 0, .b8, .nc, m0, (by decide +kernel), (by decide +kernel), (by decide +kernel), (by decide +kernel), (by decide +kernel), (by decide +kernel), (by decide +kernel), (by decide +kernel)⟩⟩

theorem test_witness_FencesAndCacheBlocks :
    (∃ h : HartId, ∃ s : State, (s.canIssue h.num = true) ∧ ((s.hart h.num).haltReq = false) ∧ ((s.issue h.num).inRunAhead h.num = false) ∧ ∃ fm : BitVec 4, ∃ pred : BitVec 4, ∃ succ : BitVec 4, (¬ (fm = 8 ∧ pred = 3 ∧ succ = 3)) ∧ (pred ≠ 0) ∧ (succ ≠ 0)) ∧
    (∃ h : HartId, ∃ s : State, (s.canIssue h.num = true) ∧ ((s.hart h.num).haltReq = false) ∧ ((s.issue h.num).inRunAhead h.num = false) ∧ ∃ pred : BitVec 4, ∃ succ : BitVec 4, (pred = 0 ∨ succ = 0)) ∧
    (∃ h : HartId, ∃ s : State, (s.canIssue h.num = true) ∧ ((s.hart h.num).haltReq = false) ∧ ((s.issue h.num).inRunAhead h.num = false)) ∧
    (∃ h : HartId, ∃ pa : Addr, ∃ s : State, (s.canIssue h.num = true) ∧ ((s.hart h.num).haltReq = false) ∧ ((s.issue h.num).inRunAhead h.num = false) ∧ let n := h.num; let u := s.issue n; ∃ m : Pbmt, ((u.hart n).w.envOk 6 1 = .ok) ∧ (routeOf pa.toNat m = .cached)) ∧
    (∃ h : HartId, ∃ pa : Addr, ∃ s : State, (s.canIssue h.num = true) ∧ ((s.hart h.num).haltReq = false) ∧ ((s.issue h.num).inRunAhead h.num = false) ∧ let n := h.num; let u := s.issue n; ∃ m : Pbmt, ((u.hart n).w.envOk 4 2 = .ok) ∧ (routeOf pa.toNat m = .cached)) ∧
    (∃ h : HartId, ∃ s : State, (s.canIssue h.num = true) ∧ ((s.hart h.num).haltReq = false) ∧ ((s.issue h.num).inRunAhead h.num = false) ∧ let n := h.num; let u := s.issue n; ((u.hart n).w.envOk 6 1 = .illegal)) ∧
    (∃ h : HartId, ∃ pa : Addr, ∃ s : State, (s.canIssue h.num = true) ∧ ((s.hart h.num).haltReq = false) ∧ ((s.issue h.num).inRunAhead h.num = false) ∧ let n := h.num; let u := s.issue n; ∃ m : Pbmt, ((u.hart n).w.envOk 7 1 = .ok) ∧ (routeOf pa.toNat m = .cached)) ∧
    (∃ h : HartId, ∃ pa : Addr, ∃ s : State, (s.canIssue h.num = true) ∧ ((s.hart h.num).haltReq = false) ∧ ((s.issue h.num).inRunAhead h.num = false) ∧ let n := h.num; let u := s.issue n; ∃ m : Pbmt, (routeOf pa.toNat m = .cached) ∧ (u.readable n (lineOf pa) = false)) ∧
    (∃ h : HartId, ∃ pa : Addr, ∃ s : State, (s.canIssue h.num = true) ∧ ((s.hart h.num).haltReq = false) ∧ ((s.issue h.num).inRunAhead h.num = false) ∧ let n := h.num; let u := s.issue n; ∃ m : Pbmt, (routeOf pa.toNat m = .cached) ∧ (u.readable n (lineOf pa) = false)) ∧
    (∃ h : HartId, ∃ pa : Addr, ∃ s : State, (s.canIssue h.num = true) ∧ ((s.hart h.num).haltReq = false) ∧ ((s.issue h.num).inRunAhead h.num = false) ∧ let n := h.num; let u := s.issue n; ∃ m : Pbmt, (routeOf pa.toNat m = .cached) ∧ (u.writable n (lineOf pa) = false)) :=
  ⟨⟨h0, m0, (by decide +kernel), (by decide +kernel), (by decide +kernel), 0, 1, 8, (by decide +kernel), (by decide +kernel), (by decide +kernel)⟩,
   ⟨h0, m0, (by decide +kernel), (by decide +kernel), (by decide +kernel), 0, 0, (by decide +kernel)⟩,
   ⟨h0, m0, (by decide +kernel), (by decide +kernel), (by decide +kernel)⟩,
   ⟨h0, 0, m0, (by decide +kernel), (by decide +kernel), (by decide +kernel), .pma, (by decide +kernel), (by decide +kernel)⟩,
   ⟨h0, 0, m0, (by decide +kernel), (by decide +kernel), (by decide +kernel), .pma, (by decide +kernel), (by decide +kernel)⟩,
   ⟨h0, go { priv := 1 }, (by decide +kernel), (by decide +kernel), (by decide +kernel), (by decide +kernel)⟩,
   ⟨h0, 0, m0, (by decide +kernel), (by decide +kernel), (by decide +kernel), .pma, (by decide +kernel), (by decide +kernel)⟩,
   ⟨h0, 0, m0, (by decide +kernel), (by decide +kernel), (by decide +kernel), .pma, (by decide +kernel), (by decide +kernel)⟩,
   ⟨h0, 0, m0, (by decide +kernel), (by decide +kernel), (by decide +kernel), .pma, (by decide +kernel), (by decide +kernel)⟩,
   ⟨h0, 0, m0, (by decide +kernel), (by decide +kernel), (by decide +kernel), .pma, (by decide +kernel), (by decide +kernel)⟩⟩

theorem test_witness_HartWaits :
    (∃ h : HartId, ∃ s : State, (s.canIssue h.num = true) ∧ ((s.hart h.num).haltReq = false) ∧ ((s.issue h.num).inRunAhead h.num = false)) ∧
    (∃ h : HartId, ∃ s : State, (s.canIssue h.num = true) ∧ ((s.hart h.num).haltReq = false) ∧ ((s.issue h.num).inRunAhead h.num = false) ∧ let n := h.num; let u := s.issue n; ((u.hart n).resv.isNone = true ∨ (u.hart n).w.intReady = true)) ∧
    (∃ h : HartId, ∃ s : State, (s.canIssue h.num = true) ∧ ((s.hart h.num).haltReq = false) ∧ ((s.issue h.num).inRunAhead h.num = false) ∧ let n := h.num; let u := s.issue n; ((u.hart n).resv.isNone = false) ∧ ((u.hart n).w.intReady = false)) ∧
    (∃ h : HartId, ∃ k : Nat, ∃ s : State, (s.panelParked (h.num / 32) = false) ∧ ((s.hart h.num).wait = .pause k)) ∧
    (∃ h : HartId, ∃ t : Nat, ∃ s : State, (s.panelParked (h.num / 32) = false) ∧ ((s.hart h.num).wait = .wrsSto t)) ∧
    (∃ h : HartId, ∃ t : Nat, ∃ s : State, (s.panelParked (h.num / 32) = false) ∧ ((s.hart h.num).wait = .wfi t) ∧ ((s.hart h.num).mode = .park) ∧ (bit ((s.hart h.num).w.csrVal 0x300).toNat 21 = true) ∧ ((s.hart h.num).w.priv < 3)) ∧
    (∃ h : HartId, ∃ irq : Fin 64, ∃ s : State, ((irq.val = 3 ∨ irq.val = 7 ∨ irq.val = 11) ∧ (s.hart h.num).pocket ≠ 0) ∧ (s.preemptExt (s.hart h.num).pocket.toNat = false)) ∧
    (∃ h : HartId, ∃ irq : Fin 64, ∃ s : State, (¬ ((irq.val = 3 ∨ irq.val = 7 ∨ irq.val = 11) ∧ (s.hart h.num).pocket ≠ 0))) ∧
    (∃ h : HartId, ∃ s : State, (s.panelParked (h.num / 32) = false) ∧ let u := s.pump h.num; ((u.hart h.num).fences ≠ []) ∧ (∀ f ∈ (u.hart h.num).fences, (u.hart h.num).fenceDone f = true)) :=
  ⟨⟨h0, m0, (by decide +kernel), (by decide +kernel), (by decide +kernel)⟩,
   ⟨h0, m0, (by decide +kernel), (by decide +kernel), (by decide +kernel), (by decide +kernel)⟩,
   ⟨h0, hs { mode := .run, resv := some ⟨0, false⟩ }, (by decide +kernel), (by decide +kernel), (by decide +kernel), (by decide +kernel), (by decide +kernel)⟩,
   ⟨h0, 3, hs { mode := .run, wait := .pause 3 }, (by decide +kernel), (by decide +kernel)⟩,
   ⟨h0, 0, hs { mode := .park, wait := .wrsSto 0 }, (by decide +kernel), (by decide +kernel)⟩,
   ⟨h0, 0, hs { mode := .park, wait := .wfi 0, w := { priv := 2, csr := [(0x300, 0x200000)] } }, (by decide +kernel), (by decide +kernel), (by decide +kernel), (by decide +kernel), (by decide +kernel)⟩,
   ⟨h0, 11, go { csr := [(0x5C0, 1)] }, (by decide +kernel), (by decide +kernel)⟩,
   ⟨h0, 11, m0, (by decide +kernel)⟩,
   ⟨h0, hs { fences := [{ pred := 1, succ := 1, at' := 0 }] }, (by decide +kernel), (by decide +kernel), (by decide +kernel)⟩⟩

theorem test_witness_SpeculationAndSleep :
    (∃ h : HartId, ∃ e : Acc, ∃ l : List Acc, ∃ line : Nat, ∃ s : State, (s.canIssue h.num = true) ∧ ((s.hart h.num).ra = none) ∧ (bit (s.csr h.num csr_mkctl).toNat 10 = true) ∧ ((s.hart h.num).acc = e :: l) ∧ (((accLines e).find? fun l => !s.readable h.num l) = some line) ∧ (e.kind = .load) ∧ (e.own = false) ∧ (e.spec = false)) ∧
    (∃ h : HartId, ∃ s : State, (s.panelParked (h.num / 32) = false)) ∧
    (∃ h : HartId, ∃ pa : Addr, ∃ e : Acc, ∃ s : State, (s.panelParked (h.num / 32) = false) ∧ let u := (s.bump h.num 0x10).bump h.num 0x11; (((u.hart h.num).acc.find? fun e => e.spec && lineOf e.pa == lineOf pa) = some e)) ∧
    (∃ h : HartId, ∃ s : State, (s.panelParked (h.num / 32) = false) ∧ ((s.hart h.num).mode = .park) ∧ (s.sleepUs ≠ 0)) ∧
    (∃ h : HartId, ∃ t : Nat, ∃ s : State, (s.panelParked (h.num / 32) = false) ∧ ((s.hart h.num).mode = .sleep) ∧ ((s.hart h.num).wait = .wfi t) ∧ ((s.hart h.num).w.intReady = true)) :=
  ⟨⟨h0, acc0 0, [], 0, hs { mode := .run, acc := [acc0 0], w := { csr := [(0x7C2, 0x400)] } }, (by decide +kernel), (by decide +kernel), (by decide +kernel), (by decide +kernel), (by decide +kernel), (by decide +kernel), (by decide +kernel), (by decide +kernel)⟩,
   ⟨h0, State.reset, (by decide +kernel)⟩,
   ⟨h0, 0, { acc0 0 with spec := true }, hs { acc := [{ acc0 0 with spec := true }] }, (by decide +kernel), (by decide +kernel)⟩,
   ⟨h0, hs { mode := .park }, (by decide +kernel), (by decide +kernel), (by decide +kernel)⟩,
   ⟨h0, 0, hs { mode := .sleep, wait := .wfi 0, w := { csr := [(0x304, 8), (0x344, 8)] } }, (by decide +kernel), (by decide +kernel), (by decide +kernel), (by decide +kernel)⟩⟩

theorem test_witness_WorldsAndCustomCsrs :
    (∃ h : HartId, ∃ s : State, (s.canIssue h.num = true) ∧ ((s.hart h.num).haltReq = false) ∧ ((s.issue h.num).inRunAhead h.num = false) ∧ let n := h.num; let u := s.issue n; ((u.hart n).w.customCheck csr_mkctl true = none)) ∧
    (∃ h : HartId, ∃ s : State, (s.canIssue h.num = true) ∧ ((s.hart h.num).haltReq = false) ∧ ((s.issue h.num).inRunAhead h.num = false) ∧ let n := h.num; let u := s.issue n; ((u.hart n).w.customCheck csr_mkcmo true = none)) ∧
    (∃ h : HartId, ∃ s : State, (s.canIssue h.num = true) ∧ ((s.hart h.num).haltReq = false) ∧ ((s.issue h.num).inRunAhead h.num = false) ∧ let n := h.num; let u := s.issue n; ((u.hart n).w.customCheck csr_mkdoor true = none)) ∧
    (∃ h : HartId, ∃ s : State, (s.canIssue h.num = true) ∧ ((s.hart h.num).haltReq = false) ∧ ((s.issue h.num).inRunAhead h.num = false) ∧ let n := h.num; let u := s.issue n; ((u.hart n).w.customCheck csr_mkdoor true = none) ∧ ∃ pocket : Pocket, ∃ slot : BitVec 8, let d := u.updHart n fun x => { x with w := x.w.doorTarget pocket slot.toNat }; ((d.hart n).pocket = 0) ∧ (d.service = true)) ∧
    (∃ h : HartId, ∃ s : State, (s.canIssue h.num = true) ∧ ((s.hart h.num).haltReq = false) ∧ ((s.issue h.num).inRunAhead h.num = false) ∧ let n := h.num; let u := s.issue n; ((u.hart n).w.customCheck csr_mkdoor true = none) ∧ ∃ pocket : Pocket, ∃ slot : BitVec 8, let d := u.updHart n fun x => { x with w := x.w.doorTarget pocket slot.toNat }; ((d.hart n).pocket ≠ 0 ∨ d.service = false)) ∧
    (∃ h : HartId, ∃ s : State, (s.canIssue h.num = true) ∧ ((s.hart h.num).haltReq = false) ∧ ((s.issue h.num).inRunAhead h.num = false) ∧ let n := h.num; let u := s.issue n; ((u.hart n).w.customCheck csr_mkdoor true = none) ∧ ∃ pocket : Pocket, ∃ slot : BitVec 8, let d := u.updHart n fun x => { x with w := x.w.doorTarget pocket slot.toNat }; ((d.hart n).pocket ≠ 0) ∧ ((d.hart n).host.isNone = false)) ∧
    (∃ h : HartId, ∃ s : State, (s.canIssue h.num = true) ∧ ((s.hart h.num).haltReq = false) ∧ ((s.issue h.num).inRunAhead h.num = false) ∧ let n := h.num; let u := s.issue n; ((u.hart n).w.customCheck csr_mkdoor true = none) ∧ ∃ pocket : Pocket, ∃ slot : BitVec 8, let d := u.updHart n fun x => { x with w := x.w.doorTarget pocket slot.toNat }; ((d.hart n).pocket = 0 ∨ (d.hart n).host.isNone = true)) ∧
    (∃ h : HartId, ∃ s : State, (s.canIssue h.num = true) ∧ ((s.hart h.num).haltReq = false) ∧ ((s.issue h.num).inRunAhead h.num = false) ∧ let n := h.num; let u := s.issue n; ∃ c : Nat, ((u.hart n).w.customCheck csr_mkctl true = some c)) ∧
    (∃ h : HartId, ∃ op : Nat, ∃ t : Timer, ∃ s : State, (s.panelParked (h.num / 32) = false) ∧ ((s.hart h.num).wait = .door op t) ∧ ((s.hart h.num).acc = []) ∧ ((s.hart h.num).io = []) ∧ let n := h.num; let d := (s.hart n).w.csrVal csr_mkdoor; (op = 1) ∧ (s.entryVerdict n (bitsAt d 44 12) (bitsAt d 32 8) = .accepted)) ∧
    (∃ h : HartId, ∃ op : Nat, ∃ t : Timer, ∃ s : State, (s.panelParked (h.num / 32) = false) ∧ ((s.hart h.num).wait = .door op t) ∧ ((s.hart h.num).acc = []) ∧ ((s.hart h.num).io = []) ∧ let n := h.num; let d := (s.hart n).w.csrVal csr_mkdoor; (op = 1) ∧ (s.entryVerdict n (bitsAt d 44 12) (bitsAt d 32 8) = .refused)) ∧
    (∃ h : HartId, ∃ op : Nat, ∃ t : Timer, ∃ s : State, (s.panelParked (h.num / 32) = false) ∧ ((s.hart h.num).wait = .door op t) ∧ ((s.hart h.num).acc = []) ∧ ((s.hart h.num).io = []) ∧ let n := h.num; let d := (s.hart n).w.csrVal csr_mkdoor; (op = 1) ∧ (s.entryVerdict n (bitsAt d 44 12) (bitsAt d 32 8) = .violation)) ∧
    (∃ h : HartId, ∃ op : Nat, ∃ t : Timer, ∃ s : State, (s.panelParked (h.num / 32) = false) ∧ ((s.hart h.num).wait = .door op t) ∧ ((s.hart h.num).acc = []) ∧ ((s.hart h.num).io = []) ∧ (op = 2)) :=
  ⟨⟨h0, m0, (by decide +kernel), (by decide +kernel), (by decide +kernel), (by decide +kernel)⟩,
   ⟨h0, m0, (by decide +kernel), (by decide +kernel), (by decide +kernel), (by decide +kernel)⟩,
   ⟨h0, m0, (by decide +kernel), (by decide +kernel), (by decide +kernel), (by decide +kernel)⟩,
   ⟨h0, { m0 with regs := svc.regs }, (by decide +kernel), (by decide +kernel), (by decide +kernel), (by decide +kernel), 0, 0, (by decide +kernel), (by decide +kernel)⟩,
   ⟨h0, m0, (by decide +kernel), (by decide +kernel), (by decide +kernel), (by decide +kernel), 0, 0, (by decide +kernel)⟩,
   ⟨h0, hs { mode := .run, w := { priv := 1, csr := [(0x5C0, 1)] }, host := some {} }, (by decide +kernel), (by decide +kernel), (by decide +kernel), (by decide +kernel), 0, 0, (by decide +kernel), (by decide +kernel)⟩,
   ⟨h0, m0, (by decide +kernel), (by decide +kernel), (by decide +kernel), (by decide +kernel), 0, 0, (by decide +kernel)⟩,
   ⟨h0, go { priv := 1 }, (by decide +kernel), (by decide +kernel), (by decide +kernel), 2, (by decide +kernel)⟩,
   ⟨h0, 1, ⟨2, 0, 0, 0⟩, pk1 (doorWait 1 0x0000100100000000), (by decide +kernel), (by decide +kernel), (by decide +kernel), (by decide +kernel), (by decide +kernel), (by decide +kernel)⟩,
   ⟨h0, 1, ⟨2, 0, 0, 0⟩, pk1 (doorWait 1 0x0000100200000000), (by decide +kernel), (by decide +kernel), (by decide +kernel), (by decide +kernel), (by decide +kernel), (by decide +kernel)⟩,
   ⟨h0, 1, ⟨2, 0, 0, 0⟩, pk1 (doorWait 1 0x0000200000000000), (by decide +kernel), (by decide +kernel), (by decide +kernel), (by decide +kernel), (by decide +kernel), (by decide +kernel)⟩,
   ⟨h0, 2, ⟨2, 0, 0, 0⟩, doorWait 2 0, (by decide +kernel), (by decide +kernel), (by decide +kernel), (by decide +kernel), (by decide +kernel)⟩⟩

theorem test_witness_WideScalar :
    (∃ h : HartId, ∃ rd : Fin 32, ∃ rs1 : Fin 32, ∃ rs2 : Fin 32, ∃ rs3 : Fin 32, ∃ s : State, (s.canIssue h.num = true) ∧ ((s.hart h.num).haltReq = false) ∧ ((s.issue h.num).inRunAhead h.num = false) ∧ let n := h.num; let u := s.issue n; let w := (u.hart n).w; ∃ op : QOp, ∃ rm : Rm, ((qRegs rd rs1 rs2 rs3).any (s.hart n).busyRegs.contains = false) ∧ (w.isOff 13 = false) ∧ (op.rounds = true → (if rm = 7 then w.frm else rm.toNat) ≤ 4)) ∧
    (∃ h : HartId, ∃ rd : Fin 32, ∃ rs1 : Fin 32, ∃ rs2 : Fin 32, ∃ rs3 : Fin 32, ∃ s : State, (s.canIssue h.num = true) ∧ ((s.hart h.num).haltReq = false) ∧ ((s.issue h.num).inRunAhead h.num = false) ∧ let n := h.num; let u := s.issue n; let w := (u.hart n).w; ∃ op : QOp, ∃ rm : Rm, ((qRegs rd rs1 rs2 rs3).any (s.hart n).busyRegs.contains = false) ∧ (w.isOff 13 = true ∨ (op.rounds = true ∧ 4 < (if rm = 7 then w.frm else rm.toNat)))) ∧
    (∃ h : HartId, ∃ rd : Fin 32, ∃ rs1 : Fin 32, ∃ s : State, (s.canIssue h.num = true) ∧ ((s.hart h.num).haltReq = false) ∧ ((s.issue h.num).inRunAhead h.num = false) ∧ let n := h.num; let u := s.issue n; let w := (u.hart n).w; ([rd.val, 32 + rs1.val].any (s.hart n).busyRegs.contains = false) ∧ (w.isOff 13 = false)) ∧
    (∃ h : HartId, ∃ rd : Fin 32, ∃ rs1 : Fin 32, ∃ rs2 : Fin 32, ∃ s : State, (s.canIssue h.num = true) ∧ ((s.hart h.num).haltReq = false) ∧ ((s.issue h.num).inRunAhead h.num = false) ∧ let n := h.num; let u := s.issue n; let w := (u.hart n).w; ([32 + rd.val, rs1.val, rs2.val].any (s.hart n).busyRegs.contains = false) ∧ (w.isOff 13 = false)) ∧
    (∃ h : HartId, ∃ rd : Fin 32, ∃ s : State, (s.canIssue h.num = true) ∧ ((s.hart h.num).haltReq = false) ∧ ((s.issue h.num).inRunAhead h.num = false) ∧ let n := h.num; let u := s.issue n; let w := (u.hart n).w; ∃ a : VAvl, ((rd.val :: 96 :: (match a with | .reg r => [r.val] | .imm _ => [])).any (s.hart n).busyRegs.contains = false) ∧ (w.isOff 9 = false)) ∧
    (∃ h : HartId, ∃ rd : Fin 32, ∃ s : State, (s.canIssue h.num = true) ∧ ((s.hart h.num).haltReq = false) ∧ ((s.issue h.num).inRunAhead h.num = false) ∧ let n := h.num; let u := s.issue n; let w := (u.hart n).w; ∃ a : VAvl, ((rd.val :: 96 :: (match a with | .reg r => [r.val] | .imm _ => [])).any (s.hart n).busyRegs.contains = false) ∧ (w.isOff 9 = true)) :=
  ⟨⟨h0, 0, 0, 0, 0, vgo [], (by decide +kernel), (by decide +kernel), (by decide +kernel), .add, 4, (by decide +kernel), (by decide +kernel), (by decide +kernel)⟩,
   ⟨h0, 0, 0, 0, 0, vgo [], (by decide +kernel), (by decide +kernel), (by decide +kernel), .add, 5, (by decide +kernel), (by decide +kernel)⟩,
   ⟨h0, 0, 0, vgo [], (by decide +kernel), (by decide +kernel), (by decide +kernel), (by decide +kernel), (by decide +kernel)⟩,
   ⟨h0, 0, 0, 0, vgo [], (by decide +kernel), (by decide +kernel), (by decide +kernel), (by decide +kernel), (by decide +kernel)⟩,
   ⟨h0, 0, vgo [], (by decide +kernel), (by decide +kernel), (by decide +kernel), (.imm 0), (by decide +kernel), (by decide +kernel)⟩,
   ⟨h0, 0, m0, (by decide +kernel), (by decide +kernel), (by decide +kernel), (.imm 0), (by decide +kernel), (by decide +kernel)⟩⟩

theorem test_witness_WideVector :
    (∃ h : HartId, ∃ vd : Fin 32, ∃ vs2 : Fin 32, ∃ src : VSrc, ∃ vm : Bool, ∃ s : State, (s.canIssue h.num = true) ∧ ((s.hart h.num).haltReq = false) ∧ ((s.issue h.num).inRunAhead h.num = false) ∧ let n := h.num; let u := s.issue n; let w := (u.hart n).w; let r := srcRegs src; ∃ op : VOp, ∃ l : Int, ((vRegs (vd.val :: vs2.val :: r.1) ([32 + vd.val] ++ r.2)).any (s.hart n).busyRegs.contains = false) ∧ (w.vReady 7 (!vopPlain op) = some l) ∧ (w.vopOk op vd vs2 src vm l = true)) ∧
    (∃ h : HartId, ∃ vd : Fin 32, ∃ vs2 : Fin 32, ∃ src : VSrc, ∃ s : State, (s.canIssue h.num = true) ∧ ((s.hart h.num).haltReq = false) ∧ ((s.issue h.num).inRunAhead h.num = false) ∧ let n := h.num; let u := s.issue n; let w := (u.hart n).w; let r := srcRegs src; ∃ op : VOp, ((vRegs (vd.val :: vs2.val :: r.1) ([32 + vd.val] ++ r.2)).any (s.hart n).busyRegs.contains = false) ∧ (w.vReady 7 (!vopPlain op) = none)) ∧
    (∃ h : HartId, ∃ vd : Fin 32, ∃ vs2 : Fin 32, ∃ src : VSrc, ∃ vm : Bool, ∃ s : State, (s.canIssue h.num = true) ∧ ((s.hart h.num).haltReq = false) ∧ ((s.issue h.num).inRunAhead h.num = false) ∧ let n := h.num; let u := s.issue n; let w := (u.hart n).w; let r := srcRegs src; ∃ op : VDiv, ∃ l : Int, ((vRegs (vd.val :: vs2.val :: r.1) r.2).any (s.hart n).busyRegs.contains = false) ∧ (w.vReady 7 true = some l) ∧ (vdivOk op vd vs2 src vm l = true)) ∧
    (∃ h : HartId, ∃ vd : Fin 32, ∃ vs2 : Fin 32, ∃ src : VSrc, ∃ vm : Bool, ∃ s : State, (s.canIssue h.num = true) ∧ ((s.hart h.num).haltReq = false) ∧ ((s.issue h.num).inRunAhead h.num = false) ∧ let n := h.num; let u := s.issue n; let w := (u.hart n).w; let r := srcRegs src; ∃ op : VWOp, ∃ l : Int, ((vRegs (vd.val :: vs2.val :: r.1) r.2).any (s.hart n).busyRegs.contains = false) ∧ (w.vReady 6 true = some l) ∧ (vwRegsOk op vd vs2 src vm l = true)) ∧
    (∃ h : HartId, ∃ vd : Fin 32, ∃ vs2 : Fin 32, ∃ vs1 : Fin 32, ∃ s : State, (s.canIssue h.num = true) ∧ ((s.hart h.num).haltReq = false) ∧ ((s.issue h.num).inRunAhead h.num = false) ∧ let n := h.num; let u := s.issue n; let w := (u.hart n).w; ∃ op : VRed, ∃ l : Int, ((vRegs [vd.val, vs2.val, vs1.val] []).any (s.hart n).busyRegs.contains = false) ∧ (w.vReady (if vredWide op then 6 else 7) true = some l) ∧ ((w.csrVal csr_vstart).toNat = 0) ∧ (groupOk vs2 l = true)) ∧
    (∃ h : HartId, ∃ vd : Fin 32, ∃ vs1 : Fin 32, ∃ src : VSrc, ∃ vm : Bool, ∃ s : State, (s.canIssue h.num = true) ∧ ((s.hart h.num).haltReq = false) ∧ ((s.issue h.num).inRunAhead h.num = false) ∧ let n := h.num; let u := s.issue n; let w := (u.hart n).w; let r := srcRegs src; ∃ isStore : Bool, ∃ mode : VMem, ∃ nf : Fin 8, ∃ l : Int, ∃ evl : Nat, ((s.hart n).fenceHolds (if isStore then 5 else 10) = false) ∧ ((vRegs (vd.val :: (match mode with | .indexed v _ => [v.val] | _ => [])) (vs1.val :: (match mode with | .strided r => [r.val] | _ => []))).any (s.hart n).busyRegs.contains = false) ∧ (w.vMemShape mode = some (l, evl)) ∧ (w.isOff 9 = false) ∧ (vMemOk isStore mode nf vd vm l = true)) :=
  ⟨⟨h0, 8, 16, .v 0, true, vgo [(0xC21, 32)], (by decide +kernel), (by decide +kernel), (by decide +kernel), .fadd, 0, (by decide +kernel), (by decide +kernel), (by decide +kernel)⟩,
   ⟨h0, 8, 16, .v 0, vgo [], (by decide +kernel), (by decide +kernel), (by decide +kernel), .fadd, (by decide +kernel), (by decide +kernel)⟩,
   ⟨h0, 8, 16, .v 0, true, vgo [(0xC21, 32)], (by decide +kernel), (by decide +kernel), (by decide +kernel), .div, 0, (by decide +kernel), (by decide +kernel), (by decide +kernel)⟩,
   ⟨h0, 8, 16, .v 0, true, vgo [(0xC21, 24)], (by decide +kernel), (by decide +kernel), (by decide +kernel), .wadd, 0, (by decide +kernel), (by decide +kernel), (by decide +kernel)⟩,
   ⟨h0, 8, 16, 24, vgo [(0xC21, 32)], (by decide +kernel), (by decide +kernel), (by decide +kernel), .osum, 0, (by decide +kernel), (by decide +kernel), (by decide +kernel), (by decide +kernel)⟩,
   ⟨h0, 8, 24, .v 0, true, vgo [(0xC21, 32)], (by decide +kernel), (by decide +kernel), (by decide +kernel), false, .unit, 0, 0, 0, (by decide +kernel), (by decide +kernel), (by decide +kernel), (by decide +kernel), (by decide +kernel)⟩⟩

theorem test_witness_RequestsAtTheHome :
    (∃ h : SliceId, ∃ r : Hdr, ∃ s : State, (s.thm.parkAll = false) ∧ (r.crcOk = true) ∧ (s.saddleState (h.num / 24) ≠ 1) ∧ (s.fenceIsOpen (.llc (Fin.ofNat 4 (h.num / 24))) = true)) ∧
    (∃ h : SliceId, ∃ r : Hdr, ∃ s : State, (s.thm.parkAll = false) ∧ (r.crcOk = true) ∧ (s.saddleState (h.num / 24) ≠ 1) ∧ (s.fenceIsOpen (.llc (Fin.ofNat 4 (h.num / 24))) = true)) ∧
    (∃ h : SliceId, ∃ r : Hdr, ∃ s : State, (s.thm.parkAll = false) ∧ (r.crcOk = true) ∧ (s.saddleState (h.num / 24) ≠ 1) ∧ (s.fenceIsOpen (.llc (Fin.ofNat 4 (h.num / 24))) = true)) ∧
    (∃ h : SliceId, ∃ r : Hdr, ∃ s : State, (s.thm.parkAll = false) ∧ (r.crcOk = true) ∧ (s.saddleState (h.num / 24) ≠ 1) ∧ (s.fenceIsOpen (.llc (Fin.ofNat 4 (h.num / 24))) = true)) ∧
    (∃ h : SliceId, ∃ r : Hdr, ∃ s : State, (s.thm.parkAll = false) ∧ (r.crcOk = true) ∧ (s.saddleState (h.num / 24) ≠ 1) ∧ (s.fenceIsOpen (.llc (Fin.ofNat 4 (h.num / 24))) = true)) ∧
    (∃ r : Hdr, ∃ s : State, (s.thm.parkAll = false) ∧ (r.crcOk = false)) ∧
    (∃ h : SliceId, ∃ r : Hdr, ∃ s : State, (s.thm.parkAll = false) ∧ (r.crcOk = true) ∧ (s.saddleState (h.num / 24) ≠ 1) ∧ (s.fenceIsOpen (.llc (Fin.ofNat 4 (h.num / 24))) = false)) :=
  ⟨⟨sl0, hdr0, openF (.llc 0) State.reset, (by decide +kernel), (by decide +kernel), (by decide +kernel), (by decide +kernel)⟩,
   ⟨sl0, hdr0, openF (.llc 0) State.reset, (by decide +kernel), (by decide +kernel), (by decide +kernel), (by decide +kernel)⟩,
   ⟨sl0, hdr0, openF (.llc 0) State.reset, (by decide +kernel), (by decide +kernel), (by decide +kernel), (by decide +kernel)⟩,
   ⟨sl0, hdr0, openF (.llc 0) State.reset, (by decide +kernel), (by decide +kernel), (by decide +kernel), (by decide +kernel)⟩,
   ⟨sl0, hdr0, openF (.llc 0) State.reset, (by decide +kernel), (by decide +kernel), (by decide +kernel), (by decide +kernel)⟩,
   ⟨{ hdr0 with crcOk := false }, openF (.llc 0) State.reset, (by decide +kernel), (by decide +kernel)⟩,
   ⟨sl0, hdr0, State.reset, (by decide +kernel), (by decide +kernel), (by decide +kernel), (by decide +kernel)⟩⟩

theorem test_witness_SnoopsAndLaps :
    (∃ p : PortId, ∃ r : Hdr, ∃ s : State, (s.panelParked p.panel.val = false) ∧ (r.crcOk = false)) ∧
    (∃ p : PortId, ∃ r : Hdr, ∃ s : State, (s.panelParked p.panel.val = false) ∧ (r.crcOk = true) ∧ (s.fenceState (.panel (Fin.ofNat 12 (p.num / 2))) = 0) ∧ (s.fld (R.fenceStatus (.panel (Fin.ofNat 12 (p.num / 2)))) F.fenceStatus_FAULTED ≠ 1)) ∧
    (∃ p : PortId, ∃ r : Hdr, ∃ byHome : Bool, ∃ s : State, (s.panelParked p.panel.val = false) ∧ (r.crcOk = true) ∧ (s.fenceState (.panel (Fin.ofNat 12 (p.num / 2))) = 0) ∧ (s.fld (R.fenceStatus (.panel (Fin.ofNat 12 (p.num / 2)))) F.fenceStatus_FAULTED ≠ 1) ∧ (byHome = false)) ∧
    (∃ c : HartId, ∃ h : SliceId, ∃ r : Hdr, ∃ reqOp : BitVec 8, ∃ err : CacheErr, ∃ s : State, (s.panelParked (c.num / 32) = false) ∧ let u := (s.updPort (portOf c.num (lineOf r.pa)) fun p => { p with hem := p.hem.eraseP fun w => w.core == c.num % 32 && lineOf w.r.pa == lineOf r.pa && w.home == h.num }).cacheError c.num r.pa err; let l := (u.hart c.num).l2Line (lineOf r.pa); (l.held = true) ∧ (reqOp ≠ 0x02) ∧ (l.st = .M ∨ l.st = .E)) ∧
    (∃ c : HartId, ∃ h : SliceId, ∃ r : Hdr, ∃ reqOp : BitVec 8, ∃ err : CacheErr, ∃ s : State, (s.panelParked (c.num / 32) = false) ∧ let u := (s.updPort (portOf c.num (lineOf r.pa)) fun p => { p with hem := p.hem.eraseP fun w => w.core == c.num % 32 && lineOf w.r.pa == lineOf r.pa && w.home == h.num }).cacheError c.num r.pa err; let l := (u.hart c.num).l2Line (lineOf r.pa); (l.held = false ∨ reqOp = 0x02 ∨ (l.st ≠ .M ∧ l.st ≠ .E))) ∧
    (∃ c : HartId, ∃ pa : Addr, ∃ s : State, (s.panelParked (c.num / 32) = false) ∧ (((s.hart c.num).l2Line (lineOf pa)).held = true)) ∧
    (∃ h : SliceId, ∃ pa : Addr, ∃ lap : Word, ∃ t : Tx, ∃ s : State, (s.thm.parkAll = false) ∧ (s.tx h.num (lineOf pa) = some t) ∧ (t.lapOut = true) ∧ (t.lapSeen = false) ∧ (((List.range 12).find? fun p => lapCode lap p == 7) = none) ∧ (((List.range 12).filter fun p => lapCode lap p == 5 || lapCode lap p == 3) = [])) ∧
    (∃ h : SliceId, ∃ pa : Addr, ∃ src : BitVec 8, ∃ txid : BitVec 12, ∃ t : Tx, ∃ s : State, (s.thm.parkAll = false) ∧ (s.tx h.num (lineOf pa) = some t) ∧ (t.req.src = src) ∧ (t.req.txid = txid) ∧ (t.granted = true)) ∧
    (∃ h : SliceId, ∃ pa : Addr, ∃ t : Tx, ∃ s : State, (s.thm.parkAll = false) ∧ (s.tx h.num (lineOf pa) = some t)) ∧
    (∃ h : SliceId, ∃ pa : Addr, ∃ k : FwdKind, ∃ t : Tx, ∃ s : State, (s.thm.parkAll = false) ∧ (s.tx h.num (lineOf pa) = some t) ∧ (k ≠ .lost)) :=
  ⟨⟨⟨0, 0⟩, { hdr0 with crcOk := false }, State.reset, (by decide +kernel), (by decide +kernel)⟩,
   ⟨⟨0, 0⟩, hdr0, State.reset, (by decide +kernel), (by decide +kernel), (by decide +kernel), (by decide +kernel)⟩,
   ⟨⟨0, 0⟩, hdr0, false, State.reset, (by decide +kernel), (by decide +kernel), (by decide +kernel), (by decide +kernel), (by decide +kernel)⟩,
   ⟨h0, sl0, hdr0, 3, .none, l2at .M true, (by decide +kernel), (by decide +kernel), (by decide +kernel), (by decide +kernel)⟩,
   ⟨h0, sl0, hdr0, 2, .none, l2at .M true, (by decide +kernel), (by decide +kernel)⟩,
   ⟨h0, 0, l2at .M true, (by decide +kernel), (by decide +kernel)⟩,
   ⟨sl0, 0, 0, { tx1 with lapOut := true }, txn { tx1 with lapOut := true }, (by decide +kernel), (by decide +kernel), (by decide +kernel), (by decide +kernel), (by decide +kernel), (by decide +kernel)⟩,
   ⟨sl0, 0, 0, 0, { tx1 with granted := true }, txn { tx1 with granted := true }, (by decide +kernel), (by decide +kernel), (by decide +kernel), (by decide +kernel), (by decide +kernel)⟩,
   ⟨sl0, 0, tx1, txn tx1, (by decide +kernel), (by decide +kernel)⟩,
   ⟨sl0, 0, .forwarded, tx1, txn tx1, (by decide +kernel), (by decide +kernel), (by decide +kernel)⟩⟩

theorem test_witness_WritebacksAtTheHome :
    (∃ h : SliceId, ∃ p : PortId, ∃ pa : Addr, ∃ sent : Nat, ∃ s : State, (s.thm.parkAll = false) ∧ let line := lineOf pa; let u := ((s.arrive fun q => q.op == 0x31 && lineOf q.pa == line && q.src == BitVec.ofNat 8 (portEyelet p.num)).updPort p.num fun x => { x with leaving := x.leaving.map fun l => if l.line == line && l.st == .M then { l with sent := true } else l }); let v := u.updSlice h.num fun x => x.clearResv line; ((v.slice h.num).tokens.any (isToken line (p.num / 2) false) = false) ∧ (v.staleSuspect h.num sent = false)) ∧
    (∃ h : SliceId, ∃ p : PortId, ∃ pa : Addr, ∃ sent : Nat, ∃ s : State, (s.thm.parkAll = false) ∧ let line := lineOf pa; let u := ((s.arrive fun q => q.op == 0x31 && lineOf q.pa == line && q.src == BitVec.ofNat 8 (portEyelet p.num)).updPort p.num fun x => { x with leaving := x.leaving.map fun l => if l.line == line && l.st == .M then { l with sent := true } else l }); let v := u.updSlice h.num fun x => x.clearResv line; ((v.slice h.num).tokens.any (isToken line (p.num / 2) false) = false) ∧ (v.staleSuspect h.num sent = true)) ∧
    (∃ h : SliceId, ∃ p : PortId, ∃ pa : Addr, ∃ sent : Nat, ∃ s : State, (s.thm.parkAll = false) ∧ let line := lineOf pa; let u := ((s.arrive fun q => q.op == 0x31 && lineOf q.pa == line && q.src == BitVec.ofNat 8 (portEyelet p.num)).updPort p.num fun x => { x with leaving := x.leaving.map fun l => if l.line == line && l.st == .M then { l with sent := true } else l }); let v := u.updSlice h.num fun x => x.clearResv line; ((v.slice h.num).tokens.any (isToken line (p.num / 2) false) = true)) ∧
    (∃ h : SliceId, ∃ p : PortId, ∃ pa : Addr, ∃ sent : Nat, ∃ s : State, (s.thm.parkAll = false) ∧ let line := lineOf pa; let u := ((s.arrive fun q => q.op == 0x32 && lineOf q.pa == line && q.src == BitVec.ofNat 8 (portEyelet p.num)).updPort p.num fun x => { x with leaving := x.leaving.map fun l => if l.line == line && l.st != .M then { l with sent := true } else l }); ((u.slice h.num).tokens.any (isToken line (p.num / 2) true) = false) ∧ (u.staleSuspect h.num sent = false)) ∧
    (∃ h : SliceId, ∃ p : PortId, ∃ pa : Addr, ∃ sent : Nat, ∃ s : State, (s.thm.parkAll = false) ∧ let line := lineOf pa; let u := ((s.arrive fun q => q.op == 0x32 && lineOf q.pa == line && q.src == BitVec.ofNat 8 (portEyelet p.num)).updPort p.num fun x => { x with leaving := x.leaving.map fun l => if l.line == line && l.st != .M then { l with sent := true } else l }); ((u.slice h.num).tokens.any (isToken line (p.num / 2) true) = true)) ∧
    (∃ h : SliceId, ∃ pa : Addr, ∃ t : Tx, ∃ k : Nat, ∃ s : State, (s.thm.parkAll = false) ∧ (s.tx h.num (lineOf pa) = some t) ∧ (t.req.op ≠ 0x05) ∧ (t.req.op ≠ 0x09) ∧ ((s.slice h.num).entKey (lineOf pa) = some k)) ∧
    (∃ p : PortId, ∃ pa : Addr, ∃ e : Leave, ∃ s : State, (s.panelParked p.panel.val = false) ∧ (((s.port p.num).leaving.find? fun l => l.line == lineOf pa && l.sent) = some e) ∧ (e.keepE = false) ∧ let u := (s.arrive fun q => q.op == 0x13 && q.dst == BitVec.ofNat 8 (portEyelet p.num) && lineOf q.pa == lineOf pa).updPort p.num fun x => { x with leaving := x.leaving.erase e }; (((u.port p.num).leaving.any fun l => l.line == lineOf pa && l.core == e.core) = false)) ∧
    (∃ h : HartId, ∃ pa : Addr, ∃ q : L2Req, ∃ s : State, (s.panelParked (h.num / 32) = false) ∧ (s.lineReq h.num (lineOf pa) = some q)) ∧
    (∃ p : PortId, ∃ s : State, (s.panelParked p.panel.val = false)) :=
  ⟨⟨sl0, ⟨0, 0⟩, 0, 0, State.reset, (by decide +kernel), (by decide +kernel), (by decide +kernel)⟩,
   ⟨sl0, ⟨0, 0⟩, 0, 0, { State.reset with tape := 200000 }, (by decide +kernel), (by decide +kernel), (by decide +kernel)⟩,
   ⟨sl0, ⟨0, 0⟩, 0, 0, slc { tokens := [tok0 false] }, (by decide +kernel), (by decide +kernel)⟩,
   ⟨sl0, ⟨0, 0⟩, 0, 0, State.reset, (by decide +kernel), (by decide +kernel), (by decide +kernel)⟩,
   ⟨sl0, ⟨0, 0⟩, 0, 0, slc { tokens := [tok0 true] }, (by decide +kernel), (by decide +kernel)⟩,
   ⟨sl0, 0, tx1, 0, slc { txs := [tx1], ent := [(0, { st := .owned })] }, (by decide +kernel), (by decide +kernel), (by decide +kernel), (by decide +kernel), (by decide +kernel)⟩,
   ⟨⟨0, 0⟩, 0, { line := 0, core := 0, st := .M, sent := true }, { State.reset with ports := [(0, { leaving := [{ line := 0, core := 0, st := .M, sent := true }] })] }, (by decide +kernel), (by decide +kernel), (by decide +kernel), (by decide +kernel)⟩,
   ⟨h0, 0, req0, hs { reqs := [req0] }, (by decide +kernel), (by decide +kernel)⟩,
   ⟨⟨0, 0⟩, State.reset, (by decide +kernel)⟩⟩

theorem test_witness_Replies :
    (∃ h : HartId, ∃ pa : Addr, ∃ q : L2Req, ∃ s : State, (s.panelParked (h.num / 32) = false) ∧ (s.ownAcc h.num (lineOf pa) = none) ∧ (s.lineReq h.num (lineOf pa) = some q)) ∧
    (∃ h : HartId, ∃ pa : Addr, ∃ q : L2Req, ∃ s : State, (s.panelParked (h.num / 32) = false) ∧ (s.ownAcc h.num (lineOf pa) = none) ∧ (s.lineReq h.num (lineOf pa) = some q) ∧ ∃ r : Resp, (r ≠ .ok)) ∧
    (∃ eye : BitVec 8, ∃ txid : BitVec 12, ∃ y : YReq, ∃ s : State, (s.yokeReq eye.toNat txid.toNat = some y) ∧ (y.needData = false)) ∧
    (∃ h : HartId, ∃ s : State, (s.panelParked (h.num / 32) = false)) ∧
    (∃ h : SliceId, ∃ pa : Addr, ∃ t : Tx, ∃ s : State, (s.thm.parkAll = false) ∧ (s.tx h.num (lineOf pa) = some t)) ∧
    (∃ c : HartId, ∃ pa : Addr, ∃ q : L2Req, ∃ s : State, (s.panelParked (c.num / 32) = false) ∧ (s.lineReq c.num (lineOf pa) = some q) ∧ (q.op = 0x04)) ∧
    (∃ c : HartId, ∃ pa : Addr, ∃ q : L2Req, ∃ s : State, (s.panelParked (c.num / 32) = false) ∧ (s.lineReq c.num (lineOf pa) = some q)) ∧
    (∃ h : HartId, ∃ i : IoAcc, ∃ s : State, (s.panelParked (h.num / 32) = false) ∧ (s.ioAnswered h.num 0x26 false = some i)) ∧
    (∃ h : HartId, ∃ i : IoAcc, ∃ s : State, (s.panelParked (h.num / 32) = false) ∧ (s.ioAnswered h.num 0x34 true = some i)) ∧
    (∃ h : HartId, ∃ s : State, (s.panelParked (h.num / 32) = false) ∧ (s.ioAnswered h.num 0x34 true = none)) ∧
    (∃ h : HartId, ∃ s : State, (s.panelParked (h.num / 32) = false) ∧ (s.ioAnswered h.num 0x26 false = none)) :=
  ⟨⟨h0, 0, req0, hs { reqs := [req0] }, (by decide +kernel), (by decide +kernel), (by decide +kernel)⟩,
   ⟨h0, 0, req0, hs { reqs := [req0] }, (by decide +kernel), (by decide +kernel), (by decide +kernel), .viol, (by decide +kernel)⟩,
   ⟨0, 0, { yr0 with needData := false }, { State.reset with io := { reqs := [{ yr0 with needData := false }] } }, (by decide +kernel), (by decide +kernel)⟩,
   ⟨h0, hs { reqs := [req0] }, (by decide +kernel)⟩,
   ⟨sl0, 0, tx1, txn tx1, (by decide +kernel), (by decide +kernel)⟩,
   ⟨h0, 0, { req0 with op := 4 }, hs { reqs := [{ req0 with op := 4 }] }, (by decide +kernel), (by decide +kernel), (by decide +kernel)⟩,
   ⟨h0, 0, req0, hs { reqs := [req0] }, (by decide +kernel), (by decide +kernel)⟩,
   ⟨h0, io0 false, hs { io := [io0 false] }, (by decide +kernel), (by decide +kernel)⟩,
   ⟨h0, io0 true, hs { io := [io0 true] }, (by decide +kernel), (by decide +kernel)⟩,
   ⟨h0, hs { reqs := [req0] }, (by decide +kernel), (by decide +kernel)⟩,
   ⟨h0, hs { reqs := [req0] }, (by decide +kernel), (by decide +kernel)⟩⟩

theorem test_witness_LlcMaintenance :
    (∃ h : SliceId, ∃ set : Fin 4096, ∃ way : Fin 16, ∃ s : State, (s.thm.parkAll = false) ∧ let key := 16 * set.val + way.val; let e := KMap.get ({} : LEntry) (s.slice h.num).ent key; (e.st = .invalid)) ∧
    (∃ h : SliceId, ∃ set : Fin 4096, ∃ way : Fin 16, ∃ s : State, (s.thm.parkAll = false) ∧ let key := 16 * set.val + way.val; let e := KMap.get ({} : LEntry) (s.slice h.num).ent key; (e.st = .clean)) ∧
    (∃ h : SliceId, ∃ set : Fin 4096, ∃ way : Fin 16, ∃ s : State, (s.thm.parkAll = false) ∧ let key := 16 * set.val + way.val; let e := KMap.get ({} : LEntry) (s.slice h.num).ent key; let u := fun op => s.swResult h.num set.val way.val e op; (e.st = .dirty) ∧ let w := fun op => (u op).homeWrite (h.num / 24) e.line e.data beAll e.poison; ((w 1).2 = true)) ∧
    (∃ h : SliceId, ∃ set : Fin 4096, ∃ way : Fin 16, ∃ s : State, (s.thm.parkAll = false) ∧ let key := 16 * set.val + way.val; let e := KMap.get ({} : LEntry) (s.slice h.num).ent key; let u := fun op => s.swResult h.num set.val way.val e op; (e.st = .dirty) ∧ let w := fun op => (u op).homeWrite (h.num / 24) e.line e.data beAll e.poison; ((w 3).2 = true)) ∧
    (∃ h : SliceId, ∃ set : Fin 4096, ∃ way : Fin 16, ∃ s : State, (s.thm.parkAll = false) ∧ let key := 16 * set.val + way.val; let e := KMap.get ({} : LEntry) (s.slice h.num).ent key; let u := fun op => s.swResult h.num set.val way.val e op; (e.st = .dirty) ∧ let w := fun op => (u op).homeWrite (h.num / 24) e.line e.data beAll e.poison; ((w 1).2 = false)) ∧
    (∃ h : SliceId, ∃ set : Fin 4096, ∃ way : Fin 16, ∃ s : State, (s.thm.parkAll = false) ∧ let key := 16 * set.val + way.val; let e := KMap.get ({} : LEntry) (s.slice h.num).ent key; let u := fun op => s.swResult h.num set.val way.val e op; (e.st = .dirty) ∧ let w := fun op => (u op).homeWrite (h.num / 24) e.line e.data beAll e.poison; ((w 3).2 = false)) ∧
    (∃ a : Agent, ∃ h : SliceId, ∃ s : State, (s.thm.parkAll = false) ∧ (s.ctlCheck a (R.slcSwCmd h.sd.val h.k.val).addr = .pass)) ∧
    (∃ a : Agent, ∃ h : SliceId, ∃ s : State, (s.thm.parkAll = false) ∧ ∃ r : Nat, (s.ctlCheck a (R.slcSwCmd h.sd.val h.k.val).addr = .viol r)) ∧
    (∃ s : State, (s.thm.parkAll = false)) :=
  ⟨⟨sl0, 0, 0, State.reset, (by decide +kernel), (by decide +kernel)⟩,
   ⟨sl0, 0, 0, llc .clean, (by decide +kernel), (by decide +kernel)⟩,
   ⟨sl0, 0, 0, llc .dirty, (by decide +kernel), (by decide +kernel), (by decide +kernel)⟩,
   ⟨sl0, 0, 0, llc .dirty, (by decide +kernel), (by decide +kernel), (by decide +kernel)⟩,
   ⟨sl0, 0, 0, onBolt (llc .dirty), (by decide +kernel), (by decide +kernel), (by decide +kernel)⟩,
   ⟨sl0, 0, 0, onBolt (llc .dirty), (by decide +kernel), (by decide +kernel), (by decide +kernel)⟩,
   ⟨.keeper, sl0, State.reset, (by decide +kernel), (by decide +kernel)⟩,
   ⟨.hart h0, sl0, pkHart svc, (by decide +kernel), 6, (by decide +kernel)⟩,
   ⟨State.reset, (by decide +kernel)⟩⟩

theorem test_witness_RangeAndLockFill :
    (∃ a : Agent, ∃ sd : Saddle, ∃ s : State, (s.thm.parkAll = false) ∧ (s.ctlCheck a (R.rangeCtl sd.val).addr = .pass)) ∧
    (∃ a : Agent, ∃ sd : Saddle, ∃ s : State, (s.thm.parkAll = false) ∧ (s.ctlCheck a (R.rangeCtl sd.val).addr = .pass) ∧ (s.fld (R.rangeCtl sd.val) F.rangeCtl_STATUS = 1)) ∧
    (∃ a : Agent, ∃ sd : Saddle, ∃ s : State, (s.thm.parkAll = false) ∧ (s.ctlCheck a (R.rangeCtl sd.val).addr = .pass) ∧ (s.fld (R.rangeCtl sd.val) F.rangeCtl_STATUS ≠ 1)) ∧
    (∃ sd : Saddle, ∃ s : State, (s.thm.parkAll = false) ∧ (s.fld (R.rangeCtl sd.val) F.rangeCtl_STATUS = 1) ∧ let u := s.rangeGoOn sd.val; let r := KMap.get ({} : RangeSt) u.range sd.val; (r.flight = 0) ∧ (r.stop ≠ 0 ∨ u.fld (R.rangeLimit sd.val) F.rangeLimit_LINE < r.next)) ∧
    (∃ a : Agent, ∃ h : SliceId, ∃ way : Fin 16, ∃ pa : Addr, ∃ s : State, (s.thm.parkAll = false) ∧ (s.ctlCheck a (R.slcLockFill h.sd.val h.k.val).addr = .pass) ∧ let r := R.slcLockFill h.sd.val h.k.val; let u := (s.setF r F.slcLockFill_WAY way.val).setF r F.slcLockFill_LINE (pa.toNat / 64); (u.wayLocked h.num way.val = false)) ∧
    (∃ a : Agent, ∃ h : SliceId, ∃ way : Fin 16, ∃ pa : Addr, ∃ s : State, (s.thm.parkAll = false) ∧ (s.ctlCheck a (R.slcLockFill h.sd.val h.k.val).addr = .pass) ∧ let r := R.slcLockFill h.sd.val h.k.val; let u := (s.setF r F.slcLockFill_WAY way.val).setF r F.slcLockFill_LINE (pa.toNat / 64); (u.wayLocked h.num way.val = true) ∧ (u.home (64 * (pa.toNat / 64)) ≠ some (h.sd.val, h.k.val))) ∧
    (∃ a : Agent, ∃ h : SliceId, ∃ way : Fin 16, ∃ pa : Addr, ∃ s : State, (s.thm.parkAll = false) ∧ (s.ctlCheck a (R.slcLockFill h.sd.val h.k.val).addr = .pass) ∧ let r := R.slcLockFill h.sd.val h.k.val; let u := (s.setF r F.slcLockFill_WAY way.val).setF r F.slcLockFill_LINE (pa.toNat / 64); (u.wayLocked h.num way.val = true) ∧ (u.home (64 * (pa.toNat / 64)) = some (h.sd.val, h.k.val)) ∧ ∃ c : Nat, (u.welt (agentIsKeeper a) (u.agentPocket a) pa.toNat false = .viol c)) ∧
    (∃ a : Agent, ∃ h : SliceId, ∃ way : Fin 16, ∃ pa : Addr, ∃ s : State, (s.thm.parkAll = false) ∧ (s.ctlCheck a (R.slcLockFill h.sd.val h.k.val).addr = .pass) ∧ let r := R.slcLockFill h.sd.val h.k.val; let u := (s.setF r F.slcLockFill_WAY way.val).setF r F.slcLockFill_LINE (pa.toNat / 64); (u.wayLocked h.num way.val = true) ∧ (u.home (64 * (pa.toNat / 64)) = some (h.sd.val, h.k.val)) ∧ (u.welt (agentIsKeeper a) (u.agentPocket a) pa.toNat false = .pass)) :=
  ⟨⟨.keeper, 0, State.reset, (by decide +kernel), (by decide +kernel)⟩,
   ⟨.keeper, 0, State.reset.setF (R.rangeCtl 0) F.rangeCtl_STATUS 1, (by decide +kernel), (by decide +kernel), (by decide +kernel)⟩,
   ⟨.keeper, 0, State.reset, (by decide +kernel), (by decide +kernel), (by decide +kernel)⟩,
   ⟨0, { State.reset.setF (R.rangeCtl 0) F.rangeCtl_STATUS 1 with range := [(0, { next := 1 })] }, (by decide +kernel), (by decide +kernel), (by decide +kernel), (by decide +kernel)⟩,
   ⟨.keeper, sl0, 0, 0, State.reset, (by decide +kernel), (by decide +kernel), (by decide +kernel)⟩,
   ⟨.keeper, sl0, 0, 0, lock0, (by decide +kernel), (by decide +kernel), (by decide +kernel), (by decide +kernel)⟩,
   ⟨.hart h0, sl0, 0, 0, withKeeper lock0, (by decide +kernel), (by decide +kernel), (by decide +kernel), (by decide +kernel), 4, (by decide +kernel)⟩,
   ⟨.keeper, sl0, 0, 0, onBolt lock0, (by decide +kernel), (by decide +kernel), (by decide +kernel), (by decide +kernel), (by decide +kernel)⟩⟩

theorem test_witness_WindowAccesses_1 :
    (∃ pa : Addr, (regionOf pa.toNat = .hole)) ∧
    (∃ pa : Addr, (regionOf pa.toNat = .ctl)) ∧
    (∃ a : Agent, ∃ pa : Addr, ∃ s : State, let u := s.ioArrive a pa 0x0E; ∃ k : Nat, (regionOf pa.toNat = .mmio k) ∧ (u.fenceIsOpen (.pcie (Fin.ofNat 8 k)) = false)) ∧
    (∃ a : Agent, ∃ pa : Addr, ∃ s : State, let u := s.ioArrive a pa 0x0E; ∃ k : Nat, (regionOf pa.toNat = .mmio k) ∧ (u.fenceIsOpen (.pcie (Fin.ofNat 8 k)) = true) ∧ ∃ r : Nat, (u.windowCheck a k pa.toNat = .viol r)) ∧
    (∃ a : Agent, ∃ pa : Addr, ∃ s : State, let u := s.ioArrive a pa 0x0E; ∃ k : Nat, (regionOf pa.toNat = .mmio k) ∧ (u.fenceIsOpen (.pcie (Fin.ofNat 8 k)) = true) ∧ (u.windowCheck a k pa.toNat = .pass) ∧ (u.pcieDest k pa.toNat = .none)) ∧
    (∃ a : Agent, ∃ pa : Addr, ∃ s : State, let u := s.ioArrive a pa 0x0E; ∃ k : Nat, (regionOf pa.toNat = .mmio k) ∧ (u.fenceIsOpen (.pcie (Fin.ofNat 8 k)) = true) ∧ ∃ j : Nat, (u.windowCheck a k pa.toNat = .pass) ∧ (u.pcieDest k pa.toNat = .sub j) ∧ (((u.pcie k).sub j).up = true)) ∧
    (∃ a : Agent, ∃ pa : Addr, ∃ v : BitVec 128, ∃ s : State, (s.isMsi a pa v = false) ∧ (regionOf pa.toNat = .hole)) ∧
    (∃ a : Agent, ∃ pa : Addr, ∃ v : BitVec 128, ∃ s : State, (s.isMsi a pa v = false) ∧ let u := s.ioArrive a pa 0x40; ∃ k : Nat, (regionOf pa.toNat = .mmio k) ∧ (u.fenceIsOpen (.pcie (Fin.ofNat 8 k)) = false)) ∧
    (∃ a : Agent, ∃ pa : Addr, ∃ v : BitVec 128, ∃ s : State, (s.isMsi a pa v = false) ∧ let u := s.ioArrive a pa 0x40; ∃ k : Nat, (regionOf pa.toNat = .mmio k) ∧ (u.fenceIsOpen (.pcie (Fin.ofNat 8 k)) = true) ∧ (u.windowCheck a k pa.toNat = .pass) ∧ ∃ j : Nat, ∃ off : Nat, (u.pcieDest k pa.toNat = .cfg j off)) ∧
    (∃ a : Agent, ∃ pa : Addr, ∃ v : BitVec 128, ∃ s : State, (s.isMsi a pa v = false) ∧ let u := s.ioArrive a pa 0x40; ∃ k : Nat, (regionOf pa.toNat = .mmio k) ∧ (u.fenceIsOpen (.pcie (Fin.ofNat 8 k)) = true) ∧ (u.windowCheck a k pa.toNat = .pass) ∧ ∃ j : Nat, (u.pcieDest k pa.toNat = .sub j) ∧ (((u.pcie k).sub j).up = true) ∧ (u.ownedCfg k pa.toNat ≠ 2)) ∧
    (∃ a : Agent, ∃ pa : Addr, ∃ v : BitVec 128, ∃ s : State, (s.isMsi a pa v = false) ∧ let u := s.ioArrive a pa 0x40; ∃ k : Nat, (regionOf pa.toNat = .mmio k) ∧ (u.fenceIsOpen (.pcie (Fin.ofNat 8 k)) = true) ∧ (u.windowCheck a k pa.toNat = .pass) ∧ ∃ j : Nat, (u.pcieDest k pa.toNat = .sub j) ∧ (((u.pcie k).sub j).up = true) ∧ (u.ownedCfg k pa.toNat = 2)) ∧
    (∃ port : Fin 8, ∃ txid : BitVec 12, ∃ s : State, (s.thm.parkAll = false) ∧ (((s.pcie port.val).nonposted.find? fun r => r.txid == txid.toNat) = none)) :=
  ⟨⟨0x7FFFFFFFFFFFFF, (by decide +kernel)⟩,
   ⟨0x2000000000000, (by decide +kernel)⟩,
   ⟨.keeper, 0x1000000000000, State.reset, 0, (by decide +kernel), (by decide +kernel)⟩,
   ⟨.svcPort, 0x1000000100000, port0 svc, 0, (by decide +kernel), (by decide +kernel), 5, (by decide +kernel)⟩,
   ⟨.keeper, 0x1000000200000, port0 State.reset, 0, (by decide +kernel), (by decide +kernel), (by decide +kernel), (by decide +kernel)⟩,
   ⟨.keeper, 0x1000000100000, port0 State.reset, 0, (by decide +kernel), (by decide +kernel), 0, (by decide +kernel), (by decide +kernel), (by decide +kernel)⟩,
   ⟨.keeper, 0x7FFFFFFFFFFFFF, 0, port0 State.reset, (by decide +kernel), (by decide +kernel)⟩,
   ⟨.keeper, 0x1000000000000, 0, State.reset, (by decide +kernel), 0, (by decide +kernel), (by decide +kernel)⟩,
   ⟨.keeper, 0x1000000000004, 0, port0 State.reset, (by decide +kernel), 0, (by decide +kernel), (by decide +kernel), (by decide +kernel), 0, 4, (by decide +kernel)⟩,
   ⟨.keeper, 0x100000010000C, 0, port0 State.reset, (by decide +kernel), 0, (by decide +kernel), (by decide +kernel), (by decide +kernel), 0, (by decide +kernel), (by decide +kernel), (by decide +kernel)⟩,
   ⟨.keeper, 0x1000000100010, 0, port0 State.reset, (by decide +kernel), 0, (by decide +kernel), (by decide +kernel), (by decide +kernel), 0, (by decide +kernel), (by decide +kernel), (by decide +kernel)⟩,
   ⟨0, 0, port0 State.reset, (by decide +kernel), (by decide +kernel)⟩⟩

theorem test_witness_WindowAccesses_2 :
    (∃ port : Fin 8, ∃ txid : BitVec 12, ∃ s : State, (s.thm.parkAll = false) ∧ ∃ r : YReq, ∃ h : HartId, (((s.pcie port.val).nonposted.find? fun r => r.txid == txid.toNat) = some r) ∧ (r.agent = .hart h)) ∧
    (∃ port : Fin 8, ∃ sub : Fin 8, ∃ s : State, (s.thm.parkAll = false) ∧ (((s.pcie port.val).sub sub.val).up = true)) :=
  ⟨⟨0, 0, { State.reset with io := { ports := [(0, { nonposted := [{ yr0 with agent := .hart h0 }] })] } }, (by decide +kernel), { yr0 with agent := .hart h0 }, h0, (by decide +kernel), (by decide +kernel)⟩,
   ⟨0, 0, port0 State.reset, (by decide +kernel), (by decide +kernel)⟩⟩

theorem test_witness_DevicesAndLinks_1 :
    (∃ port : Fin 8, ∃ rid : BitVec 16, ∃ pa : Addr, ∃ s : State, (s.thm.parkAll = false) ∧ (s.deviceMayEnter port rid = true) ∧ (regionOf pa.toNat = .bolt)) ∧
    (∃ port : Fin 8, ∃ rid : BitVec 16, ∃ pa : Addr, ∃ s : State, (s.thm.parkAll = false) ∧ (s.deviceMayEnter port rid = true) ∧ (regionOf pa.toNat = .bolt)) ∧
    (∃ port : Fin 8, ∃ rid : BitVec 16, ∃ pa : Addr, ∃ s : State, (s.thm.parkAll = false) ∧ (s.deviceMayEnter port rid = true) ∧ (regionOf pa.toNat = .bolt) ∧ ∃ f : AmoFunc, ∃ size : Size, (atomicSupported f size = true)) ∧
    (∃ port : Fin 8, ∃ rid : BitVec 16, ∃ pa : Addr, ∃ s : State, (s.thm.parkAll = false) ∧ (s.deviceMayEnter port rid = true) ∧ (regionOf pa.toNat = .hole)) ∧
    (∃ port : Fin 8, ∃ rid : BitVec 16, ∃ pa : Addr, ∃ s : State, (s.thm.parkAll = false) ∧ (s.deviceMayEnter port rid = true) ∧ (regionOf pa.toNat = .hole)) ∧
    (∃ port : Fin 8, ∃ rid : BitVec 16, ∃ pa : Addr, ∃ s : State, (s.thm.parkAll = false) ∧ (s.deviceMayEnter port rid = true) ∧ (regionOf pa.toNat = .hole)) ∧
    (∃ port : Fin 8, ∃ rid : BitVec 16, ∃ s : State, (s.thm.parkAll = false) ∧ (s.deviceMayEnter port rid = false)) ∧
    (∃ port : Fin 8, ∃ rid : BitVec 16, ∃ s : State, (s.thm.parkAll = false) ∧ (s.deviceMayEnter port rid = false)) ∧
    (∃ port : Fin 8, ∃ rid : BitVec 16, ∃ s : State, (s.thm.parkAll = false) ∧ (s.deviceMayEnter port rid = false)) ∧
    (∃ port : Fin 8, ∃ rid : BitVec 16, ∃ s : State, (s.thm.parkAll = false) ∧ (s.deviceMayEnter port rid = false)) ∧
    (∃ port : Fin 8, ∃ rid : BitVec 16, ∃ pa : Addr, ∃ s : State, (s.thm.parkAll = false) ∧ let a := Agent.device port rid; ∃ k : Nat, ∃ j : Nat, (s.deviceMayEnter port rid = true) ∧ (regionOf pa.toNat = .mmio k) ∧ (s.fenceIsOpen (.pcie (Fin.ofNat 8 k)) = true) ∧ (s.windowCheck a k pa.toNat = .pass) ∧ (s.pcieDest k pa.toNat = .sub j)) ∧
    (∃ port : Fin 8, ∃ rid : BitVec 16, ∃ s : State, (s.thm.parkAll = false) ∧ ∃ q : Nat, (s.funcOwner port.val rid.toNat = some (true, q))) :=
  ⟨⟨0, 1, 0xFFFFFFFFFFFF, port0 State.reset, (by decide +kernel), (by decide +kernel), (by decide +kernel)⟩,
   ⟨0, 1, 0, port0 State.reset, (by decide +kernel), (by decide +kernel), (by decide +kernel)⟩,
   ⟨0, 1, 0, port0 State.reset, (by decide +kernel), (by decide +kernel), (by decide +kernel), .add, .b8, (by decide +kernel)⟩,
   ⟨0, 1, 0x7FFFFFFFFFFFFF, port0 State.reset, (by decide +kernel), (by decide +kernel), (by decide +kernel)⟩,
   ⟨0, 1, 0x7FFFFFFFFFFFFF, port0 State.reset, (by decide +kernel), (by decide +kernel), (by decide +kernel)⟩,
   ⟨0, 1, 0x7FFFFFFFFFFFFF, port0 State.reset, (by decide +kernel), (by decide +kernel), (by decide +kernel)⟩,
   ⟨0, 1, State.reset, (by decide +kernel), (by decide +kernel)⟩,
   ⟨0, 1, State.reset, (by decide +kernel), (by decide +kernel)⟩,
   ⟨0, 1, State.reset, (by decide +kernel), (by decide +kernel)⟩,
   ⟨0, 1, State.reset, (by decide +kernel), (by decide +kernel)⟩,
   ⟨0, 1, 0x1000000100000, port0 State.reset, (by decide +kernel), 0, 0, (by decide +kernel), (by decide +kernel), (by decide +kernel), (by decide +kernel), (by decide +kernel)⟩,
   ⟨0, 0x100, port0 State.reset, (by decide +kernel), 1, (by decide +kernel)⟩⟩

theorem test_witness_DevicesAndLinks_2 :
    (∃ port : Fin 9, ∃ sub : Fin 8, ∃ s : State, (((s.pcie port.val).sub sub.val).up = true)) ∧
    (∃ port : Fin 9, ∃ sub : Fin 8, ∃ lanes : Nat, ∃ s : State, (port.val < 8) ∧ ((subLanes (s.pcieMode port.val))[sub.val]? = some lanes) ∧ (s.fenceIsOpen (.pcie (Fin.ofNat 8 port.val)) = true)) ∧
    (∃ k : Fin 8, ∃ s : State, (s.cfg 0xC0 k.val 3 1 0 ≠ 0)) :=
  ⟨⟨0, 0, port0 State.reset, (by decide +kernel)⟩,
   ⟨0, 0, 16, port0 State.reset, (by decide +kernel), (by decide +kernel), (by decide +kernel)⟩,
   ⟨0, cfg1 0xC0 0 [0, 0, 0, 1] State.reset, (by decide +kernel)⟩⟩

theorem test_witness_WidthHandshake_1 :
    (∃ e : GusEnd, ∃ s : State, (s.thm.parkAll = false) ∧ (e.peer.isSome = true) ∧ (s.gusState e ≠ 0)) ∧
    (∃ e : GusEnd, ∃ n : BitVec 3, ∃ s : State, (s.thm.parkAll = false) ∧ ((s.gusset e).phase = 1) ∧ ((s.gusset e).n = n.toNat)) ∧
    (∃ e : GusEnd, ∃ n : BitVec 3, ∃ w : BitVec 16, ∃ s : State, (s.thm.parkAll = false) ∧ ((s.gusset e).phase = 2) ∧ ((s.gusset e).n = n.toNat) ∧ ((s.gusset e).sentW = w.toNat) ∧ (4 ≤ popcount 16 w.toNat)) ∧
    (∃ e : GusEnd, ∃ n : BitVec 3, ∃ w : BitVec 16, ∃ s : State, (s.thm.parkAll = false) ∧ ((s.gusset e).phase = 2) ∧ ((s.gusset e).n = n.toNat) ∧ ((s.gusset e).sentW = w.toNat) ∧ (popcount 16 w.toNat < 4)) ∧
    (∃ e : GusEnd, ∃ n : BitVec 3, ∃ w : BitVec 16, ∃ s : State, (s.thm.parkAll = false) ∧ ((s.gusset e).phase = 2) ∧ ((s.gusset e).n = n.toNat) ∧ ((s.gusset e).sentW ≠ w.toNat) ∧ let u := if s.fld R.pkgId F.pkgId_PKG_LEVEL = 2 then s.setF (R.gusStatus e) F.gusStatus_RETRIES (s.gusset e).n else s; ((s.gusset e).n < u.fld (R.gusCtl e) F.gusCtl_ATTEMPTS)) ∧
    (∃ e : GusEnd, ∃ n : BitVec 3, ∃ w : BitVec 16, ∃ s : State, (s.thm.parkAll = false) ∧ ((s.gusset e).phase = 2) ∧ ((s.gusset e).n = n.toNat) ∧ ((s.gusset e).sentW ≠ w.toNat) ∧ let u := if s.fld R.pkgId F.pkgId_PKG_LEVEL = 2 then s.setF (R.gusStatus e) F.gusStatus_RETRIES (s.gusset e).n else s; (u.fld (R.gusCtl e) F.gusCtl_ATTEMPTS ≤ (s.gusset e).n)) ∧
    (∃ e : GusEnd, ∃ s : State, (s.thm.parkAll = false) ∧ ((s.gusset e).phase = 3) ∧ (s.gusGood e % 16 = 15)) ∧
    (∃ e : GusEnd, ∃ s : State, (s.thm.parkAll = false) ∧ ((s.gusset e).phase = 3) ∧ (s.gusGood e % 16 ≠ 15)) ∧
    (∃ e : GusEnd, ∃ s : State, (s.thm.parkAll = false) ∧ ((s.gusset e).phase = 3)) ∧
    (∃ e : GusEnd, ∃ w : BitVec 7, ∃ s : State, (s.thm.parkAll = false) ∧ (s.gusState e = 1 ∨ s.gusState e = 4) ∧ (w.toNat ≤ 2)) ∧
    (∃ e : GusEnd, ∃ w : BitVec 7, ∃ s : State, (s.thm.parkAll = false) ∧ (s.gusState e = 1 ∨ s.gusState e = 4) ∧ (2 < w.toNat)) ∧
    (∃ a : Agent, ∃ e : GusEnd, ∃ s : State, (s.thm.parkAll = false) ∧ (e.peer.isSome = true) ∧ (agentIsKeeper a = true) ∧ (s.gusState e ≠ 0)) :=
  ⟨⟨(.yoke 0), gus0 2 {}, (by decide +kernel), (by decide +kernel), (by decide +kernel)⟩,
   ⟨(.yoke 0), 1, gus0 4 { n := 1, phase := 1 }, (by decide +kernel), (by decide +kernel), (by decide +kernel)⟩,
   ⟨(.yoke 0), 1, 0xF, gus0 4 { n := 1, phase := 2, sentW := 0xF }, (by decide +kernel), (by decide +kernel), (by decide +kernel), (by decide +kernel), (by decide +kernel)⟩,
   ⟨(.yoke 0), 1, 7, gus0 4 { n := 1, phase := 2, sentW := 7 }, (by decide +kernel), (by decide +kernel), (by decide +kernel), (by decide +kernel), (by decide +kernel)⟩,
   ⟨(.yoke 0), 1, 7, (gus0 4 { n := 1, phase := 2, sentW := 0xF }).setF (R.gusCtl (.yoke 0)) F.gusCtl_ATTEMPTS 2, (by decide +kernel), (by decide +kernel), (by decide +kernel), (by decide +kernel), (by decide +kernel)⟩,
   ⟨(.yoke 0), 3, 7, (gus0 4 { n := 3, phase := 2, sentW := 0xF }).setF (R.gusCtl (.yoke 0)) F.gusCtl_ATTEMPTS 3, (by decide +kernel), (by decide +kernel), (by decide +kernel), (by decide +kernel), (by decide +kernel)⟩,
   ⟨(.yoke 0), (gus0 4 { n := 3, phase := 3 }).setF (R.gusStatus (.yoke 0)) F.gusStatus_LOCAL_GOOD 0xF, (by decide +kernel), (by decide +kernel), (by decide +kernel)⟩,
   ⟨(.yoke 0), (gus0 4 { n := 3, phase := 3 }).setF (R.gusStatus (.yoke 0)) F.gusStatus_LOCAL_GOOD 0xFFF7, (by decide +kernel), (by decide +kernel), (by decide +kernel)⟩,
   ⟨(.yoke 0), gus0 4 { n := 3, phase := 3 }, (by decide +kernel), (by decide +kernel)⟩,
   ⟨(.yoke 0), 2, gus0 4 {}, (by decide +kernel), (by decide +kernel), (by decide +kernel)⟩,
   ⟨(.yoke 0), 3, gus0 4 {}, (by decide +kernel), (by decide +kernel), (by decide +kernel)⟩,
   ⟨.keeper, (.yoke 0), gus0 2 {}, (by decide +kernel), (by decide +kernel), (by decide +kernel), (by decide +kernel)⟩⟩

theorem test_witness_WidthHandshake_2 :
    (∃ a : Agent, ∃ e : GusEnd, ∃ s : State, (s.thm.parkAll = false) ∧ (e.peer.isSome = true) ∧ (agentIsKeeper a = true) ∧ (s.gusState e = 0)) ∧
    (∃ a : Agent, ∃ e : GusEnd, ∃ s : State, (s.thm.parkAll = false) ∧ (e.peer.isSome = true) ∧ (agentIsKeeper a = false)) :=
  ⟨⟨.keeper, (.yoke 0), State.reset, (by decide +kernel), (by decide +kernel), (by decide +kernel), (by decide +kernel)⟩,
   ⟨.hart h0, (.yoke 0), gus0 2 {}, (by decide +kernel), (by decide +kernel), (by decide +kernel)⟩⟩

theorem test_witness_FencesAndEpochs_1 :
    (∃ u : FenceUnit, ∃ s : State, let v := fun on : Bool => (s.arrive fun p => p.op == 0x50 && p.txid == BitVec.ofNat 12 u.num).setF (R.fenceCmd u) F.fenceCmd_ON (if on then 1 else 0); ((v true).fenceState u = 0)) ∧
    (∃ u : FenceUnit, ∃ s : State, let v := fun on : Bool => (s.arrive fun p => p.op == 0x50 && p.txid == BitVec.ofNat 12 u.num).setF (R.fenceCmd u) F.fenceCmd_ON (if on then 1 else 0); ((v false).fenceState u = 2)) ∧
    (∃ u : FenceUnit, ∃ s : State, let v := fun on : Bool => (s.arrive fun p => p.op == 0x50 && p.txid == BitVec.ofNat 12 u.num).setF (R.fenceCmd u) F.fenceCmd_ON (if on then 1 else 0); ((v true).fenceState u = 3)) ∧
    (∃ u : FenceUnit, ∃ s : State, let v := fun on : Bool => (s.arrive fun p => p.op == 0x50 && p.txid == BitVec.ofNat 12 u.num).setF (R.fenceCmd u) F.fenceCmd_ON (if on then 1 else 0); ((v false).fenceState u = 1)) ∧
    (∃ u : FenceUnit, ∃ s : State, let v := fun on : Bool => (s.arrive fun p => p.op == 0x50 && p.txid == BitVec.ofNat 12 u.num).setF (R.fenceCmd u) F.fenceCmd_ON (if on then 1 else 0); ((v true).fenceState u = 2)) ∧
    (∃ u : FenceUnit, ∃ s : State, let v := fun on : Bool => (s.arrive fun p => p.op == 0x50 && p.txid == BitVec.ofNat 12 u.num).setF (R.fenceCmd u) F.fenceCmd_ON (if on then 1 else 0); ((v false).fenceState u = 0)) ∧
    (∃ u : FenceUnit, ∃ s : State, (s.fenceState u = 1) ∧ (∀ c, u ≠ .mc c)) ∧
    (∃ c : Ctlr, ∃ s : State, (s.fenceState (.mc c) = 1) ∧ ((s.mc c.num).trainAt = none) ∧ (s.fld (R.mcInfo c) F.mcInfo_STATE = 1 ∨ s.fld (R.mcInfo c) F.mcInfo_STATE = 2)) ∧
    (∃ c : Ctlr, ∃ s : State, (s.fenceState (.mc c) = 1) ∧ ((s.mc c.num).trainAt = none) ∧ (s.fld (R.mcInfo c) F.mcInfo_STATE = 2)) ∧
    (∃ c : Ctlr, ∃ s : State, (s.fenceState (.mc c) = 1) ∧ ((s.mc c.num).trainAt = none) ∧ (s.fld (R.mcInfo c) F.mcInfo_STATE = 3 ∨ s.fld (R.mcInfo c) F.mcInfo_STATE = 4)) ∧
    (∃ u : FenceUnit, ∃ s : State, (∀ p, u ≠ .panel p) ∧ (s.fenceState u = 3) ∧ (s.drained u = true)) ∧
    (∃ p : Panel, ∃ s : State, ((s.flushPanel p.val).fenceState (.panel p) = 3) ∧ ((s.flushPanel p.val).panelEmpty p.val = true)) :=
  ⟨⟨(.panel 0), State.reset, (by decide +kernel)⟩,
   ⟨(.panel 0), fen (.panel 0) 2, (by decide +kernel)⟩,
   ⟨(.panel 0), fen (.panel 0) 3, (by decide +kernel)⟩,
   ⟨(.panel 0), fen (.panel 0) 1, (by decide +kernel)⟩,
   ⟨(.panel 0), fen (.panel 0) 2, (by decide +kernel)⟩,
   ⟨(.panel 0), State.reset, (by decide +kernel)⟩,
   ⟨.pcie 0, fen (.pcie 0) 1, (by decide +kernel), (fun _ h => nomatch h)⟩,
   ⟨(.hbm 0), info0 1 1, (by decide +kernel), (by decide +kernel), (by decide +kernel)⟩,
   ⟨(.hbm 0), info0 2 1, (by decide +kernel), (by decide +kernel), (by decide +kernel)⟩,
   ⟨(.hbm 0), info0 3 1, (by decide +kernel), (by decide +kernel), (by decide +kernel)⟩,
   ⟨.pcie 0, fen (.pcie 0) 3, (fun _ h => nomatch h), (by decide +kernel), (by decide +kernel)⟩,
   ⟨0, fen (.panel 0) 3, (by decide +kernel), (by decide +kernel)⟩⟩

theorem test_witness_FencesAndEpochs_2 :
    (∃ u : FenceUnit, (∀ p, u ≠ .panel p)) ∧
    (∃ u : FenceUnit, ∃ p : Panel, (u = .panel p)) ∧
    (∃ stop : BitVec 8, ∃ s : State, (s.epoch.running = true) ∧ (s.epoch.loaded.contains stop.toNat = false) ∧ (s.epochStops.contains stop.toNat = true) ∧ (s.fld R.epoch F.epoch_HOLDING ≠ 1) ∧ (s.epoch.holding = []) ∧ let u : State := { s with epoch.loaded := stop.toNat :: s.epoch.loaded }; (s.epochStops.all u.epoch.loaded.contains = false)) ∧
    (∃ stop : BitVec 8, ∃ s : State, (s.epoch.running = true) ∧ (s.epoch.loaded.contains stop.toNat = false) ∧ (s.epochStops.contains stop.toNat = true) ∧ (s.fld R.epoch F.epoch_HOLDING ≠ 1) ∧ (s.epoch.holding = []) ∧ let u : State := { s with epoch.loaded := stop.toNat :: s.epoch.loaded }; (s.epochStops.all u.epoch.loaded.contains = true)) ∧
    (∃ stop : BitVec 8, ∃ s : State, (s.fld R.epoch F.epoch_HOLDING = 1) ∧ (s.epoch.waiting.contains stop.toNat = true) ∧ (s.epoch.holding.contains stop.toNat = false)) ∧
    (∃ stop : BitVec 8, ∃ s : State, (s.epoch.holding.contains stop.toNat = true) ∧ (s.epoch.waiting.contains stop.toNat = true) ∧ (s.stopBusy stop.toNat = false) ∧ let left := s.epoch.waiting.filter (· != stop.toNat); (left.isEmpty = false)) ∧
    (∃ stop : BitVec 8, ∃ s : State, (s.epoch.holding.contains stop.toNat = true) ∧ (s.epoch.waiting.contains stop.toNat = true) ∧ (s.stopBusy stop.toNat = false) ∧ let left := s.epoch.waiting.filter (· != stop.toNat); (left.isEmpty = true)) ∧
    (∃ stop : BitVec 8, ∃ s : State, (s.fld R.epoch F.epoch_HOLDING ≠ 1) ∧ (s.epoch.holding.contains stop.toNat = true)) ∧
    (∃ stop : Fin 5, ∃ s : State, (s.slotted stop.val = true)) :=
  ⟨⟨.pcie 0, (fun _ h => nomatch h)⟩,
   ⟨(.panel 0), 0, (by decide +kernel)⟩,
   ⟨0xC0, ep { running := true } 0, (by decide +kernel), (by decide +kernel), (by decide +kernel), (by decide +kernel), (by decide +kernel), (by decide +kernel)⟩,
   ⟨0xC0, ep { running := true, loaded := List.range 0xC0 ++ (List.range 64).map (0xC1 + ·) } 0, (by decide +kernel), (by decide +kernel), (by decide +kernel), (by decide +kernel), (by decide +kernel), (by decide +kernel)⟩,
   ⟨0xC0, ep { running := true, waiting := [0xC0] } 1, (by decide +kernel), (by decide +kernel), (by decide +kernel)⟩,
   ⟨0xC0, ep { running := true, waiting := [0xC0, 0xC1], holding := [0xC0] } 1, (by decide +kernel), (by decide +kernel), (by decide +kernel), (by decide +kernel)⟩,
   ⟨0xC0, ep { running := true, waiting := [0xC0], holding := [0xC0] } 1, (by decide +kernel), (by decide +kernel), (by decide +kernel), (by decide +kernel)⟩,
   ⟨0xC0, ep { holding := [0xC0] } 0, (by decide +kernel), (by decide +kernel)⟩,
   ⟨0, cfg1 0x70 0xFFFF [1] State.reset, (by decide +kernel)⟩⟩

theorem test_witness_MemoryReadsAndWrites :
    (∃ u : FenceUnit, ∃ h : SliceId, ∃ pa : Addr, ∃ txid : BitVec 12, ∃ s : State, ∃ t : Tx, (s.thm.parkAll = false) ∧ (s.tx h.num (lineOf pa) = some t) ∧ (t.memWait = true) ∧ (t.req.txid = txid) ∧ (s.backsLine u (lineOf pa) = true) ∧ let v := s.arrive fun p => p.op == 0x08 && p.src == BitVec.ofNat 8 h.eyelet && lineOf p.pa == lineOf pa && p.txid == txid; ∃ c : Ctlr, (u = .mc c) ∧ (v.fenceState u = 2 ∨ v.fenceState u = 3)) ∧
    (∃ u : FenceUnit, ∃ h : SliceId, ∃ pa : Addr, ∃ txid : BitVec 12, ∃ s : State, ∃ t : Tx, (s.thm.parkAll = false) ∧ (s.tx h.num (lineOf pa) = some t) ∧ (t.memWait = true) ∧ (t.req.txid = txid) ∧ (s.backsLine u (lineOf pa) = true) ∧ let v := s.arrive fun p => p.op == 0x08 && p.src == BitVec.ofNat 8 h.eyelet && lineOf p.pa == lineOf pa && p.txid == txid; ∃ k : Fin 8, (u = .pcie k) ∧ (v.fenceState u = 2 ∨ v.fenceState u = 3)) ∧
    (∃ u : FenceUnit, ∃ h : SliceId, ∃ pa : Addr, ∃ txid : BitVec 12, ∃ s : State, ∃ t : Tx, (s.thm.parkAll = false) ∧ (s.tx h.num (lineOf pa) = some t) ∧ (t.memWait = true) ∧ (t.req.txid = txid) ∧ (s.backsLine u (lineOf pa) = true) ∧ let v := s.arrive fun p => p.op == 0x08 && p.src == BitVec.ofNat 8 h.eyelet && lineOf p.pa == lineOf pa && p.txid == txid; ∃ t' : Tx, (v.fenceState u ≠ 2) ∧ (v.fenceState u ≠ 3) ∧ let w := (v.incF (R.fenceStatus u) F.fenceStatus_DOMOFF_COUNT).updTx h.num (lineOf pa) fun t => { t with memWait := false, domoff := true }; (w.tx h.num (lineOf pa) = some t')) ∧
    (∃ u : FenceUnit, ∃ pa : Addr, ∃ s : State, (s.thm.parkAll = false) ∧ (s.backsLine u (lineOf pa) = true) ∧ (s.fenceIsOpen u = false)) ∧
    (∃ u : FenceUnit, ∃ pa : Addr, ∃ s : State, (s.thm.parkAll = false) ∧ (s.backsLine u (lineOf pa) = true) ∧ ∃ k : Fin 8, (u = .pcie k) ∧ (s.fenceIsOpen u = true)) ∧
    (∃ u : FenceUnit, ∃ pa : Addr, ∃ s : State, (s.thm.parkAll = false) ∧ (s.backsLine u (lineOf pa) = true) ∧ ∃ c : Ctlr, (u = .mc c) ∧ (s.fenceIsOpen u = true)) ∧
    (∃ u : FenceUnit, ∃ pa : Addr, ∃ s : State, (s.thm.parkAll = false) ∧ (s.backsLine u (lineOf pa) = true) ∧ ∃ c : Ctlr, (u = .mc c) ∧ (s.fenceIsOpen u = true)) :=
  ⟨⟨.mc (.hbm 0), sl0, 0, 0, openF (.mc (.hbm 0)) (onBolt (txn memTx)), memTx, (by decide +kernel), (by decide +kernel), (by decide +kernel), (by decide +kernel), (by decide +kernel), .hbm 0, (by decide +kernel), (by decide +kernel)⟩,
   ⟨.pcie 0, sl0, 0, 0, openF (.pcie 0) (onCxl (txn memTx)), memTx, (by decide +kernel), (by decide +kernel), (by decide +kernel), (by decide +kernel), (by decide +kernel), 0, (by decide +kernel), (by decide +kernel)⟩,
   ⟨.mc (.hbm 0), sl0, 0, 0, onBolt (txn memTx), memTx, (by decide +kernel), (by decide +kernel), (by decide +kernel), (by decide +kernel), (by decide +kernel), { memTx with memWait := false, domoff := true }, (by decide +kernel), (by decide +kernel), (by decide +kernel)⟩,
   ⟨.mc (.hbm 0), 0, onBolt State.reset, (by decide +kernel), (by decide +kernel), (by decide +kernel)⟩,
   ⟨.pcie 0, 0, openF (.pcie 0) (onCxl State.reset), (by decide +kernel), (by decide +kernel), 0, (by decide +kernel), (by decide +kernel)⟩,
   ⟨.mc (.hbm 0), 0, openF (.mc (.hbm 0)) (onBolt State.reset), (by decide +kernel), (by decide +kernel), .hbm 0, (by decide +kernel), (by decide +kernel)⟩,
   ⟨.mc (.hbm 0), 0, openF (.mc (.hbm 0)) (onBolt State.reset), (by decide +kernel), (by decide +kernel), .hbm 0, (by decide +kernel), (by decide +kernel)⟩⟩

theorem test_witness_ScrubTrainingAndHeat_1 :
    (∃ a : Agent, ∃ c : Ctlr, ∃ s : State, (s.thm.parkAll = false) ∧ (s.ctlCheck a (R.mcScrubCtl c).addr = .pass) ∧ (s.fld (R.mcScrubCtl c) F.mcScrubCtl_STATUS = 1)) ∧
    (∃ a : Agent, ∃ c : Ctlr, ∃ rate : BitVec 11, ∃ irq : Bool, ∃ mode : Bool, ∃ s : State, (s.thm.parkAll = false) ∧ (s.ctlCheck a (R.mcScrubCtl c).addr = .pass) ∧ (s.fld (R.mcScrubCtl c) F.mcScrubCtl_STATUS ≠ 1) ∧ let r := R.mcScrubCtl c; let u := ((s.setF r F.mcScrubCtl_RATE (clampN 1 1024 rate.toNat)).setF r F.mcScrubCtl_IRQ_EN (if irq then 1 else 0)).setF r F.mcScrubCtl_MODE (if mode then 1 else 0); ((u.mcServes c && u.fenceIsOpen (.mc c)) = false)) ∧
    (∃ a : Agent, ∃ c : Ctlr, ∃ rate : BitVec 11, ∃ irq : Bool, ∃ mode : Bool, ∃ s : State, (s.thm.parkAll = false) ∧ (s.ctlCheck a (R.mcScrubCtl c).addr = .pass) ∧ (s.fld (R.mcScrubCtl c) F.mcScrubCtl_STATUS ≠ 1) ∧ let r := R.mcScrubCtl c; let u := ((s.setF r F.mcScrubCtl_RATE (clampN 1 1024 rate.toNat)).setF r F.mcScrubCtl_IRQ_EN (if irq then 1 else 0)).setF r F.mcScrubCtl_MODE (if mode then 1 else 0); ((u.mcServes c && u.fenceIsOpen (.mc c)) = true)) ∧
    (∃ a : Agent, ∃ c : Ctlr, ∃ s : State, (s.thm.parkAll = false) ∧ ∃ r : Nat, (s.ctlCheck a (R.mcScrubCtl c).addr = .viol r)) ∧
    (∃ a : Agent, ∃ c : Ctlr, ∃ s : State, (s.thm.parkAll = false) ∧ (s.ctlCheck a (R.mcScrubCtl c).addr = .pass) ∧ (s.fld (R.mcScrubCtl c) F.mcScrubCtl_STATUS ≠ 1)) ∧
    (∃ c : Ctlr, ∃ line : Nat, ∃ s : State, (s.thm.parkAll = false) ∧ (s.nextBacked c (s.mc c.num).next = some line) ∧ (s.fld (R.mcScrubCtl c) F.mcScrubCtl_STATUS = 1) ∧ ((s.mc c.num).stop = 0) ∧ (line ≤ s.fld (R.mcScrubLimit c) F.mcScrubLimit_LINE) ∧ ((s.mc c.num).us = s.tape / 1000) ∧ ((s.mc c.num).started < s.fld (R.mcScrubCtl c) F.mcScrubCtl_RATE)) ∧
    (∃ c : Ctlr, ∃ s : State, (s.thm.parkAll = false) ∧ (s.fld (R.mcScrubCtl c) F.mcScrubCtl_STATUS = 1) ∧ ((s.mc c.num).stop = 1)) ∧
    (∃ c : Ctlr, ∃ s : State, (s.thm.parkAll = false) ∧ (s.fld (R.mcScrubCtl c) F.mcScrubCtl_STATUS = 1) ∧ ((s.mc c.num).stop = 2)) ∧
    (∃ c : Ctlr, ∃ s : State, (s.thm.parkAll = false) ∧ (s.fld (R.mcScrubCtl c) F.mcScrubCtl_STATUS = 1) ∧ ((s.mc c.num).stop = 0) ∧ (s.nextBacked c (s.mc c.num).next = none)) ∧
    (∃ c : Ctlr, ∃ s : State, (s.thm.parkAll = false) ∧ (s.fld (R.mcScrubCtl c) F.mcScrubCtl_STATUS = 1) ∧ ((s.mc c.num).stop = 0) ∧ ∃ l : Nat, (s.nextBacked c (s.mc c.num).next = some l) ∧ (s.fld (R.mcScrubLimit c) F.mcScrubLimit_LINE < l)) ∧
    (∃ c : Ctlr, ∃ s : State, (s.thm.parkAll = false) ∧ (s.mcServes c = true)) ∧
    (∃ c : Ctlr, ∃ s : State, (s.thm.parkAll = false) ∧ (s.mcServes c = true) ∧ ∃ t : BitVec 8, (95 ≤ t.toNat)) :=
  ⟨⟨.keeper, (.hbm 0), scrub0 1 {}, (by decide +kernel), (by decide +kernel), (by decide +kernel)⟩,
   ⟨.keeper, (.hbm 0), 0, false, false, State.reset, (by decide +kernel), (by decide +kernel), (by decide +kernel), (by decide +kernel)⟩,
   ⟨.keeper, (.hbm 0), 0, false, false, openF (.mc (.hbm 0)) (info0 1 2), (by decide +kernel), (by decide +kernel), (by decide +kernel), (by decide +kernel)⟩,
   ⟨.hart h0, (.hbm 0), pkHart svc, (by decide +kernel), 6, (by decide +kernel)⟩,
   ⟨.keeper, (.hbm 0), State.reset, (by decide +kernel), (by decide +kernel), (by decide +kernel)⟩,
   ⟨(.hbm 0), 0, onBolt ((scrub0 1 {}).setF (R.mcScrubCtl (.hbm 0)) F.mcScrubCtl_RATE 1), (by decide +kernel), (by decide +kernel), (by decide +kernel), (by decide +kernel), (by decide +kernel), (by decide +kernel), (by decide +kernel)⟩,
   ⟨(.hbm 0), scrub0 1 { stop := 1 }, (by decide +kernel), (by decide +kernel), (by decide +kernel)⟩,
   ⟨(.hbm 0), scrub0 1 { stop := 2 }, (by decide +kernel), (by decide +kernel), (by decide +kernel)⟩,
   ⟨(.hbm 0), scrub0 1 {}, (by decide +kernel), (by decide +kernel), (by decide +kernel), (by decide +kernel)⟩,
   ⟨(.hbm 0), onBolt (scrub0 1 { next := 1 }), (by decide +kernel), (by decide +kernel), (by decide +kernel), 1, (by decide +kernel), (by decide +kernel)⟩,
   ⟨(.hbm 0), info0 1 0, (by decide +kernel), (by decide +kernel)⟩,
   ⟨(.hbm 0), info0 1 0, (by decide +kernel), (by decide +kernel), 95, (by decide +kernel)⟩⟩

theorem test_witness_ScrubTrainingAndHeat_2 :
    (∃ c : Ctlr, ∃ s : State, (s.thm.parkAll = false) ∧ (s.mcServes c = true) ∧ ∃ t : BitVec 8, (t.toNat < 95)) ∧
    (∃ c : Ctlr, ∃ s : State, (s.thm.parkAll = false) ∧ (s.mcServes c = true)) ∧
    (∃ c : Ctlr, ∃ r : TrainRes, ∃ s : State, (s.atStep 6 = true) ∧ (s.fld (R.mcInfo c) F.mcInfo_STATE = 0) ∧ ((s.trainMc c r).mcServes c = true)) ∧
    (∃ c : Ctlr, ∃ r : TrainRes, ∃ s : State, (s.atStep 6 = true) ∧ (s.fld (R.mcInfo c) F.mcInfo_STATE = 0) ∧ ((s.trainMc c r).mcServes c = false)) ∧
    (∃ s : State, (s.atStep 6 = false)) :=
  ⟨⟨(.hbm 0), info0 1 0, (by decide +kernel), (by decide +kernel), 94, (by decide +kernel)⟩,
   ⟨(.hbm 0), info0 1 0, (by decide +kernel), (by decide +kernel)⟩,
   ⟨(.hbm 0), .ok 6400 1 1 1 1, at' 6, (by decide +kernel), (by decide +kernel), trained0⟩,
   ⟨(.hbm 0), tr0, at' 6, (by decide +kernel), (by decide +kernel), (by decide +kernel)⟩,
   ⟨scrub0 1 {}, (by decide +kernel)⟩⟩

theorem test_witness_HarnessPorts_1 :
    (∃ k : Fin 16, ∃ lanes : BitVec 2, ∃ s : State, (s.portState k = 1) ∧ ((s.hport k).trained = false) ∧ (lanes.toNat = (match (s.hport k).lane with | 0 => 3 | 1 => 1 | _ => 2))) ∧
    (∃ k : Fin 16, ∃ s : State, (s.portState k = 1) ∧ let u := (s.advance ((s.hport k).since + s.cfg 0xB0 k.val 4 2 500 * 1000000)).setF (R.portStatus k.val) F.portStatus_LANES 0; ((s.hport k).lane < 2) ∧ (u.portCtl k 1 = true)) ∧
    (∃ k : Fin 16, ∃ s : State, (s.portState k = 1) ∧ let u := (s.advance ((s.hport k).since + s.cfg 0xB0 k.val 4 2 500 * 1000000)).setF (R.portStatus k.val) F.portStatus_LANES 0; (2 ≤ (s.hport k).lane ∨ u.portCtl k 1 = false)) ∧
    (∃ k : Fin 16, ∃ s : State, (s.portState k = 3) ∧ (s.portCtl k 0 = true)) ∧
    (∃ k : Fin 16, ∃ s : State, (s.portState k = 2 ∨ (s.portState k = 1 ∧ (s.hport k).trained = true))) ∧
    (∃ k : Fin 16, ∃ s : State, (s.portState k = 2 ∨ (s.portState k = 1 ∧ (s.hport k).trained = true))) ∧
    (∃ k : Fin 16, ∃ seq : BitVec 12, ∃ s : State, (s.portState k = 2 ∨ (s.portState k = 1 ∧ (s.hport k).trained = true)) ∧ let p := s.hport k; (seq.toNat ≠ p.rx % 4096)) ∧
    (∃ k : Fin 16, ∃ seq : BitVec 12, ∃ typ : BitVec 8, ∃ s : State, (s.portState k = 2 ∨ (s.portState k = 1 ∧ (s.hport k).trained = true)) ∧ let p := s.hport k; (seq.toNat = p.rx % 4096) ∧ (typ.toNat ≤ 6)) ∧
    (∃ k : Fin 16, ∃ seq : BitVec 12, ∃ typ : BitVec 8, ∃ s : State, (s.portState k = 2 ∨ (s.portState k = 1 ∧ (s.hport k).trained = true)) ∧ let p := s.hport k; (seq.toNat = p.rx % 4096) ∧ (6 < typ.toNat)) ∧
    (∃ k : Fin 16, ∃ seq : BitVec 12, ∃ s : State, (s.portState k = 2 ∨ (s.portState k = 1 ∧ (s.hport k).trained = true)) ∧ let p := s.hport k; let n := p.una + (seq.toNat + 4096 - p.una % 4096) % 4096; let runs := if n = p.una then p.runs + 1 else 1; (n < p.tx) ∧ (8 ≤ runs)) ∧
    (∃ k : Fin 16, ∃ seq : BitVec 12, ∃ s : State, (s.portState k = 2 ∨ (s.portState k = 1 ∧ (s.hport k).trained = true)) ∧ let p := s.hport k; let n := p.una + (seq.toNat + 4096 - p.una % 4096) % 4096; let runs := if n = p.una then p.runs + 1 else 1; (n < p.tx) ∧ (runs < 8)) ∧
    (∃ k : Fin 16, ∃ m : Hello, ∃ s : State, (s.portState k = 2 ∨ (s.portState k = 1 ∧ (s.hport k).trained = true)) ∧ let r := R.portStatus k.val; let u := ((((s.setF r F.portStatus_PEER_NODE m.node.toNat).setF r F.portStatus_PEER_PORT m.port.toNat).wr (R.portPeer k.val) m.serial).updHport k fun p => { p with heard := true, peerFeat := m.level.toNat }); let v := if u.assigned && m.node.toNat == u.nodeId && m.serial.toNat != u.serialNo then ((u.setF R.hrnNode F.hrnNode_DUP_SEEN 1).portErr k 1 5 (protoMisc 8 m.serial.toNat)).hrnEvent else u; (v.portState k = 2)) :=
  ⟨⟨0, 2, port' 1 { lane := 2 }, (by decide +kernel), (by decide +kernel), (by decide +kernel)⟩,
   ⟨0, port' 1 { lane := 1 }, (by decide +kernel), (by decide +kernel), (by decide +kernel)⟩,
   ⟨0, port' 1 { lane := 2 }, (by decide +kernel), (by decide +kernel)⟩,
   ⟨0, port' 3 {}, (by decide +kernel), (by decide +kernel)⟩,
   ⟨0, port' 2 {}, (by decide +kernel)⟩,
   ⟨0, port' 2 {}, (by decide +kernel)⟩,
   ⟨0, 1, port' 2 {}, (by decide +kernel), (by decide +kernel)⟩,
   ⟨0, 0, 6, port' 2 {}, (by decide +kernel), (by decide +kernel), (by decide +kernel)⟩,
   ⟨0, 0, 7, port' 2 {}, (by decide +kernel), (by decide +kernel), (by decide +kernel)⟩,
   ⟨0, 0, port' 2 { tx := 1, runs := 7 }, (by decide +kernel), (by decide +kernel), (by decide +kernel)⟩,
   ⟨0, 0, port' 2 { tx := 1, runs := 6 }, (by decide +kernel), (by decide +kernel), (by decide +kernel)⟩,
   ⟨0, hello0, port' 2 {}, (by decide +kernel), (by decide +kernel)⟩⟩

theorem test_witness_HarnessPorts_2 :
    ∃ k : Fin 16, ∃ m : Hello, ∃ s : State, (s.portState k = 2 ∨ (s.portState k = 1 ∧ (s.hport k).trained = true)) ∧ let r := R.portStatus k.val; let u := ((((s.setF r F.portStatus_PEER_NODE m.node.toNat).setF r F.portStatus_PEER_PORT m.port.toNat).wr (R.portPeer k.val) m.serial).updHport k fun p => { p with heard := true, peerFeat := m.level.toNat }); let v := if u.assigned && m.node.toNat == u.nodeId && m.serial.toNat != u.serialNo then ((u.setF R.hrnNode F.hrnNode_DUP_SEEN 1).portErr k 1 5 (protoMisc 8 m.serial.toNat)).hrnEvent else u; (v.portState k ≠ 2) :=
  ⟨0, hello0, port' 1 { trained := true }, (by decide +kernel), (by decide +kernel)⟩

theorem test_witness_HarnessManagement_1 :
    (∃ k : Fin 16, ∃ hop : BitVec 5, ∃ hops : BitVec 5, ∃ mop : BitVec 8, ∃ s : State, (s.portState k = 2) ∧ let n := clampN 1 16 hops.toNat; (n ≤ hop.toNat) ∧ (mop.toNat ≤ 2)) ∧
    (∃ k : Fin 16, ∃ hop : BitVec 5, ∃ hops : BitVec 5, ∃ mop : BitVec 8, ∃ s : State, (s.portState k = 2) ∧ let n := clampN 1 16 hops.toNat; (n ≤ hop.toNat) ∧ (2 < mop.toNat)) ∧
    (∃ k : Fin 16, ∃ path : Word, ∃ hop : BitVec 5, ∃ hops : BitVec 5, ∃ s : State, (s.portState k = 2) ∧ let n := clampN 1 16 hops.toNat; (hop.toNat < n) ∧ let out := path.toNat / 16 ^ hop.toNat % 16; (s.portState out ≠ 2)) ∧
    (∃ k : Fin 16, ∃ path : Word, ∃ hop : BitVec 5, ∃ hops : BitVec 5, ∃ s : State, (s.portState k = 2) ∧ let n := clampN 1 16 hops.toNat; (hop.toNat < n) ∧ let out := path.toNat / 16 ^ hop.toNat % 16; (s.portState out = 2)) ∧
    (∃ k : Fin 16, ∃ e : Nat × Word × Nat, ∃ s : State, ((s.hrn.mgmtIn.find? fun e => e.1 == k.val) = some e)) ∧
    (∃ k : Fin 16, ∃ e : Nat × Word × Nat, ∃ s : State, ((s.hrn.mgmtIn.find? fun e => e.1 == k.val) = some e) ∧ ∃ nonce : Word, (nonce ≠ 0)) ∧
    (∃ k : Fin 16, ∃ e : Nat × Word × Nat, ∃ s : State, ((s.hrn.mgmtIn.find? fun e => e.1 == k.val) = some e) ∧ let u : State := { s with hrn.mgmtIn := s.hrn.mgmtIn.erase e }; ∃ m : MgmtReq, ((u.assigned || u.hrn.change.isSome) = true) ∧ (u.mgmtAuth 1 m = false)) ∧
    (∃ k : Fin 16, ∃ e : Nat × Word × Nat, ∃ s : State, ((s.hrn.mgmtIn.find? fun e => e.1 == k.val) = some e) ∧ let u : State := { s with hrn.mgmtIn := s.hrn.mgmtIn.erase e }; ∃ m : MgmtReq, ((u.assigned || u.hrn.change.isSome) = false) ∧ (m.newId = 0x7FFF ∨ u.peerHas m.newId.toNat = true)) ∧
    (∃ k : Fin 16, ∃ e : Nat × Word × Nat, ∃ s : State, ((s.hrn.mgmtIn.find? fun e => e.1 == k.val) = some e) ∧ let u : State := { s with hrn.mgmtIn := s.hrn.mgmtIn.erase e }; ∃ m : MgmtReq, ((u.assigned || u.hrn.change.isSome) = false) ∧ (m.newId ≠ 0x7FFF) ∧ (u.peerHas m.newId.toNat = false)) ∧
    (∃ k : Fin 16, ∃ e : Nat × Word × Nat, ∃ s : State, ((s.hrn.mgmtIn.find? fun e => e.1 == k.val) = some e) ∧ let u : State := { s with hrn.mgmtIn := s.hrn.mgmtIn.erase e }; ∃ m : MgmtReq, (u.assigned = true) ∧ (u.hrn.change = none) ∧ (u.mgmtAuth 1 m = true) ∧ (m.newId ≠ 0x7FFF) ∧ (u.peerHas m.newId.toNat = false)) ∧
    (∃ k : Fin 16, ∃ e : Nat × Word × Nat, ∃ s : State, ((s.hrn.mgmtIn.find? fun e => e.1 == k.val) = some e) ∧ let u : State := { s with hrn.mgmtIn := s.hrn.mgmtIn.erase e }; ∃ m : MgmtReq, (u.assigned = true) ∧ (u.mgmtAuth 2 m = false)) ∧
    (∃ k : Fin 16, ∃ e : Nat × Word × Nat, ∃ s : State, ((s.hrn.mgmtIn.find? fun e => e.1 == k.val) = some e) ∧ let u : State := { s with hrn.mgmtIn := s.hrn.mgmtIn.erase e }; ∃ m : MgmtReq, (u.assigned = true) ∧ (u.mgmtAuth 2 m = true) ∧ (u.hrn.change = none)) :=
  ⟨⟨0, 1, 1, 2, port' 2 {}, (by decide +kernel), (by decide +kernel), (by decide +kernel)⟩,
   ⟨0, 1, 1, 3, port' 2 {}, (by decide +kernel), (by decide +kernel), (by decide +kernel)⟩,
   ⟨0, 1, 0, 0, port' 2 {}, (by decide +kernel), (by decide +kernel), (by decide +kernel)⟩,
   ⟨0, 0, 0, 0, port' 2 {}, (by decide +kernel), (by decide +kernel), (by decide +kernel)⟩,
   ⟨0, (0, 0, 1), mg, (by decide +kernel)⟩,
   ⟨0, (0, 0, 1), mg, (by decide +kernel), 1, (by decide +kernel)⟩,
   ⟨0, (0, 0, 1), mg.setF R.hrnNode F.hrnNode_ASSIGNED 1, (by decide +kernel), mr0, (by decide +kernel), (by decide +kernel)⟩,
   ⟨0, (0, 0, 1), mg, (by decide +kernel), { mr0 with newId := 0x7FFF }, (by decide +kernel), (by decide +kernel)⟩,
   ⟨0, (0, 0, 1), mg, (by decide +kernel), mr0, (by decide +kernel), (by decide +kernel), (by decide +kernel)⟩,
   ⟨0, (0, 0, 1), { mg.setF R.hrnNode F.hrnNode_ASSIGNED 1 with boot := { fabKey := some 0 } }, (by decide +kernel), ⟨5, 0, 0, 0x9f683090041a44284a6ccca42dd79100b3b606b4a42db1060f9a01f716b432ac⟩, (by decide +kernel), (by decide +kernel), (by decide +kernel), (by decide +kernel), (by decide +kernel)⟩,
   ⟨0, (0, 0, 1), mg.setF R.hrnNode F.hrnNode_ASSIGNED 1, (by decide +kernel), mr0, (by decide +kernel), (by decide +kernel)⟩,
   ⟨0, (0, 0, 1), { mg.setF R.hrnNode F.hrnNode_ASSIGNED 1 with boot := { fabKey := some 0 } }, (by decide +kernel), ⟨0, 0, 0, 0x530edcf1f96df2fb5465ffb5c4011b5ac1b190677ddbb0ef6f9940c2505f2218⟩, (by decide +kernel), (by decide +kernel), (by decide +kernel)⟩⟩

theorem test_witness_HarnessManagement_2 :
    (∃ s : State, ∃ id : Nat, ∃ k : Nat, ∃ path : Word, ∃ hops : Nat, ∃ mop : Nat, (s.hrn.change = some (id, k, path, hops, mop)) ∧ (s.hrn.ops = [])) ∧
    (∃ s : State, ∃ id : Nat, ∃ k : Nat, ∃ path : Word, ∃ hops : Nat, ∃ mop : Nat, (s.hrn.change = some (id, k, path, hops, mop)) ∧ (s.hrn.ops ≠ [])) ∧
    (∃ s : State, (s.hrn.da = none)) ∧
    (∃ s : State, (s.hrn.da.isSome = true)) :=
  ⟨⟨{ State.reset with hrn := { change := some (5, 0, 0, 1, 0) } }, 5, 0, 0, 1, 0, (by decide +kernel), (by decide +kernel)⟩,
   ⟨{ State.reset with hrn := { change := some (5, 0, 0, 1, 0), ops := [hop0] } }, 5, 0, 0, 1, 0, (by decide +kernel), (by decide +kernel)⟩,
   ⟨port' 2 {}, (by decide +kernel)⟩,
   ⟨{ State.reset with hrn := { da := some 8 } }, (by decide +kernel)⟩⟩

theorem test_witness_HarnessQueues_1 :
    (∃ a : Agent, ∃ q : Fin 1024, ∃ s : State, (s.ctlCheck a (R.cqTail q.val).addr = .pass)) ∧
    (∃ a : Agent, ∃ q : Fin 1024, ∃ s : State, (s.ctlCheck a (R.cqBase q.val).addr = .pass) ∧ (s.fld (R.cqStatus q.val) F.cqStatus_OUTSTANDING = 0)) ∧
    (∃ a : Agent, ∃ q : Fin 1024, ∃ s : State, (s.ctlCheck a (R.cqBase q.val).addr = .pass) ∧ (s.fld (R.cqStatus q.val) F.cqStatus_OUTSTANDING ≠ 0)) ∧
    (∃ a : Agent, ∃ r : Fin 1024, ∃ s : State, (s.ctlCheck a (R.rqPtr r.val).addr = .pass)) ∧
    (∃ q : Fin 1024, ∃ s : State, let st := R.cqStatus q.val; let head := s.fld st F.cqStatus_HEAD; (s.fld (R.cqOwner q.val) F.cqOwner_ENABLE = 1) ∧ (s.fld st F.cqStatus_STATE = 1) ∧ (head ≠ s.fld (R.cqTail q.val) F.cqTail_TAIL) ∧ (s.hrn.ops.length < 16384)) ∧
    (∃ q : Fin 1024, ∃ slot : BitVec 12, ∃ kind : Nat, ∃ c : Instr, ∃ d : HDesc, ∃ l : List Byte, ∃ s : State, ((kind = 1 ∧ c = .put q slot) ∨ (kind = 2 ∧ c = .get q slot) ∨ (kind = 3 ∧ c = .send q slot) ∨ (kind = 4 ∧ c = .atomic q slot)) ∧ (s.nextDesc q.val slot.toNat kind = some (d, l)) ∧ let o := s.descHOp d l; let u := ({ s with hrn.desc := s.hrn.desc.erase d } : State).pushOp o; (u.assigned = false)) ∧
    (∃ q : Fin 1024, ∃ slot : BitVec 12, ∃ kind : Nat, ∃ c : Instr, ∃ d : HDesc, ∃ l : List Byte, ∃ s : State, ((kind = 1 ∧ c = .put q slot) ∨ (kind = 2 ∧ c = .get q slot) ∨ (kind = 3 ∧ c = .send q slot) ∨ (kind = 4 ∧ c = .atomic q slot)) ∧ (s.nextDesc q.val slot.toNat kind = some (d, l)) ∧ let o := s.descHOp d l; let u := ({ s with hrn.desc := s.hrn.desc.erase d } : State).pushOp o; let bad := badTarget (le l 8 16) || (kind == 4 && o.m.addr.toNat % awBytes o.m.awidth != 0); (u.assigned = true) ∧ (bad = true)) ∧
    (∃ q : Fin 1024, ∃ slot : BitVec 12, ∃ kind : Nat, ∃ c : Instr, ∃ d : HDesc, ∃ l : List Byte, ∃ s : State, ((kind = 1 ∧ c = .put q slot) ∨ (kind = 2 ∧ c = .get q slot) ∨ (kind = 3 ∧ c = .send q slot) ∨ (kind = 4 ∧ c = .atomic q slot)) ∧ (s.nextDesc q.val slot.toNat kind = some (d, l)) ∧ let o := s.descHOp d l; let u := ({ s with hrn.desc := s.hrn.desc.erase d } : State).pushOp o; let bad := badTarget (le l 8 16) || (kind == 4 && o.m.addr.toNat % awBytes o.m.awidth != 0); (u.assigned = true) ∧ (bad = false) ∧ ∃ pa : Nat, ∃ k : Check, (u.bufferBad o.m.srcPocket.toNat o.loc o.buffer.1 o.buffer.2 = some (pa, k))) ∧
    (∃ q : Fin 1024, ∃ slot : BitVec 12, ∃ kind : Nat, ∃ c : Instr, ∃ d : HDesc, ∃ l : List Byte, ∃ s : State, ((kind = 1 ∧ c = .put q slot) ∨ (kind = 2 ∧ c = .get q slot) ∨ (kind = 3 ∧ c = .send q slot) ∨ (kind = 4 ∧ c = .atomic q slot)) ∧ (s.nextDesc q.val slot.toNat kind = some (d, l)) ∧ let o := s.descHOp d l; let u := ({ s with hrn.desc := s.hrn.desc.erase d } : State).pushOp o; let bad := badTarget (le l 8 16) || (kind == 4 && o.m.addr.toNat % awBytes o.m.awidth != 0); (u.assigned = true) ∧ (bad = false) ∧ (u.bufferBad o.m.srcPocket.toNat o.loc o.buffer.1 o.buffer.2 = none) ∧ (u.opDown o = true)) ∧
    (∃ q : Fin 1024, ∃ slot : BitVec 12, ∃ kind : Nat, ∃ c : Instr, ∃ d : HDesc, ∃ l : List Byte, ∃ s : State, ((kind = 1 ∧ c = .put q slot) ∨ (kind = 2 ∧ c = .get q slot) ∨ (kind = 3 ∧ c = .send q slot) ∨ (kind = 4 ∧ c = .atomic q slot)) ∧ (s.nextDesc q.val slot.toNat kind = some (d, l)) ∧ let o := s.descHOp d l; let u := ({ s with hrn.desc := s.hrn.desc.erase d } : State).pushOp o; let bad := badTarget (le l 8 16) || (kind == 4 && o.m.addr.toNat % awBytes o.m.awidth != 0); (u.assigned = true) ∧ (bad = false) ∧ (u.bufferBad o.m.srcPocket.toNat o.loc o.buffer.1 o.buffer.2 = none) ∧ (u.opDown o = false)) ∧
    (∃ q : Fin 1024, ∃ slot : BitVec 12, ∃ d : HDesc, ∃ l : List Byte, ∃ s : State, (s.nextDesc q.val slot.toNat 0 = some (d, l))) ∧
    (∃ q : Fin 1024, ∃ slot : BitVec 12, ∃ d : HDesc, ∃ l : List Byte, ∃ s : State, let o := s.descHOp d l; (s.nextDesc q.val slot.toNat 5 = some (d, l)) ∧ ((s.assigned && s.hrn.ops.any fun o => o.q == some q.val) = false)) :=
  ⟨⟨.keeper, 0, State.reset, (by decide +kernel)⟩,
   ⟨.keeper, 0, State.reset, (by decide +kernel), (by decide +kernel)⟩,
   ⟨.keeper, 0, State.reset.setF (R.cqStatus 0) F.cqStatus_OUTSTANDING 1, (by decide +kernel), (by decide +kernel)⟩,
   ⟨.keeper, 0, State.reset, (by decide +kernel)⟩,
   ⟨0, (((State.reset.setF (R.cqOwner 0) F.cqOwner_ENABLE 1).setF (R.cqStatus 0) F.cqStatus_STATE 1).setF (R.cqTail 0) F.cqTail_TAIL 1), (by decide +kernel), (by decide +kernel), (by decide +kernel), (by decide +kernel)⟩,
   ⟨0, 0, 1, .put 0 0, dsc0 (dput 1), dput 1, qd (dput 1), (.inl ⟨rfl, rfl⟩), (by decide +kernel), (by decide +kernel)⟩,
   ⟨0, 0, 1, .put 0 0, dsc0 dbad, dbad, nodeOn (qd dbad), (.inl ⟨rfl, rfl⟩), (by decide +kernel), (by decide +kernel), (by decide +kernel)⟩,
   ⟨0, 0, 1, .put 0 0, dsc0 (dput 1), dput 1, nodeOn (qd (dput 1)), (.inl ⟨rfl, rfl⟩), (by decide +kernel), (by decide +kernel), (by decide +kernel), 0, .decerr, (by decide +kernel)⟩,
   ⟨0, 0, 1, .put 0 0, dsc0 (dput 1), dput 1, nodeOn (onBolt (qd (dput 1))), (.inl ⟨rfl, rfl⟩), (by decide +kernel), (by decide +kernel), (by decide +kernel), (by decide +kernel), (by decide +kernel)⟩,
   ⟨0, 0, 1, .put 0 0, dsc0 (dput 1), dput 1, route0 (nodeOn (onBolt (qd (dput 1)))), (.inl ⟨rfl, rfl⟩), (by decide +kernel), (by decide +kernel), (by decide +kernel), (by decide +kernel), (by decide +kernel)⟩,
   ⟨0, 0, dsc0 (dput 0), dput 0, qd (dput 0), (by decide +kernel)⟩,
   ⟨0, 0, dsc0 (dput 5), dput 5, qd (dput 5), (by decide +kernel), (by decide +kernel)⟩⟩

theorem test_witness_HarnessQueues_2 :
    (∃ q : Fin 1024, ∃ slot : BitVec 12, ∃ d : HDesc, ∃ l : List Byte, ∃ s : State, let o := s.descHOp d l; (s.nextDesc q.val slot.toNat 5 = some (d, l)) ∧ ((s.assigned && s.hrn.ops.any fun o => o.q == some q.val) = true)) ∧
    (∃ q : Fin 1024, ∃ slot : BitVec 12, ∃ d : HDesc, ∃ l : List Byte, ∃ s : State, let o := s.descHOp d l; (s.nextDesc q.val slot.toNat 6 = some (d, l)) ∧ let o' := { o with loc := o.loc / 64 * 64, m := { o.m with ordered := false } }; (o'.m.srcPocket.toNat ≠ 0)) ∧
    (∃ q : Fin 1024, ∃ slot : BitVec 12, ∃ d : HDesc, ∃ l : List Byte, ∃ s : State, let o := s.descHOp d l; let u := ({ s with hrn.desc := s.hrn.desc.erase d } : State).pushOp o; (s.nextDesc q.val slot.toNat 6 = some (d, l)) ∧ let o' := { o with loc := o.loc / 64 * 64, m := { o.m with ordered := false } }; let v := u.updOp o'.serial fun _ => o'; (o'.m.srcPocket.toNat = 0) ∧ (v.bufferBad 0 o'.loc 2048 true = none)) :=
  ⟨⟨0, 0, dsc0 (dput 5), dput 5, nodeOn { qd (dput 5) with hrn := { desc := [dsc0 (dput 5)], ops := [{ hop0 with q := some 0 }] } }, (by decide +kernel), (by decide +kernel)⟩,
   ⟨0, 0, dsc0 (dput 6), dput 6, (qd (dput 6)).setF (R.cqOwner 0) F.cqOwner_POCKET 1, (by decide +kernel), (by decide +kernel)⟩,
   ⟨0, 0, dsc0 (dput 6), dput 6, onBolt (qd (dput 6)), (by decide +kernel), (by decide +kernel), (by decide +kernel)⟩⟩

theorem test_witness_HarnessArrivals :
    (∃ kind : Nat, ∃ c : HPkt → Instr, ∃ m : HPkt, ∃ s : State, ((kind = 1 ∧ c = .putReceive) ∨ (kind = 2 ∧ c = .getReceive) ∨ (kind = 3 ∧ c = .sendReceive) ∨ (kind = 4 ∧ c = .atomicReceive)) ∧ (s.assigned = true) ∧ (m.dstNode.toNat = s.nodeId) ∧ (m.budget = 0)) ∧
    (∃ kind : Nat, ∃ c : HPkt → Instr, ∃ m : HPkt, ∃ s : State, ((kind = 1 ∧ c = .putReceive) ∨ (kind = 2 ∧ c = .getReceive) ∨ (kind = 3 ∧ c = .sendReceive) ∨ (kind = 4 ∧ c = .atomicReceive)) ∧ (s.assigned = true) ∧ (m.dstNode.toNat = s.nodeId) ∧ (m.budget ≠ 0) ∧ (s.admission kind m = .refuse .viol)) ∧
    (∃ kind : Nat, ∃ c : HPkt → Instr, ∃ m : HPkt, ∃ s : State, ((kind = 1 ∧ c = .putReceive) ∨ (kind = 2 ∧ c = .getReceive) ∨ (kind = 3 ∧ c = .sendReceive) ∨ (kind = 4 ∧ c = .atomicReceive)) ∧ (s.assigned = true) ∧ (m.dstNode.toNat = s.nodeId) ∧ (m.budget ≠ 0) ∧ ∃ r : Resp, (r ≠ .viol) ∧ (s.admission kind m = .refuse r)) ∧
    (∃ kind : Nat, ∃ c : HPkt → Instr, ∃ m : HPkt, ∃ s : State, ((kind = 1 ∧ c = .putReceive) ∨ (kind = 2 ∧ c = .getReceive) ∨ (kind = 3 ∧ c = .sendReceive) ∨ (kind = 4 ∧ c = .atomicReceive)) ∧ (s.assigned = true) ∧ (m.dstNode.toNat = s.nodeId) ∧ (m.budget ≠ 0) ∧ ∃ n : Nat, (s.admission kind m = .bytes n) ∧ (kind = 3 ∧ s.rqFull m.addr.toNat = true ∧ 64 ≤ s.rqWaiting m.addr.toNat)) ∧
    (∃ kind : Nat, ∃ c : HPkt → Instr, ∃ m : HPkt, ∃ s : State, ((kind = 1 ∧ c = .putReceive) ∨ (kind = 2 ∧ c = .getReceive) ∨ (kind = 3 ∧ c = .sendReceive) ∨ (kind = 4 ∧ c = .atomicReceive)) ∧ (s.assigned = true) ∧ (m.dstNode.toNat = s.nodeId) ∧ (m.budget ≠ 0) ∧ ∃ n : Nat, (s.admission kind m = .bytes n) ∧ (¬ (kind = 3 ∧ s.rqFull m.addr.toNat = true ∧ 64 ≤ s.rqWaiting m.addr.toNat))) ∧
    (∃ m : HPkt, ∃ s : State, let op := s.hrn.ops.find? fun o => o.tag == m.tag.toNat && o.stage == 2; (op = none)) ∧
    (∃ m : HPkt, ∃ s : State, let op := s.hrn.ops.find? fun o => o.tag == m.tag.toNat && o.stage == 2; ∃ o : HOp, (op = some o) ∧ ∃ h : Nat, (o.hart = some h)) ∧
    (∃ t : Fin 5, ∃ m : HPkt, ∃ k : Fin 16, ∃ s : State, (s.toSelf m.dstNode.toNat = false) ∧ let pk := (if t.val = 4 then m.dstPocket else m.srcPocket).toNat; let u := s.uev 4 0x124 k.val pk; let cand := u.routeUp m.dstNode.toNat m.ordered pk; (m.ttl.toNat ≤ 1 ∨ m.budget = 0) ∧ ∃ p : Nat, ∃ l : List Nat, (cand = p :: l)) ∧
    (∃ t : Fin 5, ∃ m : HPkt, ∃ k : Fin 16, ∃ s : State, (s.toSelf m.dstNode.toNat = false) ∧ let pk := (if t.val = 4 then m.dstPocket else m.srcPocket).toNat; let u := s.uev 4 0x124 k.val pk; let cand := u.routeUp m.dstNode.toNat m.ordered pk; (m.ttl.toNat ≤ 1 ∨ m.budget = 0) ∧ (cand = [])) ∧
    (∃ m : HPkt, ∃ s : State, (s.toSelf m.dstNode.toNat = false) ∧ (1 < m.ttl.toNat) ∧ (m.budget ≠ 0)) :=
  ⟨⟨3, .sendReceive, { hp0 with dstNode := 5 }, nodeOn State.reset, (.inr (.inr (.inl ⟨rfl, rfl⟩))), (by decide +kernel), (by decide +kernel), (by decide +kernel)⟩,
   ⟨3, .sendReceive, { hp0 with dstNode := 5, budget := 1 }, nodeOn State.reset, (.inr (.inr (.inl ⟨rfl, rfl⟩))), (by decide +kernel), (by decide +kernel), (by decide +kernel), (by decide +kernel)⟩,
   ⟨3, .sendReceive, { hp0 with dstNode := 5, budget := 1, dstPocket := 1 }, { nodeOn State.reset with regs := (nodeOn svc).regs }, (.inr (.inr (.inl ⟨rfl, rfl⟩))), (by decide +kernel), (by decide +kernel), (by decide +kernel), .domoff, (by decide +kernel), (by decide +kernel)⟩,
   ⟨3, .sendReceive, { hp0 with dstNode := 5, budget := 1 }, { rq0 with hrn := { inb := List.replicate 64 hin3 } }, (.inr (.inr (.inl ⟨rfl, rfl⟩))), (by decide +kernel), (by decide +kernel), (by decide +kernel), 0, (by decide +kernel), (by decide +kernel)⟩,
   ⟨3, .sendReceive, { hp0 with dstNode := 5, budget := 1 }, { rq0 with hrn := { inb := List.replicate 63 hin3 } }, (.inr (.inr (.inl ⟨rfl, rfl⟩))), (by decide +kernel), (by decide +kernel), (by decide +kernel), 0, (by decide +kernel), (by decide +kernel)⟩,
   ⟨{ hp0 with dstNode := 5, budget := 1 }, nodeOn State.reset, (by decide +kernel)⟩,
   ⟨{ hp0 with dstNode := 5, budget := 1 }, { State.reset with hrn := { ops := [{ hop0 with stage := 2, hart := some 0 }] } }, { hop0 with stage := 2, hart := some 0 }, (by decide +kernel), 0, (by decide +kernel)⟩,
   ⟨0, { hp0 with ttl := 1, budget := 1 }, 0, route0 State.reset, (by decide +kernel), (by decide +kernel), 0, [], (by decide +kernel)⟩,
   ⟨0, { hp0 with ttl := 1, budget := 1 }, 0, nodeOn State.reset, (by decide +kernel), (by decide +kernel), (by decide +kernel)⟩,
   ⟨{ hp0 with ttl := 2, budget := 1 }, nodeOn State.reset, (by decide +kernel), (by decide +kernel), (by decide +kernel)⟩⟩

theorem test_witness_PocketRequests_1 :
    (∃ d : DoorHdr, ∃ s : State, let w := d.world.toNat; let head := s.fld (R.doorPtr w) F.doorPtr_REQ_HEAD; let pa := s.fld (R.doorCtl w) F.doorCtl_BASE * 4096 + 64 * head; let u := (s.setF (R.doorPtr w) F.doorPtr_REQ_HEAD ((head + 1) % 64)).uev 4 0x130 0 w; (s.doorReady w = true) ∧ (s.welt false w pa false = .pass) ∧ (u.service = true) ∧ (d.world ≠ 0)) ∧
    (∃ d : DoorHdr, ∃ peer : Pocket, ∃ s : State, let w := d.world.toNat; let q := peer.toNat; let head := s.fld (R.doorPtr w) F.doorPtr_REQ_HEAD; let pa := s.fld (R.doorCtl w) F.doorCtl_BASE * 4096 + 64 * head; let u := (s.setF (R.doorPtr w) F.doorPtr_REQ_HEAD ((head + 1) % 64)).uev 4 0x130 0 w; (s.doorReady w = true) ∧ (s.welt false w pa false = .pass) ∧ (u.service = true) ∧ (d.world = 0) ∧ (peer ≠ 0) ∧ ((u.pocket q).busy = true)) ∧
    (∃ d : DoorHdr, ∃ peer : Pocket, ∃ s : State, let w := d.world.toNat; let q := peer.toNat; let head := s.fld (R.doorPtr w) F.doorPtr_REQ_HEAD; let pa := s.fld (R.doorCtl w) F.doorCtl_BASE * 4096 + 64 * head; let u := (s.setF (R.doorPtr w) F.doorPtr_REQ_HEAD ((head + 1) % 64)).uev 4 0x130 0 w; (s.doorReady w = true) ∧ (s.welt false w pa false = .pass) ∧ (u.service = true) ∧ (d.world = 0) ∧ (peer ≠ 0) ∧ ((u.pocket q).busy = false) ∧ ((u.pocket q).st ≠ .free)) ∧
    (∃ d : DoorHdr, ∃ peer : Pocket, ∃ s : State, let w := d.world.toNat; let q := peer.toNat; let head := s.fld (R.doorPtr w) F.doorPtr_REQ_HEAD; let pa := s.fld (R.doorCtl w) F.doorCtl_BASE * 4096 + 64 * head; let u := (s.setF (R.doorPtr w) F.doorPtr_REQ_HEAD ((head + 1) % 64)).uev 4 0x130 0 w; (s.doorReady w = true) ∧ (s.welt false w pa false = .pass) ∧ (u.service = true) ∧ (d.world = 0) ∧ (peer ≠ 0) ∧ ((u.pocket q).busy = false) ∧ ∃ n : BitVec 9, ((u.pocket q).st = .free) ∧ (q ≤ u.maxPockets) ∧ (n.toNat ≠ 0) ∧ (n.toNat ≤ 256)) ∧
    (∃ d : DoorHdr, ∃ peer : Pocket, ∃ s : State, let w := d.world.toNat; let q := peer.toNat; let head := s.fld (R.doorPtr w) F.doorPtr_REQ_HEAD; let pa := s.fld (R.doorCtl w) F.doorCtl_BASE * 4096 + 64 * head; let u := (s.setF (R.doorPtr w) F.doorPtr_REQ_HEAD ((head + 1) % 64)).uev 4 0x130 0 w; (s.doorReady w = true) ∧ (s.welt false w pa false = .pass) ∧ (u.service = true) ∧ (d.world = 0) ∧ (peer ≠ 0) ∧ ((u.pocket q).busy = false) ∧ ∃ base : Addr, ∃ size : Addr, ((u.pocket q).st = .free ∨ u.rangeFits q base.toNat size.toNat = false)) ∧
    (∃ d : DoorHdr, ∃ peer : Pocket, ∃ s : State, let w := d.world.toNat; let q := peer.toNat; let head := s.fld (R.doorPtr w) F.doorPtr_REQ_HEAD; let pa := s.fld (R.doorCtl w) F.doorCtl_BASE * 4096 + 64 * head; let u := (s.setF (R.doorPtr w) F.doorPtr_REQ_HEAD ((head + 1) % 64)).uev 4 0x130 0 w; (s.doorReady w = true) ∧ (s.welt false w pa false = .pass) ∧ (u.service = true) ∧ (d.world = 0) ∧ (peer ≠ 0) ∧ ((u.pocket q).busy = false) ∧ ∃ base : Addr, ∃ size : Addr, ∃ k : RangeKind, ∃ ro : Bool, ((u.pocket q).st ≠ .free) ∧ (u.rangeFits q base.toNat size.toNat = true) ∧ let t := u.updPocket q fun p => { p with ranges := p.ranges ++ [⟨base.toNat, size.toNat, k, ro, false⟩] }; ∃ reason : Nat, (u.breaks t = some reason)) ∧
    (∃ d : DoorHdr, ∃ peer : Pocket, ∃ s : State, let w := d.world.toNat; let q := peer.toNat; let head := s.fld (R.doorPtr w) F.doorPtr_REQ_HEAD; let pa := s.fld (R.doorCtl w) F.doorCtl_BASE * 4096 + 64 * head; let u := (s.setF (R.doorPtr w) F.doorPtr_REQ_HEAD ((head + 1) % 64)).uev 4 0x130 0 w; (s.doorReady w = true) ∧ (s.welt false w pa false = .pass) ∧ (u.service = true) ∧ (d.world = 0) ∧ (peer ≠ 0) ∧ ((u.pocket q).busy = false) ∧ ∃ base : Addr, ∃ size : Addr, ∃ k : RangeKind, ∃ ro : Bool, ((u.pocket q).st ≠ .free) ∧ (u.rangeFits q base.toNat size.toNat = true) ∧ let t := u.updPocket q fun p => { p with ranges := p.ranges ++ [⟨base.toNat, size.toNat, k, ro, false⟩] }; (u.breaks t = none)) ∧
    (∃ d : DoorHdr, ∃ peer : Pocket, ∃ s : State, let w := d.world.toNat; let q := peer.toNat; let head := s.fld (R.doorPtr w) F.doorPtr_REQ_HEAD; let pa := s.fld (R.doorCtl w) F.doorCtl_BASE * 4096 + 64 * head; let u := (s.setF (R.doorPtr w) F.doorPtr_REQ_HEAD ((head + 1) % 64)).uev 4 0x130 0 w; (s.doorReady w = true) ∧ (s.welt false w pa false = .pass) ∧ (u.service = true) ∧ (d.world = 0) ∧ (peer ≠ 0) ∧ ((u.pocket q).busy = false) ∧ ∃ base : Addr, ∃ r : PRange, (((u.pocket q).ranges.find? fun r => r.base == base.toNat) = some r) ∧ (u.breaks (u.updPocket q fun p => { p with ranges := p.ranges.filter fun x => x.base != r.base }) = none)) ∧
    (∃ d : DoorHdr, ∃ peer : Pocket, ∃ s : State, let w := d.world.toNat; let q := peer.toNat; let head := s.fld (R.doorPtr w) F.doorPtr_REQ_HEAD; let pa := s.fld (R.doorCtl w) F.doorCtl_BASE * 4096 + 64 * head; let u := (s.setF (R.doorPtr w) F.doorPtr_REQ_HEAD ((head + 1) % 64)).uev 4 0x130 0 w; (s.doorReady w = true) ∧ (s.welt false w pa false = .pass) ∧ (u.service = true) ∧ (d.world = 0) ∧ (peer ≠ 0) ∧ ((u.pocket q).busy = false) ∧ let p := u.pocket q; let ok := p.ranges.any fun r => r.kind == .priv && decide (r.base ≤ p.stateBase) && decide (p.stateBase + 0x2000 * p.slots ≤ r.base + r.size); (p.st = .defined) ∧ (ok = true)) ∧
    (∃ d : DoorHdr, ∃ peer : Pocket, ∃ s : State, let w := d.world.toNat; let q := peer.toNat; let head := s.fld (R.doorPtr w) F.doorPtr_REQ_HEAD; let pa := s.fld (R.doorCtl w) F.doorCtl_BASE * 4096 + 64 * head; let u := (s.setF (R.doorPtr w) F.doorPtr_REQ_HEAD ((head + 1) % 64)).uev 4 0x130 0 w; (s.doorReady w = true) ∧ (s.welt false w pa false = .pass) ∧ (u.service = true) ∧ (d.world = 0) ∧ (peer ≠ 0) ∧ ((u.pocket q).busy = false) ∧ let p := u.pocket q; let ok := p.ranges.any fun r => r.kind == .priv && decide (r.base ≤ p.stateBase) && decide (p.stateBase + 0x2000 * p.slots ≤ r.base + r.size); (p.st ≠ .defined ∨ ok = false)) ∧
    (∃ d : DoorHdr, ∃ peer : Pocket, ∃ s : State, let w := d.world.toNat; let q := peer.toNat; let head := s.fld (R.doorPtr w) F.doorPtr_REQ_HEAD; let pa := s.fld (R.doorCtl w) F.doorCtl_BASE * 4096 + 64 * head; let u := (s.setF (R.doorPtr w) F.doorPtr_REQ_HEAD ((head + 1) % 64)).uev 4 0x130 0 w; (s.doorReady w = true) ∧ (s.welt false w pa false = .pass) ∧ (u.service = true) ∧ (d.world = 0) ∧ (peer ≠ 0) ∧ ((u.pocket q).busy = false) ∧ ((u.pocket q).st ≠ .armed)) ∧
    (∃ d : DoorHdr, ∃ peer : Pocket, ∃ s : State, let w := d.world.toNat; let q := peer.toNat; let head := s.fld (R.doorPtr w) F.doorPtr_REQ_HEAD; let pa := s.fld (R.doorCtl w) F.doorCtl_BASE * 4096 + 64 * head; let u := (s.setF (R.doorPtr w) F.doorPtr_REQ_HEAD ((head + 1) % 64)).uev 4 0x130 0 w; (s.doorReady w = true) ∧ (s.welt false w pa false = .pass) ∧ (u.service = true) ∧ (d.world = 0) ∧ (peer ≠ 0) ∧ ((u.pocket q).busy = false) ∧ ∃ n : Nat, ((u.pocket q).st = .armed) ∧ (u.sealFail q = some n)) :=
  ⟨⟨⟨1, 0⟩, doorOn 1 (withP { st := .armed, ranges := [⟨0, 0x200000, .priv, false, false⟩] } svc), (by decide +kernel), (by decide +kernel), (by decide +kernel), (by decide +kernel)⟩,
   ⟨dh0, 1, doorOn 0 (withP { busy := true } svc), (by decide +kernel), (by decide +kernel), (by decide +kernel), (by decide +kernel), (by decide +kernel), (by decide +kernel)⟩,
   ⟨dh0, 1, doorOn 0 (withP { st := .defined } svc), (by decide +kernel), (by decide +kernel), (by decide +kernel), (by decide +kernel), (by decide +kernel), (by decide +kernel), (by decide +kernel)⟩,
   ⟨dh0, 1, maxOne (doorOn 0 svc), (by decide +kernel), (by decide +kernel), (by decide +kernel), (by decide +kernel), (by decide +kernel), (by decide +kernel), 256, (by decide +kernel), (by decide +kernel), (by decide +kernel), (by decide +kernel)⟩,
   ⟨dh0, 1, doorOn 0 svc, (by decide +kernel), (by decide +kernel), (by decide +kernel), (by decide +kernel), (by decide +kernel), (by decide +kernel), 0, 0, (by decide +kernel)⟩,
   ⟨dh0, 1, sealed1, (by decide +kernel), (by decide +kernel), (by decide +kernel), (by decide +kernel), (by decide +kernel), (by decide +kernel), 0, 0x200000, .priv, false, (by decide +kernel), (by decide +kernel), 3, (by decide +kernel)⟩,
   ⟨dh0, 1, doorOn 0 (withP { st := .armed } svc), (by decide +kernel), (by decide +kernel), (by decide +kernel), (by decide +kernel), (by decide +kernel), (by decide +kernel), 0, 0x200000, .priv, false, (by decide +kernel), (by decide +kernel), (by decide +kernel)⟩,
   ⟨dh0, 1, doorOn 0 (withP { st := .armed, ranges := [⟨0x200000, 0x200000, .priv, false, false⟩] } svc), (by decide +kernel), (by decide +kernel), (by decide +kernel), (by decide +kernel), (by decide +kernel), (by decide +kernel), 0x200000, ⟨0x200000, 0x200000, .priv, false, false⟩, (by decide +kernel), (by decide +kernel)⟩,
   ⟨dh0, 1, doorOn 0 (withP { st := .defined, slots := 256, stateBase := 0x200000, ranges := [⟨0x200000, 0x200000, .priv, false, false⟩] } svc), (by decide +kernel), (by decide +kernel), (by decide +kernel), (by decide +kernel), (by decide +kernel), (by decide +kernel), (by decide +kernel), (by decide +kernel)⟩,
   ⟨dh0, 1, doorOn 0 (withP { st := .defined, slots := 256, stateBase := 0x200001, ranges := [⟨0x200000, 0x200000, .priv, false, false⟩] } svc), (by decide +kernel), (by decide +kernel), (by decide +kernel), (by decide +kernel), (by decide +kernel), (by decide +kernel), (by decide +kernel)⟩,
   ⟨dh0, 1, doorOn 0 svc, (by decide +kernel), (by decide +kernel), (by decide +kernel), (by decide +kernel), (by decide +kernel), (by decide +kernel), (by decide +kernel)⟩,
   ⟨dh0, 1, doorOn 0 (withP { st := .armed } svc), (by decide +kernel), (by decide +kernel), (by decide +kernel), (by decide +kernel), (by decide +kernel), (by decide +kernel), 1, (by decide +kernel), (by decide +kernel)⟩⟩

theorem test_witness_PocketRequests_2 :
    (∃ d : DoorHdr, ∃ peer : Pocket, ∃ s : State, let w := d.world.toNat; let q := peer.toNat; let head := s.fld (R.doorPtr w) F.doorPtr_REQ_HEAD; let pa := s.fld (R.doorCtl w) F.doorCtl_BASE * 4096 + 64 * head; let u := (s.setF (R.doorPtr w) F.doorPtr_REQ_HEAD ((head + 1) % 64)).uev 4 0x130 0 w; (s.doorReady w = true) ∧ (s.welt false w pa false = .pass) ∧ (u.service = true) ∧ (d.world = 0) ∧ (peer ≠ 0) ∧ ((u.pocket q).busy = false) ∧ ((u.pocket q).st = .armed) ∧ (u.sealFail q = none)) ∧
    (∃ d : DoorHdr, ∃ peer : Pocket, ∃ s : State, let w := d.world.toNat; let q := peer.toNat; let head := s.fld (R.doorPtr w) F.doorPtr_REQ_HEAD; let pa := s.fld (R.doorCtl w) F.doorCtl_BASE * 4096 + 64 * head; let u := (s.setF (R.doorPtr w) F.doorPtr_REQ_HEAD ((head + 1) % 64)).uev 4 0x130 0 w; (s.doorReady w = true) ∧ (s.welt false w pa false = .pass) ∧ (u.service = true) ∧ (d.world = 0) ∧ (peer ≠ 0) ∧ ((u.pocket q).busy = false) ∧ ((u.pocket q).st = .sealed)) ∧
    (∃ d : DoorHdr, ∃ peer : Pocket, ∃ s : State, let w := d.world.toNat; let q := peer.toNat; let head := s.fld (R.doorPtr w) F.doorPtr_REQ_HEAD; let pa := s.fld (R.doorCtl w) F.doorCtl_BASE * 4096 + 64 * head; let u := (s.setF (R.doorPtr w) F.doorPtr_REQ_HEAD ((head + 1) % 64)).uev 4 0x130 0 w; (s.doorReady w = true) ∧ (s.welt false w pa false = .pass) ∧ (u.service = true) ∧ (d.world = 0) ∧ (peer ≠ 0) ∧ ((u.pocket q).busy = false) ∧ ((u.pocket q).st ≠ .sealed)) ∧
    (∃ d : DoorHdr, ∃ peer : Pocket, ∃ s : State, let w := d.world.toNat; let q := peer.toNat; let head := s.fld (R.doorPtr w) F.doorPtr_REQ_HEAD; let pa := s.fld (R.doorCtl w) F.doorCtl_BASE * 4096 + 64 * head; let u := (s.setF (R.doorPtr w) F.doorPtr_REQ_HEAD ((head + 1) % 64)).uev 4 0x130 0 w; (s.doorReady w = true) ∧ (s.welt false w pa false = .pass) ∧ (u.service = true) ∧ (d.world = 0) ∧ (peer ≠ 0) ∧ ((u.pocket q).busy = false) ∧ ((u.pocket q).st = .free)) ∧
    (∃ d : DoorHdr, ∃ peer : Pocket, ∃ s : State, let w := d.world.toNat; let q := peer.toNat; let head := s.fld (R.doorPtr w) F.doorPtr_REQ_HEAD; let pa := s.fld (R.doorCtl w) F.doorCtl_BASE * 4096 + 64 * head; let u := (s.setF (R.doorPtr w) F.doorPtr_REQ_HEAD ((head + 1) % 64)).uev 4 0x130 0 w; (s.doorReady w = true) ∧ (s.welt false w pa false = .pass) ∧ (u.service = true) ∧ (d.world = 0) ∧ (peer ≠ 0) ∧ ((u.pocket q).busy = false) ∧ let v := (u.updPocket q fun p => { p with busy := true }); let x := (v.harts.map (·.1)).foldl (fun s h => if (s.hart h).hostEntered && (s.hart h).pocket == peer then (s.forceExit h).wakeHart h else s) v; ((u.pocket q).st ≠ .free) ∧ ((u.pocket q).st ≠ .sealed) ∧ ((u.pock.hand.any fun h => (h.src == q || h.dst == q) && h.step != 7) = false) ∧ (((x.blocksOf q).filter fun b => (x.findHand b).isNone) = []) ∧ (x.destroyWaits q = false)) :=
  ⟨⟨dh0, 1, { sealed1 with pock := { p := [(1, { st := .armed })] } }, (by decide +kernel), (by decide +kernel), (by decide +kernel), (by decide +kernel), (by decide +kernel), (by decide +kernel), (by decide +kernel), (by decide +kernel)⟩,
   ⟨dh0, 1, sealed1, (by decide +kernel), (by decide +kernel), (by decide +kernel), (by decide +kernel), (by decide +kernel), (by decide +kernel), (by decide +kernel)⟩,
   ⟨dh0, 1, doorOn 0 svc, (by decide +kernel), (by decide +kernel), (by decide +kernel), (by decide +kernel), (by decide +kernel), (by decide +kernel), (by decide +kernel)⟩,
   ⟨dh0, 1, doorOn 0 svc, (by decide +kernel), (by decide +kernel), (by decide +kernel), (by decide +kernel), (by decide +kernel), (by decide +kernel), (by decide +kernel)⟩,
   ⟨dh0, 1, doorOn 0 (withP { st := .armed } svc), (by decide +kernel), (by decide +kernel), (by decide +kernel), (by decide +kernel), (by decide +kernel), (by decide +kernel), (by decide +kernel), (by decide +kernel), (by decide +kernel), (by decide +kernel), (by decide +kernel)⟩⟩

theorem test_witness_BlockAndMessageRequests_1 :
    (∃ d : DoorHdr, ∃ s : State, let w := d.world.toNat; let head := s.fld (R.doorPtr w) F.doorPtr_REQ_HEAD; let pa := s.fld (R.doorCtl w) F.doorCtl_BASE * 4096 + 64 * head; (s.doorReady w = true) ∧ ∃ reason : Nat, (s.welt false w pa false = .viol reason)) ∧
    (∃ d : DoorHdr, ∃ s : State, let w := d.world.toNat; let head := s.fld (R.doorPtr w) F.doorPtr_REQ_HEAD; let pa := s.fld (R.doorCtl w) F.doorCtl_BASE * 4096 + 64 * head; let u := (s.setF (R.doorPtr w) F.doorPtr_REQ_HEAD ((head + 1) % 64)).uev 4 0x130 0 w; (s.doorReady w = true) ∧ (s.welt false w pa false = .pass) ∧ (u.service = false)) ∧
    (∃ d : DoorHdr, ∃ s : State, let w := d.world.toNat; let head := s.fld (R.doorPtr w) F.doorPtr_REQ_HEAD; let pa := s.fld (R.doorCtl w) F.doorCtl_BASE * 4096 + 64 * head; let u := (s.setF (R.doorPtr w) F.doorPtr_REQ_HEAD ((head + 1) % 64)).uev 4 0x130 0 w; (s.doorReady w = true) ∧ (s.welt false w pa false = .pass) ∧ (u.service = false)) ∧
    (∃ d : DoorHdr, ∃ s : State, let w := d.world.toNat; let head := s.fld (R.doorPtr w) F.doorPtr_REQ_HEAD; let pa := s.fld (R.doorCtl w) F.doorCtl_BASE * 4096 + 64 * head; let u := (s.setF (R.doorPtr w) F.doorPtr_REQ_HEAD ((head + 1) % 64)).uev 4 0x130 0 w; (s.doorReady w = true) ∧ (s.welt false w pa false = .pass) ∧ (u.service = true) ∧ ∃ b : Block, ∃ peer : Pocket, (d.world = 0) ∧ (peer ≠ 0) ∧ ((u.pocket peer.toNat).busy = false) ∧ ((u.findHand b).isSome = true)) ∧
    (∃ d : DoorHdr, ∃ s : State, let w := d.world.toNat; let head := s.fld (R.doorPtr w) F.doorPtr_REQ_HEAD; let pa := s.fld (R.doorCtl w) F.doorCtl_BASE * 4096 + 64 * head; let u := (s.setF (R.doorPtr w) F.doorPtr_REQ_HEAD ((head + 1) % 64)).uev 4 0x130 0 w; (s.doorReady w = true) ∧ (s.welt false w pa false = .pass) ∧ (u.service = true) ∧ ∃ b : Block, ∃ peer : Pocket, (d.world = 0) ∧ (peer ≠ 0) ∧ ((u.pocket peer.toNat).busy = false) ∧ ((u.findHand b).isSome = false) ∧ (u.blockThere b = true) ∧ ((match b with | .panel _ => u.armed peer.toNat | _ => (u.pocket peer.toNat).st != .free) = true) ∧ (((u.blockOwner b).1 && (u.blockOwner b).2 != 0) = false) ∧ (u.breaks (u.setOwner b true peer.toNat) = none)) ∧
    (∃ d : DoorHdr, ∃ s : State, let w := d.world.toNat; let head := s.fld (R.doorPtr w) F.doorPtr_REQ_HEAD; let pa := s.fld (R.doorCtl w) F.doorCtl_BASE * 4096 + 64 * head; let u := (s.setF (R.doorPtr w) F.doorPtr_REQ_HEAD ((head + 1) % 64)).uev 4 0x130 0 w; (s.doorReady w = true) ∧ (s.welt false w pa false = .pass) ∧ (u.service = true) ∧ ∃ b : Block, (d.world = 0 ∨ (u.blockOwner b).2 ≠ d.world.toNat)) ∧
    (∃ d : DoorHdr, ∃ s : State, let w := d.world.toNat; let head := s.fld (R.doorPtr w) F.doorPtr_REQ_HEAD; let pa := s.fld (R.doorCtl w) F.doorCtl_BASE * 4096 + 64 * head; let u := (s.setF (R.doorPtr w) F.doorPtr_REQ_HEAD ((head + 1) % 64)).uev 4 0x130 0 w; (s.doorReady w = true) ∧ (s.welt false w pa false = .pass) ∧ (u.service = true) ∧ ∃ b : Block, (d.world ≠ 0) ∧ ((u.blockOwner b).2 = d.world.toNat) ∧ ((u.blockOwner b).1 = true) ∧ (u.findHand b = none)) ∧
    (∃ d : DoorHdr, ∃ s : State, let w := d.world.toNat; let head := s.fld (R.doorPtr w) F.doorPtr_REQ_HEAD; let pa := s.fld (R.doorCtl w) F.doorCtl_BASE * 4096 + 64 * head; let u := (s.setF (R.doorPtr w) F.doorPtr_REQ_HEAD ((head + 1) % 64)).uev 4 0x130 0 w; (s.doorReady w = true) ∧ (s.welt false w pa false = .pass) ∧ (u.service = true) ∧ ∃ peer : Pocket, ((d.world = 0) = (peer = 0))) ∧
    (∃ d : DoorHdr, ∃ s : State, let w := d.world.toNat; let head := s.fld (R.doorPtr w) F.doorPtr_REQ_HEAD; let pa := s.fld (R.doorCtl w) F.doorCtl_BASE * 4096 + 64 * head; let u := (s.setF (R.doorPtr w) F.doorPtr_REQ_HEAD ((head + 1) % 64)).uev 4 0x130 0 w; (s.doorReady w = true) ∧ (s.welt false w pa false = .pass) ∧ (u.service = true) ∧ ∃ peer : Pocket, ((d.world = 0) ≠ (peer = 0)) ∧ (peer = 0 ∨ (u.pocket peer.toNat).st ≠ .free)) ∧
    (∃ d : DoorHdr, ∃ s : State, let w := d.world.toNat; let head := s.fld (R.doorPtr w) F.doorPtr_REQ_HEAD; let pa := s.fld (R.doorCtl w) F.doorCtl_BASE * 4096 + 64 * head; let u := (s.setF (R.doorPtr w) F.doorPtr_REQ_HEAD ((head + 1) % 64)).uev 4 0x130 0 w; (s.doorReady w = true) ∧ (s.welt false w pa false = .pass) ∧ (u.service = true) ∧ ∃ e : Fin 4096, (u.fld (R.export0 e.val) F.export0_VALID = 1) ∧ (u.fld (R.export1 e.val) F.export1_DST_POCKET ≠ d.world.toNat)) ∧
    (∃ d : DoorHdr, ∃ s : State, let w := d.world.toNat; let head := s.fld (R.doorPtr w) F.doorPtr_REQ_HEAD; let pa := s.fld (R.doorCtl w) F.doorCtl_BASE * 4096 + 64 * head; let u := (s.setF (R.doorPtr w) F.doorPtr_REQ_HEAD ((head + 1) % 64)).uev 4 0x130 0 w; (s.doorReady w = true) ∧ (s.welt false w pa false = .pass) ∧ (u.service = true) ∧ ∃ e : Fin 4096, (u.fld (R.export0 e.val) F.export0_VALID ≠ 1 ∨ u.fld (R.export1 e.val) F.export1_DST_POCKET = d.world.toNat)) ∧
    (∃ d : DoorHdr, ∃ s : State, let w := d.world.toNat; let head := s.fld (R.doorPtr w) F.doorPtr_REQ_HEAD; let pa := s.fld (R.doorCtl w) F.doorCtl_BASE * 4096 + 64 * head; let u := (s.setF (R.doorPtr w) F.doorPtr_REQ_HEAD ((head + 1) % 64)).uev 4 0x130 0 w; (s.doorReady w = true) ∧ (s.welt false w pa false = .pass) ∧ (u.service = true) ∧ ∃ inv : Bool, ∃ noninv : Bool, let r := R.debugEn w; let up := (inv && u.fld r F.debugEn_INV == 0) || (noninv && u.fld r F.debugEn_NONINV == 0); (up = true) ∧ ((w != 0 && bit (u.debugPolicy w) 2) = false)) :=
  ⟨⟨⟨1, 0⟩, doorOn 1 (withP { st := .armed } svc), (by decide +kernel), 0, (by decide +kernel)⟩,
   ⟨dh0, doorOn 0 State.reset, (by decide +kernel), (by decide +kernel), (by decide +kernel)⟩,
   ⟨dh0, doorOn 0 State.reset, (by decide +kernel), (by decide +kernel), (by decide +kernel)⟩,
   ⟨dh0, { doorOn 0 svc with pock := { hand := [hand0 (.panel 0)] } }, (by decide +kernel), (by decide +kernel), (by decide +kernel), (.panel 0), 1, (by decide +kernel), (by decide +kernel), (by decide +kernel), (by decide +kernel)⟩,
   ⟨dh0, doorOn 0 (withP { st := .defined } svc), (by decide +kernel), (by decide +kernel), (by decide +kernel), .cq 1023, 1, (by decide +kernel), (by decide +kernel), (by decide +kernel), (by decide +kernel), (by decide +kernel), (by decide +kernel), (by decide +kernel), (by decide +kernel)⟩,
   ⟨dh0, doorOn 0 svc, (by decide +kernel), (by decide +kernel), (by decide +kernel), (.panel 0), (by decide +kernel)⟩,
   ⟨⟨1, 0⟩, (tenant.setF (R.cqOwner 0) F.cqOwner_POCKET 1).setF (R.cqOwner 0) F.cqOwner_ENABLE 1, (by decide +kernel), (by decide +kernel), (by decide +kernel), .cq 0, (by decide +kernel), (by decide +kernel), (by decide +kernel), (by decide +kernel)⟩,
   ⟨dh0, doorOn 0 svc, (by decide +kernel), (by decide +kernel), (by decide +kernel), 0, (by simp [dh0])⟩,
   ⟨⟨1, 0⟩, tenant, (by decide +kernel), (by decide +kernel), (by decide +kernel), 0, (by decide), (by decide +kernel)⟩,
   ⟨dh0, ((doorOn 0 svc).setF (R.export0 4095) F.export0_VALID 1).setF (R.export1 4095) F.export1_DST_POCKET 1, (by decide +kernel), (by decide +kernel), (by decide +kernel), 4095, (by decide +kernel), (by decide +kernel)⟩,
   ⟨dh0, doorOn 0 svc, (by decide +kernel), (by decide +kernel), (by decide +kernel), 0, (by decide +kernel)⟩,
   ⟨dh0, doorOn 0 svc, (by decide +kernel), (by decide +kernel), (by decide +kernel), true, false, (by decide +kernel), (by decide +kernel)⟩⟩

theorem test_witness_BlockAndMessageRequests_2 :
    (∃ d : DoorHdr, ∃ s : State, let w := d.world.toNat; let head := s.fld (R.doorPtr w) F.doorPtr_REQ_HEAD; let pa := s.fld (R.doorCtl w) F.doorCtl_BASE * 4096 + 64 * head; let u := (s.setF (R.doorPtr w) F.doorPtr_REQ_HEAD ((head + 1) % 64)).uev 4 0x130 0 w; (s.doorReady w = true) ∧ (s.welt false w pa false = .pass) ∧ (u.service = true) ∧ ∃ inv : Bool, ∃ noninv : Bool, let r := R.debugEn w; let up := (inv && u.fld r F.debugEn_INV == 0) || (noninv && u.fld r F.debugEn_NONINV == 0); (up = false ∨ (w != 0 && bit (u.debugPolicy w) 2) = true)) ∧
    (∃ d : DoorHdr, ∃ s : State, let w := d.world.toNat; let head := s.fld (R.doorPtr w) F.doorPtr_REQ_HEAD; let pa := s.fld (R.doorCtl w) F.doorCtl_BASE * 4096 + 64 * head; let u := (s.setF (R.doorPtr w) F.doorPtr_REQ_HEAD ((head + 1) % 64)).uev 4 0x130 0 w; (s.doorReady w = true) ∧ (s.welt false w pa false = .pass) ∧ (u.service = true)) ∧
    (∃ d : DoorHdr, ∃ s : State, let w := d.world.toNat; let head := s.fld (R.doorPtr w) F.doorPtr_REQ_HEAD; let pa := s.fld (R.doorCtl w) F.doorCtl_BASE * 4096 + 64 * head; let u := (s.setF (R.doorPtr w) F.doorPtr_REQ_HEAD ((head + 1) % 64)).uev 4 0x130 0 w; (s.doorReady w = true) ∧ (s.welt false w pa false = .pass) ∧ (u.service = true) ∧ (d.world = 0) ∧ ∃ mop : BitVec 8, ∃ m : MgmtReq, ∃ t : List Byte, (u.fabricMac mop.toNat m.newId.toNat m.serial.toNat m.nonce.toNat = some t)) ∧
    (∃ d : DoorHdr, ∃ s : State, let w := d.world.toNat; let head := s.fld (R.doorPtr w) F.doorPtr_REQ_HEAD; let pa := s.fld (R.doorCtl w) F.doorCtl_BASE * 4096 + 64 * head; let u := (s.setF (R.doorPtr w) F.doorPtr_REQ_HEAD ((head + 1) % 64)).uev 4 0x130 0 w; (s.doorReady w = true) ∧ (s.welt false w pa false = .pass) ∧ (u.service = true) ∧ (d.world = 0) ∧ ∃ mop : BitVec 8, ∃ m : MgmtReq, (u.fabricMac mop.toNat m.newId.toNat m.serial.toNat m.nonce.toNat = none)) ∧
    (∃ d : DoorHdr, ∃ s : State, let w := d.world.toNat; let head := s.fld (R.doorPtr w) F.doorPtr_REQ_HEAD; let pa := s.fld (R.doorCtl w) F.doorCtl_BASE * 4096 + 64 * head; let u := (s.setF (R.doorPtr w) F.doorPtr_REQ_HEAD ((head + 1) % 64)).uev 4 0x130 0 w; (s.doorReady w = true) ∧ (s.welt false w pa false = .pass) ∧ (u.service = true) ∧ (d.world = 0)) :=
  ⟨⟨dh0, doorOn 0 svc, (by decide +kernel), (by decide +kernel), (by decide +kernel), false, false, (by decide +kernel)⟩,
   ⟨dh0, doorOn 0 svc, (by decide +kernel), (by decide +kernel), (by decide +kernel)⟩,
   ⟨dh0, { doorOn 0 svc with boot := { fabKey := some 0 } }, (by decide +kernel), (by decide +kernel), (by decide +kernel), (by decide +kernel), 0, mr0, _, rfl⟩,
   ⟨dh0, doorOn 0 svc, (by decide +kernel), (by decide +kernel), (by decide +kernel), (by decide +kernel), 0, mr0, (by decide +kernel)⟩,
   ⟨dh0, doorOn 0 svc, (by decide +kernel), (by decide +kernel), (by decide +kernel), (by decide +kernel)⟩⟩

theorem test_witness_DoorsAndPower :
    (∃ a : Agent, ∃ w : Pocket, ∃ base : Addr, ∃ s : State, let n := w.toNat; let r := R.doorCtl n; (s.ctlCheck a r.addr = .pass) ∧ let u := if s.fld r F.doorCtl_ENABLE = 1 then s else s.setF r F.doorCtl_BASE (base.toNat / 4096); (u.doorRuns n = true)) ∧
    (∃ a : Agent, ∃ w : Pocket, ∃ base : Addr, ∃ s : State, let n := w.toNat; let r := R.doorCtl n; (s.ctlCheck a r.addr = .pass) ∧ let u := if s.fld r F.doorCtl_ENABLE = 1 then s else s.setF r F.doorCtl_BASE (base.toNat / 4096); (u.doorRuns n = false)) ∧
    (∃ a : Agent, ∃ w : Pocket, ∃ s : State, let n := w.toNat; let r := R.doorCtl n; ∃ reason : Nat, (s.ctlCheck a r.addr = .viol reason)) ∧
    (∃ a : Agent, ∃ w : Pocket, ∃ s : State, (s.ctlCheck a (R.doorPtr w.toNat).addr = .pass)) ∧
    (∃ d : DoorHdr, ∃ c : Instr, ∃ u0 : PowerUnit, ∃ st : Nat, ∃ s : State, ((c = .powerOff d u0 ∧ st = 0) ∨ (∃ p, c = .powerDim d p ∧ u0 = .panel p ∧ st = 1) ∨ (c = .powerOn d u0 ∧ st = 2) ∨ (∃ t, c = .powerQuiet d t ∧ u0 = .llc t ∧ st = 1)) ∧ let head := s.fld (R.doorPtr 0) F.doorPtr_REQ_HEAD; let u := (s.setF (R.doorPtr 0) F.doorPtr_REQ_HEAD ((head + 1) % 64)).uev 4 0x130 0 0; let unit := powerName u0; let busy := (u.pock.power.any fun r => r.unit == unit) || (u.pock.hand.any fun h => blockInside unit h.block) || (u.pat.heldPower.any fun e => PowerUnit.panel (Fin.ofNat 12 e.2.2) == unit); (d.world = 0) ∧ (s.doorReady 0 = true) ∧ (s.welt false 0 (s.fld (R.doorCtl 0) F.doorCtl_BASE * 4096 + 64 * head) false = .pass) ∧ (u.service = true) ∧ (busy = true)) ∧
    (∃ d : DoorHdr, ∃ c : Instr, ∃ u0 : PowerUnit, ∃ st : Nat, ∃ s : State, ((c = .powerOff d u0 ∧ st = 0) ∨ (∃ p, c = .powerDim d p ∧ u0 = .panel p ∧ st = 1) ∨ (c = .powerOn d u0 ∧ st = 2) ∨ (∃ t, c = .powerQuiet d t ∧ u0 = .llc t ∧ st = 1)) ∧ let head := s.fld (R.doorPtr 0) F.doorPtr_REQ_HEAD; let u := (s.setF (R.doorPtr 0) F.doorPtr_REQ_HEAD ((head + 1) % 64)).uev 4 0x130 0 0; let unit := powerName u0; let busy := (u.pock.power.any fun r => r.unit == unit) || (u.pock.hand.any fun h => blockInside unit h.block) || (u.pat.heldPower.any fun e => PowerUnit.panel (Fin.ofNat 12 e.2.2) == unit); (d.world = 0) ∧ (s.doorReady 0 = true) ∧ (s.welt false 0 (s.fld (R.doorCtl 0) F.doorCtl_BASE * 4096 + 64 * head) false = .pass) ∧ (u.service = true) ∧ ∃ n : Nat, (busy = false) ∧ (u.powerRefused unit st = some n)) ∧
    (∃ d : DoorHdr, ∃ c : Instr, ∃ u0 : PowerUnit, ∃ st : Nat, ∃ s : State, ((c = .powerOff d u0 ∧ st = 0) ∨ (∃ p, c = .powerDim d p ∧ u0 = .panel p ∧ st = 1) ∨ (c = .powerOn d u0 ∧ st = 2) ∨ (∃ t, c = .powerQuiet d t ∧ u0 = .llc t ∧ st = 1)) ∧ let head := s.fld (R.doorPtr 0) F.doorPtr_REQ_HEAD; let u := (s.setF (R.doorPtr 0) F.doorPtr_REQ_HEAD ((head + 1) % 64)).uev 4 0x130 0 0; let unit := powerName u0; let busy := (u.pock.power.any fun r => r.unit == unit) || (u.pock.hand.any fun h => blockInside unit h.block) || (u.pat.heldPower.any fun e => PowerUnit.panel (Fin.ofNat 12 e.2.2) == unit); (d.world = 0) ∧ (s.doorReady 0 = true) ∧ (s.welt false 0 (s.fld (R.doorCtl 0) F.doorCtl_BASE * 4096 + 64 * head) false = .pass) ∧ (u.service = true) ∧ (busy = false) ∧ (u.powerRefused unit st = none) ∧ (∀ p, unit ≠ .panel p)) ∧
    (∃ d : DoorHdr, ∃ c : Instr, ∃ u0 : PowerUnit, ∃ st : Nat, ∃ s : State, ((c = .powerOff d u0 ∧ st = 0) ∨ (∃ p, c = .powerDim d p ∧ u0 = .panel p ∧ st = 1) ∨ (c = .powerOn d u0 ∧ st = 2) ∨ (∃ t, c = .powerQuiet d t ∧ u0 = .llc t ∧ st = 1)) ∧ let head := s.fld (R.doorPtr 0) F.doorPtr_REQ_HEAD; let u := (s.setF (R.doorPtr 0) F.doorPtr_REQ_HEAD ((head + 1) % 64)).uev 4 0x130 0 0; let unit := powerName u0; let busy := (u.pock.power.any fun r => r.unit == unit) || (u.pock.hand.any fun h => blockInside unit h.block) || (u.pat.heldPower.any fun e => PowerUnit.panel (Fin.ofNat 12 e.2.2) == unit); (d.world = 0) ∧ (s.doorReady 0 = true) ∧ (s.welt false 0 (s.fld (R.doorCtl 0) F.doorCtl_BASE * 4096 + 64 * head) false = .pass) ∧ (u.service = true) ∧ ∃ p : Panel, (busy = false) ∧ (u.powerRefused unit st = none) ∧ (unit = .panel p) ∧ (¬ (st = 2 ∧ u.girthHeld p.val = true))) ∧
    (∃ d : DoorHdr, ∃ c : Instr, ∃ u0 : PowerUnit, ∃ st : Nat, ∃ s : State, ((c = .powerOff d u0 ∧ st = 0) ∨ (∃ p, c = .powerDim d p ∧ u0 = .panel p ∧ st = 1) ∨ (c = .powerOn d u0 ∧ st = 2) ∨ (∃ t, c = .powerQuiet d t ∧ u0 = .llc t ∧ st = 1)) ∧ let head := s.fld (R.doorPtr 0) F.doorPtr_REQ_HEAD; let u := (s.setF (R.doorPtr 0) F.doorPtr_REQ_HEAD ((head + 1) % 64)).uev 4 0x130 0 0; let unit := powerName u0; let busy := (u.pock.power.any fun r => r.unit == unit) || (u.pock.hand.any fun h => blockInside unit h.block) || (u.pat.heldPower.any fun e => PowerUnit.panel (Fin.ofNat 12 e.2.2) == unit); (d.world = 0) ∧ (s.doorReady 0 = true) ∧ (s.welt false 0 (s.fld (R.doorCtl 0) F.doorCtl_BASE * 4096 + 64 * head) false = .pass) ∧ (u.service = true) ∧ ∃ p : Panel, (busy = false) ∧ (u.powerRefused unit st = none) ∧ (unit = .panel p) ∧ (st = 2 ∧ u.girthHeld p.val = true)) ∧
    (∃ p : Panel, ∃ s : State, (KMap.get 0 s.thm.up p.val = 2)) ∧
    (∃ p : Panel, ∃ s : State, (KMap.get 0 s.thm.up p.val = 2) ∧ let u := fun ok => (s.resetPanel p.val ok).handTag p.val ok; ((u false).boot.pnlWait.contains p.val = false)) ∧
    (∃ p : Panel, ∃ s : State, (KMap.get 0 s.thm.up p.val = 2) ∧ let u := fun ok => (s.resetPanel p.val ok).handTag p.val ok; ((u false).boot.pnlWait.contains p.val = true)) :=
  ⟨⟨.keeper, 0xFFF, 0, State.reset.setF (R.doorCtl 4095) F.doorCtl_STATE 1, (by decide +kernel), (by decide +kernel)⟩,
   ⟨.keeper, 0, 0, State.reset, (by decide +kernel), (by decide +kernel)⟩,
   ⟨.hart h0, 0, pkHart svc, 6, (by decide +kernel)⟩,
   ⟨.keeper, 0, doorOn 0 svc, (by decide +kernel)⟩,
   ⟨dh0, .powerOff dh0 (.panel 0), .panel 0, 0, { doorOn 0 svc with pock := { hand := [hand0 (.panel 0)] } }, (.inl ⟨rfl, rfl⟩), (by decide +kernel), (by decide +kernel), (by decide +kernel), (by decide +kernel), (by decide +kernel)⟩,
   ⟨dh0, .powerOff dh0 (.panel 0), .panel 0, 0, { doorOn 0 svc with boot := { dorm := some (0, false, 0) } }, (.inl ⟨rfl, rfl⟩), (by decide +kernel), (by decide +kernel), (by decide +kernel), (by decide +kernel), 0, (by decide +kernel), (by decide +kernel)⟩,
   ⟨dh0, .powerOn dh0 (.llc 0), .llc 0, 2, doorOn 0 svc, (.inr (.inr (.inl ⟨rfl, rfl⟩))), (by decide +kernel), (by decide +kernel), (by decide +kernel), (by decide +kernel), (by decide +kernel), (by decide +kernel), (fun _ h => nomatch h)⟩,
   ⟨dh0, .powerOff dh0 (.panel 0), .panel 0, 0, doorOn 0 svc, (.inl ⟨rfl, rfl⟩), (by decide +kernel), (by decide +kernel), (by decide +kernel), (by decide +kernel), 0, (by decide +kernel), (by decide +kernel), (by decide +kernel), (by decide +kernel)⟩,
   ⟨dh0, .powerOn dh0 (.panel 0), .panel 0, 2, { one (doorOn 0 svc) with pat := { (doorOn 0 svc).pat with alt := some { alt0 with epoch := [⟨0x40, 0xFFFF, [2]⟩] } } }, (.inr (.inr (.inl ⟨rfl, rfl⟩))), (by decide +kernel), (by decide +kernel), (by decide +kernel), (by decide +kernel), 0, (by decide +kernel), (by decide +kernel), (by decide +kernel), (by decide +kernel)⟩,
   ⟨0, { State.reset with thm := { up := [(0, 2)] } }, (by decide +kernel)⟩,
   ⟨0, { State.reset with thm := { up := [(0, 2)] } }, (by decide +kernel), (by decide +kernel)⟩,
   ⟨0, { State.reset with thm := { up := [(0, 2)] }, boot := { pnlWait := [0] } }, (by decide +kernel), (by decide +kernel)⟩⟩

theorem test_witness_BobbinChannels :
    (∃ n : Fin 64, ∃ s : State, (s.thm.parkAll = false) ∧ (s.fenceIsOpen (.bob n) = false)) ∧
    (∃ a : Agent, ∃ n : Fin 64, ∃ c : Fin 8, ∃ s : State, (s.thm.parkAll = false) ∧ let r := R.chCtl n.val c.val; (s.fenceIsOpen (.bob n) = true) ∧ ∃ reason : Nat, (s.ctlCheck a r.addr = .viol reason)) ∧
    (∃ a : Agent, ∃ n : Fin 64, ∃ c : Fin 8, ∃ s : State, (s.thm.parkAll = false) ∧ let r := R.chCtl n.val c.val; (s.fenceIsOpen (.bob n) = true) ∧ (s.ctlCheck a r.addr = .pass) ∧ (s.chanState n.val c.val = 0 ∨ s.chanState n.val c.val = 2) ∧ (s.fld r F.chCtl_INFLIGHT = 0)) ∧
    (∃ a : Agent, ∃ n : Fin 64, ∃ c : Fin 8, ∃ s : State, (s.thm.parkAll = false) ∧ let r := R.chCtl n.val c.val; (s.fenceIsOpen (.bob n) = true) ∧ (s.ctlCheck a r.addr = .pass) ∧ (s.chanState n.val c.val = 1 ∨ s.chanState n.val c.val = 3)) ∧
    (∃ a : Agent, ∃ n : Fin 64, ∃ c : Fin 8, ∃ s : State, (s.thm.parkAll = false) ∧ let r := R.chCtl n.val c.val; (s.fenceIsOpen (.bob n) = true) ∧ (s.ctlCheck a r.addr = .pass) ∧ (s.chanState n.val c.val = 1)) ∧
    (∃ a : Agent, ∃ n : Fin 64, ∃ c : Fin 8, ∃ s : State, (s.thm.parkAll = false) ∧ let r := R.chCtl n.val c.val; (s.fenceIsOpen (.bob n) = true) ∧ (s.ctlCheck a r.addr = .pass) ∧ (s.chanState n.val c.val ≠ 1)) ∧
    (∃ n : Fin 64, ∃ c : Fin 8, ∃ s : State, (s.thm.parkAll = false) ∧ (s.chanState n.val c.val = 3) ∧ (s.fld (R.chCtl n.val c.val) F.chCtl_INFLIGHT = 0)) ∧
    (∃ n : Fin 64, ∃ c : Fin 8, ∃ s : State, (s.thm.parkAll = false) ∧ (s.chanState n.val c.val = 1) ∧ let x := s.chan n.val c.val; (x.stage = 2) ∧ (x.read < x.len) ∧ (s.fenceIsOpen (.bob n) = true) ∧ (s.fld (R.chCtl n.val c.val) F.chCtl_INFLIGHT < s.fld (R.chLimit n.val c.val) F.chLimit_MAX_BEATS)) ∧
    (∃ n : Fin 64, ∃ c : Fin 8, ∃ s : State, (s.thm.parkAll = false) ∧ (s.chanState n.val c.val = 1) ∧ let x := s.chan n.val c.val; (x.stage = 2) ∧ (x.issued = x.len) ∧ ((bit x.ctl 2 && s.chanBusy n.val c.val) = false)) ∧
    (∃ n : Fin 64, ∃ c : Fin 8, ∃ r : YReq, ∃ e : LineData × BitVec 4, ∃ s : State, (s.thm.parkAll = false) ∧ (s.atomBack n.val c.val = some r) ∧ (r.got = some e) ∧ let old := lineNat e.1 (r.pa.toNat % 64) 4; let u := s.dropYoke r.eye r.txid; let x := u.chan n.val c.val; (u.chanState n.val c.val = 1) ∧ (x.stage = 3) ∧ (ctlLast old = true)) ∧
    (∃ n : Fin 64, ∃ c : Fin 8, ∃ r : YReq, ∃ e : LineData × BitVec 4, ∃ s : State, (s.thm.parkAll = false) ∧ (s.atomBack n.val c.val = some r) ∧ (r.got = some e) ∧ let old := lineNat e.1 (r.pa.toNat % 64) 4; let u := s.dropYoke r.eye r.txid; let x := u.chan n.val c.val; (u.chanState n.val c.val = 1) ∧ (x.stage = 3) ∧ (ctlLast old = false) ∧ (ctlChain old = 1)) ∧
    (∃ n : Fin 64, ∃ c : Fin 8, ∃ r : YReq, ∃ e : LineData × BitVec 4, ∃ s : State, (s.thm.parkAll = false) ∧ (s.atomBack n.val c.val = some r) ∧ (r.got = some e) ∧ let old := lineNat e.1 (r.pa.toNat % 64) 4; let u := s.dropYoke r.eye r.txid; let x := u.chan n.val c.val; (u.chanState n.val c.val = 1) ∧ (x.stage = 3) ∧ (ctlLast old = false) ∧ (ctlChain old ≠ 1)) :=
  ⟨⟨0, State.reset, (by decide +kernel), (by decide +kernel)⟩,
   ⟨.hart h0, 0, 0, bob0 0 {} (pkHart svc), (by decide +kernel), (by decide +kernel), 5, (by decide +kernel)⟩,
   ⟨.keeper, 0, 0, bob0 0 {} State.reset, (by decide +kernel), (by decide +kernel), (by decide +kernel), (by decide +kernel), (by decide +kernel)⟩,
   ⟨.keeper, 0, 0, bob0 3 {} State.reset, (by decide +kernel), (by decide +kernel), (by decide +kernel), (by decide +kernel)⟩,
   ⟨.keeper, 0, 0, bob0 1 {} State.reset, (by decide +kernel), (by decide +kernel), (by decide +kernel), (by decide +kernel)⟩,
   ⟨.keeper, 0, 0, bob0 0 {} State.reset, (by decide +kernel), (by decide +kernel), (by decide +kernel), (by decide +kernel)⟩,
   ⟨0, 0, bob0 3 {} State.reset, (by decide +kernel), (by decide +kernel), (by decide +kernel)⟩,
   ⟨0, 0, (bob0 1 { stage := 2, len := 1 } State.reset).setF (R.chLimit 0 0) F.chLimit_MAX_BEATS 1, (by decide +kernel), (by decide +kernel), (by decide +kernel), (by decide +kernel), (by decide +kernel), (by decide +kernel)⟩,
   ⟨0, 0, bob0 1 { stage := 2, len := 1, issued := 1 } State.reset, (by decide +kernel), (by decide +kernel), (by decide +kernel), (by decide +kernel), (by decide +kernel)⟩,
   ⟨0, 0, atom 0x20, (0x20, 0), atomS 0x20, (by decide +kernel), (by decide +kernel), (by decide +kernel), (by decide +kernel), (by decide +kernel), (by decide +kernel)⟩,
   ⟨0, 0, atom 0x100, (0x100, 0), atomS 0x100, (by decide +kernel), (by decide +kernel), (by decide +kernel), (by decide +kernel), (by decide +kernel), (by decide +kernel), (by decide +kernel)⟩,
   ⟨0, 0, atom 0, (0, 0), atomS 0, (by decide +kernel), (by decide +kernel), (by decide +kernel), (by decide +kernel), (by decide +kernel), (by decide +kernel), (by decide +kernel)⟩⟩

theorem test_witness_RailsAndDim :
    (∃ p : Panel, ∃ s : State, (KMap.get 0 s.thm.out p.val ≠ 0) ∧ ((s.dimOf p.val).stage = 0) ∧ (KMap.get 0 s.thm.up p.val ≠ 1)) ∧
    (∃ a : Agent, ∃ p : Panel, ∃ s : State, (s.ctlCheck a (R.vstate p.val).addr = .pass) ∧ (s.fld (R.vstate p.val) F.vstate_VREG_FAULT = 0)) ∧
    (∃ a : Agent, ∃ p : Panel, ∃ s : State, (s.ctlCheck a (R.vstate p.val).addr = .pass) ∧ (s.fld (R.vstate p.val) F.vstate_VREG_FAULT ≠ 0)) ∧
    (∃ p : Panel, ∃ s : State, let us := s.limit 0x12 2 1000; let hs := (panelHarts p.val).filter s.hartOn; (us ≠ 0) ∧ (hs ≠ []) ∧ (∀ h ∈ hs, (s.hart h).mode = .park ∨ (s.hart h).mode = .sleep) ∧ (s.panelState p.val = 0) ∧ ((s.dimOf p.val).stage = 0) ∧ (s.panelSealed p.val = false) ∧ (s.fld (R.vstate p.val) F.vstate_VREG_FAULT ≠ 1)) ∧
    (∃ p : Panel, ∃ s : State, ((s.dimOf p.val).stage = 1) ∧ let u := s.dimFlush p.val; (u.dimEmpty p.val = false)) ∧
    (∃ p : Panel, ∃ s : State, ((s.dimOf p.val).stage = 1) ∧ let u := s.dimFlush p.val; (u.dimEmpty p.val = true)) ∧
    (∃ p : Panel, ∃ s : State, ((s.dimOf p.val).byReq = false) ∧ (((panelHarts p.val).any fun h => s.hartOn h && (s.hart h).w.intReady) = true)) ∧
    (∃ p : Panel, ∃ s : State, ((s.dimOf p.val).stage = 4)) ∧
    (∃ sd : Saddle, ∃ s : State, (s.saddleState sd.val = 1) ∧ (s.thm.quiet.contains sd.val = true)) :=
  ⟨⟨0, { State.reset with thm := { out := [(0, 701)] } }, (by decide +kernel), (by decide +kernel), (by decide +kernel)⟩,
   ⟨.keeper, 0, State.reset, (by decide +kernel), (by decide +kernel)⟩,
   ⟨.keeper, 0, State.reset.setF (R.vstate 0) F.vstate_VREG_FAULT 1, (by decide +kernel), (by decide +kernel)⟩,
   ⟨0, one (hs { mode := .park }), (by decide +kernel), (by decide +kernel), (by decide +kernel), (by decide +kernel), (by decide +kernel), (by decide +kernel), (by decide +kernel)⟩,
   ⟨0, { hs { l2 := [(0, { st := .M }), (1, { st := .E })] } with thm := { dim := [(0, { stage := 1 })] } }, (by decide +kernel), (by decide +kernel)⟩,
   ⟨0, dim0 { stage := 1 }, (by decide +kernel), (by decide +kernel)⟩,
   ⟨0, one (hs { w := { csr := [(0x304, 8), (0x344, 8)] } }), (by decide +kernel), (by decide +kernel)⟩,
   ⟨0, dim0 { stage := 4 }, (by decide +kernel)⟩,
   ⟨0, { State.reset.setF R.domainState F.domainState_SADDLE 1 with thm := { quiet := [0] } }, (by decide +kernel), (by decide +kernel)⟩⟩

theorem test_witness_ThimbleTripAndDormant :
    (∃ k : Fin 8, ∃ s : State, (bit (s.prog 4 1) k.val = true) ∧ (bit (s.prog 3 1) k.val = true)) ∧
    (∃ k : Fin 8, ∃ s : State, (bit (s.prog 4 1) k.val = true) ∧ (bit (s.prog 3 1) k.val = false)) ∧
    (∃ x : Samples, ∃ s : State, let hot := (List.range 17).filter fun c => decide ((16 * s.limit 9 1 110 : Nat) ≤ x.vals.getD c 0); (hot.find? s.thm.hot.contains = none)) ∧
    (∃ x : Samples, ∃ s : State, let hot := (List.range 17).filter fun c => decide ((16 * s.limit 9 1 110 : Nat) ≤ x.vals.getD c 0); ∃ c : Nat, (hot.find? s.thm.hot.contains = some c)) ∧
    (∃ s : State, (s.fld R.thmStatus F.thmStatus_TRIPPED ≠ 1)) :=
  ⟨⟨0, prog0 1 1, (by decide +kernel), (by decide +kernel)⟩,
   ⟨0, prog0 0 1, (by decide +kernel), (by decide +kernel)⟩,
   ⟨⟨[1760]⟩, State.reset, (by decide +kernel)⟩,
   ⟨⟨[1760]⟩, { State.reset with thm := { hot := [0] } }, 0, (by decide +kernel)⟩,
   ⟨State.reset, (by decide +kernel)⟩⟩

theorem test_witness_KeySlots :
    (∃ s : State, ∃ l : List Byte, (s.slotSigns (le (seg l (le l 8 4) 784) 0 1) = false)) ∧
    (∃ s : State, ∃ l : List Byte, (s.slotSigns (le (seg l (le l 16 4) 784) 0 1) = false) ∧ (bit (le l 4 4) 0 = true)) ∧
    (∃ s : State, ∃ l : List Byte, (s.slotSigns (le (seg l (imgLen l) 784) 0 1) = false)) ∧
    (∃ c : Instr, ∃ seq : BitVec 16, ∃ s : State, ∃ t : State, (c = .setFabricKey seq ∨ c = .ownerKey seq ∨ c = .revoke seq ∨ c = .rollback seq ∨ c = .hostVerify seq) ∧ (s.slotSigns (le (s.mbxArg 64 784) 0 1) = false) ∧ (exec c s = .next t)) ∧
    (∃ seq : BitVec 16, ∃ s : State, ∃ t : State, (exec (.revoke seq) s = .next t) ∧ let k := le (seg (s.mbxArg 0 64) 24 40) 0 1; (∀ i, i ≠ k → s.slotSigns i = false)) ∧
    (∃ seq : BitVec 16, ∃ s : State, ∃ t : State, (exec (.revoke seq) s = .next t) ∧ let k := le (seg (s.mbxArg 0 64) 24 40) 0 1; (∀ i, 1 ≤ i → s.slotSigns i = false) ∧ (k = 0)) ∧
    (∃ seq : BitVec 16, ∃ s : State, ∃ t : State, (exec (.revoke seq) s = .next t) ∧ (∃ i, s.slotSigns i = true)) ∧
    (∃ seq : BitVec 16, ∃ s : State, ∃ t : State, (exec (.revoke seq) s = .next t) ∧ (s.otp.revoked.contains 0 = false) ∧ (t.otp.revoked.contains 0 = true)) :=
  ⟨⟨{ State.reset with otp := { revoked := [0] } }, [], (by decide +kernel)⟩,
   ⟨{ State.reset with otp := { revoked := [0] } }, [0, 0, 0, 0, 1], (by decide +kernel), (by decide +kernel)⟩,
   ⟨{ State.reset with otp := { revoked := [0] } }, [], (by decide +kernel)⟩,
   ⟨.revoke 0, 0, { State.reset with otp := { revoked := [0] } }, _, (.inr (.inr (.inl rfl))), (by decide +kernel), rfl⟩,
   ⟨0, State.reset, _, rfl, noKeys⟩,
   ⟨0, State.reset, _, rfl, noKeys', (by decide +kernel)⟩,
   ⟨0, State.reset, _, rfl, ⟨0, by decide⟩⟩,
   ⟨0, authS tOtp2 18 0 1 sigD, _, rfl, (by decide +kernel), revoked0⟩⟩

theorem test_witness_StandbyLost :
    (∃ s : State, ∃ s' : State, ∃ t : State, (s.otp = s'.otp) ∧ (s.pat.flash = s'.pat.flash) ∧ (s.pending = s'.pending) ∧ (s.freeCtr = s'.freeCtr) ∧ (s.memEpoch = s'.memEpoch) ∧ (exec .vstbyLoss s = .next t)) ∧
    (∃ s : State, ∃ t : State, (exec .vstbyLoss s = .next t)) :=
  ⟨⟨State.reset, { State.reset with tape := 1 }, _, (by decide +kernel), (by decide +kernel), (by decide +kernel), (by decide +kernel), (by decide +kernel), rfl⟩,
   ⟨State.reset, _, rfl⟩⟩

theorem test_witness_BootSteps_1 :
    (∃ s : State, (s.atStep 2 = true) ∧ (s.boot.fwWait = false) ∧ (s.pins.resetN = true) ∧ (s.boot.testMode = false) ∧ let c0 := s.checkFw (KMap.get [] s.pat.flash 0); (c0 = 0)) ∧
    (∃ s : State, (s.atStep 2 = true) ∧ (s.boot.fwWait = false) ∧ (s.pins.resetN = true) ∧ (s.boot.testMode = false) ∧ let c0 := s.checkFw (KMap.get [] s.pat.flash 0); let u := s.setF R.bootStatus F.bootStatus_FW_CODE c0; let c1 := u.checkFw (KMap.get [] u.pat.flash 1); (c0 ≠ 0) ∧ (c1 = 0)) ∧
    (∃ s : State, (s.atStep 2 = true) ∧ (s.boot.fwWait = false) ∧ (s.pins.resetN = true) ∧ (s.boot.testMode = false) ∧ let c0 := s.checkFw (KMap.get [] s.pat.flash 0); let u := s.setF R.bootStatus F.bootStatus_FW_CODE c0; let c1 := u.checkFw (KMap.get [] u.pat.flash 1); (c0 ≠ 0) ∧ (c1 ≠ 0)) ∧
    (∃ s : State, let u : State := { s with pins.railGood := true }; (u.atStep 5 = false)) ∧
    (∃ s : State, let u : State := { s with pins.railGood := true }; (u.atStep 5 = true) ∧ (s.boot.railT.isSome = true)) ∧
    (∃ s : State, (s.atStep 8 = true) ∧ (s.boot.hold = false) ∧ (s.boot.payload = none)) ∧
    (∃ a : Agent, ∃ s : State, (s.ctlCheck a R.serviceReq.addr = .pass) ∧ (s.atStep 9 = true) ∧ (s.service = false)) ∧
    (∃ a : Agent, ∃ s : State, (s.ctlCheck a R.serviceReq.addr = .pass) ∧ (s.atStep 9 = false ∨ s.service = true)) ∧
    (∃ ns : BitVec 32, ∃ s : State, (s.pins.vstby = true) ∧ (s.pins.resetN = true) ∧ (1000 ≤ ns.toNat)) ∧
    (∃ ns : BitVec 32, ∃ s : State, (s.pins.vstby = true) ∧ (s.pins.resetN = true) ∧ (ns.toNat < 1000)) ∧
    (∃ s : State, (s.pins.vstby = true) ∧ (s.pins.resetN = false)) ∧
    (∃ s : State, (((s.pcie 8).sub 0).up = true)) :=
  ⟨⟨{ at' 2 with otp := tOtp, pat := { flash := [(0, tFw)] } }, (by decide +kernel), (by decide +kernel), (by decide +kernel), (by decide +kernel), (tFw_good _ rfl (by decide +kernel))⟩,
   ⟨{ at' 2 with otp := tOtp, pat := { flash := [(1, tFw)] } }, (by decide +kernel), (by decide +kernel), (by decide +kernel), (by decide +kernel), (by decide +kernel), (tFw_good _ rfl (by decide +kernel))⟩,
   ⟨at' 2, (by decide +kernel), (by decide +kernel), (by decide +kernel), (by decide +kernel), (by decide +kernel), (by decide +kernel)⟩,
   ⟨at' 2, (by decide +kernel)⟩,
   ⟨{ at' 5 with boot := { railT := some ⟨8, 0, 0, 0⟩ } }, (by decide +kernel), (by decide +kernel)⟩,
   ⟨at' 8, (by decide +kernel), (by decide +kernel), (by decide +kernel)⟩,
   ⟨.keeper, at' 9, (by decide +kernel), (by decide +kernel), (by decide +kernel)⟩,
   ⟨.keeper, at' 2, (by decide +kernel), (by decide +kernel)⟩,
   ⟨1000, at' 2, (by decide +kernel), (by decide +kernel), (by decide +kernel)⟩,
   ⟨999, at' 2, (by decide +kernel), (by decide +kernel), (by decide +kernel)⟩,
   ⟨{ State.reset with pins := { resetN := false } }, (by decide +kernel), (by decide +kernel)⟩,
   ⟨{ State.reset with io := { ports := [(8, { subs := [(0, { up := true })] })] } }, (by decide +kernel)⟩⟩

theorem test_witness_BootSteps_2 :
    (∃ s : State, (((s.pcie 8).sub 0).up = false)) ∧
    (∃ s : State, (s.pins.railGood = true) ∧ (s.pins.railEn = false)) ∧
    (∃ s : State, (s.pins.railGood = true) ∧ (s.pins.railEn = true)) ∧
    (∃ h : HartId, ∃ p : Payload, ∃ s : State, (s.boot.payload = some p) ∧ (p.harts.contains h.num = true) ∧ ((s.hart h.num).w.virt = true) ∧ ((s.hart h.num).w.priv = 1) ∧ let p' := { p with harts := p.harts.filter (· != h.num), a0 := p.a0 ++ [(h.num, (s.hart h.num).w.xr 10)] }; (p'.harts.isEmpty = false)) ∧
    (∃ h : HartId, ∃ p : Payload, ∃ s : State, (s.boot.payload = some p) ∧ (p.harts.contains h.num = true) ∧ ((s.hart h.num).w.virt = true) ∧ ((s.hart h.num).w.priv = 1) ∧ let p' := { p with harts := p.harts.filter (· != h.num), a0 := p.a0 ++ [(h.num, (s.hart h.num).w.xr 10)] }; (p'.harts.isEmpty = true)) :=
  ⟨⟨at' 2, (by decide +kernel)⟩,
   ⟨{ State.reset with pins := { railGood := true } }, (by decide +kernel), (by decide +kernel)⟩,
   ⟨{ State.reset with pins := { railGood := true, railEn := true } }, (by decide +kernel), (by decide +kernel)⟩,
   ⟨h0, { seq := 0, t := ⟨2, 0, 0, 0⟩, harts := [0, 1] }, { go { priv := 1, virt := true } with boot := { payload := some { seq := 0, t := ⟨2, 0, 0, 0⟩, harts := [0, 1] } } }, (by decide +kernel), (by decide +kernel), (by decide +kernel), (by decide +kernel), (by decide +kernel)⟩,
   ⟨h0, { seq := 0, t := ⟨2, 0, 0, 0⟩, harts := [0] }, { go { priv := 1, virt := true } with boot := { payload := some { seq := 0, t := ⟨2, 0, 0, 0⟩, harts := [0] } } }, (by decide +kernel), (by decide +kernel), (by decide +kernel), (by decide +kernel), (by decide +kernel)⟩⟩

theorem test_witness_MailboxCommands_1 :
    (∃ seq : BitVec 16, ∃ s : State, let u := s.setF R.mbxCmd F.mbxCmd_SEQ seq.toNat; let auth : List Instr := [.setFabricKey seq, .ownerKey seq, .revoke seq, .rollback seq, .hostVerify seq]; (u.mbxBusy = true) ∧ ∃ c : Instr, (c ∈ (.loadFirmware seq :: .runPayload seq :: .fitting seq true :: auth))) ∧
    (∃ seq : BitVec 16, ∃ s : State, let u := s.setF R.mbxCmd F.mbxCmd_SEQ seq.toNat; (u.mbxBusy = false) ∧ ((s.atStep 2 && s.boot.fwWait) = false)) ∧
    (∃ seq : BitVec 16, ∃ s : State, let u := s.setF R.mbxCmd F.mbxCmd_SEQ seq.toNat; (u.mbxBusy = false) ∧ ((s.atStep 2 && s.boot.fwWait) = true) ∧ (u.checkFw u.pat.staging = 0)) ∧
    (∃ seq : BitVec 16, ∃ s : State, let u := s.setF R.mbxCmd F.mbxCmd_SEQ seq.toNat; (u.mbxBusy = false) ∧ ((s.atStep 2 && s.boot.fwWait) = true) ∧ ∃ c : Nat, (c ≠ 0) ∧ (u.checkFw u.pat.staging = c)) ∧
    (∃ seq : BitVec 16, ∃ s : State, let u := s.setF R.mbxCmd F.mbxCmd_SEQ seq.toNat; (u.mbxBusy = false) ∧ (2 ≤ s.bootStep) ∧ (s.bootStep ≤ 8)) ∧
    (∃ seq : BitVec 16, ∃ s : State, let u := s.setF R.mbxCmd F.mbxCmd_SEQ seq.toNat; (u.mbxBusy = false) ∧ ((s.atStep 8 && s.boot.hold) = true) ∧ let l := u.pat.staging; (u.checkHost l ≠ 0)) ∧
    (∃ seq : BitVec 16, ∃ s : State, let u := s.setF R.mbxCmd F.mbxCmd_SEQ seq.toNat; (u.mbxBusy = false) ∧ ((s.atStep 8 && s.boot.hold) = true) ∧ let l := u.pat.staging; (u.checkHost l = 0) ∧ (u.onlineRange (le l 8 8) (le l 16 4) = true)) ∧
    (∃ seq : BitVec 16, ∃ s : State, let u := s.setF R.mbxCmd F.mbxCmd_SEQ seq.toNat; (u.mbxBusy = false) ∧ (s.fwRuns = true)) ∧
    (∃ seq : BitVec 16, ∃ s : State, let u := s.setF R.mbxCmd F.mbxCmd_SEQ seq.toNat; (u.mbxBusy = false) ∧ (s.fwRuns = true) ∧ ∃ n : BitVec 8, (8 ≤ n.toNat) ∧ (n.toNat ≤ 15)) ∧
    (∃ seq : BitVec 16, ∃ s : State, let u := s.setF R.mbxCmd F.mbxCmd_SEQ seq.toNat; (u.mbxBusy = false) ∧ (s.fwRuns = true) ∧ ∃ n : BitVec 8, (n.toNat < 8 ∨ 15 < n.toNat)) ∧
    (∃ seq : BitVec 16, ∃ s : State, let u := s.setF R.mbxCmd F.mbxCmd_SEQ seq.toNat; (u.mbxBusy = false) ∧ (s.pins.vstby = true)) ∧
    (∃ seq : BitVec 16, ∃ s : State, let u := s.setF R.mbxCmd F.mbxCmd_SEQ seq.toNat; (u.mbxBusy = false) ∧ (s.service = true) ∧ ∃ sd : Saddle, ((u.saddleReason sd.val).isSome = true ∨ u.saddleState sd.val ≠ 2)) :=
  ⟨⟨0, State.reset.setF R.mbxStatus F.mbxStatus_STATE 1, (by decide +kernel), .fitting 0 true, (by decide +kernel)⟩,
   ⟨0, at' 8, (by decide +kernel), (by decide +kernel)⟩,
   ⟨0, { at' 2 with otp := tOtp, pat := { staging := tFw }, boot := { fwWait := true } }, (by decide +kernel), (by decide +kernel), (tFw_good _ rfl (by decide +kernel))⟩,
   ⟨0, { at' 2 with boot := { fwWait := true } }, (by decide +kernel), (by decide +kernel), 3, (by decide +kernel), (by decide +kernel)⟩,
   ⟨0, at' 8, (by decide +kernel), (by decide +kernel), (by decide +kernel)⟩,
   ⟨0, { at' 8 with boot := { hold := true } }, (by decide +kernel), (by decide +kernel), (by decide +kernel)⟩,
   ⟨0, { onBolt (at' 8) with pat := { (onBolt (at' 8)).pat with staging := tHost }, boot := { hold := true } }, (by decide +kernel), (by decide +kernel), (by decide +kernel), (by decide +kernel)⟩,
   ⟨0, at' 8, (by decide +kernel), (by decide +kernel)⟩,
   ⟨0, at' 8, (by decide +kernel), (by decide +kernel), 15, (by decide +kernel), (by decide +kernel)⟩,
   ⟨0, at' 8, (by decide +kernel), (by decide +kernel), 7, (by decide +kernel)⟩,
   ⟨0, at' 8, (by decide +kernel), (by decide +kernel)⟩,
   ⟨0, svc, (by decide +kernel), (by decide +kernel), 0, (by decide +kernel)⟩⟩

theorem test_witness_MailboxCommands_2 :
    (∃ seq : BitVec 16, ∃ s : State, let u := s.setF R.mbxCmd F.mbxCmd_SEQ seq.toNat; (u.mbxBusy = false) ∧ (s.service = true) ∧ ∃ sd : Saddle, ((u.saddleReason sd.val) = none) ∧ (u.saddleState sd.val = 2)) ∧
    (∃ seq : BitVec 16, ∃ s : State, let u := s.setF R.mbxCmd F.mbxCmd_SEQ seq.toNat; let body := u.mbxArg 0 64; let block := u.mbxArg 64 784; let good := le body 8 8 = (u.rd R.mbxNonce).toNat ∧ le body 16 8 = (u.rd R.pkgSerial).toNat ∧ u.sigCheck body block = none; (u.mbxBusy = false) ∧ (¬ good) ∧ ∃ c : Instr, (c ∈ [Instr.ownerKey seq, .revoke seq, .rollback seq, .hostVerify seq])) ∧
    (∃ seq : BitVec 16, ∃ s : State, let u := s.setF R.mbxCmd F.mbxCmd_SEQ seq.toNat; let body := u.mbxArg 0 64; let block := u.mbxArg 64 784; let good := le body 8 8 = (u.rd R.mbxNonce).toNat ∧ le body 16 8 = (u.rd R.pkgSerial).toNat ∧ u.sigCheck body block = none; (u.mbxBusy = false) ∧ (good) ∧ (s.fwRuns = true) ∧ (le body 0 2 = 0x10)) ∧
    (∃ seq : BitVec 16, ∃ s : State, let u := s.setF R.mbxCmd F.mbxCmd_SEQ seq.toNat; let body := u.mbxArg 0 64; let block := u.mbxArg 64 784; let arg := seg body 24 40; let good := le body 8 8 = (u.rd R.mbxNonce).toNat ∧ le body 16 8 = (u.rd R.pkgSerial).toNat ∧ u.sigCheck body block = none; (u.mbxBusy = false) ∧ (good) ∧ (le body 0 2 = 0x11) ∧ let k := le arg 0 1; (1 ≤ k) ∧ (k ≤ 4) ∧ (u.slotProgrammed k = false)) ∧
    (∃ seq : BitVec 16, ∃ s : State, let u := s.setF R.mbxCmd F.mbxCmd_SEQ seq.toNat; let body := u.mbxArg 0 64; let block := u.mbxArg 64 784; let arg := seg body 24 40; let good := le body 8 8 = (u.rd R.mbxNonce).toNat ∧ le body 16 8 = (u.rd R.pkgSerial).toNat ∧ u.sigCheck body block = none; (u.mbxBusy = false) ∧ (good) ∧ (le body 0 2 = 0x11) ∧ let k := le arg 0 1; (u.slotProgrammed k = true)) ∧
    (∃ seq : BitVec 16, ∃ s : State, let u := s.setF R.mbxCmd F.mbxCmd_SEQ seq.toNat; let body := u.mbxArg 0 64; let block := u.mbxArg 64 784; let arg := seg body 24 40; let good := le body 8 8 = (u.rd R.mbxNonce).toNat ∧ le body 16 8 = (u.rd R.pkgSerial).toNat ∧ u.sigCheck body block = none; (u.mbxBusy = false) ∧ (good) ∧ (le body 0 2 = 0x12) ∧ let k := le arg 0 1; (k = le block 0 1)) ∧
    (∃ seq : BitVec 16, ∃ s : State, let u := s.setF R.mbxCmd F.mbxCmd_SEQ seq.toNat; let body := u.mbxArg 0 64; let block := u.mbxArg 64 784; let arg := seg body 24 40; let good := le body 8 8 = (u.rd R.mbxNonce).toNat ∧ le body 16 8 = (u.rd R.pkgSerial).toNat ∧ u.sigCheck body block = none; (u.mbxBusy = false) ∧ (good) ∧ (le body 0 2 = 0x12) ∧ let k := le arg 0 1; let others := (List.range 5).filter fun i => i != k && u.slotSigns i; (k ≠ le block 0 1) ∧ (k ≤ 4) ∧ (others ≠ []) ∧ (k = 0 → others.any (· != 0) = true)) ∧
    (∃ seq : BitVec 16, ∃ s : State, let u := s.setF R.mbxCmd F.mbxCmd_SEQ seq.toNat; let body := u.mbxArg 0 64; let block := u.mbxArg 64 784; let arg := seg body 24 40; let good := le body 8 8 = (u.rd R.mbxNonce).toNat ∧ le body 16 8 = (u.rd R.pkgSerial).toNat ∧ u.sigCheck body block = none; (u.mbxBusy = false) ∧ (good) ∧ (le body 0 2 = 0x13) ∧ (le arg 0 1 = 0)) ∧
    (∃ seq : BitVec 16, ∃ s : State, let u := s.setF R.mbxCmd F.mbxCmd_SEQ seq.toNat; let body := u.mbxArg 0 64; let block := u.mbxArg 64 784; let arg := seg body 24 40; let good := le body 8 8 = (u.rd R.mbxNonce).toNat ∧ le body 16 8 = (u.rd R.pkgSerial).toNat ∧ u.sigCheck body block = none; (u.mbxBusy = false) ∧ (good) ∧ (le body 0 2 = 0x13) ∧ (le arg 0 1 = 1)) ∧
    (∃ seq : BitVec 16, ∃ s : State, let u := s.setF R.mbxCmd F.mbxCmd_SEQ seq.toNat; let body := u.mbxArg 0 64; let block := u.mbxArg 64 784; let good := le body 8 8 = (u.rd R.mbxNonce).toNat ∧ le body 16 8 = (u.rd R.pkgSerial).toNat ∧ u.sigCheck body block = none; (u.mbxBusy = false) ∧ (good) ∧ (le body 0 2 = 0x14)) :=
  ⟨⟨0, (svc.setF R.domainState F.domainState_SADDLE 0xAA).setF R.domainState F.domainState_PANEL 0x2A, (by decide +kernel), (by decide +kernel), 0, (by decide +kernel), (by decide +kernel)⟩,
   ⟨0, at' 8, (by decide +kernel), (by decide +kernel), .ownerKey 0, (by decide +kernel)⟩,
   ⟨0, authS tOtp 16 0 0 sigA, (by decide +kernel), (auth_good tOtp 16 0 0 sigA (by decide) (by decide +kernel) (by decide +kernel) (by decide +kernel) (by decide +kernel) pssA), (by decide +kernel), (auth_of tOtp 16 0 0 sigA (fun b c => le b 0 2 = 16) (by decide +kernel))⟩,
   ⟨0, authS tOtp 17 1 0 sigB, (by decide +kernel), (auth_good tOtp 17 1 0 sigB (by decide) (by decide +kernel) (by decide +kernel) (by decide +kernel) (by decide +kernel) pssB), (auth_of tOtp 17 1 0 sigB (fun b c => le b 0 2 = 17) (by decide +kernel)), (auth_of tOtp 17 1 0 sigB (fun b c => 1 ≤ le (seg b 24 40) 0 1) (by decide +kernel)), (auth_of tOtp 17 1 0 sigB (fun b c => le (seg b 24 40) 0 1 ≤ 4) (by decide +kernel)), (auth_of tOtp 17 1 0 sigB (fun b c => (authMbx tOtp 17 1 0 sigB).slotProgrammed (le (seg b 24 40) 0 1) = false) (by decide +kernel))⟩,
   ⟨0, authS tOtp2 17 1 0 sigB, (by decide +kernel), (auth_good tOtp2 17 1 0 sigB (by decide) (by decide +kernel) (by decide +kernel) (by decide +kernel) (by decide +kernel) pssB), (auth_of tOtp2 17 1 0 sigB (fun b c => le b 0 2 = 17) (by decide +kernel)), (auth_of tOtp2 17 1 0 sigB (fun b c => (authMbx tOtp2 17 1 0 sigB).slotProgrammed (le (seg b 24 40) 0 1) = true) (by decide +kernel))⟩,
   ⟨0, authS tOtp 18 0 0 sigD, (by decide +kernel), (auth_good tOtp 18 0 0 sigD (by decide) (by decide +kernel) (by decide +kernel) (by decide +kernel) (by decide +kernel) pssD), (auth_of tOtp 18 0 0 sigD (fun b c => le b 0 2 = 18) (by decide +kernel)), (auth_of tOtp 18 0 0 sigD (fun b c => le (seg b 24 40) 0 1 = le c 0 1) (by decide +kernel))⟩,
   ⟨0, authS tOtp 18 1 0 sigE, (by decide +kernel), (auth_good tOtp 18 1 0 sigE (by decide) (by decide +kernel) (by decide +kernel) (by decide +kernel) (by decide +kernel) pssE), (auth_of tOtp 18 1 0 sigE (fun b c => le b 0 2 = 18) (by decide +kernel)), (auth_of tOtp 18 1 0 sigE (fun b c => le (seg b 24 40) 0 1 ≠ le c 0 1) (by decide +kernel)), (auth_of tOtp 18 1 0 sigE (fun b c => le (seg b 24 40) 0 1 ≤ 4) (by decide +kernel)), (auth_of tOtp 18 1 0 sigE (fun b c => ((List.range 5).filter fun i => i != le (seg b 24 40) 0 1 && (authMbx tOtp 18 1 0 sigE).slotSigns i) ≠ []) (by decide +kernel)), (auth_of tOtp 18 1 0 sigE (fun b c => le (seg b 24 40) 0 1 = 0 → ((List.range 5).filter fun i => i != le (seg b 24 40) 0 1 && (authMbx tOtp 18 1 0 sigE).slotSigns i).any (· != 0) = true) (by decide +kernel))⟩,
   ⟨0, authS tOtp 19 0 0 sigF, (by decide +kernel), (auth_good tOtp 19 0 0 sigF (by decide) (by decide +kernel) (by decide +kernel) (by decide +kernel) (by decide +kernel) pssF), (auth_of tOtp 19 0 0 sigF (fun b c => le b 0 2 = 19) (by decide +kernel)), (auth_of tOtp 19 0 0 sigF (fun b c => le (seg b 24 40) 0 1 = 0) (by decide +kernel))⟩,
   ⟨0, authS tOtp 19 1 0 sigG, (by decide +kernel), (auth_good tOtp 19 1 0 sigG (by decide) (by decide +kernel) (by decide +kernel) (by decide +kernel) (by decide +kernel) pssG), (auth_of tOtp 19 1 0 sigG (fun b c => le b 0 2 = 19) (by decide +kernel)), (auth_of tOtp 19 1 0 sigG (fun b c => le (seg b 24 40) 0 1 = 1) (by decide +kernel))⟩,
   ⟨0, authS tOtp 20 0 0 sigH, (by decide +kernel), (auth_good tOtp 20 0 0 sigH (by decide) (by decide +kernel) (by decide +kernel) (by decide +kernel) (by decide +kernel) pssH), (auth_of tOtp 20 0 0 sigH (fun b c => le b 0 2 = 20) (by decide +kernel))⟩⟩

theorem test_witness_SpdmResponses_1 :
    (∃ c : Instr, ∃ s : State, ∃ slot : BitVec 8, ∃ index : BitVec 8, ∃ off : BitVec 16, ∃ len : BitVec 16, ∃ n : BitVec 256, (c ∈ ([.getVersion, .getCapabilities, .negotiateAlgorithms, .getDigests, .getCertificate slot off len, .challenge slot n, .getMeasurements index n] : List Instr)) ∧ (s.fwRuns = false)) ∧
    (∃ c : Instr, ∃ s : State, ∃ slot : BitVec 8, ∃ index : BitVec 8, ∃ off : BitVec 16, ∃ len : BitVec 16, ∃ n : BitVec 256, (c ∈ ([.getVersion, .getCapabilities, .negotiateAlgorithms, .getDigests, .getCertificate slot off len, .challenge slot n, .getMeasurements index n] : List Instr)) ∧ ∃ t, (exec c s = .next t)) ∧
    (∃ c : Instr, ∃ s : State, ∃ slot : BitVec 8, ∃ index : BitVec 8, ∃ off : BitVec 16, ∃ len : BitVec 16, ∃ n : BitVec 256, (s.fwRuns = true) ∧ ((s.boot.spdm < 1 ∧ c = .getCapabilities) ∨ (s.boot.spdm < 2 ∧ c = .negotiateAlgorithms) ∨ (s.boot.spdm < 3 ∧ c ∈ ([.getDigests, .getCertificate slot off len, .challenge slot n, .getMeasurements index n] : List Instr)))) ∧
    (∃ s : State, (s.fwRuns = true)) ∧
    (∃ s : State, (s.fwRuns = true) ∧ (1 ≤ s.boot.spdm)) ∧
    (∃ s : State, (s.fwRuns = true) ∧ (2 ≤ s.boot.spdm)) ∧
    (∃ s : State, (s.fwRuns = true) ∧ (3 ≤ s.boot.spdm)) ∧
    (∃ s : State, (s.fwRuns = true) ∧ (3 ≤ s.boot.spdm) ∧ ∃ slot : BitVec 8, ∃ off : BitVec 16, let c := Config.certChain; (slot.toNat % 16 = 0) ∧ (off.toNat < c.length)) ∧
    (∃ s : State, (s.fwRuns = true) ∧ (3 ≤ s.boot.spdm) ∧ ∃ slot : BitVec 8, ∃ off : BitVec 16, let c := Config.certChain; (slot.toNat % 16 ≠ 0 ∨ c.length ≤ off.toNat)) ∧
    (∃ s : State, (s.fwRuns = true) ∧ (3 ≤ s.boot.spdm) ∧ ∃ slot : BitVec 8, (slot.toNat % 16 = 0)) ∧
    (∃ s : State, (s.fwRuns = true) ∧ (3 ≤ s.boot.spdm) ∧ ∃ slot : BitVec 8, (slot.toNat % 16 ≠ 0)) ∧
    (∃ s : State, (s.fwRuns = true) ∧ (3 ≤ s.boot.spdm) ∧ ∃ index : BitVec 8, let i := index.toNat; (1 ≤ i) ∧ (i ≤ 16)) :=
  ⟨⟨.getVersion, State.reset, 0, 0, 0, 0, 0, (by decide +kernel), (by decide +kernel)⟩,
   ⟨.getVersion, { at' 3 with boot := { spdm := 3 } }, 0, 0, 0, 0, 0, (by decide +kernel), _, rfl⟩,
   ⟨.getDigests, { at' 3 with boot := { spdm := 2 } }, 0, 0, 0, 0, 0, (by decide +kernel), (by decide +kernel)⟩,
   ⟨{ at' 3 with boot := { spdm := 3 } }, (by decide +kernel)⟩,
   ⟨{ at' 3 with boot := { spdm := 3 } }, (by decide +kernel), (by decide +kernel)⟩,
   ⟨{ at' 3 with boot := { spdm := 3 } }, (by decide +kernel), (by decide +kernel)⟩,
   ⟨{ at' 3 with boot := { spdm := 3 } }, (by decide +kernel), (by decide +kernel)⟩,
   ⟨{ at' 3 with boot := { spdm := 3 } }, (by decide +kernel), (by decide +kernel), 0, 0, (by decide +kernel), (Nat.succ_pos _)⟩,
   ⟨{ at' 3 with boot := { spdm := 3 } }, (by decide +kernel), (by decide +kernel), 1, 0, (.inl (by decide))⟩,
   ⟨{ at' 3 with boot := { spdm := 3 } }, (by decide +kernel), (by decide +kernel), 0, (by decide +kernel)⟩,
   ⟨{ at' 3 with boot := { spdm := 3 } }, (by decide +kernel), (by decide +kernel), 1, (by decide +kernel)⟩,
   ⟨{ at' 3 with boot := { spdm := 3 } }, (by decide +kernel), (by decide +kernel), 16, (by decide +kernel), (by decide +kernel)⟩⟩

theorem test_witness_SpdmResponses_2 :
    (∃ s : State, (s.fwRuns = true) ∧ (3 ≤ s.boot.spdm) ∧ ∃ index : BitVec 8, let i := index.toNat; (i = 0xFF)) ∧
    (∃ s : State, (s.fwRuns = true) ∧ (3 ≤ s.boot.spdm) ∧ ∃ index : BitVec 8, let i := index.toNat; (i = 0)) ∧
    (∃ s : State, (s.fwRuns = true) ∧ (3 ≤ s.boot.spdm) ∧ ∃ index : BitVec 8, let i := index.toNat; (16 < i) ∧ (i < 0xFF)) :=
  ⟨⟨{ at' 3 with boot := { spdm := 3 } }, (by decide +kernel), (by decide +kernel), 0xFF, (by decide +kernel)⟩,
   ⟨{ at' 3 with boot := { spdm := 3 } }, (by decide +kernel), (by decide +kernel), 0, (by decide +kernel)⟩,
   ⟨{ at' 3 with boot := { spdm := 3 } }, (by decide +kernel), (by decide +kernel), 17, (by decide +kernel), (by decide +kernel)⟩⟩

theorem test_witness_CountersAndSnapshots_1 :
    (∃ h : HartId, ∃ k : Fin 32, ∃ s : State, let live := 3 ≤ k.val ∧ k.val ≤ 10 ∧ s.frozenAt h.panel.val = false ∧ bit ((s.hart h.num).w.csrVal 0x320).toNat k.val = false; (¬ live)) ∧
    (∃ h : HartId, ∃ k : Fin 32, ∃ s : State, let live := 3 ≤ k.val ∧ k.val ≤ 10 ∧ s.frozenAt h.panel.val = false ∧ bit ((s.hart h.num).w.csrVal 0x320).toNat k.val = false; let u := s.setCsr h.num (0xB00 + k.val) 0; let v := (u.csr h.num (0x320 + k.val)).toNat; (live) ∧ (bit v 63 = true)) ∧
    (∃ h : HartId, ∃ k : Fin 32, ∃ s : State, let live := 3 ≤ k.val ∧ k.val ≤ 10 ∧ s.frozenAt h.panel.val = false ∧ bit ((s.hart h.num).w.csrVal 0x320).toNat k.val = false; let u := s.setCsr h.num (0xB00 + k.val) 0; let v := (u.csr h.num (0x320 + k.val)).toNat; (live) ∧ (bit v 63 = false)) ∧
    (∃ c : Instr, ∃ op : Nat, ∃ s : State, ((c = .snapArm ∧ op = 1) ∨ (c = .armFreeze ∧ op = 2) ∨ (c = .thaw ∧ op = 3)) ∧ (s.fld R.snapCtl F.snapCtl_STATE = 1)) ∧
    (∃ c : Instr, ∃ op : Nat, ∃ s : State, ((c = .snapArm ∧ op = 1) ∨ (c = .armFreeze ∧ op = 2) ∨ (c = .thaw ∧ op = 3)) ∧ (s.fld R.snapCtl F.snapCtl_STATE ≠ 1)) ∧
    (∃ s : State, (s.fld R.snapCtl F.snapCtl_STATE ≠ 1)) ∧
    (∃ s : State, (s.fld R.snapCtl F.snapCtl_STATE = 1) ∧ (s.cnt.op = 1)) ∧
    (∃ s : State, (s.fld R.snapCtl F.snapCtl_STATE = 1) ∧ (s.cnt.op = 2)) ∧
    (∃ s : State, (s.fld R.snapCtl F.snapCtl_STATE = 1) ∧ (s.cnt.op = 3)) ∧
    (∃ p : Nat, (p < 12)) ∧
    (∃ s : State, ∃ p : Nat, (p < 12) ∧ ∃ c : Nat, (c < 20) ∧ (s.hartPresent (hartNum p c) = true)) ∧
    (∃ s : State, ∃ p : Nat, (p < 12) ∧ ∃ c : Nat, (c < 20) ∧ (s.hartPresent (hartNum p c) = true) ∧ ∃ i : Nat, (i < 8)) :=
  ⟨⟨h0, 11, State.reset, (by decide +kernel)⟩,
   ⟨h0, 10, hs { w := { csr := [(0x32A, 0x8000000000000000)] } }, (by decide +kernel), (by decide +kernel)⟩,
   ⟨h0, 3, State.reset, (by decide +kernel), (by decide +kernel)⟩,
   ⟨.thaw, 3, State.reset.setF R.snapCtl F.snapCtl_STATE 1, (.inr (.inr ⟨rfl, rfl⟩)), (by decide +kernel)⟩,
   ⟨.thaw, 3, State.reset, (.inr (.inr ⟨rfl, rfl⟩)), (by decide +kernel)⟩,
   ⟨State.reset, (by decide +kernel)⟩,
   ⟨{ State.reset.setF R.snapCtl F.snapCtl_STATE 1 with cnt := { op := 1 } }, (by decide +kernel), (by decide +kernel)⟩,
   ⟨{ State.reset.setF R.snapCtl F.snapCtl_STATE 1 with cnt := { op := 2 } }, (by decide +kernel), (by decide +kernel)⟩,
   ⟨{ State.reset.setF R.snapCtl F.snapCtl_STATE 1 with cnt := { op := 3 } }, (by decide +kernel), (by decide +kernel)⟩,
   ⟨11, (by decide +kernel)⟩,
   ⟨one State.reset, 0, (by decide +kernel), 0, (by decide +kernel), (by decide +kernel)⟩,
   ⟨one State.reset, 0, (by decide +kernel), 0, (by decide +kernel), (by decide +kernel), 7, (by decide +kernel)⟩⟩

theorem test_witness_CountersAndSnapshots_2 :
    ∃ p : Nat, (p < 12) ∧ ∃ q : Reg, (q.addr ≠ (R.pnlSnapSeq p).addr) ∧ (∀ c k, c < 20 → k < 11 → q.addr ≠ (R.hartShadow p c k).addr) :=
  ⟨0, (by decide +kernel), R.tape, (by decide +kernel), noShadow⟩

theorem test_witness_JtagAndPathLock_1 :
    (∃ s : State, (s.pins.resetN = false)) ∧
    (∃ s : State, (s.pins.resetN = true)) ∧
    (∃ svc : Bool, ∃ v : BitVec 2, ∃ s : State, let own := if svc then 2 else 1; let holder := s.fld R.pathLock F.pathLock_HOLDER; (holder = 0) ∧ (v.toNat = own)) ∧
    (∃ svc : Bool, ∃ v : BitVec 2, ∃ s : State, let own := if svc then 2 else 1; let holder := s.fld R.pathLock F.pathLock_HOLDER; (holder = own) ∧ (v.toNat = 0)) ∧
    (∃ svc : Bool, ∃ v : BitVec 2, ∃ s : State, let own := if svc then 2 else 1; let holder := s.fld R.pathLock F.pathLock_HOLDER; (¬ (holder = 0 ∧ v.toNat = own)) ∧ (¬ (holder = own ∧ v.toNat = 0))) ∧
    (∃ op : BitVec 2, (op.toNat = 0 ∨ op.toNat = 3)) ∧
    (∃ addr : BitVec 7, ∃ op : BitVec 2, ∃ s : State, let n := addr.toNat; let barred := s.fld R.pathLock F.pathLock_HOLDER ≠ 0 ∧ s.fld R.pathLock F.pathLock_HOLDER ≠ 1; (op.toNat = 1) ∧ (barred) ∧ (n ≠ 0x71)) ∧
    (∃ addr : BitVec 7, ∃ op : BitVec 2, ∃ s : State, let n := addr.toNat; let barred := s.fld R.pathLock F.pathLock_HOLDER ≠ 0 ∧ s.fld R.pathLock F.pathLock_HOLDER ≠ 1; (op.toNat = 1) ∧ (¬ barred ∨ n = 0x71)) ∧
    (∃ addr : BitVec 7, ∃ op : BitVec 2, let n := addr.toNat; (op.toNat = 1) ∧ (n = 0x71)) ∧
    (∃ addr : BitVec 7, ∃ op : BitVec 2, ∃ s : State, let n := addr.toNat; let barred := s.fld R.pathLock F.pathLock_HOLDER ≠ 0 ∧ s.fld R.pathLock F.pathLock_HOLDER ≠ 1; (op.toNat = 2) ∧ (barred) ∧ (n ≠ 0x71)) ∧
    (∃ addr : BitVec 7, ∃ op : BitVec 2, ∃ s : State, let n := addr.toNat; let barred := s.fld R.pathLock F.pathLock_HOLDER ≠ 0 ∧ s.fld R.pathLock F.pathLock_HOLDER ≠ 1; (op.toNat = 2) ∧ (¬ barred ∨ n = 0x71)) ∧
    (∃ addr : BitVec 7, ∃ data : BitVec 32, ∃ op : BitVec 2, ∃ s : State, let n := addr.toNat; let barred := s.fld R.pathLock F.pathLock_HOLDER ≠ 0 ∧ s.fld R.pathLock F.pathLock_HOLDER ≠ 1; (op.toNat = 2) ∧ (¬ barred) ∧ (n = 0x10) ∧ (data.toNat % 2 = 0)) :=
  ⟨⟨{ State.reset with pins := { resetN := false } }, (by decide +kernel)⟩,
   ⟨State.reset, (by decide +kernel)⟩,
   ⟨false, 1, State.reset, (by decide +kernel), (by decide +kernel)⟩,
   ⟨false, 0, State.reset.setF R.pathLock F.pathLock_HOLDER 1, (by decide +kernel), (by decide +kernel)⟩,
   ⟨false, 2, State.reset, (by decide +kernel), (by decide +kernel)⟩,
   ⟨0, (by decide +kernel)⟩,
   ⟨0, 1, State.reset.setF R.pathLock F.pathLock_HOLDER 2, (by decide +kernel), (by decide +kernel), (by decide +kernel)⟩,
   ⟨0, 1, State.reset, (by decide +kernel), (by decide +kernel)⟩,
   ⟨0x71, 1, (by decide +kernel), (by decide +kernel)⟩,
   ⟨0, 2, State.reset.setF R.pathLock F.pathLock_HOLDER 2, (by decide +kernel), (by decide +kernel), (by decide +kernel)⟩,
   ⟨0, 2, State.reset, (by decide +kernel), (by decide +kernel)⟩,
   ⟨0x10, 0, 2, State.reset, (by decide +kernel), (by decide +kernel), (by decide +kernel), (by decide +kernel)⟩⟩

theorem test_witness_JtagAndPathLock_2 :
    ∃ addr : BitVec 7, ∃ data : BitVec 32, ∃ op : BitVec 2, ∃ s : State, let u : State := { s with dbg.ir := 0x11, dbg.tdo := s.dbg.dmiOut :: s.dbg.tdo }; let n := addr.toNat; let barred := s.fld R.pathLock F.pathLock_HOLDER ≠ 0 ∧ s.fld R.pathLock F.pathLock_HOLDER ≠ 1; (op.toNat = 2) ∧ (¬ barred) ∧ (n = 0x10) ∧ ∃ h : HartId, (data.toNat = 2 ^ 31 + h.num * 2 ^ 16 + 1) ∧ let a := u.absSettle; let b : State := { a with dbg.active := true, dbg.hartsel := h.num }; (b.hartPresent h.num = true) :=
  ⟨0x10, 0x80000001, 2, one State.reset, (by decide +kernel), (by decide +kernel), (by decide +kernel), h0, (by decide +kernel), (by decide +kernel)⟩

theorem test_witness_HaltAndAbstractCommands_1 :
    (∃ h : HartId, ∃ s : State, (s.inv (s.hart h.num).pocket.toNat = false)) ∧
    (∃ h : HartId, ∃ s : State, (s.inv (s.hart h.num).pocket.toNat = true) ∧ ((s.hart h.num).mode = .run) ∧ ((s.hart h.num).wait = .none)) ∧
    (∃ h : HartId, ∃ s : State, let x := s.hart h.num; (x.mode ≠ .halted)) ∧
    (∃ h : HartId, ∃ s : State, let x := s.hart h.num; (x.mode = .halted)) ∧
    (∃ s : State, let a := s.absSettle; (a.dbg.cmderr ≠ 0)) ∧
    (∃ r : DbgReg, ∃ size : BitVec 3, ∃ s : State, let a := s.absSettle; let n := 2 ^ size.toNat; let wide := match r with | .fpr _ => 16 | _ => 8; let sized := 2 ≤ size.toNat ∧ size.toNat ≤ 4 ∧ n ≤ wide; (a.dbg.cmderr = 0) ∧ (a.dbg.abs = none) ∧ (¬ sized)) ∧
    (∃ h : HartId, ∃ r : DbgReg, ∃ size : BitVec 3, ∃ s : State, let a := s.absSettle; let k := h.num; let n := 2 ^ size.toNat; let wide := match r with | .fpr _ => 16 | _ => 8; let sized := 2 ≤ size.toNat ∧ size.toNat ≤ 4 ∧ n ≤ wide; let able := (a.hart k).mode = .halted ∧ a.inv (a.hart k).pocket.toNat = true; (a.dbg.cmderr = 0) ∧ (a.dbg.abs = none) ∧ (sized) ∧ (¬ able)) ∧
    (∃ h : HartId, ∃ r : DbgReg, ∃ isWrite : Bool, ∃ size : BitVec 3, ∃ s : State, let a := s.absSettle; let k := h.num; let w := (a.hart k).w; let n := 2 ^ size.toNat; let wide := match r with | .fpr _ => 16 | _ => 8; let sized := 2 ≤ size.toNat ∧ size.toNat ≤ 4 ∧ n ≤ wide; let able := (a.hart k).mode = .halted ∧ a.inv (a.hart k).pocket.toNat = true; (a.dbg.cmderr = 0) ∧ (a.dbg.abs = none) ∧ (sized) ∧ (able) ∧ ∃ c : BitVec 12, (r = .csr c) ∧ (w.dbgCsr c.toNat isWrite = false)) ∧
    (∃ h : HartId, ∃ r : DbgReg, ∃ isWrite : Bool, ∃ size : BitVec 3, ∃ s : State, let a := s.absSettle; let k := h.num; let n := 2 ^ size.toNat; let wide := match r with | .fpr _ => 16 | _ => 8; let sized := 2 ≤ size.toNat ∧ size.toNat ≤ 4 ∧ n ≤ wide; let able := (a.hart k).mode = .halted ∧ a.inv (a.hart k).pocket.toNat = true; (a.dbg.cmderr = 0) ∧ (a.dbg.abs = none) ∧ (sized) ∧ (able) ∧ (isWrite = false) ∧ ∃ i : Fin 32, (r = .gpr i)) ∧
    (∃ h : HartId, ∃ r : DbgReg, ∃ isWrite : Bool, ∃ size : BitVec 3, ∃ s : State, let a := s.absSettle; let k := h.num; let n := 2 ^ size.toNat; let wide := match r with | .fpr _ => 16 | _ => 8; let sized := 2 ≤ size.toNat ∧ size.toNat ≤ 4 ∧ n ≤ wide; let able := (a.hart k).mode = .halted ∧ a.inv (a.hart k).pocket.toNat = true; (a.dbg.cmderr = 0) ∧ (a.dbg.abs = none) ∧ (sized) ∧ (able) ∧ (isWrite = false) ∧ ∃ i : Fin 32, (r = .fpr i)) ∧
    (∃ h : HartId, ∃ r : DbgReg, ∃ isWrite : Bool, ∃ size : BitVec 3, ∃ s : State, let a := s.absSettle; let k := h.num; let w := (a.hart k).w; let n := 2 ^ size.toNat; let wide := match r with | .fpr _ => 16 | _ => 8; let sized := 2 ≤ size.toNat ∧ size.toNat ≤ 4 ∧ n ≤ wide; let able := (a.hart k).mode = .halted ∧ a.inv (a.hart k).pocket.toNat = true; (a.dbg.cmderr = 0) ∧ (a.dbg.abs = none) ∧ (sized) ∧ (able) ∧ (isWrite = false) ∧ ∃ c : BitVec 12, (r = .csr c) ∧ (w.dbgCsr c.toNat false = true)) ∧
    (∃ h : HartId, ∃ r : DbgReg, ∃ isWrite : Bool, ∃ size : BitVec 3, ∃ s : State, let a := s.absSettle; let k := h.num; let n := 2 ^ size.toNat; let wide := match r with | .fpr _ => 16 | _ => 8; let sized := 2 ≤ size.toNat ∧ size.toNat ≤ 4 ∧ n ≤ wide; let able := (a.hart k).mode = .halted ∧ a.inv (a.hart k).pocket.toNat = true; (a.dbg.cmderr = 0) ∧ (a.dbg.abs = none) ∧ (sized) ∧ (able) ∧ (isWrite = true) ∧ (size.toNat = 3) ∧ ∃ i : Fin 32, (r = .gpr i)) :=
  ⟨⟨h0, State.reset, (by decide +kernel)⟩,
   ⟨h0, inv0 { mode := .run }, (by decide +kernel), (by decide +kernel), (by decide +kernel)⟩,
   ⟨h0, State.reset, (by decide +kernel)⟩,
   ⟨h0, inv0 { mode := .halted }, (by decide +kernel)⟩,
   ⟨{ State.reset with dbg := { cmderr := 7 } }, (by decide +kernel)⟩,
   ⟨.gpr 0, 5, inv0 { mode := .halted }, (by decide +kernel), (by decide +kernel), (by decide +kernel)⟩,
   ⟨h0, .gpr 0, 3, State.reset, (by decide +kernel), (by decide +kernel), (by decide +kernel), (by decide +kernel)⟩,
   ⟨h0, .csr 0xFFF, false, 3, inv0 { mode := .halted }, (by decide +kernel), (by decide +kernel), (by decide +kernel), (by decide +kernel), 0xFFF, (by decide +kernel), (by decide +kernel)⟩,
   ⟨h0, .gpr 0, false, 3, inv0 { mode := .halted }, (by decide +kernel), (by decide +kernel), (by decide +kernel), (by decide +kernel), (by decide +kernel), 0, (by decide +kernel)⟩,
   ⟨h0, .fpr 0, false, 4, inv0 { mode := .halted }, (by decide +kernel), (by decide +kernel), (by decide +kernel), (by decide +kernel), (by decide +kernel), 0, (by decide +kernel)⟩,
   ⟨h0, .csr 0x300, false, 3, inv0 { mode := .halted }, (by decide +kernel), (by decide +kernel), (by decide +kernel), (by decide +kernel), (by decide +kernel), 0x300, (by decide +kernel), (by decide +kernel)⟩,
   ⟨h0, .gpr 0, true, 3, inv0 { mode := .halted }, (by decide +kernel), (by decide +kernel), (by decide +kernel), (by decide +kernel), (by decide +kernel), (by decide +kernel), 0, (by decide +kernel)⟩⟩

theorem test_witness_HaltAndAbstractCommands_2 :
    (∃ h : HartId, ∃ r : DbgReg, ∃ isWrite : Bool, ∃ size : BitVec 3, ∃ s : State, let a := s.absSettle; let k := h.num; let n := 2 ^ size.toNat; let wide := match r with | .fpr _ => 16 | _ => 8; let sized := 2 ≤ size.toNat ∧ size.toNat ≤ 4 ∧ n ≤ wide; let able := (a.hart k).mode = .halted ∧ a.inv (a.hart k).pocket.toNat = true; (a.dbg.cmderr = 0) ∧ (a.dbg.abs = none) ∧ (sized) ∧ (able) ∧ (isWrite = true) ∧ (size.toNat = 4) ∧ ∃ i : Fin 32, (r = .fpr i)) ∧
    (∃ h : HartId, ∃ r : DbgReg, ∃ isWrite : Bool, ∃ size : BitVec 3, ∃ s : State, let a := s.absSettle; let k := h.num; let w := (a.hart k).w; let n := 2 ^ size.toNat; let wide := match r with | .fpr _ => 16 | _ => 8; let sized := 2 ≤ size.toNat ∧ size.toNat ≤ 4 ∧ n ≤ wide; let able := (a.hart k).mode = .halted ∧ a.inv (a.hart k).pocket.toNat = true; (a.dbg.cmderr = 0) ∧ (a.dbg.abs = none) ∧ (sized) ∧ (able) ∧ (isWrite = true) ∧ (size.toNat = 3) ∧ ∃ c : BitVec 12, (r = .csr c) ∧ (w.dbgCsr c.toNat true = true)) ∧
    (∃ h : HartId, ∃ r : DbgReg, ∃ isWrite : Bool, ∃ size : BitVec 3, ∃ s : State, let a := s.absSettle; let k := h.num; let n := 2 ^ size.toNat; let wide := match r with | .fpr _ => 16 | _ => 8; let sized := 2 ≤ size.toNat ∧ size.toNat ≤ 4 ∧ n ≤ wide; let able := (a.hart k).mode = .halted ∧ a.inv (a.hart k).pocket.toNat = true; (a.dbg.cmderr = 0) ∧ (a.dbg.abs = none) ∧ (sized) ∧ (able) ∧ (isWrite = true) ∧ (size.toNat = 2) ∧ ∃ i : Fin 32, (r = .gpr i)) ∧
    (∃ s : State, let a := s.absSettle; (a.dbg.cmderr ≠ 0)) ∧
    (∃ s : State, let a := s.absSettle; (a.dbg.cmderr = 0) ∧ (a.dbg.abs ≠ none)) ∧
    (∃ h : HartId, ∃ s : State, let a := s.absSettle; let k := h.num; let able := (a.hart k).mode = .halted ∧ a.inv (a.hart k).pocket.toNat = true; (a.dbg.cmderr = 0) ∧ (a.dbg.abs = none) ∧ (¬ able)) ∧
    (∃ h : HartId, ∃ pa : Addr, ∃ s : State, let a := s.absSettle; let k := h.num; let able := (a.hart k).mode = .halted ∧ a.inv (a.hart k).pocket.toNat = true; (a.dbg.cmderr = 0) ∧ (a.dbg.abs = none) ∧ (able) ∧ (routeOf pa.toNat .pma = .hole)) ∧
    (∃ h : HartId, ∃ pa : Addr, ∃ isWrite : Bool, ∃ s : State, let a := s.absSettle; let k := h.num; let able := (a.hart k).mode = .halted ∧ a.inv (a.hart k).pocket.toNat = true; (a.dbg.cmderr = 0) ∧ (a.dbg.abs = none) ∧ (able) ∧ (routeOf pa.toNat .pma = .cached) ∧ (isWrite = true)) ∧
    (∃ h : HartId, ∃ pa : Addr, ∃ isWrite : Bool, ∃ s : State, let a := s.absSettle; let k := h.num; let able := (a.hart k).mode = .halted ∧ a.inv (a.hart k).pocket.toNat = true; (a.dbg.cmderr = 0) ∧ (a.dbg.abs = none) ∧ (able) ∧ (routeOf pa.toNat .pma = .cached) ∧ (isWrite = false)) ∧
    (∃ h : HartId, ∃ pa : Addr, ∃ size : Size, ∃ s : State, let a := s.absSettle; let k := h.num; let n := size.bytes; let able := (a.hart k).mode = .halted ∧ a.inv (a.hart k).pocket.toNat = true; (a.dbg.cmderr = 0) ∧ (a.dbg.abs = none) ∧ ∃ r : Route, (able) ∧ (routeOf pa.toNat .pma = r) ∧ (r ≠ .hole) ∧ (r ≠ .cached) ∧ (pa.toNat % n ≠ 0)) ∧
    (∃ h : HartId, ∃ pa : Addr, ∃ size : Size, ∃ isWrite : Bool, ∃ s : State, let a := s.absSettle; let k := h.num; let n := size.bytes; let able := (a.hart k).mode = .halted ∧ a.inv (a.hart k).pocket.toNat = true; (a.dbg.cmderr = 0) ∧ (a.dbg.abs = none) ∧ ∃ r : Route, (able) ∧ (routeOf pa.toNat .pma = r) ∧ (r ≠ .hole) ∧ (r ≠ .cached) ∧ (pa.toNat % n = 0) ∧ (isWrite = true)) ∧
    (∃ h : HartId, ∃ pa : Addr, ∃ size : Size, ∃ isWrite : Bool, ∃ s : State, let a := s.absSettle; let k := h.num; let n := size.bytes; let able := (a.hart k).mode = .halted ∧ a.inv (a.hart k).pocket.toNat = true; (a.dbg.cmderr = 0) ∧ (a.dbg.abs = none) ∧ ∃ r : Route, (able) ∧ (routeOf pa.toNat .pma = r) ∧ (r ≠ .hole) ∧ (r ≠ .cached) ∧ (pa.toNat % n = 0) ∧ (isWrite = false)) :=
  ⟨⟨h0, .fpr 0, true, 4, inv0 { mode := .halted }, (by decide +kernel), (by decide +kernel), (by decide +kernel), (by decide +kernel), (by decide +kernel), (by decide +kernel), 0, (by decide +kernel)⟩,
   ⟨h0, .csr 0x300, true, 3, inv0 { mode := .halted }, (by decide +kernel), (by decide +kernel), (by decide +kernel), (by decide +kernel), (by decide +kernel), (by decide +kernel), 0x300, (by decide +kernel), (by decide +kernel)⟩,
   ⟨h0, .gpr 0, true, 2, inv0 { mode := .halted }, (by decide +kernel), (by decide +kernel), (by decide +kernel), (by decide +kernel), (by decide +kernel), (by decide +kernel), 0, (by decide +kernel)⟩,
   ⟨{ State.reset with dbg := { cmderr := 7 } }, (by decide +kernel)⟩,
   ⟨{ hs { acc := [{ acc0 0 with rd := 192 }] } with dbg := { abs := some (0, 8) } }, (by decide +kernel), (by decide +kernel)⟩,
   ⟨h0, State.reset, (by decide +kernel), (by decide +kernel), (by decide +kernel)⟩,
   ⟨h0, 0x7FFFFFFFFFFFFF, inv0 { mode := .halted }, (by decide +kernel), (by decide +kernel), (by decide +kernel), (by decide +kernel)⟩,
   ⟨h0, 0, true, inv0 { mode := .halted }, (by decide +kernel), (by decide +kernel), (by decide +kernel), (by decide +kernel), (by decide +kernel)⟩,
   ⟨h0, 0, false, inv0 { mode := .halted }, (by decide +kernel), (by decide +kernel), (by decide +kernel), (by decide +kernel), (by decide +kernel)⟩,
   ⟨h0, 0x1000000000004, .b8, inv0 { mode := .halted }, (by decide +kernel), (by decide +kernel), .io, (by decide +kernel), (by decide +kernel), (by decide +kernel), (by decide +kernel), (by decide +kernel)⟩,
   ⟨h0, 0x1000000000000, .b8, true, inv0 { mode := .halted }, (by decide +kernel), (by decide +kernel), .io, (by decide +kernel), (by decide +kernel), (by decide +kernel), (by decide +kernel), (by decide +kernel), (by decide +kernel)⟩,
   ⟨h0, 0x80000000000000, .b8, false, inv0 { mode := .halted }, (by decide +kernel), (by decide +kernel), .window, (by decide +kernel), (by decide +kernel), (by decide +kernel), (by decide +kernel), (by decide +kernel), (by decide +kernel)⟩⟩

theorem test_witness_HaltAndAbstractCommands_3 :
    (∃ s : State, (s.inv 0 = true)) ∧
    (∃ s : State, (s.inv 0 = false)) :=
  ⟨⟨inv0 {}, (by decide +kernel)⟩,
   ⟨State.reset, (by decide +kernel)⟩⟩

theorem test_witness_SystemBusAccesses :
    (∃ s : State, (s.dbg.sberror ≠ 0 ∨ s.dbg.sbbusyErr = true)) ∧
    (∃ s : State, (s.dbg.sberror = 0) ∧ (s.dbg.sbbusyErr = false) ∧ (s.dbg.sbOut ≠ none)) ∧
    (∃ pa : Addr, ∃ size : Size, ∃ s : State, let n := size.bytes; (s.dbg.sberror = 0) ∧ (s.dbg.sbbusyErr = false) ∧ (s.dbg.sbOut = none) ∧ (pa.toNat % n ≠ 0)) ∧
    (∃ pa : Addr, ∃ size : Size, ∃ s : State, let n := size.bytes; (s.dbg.sberror = 0) ∧ (s.dbg.sbbusyErr = false) ∧ (s.dbg.sbOut = none) ∧ (pa.toNat % n = 0) ∧ (s.inv (s.fld R.sbPocket F.sbPocket_POCKET) = false)) ∧
    (∃ pa : Addr, ∃ size : Size, ∃ isWrite : Bool, ∃ s : State, let n := size.bytes; (s.dbg.sberror = 0) ∧ (s.dbg.sbbusyErr = false) ∧ (s.dbg.sbOut = none) ∧ (pa.toNat % n = 0) ∧ (s.inv (s.fld R.sbPocket F.sbPocket_POCKET) = true) ∧ (regionOf pa.toNat = .bolt) ∧ (isWrite = false)) ∧
    (∃ pa : Addr, ∃ size : Size, ∃ isWrite : Bool, ∃ s : State, let n := size.bytes; (s.dbg.sberror = 0) ∧ (s.dbg.sbbusyErr = false) ∧ (s.dbg.sbOut = none) ∧ (pa.toNat % n = 0) ∧ (s.inv (s.fld R.sbPocket F.sbPocket_POCKET) = true) ∧ (regionOf pa.toNat = .bolt) ∧ (isWrite = true)) ∧
    (∃ pa : Addr, ∃ size : Size, ∃ s : State, let n := size.bytes; (s.dbg.sberror = 0) ∧ (s.dbg.sbbusyErr = false) ∧ (s.dbg.sbOut = none) ∧ (pa.toNat % n = 0) ∧ (s.inv (s.fld R.sbPocket F.sbPocket_POCKET) = true) ∧ (regionOf pa.toNat = .ctl) ∧ (n ≠ 4) ∧ (n ≠ 8)) ∧
    (∃ pa : Addr, ∃ size : Size, ∃ s : State, let n := size.bytes; (s.dbg.sberror = 0) ∧ (s.dbg.sbbusyErr = false) ∧ (s.dbg.sbOut = none) ∧ (pa.toNat % n = 0) ∧ (s.inv (s.fld R.sbPocket F.sbPocket_POCKET) = true) ∧ (regionOf pa.toNat = .ctl) ∧ (n = 4 ∨ n = 8)) ∧
    (∃ pa : Addr, ∃ size : Size, ∃ s : State, let n := size.bytes; (s.dbg.sberror = 0) ∧ (s.dbg.sbbusyErr = false) ∧ (s.dbg.sbOut = none) ∧ (pa.toNat % n = 0) ∧ (s.inv (s.fld R.sbPocket F.sbPocket_POCKET) = true) ∧ ∃ k : Nat, (regionOf pa.toNat = .mmio k)) ∧
    (∃ pa : Addr, ∃ size : Size, ∃ s : State, let n := size.bytes; (s.dbg.sberror = 0) ∧ (s.dbg.sbbusyErr = false) ∧ (s.dbg.sbOut = none) ∧ (pa.toNat % n = 0) ∧ (s.inv (s.fld R.sbPocket F.sbPocket_POCKET) = true) ∧ (regionOf pa.toNat ≠ .bolt) ∧ (regionOf pa.toNat ≠ .ctl) ∧ (∀ k, regionOf pa.toNat ≠ .mmio k)) :=
  ⟨⟨{ State.reset with dbg := { sbbusyErr := true } }, (.inr rfl)⟩,
   ⟨{ State.reset with dbg := { sbOut := some (8, false) } }, (by decide +kernel), (by decide +kernel), (by decide +kernel)⟩,
   ⟨7, .b8, inv0 {}, (by decide +kernel), (by decide +kernel), (by decide +kernel), (by decide +kernel)⟩,
   ⟨0, .b8, State.reset, (by decide +kernel), (by decide +kernel), (by decide +kernel), (by decide +kernel), (by decide +kernel)⟩,
   ⟨0xFFFFFFFFFFF8, .b8, false, inv0 {}, (by decide +kernel), (by decide +kernel), (by decide +kernel), (by decide +kernel), (by decide +kernel), (by decide +kernel), (by decide +kernel)⟩,
   ⟨0, .b8, true, inv0 {}, (by decide +kernel), (by decide +kernel), (by decide +kernel), (by decide +kernel), (by decide +kernel), (by decide +kernel), (by decide +kernel)⟩,
   ⟨0x2000000000000, .b2, inv0 {}, (by decide +kernel), (by decide +kernel), (by decide +kernel), (by decide +kernel), (by decide +kernel), (by decide +kernel), (by decide +kernel), (by decide +kernel)⟩,
   ⟨0x2000000000000, .b4, inv0 {}, (by decide +kernel), (by decide +kernel), (by decide +kernel), (by decide +kernel), (by decide +kernel), (by decide +kernel), (by decide +kernel)⟩,
   ⟨0x1FFFFFFFFFFF8, .b8, inv0 {}, (by decide +kernel), (by decide +kernel), (by decide +kernel), (by decide +kernel), (by decide +kernel), 7, (by decide +kernel)⟩,
   ⟨0x80000000000000, .b8, inv0 {}, (by decide +kernel), (by decide +kernel), (by decide +kernel), (by decide +kernel), (by decide +kernel), (by decide +kernel), (by decide +kernel), (fun k h => by revert h; simp [regionOf])⟩⟩

theorem test_witness_ResetState :
    (∃ i : Nat, (i < 8)) ∧
    (∃ i : Nat, (i < 64)) ∧
    (∃ i : Nat, (i < 16)) :=
  ⟨⟨7, (by decide +kernel)⟩,
   ⟨63, (by decide +kernel)⟩,
   ⟨15, (by decide +kernel)⟩⟩

/-! Commands that stand for no operation or event of the part: one for each bound of WellFormed. -/

theorem test_refuses_expiry_sample : (Instr.thimbleExpiry ⟨[0x80000000]⟩ 0 0).wellFormed = false := by decide
theorem test_refuses_loop_sample : (Instr.thimbleLoop ⟨[-0x80000001]⟩).wellFormed = false := by decide
theorem test_refuses_trip_sample : (Instr.tripComparator ⟨[0, 0x80000000]⟩).wellFormed = false := by decide
theorem test_refuses_amo_16 : (Instr.amo h0 .add 0 0 .b16 .pma 0 0 false false).wellFormed = false := by decide
theorem test_refuses_lr_2 : (Instr.lr h0 0 0 .b2 .pma false false).wellFormed = false := by decide
theorem test_refuses_sc_16 : (Instr.sc h0 0 0 .b16 .pma 0 false false).wellFormed = false := by decide
theorem test_refuses_index_128 :
    (Instr.vectorLoadEew128 h0 false (.indexed 0 .b16) 0 0 0 true .pma).wellFormed = false := by decide
theorem test_refuses_misaligned_atom : (Instr.atom sl0 { hdr0 with pa := 4 } .add .b8 0 0).wellFormed = false := by decide
theorem test_refuses_misaligned_rdNc : (Instr.rdNc sl0 { hdr0 with pa := 4 } .b8 false).wellFormed = false := by decide
theorem test_refuses_read_of_a_panel : (Instr.memoryRead (.panel 0) sl0 0 0 .none false 0).wellFormed = false := by decide
theorem test_refuses_write_of_a_panel :
    (Instr.memoryWrite (.panel 0) sl0 0 0 0 0 .none false 0).wellFormed = false := by decide
theorem test_refuses_put_payload : (Instr.putReceive { hp0 with payload := [0] }).wellFormed = false := by decide
theorem test_refuses_get_payload : (Instr.getReceive { hp0 with payload := [0] }).wellFormed = false := by decide
theorem test_refuses_send_payload : (Instr.sendReceive { hp0 with payload := [0, 0, 0] }).wellFormed = false := by decide
theorem test_refuses_atomic_payload : (Instr.atomicReceive { hp0 with payload := [0] }).wellFormed = false := by decide
theorem test_refuses_long_payload :
    (Instr.putReceive { hp0 with payload := List.replicate 4104 0 }).wellFormed = false := by decide +kernel
theorem test_refuses_power_off_of_other_panel : (Instr.powerOff dh0 (.other (.panel 0))).wellFormed = false := by decide
theorem test_refuses_power_on_of_other_llc : (Instr.powerOn dh0 (.other (.llc 0))).wellFormed = false := by decide
theorem test_refuses_short_reset : (Instr.resetN 999 false).wellFormed = false := by decide
theorem test_takes_long_reset : (Instr.resetN 1000 false).wellFormed = true := by decide

/-! Worked cases of the spec. -/

/-- 01, PNL7 finds its place: INDEX at corner 2, MARK at corner 3, SADDLE 2, SITE 1. -/
theorem test_pnl7_orientation :
    decodePads [0x98, 0x98, 0x99, 0x9A] 2 1 =
      { fault := false, num := 2, site := 1, rot := 2, mir := false, ports := panelPorts 2 false } := by decide
/-- 02, a DEADLINES piece clamped on load: STALL 40,000, HOME 60,000, IOC 500,000, FENCE 300,000 ns. -/
theorem test_deadlines_home :
    (State.reset.applyDeadlines ([0x07, 2, 0, 0, 0, 0, 0, 0] ++ leBytes 4 40000 ++ leBytes 4 60000 ++ leBytes 4 500000 ++
      leBytes 24 0 ++ leBytes 4 300000 ++ leBytes 4 0) false).deadline 1 = 0x13880 := by decide +kernel
theorem test_deadlines_fence :
    (State.reset.applyDeadlines ([0x07, 2, 0, 0, 0, 0, 0, 0] ++ leBytes 4 40000 ++ leBytes 4 60000 ++ leBytes 4 500000 ++
      leBytes 24 0 ++ leBytes 4 300000 ++ leBytes 4 0) false).deadline 9 = 0x83D60 := by decide +kernel
/-- 05, one rounding against two: 1/3, 3 q - 1 fused, and 3 q rounded. -/
theorem test_third :
    fmtQ.div 0 (fmtQ.val 0x3FFF0000000000000000000000000000) (fmtQ.val 0x40008000000000000000000000000000) =
      (0x3FFD5555555555555555555555555555, 1) := by decide +kernel
theorem test_fused :
    fmtQ.fma 0 (fmtQ.val 0x40008000000000000000000000000000) (fmtQ.val 0x3FFD5555555555555555555555555555)
      (fmtQ.val 0xBFFF0000000000000000000000000000) = (0xBF8D0000000000000000000000000000, 0) := by decide +kernel
theorem test_rounded :
    fmtQ.mul 0 (fmtQ.val 0x40008000000000000000000000000000) (fmtQ.val 0x3FFD5555555555555555555555555555) =
      (0x3FFF0000000000000000000000000000, 1) := by decide +kernel
/-- 05: vsetvli with e128, m1 gives VLMAX 4. -/
theorem test_vlmax_e128 : (vtypeOf 0xE0).map (fun t => vlmaxOf t.lsew t.llmul) = some 4 := by decide
/-- 04, feature discovery: HOLD 600 clamps to 512 on a B0 hart; an A0 hart ignores the write. -/
theorem test_mkhold_b0 :
    ((State.reset.setF (R.pnlDieId 7) F.pnlDieId_STEPPING 1).writeMkhold 224 0x896000001080007F).csr 224 csr_mkhold =
      0x880000001080007F := by decide +kernel
theorem test_mkhold_a0 : (State.reset.writeMkhold 96 0x896000001080007F).csr 96 csr_mkhold = 0 := by decide +kernel
/-- 07, a window places a table beneath its panel: h is 0x407F, and the slice 10, or 6 without the window. -/
theorem test_home_hash : State.reset.homeHash 0x1000001FC0 = 0x407F := by decide +kernel
theorem test_home_slice : State.reset.homeSlice 0x1000001FC0 = 6 := by decide +kernel
/-- 10, three bolts on a package with 48 GiB stacks: an address of bolt 0 and one of bolt 1. -/
def bolts3 : List Bolt :=
  [⟨0, 0, 192, 0xFF, 0, 0, 0, 0, []⟩, ⟨1, 0xC0, 48, 0x0C, 0, 2, 1, 1, []⟩, ⟨2, 0x100, 384, 7, 1, 1, 0, 2, []⟩]
theorem test_locate_package_bolt :
    locate bolts3 ⟨0, 0, 192, 0xFF, 0, 0, 0, 0, []⟩ 0x340 = (3, 0x40) := by decide +kernel
theorem test_locate_private_bolt :
    locate bolts3 ⟨1, 0xC0, 48, 0x0C, 0, 2, 1, 1, []⟩ 0x3005600040 = (3, 24 * 2 ^ 30 + 42 * 2 ^ 20 + 64) := by decide +kernel

end Sys2Proof.Tests
end

section
/-! PROOFS of the statements about the whole of `exec` and `step`, about reset, about writes of control space that R9
refuses, and about the system bus. -/

namespace Sys2Proof.Machine

/-! ### What every command keeps -/

/-- What `exec i s` has to keep of `s`: all of it, but for the Tape where the command ends every state (COLD_RESET, R429,
and VSTBY_LOSS, R473), after which time starts at 0 again. -/
def keptBy (i : Instr) (s : State) : State :=
  match i with
  | .coldReset .. => { s with tape := 0 }
  | .vstbyLoss => { s with tape := 0 }
  | _ => s

theorem keptBy_pending (i : Instr) (s : State) : (keptBy i s).pending = s.pending := by
  unfold keptBy; split <;> rfl

/-- An outcome that is a next state, one that keeps what `a` holds. -/
def AnswersKeeping (a : State) (o : Host.Outcome State Fault Refusal) : Prop := ∃ t, o = .next t ∧ Keeps a t

theorem AnswersKeeping.next {a t : State} (h : Keeps a t) : AnswersKeeping a (.next t) := ⟨t, rfl, h⟩

/-- The package at its reset values has the queue and the fuses it had; its tables are empty. -/
theorem State.fresh0_keeps (s : State) : Keeps { s with tape := 0 } s.fresh0 :=
  ⟨rfl, fun _ => rfl, fun _ => rfl, .refl _, le_rfl⟩

/-- Every command answers a next state, and that state keeps the queue, canonical tables, the fuses and the Tape. -/
theorem exec_answersKeeping (i : Instr) (s : State) : AnswersKeeping (keptBy i s) (exec i s) :=
  have h := Keeps.refl s
  match i with
  | .registerWrite .. => .next (registerWriteEff_keeps h)
  | .strapRead .. => .next (strapReadEff_keeps h)
  | .orientationDecode .. => .next (orientationDecodeEff_keeps h)
  | .threadDiscovery => .next (threadDiscoveryEff_keeps h)
  | .threadFrameReturn .. => .next (threadFrameReturnEff_keeps h)
  | .threadFrameTimeout .. => .next (threadFrameTimeoutEff_keeps h)
  | .threadMgmtFrame .. => .next (threadMgmtFrameEff_keeps h)
  | .brownOutPark .. => .next (brownOutParkEff_keeps h)
  | .brownOutResume .. => .next (brownOutResumeEff_keeps h)
  | .paceWindowEnd .. => .next (paceWindowEndEff_keeps h)
  | .paceClr .. => .next (paceClrEff_keeps h)
  | .refclkLoss .. => .next (refclkLossEff_keeps h)
  | .refclkRelock .. => .next (refclkRelockEff_keeps h)
  | .replicaRealigned .. => .next (replicaRealignedEff_keeps h)
  | .lateCompletion .. => .next (lateCompletionEff_keeps h)
  | .deadlineWrite .. => .next (deadlineWriteEff_keeps h)
  | .deadlineSet .. => .next (deadlineSetEff_keeps h)
  | .stallExpiry .. => .next (stallExpiryEff_keeps h)
  | .homeExpiry .. => .next (homeExpiryEff_keeps h)
  | .iocExpiry .. => .next (iocExpiryEff_keeps h)
  | .refreshExpiry .. => .next (refreshExpiryEff_keeps h)
  | .linkExpiry .. => .next (linkExpiryEff_keeps h)
  | .remoteExpiry .. => .next (remoteExpiryEff_keeps h)
  | .dmaExpiry .. => .next (dmaExpiryEff_keeps h)
  | .thimbleExpiry .. => .next (thimbleExpiryEff_keeps h)
  | .vregExpiry .. => .next (vregExpiryEff_keeps h)
  | .fenceExpiry .. => .next (fenceExpiryEff_keeps h)
  | .releaseExpiry .. => .next (releaseExpiryEff_keeps h)
  | .patternLoad => .next (patternLoadEff_keeps h)
  | .loadPattern .. => .next (loadPatternEff_keeps h)
  | .alter .. => .next (alterEff_keeps h)
  | .alterationComplete => .next (alterationCompleteEff_keeps h)
  | .doorAlter .. => .next (doorAlterEff_keeps h)
  | .load .. => .next (loadEff_keeps h)
  | .store .. => .next (storeEff_keeps h)
  | .amo .. => .next (amoEff_keeps h)
  | .lr .. => .next (lrEff_keeps h)
  | .sc .. => .next (scEff_keeps h)
  | .amocasQ .. => .next (amocasQEff_keeps h)
  | .fence .. => .next (fenceEff_keeps h)
  | .fenceTso .. => .next (fenceTsoEff_keeps h)
  | .fenceI .. => .next (fenceIEff_keeps h)
  | .fenceComplete .. => .next (State.livePanel_keeps h (fenceCompleteEff_keeps h))
  | .wfi .. => .next (wfiEff_keeps h)
  | .interruptPending .. => .next (interruptPendingEff_keeps h)
  | .wfiTimeout .. => .next (State.livePanel_keeps h (wfiTimeoutEff_keeps h))
  | .pause .. => .next (pauseEff_keeps h)
  | .pauseEnd .. => .next (State.livePanel_keeps h (pauseEndEff_keeps h))
  | .wrsNto .. => .next (wrsNtoEff_keeps h)
  | .wrsSto .. => .next (wrsStoEff_keeps h)
  | .wrsStoTimeout .. => .next (State.livePanel_keeps h (wrsStoTimeoutEff_keeps h))
  | .runAheadEntry .. => .next (runAheadEntryEff_keeps h)
  | .prefetchR .. => .next (prefetchREff_keeps h)
  | .prefetchI .. => .next (prefetchIEff_keeps h)
  | .prefetchW .. => .next (prefetchWEff_keeps h)
  | .cboClean .. => .next (cboCleanEff_keeps h)
  | .cboFlush .. => .next (cboFlushEff_keeps h)
  | .cboInval .. => .next (cboInvalEff_keeps h)
  | .cboZero .. => .next (cboZeroEff_keeps h)
  | .binary128Arithmetic .. => .next (binary128ArithmeticEff_keeps h)
  | .fmvhXQ .. => .next (fmvhXQEff_keeps h)
  | .fmvpQX .. => .next (fmvpQXEff_keeps h)
  | .vsetvl .. => .next (vsetvlEff_keeps h)
  | .vectorBinary128 .. => .next (vectorBinary128Eff_keeps h)
  | .vectorWideningBinary128 .. => .next (vectorWideningBinary128Eff_keeps h)
  | .vectorReduction .. => .next (vectorReductionEff_keeps h)
  | .vectorLoadEew128 .. => .next (vectorLoadEew128Eff_keeps h)
  | .vectorDivide .. => .next (vectorDivideEff_keeps h)
  | .predClr .. => .next (predClrEff_keeps h)
  | .mkcmoClean .. => .next (mkcmoCleanEff_keeps h)
  | .mkcmoInvalidate .. => .next (mkcmoInvalidateEff_keeps h)
  | .mkcmoCleanInvalidate .. => .next (mkcmoCleanInvalidateEff_keeps h)
  | .enter .. => .next (enterEff_keeps h)
  | .exit .. => .next (exitEff_keeps h)
  | .clearStatus .. => .next (clearStatusEff_keeps h)
  | .entryAnswer .. => .next (State.livePanel_keeps h (entryAnswerEff_keeps h))
  | .perPanelReset .. => .next (perPanelResetEff_keeps h)
  | .fillResume .. => .next (State.livePanel_keeps h (fillResumeEff_keeps h))
  | .leavingTableAccept .. => .next (State.livePanel_keeps h (leavingTableAcceptEff_keeps h))
  | .slcClean .. => .next (State.live_keeps h (slcCleanEff_keeps h))
  | .slcInvalidate .. => .next (State.live_keeps h (slcInvalidateEff_keeps h))
  | .slcCleanInvalidate .. => .next (State.live_keeps h (slcCleanInvalidateEff_keeps h))
  | .rangeGo .. => .next (State.live_keeps h (rangeGoEff_keeps h))
  | .rangeAbort .. => .next (State.live_keeps h (rangeAbortEff_keeps h))
  | .rangeDone .. => .next (State.live_keeps h (rangeDoneEff_keeps h))
  | .wayCleanDone .. => .next (State.live_keeps h (wayCleanDoneEff_keeps h))
  | .lockFill .. => .next (State.live_keeps h (lockFillEff_keeps h))
  | .rdS .. => .next (State.live_keeps h (rdSEff_keeps h))
  | .rdSp .. => .next (State.live_keeps h (rdSpEff_keeps h))
  | .rdO .. => .next (State.live_keeps h (rdOEff_keeps h))
  | .upg .. => .next (State.live_keeps h (upgEff_keeps h))
  | .atom .. => .next (State.live_keeps h (atomEff_keeps h))
  | .rdNc .. => .next (State.live_keeps h (rdNcEff_keeps h))
  | .wrNc .. => .next (State.live_keeps h (wrNcEff_keeps h))
  | .rdC .. => .next (State.live_keeps h (rdCEff_keeps h))
  | .wrC .. => .next (State.live_keeps h (wrCEff_keeps h))
  | .zero .. => .next (State.live_keeps h (zeroEff_keeps h))
  | .cln .. => .next (State.live_keeps h (clnEff_keeps h))
  | .fls .. => .next (State.live_keeps h (flsEff_keeps h))
  | .inv .. => .next (State.live_keeps h (invEff_keeps h))
  | .snpS .. => .next (State.livePanel_keeps h (snpSEff_keeps h))
  | .snpI .. => .next (State.livePanel_keeps h (snpIEff_keeps h))
  | .snpC .. => .next (State.livePanel_keeps h (snpCEff_keeps h))
  | .holderSnoop .. => .next (State.livePanel_keeps h (holderSnoopEff_keeps h))
  | .holdWindowEnd .. => .next (State.livePanel_keeps h (holdWindowEndEff_keeps h))
  | .lapReturn .. => .next (State.live_keeps h (lapReturnEff_keeps h))
  | .wbAck .. => .next (State.livePanel_keeps h (wbAckEff_keeps h))
  | .grant .. => .next (State.livePeer_keeps h (grantEff_keeps h))
  | .comp .. => .next (State.live_keeps h (compEff_keeps h))
  | .fwdDone .. => .next (State.live_keeps h (fwdDoneEff_keeps h))
  | .invDone .. => .next (State.live_keeps h (invDoneEff_keeps h))
  | .upgFail .. => .next (State.livePanel_keeps h (upgFailEff_keeps h))
  | .nodata .. => .next (State.livePanel_keeps h (nodataEff_keeps h))
  | .data .. => .next (State.livePeer_keeps h (dataEff_keeps h))
  | .wb .. => .next (State.live_keeps h (wbEff_keeps h))
  | .ev .. => .next (State.live_keeps h (evEff_keeps h))
  | .dirty .. => .next (State.live_keeps h (dirtyEff_keeps h))
  | .tokenExpiry .. => .next (tokenExpiryEff_keeps h)
  | .ioRd .. => .next (ioRdEff_keeps h)
  | .ioWr .. => .next (ioWrEff_keeps h)
  | .ioAck .. => .next (State.livePeer_keeps h (ioAckEff_keeps h))
  | .ioData .. => .next (State.livePeer_keeps h (ioDataEff_keeps h))
  | .abandon .. => .next (abandonEff_keeps h)
  | .deviceRead .. => .next (State.live_keeps h (deviceReadEff_keeps h))
  | .deviceWrite .. => .next (State.live_keeps h (deviceWriteEff_keeps h))
  | .deviceAtomic .. => .next (State.live_keeps h (deviceAtomicEff_keeps h))
  | .peerToPeer .. => .next (State.live_keeps h (peerToPeerEff_keeps h))
  | .pcieCompletion .. => .next (State.live_keeps h (pcieCompletionEff_keeps h))
  | .linkDown .. => .next (linkDownEff_keeps h)
  | .slotBoundary .. => .next (slotBoundaryEff_keeps h)
  | .reopen .. => .next (State.live_keeps h (reopenEff_keeps h))
  | .mask .. => .next (State.live_keeps h (maskEff_keeps h))
  | .confirm .. => .next (State.live_keeps h (confirmEff_keeps h))
  | .safe .. => .next (State.live_keeps h (safeEff_keeps h))
  | .idleTestFail .. => .next (State.live_keeps h (idleTestFailEff_keeps h))
  | .gusCtlReopen .. => .next (State.live_keeps h (gusCtlReopenEff_keeps h))
  | .fenceCmd .. => .next (fenceCmdEff_keeps h)
  | .drainComplete .. => .next (drainCompleteEff_keeps h)
  | .fenceOpen .. => .next (fenceOpenEff_keeps h)
  | .fenceReply .. => .next (fenceReplyEff_keeps h)
  | .epochFlip .. => .next (epochFlipEff_keeps h)
  | .epochEmpty .. => .next (epochEmptyEff_keeps h)
  | .epochGo .. => .next (epochGoEff_keeps h)
  | .tableLoad .. => .next (tableLoadEff_keeps h)
  | .trainingComplete .. => .next (trainingCompleteEff_keeps h)
  | .memoryRead .. => .next (State.live_keeps h (memoryReadEff_keeps h))
  | .memoryWrite .. => .next (State.live_keeps h (memoryWriteEff_keeps h))
  | .tempRead .. => .next (State.live_keeps h (tempReadEff_keeps h))
  | .refresh .. => .next (State.live_keeps h (refreshEff_keeps h))
  | .scrubGo .. => .next (State.live_keeps h (scrubGoEff_keeps h))
  | .scrubLine .. => .next (State.live_keeps h (scrubLineEff_keeps h))
  | .scrubAbort .. => .next (State.live_keeps h (scrubAbortEff_keeps h))
  | .scrubEnd .. => .next (State.live_keeps h (scrubEndEff_keeps h))
  | .linkFrame .. => .next (linkFrameEff_keeps h)
  | .nak .. => .next (nakEff_keeps h)
  | .lossOfSignal .. => .next (lossOfSignalEff_keeps h)
  | .trainTimeout .. => .next (trainTimeoutEff_keeps h)
  | .retryTimer .. => .next (retryTimerEff_keeps h)
  | .hello .. => .next (helloEff_keeps h)
  | .query .. => .next (queryEff_keeps h)
  | .assignId .. => .next (assignIdEff_keeps h)
  | .mgmtRelease .. => .next (mgmtReleaseEff_keeps h)
  | .idChange => .next (idChangeEff_keeps h)
  | .cqTail .. => .next (cqTailEff_keeps h)
  | .cqBaseWrite .. => .next (cqBaseWriteEff_keeps h)
  | .descriptorFetch .. => .next (descriptorFetchEff_keeps h)
  | .put .. => .next (putEff_keeps h)
  | .get .. => .next (getEff_keeps h)
  | .send .. => .next (sendEff_keeps h)
  | .atomic .. => .next (atomicEff_keeps h)
  | .hrnFence .. => .next (hrnFenceEff_keeps h)
  | .mgmt .. => .next (mgmtEff_keeps h)
  | .nop .. => .next (nopEff_keeps h)
  | .putReceive .. => .next (putReceiveEff_keeps h)
  | .getReceive .. => .next (getReceiveEff_keeps h)
  | .sendReceive .. => .next (sendReceiveEff_keeps h)
  | .atomicReceive .. => .next (atomicReceiveEff_keeps h)
  | .mgmtReceive .. => .next (mgmtReceiveEff_keeps h)
  | .resp .. => .next (respEff_keeps h)
  | .transitForward .. => .next (transitForwardEff_keeps h)
  | .budgetExpiry .. => .next (budgetExpiryEff_keeps h)
  | .rqHeadWrite .. => .next (rqHeadWriteEff_keeps h)
  | .entdaa .. => .next (entdaaEff_keeps h)
  | .rstdaa => .next (rstdaaEff_keeps h)
  | .setnewda .. => .next (setnewdaEff_keeps h)
  | .getpid => .next (getpidEff_keeps h)
  | .getbcr => .next (getbcrEff_keeps h)
  | .getdcr => .next (getdcrEff_keeps h)
  | .getstatus => .next (getstatusEff_keeps h)
  | .privateRead => .next (privateReadEff_keeps h)
  | .create .. => .next (createEff_keeps h)
  | .rangeAdd .. => .next (rangeAddEff_keeps h)
  | .rangeRemove .. => .next (rangeRemoveEff_keeps h)
  | .arm .. => .next (armEff_keeps h)
  | .destroy .. => .next (destroyEff_keeps h)
  | .assign .. => .next (assignEff_keeps h)
  | .release .. => .next (releaseEff_keeps h)
  | .powerOff .. => .next (powerOffEff_keeps h)
  | .powerDim .. => .next (powerDimEff_keeps h)
  | .powerOn .. => .next (powerOnEff_keeps h)
  | .powerQuiet .. => .next (powerQuietEff_keeps h)
  | .sealPocket .. => .next (sealEff_keeps h)
  | .unsealPocket .. => .next (unsealEff_keeps h)
  | .msg .. => .next (msgEff_keeps h)
  | .exportSet .. => .next (exportSetEff_keeps h)
  | .debugGrant .. => .next (debugGrantEff_keeps h)
  | .random .. => .next (randomEff_keeps h)
  | .fabricTag .. => .next (fabricTagEff_keeps h)
  | .resetVec .. => .next (resetVecEff_keeps h)
  | .doorEnable .. => .next (doorEnableEff_keeps h)
  | .sliceExpiry .. => .next (sliceExpiryEff_keeps h)
  | .chGo .. => .next (State.live_keeps h (chGoEff_keeps h))
  | .chAbort .. => .next (State.live_keeps h (chAbortEff_keeps h))
  | .channelStopped .. => .next (State.live_keeps h (channelStoppedEff_keeps h))
  | .sourceBeat .. => .next (State.live_keeps h (sourceBeatEff_keeps h))
  | .descriptorComplete .. => .next (State.live_keeps h (descriptorCompleteEff_keeps h))
  | .statusAtom .. => .next (State.live_keeps h (statusAtomEff_keeps h))
  | .hotPlugFrame .. => .next (hotPlugFrameEff_keeps h)
  | .svcPerstN => .next (svcPerstNEff_keeps h)
  | .voutAck .. => .next (voutAckEff_keeps h)
  | .vregFaultClear .. => .next (vregFaultClearEff_keeps h)
  | .thimbleLoop .. => .next (thimbleLoopEff_keeps h)
  | .wakePinEdge .. => .next (wakePinEdgeEff_keeps h)
  | .tripComparator .. => .next (tripComparatorEff_keeps h)
  | .dimEntry .. => .next (dimEntryEff_keeps h)
  | .dimLeavingEmpty .. => .next (dimLeavingEmptyEff_keeps h)
  | .dimWake .. => .next (dimWakeEff_keeps h)
  | .dimResume .. => .next (dimResumeEff_keeps h)
  | .sleepEntry .. => .next (State.livePanel_keeps h (sleepEntryEff_keeps h))
  | .sleepExit .. => .next (State.livePanel_keeps h (sleepExitEff_keeps h))
  | .dormant .. => .next (dormantEff_keeps h)
  | .coldReset .. => .next (State.coldStart_keeps s.fresh0_keeps)
  | .firmwareLoad => .next (firmwareLoadEff_keeps h)
  | .loadFirmware .. => .next (loadFirmwareEff_keeps h)
  | .railGood => .next (railGoodEff_keeps h)
  | .handOff => .next (handOffEff_keeps h)
  | .serviceReq .. => .next (serviceReqEff_keeps h)
  | .quote .. => .next (quoteEff_keeps h)
  | .extend .. => .next (extendEff_keeps h)
  | .resetSaddle .. => .next (resetSaddleEff_keeps h)
  | .fitting .. => .next (fittingEff_keeps h)
  | .runPayload .. => .next (runPayloadEff_keeps h)
  | .payloadEcall .. => .next (payloadEcallEff_keeps h)
  | .warmReset .. => .next (warmResetEff_keeps h)
  | .packageWarmReset => .next (packageWarmResetEff_keeps h)
  | .resetN .. => .next (resetNEff_keeps h)
  | .setFabricKey .. => .next (setFabricKeyEff_keeps h)
  | .ownerKey .. => .next (ownerKeyEff_keeps h)
  | .revoke .. => .next (revokeEff_keeps h)
  | .rollback .. => .next (rollbackEff_keeps h)
  | .hostVerify .. => .next (hostVerifyEff_keeps h)
  | .getVersion => .next (getVersionEff_keeps h)
  | .getCapabilities => .next (getCapabilitiesEff_keeps h)
  | .negotiateAlgorithms => .next (negotiateAlgorithmsEff_keeps h)
  | .getDigests => .next (getDigestsEff_keeps h)
  | .getCertificate .. => .next (getCertificateEff_keeps h)
  | .challenge .. => .next (challengeEff_keeps h)
  | .getMeasurements .. => .next (getMeasurementsEff_keeps h)
  | .counterOverflow .. => .next (counterOverflowEff_keeps h)
  | .snapArm => .next (snapArmEff_keeps h)
  | .armFreeze => .next (armFreezeEff_keeps h)
  | .thaw => .next (thawEff_keeps h)
  | .snapshotTake .. => .next (snapshotTakeEff_keeps h)
  | .extest => .next (extestEff_keeps h)
  | .samplePreload .. => .next (samplePreloadEff_keeps h)
  | .dtmcs .. => .next (dtmcsEff_keeps h)
  | .dmi .. => .next (dmiEff_keeps h)
  | .bypass .. => .next (bypassEff_keeps h)
  | .testLogicReset => .next (testLogicResetEff_keeps h)
  | .haltRequest .. => .next (haltRequestEff_keeps h)
  | .resumeRequest .. => .next (resumeRequestEff_keeps h)
  | .accessRegister .. => .next (accessRegisterEff_keeps h)
  | .accessMemory .. => .next (accessMemoryEff_keeps h)
  | .systemBusAccess .. => .next (systemBusAccessEff_keeps h)
  | .ndmreset => .next (ndmresetEff_keeps h)
  | .pathLock .. => .next (pathLockEff_keeps h)
  | .supplyLost => .next (supplyLostEff_keeps h)
  | .vstbyLoss => .next (Keeps.record.mpr s.fresh0_keeps)
  | .quietExit .. => .next (quietExitEff_keeps h)
  | .linkUp .. => .next (linkUpEff_keeps h)
  | .portTrained .. => .next (portTrainedEff_keeps h)
  | .rplHeadWrite .. => .next (rplHeadWriteEff_keeps h)
  | .branchResolve .. => .next (State.livePanel_keeps h (branchResolveEff_keeps h))
  | .atsRequest .. => .next (State.live_keeps h (atsRequestEff_keeps h))
  | .flowControlCredits .. => .next (flowControlCreditsEff_keeps h)

/-- Settles O3: each command's meaning is a next state, and its `_keeps` lemma says that the queue stays. -/
theorem everyCommandAnswers : Obligations.EveryCommandAnswers := by
  unfold Obligations.EveryCommandAnswers
  intro i s
  obtain ⟨t, answers, kept⟩ := exec_answersKeeping i s
  exact ⟨t, answers, kept.queue.trans (keptBy_pending i s)⟩

/-! ### A write of control space (R8, R9) -/

section ControlWrite
variable {s t : State} {a : Agent} {off size : Nat} {amo : Bool} {v : Word} {r : Resp} {k : RegKind}

/-- A write of control space that is answered at once ends in that answer. -/
theorem exec_registerWrite_ctl {off : BitVec 32} {size : Size}
    (h : s.ctlWrite a off.toNat size.bytes amo v = (t, some r)) :
    exec (.registerWrite a (.ctl off) size amo v) s = .next (t.reply a r) := by
  show Host.Outcome.next (registerWriteEff a (.ctl off) size amo v s) = _
  simp only [registerWriteEff, h]

/-- A write meets its unit's fence first, and passes an open one. -/
theorem State.ctlWrite_of_open (h : ∀ u, ctlFence off = some u → s.fenceIsOpen u = true) :
    s.ctlWrite a off size amo v = s.ctlStoreChecked a off size amo v := by
  unfold State.ctlWrite
  split
  · next u hu => rw [if_pos (h u hu)]
  · rfl

/-- The owner's check comes next. -/
theorem State.ctlStoreChecked_of_pass (h : s.ctlCheck a off = .pass) :
    s.ctlStoreChecked a off size amo v = s.ctlStore a off size amo v := by
  simp only [State.ctlStoreChecked, h]

/-- A well-formed write of a register with KW fields by another than the Keeper is a violation (R9). -/
theorem State.ctlStore_kw (form : ctlForm off size = true) (page : s.pageWrite off (v.toNat % 2 ^ 32) = none)
    (kind : regKindAt (off / 8 * 8) = some k) (kw : k.fields.any (fun f => f.acc == .kw) = true)
    (other : agentIsKeeper a = false) :
    s.ctlStore a off size false v = (s.kwViolation a off, some .viol) := by
  simp only [State.ctlStore, form, page, kind, kw, other, Bool.not_true, Bool.not_false, Bool.or_self, Bool.and_self, if_true,
    Bool.false_eq_true, if_false]

end ControlWrite

/-- No register of the map mixes KW fields with fields that others write (R9). -/
theorem regTable_kw_apart : ∀ k ∈ regTable, k.fields.any (fun f => f.acc == .kw) = true →
    k.fields.all (fun f => f.acc != .rw && f.acc != .wo && f.acc != .w1c && f.acc != .w1s) = true := by
  decide +kernel

/-- Settles O16: past an open fence, the owner's check and its form, the write ends in the violation of R9, whose record
is UCNA. -/
theorem keeperRegistersRefuseWrites : Obligations.KeeperRegistersRefuseWrites := by
  unfold Obligations.KeeperRegistersRefuseWrites
  refine ⟨regTable_kw_apart, fun a off size v k s fence check form page kind kw other => ⟨1, ?_⟩⟩
  have opened : ∀ u, ctlFence off.toNat = some u → s.fenceIsOpen u = true := fun u hu => by
    simpa only [hu] using fence
  have refused : s.ctlWrite a off.toNat size.bytes false v = (s.kwViolation a off.toNat, some .viol) := by
    rw [State.ctlWrite_of_open opened, State.ctlStoreChecked_of_pass check, State.ctlStore_kw form page kind kw other]
  exact exec_registerWrite_ctl refused

/-! ### System-bus accesses (R360, R457) -/

/-- A system-bus error is left in sberror unless an older one stands there. -/
def State.sbFail (s : State) (c : Nat) : State :=
  { s with dbg.sberror := if s.dbg.sberror = 0 then c else s.dbg.sberror }

theorem State.sbFail_of_clear {s : State} (h : s.dbg.sberror = 0) (c : Nat) : s.sbFail c = { s with dbg.sberror := c } := by
  unfold State.sbFail; rw [if_pos h]

/-- The debug module's request of an access leaves the yoke, and the access is outstanding. -/
def State.sbSend (s : State) (pa : Addr) (n : Nat) (isWrite : Bool) (op : BitVec 8) (d : LineData) (be : Word) : State :=
  ({ s with dbg.sbOut := some (n, isWrite) } : State).yokeSend
    { agent := .debug, eye := 0, txid := 0, op := op, pa := pa, size := n, kind := 7, data := d, be := be, needData := !isWrite }

/-- An access to a port or to control space is an I/O-type load or store, its data in the low bytes. -/
def State.sbSendIo (s : State) (pa : Addr) (n : Nat) (isWrite : Bool) (v : Nat) : State :=
  s.sbSend pa n isWrite (if isWrite then 0x40 else 0x0E) (placeAt (v % 2 ^ (8 * n)) 0) (beOf 0 n)

/-- Where an access with nothing in its way goes: what its region takes. -/
def State.sbRoute (s : State) (g : Region) (pa : Addr) (n : Nat) (isWrite : Bool) (v : Nat) : State :=
  match g with
  | .bolt =>
    if isWrite then s.sbSend pa n isWrite 0x09 (placeAt (v % 2 ^ (8 * n)) (pa.toNat % 64)) (beOf (pa.toNat % 64) n)
    else s.sbSend pa n isWrite 0x08 0 0
  | .ctl => if n ≠ 4 ∧ n ≠ 8 then s.sbFail 4 else s.sbSendIo pa n isWrite v
  | .mmio _ => s.sbSendIo pa n isWrite v
  | _ => s.sbFail 2

/-- An access by JTAG passes its guards in order; the last is the world SBPOCKET names (R360). -/
theorem exec_systemBusAccess (pa : Addr) (size : Size) (isWrite : Bool) (v : BitVec 128) (s : State) :
    exec (.systemBusAccess pa size isWrite v) s = .next (
      if s.dbg.sberror ≠ 0 ∨ s.dbg.sbbusyErr = true then s
      else if s.dbg.sbOut.isSome = true then { s with dbg.sbbusyErr := true }
      else if pa.toNat % size.bytes ≠ 0 then s.sbFail 3
      else if (!s.inv (s.fld R.sbPocket F.sbPocket_POCKET)) = true then ({ s with dbg.sbSvc := false } : State).sbFail 7
      else ({ s with dbg.sbSvc := false } : State).sbRoute (regionOf pa.toNat) pa size.bytes isWrite v.toNat) :=
  rfl

section Route
variable {s : State} {pa : Addr} {n : Nat} {isWrite : Bool} {v : Nat}

theorem State.sbRoute_load (h : isWrite = false) : s.sbRoute .bolt pa n isWrite v = s.sbSend pa n isWrite 0x08 0 0 :=
  if_neg (by simp [h])

theorem State.sbRoute_store (h : isWrite = true) : s.sbRoute .bolt pa n isWrite v =
    s.sbSend pa n isWrite 0x09 (placeAt (v % 2 ^ (8 * n)) (pa.toNat % 64)) (beOf (pa.toNat % 64) n) :=
  if_pos h

theorem State.sbRoute_ctl (h : n = 4 ∨ n = 8) : s.sbRoute .ctl pa n isWrite v = s.sbSendIo pa n isWrite v :=
  if_neg (by omega)

theorem State.sbRoute_ctl_size (h : n ≠ 4 ∧ n ≠ 8) : s.sbRoute .ctl pa n isWrite v = s.sbFail 4 :=
  if_pos h

/-- An access to neither memory, a port nor control space is a bad address. -/
theorem State.sbRoute_nowhere {g : Region} (hbolt : g ≠ .bolt) (hctl : g ≠ .ctl) (hmmio : ∀ k, g ≠ .mmio k) :
    s.sbRoute g pa n isWrite v = s.sbFail 2 := by
  cases g with
  | bolt => exact absurd rfl hbolt
  | ctl => exact absurd rfl hctl
  | mmio k => exact absurd rfl (hmmio k)
  | window => rfl
  | hole => rfl

end Route

/-- Settles O58: each clause is one guard of the access, or one region it is routed to. -/
theorem systemBusAccesses : Obligations.SystemBusAccesses := by
  unfold Obligations.SystemBusAccesses
  intro pa size isWrite v s n u off lane sent cmd
  refine ⟨fun stands => by rw [exec_systemBusAccess, if_pos stands], fun error busy => ?_⟩
  have clear : ¬ (s.dbg.sberror ≠ 0 ∨ s.dbg.sbbusyErr = true) := by simp [error, busy]
  have fails (c : Nat) : u.sbFail c = { u with dbg.sberror := c } := State.sbFail_of_clear (s := u) error c
  refine ⟨fun out => ?_, fun idle => ?_⟩
  · rw [exec_systemBusAccess, if_neg clear, if_pos (Option.isSome_iff_ne_none.mpr out)]
  have free : ¬ s.dbg.sbOut.isSome = true := by simp [idle]
  refine ⟨fun misaligned => ?_, fun aligned hidden => ?_, fun aligned seen => ?_⟩
  · rw [exec_systemBusAccess, if_neg clear, if_neg free, if_pos misaligned, State.sbFail_of_clear error]
  · rw [exec_systemBusAccess, if_neg clear, if_neg free, if_neg (not_not_intro aligned), if_pos (by rw [hidden]; rfl)]
    exact congrArg _ (fails 7)
  have routed : exec cmd s = .next (u.sbRoute (regionOf pa.toNat) pa n isWrite v.toNat) := by
    rw [exec_systemBusAccess, if_neg clear, if_neg free, if_neg (not_not_intro aligned), if_neg (by rw [seen]; decide)]
  have sends : sent = u.sbSend pa n isWrite := rfl
  rw [routed, sends]
  refine ⟨fun bolt load => ?_, fun bolt store => ?_, fun ctl not4 not8 => ?_, fun ctl word => ?_, fun k mmio => ?_,
    fun hbolt hctl hmmio => ?_⟩
  · rw [bolt, State.sbRoute_load load]
  · rw [bolt, State.sbRoute_store store]
  · rw [ctl, State.sbRoute_ctl_size ⟨not4, not8⟩, fails]
  · rw [ctl, State.sbRoute_ctl word, State.sbSendIo]
  · rw [mmio, State.sbRoute, State.sbSendIo]
  · rw [State.sbRoute_nowhere hbolt hctl hmmio, fails]

/-! ### A step -/

/-- Settles O1: a step takes the command off the front of the queue and is that command's meaning. -/
theorem stepTakesFront : Obligations.StepTakesFront := by
  unfold Obligations.StepTakesFront
  intro c q s
  rfl

/-! ### The state after reset (R115) -/

/-- Reset lists no register, so each reads its reset value (R13). -/
@[simp] theorem State.rd_reset (r : Reg) : State.reset.rd r = r.reset := rfl

theorem State.recValid_reset (b i : Nat) : State.reset.recValid b i = false := by
  unfold State.recValid State.fld
  rw [State.rd_reset]
  show (getF 0 F.errRec0_VALID == 1) = false
  decide

/-- Reset lists no hart, so each is as a held hart comes up (R115). -/
@[simp] theorem State.hart_reset (h : Nat) : State.reset.hart h = {} := rfl

/-- An array with no line listed hits nowhere: every way is invalid. -/
@[simp] theorem findWay_nil (ways set line : Nat) : findWay [] ways set line = none := by
  simp [findWay, KMap.get]

/-- So an empty L2 has no copy of any line. -/
theorem HartSt.l2Line_initial (line : Nat) : ({} : HartSt).l2Line line = {} := by
  rw [HartSt.l2Line, HartSt.l2Key, findWay_nil]

@[simp] theorem World.xr_initial (i : Nat) : ({} : World).xr i = 0 := ite_self _

/-- The CSRs that R84 and R115 name one by one come up 0. -/
theorem csrReset_zero : ∀ n ∈ [0x305, 0x341, 0x342, 0x343, 0x180, 0x280, 0x680, 0x30C, 0x60C, 0x306, 0x106, 0x606, 0xB00,
    0xB02, 0x7C3, 0x7C4, 0x7C5, 0x5C0], csrReset n = 0 := by decide

theorem csrReset_mhpmcounter : ∀ i < 8, csrReset (0xB03 + i) = 0 := by decide

theorem csrReset_pmpaddr : ∀ i < 64, csrReset (0x3B0 + i) = 0 := by decide

theorem csrReset_pmpcfg : ∀ i < 16, csrReset (0x3A0 + i) = 0 := by decide

/-- Settles O59: every table is empty, so each register, hart and CSR holds its reset value. -/
theorem resetState : Obligations.ResetState := by
  unfold Obligations.ResetState
  refine ⟨rfl, rfl, State.rd_reset, rfl, rfl, rfl, rfl, State.recValid_reset, fun _ => rfl, fun h => ?_⟩
  rw [State.hart_reset]
  exact ⟨rfl, rfl, rfl, rfl, rfl, rfl, rfl, rfl, HartSt.l2Line_initial, rfl, rfl,
    fun i => ⟨World.xr_initial i, rfl, rfl⟩, rfl, csrReset_zero, csrReset_mhpmcounter, csrReset_pmpaddr, csrReset_pmpcfg, rfl⟩

end Sys2Proof.Machine
end

section
/-! PROOFS of the statements about straps, pads and the Thread (R17-R31). -/

namespace Sys2Proof.Machine

/-! ### Straps and pads (R17-R24) -/

section Pads
variable {s : State} {pos : Nat} {fault : Bool}

/-- A die's ports are on exactly when it has no fault, whatever they were before (R24). -/
theorem State.contains_enablePorts : (s.enablePorts pos fault).id.portsOn.contains pos = !fault := by
  cases fault with
  | true => simp [State.enablePorts]
  | false => simp [State.enablePorts]

/-- Pad groups that agree on SADDLE and SITE give the decode both, with no free value used. -/
theorem orientationDecodeEff_of_agree {p : Panel} {g0 g1 g2 g3 : BitVec 8} (h1 : g1.toNat / 4 = g0.toNat / 4)
    (h2 : g2.toNat / 4 = g0.toNat / 4) (h3 : g3.toNat / 4 = g0.toNat / 4) :
    let d := decodePads [g0, g1, g2, g3] (g0.toNat / 4 % 4) (g0.toNat / 16 % 4)
    orientationDecodeEff p g0 g1 g2 g3 s =
      ({ s with id.pads := KMap.insert p.val d s.id.pads } : State).enablePorts (panelPos p.val) d.fault := by
  have agree : ([g0, g1, g2, g3].all fun x => x.toNat / 4 == g0.toNat / 4) = true := by simp [h1, h2, h3]
  simp only [orientationDecodeEff, agree, if_true]

end Pads

/-- Settles O8: both commands insert the decode in its table and enable the die's ports by the decode's fault. -/
theorem strapsAndPads : Obligations.StrapsAndPads := by
  unfold Obligations.StrapsAndPads
  refine ⟨fun sd pads s => ?_, fun p g0 g1 g2 g3 s h1 h2 h3 => ?_⟩
  · exact ⟨strapReadEff sd pads s, rfl, KMap.get_insert_self .., State.contains_enablePorts, rfl, rfl⟩
  · refine ⟨orientationDecodeEff p g0 g1 g2 g3 s, rfl, ?_⟩
    rw [orientationDecodeEff_of_agree h1 h2 h3]
    exact ⟨KMap.get_insert_self .., State.contains_enablePorts, rfl, rfl⟩

/-! ### Discovery and management frames (R27-R31) -/

section Query
variable (s : State) (pos : Nat)

/-- A query is the first of its position's three attempts, whether or not a bypass is opened for it. -/
@[simp] theorem State.discQuery_disc : (s.discQuery pos).id.disc = some ⟨pos, 1, s.tape⟩ := by
  unfold State.discQuery; split <;> rfl

@[simp] theorem State.discQuery_found : (s.discQuery pos).id.found = s.id.found := by
  unfold State.discQuery; split <;> rfl

@[simp] theorem State.discQuery_rd (r : Reg) : (s.discQuery pos).rd r = s.rd r := by
  unfold State.discQuery; split <;> rfl

end Query

/-- What discovery starts from: it runs, with nothing found, failed, excluded or held yet, and every bypass closed. -/
def IdSt.discStart (x : IdSt) : IdSt :=
  { x with discRun := true, bypassOpen := [], found := [], failed := [], excluded := [], fuseOk := [], heldRecs := [] }

@[simp] theorem IdSt.discStart_found (x : IdSt) : x.discStart.found = [] := rfl

section Thread
variable {s : State} {f : ThreadFrame} {r : ThreadReply} {pos : Fin 17} {p : Nat}

/-- At boot step 3 and not yet running, discovery forgets what it found before and queries the yoke. -/
theorem threadDiscoveryEff_of_idle (step : s.atStep 3 = true) (free : s.id.disc = none) (idle : s.id.discRun = false) :
    threadDiscoveryEff s = (({ s with id := s.id.discStart } : State).wr R.threadStatus 0).discQuery 0 := by
  simp only [threadDiscoveryEff, step, free, idle, IdSt.discStart, Option.isSome_none, Bool.not_true, Bool.or_self,
    Bool.false_eq_true, if_false]

/-- A query that does not return is sent again at the end of its 100 µs (R27). -/
theorem threadFrameTimeoutEff_resends (out : s.id.disc = some f) (here : f.pos = pos.val) (more : f.attempts < 3) :
    (threadFrameTimeoutEff pos s).id.disc = some ⟨pos.val, f.attempts + 1, max s.tape (f.sentAt + 100000)⟩ := by
  simp only [threadFrameTimeoutEff, out, here, ne_eq, not_true_eq_false, if_false, more, if_true, State.advance]

/-- A query that returns with a bad CRC is sent again at once (R27). -/
theorem State.discReturn_resends (bad : r.crcOk = false) (more : f.attempts < 3) :
    (s.discReturn f r).id.disc = some ⟨r.pos.val, f.attempts + 1, s.tape⟩ := by
  simp only [State.discReturn, bad, more, Bool.not_false, Bool.true_and, decide_true, if_true, State.setF_tape]

/-- A frame of discovery at the position of the query outstanding is that query's. -/
theorem threadFrameReturnEff_of_disc (out : s.id.disc = some f) (here : f.pos = r.pos.val) :
    threadFrameReturnEff r s = s.discReturn f r := by
  simp only [threadFrameReturnEff, out, here, if_true]

/-- Outside discovery, a frame at the position of the Keeper's own answers it OK. -/
theorem threadFrameReturnEff_of_kprFrame (ended : s.id.disc = none) (out : s.id.kprFrame = some f)
    (here : f.pos = r.pos.val) : threadFrameReturnEff r s = s.threadAnswer false r.pos.val 0 := by
  simp only [threadFrameReturnEff, ended, out, here, beq_self_eq_true, if_true]

/-- An answer to the Keeper is logged and leaves it no frame outstanding. -/
theorem State.threadAnswer_keeper (pos st : Nat) : (s.threadAnswer false pos st).id.kprFrame = none ∧
    (s.threadAnswer false pos st).id.threadLog = s.id.threadLog ++ [(pos, st)] := ⟨rfl, rfl⟩

/-- After boot step 3 and with none outstanding, the Keeper's frame to the yoke or a saddle is sent at once. -/
theorem threadMgmtFrameEff_sends (step : 4 ≤ s.bootStep) (free : s.id.kprFrame = none) (die : panelAt pos.val = none) :
    threadMgmtFrameEff false pos s = { s with id.kprFrame := some ⟨pos.val, 1, s.tape⟩ } := by
  simp [threadMgmtFrameEff, free, die, step]

/-- Its frame to an excluded panel is answered ABSENT by the saddle (R31). -/
theorem threadMgmtFrameEff_of_excluded (step : 4 ≤ s.bootStep) (free : s.id.kprFrame = none)
    (panel : panelAt pos.val = some p) (gone : s.id.excluded.contains p = true) :
    threadMgmtFrameEff false pos s = s.threadAnswer false pos.val 1 := by
  have late : decide (s.bootStep < 4) = false := decide_eq_false (by omega)
  simp only [threadMgmtFrameEff, free, panel, gone, late, Option.isSome_none, Bool.true_or, Bool.or_self, Bool.false_eq_true,
    if_false, if_true]

end Thread

/-- Settles O9: each clause is one case of what a Thread command does. -/
theorem threadFrames : Obligations.ThreadFrames := by
  unfold Obligations.ThreadFrames
  refine ⟨fun s step free idle => ⟨_, rfl, ?_⟩, fun pos f s out here more => ⟨_, rfl, ?_⟩,
    fun r f s out here bad more => ⟨_, rfl, ?_⟩, fun r f s ended out here => ⟨_, rfl, ?_⟩,
    fun pos s step free die => ⟨_, rfl, ?_⟩, fun pos p s step free panel gone => ⟨_, rfl, ?_⟩⟩
  · rw [threadDiscoveryEff_of_idle step free idle]
    simp
  · exact threadFrameTimeoutEff_resends out here more
  · rw [threadFrameReturnEff_of_disc out here]
    exact State.discReturn_resends bad more
  · rw [threadFrameReturnEff_of_kprFrame ended out here]
    exact State.threadAnswer_keeper ..
  · rw [threadMgmtFrameEff_sends step free die]
  · rw [threadMgmtFrameEff_of_excluded step free panel gone]
    exact State.threadAnswer_keeper ..

end Sys2Proof.Machine
end

section
/-! PROOFS of the statements about time without a clock: the Tape (R46), brown-outs (R39), holdover (R48, R49), and the
answers that a request waits for (R174-R176, R208). -/

namespace Sys2Proof.Machine

/-! ### The Tape (R46) -/

/-- A command that does not end every state has to keep all of it, the Tape with it. -/
theorem keptBy_of_running {i : Instr} {s : State} (cold : ∀ a b c, i ≠ .coldReset a b c) (standby : i ≠ .vstbyLoss) :
    keptBy i s = s := by
  unfold keptBy
  split
  case h_1 => exact absurd rfl (cold _ _ _)
  case h_2 => exact absurd rfl standby
  case h_3 => rfl

/-- The state that a command answers keeps what the command has to keep. -/
theorem keeps_of_exec {i : Instr} {s t : State} (answer : exec i s = .next t) : Keeps (keptBy i s) t := by
  obtain ⟨u, answer', kept⟩ := exec_answersKeeping i s
  obtain rfl : u = t := Host.Outcome.next.inj (answer'.symm.trans answer)
  exact kept

/-- Settles O7: the Tape is part of what every command keeps of the state it is given. -/
theorem tapeNeverBack : Obligations.TapeNeverBack := by
  unfold Obligations.TapeNeverBack
  intro i s t answer cold standby
  have kept : Keeps (keptBy i s) t := keeps_of_exec answer
  rw [keptBy_of_running cold standby] at kept
  exact kept.tape

/-- A tick moves the Tape by one and touches registers alone. -/
theorem State.tick_regs (s : State) : ∃ r, s.tick = { s with tape := s.tape + 1, regs := r } := by
  obtain ⟨r, ticked⟩ := s.advance_regs (s.tape + 1)
  exact ⟨r, by rw [State.tick, ticked, max_eq_right (Nat.le_succ s.tape)]⟩

/-- Settles O2: with no command waiting a step is a tick. -/
theorem idleStepTicks : Obligations.IdleStepTicks := by
  unfold Obligations.IdleStepTicks
  intro s idle
  have ticks : step s = .next s.tick := by simp only [step, idle]
  obtain ⟨r, ticked⟩ := s.tick_regs
  exact ⟨r, by rw [ticks, ticked]⟩

/-! ### Brown-out (R39) -/

section BrownOut
variable {s : State} {p : Panel} {mv : BitVec 12}

/-- A hart's number names its panel (R114). -/
theorem hartId_num_div_panel (h : HartId) : h.num / 32 = h.panel.val := by
  have core := h.core.isLt
  simp only [HartId.num]
  omega

/-- No hart of a parked panel can issue. -/
theorem State.canIssue_of_parked {h : Nat} (parked : s.panelParked (h / 32) = true) : s.canIssue h = false := by
  simp [State.canIssue, parked]

/-- A rail below 585 mV parks an ON panel that is not parked yet. -/
theorem brownOutParkEff_parks (low : mv.toNat < 585) (on : s.panelState p.val = 0)
    (free : KMap.get 0 s.clk.parks p.val = 0) :
    brownOutParkEff p mv s = { s with clk.parks := KMap.set 0 p.val (s.tape + 1) s.clk.parks } :=
  if_pos ⟨low, on, free⟩

/-- A rail above 600 mV takes the panel's park away. -/
theorem brownOutResumeEff_resumes (high : 600 < mv.toNat) :
    brownOutResumeEff p mv s = { s with clk.parks := KMap.erase p.val s.clk.parks } :=
  if_pos high

/-- A panel whose park is listed is parked. -/
theorem State.panelParked_set (q n : Nat) :
    ({ s with clk.parks := KMap.set 0 q (n + 1) s.clk.parks } : State).panelParked q = true := by
  simp [State.panelParked, KMap.get_set]

/-- One without a park is parked with the whole package alone (R413, R472). -/
theorem State.panelParked_erase (q : Nat) :
    ({ s with clk.parks := KMap.erase q s.clk.parks } : State).panelParked q = s.thm.parkAll := by
  simp [State.panelParked, KMap.get_erase]

end BrownOut

/-- Settles O10: the one command lists a park and the other takes it off the list. -/
theorem brownOut : Obligations.BrownOut := by
  unfold Obligations.BrownOut
  refine ⟨fun p mv s low on free => ⟨brownOutParkEff p mv s, rfl, ?_⟩,
    fun p mv s high goes => ⟨brownOutResumeEff p mv s, rfl, ?_⟩⟩
  · rw [brownOutParkEff_parks low on free]
    have parked := s.panelParked_set p.val s.tape
    refine ⟨rfl, parked, fun h here => State.canIssue_of_parked ?_⟩
    rw [hartId_num_div_panel, here]
    exact parked
  · rw [brownOutResumeEff_resumes high]
    exact ⟨rfl, (s.panelParked_erase p.val).trans goes⟩

/-! ### Holdover (R48, R49) -/

section Holdover
variable {s : State} {pos : Fin 17}

/-- A counter that is not in holdover goes into it, is shown, and the loss is recorded. -/
theorem refclkLossEff_of_running (running : s.fbit R.tapeStatus F.tapeStatus_DIE_HOLD pos.val = false) :
    let u : State := { s with clk.relocked := s.clk.relocked.filter (· != pos.val) }
    refclkLossEff pos s = (((u.setFbit R.tapeStatus F.tapeStatus_DIE_HOLD pos.val true).showHoldover).setF
      R.tapeStatus F.tapeStatus_HOLDOVER_SEEN 1).err 16 1 4 (dieUnit pos.val) 0 0 (linkMisc 7 pos.val 0) :=
  if_neg (Bool.eq_false_iff.mp running)

/-- A replica that relocks in holdover is noted as slewing. -/
theorem refclkRelockEff_of_replica (held : s.fbit R.tapeStatus F.tapeStatus_DIE_HOLD pos.val = true)
    (replica : pos.val ≠ 0) (first : s.clk.relocked.contains pos.val = false) :
    refclkRelockEff pos s = { s with clk.relocked := pos.val :: s.clk.relocked } := by
  rw [refclkRelockEff, held, first, if_neg (by decide), if_neg replica, if_neg (by decide)]

/-- The master's holdover ends at its relock. -/
theorem refclkRelockEff_of_master (held : s.fbit R.tapeStatus F.tapeStatus_DIE_HOLD 0 = true) :
    refclkRelockEff 0 s = s.endHoldover 0 := by
  rw [refclkRelockEff, Fin.val_zero, held, if_neg (by decide), if_pos rfl]

/-- A slewing replica that is realigned ends its holdover. -/
theorem replicaRealignedEff_of_slewing (slews : s.clk.relocked.contains pos.val = true) :
    replicaRealignedEff pos s = s.endHoldover pos.val :=
  if_pos slews

end Holdover

/-- Settles O12: each clause is one branch of what the command does. -/
theorem holdover : Obligations.Holdover := by
  unfold Obligations.Holdover
  refine ⟨fun pos s running => congrArg _ (refclkLossEff_of_running running),
    fun pos s held replica first => ⟨refclkRelockEff pos s, rfl, ?_⟩,
    fun s held => congrArg _ (refclkRelockEff_of_master held),
    fun pos s slews => congrArg _ (replicaRealignedEff_of_slewing slews)⟩
  rw [refclkRelockEff_of_replica held replica first]
  exact ⟨rfl, rfl⟩

/-! ### Answers to a request (R174-R176, R208, R232) -/

section Answers
variable {s : State} {h line : Nat} {f : Pkt → Bool}

/-- A unit whose handshakes are not parked takes its answer. -/
theorem State.livePanel_of_running {p : Nat} {t : State} (run : s.panelParked p = false) : s.livePanel p t = t :=
  if_neg (Bool.eq_false_iff.mp run)

theorem State.live_of_running {t : State} (run : s.thm.parkAll = false) : s.live t = t :=
  if_neg (Bool.eq_false_iff.mp run)

/-- What a command does at a hart whose panel is not parked. -/
theorem State.next_livePeer_hart {who : HartId} {t u : State} (run : s.panelParked (who.num / 32) = false) (is : t = u) :
    (.next (s.livePeer (.hart who) t) : Host.Outcome State Fault Refusal) = .next u :=
  congrArg _ ((State.livePanel_of_running run).trans is)

/-! A packet that arrives leaves every request as it is. -/

@[simp] theorem State.ownAcc_arrive : (s.arrive f).ownAcc h line = s.ownAcc h line := rfl
@[simp] theorem State.lineReq_arrive : (s.arrive f).lineReq h line = s.lineReq h line := rfl
@[simp] theorem State.yokeReq_arrive (eye txid : Nat) : (s.arrive f).yokeReq eye txid = s.yokeReq eye txid := rfl
@[simp] theorem State.tx_arrive (k : Nat) : (s.arrive f).tx k line = s.tx k line := rfl

/-- The packets of a command code that answer a hart at its port for a line. -/
def isLineAnswer (op : BitVec 8) (h line : Nat) : Pkt → Bool := fun p =>
  p.op == op && lineOf p.pa == line && p.dst == BitVec.ofNat 8 (portEyelet (portOf h line)) && p.txid.toNat / 128 == h % 32

section Line
variable {pa : Addr} {st : LState} {r : Resp} {alone : Bool} {q : L2Req}

/-- A GRANT of OK is noted in the line request, which is installed if its data is in. -/
theorem State.grantAtHart_ok (own : s.ownAcc h (lineOf pa) = none) (req : s.lineReq h (lineOf pa) = some q) :
    s.grantAtHart h pa st .ok alone = (((s.arrive (isLineAnswer 0x20 h (lineOf pa))).updReq h (lineOf pa) fun q =>
      { q with grant := some st }).tryInstall h { q with grant := some st }) := by
  unfold isLineAnswer
  simp only [State.grantAtHart, State.ownAcc_arrive, State.lineReq_arrive, own, req, ne_eq, not_true_eq_false, if_false]

/-- A GRANT with another response ends the line request. -/
theorem State.grantAtHart_fails (own : s.ownAcc h (lineOf pa) = none) (req : s.lineReq h (lineOf pa) = some q)
    (bad : r ≠ .ok) :
    s.grantAtHart h pa st r alone = ((s.arrive (isLineAnswer 0x20 h (lineOf pa))).failReq h (lineOf pa) r).pump h := by
  unfold isLineAnswer
  simp only [State.grantAtHart, State.ownAcc_arrive, State.lineReq_arrive, own, req, if_pos bad]

/-- UPG_FAIL: the upgrade is sent again as an RD_O (R175). -/
theorem State.upgFailAt_of_upgrade (req : s.lineReq h line = some q) (upgrade : q.op = 0x04) :
    let u := ((s.arrive fun p => p.op == 0x24 && lineOf p.pa == line).sendComp h line q.txid).updReq h line
      fun q => { q with op := 0x03 }
    s.upgFailAt h line = u.send (u.reqPkt h 0x03 line q.txid q.commit q.stream) := by
  simp only [State.upgFailAt, State.lineReq_arrive, req, upgrade, ne_eq, not_true_eq_false, if_false]

/-- NODATA: the request leaves, and the hart goes on unless a speculative access still needs the line. -/
theorem State.nodataAt_of_lineReq (req : s.lineReq h line = some q) :
    let u := ((s.arrive fun p => p.op == 0x25 && lineOf p.pa == line).sendComp h line q.txid).updHart h
      fun x => { x with reqs := x.reqs.filter fun p => p.txid != q.txid }
    s.nodataAt h line = if (u.hart h).acc.any fun e => e.spec && (accLines e).contains line then u else u.pump h := by
  simp only [State.nodataAt, State.lineReq_arrive, req]

end Line

/-- A GRANT of OK ends a request of the yoke that waits for no data. -/
theorem grantEff_yoke_of_dataless {eye : BitVec 8} {txid : BitVec 12} {y : YReq} (pa : Addr) (st : LState) (alone : Bool)
    (req : s.yokeReq eye.toNat txid.toNat = some y) (dataless : y.needData = false) :
    grantEff (.yoke eye txid) pa st .ok alone s =
      ((s.arrive fun p => p.op == 0x20 && p.dst == eye && p.txid == txid).yokeComp y).yokeDone y .ok 0 0 := by
  simp only [grantEff, State.yokeReq_arrive, req, dataless, ne_eq, not_true_eq_false, if_false, Bool.not_false, if_true]

/-- DATA with a bad CRC is dropped at a hart, with a PROTOCOL record (R232). -/
theorem State.dataAtHart_badCrc (pa : Addr) (st : LState) (d : LineData) (po : BitVec 4) (r : Resp) (err : CacheErr) :
    s.dataAtHart h pa st d po r err false = (s.arrive (isLineAnswer 0x30 h (lineOf pa))).err (h / 32) 1 5
      (unitCode 0x09 (h / 32)) 0 0 (protoMisc 3 0xFF) := by
  unfold isLineAnswer
  simp only [State.dataAtHart, Bool.not_false, if_true]

/-- A holder's DATA becomes the data of the transaction open for the line. -/
theorem State.dataAtHome_of_tx {k : Nat} {d : LineData} {po : BitVec 4} {t : Tx} (opened : s.tx k line = some t) :
    s.dataAtHome k line d po = (((s.arrive fun p => p.op == 0x30 && lineOf p.pa == line).updTx k line fun t =>
      { t with homeData := some (d, po) }).tryComplete k line).homeGo k := by
  simp only [State.dataAtHome, State.report, State.tx_arrive, opened]

section Io
variable {i : IoAcc} {v : BitVec 128} {r : Resp}

/-- IO_ACK of OK: the store it answers leaves the queue. -/
theorem State.ioAckAt_ok (answered : s.ioAnswered h 0x26 false = some i) :
    s.ioAckAt h .ok = ((s.arriveIo h 0x26).updHart h fun x => { x with
      io := (((s.arriveIo h 0x26).hart h).io.erase i).filter fun j => !windowEnds i .ok j }).pump h := by
  simp only [State.ioAckAt, answered, beq_self_eq_true, if_true]

/-- IO_DATA of OK: the load it answers leaves the queue and its register is written. -/
theorem State.ioDataAt_ok (answered : s.ioAnswered h 0x34 true = some i) :
    s.ioDataAt h v .ok = (((((s.arriveIo h 0x34).updHart h fun x => { x with
      io := x.io.erase i
      w := x.w.setResult (i.func.isSome && i.size == 16) i.rd i.size i.func.isSome v.toNat }).updHart h fun x =>
        x.shareResult i.issued (i.func.isSome && i.size == 16) i.rd i.size).pump h).pollInt h) := by
  simp only [State.ioDataAt, answered, ne_eq, not_true_eq_false, if_false]

/-- An answer to nothing is counted late (R51). -/
theorem State.ioAckAt_late (ended : s.ioAnswered h 0x26 false = none) :
    s.ioAckAt h r = (s.arriveIo h 0x26).lateAnswer (h / 32) := by
  simp only [State.ioAckAt, ended]

theorem State.ioDataAt_late (ended : s.ioAnswered h 0x34 true = none) :
    s.ioDataAt h v r = (s.arriveIo h 0x34).lateAnswer (h / 32) := by
  simp only [State.ioDataAt, ended]

end Io

end Answers

/-- Settles O31: each clause is one case of what an answer does where it is awaited. -/
theorem replies : Obligations.Replies := by
  unfold Obligations.Replies
  refine ⟨fun h pa st alone q s run => ?_, fun eye txid pa st alone y s req dataless => ?_,
    fun h pa st d po r err s run => ?_, fun h pa st d po r err t s run opened => ?_,
    fun c pa q s run req upgrade => ?_, fun c pa q s run req => ?_, fun h i s run answered => ?_,
    fun h i v s run answered => ?_, fun h v r s run => ⟨fun ended => ?_, fun ended => ?_⟩⟩
  · intro u own req
    exact ⟨State.next_livePeer_hart run (State.grantAtHart_ok own req),
      fun r bad => State.next_livePeer_hart run (State.grantAtHart_fails own req bad)⟩
  · intro u
    exact congrArg Host.Outcome.next (grantEff_yoke_of_dataless pa st alone req dataless)
  · exact State.next_livePeer_hart run (State.dataAtHart_badCrc pa st d po r err)
  · exact congrArg Host.Outcome.next ((State.live_of_running run).trans (State.dataAtHome_of_tx opened))
  · intro u
    exact congrArg Host.Outcome.next ((State.livePanel_of_running run).trans (State.upgFailAt_of_upgrade req upgrade))
  · intro u
    exact congrArg Host.Outcome.next ((State.livePanel_of_running run).trans (State.nodataAt_of_lineReq req))
  · exact State.next_livePeer_hart run (State.ioAckAt_ok answered)
  · intro u
    exact State.next_livePeer_hart run (State.ioDataAt_ok answered)
  · exact State.next_livePeer_hart run (State.ioDataAt_late ended)
  · exact State.next_livePeer_hart run (State.ioAckAt_late ended)

end Sys2Proof.Machine
end

section
/-! PROOFS of the statements about the pattern (R62-R81). -/

namespace Sys2Proof.Machine

/-! ### What leaves KPR.PATTERN_STATUS as it is

Unit counters, error records, packets on their way and doors have registers of their own. -/

section PatternStatus
variable (s : State)

/-- A read of a register looks at the registers alone. -/
theorem State.rd_of_regs {s t : State} (same : t.regs = s.regs) (q : Reg) : t.rd q = s.rd q := by
  rw [State.rd, State.rd, same]

theorem State.rd_incF_ne {r q : Reg} (f : FieldDesc) (k : Nat) (h : q.addr ≠ r.addr) : (s.incF r f k).rd q = s.rd q :=
  s.rd_setF_ne _ _ h

theorem State.rd_errSeq (m : KMap Nat) (q : Reg) : ({ s with errSeq := m } : State).rd q = s.rd q := rfl

/-! Where the registers lie: PATTERN_STATUS is at 0xD000200. -/

theorem patStatus_ne_uctr (u i : Nat) : R.patStatus.addr ≠ (R.uctr u i).addr := by
  simp only [R.patStatus, R.uctr, uctrBase]
  split <;> omega

theorem patStatus_ne_awl (n k : Nat) (k0 : 0 < k) (k1 : k < 0x100) : R.patStatus.addr ≠ awlBase n + k := by
  simp only [R.patStatus, awlBase]
  split_ifs <;> omega

/-- The blocks that hold error banks are of 64 KiB, and PATTERN_STATUS lies below the banks' place in such a block. -/
theorem patStatus_ne_bank (b k : Nat) (k0 : 0x800 ≤ k) (k1 : k < 0x10000) : R.patStatus.addr ≠ bankBase b + k := by
  simp only [R.patStatus, bankBase]
  split_ifs <;> omega

theorem patStatus_ne_errStatus (b : Nat) : R.patStatus.addr ≠ (R.errStatus b).addr :=
  patStatus_ne_bank b 0x900 (by omega) (by omega)

theorem patStatus_ne_errRec (b : Nat) {i : Nat} (slot : i < 8) :
    R.patStatus.addr ≠ (R.errRec0 b i).addr ∧ R.patStatus.addr ≠ (R.errRec1 b i).addr ∧
    R.patStatus.addr ≠ (R.errRec2 b i).addr ∧ R.patStatus.addr ≠ (R.errRec3 b i).addr := by
  have apart (k : Nat) (h : k < 0x20) : R.patStatus.addr ≠ bankBase b + (0x800 + k) + 0x20 * i := by
    rw [Nat.add_assoc]
    exact patStatus_ne_bank b _ (by omega) (by omega)
  exact ⟨apart 0 (by omega), apart 0x8 (by omega), apart 0x10 (by omega), apart 0x18 (by omega)⟩

theorem patStatus_ne_errPending {i : Nat} (h : i < 2) : R.patStatus.addr ≠ (R.errPending i).addr := by
  simp only [R.patStatus, R.errPending]
  omega

theorem patStatus_ne_weltLog (i j : Nat) : R.patStatus.addr ≠ (R.weltLogPtr i).addr ∧
    R.patStatus.addr ≠ (R.weltLogA i j).addr ∧ R.patStatus.addr ≠ (R.weltLogT i j).addr ∧
    R.patStatus.addr ≠ (R.weltLogM i j).addr := by
  simp only [R.patStatus, R.weltLogPtr, R.weltLogA, R.weltLogT, R.weltLogM]
  omega

theorem patStatus_ne_door (w : Nat) :
    R.patStatus.addr ≠ (R.doorPtr w).addr ∧ R.patStatus.addr ≠ (R.doorCtl w).addr := by
  simp only [R.patStatus, R.doorPtr, R.doorCtl]
  omega

/-! Interrupt sources and signals. -/

theorem State.aplicForward_regs (d n : Nat) : (s.aplicForward d n).regs = s.regs := by
  simp only [State.aplicForward, State.sendMsi]
  split_ifs <;> rfl

theorem State.setSource_regs (n : Nat) (b : Bool) : (s.setSource n b).regs = s.regs := by
  simp only [State.setSource]
  split_ifs
  all_goals simp only [State.aplicForward_regs, State.aplicWr]

theorem State.signalFatal_regs (b : Nat) : (s.signalFatal b).regs = s.regs := by
  simp only [State.signalFatal, State.svcMsix]
  split_ifs <;> rfl

/-- Events of a unit are counted in its own counters. -/
theorem State.uev_patStatus (u code src p n : Nat) : (s.uev u code src p n).rd R.patStatus = s.rd R.patStatus := by
  unfold State.uev
  split
  · rfl
  · refine List.foldlRecOn (motive := fun t : State => t.rd R.patStatus = s.rd R.patStatus) _ _ rfl fun t same i _ => ?_
    split
    · exact (t.rd_wr_ne _ (patStatus_ne_uctr u i)).trans same
    · exact same

/-! Error records (R439-R444). -/

/-- A bank has eight slots. -/
theorem State.recSlot_lt {b sev i : Nat} {repl : Bool} (slot : s.recSlot b sev = some (i, repl)) : i < 8 := by
  unfold State.recSlot at slot
  split at slot
  · next j found =>
    obtain ⟨rfl, -⟩ : j = i ∧ false = repl := by simpa using slot
    exact List.mem_range.mp (List.mem_of_find?_eq_some found)
  · obtain ⟨oldest, -⟩ : _ ∧ true = repl := by simpa using slot
    refine List.foldlRecOn (motive := fun o : Option Nat => ∀ k, o = some k → k < 8) _ _ (by simp)
      (fun o below j mem k isK => ?_) i oldest
    have jlt : j < 8 := List.mem_range.mp (List.mem_filter.mp mem).1
    split at isK
    · exact Option.some.inj isK ▸ jlt
    · split at isK
      · exact Option.some.inj isK ▸ jlt
      · exact below k isK

theorem State.putRecord_patStatus (r : Rec) : (s.putRecord r).rd R.patStatus = s.rd R.patStatus := by
  unfold State.putRecord
  split
  · exact s.rd_incF_ne _ _ (patStatus_ne_errStatus r.bank)
  · next i repl slot =>
    obtain ⟨rec0, rec1, rec2, rec3⟩ := patStatus_ne_errRec r.bank (s.recSlot_lt slot)
    rw [State.rd_errSeq, State.rd_wr_ne _ _ rec3, State.rd_wr_ne _ _ rec2, State.rd_wr_ne _ _ rec1, State.rd_wr_ne _ _ rec0]

theorem State.countCe_patStatus (r : Rec) : (s.countCe r).rd R.patStatus = s.rd R.patStatus := by
  have apart := patStatus_ne_errStatus r.bank
  have counted := s.rd_incF_ne F.errStatus_CE_COUNT 1 apart
  simp only [State.countCe]
  split_ifs
  · exact (State.rd_setF_ne _ _ _ apart).trans counted
  · exact counted
  · rfl

theorem State.refreshBank_patStatus {b : Nat} (bank : b < 128) :
    (s.refreshBank b).rd R.patStatus = s.rd R.patStatus := by
  simp only [State.refreshBank, State.setFbit]
  rw [State.rd_of_regs (State.setSource_regs ..), State.rd_setF_ne _ _ _ (patStatus_ne_errPending (by omega)),
    State.rd_setF_ne _ _ _ (patStatus_ne_errStatus b)]

/-- An error is recorded in its bank and signalled. -/
theorem State.err_patStatus {b : Nat} (bank : b < 128) (sev kind unit akind addr misc : Nat) :
    (s.err b sev kind unit akind addr misc).rd R.patStatus = s.rd R.patStatus := by
  simp only [State.err, State.record]
  rw [State.refreshBank_patStatus _ bank]
  split_ifs
  · rw [State.rd_of_regs (State.signalFatal_regs ..), State.countCe_patStatus, State.putRecord_patStatus]
  · rw [State.countCe_patStatus, State.putRecord_patStatus]

/-! Packets on their way (R232, R241, R259-R264). -/

theorem State.awlTrace_patStatus (w : AwlPass) (p : Pkt) (count : Nat) :
    (s.awlTrace w p count).rd R.patStatus = s.rd R.patStatus := by
  have ptr (v : Word) : (s.wr (R.awlTracePtr w.awl) v).rd R.patStatus = s.rd R.patStatus :=
    s.rd_wr_ne _ (patStatus_ne_awl w.awl 0x38 (by omega) (by omega))
  simp only [State.awlTrace]
  split_ifs
  · rfl
  · exact s.rd_setF_ne _ _ (patStatus_ne_awl w.awl 0x18 (by omega) (by omega))
  all_goals exact ptr _

theorem State.awlSee_patStatus (p : Pkt) : (s.awlSee p).rd R.patStatus = s.rd R.patStatus := by
  unfold State.awlSee
  refine List.foldlRecOn (motive := fun t : State => t.rd R.patStatus = s.rd R.patStatus) _ _ rfl fun t same w _ => ?_
  split
  · exact (State.awlTrace_patStatus ..).trans <|
      (t.rd_wr_ne _ (patStatus_ne_awl w.awl 0x20 (by omega) (by omega))).trans same
  · exact same

/-- A packet that leaves its source is seen by the Awls, held, or recorded. -/
theorem State.send_patStatus (p : Pkt) : (s.send p).rd R.patStatus = s.rd R.patStatus := by
  simp only [State.send]
  split_ifs
  · exact s.err_patStatus (by omega) ..
  · exact s.err_patStatus (by omega) ..
  · rfl
  · rfl
  · exact s.awlSee_patStatus p

theorem State.yokeSend_patStatus (r : YReq) : (s.yokeSend r).rd R.patStatus = s.rd R.patStatus :=
  (State.send_patStatus ..).trans rfl

/-! Violations (R335) and doors (R347, R348). -/

theorem State.weltLog_patStatus (sd src pa p op reason txid : Nat) :
    (s.weltLog sd src pa p op reason txid).rd R.patStatus = s.rd R.patStatus := by
  obtain ⟨ptr, a, t, m⟩ := patStatus_ne_weltLog sd (s.fld (R.weltLogPtr sd) F.weltLogPtr_TAIL)
  simp only [State.weltLog]
  split_ifs
  · exact s.rd_incF_ne _ _ ptr
  all_goals rw [State.rd_setF_ne _ _ _ ptr, State.rd_wr_ne _ _ m, State.rd_wr_ne _ _ t, State.rd_wr_ne _ _ a]

theorem State.violation_patStatus (sd src pa p op reason txid : Nat) :
    (s.violation sd src pa p op reason txid).rd R.patStatus = s.rd R.patStatus := by
  have logged := s.weltLog_patStatus sd src pa p op reason txid
  simp only [State.violation]
  split_ifs
  · exact (State.rd_of_regs (State.setSource_regs ..) _).trans logged
  · exact logged

theorem State.haltDoor_patStatus (w : Nat) : (s.haltDoor w).rd R.patStatus = s.rd R.patStatus :=
  s.rd_setF_ne _ _ (patStatus_ne_door w).2

theorem State.doorPump_patStatus (w : Nat) : (s.doorPump w).rd R.patStatus = s.rd R.patStatus := by
  unfold State.doorPump
  split
  · rfl
  · split
    · rfl
    · dsimp only
      split
      · exact State.yokeSend_patStatus ..
      · exact (State.haltDoor_patStatus ..).trans (State.violation_patStatus ..)
      · exact State.haltDoor_patStatus ..

theorem State.doorPost_patStatus (e : DoorEnt) : (s.doorPost e).rd R.patStatus = s.rd R.patStatus :=
  (State.doorPump_patStatus ..).trans rfl

end PatternStatus

/-! ### Door requests that the Keeper takes (R348, R351) -/

/-- The state in which a door's request is served: its ring has moved on and the Keeper has counted it. -/
def State.doorTaken (s : State) (w : Nat) : State :=
  (s.setF (R.doorPtr w) F.doorPtr_REQ_HEAD ((s.fld (R.doorPtr w) F.doorPtr_REQ_HEAD + 1) % 64)).uev 4 0x130 0 w

section Door
variable {s : State} {d : DoorHdr}

/-- An alteration is asked for in Fitting mode too. -/
theorem State.doorTake_alter {f : State → State} (ready : s.doorReady d.world.toNat = true)
    (pass : s.welt false d.world.toNat (s.fld (R.doorCtl d.world.toNat) F.doorCtl_BASE * 4096 +
      64 * s.fld (R.doorPtr d.world.toNat) F.doorPtr_REQ_HEAD) false = .pass) :
    s.doorTake d 0x10 f = f (s.doorTaken d.world.toNat) := by
  simp [State.doorTake, State.doorTaken, ready, pass]

/-- A refused request (R351) is recorded as UCNA, and answered VIOL. -/
theorem State.doorViol_eq (s : State) (d : DoorHdr) (code : Nat) :
    s.doorViol d code = (s.err 18 1 2 (bankUnit 18) 0 0 (violMisc d.world.toNat 0 0xCA 0x1FF 0x7FFF)).doorPost
      { world := d.world.toNat, code := code, status := 2, reason := 0, seq := d.seq.toNat, peer := 0, args := [] } := rfl

theorem State.doorTaken_patStatus (w : Nat) : (s.doorTaken w).rd R.patStatus = s.rd R.patStatus :=
  (State.uev_patStatus ..).trans (s.rd_setF_ne _ _ (patStatus_ne_door w).1)

theorem State.doorViol_patStatus (code : Nat) : (s.doorViol d code).rd R.patStatus = s.rd R.patStatus := by
  rw [State.doorViol_eq, State.doorPost_patStatus, State.err_patStatus _ (by omega)]

/-- Any pocket but the host world is refused its alteration (R78). -/
theorem doorAlterEff_of_pocket {pa : Addr} {len : BitVec 32} (pocket : d.world ≠ 0)
    (ready : s.doorReady d.world.toNat = true)
    (pass : s.welt false d.world.toNat (s.fld (R.doorCtl d.world.toNat) F.doorCtl_BASE * 4096 +
      64 * s.fld (R.doorPtr d.world.toNat) F.doorPtr_REQ_HEAD) false = .pass) :
    doorAlterEff d pa len s = (s.doorTaken d.world.toNat).doorViol d 0x10 := by
  rw [doorAlterEff, State.doorTake_alter ready pass, if_pos pocket]

end Door

/-- Settles O19: the request is refused as R351 refuses one, and neither its taking nor the refusal writes
PATTERN_STATUS. -/
theorem doorAlter : Obligations.DoorAlter := by
  unfold Obligations.DoorAlter
  intro d pa len s pocket ready pass
  have refused := doorAlterEff_of_pocket (pa := pa) (len := len) pocket ready pass
  refine ⟨s.doorTaken d.world.toNat, _, 1, congrArg Host.Outcome.next refused, rfl, State.doorViol_eq .., ?_⟩
  rw [State.doorViol_patStatus, State.doorTaken_patStatus]

end Sys2Proof.Machine
end

section
/-! PROOFS of the statements about a hart's instructions: atomics (R86, R100, R101, R134, R183), fences (R202), cache blocks
and prefetches (R99, R150, R151), waits (R91, R92), speculation and SLEEP (R93, R98, R398), custom CSRs and mkdoor
(R103-R112). -/

namespace Sys2Proof.Machine

/-! ### A command of a hart -/

section Issue
variable {s t u : State} {h : HartId} {f g : State → State}

/-- With no halt request before it, the command of a hart that can issue takes effect after the stitch it issues in. -/
theorem State.onHart_of_issuing (can : s.canIssue h.num = true) (goes : (s.hart h.num).haltReq = false) :
    s.onHart h f = (f (s.issue h.num)).stepped h.num := by
  simp only [State.onHart, can, goes, if_true, Bool.false_and, Bool.false_eq_true, if_false]

theorem State.next_onHart (can : s.canIssue h.num = true) (goes : (s.hart h.num).haltReq = false)
    (is : f (s.issue h.num) = t) :
    (.next (s.onHart h f) : Host.Outcome State Fault Refusal) = .next (t.stepped h.num) := by
  rw [State.onHart_of_issuing can goes, is]

/-- A command that run-ahead would skip or change is carried out at a hart that is not in run-ahead (R93). -/
theorem State.next_onHart_run (can : s.canIssue h.num = true) (goes : (s.hart h.num).haltReq = false)
    (run : (s.issue h.num).inRunAhead h.num = false) (is : f (s.issue h.num) = t) :
    (.next (s.onHart h fun s => if s.inRunAhead h.num then g s else f s) : Host.Outcome State Fault Refusal) =
      .next (t.stepped h.num) :=
  State.next_onHart can goes ((if_neg (Bool.eq_false_iff.mp run)).trans is)

/-- A read prefetch does what it asks for, and then retires unless it is run-ahead that carries it out (R93, R94). -/
theorem State.next_prefetch (can : s.canIssue h.num = true) (goes : (s.hart h.num).haltReq = false)
    (asks : f (s.issue h.num) = t) :
    (.next (s.onHart h fun s => if (f s).inRunAhead h.num then f s else (f s).retire h.num) :
        Host.Outcome State Fault Refusal) =
      .next ((if t.inRunAhead h.num then t else t.retire h.num).stepped h.num) :=
  State.next_onHart can goes (by rw [asks])

/-- An event of a unit whose handshakes are not parked happens (R39). -/
theorem State.next_livePanel {p : Nat} (live : s.panelParked p = false) (is : u = t) :
    (.next (s.livePanel p u) : Host.Outcome State Fault Refusal) = .next t :=
  congrArg _ ((State.livePanel_of_running live).trans is)

end Issue

/-! ### Atomics (R86, R88, R100, R101, R134, R183, R184) -/

section Atomics
variable {s : State} {h : HartId} {i : Instr} {func rd size : Nat} {pair : Bool} {r : Fin 32} {pa : Addr} {z : Size}
  {m : Pbmt} {op cmp : BitVec 128} {v : Word} {aq rl : Bool}

section Amo
variable (run : s.inRunAhead h.num = false) (free : (s.hart h.num).fenceHolds 3 = false)
include run free

/-- An AMO that crosses a 16-byte boundary is misaligned (R88). -/
theorem State.amoBody_of_crossing (wide : 16 < pa.toNat % 16 + size) :
    s.amoBody h i func rd pair pa size m op cmp aq rl =
      s.trap h.num causeStoreMisaligned (BitVec.ofNat 64 pa.toNat) := by
  simp only [State.amoBody, run, free, wide, Bool.false_eq_true, if_false, if_true, State.faultAt]

variable (fits : pa.toNat % 16 + size ≤ 16)
include fits

/-- An AMO of main memory becomes an access of the home or of the hart's own L2 (R183, R184). -/
theorem State.amoBody_of_memory (memory : routeOf pa.toNat m = .cached ∨ routeOf pa.toNat m = .nc) :
    s.amoBody h i func rd pair pa size m op cmp aq rl =
      ((((if s.amoFar h.num pa.toNat m then s else s.tagCheck h.num (pa.toNat / 64)).addAcc h.num
        { kind := .amo, id := 0, pa := pa, size := size, rd := rd, pair := pair, val := op, cmp := cmp, func := func,
          m := m, op := 0x05, own := s.amoFar h.num pa.toNat m, aq := aq, rl := rl }).retire h.num).pump h.num) := by
  have within : ¬ pa.toNat % 16 + size > 16 := by omega
  rcases memory with route | route
  all_goals simp only [State.amoBody, run, free, within, route, Bool.false_eq_true, if_false]

/-- An AMO of the Harness window that the Harness carries joins the I/O-type accesses (R86). -/
theorem State.amoBody_of_window (route : routeOf pa.toNat m = .window) (carried : windowAmo size func = true)
    (aligned : pa.toNat % size = 0) :
    s.amoBody h i func rd pair pa size m op cmp aq rl =
      (((s.addIo h.num
        { isLoad := true, dst := 0xC9, pa := pa, size := size, rd := rd, val := op, cmp := cmp, func := some func,
          t := s.timer (h.num / 32) 5, window := true }).retire h.num).pump h.num) := by
  have within : ¬ pa.toNat % 16 + size > 16 := by omega
  simp only [State.amoBody, run, free, within, route, carried, aligned, beq_self_eq_true, Bool.and_self,
    Bool.false_eq_true, if_false, if_true]

/-- Every other AMO takes the access exception (R86). -/
theorem State.amoBody_of_refused (refused : routeOf pa.toNat m = .io ∨ routeOf pa.toNat m = .hole ∨
      (routeOf pa.toNat m = .window ∧ (windowAmo size func = false ∨ pa.toNat % size ≠ 0))) :
    s.amoBody h i func rd pair pa size m op cmp aq rl = s.trap h.num causeStoreAccess (BitVec.ofNat 64 pa.toNat) := by
  have within : ¬ pa.toNat % 16 + size > 16 := by omega
  rcases refused with route | route | ⟨route, bad⟩
  case inr.inr =>
    have refuses : ¬ (windowAmo size func && pa.toNat % size == 0) = true := by
      rw [Bool.and_eq_true, beq_iff_eq]
      rintro ⟨carried, aligned⟩
      exact bad.elim (fun no => Bool.eq_false_iff.mp no carried) (· aligned)
    simp only [State.amoBody, run, free, within, route, Bool.false_eq_true, if_false, refuses, State.faultAt]
  all_goals simp only [State.amoBody, run, free, within, route, Bool.false_eq_true, if_false, State.faultAt]

end Amo

/-- AMOCAS_Q of even registers that are ready and an aligned address is an AMO of 16 bytes on register pairs (R134). -/
theorem amocasQEff_of_ready {rd rs2 : Fin 32}
    (ready : [rd.val, rd.val + 1, rs2.val, rs2.val + 1].any (s.hart h.num).busyRegs.contains = false)
    (rdEven : rd.val % 2 = 0) (rs2Even : rs2.val % 2 = 0) (aligned : pa.toNat % 16 = 0) :
    amocasQEff h rd rs2 pa m aq rl s = s.onHart h fun s =>
      s.amoBody h (.amocasQ h rd rs2 pa m aq rl) 9 rd.val true pa 16 m ((s.hart h.num).w.pairVal rs2.val)
        ((s.hart h.num).w.pairVal rd.val) aq rl := by
  simp only [amocasQEff, ready, rdEven, rs2Even, aligned, Bool.false_eq_true, if_false, zero_ne_one, or_self, ne_eq,
    not_true_eq_false]

/-! LR and SC of four or eight bytes within 16 (R88, R100, R101). -/

section LrSc
variable (run : s.inRunAhead h.num = false) (word : z = .b4 ∨ z = .b8) (fits : pa.toNat % 16 + z.bytes ≤ 16)
include run word fits

/-- An LR of cacheable memory becomes an access of the hart's L2 (R100). -/
theorem State.lrBody_of_cached (free : (s.hart h.num).fenceHolds 2 = false) (route : routeOf pa.toNat m = .cached) :
    s.lrBody h r pa z m aq rl = ((((s.tagCheck h.num (pa.toNat / 64)).addAcc h.num
      { kind := .lr, id := 0, pa := pa, size := z.bytes, rd := r.val, aq := aq, rl := rl }).retire h.num).pump h.num) := by
  have sized : ¬ (z ≠ .b4 ∧ z ≠ .b8) := fun ⟨n4, n8⟩ => word.elim n4 n8
  have within : ¬ pa.toNat % 16 + z.bytes > 16 := by omega
  simp only [State.lrBody, run, free, sized, within, route, Bool.false_eq_true, if_false]

variable (free : (s.hart h.num).fenceHolds 1 = false)
include free

/-- So does an SC. -/
theorem State.scBody_of_cached (route : routeOf pa.toNat m = .cached) :
    s.scBody h r pa z m v aq rl = (((s.addAcc h.num
      { kind := .sc, id := 0, pa := pa, size := z.bytes, rd := r.val, val := v.setWidth 128, aq := aq,
        rl := rl }).retire h.num).pump h.num) := by
  have sized : ¬ (z ≠ .b4 ∧ z ≠ .b8) := fun ⟨n4, n8⟩ => word.elim n4 n8
  have within : ¬ pa.toNat % 16 + z.bytes > 16 := by omega
  simp only [State.scBody, run, free, sized, within, route, Bool.false_eq_true, if_false]

/-- An SC of non-coherent memory without the home's reservation of its line fails at the hart (R101). -/
theorem State.scBody_of_lost (route : routeOf pa.toNat m = .nc) (lost : (s.hart h.num).resv ≠ some ⟨pa.toNat / 64, true⟩) :
    s.scBody h r pa z m v aq rl =
      (((s.updHart h.num fun x => { x with resv := none }).setX h.num r.val 1).retire h.num) := by
  have sized : ¬ (z ≠ .b4 ∧ z ≠ .b8) := fun ⟨n4, n8⟩ => word.elim n4 n8
  have within : ¬ pa.toNat % 16 + z.bytes > 16 := by omega
  have fails : ((s.hart h.num).resv == some ⟨pa.toNat / 64, true⟩) = false := beq_false_of_ne lost
  simp only [State.scBody, run, free, sized, within, route, fails, Bool.false_eq_true, if_false]

end LrSc
end Atomics

/-- Settles O21: past run-ahead and the fences that wait, each clause is one route of the access. -/
theorem atomics : Obligations.Atomics := by
  unfold Obligations.Atomics
  refine ⟨fun h f rd pa size m op cmp aq rl s can goes narrow run free fits => ?_,
    fun h f rd pa size m op cmp aq rl s can goes => ⟨fun quad => ?_, fun narrow run free wide => ?_⟩,
    fun h rd rs2 pa m aq rl s can goes ready rdEven rs2Even aligned run free route => ?_,
    fun h rd pa size m aq rl s can goes word run free fits route => ?_,
    fun h rd pa size m v aq rl s can goes word run free fits => ⟨fun route => ?_, fun route lost => ?_⟩⟩
  · intro n u r
    have issues {t : State} (is : u.amoBody h (.amo h f rd pa size m op cmp aq rl) f.code rd.val false pa size.bytes m op
        cmp aq rl = t) : exec (.amo h f rd pa size m op cmp aq rl) s = .next (t.stepped n) :=
      State.next_onHart can goes ((if_neg narrow).trans is)
    exact ⟨fun memory => issues (State.amoBody_of_memory run free fits memory),
      fun route carried aligned => issues (State.amoBody_of_window run free fits route carried aligned),
      fun refused => issues (State.amoBody_of_refused run free fits refused)⟩
  · exact State.next_onHart can goes (if_pos quad)
  · exact State.next_onHart can goes ((if_neg narrow).trans (State.amoBody_of_crossing run free wide))
  · exact (congrArg Host.Outcome.next (amocasQEff_of_ready ready rdEven rs2Even aligned)).trans
      (State.next_onHart can goes (State.amoBody_of_memory run free (by omega) (.inl route)))
  · exact State.next_onHart can goes (State.lrBody_of_cached run word fits free route)
  · exact State.next_onHart can goes (State.scBody_of_cached run word fits free route)
  · exact State.next_onHart can goes (State.scBody_of_lost run word fits free route lost)

/-! ### Fences, cache blocks and prefetches (R99, R138, R150, R151, R202) -/

section Fences
variable {s : State} {h : HartId} {pa : Addr} {m : Pbmt} (run : s.inRunAhead h.num = false)
include run

/-- FENCE with fm 1000 and the sets RW, RW is fence.tso. -/
theorem State.fenceBody_tso : s.fenceBody h 8 3 3 = s.addFence h.num [(2, 3), (1, 1)] := by
  simp only [State.fenceBody, run, Bool.false_eq_true, if_false, and_self, if_true]

/-- Any other fence orders nothing where a set is empty. -/
theorem State.fenceBody_of_empty {fm pred succ : BitVec 4} (empty : pred = 0 ∨ succ = 0) :
    s.fenceBody h fm pred succ = s.retire h.num := by
  have plain : ¬ (fm = 8 ∧ pred = 3 ∧ succ = 3) := by
    rintro ⟨-, rfl, rfl⟩
    exact absurd empty (by decide)
  simp only [State.fenceBody, run, plain, empty, Bool.false_eq_true, if_false, if_true]

/-- With two sets it orders the one before the other. -/
theorem State.fenceBody_of_sets {fm pred succ : BitVec 4} (plain : ¬ (fm = 8 ∧ pred = 3 ∧ succ = 3)) (before : pred ≠ 0)
    (after : succ ≠ 0) : s.fenceBody h fm pred succ = s.addFence h.num [(pred.toNat, succ.toNat)] := by
  simp only [State.fenceBody, run, plain, before, after, or_self, Bool.false_eq_true, if_false]

section Cbo
variable {op : BitVec 8} {lo n : Nat}

/-- A cache-block instruction that its enables permit asks the home to act on the line (R150). -/
theorem State.cboBody_of_ok (enabled : (s.hart h.num).w.envOk lo n = .ok) (route : routeOf pa.toNat m = .cached) :
    s.cboBody h pa m op lo n = (((s.addAcc h.num
      { kind := .cbo, id := 0, pa := addrOfLine (lineOf pa), size := 64, op := op, own := true }).retire h.num).pump
        h.num) := by
  simp only [State.cboBody, run, enabled, route, Bool.false_eq_true, if_false, if_true]

theorem State.cboBody_of_illegal (disabled : (s.hart h.num).w.envOk lo n = .illegal) :
    s.cboBody h pa m op lo n = s.trap h.num causeIllegal := by
  simp only [State.cboBody, run, disabled, Bool.false_eq_true, if_false, State.illegal]

/-- cbo.zero of cacheable memory becomes an access that writes zeros (R151). -/
theorem State.cboZeroBody_of_cached (enabled : (s.hart h.num).w.envOk 7 1 = .ok) (route : routeOf pa.toNat m = .cached) :
    s.cboZeroBody h pa m = ((((s.tagCheck h.num (lineOf pa)).addAcc h.num
      { kind := .zero, id := 0, pa := addrOfLine (lineOf pa), size := 64 }).retire h.num).pump h.num) := by
  simp only [State.cboZeroBody, run, enabled, route, Bool.false_eq_true, if_false]

end Cbo
end Fences

/-- Settles O22: each clause is one branch of the instruction; a prefetch acts where the line is cacheable and absent. -/
theorem fencesAndCacheBlocks : Obligations.FencesAndCacheBlocks := by
  unfold Obligations.FencesAndCacheBlocks
  intro h pa s can goes run n u
  refine ⟨fun fm pred succ plain before after => ?_, fun fm pred succ empty => ?_, ?_, ?_, ?_,
    fun m enabled route => ⟨?_, ?_⟩, fun m enabled route => ?_, fun m disabled => ?_, fun m enabled route => ?_,
    fun m stream route absent => ?_, fun m route absent => ?_, fun m stream route absent => ?_⟩
  · exact State.next_onHart can goes (State.fenceBody_of_sets run plain before after)
  · exact State.next_onHart can goes (State.fenceBody_of_empty run empty)
  · exact State.next_onHart can goes (State.fenceBody_tso run)
  · exact State.next_onHart_run can goes run rfl
  · exact State.next_onHart_run can goes run rfl
  · exact State.next_onHart can goes (State.cboBody_of_ok run enabled route)
  · exact State.next_onHart can goes (State.cboBody_of_ok run enabled route)
  · exact State.next_onHart can goes (State.cboBody_of_ok run enabled route)
  · exact State.next_onHart can goes (State.cboBody_of_illegal run disabled)
  · exact State.next_onHart can goes (State.cboZeroBody_of_cached run enabled route)
  · exact State.next_prefetch can goes (if_pos ⟨route, Bool.eq_false_iff.mp absent⟩)
  · exact State.next_prefetch can goes ((if_pos route).trans (if_neg (Bool.eq_false_iff.mp absent)))
  · exact State.next_onHart_run can goes run
      (congrArg (State.retire · n) (if_pos ⟨route, Bool.eq_false_iff.mp absent⟩))

/-! ### Waits (R91, R92, R202, R358) -/

section Waits
variable {s : State} {h : HartId} {w : Wait}

/-- WRS without a reservation, or with an interrupt ready, retires (R92). -/
theorem State.wrs_of_ready {n : Nat} (run : s.inRunAhead n = false)
    (ready : (s.hart n).resv.isNone = true ∨ (s.hart n).w.intReady = true) :
    s.wrs n w = (s.retire n).pollInt n := by
  simp only [State.wrs, run, Bool.or_eq_true, ready, Bool.false_eq_true, if_false, if_true]

/-- Else the hart parks. -/
theorem State.wrs_of_reserved {n : Nat} (run : s.inRunAhead n = false) (reserved : (s.hart n).resv.isNone = false)
    (quiet : (s.hart n).w.intReady = false) : s.wrs n w = s.parkHart n w := by
  simp only [State.wrs, run, reserved, quiet, Bool.or_self, Bool.false_eq_true, if_false]

theorem pauseEndEff_of_pause {k : Nat} (waits : (s.hart h.num).wait = .pause k) :
    pauseEndEff h s =
      ((List.range (k - (s.hart h.num).stitch)).foldl (fun s _ => s.issue h.num) s).unpark h.num := by
  simp only [pauseEndEff, waits]

theorem wrsStoTimeoutEff_of_wrsSto {t : Nat} (waits : (s.hart h.num).wait = .wrsSto t) :
    wrsStoTimeoutEff h s = (s.advance (t + 1000)).unpark h.num := by
  simp only [wrsStoTimeoutEff, waits]

/-- A WFI in PARK has waited 4 µs under TW below M (R91). -/
theorem wfiTimeoutEff_of_tw {t : Nat} (waits : (s.hart h.num).wait = .wfi t) (parked : (s.hart h.num).mode = .park)
    (tw : bit ((s.hart h.num).w.csrVal 0x300).toNat 21 = true) (below : (s.hart h.num).w.priv < 3) :
    wfiTimeoutEff h s = ((s.advance (t + 4000)).updHart h.num fun x => { x with mode := .run, wait := .none }).trap h.num
      causeIllegal := by
  simp only [wfiTimeoutEff, waits, parked, tw, below, decide_true, Bool.and_self, Bool.true_or, beq_self_eq_true,
    Bool.not_true, Bool.or_self, Bool.false_eq_true, if_false, if_true, State.illegal]

/-- The test by which an interrupt is the host world's: an M-level one, while a pocket runs (R91). -/
theorem ofHostWorld_iff (irq : Fin 64) (pk : Pocket) :
    ((irq.val == 3 || irq.val == 7 || irq.val == 11) && decide (pk ≠ 0)) = true ↔
      (irq.val = 3 ∨ irq.val = 7 ∨ irq.val = 11) ∧ pk ≠ 0 := by
  simp only [Bool.and_eq_true, Bool.or_eq_true, beq_iff_eq, decide_eq_true_eq, or_assoc]

/-- The M-level interrupts of a hart that runs a pocket are the host world's: they wait, where the policy does not end
the pocket for them (R358). -/
theorem interruptPendingEff_of_host {irq : Fin 64}
    (host : (irq.val = 3 ∨ irq.val = 7 ∨ irq.val = 11) ∧ (s.hart h.num).pocket ≠ 0)
    (keeps : s.preemptExt (s.hart h.num).pocket.toNat = false) :
    interruptPendingEff h irq s = s.updHart h.num fun x => { x with
      host := x.host.map fun w => w.setCsr 0x344 (setBits (w.csrVal 0x344) irq.val 1 1) } := by
  have isHost : ((irq.val == 3 || irq.val == 7 || irq.val == 11) && decide ((s.hart h.num).pocket ≠ 0)) = true :=
    (ofHostWorld_iff irq _).mpr host
  have stays (f : HartSt → HartSt) :
      ¬ ((irq.val = 11 ∨ irq.val = 9) ∧ (s.updHart h.num f).preemptExt (s.hart h.num).pocket.toNat = true) :=
    fun ends => Bool.eq_false_iff.mp keeps ends.2
  simp only [interruptPendingEff, State.intPend, isHost, if_true, stays, if_false]

/-- Any other interrupt is of the world that runs, and may wake the hart (R91). -/
theorem interruptPendingEff_of_running {irq : Fin 64}
    (running : ¬ ((irq.val = 3 ∨ irq.val = 7 ∨ irq.val = 11) ∧ (s.hart h.num).pocket ≠ 0)) :
    interruptPendingEff h irq s = (s.updHart h.num fun x => { x with
      w := x.w.setCsr 0x344 (setBits (x.w.csrVal 0x344) irq.val 1 1) }).wakeHart h.num := by
  have notHost : ((irq.val == 3 || irq.val == 7 || irq.val == 11) && decide ((s.hart h.num).pocket ≠ 0)) = false :=
    Bool.eq_false_iff.mpr (running ∘ (ofHostWorld_iff irq _).mp)
  simp only [interruptPendingEff, State.intPend, notHost, Bool.false_eq_true, if_false]

/-- With every fence's conditions met, none is left and what they held goes on (R202). -/
theorem fenceCompleteEff_of_done (waits : ((s.pump h.num).hart h.num).fences ≠ [])
    (done : ∀ f ∈ ((s.pump h.num).hart h.num).fences, ((s.pump h.num).hart h.num).fenceDone f = true) :
    fenceCompleteEff h s =
      ((((s.pump h.num).updHart h.num fun x => { x with fences := [] }).retire h.num).goHeld h.num) := by
  have none_left : ((s.pump h.num).hart h.num).fences.filter (fun f => !((s.pump h.num).hart h.num).fenceDone f) = [] :=
    List.filter_eq_nil_iff.mpr fun f mem => by simp [done f mem]
  have some_done : ¬ ([] : List FenceWait).length = ((s.pump h.num).hart h.num).fences.length :=
    fun same => waits (List.length_eq_zero_iff.mp same.symm)
  simp only [fenceCompleteEff, none_left, some_done, if_false, List.isEmpty_nil, if_true]

end Waits

/-- Settles O23: the waits that an instruction begins, and then each event that ends one. -/
theorem hartWaits : Obligations.HartWaits := by
  unfold Obligations.HartWaits
  refine ⟨fun h s can goes run => ?_, fun h k s live waits => ?_, fun h t s live waits => ?_,
    fun h t s live waits parked tw below => ?_, fun h irq s host keeps => ?_, fun h irq s running => ?_,
    fun h s live => ?_⟩
  · intro n u
    refine ⟨State.next_onHart_run can goes run rfl, State.next_onHart_run can goes run rfl, fun ready => ⟨?_, ?_⟩,
      fun reserved quiet => ⟨?_, ?_⟩⟩
    · exact State.next_onHart can goes (State.wrs_of_ready run ready)
    · exact State.next_onHart can goes (State.wrs_of_ready run ready)
    · exact State.next_onHart can goes (State.wrs_of_reserved run reserved quiet)
    · exact State.next_onHart can goes (State.wrs_of_reserved run reserved quiet)
  · exact State.next_livePanel live (pauseEndEff_of_pause waits)
  · exact State.next_livePanel live (wrsStoTimeoutEff_of_wrsSto waits)
  · exact State.next_livePanel live (wfiTimeoutEff_of_tw waits parked tw below)
  · exact congrArg Host.Outcome.next (interruptPendingEff_of_host host keeps)
  · exact congrArg Host.Outcome.next (interruptPendingEff_of_running running)
  · intro u waits done
    exact State.next_livePanel live (fenceCompleteEff_of_done waits done)

/-! ### Run-ahead, branches and SLEEP (R93, R98, R398) -/

section Speculation
variable {s : State} {h : HartId} {pa : Addr} {e : Acc}

/-- Run-ahead begins where the oldest access is an ordinary load that misses the L2; it keeps the world it began in. -/
theorem runAheadEntryEff_of_miss {l : List Acc} {line : Nat} (can : s.canIssue h.num = true)
    (free : (s.hart h.num).ra = none) (enabled : bit (s.csr h.num csr_mkctl).toNat 10 = true)
    (oldest : (s.hart h.num).acc = e :: l)
    (missed : ((accLines e).find? fun l => !s.readable h.num l) = some line) (load : e.kind = .load)
    (shared : e.own = false) (sure : e.spec = false) :
    runAheadEntryEff h s = s.updHart h.num fun x => { x with ra := some x.w, raLine := line } := by
  simp only [runAheadEntryEff, can, free, enabled, oldest, missed, load, shared, sure, Option.isSome_none, Bool.not_true,
    Bool.not_false, Bool.or_self, Bool.and_self, beq_self_eq_true, Bool.false_eq_true, if_false, if_true]

/-- The speculative loads that a branch held back are ordinary ones once it has resolved right (R98). -/
theorem branchResolveEff_of_right :
    branchResolveEff h pa true s = (((s.bump h.num 0x10).updHart h.num fun x => { x with
      acc := x.acc.map fun e => if e.spec && lineOf e.pa == lineOf pa then { e with spec := false } else e }).goHeld
        h.num).pump h.num := by
  simp only [branchResolveEff, if_true]

/-- A wrong path is discarded from its first load on (R98). -/
theorem branchResolveEff_of_wrong
    (first : ((((s.bump h.num 0x10).bump h.num 0x11).hart h.num).acc.find? fun e => e.spec && lineOf e.pa == lineOf pa) =
      some e) :
    branchResolveEff h pa false s = ((s.bump h.num 0x10).bump h.num 0x11).updHart h.num fun x =>
      { x with w := x.w.back e.snap, acc := x.acc.takeWhile fun a => a.id != e.id, heldOps := []
               fences := x.fences.filter fun f => decide (f.at' ≤ e.issued)
               io := x.io.filter fun i => decide (i.issued < e.issued) } := by
  simp only [branchResolveEff, first, Bool.false_eq_true, if_false]

/-- SLEEP_US after its PARK, a hart's dirty L1D lines go to the L2 and both L1 caches are empty (R398). -/
theorem sleepEntryEff_of_park (parked : (s.hart h.num).mode = .park) (sleeps : s.sleepUs ≠ 0) :
    sleepEntryEff h s =
      ((s.advance ((s.hart h.num).wait.since + 1000 * s.sleepUs)).updHart h.num fun x =>
        { (s.hart h.num).l1d.foldl (fun x e => x.syncL2 e.2.line) x with l1d := [], l1i := [], mode := .sleep }).updPkg := by
  simp only [sleepEntryEff, parked, sleeps, ne_eq, not_true_eq_false, or_self, if_false, List.foldl_map]

/-- A WFI's SLEEP ends 2 µs after an interrupt is ready (R398). -/
theorem sleepExitEff_of_ready {t : Nat} (asleep : (s.hart h.num).mode = .sleep) (waits : (s.hart h.num).wait = .wfi t)
    (ready : (s.hart h.num).w.intReady = true) :
    sleepExitEff h s = (((s.advance (s.tape + 2000)).unpark h.num).pollInt h.num).updPkg := by
  simp only [sleepExitEff, asleep, waits, ready, ne_eq, not_true_eq_false, Bool.true_or, Bool.not_true,
    Bool.false_eq_true, if_false]

end Speculation

/-- Settles O24: each clause is the branch of its event that the hypotheses leave. -/
theorem speculationAndSleep : Obligations.SpeculationAndSleep := by
  unfold Obligations.SpeculationAndSleep
  refine ⟨fun h e l line s can free enabled oldest missed load shared sure => ?_, fun h pa s live => ?_,
    fun h pa e s live => ?_, fun h s live parked sleeps => ?_, fun h t s live asleep waits ready => ?_⟩
  · exact congrArg Host.Outcome.next (runAheadEntryEff_of_miss can free enabled oldest missed load shared sure)
  · exact State.next_livePanel live branchResolveEff_of_right
  · intro u first
    exact State.next_livePanel live (branchResolveEff_of_wrong first)
  · intro x
    exact State.next_livePanel live (sleepEntryEff_of_park parked sleeps)
  · exact State.next_livePanel live (sleepExitEff_of_ready asleep waits ready)

/-! ### Custom CSRs (R103, R106, R108) and mkdoor (R110-R112) -/

section Csr
variable {s t : State} {h : HartId} {n : Nat} {f : State → State} (can : s.canIssue h.num = true)
  (goes : (s.hart h.num).haltReq = false) (run : (s.issue h.num).inRunAhead h.num = false)
include can goes run

/-- A custom CSR that may be written is written (R103). -/
theorem State.next_onCsr (may : ((s.issue h.num).hart h.num).w.customCheck n true = none) (is : f (s.issue h.num) = t) :
    (.next (s.onCsr h n f) : Host.Outcome State Fault Refusal) = .next (t.stepped h.num) := by
  refine State.next_onHart_run can goes run ?_
  simp only [may, is]

/-- One that may not raises the exception of the first check that fails (R103). -/
theorem State.next_onCsr_trap {c : Nat} (mayNot : ((s.issue h.num).hart h.num).w.customCheck n true = some c) :
    (.next (s.onCsr h n f) : Host.Outcome State Fault Refusal) = .next (((s.issue h.num).trap h.num c).stepped h.num) := by
  refine State.next_onHart_run can goes run ?_
  simp only [mayNot]

/-- So with mkdoor, which takes its target first (R110). -/
theorem State.next_onDoor {pocket : Pocket} {slot : BitVec 8}
    (may : ((s.issue h.num).hart h.num).w.customCheck csr_mkdoor true = none)
    (is : f ((s.issue h.num).updHart h.num fun x => { x with w := x.w.doorTarget pocket slot.toNat }) = t) :
    (.next (s.onDoor h pocket slot f) : Host.Outcome State Fault Refusal) = .next (t.stepped h.num) :=
  State.next_onCsr can goes run may is

end Csr

section Door
variable {s : State} {n : Nat}

/-- ENTER from the host world in service waits for the Keeper (R110). -/
theorem State.doorEnter_of_host (host : (s.hart n).pocket = 0) (service : s.service = true) :
    s.doorEnter n = s.parkHart n (.door 1 (s.timer (n / 32) 2)) :=
  if_neg (not_or.mpr ⟨not_not_intro host, by simp [service]⟩)

theorem State.doorEnter_of_refused (no : (s.hart n).pocket ≠ 0 ∨ s.service = false) : s.doorEnter n = s.doorDone n 2 :=
  if_pos (by simpa using no)

/-- EXIT of a pocket that a host world entered waits for the Keeper (R110). -/
theorem State.doorExit_of_entered (inPocket : (s.hart n).pocket ≠ 0) (entered : (s.hart n).host.isNone = false) :
    s.doorExit n = s.parkHart n (.door 2 (s.timer (n / 32) 2)) :=
  if_neg (not_or.mpr ⟨inPocket, Bool.eq_false_iff.mp entered⟩)

theorem State.doorExit_of_refused (no : (s.hart n).pocket = 0 ∨ (s.hart n).host.isNone = true) :
    s.doorExit n = s.doorDone n 2 :=
  if_pos no

end Door

/-- What the Keeper decides on the ENTER that a hart has written to mkdoor (R111). -/
def State.doorVerdict (s : State) (n : Nat) : EntryVerdict :=
  s.entryVerdict n (bitsAt ((s.hart n).w.csrVal csr_mkdoor) 44 12) (bitsAt ((s.hart n).w.csrVal csr_mkdoor) 32 8)

/-- A hart goes on in the world that wrote mkdoor, with a STATUS (R110, R111). -/
def State.doorBack (s : State) (n status : Nat) : State :=
  ((s.updHart n fun x => { x with mode := .run, wait := .none }).doorDone n status).wakeHart n

section EntryAnswer
variable {s : State} {h : HartId} {op : Nat} {t : Timer} {v : EntryVerdict}
  (waits : (s.hart h.num).wait = .door op t) (noAcc : (s.hart h.num).acc = []) (noIo : (s.hart h.num).io = [])
include waits noAcc noIo

/-- An EXIT that the Keeper accepts leaves the pocket (R110). -/
theorem entryAnswerEff_of_exit (exit : op = 2) :
    entryAnswerEff h .accepted s = (s.leavePocket h.num 1).wakeHart h.num := by
  subst exit
  simp only [entryAnswerEff, waits, noAcc, noIo, List.isEmpty_nil, Bool.not_true, Bool.or_self, Bool.false_eq_true,
    if_false, OfNat.ofNat_ne_one]

variable (enter : op = 1)
include enter

/-- An ENTER accepted and unopposed enters the pocket's slot (R110, R111). -/
theorem entryAnswerEff_of_accepted (verdict : s.doorVerdict h.num = .accepted) :
    entryAnswerEff h .accepted s = (s.enterPocket h.num (bitsAt ((s.hart h.num).w.csrVal csr_mkdoor) 44 12)
      (bitsAt ((s.hart h.num).w.csrVal csr_mkdoor) 32 8) true).wakeHart h.num := by
  unfold State.doorVerdict at verdict
  simp only [entryAnswerEff, waits, noAcc, noIo, enter, verdict, List.isEmpty_nil, Bool.not_true, Bool.or_self,
    Bool.false_eq_true, if_false, if_true]

/-- One refused, by the Keeper's conditions or by its answer, ends with STATUS 2 (R111). -/
theorem entryAnswerEff_of_refused
    (refused : s.doorVerdict h.num = .refused ∨ (s.doorVerdict h.num = .accepted ∧ v = .refused)) :
    entryAnswerEff h v s = s.doorBack h.num 2 := by
  unfold State.doorVerdict at refused
  rcases refused with verdict | ⟨verdict, rfl⟩
  all_goals simp only [entryAnswerEff, waits, noAcc, noIo, enter, verdict, List.isEmpty_nil, Bool.not_true, Bool.or_self,
    Bool.false_eq_true, if_false, if_true, State.doorBack]

/-- One of a hart that is not assigned to the pocket ends with STATUS 3 and a record (R111). -/
theorem entryAnswerEff_of_violation (verdict : s.doorVerdict h.num = .violation) :
    entryAnswerEff h v s = (s.err 18 1 2 (unitCode 0x12 0) 0 0
      (violMisc (bitsAt ((s.hart h.num).w.csrVal csr_mkdoor) 44 12) 0 0 h.num 0x7FFF)).doorBack h.num 3 := by
  unfold State.doorVerdict at verdict
  simp only [entryAnswerEff, waits, noAcc, noIo, enter, verdict, List.isEmpty_nil, Bool.not_true, Bool.or_self,
    Bool.false_eq_true, if_false, if_true, State.doorBack]

end EntryAnswer

/-- Settles O25: each custom CSR past its check, mkdoor's operations by the world that writes it, and the Keeper's
answers by its verdict. -/
theorem worldsAndCustomCsrs : Obligations.WorldsAndCustomCsrs := by
  unfold Obligations.WorldsAndCustomCsrs
  refine ⟨fun h v s can goes run => ?_, fun h op t s live waits noAcc noIo => ?_⟩
  · intro n u
    refine ⟨fun may => State.next_onCsr can goes run may rfl, fun may => ⟨?_, ?_, ?_⟩, fun may pocket slot => ?_,
      fun c mayNot => State.next_onCsr_trap can goes run mayNot⟩
    · exact State.next_onCsr can goes run may rfl
    · exact State.next_onCsr can goes run may rfl
    · exact State.next_onCsr can goes run may rfl
    · intro d
      exact ⟨State.next_onDoor can goes run may rfl,
        fun host service => State.next_onDoor can goes run may (State.doorEnter_of_host host service),
        fun no => State.next_onDoor can goes run may (State.doorEnter_of_refused no),
        fun inPocket entered => State.next_onDoor can goes run may (State.doorExit_of_entered inPocket entered),
        fun no => State.next_onDoor can goes run may (State.doorExit_of_refused no)⟩
  · intro n d free
    exact ⟨fun enter verdict => ⟨State.next_livePanel live (entryAnswerEff_of_accepted waits noAcc noIo enter verdict),
        State.next_livePanel live (entryAnswerEff_of_refused waits noAcc noIo enter (.inr ⟨verdict, rfl⟩))⟩,
      fun enter verdict v => State.next_livePanel live (entryAnswerEff_of_refused waits noAcc noIo enter (.inl verdict)),
      fun enter verdict v => State.next_livePanel live (entryAnswerEff_of_violation waits noAcc noIo enter verdict),
      fun exit => State.next_livePanel live (entryAnswerEff_of_exit waits noAcc noIo exit)⟩

end Sys2Proof.Machine
end

section
/-! PROOFS of the statements about wide arithmetic: scalar binary128 and vsetvl (R117-R121), and vector binary128
(R122-R132). -/

namespace Sys2Proof.Machine

/-! ### A command of the arithmetic units -/

section Arith
variable {s t : State} {h : HartId} {uses : List Nat} {f : State → State} (can : s.canIssue h.num = true)
  (goes : (s.hart h.num).haltReq = false) (run : (s.issue h.num).inRunAhead h.num = false)
  (ready : uses.any (s.hart h.num).busyRegs.contains = false)
include can goes run ready

/-- A command of the arithmetic units whose registers are ready takes effect as any other, at a hart that is not in
run-ahead (R93). -/
theorem State.onArith_of_ready : s.onArith h uses f = (f (s.issue h.num)).stepped h.num := by
  rw [State.onArith, if_neg (Bool.eq_false_iff.mp ready), State.onHart_of_issuing can goes,
    if_neg (Bool.eq_false_iff.mp run)]

theorem State.next_onArith (is : f (s.issue h.num) = t) :
    (.next (s.onArith h uses f) : Host.Outcome State Fault Refusal) = .next (t.stepped h.num) := by
  rw [State.onArith_of_ready can goes run ready, is]

end Arith

/-! ### Scalar binary128 (R117-R121) -/

/-- A scalar operation is refused exactly where FS is Off, or where it rounds by a mode above 4 (R117, R118). -/
theorem qRefused_iff {off rounds : Bool} {m : Nat} :
    (off || (rounds && decide (4 < m))) = true ↔ off = true ∨ (rounds = true ∧ 4 < m) := by
  rw [Bool.or_eq_true, Bool.and_eq_true, decide_eq_true_iff]

/-- Settles O26: each instruction with its registers ready is one test of its unit's state and its rounding mode. -/
theorem wideScalar : Obligations.WideScalar := by
  unfold Obligations.WideScalar
  intro h rd rs1 rs2 rs3 s can goes run n u w
  refine ⟨fun op rm ready on legal => ?_, fun op rm ready refused => ?_, fun ready on => ?_, fun ready on => ?_,
    fun a v ready => ⟨fun on => ?_, fun off => ?_⟩⟩
  · have accepted : ¬ (w.isOff 13 = true ∨ (op.rounds = true ∧ 4 < (if rm = 7 then w.frm else rm.toNat))) := by
      rintro (off | ⟨rounds, reserved⟩)
      · exact Bool.eq_false_iff.mp on off
      · exact absurd (legal rounds) (not_le.mpr reserved)
    exact State.next_onArith can goes run ready (if_neg (mt qRefused_iff.mp accepted))
  · exact State.next_onArith can goes run ready (if_pos (qRefused_iff.mpr refused))
  · exact State.next_onArith can goes run ready (if_neg (Bool.eq_false_iff.mp on))
  · exact State.next_onArith can goes run ready (if_neg (Bool.eq_false_iff.mp on))
  · exact State.next_onArith can goes run ready (if_neg (Bool.eq_false_iff.mp on))
  · exact State.next_onArith can goes run ready (if_pos off)

/-! ### Vector binary128 and its memory accesses (R122-R132) -/

/-- Settles O27: each family, its registers ready, takes the branch of a ready vtype and of a legal form; an access to
memory passes its fence first. -/
theorem wideVector : Obligations.WideVector := by
  unfold Obligations.WideVector
  intro h vd vs2 vs1 src vm s can goes run
  refine ⟨fun op l ready vtype legal => ?operation, fun op ready vill => ?vill, fun op l ready vtype legal => ?division,
    fun op l ready vtype legal => ?widening, fun op l ready vtype first group => ?reduction,
    fun isStore mode nf m l evl free ready shape on legal => ?memory⟩
  case operation | division | widening =>
    refine State.next_onArith can goes run ready ?_
    simp only [vtype, legal, Bool.not_true, Bool.false_eq_true, if_false]
  case vill =>
    refine State.next_onArith can goes run ready ?_
    simp only [vill, State.illegal]
  case reduction =>
    refine State.next_onArith can goes run ready ?_
    simp only [vtype, first, group, ne_eq, not_true_eq_false, Bool.not_true, Bool.false_eq_true, or_self, if_false]
  case memory =>
    refine (congrArg Host.Outcome.next (if_neg (Bool.eq_false_iff.mp free))).trans
      (State.next_onArith can goes run ready ?_)
    simp only [shape]
    exact if_neg (by rw [on, legal]; decide)

end Sys2Proof.Machine
end

section
/-! PROOFS of the statement about doors (R347, R348), POWER requests (R356, R402, R404) and the reset of a panel that is
powered (R400, R401). -/

namespace Sys2Proof.Machine

/-! ### Doors (R347, R348) -/

section Guard
variable {s : State} {a : Agent} {off : Nat} {f : State → State × Resp}

/-- A command of a register that its check passes has its effect, and is answered by it. -/
theorem State.ctlGuard_of_pass (pass : s.ctlCheck a off = .pass) : s.ctlGuard a off f = (f s).1.reply a (f s).2 := by
  simp only [State.ctlGuard, pass]

/-- One that the check refuses is a violation (R335). -/
theorem State.ctlGuard_of_viol {reason : Nat} (refused : s.ctlCheck a off = .viol reason) :
    s.ctlGuard a off f = (s.ctlViolation a off 0x40 reason).reply a .viol := by
  simp only [State.ctlGuard, refused]

end Guard

/-- A door after a write of DOOR_CTL has given it its BASE, which it takes only while ENABLE is 0 (R347). -/
def State.doorBased (s : State) (n : Nat) (base : Addr) : State :=
  if s.fld (R.doorCtl n) F.doorCtl_ENABLE = 1 then s else s.setF (R.doorCtl n) F.doorCtl_BASE (base.toNat / 4096)

section DoorWrites
variable {s : State} {a : Agent} {w : Pocket} {base : Addr}

theorem doorEnableEff_of_viol {reason : Nat} (refused : s.ctlCheck a (R.doorCtl w.toNat).addr = .viol reason) :
    doorEnableEff a w base s = (s.ctlViolation a (R.doorCtl w.toNat).addr 0x40 reason).reply a .viol := by
  rw [doorEnableEff, State.ctlGuard_of_viol refused]

theorem rplHeadWriteEff_of_pass {v : BitVec 6} (pass : s.ctlCheck a (R.doorPtr w.toNat).addr = .pass) :
    rplHeadWriteEff a w v s =
      ((s.setF (R.doorPtr w.toNat) F.doorPtr_RPL_HEAD v.toNat).doorPump w.toNat).reply a .ok := by
  rw [rplHeadWriteEff, State.ctlGuard_of_pass pass]

variable (pass : s.ctlCheck a (R.doorCtl w.toNat).addr = .pass)
include pass

/-- ENABLE on a door that runs sets it no pointer. -/
theorem doorEnableEff_of_running (runs : (s.doorBased w.toNat base).doorRuns w.toNat = true) :
    doorEnableEff a w base s = ((s.doorBased w.toNat base).doorPump w.toNat).reply a .ok := by
  rw [doorEnableEff, State.ctlGuard_of_pass pass]
  exact congrArg (fun t : State => (t.doorPump w.toNat).reply a .ok) (if_pos runs)

/-- On any other it starts the door with an empty request ring and an empty reply ring. -/
theorem doorEnableEff_of_stopped (stopped : (s.doorBased w.toNat base).doorRuns w.toNat = false) :
    doorEnableEff a w base s = ((((((s.doorBased w.toNat base).setF (R.doorCtl w.toNat) F.doorCtl_ENABLE 1).setF
      (R.doorCtl w.toNat) F.doorCtl_STATE 1).wr (R.doorPtr w.toNat) 0).doorPump w.toNat).reply a .ok) := by
  rw [doorEnableEff, State.ctlGuard_of_pass pass]
  exact congrArg (fun t : State => (t.doorPump w.toNat).reply a .ok) (if_neg (Bool.eq_false_iff.mp stopped))

end DoorWrites

/-! ### POWER requests (R356, R402, R404) -/

/-- Work on a unit is in progress: a POWER request, a hand-over of a block in it, or a power-on that is held (R80). -/
def State.powerBusy (s : State) (unit : PowerUnit) : Bool :=
  (s.pock.power.any fun r => r.unit == unit) || (s.pock.hand.any fun h => blockInside unit h.block) ||
    (s.pat.heldPower.any fun e => PowerUnit.panel (Fin.ofNat 12 e.2.2) == unit)

section Taken
variable {s : State} {d : DoorHdr} {w code : Nat} {f : State → State} (world : d.world.toNat = w)
  (ready : s.doorReady w = true)
  (pass : s.welt false w (s.fld (R.doorCtl w) F.doorCtl_BASE * 4096 + 64 * s.fld (R.doorPtr w) F.doorPtr_REQ_HEAD) false =
    .pass) (service : (s.doorTaken w).service = true)
include world ready pass service

/-- In service the Keeper takes and serves every request whose ring it can read. -/
theorem State.doorTake_of_service : s.doorTake d code f = f (s.doorTaken w) := by
  subst world
  unfold State.doorTaken at service ⊢
  simp only [State.doorTake, ready, pass, service, Bool.not_true, Bool.false_and, Bool.false_eq_true, if_false]

/-- So it does one that is the host world's alone, when it comes from the host world. -/
theorem State.doorHost_of_service (host : d.world = 0) : s.doorHost d code f = f (s.doorTaken w) :=
  (State.doorTake_of_service world ready pass service).trans (if_pos host)

end Taken

section Power
variable {s u : State} {d : DoorHdr} {u0 unit : PowerUnit} {st n w : Nat} {p : Panel}
  (taken : ∀ f, s.doorHost d 7 f = f u) (named : powerName u0 = unit)
include taken named

/-- A POWER request on a unit where one runs is answered BUSY. -/
theorem State.powerReq_of_busy (busy : u.powerBusy unit = true) :
    s.powerReq d u0 st = u.doorReply d 7 5 0 0 (leBytes 4 (powerCode unit)) := by
  unfold State.powerBusy at busy
  simp only [State.powerReq, taken, named, busy, if_true]

variable (idle : u.powerBusy unit = false)
include idle

/-- One that a rule refuses is answered REFUSED with the rule's REASON. -/
theorem State.powerReq_of_refused (refused : u.powerRefused unit st = some n) :
    s.powerReq d u0 st = u.doorReply d 7 1 n 0 (leBytes 4 (powerCode unit)) := by
  unfold State.powerBusy at idle
  simp only [State.powerReq, taken, named, idle, refused, Bool.false_eq_true, if_false]

variable (allowed : u.powerRefused unit st = none) (world : d.world.toNat = w)
include allowed world

/-- One that is allowed, of a unit that is no panel, is served. -/
theorem State.powerReq_of_other (other : ∀ p, unit ≠ .panel p) :
    s.powerReq d u0 st = u.powerServe w d.seq.toNat unit st := by
  subst world
  unfold State.powerBusy at idle
  cases unit with
  | panel p => exact absurd rfl (other p)
  | llc t => simp only [State.powerReq, taken, named, idle, allowed, Bool.false_eq_true, if_false]
  | other v => simp only [State.powerReq, taken, named, idle, allowed, Bool.false_eq_true, if_false]

variable (panel : unit = .panel p)
include panel

/-- One of a panel is served too, unless it is a power-on that an alteration holds. -/
theorem State.powerReq_of_panel (free : ¬ (st = 2 ∧ u.girthHeld p.val = true)) :
    s.powerReq d u0 st = u.powerServe w d.seq.toNat unit st := by
  subst panel world
  unfold State.powerBusy at idle
  simp only [State.powerReq, taken, named, idle, allowed, Bool.false_eq_true, if_false, free]

/-- A power-on of a panel in a partition that an alteration changes is held until the alteration's end (R80). -/
theorem State.powerReq_of_girthHeld (held : st = 2 ∧ u.girthHeld p.val = true) :
    s.powerReq d u0 st =
      { u with pat.heldPower := u.pat.heldPower ++ [(w, d.seq.toNat, p.val)] } := by
  subst panel world
  unfold State.powerBusy at idle
  simp only [State.powerReq, taken, named, idle, allowed, Bool.false_eq_true, if_false]
  exact if_pos held

end Power

/-- The four POWER commands are the request of their unit and state (R356, R404). -/
theorem exec_power {d : DoorHdr} {c : Instr} {u0 : PowerUnit} {st : Nat}
    (is : (c = .powerOff d u0 ∧ st = 0) ∨ (∃ p, c = .powerDim d p ∧ u0 = .panel p ∧ st = 1) ∨ (c = .powerOn d u0 ∧ st = 2) ∨
      (∃ t, c = .powerQuiet d t ∧ u0 = .llc t ∧ st = 1)) (s : State) : exec c s = .next (s.powerReq d u0 st) := by
  rcases is with ⟨rfl, rfl⟩ | ⟨p, rfl, rfl, rfl⟩ | ⟨rfl, rfl⟩ | ⟨t, rfl, rfl, rfl⟩
  all_goals rfl

/-! ### The reset of a panel (R400, R401) -/

section Reset
variable {s : State} {p : Panel} (rising : KMap.get 0 s.thm.up p.val = 2)
include rising

/-- A panel whose identity is read again goes on with its power-on. -/
theorem perPanelResetEff_of_identity : perPanelResetEff p true s =
    { (s.resetPanel p.val true).handTag p.val true with
      thm.up := KMap.set 0 p.val 3 ((s.resetPanel p.val true).handTag p.val true).thm.up } := by
  simp only [perPanelResetEff, rising, beq_self_eq_true, Bool.not_true, Bool.false_and, Bool.false_eq_true, if_false, if_true]

/-- One whose identity is not goes off again, or is left out of the boot that waits for it. -/
theorem perPanelResetEff_of_noIdentity : perPanelResetEff p false s =
    (if ((s.resetPanel p.val false).handTag p.val false).boot.pnlWait.contains p.val then
        ((s.resetPanel p.val false).handTag p.val false).dropPanel p.val
      else ((s.resetPanel p.val false).handTag p.val false).railOff p.val).keeperWork := by
  simp only [perPanelResetEff, rising, beq_self_eq_true, Bool.not_true, Bool.false_and, Bool.false_eq_true, if_false]

end Reset

/-- Settles O46: DOOR_CTL and the reply head past their check, a POWER request by what the Keeper finds of its unit, and
a panel's reset by its identity. -/
theorem doorsAndPower : Obligations.DoorsAndPower := by
  unfold Obligations.DoorsAndPower
  refine ⟨fun a w base s => ⟨fun pass => ⟨fun runs => ?_, fun stopped => ?_⟩, fun reason refused => ?_⟩,
    fun a w v s pass => ?_, fun d c u0 st s is => ?_, fun p s rising => ⟨?_, fun alone => ?_, fun waits => ?_⟩⟩
  · exact congrArg Host.Outcome.next (doorEnableEff_of_running pass runs)
  · exact congrArg Host.Outcome.next (doorEnableEff_of_stopped pass stopped)
  · exact congrArg Host.Outcome.next (doorEnableEff_of_viol refused)
  · exact congrArg Host.Outcome.next (rplHeadWriteEff_of_pass pass)
  · intro head u unit busy arg host ready pass service
    have world : d.world.toNat = 0 := congrArg BitVec.toNat host
    have taken : ∀ f, s.doorHost d 7 f = f u := fun f => State.doorHost_of_service world ready pass service host
    rw [exec_power is]
    exact ⟨fun runs => congrArg Host.Outcome.next (State.powerReq_of_busy taken rfl runs),
      fun n idle refused => congrArg Host.Outcome.next (State.powerReq_of_refused taken rfl idle refused),
      fun idle allowed other => congrArg Host.Outcome.next (State.powerReq_of_other taken rfl idle allowed world other),
      fun p idle allowed panel =>
        ⟨fun free => congrArg Host.Outcome.next (State.powerReq_of_panel taken rfl idle allowed world panel free),
         fun held => congrArg Host.Outcome.next (State.powerReq_of_girthHeld taken rfl idle allowed world panel held)⟩⟩
  · exact congrArg Host.Outcome.next (perPanelResetEff_of_identity rising)
  · exact congrArg Host.Outcome.next
      ((perPanelResetEff_of_noIdentity rising).trans (congrArg State.keeperWork (if_neg (Bool.eq_false_iff.mp alone))))
  · exact congrArg Host.Outcome.next
      ((perPanelResetEff_of_noIdentity rising).trans (congrArg State.keeperWork (if_pos waits)))

end Sys2Proof.Machine
end

section
/-! PROOFS of the statement about the range engine and lock-fills (R153-R155, R159). -/

namespace Sys2Proof.Machine

/-! ### A command of a guarded register -/

section Command
variable {s t : State} {a : Agent} {off : Nat} {f : State → State × Resp} {r : Resp}

/-- A write that its check passes, of a unit that is not parked, ends in the state and answer of its effect. -/
theorem State.next_ctlGuard (run : s.thm.parkAll = false) (pass : s.ctlCheck a off = .pass) (is : f s = (t, r)) :
    (.next (s.live (s.ctlGuard a off f)) : Host.Outcome State Fault Refusal) = .next (t.reply a r) := by
  rw [State.live_of_running run, State.ctlGuard_of_pass pass, is]

end Command

/-! ### The range engine (R153-R155) -/

section Range
variable {s : State} {n : Nat}

/-- ABORT marks the engine that runs; it stops once nothing is in flight (R154). -/
theorem State.abortRange_of_busy (busy : s.fld (R.rangeCtl n) F.rangeCtl_STATUS = 1) : s.abortRange n =
    { s with range := KMap.upd {} n (fun r => { r with stop := if r.stop = 0 then 1 else r.stop }) s.range } :=
  if_pos busy

theorem State.abortRange_of_idle (idle : s.fld (R.rangeCtl n) F.rangeCtl_STATUS ≠ 1) : s.abortRange n = s :=
  if_neg idle

/-- STATUS as an engine that ends leaves it: DONE, ABORTED or VIOL, by what stopped it (R154). -/
def RangeSt.endStatus (r : RangeSt) : Nat :=
  match r.stop with
  | 0 => 2
  | 1 => 3
  | _ => 4

/-- The registers of an engine that ends, and its interrupt (R154). -/
def State.endRange (s : State) (n : Nat) : State :=
  let v := (s.setF (R.rangeCtl n) F.rangeCtl_STATUS (KMap.get ({} : RangeSt) s.range n).endStatus).wr (R.rangeTapeEnd n)
    (BitVec.ofNat 64 s.tape)
  let w : State := { v with range := KMap.set {} n {} v.range }
  if w.fld (R.rangeCtl n) F.rangeCtl_IRQ_EN = 1 then w.setSource (1 + n) true else w

/-- A busy engine goes on as far as it can, and ends where nothing is in flight and it was stopped or nothing is left. -/
theorem rangeDoneEff_of_finished {u : State} {r : RangeSt} {sd : Saddle} (goesOn : s.rangeGoOn sd.val = u)
    (reads : KMap.get ({} : RangeSt) u.range sd.val = r) (busy : s.fld (R.rangeCtl sd.val) F.rangeCtl_STATUS = 1)
    (landed : r.flight = 0) (finished : r.stop ≠ 0 ∨ u.fld (R.rangeLimit sd.val) F.rangeLimit_LINE < r.next) :
    rangeDoneEff sd s = u.endRange sd.val := by
  subst goesOn reads
  refine (if_neg (not_not_intro busy)).trans (if_neg ?_)
  rintro (flying | ⟨runs, left⟩)
  · exact flying landed
  · exact finished.elim (· runs) (not_lt.mpr left)

end Range

/-! ### Lock-fill (R159) -/

section LockFill
variable {s u : State} {a : Agent} {h : SliceId} {way pa : Nat}
  (written : (s.setF (R.slcLockFill h.sd.val h.k.val) F.slcLockFill_WAY way).setF (R.slcLockFill h.sd.val h.k.val)
    F.slcLockFill_LINE (pa / 64) = u)
include written

/-- A way that is not locked takes no fill. -/
theorem State.lockFillGo_of_unlocked (unlocked : u.wayLocked h.num way = false) :
    s.lockFillGo a h way pa = (u.setF (R.slcLockFill h.sd.val h.k.val) F.slcLockFill_STATUS 2, .ok) := by
  simp only [State.lockFillGo, written, unlocked, Bool.not_false, if_true]

variable (locked : u.wayLocked h.num way = true)
include locked

/-- Nor does a slice take a line of another home. -/
theorem State.lockFillGo_of_otherHome (other : u.home (64 * (pa / 64)) ≠ some (h.sd.val, h.k.val)) :
    s.lockFillGo a h way pa = (u.setF (R.slcLockFill h.sd.val h.k.val) F.slcLockFill_STATUS 3, .ok) := by
  simp only [State.lockFillGo, written, locked, Bool.not_true, Bool.false_eq_true, if_false]
  exact if_pos other

variable (homed : u.home (64 * (pa / 64)) = some (h.sd.val, h.k.val))
include homed

/-- Of a line that it homes, the requester's pocket is checked: a refusal is a violation. -/
theorem State.lockFillGo_of_viol {c : Nat} (refused : u.welt (agentIsKeeper a) (u.agentPocket a) pa false = .viol c) :
    s.lockFillGo a h way pa = ((u.violation h.sd.val (agentEyelet a pa) pa (u.agentPocket a) 0x01 c 0).setF
      (R.slcLockFill h.sd.val h.k.val) F.slcLockFill_STATUS 4, .viol) := by
  simp only [State.lockFillGo, written, locked, homed, refused, Bool.not_true, Bool.false_eq_true, ne_eq, not_true_eq_false,
    if_false]

/-- A fill that the check passes reads its line at the home, as RD_S of the slice's own eyelet. -/
theorem State.lockFillGo_of_pass (pass : u.welt (agentIsKeeper a) (u.agentPocket a) pa false = .pass) :
    s.lockFillGo a h way pa = (((u.setF (R.slcLockFill h.sd.val h.k.val) F.slcLockFill_STATUS 0).enqueue h.num
      { op := 0x01, src := BitVec.ofNat 8 h.eyelet, dst := BitVec.ofNat 8 h.eyelet,
        pocket := BitVec.ofNat 12 (u.agentPocket a), pa := addrOfLine (pa / 64) }).homeGo h.num, .ok) := by
  simp only [State.lockFillGo, written, locked, homed, pass, Bool.not_true, Bool.false_eq_true, ne_eq, not_true_eq_false,
    if_false]

end LockFill

/-- Settles O33: GO and ABORT past their check, the end of an engine with nothing left to do, and a lock-fill by its way,
its line's home and the check of its requester. -/
theorem rangeAndLockFill : Obligations.RangeAndLockFill := by
  unfold Obligations.RangeAndLockFill
  refine ⟨fun a sd s run pass => ⟨fun op irqEn => ?go, fun busy => ?abort, fun idle => ?stay⟩,
    fun sd s run busy landed finished => ?done,
    fun a h way pa s run pass => ⟨fun unlocked => ?unlocked, fun locked other => ?otherHome, fun locked homed =>
      ⟨fun c refused => ?refused, fun allowed => ?fills⟩⟩⟩
  case go => exact State.next_ctlGuard run pass rfl
  case abort => exact State.next_ctlGuard run pass (congrArg (·, Resp.ok) (State.abortRange_of_busy busy))
  case stay => exact State.next_ctlGuard run pass (congrArg (·, Resp.ok) (State.abortRange_of_idle idle))
  case done =>
    have ends := rangeDoneEff_of_finished rfl rfl busy landed finished
    exact congrArg Host.Outcome.next ((State.live_of_running run).trans ends)
  case unlocked => exact State.next_ctlGuard run pass (State.lockFillGo_of_unlocked rfl unlocked)
  case otherHome => exact State.next_ctlGuard run pass (State.lockFillGo_of_otherHome rfl locked other)
  case refused => exact State.next_ctlGuard run pass (State.lockFillGo_of_viol rfl locked homed refused)
  case fills => exact State.next_ctlGuard run pass (State.lockFillGo_of_pass rfl locked homed allowed)

end Sys2Proof.Machine
end

section
/-! PROOFS of the statement about writebacks at their home and the leaving table they come from (R142, R173, R186-R191). -/

namespace Sys2Proof.Machine

/-- What a command of a home that is not parked does. -/
theorem State.next_live {s t u : State} (run : s.thm.parkAll = false) (is : t = u) :
    (.next (s.live t) : Host.Outcome State Fault Refusal) = .next u :=
  congrArg _ ((State.live_of_running run).trans is)

/-! ### WB and EV at the home (R188, R189) -/

/-- A WB or EV is taken from the network, and its port's leaving entry is noted as sent. -/
def State.takeLeaving (s : State) (op : BitVec 8) (port line : Nat) (leavesFrom : LState → Bool) : State :=
  (s.arrive fun p => p.op == op && lineOf p.pa == line && p.src == BitVec.ofNat 8 (portEyelet port)).updPort port
    fun p => { p with leaving := p.leaving.map fun l =>
      if l.line == line && leavesFrom l.st then { l with sent := true } else l }

section Wb
variable {s u v : State} {k port line sent : Nat} {pk : Pocket} {d : LineData} {po : BitVec 4}
  (taken : s.takeLeaving 0x31 port line (· == .M) = u)
  (unreserved : (u.updSlice k fun x => x.clearResv line) = v)
include taken unreserved

/-- A WB that meets its token spends it: the data goes, the sender is acknowledged. -/
theorem State.wbAtHome_of_token (token : (v.slice k).tokens.any (isToken line (port / 2) false) = true) :
    s.wbAtHome k port line pk d po sent =
      ((((v.updSlice k fun x => { x with tokens := x.tokens.eraseP (isToken line (port / 2) false) }).uev (k / 24) 7
        (k % 24) pk.toNat).cohCount k).incF (R.slcCoh (k / 24) (k % 24)) F.slcCoh_SUPERSEDED).sendWbAck k port line := by
  subst taken unreserved
  exact if_pos token

variable (untold : (v.slice k).tokens.any (isToken line (port / 2) false) = false)
include untold

/-- One that meets none and may be stale poisons the line, is acknowledged and is recorded as STALE_WB. -/
theorem State.wbAtHome_of_stale (stale : v.staleSuspect k sent = true) :
    let w := (v.poisonLine k line pk).sendWbAck k port line
    s.wbAtHome k port line pk d po sent = w.err (12 + k / 24) 2 3 (unitCode 0x02 k) 1 (64 * line)
      (dlMisc 1 pk.toNat 0 (portEyelet port) (w.tape - sent - w.dlCopy (12 + k / 24) 1)) := by
  subst taken unreserved
  exact (if_neg (Bool.eq_false_iff.mp untold)).trans (if_pos stale)

/-- One that meets none and is not stale is put in its home, and the open transaction of its line sees it. -/
theorem State.wbAtHome_of_current (current : v.staleSuspect k sent = false) :
    s.wbAtHome k port line pk d po sent =
      ((((v.putLine k line d po pk true ((u.port port).leaving.any fun l => l.line == line && l.keepE) false false).updTx k
        line fun t => { t with wbSeen := port / 2 :: t.wbSeen }).sendWbAck k port line).tryComplete k line).homeGo k := by
  subst taken unreserved
  exact (if_neg (Bool.eq_false_iff.mp untold)).trans (if_neg (Bool.eq_false_iff.mp current))

end Wb

section Ev
variable {s u : State} {k port line sent : Nat} (taken : s.takeLeaving 0x32 port line (· != .M) = u)
include taken

/-- An EV that meets its token spends it and is acknowledged; the line's entry stays as it is (R165). -/
theorem State.evAtHome_of_token (token : (u.slice k).tokens.any (isToken line (port / 2) true) = true) :
    s.evAtHome k port line sent =
      ((u.updSlice k fun x => { x with tokens := x.tokens.eraseP (isToken line (port / 2) true) }).cohCount k).sendWbAck
        k port line := by
  subst taken
  exact if_pos token

/-- One that meets none and is not stale ends the panel's exclusive hold of the line. -/
theorem State.evAtHome_of_current (untold : (u.slice k).tokens.any (isToken line (port / 2) true) = false)
    (current : u.staleSuspect k sent = false) :
    s.evAtHome k port line sent = ((u.setExcl k line false).updTx k line fun t =>
      { t with wbSeen := (16 + port / 2) :: t.wbSeen }).sendWbAck k port line := by
  subst taken
  exact (if_neg (Bool.eq_false_iff.mp untold)).trans (if_neg (Bool.eq_false_iff.mp current))

end Ev

/-! ### DIRTY at the home (R173, R177) -/

/-- A dirty line reported for a transaction that does not work on its data itself is written to the line's entry. -/
theorem State.dirtyAtHome_of_entry {s : State} {k line e : Nat} {d : LineData} {po : BitVec 4} {t : Tx}
    (opened : s.tx k line = some t) (notAtom : t.req.op ≠ 0x05) (notWrite : t.req.op ≠ 0x09)
    (entry : (s.slice k).entKey line = some e) :
    s.dirtyAtHome k line d po = (s.updSlice k fun x => x.updEntry line fun e =>
      { e with data := d, poison := po, st := .dirty, pocket := t.req.pocket }).report k line 0x33
        fun t => { t with dirtySeen := true, homeData := t.homeData } := by
  simp only [State.dirtyAtHome, opened, entry, beq_eq_false_iff_ne.mpr notAtom, beq_eq_false_iff_ne.mpr notWrite,
    Bool.or_false, Bool.false_eq_true, if_false]

/-! ### The leaving table (R186, R191) -/

/-- The requests that a port holds back behind what a core's line leaves. -/
def heldBehind (line core : Nat) : Pkt → Bool := fun q => lineOf q.pa == line && q.txid.toNat / 128 == core

@[simp] theorem State.port_arrive (s : State) (f : Pkt → Bool) (n : Nat) : (s.arrive f).port n = s.port n := rfl

/-- WB_ACK of a core's last leaving entry of a line, which no clean kept, frees it and sends what the entry held. -/
theorem State.wbAckAt_of_last {s u : State} {port line : Nat} {e : Leave}
    (left : (s.port port).leaving.find? (fun l => l.line == line && l.sent) = some e) (gone : e.keepE = false)
    (freed : ((s.arrive fun q => q.op == 0x13 && q.dst == BitVec.ofNat 8 (portEyelet port) && lineOf q.pa == line).updPort
      port fun p => { p with leaving := p.leaving.erase e }) = u)
    (last : ((u.port port).leaving.any fun l => l.line == line && l.core == e.core) = false) :
    s.wbAckAt port line = (u.updPort port fun p => { p with
      heldReq := p.heldReq.filter fun q => !heldBehind line e.core q }).sendAll
        ((u.port port).heldReq.filter (heldBehind line e.core)) := by
  unfold heldBehind
  simp only [State.wbAckAt, State.port_arrive, left, freed, gone, last, Bool.false_and, Bool.false_eq_true, if_false]

/-- A fill that waited is tried again. -/
theorem State.resumeFill_of_lineReq {s : State} {h line : Nat} {q : L2Req} (req : s.lineReq h line = some q) :
    s.resumeFill h line = s.tryInstall h q := by
  simp only [State.resumeFill, req]

/-- Settles O30: a WB and an EV by their token and their age, a dirty line by its transaction and its entry, and what
goes on once the leaving table has room. -/
theorem writebacksAtTheHome : Obligations.WritebacksAtTheHome := by
  unfold Obligations.WritebacksAtTheHome
  refine ⟨fun h p pa pocket d po sent s run => ⟨fun untold current => ?applied, fun untold stale => ?poisoned,
      fun token => ?superseded⟩,
    fun h p pa pocket sent s run => ⟨fun untold current => ?exclEnds, fun token => ?exclStays⟩,
    fun h pa d po t k s run opened notAtom notWrite entry => ?dirty, fun p pa e s run left gone last => ?freed,
    fun h pa q s run req => ?resumed, fun p s run => ?accepted⟩
  case applied => exact State.next_live run (State.wbAtHome_of_current rfl rfl untold current)
  case poisoned => exact State.next_live run (State.wbAtHome_of_stale rfl rfl untold stale)
  case superseded => exact State.next_live run (State.wbAtHome_of_token rfl rfl token)
  case exclEnds => exact State.next_live run (State.evAtHome_of_current rfl untold current)
  case exclStays => exact State.next_live run (State.evAtHome_of_token rfl token)
  case dirty => exact State.next_live run (State.dirtyAtHome_of_entry opened notAtom notWrite entry)
  case freed => exact State.next_livePanel run (State.wbAckAt_of_last left gone rfl last)
  case resumed => exact State.next_livePanel run (State.resumeFill_of_lineReq req)
  case accepted => exact State.next_livePanel run rfl

end Sys2Proof.Machine
end

section
/-! PROOFS of the statement about reads and writes at a memory controller (R253, R279-R285, R485). -/

namespace Sys2Proof.Machine

/-! ### Reads (R279, R282, R253) -/

/-- The read of a line that a home has sent to the line's memory. -/
def isMemRead (h : SliceId) (pa : Addr) (txid : BitVec 12) : Pkt → Bool := fun p =>
  p.op == 0x08 && p.src == BitVec.ofNat 8 h.eyelet && lineOf p.pa == lineOf pa && p.txid == txid

/-- The home waits for memory's answer to a transaction of a line. -/
def State.awaitsRead (s : State) (k line : Nat) (txid : BitVec 12) : Bool :=
  match s.tx k line with | some t => t.memWait && t.req.txid == txid | none => false

theorem State.awaitsRead_of_tx {s : State} {k line : Nat} {txid : BitVec 12} {t : Tx} (opened : s.tx k line = some t)
    (waits : t.memWait = true) (same : t.req.txid = txid) : s.awaitsRead k line txid = true := by
  simp only [State.awaitsRead, opened, waits, same, beq_self_eq_true, Bool.and_self]

/-- The pocket of a home's transaction. -/
def State.txPocket (s : State) (k line : Nat) : Nat :=
  match s.tx k line with | some t => t.req.pocket.toNat | none => 0

/-- A controller counts an access, and activates a row for it that is not left open (R288). -/
def State.mcAccess (s : State) (c : Ctlr) (code pk : Nat) (row : Bool) (bank : Nat) : State :=
  let w := s.uev c.saddle code (ctlrSrc c) pk
  if row && w.mcCfg c 4 1 0 0 == 0 then w else (w.uev c.saddle 0x13 (ctlrSrc c) pk).activate c bank

/-- The home is answered with what a unit has decoded, and goes on. -/
def answerDecoded (k line : Nat) (r : State × LineData × BitVec 4) : State :=
  (r.1.memAnswer k line r.2.1 r.2.2).homeGo k

/-- A read behind a closed fence is counted, and its transaction no longer waits for memory. -/
def State.readShutOut (s : State) (u : FenceUnit) (k line : Nat) : State :=
  (s.incF (R.fenceStatus u) F.fenceStatus_DOMOFF_COUNT).updTx k line fun t => { t with memWait := false, domoff := true }

section Read
variable {s v : State} {u : FenceUnit} {h : SliceId} {pa : Addr} {txid : BitVec 12} {err : MemErr} {row : Bool}
  {bank : Fin 64}
  (arrived : s.arrive (isMemRead h pa txid) = v) (awaited : s.awaitsRead h.num (lineOf pa) txid = true)
  (backs : s.backsLine u (lineOf pa) = true)

include awaited backs in
/-- A read that its home awaits, of a line that the unit backs, is taken. -/
theorem State.read_reaches : ¬ (!s.awaitsRead h.num (lineOf pa) txid || !s.backsLine u (lineOf pa)) = true := by
  rw [awaited, backs]
  decide

include arrived awaited backs

/-- Behind a closed fence a RD_NC or a non-coherent atomic ends in DOMOFF; any other transaction goes on without the
memory's data. -/
theorem memoryReadEff_of_closed {t : Tx} (closed : v.fenceState u ≠ 2 ∧ v.fenceState u ≠ 3)
    (marked : (v.readShutOut u h.num (lineOf pa)).tx h.num (lineOf pa) = some t) :
    memoryReadEff u h pa txid err row bank s =
      (if t.req.op == 0x06 || (t.req.op == 0x05 && t.req.nc) then
        (v.readShutOut u h.num (lineOf pa)).endTx h.num (lineOf pa) t.req .domoff
      else (v.readShutOut u h.num (lineOf pa)).tryComplete h.num (lineOf pa)).homeGo h.num := by
  subst arrived
  refine (if_neg (State.read_reaches awaited backs)).trans ((if_pos closed).trans ?_)
  unfold State.readShutOut isMemRead at marked ⊢
  simp only [marked]

variable (serves : v.fenceState u = 2 ∨ v.fenceState u = 3)
include serves

/-- At a controller that serves, it is an access to its bank, and its home is answered with what the controller decodes. -/
theorem memoryReadEff_of_ctlr {c : Ctlr} (ctlr : u = .mc c) : memoryReadEff u h pa txid err row bank s =
    answerDecoded h.num (lineOf pa)
      ((v.mcAccess c 0x10 (v.txPocket h.num (lineOf pa)) row bank.val).mcDecode u (lineOf pa) err) := by
  subst arrived ctlr
  exact (if_neg (State.read_reaches awaited backs)).trans (if_neg fun closed => serves.elim closed.1 closed.2)

/-- At the port of a CXL device, its home is answered with what the device decodes. -/
theorem memoryReadEff_of_port {k : Fin 8} (port : u = .pcie k) : memoryReadEff u h pa txid err row bank s =
    answerDecoded h.num (lineOf pa) (v.mcDecode u (lineOf pa) err) := by
  subst arrived port
  exact (if_neg (State.read_reaches awaited backs)).trans (if_neg fun closed => serves.elim closed.1 closed.2)

end Read

/-! ### Writes (R283-R285, R485) -/

/-- The words of a line that a controller reads to merge a narrower write with: on DDR5 all of it (R283, R284). -/
def mergedWords (u : FenceUnit) (be : Word) : BitVec 4 :=
  let touched := BitVec.ofNat 4 (ofBits ((List.range 4).filter fun w => be.toNat >>> (16 * w) % 65536 != 0))
  let whole := match u with
    | .mc (.ddr _) => if be = beAll then (15 : BitVec 4) else 0
    | _ => wholeWords be
  errWords u (touched &&& ~~~ wholeWords be) &&& ~~~ whole

section Write
variable {s : State} {u : FenceUnit} {h : SliceId} {pa : Addr} {d : LineData} {be : Word} {po : BitVec 4} {row : Bool}
  {bank : Fin 64} (backs : s.backsLine u (lineOf pa) = true)
include backs

/-- A write at a fence that is not OPEN has the outcome of a home's dropped write (R485). -/
theorem memoryWriteEff_of_notOpen {err : MemErr} (shut : s.fenceIsOpen u = false) :
    memoryWriteEff u h pa d be po err row bank s = (s.homeWrite h.sd.val (lineOf pa) d be po).1 :=
  (if_neg (by rw [backs]; decide)).trans (if_pos (by rw [shut]; decide))

variable (opened : s.fenceIsOpen u = true)
include opened

/-- One that a CXL device takes without an error is stored. -/
theorem memoryWriteEff_of_port {k : Fin 8} (port : u = .pcie k) :
    memoryWriteEff u h pa d be po .none row bank s = s.ctlrWrite u (lineOf pa) d be po := by
  subst port
  exact (if_neg (by rw [backs]; decide)).trans (if_neg (by rw [opened]; decide))

variable {c : Ctlr} (ctlr : u = .mc c) {x : State}
  (accessed : s.mcAccess c (if be = beAll then 0x11 else 0x12) 0 row bank.val = x)
include ctlr accessed

/-- One that a controller takes without an error is an access to its bank, and is stored. -/
theorem memoryWriteEff_of_ctlr :
    memoryWriteEff u h pa d be po .none row bank s = x.ctlrWrite u (lineOf pa) d be po := by
  subst ctlr accessed
  exact (if_neg (by rw [backs]; decide)).trans (if_neg (by rw [opened]; decide))

/-- A corrected error of a line that it reads to merge the write with is recorded first. -/
theorem memoryWriteEff_of_corrected {sym : BitVec 8} {w : BitVec 4} :
    memoryWriteEff u h pa d be po (.corrected sym w) row bank s =
      (if mergedWords u be = 0 then x
        else x.mcCorrected c (64 * lineOf pa) sym.toNat (w &&& mergedWords u be).toNat).ctlrWrite u (lineOf pa) d be po := by
  subst ctlr accessed
  exact (if_neg (by rw [backs]; decide)).trans (if_neg (by rw [opened]; decide))

end Write

/-- Settles O38: a read by the fence it meets and the unit behind it, what the unit decodes by the error it finds, and a
write by its fence and the line it merges with. -/
theorem memoryReadsAndWrites : Obligations.MemoryReadsAndWrites := by
  unfold Obligations.MemoryReadsAndWrites
  refine ⟨fun u h pa txid err row bank s t run opened waits same backs => ?reads, fun u line s => rfl,
    fun c line sym w s => rfl, fun c line w s => rfl, fun u h pa d be po row bank s run backs => ?writes⟩
  case reads =>
    have awaited := State.awaitsRead_of_tx opened waits same
    exact ⟨fun c ctlr serves => State.next_live run (memoryReadEff_of_ctlr rfl awaited backs serves ctlr),
      fun k port serves => State.next_live run (memoryReadEff_of_port rfl awaited backs serves port),
      fun t' notOpen notDraining marked =>
        State.next_live run (memoryReadEff_of_closed rfl awaited backs ⟨notOpen, notDraining⟩ marked)⟩
  case writes =>
    exact ⟨fun err shut => State.next_live run (memoryWriteEff_of_notOpen backs shut),
      fun k port opened => State.next_live run (memoryWriteEff_of_port backs opened port),
      fun c ctlr opened => ⟨State.next_live run (memoryWriteEff_of_ctlr backs opened ctlr rfl),
        fun sym w => State.next_live run (memoryWriteEff_of_corrected backs opened ctlr rfl)⟩⟩

end Sys2Proof.Machine
end

section
/-! PROOFS of the statement about the width handshake of a Gusset (R245-R251). -/

namespace Sys2Proof.Machine

section Handshake
variable {s : State} {e : GusEnd}

/-! ### REOPEN (R248, R250) -/

/-- A reopen counts, and starts the handshake at attempt 1. -/
theorem State.gusReopen_eq {u v : State} (counted : s.incF (R.gusStatus e) F.gusStatus_REOPENS = u)
    (reset : (u.setF (R.gusStatus e) F.gusStatus_STATE 4).setF (R.gusStatus e) F.gusStatus_RETRIES 0 = v) :
    s.gusReopen e = ((v.setF (R.gusCtl e) F.gusCtl_ATTEMPTS v.gusLimit).updGus e fun g => { g with
      wasActive := if (u.gusset e).n = 0 then u.fld (R.gusStatus e) F.gusStatus_ACTIVE else (u.gusset e).wasActive
      }).gusAttempt e 1 := by
  subst counted reset
  rfl

/-- An end that is not DOWN reopens when a REOPEN is received. -/
theorem reopenEff_of_up (linked : e.peer.isSome = true) (up : s.gusState e ≠ 0) : reopenEff e s = s.gusReopen e :=
  if_neg (not_or.mpr ⟨by rw [Option.isNone_eq_false_iff.mpr linked]; decide, up⟩)

/-- GUS_CTL.REOPEN of another than the Keeper is the violation of a KW field. -/
theorem gusCtlReopenEff_of_other {a : Agent} (linked : e.peer.isSome = true) (other : agentIsKeeper a = false) :
    gusCtlReopenEff a e s = (s.kwViolation a (R.gusCtl e).addr).reply a .viol :=
  (if_neg (by rw [Option.isNone_eq_false_iff.mpr linked]; decide)).trans (if_pos (by rw [other]; decide))

/-- The Keeper's reopens an end that is not DOWN. -/
theorem gusCtlReopenEff_of_keeper {a : Agent} (linked : e.peer.isSome = true) (keeper : agentIsKeeper a = true) :
    gusCtlReopenEff a e s = (if s.gusState e = 0 then s else s.gusReopen e).reply a .ok :=
  (if_neg (by rw [Option.isNone_eq_false_iff.mpr linked]; decide)).trans (if_neg (by rw [keeper]; decide))

/-! ### MASK and CONFIRM (R248, R249) -/

/-- The MASK of the running attempt is kept, and the width that both ends can use is sent. -/
theorem maskEff_of_attempt {n : BitVec 3} {m : BitVec 16} {u : State} (masks : (s.gusset e).phase = 1)
    (attempt : (s.gusset e).n = n.toNat) (kept : s.setF (R.gusStatus e) F.gusStatus_PEER_GOOD m.toNat = u) :
    maskEff e n m s = u.updGus e fun g =>
      { g with phase := 2, sentW := u.gusGood e &&& m.toNat, t := some (u.timer e.bank 4) } := by
  subst kept
  exact if_neg (not_or.mpr ⟨not_not_intro masks, not_not_intro attempt⟩)

section Confirm
variable {n : BitVec 3} {w : BitVec 16} (confirms : (s.gusset e).phase = 2) (attempt : (s.gusset e).n = n.toNat)
include confirms attempt

/-- The CONFIRM of the running attempt is compared with the width this end has sent. -/
theorem confirmEff_of_attempt : confirmEff e n w s =
    if (s.gusset e).sentW = w.toNat then
      if 4 ≤ popcount 16 w.toNat then s.gusEnd e 2 w.toNat else s.gusSafe e
    else s.gusDisagree e :=
  if_neg (not_or.mpr ⟨not_not_intro confirms, not_not_intro attempt⟩)

/-- An equal one of 4 groups or more brings the link UP. -/
theorem confirmEff_of_wide (equal : (s.gusset e).sentW = w.toNat) (wide : 4 ≤ popcount 16 w.toNat) :
    confirmEff e n w s = s.gusEnd e 2 w.toNat := by
  rw [confirmEff_of_attempt confirms attempt, if_pos equal, if_pos wide]

/-- An equal one of fewer goes on to SAFE. -/
theorem confirmEff_of_narrow (equal : (s.gusset e).sentW = w.toNat) (narrow : popcount 16 w.toNat < 4) :
    confirmEff e n w s = s.gusSafe e := by
  rw [confirmEff_of_attempt confirms attempt, if_pos equal, if_neg (not_le.mpr narrow)]

/-- An unequal one ends the attempt. -/
theorem confirmEff_of_unequal (unequal : (s.gusset e).sentW ≠ w.toNat) : confirmEff e n w s = s.gusDisagree e := by
  rw [confirmEff_of_attempt confirms attempt, if_neg unequal]

end Confirm

section Disagree
variable {u : State} (shown : (if s.fld R.pkgId F.pkgId_PKG_LEVEL = 2 then
  s.setF (R.gusStatus e) F.gusStatus_RETRIES (s.gusset e).n else s) = u)
include shown

/-- The next attempt begins while the limit is not reached. -/
theorem State.gusDisagree_of_below (below : (s.gusset e).n < u.fld (R.gusCtl e) F.gusCtl_ATTEMPTS) :
    s.gusDisagree e = u.gusAttempt e ((s.gusset e).n + 1) := by
  subst shown
  exact if_pos below

theorem State.gusDisagree_of_limit (limit : u.fld (R.gusCtl e) F.gusCtl_ATTEMPTS ≤ (s.gusset e).n) :
    s.gusDisagree e = u.gusSafe e := by
  subst shown
  exact if_neg (not_lt.mpr limit)

end Disagree

/-! ### SAFE (R249, R251) -/

section Safe
variable (safe : (s.gusset e).phase = 3)
include safe

/-- SAFE comes up on groups 0 to 3 where both ends have them good. -/
theorem safeEff_of_good (good : s.gusGood e % 16 = 15) : safeEff e true s = s.gusEnd e 3 0xF :=
  (if_neg (not_not_intro safe)).trans (if_pos (by rw [good]; decide))

/-- The link is DOWN where this end or the peer has not. -/
theorem safeEff_of_bad {ok : Bool} (bad : (ok && s.gusGood e % 16 == 15) = false) : safeEff e ok s = s.gusEnd e 0 0 :=
  (if_neg (not_not_intro safe)).trans (if_neg (Bool.eq_false_iff.mp bad))

end Safe

/-! ### The idle test (R247, R248) -/

section IdleTest
variable {g : Fin 16} {w : BitVec 7} (idle : s.gusState e = 1 ∨ s.gusState e = 4)
include idle

/-- Up to two failed wires of a group go onto its spares. -/
theorem idleTestFailEff_of_spares {v : Nat} (used : s.fld (R.gusRepair e) F.gusRepair_SPARES_USED = v)
    (few : w.toNat ≤ 2) : idleTestFailEff e g w s = s.setF (R.gusRepair e) F.gusRepair_SPARES_USED
      (setBit (setBit v (2 * g.val) (bit w.toNat 0)) (2 * g.val + 1) (bit w.toNat 1)) := by
  subst used
  exact (if_pos idle).trans (if_pos few)

/-- More retire the group. -/
theorem idleTestFailEff_of_retired (many : 2 < w.toNat) : idleTestFailEff e g w s =
    (s.setFbit (R.gusRepair e) F.gusRepair_RETIRED g.val true).setFbit (R.gusStatus e) F.gusStatus_LOCAL_GOOD g.val false :=
  (if_pos idle).trans (if_neg (not_le.mpr many))

end IdleTest

end Handshake

/-- Settles O36: each message of the handshake by its phase and what it carries, the idle test by the wires it finds,
and GUS_CTL.REOPEN by who writes it. -/
theorem widthHandshake : Obligations.WidthHandshake := by
  unfold Obligations.WidthHandshake
  refine ⟨fun e s run linked up => ?reopen, fun e n m s run masks attempt => ?mask,
    fun e n w s run confirms attempt => ⟨fun equal wide => ?up, fun equal narrow => ?narrow, fun unequal => ?unequal⟩,
    fun e s run safe => ?safe, fun e g w s run idle => ⟨fun few => ?spares, fun many => ?retired⟩,
    fun a e s run linked => ⟨fun keeper up => ?reopens, fun keeper down => ?stays, fun other => ?refused⟩⟩
  case reopen => exact State.next_live run ((reopenEff_of_up linked up).trans (State.gusReopen_eq rfl rfl))
  case mask => exact State.next_live run (maskEff_of_attempt masks attempt rfl)
  case up => exact State.next_live run (confirmEff_of_wide confirms attempt equal wide)
  case narrow => exact State.next_live run (confirmEff_of_narrow confirms attempt equal narrow)
  case unequal =>
    have ends := confirmEff_of_unequal confirms attempt unequal
    exact ⟨fun below => State.next_live run (ends.trans (State.gusDisagree_of_below rfl below)),
      fun limit => State.next_live run (ends.trans (State.gusDisagree_of_limit rfl limit))⟩
  case safe =>
    exact ⟨fun good => State.next_live run (safeEff_of_good safe good),
      fun bad => State.next_live run (safeEff_of_bad safe (beq_eq_false_iff_ne.mpr bad)),
      State.next_live run (safeEff_of_bad safe rfl)⟩
  case spares => exact State.next_live run (idleTestFailEff_of_spares idle rfl few)
  case retired => exact State.next_live run (idleTestFailEff_of_retired idle many)
  case reopens => exact State.next_live run ((gusCtlReopenEff_of_keeper linked keeper).trans (by rw [if_neg up]))
  case stays => exact State.next_live run ((gusCtlReopenEff_of_keeper linked keeper).trans (by rw [if_pos down]))
  case refused => exact State.next_live run (gusCtlReopenEff_of_other linked other)

end Sys2Proof.Machine
end

section
/-! PROOFS of the statement about fences (R252-R256), the epoch switch (R259-R261) and slots (R240, R241). -/

namespace Sys2Proof.Machine

/-! ### Fence commands (R253, R254) -/

/-- A fence command reaches its unit, and ON shows it. -/
def State.fenceTold (s : State) (u : FenceUnit) (on : Bool) : State :=
  (s.arrive fun p => p.op == 0x50 && p.txid == BitVec.ofNat 12 u.num).setF (R.fenceCmd u) F.fenceCmd_ON
    (if on then 1 else 0)

section Command
variable {s v : State} {u : FenceUnit} {on : Bool} (told : s.fenceTold u on = v)
include told

/-- What a command does goes by the STATE that it finds. -/
theorem fenceCmdEff_of_state {st : Nat} (shows : v.fenceState u = st) : fenceCmdEff u on s =
    if st = 1 then v.updFence u.num fun x => { x with next := if on then none else some false }
    else if st = 3 then v.updFence u.num fun x => { x with next := if on then some true else none }
    else if st = 0 ∧ on then v.startOpen u
    else if st = 2 ∧ ¬ on then v.startDrain u
    else v := by
  subst told shows
  rfl

/-- OFF in OPENING is kept for afterwards, and ON takes back what was kept. -/
theorem fenceCmdEff_of_opening (opening : v.fenceState u = 1) :
    fenceCmdEff u on s = v.updFence u.num fun x => { x with next := if on then none else some false } :=
  (fenceCmdEff_of_state told opening).trans (if_pos rfl)

/-- ON in DRAINING is kept for afterwards, and OFF takes back what was kept. -/
theorem fenceCmdEff_of_draining (draining : v.fenceState u = 3) :
    fenceCmdEff u on s = v.updFence u.num fun x => { x with next := if on then some true else none } :=
  (fenceCmdEff_of_state told draining).trans ((if_neg (by decide)).trans (if_pos rfl))

/-- A closed fence opens on ON. -/
theorem fenceCmdEff_of_closed (closed : v.fenceState u = 0) : fenceCmdEff u on s = if on then v.startOpen u else v := by
  rw [fenceCmdEff_of_state told closed]
  cases on with
  | true => rfl
  | false => rfl

/-- An open one drains on OFF. -/
theorem fenceCmdEff_of_open (opened : v.fenceState u = 2) : fenceCmdEff u on s = if on then v else v.startDrain u := by
  rw [fenceCmdEff_of_state told opened]
  cases on with
  | true => rfl
  | false => rfl

end Command

/-! ### Opening (R253, R255, R256, R295) -/

section Opening
variable {s : State}

/-- A unit other than a controller opens, or fails, as its bring-up ends. -/
theorem fenceOpenEff_of_unit {u : FenceUnit} {ok : Bool} (opening : s.fenceState u = 1) (unit : ∀ c, u ≠ .mc c) :
    fenceOpenEff u ok s = if ok then s.fenceOpened u else s.fenceOpenFailed u := by
  refine (if_neg (not_not_intro opening)).trans ?_
  cases u with
  | mc c => exact absurd rfl (unit c)
  | panel p => rfl
  | llc t => rfl
  | pcie k => rfl
  | bob n => rfl

section Ctlr
variable {c : Ctlr} (opening : s.fenceState (.mc c) = 1) (idle : (s.mc c.num).trainAt = none)
include opening idle

/-- The bring-up of a controller that is not training goes by its STATE. -/
theorem fenceOpenEff_of_ctlr {ok : Bool} {st : Nat} (shows : s.fld (R.mcInfo c) F.mcInfo_STATE = st) :
    fenceOpenEff (.mc c) ok s =
      if (st = 2 ∧ ¬ ok) ∨ st = 0 then s.updMc c.num fun m => { m with trainAt := some s.tape }
      else if (st = 1 ∨ st = 2) ∧ ok then (s.leaveSelfRefresh c).fenceOpened (.mc c)
      else s.fenceOpenFailed (.mc c) := by
  subst shows
  exact (if_neg (not_not_intro opening)).trans (if_neg (by rw [idle]; decide))

/-- One in service or in self-refresh whose values are restored opens. -/
theorem fenceOpenEff_of_restored
    (keeps : s.fld (R.mcInfo c) F.mcInfo_STATE = 1 ∨ s.fld (R.mcInfo c) F.mcInfo_STATE = 2) :
    fenceOpenEff (.mc c) true s = (s.leaveSelfRefresh c).fenceOpened (.mc c) := by
  refine (fenceOpenEff_of_ctlr opening idle rfl).trans ((if_neg ?_).trans (if_pos ⟨keeps, rfl⟩))
  rintro (⟨-, lost⟩ | untrained)
  · exact lost rfl
  · omega

/-- One in self-refresh whose values are not restored trains. -/
theorem fenceOpenEff_of_lost (keeps : s.fld (R.mcInfo c) F.mcInfo_STATE = 2) :
    fenceOpenEff (.mc c) false s = s.updMc c.num fun m => { m with trainAt := some s.tape } :=
  (fenceOpenEff_of_ctlr opening idle keeps).trans (if_pos (.inl ⟨rfl, by decide⟩))

/-- One that has failed or is absent cannot open. -/
theorem fenceOpenEff_of_failed
    (failed : s.fld (R.mcInfo c) F.mcInfo_STATE = 3 ∨ s.fld (R.mcInfo c) F.mcInfo_STATE = 4) :
    fenceOpenEff (.mc c) true s = s.fenceOpenFailed (.mc c) := by
  refine (fenceOpenEff_of_ctlr opening idle rfl).trans ((if_neg ?_).trans (if_neg ?_))
  · omega
  · omega

end Ctlr
end Opening

/-! ### Drains and reports (R252, R253) -/

section Drain
variable {s : State}

/-- A unit other than a panel whose drain is complete is closed with its fence. -/
theorem State.drainDone_of_unit {u : FenceUnit} (unit : ∀ p, u ≠ .panel p) (draining : s.fenceState u = 3)
    (empty : s.drained u = true) : s.drainDone u = (s.closeUnit u).closeFence u := by
  cases u with
  | panel p => exact absurd rfl (unit p)
  | llc t => exact if_pos ⟨draining, empty⟩
  | mc c => exact if_pos ⟨draining, empty⟩
  | pcie k => exact if_pos ⟨draining, empty⟩
  | bob n => exact if_pos ⟨draining, empty⟩

/-- A panel gives up its L2 lines first. -/
theorem State.drainDone_of_panel {p : Panel} {u : State} (flushed : s.flushPanel p.val = u)
    (draining : u.fenceState (.panel p) = 3) (empty : u.panelEmpty p.val = true) :
    s.drainDone (.panel p) = u.closeFence (.panel p) := by
  subst flushed
  exact if_pos ⟨draining, empty⟩

/-- The Keeper goes on with what it waits for when a unit's report reaches it. -/
theorem fenceReplyEff_of_unit {u : FenceUnit} (unit : ∀ p, u ≠ .panel p) :
    fenceReplyEff u s = (s.arrive fun p => p.op == 0x51 && p.txid == BitVec.ofNat 12 u.num).keeperWork := by
  cases u with
  | panel p => exact absurd rfl (unit p)
  | llc t => rfl
  | mc c => rfl
  | pcie k => rfl
  | bob n => rfl

end Drain

/-! ### The epoch switch (R259-R261) -/

section Epoch
variable {s : State} {stop : BitVec 8}

section Load
variable (running : s.epoch.running = true) (first : s.epoch.loaded.contains stop.toNat = false)
  (known : s.epochStops.contains stop.toNat = true) (loads : s.fld R.epoch F.epoch_HOLDING ≠ 1)
  (free : s.epoch.holding = []) {u : State} (noted : { s with epoch.loaded := stop.toNat :: s.epoch.loaded } = u)
include running first known loads free noted

/-- A table load at a stop is noted, and the last one starts the hold of every stop. -/
theorem tableLoadEff_of_first : tableLoadEff stop s =
    if s.epochStops.all u.epoch.loaded.contains then
      { (u.setF R.epoch F.epoch_WAITING s.epochStops.length).setF R.epoch F.epoch_HOLDING 1 with
        epoch.waiting := s.epochStops }
    else u := by
  subst noted
  refine if_neg ?_
  rw [running, first, known, beq_eq_false_iff_ne.mpr loads, free]
  decide

theorem tableLoadEff_of_left (left : s.epochStops.all u.epoch.loaded.contains = false) : tableLoadEff stop s = u :=
  (tableLoadEff_of_first running first known loads free noted).trans (if_neg (Bool.eq_false_iff.mp left))

theorem tableLoadEff_of_last (last : s.epochStops.all u.epoch.loaded.contains = true) : tableLoadEff stop s =
    { (u.setF R.epoch F.epoch_WAITING s.epochStops.length).setF R.epoch F.epoch_HOLDING 1 with
      epoch.waiting := s.epochStops } :=
  (tableLoadEff_of_first running first known loads free noted).trans (if_pos last)

end Load

/-- A stop that EPOCH_FLIP reaches holds. -/
theorem epochFlipEff_of_waiting (holds : s.fld R.epoch F.epoch_HOLDING = 1)
    (waits : s.epoch.waiting.contains stop.toNat = true) (first : s.epoch.holding.contains stop.toNat = false) :
    epochFlipEff stop s = { s with epoch.holding := stop.toNat :: s.epoch.holding } :=
  if_pos ⟨holds, waits, Bool.eq_false_iff.mp first⟩

section Empty
variable (holds : s.epoch.holding.contains stop.toNat = true) (waits : s.epoch.waiting.contains stop.toNat = true)
  (idle : s.stopBusy stop.toNat = false) {left : List Nat} (others : s.epoch.waiting.filter (· != stop.toNat) = left)
  {u : State} (reported : ({ s with epoch.waiting := left } : State).setF R.epoch F.epoch_WAITING left.length = u)
include holds waits idle others reported

/-- A stop that holds and is empty reports, and the last report switches. -/
theorem epochEmptyEff_of_idle : epochEmptyEff stop s = if left.isEmpty then u.epochSwitch else u := by
  subst others reported
  refine if_neg ?_
  rw [holds, waits, idle]
  decide

theorem epochEmptyEff_of_left (more : left.isEmpty = false) : epochEmptyEff stop s = u :=
  (epochEmptyEff_of_idle holds waits idle others reported).trans (if_neg (Bool.eq_false_iff.mp more))

theorem epochEmptyEff_of_last (last : left.isEmpty = true) : epochEmptyEff stop s = u.epochSwitch :=
  (epochEmptyEff_of_idle holds waits idle others reported).trans (if_pos last)

end Empty

/-- A released packet is injected, or waits for its slot. -/
def State.release (s : State) (p : Pkt) : State :=
  if s.waitsSlot p then { s with epoch.slotQ := s.epoch.slotQ ++ [p] } else s.inject p

/-- EPOCH_GO releases what a stop held, in the order of its arrival. -/
theorem epochGoEff_of_holding {mine : Pkt → Bool} (isMine : mine = fun p => p.src.toNat == stop.toNat)
    (goes : s.fld R.epoch F.epoch_HOLDING ≠ 1) (holds : s.epoch.holding.contains stop.toNat = true) :
    epochGoEff stop s = (s.epoch.heldPkts.filter mine).foldl State.release
      { s with
        epoch.holding := s.epoch.holding.filter (· != stop.toNat)
        epoch.heldPkts := s.epoch.heldPkts.filter fun p => !mine p } := by
  subst isMine
  exact if_neg (not_or.mpr ⟨goes, by rw [holds]; decide⟩)

end Epoch

/-! ### Slots (R240, R241) -/

/-- A packet waits at a slotted ring for the slot that is open now. -/
def State.findsSlot (s : State) (stop : Nat) (p : Pkt) : Bool :=
  s.injectRing p == some stop && s.slotOpen (s.pktGroup p)

/-- At a slot boundary of a slotted ring, what waits for the slot that opens is injected. -/
theorem slotBoundaryEff_of_slotted {s u : State} {stop : Fin 5} (slotted : s.slotted stop.val = true)
    (next : s.advance s.nextSlot = u) :
    slotBoundaryEff stop s = (u.epoch.slotQ.filter (u.findsSlot stop.val)).foldl State.inject
      { u with epoch.slotQ := u.epoch.slotQ.filter fun p => !u.findsSlot stop.val p } := by
  subst next
  exact if_neg (by rw [slotted]; decide)

/-- Settles O37: a fence command by the state it finds, the end of a bring-up or of a drain by its unit, the steps of the
epoch switch in their order, and a slot boundary. -/
theorem fencesAndEpochs : Obligations.FencesAndEpochs := by
  unfold Obligations.FencesAndEpochs
  refine ⟨fun u s => ?commands, fun u s opening unit => ?opens, fun c s opening idle => ?trains,
    fun u s unit draining empty => ?drains, fun p s draining empty => ?panelDrains, fun u s => ?reports,
    fun stop s running first known loads free => ?loads, fun stop s holds waits first => ?flips,
    fun stop s holds waits idle => ?empties, fun stop s goes holds => ?goes, fun stop s slotted => ?slot⟩
  case commands =>
    exact ⟨fun closed => congrArg Host.Outcome.next (fenceCmdEff_of_closed rfl closed),
      fun opened => congrArg Host.Outcome.next (fenceCmdEff_of_open rfl opened),
      fun draining => congrArg Host.Outcome.next (fenceCmdEff_of_draining rfl draining),
      fun opening => congrArg Host.Outcome.next (fenceCmdEff_of_opening rfl opening),
      fun opened => congrArg Host.Outcome.next (fenceCmdEff_of_open rfl opened),
      fun closed => congrArg Host.Outcome.next (fenceCmdEff_of_closed rfl closed)⟩
  case opens =>
    exact ⟨congrArg Host.Outcome.next (fenceOpenEff_of_unit opening unit),
      congrArg Host.Outcome.next (fenceOpenEff_of_unit opening unit)⟩
  case trains =>
    exact ⟨fun keeps => congrArg Host.Outcome.next (fenceOpenEff_of_restored opening idle keeps),
      fun keeps => congrArg Host.Outcome.next (fenceOpenEff_of_lost opening idle keeps),
      fun failed => congrArg Host.Outcome.next (fenceOpenEff_of_failed opening idle failed)⟩
  case drains => exact congrArg Host.Outcome.next (State.drainDone_of_unit unit draining empty)
  case panelDrains => exact congrArg Host.Outcome.next (State.drainDone_of_panel rfl draining empty)
  case reports =>
    refine ⟨fun unit => congrArg Host.Outcome.next (fenceReplyEff_of_unit unit), fun p panel => ?_⟩
    subst panel
    rfl
  case loads =>
    exact ⟨fun left => congrArg Host.Outcome.next (tableLoadEff_of_left running first known loads free rfl left),
      fun last => congrArg Host.Outcome.next (tableLoadEff_of_last running first known loads free rfl last)⟩
  case flips => exact congrArg Host.Outcome.next (epochFlipEff_of_waiting holds waits first)
  case empties =>
    exact ⟨fun left => congrArg Host.Outcome.next (epochEmptyEff_of_left holds waits idle rfl rfl left),
      fun last => congrArg Host.Outcome.next (epochEmptyEff_of_last holds waits idle rfl rfl last)⟩
  case goes => exact congrArg Host.Outcome.next (epochGoEff_of_holding rfl goes holds)
  case slot => exact congrArg Host.Outcome.next (slotBoundaryEff_of_slotted slotted rfl)

end Sys2Proof.Machine
end

section
/-! PROOFS of the statement about Bobbin channels (R253, R380-R390). -/

namespace Sys2Proof.Machine

/-! ### GO, ABORT and the stop of a channel (R253, R390) -/

section Registers
variable {s : State} {n c : Nat}

/-- GO on a channel that is IDLE or HALTED with nothing in flight starts it. -/
theorem State.chanGo_of_ready (ready : s.chanState n c = 0 ∨ s.chanState n c = 2)
    (landed : s.fld (R.chCtl n c) F.chCtl_INFLIGHT = 0) :
    s.chanGo n c = (((s.setF (R.chCtl n c) F.chCtl_STATE 1).setF (R.chCtl n c) F.chCtl_RESP 0).setF (R.chDone n c)
      F.chDone_BYTES_DONE 0).chanFetch n c 1 :=
  if_pos ⟨ready, landed⟩

theorem State.chanGo_of_busy (busy : s.chanState n c = 1 ∨ s.chanState n c = 3) : s.chanGo n c = s := by
  refine if_neg ?_
  rintro ⟨ready, -⟩
  omega

/-- ABORT stops a channel that runs. -/
theorem State.chanAbort_of_running (runs : s.chanState n c = 1) :
    s.chanAbort n c = s.setF (R.chCtl n c) F.chCtl_STATE 3 :=
  if_pos runs

theorem State.chanAbort_of_other (other : s.chanState n c ≠ 1) : s.chanAbort n c = s :=
  if_neg other

end Registers

section Guarded
variable {s : State} {a : Agent} {n : Fin 64} {off : Nat} {f : State → State × Resp}

/-- A write of an engine's register behind a fence that is not OPEN is dropped, and receives DOMOFF. -/
theorem State.bobGuard_of_shut (shut : s.fenceIsOpen (.bob n) = false) :
    s.bobGuard a n off f = (s.fenceDropped (.bob n) (2 ^ 49 + off)).reply a .domoff :=
  if_neg (Bool.eq_false_iff.mp shut)

/-- One at an OPEN fence is checked as any other. -/
theorem State.bobGuard_of_open (opened : s.fenceIsOpen (.bob n) = true) : s.bobGuard a n off f = s.ctlGuard a off f :=
  if_pos opened

/-- A write that passes fence and check, of an engine that is not parked, ends in the state and answer of its effect. -/
theorem State.next_bobGuard {t : State} {r : Resp} (run : s.thm.parkAll = false) (opened : s.fenceIsOpen (.bob n) = true)
    (pass : s.ctlCheck a off = .pass) (is : f s = (t, r)) :
    (.next (s.live (s.bobGuard a n off f)) : Host.Outcome State Fault Refusal) = .next (t.reply a r) := by
  rw [State.bobGuard_of_open opened]
  exact State.next_ctlGuard run pass is

end Guarded

section Channel
variable {s : State} {n : Fin 64} {c : Fin 8}

/-- A STOPPING channel with nothing in flight becomes IDLE. -/
theorem channelStoppedEff_of_landed (stops : s.chanState n.val c.val = 3)
    (landed : s.fld (R.chCtl n.val c.val) F.chCtl_INFLIGHT = 0) :
    channelStoppedEff n c s = (s.setF (R.chCtl n.val c.val) F.chCtl_STATE 0).updChan n.val c.val fun x =>
      { x with stage := 0, t := none, buf := [] } :=
  if_pos ⟨stops, landed⟩

/-! ### Source beats (R383, R388) -/

/-- The Tape goes on to when a channel's credit covers a beat of `b` bytes. -/
def State.waitCredit (s : State) (x : ChanSt) (share b : Nat) : State :=
  if b ≤ x.creditNow share s.tape then s
  else s.advance (s.tape + (b - x.creditNow share s.tape + share - 1) / share)

/-- The request of a channel's source beat: of `b` bytes, at offset `o` of the descriptor. -/
def sourceReq (n : Fin 64) (c : Fin 8) (x : ChanSt) (o b : Nat) : YReq :=
  let io := !bit x.ctl 0 && match regionOf (x.srcAt o) with | .mmio _ => true | _ => false
  { agent := .bobbin n c, eye := 0, txid := 0, op := if io then 0x0E else 0x08, pa := BitVec.ofNat 56 (x.srcAt o),
    size := b, kind := 0, off := o, sub := x.serial }

/-- A channel that reads its source sends the next beat once its credit covers it, and pays for it. -/
theorem sourceBeatEff_of_reading {x : ChanSt} {u v : State} {share : Nat} (reads : s.chan n.val c.val = x)
    (runs : s.chanState n.val c.val = 1) (stage : x.stage = 2) (left : x.read < x.len)
    (opened : s.fenceIsOpen (.bob n) = true)
    (room : s.fld (R.chCtl n.val c.val) F.chCtl_INFLIGHT < s.fld (R.chLimit n.val c.val) F.chLimit_MAX_BEATS)
    (counted : s.uev 4 0x110 n.val (s.agentPocket (chanAgent n.val c.val)) = u) (shares : u.chanShare n.val c.val = share)
    (waited : u.waitCredit x share x.nextBeat.2 = v) :
    sourceBeatEff n c s = (((v.updChan n.val c.val fun y => { y with
      read := y.read + x.nextBeat.2, credit := x.creditNow share v.tape - x.nextBeat.2, creditAt := v.tape }).yokeSend
        (sourceReq n c x x.nextBeat.1 x.nextBeat.2)).chanFlight n.val c.val) := by
  subst reads counted shares waited
  refine if_neg ?_
  rintro (stopped | other | ended | shut | full)
  · exact stopped runs
  · exact other stage
  · exact absurd left (not_lt.mpr ended)
  · rw [opened] at shut
    exact absurd shut (by decide)
  · exact absurd room (not_lt.mpr full)

/-! ### Completion (R385-R387) -/

/-- A descriptor all of whose bytes are written goes on to its status ATOM; a short one's IRQ_HALF fires first. -/
theorem descriptorCompleteEff_of_written {x : ChanSt} {u : State} (reads : s.chan n.val c.val = x)
    (runs : s.chanState n.val c.val = 1) (stage : x.stage = 2) (written : x.issued = x.len)
    (acked : (bit x.ctl 2 && s.chanBusy n.val c.val) = false)
    (half : (if bit x.ctl 3 && decide (x.len < 2) then
      (s.setF (R.chIrq n.val c.val) F.chIrq_HALF 1).chanMsi n.val c.val else s) = u) :
    descriptorCompleteEff n c s =
      (u.updChan n.val c.val fun x => { x with stage := 3, t := none }).chanAtom n.val c.val .ok := by
  subst reads half
  refine if_neg ?_
  rintro (stopped | other | unwritten | busy)
  · exact stopped runs
  · exact other stage
  · exact unwritten written
  · exact Bool.eq_false_iff.mp acked busy

/-- The status ATOM is back: the descriptor is counted, and its IRQ_FULL fires. -/
def State.descDone (s : State) (n c : Nat) : State :=
  let v := s.setF (R.chDone n c) F.chDone_DESCS (s.fld (R.chDone n c) F.chDone_DESCS + 1)
  if bit (s.chan n c).ctl 4 then (v.setF (R.chIrq n c) F.chIrq_FULL 1).chanMsi n c else v

section Atom
variable {r : YReq} {e : LineData × BitVec 4} {u w : State} {old : Nat} (back : s.atomBack n.val c.val = some r)
  (got : r.got = some e) (reads : lineNat e.1 (r.pa.toNat % 64) 4 = old) (dropped : s.dropYoke r.eye r.txid = u)
  (runs : u.chanState n.val c.val = 1) (stage : (u.chan n.val c.val).stage = 3) (done : u.descDone n.val c.val = w)
include back got reads dropped runs stage done

/-- The old CTL that the ATOM returns ends the chain at LAST, else says where the next descriptor is found. -/
theorem statusAtomEff_of_back : statusAtomEff n c s =
    if ctlLast old then (w.setF (R.chCtl n.val c.val) F.chCtl_STATE 0).updChan n.val c.val fun x => { x with stage := 0 }
    else if ctlChain old = 1 then w.chanNext n.val c.val (w.fld (R.chDesc n.val c.val) F.chDesc_ADDR * 32 + 32)
    else w.chanFetch n.val c.val 4 := by
  have goesOn : ¬ (u.chanState n.val c.val ≠ 1 ∨ (u.chan n.val c.val).stage ≠ 3) :=
    not_or.mpr ⟨not_not_intro runs, not_not_intro stage⟩
  subst reads done
  simp only [statusAtomEff, back, got, dropped, if_neg goesOn]
  rfl

theorem statusAtomEff_of_last (last : ctlLast old = true) : statusAtomEff n c s =
    (w.setF (R.chCtl n.val c.val) F.chCtl_STATE 0).updChan n.val c.val fun x => { x with stage := 0 } :=
  (statusAtomEff_of_back back got reads dropped runs stage done).trans (if_pos last)

variable (more : ctlLast old = false)
include more

/-- CHAIN 1 puts the next descriptor behind this one. -/
theorem statusAtomEff_of_following (chain : ctlChain old = 1) : statusAtomEff n c s =
    w.chanNext n.val c.val (w.fld (R.chDesc n.val c.val) F.chDesc_ADDR * 32 + 32) :=
  (statusAtomEff_of_back back got reads dropped runs stage done).trans
    ((if_neg (Bool.eq_false_iff.mp more)).trans (if_pos chain))

/-- Any other has NEXT read. -/
theorem statusAtomEff_of_linked (chain : ctlChain old ≠ 1) : statusAtomEff n c s = w.chanFetch n.val c.val 4 :=
  (statusAtomEff_of_back back got reads dropped runs stage done).trans
    ((if_neg (Bool.eq_false_iff.mp more)).trans (if_neg chain))

end Atom

end Channel

/-- Settles O47: GO and ABORT by the engine's fence, their check and the channel's state, and each event of a channel by
its stage. -/
theorem bobbinChannels : Obligations.BobbinChannels := by
  unfold Obligations.BobbinChannels
  refine ⟨fun a n c s run => ⟨fun shut => ?shut, fun opened =>
      ⟨fun reason refused => ?refused, fun pass => ?commands⟩⟩,
    fun n c s run stops landed => ?stopped, fun n c s run runs => ?beat, fun n c s run runs => ?complete,
    fun n c r e s run back got => ?atom⟩
  case shut =>
    exact ⟨State.next_live run (State.bobGuard_of_shut shut), State.next_live run (State.bobGuard_of_shut shut)⟩
  case refused =>
    exact State.next_live run ((State.bobGuard_of_open opened).trans (State.ctlGuard_of_viol refused))
  case commands =>
    refine ⟨fun ready landed => ?_, fun busy => ?_, fun runs => ?_, fun other => ?_⟩
    · exact State.next_bobGuard run opened pass (congrArg (·, Resp.ok) (State.chanGo_of_ready ready landed))
    · exact State.next_bobGuard run opened pass (congrArg (·, Resp.ok) (State.chanGo_of_busy busy))
    · exact State.next_bobGuard run opened pass (congrArg (·, Resp.ok) (State.chanAbort_of_running runs))
    · exact State.next_bobGuard run opened pass (congrArg (·, Resp.ok) (State.chanAbort_of_other other))
  case stopped => exact State.next_live run (channelStoppedEff_of_landed stops landed)
  case beat =>
    exact fun stage left opened room =>
      State.next_live run (sourceBeatEff_of_reading rfl runs stage left opened room rfl rfl rfl)
  case complete =>
    exact fun stage written acked =>
      State.next_live run (descriptorCompleteEff_of_written rfl runs stage written acked rfl)
  case atom =>
    exact fun runs stage =>
      ⟨fun last => State.next_live run (statusAtomEff_of_last back got rfl rfl runs stage rfl last),
        fun more chain => State.next_live run (statusAtomEff_of_following back got rfl rfl runs stage rfl more chain),
        fun more chain => State.next_live run (statusAtomEff_of_linked back got rfl rfl runs stage rfl more chain)⟩

end Sys2Proof.Machine
end

section
/-! PROOFS of the statement about scrub passes (R290-R293), temperature readings and due refreshes (R286, R287), and training
results (R274, R294, R295). -/

namespace Sys2Proof.Machine

/-! ### GO and ABORT of a scrub (R290, R292) -/

/-- SCRUB_CTL with the settings that a GO writes (R290). -/
def State.scrubSettings (s : State) (c : Ctlr) (rate : Nat) (irq mode : Bool) : State :=
  ((s.setF (R.mcScrubCtl c) F.mcScrubCtl_RATE (clampN 1 1024 rate)).setF (R.mcScrubCtl c) F.mcScrubCtl_IRQ_EN
    (if irq then 1 else 0)).setF (R.mcScrubCtl c) F.mcScrubCtl_MODE (if mode then 1 else 0)

/-- LIMIT raised to BASE, and the sums of the last pass cleared (R290). -/
def State.scrubCleared (u : State) (c : Ctlr) : State :=
  ((((u.setF (R.mcScrubLimit c) F.mcScrubLimit_LINE
    (max (u.fld (R.mcScrubBase c) F.mcScrubBase_LINE) (u.fld (R.mcScrubLimit c) F.mcScrubLimit_LINE))).wr
      (R.mcScrubSum0 c) 0).wr (R.mcScrubSum1 c) 0).wr (R.mcScrubFirst c) 0).wr (R.mcScrubLast c) 0

/-- A pass that starts at BASE: its start on the Tape, STATUS, interrupt and place (R290). -/
def State.scrubStarted (u : State) (c : Ctlr) : State :=
  let x := (((u.scrubCleared c).wr (R.mcScrubTapeStart c) (BitVec.ofNat 64 u.tape)).setF (R.mcScrubCtl c)
    F.mcScrubCtl_STATUS 1).setSource (5 + c.num) false
  x.updMc c.num fun m =>
    { m with next := u.fld (R.mcScrubBase c) F.mcScrubBase_LINE, stop := 0, us := x.tape / 1000, started := 0 }

section Command
variable {s : State} {c : Ctlr} {rate : Nat} {irq mode : Bool}

/-- GO has no effect on a pass that runs. -/
theorem State.startScrub_of_running (runs : s.fld (R.mcScrubCtl c) F.mcScrubCtl_STATUS = 1) :
    s.startScrub c rate irq mode = s :=
  if_pos runs

/-- ABORT stops a pass that runs, and only one that runs. -/
theorem State.abortScrub_of_running (runs : s.fld (R.mcScrubCtl c) F.mcScrubCtl_STATUS = 1) : s.abortScrub c =
    s.updMc c.num fun m => { m with stop := if m.stop = 0 then 1 else m.stop } :=
  if_pos runs

theorem State.abortScrub_of_idle (idle : s.fld (R.mcScrubCtl c) F.mcScrubCtl_STATUS ≠ 1) : s.abortScrub c = s :=
  if_neg idle

variable {u : State} (idle : s.fld (R.mcScrubCtl c) F.mcScrubCtl_STATUS ≠ 1)
  (written : s.scrubSettings c rate irq mode = u)
include idle written

/-- GO at a controller that is not in service, or not behind an OPEN fence, leaves OFFLINE. -/
theorem State.startScrub_of_offline (off : (u.mcServes c && u.fenceIsOpen (.mc c)) = false) :
    s.startScrub c rate irq mode = u.setF (R.mcScrubCtl c) F.mcScrubCtl_STATUS 4 := by
  subst written
  exact (if_neg idle).trans (if_pos (congrArg (!·) off))

/-- At one that serves, it starts a pass. -/
theorem State.startScrub_of_serving (serves : (u.mcServes c && u.fenceIsOpen (.mc c)) = true) :
    s.startScrub c rate irq mode = u.scrubStarted c := by
  subst written
  exact (if_neg idle).trans (if_neg (Bool.eq_false_iff.mp (congrArg (!·) serves)))

end Command

/-! ### The lines of a pass, and its end (R290-R292) -/

/-- A pass moves past a line that starts now, and counts it (R290, R291). -/
def State.scrubPast (s : State) (c : Ctlr) (line : Nat) : State :=
  (s.updMc c.num fun m => { m with
    next := line + 1, us := s.tape / 1000, started := if m.us = s.tape / 1000 then m.started + 1 else 1 }).incF
      (R.mcScrubSum0 c) F.mcScrubSum0_SCANNED

section Line
variable {s : State} {c : Ctlr} {line : Nat} (found : s.nextBacked c (s.mc c.num).next = some line)
  (runs : s.fld (R.mcScrubCtl c) F.mcScrubCtl_STATUS = 1) (goesOn : (s.mc c.num).stop = 0)
  (within : line ≤ s.fld (R.mcScrubLimit c) F.mcScrubLimit_LINE)
  (room : (s.mc c.num).started < s.fld (R.mcScrubCtl c) F.mcScrubCtl_RATE)
include found runs goesOn within room

/-- The next line of a pass within its LIMIT and its RATE is counted by what it holds. -/
theorem scrubLineEff_of_due :
    scrubLineEff c .clean s = s.scrubPast c line ∧
    scrubLineEff c .correctable s = (s.scrubPast c line).incF (R.mcScrubSum0 c) F.mcScrubSum0_CORRECTED ∧
    scrubLineEff c .poisonOnly s = (s.scrubPast c line).incF (R.mcScrubSum1 c) F.mcScrubSum1_POISONED := by
  have taken : ¬ (s.fld (R.mcScrubCtl c) F.mcScrubCtl_STATUS ≠ 1 ∨ (s.mc c.num).stop ≠ 0 ∨
      s.fld (R.mcScrubLimit c) F.mcScrubLimit_LINE < line) := by omega
  have now : ¬ ((s.mc c.num).us = s.tape / 1000 ∧
      s.fld (R.mcScrubCtl c) F.mcScrubCtl_RATE ≤ (s.mc c.num).started) := by omega
  refine ⟨?_, ?_, ?_⟩ <;> simp only [scrubLineEff, found, if_neg taken, if_neg now] <;> rfl

end Line

section End
variable {s : State} {c : Ctlr} (runs : s.fld (R.mcScrubCtl c) F.mcScrubCtl_STATUS = 1)
include runs

/-- A pass that was stopped ends ABORTED. -/
theorem scrubEndEff_of_aborted (stopped : (s.mc c.num).stop = 1) : scrubEndEff c s = s.endScrub c 3 := by
  simp only [scrubEndEff, runs, stopped, ne_eq, not_true_eq_false, if_false]

/-- One whose controller was closed ends OFFLINE. -/
theorem scrubEndEff_of_offline (stopped : (s.mc c.num).stop = 2) : scrubEndEff c s = s.endScrub c 4 := by
  simp only [scrubEndEff, runs, stopped, ne_eq, not_true_eq_false, if_false]

variable (goesOn : (s.mc c.num).stop = 0)
include goesOn

/-- One with no backed line left ends DONE. -/
theorem scrubEndEff_of_exhausted (exhausted : s.nextBacked c (s.mc c.num).next = none) :
    scrubEndEff c s = s.endScrub c 2 := by
  simp only [scrubEndEff, runs, goesOn, exhausted, ne_eq, not_true_eq_false, if_false, if_true]

/-- So does one whose next line is past LIMIT. -/
theorem scrubEndEff_of_past {line : Nat} (found : s.nextBacked c (s.mc c.num).next = some line)
    (past : s.fld (R.mcScrubLimit c) F.mcScrubLimit_LINE < line) : scrubEndEff c s = s.endScrub c 2 := by
  simp only [scrubEndEff, runs, goesOn, found, past, decide_true, ne_eq, not_true_eq_false, if_false, if_true]

end End

/-! ### Temperature and refresh (R286, R287) -/

/-- A reading of `t` degrees, and the refresh rate that follows: doubled above TEMP_HI, normal again 3 degrees below it,
and in between as it was (R286). -/
def State.tempTaken (s : State) (c : Ctlr) (t : Nat) : State :=
  let hi := s.fld (R.mcParam c) F.mcParam_TEMP_HI
  let u := (s.setF (R.mcTherm c) F.mcTherm_TEMP t).setF (R.mcTherm c) F.mcTherm_READ_FAIL 0
  if hi < t then u.setF (R.mcTherm c) F.mcTherm_DOUBLED 1
  else if t + 3 ≤ hi then u.setF (R.mcTherm c) F.mcTherm_DOUBLED 0 else u

section Heat
variable {s : State} {c : Ctlr} (serves : s.mcServes c = true)
include serves

/-- A command of a memory in service is not passed over. -/
theorem State.mcServes_reaches : ¬ (!s.mcServes c) = true := by
  rw [serves]
  decide

/-- A reading that fails is recorded, and doubles the rate. -/
theorem tempReadEff_of_failed : tempReadEff c none s =
    (((s.setF (R.mcTherm c) F.mcTherm_READ_FAIL 1).setF (R.mcTherm c) F.mcTherm_DOUBLED 1).mcErr
      c 0 5 0 0 (protoMisc 7 0)).refreshAllow :=
  if_neg (State.mcServes_reaches serves)

variable {t : BitVec 8}

/-- From 95 degrees a reading raises ALARM. -/
theorem tempReadEff_of_hot (hot : 95 ≤ t.toNat) : tempReadEff c (some t) s =
    (((s.tempTaken c t.toNat).setF (R.mcTherm c) F.mcTherm_ALARM 1).setF (R.mcTherm c)
      F.mcTherm_ALARM_SEEN 1).refreshAllow :=
  (if_neg (State.mcServes_reaches serves)).trans (congrArg State.refreshAllow (if_pos hot))

theorem tempReadEff_of_cool (cool : t.toNat < 95) : tempReadEff c (some t) s =
    ((s.tempTaken c t.toNat).setF (R.mcTherm c) F.mcTherm_ALARM 0).refreshAllow :=
  (if_neg (State.mcServes_reaches serves)).trans (congrArg State.refreshAllow (if_neg (not_le.mpr cool)))

/-- A refresh that falls due has ALLOW_NS, as it stands, to its deadline. -/
theorem refreshEff_of_serving {rank : Fin 4} : refreshEff c rank s = s.updMc c.num fun m =>
    { m with due := KMap.set none rank.val (some ⟨3, s.tape, s.fld (R.mcRefresh c) F.mcRefresh_ALLOW_NS, 0⟩) m.due } :=
  if_neg (State.mcServes_reaches serves)

end Heat

/-! ### Training results (R274, R294, R295) -/

section Training
variable {s : State} {c : Ctlr} {r : TrainRes}

/-- A result outside step 6 is one of a retraining. -/
theorem trainingCompleteEff_of_otherStep (other : s.atStep 6 = false) : trainingCompleteEff c r s = s.retrained c r := by
  simp only [trainingCompleteEff, other, Bool.false_and, Bool.false_eq_true, if_false]

/-- At step 6 the first result of a controller is its boot's. -/
theorem trainingCompleteEff_of_boot (boots : s.atStep 6 = true) (untrained : s.fld (R.mcInfo c) F.mcInfo_STATE = 0) :
    trainingCompleteEff c r s = s.trainedAtBoot c r := by
  simp only [trainingCompleteEff, boots, untrained, beq_self_eq_true, Bool.and_self, if_true]

/-- It opens the fence of a controller that serves, and of no other. -/
theorem State.trainedAtBoot_of_serving (serves : (s.trainMc c r).mcServes c = true) : s.trainedAtBoot c r =
    (((s.trainMc c r).setFence (.mc c) 2).setF (R.fenceCmd (.mc c)) F.fenceCmd_ON 1).memReady :=
  congrArg State.memReady (if_pos serves)

theorem State.trainedAtBoot_of_failed (failed : (s.trainMc c r).mcServes c = false) :
    s.trainedAtBoot c r = (s.trainMc c r).memReady :=
  congrArg State.memReady (if_neg (Bool.eq_false_iff.mp failed))

end Training

/-- Settles O39: GO and ABORT by their check and the pass they find, the lines and the end of a pass, a reading of a memory
in service by its degrees, and a training result by the step of boot. -/
theorem scrubTrainingAndHeat : Obligations.ScrubTrainingAndHeat := by
  unfold Obligations.ScrubTrainingAndHeat
  refine ⟨fun a c rate irq mode s run => ⟨fun pass => ?go, fun reason refused => ?refused, fun pass => ?abort⟩,
    fun c line s run found runs goesOn within _ room => ?line, fun c s run runs => ?ends,
    fun c s run serves => ?temp, fun c rank s run serves => ?refresh, fun c r s => ?training⟩
  case go =>
    refine ⟨fun runs => ?_, fun idle => ⟨fun off => ?_, fun serves => ?_⟩⟩
    · exact State.next_ctlGuard run pass (congrArg (·, Resp.ok) (State.startScrub_of_running runs))
    · exact State.next_ctlGuard run pass (congrArg (·, Resp.ok) (State.startScrub_of_offline idle rfl off))
    · exact State.next_ctlGuard run pass (congrArg (·, Resp.ok) (State.startScrub_of_serving idle rfl serves))
  case refused =>
    exact ⟨State.next_live run (State.ctlGuard_of_viol refused), State.next_live run (State.ctlGuard_of_viol refused)⟩
  case abort =>
    exact ⟨fun runs => State.next_ctlGuard run pass (congrArg (·, Resp.ok) (State.abortScrub_of_running runs)),
      fun idle => State.next_ctlGuard run pass (congrArg (·, Resp.ok) (State.abortScrub_of_idle idle))⟩
  case line =>
    obtain ⟨clean, correctable, poisoned⟩ := scrubLineEff_of_due found runs goesOn within room
    exact ⟨State.next_live run clean, State.next_live run correctable, State.next_live run poisoned⟩
  case ends =>
    exact ⟨fun aborted => State.next_live run (scrubEndEff_of_aborted runs aborted),
      fun offline => State.next_live run (scrubEndEff_of_offline runs offline),
      fun goesOn exhausted => State.next_live run (scrubEndEff_of_exhausted runs goesOn exhausted),
      fun goesOn l found past => State.next_live run (scrubEndEff_of_past runs goesOn found past)⟩
  case temp =>
    exact ⟨State.next_live run (tempReadEff_of_failed serves), fun t =>
      ⟨fun hot => State.next_live run (tempReadEff_of_hot serves hot),
        fun cool => State.next_live run (tempReadEff_of_cool serves cool)⟩⟩
  case refresh => exact State.next_live run (refreshEff_of_serving serves)
  case training =>
    refine ⟨fun boots untrained => ?_, fun other => congrArg Host.Outcome.next (trainingCompleteEff_of_otherStep other)⟩
    have result := trainingCompleteEff_of_boot (r := r) boots untrained
    exact ⟨fun serves => congrArg Host.Outcome.next (result.trans (State.trainedAtBoot_of_serving serves)),
      fun failed => congrArg Host.Outcome.next (result.trans (State.trainedAtBoot_of_failed failed))⟩

end Sys2Proof.Machine
end

section
/-! PROOFS of the statement about the door requests that are not about pockets or POWER: blocks, messages, exports, debug
grants, random bytes, tags and reset vectors (R306, R347-R352, R361, R116). -/

namespace Sys2Proof.Machine

/-! ### What the Keeper does with a request it has fetched (R348, R351) -/

section Fetch
variable {s : State} {d : DoorHdr} {code w : Nat} {f : State → State} (world : d.world.toNat = w)
  (ready : s.doorReady w = true)
include world ready

/-- A door whose ring the Welt shuts from its world halts with a violation (R348). -/
theorem State.doorTake_of_viol {pa reason : Nat}
    (at' : s.fld (R.doorCtl w) F.doorCtl_BASE * 4096 + 64 * s.fld (R.doorPtr w) F.doorPtr_REQ_HEAD = pa)
    (refused : s.welt false w pa false = .viol reason) :
    s.doorTake d code f = (s.violation 0 0xCA pa w 0x08 reason 0).haltDoor w := by
  subst world at'
  simp only [State.doorTake, ready, refused, Bool.not_true, Bool.false_eq_true, if_false]

variable (pass : s.welt false w (s.fld (R.doorCtl w) F.doorCtl_BASE * 4096 + 64 * s.fld (R.doorPtr w) F.doorPtr_REQ_HEAD) false =
    .pass)
include pass

/-- RANDOM, RESET_VEC and ALTER are served in either mode. -/
theorem State.doorTake_of_fitting (may : (code == 0x0E || code == 0x11 || code == 0x10) = true) :
    s.doorTake d code f = f (s.doorTaken w) := by
  subst world
  simp only [State.doorTake, State.doorTaken, ready, pass, may, Bool.not_true, Bool.and_false, Bool.false_eq_true, if_false]

/-- In Fitting mode any other request is refused. -/
theorem State.doorTake_refused (fitting : (s.doorTaken w).service = false)
    (other : (code == 0x0E || code == 0x11 || code == 0x10) = false) :
    s.doorTake d code f = (s.doorTaken w).doorReply d code 1 := by
  subst world
  unfold State.doorTaken at fitting ⊢
  simp only [State.doorTake, ready, pass, fitting, other, Bool.not_true, Bool.not_false, Bool.and_self, Bool.false_eq_true,
    if_false, if_true]

end Fetch

/-! ### The requests, each in the state in which it is served -/

section Served
variable {s u : State} {d : DoorHdr} (taken : ∀ code f, s.doorTake d code f = f u)
include taken

/-- A request from the host world about a pocket with no other request under way is served. -/
theorem State.doorPocket_of_idle {code : Nat} {peer : Pocket} {f : State → State} (host : d.world = 0) (pocket : peer ≠ 0)
    (idle : (u.pocket peer.toNat).busy = false) : s.doorPocket d code peer f = f u := by
  simp only [State.doorPocket, State.doorHost, taken, host, if_true, if_neg pocket, idle, Bool.false_eq_true, if_false]

section Blocks
variable {b : Block} {peer : Pocket} {bars : List (Addr × Addr)}

/-- A pocket may hold a block: a panel only while it is ARMED (R352). -/
def State.mayHold (s : State) (q : Nat) : Block → Bool
  | .panel _ => s.armed q
  | _ => (s.pocket q).st != .free

section Assign
variable (host : d.world = 0) (pocket : peer ≠ 0) (idle : (u.pocket peer.toNat).busy = false)
include host pocket idle

/-- ASSIGN of a block on its way is answered BUSY. -/
theorem assignEff_of_moving (moving : (u.findHand b).isSome = true) :
    assignEff d b peer bars s = u.doorReply d 6 5 0 peer.toNat :=
  (State.doorPocket_of_idle taken host pocket idle).trans (if_pos moving)

/-- ASSIGN of one that is there and that no pocket owns starts its hand-over, at step 2, where no seal breaks. -/
theorem assignEff_of_free (still : (u.findHand b).isSome = false) (there : u.blockThere b = true)
    (holds : u.mayHold peer.toNat b = true) (free : ((u.blockOwner b).1 && (u.blockOwner b).2 != 0) = false)
    (seals : u.breaks (u.setOwner b true peer.toNat) = none) :
    assignEff d b peer bars s = u.handStart
      { block := b, src := 0, dst := peer.toNat, step := 2, world := 0, seq := d.seq.toNat,
        bars := bars.map fun e => (e.1.toNat, e.2.toNat) } := by
  have allowed : ¬ (!u.blockThere b || !u.mayHold peer.toNat b || ((u.blockOwner b).1 && (u.blockOwner b).2 != 0)) = true := by
    rw [there, holds, free]; decide
  refine (State.doorPocket_of_idle taken host pocket idle).trans
    ((if_neg (Bool.eq_false_iff.mp still)).trans ((if_neg allowed).trans ?_))
  rw [seals]

end Assign

/-- RELEASE is a violation of any world but the pocket that owns the block. -/
theorem releaseEff_of_other (other : d.world = 0 ∨ (u.blockOwner b).2 ≠ d.world.toNat) :
    releaseEff d b s = u.doorViol d 8 :=
  (taken 8 _).trans (if_pos other)

/-- RELEASE by the owner, of a block that is not on its way, starts the hand-over to the host world. -/
theorem releaseEff_of_owner (pocket : d.world ≠ 0) (owner : (u.blockOwner b).2 = d.world.toNat)
    (enabled : (u.blockOwner b).1 = true) (still : u.findHand b = none) :
    releaseEff d b s = (u.handStart
      { block := b, src := d.world.toNat, dst := 0, step := 2, world := d.world.toNat, seq := d.seq.toNat,
        rel := some d.seq.toNat }).checkSeals := by
  have mine : ¬ (d.world = 0 ∨ (u.blockOwner b).2 ≠ d.world.toNat) := by
    rintro (host | other)
    · exact pocket host
    · exact other owner
  have on : ¬ (!(u.blockOwner b).1) = true := by rw [enabled]; decide
  refine (taken 8 _).trans ((if_neg mine).trans ?_)
  rw [still]
  exact if_neg on

end Blocks

section Msg
variable {peer : Pocket} {body : BitVec 320}

/-- MSG between two pockets, or from the host world to itself, is a violation. -/
theorem msgEff_of_alike (alike : (d.world = 0) = (peer = 0)) : msgEff d peer body s = u.doorViol d 0xB :=
  (taken 0xB _).trans (if_pos alike)

/-- MSG between the host world and a pocket in use is posted to it, and answered OK. -/
theorem msgEff_of_posted (differ : (d.world = 0) ≠ (peer = 0)) (used : peer = 0 ∨ (u.pocket peer.toNat).st ≠ .free) :
    msgEff d peer body s = (u.doorPost
      { world := peer.toNat, code := 0x83, seq := d.seq.toNat, peer := d.world.toNat,
        args := leBytes 40 body.toNat }).doorReply d 0xB 0 0 peer.toNat := by
  have there : ¬ (peer ≠ 0 ∧ (u.pocket peer.toNat).st = .free) := by tauto
  exact (taken 0xB _).trans ((if_neg differ).trans (if_neg there))

end Msg

section ExportSet
variable {e : Fin 4096} {w0 w1 w2 w3 : Word}

/-- EXPORT_SET of an entry that another pocket holds is refused. -/
theorem exportSetEff_of_held
    (held : u.fld (R.export0 e.val) F.export0_VALID = 1 ∧ u.fld (R.export1 e.val) F.export1_DST_POCKET ≠ d.world.toNat) :
    exportSetEff d e w0 w1 w2 w3 s = u.doorReply d 0xC 1 :=
  (taken 0xC _).trans (if_pos held)

/-- An entry's four words, written for a pocket as its DST_POCKET: NODE_HI and LIMIT are at least NODE_LO and BASE. -/
def State.setExport (s : State) (i pocket : Nat) (w0 w1 w2 w3 : Word) : State :=
  let m := fun (w : Word) hi lo => w.toNat / 2 ^ lo % 2 ^ (hi + 1 - lo)
  let a := ((s.setF (R.export0 i) F.export0_VALID (m w0 63 63)).setF (R.export0 i) F.export0_RIGHTS (m w0 62 60)).setF
    (R.export0 i) F.export0_ANY_POCKET (m w0 59 59)
  let b := (a.setF (R.export0 i) F.export0_NODE_LO (m w0 43 29)).setF (R.export0 i) F.export0_NODE_HI
    (max (m w0 43 29) (m w0 58 44))
  let c := (b.setF (R.export1 i) F.export1_SRC_POCKET (m w1 23 12)).setF (R.export1 i) F.export1_DST_POCKET pocket
  (c.setF (R.export2 i) F.export2_BASE (m w2 55 0)).setF (R.export3 i) F.export3_LIMIT (max (m w2 55 0) (m w3 55 0))

/-- EXPORT_SET of any other takes the words given, with the sender as DST_POCKET. -/
theorem exportSetEff_of_free
    (free : ¬ (u.fld (R.export0 e.val) F.export0_VALID = 1 ∧ u.fld (R.export1 e.val) F.export1_DST_POCKET ≠ d.world.toNat)) :
    exportSetEff d e w0 w1 w2 w3 s = (u.setExport e.val d.world.toNat w0 w1 w2 w3).doorReply d 0xC 0 :=
  (taken 0xC _).trans (if_neg free)

end ExportSet

section Grant
variable {inv noninv : Bool} {w : Nat} (world : d.world.toNat = w)
include world

/-- The grant raises an enable of the world. -/
def State.grantRaises (s : State) (w : Nat) (inv noninv : Bool) : Bool :=
  (inv && s.fld (R.debugEn w) F.debugEn_INV == 0) || (noninv && s.fld (R.debugEn w) F.debugEn_NONINV == 0)

/-- A pocket's rule lets it raise its enables: MAY_GRANT (R361). -/
def State.mayGrant (s : State) (w : Nat) : Bool := w != 0 && bit (s.debugPolicy w) 2

/-- A world's enables, as a grant sets them. -/
def State.setGrant (s : State) (w : Nat) (inv noninv : Bool) : State :=
  (s.setF (R.debugEn w) F.debugEn_INV (if inv then 1 else 0)).setF (R.debugEn w) F.debugEn_NONINV (if noninv then 1 else 0)

/-- DEBUG_GRANT that raises an enable without MAY_GRANT is refused. -/
theorem debugGrantEff_of_refused (raises : u.grantRaises w inv noninv = true) (may : u.mayGrant w = false) :
    debugGrantEff d inv noninv s = u.doorReply d 0xD 1 := by
  subst world
  have refused : (u.grantRaises d.world.toNat inv noninv && !u.mayGrant d.world.toNat) = true := by rw [raises, may]; rfl
  exact (taken 0xD _).trans (if_pos refused)

/-- Any other takes effect; harts halted in the world go on once its INV is 0. -/
theorem debugGrantEff_of_granted (granted : u.grantRaises w inv noninv = false ∨ u.mayGrant w = true) :
    debugGrantEff d inv noninv s =
      (if inv then u.setGrant w inv noninv else (u.setGrant w inv noninv).resumeLowered w).doorReply d 0xD 0 := by
  subst world
  have allowed : ¬ (u.grantRaises d.world.toNat inv noninv && !u.mayGrant d.world.toNat) = true := by
    rcases granted with low | may
    · rw [low, Bool.false_and]; exact Bool.false_ne_true
    · rw [may, Bool.not_true, Bool.and_false]; exact Bool.false_ne_true
  exact (taken 0xD _).trans (if_neg allowed)

end Grant

section Host
variable (host : d.world = 0)
include host

/-- A request of the host world that only it may make is served. -/
theorem State.doorHost_of_host {code : Nat} {f : State → State} : s.doorHost d code f = f u :=
  (taken code _).trans (if_pos host)

variable {mop : BitVec 8} {m : MgmtReq}

/-- FABRIC_TAG answers the tag under the fabric key. -/
theorem fabricTagEff_of_key {t : List Byte}
    (tag : u.fabricMac mop.toNat m.newId.toNat m.serial.toNat m.nonce.toNat = some t) :
    fabricTagEff d mop m s = u.doorReply d 0xF 0 0 0 t := by
  rw [fabricTagEff, State.doorHost_of_host taken host, tag]

/-- Without a key it is refused. -/
theorem fabricTagEff_of_noKey (noKey : u.fabricMac mop.toNat m.newId.toNat m.serial.toNat m.nonce.toNat = none) :
    fabricTagEff d mop m s = u.doorReply d 0xF 1 := by
  rw [fabricTagEff, State.doorHost_of_host taken host, noKey]

theorem resetVecEff_of_host {p : Panel} {pa : Addr} :
    resetVecEff d p pa s = (u.setF (R.resetVec p.val) F.resetVec_ADDR (pa.toNat / 4)).doorReply d 0x11 0 :=
  State.doorHost_of_host taken host

end Host

end Served

/-- RANDOM answers 32 free bytes in either mode (R116). -/
theorem randomEff_of_taken {s u : State} {d : DoorHdr} (taken : ∀ f, s.doorTake d 0xE f = f u) :
    randomEff d s = (u.randomBytes 32).2.doorReply d 0xE 0 0 0 (u.randomBytes 32).1 :=
  taken _

/-- Settles O45: a fetch that the Welt refuses, then the requests by the mode they come in, and in service each by what
the Keeper finds of its block, pocket, entry or world. -/
theorem blockAndMessageRequests : Obligations.BlockAndMessageRequests := by
  unfold Obligations.BlockAndMessageRequests
  intro d s w head pa u ready
  refine ⟨fun reason peer body refused => ?refused, fun pass fitting => ⟨fun peer body => ?msgFitting, ?randomFitting⟩,
    fun pass service => ?served⟩
  case refused => exact congrArg Host.Outcome.next (State.doorTake_of_viol rfl ready rfl refused)
  case msgFitting => exact congrArg Host.Outcome.next (State.doorTake_refused rfl ready pass fitting rfl)
  case randomFitting =>
    exact congrArg Host.Outcome.next (randomEff_of_taken fun _ => State.doorTake_of_fitting rfl ready pass rfl)
  case served =>
    have taken : ∀ code f, s.doorTake d code f = f u := fun _ _ => State.doorTake_of_service rfl ready pass service
    refine ⟨fun b peer bars host pocket idle => ⟨fun moving => ?_, fun still there holds free seals => ?_⟩,
      fun b => ⟨fun other => ?_, fun pocket owner enabled still => ?_⟩,
      fun peer body => ⟨fun alike => ?_, fun differ used => ?_⟩,
      fun e w0 w1 w2 w3 => ⟨fun valid other => ?_, fun free => ?_⟩,
      fun inv noninv => ⟨fun raises may => ?_, fun granted => ?_⟩, ?_,
      fun host mop m p pa => ⟨fun t tag => ?_, fun noKey => ?_, ?_⟩⟩
    all_goals refine congrArg Host.Outcome.next ?_
    · exact assignEff_of_moving taken host pocket idle moving
    · exact assignEff_of_free taken host pocket idle still there holds free seals
    · exact releaseEff_of_other taken other
    · exact releaseEff_of_owner taken pocket owner enabled still
    · exact msgEff_of_alike taken alike
    · exact msgEff_of_posted taken differ used
    · exact exportSetEff_of_held taken ⟨valid, other⟩
    · exact exportSetEff_of_free taken fun held => free.elim (· held.1) held.2
    · exact debugGrantEff_of_refused taken rfl raises may
    · exact debugGrantEff_of_granted taken rfl granted
    · exact randomEff_of_taken (taken 0xE)
    · exact fabricTagEff_of_key taken host tag
    · exact fabricTagEff_of_noKey taken host noKey
    · exact resetVecEff_of_host taken host

end Sys2Proof.Machine
end

section
/-! PROOFS of the statement about the mailbox: its commands are taken or rejected (R425), refused by boot step, authorised
(R426), and run (R418-R437). -/

namespace Sys2Proof.Machine

/-! ### The mailbox takes a command (R425) -/

/-- A command written while one is under way is counted, with its SEQ (R425). -/
def State.mbxRejected (s : State) (seq : Nat) : State :=
  (s.setF R.mbxStatus F.mbxStatus_REJECTS ((s.fld R.mbxStatus F.mbxStatus_REJECTS + 1) % 256)).setF R.mbxStatus
    F.mbxStatus_REJECTED_SEQ seq

section Run
variable {s u : State} {seq : Nat} {allowed : Bool} {f : State → State} (sent : s.setF R.mbxCmd F.mbxCmd_SEQ seq = u)
include sent

theorem State.mbxRun_of_busy (busy : u.mbxBusy = true) : s.mbxRun seq allowed f = u.mbxRejected seq := by
  subst sent
  exact if_pos busy

variable (idle : u.mbxBusy = false)
include idle

theorem State.mbxRun_of_otherStep (early : allowed = false) : s.mbxRun seq allowed f = u.mbxEnd seq 0x84 := by
  subst sent early
  exact (if_neg (Bool.eq_false_iff.mp idle)).trans (if_pos rfl)

theorem State.mbxRun_of_allowed (step : allowed = true) : s.mbxRun seq allowed f = f u := by
  subst sent step
  exact (if_neg (Bool.eq_false_iff.mp idle)).trans (if_neg Bool.false_ne_true)

end Run

/-! ### Authorised commands (R426) -/

/-- The body in the argument area names this package and its nonce, and its signature verifies. -/
def State.mbxSigned (s : State) : Prop :=
  le (s.mbxArg 0 64) 8 8 = (s.rd R.mbxNonce).toNat ∧ le (s.mbxArg 0 64) 16 8 = (s.rd R.pkgSerial).toNat ∧
    s.sigCheck (s.mbxArg 0 64) (s.mbxArg 64 784) = none

/-- The mailbox takes an authorised command as any other. -/
theorem State.mbxAuth_of_busy {s u : State} {seq code : Nat} {allowed : Bool} {f : Nat → List Byte → State → Nat × State}
    (sent : s.setF R.mbxCmd F.mbxCmd_SEQ seq = u) (busy : u.mbxBusy = true) :
    s.mbxAuth seq code allowed f = u.mbxRejected seq :=
  State.mbxRun_of_busy sent busy

section Auth
variable {s u : State} {seq code r : Nat} {allowed : Bool} {f : Nat → List Byte → State → Nat × State}
  (taken : ∀ g, s.mbxRun seq allowed g = g u)
include taken

/-- One whose body or signature does not verify ends with 0x81. -/
theorem State.mbxAuth_of_unsigned (unsigned : ¬ u.mbxSigned) : s.mbxAuth seq code allowed f = u.mbxEnd seq 0x81 := by
  have fails : le (u.mbxArg 0 64) 0 2 ≠ code ∨ le (u.mbxArg 0 64) 8 8 ≠ (u.rd R.mbxNonce).toNat ∨
      le (u.mbxArg 0 64) 16 8 ≠ (u.rd R.pkgSerial).toNat ∨ (u.sigCheck (u.mbxArg 0 64) (u.mbxArg 64 784)).isSome := by
    contrapose! unsigned
    obtain ⟨-, nonce, serial, sig⟩ := unsigned
    exact ⟨nonce, serial, Option.not_isSome_iff_eq_none.mp sig⟩
  exact (taken _).trans (if_pos fails)

variable {t : State} (signed : u.mbxSigned) (named : le (u.mbxArg 0 64) 0 2 = code)
  (does : f (le (u.mbxArg 64 784) 0 1) (seg (u.mbxArg 0 64) 24 40) u = (r, t))
include signed named does

/-- One that verifies is run, and ends with its result. -/
theorem State.mbxAuth_of_signed :
    s.mbxAuth seq code allowed f = (if r = 0x81 then t else t.newNonce).mbxEnd seq r := by
  obtain ⟨nonce, serial, sig⟩ := signed
  have verifies : ¬ (le (u.mbxArg 0 64) 0 2 ≠ code ∨ le (u.mbxArg 0 64) 8 8 ≠ (u.rd R.mbxNonce).toNat ∨
      le (u.mbxArg 0 64) 16 8 ≠ (u.rd R.pkgSerial).toNat ∨
      (u.sigCheck (u.mbxArg 0 64) (u.mbxArg 64 784)).isSome = true) := by
    simp [named, nonce, serial, sig]
  refine (taken _).trans ((if_neg verifies).trans ?_)
  rw [does]

/-- A command that is authorised renews the nonce. -/
theorem State.mbxAuth_of_accepted (accepted : r ≠ 0x81) :
    s.mbxAuth seq code allowed f = t.newNonce.mbxEnd seq r := by
  rw [State.mbxAuth_of_signed taken signed named does, if_neg accepted]

/-- One that answers 0x81 itself does not. -/
theorem State.mbxAuth_of_unauthorised (unauthorised : r = 0x81) :
    s.mbxAuth seq code allowed f = t.mbxEnd seq r := by
  rw [State.mbxAuth_of_signed taken signed named does, if_pos unauthorised]

end Auth

/-! ### What each authorised command does (R418-R420) -/

section Keys
variable {s u : State} {seq : BitVec 16} (taken : ∀ g, s.mbxRun seq.toNat true g = g u) (signed : u.mbxSigned)
include taken signed

section Owner
variable {k : Nat} (named : le (u.mbxArg 0 64) 0 2 = 0x11) (slot : le (seg (u.mbxArg 0 64) 24 40) 0 1 = k)
include named slot

/-- OWNER_KEY programs an owner slot that is not programmed. -/
theorem ownerKeyEff_of_free (low : 1 ≤ k) (high : k ≤ 4) (free : u.slotProgrammed k = false) :
    ownerKeyEff seq s = ({ u with
      otp.keys := KMap.insert k (leNat (seg (seg (u.mbxArg 0 64) 24 40) 8 32)) u.otp.keys } : State).showFuses.newNonce.mbxEnd
        seq.toNat 0 := by
  subst slot
  refine State.mbxAuth_of_accepted taken signed named (if_neg ?_) (by decide)
  rintro (below | past | programmed)
  · exact below.not_ge low
  · exact past.not_ge high
  · exact Bool.eq_false_iff.mp free programmed

/-- It refuses one that is. -/
theorem ownerKeyEff_of_programmed (programmed : u.slotProgrammed k = true) :
    ownerKeyEff seq s = u.newNonce.mbxEnd seq.toNat 0x80 := by
  subst slot
  exact State.mbxAuth_of_accepted taken signed named (if_pos (.inr (.inr programmed))) (by decide)

end Owner

section Revoke
variable {k : Nat} (named : le (u.mbxArg 0 64) 0 2 = 0x12) (slot : le (seg (u.mbxArg 0 64) 24 40) 0 1 = k)
include named slot

/-- REVOKE of the slot that signs it is not authorised. -/
theorem revokeEff_of_signer (signs : k = le (u.mbxArg 64 784) 0 1) : revokeEff seq s = u.mbxEnd seq.toNat 0x81 := by
  subst slot
  exact State.mbxAuth_of_unauthorised taken signed named (if_pos signs) rfl

/-- REVOKE of another one blows its fuse, where a slot that may sign is left: an owner's, where slot 0 goes (R419). -/
theorem revokeEff_of_other (other : k ≠ le (u.mbxArg 64 784) 0 1) (high : k ≤ 4)
    (left : ((List.range 5).filter fun i => i != k && u.slotSigns i) ≠ [])
    (owner : k = 0 → ((List.range 5).filter fun i => i != k && u.slotSigns i).any (· != 0) = true) :
    revokeEff seq s = ({ u with
      otp.revoked := if u.otp.revoked.contains k then u.otp.revoked else k :: u.otp.revoked } : State).showFuses.newNonce.mbxEnd
        seq.toNat 0 := by
  subst slot
  refine State.mbxAuth_of_accepted taken signed named ((if_neg other).trans (if_neg ?_)) (by decide)
  rintro (past | empty | ⟨first, all⟩)
  · exact past.not_ge high
  · exact left (List.isEmpty_iff.mp empty)
  · obtain ⟨i, mem, nonzero⟩ := List.any_eq_true.mp (owner first)
    exact absurd (List.all_eq_true.mp all i mem) (by simpa using nonzero)

end Revoke

/-- ROLLBACK raises the firmware's or the Pattern's count. -/
theorem rollbackEff_of_firmware (named : le (u.mbxArg 0 64) 0 2 = 0x13) (fw : le (seg (u.mbxArg 0 64) 24 40) 0 1 = 0) :
    rollbackEff seq s = ({ u with
      otp.fwRoll := max u.otp.fwRoll (min 64 (le (seg (u.mbxArg 0 64) 24 40) 1 1)) } : State).showFuses.newNonce.mbxEnd
        seq.toNat 0 :=
  State.mbxAuth_of_accepted taken signed named (by simp only [fw]) (by decide)

theorem rollbackEff_of_pattern (named : le (u.mbxArg 0 64) 0 2 = 0x13) (pat : le (seg (u.mbxArg 0 64) 24 40) 0 1 = 1) :
    rollbackEff seq s = ({ u with
      otp.patRoll := max u.otp.patRoll (min 64 (le (seg (u.mbxArg 0 64) 24 40) 1 1)) } : State).showFuses.newNonce.mbxEnd
        seq.toNat 0 :=
  State.mbxAuth_of_accepted taken signed named (by simp only [pat]) (by decide)

/-- HOST_VERIFY sets its fuse. -/
theorem hostVerifyEff_of_signed (named : le (u.mbxArg 0 64) 0 2 = 0x14) :
    hostVerifyEff seq s = ({ u with otp.hostVerify := true } : State).showFuses.newNonce.mbxEnd seq.toNat 0 :=
  State.mbxAuth_of_accepted taken signed named rfl (by decide)

end Keys

/-- SET_FABRIC_KEY takes the key of its body (R306, R420). -/
theorem setFabricKeyEff_of_signed {s u : State} {seq : BitVec 16} (taken : ∀ g, s.mbxRun seq.toNat s.fwRuns g = g u)
    (signed : u.mbxSigned) (named : le (u.mbxArg 0 64) 0 2 = 0x10) {k : Nat}
    (key : leNat (seg (seg (u.mbxArg 0 64) 24 40) 0 32) = k) :
    setFabricKeyEff seq s = ((({ u with otp.fabricKey := some k, boot.fabKey := some k } : State).setF R.fuseState
      F.fuseState_FABRIC_KEY 1).newNonce).mbxEnd seq.toNat 0 := by
  subst key
  exact State.mbxAuth_of_accepted taken signed named rfl (by decide)

/-! ### The other commands (R423, R424, R430, R433, R435) -/

section Commands
variable {s u : State} {seq : BitVec 16}

section Firmware
variable (taken : ∀ g, s.mbxRun seq.toNat (s.atStep 2 && s.boot.fwWait) g = g u)
include taken

/-- LOAD_FIRMWARE runs the staged image where it is accepted. -/
theorem loadFirmwareEff_of_accepted (accepted : u.checkFw u.pat.staging = 0) :
    loadFirmwareEff seq s = ((u.runFw u.pat.staging 3).svcMsix 3).mbxEnd seq.toNat 0 := by
  rw [loadFirmwareEff, taken]
  simp only [State.tryFw, accepted, if_true]

/-- It shows the code of the check that refuses one. -/
theorem loadFirmwareEff_of_refused {c : Nat} (refuses : c ≠ 0) (check : u.checkFw u.pat.staging = c) :
    loadFirmwareEff seq s = ((u.setF R.bootStatus F.bootStatus_FW_CODE c).svcMsix 3).mbxEnd seq.toNat c := by
  rw [loadFirmwareEff, taken]
  simp only [State.tryFw, check, if_neg refuses]

end Firmware

section Payload
variable (taken : ∀ g, s.mbxRun seq.toNat (s.atStep 8 && s.boot.hold) g = g u)
include taken

/-- RUN_PAYLOAD ends with the code of the check that refuses its image. -/
theorem runPayloadEff_of_refused (refused : u.checkHost u.pat.staging ≠ 0) :
    runPayloadEff seq s = (u.svcMsix 3).mbxEnd seq.toNat (u.checkHost u.pat.staging) :=
  (taken _).trans (if_pos refused)

/-- The staged payload, placed at its address. -/
def State.payloadPlaced (s : State) : State :=
  s.setList (le s.pat.staging 8 8) (s.pat.staging.take (le s.pat.staging 16 4))

/-- Every enabled hart goes into the staged payload, in VS (R435). -/
def State.payloadEntered (s : State) : State :=
  s.allHarts.foldl (fun t h => t.updHart h fun x =>
    { x with
      mode := .run, wait := .none
      w := { x.w with priv := 1, virt := true, pc := BitVec.ofNat 64 (le s.pat.staging 8 8 + le s.pat.staging 20 4) } })
    s.payloadPlaced

/-- RUN_PAYLOAD places one that is accepted, and it runs from its ENTRY until it ends or is late. -/
theorem runPayloadEff_of_accepted (accepted : u.checkHost u.pat.staging = 0)
    (fits : u.onlineRange (le u.pat.staging 8 8) (le u.pat.staging 16 4) = true) :
    runPayloadEff seq s = (({ u.payloadEntered with
      boot.payload := some { seq := seq.toNat, t := u.payloadEntered.timer 18 2, harts := u.allHarts } } : State).svcMsix 3).mbxBegin
        seq.toNat :=
  (taken _).trans ((if_neg (not_not.mpr accepted)).trans (if_neg (Bool.eq_false_iff.mp (congrArg (!·) fits))))

end Payload

section Measured
variable (taken : ∀ g, s.mbxRun seq.toNat s.fwRuns g = g u)
include taken

/-- QUOTE leaves a quote in the reply area. -/
theorem quoteEff_of_running {nonce : BitVec 256} : quoteEff seq nonce s =
    ((u.quoteOver nonce.toNat).2.mbxReply 0 (u.quoteOver nonce.toNat).1).mbxEnd seq.toNat 0 :=
  taken _

variable {n : BitVec 8} {d : BitVec 256}

/-- EXTEND extends one of registers 8 to 15. -/
theorem extendEff_of_open (low : 8 ≤ n.toNat) (high : n.toNat ≤ 15) :
    extendEff seq n d s = (u.extendMeas n.toNat (leBytes 32 d.toNat)).mbxEnd seq.toNat 0 :=
  (taken _).trans (if_neg (by omega))

theorem extendEff_of_other (other : n.toNat < 8 ∨ 15 < n.toNat) : extendEff seq n d s = u.mbxEnd seq.toNat 0x80 :=
  (taken _).trans (if_pos other)

end Measured

theorem warmResetEff_of_powered (taken : ∀ g, s.mbxRun seq.toNat true g = g u) (powered : s.pins.vstby = true) :
    warmResetEff seq s = u.warmAll :=
  (if_neg (Bool.eq_false_iff.mp (congrArg (!·) powered))).trans (taken _)

section Saddles
variable (taken : ∀ g, s.mbxRun seq.toNat s.service g = g u) {sd : Saddle}
include taken

/-- RESET_SADDLE is refused while a panel of the saddle, a saddle of its partition, or its LLC is not OFF. -/
theorem resetSaddleEff_of_refused {ok : Bool} (on : (u.saddleReason sd.val).isSome = true ∨ u.saddleState sd.val ≠ 2) :
    resetSaddleEff seq sd ok s = u.mbxEnd seq.toNat 0x80 := by
  have refused : ((u.saddleReason sd.val).isSome || u.saddleState sd.val != 2) = true := by
    rw [Bool.or_eq_true, bne_iff_ne]; exact on
  exact (taken _).trans (if_pos refused)

/-- The Gusset ends of a saddle. -/
def saddleEnds (n : Nat) : List GusEnd :=
  allGusEnds.filter fun e => match e with | .saddle t _ => t.val == n | .yoke _ => false

/-- A saddle that has been reset, with its straps read again and its controllers configured. -/
def State.saddleAnew (s : State) (n : Nat) : State :=
  (sdCtlrs n).foldl State.configMc (((s.scrubSaddle n).refreshAllow.refreshBolts).configSaddle n)

/-- Its Gussets start from their reset state, and the ends they face open again (R430). -/
def State.saddleRejoined (s : State) (n : Nat) : State :=
  ((saddleEnds n).filterMap GusEnd.peer).foldl (fun s e => if s.gusState e = 0 then s else s.gusReopen e)
    ((saddleEnds n).foldl (fun s e => (s.setF (R.gusStatus e) F.gusStatus_LOCAL_GOOD 0xFFFF).gusStart e 1) s)

theorem resetSaddleEff_of_off (reason : u.saddleReason sd.val = none) (off : u.saddleState sd.val = 2) :
    resetSaddleEff seq sd true s = ((u.saddleAnew sd.val).saddleRejoined sd.val).mbxEnd seq.toNat 0 := by
  have allowed : ¬ ((u.saddleReason sd.val).isSome || u.saddleState sd.val != 2) = true := by
    rw [reason, off]; decide
  exact (taken _).trans (if_neg allowed)

end Saddles

end Commands

/-! ### The mailbox as a whole -/

/-- An authorised command that may come at any boot step. -/
theorem exec_mbxAuth {seq : BitVec 16} {c : Instr} (s : State)
    (is : c = .ownerKey seq ∨ c = .revoke seq ∨ c = .rollback seq ∨ c = .hostVerify seq) :
    ∃ code f, exec c s = .next (s.mbxAuth seq.toNat code true f) := by
  rcases is with rfl | rfl | rfl | rfl
  all_goals exact ⟨_, _, rfl⟩

/-- Settles O53: a command while another is under way, then each by its boot step and by what the Keeper finds of it; an
authorised one by its signature first. -/
theorem mailboxCommands : Obligations.MailboxCommands := by
  unfold Obligations.MailboxCommands
  intro seq s u auth body block arg good
  refine ⟨fun busy c is => ?rejected, fun idle => ?taken⟩
  case rejected =>
    simp only [auth, List.mem_cons, List.not_mem_nil, or_false] at is
    rcases is with rfl | rfl | rfl | rfl | owner
    case inl | inr.inl | inr.inr.inl => exact congrArg Host.Outcome.next (State.mbxRun_of_busy rfl busy)
    · exact congrArg Host.Outcome.next (State.mbxAuth_of_busy rfl busy)
    · obtain ⟨code, f, runs⟩ := exec_mbxAuth s owner
      exact runs.trans (congrArg Host.Outcome.next (State.mbxAuth_of_busy rfl busy))
  case taken =>
    have taken : ∀ {allowed : Bool}, allowed = true → ∀ g, s.mbxRun seq.toNat allowed g = g u :=
      fun step _ => State.mbxRun_of_allowed rfl idle step
    refine ⟨fun early => ?_, fun step => ⟨fun accepted => ?_, fun c refuses check => ?_⟩, fun hold low high => ?_,
      fun step => ⟨fun refused => ?_, fun accepted fits => ?_⟩,
      fun runs => ⟨fun nonce => ?_, fun n d low high => ?_, fun n d other => ?_⟩, fun powered => ?_,
      fun service sd ok on => ?_, fun service sd reason off => ?_, fun unsigned c is => ?unsigned, fun signed => ?signed⟩
    case unsigned =>
      obtain ⟨code, f, runs⟩ := exec_mbxAuth s (by simpa using is)
      exact runs.trans (congrArg Host.Outcome.next (State.mbxAuth_of_unsigned (taken rfl) unsigned))
    case signed =>
      refine ⟨fun runs named => ?_, fun named => ⟨fun low high free => ?_, fun programmed => ?_⟩,
        fun named => ⟨fun signs => ?_, fun other high left owner => ?_⟩, fun named => ⟨fun fw => ?_, fun pat => ?_⟩,
        fun named => ?_⟩
      all_goals refine congrArg Host.Outcome.next ?_
      · exact setFabricKeyEff_of_signed (taken runs) signed named rfl
      · exact ownerKeyEff_of_free (taken rfl) signed named rfl low high free
      · exact ownerKeyEff_of_programmed (taken rfl) signed named rfl programmed
      · exact revokeEff_of_signer (taken rfl) signed named rfl signs
      · exact revokeEff_of_other (taken rfl) signed named rfl other high left owner
      · exact rollbackEff_of_firmware (taken rfl) signed named fw
      · exact rollbackEff_of_pattern (taken rfl) signed named pat
      · exact hostVerifyEff_of_signed (taken rfl) signed named
    all_goals refine congrArg Host.Outcome.next ?_
    · exact State.mbxRun_of_otherStep rfl idle early
    · exact loadFirmwareEff_of_accepted (taken step) accepted
    · exact loadFirmwareEff_of_refused (taken step) refuses check
    · exact taken (by rw [decide_eq_true low, decide_eq_true high]; rfl) _
    · exact runPayloadEff_of_refused (taken step) refused
    · exact runPayloadEff_of_accepted (taken step) accepted fits
    · exact quoteEff_of_running (taken runs)
    · exact extendEff_of_open (taken runs) low high
    · exact extendEff_of_other (taken runs) other
    · exact warmResetEff_of_powered (taken rfl) powered
    · exact resetSaddleEff_of_refused (taken service) on
    · exact resetSaddleEff_of_off (taken service) reason off

end Sys2Proof.Machine
end

section
/-! PROOFS of the statement about Harness ports: training (R299), frames, NAKs and replays (R298), and HELLOs (R301). -/

namespace Sys2Proof.Machine

/-- Lanes of a port are trained: it is UP, or only waits for its peer's HELLO (R299). -/
def State.lanesUp (s : State) (k : Nat) : Bool := s.portState k == 2 || (s.portState k == 1 && (s.hport k).trained)

theorem State.lanesUp_iff {s : State} {k : Nat} :
    s.lanesUp k = true ↔ s.portState k = 2 ∨ (s.portState k = 1 ∧ (s.hport k).trained = true) := by
  rw [State.lanesUp, Bool.or_eq_true, Bool.and_eq_true, beq_iff_eq, beq_iff_eq]

/-! ### Training (R299) -/

section Training
variable {s : State} {k : Fin 16}

/-- LANES of the width that a training attempt tries: x4, then lanes 0 and 1, then lanes 2 and 3. -/
def widthTried (lane : Nat) : Nat := match lane with | 0 => 3 | 1 => 1 | _ => 2

/-- Lanes that train at that width send a HELLO. -/
theorem portTrainedEff_of_width {lanes : BitVec 2} (training : s.portState k = 1) (untrained : (s.hport k).trained = false)
    (width : lanes.toNat = widthTried (s.hport k).lane) : portTrainedEff k lanes s =
      ((s.setF (R.portStatus k.val) F.portStatus_LANES lanes.toNat).updHport k fun p => { p with trained := true }).sendHello k := by
  have trains : ¬ (s.portState k ≠ 1 ∨ (s.hport k).trained = true ∨ lanes.toNat ≠ widthTried (s.hport k).lane) := by
    simp [training, untrained, width]
  rw [width]
  exact if_neg trains

/-- The port at the end of TRAIN_MS. -/
def State.attemptOver (s : State) (k : Nat) : State :=
  (s.advance ((s.hport k).since + s.cfg 0xB0 k 4 2 500 * 1000000)).setF (R.portStatus k) F.portStatus_LANES 0

/-- The next width is tried where ALLOW_X2 lets it. -/
theorem trainTimeoutEff_of_nextWidth (training : s.portState k = 1) (left : (s.hport k).lane < 2)
    (allowed : (s.attemptOver k).portCtl k 1 = true) : trainTimeoutEff k s = (s.attemptOver k).updHport k fun p =>
      { p with lane := p.lane + 1, since := (s.attemptOver k).tape, trained := false, heard := false } :=
  (if_neg (not_not.mpr training)).trans (if_pos ⟨left, allowed⟩)

/-- Where it does not, or no width is left, the port goes DOWN. -/
theorem trainTimeoutEff_of_lastWidth (training : s.portState k = 1)
    (last : 2 ≤ (s.hport k).lane ∨ (s.attemptOver k).portCtl k 1 = false) : trainTimeoutEff k s =
      (((s.attemptOver k).setPort k 3).updHport k fun p =>
        { p with since := (s.attemptOver k).tape, trained := false, heard := false }).portErr k 1 4 (linkMisc 5 k.val 0) := by
  refine (if_neg (not_not.mpr training)).trans (if_neg ?_)
  rintro ⟨left, allowed⟩
  rcases last with past | forbidden
  · exact left.not_ge past
  · exact Bool.eq_false_iff.mp forbidden allowed

/-- A port that is DOWN trains again after RETRY_MS. -/
theorem retryTimerEff_of_down (down : s.portState k = 3) (enabled : s.portCtl k 0 = true) :
    retryTimerEff k s = (s.advance ((s.hport k).since + s.cfg 0xB0 k.val 6 2 1000 * 1000000)).trainStart k := by
  have retries : ¬ (s.portState k ≠ 3 ∨ (!s.portCtl k 0) = true) := by simp [down, enabled]
  exact if_neg retries

end Training

/-! ### Frames and replays (R298) -/

section Frames
variable {s : State} {k : Fin 16} (up : s.lanesUp k = true)
include up

theorem State.lanesUp_reaches : ¬ (!s.lanesUp k) = true := by
  rw [up]
  decide

section Frame
variable {seq ack : BitVec 12} {typ : BitVec 8}

/-- A frame that fails its CRC is answered by a NAK of the frame awaited. -/
theorem linkFrameEff_of_badCrc :
    linkFrameEff k seq ack false typ s = s.updHport k fun x => { x with naks := x.rx % 4096 :: x.naks } :=
  (if_neg (State.lanesUp_reaches up)).trans (if_pos rfl)

/-- The oldest frame not acknowledged once `ack` has been heard: frame numbers are taken modulo 4,096, and one of no frame
sent acknowledges nothing. -/
def HPort.unaAfter (p : HPort) (ack : Nat) : Nat :=
  if (ack + 1 + 4096 - p.una % 4096) % 4096 ≤ p.tx - p.una then p.una + (ack + 1 + 4096 - p.una % 4096) % 4096 else p.una

/-- The frames that `ack` acknowledges leave the replay buffer. -/
def State.acked (s : State) (k ack : Nat) : State :=
  s.updHport k fun x => { x with
    una := (s.hport k).unaAfter ack
    runs := if (s.hport k).unaAfter ack = x.una then x.runs else 0
    sent := x.sent.filter fun t => match t.last with | some n => decide ((s.hport k).unaAfter ack ≤ n) | none => true }

/-- The next frame in sequence has come. -/
def State.frameTaken (s : State) (k : Nat) : State := s.updHport k fun x => { x with rx := x.rx + 1 }

/-- A frame of an unknown TYPE is discarded, counted and recorded. -/
def State.unknownType (s : State) (k typ : Nat) : State :=
  ((({ s with hrn.badType := s.hrn.badType + 1 } : State).updHport k fun x => { x with badType := x.badType + 1 }).portErr k 1 5
    (protoMisc 0x0B typ))

/-- A frame out of sequence only acknowledges. -/
theorem linkFrameEff_of_outOfSequence (out : seq.toNat ≠ (s.hport k).rx % 4096) :
    linkFrameEff k seq ack true typ s = (s.acked k ack.toNat).portPump k :=
  (if_neg (State.lanesUp_reaches up)).trans
    ((if_neg Bool.false_ne_true).trans (congrArg (State.portPump · k) (if_pos out)))

variable (next : seq.toNat = (s.hport k).rx % 4096)
include next

theorem linkFrameEff_of_known (known : typ.toNat ≤ 6) :
    linkFrameEff k seq ack true typ s = ((s.acked k ack.toNat).frameTaken k).portPump k :=
  (if_neg (State.lanesUp_reaches up)).trans ((if_neg Bool.false_ne_true).trans
    (congrArg (State.portPump · k) ((if_neg (not_not.mpr next)).trans (if_pos known))))

theorem linkFrameEff_of_unknown (unknown : 6 < typ.toNat) : linkFrameEff k seq ack true typ s =
    (((s.acked k ack.toNat).frameTaken k).unknownType k typ.toNat).portPump k :=
  (if_neg (State.lanesUp_reaches up)).trans ((if_neg Bool.false_ne_true).trans
    (congrArg (State.portPump · k) ((if_neg (not_not.mpr next)).trans (if_neg unknown.not_ge))))

end Frame

section Nak
variable {seq : BitVec 12}

/-- The frame a NAK names, as the first of those not acknowledged with that number. -/
def HPort.nakFrame (p : HPort) (seq : Nat) : Nat := p.una + (seq + 4096 - p.una % 4096) % 4096

/-- Replays of one frame in succession, with the one that a NAK asks for. -/
def HPort.nakRuns (p : HPort) (seq : Nat) : Nat := if p.nakFrame seq = p.una then p.runs + 1 else 1

/-- The port goes back to the frame that a NAK names, and counts the frames it sends again. -/
def State.replayed (s : State) (k seq : Nat) : State :=
  (s.incF (R.portStatus k) F.portStatus_REPLAYS ((s.hport k).tx - (s.hport k).nakFrame seq)).updHport k fun x => { x with
    una := (s.hport k).nakFrame seq
    runs := (s.hport k).nakRuns seq
    sent := x.sent.filter fun t => match t.last with | some m => decide ((s.hport k).nakFrame seq ≤ m) | none => true }

variable (sent : (s.hport k).nakFrame seq.toNat < (s.hport k).tx)
include sent

theorem State.nak_reaches : ¬ (!s.lanesUp k || decide ((s.hport k).tx ≤ (s.hport k).nakFrame seq.toNat)) = true := by
  rw [up, decide_eq_false sent.not_ge]
  decide

/-- The eighth replay of a frame in succession retrains the port. -/
theorem nakEff_of_eighth (eighth : 8 ≤ (s.hport k).nakRuns seq.toNat) :
    nakEff k seq s = (s.replayed k seq.toNat).trainStart k :=
  (if_neg (State.nak_reaches up sent)).trans (if_pos eighth)

/-- An earlier one only sends again. -/
theorem nakEff_of_earlier (earlier : (s.hport k).nakRuns seq.toNat < 8) :
    nakEff k seq s = (s.replayed k seq.toNat).portPump k :=
  (if_neg (State.nak_reaches up sent)).trans (if_neg earlier.not_ge)

end Nak

/-! ### HELLO (R301) -/

section Hello
variable {m : Hello}

/-- The peer that a HELLO names is recorded. -/
def State.peerHeard (s : State) (k : Nat) (m : Hello) : State :=
  (((s.setF (R.portStatus k) F.portStatus_PEER_NODE m.node.toNat).setF (R.portStatus k) F.portStatus_PEER_PORT m.port.toNat).wr
    (R.portPeer k) m.serial).updHport k fun p => { p with heard := true, peerFeat := m.level.toNat }

/-- Another package with this node's ID is flagged (R301). -/
def State.dupChecked (s : State) (k : Nat) (m : Hello) : State :=
  if s.assigned && m.node.toNat == s.nodeId && m.serial.toNat != s.serialNo then
    ((s.setF R.hrnNode F.hrnNode_DUP_SEEN 1).portErr k 1 5 (protoMisc 8 m.serial.toNat)).hrnEvent else s

/-- A port comes UP, with a record where it did so on half its lanes (R299). -/
def State.portUp (s : State) (k : Nat) : State :=
  if s.fld (R.portStatus k) F.portStatus_LANES = 3 then s.setPort k 2
  else (s.setPort k 2).portErr k 1 4 (linkMisc 5 k (laneMask (s.fld (R.portStatus k) F.portStatus_LANES)))

theorem helloEff_of_portUp (was : ((s.peerHeard k m).dupChecked k m).portState k = 2) :
    helloEff k m s = (s.peerHeard k m).dupChecked k m :=
  (if_neg (State.lanesUp_reaches up)).trans (if_pos was)

/-- A HELLO brings a port in training UP, and what waits there leaves. -/
theorem helloEff_of_portTraining (was : ((s.peerHeard k m).dupChecked k m).portState k ≠ 2) :
    helloEff k m s = ((((s.peerHeard k m).dupChecked k m).portUp k).portPump k).hrnPump :=
  (if_neg (State.lanesUp_reaches up)).trans (if_neg was)

end Hello

end Frames

/-- Settles O40: training by its widths, and what arrives at a port whose lanes are up by its sequence, its TYPE and its
peer. -/
theorem harnessPorts : Obligations.HarnessPorts := by
  unfold Obligations.HarnessPorts
  refine ⟨fun k lanes s training untrained width => ?trained, fun k s training => ⟨fun left allowed => ?next, fun last => ?last⟩,
    fun k s down enabled => ?retry, fun k s up => ?loss, fun k seq ack typ s up => ?frame, fun k seq s up => ?nak,
    fun k m s up => ?hello⟩
  case trained => exact congrArg Host.Outcome.next (portTrainedEff_of_width training untrained width)
  case next => exact congrArg Host.Outcome.next (trainTimeoutEff_of_nextWidth training left allowed)
  case last => exact congrArg Host.Outcome.next (trainTimeoutEff_of_lastWidth training last)
  case retry => exact congrArg Host.Outcome.next (retryTimerEff_of_down down enabled)
  case loss => exact congrArg Host.Outcome.next (if_pos up)
  case frame =>
    have up := State.lanesUp_iff.mpr up
    exact ⟨congrArg Host.Outcome.next (linkFrameEff_of_badCrc up),
      fun out => congrArg Host.Outcome.next (linkFrameEff_of_outOfSequence up out),
      fun next known => congrArg Host.Outcome.next (linkFrameEff_of_known up next known),
      fun next unknown => congrArg Host.Outcome.next (linkFrameEff_of_unknown up next unknown)⟩
  case nak =>
    intro p n runs u sent
    have up := State.lanesUp_iff.mpr up
    exact ⟨fun eighth => congrArg Host.Outcome.next (nakEff_of_eighth up sent eighth),
      fun earlier => congrArg Host.Outcome.next (nakEff_of_earlier up sent earlier)⟩
  case hello =>
    have up := State.lanesUp_iff.mpr up
    exact ⟨fun was => congrArg Host.Outcome.next (helloEff_of_portUp up was),
      fun was => congrArg Host.Outcome.next (helloEff_of_portTraining up was)⟩

end Sys2Proof.Machine
end

section
/-! PROOFS of the statement about Harness management (R302-R305, R434) and the I3C target (R307). -/

namespace Sys2Proof.Machine

/-! ### Management packets on their way (R302) -/

section Hops
variable {s : State} {k : Fin 16} {path : Word} {hop hops : BitVec 5} {mop : BitVec 8} (up : s.portState k = 2)
include up

section Last
variable (last : clampN 1 16 hops.toNat ≤ hop.toNat)
include last

/-- At its last hop a packet is delivered. -/
theorem mgmtReceiveEff_of_known (known : mop.toNat ≤ 2) : mgmtReceiveEff k path hop hops mop s =
    { s with hrn.mgmtIn := s.hrn.mgmtIn ++ [(k.val, path, clampN 1 16 hops.toNat)] } :=
  (if_neg (not_not.mpr up)).trans ((if_pos last).trans (if_neg known.not_gt))

/-- One of an unknown MOP is answered there. -/
theorem mgmtReceiveEff_of_unknown (unknown : 2 < mop.toNat) : mgmtReceiveEff k path hop hops mop s =
    s.mgmtReply (k.val, path, clampN 1 16 hops.toNat) 3 mop.toNat [] :=
  (if_neg (not_not.mpr up)).trans ((if_pos last).trans (if_pos unknown))

end Last

section Through
variable (through : hop.toNat < clampN 1 16 hops.toNat) {out : Nat} (names : path.toNat / 16 ^ hop.toNat % 16 = out)
include through names

/-- Elsewhere it leaves by the port that PATH names, that port replaced by the one it came by. -/
theorem mgmtReceiveEff_of_through (way : s.portState out = 2) : mgmtReceiveEff k path hop hops mop s =
    s.portQueue out
      { typ := 5, id := 0, m := noPkt, hop := hop.toNat + 1, hops := clampN 1 16 hops.toNat
        path := BitVec.ofNat 64 (path.toNat - out * 16 ^ hop.toNat + k.val * 16 ^ hop.toNat) } := by
  subst names
  exact (if_neg (not_not.mpr up)).trans ((if_neg through.not_ge).trans (if_neg (not_not.mpr way)))

/-- Where that port is not UP, the packet is lost. -/
theorem mgmtReceiveEff_of_noWay (noWay : s.portState out ≠ 2) : mgmtReceiveEff k path hop hops mop s = s := by
  subst names
  exact (if_neg (not_not.mpr up)).trans ((if_neg through.not_ge).trans (if_pos noWay))

end Through

end Hops

/-! ### Requests (R303-R305, R434) -/

/-- The first packet that came by a port is taken up. -/
theorem State.mgmtTake_of_found {s : State} {k : Nat} {e : Nat × Word × Nat} {f : State → Nat × Word × Nat → State}
    (found : (s.hrn.mgmtIn.find? fun e => e.1 == k) = some e) :
    s.mgmtTake k f = f { s with hrn.mgmtIn := s.hrn.mgmtIn.erase e } e := by
  rw [State.mgmtTake, found]

/-- An ID that a request names may be taken where it is not 0x7FFF and no peer has it (R305). -/
theorem State.newId_free {s : State} {id : BitVec 15} (named : id ≠ 0x7FFF) (free : s.peerHas id.toNat = false) :
    ¬ (id.toNat = 0x7FFF ∨ s.peerHas id.toNat = true) := by
  rintro (nothing | dup)
  · exact named (BitVec.eq_of_toNat_eq nothing)
  · exact Bool.eq_false_iff.mp free dup

/-- Renewing the nonce leaves a change of the node's ID waiting, or none. -/
theorem State.renewNonce_settled {s : State} (settled : s.hrn.change = none) :
    ¬ s.renewNonce.hrn.change.isSome = true := by
  rw [show s.renewNonce.hrn.change = none from settled]
  exact Bool.false_ne_true

section Requests
variable {s u : State} {k : Fin 16} {e : Nat × Word × Nat} (taken : ∀ f, s.mgmtTake k f = f u e)
include taken

theorem queryEff_of_plain : queryEff k 0 s = u.mgmtReply e 0 0 [] :=
  (taken _).trans (if_pos rfl)

/-- A nonce asks for a quote (R434). -/
theorem queryEff_of_nonce {nonce : BitVec 256} (asks : nonce ≠ 0) :
    queryEff k nonce s = (u.quoteOver nonce.toNat).2.mgmtReply e 0 0 (u.quoteOver nonce.toNat).1 :=
  (taken _).trans (if_neg asks)

variable {m : MgmtReq}

section Assign

/-- The node has an ID, or a change of it waits. -/
def State.claimed (s : State) : Bool := s.assigned || s.hrn.change.isSome

/-- A claimed node changes its ID only for a message with a valid tag. -/
theorem assignIdEff_of_noTag (claimed : u.claimed = true) (noTag : u.mgmtAuth 1 m = false) :
    assignIdEff k m s = u.mgmtReply e 1 1 [] := by
  have refused : (u.claimed && !u.mgmtAuth 1 m) = true := by rw [claimed, noTag]; rfl
  unfold assignIdEff
  exact (taken _).trans (if_pos refused)

variable (may : (u.claimed && !u.mgmtAuth 1 m) = false)
include may

/-- 0x7FFF, and an ID that a peer has, are refused as duplicates (R305). -/
theorem assignIdEff_of_duplicate (dup : m.newId = 0x7FFF ∨ u.peerHas m.newId.toNat = true) :
    assignIdEff k m s = u.mgmtReply e 2 1 [] := by
  have refused : m.newId.toNat = 0x7FFF ∨ u.peerHas m.newId.toNat = true := dup.imp_left (congrArg BitVec.toNat)
  unfold assignIdEff
  exact (taken _).trans ((if_neg (Bool.eq_false_iff.mp may)).trans (if_pos refused))

variable (named : m.newId ≠ 0x7FFF) (free : u.peerHas m.newId.toNat = false)
include named free

/-- A node that is not claimed takes it at once. -/
theorem assignIdEff_of_unclaimed (unclaimed : u.claimed = false) : assignIdEff k m s =
    ((if u.mgmtAuth 1 m then u.renewNonce else u).setNode m.newId.toNat).mgmtReply e 0 1 [] := by
  unfold assignIdEff
  exact (taken _).trans ((if_neg (Bool.eq_false_iff.mp may)).trans
    ((if_neg (State.newId_free named free)).trans (if_neg (Bool.eq_false_iff.mp unclaimed))))

/-- An assigned one lets its operations end first. -/
theorem assignIdEff_of_claimed (claimed : u.claimed = true) (auth : u.mgmtAuth 1 m = true) (settled : u.hrn.change = none) :
    assignIdEff k m s = { u.renewNonce with hrn.change := some (m.newId.toNat, e.1, e.2.1, e.2.2, 1) } := by
  unfold assignIdEff
  refine (taken _).trans ((if_neg (Bool.eq_false_iff.mp may)).trans ((if_neg (State.newId_free named free)).trans
    ((if_pos claimed).trans ?_)))
  rw [auth]
  exact if_neg (State.renewNonce_settled settled)

end Assign

section Release
variable (assigned : u.assigned = true)
include assigned

/-- RELEASE of an assigned node needs a valid tag. -/
theorem mgmtReleaseEff_of_noTag (noTag : u.mgmtAuth 2 m = false) : mgmtReleaseEff k m s = u.mgmtReply e 1 2 [] :=
  (taken _).trans ((if_neg (Bool.eq_false_iff.mp (congrArg (!·) assigned))).trans (if_pos (congrArg (!·) noTag)))

/-- With one it lets the node's operations end first. -/
theorem mgmtReleaseEff_of_tag (auth : u.mgmtAuth 2 m = true) (settled : u.hrn.change = none) : mgmtReleaseEff k m s =
    { u.renewNonce with hrn.change := some (0x7FFF, e.1, e.2.1, e.2.2, 2) } := by
  exact (taken _).trans ((if_neg (Bool.eq_false_iff.mp (congrArg (!·) assigned))).trans
    ((if_neg (Bool.eq_false_iff.mp (congrArg (!·) auth))).trans (if_neg (State.renewNonce_settled settled))))

end Release

end Requests

section Change
variable {s : State} {id k hops mop : Nat} {path : Word} (waits : s.hrn.change = some (id, k, path, hops, mop))
include waits

/-- A change of the node's ID waits for its operations. -/
theorem idChangeEff_of_running (runs : s.hrn.ops ≠ []) : idChangeEff s = s := by
  have more : (!s.hrn.ops.isEmpty) = true := by simpa using runs
  simp only [idChangeEff, waits, more, if_true]

theorem idChangeEff_of_ended (ended : s.hrn.ops = []) :
    idChangeEff s = (({ s with hrn.change := none } : State).setNode id).mgmtReply (k, path, hops) 0 mop [] := by
  simp only [idChangeEff, waits, ended, List.isEmpty_nil, Bool.not_true, Bool.false_eq_true, if_false]

end Change

/-! ### The I3C target (R307) -/

section I3c
variable {s : State}

/-- ENTDAA gives a dynamic address to a target without one. -/
theorem entdaaEff_of_unaddressed {da : BitVec 7} (unaddressed : s.hrn.da = none) :
    entdaaEff da s = { s with hrn.da := some da.toNat, hrn.i3c := s.i3cPid :: s.hrn.i3c } :=
  if_neg (by rw [unaddressed]; decide)

variable (addressed : s.hrn.da.isSome = true)
include addressed

theorem State.addressed_reaches : ¬ s.hrn.da.isNone = true := by
  rw [← Option.not_isSome, addressed]
  decide

/-- A target with one answers on the bus. -/
theorem State.i3cSay_of_addressed (l : List Byte) : s.i3cSay l = { s with hrn.i3c := l :: s.hrn.i3c } :=
  if_neg (State.addressed_reaches addressed)

theorem setnewdaEff_of_addressed {da : BitVec 7} : setnewdaEff da s = { s with hrn.da := some da.toNat } :=
  if_neg (State.addressed_reaches addressed)

theorem privateReadEff_of_addressed :
    privateReadEff s = { s with hrn.i3c := s.identityBlock :: s.hrn.i3c, pins.i3cIbi := false } := by
  refine (if_neg (State.addressed_reaches addressed)).trans ?_
  rw [State.i3cSay_of_addressed addressed]

/-- What the spec leaves open is answered by a free value. -/
theorem State.i3cSay_fresh (n : Nat) : s.fresh.2.i3cSay (leBytes n s.fresh.1) =
    { s.fresh.2 with hrn.i3c := leBytes n s.fresh.1 :: s.hrn.i3c } :=
  if_neg (State.addressed_reaches addressed)

end I3c

/-- Settles O41: a packet by its hop and the port it names, a request by its tag and the node it finds, a change by the
operations that run, and the target by whether it has an address. -/
theorem harnessManagement : Obligations.HarnessManagement := by
  unfold Obligations.HarnessManagement
  refine ⟨fun k path hop hops mop s up => ⟨fun last known => ?known, fun last unknown => ?unknown, fun through =>
      ⟨fun noWay => ?noWay, fun way => ?way⟩⟩,
    fun k e s found => ?requests, fun s id k path hops mop waits => ⟨fun ended => ?ended, fun runs => ?runs⟩,
    fun da s => ⟨rfl, fun unaddressed => ?unaddressed, fun addressed => ?addressed⟩⟩
  case known => exact congrArg Host.Outcome.next (mgmtReceiveEff_of_known up last known)
  case unknown => exact congrArg Host.Outcome.next (mgmtReceiveEff_of_unknown up last unknown)
  case noWay => exact congrArg Host.Outcome.next (mgmtReceiveEff_of_noWay up through rfl noWay)
  case way => exact congrArg Host.Outcome.next (mgmtReceiveEff_of_through up through rfl way)
  case requests =>
    intro u
    have taken : ∀ f, s.mgmtTake k f = f u e := fun _ => State.mgmtTake_of_found found
    refine ⟨congrArg Host.Outcome.next (queryEff_of_plain taken), fun nonce asks => ?_, fun m =>
      ⟨fun claimed noTag => ?_, fun unclaimed dup => ?_, fun unclaimed named free => ?_,
        fun assigned settled auth named free => ?_, fun assigned noTag => ?_, fun assigned auth settled => ?_⟩⟩
    all_goals refine congrArg Host.Outcome.next ?_
    · exact queryEff_of_nonce taken asks
    · exact assignIdEff_of_noTag taken claimed noTag
    · exact assignIdEff_of_duplicate taken (by rw [State.claimed, unclaimed, Bool.false_and]) dup
    · exact assignIdEff_of_unclaimed taken (by rw [State.claimed, unclaimed, Bool.false_and]) named free unclaimed
    · have claimed : u.claimed = true := by rw [State.claimed, assigned, Bool.true_or]
      exact assignIdEff_of_claimed taken (by rw [auth, Bool.not_true, Bool.and_false]) named free claimed auth settled
    · exact mgmtReleaseEff_of_noTag taken assigned noTag
    · exact mgmtReleaseEff_of_tag taken assigned auth settled
  case ended => exact congrArg Host.Outcome.next (idChangeEff_of_ended waits ended)
  case runs => exact congrArg Host.Outcome.next (idChangeEff_of_running waits runs)
  case unaddressed => exact congrArg Host.Outcome.next (entdaaEff_of_unaddressed unaddressed)
  case addressed =>
    exact ⟨congrArg Host.Outcome.next (setnewdaEff_of_addressed addressed),
      congrArg Host.Outcome.next (State.i3cSay_of_addressed addressed _),
      congrArg Host.Outcome.next (privateReadEff_of_addressed addressed),
      congrArg Host.Outcome.next (State.i3cSay_fresh addressed 1),
      congrArg Host.Outcome.next (State.i3cSay_fresh addressed 1),
      congrArg Host.Outcome.next (State.i3cSay_fresh addressed 2)⟩

end Sys2Proof.Machine
end

section
/-! PROOFS of the statement about Harness queues (R315, R325) and the descriptors fetched from them (R300, R312, R316-R318). -/

namespace Sys2Proof.Machine

/-! ### Doorbells and restarts (R315, R325) -/

section Doorbells
variable {s : State} {a : Agent} {q : Fin 1024}

theorem cqTailEff_of_pass {v : BitVec 12} (pass : s.ctlCheck a (R.cqTail q.val).addr = .pass) : cqTailEff a q v s =
    ((s.setF (R.cqTail q.val) F.cqTail_TAIL (min v.toNat (s.cqSize q.val - 1))).cqRefresh q.val).reply a .ok :=
  State.ctlGuard_of_pass pass

theorem rqHeadWriteEff_of_pass {v : BitVec 12} (pass : s.ctlCheck a (R.rqPtr q.val).addr = .pass) : rqHeadWriteEff a q v s =
    ((s.setF (R.rqPtr q.val) F.rqPtr_HEAD (min v.toNat (s.rqSlots q.val - 1))).hrnPump).reply a .ok :=
  State.ctlGuard_of_pass pass

section Base
variable {v : Word} (pass : s.ctlCheck a (R.cqBase q.val).addr = .pass)
include pass

/-- CQ_BASE restarts a queue with nothing outstanding. -/
theorem cqBaseWriteEff_of_idle (idle : s.fld (R.cqStatus q.val) F.cqStatus_OUTSTANDING = 0) :
    cqBaseWriteEff a q v s = (s.cqRestart q.val v).reply a .ok :=
  (State.ctlGuard_of_pass pass).trans (congrArg (State.reply · a .ok) (if_pos idle))

/-- It has no effect on any other. -/
theorem cqBaseWriteEff_of_outstanding (more : s.fld (R.cqStatus q.val) F.cqStatus_OUTSTANDING ≠ 0) :
    cqBaseWriteEff a q v s = s.reply a .ok :=
  (State.ctlGuard_of_pass pass).trans (congrArg (State.reply · a .ok) (if_neg more))

end Base

end Doorbells

/-! ### The fetch of a descriptor (R315, R321) -/

section Fetch
variable {s : State}

/-- Each round of the ring begins a new phase. -/
def State.passCounted (s : State) (q next : Nat) : State :=
  if next = 0 then { s with hrn.pass := KMap.upd 0 q (· + 1) s.hrn.pass } else s

/-- A descriptor is on its way. -/
def State.descAwaited (s : State) (d : HDesc) : State := { s with hrn.desc := s.hrn.desc ++ [d] }

/-- A RUNNING queue with a descriptor at HEAD has it read, and HEAD moves on, while the node has an operation free. -/
theorem descriptorFetchEff_of_running {q : Fin 1024} {head next : Nat} {w : State}
    (enabled : s.fld (R.cqOwner q.val) F.cqOwner_ENABLE = 1) (runs : s.fld (R.cqStatus q.val) F.cqStatus_STATE = 1)
    (at' : s.fld (R.cqStatus q.val) F.cqStatus_HEAD = head) (more : head ≠ s.fld (R.cqTail q.val) F.cqTail_TAIL)
    (room : s.hrn.ops.length < 16384) (moves : (head + 1) % s.cqSize q.val = next)
    (moved : ((s.setF (R.cqStatus q.val) F.cqStatus_HEAD next).passCounted q.val next).descAwaited
      { q := q.val, slot := head, phase := KMap.get 0 s.hrn.pass q.val % 2 == 0 } = w) :
    descriptorFetchEff q s = w.hrnRead (w.cqPocket q.val) (hsub 0 q.val) (w.cqRing q.val + 64 * head) 64 := by
  subst at' moves moved
  have fetches : ¬ (s.fld (R.cqOwner q.val) F.cqOwner_ENABLE ≠ 1 ∨ s.fld (R.cqStatus q.val) F.cqStatus_STATE ≠ 1 ∨
      s.fld (R.cqStatus q.val) F.cqStatus_HEAD = s.fld (R.cqTail q.val) F.cqTail_TAIL ∨ 16384 ≤ s.hrn.ops.length) := by
    simp [enabled, runs, more, room]
  unfold State.descAwaited State.passCounted
  exact if_neg fetches

end Fetch

/-! ### Descriptors that become operations (R300, R312, R316-R318) -/

section Data
variable {s u : State} {q slot kind : Nat} {d : HDesc} {l : List Byte} {o : HOp}
  (found : s.nextDesc q slot kind = some (d, l)) (taken : s.takeDesc d l = (o, u))
include found taken

/-- The operation of an unassigned node ends NODE (R300). -/
theorem State.startData_of_unassigned (unassigned : u.assigned = false) : s.startData q slot kind = u.endOp o .node := by
  simp only [State.startData, found, taken, unassigned, Bool.not_false, if_true]

variable (assigned : u.assigned = true)
include assigned

/-- One at a pointer that names no destination, or an ATOMIC that is misaligned, ends DECERR (R312, R318). -/
theorem State.startData_of_badTarget
    (bad : (badTarget (le l 8 16) || (kind == 4 && o.m.addr.toNat % awBytes o.m.awidth != 0)) = true) :
    s.startData q slot kind = u.endOp o .decerr := by
  simp only [State.startData, found, taken, assigned, bad, Bool.not_true, Bool.false_eq_true, if_false, if_true]

variable (target : (badTarget (le l 8 16) || (kind == 4 && o.m.addr.toNat % awBytes o.m.awidth != 0)) = false)
include target

/-- One whose local buffer the Welt refuses ends VIOL (R317). -/
theorem State.startData_of_badBuffer {pa : Nat} {c : Check}
    (bad : u.bufferBad o.m.srcPocket.toNat o.loc o.buffer.1 o.buffer.2 = some (pa, c)) :
    s.startData q slot kind = u.bufferFail o pa c := by
  simp only [State.startData, found, taken, assigned, target, bad, Bool.not_true, Bool.false_eq_true, if_false]

variable (buffer : u.bufferBad o.m.srcPocket.toNat o.loc o.buffer.1 o.buffer.2 = none)
include buffer

/-- One whose route is down ends NODE. -/
theorem State.startData_of_down (down : u.opDown o = true) : s.startData q slot kind = u.endOp o .node := by
  simp only [State.startData, found, taken, assigned, target, buffer, down, Bool.not_true, Bool.false_eq_true, if_false, if_true]

/-- Any other reads what it sends, or is ready at once. -/
theorem State.startData_of_up (up : u.opDown o = false) :
    s.startData q slot kind = u.readLocal o (if kind = 1 ∨ kind = 3 then o.buffer.1 else 0) := by
  simp only [State.startData, found, taken, assigned, target, buffer, up, Bool.not_true, Bool.false_eq_true, if_false]

end Data

/-- PUT, GET, SEND and ATOMIC each start the descriptor of their kind. -/
theorem exec_data {q : Fin 1024} {slot : BitVec 12} {kind : Nat} {c : Instr}
    (is : (kind = 1 ∧ c = .put q slot) ∨ (kind = 2 ∧ c = .get q slot) ∨ (kind = 3 ∧ c = .send q slot) ∨
      (kind = 4 ∧ c = .atomic q slot)) (s : State) : exec c s = .next (s.startData q.val slot.toNat kind) := by
  rcases is with ⟨rfl, rfl⟩ | ⟨rfl, rfl⟩ | ⟨rfl, rfl⟩ | ⟨rfl, rfl⟩
  all_goals rfl

/-! ### NOP, FENCE and MGMT (R304, R316) -/

section Others
variable {s u : State} {q : Fin 1024} {slot : BitVec 12} {d : HDesc} {l : List Byte} {o : HOp}
  (taken : s.takeDesc d l = (o, u))

include taken in
/-- NOP completes at fetch. -/
theorem nopEff_of_found (found : s.nextDesc q.val slot.toNat 0 = some (d, l)) :
    nopEff q slot s = u.endOp o (if u.assigned then .ok else .node) := by
  simp only [nopEff, found, taken]

section Fence
variable (found : s.nextDesc q.val slot.toNat 5 = some (d, l))
include found

/-- FENCE waits for what is outstanding of its queue. -/
theorem hrnFenceEff_of_outstanding (earlier : (s.assigned && s.hrn.ops.any fun o => o.q == some q.val) = true) :
    hrnFenceEff q slot s = s := by
  simp only [hrnFenceEff, found, earlier, if_true]

include taken

theorem hrnFenceEff_of_alone (alone : (s.assigned && s.hrn.ops.any fun o => o.q == some q.val) = false) :
    hrnFenceEff q slot s = u.endOp o (if u.assigned then .ok else .node) := by
  simp only [hrnFenceEff, found, alone, taken, Bool.false_eq_true, if_false]

end Fence

section Mgmt

/-- MGMT's operation: its block is 64-byte aligned, and it is not ordered. -/
def HOp.asMgmt (o : HOp) : HOp := { o with loc := o.loc / 64 * 64, m := { o.m with ordered := false } }

variable {p : HOp} {v : State} (found : s.nextDesc q.val slot.toNat 6 = some (d, l)) (op : o.asMgmt = p)
  (joined : (u.updOp p.serial fun _ => p) = v)
include taken found op joined

/-- MGMT of a pocket other than 0 is a violation (R316). -/
theorem mgmtEff_of_pocket (pocket : p.m.srcPocket.toNat ≠ 0) : mgmtEff q slot s =
    (v.err 17 1 2 (unitCode 0x0E 0x3FF) 1 (v.cqRing q.val + 64 * slot.toNat)
      (violMisc p.m.srcPocket.toNat (p.tag % 4096) 0xC9 0x1FF v.nodeId)).endOp p .viol := by
  subst op joined
  rw [mgmtEff, found]
  simp only [taken]
  exact if_pos pocket

/-- MGMT of pocket 0 reads its request (R304). -/
theorem mgmtEff_of_host (host : p.m.srcPocket.toNat = 0) (buffer : v.bufferBad 0 p.loc 2048 true = none) :
    mgmtEff q slot s = v.readLocal p 64 := by
  have passes : v.bufferBad p.m.srcPocket.toNat p.loc 2048 true = none := by rw [host, buffer]
  subst op joined
  rw [mgmtEff, found]
  simp only [taken]
  refine (if_neg (not_not.mpr host)).trans ?_
  split
  · next bad => exact absurd (passes.symm.trans bad) nofun
  · rfl

end Mgmt

end Others

/-- Settles O42: a register past its check, a fetch by the queue it finds, and a descriptor by its OP, the node, its target,
its buffer and its route. -/
theorem harnessQueues : Obligations.HarnessQueues := by
  unfold Obligations.HarnessQueues
  refine ⟨fun a q v s pass => ?tail, fun a q v s pass => ⟨fun idle => ?restart, fun more => ?kept⟩, fun a r v s pass => ?head,
    fun q s => ?fetch, fun q slot kind c d l s is found => ?data, fun q slot d l s => ?others⟩
  case tail => exact congrArg Host.Outcome.next (cqTailEff_of_pass pass)
  case restart => exact congrArg Host.Outcome.next (cqBaseWriteEff_of_idle pass idle)
  case kept => exact congrArg Host.Outcome.next (cqBaseWriteEff_of_outstanding pass more)
  case head => exact congrArg Host.Outcome.next (rqHeadWriteEff_of_pass pass)
  case fetch =>
    intro st head enabled runs more room next u v w
    exact congrArg Host.Outcome.next (descriptorFetchEff_of_running (w := w) enabled runs rfl more room rfl rfl)
  case data =>
    rw [exec_data is]
    refine ⟨fun unassigned => ?_, fun assigned bad => ?_, fun assigned target =>
      ⟨fun pa k bad => ?_, fun buffer down => ?_, fun buffer up => ?_⟩⟩
    all_goals refine congrArg Host.Outcome.next ?_
    · exact State.startData_of_unassigned found rfl unassigned
    · exact State.startData_of_badTarget found rfl assigned bad
    · exact State.startData_of_badBuffer found rfl assigned target bad
    · exact State.startData_of_down found rfl assigned target buffer down
    · exact State.startData_of_up found rfl assigned target buffer up
  case others =>
    exact ⟨fun found => congrArg Host.Outcome.next (nopEff_of_found rfl found),
      fun found => ⟨fun alone => congrArg Host.Outcome.next (hrnFenceEff_of_alone rfl found alone),
        fun earlier => congrArg Host.Outcome.next (hrnFenceEff_of_outstanding found earlier)⟩,
      fun found => ⟨fun pocket => congrArg Host.Outcome.next (mgmtEff_of_pocket rfl found rfl rfl pocket),
        fun host buffer => congrArg Host.Outcome.next (mgmtEff_of_host rfl found rfl rfl host buffer)⟩⟩

end Sys2Proof.Machine
end

section
/-! PROOFS of the statement about what arrives at the Harness: operations for this node (R322-R325), responses (R319) and
packets in transit (R310). -/

namespace Sys2Proof.Machine

/-! ### Operations for this node (R322, R323, R325) -/

section Receive
variable {s : State} {kind : Nat} {m : HPkt}

/-- What an operation for this node sets going, goes on. -/
theorem State.arriveOp_of_self (assigned : s.assigned = true) (here : m.dstNode.toNat = s.nodeId) :
    s.arriveOp kind m = (s.receive kind m).hrnPump := by
  have self : s.toSelf m.dstNode.toNat = true := by rw [State.toSelf, assigned, here, beq_self_eq_true]; rfl
  exact if_pos self

/-- An operation whose budget has run out is dropped (R324). -/
theorem State.receive_of_noBudget (out : m.budget = 0) :
    s.receive kind m = { s with hrn.drops := s.hrn.drops + 1 } :=
  if_pos out

variable (budget : m.budget ≠ 0)
include budget

/-- One that the checks refuse as a violation is recorded and answered at once. -/
theorem State.receive_of_viol (refused : s.admission kind m = .refuse .viol) : s.receive kind m =
    (s.hrnViol m m.addr.toNat).respond m (s.tape + m.budget.toNat) .viol 0 0 0 [] := by
  refine (if_neg budget).trans ?_
  rw [refused]

/-- One that they refuse otherwise is answered with that response. -/
theorem State.receive_of_refused {r : Resp} (other : r ≠ .viol) (refused : s.admission kind m = .refuse r) :
    s.receive kind m = s.respond m (s.tape + m.budget.toNat) r 0 0 0 [] := by
  refine (if_neg budget).trans ?_
  rw [refused]
  cases r with
  | viol => exact absurd rfl other
  | _ => rfl

section Accepted
variable {n : Nat} (accepted : s.admission kind m = .bytes n)
include accepted

/-- A SEND to a full queue where 64 wait is counted and dropped (R325). -/
theorem State.receive_of_full
    (full : kind = 3 ∧ s.rqFull m.addr.toNat = true ∧ 64 ≤ s.rqWaiting m.addr.toNat) :
    s.receive kind m = s.incF (R.rqPtr m.addr.toNat) F.rqPtr_DROPS := by
  refine (if_neg budget).trans ?_
  rw [accepted]
  exact if_pos full

/-- An operation joins those performed here, in arrival order. -/
def State.joinIn (s : State) (h : HIn) : State :=
  { s with hrn.nextIn := s.hrn.nextIn + 1, hrn.inb := s.hrn.inb ++ [h] }

/-- Any other joins those performed here, and starts unless it must wait (R320, R325). -/
theorem State.receive_of_room {h : HIn}
    (room : ¬ (kind = 3 ∧ s.rqFull m.addr.toNat = true ∧ 64 ≤ s.rqWaiting m.addr.toNat))
    (is : h = { id := s.hrn.nextIn, kind := kind, m := m, ends := s.tape + m.budget.toNat, bound := n }) :
    s.receive kind m = if (s.joinIn h).inWaits h then s.joinIn h else (s.joinIn h).startIn h := by
  subst is
  refine (if_neg budget).trans ?_
  rw [accepted]
  exact if_neg room

end Accepted

end Receive

/-- PUT, GET, SEND and ATOMIC arrive as operations of their kinds. -/
theorem exec_arrive {kind : Nat} {c : HPkt → Instr}
    (is : (kind = 1 ∧ c = .putReceive) ∨ (kind = 2 ∧ c = .getReceive) ∨ (kind = 3 ∧ c = .sendReceive) ∨
      (kind = 4 ∧ c = .atomicReceive)) (m : HPkt) (s : State) : exec (c m) s = .next (s.arriveOp kind m) := by
  rcases is with ⟨rfl, rfl⟩ | ⟨rfl, rfl⟩ | ⟨rfl, rfl⟩ | ⟨rfl, rfl⟩
  all_goals rfl

/-! ### Responses (R319) -/

section Responses
variable {s : State} {m : HPkt} {len off fl : Nat}

/-- A response whose tag no operation that awaits one holds is late. -/
theorem State.opResp_of_unknown (unknown : (s.hrn.ops.find? fun o => o.tag == m.tag.toNat && o.stage == 2) = none) :
    s.opResp m len off fl = s.lateAnswer 17 := by
  rw [State.opResp, unknown]

/-- The response of a window access completes it: its hart is answered with what the response brings (R313). -/
theorem State.opResp_of_hart {o : HOp} {h : Nat}
    (awaited : (s.hrn.ops.find? fun o => o.tag == m.tag.toNat && o.stage == 2) = some o) (hart : o.hart = some h) :
    s.opResp m len off fl = (s.unqueue o.serial).endOp { o with
      lenDone := len, violOff := off, resp := m.resp
      fflags := if o.kind = 4 ∧ m.aop = 10 then some fl else none
      m := { o.m with payload := m.payload } } m.resp := by
  rw [State.opResp, awaited]
  simp only [hart]

end Responses

/-! ### Transit (R310) -/

section Transit
variable {s u : State} {t : Fin 5} {m : HPkt} {k : Fin 16} {pk : Nat} (through : s.toSelf m.dstNode.toNat = false)
  (pocket : (if t.val = 4 then m.dstPocket else m.srcPocket).toNat = pk) (counted : s.uev 4 0x124 k.val pk = u)
include through pocket counted

/-- A packet for another node, its TTL one less, leaves by the route table. -/
theorem transitForwardEff_of_alive (ttl : 1 < m.ttl.toNat) (budget : m.budget ≠ 0) : transitForwardEff t m k s =
    u.portOut { typ := t.val, id := 0, m := { m with ttl := m.ttl - 1 }, ends := u.tape + m.budget.toNat } pk := by
  subst pocket counted
  have alive : ¬ (m.ttl.toNat ≤ 1 ∨ m.budget = 0) := by
    rintro (dead | out)
    · exact ttl.not_ge dead
    · exact budget out
  exact (if_neg (Bool.eq_false_iff.mp through)).trans (if_neg alive)

variable (dead : m.ttl.toNat ≤ 1 ∨ m.budget = 0)
include dead

/-- At TTL 0 or without budget it is dropped, and counted at the port it would have left by. -/
theorem transitForwardEff_of_dead {p : Nat} {l : List Nat} (ways : u.routeUp m.dstNode.toNat m.ordered pk = p :: l) :
    transitForwardEff t m k s = u.portDrop p := by
  subst pocket counted
  refine (if_neg (Bool.eq_false_iff.mp through)).trans ((if_pos dead).trans ?_)
  rw [ways]

/-- Where there is none, it is counted at the node. -/
theorem transitForwardEff_of_lost (noWay : u.routeUp m.dstNode.toNat m.ordered pk = []) :
    transitForwardEff t m k s = { u with hrn.drops := u.hrn.drops + 1 } := by
  subst pocket counted
  refine (if_neg (Bool.eq_false_iff.mp through)).trans ((if_pos dead).trans ?_)
  rw [noWay]

end Transit

/-- Settles O43: an operation by its budget, its admission and its queue, a response by the operation that awaits it, and a
packet in transit by its TTL, its budget and its route. -/
theorem harnessArrivals : Obligations.HarnessArrivals := by
  unfold Obligations.HarnessArrivals
  refine ⟨fun kind c m s is assigned here => ?arrival, fun m len off fl s => ?response, fun t m k s through => ?transit⟩
  case arrival =>
    rw [exec_arrive is, State.arriveOp_of_self assigned here]
    have pumped : ∀ {t : State}, s.receive kind m = t →
        (.next (s.receive kind m).hrnPump : Host.Outcome State Fault Refusal) = .next t.hrnPump :=
      congrArg fun t : State => Host.Outcome.next t.hrnPump
    exact ⟨fun out => pumped (State.receive_of_noBudget out), fun budget =>
      ⟨fun refused => pumped (State.receive_of_viol budget refused),
        fun r other refused => pumped (State.receive_of_refused budget other refused), fun n accepted =>
        ⟨fun full => pumped (State.receive_of_full budget accepted full),
          fun room => pumped (State.receive_of_room budget accepted room rfl)⟩⟩⟩
  case response =>
    exact ⟨fun unknown => congrArg (fun t : State => Host.Outcome.next t.hrnPump) (State.opResp_of_unknown unknown),
      fun o awaited h hart => congrArg (fun t : State => Host.Outcome.next t.hrnPump) (State.opResp_of_hart awaited hart)⟩
  case transit =>
    exact ⟨fun dead => ⟨fun p l ways => congrArg Host.Outcome.next (transitForwardEff_of_dead through rfl rfl dead ways),
        fun noWay => congrArg Host.Outcome.next (transitForwardEff_of_lost through rfl rfl dead noWay)⟩,
      fun ttl budget => congrArg Host.Outcome.next (transitForwardEff_of_alive through rfl rfl ttl budget)⟩

end Sys2Proof.Machine
end

section
/-! PROOFS of the statements about what every step keeps: the canonical tables, at reset and along every step, and the
fuses (R350, R351, R418, R429). -/

namespace Sys2Proof.Machine

/-- But for the queue and the Tape, a command has to keep all that a state holds. -/
theorem keptBy_eq (i : Instr) (s : State) : ∃ n, keptBy i s = { s with tape := n } := by
  unfold keptBy
  split
  case h_1 => exact ⟨0, rfl⟩
  case h_2 => exact ⟨0, rfl⟩
  case h_3 => exact ⟨s.tape, rfl⟩

/-- The state a step answers keeps the tables and the fuses: a tick keeps all that there is, and a command keeps it but
for the place it leaves in the queue and for a Tape that starts again. -/
theorem step_keeps {s t : State} (answer : step s = .next t) : ∃ q n, Keeps { s with pending := q, tape := n } t := by
  unfold step at answer
  split at answer
  case h_1 =>
    obtain rfl : s.tick = t := Host.Outcome.next.inj answer
    exact ⟨s.pending, s.tape, State.advance_keeps (.refl s)⟩
  case h_2 c q _ =>
    obtain ⟨n, kept⟩ := keptBy_eq c { s with pending := q }
    exact ⟨q, n, kept ▸ keeps_of_exec answer⟩

/-- Settles O4: both tables are part of what a step keeps. -/
theorem canonicalKept : Obligations.CanonicalKept := by
  unfold Obligations.CanonicalKept
  intro s t memory registers answer
  obtain ⟨q, n, kept⟩ := step_keeps answer
  exact ⟨kept.mem memory, kept.regs registers⟩

/-- Settles O5: reset lists no byte and no register, and an empty table is canonical. -/
theorem canonicalAtReset : Obligations.CanonicalAtReset := by
  unfold Obligations.CanonicalAtReset
  exact ⟨rfl, rfl⟩

/-- Settles O6: the fuses are part of what a step keeps. -/
theorem fusesOnlyBlow : Obligations.FusesOnlyBlow := by
  unfold Obligations.FusesOnlyBlow
  intro s t answer
  obtain ⟨q, n, kept⟩ := step_keeps answer
  exact kept.fuses

end Sys2Proof.Machine
end

section
/-! PROOFS of the statements about the key slots that may sign (R419) and the loss of the standby supply (R473). -/

namespace Sys2Proof.Machine

/-! ### Which slots may sign (R418, R419) -/

section Slots
variable {s : State} {k : Nat}

theorem State.slotSigns_iff :
    s.slotSigns k = true ↔ k < 5 ∧ s.slotProgrammed k = true ∧ s.otp.revoked.contains k = false := by
  simp only [State.slotSigns, Bool.and_eq_true, decide_eq_true_eq, Bool.not_eq_true', and_assoc]

/-- Only the OTP decides which slots may sign. -/
theorem State.slotSigns_congr {t : State} (same : t.otp = s.otp) : t.slotSigns k = s.slotSigns k := by
  simp only [State.slotSigns, State.slotProgrammed, same]

/-- A signature by a slot that may not sign is refused for its KEYSLOT. -/
theorem State.sigCheck_of_noSigner {region block : List Byte} (none : s.slotSigns (le block 0 1) = false) :
    s.sigCheck region block = some 6 := by
  simp only [State.sigCheck, none, Bool.not_false, if_true]

end Slots

/-! ### Images (R61, R422-R424) -/

section Images
variable {s : State} {l : List Byte}

/-- What the checks before the signature's refuse is refused too. -/
theorem State.checkFw_of_noSigner (none : s.slotSigns (le (seg l (le l 8 4) 784) 0 1) = false) : s.checkFw l ≠ 0 := by
  simp only [State.checkFw, State.sigCheck_of_noSigner none]
  repeat' split
  all_goals decide

theorem State.checkHost_of_noSigner (none : s.slotSigns (le (seg l (le l 16 4) 784) 0 1) = false)
    (signed : bit (le l 4 4) 0 = true) : s.checkHost l ≠ 0 := by
  simp only [State.checkHost, State.sigCheck_of_noSigner none, signed, if_true, Option.getD_some]
  repeat' split
  all_goals decide

theorem State.checkImage_of_noSigner {alt : Bool} (none : s.slotSigns (le (seg l (imgLen l) 784) 0 1) = false) :
    (s.checkImage l alt).1 ≠ 0 := by
  simp only [State.checkImage, State.sigCheck_of_noSigner none]
  repeat' split
  all_goals decide

end Images

/-! ### Authorised commands (R425, R426) -/

/-- The end of a mailbox command and its interrupt leave the fuses, as a new nonce does. -/
theorem State.svcMsix_otp (s : State) (v : Nat) : (s.svcMsix v).otp = s.otp := by
  unfold State.svcMsix
  split <;> rfl

theorem State.mbxEnd_otp (s : State) (seq r : Nat) : (s.mbxEnd seq r).otp = s.otp :=
  State.svcMsix_otp _ 0

/-- A mailbox command either runs, or leaves the fuses (R425). -/
theorem State.mbxRun_cases (s : State) (seq : Nat) (allowed : Bool) :
    (∀ f, (s.mbxRun seq allowed f).otp = s.otp) ∨ ∀ f, s.mbxRun seq allowed f = f (s.setF R.mbxCmd F.mbxCmd_SEQ seq) := by
  cases busy : (s.setF R.mbxCmd F.mbxCmd_SEQ seq).mbxBusy with
  | true => exact .inl fun f => (congrArg State.otp (State.mbxRun_of_busy rfl busy)).trans rfl
  | false =>
    cases step : allowed with
    | true => exact .inr fun f => State.mbxRun_of_allowed rfl busy rfl
    | false => exact .inl fun f => (congrArg State.otp (State.mbxRun_of_otherStep rfl busy rfl)).trans (State.mbxEnd_otp ..)

section Auth
variable {s : State} {seq code : Nat} {allowed : Bool} {f : Nat → List Byte → State → Nat × State}

/-- An authorised command touches the fuses only where its signature verifies, and then as its meaning does. -/
theorem State.mbxAuth_otp : (s.mbxAuth seq code allowed f).otp = s.otp ∨
    s.sigCheck (s.mbxArg 0 64) (s.mbxArg 64 784) = none ∧ (s.mbxAuth seq code allowed f).otp =
      (f (le (s.mbxArg 64 784) 0 1) (seg (s.mbxArg 0 64) 24 40) (s.setF R.mbxCmd F.mbxCmd_SEQ seq)).2.otp := by
  rcases s.mbxRun_cases seq allowed with kept | runs
  · exact .inl (kept _)
  · rw [State.mbxAuth, runs]
    dsimp only
    split
    case isTrue => exact .inl (State.mbxEnd_otp ..)
    case isFalse verifies =>
      have signed : ¬ (s.sigCheck (s.mbxArg 0 64) (s.mbxArg 64 784)).isSome = true :=
        fun refused => verifies (.inr (.inr (.inr refused)))
      refine .inr ⟨Option.not_isSome_iff_eq_none.mp signed, (State.mbxEnd_otp ..).trans ?_⟩
      split <;> rfl

/-- So one signed by a slot that may not sign leaves them. -/
theorem State.mbxAuth_otp_of_noSigner (none : s.slotSigns (le (s.mbxArg 64 784) 0 1) = false) :
    (s.mbxAuth seq code allowed f).otp = s.otp := by
  rcases State.mbxAuth_otp with kept | ⟨signed, -⟩
  · exact kept
  · exact absurd ((State.sigCheck_of_noSigner none).symm.trans signed) (Option.some_ne_none 6)

end Auth

/-- The five authorised commands. -/
theorem exec_authorised {c : Instr} {seq : BitVec 16}
    (is : c = .setFabricKey seq ∨ c = .ownerKey seq ∨ c = .revoke seq ∨ c = .rollback seq ∨ c = .hostVerify seq) (s : State) :
    ∃ code allowed f, exec c s = .next (s.mbxAuth seq.toNat code allowed f) := by
  rcases is with rfl | rfl | rfl | rfl | rfl
  all_goals exact ⟨_, _, _, rfl⟩

/-! ### REVOKE (R419) -/

section Revoke
variable {s t : State} {seq : BitVec 16} {i k : Nat}

/-- The slot that a REVOKE names. -/
def State.revokeSlot (s : State) : Nat := le (seg (s.mbxArg 0 64) 24 40) 0 1

/-- Once `k` is revoked slot `i` may still sign: an owner's, where slot 0 goes. -/
def State.SignsBeside (s : State) (k i : Nat) : Prop := i ≠ k ∧ s.slotSigns i = true ∧ (k = 0 → 1 ≤ i)

/-- The OTP with a slot's revocation fuse blown. -/
def Otp.revoke (o : Otp) (k : Nat) : Otp :=
  { o with revoked := if o.revoked.contains k then o.revoked else k :: o.revoked }

theorem Otp.contains_revoke (o : Otp) (k i : Nat) :
    (o.revoke k).revoked.contains i = (i == k || o.revoked.contains i) := by
  unfold Otp.revoke
  dsimp only
  split
  case isTrue blown =>
    cases same : i == k with
    | true => rw [beq_iff_eq.mp same, blown, Bool.or_self]
    | false => rw [Bool.false_or]
  case isFalse => exact List.contains_cons

/-- A slot other than the one revoked signs as before. -/
theorem State.slotSigns_of_revoke (blown : t.otp = s.otp.revoke k) (other : i ≠ k) : t.slotSigns i = s.slotSigns i := by
  have kept : t.otp.revoked.contains i = s.otp.revoked.contains i := by
    rw [blown, Otp.contains_revoke, beq_eq_false_iff_ne.mpr other, Bool.false_or]
  have keys : t.otp.keys = s.otp.keys := by rw [blown]; rfl
  simp only [State.slotSigns, State.slotProgrammed, keys, kept]

/-- The slots that REVOKE asks for: those beside `k` that sign. -/
theorem State.mem_signers : i ∈ ((List.range 5).filter fun i => i != k && s.slotSigns i) → i ≠ k ∧ s.slotSigns i = true := by
  simp only [List.mem_filter, Bool.and_eq_true, bne_iff_ne]
  exact And.right

/-- Where REVOKE does not refuse slot `k`, a slot may sign beside it. -/
theorem State.signsBeside_of_allowed (allowed : ¬ (4 < k ∨ ((List.range 5).filter fun i => i != k && s.slotSigns i).isEmpty ∨
    (k = 0 ∧ ((List.range 5).filter fun i => i != k && s.slotSigns i).all (· == 0)))) : ∃ i, s.SignsBeside k i := by
  obtain ⟨-, left⟩ := not_or.mp allowed
  obtain ⟨some, owner⟩ := not_or.mp left
  by_cases first : k = 0
  · obtain ⟨i, signer, nonzero⟩ : ∃ i ∈ (List.range 5).filter fun i => i != k && s.slotSigns i, ¬ (i == 0) = true := by
      by_contra! none
      exact owner ⟨first, List.all_eq_true.mpr none⟩
    obtain ⟨other, signs⟩ := State.mem_signers signer
    exact ⟨i, other, signs, fun _ => Nat.one_le_iff_ne_zero.mpr (mt beq_iff_eq.mpr nonzero)⟩
  · obtain ⟨i, signer⟩ := List.exists_mem_of_ne_nil _ (mt List.isEmpty_iff.mpr some)
    obtain ⟨other, signs⟩ := State.mem_signers signer
    exact ⟨i, other, signs, fun zero => absurd zero first⟩

/-- REVOKE leaves the fuses, or blows that of the slot it names while another slot may sign. -/
theorem revokeEff_otp : (revokeEff seq s).otp = s.otp ∨
    (revokeEff seq s).otp = s.otp.revoke s.revokeSlot ∧ ∃ i, s.SignsBeside s.revokeSlot i := by
  rcases State.mbxAuth_otp with kept | ⟨-, runs⟩
  · exact .inl kept
  · rw [revokeEff, runs]
    by_cases signs : s.revokeSlot = le (s.mbxArg 64 784) 0 1
    · exact .inl (congrArg (fun p : Nat × State => p.2.otp) (if_pos signs))
    · by_cases refused : 4 < s.revokeSlot ∨ ((List.range 5).filter fun i => i != s.revokeSlot && s.slotSigns i).isEmpty ∨
        (s.revokeSlot = 0 ∧ ((List.range 5).filter fun i => i != s.revokeSlot && s.slotSigns i).all (· == 0))
      · exact .inl (congrArg (fun p : Nat × State => p.2.otp) ((if_neg signs).trans (if_pos refused)))
      · exact .inr ⟨congrArg (fun p : Nat × State => p.2.otp) ((if_neg signs).trans (if_neg refused)),
          State.signsBeside_of_allowed refused⟩

/-- The fuses let REVOKE go from a state with a signer only to states with one. -/
theorem revokeEff_keepsSigner (signs : ∃ i, s.slotSigns i = true) : ∃ i, (revokeEff seq s).slotSigns i = true := by
  rcases revokeEff_otp (s := s) (seq := seq) with kept | ⟨blown, i, other, left, -⟩
  · obtain ⟨i, signs⟩ := signs
    exact ⟨i, (State.slotSigns_congr kept).trans signs⟩
  · exact ⟨i, (State.slotSigns_of_revoke blown other).trans left⟩

/-- Slot 0 goes only while an owner's slot may sign. -/
theorem revokeEff_zero (stood : s.otp.revoked.contains 0 = false)
    (gone : (revokeEff seq s).otp.revoked.contains 0 = true) : ∃ i, 1 ≤ i ∧ (revokeEff seq s).slotSigns i = true := by
  rcases revokeEff_otp (s := s) (seq := seq) with kept | ⟨blown, i, other, left, owner⟩
  · rw [kept, stood] at gone
    exact absurd gone Bool.false_ne_true
  · rw [blown, Otp.contains_revoke, stood, Bool.or_false, beq_iff_eq] at gone
    exact ⟨i, owner gone.symm, (State.slotSigns_of_revoke blown other).trans left⟩

end Revoke

/-- Settles O50: the signature's check asks for the slot first, every image and command asks for the signature's check,
and REVOKE asks for another slot. -/
theorem keySlots : Obligations.KeySlots := by
  unfold Obligations.KeySlots
  refine ⟨fun s k => State.slotSigns_iff, fun s l => ⟨State.checkFw_of_noSigner, State.checkHost_of_noSigner,
    fun alt => State.checkImage_of_noSigner⟩, fun c seq s t is none answer => ?authorised, fun seq s t answer => ?revoke⟩
  case authorised =>
    obtain ⟨code, allowed, f, runs⟩ := exec_authorised is s
    obtain rfl := Host.Outcome.next.inj (runs.symm.trans answer)
    exact State.mbxAuth_otp_of_noSigner none
  case revoke =>
    obtain rfl : revokeEff seq s = t := Host.Outcome.next.inj answer
    refine ⟨fun alone => ?_, fun noOwner first => ?_, revokeEff_keepsSigner, revokeEff_zero⟩
    · refine revokeEff_otp.resolve_right fun ⟨_, i, other, signs, _⟩ => ?_
      exact Bool.false_ne_true ((alone i other).symm.trans signs)
    · refine revokeEff_otp.resolve_right fun ⟨_, i, _, signs, owner⟩ => ?_
      exact Bool.false_ne_true ((noOwner i (owner first)).symm.trans signs)

/-! ### The standby supply (R473) -/

/-- Settles O51: the package at its reset values has of the state before only the OTP, the flash and what is the model's
own, and so has a package that was reset already. -/
theorem standbyLost : Obligations.StandbyLost := by
  unfold Obligations.StandbyLost
  refine ⟨fun s s' t otp flash queue free epoch answer => ?_, fun s t straps resetN testN answer => ?_⟩
  · obtain rfl : vstbyLossEff s = t := Host.Outcome.next.inj answer
    have same : s'.fresh0 = s.fresh0 := by unfold State.fresh0; rw [otp, flash, queue, free, epoch]
    have ended : vstbyLossEff s' = vstbyLossEff s := by rw [vstbyLossEff, vstbyLossEff, same]
    exact ⟨congrArg Host.Outcome.next ended, rfl, rfl, rfl, rfl, rfl, rfl, rfl⟩
  · obtain rfl : vstbyLossEff s = t := Host.Outcome.next.inj answer
    rfl

end Sys2Proof.Machine
end

section
/-! PROOFS of the statement about the door requests that are about pockets (R327, R330, R338, R342, R344, R347-R351). -/

namespace Sys2Proof.Machine

section Served
variable {s u : State} {d : DoorHdr} {peer : Pocket} (taken : ∀ code f, s.doorTake d code f = f u)
include taken

/-! ### Who may ask, and of which pocket (R350, R351) -/

/-- A request about a pocket is a violation of any world but the host world. -/
theorem State.doorPocket_of_other {code : Nat} {f : State → State} (other : d.world ≠ 0) :
    s.doorPocket d code peer f = u.doorViol d code := by
  rw [State.doorPocket, State.doorHost, taken, if_neg other]

/-- One on a pocket where another request runs is answered BUSY. -/
theorem State.doorPocket_of_busy {code : Nat} {f : State → State} (host : d.world = 0) (pocket : peer ≠ 0)
    (busy : (u.pocket peer.toNat).busy = true) : s.doorPocket d code peer f = u.doorReply d code 5 0 peer.toNat := by
  rw [State.doorPocket, State.doorHost, taken, if_pos host, if_neg pocket, if_pos busy]

end Served

section Idle
variable {s u : State} {d : DoorHdr} {peer : Pocket} {q : Nat} (number : peer.toNat = q)
  (served : ∀ code f, s.doorPocket d code peer f = f u)
include number served

/-! ### CREATE (R327, R338, R347, R361) -/

section Create
variable {n : BitVec 9} {st en db : Addr}

/-- CREATE of a number in use is refused. -/
theorem createEff_of_used (used : (u.pocket q).st ≠ .free) :
    createEff d peer n st en db s = u.doorReply d 1 1 0 q := by
  subst number
  exact (served 1 _).trans (if_pos (.inl used))

/-- A pocket's door, started at its base with its rings empty, its debug enables as its policy gives them. -/
def State.doorStarted (s : State) (q base : Nat) : State :=
  let b := (((s.wr (R.doorCtl q) 0).setF (R.doorCtl q) F.doorCtl_BASE (base / 4096)).setF (R.doorCtl q) F.doorCtl_ENABLE 1).setF
    (R.doorCtl q) F.doorCtl_STATE 1
  let c := b.wr (R.doorPtr q) 0
  c.wr (R.debugEn q) (BitVec.ofNat 64 (c.debugPolicy q % 4))

/-- CREATE of a FREE number defines the pocket with its key, and starts its door. -/
theorem createEff_of_free (free : (u.pocket q).st = .free) (within : q ≤ u.maxPockets) (low : n.toNat ≠ 0)
    (high : n.toNat ≤ 256) : createEff d peer n st en db s =
      ((u.updPocket q fun _ => { st := .defined, slots := n.toNat, stateBase := st.toNat, entryPc := en.toNat, key := true
        }).doorStarted q db.toNat).doorReply d 1 0 0 q := by
  subst number
  refine (served 1 _).trans (if_neg ?_)
  rintro (used | past | none | many)
  · exact used free
  · exact past.not_ge within
  · exact low none
  · exact many.not_ge high

end Create

/-! ### RANGE_ADD and ARM (R330, R350) -/

section RangeAdd
variable {base size : Addr} {k : RangeKind} {ro ad : Bool}

/-- RANGE_ADD to a FREE pocket, or of a range that does not fit, is refused. -/
theorem rangeAddEff_of_refused (refused : (u.pocket q).st = .free ∨ u.rangeFits q base.toNat size.toNat = false) :
    rangeAddEff d peer base size k ro ad s = u.doorReply d 2 1 0 q := by
  subst number
  exact (served 2 _).trans (if_pos (refused.imp_right fun unfit => by rw [unfit]; rfl))

/-- A pocket with one more range. -/
def State.addRange (s : State) (q : Nat) (r : PRange) : State := s.updPocket q fun p => { p with ranges := p.ranges ++ [r] }

section Fits
variable (used : (u.pocket q).st ≠ .free) (fits : u.rangeFits q base.toNat size.toNat = true)
include used fits

/-- One that would break a seal is refused with the condition's REASON (R346). -/
theorem rangeAddEff_of_breaks {reason : Nat}
    (breaks : u.breaks (u.addRange q ⟨base.toNat, size.toNat, k, ro, false⟩) = some reason) :
    rangeAddEff d peer base size k ro ad s = u.doorReply d 2 1 reason q := by
  subst number
  unfold State.addRange at breaks
  refine (served 2 _).trans ((if_neg (not_or_intro used (by rw [fits]; decide))).trans ?_)
  simp only [breaks]

/-- Any other is added under the pocket's key; of an adopted one the digest is returned. -/
theorem rangeAddEff_of_fits {t : State} (added : u.addRange q ⟨base.toNat, size.toNat, k, ro, false⟩ = t)
    (seals : u.breaks t = none) : rangeAddEff d peer base size k ro ad s =
      (t.rangeKey base.toNat size.toNat ad).doorReply d 2 0 0 q
        (if ad then sha256 ((t.rangeKey base.toNat size.toNat ad).getList base.toNat size.toNat) else []) := by
  subst number added
  unfold State.addRange at seals ⊢
  refine (served 2 _).trans ((if_neg (not_or_intro used (by rw [fits]; decide))).trans ?_)
  simp only [seals]

end Fits

end RangeAdd

/-- Every saved state of a pocket lies in one of the ranges that are its own. -/
def PocketSt.statesPrivate (p : PocketSt) : Bool :=
  p.ranges.any fun r => r.kind == .priv && decide (r.base ≤ p.stateBase) &&
    decide (p.stateBase + 0x2000 * p.slots ≤ r.base + r.size)

/-- ARM of a DEFINED pocket whose saved states lie in a range of its own arms it. -/
theorem armEff_of_defined (defined : (u.pocket q).st = .defined) (priv : (u.pocket q).statesPrivate = true) :
    armEff d peer s = ((u.updPocket q fun p => { p with st := .armed }).showMode).doorReply d 4 0 0 q := by
  subst number
  exact (served 4 _).trans (if_pos ⟨defined, priv⟩)

/-- Any other is refused. -/
theorem armEff_of_refused (refused : (u.pocket q).st ≠ .defined ∨ (u.pocket q).statesPrivate = false) :
    armEff d peer s = u.doorReply d 4 1 0 q := by
  subst number
  refine (served 4 _).trans (if_neg fun ⟨defined, priv⟩ => ?_)
  rcases refused with other | none
  · exact other defined
  · exact Bool.false_ne_true (none.symm.trans priv)

/-! ### SEAL and UNSEAL (R342, R344) -/

/-- The panels of a sealed pocket are fixed at their voltages. -/
def State.fixPanels (s : State) (q : Nat) : State :=
  ((List.range 12).filter fun p => s.panelPocket p == q).foldl (fun x p =>
    ({ x with thm.fix := KMap.set 0 p (x.fld (R.vstate p) F.vstate_IN_FORCE + 1) x.thm.fix } : State).setF (R.vstate p)
      F.vstate_SEALED_FIX 1) s

theorem sealEff_of_notArmed (other : (u.pocket q).st ≠ .armed) : sealEff d peer s = u.doorReply d 9 1 0 q := by
  subst number
  exact (served 9 _).trans (if_pos other)

section Armed
variable (armed : (u.pocket q).st = .armed)
include armed

/-- SEAL of an ARMED pocket is refused with the REASON of the condition it fails. -/
theorem sealEff_of_fails {n : Nat} (fails : u.sealFail q = some n) : sealEff d peer s = u.doorReply d 9 1 n q := by
  subst number
  refine (served 9 _).trans ((if_neg (not_not_intro armed)).trans ?_)
  simp only [fails]

/-- One that fails none is SEALED. -/
theorem sealEff_of_meets (meets : u.sealFail q = none) : sealEff d peer s =
    ((u.updPocket q fun p => { p with st := .sealed }).showMode.fixPanels q).doorReply d 9 0 0 q := by
  subst number
  refine (served 9 _).trans ((if_neg (not_not_intro armed)).trans ?_)
  simp only [meets]
  rfl

end Armed

theorem unsealEff_of_sealed (is : (u.pocket q).st = .sealed) :
    unsealEff d peer s = (u.unsealed q).doorReply d 0xA 0 0 q := by
  subst number
  exact (served 0xA _).trans (if_pos is)

theorem unsealEff_of_other (other : (u.pocket q).st ≠ .sealed) : unsealEff d peer s = u.doorReply d 0xA 1 0 q := by
  subst number
  exact (served 0xA _).trans (if_neg other)

/-! ### DESTROY (R350) -/

theorem destroyEff_of_free (free : (u.pocket q).st = .free) : destroyEff d peer s = u.doorReply d 5 1 0 q := by
  subst number
  exact (served 5 _).trans (if_pos free)

/-- A pocket on its way to FREE: it is busy, and every hart that runs it by the host world's ENTER leaves it. -/
def State.vacated (s : State) (q : Nat) (peer : Pocket) : State :=
  let v := s.updPocket q fun p => { p with busy := true }
  (v.harts.map (·.1)).foldl (fun s h =>
    if (s.hart h).hostEntered && (s.hart h).pocket == peer then (s.forceExit h).wakeHart h else s) v

/-- DESTROY of a pocket that has no block to hand over ends it at once. -/
theorem destroyEff_of_unblocked (used : (u.pocket q).st ≠ .free) (open' : (u.pocket q).st ≠ .sealed)
    (still : (u.pock.hand.any fun h => (h.src == q || h.dst == q) && h.step != 7) = false)
    (blocks : (((u.vacated q peer).blocksOf q).filter fun b => ((u.vacated q peer).findHand b).isNone) = [])
    (done : (u.vacated q peer).destroyWaits q = false) :
    destroyEff d peer s = (u.vacated q peer).destroyEnd q d.seq.toNat := by
  subst number
  refine (served 5 _).trans ((if_neg used).trans ((if_neg (Bool.eq_false_iff.mp still)).trans ?_))
  unfold State.vacated at blocks done ⊢
  simp only [if_neg open', blocks, done, List.foldl_nil, Bool.false_eq_true, if_false]

end Idle

/-- RANGE_REMOVE of a range that the pocket holds gives it back, where that breaks no seal. -/
theorem rangeRemoveEff_of_held {s u : State} {d : DoorHdr} {peer : Pocket} {base : Addr} {r : PRange}
    (taken : ∀ code f, s.doorTake d code f = f u) (host : d.world = 0) (idle : (u.pocket peer.toNat).busy = false)
    (held : ((u.pocket peer.toNat).ranges.find? fun r => r.base == base.toNat) = some r)
    (seals : u.breaks (u.updPocket peer.toNat fun p => { p with ranges := p.ranges.filter fun x => x.base != r.base }) = none) :
    rangeRemoveEff d peer base s = (u.dropRange peer.toNat r).doorReply d 3 0 0 peer.toNat := by
  refine (taken 3 _).trans ((if_neg fun other => other.1 host).trans ((if_neg (Bool.eq_false_iff.mp idle)).trans ?_))
  simp only [held, seals]

/-- Settles O44: the requests by the world that makes them and by what else runs on the pocket, then each by the pocket's
state and the conditions of its rule. -/
theorem pocketRequests : Obligations.PocketRequests := by
  unfold Obligations.PocketRequests
  intro d peer s w q head pa u ready pass service
  have taken : ∀ code f, s.doorTake d code f = f u := fun _ _ => State.doorTake_of_service rfl ready pass service
  refine ⟨fun other n st en db base size k ro ad => ?others, fun host pocket busy n st en db => ?busy,
    fun host pocket idle => ?served⟩
  case others =>
    have viol : ∀ code f, s.doorPocket d code peer f = u.doorViol d code := fun _ _ => State.doorPocket_of_other taken other
    exact ⟨congrArg _ (viol 1 _), congrArg _ (viol 2 _), congrArg _ (viol 4 _), congrArg _ (viol 5 _), congrArg _ (viol 9 _),
      congrArg _ (viol 0xA _)⟩
  case busy =>
    have waits : ∀ code f, s.doorPocket d code peer f = u.doorReply d code 5 0 q :=
      fun _ _ => State.doorPocket_of_busy taken host pocket busy
    exact ⟨congrArg _ (waits 1 _), congrArg _ (waits 4 _), congrArg _ (waits 5 _)⟩
  case served =>
    have served : ∀ code f, s.doorPocket d code peer f = f u :=
      fun _ _ => State.doorPocket_of_idle taken host pocket idle
    refine ⟨fun n st en db used => ?_, fun n st en db free within low high => ?_,
      fun base size k ro ad => ⟨fun refused => ?_, fun used fits => ⟨fun reason breaks => ?_, fun seals => ?_⟩⟩,
      fun base r held seals => ?_, ⟨fun defined priv => ?_, fun refused => ?_⟩, fun other => ?_, fun n armed fails => ?_,
      fun armed meets => ?_, fun is => ?_, fun other => ?_, fun free => ?_, fun used open' still blocks done => ?_⟩
    all_goals refine congrArg Host.Outcome.next ?_
    · exact createEff_of_used rfl served used
    · exact createEff_of_free rfl served free within low high
    · exact rangeAddEff_of_refused rfl served refused
    · exact rangeAddEff_of_breaks rfl served used fits breaks
    · exact rangeAddEff_of_fits rfl served used fits rfl seals
    · exact rangeRemoveEff_of_held taken host idle held seals
    · exact armEff_of_defined rfl served defined priv
    · exact armEff_of_refused rfl served refused
    · exact sealEff_of_notArmed rfl served other
    · exact sealEff_of_fails rfl served armed fails
    · exact sealEff_of_meets rfl served armed meets
    · exact unsealEff_of_sealed rfl served is
    · exact unsealEff_of_other rfl served other
    · exact destroyEff_of_free rfl served free
    · exact destroyEff_of_unblocked rfl served used open' still blocks done

end Sys2Proof.Machine
end

section
/-! PROOFS of the statements about rails, DIM and QUIET (R395, R396, R399, R400, R402), and about the Thimble, the WAKE
pins, the trip and DORMANT (R397, R403, R406-R413). -/

namespace Sys2Proof.Machine

/-! ### Rails (R395, R396) -/

section Rails
variable {s : State} {p : Panel}

/-- A panel whose outstanding Vout write is in force. -/
def State.voutTaken (s : State) (p : Nat) : State :=
  (s.voutClosed p).setF (R.vstate p) F.vstate_IN_FORCE (KMap.get 0 s.thm.out p - 1)

/-- Of a panel neither on its way to DIM nor being powered nothing follows an acknowledged write but a newer target. -/
theorem State.voutAcked_of_on {p : Nat} (sent : KMap.get 0 s.thm.out p ≠ 0) (awake : (s.dimOf p).stage = 0)
    (up : KMap.get 0 s.thm.up p ≠ 1) : s.voutAcked p = (s.voutTaken p).pushVout p := by
  have notDim : ¬ (((s.voutTaken p).dimOf p).stage = 2 ∧
      (KMap.get 0 s.thm.out p = (s.voutTaken p).limit 6 2 550 + 1 ∨ ((s.voutTaken p).dimOf p).woken = true)) :=
    fun dim => absurd (awake.symm.trans dim.1) (by decide)
  refine (if_neg sent).trans (congrArg (State.pushVout · p) ?_)
  unfold State.voutTaken at notDim ⊢
  rw [if_neg notDim]
  exact if_neg up

/-- A panel without a fault has none to clear. -/
theorem State.clearVreg_of_none {p : Nat} (none : s.fld (R.vstate p) F.vstate_VREG_FAULT = 0) : s.clearVreg p = s :=
  if_pos none

/-- HOLD goes with the fault, and the target is sent again. -/
theorem State.clearVreg_of_fault {p : Nat} (fault : s.fld (R.vstate p) F.vstate_VREG_FAULT ≠ 0) : s.clearVreg p =
    ({ s.setF (R.vstate p) F.vstate_VREG_FAULT 0 with thm.hold := KMap.erase p s.thm.hold } : State).pushVout p :=
  if_neg fault

end Rails

/-! ### DIM (R399, R400) -/

section Dim
variable {s : State} {p : Nat}

/-- The last moment at which an enabled hart of the panel had been parked for the given time. -/
def State.dimTime (s : State) (p us : Nat) : Nat :=
  ((panelHarts p).filter s.hartOn).foldl (fun a h => max a ((s.hart h).idleAt + 1000 * us)) 0

/-- A panel whose enabled harts are all parked goes to DIM, unless it is sealed or has a fault. -/
theorem State.dimEnter_of_parked (on : s.limit 0x12 2 1000 ≠ 0) (some : (panelHarts p).filter s.hartOn ≠ [])
    (parked : ∀ h ∈ (panelHarts p).filter s.hartOn, (s.hart h).mode = .park ∨ (s.hart h).mode = .sleep)
    (runs : s.panelState p = 0) (awake : (s.dimOf p).stage = 0) (open' : s.panelSealed p = false)
    (sound : s.fld (R.vstate p) F.vstate_VREG_FAULT ≠ 1) :
    s.dimEnter p = (s.advance (s.dimTime p (s.limit 0x12 2 1000))).dimStart p false := by
  have idle : (((panelHarts p).filter s.hartOn).all fun h => (s.hart h).mode == .park || (s.hart h).mode == .sleep) = true := by
    simpa only [List.all_eq_true, Bool.or_eq_true, beq_iff_eq] using parked
  refine if_neg ?_
  rintro (off | empty | busy | other | dims | sealed' | fault)
  · exact on off
  · exact some (List.isEmpty_iff.mp empty)
  · rw [idle] at busy; exact absurd busy (by decide)
  · exact other runs
  · exact dims awake
  · exact Bool.false_ne_true (open'.symm.trans sealed')
  · exact sound fault

section Evicting
variable {u : State} (evicting : (s.dimOf p).stage = 1) (flushed : s.dimFlush p = u)
include evicting flushed

/-- What is left of the panel goes on leaving. -/
theorem State.dimLow_of_left (left : u.dimEmpty p = false) : s.dimLow p = u := by
  subst flushed
  exact (if_neg (not_not_intro evicting)).trans (if_pos (by rw [left]; rfl))

/-- Once nothing is, VRET_MV is requested. -/
theorem State.dimLow_of_empty (empty : u.dimEmpty p = true) : s.dimLow p =
    ({ u with thm.dim := KMap.set {} p { s.dimOf p with stage := 2 } u.thm.dim } : State).pushVout p := by
  subst flushed
  exact (if_neg (not_not_intro evicting)).trans (if_neg (by rw [empty]; decide))

end Evicting

/-- An interrupt for an enabled hart wakes a panel that no POWER request holds in DIM. -/
theorem State.dimIrq_of_ready (free : (s.dimOf p).byReq = false)
    (ready : ((panelHarts p).any fun h => s.hartOn h && (s.hart h).w.intReady) = true) : s.dimIrq p = s.dimCause p :=
  if_neg (by rw [free, ready]; decide)

/-- The late invalidations of a panel that comes back from DIM. -/
def State.dimInvalidate (s : State) (p : Nat) : State :=
  (s.dimOf p).inv.foldl (fun s e => s.updHart (hartNum p e.1) fun x => (x.dropL1 e.2).dropL2 e.2) s

/-- At its target the panel is ON, with its late invalidations done and its harts awake. -/
theorem State.dimEnd_of_rising (rises : (s.dimOf p).stage = 4) : s.dimEnd p = (panelHarts p).foldl State.wakeHart
    (({ s.dimInvalidate p with thm.dim := KMap.erase p (s.dimInvalidate p).thm.dim } : State).setPanelState p 0) :=
  if_neg (not_not_intro rises)

end Dim

/-! ### QUIET (R402) -/

/-- A saddle that is ON again. -/
def State.quietLeft (s : State) (sd : Nat) : State :=
  ({ s with thm.quiet := s.thm.quiet.filter (· != sd) } : State).setSaddleState sd 0

/-- A QUIET saddle that wakes is ON: its memory leaves self-refresh, and the requests that waited go on. -/
theorem State.quietEnd_of_waking {s : State} {sd : Nat} (quiet : s.saddleState sd = 1)
    (wakes : s.thm.quiet.contains sd = true) : s.quietEnd sd =
      (List.range 24).foldl (fun s k => s.homeLoop (24 * sd + k) ((s.slice (24 * sd + k)).heldq.length))
        (((sdCtlrs sd).filter fun c => (s.quietLeft sd).fenceState (.mc c) == 2).foldl State.leaveSelfRefresh (s.quietLeft sd)) :=
  if_pos ⟨quiet, wakes⟩

/-- Settles O48: each command by the place its panel or saddle has reached. -/
theorem railsAndDim : Obligations.RailsAndDim := by
  unfold Obligations.RailsAndDim
  refine ⟨fun p s sent awake up => ?vout, fun a p s pass => ⟨fun none => ?noFault, fun fault => ?fault⟩,
    fun p s on some parked runs awake open' sound => ?entry,
    fun p s evicting => ⟨fun left => ?left, fun empty => ?empty⟩, fun p s free ready => ?wake, fun p s rises => ?resume,
    fun sd s quiet wakes => ?quiet⟩
  all_goals refine congrArg Host.Outcome.next ?_
  case vout => exact congrArg State.keeperWork (State.voutAcked_of_on sent awake up)
  case noFault =>
    exact (State.ctlGuard_of_pass pass).trans (congrArg (State.reply · a .ok) (State.clearVreg_of_none none))
  case fault =>
    exact (State.ctlGuard_of_pass pass).trans (congrArg (State.reply · a .ok) (State.clearVreg_of_fault fault))
  case entry => exact State.dimEnter_of_parked on some parked runs awake open' sound
  case left => exact State.dimLow_of_left evicting rfl left
  case empty => exact State.dimLow_of_empty evicting rfl empty
  case wake => exact State.dimIrq_of_ready free ready
  case resume => exact congrArg State.keeperWork (State.dimEnd_of_rising rises)
  case quiet => exact congrArg State.keeperWork (State.quietEnd_of_waking quiet wakes)

/-! ### The WAKE pins and the trip (R408, R413) -/

section WakePin
variable {s : State} {k : Fin 8} {active : Bool} (used : bit (s.prog 4 1) k.val = true)
include used

/-- An edge pin latches the edge at which it becomes active. -/
theorem wakePinEdgeEff_of_edge (edge : bit (s.prog 3 1) k.val = true) : wakePinEdgeEff k active s =
    if active then { s with thm.edges := setBit s.thm.edges k.val true } else s :=
  (if_neg (by rw [used]; decide)).trans (if_pos edge)

/-- A level pin shows its level, and latches an active one. -/
theorem wakePinEdgeEff_of_level (level : bit (s.prog 3 1) k.val = false) : wakePinEdgeEff k active s =
    { s with thm.levels := if active then setBit (setBit s.thm.levels k.val active) (8 + k.val) true
        else setBit s.thm.levels k.val active } :=
  (if_neg (by rw [used]; decide)).trans (if_neg (Bool.eq_false_iff.mp level))

end WakePin

/-- The sensors at or above TRIP_C. -/
def State.hotSensors (s : State) (x : Samples) : List Nat :=
  (List.range 17).filter fun c => decide ((16 * s.limit 9 1 110 : Nat) ≤ x.vals.getD c 0)

section Comparator
variable {s : State} {x : Samples}

/-- A sensor that is hot at one reading is remembered. -/
theorem tripComparatorEff_of_cool (cool : (s.hotSensors x).find? s.thm.hot.contains = none) :
    tripComparatorEff x s = { s with thm.hot := s.hotSensors x } := by
  unfold State.hotSensors at cool ⊢
  simp only [tripComparatorEff, cool]

/-- One that is hot at two in succession trips. -/
theorem tripComparatorEff_of_hot {c : Nat} (hot : (s.hotSensors x).find? s.thm.hot.contains = some c) :
    tripComparatorEff x s = ({ s with thm.hot := s.hotSensors x } : State).trip c := by
  unfold State.hotSensors at hot ⊢
  simp only [tripComparatorEff, hot]

end Comparator

/-- A first trip parks the package, asserts THERMTRIP_N and is recorded. -/
theorem State.trip_of_first {s : State} (c : Nat) (first : s.fld R.thmStatus F.thmStatus_TRIPPED ≠ 1) :
    s.trip c = ((({ s with pins.thermTrip := true, thm.parkAll := true } : State).setF R.thmStatus F.thmStatus_TRIPPED 1).err
      16 3 5 (bankUnit 16) 0 0 (protoMisc 0x0A c)).note .trip :=
  if_neg first

/-- Settles O49: a pin by its kind, a reading by the one before it; a loop and DORMANT are the steps of their meanings. -/
theorem thimbleTripAndDormant : Obligations.ThimbleTripAndDormant := by
  unfold Obligations.ThimbleTripAndDormant
  refine ⟨fun k s used => ⟨fun edge => ?edge, fun level => ?level⟩, fun x s => ⟨fun cool => ?cool, fun c hot => ?hot⟩,
    fun c s first => State.trip_of_first c first, fun x s => rfl, fun seq keep s => rfl⟩
  case edge =>
    exact ⟨congrArg Host.Outcome.next (wakePinEdgeEff_of_edge (active := true) used edge),
      congrArg Host.Outcome.next (wakePinEdgeEff_of_edge (active := false) used edge)⟩
  case level =>
    exact ⟨congrArg Host.Outcome.next (wakePinEdgeEff_of_level (active := true) used level),
      congrArg Host.Outcome.next (wakePinEdgeEff_of_level (active := false) used level)⟩
  case cool => exact congrArg Host.Outcome.next (tripComparatorEff_of_cool cool)
  case hot => exact congrArg Host.Outcome.next (tripComparatorEff_of_hot hot)

end Sys2Proof.Machine
end

section
/-! PROOFS of the statement about the Keeper's SPDM responses (R376, R421, R432). -/

namespace Sys2Proof.Machine

/-! ### When a request is answered -/

section At
variable {s : State} {need : Nat} {f : State → State}

/-- Before Keeper firmware runs no request is answered. -/
theorem State.spdmAt_of_silent (silent : s.fwRuns = false) : s.spdmAt need f = s :=
  if_pos (by rw [silent]; rfl)

variable (runs : s.fwRuns = true)
include runs

theorem State.spdmAt_of_early (early : s.boot.spdm < need) : s.spdmAt need f = s.spdmError 4 :=
  (if_neg (by rw [runs]; decide)).trans (if_neg early.not_ge)

theorem State.spdmAt_of_ready (ready : need ≤ s.boot.spdm) : s.spdmAt need f = f s :=
  (if_neg (by rw [runs]; decide)).trans (if_pos ready)

end At

/-- A number of one byte. -/
theorem leBytes_one (v : Nat) : leBytes 1 v = [BitVec.ofNat 8 v] := rfl

/-- ERROR: its code is its third byte. -/
theorem State.spdmError_eq (s : State) (code : Nat) :
    s.spdmError code = { s with boot.certs := [0x12#8, 0x7F#8, BitVec.ofNat 8 code, 0x00#8] :: s.boot.certs } := rfl

/-! ### What a request changes -/

/-- `t` is `s` but for the responses sent, the place in the exchanges, and the source of free values. -/
def State.SpdmFrame (s t : State) : Prop :=
  t = { s with boot.spdm := t.boot.spdm, boot.certs := t.boot.certs, freeCtr := t.freeCtr }

theorem State.spdmAt_frame {s : State} {need : Nat} {f : State → State} (frame : ∀ u, State.SpdmFrame u (f u)) :
    s.SpdmFrame (s.spdmAt need f) := by
  unfold State.spdmAt
  split
  · rfl
  · split
    · exact frame s
    · rfl

/-- The requests that need a session, and what comes before them. -/
theorem getCertificateEff_frame (slot : BitVec 8) (off len : BitVec 16) (s : State) :
    s.SpdmFrame (getCertificateEff slot off len s) :=
  State.spdmAt_frame fun u => by dsimp only; split <;> rfl

theorem challengeEff_frame (slot : BitVec 8) (n : BitVec 256) (s : State) : s.SpdmFrame (challengeEff slot n s) :=
  State.spdmAt_frame fun u => by dsimp only; split <;> rfl

theorem getMeasurementsEff_frame (index : BitVec 8) (n : BitVec 256) (s : State) :
    s.SpdmFrame (getMeasurementsEff index n s) :=
  State.spdmAt_frame fun u => by dsimp only; split <;> rfl

section Requests
variable {s : State} {c : Instr} {slot index : BitVec 8} {off len : BitVec 16} {n : BitVec 256}

/-- The four requests that need the exchanges made. -/
theorem exec_spdmSession
    (is : c ∈ ([.getDigests, .getCertificate slot off len, .challenge slot n, .getMeasurements index n] : List Instr)) :
    ∃ f, ∀ s, exec c s = .next (s.spdmAt 3 f) := by
  simp only [List.mem_cons, List.not_mem_nil, or_false] at is
  rcases is with rfl | rfl | rfl | rfl
  all_goals exact ⟨_, fun s => rfl⟩

/-- Each of the seven is a request, whose answer stays within its frame. -/
theorem exec_spdm
    (is : c ∈ ([.getVersion, .getCapabilities, .negotiateAlgorithms, .getDigests, .getCertificate slot off len, .challenge slot n,
      .getMeasurements index n] : List Instr)) :
    ∃ need f, exec c s = .next (s.spdmAt need f) ∧ s.SpdmFrame (s.spdmAt need f) := by
  simp only [List.mem_cons, List.not_mem_nil, or_false] at is
  rcases is with rfl | rfl | rfl | rfl | rfl | rfl | rfl
  · exact ⟨_, _, rfl, State.spdmAt_frame fun u => rfl⟩
  · exact ⟨_, _, rfl, State.spdmAt_frame fun u => rfl⟩
  · exact ⟨_, _, rfl, State.spdmAt_frame fun u => rfl⟩
  · exact ⟨_, _, rfl, State.spdmAt_frame fun u => rfl⟩
  · exact ⟨_, _, rfl, getCertificateEff_frame slot off len s⟩
  · exact ⟨_, _, rfl, challengeEff_frame slot n s⟩
  · exact ⟨_, _, rfl, getMeasurementsEff_frame index n s⟩

end Requests

/-! ### The answers -/

section Answers
variable {s : State} (runs : s.fwRuns = true)
include runs

theorem getVersionEff_of_running : getVersionEff s =
    { s with boot.spdm := 1, boot.certs := [0x10#8, 0x04#8, 0#8, 0#8, 0#8, 1#8, 0x00#8, 0x12#8] :: s.boot.certs } :=
  State.spdmAt_of_ready runs (Nat.zero_le _)

theorem getCapabilitiesEff_of_ready (ready : 1 ≤ s.boot.spdm) : ∃ r : List Byte, r.length = 20 ∧
    getCapabilitiesEff s = { s with boot.spdm := max 2 s.boot.spdm, boot.certs := r :: s.boot.certs } :=
  ⟨_, rfl, State.spdmAt_of_ready runs ready⟩

theorem negotiateAlgorithmsEff_of_ready (ready : 2 ≤ s.boot.spdm) : ∃ r : List Byte, r.length = 36 ∧
    negotiateAlgorithmsEff s = { s with boot.spdm := 3, boot.certs := r :: s.boot.certs } :=
  ⟨_, rfl, State.spdmAt_of_ready runs ready⟩

variable (ready : 3 ≤ s.boot.spdm)
include ready

theorem getDigestsEff_of_ready : getDigestsEff s =
    { s with boot.certs := ([0x12#8, 0x01#8, 0x00#8, 0x01#8] ++ sha256 Config.certChain) :: s.boot.certs } :=
  State.spdmAt_of_ready runs ready

section Certificate
variable {slot : BitVec 8} {off len : BitVec 16} {n : BitVec 256}

/-- The part of slot 0's chain that is asked for, with its length and what is left after it. -/
def certPortion (off len : Nat) : List Byte :=
  let c := Config.certChain
  let part := (c.drop off).take (min len 16376)
  leBytes 2 part.length ++ leBytes 2 (c.length - off - part.length) ++ part

theorem getCertificateEff_of_within (zero : slot.toNat % 16 = 0) (within : off.toNat < Config.certChain.length) :
    getCertificateEff slot off len s =
      { s with boot.certs := ([0x12#8, 0x02#8, 0x00#8, 0x00#8] ++ certPortion off.toNat len.toNat) :: s.boot.certs } := by
  have given : ¬ (slot.toNat % 16 ≠ 0 ∨ Config.certChain.length ≤ off.toNat) := by omega
  refine (State.spdmAt_of_ready runs ready).trans ((if_neg given).trans ?_)
  simp only [State.spdmSend, certPortion, leBytes_one, List.append_assoc]
  rfl

/-- No other slot is provisioned. -/
theorem getCertificateEff_of_outside (outside : slot.toNat % 16 ≠ 0 ∨ Config.certChain.length ≤ off.toNat) :
    getCertificateEff slot off len s = s.spdmError 1 :=
  (State.spdmAt_of_ready runs ready).trans (if_pos outside)

theorem challengeEff_of_zero (zero : slot.toNat % 16 = 0) : challengeEff slot n s =
    { ((s.randomBytes 32).2.randomBytes 384).2 with
      boot.certs := ([0x12#8, 0x03#8, 0x00#8, 0x01#8] ++ sha256 Config.certChain ++ (s.randomBytes 32).1 ++ sha256 s.allMeas ++
        leBytes 2 0 ++ ((s.randomBytes 32).2.randomBytes 384).1) :: s.boot.certs } :=
  (State.spdmAt_of_ready runs ready).trans (if_neg (not_not_intro zero))

theorem challengeEff_of_other (other : slot.toNat % 16 ≠ 0) : challengeEff slot n s = s.spdmError 1 :=
  (State.spdmAt_of_ready runs ready).trans (if_pos other)

end Certificate

section Measurements
variable {index : BitVec 8} {n : BitVec 256} {i : Nat} (number : index.toNat = i)

/-- MEASUREMENTS: its third byte, the blocks of the registers asked for, a nonce and a signature. -/
def State.measured (s : State) (third : Nat) (registers : List Nat) : State :=
  { ((s.randomBytes 32).2.randomBytes 384).2 with
    boot.certs := ([0x12#8, 0x60#8] ++ leBytes 1 third ++ [0x00#8] ++ leBytes 1 registers.length ++
      leBytes 3 (registers.flatMap s.measBlock).length ++ registers.flatMap s.measBlock ++ (s.randomBytes 32).1 ++ leBytes 2 0 ++
      ((s.randomBytes 32).2.randomBytes 384).1) :: s.boot.certs }

include number

/-- Index 0 counts the registers, 0xFF asks for all, and another one for one of the 16. -/
theorem getMeasurementsEff_of_known (known : i ≤ 16 ∨ i = 0xFF) : getMeasurementsEff index n s =
    s.measured (if i = 0 then 16 else 0) (if i = 0 then [] else if i = 0xFF then (List.range 16).map (· + 1) else [i]) := by
  subst number
  exact (State.spdmAt_of_ready runs ready).trans (if_neg (by omega))

theorem getMeasurementsEff_of_unknown (past : 16 < i) (below : i < 0xFF) :
    getMeasurementsEff index n s = s.spdmError 1 := by
  subst number
  exact (State.spdmAt_of_ready runs ready).trans (if_pos (by omega))

end Measurements

end Answers

/-- Settles O54: the requests by the exchanges they follow, their answers by slot and index. -/
theorem spdmResponses : Obligations.SpdmResponses := by
  unfold Obligations.SpdmResponses
  refine ⟨fun c s slot index off len n is => ?frame, fun c s slot index off len n runs early => ?early,
    fun s runs => ⟨?version, fun ready => ?capabilities, fun ready => ?algorithms⟩,
    fun s runs ready => ⟨?digests, fun slot off len => ⟨fun zero within => ?portion, fun outside => ?noPortion⟩,
      fun slot n => ⟨fun zero => ?challenge, fun other => ?noChallenge⟩,
      fun index n => ⟨fun low high => ?one, fun all => ?all, fun none => ?count, fun past below => ?unknown⟩⟩⟩
  case frame =>
    obtain ⟨need, f, answers, frame⟩ := exec_spdm (s := s) is
    refine ⟨fun silent => answers.trans (congrArg Host.Outcome.next (State.spdmAt_of_silent silent)), fun t answer => ?_⟩
    obtain rfl := Host.Outcome.next.inj (answers.symm.trans answer)
    exact frame
  case early =>
    rcases early with ⟨first, rfl⟩ | ⟨second, rfl⟩ | ⟨third, is⟩
    · exact congrArg Host.Outcome.next (State.spdmAt_of_early runs first)
    · exact congrArg Host.Outcome.next (State.spdmAt_of_early runs second)
    · obtain ⟨f, answers⟩ := exec_spdmSession is
      exact (answers s).trans (congrArg Host.Outcome.next (State.spdmAt_of_early runs third))
  case version => exact congrArg Host.Outcome.next (getVersionEff_of_running runs)
  case capabilities =>
    obtain ⟨r, length, answer⟩ := getCapabilitiesEff_of_ready runs ready
    exact ⟨r, length, congrArg Host.Outcome.next answer⟩
  case algorithms =>
    obtain ⟨r, length, answer⟩ := negotiateAlgorithmsEff_of_ready runs ready
    exact ⟨r, length, congrArg Host.Outcome.next answer⟩
  case digests => exact congrArg Host.Outcome.next (getDigestsEff_of_ready runs ready)
  case portion => exact congrArg Host.Outcome.next (getCertificateEff_of_within runs ready zero within)
  case noPortion => exact congrArg Host.Outcome.next (getCertificateEff_of_outside runs ready outside)
  case challenge => exact congrArg Host.Outcome.next (challengeEff_of_zero runs ready zero)
  case noChallenge => exact congrArg Host.Outcome.next (challengeEff_of_other runs ready other)
  case one =>
    refine congrArg Host.Outcome.next ((getMeasurementsEff_of_known runs ready rfl (.inl high)).trans ?_)
    rw [if_neg (by omega), if_neg (by omega), if_neg (by omega), State.measured, List.flatMap_singleton]
    rfl
  case all =>
    refine congrArg Host.Outcome.next ((getMeasurementsEff_of_known runs ready all (.inr rfl)).trans ?_)
    rw [if_neg (by decide), if_neg (by decide), if_pos rfl, State.measured, List.flatMap_map]
    rfl
  case count =>
    refine congrArg Host.Outcome.next ((getMeasurementsEff_of_known runs ready none (.inl (Nat.zero_le 16))).trans ?_)
    rw [if_pos rfl, if_pos rfl, State.measured, List.flatMap_nil]
    rfl
  case unknown => exact congrArg Host.Outcome.next (getMeasurementsEff_of_unknown runs ready rfl past below)

end Sys2Proof.Machine
end

section
/-! PROOFS of the statement about resets and the boot's own events (R423, R427, R429, R435-R437, R464-R466, R471, R472). -/

namespace Sys2Proof.Machine

/-! ### Step 2: Keeper firmware (R423) -/

section Firmware
variable {s : State} {l : List Byte} {src c : Nat}

theorem State.tryFw_of_accepted (accepted : s.checkFw l = 0) : s.tryFw l src = (0, s.runFw l src) := by
  rw [State.tryFw, accepted, if_pos rfl]

theorem State.tryFw_of_refused (check : s.checkFw l = c) (refused : c ≠ 0) :
    s.tryFw l src = (c, s.setF R.bootStatus F.bootStatus_FW_CODE c) := by
  rw [State.tryFw, check, if_neg refused]

section Load
variable (step : s.atStep 2 = true) (fresh : s.boot.fwWait = false) (high : s.pins.resetN = true)
  (normal : s.boot.testMode = false)
include step fresh high normal

/-- Nothing holds FIRMWARE_LOAD back at step 2. -/
theorem State.firmware_free : ¬ (!s.atStep 2 || s.boot.fwWait || !s.pins.resetN || s.boot.testMode) = true := by
  rw [step, fresh, high, normal]; decide

/-- An accepted image 0 runs. -/
theorem firmwareLoadEff_of_first (first : s.checkFw (KMap.get [] s.pat.flash 0) = 0) :
    firmwareLoadEff s = s.runFw (KMap.get [] s.pat.flash 0) 1 := by
  refine (if_neg (State.firmware_free step fresh high normal)).trans ?_
  rw [State.tryFw_of_accepted first]
  rfl

section Second
variable {u : State} (check : s.checkFw (KMap.get [] s.pat.flash 0) = c) (refused : c ≠ 0)
  (shown : s.setF R.bootStatus F.bootStatus_FW_CODE c = u)
include check refused shown

/-- After a refused one, an accepted image 1 runs. -/
theorem firmwareLoadEff_of_second (second : u.checkFw (KMap.get [] u.pat.flash 1) = 0) :
    firmwareLoadEff s = u.runFw (KMap.get [] u.pat.flash 1) 2 := by
  subst shown
  refine (if_neg (State.firmware_free step fresh high normal)).trans ?_
  rw [State.tryFw_of_refused check refused]
  refine (if_neg refused).trans ?_
  rw [State.tryFw_of_accepted second]
  rfl

/-- Where both are refused the Keeper waits for LOAD_FIRMWARE. -/
theorem firmwareLoadEff_of_none {e : Nat} (second : u.checkFw (KMap.get [] u.pat.flash 1) = e) (both : e ≠ 0) :
    firmwareLoadEff s = { u.setF R.bootStatus F.bootStatus_FW_CODE e with boot.fwWait := true } := by
  subst shown
  refine (if_neg (State.firmware_free step fresh high normal)).trans ?_
  rw [State.tryFw_of_refused check refused]
  refine (if_neg refused).trans ?_
  rw [State.tryFw_of_refused second both]
  exact if_neg both

end Second

end Load

end Firmware

/-! ### Steps 5, 8 and 9 (R427, R435, R437) -/

section Steps
variable {s : State}

/-- At any other step RAIL_GOOD is noted, no more. -/
theorem railGoodEff_of_otherStep (other : s.atStep 5 = false) : railGoodEff s = { s with pins.railGood := true } :=
  if_pos (by
    have : ({ s with pins.railGood := true } : State).atStep 5 = false := other
    rw [this]; rfl)

/-- At step 5 a wait for RAIL_GOOD ends. -/
theorem State.rail_awaited (step : ({ s with pins.railGood := true } : State).atStep 5 = true)
    (waits : s.boot.railT.isSome = true) :
    ¬ (!({ s with pins.railGood := true } : State).atStep 5 || s.boot.railT.isNone) = true := by
  rw [step, Bool.not_true, Bool.false_or, Option.isNone_iff_eq_none]
  exact Option.isSome_iff_ne_none.mp waits

/-- At step 8 the hypervisor hands off, unless FITTING holds it or a payload runs. -/
theorem State.handOff_free (step : s.atStep 8 = true) (free : s.boot.hold = false) (none : s.boot.payload = none) :
    ¬ (!s.atStep 8 || s.boot.hold || s.boot.payload.isSome) = true := by
  rw [step, free, none]; decide

/-- At step 9 in Fitting mode the package enters Service mode. -/
theorem State.toService_of_fitting (step : s.atStep 9 = true) (fitting : s.service = false) : s.toService =
    ((s.hostOwners.extendMeas 7 (sha256 (ascii "SERVICE"))).setStep 10).setF R.kprMode F.kprMode_SERVICE 1 :=
  if_neg (by rw [step, fitting]; decide)

/-- At other times it does not. -/
theorem State.toService_of_other (other : s.atStep 9 = false ∨ s.service = true) : s.toService = s :=
  if_pos (by rcases other with step | service
             · rw [step]; rfl
             · rw [service, Bool.or_true])

/-- SERVICE_REQ past its check asks for Service mode. -/
theorem serviceReqEff_of_pass {a : Agent} {t : State} (pass : s.ctlCheck a R.serviceReq.addr = .pass)
    (service : s.toService = t) : serviceReqEff a s = t.reply a .ok := by
  subst service
  exact State.ctlGuard_of_pass pass

end Steps

/-! ### RESET_N, SVC_PERST_N and the supply (R465, R466, R472) -/

section Pins
variable {s : State} {ns : BitVec 32} {rises : Bool}

section ResetN
variable (powered : s.pins.vstby = true)
include powered

/-- RESET_N low for 1,000 ns resets the package. -/
theorem resetNEff_of_long (high : s.pins.resetN = true) (long : 1000 ≤ ns.toNat) :
    resetNEff ns rises s = { (s.advance (s.tape + 1000)).warmAll with pins.resetN := rises } :=
  (if_neg (by rw [powered]; decide)).trans ((if_neg (by rw [high]; decide)).trans (if_neg long.not_gt))

theorem resetNEff_of_short (high : s.pins.resetN = true) (short : ns.toNat < 1000) : resetNEff ns rises s = s :=
  (if_neg (by rw [powered]; decide)).trans ((if_neg (by rw [high]; decide)).trans (if_pos short))

/-- One that stands low goes on, or rises. -/
theorem resetNEff_of_low (low : s.pins.resetN = false) : resetNEff ns rises s = { s with pins.resetN := rises } :=
  (if_neg (by rw [powered]; decide)).trans (if_pos (by rw [low]; rfl))

end ResetN

theorem svcPerstNEff_of_up (up : ((s.pcie 8).sub 0).up = true) : svcPerstNEff s = (s.subDown 8 0).svcLink :=
  if_neg (Bool.eq_false_iff.mp (congrArg (!·) up))

theorem svcPerstNEff_of_down (down : ((s.pcie 8).sub 0).up = false) : svcPerstNEff s = s :=
  if_pos (congrArg (!·) down)

section Supply
variable (good : s.pins.railGood = true)
include good

theorem supplyLostEff_of_off (off : s.pins.railEn = false) : supplyLostEff s = { s with pins.railGood := false } :=
  (if_neg (by rw [good]; decide)).trans (if_pos (congrArg (!·) off))

/-- RAIL_GOOD lost under RAIL_EN parks the package, with its record. -/
theorem supplyLostEff_of_on (on : s.pins.railEn = true) : supplyLostEff s =
    (({ s with pins.railGood := false, thm.parkAll := true } : State).err 16 3 5 (bankUnit 16) 0 0 (protoMisc 0x0C 0)).note
      .supply :=
  (if_neg (by rw [good]; decide)).trans (if_neg (Bool.eq_false_iff.mp (congrArg (!·) on)))

end Supply

end Pins

/-! ### A payload's ecall (R435) -/

section Payload
variable {s : State} {h : HartId} {p : Payload}

/-- A payload that a hart has ended, with the a0 it leaves. -/
def Payload.ended (p : Payload) (h : Nat) (a0 : Word) : Payload :=
  { p with harts := p.harts.filter (· != h), a0 := p.a0 ++ [(h, a0)] }

variable (runs : s.boot.payload = some p) (listed : p.harts.contains h.num = true)
  (virt : (s.hart h.num).w.virt = true) (priv : (s.hart h.num).w.priv = 1)
include runs listed virt priv

/-- An ecall from VS of a hart that runs the payload ends it there. -/
theorem payloadEcallEff_of_vs {q : Payload} (ended : p.ended h.num ((s.hart h.num).w.xr 10) = q) : payloadEcallEff h s =
    if q.harts.isEmpty then (({ s.trap h.num 10 with boot.payload := none } : State).payloadReply q).mbxEnd q.seq 0
    else { s.trap h.num 10 with boot.payload := some q } := by
  subst ended
  have vs : ¬ (!p.harts.contains h.num || !(s.hart h.num).w.virt || (s.hart h.num).w.priv != 1) = true := by
    rw [listed, virt, priv]; decide
  simp only [payloadEcallEff, runs]
  exact if_neg vs

end Payload

/-- Settles O52: each reset and event by the step of the boot and the pins it finds. -/
theorem bootSteps : Obligations.BootSteps := by
  unfold Obligations.BootSteps
  refine ⟨fun straps resetN testN s => rfl,
    fun s step fresh high normal => ⟨fun first => ?first, fun refused second => ?second, fun refused both => ?none⟩,
    fun s => ⟨fun other => ?rail, fun step waits => ?railStep⟩, fun s step free none => ?handOff,
    fun a s pass => ⟨fun step fitting => ?service, fun other => ?noService⟩,
    fun ns rises s powered => ⟨fun high long => ?long, fun high short => ?short, fun low => ?low⟩, fun s => rfl,
    fun s => ⟨fun up => ?up, fun down => ?down⟩, fun s good => ⟨fun off => ?off, fun on => ?on⟩,
    fun h p s runs listed virt priv => ?ecall⟩
  case ecall =>
    have ecall := payloadEcallEff_of_vs runs listed virt priv rfl
    exact ⟨fun goesOn => congrArg Host.Outcome.next (ecall.trans (if_neg (Bool.eq_false_iff.mp goesOn))),
      fun last => congrArg Host.Outcome.next (ecall.trans (if_pos last))⟩
  all_goals refine congrArg Host.Outcome.next ?_
  case first => exact firmwareLoadEff_of_first step fresh high normal first
  case second => exact firmwareLoadEff_of_second step fresh high normal rfl refused rfl second
  case none => exact firmwareLoadEff_of_none step fresh high normal rfl refused rfl rfl both
  case rail => exact railGoodEff_of_otherStep other
  case railStep => exact if_neg (State.rail_awaited step waits)
  case handOff => exact if_neg (State.handOff_free step free none)
  case service => exact serviceReqEff_of_pass pass (State.toService_of_fitting step fitting)
  case noService => exact serviceReqEff_of_pass pass (State.toService_of_other other)
  case long => exact resetNEff_of_long powered high long
  case short => exact resetNEff_of_short powered high short
  case low => exact resetNEff_of_low powered low
  case up => exact svcPerstNEff_of_up up
  case down => exact svcPerstNEff_of_down down
  case off => exact supplyLostEff_of_off good off
  case on => exact supplyLostEff_of_on good on

end Sys2Proof.Machine
end

section
/-! PROOFS of the statement about the TAP, the debug module interface and the path lock (R456-R458, R469). -/

namespace Sys2Proof.Machine

/-! ### The boundary-scan register (R469) -/

/-- One cell captures its pin. -/
def captureCell (v : BitVec 120) (e : Nat × Bool) : BitVec 120 :=
  (v &&& ~~~ BitVec.ofNat 120 (2 ^ e.1)) ||| (if e.2 then BitVec.ofNat 120 (2 ^ e.1) else 0)

theorem State.capture_eq (s : State) (pads : BitVec 120) : s.capture pads = s.pinCells.foldl captureCell pads := rfl

/-- It leaves the other cells. -/
theorem captureCell_getLsbD (v : BitVec 120) (e : Nat × Bool) {i : Nat} (cell : i < 120) :
    (captureCell v e).getLsbD i = if i = e.1 then e.2 else v.getLsbD i := by
  obtain ⟨k, b⟩ := e
  have place : (BitVec.ofNat 120 (2 ^ k)).getLsbD i = decide (k = i) := by
    rw [BitVec.getLsbD_ofNat, Nat.testBit_two_pow, decide_eq_true cell, Bool.true_and]
  have bits : (captureCell v (k, b)).getLsbD i = (v.getLsbD i && !decide (k = i) || b && decide (k = i)) := by
    cases b
    · simp only [captureCell, BitVec.getLsbD_or, BitVec.getLsbD_and, BitVec.getLsbD_not, place, cell, decide_true,
        Bool.true_and, Bool.false_and, Bool.false_eq_true, if_false, BitVec.ofNat_eq_ofNat,
        BitVec.getLsbD_zero]
    · simp only [captureCell, BitVec.getLsbD_or, BitVec.getLsbD_and, BitVec.getLsbD_not, place, cell, decide_true,
        Bool.true_and, if_true]
  rw [bits]
  by_cases here : i = k
  · rw [if_pos here, decide_eq_true here.symm, Bool.not_true, Bool.and_false, Bool.false_or, Bool.and_true]
  · rw [if_neg here, decide_eq_false (Ne.symm here), Bool.not_false, Bool.and_true, Bool.and_false, Bool.or_false]

/-- So a cell that none of the pins stands at keeps its pad. -/
theorem foldl_captureCell_of_absent {i : Nat} (cell : i < 120) {l : List (Nat × Bool)} {v : BitVec 120}
    (absent : i ∉ l.map Prod.fst) : (l.foldl captureCell v).getLsbD i = v.getLsbD i := by
  induction l generalizing v with
  | nil => rfl
  | cons e l ih =>
    rw [List.map_cons, List.mem_cons, not_or] at absent
    rw [List.foldl_cons, ih absent.2, captureCell_getLsbD v e cell, if_neg absent.1]

/-- And one that a pin stands at shows the pin. -/
theorem foldl_captureCell_of_mem {i : Nat} {b : Bool} (cell : i < 120) {l : List (Nat × Bool)} {v : BitVec 120}
    (apart : (l.map Prod.fst).Nodup) (pin : (i, b) ∈ l) : (l.foldl captureCell v).getLsbD i = b := by
  induction l generalizing v with
  | nil => exact absurd pin List.not_mem_nil
  | cons e l ih =>
    rw [List.map_cons, List.nodup_cons] at apart
    rw [List.foldl_cons]
    rcases List.mem_cons.mp pin with rfl | later
    · rw [foldl_captureCell_of_absent cell apart.1, captureCell_getLsbD _ _ cell, if_pos rfl]
    · exact ih apart.2 later

section Capture
variable {s : State} {pads : BitVec 120} {i : Nat} {b : Bool}

theorem State.capture_of_pin (cell : i < 120) (pin : (i, b) ∈ s.pinCells) : (s.capture pads).getLsbD i = b := by
  have apart : (s.pinCells.map Prod.fst).Nodup := by
    show [0, 1, 2, 11, 13, 14, 16, 18, 20].Nodup
    decide
  exact (congrArg (BitVec.getLsbD · i) (s.capture_eq pads)).trans (foldl_captureCell_of_mem cell apart pin)

theorem State.capture_of_pad (cell : i < 120) (pad : i ∉ [0, 1, 2, 11, 13, 14, 16, 18, 20]) :
    (s.capture pads).getLsbD i = pads.getLsbD i :=
  (congrArg (BitVec.getLsbD · i) (s.capture_eq pads)).trans (foldl_captureCell_of_absent cell pad)

end Capture

/-! ### The TAP's instructions (R456) -/

section Tap
variable {s : State}

/-- EXTEST takes effect only while RESET_N is low. -/
theorem extestEff_of_low (low : s.pins.resetN = false) : extestEff s = { s with dbg.ir := 0 } := by
  have on : ({ s with dbg.ir := 0 } : State).extestOn = true := by
    show ((0 : Nat) == 0 && !s.pins.resetN) = true
    rw [low]; rfl
  exact if_pos on

theorem extestEff_of_high (high : s.pins.resetN = true) : extestEff s = { s with dbg.ir := 0, dbg.byp := false } := by
  have off : ({ s with dbg.ir := 0 } : State).extestOn = false := by
    show ((0 : Nat) == 0 && !s.pins.resetN) = false
    rw [high]; rfl
  exact if_neg (Bool.eq_false_iff.mp off)

theorem dtmcsEff_eq (v : BitVec 32) : dtmcsEff v s =
    { s with dbg.ir := 0x10, dbg.tdo := 0x71 :: s.dbg.tdo, dbg.dmiOut := if v.getLsbD 17 then 0 else s.dbg.dmiOut } := by
  unfold dtmcsEff
  dsimp only
  split <;> rfl

end Tap

/-! ### The path lock (R458) -/

section Lock
variable {s : State} {svc : Bool} {v : Nat}

/-- A path takes the lock while it is free. -/
theorem State.lockWrite_of_free (free : s.fld R.pathLock F.pathLock_HOLDER = 0) (own : v = pathNum svc) :
    s.lockWrite svc v = s.setF R.pathLock F.pathLock_HOLDER (pathNum svc) := by
  subst own
  exact if_pos ⟨free, rfl⟩

/-- Its holder releases it. -/
theorem State.lockWrite_of_holder (holds : s.fld R.pathLock F.pathLock_HOLDER = pathNum svc) (zero : v = 0) :
    s.lockWrite svc v = s.setF R.pathLock F.pathLock_HOLDER 0 := by
  have held : ¬ (s.fld R.pathLock F.pathLock_HOLDER = 0 ∧ v = pathNum svc) := by
    rintro ⟨free, -⟩
    rw [holds] at free
    cases svc <;> exact absurd free (by decide)
  exact (if_neg held).trans (if_pos ⟨holds, zero⟩)

/-- No other write changes it. -/
theorem State.lockWrite_of_other (notTaken : ¬ (s.fld R.pathLock F.pathLock_HOLDER = 0 ∧ v = pathNum svc))
    (notFreed : ¬ (s.fld R.pathLock F.pathLock_HOLDER = pathNum svc ∧ v = 0)) : s.lockWrite svc v = s :=
  (if_neg notTaken).trans (if_neg notFreed)

/-- The path by JTAG is locked out while the service port holds the lock. -/
theorem State.lockedOut_jtag : s.lockedOut false = true ↔
    s.fld R.pathLock F.pathLock_HOLDER ≠ 0 ∧ s.fld R.pathLock F.pathLock_HOLDER ≠ 1 := by
  simp only [State.lockedOut, pathNum, Bool.and_eq_true, bne_iff_ne, Bool.false_eq_true, if_false]

end Lock

/-! ### The debug module's registers (R457, R458) -/

section Module
variable {s : State} {n v : Nat}

/-- An abstract command that settles touches no register of control space. -/
theorem State.absSettle_regs (s : State) : s.absSettle.regs = s.regs := by
  unfold State.absSettle
  split
  · rfl
  · dsimp only
    split <;> rfl

/-- PATH_LOCK reads its holder by either path. -/
theorem State.dmRead_pathLock (svc : Bool) : (s.dmRead svc 0x71).1 = s.fld R.pathLock F.pathLock_HOLDER := by
  have shown : s.absSettle.dmValue 0x71 = s.fld R.pathLock F.pathLock_HOLDER :=
    congrArg (getF · F.pathLock_HOLDER) (State.rd_of_regs s.absSettle_regs R.pathLock)
  have unlocked : ¬ ((0x71 : Nat) ≠ 0x71 ∧ s.lockedOut svc = true) := fun other => other.1 rfl
  rw [State.dmRead, if_neg unlocked]
  dsimp only
  split
  · exact shown
  · exact shown

section Barred
variable (other : n ≠ 0x71) (barred : s.lockedOut false = true)
include other barred

/-- A path that is locked out reads 0 and writes nothing, but for PATH_LOCK. -/
theorem State.dmRead_of_barred : s.dmRead false n = (0, s) :=
  if_pos ⟨other, barred⟩

theorem State.dmWrite_of_barred : s.dmWrite false n v = s :=
  (if_neg other).trans (if_pos barred)

end Barred

/-- dmcontrol takes a write of a path that is not locked out. -/
theorem State.dmWrite_dmcontrol (control : n = 0x10) (free : ¬ s.lockedOut false = true) :
    s.dmWrite false n v = s.absSettle.dmControl v :=
  (if_neg (by rw [control]; decide)).trans ((if_neg free).trans (if_pos control))

/-- dmactive 0 resets the module. -/
theorem State.dmControl_of_inactive (inactive : v % 2 = 0) : s.dmControl v = s.dmReset := by
  have clear : bit v 0 = false := by
    rw [bit, pow_zero, Nat.div_one, inactive]; rfl
  exact if_pos (congrArg (!·) clear)

/-- A hart's number fits its field (R114). -/
theorem hartId_num_lt (h : HartId) : h.num < 512 := by
  have panel := h.panel.isLt
  have core := h.core.isLt
  simp only [HartId.num]
  omega

section HaltWrite
variable {h : Nat} (small : h < 512)
include small

/-- The bits of dmcontrol that carry haltreq, a hart's number and dmactive. -/
theorem bit_haltWrite : bit (2 ^ 31 + h * 2 ^ 16 + 1) 0 = true ∧ bit (2 ^ 31 + h * 2 ^ 16 + 1) 1 = false ∧
    bit (2 ^ 31 + h * 2 ^ 16 + 1) 2 = false ∧ bit (2 ^ 31 + h * 2 ^ 16 + 1) 3 = false ∧
    bit (2 ^ 31 + h * 2 ^ 16 + 1) 28 = false ∧ bit (2 ^ 31 + h * 2 ^ 16 + 1) 31 = true := by
  simp only [bit, beq_iff_eq, beq_eq_false_iff_ne]
  omega

theorem hartsel_haltWrite : (2 ^ 31 + h * 2 ^ 16 + 1) / 2 ^ 16 % 512 = h := by
  omega

/-- haltreq for a present hart selects it and is a halt request. -/
theorem State.dmControl_haltreq
    (present : ({ s with dbg.active := true, dbg.hartsel := h } : State).hartPresent h = true) :
    s.dmControl (2 ^ 31 + h * 2 ^ 16 + 1) = ({ s with dbg.active := true, dbg.hartsel := h } : State).haltReq h := by
  obtain ⟨active, ndm, clear, set, have', halt⟩ := bit_haltWrite small
  unfold State.dmControl
  simp only [hartsel_haltWrite small, active, ndm, clear, set, have', halt, present, Bool.not_true, Bool.false_eq_true, if_false,
    if_true]

end HaltWrite

end Module

/-! ### A DMI scan (R458) -/

section Scan
variable {s : State} {addr : BitVec 7} {data : BitVec 32} {op : BitVec 2}

/-- A scan shifts the last access's outcome out. -/
def State.dmiScan (s : State) : State := { s with dbg.ir := 0x11, dbg.tdo := s.dbg.dmiOut :: s.dbg.tdo }

/-- What the next scan shifts out: the address and the data of this access. -/
def State.dmiOutcome (s : State) (n v : Nat) : State := { s with dbg.dmiOut := n <<< 34 + v <<< 2 }

theorem dmiEff_of_nop (nop : op.toNat = 0 ∨ op.toNat = 3) : dmiEff addr data op s = s.dmiScan.dmiOutcome addr.toNat 0 := by
  unfold dmiEff
  rcases nop with nop | nop
  all_goals rw [nop]; rfl

theorem dmiEff_of_read {u : State} {v : Nat} (read : op.toNat = 1) (gives : s.dmiScan.dmRead false addr.toNat = (v, u)) :
    dmiEff addr data op s = u.dmiOutcome addr.toNat v := by
  unfold State.dmiScan at gives
  unfold dmiEff
  rw [read]
  dsimp only
  rw [gives]
  rfl

theorem dmiEff_of_write {u : State} (write : op.toNat = 2) (does : s.dmiScan.dmWrite false addr.toNat data.toNat = u) :
    dmiEff addr data op s = u.dmiOutcome addr.toNat data.toNat := by
  subst does
  unfold dmiEff
  rw [write]
  rfl

end Scan

/-- Settles O56: the TAP's instructions one by one, PATH_LOCK by its holder, and a scan by its operation and by whether
the other path holds the lock. -/
theorem jtagAndPathLock : Obligations.JtagAndPathLock := by
  unfold Obligations.JtagAndPathLock
  refine ⟨fun s => ⟨fun low => ?_, fun high => ?_⟩, fun pads v s => ⟨s.capture pads, rfl, ?_⟩, fun tdi s => rfl,
    fun v s => congrArg Host.Outcome.next (dtmcsEff_eq v), fun s => rfl, fun svc v s => ⟨fun free own => ?_, fun holds zero => ?_,
      fun notTaken notFreed => ?_⟩, fun addr data op s => ?scan⟩
  · exact congrArg Host.Outcome.next (extestEff_of_low low)
  · exact congrArg Host.Outcome.next (extestEff_of_high high)
  · refine ⟨?_, ?_, ?_, ?_, ?_, ?_, ?_, ?_, ?_, fun i cell pad => State.capture_of_pad cell pad⟩
    all_goals exact State.capture_of_pin (by decide) (by simp [State.pinCells])
  · exact congrArg Host.Outcome.next (State.lockWrite_of_free free own)
  · exact congrArg Host.Outcome.next (State.lockWrite_of_holder holds zero)
  · exact congrArg Host.Outcome.next (State.lockWrite_of_other notTaken notFreed)
  case scan =>
    intro u n out barred
    have locked : u.lockedOut false = true ↔ barred := State.lockedOut_jtag
    refine ⟨fun nop => ?_, fun read bars other => ?_, fun read _ => ?_, fun read lock => ?_, fun write bars other => ?_,
      fun write _ => ?_, fun write free control inactive => ?_, fun write free control h halt present => ?_⟩
    · exact congrArg Host.Outcome.next (dmiEff_of_nop nop)
    · exact congrArg Host.Outcome.next (dmiEff_of_read read (State.dmRead_of_barred other (locked.mpr bars)))
    · exact congrArg Host.Outcome.next (dmiEff_of_read read rfl)
    · rw [lock]; exact State.dmRead_pathLock false
    · exact congrArg Host.Outcome.next (dmiEff_of_write write (State.dmWrite_of_barred other (locked.mpr bars)))
    · exact congrArg Host.Outcome.next (dmiEff_of_write write rfl)
    · exact congrArg Host.Outcome.next (dmiEff_of_write write ((State.dmWrite_dmcontrol control (mt locked.mp free)).trans
        (State.dmControl_of_inactive inactive)))
    · have halts : u.absSettle.dmControl data.toNat =
          ({ u.absSettle with dbg.active := true, dbg.hartsel := h.num } : State).haltReq h.num := by
        rw [halt]; exact State.dmControl_haltreq (hartId_num_lt h) present
      exact congrArg Host.Outcome.next (dmiEff_of_write write ((State.dmWrite_dmcontrol control (mt locked.mp free)).trans halts))

end Sys2Proof.Machine
end

section
/-! PROOFS of the statement about counters that overflow, snapshots and freezes (R447, R454, R455). -/

namespace Sys2Proof.Machine

/-! ### Overflow (R447) -/

section Overflow
variable {s : State} {h : HartId} {k : Fin 32}

/-- A counter that counts: it exists, and is neither frozen nor inhibited. -/
def State.counterLive (s : State) (h : HartId) (k : Nat) : Prop :=
  3 ≤ k ∧ k ≤ 10 ∧ s.frozenAt h.panel.val = false ∧ bit ((s.hart h.num).w.csrVal 0x320).toNat k = false

theorem counterOverflowEff_of_still (still : ¬ s.counterLive h k.val) : counterOverflowEff h k s = s := by
  refine if_pos ?_
  by_contra! counts
  obtain ⟨low, high, runs, free⟩ := counts
  exact still ⟨low, high, Bool.eq_false_iff.mpr runs, Bool.eq_false_iff.mpr free⟩

/-- One that counts goes on from 0, with its overflow. -/
theorem counterOverflowEff_of_live (live : s.counterLive h k.val) :
    counterOverflowEff h k s = (s.setCsr h.num (0xB00 + k.val) 0).hpmOverflow h.num k.val := by
  obtain ⟨low, high, runs, free⟩ := live
  refine if_neg ?_
  rintro (below | past | frozen | inhibited)
  · exact below.not_ge low
  · exact past.not_ge high
  · exact Bool.false_ne_true (runs.symm.trans frozen)
  · exact Bool.false_ne_true (free.symm.trans inhibited)

end Overflow

/-! ### Arming (R455) -/

section Arm
variable {s : State} {op : Nat}

theorem State.snapStart_of_armed (armed : s.fld R.snapCtl F.snapCtl_STATE = 1) : s.snapStart op = s :=
  if_pos (.inr armed)

theorem State.snapStart_of_idle (some : op ≠ 0) (idle : s.fld R.snapCtl F.snapCtl_STATE ≠ 1) : s.snapStart op =
    { (s.wr R.snapTime (BitVec.ofNat 64 (max (s.rd R.snapTime).toNat
        (s.tape + clampN 1000 1000000 (s.cfg 0x120 0xFFFF 8 4 1000))))).setF R.snapCtl F.snapCtl_STATE 1 with cnt.op := op } :=
  if_neg (not_or_intro some idle)

/-- The three commands arm operations 1, 2 and 3. -/
theorem exec_snap {c : Instr} (is : (c = .snapArm ∧ op = 1) ∨ (c = .armFreeze ∧ op = 2) ∨ (c = .thaw ∧ op = 3)) (s : State) :
    op ≠ 0 ∧ exec c s = .next (s.snapStart op) := by
  rcases is with ⟨rfl, rfl⟩ | ⟨rfl, rfl⟩ | ⟨rfl, rfl⟩
  all_goals exact ⟨by decide, rfl⟩

end Arm

/-! ### The operation at TIME (R455) -/

section Take
variable {s : State} {missed : BitVec 17}

/-- Time that passes leaves the operation armed. -/
theorem State.advance_op (s : State) (n : Nat) : (s.advance n).cnt.op = s.cnt.op := by
  obtain ⟨r, passed⟩ := s.advance_regs n
  rw [passed]

/-- The stops that take the operation. -/
def State.snapStops (s : State) (missed : BitVec 17) : List Nat :=
  (List.range 17).filter fun i => s.stopLive i && !missed.getLsbD i

/-- The stops' counters copied, under the next SEQ. -/
def State.snapCopied (s : State) (missed : BitVec 17) : State :=
  let seq := (s.fld R.snapCtl F.snapCtl_SEQ + 1) % 65536
  ((s.snapStops missed).foldl (fun s i => s.shadowStop seq i) s).setF R.snapCtl F.snapCtl_SEQ seq

/-- The operation is done: PARTIAL says whether an open stop missed it. -/
def State.snapDone (s u : State) (missed : BitVec 17) : State :=
  { (s.setF R.snapCtl F.snapCtl_PARTIAL (if (List.range 17).any fun i => u.stopOpen i && missed.getLsbD i then 1 else 0)).setF
      R.snapCtl F.snapCtl_STATE 2 with cnt.op := 0 }

theorem snapshotTakeEff_of_idle (idle : s.fld R.snapCtl F.snapCtl_STATE ≠ 1) : snapshotTakeEff missed s = s :=
  if_pos idle

section Armed
variable {u : State} (armed : s.fld R.snapCtl F.snapCtl_STATE = 1) (passed : s.advance (s.rd R.snapTime).toNat = u)
include armed passed

/-- ARM copies. -/
theorem snapshotTakeEff_of_arm (arm : s.cnt.op = 1) :
    snapshotTakeEff missed s = (u.snapCopied missed).snapDone u missed := by
  subst passed
  refine (if_neg (not_not_intro armed)).trans ?_
  simp only [State.advance_op, arm]
  rfl

/-- ARM_FREEZE copies, and stops the counters. -/
theorem snapshotTakeEff_of_freeze (freeze : s.cnt.op = 2) : snapshotTakeEff missed s =
    (((u.snapStops missed).foldl (fun s i => s.freezeStop true i) (u.snapCopied missed)).setF R.snapCtl F.snapCtl_FROZEN 1).snapDone
      u missed := by
  subst passed
  refine (if_neg (not_not_intro armed)).trans ?_
  simp only [State.advance_op, freeze]
  rfl

/-- THAW starts them again. -/
theorem snapshotTakeEff_of_thaw (thaw : s.cnt.op = 3) : snapshotTakeEff missed s =
    (((u.snapStops missed).foldl (fun s i => s.freezeStop false i) u).setF R.snapCtl F.snapCtl_FROZEN 0).snapDone u missed := by
  subst passed
  refine (if_neg (not_not_intro armed)).trans ?_
  simp only [State.advance_op, thaw]
  rfl

end Armed

end Take

/-! ### Writes of a list of registers -/

/-- Registers written in turn. -/
def State.wrAll (s : State) (l : List (Reg × Word)) : State := l.foldl (fun s e => s.wr e.1 e.2) s

section WrAll
variable {s : State} {l : List (Reg × Word)} {q : Reg} {v : Word}

theorem State.wrAll_regs (s : State) (l : List (Reg × Word)) : ∃ r, s.wrAll l = { s with regs := r } := by
  unfold State.wrAll
  induction l generalizing s with
  | nil => exact ⟨s.regs, rfl⟩
  | cons e l ih =>
    obtain ⟨r, written⟩ := ih (s.wr e.1 e.2)
    exact ⟨r, written⟩

/-- They leave a register whose place is not among theirs. -/
theorem State.rd_wrAll_of_absent (absent : ∀ e ∈ l, q.addr ≠ e.1.addr) : (s.wrAll l).rd q = s.rd q := by
  unfold State.wrAll
  induction l generalizing s with
  | nil => rfl
  | cons e l ih =>
    rw [List.foldl_cons, ih fun e' later => absent e' (List.mem_cons_of_mem e later)]
    exact State.rd_wr_ne s e.2 (absent e List.mem_cons_self)

/-- One that no two of them differ on reads what they write to it. -/
theorem State.rd_wrAll_of_mem (mem : (q, v) ∈ l) (only : ∀ e ∈ l, q.addr = e.1.addr → e = (q, v)) : (s.wrAll l).rd q = v := by
  unfold State.wrAll
  induction l generalizing s with
  | nil => exact absurd mem List.not_mem_nil
  | cons e l ih =>
    rw [List.foldl_cons]
    by_cases later : (q, v) ∈ l
    · exact ih later fun e' there => only e' (List.mem_cons_of_mem e there)
    · obtain rfl : (q, v) = e := (List.mem_cons.mp mem).resolve_right later
      have absent : ∀ e' ∈ l, q.addr ≠ e'.1.addr := fun e' there same =>
        later (only e' (List.mem_cons_of_mem _ there) same ▸ there)
      exact (State.rd_wrAll_of_absent absent).trans (State.rd_wr_self s q v)

end WrAll

/-! ### The shadows of a panel (R454) -/

/-- What shadow `k` of a hart holds: its mcycle, the Tape, its minstret, and mhpmcounter3 to 10. -/
def State.shadowValue (s : State) (h : Nat) : Nat → Word
  | 0 => (s.hart h).w.csrVal 0xB00
  | 1 => BitVec.ofNat 64 s.tape
  | 2 => (s.hart h).w.csrVal 0xB02
  | i + 3 => (s.hart h).w.csrVal (0xB03 + i)

/-- The shadows of a present hart of a panel. -/
def State.hartShadows (s : State) (p c : Nat) : List (Reg × Word) :=
  if s.hartPresent (hartNum p c) then (List.range 11).map fun k => (R.hartShadow p c k, s.shadowValue (hartNum p c) k) else []

section Shadows
variable {s t : State} {p c : Nat}

/-- Two states that agree on what the shadows show. -/
structure State.ShadowsAlike (s t : State) : Prop where
  harts   : t.harts = s.harts
  tape    : t.tape = s.tape
  present : ∀ h, t.hartPresent h = s.hartPresent h

theorem State.ShadowsAlike.hartShadows (alike : s.ShadowsAlike t) (p c : Nat) : t.hartShadows p c = s.hartShadows p c := by
  have hart : t.hart (hartNum p c) = s.hart (hartNum p c) := by
    rw [State.hart, State.hart, alike.harts]
  have value (k : Nat) : t.shadowValue (hartNum p c) k = s.shadowValue (hartNum p c) k := by
    unfold State.shadowValue
    rw [hart, alike.tape]
  simp only [State.hartShadows, alike.present, value]

/-- No shadow stands where a panel's harts are enabled. -/
theorem hartEn_ne_hartShadow (i : Nat) {p c k : Nat} (hart : c < 20) (shadow : k < 11) :
    (R.hartEn i).addr ≠ (R.hartShadow p c k).addr := by
  simp only [R.hartEn, R.hartShadow]
  omega

/-- A place in a panel holds one shadow of one hart. -/
theorem hartShadow_addr_inj {p c k c' k' : Nat} (shadow : k < 11) (shadow' : k' < 11)
    (same : (R.hartShadow p c k).addr = (R.hartShadow p c' k').addr) : c = c' ∧ k = k' := by
  simp only [R.hartShadow] at same
  omega

theorem State.mem_hartShadows {e : Reg × Word} : e ∈ s.hartShadows p c ↔
    s.hartPresent (hartNum p c) = true ∧ ∃ k < 11, e = (R.hartShadow p c k, s.shadowValue (hartNum p c) k) := by
  unfold State.hartShadows
  split
  case isTrue present => simp only [List.mem_map, List.mem_range, present, true_and, eq_comm]
  case isFalse absent => simp only [List.not_mem_nil, absent, Bool.false_eq_true, false_and]

/-- A hart's shadows change nothing that a shadow shows. -/
theorem State.shadowsAlike_wrAll (hart : c < 20) : s.ShadowsAlike (s.wrAll (s.hartShadows p c)) := by
  obtain ⟨r, written⟩ := s.wrAll_regs (s.hartShadows p c)
  have enabled (i : Nat) : (s.wrAll (s.hartShadows p c)).rd (R.hartEn i) = s.rd (R.hartEn i) := by
    refine State.rd_wrAll_of_absent fun e mem => ?_
    obtain ⟨-, k, shadow, rfl⟩ := State.mem_hartShadows.mp mem
    exact hartEn_ne_hartShadow i hart shadow
  exact ⟨by rw [written], by rw [written], fun h => by simp only [State.hartPresent, State.fld, enabled]⟩

theorem State.ShadowsAlike.trans {u : State} (alike : s.ShadowsAlike t) (next : t.ShadowsAlike u) : s.ShadowsAlike u :=
  ⟨next.harts.trans alike.harts, next.tape.trans alike.tape, fun h => (next.present h).trans (alike.present h)⟩

/-- The shadows of a hart, as the panel writes them. -/
def State.shadowHart (p : Nat) (s : State) (c : Nat) : State :=
  let h := hartNum p c
  let w := (s.hart h).w
  let put := fun (s : State) (k : Nat) (v : Word) => s.wr (R.hartShadow p c k) v
  if !s.hartPresent h then s
  else
    let s := put (put (put s 0 (w.csrVal 0xB00)) 1 (BitVec.ofNat 64 s.tape)) 2 (w.csrVal 0xB02)
    (List.range 8).foldl (fun s i => put s (3 + i) (w.csrVal (0xB03 + i))) s

theorem State.shadowPanel_eq (s : State) (p : Nat) : s.shadowPanel p = (List.range 20).foldl (State.shadowHart p) s := rfl

theorem State.shadowHart_eq (s : State) (p c : Nat) : s.shadowHart p c = s.wrAll (s.hartShadows p c) := by
  unfold State.shadowHart State.hartShadows
  dsimp only
  by_cases present : s.hartPresent (hartNum p c) = true
  · rw [if_neg (by rw [present]; decide), if_pos present]; rfl
  · rw [if_pos (by rw [Bool.eq_false_iff.mpr present]; rfl), if_neg present]; rfl

/-- The panel's shadows are its harts' together. -/
theorem State.foldl_shadowHart {l : List Nat} (harts : ∀ c ∈ l, c < 20) (alike : s.ShadowsAlike t) :
    l.foldl (State.shadowHart p) t = t.wrAll (l.flatMap (s.hartShadows p)) := by
  induction l generalizing t with
  | nil => rfl
  | cons c l ih =>
    have next : t.ShadowsAlike (t.shadowHart p c) := by
      rw [State.shadowHart_eq]; exact State.shadowsAlike_wrAll (harts c List.mem_cons_self)
    rw [List.foldl_cons, ih (fun c' later => harts c' (List.mem_cons_of_mem c later)) (alike.trans next), List.flatMap_cons,
      State.shadowHart_eq, alike.hartShadows]
    exact List.foldl_append.symm

/-- The panel's shadows, and SNAP_SEQ after them. -/
def State.panelShadows (s : State) (p : Nat) : List (Reg × Word) := (List.range 20).flatMap (s.hartShadows p)

theorem State.shadowStop_panel {seq : Nat} (panel : p < 12) :
    s.shadowStop seq p = (s.wrAll (s.panelShadows p)).wr (R.pnlSnapSeq p) (BitVec.ofNat 64 seq) := by
  have copied : s.shadowPanel p = s.wrAll (s.panelShadows p) :=
    (s.shadowPanel_eq p).trans (State.foldl_shadowHart (fun c mem => List.mem_range.mp mem) ⟨rfl, rfl, fun _ => rfl⟩)
  rw [State.shadowStop, snapSeqReg, if_pos panel, if_pos panel, copied]

theorem State.mem_panelShadows {e : Reg × Word} : e ∈ s.panelShadows p ↔ ∃ c < 20, s.hartPresent (hartNum p c) = true ∧
    ∃ k < 11, e = (R.hartShadow p c k, s.shadowValue (hartNum p c) k) := by
  simp only [State.panelShadows, List.mem_flatMap, List.mem_range, State.mem_hartShadows]

/-- SNAP_SEQ stands apart from the shadows. -/
theorem hartShadow_ne_pnlSnapSeq {k : Nat} : (R.hartShadow p c k).addr ≠ (R.pnlSnapSeq p).addr := by
  simp only [R.hartShadow, R.pnlSnapSeq]
  omega

theorem State.rd_shadowStop_seq {seq : Nat} (panel : p < 12) :
    (s.shadowStop seq p).rd (R.pnlSnapSeq p) = BitVec.ofNat 64 seq := by
  rw [State.shadowStop_panel panel, State.rd_wr_self]

/-- A shadow of a present hart holds its counter. -/
theorem State.rd_shadowStop_shadow {seq k : Nat} (panel : p < 12) (hart : c < 20)
    (present : s.hartPresent (hartNum p c) = true) (shadow : k < 11) :
    (s.shadowStop seq p).rd (R.hartShadow p c k) = s.shadowValue (hartNum p c) k := by
  rw [State.shadowStop_panel panel, State.rd_wr_ne _ _ hartShadow_ne_pnlSnapSeq]
  refine State.rd_wrAll_of_mem (State.mem_panelShadows.mpr ⟨c, hart, present, k, shadow, rfl⟩) fun e mem same => ?_
  obtain ⟨c', -, -, k', shadow', rfl⟩ := State.mem_panelShadows.mp mem
  obtain ⟨rfl, rfl⟩ := hartShadow_addr_inj shadow shadow' same
  rfl

/-- A register that is neither SNAP_SEQ nor a shadow stays. -/
theorem State.rd_shadowStop_other {seq : Nat} {q : Reg} (panel : p < 12) (notSeq : q.addr ≠ (R.pnlSnapSeq p).addr)
    (notShadow : ∀ c k, c < 20 → k < 11 → q.addr ≠ (R.hartShadow p c k).addr) : (s.shadowStop seq p).rd q = s.rd q := by
  rw [State.shadowStop_panel panel, State.rd_wr_ne _ _ notSeq]
  refine State.rd_wrAll_of_absent fun e mem => ?_
  obtain ⟨c, hart, -, k, shadow, rfl⟩ := State.mem_panelShadows.mp mem
  exact notShadow c k hart shadow

end Shadows

/-- Settles O55: an overflow by whether its counter counts, an operation by whether one is armed and by its kind, and a
panel's copy as the list of its writes. -/
theorem countersAndSnapshots : Obligations.CountersAndSnapshots := by
  unfold Obligations.CountersAndSnapshots
  refine ⟨fun h k s => ⟨fun still => ?still, fun live set => ?set, fun live clear => ?clear⟩,
    fun c op s is => ⟨fun armed => ?armed, fun idle => ?idle⟩,
    fun missed s => ⟨fun idle => ?never, fun armed => ⟨fun arm => ?arm, fun freeze => ?freeze, fun thaw => ?thaw⟩⟩,
    fun s seq p panel => ?panel⟩
  case still => exact congrArg Host.Outcome.next (counterOverflowEff_of_still still)
  case set => exact congrArg Host.Outcome.next ((counterOverflowEff_of_live live).trans (if_pos set))
  case clear =>
    exact congrArg Host.Outcome.next ((counterOverflowEff_of_live live).trans (if_neg (Bool.eq_false_iff.mp clear)))
  case armed => exact (exec_snap is s).2.trans (congrArg Host.Outcome.next (State.snapStart_of_armed armed))
  case idle =>
    obtain ⟨some, arms⟩ := exec_snap is s
    exact arms.trans (congrArg Host.Outcome.next (State.snapStart_of_idle some idle))
  case never => exact congrArg Host.Outcome.next (snapshotTakeEff_of_idle idle)
  case arm => exact congrArg Host.Outcome.next (snapshotTakeEff_of_arm armed rfl arm)
  case freeze => exact congrArg Host.Outcome.next (snapshotTakeEff_of_freeze armed rfl freeze)
  case thaw => exact congrArg Host.Outcome.next (snapshotTakeEff_of_thaw armed rfl thaw)
  case panel =>
    intro t
    refine ⟨State.rd_shadowStop_seq panel, fun c hart present => ?_, fun q notSeq notShadow => State.rd_shadowStop_other panel notSeq notShadow, ?_⟩
    · have shadow (k : Nat) (below : k < 11) := State.rd_shadowStop_shadow (s := s) (seq := seq) panel hart present below
      exact ⟨shadow 0 (by decide), shadow 1 (by decide), shadow 2 (by decide), fun i low => by
        rw [Nat.add_comm 3 i]; exact shadow (i + 3) (by omega)⟩
    · obtain ⟨r, written⟩ := s.wrAll_regs (s.panelShadows p)
      exact ⟨_, (State.shadowStop_panel panel).trans (by rw [written]; rfl)⟩

end Sys2Proof.Machine
end

section
/-! PROOFS of the statement about halt, resume and abstract commands (R360, R429, R457). -/

namespace Sys2Proof.Machine

/-! ### Halt (R360, R457) -/

/-- A field of a CSR value reads what was put into it. -/
theorem bitsAt_setBits_self (v : Word) {lo n : Nat} (x : Nat) (some : 0 < n) (fits : lo + n ≤ 64) :
    bitsAt (setBits v lo n x) lo n = x % 2 ^ n := by
  have width : lo + n - 1 + 1 - lo = n := by omega
  have field := getF_putF v ⟨lo + n - 1, lo, .rw, 0, 0, 0⟩ x (by dsimp only; omega) (by dsimp only; omega)
  rwa [width] at field

/-- The fields beside it keep theirs. -/
theorem bitsAt_setBits_ne (v : Word) {lo n lo' n' : Nat} (x : Nat) (some : 0 < n') (fits : lo' + n' ≤ 64)
    (apart : lo' + n' ≤ lo ∨ lo + n ≤ lo') (some' : 0 < n) : bitsAt (setBits v lo n x) lo' n' = bitsAt v lo' n' :=
  getF_putF_ne v x (by dsimp only; omega) (by dsimp only; omega) (by dsimp only; omega)

/-- dcsr of a world that halts for a cause: the cause, the privilege, and whether it was virtual. -/
def World.haltDcsr (w : World) (c : Nat) : Word :=
  setBits (setBits (setBits (w.csrVal 0x7B0) 6 3 c) 0 2 w.priv) 5 1 (if w.virt then 1 else 0)

theorem World.haltDcsr_cause (w : World) {c : Nat} (cause : c < 8) : bitsAt (w.haltDcsr c) 6 3 = c := by
  rw [World.haltDcsr, bitsAt_setBits_ne _ _ (by decide) (by decide) (by decide) (by decide),
    bitsAt_setBits_ne _ _ (by decide) (by decide) (by decide) (by decide), bitsAt_setBits_self _ _ (by decide) (by decide)]
  exact Nat.mod_eq_of_lt cause

theorem World.haltDcsr_priv (w : World) (c : Nat) (mode : w.priv < 4) : bitsAt (w.haltDcsr c) 0 2 = w.priv := by
  rw [World.haltDcsr, bitsAt_setBits_ne _ _ (by decide) (by decide) (by decide) (by decide),
    bitsAt_setBits_self _ _ (by decide) (by decide)]
  exact Nat.mod_eq_of_lt mode

section Halt
variable {s : State} {h : Nat}

/-- A hart is changed but for what only counts its time. -/
theorem State.hart_updHart_fields {α : Type} (g : HartSt → α) (f : HartSt → HartSt)
    (timeless : ∀ x since resid idle, g { x with since := since, resid := resid, idleAt := idle } = g x) :
    g ((s.updHart h f).hart h) = g (f (s.hart h)) := by
  obtain ⟨since, resid, idle, changed⟩ := s.hart_updHart_self h f
  rw [changed, timeless]

/-- A halt request stands at a hart. -/
def State.haltPending (s : State) (h : Nat) : State := s.updHart h fun x => { x with haltReq := true }

theorem State.haltPending_fields {α : Type} (g : HartSt → α)
    (timeless : ∀ x since resid idle, g { x with since := since, resid := resid, idleAt := idle } = g x)
    (other : ∀ x b, g { x with haltReq := b } = g x) : g ((s.haltPending h).hart h) = g (s.hart h) :=
  (State.hart_updHart_fields g _ timeless).trans (other _ _)

/-- The hart's world is the one whose INV decides. -/
theorem State.haltPending_inv : (s.haltPending h).inv ((s.haltPending h).hart h).pocket.toNat = s.inv (s.hart h).pocket.toNat :=
  congrArg (fun q : Pocket => s.inv q.toNat)
    (State.haltPending_fields HartSt.pocket (fun _ _ _ _ => rfl) fun _ _ => rfl)

/-- While INV is 0 the request stays pending. -/
theorem State.haltReq_of_hidden (hidden : s.inv (s.hart h).pocket.toNat = false) : s.haltReq h = s.haltPending h :=
  if_pos (congrArg (!·) (State.haltPending_inv.trans hidden))

/-- A running hart halts where INV is 1. -/
theorem State.haltReq_of_running (seen : s.inv (s.hart h).pocket.toNat = true) (runs : (s.hart h).mode = .run)
    (waits : (s.hart h).wait = .none) : s.haltReq h = (s.haltPending h).halt h 3 := by
  have able : ¬ (!(s.haltPending h).inv ((s.haltPending h).hart h).pocket.toNat) = true := by
    rw [State.haltPending_inv, seen]; decide
  have mode : ((s.haltPending h).hart h).mode = .run :=
    (State.haltPending_fields HartSt.mode (fun _ _ _ _ => rfl) fun _ _ => rfl).trans runs
  have wait : ((s.haltPending h).hart h).wait = .none :=
    (State.haltPending_fields HartSt.wait (fun _ _ _ _ => rfl) fun _ _ => rfl).trans waits
  refine (if_neg able).trans ?_
  unfold State.haltPending at mode wait ⊢
  simp only [mode, wait]

/-- A hart that halts is halted, with no request pending. -/
theorem State.halt_mode (c : Nat) : ((s.halt h c).hart h).mode = .halted :=
  State.hart_updHart_fields HartSt.mode _ fun _ _ _ _ => rfl

theorem State.halt_haltReq (c : Nat) : ((s.halt h c).hart h).haltReq = false :=
  State.hart_updHart_fields HartSt.haltReq _ fun _ _ _ _ => rfl

/-- Out of a run-ahead, its world is the one it ran but for dcsr. -/
theorem State.halt_world (c : Nat) (plain : (s.hart h).ra = none) :
    ((s.halt h c).hart h).w = (s.hart h).w.setCsr 0x7B0 ((s.hart h).w.haltDcsr c) := by
  refine (State.hart_updHart_fields HartSt.w _ fun _ _ _ _ => rfl).trans ?_
  simp only [plain]
  rfl

/-- The hart halted for a request runs the world the request found. -/
theorem State.halt_haltPending_world (plain : (s.hart h).ra = none) :
    (((s.haltPending h).halt h 3).hart h).w = (s.hart h).w.setCsr 0x7B0 ((s.hart h).w.haltDcsr 3) := by
  have world := State.haltPending_fields (s := s) (h := h) HartSt.w (fun _ _ _ _ => rfl) fun _ _ => rfl
  have stays := State.haltPending_fields (s := s) (h := h) HartSt.ra (fun _ _ _ _ => rfl) fun _ _ => rfl
  rw [State.halt_world 3 (stays.trans plain), world]

theorem State.halt_haltPending_other {k : Nat} (other : k ≠ h) :
    ((s.haltPending h).halt h 3).hart k = s.hart k :=
  (State.hart_updHart_ne _ _ other).trans (State.hart_updHart_ne _ _ other)

end Halt

/-! ### Resume (R457) -/

/-- Only a halted hart resumes. -/
theorem State.resumeReq_of_other {s : State} {h : Nat} (other : (s.hart h).mode ≠ .halted) : s.resumeReq h = s :=
  if_pos (bne_iff_ne.mpr other)

theorem State.resumeReq_of_halted {s u : State} {h : Nat} (halted : (s.hart h).mode = .halted)
    (goesOn : (s.updHart h fun x => { x with
      mode := .run, wait := .none
      w := { x.w with
        priv := bitsAt ((s.hart h).w.csrVal 0x7B0) 0 2, virt := bitsAt ((s.hart h).w.csrVal 0x7B0) 5 1 == 1 } }) = u) :
    s.resumeReq h = ({ u with
      dbg.resumeAck := if u.dbg.resumeAck.contains h then u.dbg.resumeAck else h :: u.dbg.resumeAck } : State).pollInt h := by
  subst goesOn
  exact if_neg (by rw [halted]; decide)

/-! ### Abstract commands (R457) -/

theorem State.cmdFail_of_clear {s : State} (clear : s.dbg.cmderr = 0) (c : Nat) : s.cmdFail c = { s with dbg.cmderr := c } := by
  unfold State.cmdFail
  rw [if_pos clear]

/-- A hart that abstract commands may act on: it is halted, and its world's INV is 1 (R360). -/
theorem State.absHart_iff {s : State} {h : Nat} : s.absHart h = true ↔
    (s.hart h).mode = .halted ∧ s.inv (s.hart h).pocket.toNat = true := by
  rw [State.absHart, Bool.and_eq_true, beq_iff_eq]

section Register
variable {s a : State} {h : Nat} {r : DbgReg} {isWrite : Bool} {size : Nat} (settled : s.absSettle = a)
include settled

/-- A command waits for an error to be cleared. -/
theorem State.absRegister_of_error (error : a.dbg.cmderr ≠ 0) : s.absRegister h r isWrite size = a := by
  subst settled
  exact if_pos error

variable (clear : a.dbg.cmderr = 0) (idle : a.dbg.abs = none)
include clear idle

theorem State.absRegister_of_unsized (unsized : ¬ (2 ≤ size ∧ size ≤ 4 ∧ 2 ^ size ≤ dbgWidth r)) :
    s.absRegister h r isWrite size = { a with dbg.cmderr := 2 } := by
  subst settled
  have free : ¬ s.absSettle.dbg.abs.isSome = true := by rw [idle]; decide
  exact (if_neg (not_not_intro clear)).trans ((if_neg free).trans
    ((if_pos (by omega)).trans (State.cmdFail_of_clear clear 2)))

variable (sized : 2 ≤ size ∧ size ≤ 4 ∧ 2 ^ size ≤ dbgWidth r)
include sized

theorem State.absRegister_of_unable (unable : ¬ a.absHart h = true) :
    s.absRegister h r isWrite size = { a with dbg.cmderr := 4 } := by
  subst settled
  have free : ¬ s.absSettle.dbg.abs.isSome = true := by rw [idle]; decide
  exact (if_neg (not_not_intro clear)).trans ((if_neg free).trans ((if_neg (by omega)).trans
    ((if_pos (by rw [Bool.eq_false_iff.mpr unable]; rfl)).trans (State.cmdFail_of_clear clear 4))))

/-- The register is there for the debugger. -/
def World.dbgHas (w : World) (r : DbgReg) (isWrite : Bool) : Bool :=
  match r with | .csr c => w.dbgCsr c.toNat isWrite | _ => true

/-- A register as the debugger reads it. -/
def State.dbgRegGet (s : State) (h : Nat) (r : DbgReg) : Nat :=
  match r with
  | .gpr i => ((s.hart h).w.xr i.val).toNat
  | .fpr i => ((s.hart h).w.fr i.val).toNat
  | .csr c => s.dbgCsrGet h c.toNat

/-- A register as the debugger writes it. -/
def State.dbgRegPut (s : State) (h : Nat) (r : DbgReg) (v : Nat) : State :=
  match r with
  | .gpr i => s.setX h i.val (BitVec.ofNat 64 v)
  | .fpr i => s.updHart h fun x => { x with w := (x.w.setFr i.val (BitVec.ofNat 128 v)).dirty 13 }
  | .csr c => s.dbgCsrPut h c.toNat (BitVec.ofNat 64 v)

variable (able : a.absHart h = true)
include able

/-- A command past its guards: the register is absent, is read, or is written. -/
theorem State.absRegister_of_able : s.absRegister h r isWrite size =
    if !(a.hart h).w.dbgHas r isWrite then { a with dbg.cmderr := 3 }
    else if !isWrite then a.setDbgData 0 (2 ^ size) (a.dbgRegGet h r % 2 ^ (8 * 2 ^ size))
    else
      let low := a.dbgData % 2 ^ (8 * 2 ^ size)
      if 2 ^ size = dbgWidth r then a.dbgRegPut h r low
      else a.fresh.2.dbgRegPut h r (low + a.fresh.1 <<< (8 * 2 ^ size)) := by
  subst settled
  have free : ¬ s.absSettle.dbg.abs.isSome = true := by rw [idle]; decide
  rw [← State.cmdFail_of_clear clear 3]
  refine (if_neg (not_not_intro clear)).trans ((if_neg free).trans ((if_neg (by omega)).trans
    ((if_neg (by rw [able]; decide)).trans ?_)))
  unfold World.dbgHas State.dbgRegGet State.dbgRegPut
  cases isWrite with
  | false => cases r <;> rfl
  | true =>
    by_cases full : 2 ^ size = dbgWidth r
    · rw [if_pos full]
      cases r <;> simp [full]
    · rw [if_neg full]
      cases r <;> simp [full]

/-- An absent CSR, or one barred to the debugger, fails with 3. -/
theorem State.absRegister_of_absent (absent : (a.hart h).w.dbgHas r isWrite = false) :
    s.absRegister h r isWrite size = { a with dbg.cmderr := 3 } :=
  (State.absRegister_of_able settled clear idle sized able).trans (if_pos (by rw [absent]; rfl))

theorem State.absRegister_read (has : (a.hart h).w.dbgHas r false = true) :
    s.absRegister h r false size = a.setDbgData 0 (2 ^ size) (a.dbgRegGet h r % 2 ^ (8 * 2 ^ size)) :=
  (State.absRegister_of_able settled clear idle sized able).trans ((if_neg (by rw [has]; decide)).trans (if_pos rfl))

theorem State.absRegister_writeWhole (has : (a.hart h).w.dbgHas r true = true) (whole : 2 ^ size = dbgWidth r) :
    s.absRegister h r true size = a.dbgRegPut h r (a.dbgData % 2 ^ (8 * dbgWidth r)) := by
  rw [← whole]
  exact (State.absRegister_of_able settled clear idle sized able).trans ((if_neg (by rw [has]; decide)).trans
    ((if_neg (by decide)).trans (if_pos whole)))

/-- A write of part of a register leaves the rest free. -/
theorem State.absRegister_writePart (has : (a.hart h).w.dbgHas r true = true) (part : 2 ^ size ≠ dbgWidth r) :
    s.absRegister h r true size =
      a.fresh.2.dbgRegPut h r (a.dbgData % 2 ^ (8 * 2 ^ size) + a.fresh.1 <<< (8 * 2 ^ size)) :=
  (State.absRegister_of_able settled clear idle sized able).trans ((if_neg (by rw [has]; decide)).trans
    ((if_neg (by decide)).trans (if_neg part)))

end Register

/-- Reducing a number to the width of a word first leaves the word the same. -/
theorem ofNat_mod_width (w x : Nat) : BitVec.ofNat w (x % 2 ^ w) = BitVec.ofNat w x :=
  BitVec.eq_of_toNat_eq (by rw [BitVec.toNat_ofNat, BitVec.toNat_ofNat, Nat.mod_mod])

section Memory
variable {s a u : State} {h n : Nat} {pa : Addr} {isWrite : Bool} (settled : s.absSettle = a)
include settled

theorem State.absMemory_of_error (error : a.dbg.cmderr ≠ 0) : s.absMemory h pa n isWrite = a := by
  subst settled
  exact if_pos error

variable (clear : a.dbg.cmderr = 0)
include clear

/-- While a read is outstanding, a command finds the module busy. -/
theorem State.absMemory_of_busy (busy : a.dbg.abs ≠ none) : s.absMemory h pa n isWrite = { a with dbg.cmderr := 1 } := by
  subst settled
  exact (if_neg (not_not_intro clear)).trans ((if_pos (Option.isSome_iff_ne_none.mpr busy)).trans
    (State.cmdFail_of_clear clear 1))

variable (idle : a.dbg.abs = none)
include idle

theorem State.absMemory_of_unable (unable : ¬ a.absHart h = true) :
    s.absMemory h pa n isWrite = { a with dbg.cmderr := 4 } := by
  subst settled
  have free : ¬ s.absSettle.dbg.abs.isSome = true := by rw [idle]; decide
  exact (if_neg (not_not_intro clear)).trans ((if_neg free).trans
    ((if_pos (by rw [Bool.eq_false_iff.mpr unable]; rfl)).trans (State.cmdFail_of_clear clear 4)))

/-- What a memory access past its guards issues, by the route of its address. -/
def State.absIssue (u : State) (h : Nat) (pa : Addr) (n : Nat) (isWrite : Bool) : State :=
  let val := BitVec.ofNat 128 (u.dbgData % 2 ^ (8 * n))
  match routeOf pa.toNat .pma with
  | .hole => u.cmdFail 5
  | .cached =>
    let v := u.tagCheck h (pa.toNat / 64)
    if isWrite then (v.addAcc h { kind := .store, id := 0, pa := pa, size := n, val := val }).pump h
    else (({ v with dbg.abs := some (h, n) } : State).addAcc h { kind := .load, id := 0, pa := pa, size := n, rd := 192 }).pump h
  | r =>
    if pa.toNat % n ≠ 0 then u.cmdFail 5
    else if isWrite then
      (u.addIo h { isLoad := false, dst := u.ioDest pa.toNat, pa := pa, size := n, val := val, t := u.timer (h / 32) 2
                   window := r == .window }).pump h
    else (({ u with dbg.abs := some (h, n) } : State).addIo h
      { isLoad := true, dst := u.ioDest pa.toNat, pa := pa, size := n, rd := 192, t := u.timer (h / 32) 2
        window := r == .window }).pump h

theorem State.absMemory_of_able (able : a.absHart h = true)
    (issued : (a.updHart h fun x => { x with stitch := x.stitch + 1 }) = u) :
    s.absMemory h pa n isWrite = u.absIssue h pa n isWrite := by
  subst settled
  have free : ¬ s.absSettle.dbg.abs.isSome = true := by rw [idle]; decide
  refine (if_neg (not_not_intro clear)).trans ((if_neg free).trans ((if_neg (by rw [able]; decide)).trans ?_))
  rw [issued]
  rfl

end Memory

section Issue
variable {u : State} {h n : Nat} {pa : Addr} {isWrite : Bool}

/-- The access a debugger makes by a route of I/O. -/
def State.absIo (u : State) (h : Nat) (pa : Addr) (n : Nat) (isLoad : Bool) (r : Route) : IoAcc :=
  { isLoad := isLoad, dst := u.ioDest pa.toNat, pa := pa, size := n, t := u.timer (h / 32) 2, window := r == .window }

theorem State.absIssue_hole (route : routeOf pa.toNat .pma = .hole) : u.absIssue h pa n isWrite = u.cmdFail 5 := by
  unfold State.absIssue
  rw [route]

theorem State.absIssue_cached (route : routeOf pa.toNat .pma = .cached) {v : State} (checked : u.tagCheck h (pa.toNat / 64) = v) :
    u.absIssue h pa n isWrite =
      if isWrite then (v.addAcc h { kind := .store, id := 0, pa := pa, size := n, val := BitVec.ofNat 128 (u.dbgData % 2 ^ (8 * n)) }).pump h
      else (({ v with dbg.abs := some (h, n) } : State).addAcc h { kind := .load, id := 0, pa := pa, size := n, rd := 192 }).pump h := by
  subst checked
  unfold State.absIssue
  rw [route]

theorem State.absIssue_io {r : Route} (route : routeOf pa.toNat .pma = r) (there : r ≠ .hole) (uncached : r ≠ .cached) :
    u.absIssue h pa n isWrite =
      if pa.toNat % n ≠ 0 then u.cmdFail 5
      else if isWrite then
        (u.addIo h { u.absIo h pa n false r with val := BitVec.ofNat 128 (u.dbgData % 2 ^ (8 * n)) }).pump h
      else (({ u with dbg.abs := some (h, n) } : State).addIo h { u.absIo h pa n true r with rd := 192 }).pump h := by
  unfold State.absIssue
  rw [route]
  cases r with
  | hole => exact absurd rfl there
  | cached => exact absurd rfl uncached
  | nc => rfl
  | io => rfl
  | window => rfl

end Issue

/-! ### The obligation -/

/-- Settles O57: each request and command is one of the cases above. -/
theorem haltAndAbstractCommands : Obligations.HaltAndAbstractCommands := by
  unfold Obligations.HaltAndAbstractCommands
  refine ⟨fun h s hidden => congrArg Host.Outcome.next (State.haltReq_of_hidden hidden), ?halts, ?resumes, ?registers, ?memory,
    fun s => ⟨fun seen => congrArg Host.Outcome.next (if_pos seen), fun hidden => congrArg Host.Outcome.next (if_neg (by rw [hidden]; decide))⟩⟩
  case halts =>
    intro h s seen runs waits
    refine ⟨_, congrArg Host.Outcome.next (State.haltReq_of_running seen runs waits),
      fun k other => State.halt_haltPending_other other, State.halt_mode 3, State.halt_haltReq 3, fun plain => ?_⟩
    have world := State.halt_haltPending_world plain
    have dcsr : (((s.haltPending h.num).halt h.num 3).hart h.num).w.csrVal 0x7B0 = (s.hart h.num).w.haltDcsr 3 := by
      rw [world, World.csrVal_setCsr, if_pos rfl]
    refine ⟨?_, ?_, ?_, ?_, ?_, ?_, ?_⟩
    · rw [HartSt.pocket, world, World.csrVal_setCsr, if_neg (by decide)]; rfl
    · rw [world]; rfl
    · intro i; rw [world]; rfl
    · intro i; rw [world]; rfl
    · rw [dcsr, World.haltDcsr_cause _ (by decide)]
    · intro mode; rw [dcsr, World.haltDcsr_priv _ _ mode]
    · intro n other; rw [world, World.csrVal_setCsr, if_neg other]
  case resumes =>
    intro h s
    exact ⟨fun other => congrArg Host.Outcome.next (State.resumeReq_of_other other),
      fun halted => congrArg Host.Outcome.next (State.resumeReq_of_halted halted rfl)⟩
  case registers =>
    intro h r isWrite size s a k w n wide sized able cmd
    have settled : s.absSettle = a := rfl
    refine ⟨fun error => congrArg Host.Outcome.next (State.absRegister_of_error settled error), fun clear idle =>
      ⟨fun unsized => congrArg Host.Outcome.next (State.absRegister_of_unsized settled clear idle unsized),
      fun fits unable => congrArg Host.Outcome.next
        (State.absRegister_of_unable settled clear idle fits (mt State.absHart_iff.mp unable)), fun fits fit => ?_⟩⟩
    have acts : a.absHart k = true := State.absHart_iff.mpr fit
    refine ⟨?absent, ?readGpr, ?readFpr, ?readCsr, ?writeGpr, ?writeFpr, ?writeCsr, ?part⟩
    case absent =>
      rintro c rfl absent
      exact congrArg Host.Outcome.next (State.absRegister_of_absent settled clear idle fits acts absent)
    case readGpr =>
      rintro rfl i rfl
      exact congrArg Host.Outcome.next (State.absRegister_read settled clear idle fits acts rfl)
    case readFpr =>
      rintro rfl i rfl
      exact congrArg Host.Outcome.next (State.absRegister_read settled clear idle fits acts rfl)
    case readCsr =>
      rintro rfl c rfl has
      exact congrArg Host.Outcome.next (State.absRegister_read settled clear idle fits acts has)
    case writeGpr =>
      rintro rfl whole i rfl
      rw [← ofNat_mod_width]
      exact congrArg Host.Outcome.next (State.absRegister_writeWhole settled clear idle fits acts rfl (by rw [whole]; rfl))
    case writeFpr =>
      rintro rfl whole i rfl
      rw [← ofNat_mod_width 128]
      exact congrArg Host.Outcome.next (State.absRegister_writeWhole settled clear idle fits acts rfl (by rw [whole]; rfl))
    case writeCsr =>
      rintro rfl whole c rfl has
      rw [← ofNat_mod_width]
      exact congrArg Host.Outcome.next (State.absRegister_writeWhole settled clear idle fits acts has (by rw [whole]; rfl))
    case part =>
      rintro rfl half i rfl
      have partly : 2 ^ size.toNat ≠ dbgWidth (.gpr i) := by rw [half]; exact show 4 ≠ 8 by decide
      have bits : 8 * 2 ^ size.toNat = 32 := by rw [half]; rfl
      have written := State.absRegister_writePart settled clear idle fits acts rfl partly
      rw [bits] at written
      exact congrArg Host.Outcome.next written
  case memory =>
    intro h pa size isWrite s a k n able cmd u val
    have settled : s.absSettle = a := rfl
    refine ⟨fun error => congrArg Host.Outcome.next (State.absMemory_of_error settled error),
      fun clear busy => congrArg Host.Outcome.next (State.absMemory_of_busy settled clear busy), fun clear idle => ?_⟩
    have issues (fit : able) : exec cmd s = .next (u.absIssue k pa n isWrite) := congrArg Host.Outcome.next
      (State.absMemory_of_able settled clear idle (State.absHart_iff.mpr fit) rfl)
    have error : u.cmdFail 5 = { u with dbg.cmderr := 5 } := State.cmdFail_of_clear (s := u) clear 5
    refine ⟨fun unable => congrArg Host.Outcome.next
      (State.absMemory_of_unable settled clear idle (mt State.absHart_iff.mp unable)), ?hole, ?cached, ?io⟩
    case hole =>
      intro fit route
      rw [issues fit, State.absIssue_hole route, error]
    case cached =>
      intro fit route v
      rw [issues fit, State.absIssue_cached route (rfl : _ = v)]
      exact ⟨fun write => by rw [if_pos write], fun read => by rw [if_neg (by rw [read]; decide)]⟩
    case io =>
      intro r fit route there uncached acc
      rw [issues fit, State.absIssue_io route there uncached, error]
      refine ⟨fun misaligned => by rw [if_pos misaligned], fun aligned write => ?_, fun aligned read => ?_⟩
      · subst write
        rw [if_neg (not_not_intro aligned), if_pos rfl]
        rfl
      · subst read
        rw [if_neg (not_not_intro aligned), if_neg (by decide)]
        rfl

end Sys2Proof.Machine
end
